-- ==== Sys2Proof/Word.lean ====
section
/-! DEFINITION. Word widths of the SK7192: registers are 32 bits (R14), bytes 8, core vector lanes 16,
fold bins and accumulator lanes 40, lanyard time 64 (R8). -/

namespace Sys2Proof

/-- A register value or a core scalar (R14). -/
abbrev Word := BitVec 32
/-- A byte of a memory. -/
abbrev Byte := BitVec 8
/-- A vector lane of a reduction core. -/
abbrev Half := BitVec 16
/-- A fold bin or an accumulator lane. -/
abbrev Bin40 := BitVec 40
/-- Lanyard time, in 1/256 tick (R8). -/
abbrev Time := BitVec 64

end Sys2Proof
end

