-- ==== Sys2Proof/Inputs.lean ====
section
/-! DEFINITION. Types of the commands' operands: who sends a register access, and what the world outside the
digital logic delivers with an event (an input voltage, the outcome of an error check). -/

namespace Sys2Proof

/-- A reduction core, C00 to C11. -/
abbrev CoreId := Fin 12
/-- A fast channel, FC000 to FC191. -/
abbrev ChanId := Fin 192
/-- A strand, S00 to S63. -/
abbrev StrandId := Fin 64
/-- A probe port, P00 to P15. -/
abbrev PortId := Fin 16
/-- A precision channel, PC00 to PC23. -/
abbrev PcId := Fin 24

/-- Sources of register accesses (R23, R451): the host port, the hawser, the maintenance UART, a core. -/
inductive Source where
  | host | hawser | uart
  | core (c : CoreId)
  deriving DecidableEq, Repr

/-- Outcome of the error check of a memory word as it is read (R86, R101, R102, R271). An error of three or more bits is
reported as uncorrectable, or as a corrected word that is not the word stored (`miscorrected`), or passes as a valid word
(`passed`). -/
inductive Ecc where
  | ok | corrected | uncorrectable | miscorrected | passed
  deriving DecidableEq, Repr

/-- The word read is the word stored. -/
def Ecc.intact : Ecc → Bool
  | .ok | .corrected => true
  | .uncorrectable | .miscorrected | .passed => false

/-- The check reports a corrected error. -/
def Ecc.ce : Ecc → Bool
  | .corrected | .miscorrected => true
  | .ok | .uncorrectable | .passed => false

/-- The check reports an uncorrectable error. -/
def Ecc.ue : Ecc → Bool
  | .uncorrectable => true
  | .ok | .corrected | .miscorrected | .passed => false

/-- What one fast channel meets in one tick. -/
structure ChanIn where
  chan : ChanId
  /-- V_diff at the pins, in nV: at the sampling instant, or with FC_CTRL.AAF = 0, whose group delay is half a tick, that
  delay before it (R59, R62) -/
  vdiff : Int
  /-- gain error, offset and noise of the chain, in nV at the PGA output -/
  err : Int
  /-- comparator input minus PGA output, in nV: the comparators tap the PGA ahead of the anti-alias filter, with a
  response time of their own (R231, R245) -/
  cmp : Int
  /-- the PGA overload detector fires (R73) -/
  ovl : Bool
  /-- the sample's tile-bundle frame is uncorrectable (R20) -/
  badFrame : Bool
  /-- the channel's held or working values read with an uncorrectable error (R411) -/
  calUe : Bool
  /-- outcome of the read of the bin the sample is folded into (R101, R102) -/
  ecc : Ecc
  deriving DecidableEq, Repr

/-- Address mode of an M-format instruction with its operands (Table 12.3). -/
inductive Mem where
  /-- mode 0: [sP + x] -/
  | off (x : BitVec 12)
  /-- mode 1: [sP]+x -/
  | post (x : BitVec 12)
  /-- mode 2: [sP@agK]+x -/
  | circ (k : BitVec 2) (x : BitVec 12)
  /-- mode 3: [sP@agK]+sQ -/
  | circReg (k : BitVec 2) (q : BitVec 5)
  deriving DecidableEq, Repr

/-- Count of a REP (R262): an immediate or a register. -/
inductive RepCount where
  | imm (n : BitVec 12)
  | reg (a : BitVec 5)
  deriving DecidableEq, Repr

/-- Voltages at the pins of a precision channel (Table 8.1), in nV. -/
structure PcPins where
  pinP : Int
  pinN : Int
  snsP : Int
  snsN : Int
  excP : Int
  excN : Int
  iexA : Int
  iexB : Int
  deriving DecidableEq, Repr

/-- What a precision channel meets over a result period: means of its voltages, in nV, and what its chain makes of them. -/
structure PcIn where
  pins : PcPins
  /-- REFB; RINT under the selected source; the die temperature sensor; the driver supply (Table 8.7) -/
  refB : Int
  rint : Int
  temp : Int
  supply : Int
  /-- departure of the filter output, scaled to the full range, from 2³¹ × V_in ÷ V_ref: offset, gain error, noise and clipping
  of the chain, of the attenuator and of REFA (R204, R210, R214) -/
  err : Int
  /-- the modulator overloaded in the period (R212) -/
  ovr : Bool
  /-- mean driver current in 10 nA (R197) -/
  current : Nat
  deriving DecidableEq, Repr

/-- One monitor sample of one precision channel (R196, R201). -/
structure PcMon where
  pins : PcPins
  /-- driver current in 10 nA -/
  current : Nat
  /-- driver in its current limit -/
  ilim : Bool
  deriving DecidableEq, Repr

/-- What an internal calibration run measures (R224): offsets per gain code in XE units, gain corrections in
2⁻²⁴, source currents in nA (empty for VOLT types), attenuator ratio in 2⁻²⁴. -/
structure IcalIn where
  off : List Int
  gain : List Int
  cur : List Int
  att : Option Int
  deriving DecidableEq, Repr

/-- A launch of a port, and the outcomes of the reads of the closed planes' quality maps that are not clean (R94, R101): channel,
map word, outcome. -/
structure LaunchIn where
  port : PortId
  errs : List (ChanId × Nat × Ecc)
  deriving DecidableEq, Repr

/-- A core whose haul engine begins a descriptor; `piece`: bins a library kernel put into it (R302). -/
structure HaulStart where
  core : CoreId
  piece : Nat
  deriving DecidableEq, Repr

/-- What a fold bank did while a haul ran (R104): the sub-banks others took, by tick of the haul, and the lengths of the haul's
turns but the last, in groups of 8 bins. -/
structure BankUse where
  taken : List (Nat × Nat)
  turns : List Nat
  deriving DecidableEq, Repr

/-- A pin of a precision channel and its voltage in nV (Table 8.6). -/
structure PinVolt where
  pin : BitVec 3
  v : Int
  deriving DecidableEq, Repr

/-- A GRANT frame (R462), and how long after the REQUEST it came, in µs. -/
structure GrantIn where
  cls : BitVec 2
  after : Nat
  deriving DecidableEq, Repr

/-- A frame that is discarded: on the maintenance UART, or on the host port with the RS-FEC codewords corrected, and not
correctable, since the frame before (R348). -/
structure RxBad where
  uart : Bool
  fecCe : Nat
  fecUe : Nat
  deriving DecidableEq, Repr

/-- What the tests of R321, R324 and R326 read of the datagram a Tilvar command came in. -/
structure RxHead where
  dstMac : BitVec 48
  dstIp : Word
  ihl : BitVec 4
  moreFrags : Bool
  fragOff : BitVec 13
  protocol : Byte
  dstPort : Half
  /-- the FCS and the header checksum are correct; the UDP checksum is zero or correct -/
  fcsOk : Bool
  sumOk : Bool
  udpOk : Bool
  /-- it carries a whole Tilvar header, with this MAGIC, VERSION and FLAGS -/
  whole : Bool
  magic : Half
  version : Byte
  flags : Half
  /-- RS-FEC codewords the port corrected, and could not correct, since the frame before (R348) -/
  fecCe : Nat
  fecUe : Nat
  deriving DecidableEq, Repr

/-- How a Tilvar command reached the device: through the host port in a datagram, with the sender's addresses and the header's
SESSION, ORIGIN and SEQ, or in a frame of the maintenance UART with its TAG (R443). -/
inductive Via where
  | host (h : RxHead) (mac : BitVec 48) (ip : Word) (port : Half) (session : Byte) (origin : Byte) (seq : Word)
  | uart (tag : Byte)
  deriving DecidableEq, Repr

/-- One Tilvar datagram: its header (Table 14.3) and its segment. -/
structure Datagram where
  ty : Nat
  origin : Nat
  session : Nat
  flags : Nat
  seq : Nat
  msgno : Nat
  mlen : Nat
  offset : Nat
  seg : List Byte
  deriving DecidableEq, Repr

/-- A hawser port. -/
inductive HwPort where
  | a | b
  deriving DecidableEq, Repr

/-- Payload of a frame with a link sequence number (Table 15.2). -/
inductive HwBody where
  /-- DATA and CMD -/
  | tilvar (d : Datagram)
  /-- TOPO: COUNT (R350) -/
  | topo (count : Int)
  /-- TOPO_ACK: position, incarnation number, POS_CONFLICT, the broken segment it is marked BREAK for (R350, R351, R362) -/
  | topoAck (pos incarn : Nat) (conflict : Bool) (brk : Option Nat)
  deriving DecidableEq, Repr

/-- A DATA, CMD, TOPO or TOPO_ACK frame (Table 15.2). -/
structure HwFrame where
  ty : Nat
  /-- PATH B -/
  pathB : Bool
  replay : Bool
  src : Nat
  dst : Nat
  lseq : Nat
  rseq : Nat
  ccrc : Word
  body : HwBody
  deriving DecidableEq, Repr

/-- An LNY frame of an exchange (R368). Times in 1/4,096 tick. -/
inductive LnyIn where
  /-- the neighbour's frame, which it sent at its time t1, arrives at t2; the answer leaves at t3 -/
  | ask (t1 t2 t3 : Int)
  /-- the neighbour's answer: the four times, its HOPS and the ASYM of its port in ps, and how far the head's lanyard time,
  as seen in LNY, departs from the device's own -/
  | answer (t1 t2 t3 t4 : Int) (hops : Nat) (asym : Int) (apart : Int)
  deriving DecidableEq, Repr

end Sys2Proof
end

