-- ==== Sys2Proof/Syntax.lean ====
section
/-! DEFINITION. The commands of the SK7192: one constructor per row of spec/opcode_table.json, in the table's
order, with the operands its rule gives it. A core instruction names the core that issues it; an event names
the instance it happens on, and carries what the world outside the digital logic delivers with it. -/

namespace Sys2Proof

/-- A command. -/
inductive Instr where
  /-- ADD (R286). Scalar add of two registers, modulo 2^32. -/
  | add (c : CoreId) (d a b : BitVec 5)
  /-- SUB (R286). Scalar subtract of two registers, modulo 2^32. -/
  | sub (c : CoreId) (d a b : BitVec 5)
  /-- AND (R286). Scalar bitwise AND of two registers. -/
  | and (c : CoreId) (d a b : BitVec 5)
  /-- OR (R286). Scalar bitwise OR of two registers. -/
  | or (c : CoreId) (d a b : BitVec 5)
  /-- XOR (R286). Scalar bitwise XOR of two registers. -/
  | xor (c : CoreId) (d a b : BitVec 5)
  /-- SHL (R286). Scalar shift left by a register count. -/
  | shl (c : CoreId) (d a b : BitVec 5)
  /-- SHR (R286). Scalar logical shift right by a register count. -/
  | shr (c : CoreId) (d a b : BitVec 5)
  /-- SRA (R286). Scalar arithmetic shift right by a register count. -/
  | sra (c : CoreId) (d a b : BitVec 5)
  /-- SHLI (R286). Scalar shift left by an immediate count. -/
  | shli (c : CoreId) (d a : BitVec 5) (sh : BitVec 5)
  /-- SHRI (R286). Scalar logical shift right by an immediate count. -/
  | shri (c : CoreId) (d a : BitVec 5) (sh : BitVec 5)
  /-- SRAI (R286). Scalar arithmetic shift right by an immediate count. -/
  | srai (c : CoreId) (d a : BitVec 5) (sh : BitVec 5)
  /-- SLT (R286). Sets a register to 1 when one register is less than another, signed. -/
  | slt (c : CoreId) (d a b : BitVec 5)
  /-- SLTU (R286). Sets a register to 1 when one register is less than another, unsigned. -/
  | sltu (c : CoreId) (d a b : BitVec 5)
  /-- MIN (R286). Signed minimum of two scalar registers. -/
  | min (c : CoreId) (d a b : BitVec 5)
  /-- MAX (R286). Signed maximum of two scalar registers. -/
  | max (c : CoreId) (d a b : BitVec 5)
  /-- MUL (R286). Low 32 bits of a scalar product, readable three cycles later. -/
  | mul (c : CoreId) (d a b : BitVec 5)
  /-- ADDI (R286). Scalar add of a sign-extended immediate. -/
  | addi (c : CoreId) (d a : BitVec 5) (imm : BitVec 16)
  /-- ANDI (R286). Scalar AND with a zero-extended immediate. -/
  | andi (c : CoreId) (d a : BitVec 5) (imm : BitVec 16)
  /-- ORI (R286). Scalar OR with a zero-extended immediate. -/
  | ori (c : CoreId) (d a : BitVec 5) (imm : BitVec 16)
  /-- XORI (R286). Scalar XOR with a zero-extended immediate. -/
  | xori (c : CoreId) (d a : BitVec 5) (imm : BitVec 16)
  /-- SLTI (R286). Sets a register to 1 when a register is less than a signed immediate. -/
  | slti (c : CoreId) (d a : BitVec 5) (imm : BitVec 16)
  /-- LUI (R286). Loads an immediate into the upper half of a scalar register. -/
  | lui (c : CoreId) (d : BitVec 5) (imm : BitVec 16)
  /-- LDB (R288). Loads a sign-extended byte with the addressing mode and post-update of R287. -/
  | ldb (c : CoreId) (t p : BitVec 5) (m : Mem) (ecc : Ecc)
  /-- LDBU (R288). Loads a zero-extended byte. -/
  | ldbu (c : CoreId) (t p : BitVec 5) (m : Mem) (ecc : Ecc)
  /-- LDH (R288). Loads a sign-extended halfword. -/
  | ldh (c : CoreId) (t p : BitVec 5) (m : Mem) (ecc : Ecc)
  /-- LDHU (R288). Loads a zero-extended halfword. -/
  | ldhu (c : CoreId) (t p : BitVec 5) (m : Mem) (ecc : Ecc)
  /-- LDW (R288). Loads a word, the only load that may read the register window, stopping issue until its answer arrives. -/
  | ldw (c : CoreId) (t p : BitVec 5) (m : Mem) (ecc : Ecc)
  /-- STB (R288). Stores the low byte of a register. -/
  | stb (c : CoreId) (t p : BitVec 5) (m : Mem)
  /-- STH (R288). Stores the low halfword of a register. -/
  | sth (c : CoreId) (t p : BitVec 5) (m : Mem)
  /-- STW (R288). Stores a word, the only store that may post a register-window write. -/
  | stw (c : CoreId) (t p : BitVec 5) (m : Mem)
  /-- VLD (R288). Loads 16 halfwords into a vector register. -/
  | vld (c : CoreId) (t : BitVec 4) (p : BitVec 5) (m : Mem) (ecc : Ecc)
  /-- VST (R288). Stores a vector register as 16 halfwords. -/
  | vst (c : CoreId) (t : BitVec 4) (p : BitVec 5) (m : Mem)
  /-- CADD (R288). Performs a circular pointer post-update without an access. -/
  | cadd (c : CoreId) (p : BitVec 5) (m : Mem)
  /-- VADD (R289). Saturating lane-wise vector addition. -/
  | vadd (c : CoreId) (d a b : BitVec 4)
  /-- VSUB (R289). Saturating lane-wise vector subtraction. -/
  | vsub (c : CoreId) (d a b : BitVec 4)
  /-- VADDS (R289). Adds a broadcast scalar to every lane, saturating. -/
  | vadds (c : CoreId) (d a : BitVec 4) (b : BitVec 5)
  /-- VMIN (R289). Lane-wise signed minimum. -/
  | vmin (c : CoreId) (d a b : BitVec 4)
  /-- VMAX (R289). Lane-wise signed maximum. -/
  | vmax (c : CoreId) (d a b : BitVec 4)
  /-- VABS (R289). Lane-wise saturating absolute value. -/
  | vabs (c : CoreId) (d a : BitVec 4)
  /-- VAND (R289). Lane-wise bitwise AND. -/
  | vand (c : CoreId) (d a b : BitVec 4)
  /-- VOR (R289). Lane-wise bitwise OR. -/
  | vor (c : CoreId) (d a b : BitVec 4)
  /-- VXOR (R289). Lane-wise bitwise XOR. -/
  | vxor (c : CoreId) (d a b : BitVec 4)
  /-- VSHLI (R289). Lane-wise saturating shift left by an immediate. -/
  | vshli (c : CoreId) (d a : BitVec 4) (sh : BitVec 4)
  /-- VSRAI (R289). Lane-wise arithmetic shift right by an immediate. -/
  | vsrai (c : CoreId) (d a : BitVec 4) (sh : BitVec 4)
  /-- VBC (R289). Broadcasts a scalar halfword to every lane. -/
  | vbc (c : CoreId) (d : BitVec 4) (a : BitVec 5)
  /-- VGET (R289). Moves one lane to a scalar register, sign-extended. -/
  | vget (c : CoreId) (d : BitVec 5) (a : BitVec 4) (lane : BitVec 4)
  /-- VPUT (R289). Writes a scalar halfword into one lane. -/
  | vput (c : CoreId) (d : BitVec 4) (a : BitVec 5) (lane : BitVec 4)
  /-- VCGT (R289). Forms a lane mask of signed greater-than between two vectors. -/
  | vcgt (c : CoreId) (d : BitVec 5) (a b : BitVec 4)
  /-- VCGTS (R289). Forms a lane mask of signed greater-than against a scalar. -/
  | vcgts (c : CoreId) (d : BitVec 5) (a : BitVec 4) (b : BitVec 5)
  /-- VMOV (R289). Copies a vector register. -/
  | vmov (c : CoreId) (d a : BitVec 4)
  /-- VMUL (R290). Writes lane-wise products into an accumulator. -/
  | vmul (c : CoreId) (d : BitVec 3) (a b : BitVec 4)
  /-- VMAC (R290). Adds lane-wise products into an accumulator. -/
  | vmac (c : CoreId) (d : BitVec 3) (a b : BitVec 4)
  /-- VMSC (R290). Subtracts lane-wise products from an accumulator. -/
  | vmsc (c : CoreId) (d : BitVec 3) (a b : BitVec 4)
  /-- VMACS (R290). Adds products with a broadcast scalar into an accumulator. -/
  | vmacs (c : CoreId) (d : BitVec 3) (a : BitVec 4) (b : BitVec 5)
  /-- VADDA (R290). Adds a vector into an accumulator. -/
  | vadda (c : CoreId) (d : BitVec 3) (a : BitVec 4)
  /-- VSUBA (R290). Subtracts a vector from an accumulator. -/
  | vsuba (c : CoreId) (d : BitVec 3) (a : BitVec 4)
  /-- ACLR (R290). Clears an accumulator. -/
  | aclr (c : CoreId) (d : BitVec 3)
  /-- VNRW (R290). Narrows accumulator lanes to a vector with shift, rounding and saturation. -/
  | vnrw (c : CoreId) (d : BitVec 4) (a : BitVec 3) (sh : BitVec 5)
  /-- ASUM (R290). Sums accumulator lanes into a scalar with shift and rounding. -/
  | asum (c : CoreId) (d : BitVec 5) (a : BitVec 3) (sh : BitVec 5)
  /-- AMOVL (R290). Moves accumulator bits 15:0 to a vector. -/
  | amovl (c : CoreId) (d : BitVec 4) (a : BitVec 3)
  /-- AMOVH (R290). Moves accumulator bits 31:16 to a vector. -/
  | amovh (c : CoreId) (d : BitVec 4) (a : BitVec 3)
  /-- AMOVX (R290). Moves sign-extended accumulator bits 39:32 to a vector. -/
  | amovx (c : CoreId) (d : BitVec 4) (a : BitVec 3)
  /-- ASET (R290). Assembles an accumulator from three vector registers. -/
  | aset (c : CoreId) (d : BitVec 3) (a b x : BitVec 4)
  /-- VDMAC (R291). Dual-stream multiply-accumulate of a vector stream by a coefficient stream with circular updates. -/
  | vdmac (c : CoreId) (d : BitVec 3) (p1 : BitVec 5) (k1 : BitVec 2) (p2 : BitVec 5) (k2 : BitVec 2) (q : BitVec 5) (neg : Bool) (ecc : Ecc × Ecc)
  /-- BEQ (R292). Branches when two registers are equal, with two delay slots. -/
  | beq (c : CoreId) (a b : BitVec 5) (target : BitVec 15)
  /-- BNE (R292). Branches when two registers differ. -/
  | bne (c : CoreId) (a b : BitVec 5) (target : BitVec 15)
  /-- BLT (R292). Branches when less, signed. -/
  | blt (c : CoreId) (a b : BitVec 5) (target : BitVec 15)
  /-- BGE (R292). Branches when greater or equal, signed. -/
  | bge (c : CoreId) (a b : BitVec 5) (target : BitVec 15)
  /-- BLTU (R292). Branches when less, unsigned. -/
  | bltu (c : CoreId) (a b : BitVec 5) (target : BitVec 15)
  /-- BGEU (R292). Branches when greater or equal, unsigned. -/
  | bgeu (c : CoreId) (a b : BitVec 5) (target : BitVec 15)
  /-- JMP (R292). Branches always to an absolute address. -/
  | jmp (c : CoreId) (target : BitVec 15)
  /-- CALL (R292). Branches and writes the return address to s31. -/
  | call (c : CoreId) (target : BitVec 15)
  /-- JR (R292). Branches to the address in a register. -/
  | jr (c : CoreId) (a : BitVec 5)
  /-- REP (R262). Repeats the next instruction n times without interrupts. -/
  | rep (c : CoreId) (n : RepCount)
  /-- END (R293). Ends the run; no later instruction issues. -/
  | endRun (c : CoreId)
  /-- RTI (R267). Returns from an interrupt handler, restoring CSTAT and the bank. -/
  | rti (c : CoreId)
  /-- WDK (R279). Clears the core watchdog count. -/
  | wdk (c : CoreId)
  /-- MFS (R293). Reads a special register into a scalar register. -/
  | mfs (c : CoreId) (d n : BitVec 5)
  /-- MTS (R294). Writes a special register, clearing sticky bits where 1 is written. -/
  | mts (c : CoreId) (n a : BitVec 5)
  /-- HQ (R269). Queues a haul descriptor, issuing once the queue has room. -/
  | hq (c : CoreId) (a : BitVec 5)
  /-- HWAIT (R269). Issues once the haul queue is empty and the engine idle. -/
  | hwait (c : CoreId)
  /-- HREL (R276). Releases one plane binding of the run early. -/
  | hrel (c : CoreId) (a : BitVec 5)
  /-- SQ (R277). Queues a product send descriptor, issuing once a send place is free. -/
  | sq (c : CoreId) (a b : BitVec 5)
  /-- REGISTER_WINDOW_ANSWER (R253). The answer to a register-window load arrives and issue resumes. -/
  | registerWindowAnswer (c : CoreId)
  /-- INTERRUPT_ENTRY (R265). A pending enabled interrupt level is taken at an interruptible boundary. -/
  | interruptEntry (c : CoreId)
  /-- TIMER_MATCH (R255). CYC equals TCMP and the TIMER source becomes pending. -/
  | timerMatch (c : CoreId)
  /-- END_RETIRE (R276). END retires; descriptors are cancelled, bindings released and sends released to the link island. -/
  | endRetire (c : CoreId)
  /-- DRAIN_COMPLETE (R277). Every send buffer of the run has been read and the core leaves DRAIN. -/
  | drainComplete (c : CoreId)
  /-- JOB_START (R275). An idle core starts its oldest queued job and initialises s1 to s4 and CSTAT. -/
  | jobStart (c : CoreId) (fetch : Ecc)
  /-- WATCHDOG_EXPIRY (R279). The core watchdog reaches its period and aborts the run. -/
  | watchdogExpiry (c : CoreId)
  /-- HAUL_DESCRIPTOR_BEGIN (R270). The haul engine begins a descriptor, refusing it when invalid. -/
  | haulDescriptorBegin (h : HaulStart)
  /-- HAUL_DESCRIPTOR_END (R269). A haul descriptor ends and its STATUS is written, raising HAUL when requested. -/
  | haulDescriptorEnd (c : CoreId) (errs : List (Nat × Ecc)) (bank : BankUse)
  /-- CORE_CMD_ABORT (R278). Aborts a kernel run by tag or the run in progress, or answers ABORT_LATE. -/
  | coreCmdAbort (src : Source) (c : CoreId) (any : Bool) (tag : Byte)
  /-- CORE_DOOR (R264). A write to CORE_DOOR records the value and makes DOOR pending. -/
  | coreDoor (src : Source) (c : CoreId) (v : Word)
  /-- CORE_IMD_ACCESS (R281). Accesses the IM word at CORE_IMA and advances the address. -/
  | coreImdAccess (src : Source) (c : CoreId) (w : Option Word)
  /-- CORE_DMDAT_ACCESS (R281). Accesses the DM word at CORE_DMADR and advances the address. -/
  | coreDmdatAccess (src : Source) (c : CoreId) (w : Option Word)
  /-- LAUNCH (R43). A probe port makes a launch, firing the pattern and tagging the shot for its strands. -/
  | launch (l : LaunchIn)
  /-- FIRST_GAP_TICK (R125). The first gap tick of a shot is reached. -/
  | firstGapTick (p : PortId)
  /-- SETPOINT_IDLE_STEP (R126). A port that is not launching steps its setpoint every 4,096 ticks. -/
  | setpointIdleStep (p : PortId)
  /-- REPEAT_RUN_START (R160). A repeat gap run starts RPT × 1,000 ticks after the previous one. -/
  | repeatRunStart (i : StrandId)
  /-- QUIET_DECISION (R165). Each channel of a gap run is judged quiet or NOT_QUIET at s + 288. -/
  | quietDecision (i : StrandId)
  /-- GAP_RUN_COMMIT (R161). All results of a gap run are judged and committed at its commit tick. -/
  | gapRunCommit (i : StrandId)
  /-- STACK_CLOSE (R54). The last bin of the stack's last shot is committed and folding stops. -/
  | stackClose (i : StrandId)
  /-- RANGE_EVALUATION (R76). Bight figures are evaluated and the range tracker adjusts FC_GAIN after a stack close. -/
  | rangeEvaluation (ch : ChanId)
  /-- HAND_OVER (R96). At C + 64 the plane passes to HAUL with its header complete. -/
  | handOver (i : StrandId)
  /-- PRESENCE_EVAL (R130). The shot's backscatter presence level is evaluated and the miss count updated. -/
  | presenceEval (i : StrandId)
  /-- MONITOR_ENERGY_EVAL (R133). The monitor photodiode energy of a shot is evaluated and judged. -/
  | monitorEnergyEval (p : PortId)
  /-- DERATING_UPDATE (R128). The setpoint ceiling is recomputed after a valid derating result arrives. -/
  | deratingUpdate (p : PortId)
  /-- STRAND_START (R49). A write of RUN = 1 checks the strand and fixes its start tick or fails with CFG_ERR. -/
  | strandStart (src : Source) (i : StrandId)
  /-- STRAND_STOP (R53). A write of RUN = 0 makes the strand STOPPING or stops a WAITING strand. -/
  | strandStop (src : Source) (i : StrandId)
  /-- STRAND_CMD_ABORT (R56). Aborts the stack with a tag or the stack in progress, or answers ABORT_LATE. -/
  | strandCmdAbort (src : Source) (i : StrandId) (any : Bool) (tag : Byte)
  /-- FOLD_CMD_SNAP (R90). Requests that the stack close at the next launch. -/
  | foldCmdSnap (src : Source) (i : StrandId)
  /-- FOLD_CMD_RESTART (R89). Requests a restart of accumulation at the next stack start. -/
  | foldCmdRestart (src : Source) (i : StrandId)
  /-- FOLD_REL (R98). Releases a plane from HAUL to FREE. -/
  | foldRel (src : Source) (ch : ChanId) (relA relB : Bool)
  /-- GAPCAL_CMD_ABORT (R176). Aborts the gap run in progress on the named strand. -/
  | gapcalCmdAbort (src : Source) (i : StrandId)
  /-- GAPCAL_CMD_COMMIT (R181). Begins a calibration commit, or refuses it with COMMIT_WAIT. -/
  | gapcalCmdCommit (src : Source)
  /-- AUTO_COMMIT (R181). An automatic calibration commit begins once its interval and conditions allow. -/
  | autoCommit
  /-- COMMIT_ATTEMPT_END (R182). A commit attempt ends with read-back, repeating once or setting COMMIT_FAIL. -/
  | commitAttemptEnd (ok0 ok1 pok0 pok1 : Bool)
  /-- CAL_HELD_WRITE (R177). A write to a HELD calibration field sets held and working values. -/
  | calHeldWrite (src : Source) (which : BitVec 2) (v : Word)
  /-- START_CALIBRATION_END (R174). The start calibration ends and RUNNING is entered. -/
  | startCalibrationEnd
  /-- MONITOR_START (R239). A window monitor starts on enable, a mode change or PGA power-up. -/
  | monitorStart (ch : ChanId)
  /-- MONITOR_FIRST_DECISION (R240). The first-decision window sets the filtered states without an edge. -/
  | monitorFirstDecision (ch : ChanId)
  /-- MONITOR_STROBE_END (R236). A sampled-mode strobe ends and the filtered state is updated once. -/
  | monitorStrobeEnd (ch : ChanId)
  /-- MONITOR_EDGE (R244). A filtered-state change is routed to latch, capture, event record, interrupt and wake. -/
  | monitorEdge (ch : ChanId)
  /-- FILTER_BOUNDARY (R206). A precision filter period ends on the channel's grid. -/
  | filterBoundary (c : PcId) (x : PcIn)
  /-- PC_MONITOR_SAMPLE (R196). The precision island samples every channel's monitors for sense, open and short checks. -/
  | pcMonitorSample (x : List (PcId × PcMon))
  /-- CLAMP (R203). A precision pin leaves its clamp window and the clamp conducts. -/
  | clamp (c : PcId) (x : PinVolt)
  /-- PC_EXC_IMM (R219). A PC_EXC write with IMM applies at once and abandons the running conversion. -/
  | pcExcImm (src : Source) (c : PcId) (v : Word)
  /-- PC_CMD_ICAL (R224). Starts internal calibration of the channel. -/
  | pcCmdIcal (src : Source) (c : PcId)
  /-- ICAL_END (R225). An internal calibration run ends and its values are checked. -/
  | icalEnd (c : PcId) (x : IcalIn)
  /-- PC_CMD_SYSZ (R226). Starts collecting 16 results for the system offset. -/
  | pcCmdSysz (src : Source) (c : PcId)
  /-- PC_CMD_SYSS (R226). Starts collecting 16 results for the system span. -/
  | pcCmdSyss (src : Source) (c : PcId)
  /-- PC_CMD_SYSCLR (R226). Clears the system values at the next boundary. -/
  | pcCmdSysclr (src : Source) (c : PcId)
  /-- PCVAL_TIMEOUT (R228). A PCVAL message leaves 10 ms after its oldest record. -/
  | pcvalTimeout
  /-- CONNECT (R328). Opens a new session or answers BUSY. -/
  | connect (v : Via) (p : List Byte)
  /-- DISCONNECT (R335). Ends the session after its response is sent. -/
  | disconnect (v : Via) (p : List Byte)
  /-- READ (R332). Performs a burst of register reads and returns values and access codes. -/
  | read (v : Via) (p : List Byte)
  /-- WRITE (R332). Performs a burst of register writes and returns access codes. -/
  | write (v : Via) (p : List Byte)
  /-- FENCE (R333). Holds later accesses of the source until earlier writes take effect. -/
  | fence (v : Via) (p : List Byte)
  /-- FENCE_ANSWER (R26). Every earlier write has taken effect, the FENCE is answered and held accesses are released. -/
  | fenceAnswer (src : Source)
  /-- NAK (R334). Retransmits held reliable datagrams or answers GONE. -/
  | nak (v : Via) (p : List Byte)
  /-- WAKE (R335). Starts the return from WATCH to RUNNING. -/
  | wake (v : Via) (p : List Byte)
  /-- KEEPALIVE (R329). Restarts the session timer and is answered OK. -/
  | keepalive (v : Via) (p : List Byte)
  /-- ACK_DIVERGED (R386). Acknowledges IMAGE_DIVERGED when GEN matches BOOT_GEN. -/
  | ackDiverged (v : Via) (p : List Byte)
  /-- LOCK_QUERY (R440). Returns the lock status. -/
  | lockQuery (v : Via) (len : Half) (data : List Byte)
  /-- LOCK_CHALLENGE (R440). Issues a fresh nonce bound to the source. -/
  | lockChallenge (v : Via) (len : Half) (data : List Byte)
  /-- LOCK_RESPOND (R441). Checks an HMAC response and opens the lock or counts a failure. -/
  | lockRespond (v : Via) (len : Half) (data : List Byte)
  /-- LOCK_PASSWORD (R441). Checks a password hash and opens the lock or counts a failure. -/
  | lockPassword (v : Via) (len : Half) (data : List Byte)
  /-- LOCK_CLOSE (R442). Closes the maintenance lock. -/
  | lockClose (v : Via) (len : Half) (data : List Byte)
  /-- LOGREQ (R437). Copies log records from the ring or a slot into a LOGDUMP message. -/
  | logreq (v : Via) (p : List Byte)
  /-- RX_DISCARD (R324). A received frame or datagram failing the acceptance checks is discarded and counted. -/
  | rxDiscard (x : RxBad)
  /-- ARP_REQUEST (R325). An ARP request for HOSTLINK_IP is answered. -/
  | arpRequest (mac : BitVec 48) (ip target : Word)
  /-- PAUSE_FRAME (R340). A received PAUSE frame starts, replaces or ends the pause time. -/
  | pauseFrame (quanta : Half)
  /-- PAUSE_EXPIRY (R340). The pause time runs out and transmission resumes. -/
  | pauseExpiry
  /-- PAUSE_REPEAT (R341). A PAUSE frame is sent again while the receive buffer stays full. -/
  | pauseRepeat
  /-- DATAGRAM_SEND (R338). At a datagram boundary the oldest datagram of the highest waiting class is sent. -/
  | datagramSend
  /-- EVENT_MESSAGE_TIMEOUT (R345). A FORM 0 EVENT message is sent 1 ms after its oldest record. -/
  | eventMessageTimeout
  /-- STATUS_SUMMARY (R344). A FORM 1 summary STATUS is sent every STPER ms. -/
  | statusSummary
  /-- SESSION_TIMEOUT (R329). No datagram arrived for the timeout and the session ends. -/
  | sessionTimeout
  /-- LINK_UP (R322). Auto-negotiation and training complete and the host link comes up. -/
  | linkUp
  /-- LINK_DOWN (R329). The host link goes down and any session ends. -/
  | linkDown
  /-- HAWSER_PORT_UP (R353). A hawser port completes training and comes up. -/
  | hawserPortUp (p : HwPort) (skew : Bool)
  /-- HAWSER_PORT_DOWN (R362). A hawser port loses lane lock or runs out of retries. -/
  | hawserPortDown (p : HwPort)
  /-- TOPO_SEND (R350). The head sends a TOPO frame on both ports every 1 ms. -/
  | topoSend
  /-- TOPO (R350). A TOPO frame gives the device its position and is forwarded and answered. -/
  | topo (p : HwPort) (ok own : Bool) (f : HwFrame)
  /-- TOPO_ACK (R352). The head records a position as present, a join or a break. -/
  | topoAck (p : HwPort) (ok : Bool) (f : HwFrame)
  /-- POSITION_ABSENT (R352). No TOPO_ACK arrived from a position for 10 ms and its presence bit clears. -/
  | positionAbsent (k : Fin 64)
  /-- HAWSER_DATA (R359). A DATA frame is forwarded or judged by the head against its twin. -/
  | hawserData (p : HwPort) (ok : Bool) (f : HwFrame)
  /-- HAWSER_CMD (R360). A CMD frame is forwarded or executed by its destination device. -/
  | hawserCmd (p : HwPort) (ok : Bool) (f : HwFrame)
  /-- HAWSER_ACK (R355). An ACK advances the sender's unacknowledged frames. -/
  | hawserAck (p : HwPort) (next : Word) (credit : Half)
  /-- HAWSER_RETRY (R355). An ACK of KIND 1 makes the sender replay from NEXT. -/
  | hawserRetry (p : HwPort) (next : Word) (credit : Half)
  /-- REPLAY_TIMEOUT (R355). NEXT has not advanced for 20 µs and the sender replays from the oldest frame. -/
  | replayTimeout (p : HwPort)
  /-- PATH_B_HOLD_EXPIRY (R359). A held path-B copy is forwarded after PWIN µs. -/
  | pathBHoldExpiry (src : Fin 64) (rseq : Word)
  /-- LNY_SEND (R368). A device sends an LNY frame on each port every 250 µs. -/
  | lnySend
  /-- LNY (R368). An LNY frame is answered or completes an exchange that steers the lanyard. -/
  | lny (p : HwPort) (x : LnyIn)
  /-- HOLDOVER_EXPIRY (R372). Holdover lasts 1 ms and LANYARD_LOST is raised. -/
  | holdoverExpiry
  /-- LANYARD_START (R365). The head locks to its reference and starts lanyard time. -/
  | lanyardStart
  /-- PPS_EDGE (R365). An LY_PPS rising edge is captured, or starts lanyard time with PPSSTART. -/
  | ppsEdge (sub : Byte)
  /-- PPS_MISS (R365). No LY_PPS edge arrived for 1.1 s. -/
  | ppsMiss
  /-- LY_REF_LOSS (R365). LY_REF is lost at the head and REF_LOCK and LOCKED fall. -/
  | lyRefLoss
  /-- LINE_DETECT (R377). The line input enters the detection range and the signature is presented. -/
  | lineDetect
  /-- LINE_REMOVED (R377). The line input leaves the detection range and the state returns to OFF. -/
  | lineRemoved
  /-- CLASS_QUERY (R461). A QUERY frame from the source arrives on LP_SIG. -/
  | classQuery
  /-- CLASS_REQUEST (R461). The front end sends its REQUEST frame 1 ms after a QUERY. -/
  | classRequest
  /-- GRANT (R462). A GRANT frame is recorded in CLS_GRANT. -/
  | grant (g : GrantIn)
  /-- START_THRESHOLD (R377). The input rises above the start threshold and POWERING begins or CLASS_LOW is set. -/
  | startThreshold
  /-- POWER_GOOD (R377). All LP_PG inputs and rails are good and internal reset is released into BOOT. -/
  | powerGood
  /-- POWERING_TIMEOUT (R379). POWERING has not ended in 100 ms and the device returns to OFF. -/
  | poweringTimeout
  /-- LOSS_OF_INPUT (R380). The hold-up sense reports loss of input and HOLDUP sets. -/
  | lossOfInput
  /-- HOLDUP_EXPIRY (R380). The hold-up ends and the device goes to OFF. -/
  | holdupExpiry
  /-- RST_N_RESET (R382). RST_N held low at least 10 µs is released and the device enters BOOT. -/
  | rstNReset
  /-- BOOT_COMPLETE (R383). BOOT ends with the image applied and the store loaded, entering SELF_TEST. -/
  | bootComplete (time : Half)
  /-- SELF_TEST_END (R389). SELF_TEST ends, entering ARMED or SAFE_STOP. -/
  | selfTestEnd (items : BitVec 5) (time : Half)
  /-- ARMED_TO_RUNNING (R393). RUN_PEND and every condition hold and the start calibration begins. -/
  | armedToRunning
  /-- BOOT_CMD_RUN (R391). Sets RUN_PEND in ARMED or sets CMD_REJ. -/
  | bootCmdRun (src : Source)
  /-- BOOT_CMD_HOLD (R395). Enters HELD and stops every strand at its stack close. -/
  | bootCmdHold (src : Source)
  /-- BOOT_CMD_RESUME (R396). Returns from HELD to RUNNING and restarts the held strands. -/
  | bootCmdResume (src : Source)
  /-- BOOT_CMD_WATCH (R398). Sets WATCH_PEND and stops the strands ahead of WATCH. -/
  | bootCmdWatch (src : Source)
  /-- BOOT_CMD_SWRST (R382). Resets the device when the key is 0xA5 and the lock allows. -/
  | bootCmdSwrst (src : Source) (key : Byte)
  /-- WATCH_ENTRY (R399). The drain conditions hold and the device enters WATCH. -/
  | watchEntry
  /-- WATCH_TIMER_EXPIRY (R400). The watch timer expires and ends WATCH. -/
  | watchTimerExpiry
  /-- WAKE_COMPLETE (R401). The wake sequence completes and RUNNING is entered. -/
  | wakeComplete
  /-- BOOT_FCMD_ERASE (R402). Erases the flash sector holding BOOT_FADDR. -/
  | bootFcmdErase (src : Source)
  /-- BOOT_FCMD_PROGRAM (R402). Programs the page buffer to the flash page holding BOOT_FADDR. -/
  | bootFcmdProgram (src : Source)
  /-- BOOT_FCMD_READ (R402). Reads 4 flash bytes into BOOT_FDATA. -/
  | bootFcmdRead (src : Source)
  /-- BOOT_FDATA_WRITE (R402). Fills the next 4 bytes of the page buffer. -/
  | bootFdataWrite (src : Source) (v : Word)
  /-- FLASH_OPERATION_END (R402). The flash reports an operation complete and BUSY clears. -/
  | flashOperationEnd (ok : Bool)
  /-- SAFETY_FAULT (R407). A fault source sets and the safety monitor reacts, asserting SAFE_N. -/
  | safetyFault
  /-- SAFETY_FAULT_CLEAR (R417). A W1C write clears fault bits whose sources read clear. -/
  | safetyFaultClear (src : Source) (w : Word)
  /-- SAFETY_TEST_INJ (R425). Raises the TEST fault. -/
  | safetyTestInj (src : Source)
  /-- SAFE_HB_TOGGLE (R416). SAFE_HB changes level every 100 µs while SAFE_N is high. -/
  | safeHbToggle
  /-- CONFIG_SWEEP_PASS (R411). A configuration sweep pass compares covered fields with the signature. -/
  | configSweepPass (bad : Bool)
  /-- CLOCK_FAULT (R412). A monitored clock stops or leaves its frequency band. -/
  | clockFault (lasts : Bool)
  /-- RAIL_FAULT (R413). An on-package rail leaves its ±5 % window. -/
  | railFault (lasts : Bool)
  /-- TEMP_MEASURE (R449). All six die temperatures are measured every 1 ms. -/
  | tempMeasure (t : List Half)
  /-- LOG_CMD_FREEZE (R431). Requests a freeze of the log line. -/
  | logCmdFreeze (src : Source)
  /-- LOG_MARK (R429). Records a MARK record with the written value. -/
  | logMark (src : Source) (v : Word)
  /-- FREEZE_BEGIN (R433). A freeze begins copying records into an MRAM slot. -/
  | freezeBegin
  /-- FREEZE_END (R433). A freeze writes its slot header and protection ends. -/
  | freezeEnd
  /-- LOCK_OPEN_TIMEOUT (R442). The lock closes OPENMAX minutes after it opened. -/
  | lockOpenTimeout
  /-- LOCKOUT_END (R441). The 600 s lockout ends and FAILS returns to 0. -/
  | lockoutEnd
  /-- NONCE_EXPIRY (R440). An outstanding nonce expires after 60 s. -/
  | nonceExpiry
  /-- REGISTER_WRITE (R451). A write to a register without a row of its own acts on each field under its access code. -/
  | registerWrite (src : Source) (addr : Nat) (v : Word)
  /-- SAMPLE_TICK (R64). Every tick each ON channel takes a sample: it is corrected, folded or passed to its phase pipeline, and its comparators decide, with the gain in force for that tick. -/
  | sampleTick (x : List ChanIn)
  /-- CHANNEL_READY (R80). A fast channel finishes settling after a power-state change and FC_STAT.READY becomes 1. -/
  | channelReady (ch : ChanId)
  /-- MONITOR_STROBE_START (R232). A sampled-mode strobe begins every 2^SPER × 100 µs, powering the PGA and comparators in WATCH. -/
  | monitorStrobeStart (ch : ChanId)
  /-- CLAMP_END (R203). A precision pin returns inside its clamp window, the clamp stops conducting and its CLAMP_NOW bit clears. -/
  | clampEnd (c : PcId) (x : PinVolt)
  /-- LY_REF_RETURN (R365). LY_REF returns at a head, which locks to it again without stepping lanyard time, and REF_LOCK and LOCKED return. -/
  | lyRefReturn
  /-- POWERING_RETRY (R379). The 1 s wait after a POWERING timeout ends and the front end may begin powering again. -/
  | poweringRetry
  /-- RESERVED_TYPE_COMMAND (R327). A command with a reserved TYPE arrives and is answered BAD_MSG, consuming its SEQ. -/
  | reservedTypeCommand (v : Via) (ty : Byte) (p : List Byte)
  /-- LOCKOUT_SECOND (R441). Each second of a lockout, LOCK_LOUT.SEC counts down and the remaining time is written to MRAM. -/
  | lockoutSecond
  /-- ACK_SEND (R355). A hawser receiver sends ACK with NEXT at least every 2 µs while frames arrive. -/
  | ackSend (p : HwPort)
  deriving DecidableEq, Repr

end Sys2Proof
end

