-- ==== Sys2Proof/Decode.lean ====
section
/-! DEFINITION. Words of the opcode table. The table of this block gives bits to no row: a command is named, with
its operands, and never read from a word. -/

namespace Sys2Proof

/-- The command a word of the table's bits spells: no row of the table has bits, so none. -/
def decodeTableWord (_nbits _w : Nat) : Option Instr := none

end Sys2Proof
end

