-- ==== Sys2Proof/Machine/CoreWord.lean ====
section
/-! DEFINITION. The 32-bit words of core instructions: decoding, and the encoding of the same tables (R282 to R284,
Tables 12.1 to 12.8). The memory outcome of a load is no part of its word. -/

namespace Sys2Proof.Machine

/-! ### Fields (Table 12.1) -/

/-- Major opcode. -/
def fOp (w : Word) : BitVec 6 := w.extractLsb' 26 6
/-- Bits 25:21. -/
def fD (w : Word) : BitVec 5 := w.extractLsb' 21 5
/-- Bits 20:16. -/
def fA (w : Word) : BitVec 5 := w.extractLsb' 16 5
/-- Bits 15:11. -/
def fB (w : Word) : BitVec 5 := w.extractLsb' 11 5
/-- Bits 10:6. -/
def fSh (w : Word) : BitVec 5 := w.extractLsb' 6 5
/-- Bits 5:0. -/
def fFn (w : Word) : BitVec 6 := w.extractLsb' 0 6
/-- Bits 15:0. -/
def fImm (w : Word) : BitVec 16 := w.extractLsb' 0 16

/-- A word from its fields in format T. -/
def wordT (op : BitVec 6) (d a b sh : BitVec 5) (fn : BitVec 6) : Word := op ++ d ++ a ++ b ++ sh ++ fn
/-- A word of format I. -/
def wordI (op : BitVec 6) (d a : BitVec 5) (imm : BitVec 16) : Word := op ++ d ++ a ++ imm
/-- A word of format M. -/
def wordM (op : BitVec 6) (t p : BitVec 5) (am k : BitVec 2) (x : BitVec 12) : Word := op ++ t ++ p ++ am ++ k ++ x
/-- A word of format D. -/
def wordD (c : BitVec 3) (p1 : BitVec 5) (k1 : BitVec 2) (p2 : BitVec 5) (k2 : BitVec 2) (q : BitVec 5) (neg : Bool) : Word :=
  (0x14#6) ++ c ++ p1 ++ k1 ++ p2 ++ k2 ++ q ++ (0#3) ++ BitVec.ofBool neg
/-- A word of format B. -/
def wordB (op : BitVec 6) (a b : BitVec 5) (target : BitVec 15) : Word := op ++ a ++ b ++ (0#1) ++ target
/-- A word of format J. -/
def wordJ (op : BitVec 6) (target : BitVec 15) : Word := op ++ (0#11) ++ target

/-- A vector register field names v0 to v15 (R283, R284). -/
def isV (x : BitVec 5) : Bool := x.extractLsb' 4 1 = 0#1
/-- An accumulator field names a0 to a7. -/
def isAcc (x : BitVec 5) : Bool := x.extractLsb' 3 2 = 0#2
/-- The vector register or 4-bit count of a field. -/
def toV (x : BitVec 5) : BitVec 4 := x.extractLsb' 0 4
/-- The accumulator of a field. -/
def toAcc (x : BitVec 5) : BitVec 3 := x.extractLsb' 0 3
/-- A field from a vector register or 4-bit count. -/
def ofV (x : BitVec 4) : BitVec 5 := (0#1) ++ x
/-- A field from an accumulator. -/
def ofAcc (x : BitVec 3) : BitVec 5 := (0#2) ++ x

/-- An instruction where a condition holds. -/
def only (b : Bool) (i : Instr) : Option Instr := if b then some i else none

/-! ### Groups -/

/-- Scalar group, op 0x00 (Table 12.2). -/
def decodeScalar (c : CoreId) (w : Word) : Option Instr :=
  let d := fD w
  let a := fA w
  let b := fB w
  let sh := fSh w
  let z := decide (sh = 0#5)
  let zb := decide (b = 0#5)
  match (fFn w).toNat with
  | 0x00 => only z (.add c d a b)
  | 0x01 => only z (.sub c d a b)
  | 0x02 => only z (.and c d a b)
  | 0x03 => only z (.or c d a b)
  | 0x04 => only z (.xor c d a b)
  | 0x05 => only z (.shl c d a b)
  | 0x06 => only z (.shr c d a b)
  | 0x07 => only z (.sra c d a b)
  | 0x08 => only zb (.shli c d a sh)
  | 0x09 => only zb (.shri c d a sh)
  | 0x0A => only zb (.srai c d a sh)
  | 0x0B => only z (.slt c d a b)
  | 0x0C => only z (.sltu c d a b)
  | 0x0D => only z (.min c d a b)
  | 0x0E => only z (.max c d a b)
  | 0x0F => only z (.mul c d a b)
  | _ => none

/-- Vector group, op 0x10 (Table 12.5). -/
def decodeVector (c : CoreId) (w : Word) : Option Instr :=
  let d := fD w
  let a := fA w
  let b := fB w
  let sh := fSh w
  let zs := decide (sh = 0#5)
  let zb := decide (b = 0#5)
  let vda := isV d && isV a
  let vdab := vda && isV b && zs
  match (fFn w).toNat with
  | 0x00 => only vdab (.vadd c (toV d) (toV a) (toV b))
  | 0x01 => only vdab (.vsub c (toV d) (toV a) (toV b))
  | 0x02 => only (vda && zs) (.vadds c (toV d) (toV a) b)
  | 0x03 => only vdab (.vmin c (toV d) (toV a) (toV b))
  | 0x04 => only vdab (.vmax c (toV d) (toV a) (toV b))
  | 0x05 => only (vda && zb && zs) (.vabs c (toV d) (toV a))
  | 0x06 => only vdab (.vand c (toV d) (toV a) (toV b))
  | 0x07 => only vdab (.vor c (toV d) (toV a) (toV b))
  | 0x08 => only vdab (.vxor c (toV d) (toV a) (toV b))
  | 0x09 => only (vda && zb && isV sh) (.vshli c (toV d) (toV a) (toV sh))
  | 0x0A => only (vda && zb && isV sh) (.vsrai c (toV d) (toV a) (toV sh))
  | 0x0B => only (isV d && zb && zs) (.vbc c (toV d) a)
  | 0x0C => only (isV a && zb && isV sh) (.vget c d (toV a) (toV sh))
  | 0x0D => only (isV d && zb && isV sh) (.vput c (toV d) a (toV sh))
  | 0x0E => only (isV a && isV b && zs) (.vcgt c d (toV a) (toV b))
  | 0x0F => only (isV a && zs) (.vcgts c d (toV a) b)
  | 0x10 => only (vda && zb && zs) (.vmov c (toV d) (toV a))
  | _ => none

/-- Multiply-accumulate group, op 0x11 (Table 12.6). -/
def decodeMac (c : CoreId) (w : Word) : Option Instr :=
  let d := fD w
  let a := fA w
  let b := fB w
  let sh := fSh w
  let za := decide (a = 0#5)
  let zb := decide (b = 0#5)
  let zs := decide (sh = 0#5)
  match (fFn w).toNat with
  | 0x00 => only (isAcc d && isV a && isV b && zs) (.vmul c (toAcc d) (toV a) (toV b))
  | 0x01 => only (isAcc d && isV a && isV b && zs) (.vmac c (toAcc d) (toV a) (toV b))
  | 0x02 => only (isAcc d && isV a && isV b && zs) (.vmsc c (toAcc d) (toV a) (toV b))
  | 0x03 => only (isAcc d && isV a && zs) (.vmacs c (toAcc d) (toV a) b)
  | 0x04 => only (isAcc d && isV a && zb && zs) (.vadda c (toAcc d) (toV a))
  | 0x05 => only (isAcc d && isV a && zb && zs) (.vsuba c (toAcc d) (toV a))
  | 0x06 => only (isAcc d && za && zb && zs) (.aclr c (toAcc d))
  | 0x08 => only (isV d && isAcc a && zb) (.vnrw c (toV d) (toAcc a) sh)
  | 0x09 => only (isAcc a && zb) (.asum c d (toAcc a) sh)
  | 0x0A => only (isV d && isAcc a && zb && zs) (.amovl c (toV d) (toAcc a))
  | 0x0B => only (isV d && isAcc a && zb && zs) (.amovh c (toV d) (toAcc a))
  | 0x0C => only (isV d && isAcc a && zb && zs) (.amovx c (toV d) (toAcc a))
  | 0x0D => only (isAcc d && isV a && isV b && isV sh) (.aset c (toAcc d) (toV a) (toV b) (toV sh))
  | _ => none

/-- System group, op 0x3F (Table 12.8). -/
def decodeSystem (c : CoreId) (w : Word) : Option Instr :=
  let d := fD w
  let a := fA w
  let b := fB w
  let zd := decide (d = 0#5)
  let za := decide (a = 0#5)
  let zb := decide (b = 0#5)
  let zs := decide (fSh w = 0#5)
  match (fFn w).toNat with
  | 0x00 => only (zd && za && zb && zs) (.endRun c)
  | 0x01 => only (zd && za && zb && zs) (.rti c)
  | 0x02 => only (zd && za && zb && zs) (.wdk c)
  | 0x03 => only (za && zs) (.mfs c d b)
  | 0x04 => only (zd && zs) (.mts c b a)
  | 0x05 => only (zd && zb && zs) (.hq c a)
  | 0x06 => only (zd && za && zb && zs) (.hwait c)
  | 0x07 => only (zd && zb && zs) (.hrel c a)
  | 0x08 => only (zd && zs) (.sq c a b)
  | _ => none

/-- Address mode with its operands (Table 12.3). -/
def decodeMem (w : Word) : Option Mem :=
  let k := w.extractLsb' 12 2
  let x := w.extractLsb' 0 12
  match (w.extractLsb' 14 2).toNat with
  | 0 => if k = 0#2 then some (.off x) else none
  | 1 => if k = 0#2 then some (.post x) else none
  | 2 => some (.circ k x)
  | _ => if x.extractLsb' 5 7 = 0#7 then some (.circReg k (x.extractLsb' 0 5)) else none

/-- A load or store from its address mode. -/
def withMem (w : Word) (f : Mem → Instr) : Option Instr := (decodeMem w).map f

/-- VDMAC, op 0x14 (R291). -/
def decodeVdmac (c : CoreId) (w : Word) : Option Instr :=
  only (w.extractLsb' 1 3 = 0#3)
    (.vdmac c (w.extractLsb' 23 3) (w.extractLsb' 18 5) (w.extractLsb' 16 2) (w.extractLsb' 11 5) (w.extractLsb' 9 2)
      (w.extractLsb' 4 5) (w.getLsbD 0) (.ok, .ok))

/-- REP, op 0x24 (Table 12.7). -/
def decodeRep (c : CoreId) (w : Word) : Option Instr :=
  let a := fD w
  let n := w.extractLsb' 0 12
  if w.extractLsb' 12 8 != 0#8 then none
  else if w.getLsbD 20 then only (decide (n = 0#12)) (.rep c (.reg a))
  else only (decide (a = 0#5)) (.rep c (.imm n))

/-- A core instruction word (R282 to R284); none: it decodes to no instruction. DESIGN CHOICE: log entry 8. -/
def decodeCoreWord (c : CoreId) (w : Word) : Option Instr :=
  let t := fD w
  let p := fA w
  let target := w.extractLsb' 0 15
  let b15 := decide (w.extractLsb' 15 1 = 0#1)
  let j := decide (w.extractLsb' 15 11 = 0#11)
  match (fOp w).toNat with
  | 0x00 => decodeScalar c w
  | 0x01 => some (.addi c t p (fImm w))
  | 0x02 => some (.andi c t p (fImm w))
  | 0x03 => some (.ori c t p (fImm w))
  | 0x04 => some (.xori c t p (fImm w))
  | 0x05 => some (.slti c t p (fImm w))
  | 0x06 => only (decide (p = 0#5)) (.lui c t (fImm w))
  | 0x08 => withMem w fun m => .ldb c t p m .ok
  | 0x09 => withMem w fun m => .ldbu c t p m .ok
  | 0x0A => withMem w fun m => .ldh c t p m .ok
  | 0x0B => withMem w fun m => .ldhu c t p m .ok
  | 0x0C => withMem w fun m => .ldw c t p m .ok
  | 0x0D => withMem w fun m => .stb c t p m
  | 0x0E => withMem w fun m => .sth c t p m
  | 0x0F => withMem w fun m => .stw c t p m
  | 0x10 => decodeVector c w
  | 0x11 => decodeMac c w
  | 0x12 => if isV t then withMem w fun m => .vld c (toV t) p m .ok else none
  | 0x13 => if isV t then withMem w fun m => .vst c (toV t) p m else none
  | 0x14 => decodeVdmac c w
  | 0x15 => if t = 0#5 && w.getLsbD 15 then withMem w fun m => .cadd c p m else none
  | 0x18 => only b15 (.beq c t p target)
  | 0x19 => only b15 (.bne c t p target)
  | 0x1A => only b15 (.blt c t p target)
  | 0x1B => only b15 (.bge c t p target)
  | 0x1C => only b15 (.bltu c t p target)
  | 0x1D => only b15 (.bgeu c t p target)
  | 0x1E => only j (.jmp c target)
  | 0x1F => only j (.call c target)
  | 0x20 => only (decide (fFn w = 0#6) && decide (fSh w = 0#5) && decide (fB w = 0#5) && decide (t = 0#5)) (.jr c p)
  | 0x24 => decodeRep c w
  | 0x3F => decodeSystem c w
  | _ => none

/-! ### Encoding -/

/-- A word with an address mode. -/
def encodeMem (op : BitVec 6) (t p : BitVec 5) (m : Mem) : Word :=
  match m with
  | .off x => wordM op t p 0 0 x
  | .post x => wordM op t p 1 0 x
  | .circ k x => wordM op t p 2 k x
  | .circReg k q => wordM op t p 3 k ((0#7) ++ q)

/-- The word of a core instruction; none: no core instruction, or a CADD that has none. DESIGN CHOICE: log entry 8. -/
def encodeCoreWord (i : Instr) : Option Word :=
  match i with
  | .add _ d a b => some (wordT 0x00 d a b 0 0x00)
  | .sub _ d a b => some (wordT 0x00 d a b 0 0x01)
  | .and _ d a b => some (wordT 0x00 d a b 0 0x02)
  | .or _ d a b => some (wordT 0x00 d a b 0 0x03)
  | .xor _ d a b => some (wordT 0x00 d a b 0 0x04)
  | .shl _ d a b => some (wordT 0x00 d a b 0 0x05)
  | .shr _ d a b => some (wordT 0x00 d a b 0 0x06)
  | .sra _ d a b => some (wordT 0x00 d a b 0 0x07)
  | .shli _ d a sh => some (wordT 0x00 d a 0 sh 0x08)
  | .shri _ d a sh => some (wordT 0x00 d a 0 sh 0x09)
  | .srai _ d a sh => some (wordT 0x00 d a 0 sh 0x0A)
  | .slt _ d a b => some (wordT 0x00 d a b 0 0x0B)
  | .sltu _ d a b => some (wordT 0x00 d a b 0 0x0C)
  | .min _ d a b => some (wordT 0x00 d a b 0 0x0D)
  | .max _ d a b => some (wordT 0x00 d a b 0 0x0E)
  | .mul _ d a b => some (wordT 0x00 d a b 0 0x0F)
  | .addi _ d a imm => some (wordI 0x01 d a imm)
  | .andi _ d a imm => some (wordI 0x02 d a imm)
  | .ori _ d a imm => some (wordI 0x03 d a imm)
  | .xori _ d a imm => some (wordI 0x04 d a imm)
  | .slti _ d a imm => some (wordI 0x05 d a imm)
  | .lui _ d imm => some (wordI 0x06 d 0 imm)
  | .ldb _ t p m _ => some (encodeMem 0x08 t p m)
  | .ldbu _ t p m _ => some (encodeMem 0x09 t p m)
  | .ldh _ t p m _ => some (encodeMem 0x0A t p m)
  | .ldhu _ t p m _ => some (encodeMem 0x0B t p m)
  | .ldw _ t p m _ => some (encodeMem 0x0C t p m)
  | .stb _ t p m => some (encodeMem 0x0D t p m)
  | .sth _ t p m => some (encodeMem 0x0E t p m)
  | .stw _ t p m => some (encodeMem 0x0F t p m)
  | .vld _ t p m _ => some (encodeMem 0x12 (ofV t) p m)
  | .vst _ t p m => some (encodeMem 0x13 (ofV t) p m)
  | .cadd _ p m =>
    match m with
    | .off _ => none
    | .post _ => none
    | .circ k x => some (wordM 0x15 0 p 2 k x)
    | .circReg k q => some (wordM 0x15 0 p 3 k ((0#7) ++ q))
  | .vadd _ d a b => some (wordT 0x10 (ofV d) (ofV a) (ofV b) 0 0x00)
  | .vsub _ d a b => some (wordT 0x10 (ofV d) (ofV a) (ofV b) 0 0x01)
  | .vadds _ d a b => some (wordT 0x10 (ofV d) (ofV a) b 0 0x02)
  | .vmin _ d a b => some (wordT 0x10 (ofV d) (ofV a) (ofV b) 0 0x03)
  | .vmax _ d a b => some (wordT 0x10 (ofV d) (ofV a) (ofV b) 0 0x04)
  | .vabs _ d a => some (wordT 0x10 (ofV d) (ofV a) 0 0 0x05)
  | .vand _ d a b => some (wordT 0x10 (ofV d) (ofV a) (ofV b) 0 0x06)
  | .vor _ d a b => some (wordT 0x10 (ofV d) (ofV a) (ofV b) 0 0x07)
  | .vxor _ d a b => some (wordT 0x10 (ofV d) (ofV a) (ofV b) 0 0x08)
  | .vshli _ d a sh => some (wordT 0x10 (ofV d) (ofV a) 0 (ofV sh) 0x09)
  | .vsrai _ d a sh => some (wordT 0x10 (ofV d) (ofV a) 0 (ofV sh) 0x0A)
  | .vbc _ d a => some (wordT 0x10 (ofV d) a 0 0 0x0B)
  | .vget _ d a lane => some (wordT 0x10 d (ofV a) 0 (ofV lane) 0x0C)
  | .vput _ d a lane => some (wordT 0x10 (ofV d) a 0 (ofV lane) 0x0D)
  | .vcgt _ d a b => some (wordT 0x10 d (ofV a) (ofV b) 0 0x0E)
  | .vcgts _ d a b => some (wordT 0x10 d (ofV a) b 0 0x0F)
  | .vmov _ d a => some (wordT 0x10 (ofV d) (ofV a) 0 0 0x10)
  | .vmul _ d a b => some (wordT 0x11 (ofAcc d) (ofV a) (ofV b) 0 0x00)
  | .vmac _ d a b => some (wordT 0x11 (ofAcc d) (ofV a) (ofV b) 0 0x01)
  | .vmsc _ d a b => some (wordT 0x11 (ofAcc d) (ofV a) (ofV b) 0 0x02)
  | .vmacs _ d a b => some (wordT 0x11 (ofAcc d) (ofV a) b 0 0x03)
  | .vadda _ d a => some (wordT 0x11 (ofAcc d) (ofV a) 0 0 0x04)
  | .vsuba _ d a => some (wordT 0x11 (ofAcc d) (ofV a) 0 0 0x05)
  | .aclr _ d => some (wordT 0x11 (ofAcc d) 0 0 0 0x06)
  | .vnrw _ d a sh => some (wordT 0x11 (ofV d) (ofAcc a) 0 sh 0x08)
  | .asum _ d a sh => some (wordT 0x11 d (ofAcc a) 0 sh 0x09)
  | .amovl _ d a => some (wordT 0x11 (ofV d) (ofAcc a) 0 0 0x0A)
  | .amovh _ d a => some (wordT 0x11 (ofV d) (ofAcc a) 0 0 0x0B)
  | .amovx _ d a => some (wordT 0x11 (ofV d) (ofAcc a) 0 0 0x0C)
  | .aset _ d a b x => some (wordT 0x11 (ofAcc d) (ofV a) (ofV b) (ofV x) 0x0D)
  | .vdmac _ d p1 k1 p2 k2 q neg _ => some (wordD d p1 k1 p2 k2 q neg)
  | .beq _ a b target => some (wordB 0x18 a b target)
  | .bne _ a b target => some (wordB 0x19 a b target)
  | .blt _ a b target => some (wordB 0x1A a b target)
  | .bge _ a b target => some (wordB 0x1B a b target)
  | .bltu _ a b target => some (wordB 0x1C a b target)
  | .bgeu _ a b target => some (wordB 0x1D a b target)
  | .jmp _ target => some (wordJ 0x1E target)
  | .call _ target => some (wordJ 0x1F target)
  | .jr _ a => some (wordT 0x20 0 a 0 0 0)
  | .rep _ n =>
    match n with
    | .imm n => some ((0x24#6) ++ (0#5) ++ (0#9) ++ n)
    | .reg a => some ((0x24#6) ++ a ++ (0x100#9) ++ (0#12))
  | .endRun _ => some (wordT 0x3F 0 0 0 0 0x00)
  | .rti _ => some (wordT 0x3F 0 0 0 0 0x01)
  | .wdk _ => some (wordT 0x3F 0 0 0 0 0x02)
  | .mfs _ d n => some (wordT 0x3F d 0 n 0 0x03)
  | .mts _ n a => some (wordT 0x3F 0 a n 0 0x04)
  | .hq _ a => some (wordT 0x3F 0 a 0 0 0x05)
  | .hwait _ => some (wordT 0x3F 0 0 0 0 0x06)
  | .hrel _ a => some (wordT 0x3F 0 a 0 0 0x07)
  | .sq _ a b => some (wordT 0x3F 0 a b 0 0x08)
  | _ => none

end Sys2Proof.Machine
end

