-- ==== Sys2Proof/Machine/SMap.lean ====
section
/-! DEFINITION. Sparse memories and register files: a list of (key, value) pairs in one canonical form, keys
strictly rising. A key that is not listed has no value of its own: the reader supplies one (a reset value, or a
free value for memory nothing has written). `setD` keeps out entries equal to the value an unlisted key
reads as, so that equal contents are equal data. -/

namespace Sys2Proof.Machine

/-- A sparse map by natural keys. -/
abbrev SMap (α : Type) := List (Nat × α)

/-- Keys strictly rising. -/
def SMap.sorted {α : Type} : SMap α → Bool
  | [] => true
  | (k, _) :: rest => rest.all (fun p => decide (k < p.1)) && SMap.sorted rest

/-- The listed value at `k`. -/
def SMap.find {α : Type} (m : SMap α) (k : Nat) : Option α :=
  match m with
  | [] => none
  | (j, v) :: rest => if j = k then some v else SMap.find rest k

/-- The value at `k`, `d` where the key is not listed. -/
def SMap.getD {α : Type} (m : SMap α) (k : Nat) (d : α) : α := (m.find k).getD d

/-- The map without key `k`. -/
def SMap.erase {α : Type} (m : SMap α) (k : Nat) : SMap α :=
  match m with
  | [] => []
  | (j, v) :: rest => if j = k then SMap.erase rest k else (j, v) :: SMap.erase rest k

/-- The map with `v` at key `k`. -/
def SMap.put {α : Type} (m : SMap α) (k : Nat) (v : α) : SMap α :=
  match m with
  | [] => [(k, v)]
  | (j, w) :: rest =>
    if k < j then (k, v) :: (j, w) :: rest
    else if j = k then (k, v) :: rest
    else (j, w) :: SMap.put rest k v

/-- The map with `v` at key `k`, where an unlisted `k` reads as `d`: writing `d` removes the entry. -/
def SMap.putD {α : Type} [DecidableEq α] (m : SMap α) (k : Nat) (d v : α) : SMap α :=
  if v = d then m.erase k else m.put k v

/-- No listed value equals what its key reads as when unlisted. -/
def SMap.lean {α : Type} [DecidableEq α] (m : SMap α) (d : Nat → α) : Bool :=
  m.all fun p => decide (p.2 ≠ d p.1)

end Sys2Proof.Machine
end

