-- ==== Sys2Proof/Machine/CoreState.lean ====
section
/-! DEFINITION. State of one reduction core (chapters 11 and 12). Scalars, lanes and accumulator lanes are
sparse files that read 0 where nothing stands; lane i of v register r is key 16 r + i. -/

namespace Sys2Proof.Machine

/-- An accumulate operation that waits to land (R257, R290): the product or addend of each lane. -/
inductive AccOp where
  /-- the lane takes the value as it is (VMUL, ACLR, ASET) -/
  | put (x : List Int)
  /-- acc40 of lane plus value (VMAC, VMSC, VMACS, VADDA, VSUBA, VDMAC) -/
  | add (x : List Int)
  deriving DecidableEq, Repr

/-- A result in flight (Table 11.5). -/
inductive Landing where
  | scalar (shadow : Bool) (r : Nat) (v : Word)
  | vector (r : Nat) (lanes : List Half)
  | acc (a : Nat) (op : AccOp)
  /-- sticky flags set by an instruction, readable with its result -/
  | flags (bits : Word)
  /-- MTS that clears sticky bits -/
  | clear (bits : Word)
  /-- MTS to CSTAT.RND, SATM, IE0 and IE1 -/
  | modes (v : Word)
  | agBase (k : Nat) (v : Word)
  | agLen (k : Nat) (v : Word)
  | tcmp (v : Word)
  deriving DecidableEq, Repr

/-- A result in flight with the cycle it is readable from. -/
structure Flight where
  at_ : Nat
  what : Landing
  deriving DecidableEq, Repr

/-- A job of the dispatcher (R273, R275). -/
structure Job where
  strand : Nat
  stack : Nat
  /-- job word of s3 -/
  word : Nat
  param : Nat
  entry : Nat
  /-- planes bound: channel, plane -/
  binds : List (Nat × Nat)
  deriving DecidableEq, Repr

/-- A send descriptor (R277). -/
structure Send where
  addr : Nat
  len : Nat
  ty : Nat
  deriving DecidableEq, Repr

/-- A haul descriptor being served: its DM address and its fields as read (Table 11.9). -/
structure Haul where
  at_ : Nat
  chan : Nat
  plane : Nat
  isMeta : Bool
  format : Nat
  irq : Bool
  shift : Nat
  first : Nat
  count : Nat
  stride : Int
  dest : Nat
  /-- a library kernel queued it: no DM address of its own is stated (R300) -/
  lib : Bool
  deriving DecidableEq, Repr

/-- A pending change of the instruction flow at the end of two delay slots. -/
inductive Flow where
  /-- branch, CALL or JR: next address (the fall-through of a branch not taken) -/
  | to (pc : Nat)
  /-- RTI of the level (R267) -/
  | rti (level : Nat)
  deriving DecidableEq, Repr

/-- A load from the register window that waits for its answer (R253). -/
structure WinLoad where
  shadow : Bool
  r : Nat
  addr : Nat
  deriving DecidableEq, Repr

/-- What a temperature run reads of a reference coil's precision channel at entry (R312, R314). -/
structure RefIn where
  chan : Nat
  /-- XE or the pair mean -/
  xe : Int
  btime : Time
  /-- manual mode with PC_DIAG.SEL = 0 -/
  manual : Bool
  /-- OPEN, SHORT, SNS_FAULT or REF_DRIFT shows -/
  faulty : Bool
  deriving DecidableEq, Repr

/-- An event zone (R316). -/
structure Zone where
  kind : Nat
  first : Nat
  last : Nat
  peakPos : Nat
  peak : Int
  deriving DecidableEq, Repr

/-- A persistent state area of a library kernel (R313, R317). -/
structure Area where
  /-- its bytes -/
  size : Nat
  strand : Nat
  stack : Nat
  zones : List Zone
  /-- values of the previous product -/
  prev : List Int
  /-- the held difference of attenuation, per bin -/
  slope : Rat
  deriving DecidableEq, Repr

/-- A range of DM whose unlisted bytes a library kernel has written: free values of a draw, or zeros (R300, R306). -/
structure Wiped where
  from_ : Nat
  len : Nat
  draw : Option Nat
  deriving DecidableEq, Repr

/-- A run of a library kernel (R300, R301). -/
structure LibRun where
  kind : Nat
  /-- parameter block as read at entry -/
  blk : List Byte
  /-- reference channels a temperature run read at entry (R312) -/
  refs : List RefIn
  /-- FC_HITCH.ROLE of the channels bound, as read at entry -/
  roles : SMap Nat
  /-- the strand runs in mode 2 (R305) -/
  phase : Bool
  /-- of the strand's port, as read at entry (R306): PMODE, cycle length, code length, ticks per chip, code words -/
  pmode : Nat
  cyc : Nat
  ncode : Nat
  chipt : Nat
  chips : List Bool × List Bool
  /-- planes the product is computed from -/
  planes : List (Nat × Nat)
  /-- what is left to haul -/
  todo : List Haul
  /-- the checks that depend on the header have passed (R301) -/
  judged : Bool
  /-- metadata as hauled, by plane key -/
  heads : SMap (List Byte)
  /-- LPERIOD and RATE_OVER of the phase record (Table 6.9, Table 6.10) -/
  side : Nat × Bool
  /-- bins as hauled, by plane key -/
  bins : SMap (List Int)
  /-- blocks in which the haul clipped a bin: plane key, block (R308) -/
  clips : List (Nat × Nat)
  /-- pieces with uncorrectable errors: plane key, first and last block (R302) -/
  ues : List (Nat × Nat × Nat)
  /-- messages queued, once the kernel's work is done -/
  out : Option (List (Nat × List Byte))
  deriving DecidableEq, Repr

/-- One reduction core. -/
structure CoreRt where
  bank0 : SMap Word
  bank1 : SMap Word
  vregs : SMap Half
  accs : SMap Bin40
  cstat : Word
  ira : List Word
  istat : List Word
  /-- cycles counted; CYC is its low 32 bits -/
  cycle : Nat
  tcmp : Word
  agBase : List Word
  agLen : List Word
  pc : Nat
  /-- the scalar file is the shadow bank -/
  shadow : Bool
  flow : Option (Nat × Flow)
  /-- iterations of the repeat body left (R262) -/
  rep : Option Nat
  land : List Flight
  load : Option WinLoad
  /-- an instruction at the program counter waits and has not issued (R297) -/
  waiting : Bool
  /-- cycle in which each source of Table 11.7 last became pending -/
  pendAt : List Nat
  /-- cycle in which an issued END retires (R276) -/
  endAt : Option Nat
  /-- an interrupt handler runs in IDLE or DRAIN (R268) -/
  idleIrq : Bool
  jobs : List Job
  /-- bindings of the run (R273) -/
  binds : List (Nat × Nat)
  /-- strand and stack of the run -/
  runStrand : Nat
  runStack : Nat
  runEntry : Nat
  runParam : Nat
  /-- job word of the run (R275) -/
  runWord : Nat
  /-- the library kernel that has the run (R300) -/
  lib : Option LibRun
  /-- state areas of library kernels by DM address (R317) -/
  areas : SMap Area
  hq : List Nat
  hauling : Option Haul
  sends : List Send
  /-- buffers the link island has not read yet (R277) -/
  drain : List Send
  /-- microseconds the watchdog counted: the cycle of the last clear -/
  wdFrom : Nat
  dm : SMap Byte
  /-- ranges of DM library kernels wrote, the last first -/
  wiped : List Wiped
  im : SMap Word
  deriving DecidableEq, Repr

/-- A core after reset: OFF, CSTAT as CORE_CSINIT resets it (R256), every other register 0.
DESIGN CHOICE: log entry 4. -/
def CoreRt.reset : CoreRt :=
  { bank0 := [], bank1 := [], vregs := [], accs := [], cstat := 0x180, ira := [0, 0], istat := [0, 0],
    cycle := 0, tcmp := 0, agBase := [0, 0, 0, 0], agLen := [0, 0, 0, 0], pc := 0, shadow := false,
    flow := none, rep := none, land := [], load := none, waiting := false, pendAt := [0, 0, 0, 0], endAt := none, idleIrq := false, jobs := [],
    binds := [], runStrand := 0, runStack := 0, runEntry := 0, runParam := 0, runWord := 0, lib := none,
    areas := [], hq := [], hauling := none,
    sends := [], drain := [], wdFrom := 0, dm := [], wiped := [], im := [] }

end Sys2Proof.Machine
end

