-- ==== Sys2Proof/Machine/FastState.lean ====
section
/-! DEFINITION. State of the fast side that no register shows: strands, probe ports, fast channels, gap runs,
window monitors, fold-memory commits in flight, phase pipelines (chapters 02 to 07 and 10). Times are ticks
(R6) counted by the 200 MHz islands. -/

namespace Sys2Proof.Machine

/-- A range plan as a channel takes it (R66, R68): start block and gain code of each bight used, settle count
as it acts (R71). -/
structure Plan where
  bights : List (Nat × Nat)
  settle : Nat
  deriving DecidableEq, Repr

/-- One probe period of a strand: what its launch fixed (R120, R123, R147). -/
structure Shot where
  launch : Nat
  /-- the strand's shot is folded or processed into the stack in progress -/
  folded : Bool
  /-- shot type (R111) -/
  ty : Nat
  plane : Nat
  weight : Int
  /-- first shot of the stack folded into its plane (R87, R91) -/
  first : Bool
  /-- phase reference shot (R147) -/
  ref : Bool
  /-- last shot of the stack (R47, R90, R122) -/
  last : Bool
  /-- the first gap tick has been handled (R125, R160) -/
  gapSeen : Bool
  /-- the presence level has been evaluated (R130) -/
  presSeen : Bool
  /-- sum of |x| at 0 dB over the presence window (R130), and its samples -/
  presSum : Rat
  presCount : Nat
  deriving DecidableEq, Repr

/-- A stack in progress (R52). -/
structure Stack where
  num : Nat
  /-- launch tick of its first shot -/
  first : Nat
  tFirst : Time
  tLast : Time
  /-- shots taken, a phase reference shot not counted (R147) -/
  taken : Nat
  /-- shots it takes in all; 0: until SNAP (R90) -/
  want : Nat
  plane : Nat
  coded : Bool
  /-- cycle length of the pattern (R111) -/
  cycle : Nat
  phase : Bool
  restarted : Bool
  snap : Bool
  skipped : Nat
  smode : Nat
  leak : Nat
  /-- a folded shot of the stack missed (R131) -/
  missed : Bool
  /-- per shot type: sum of the levels of folded shots and their number (R131) -/
  levels : List (Rat × Nat)
  deriving DecidableEq, Repr

/-- A closed stack whose planes have not been handed over yet (R95, R96). -/
structure Closed where
  num : Nat
  close : Nat
  planes : List Nat
  chans : List Nat
  /-- STRAND_CTRL.MODE of the stack -/
  mode : Nat
  deriving DecidableEq, Repr

/-- Run-time state of one strand. -/
structure StrandRt where
  /-- start tick fixed by R51, and the tick in which it was fixed (R44) -/
  start : Option Nat
  fixedAt : Option Nat
  /-- port, switch select and period the strand runs with: a write of its registers while it runs is felt by no other
  strand (R3, R41) -/
  runPort : Nat
  runSw : Nat
  runP : Nat
  /-- the strand's probe period in progress -/
  shot : Option Shot
  stack : Option Stack
  closed : Option Closed
  /-- the stack whose number was last closed or aborted, with its close tick (R56) -/
  lastClose : Option (Nat × Nat)
  /-- tick in which HOLD or WATCH stopped the strand; it stops at its stack's close (R53) -/
  sysStop : Option Nat
  /-- a RUN = 1 waits for STOPPED (R53) -/
  restartRun : Bool
  /-- ticks of the last SNAP and RESTART command that set its pending bit (R28, R89, R90) -/
  snapAt : Option Nat
  restartAt : Option Nat
  /-- plane of the next stack (R97) -/
  nextPlane : Nat
  /-- launches not folded while the next stack waits (Table 4.5 SKIPPED) -/
  skipped : Nat
  /-- no stack has started since the strand started -/
  fresh : Bool
  /-- the launch before was not processed by the phase pipeline (R147) -/
  skippedLaunch : Bool
  /-- whole shots and time of the first launch since the last restart (Table 4.5) -/
  accShots : Nat
  tAcc : Time
  /-- launches made since the strand started -/
  launched : Bool
  /-- last launch tick, and the one before it -/
  launchTick : Nat
  prevLaunch : Option Nat
  /-- consecutive missing shots (R132) -/
  miss : Nat
  /-- learned level per shot type (R131) -/
  learned : List (Option Rat)
  /-- level of the last shot per type -/
  lastLevel : List Rat
  /-- start tick of the gap run in progress, number of the run in the period, RPT sampled at g (R160) -/
  gapRun : Option Nat
  gapIndex : Nat
  gapRpt : Nat
  gapFirst : Nat
  /-- port, L + N × d and P the launch fixed for the period (R57: it outlives a stop) -/
  perPort : Nat
  perGap : Nat
  perP : Nat
  deriving DecidableEq, Repr

/-- A strand that has never run. DESIGN CHOICE: log entry 4. -/
def StrandRt.idle : StrandRt :=
  { start := none, fixedAt := none, runPort := 0, runSw := 0, runP := 0, shot := none, stack := none, closed := none,
    lastClose := none, sysStop := none, restartRun := false, snapAt := none, restartAt := none, nextPlane := 0,
    skipped := 0, fresh := true, skippedLaunch := false, accShots := 0, tAcc := 0, launched := false, launchTick := 0,
    prevLaunch := none, miss := 0, learned := [none, none, none, none], lastLevel := [0, 0, 0, 0], gapRun := none,
    gapIndex := 0, gapRpt := 0, gapFirst := 0, perPort := 0, perGap := 0, perP := 0 }

/-- Run-time state of one probe port. -/
structure PortRt where
  /-- tick of the next launch while the port launches (R43) -/
  next : Option Nat
  /-- the launch sequence has begun (R43) -/
  launching : Bool
  /-- SW value fixed for the next launch (R42), and the tick in which a start tick last fixed it (R44) -/
  fixed : Option Nat
  fixTick : Option Nat
  /-- SW values in the rotation and the cycle counter of each (R111) -/
  cycles : List (Nat × Nat)
  /-- PRB_SW pins, and the value of the last launch, 0 after reset (R44) -/
  sw : Nat
  lastSw : Nat
  /-- last launch tick; none: no launch since reset or since WATCH ended (R126) -/
  lastLaunch : Option Nat
  /-- period of the last launch -/
  period : Nat
  /-- tick the idle setpoint steps count from (R126) -/
  idleFrom : Nat
  /-- fired pulse or chips of the shot: first tick and gate length, counted in ticks of the block (R113, R114) -/
  gate : List (Nat × Nat)
  /-- type of the last launch's shot -/
  ty : Nat
  /-- the gap of the last shot has been handled (R125) -/
  gapSeen : Bool
  /-- strands that took the last launch, and the latest of their first gap ticks, counted from it (R42) -/
  strands : List Nat
  gapOff : Nat
  /-- a derating result or a sensor fault arrived and the ceiling is not recomputed yet (R128) -/
  derDue : Bool
  /-- monitor integration of the shot: baseline sum and samples, sum of x and samples, last integration tick -/
  monBase : Rat
  monBaseCount : Nat
  monSum : Rat
  monCount : Nat
  monEnd : Option Nat
  monSeen : Bool
  /-- monitor miss count; per type: launches, sum of E, missed, learned energy (R134) -/
  monMiss : Nat
  monBlock : List (Nat × Rat)
  monBlockMiss : List Bool
  monLearned : List (Option Rat)
  /-- the monitor channel was ON and READY at the launch (R133) -/
  monReady : Bool
  /-- PRB_LAUNCHES of the launch on which one miss count reached 4 and raised PROBE_LOST (R134: LOST_SRC 3) -/
  lostAt : Option Nat
  deriving DecidableEq, Repr

/-- A port that has made no launch. DESIGN CHOICE: log entry 4. -/
def PortRt.idle : PortRt :=
  { next := none, launching := false, fixed := none, fixTick := none, cycles := [], sw := 0, lastSw := 0,
    lastLaunch := none, period := 0, idleFrom := 0, gate := [], ty := 0, gapSeen := true, strands := [], gapOff := 0,
    derDue := false, monBase := 0, monBaseCount := 0, monSum := 0, monCount := 0, monEnd := none, monSeen := true,
    monMiss := 0, monBlock := [(0, 0), (0, 0), (0, 0), (0, 0)], monBlockMiss := [false, false, false, false],
    monLearned := [none, none, none, none], monReady := false, lostAt := none }

/-- A gap run on one channel (R161, R162). -/
structure GapRun where
  start : Nat
  cq : Nat
  ct : Nat
  lin : Bool
  /-- start calibration run (R174) -/
  atStart : Bool
  /-- NOT_QUIET was decided (R165) -/
  notQuiet : Bool
  decided : Bool
  sumQ : Int
  sqQ : Nat
  ovlQ : Bool
  sumZ : Int
  sumP : Int
  sumN : Int
  sumHP : Int
  sumFP : Int
  sumHN : Int
  sumFN : Int
  /-- an overloaded sample among Z, P, N or the levels -/
  ovl : Bool
  /-- samples of ticks s + 576 to s + 639, latest first (R169) -/
  step : List Int
  deriving DecidableEq, Repr

/-- State of one comparator of a window monitor (R236). -/
structure Comparator where
  /-- unmasked raw decisions with their ticks, latest first -/
  win : List (Nat × Bool)
  f : Bool
  deriving DecidableEq, Repr

/-- An edge of a window monitor that waits for its routing (R244): its type (R237), its tick, and WMON_ROUTE as it stood
for that tick (R249). -/
structure MonEdge where
  kind : Nat
  tick : Nat
  route : Word
  deriving DecidableEq, Repr

/-- Phases of a window monitor: stopped, collecting its first decision (R240), deciding. -/
inductive MonPhase where
  | off | wait | first | on
  deriving DecidableEq, Repr

/-- Run-time state of one fast channel. -/
structure ChanRt where
  /-- plan in force (R68) and plan of the previous stack (R89) -/
  plan : Option Plan
  prevPlan : Option Plan
  planCut : Bool
  /-- gain code in force and the tick of its last change (R70, R238) -/
  gain : Nat
  gainTick : Option Nat
  /-- the launch of the shot in progress changed the gain (R72) -/
  launchChanged : Bool
  /-- samples that still count as overloaded (R73) -/
  ovlTail : Nat
  /-- per bight: shots with an overload, overload seen in this shot, peak (R75) -/
  ovlShots : List Nat
  ovlThis : List Bool
  peak : List Nat
  /-- per bight: consecutive under-range stacks (R77) -/
  urRun : List Nat
  /-- the evaluation of a closed stack is due: its close tick, and FC_PLAN_RT as the close instant found it (R76, R77) -/
  evalDue : Option (Nat × Word)
  /-- V_diff of the ticks before, latest first, as far back as the longest group delay (R62) -/
  pins : List Int
  /-- corrected samples of a quad's channel, latest first, as far back as the longest skew (R138) -/
  past : List Int
  /-- held and working values per code, skew (R159) -/
  hOff : List Int
  wOff : List Int
  hGain : List Int
  wGain : List Int
  hSkew : Int
  wSkew : Int
  /-- HELD writes waiting for the next launch tick (R177): working values to set; code 13 is the skew -/
  deferred : List (Nat × Bool × Int)
  /-- gap-run number, background code, previous plan code (R162, R171) -/
  runNo : Nat
  bgCode : Nat
  planCode : Option Nat
  run : Option GapRun
  /-- injected level in nV at the PGA output, nominal gain (R163); 0: off, and the tick it went off -/
  inj : Int
  injOff : Option Nat
  /-- consecutive rejections per code (R410) -/
  rejCode : List Nat
  /-- counters and times of R179 -/
  acc : Nat
  rej : Nat
  nq : Nat
  tAcc : Time
  ePos : Int
  eNeg : Int
  /-- start calibration: codes to measure in this pass and in the next, rejections per code (R174, R175) -/
  startTodo : List Nat
  startAgain : List Nat
  startRej : List Nat
  /-- power change: tick the channel is settled at (R80) -/
  settleAt : Option Nat
  /-- brought ON by the start calibration (R174) -/
  forceOn : Bool
  /-- window monitor -/
  mon : MonPhase
  upper : Comparator
  lower : Comparator
  /-- filtered-state changes not routed yet -/
  edges : List MonEdge
  /-- strobe in progress: start tick (R232) -/
  strobe : Option Nat
  lastStrobe : Option Nat
  /-- WMON_ROUTE as it stood for the last tick of the strobe (R249) -/
  strobeRoute : Word
  /-- last event record: tick; edges suppressed since (R246) -/
  evTick : Option Nat
  supp : Nat
  deriving DecidableEq, Repr

/-- Zero per gain code 0 to 12. -/
def zero13 : List Int := [0, 0, 0, 0, 0, 0, 0, 0, 0, 0, 0, 0, 0]
/-- Zero per bight. -/
def zero8 : List Nat := [0, 0, 0, 0, 0, 0, 0, 0]

/-- A channel after reset. DESIGN CHOICE: log entry 4. -/
def ChanRt.idle : ChanRt :=
  { plan := none, prevPlan := none, planCut := false, gain := 0, gainTick := none, launchChanged := false,
    ovlTail := 0, ovlShots := zero8, ovlThis := [false, false, false, false, false, false, false, false],
    peak := zero8, urRun := zero8, evalDue := none, pins := [], past := [], hOff := zero13, wOff := zero13, hGain := zero13,
    wGain := zero13, hSkew := 0, wSkew := 0, deferred := [], runNo := 0, bgCode := 0, planCode := none,
    run := none, inj := 0, injOff := none, rejCode := [0, 0, 0, 0, 0, 0, 0, 0, 0, 0, 0, 0, 0], acc := 0,
    rej := 0, nq := 0, tAcc := 0, ePos := 0, eNeg := 0, startTodo := [], startAgain := [],
    startRej := [0, 0, 0, 0, 0, 0, 0, 0, 0, 0, 0, 0, 0], settleAt := none, forceOn := false,
    mon := .off, upper := ⟨[], false⟩, lower := ⟨[], false⟩, edges := [], strobe := none,
    lastStrobe := none, strobeRoute := 0, evTick := none, supp := 0 }

/-- How a commit forms the old value of its bin (R87). -/
inductive OldKind where
  | zero | carry | self
  deriving DecidableEq, Repr

/-- Work of the fold engines and phase pipelines that is committed 32 ticks after its sample (R21, R144). -/
inductive Work where
  /-- one sample into a bin (R87); `last`: last sample of the bin in this shot; `fig`: the bight and the magnitude it
  enters the range figures with, none where it counts in neither (R75) -/
  | fold (chan plane bin : Nat) (x : Int) (old : OldKind) (leak : Option Nat) (ovl badFrame last : Bool)
    (fig : Option (Nat × Nat)) (ecc : Ecc)
  /-- state word of one bin (R142); `pp`: d² times the gauge product, none in a NOGAUGE bin; outcomes of the reads
  of the state word and of a row word in the QX and in the IY bank -/
  | phase (quad plane bin : Nat) (pp : Option (Int × Int)) (ref first : Bool) (ecc eccX eccY : Ecc)
  /-- power word of one bin (Table 6.2) -/
  | power (quad plane bin add : Nat) (first : Bool) (ecc : Ecc)
  /-- a sample of a phase channel: overloaded, from a bad frame, its range figures (R74, R75, R20) -/
  | note (chan plane bin : Nat) (ovl badFrame : Bool) (fig : Option (Nat × Nat))
  deriving DecidableEq, Repr

/-- A commit in flight. -/
structure Commit where
  due : Nat
  strand : Nat
  work : Work
  deriving DecidableEq, Repr

/-- Complex sums of one bin (R139): Zx real and imaginary part, Zy real and imaginary part. -/
structure BinSum where
  xr : Int
  xi : Int
  yr : Int
  yi : Int
  deriving DecidableEq, Repr

/-- Run-time state of one phase pipeline. -/
structure QuadRt where
  /-- shots since the last reference shot (R143) -/
  shots : Nat
  /-- lanyard time of the last reference shot (R150) -/
  tRef : Time
  /-- rows written since the last reference shot, of which PHASE_QROW shows 32 bits, and the number of the stack's row 0
  (R143, Table 6.5) -/
  rowK : Nat
  row0 : Nat
  /-- rows of a stack, effective history length, fade threshold taken at the stack start (R141, R149) -/
  rows : Nat
  heff : Nat
  fade : Nat
  hcut : Bool
  /-- the stack began with a reference shot -/
  refStack : Bool
  /-- rate was over budget when the stack started (Table 6.10) -/
  rateOver : Bool
  /-- bin sums of the shot in progress (R139) -/
  z : SMap BinSum
  /-- sum of squares of the bin in progress -/
  pow : Nat
  /-- row accumulation of the position in progress: sum of PHIB, fade, no gauge (R143) -/
  accPhib : Nat
  accFade : Bool
  accNg : Bool
  deriving DecidableEq, Repr

/-- A pipeline no run has used. DESIGN CHOICE: log entry 4. -/
def QuadRt.idle : QuadRt :=
  { shots := 0, tRef := 0, rowK := 0, row0 := 0, rows := 0, heff := 0, fade := 0, hcut := false, refStack := false,
    rateOver := false, z := [], pow := 0, accPhib := 0, accFade := false, accNg := false }

/-- Stack header and plan record (Table 4.5). -/
structure Header where
  stackNo : Nat
  strand : Nat
  smode : Nat
  dec : Nat
  leak : Nat
  nbin : Nat
  ldly : Nat
  flags : Nat
  shots : Nat
  pbin : Nat
  skipped : Nat
  tFirst : Time
  tLast : Time
  tAcc : Time
  nsat : Nat
  necc : Nat
  novl : Nat
  plan : Plan
  deriving DecidableEq, Repr

/-- Phase record of the IX plane (Table 6.5). -/
structure PhaseRec where
  row0 : Nat
  nrow : Nat
  rdone : Nat
  heff : Nat
  gauge : Nat
  sdec : Nat
  tdec : Nat
  pol : Nat
  prflags : Nat
  tRef : Time
  /-- PHASE_GSTAT.RATE_OVER when the stack started (Table 6.10); no byte of the record holds it -/
  rateOver : Bool
  /-- ticks between the strand's launches, P × s, as the stack closed (Table 6.9 LPERIOD); no byte of the record holds it -/
  lper : Nat
  deriving DecidableEq, Repr

/-- What a plane's metadata holds beside its quality map. -/
structure Meta where
  header : Header
  phase : Option PhaseRec
  deriving DecidableEq, Repr

/-- A monitor event record (Table 10.3). -/
structure MonRec where
  t : Time
  chan : Nat
  edge : Nat
  supp : Nat
  strand : Nat
  capt : Nat
  deriving DecidableEq, Repr

end Sys2Proof.Machine
end

