-- ==== Sys2Proof/Machine/LinkState.lean ====
section
/-! DEFINITION. State of the host port, the maintenance UART's frames, the hawser ports and the lanyard that no
register shows (chapters 14, 15 and R443). -/

namespace Sys2Proof.Machine

/-- A message of classes 3 to 5 that the device formed (R336, R338): its TYPE and payload. -/
structure Msg where
  ty : Nat
  payload : List Byte
  deriving DecidableEq, Repr

/-- What waits in classes 3 to 5. -/
inductive TxBody where
  /-- a message the device formed -/
  | own (payload : List Byte)
  /-- a core send, read from DM segment by segment (R337): core, address, length, lanyard time of the END -/
  | send (core addr len : Nat) (t : Time)
  /-- a send of a library kernel: its core and what its buffer holds (R300, R337) -/
  | lib (core : Nat) (payload : List Byte)
  /-- a segment of another device that the head forwards (R359) -/
  | seg (d : Datagram)
  deriving DecidableEq, Repr

/-- A message that waits, the bytes of it already sent, and its MSGNO once it has one (R336). -/
structure TxItem where
  ty : Nat
  origin : Nat
  body : TxBody
  off : Nat
  no : Option Nat
  deriving DecidableEq, Repr

/-- Is it a message of this device's own forming? -/
def TxItem.isOwn (m : TxItem) : Bool :=
  match m.body with
  | .own _ => true
  | _ => false

/-- Where a response goes. -/
inductive To where
  | host (mac : BitVec 48) (ip : Word) (port : Half)
  | hawser
  | uart
  deriving DecidableEq, Repr

/-- A response of class 1 (R331, R338). -/
structure Reply where
  dest : To
  origin : Nat
  session : Nat
  seq : Nat
  payload : List Byte
  retx : Bool
  /-- message number; none: not sent yet -/
  msgno : Option Nat
  /-- the session ends once it has been sent (R335) -/
  ends : Bool
  /-- the cache keeps it once it has been sent (R330) -/
  keep : Bool
  deriving DecidableEq, Repr

/-- A command taken in SEQ order whose response is not formed yet, or waits for one that is not (R331). -/
structure CmdSlot where
  seq : Nat
  ty : Nat
  origin : Nat
  dest : To
  /-- accesses of a READ or WRITE, for the answer GATED (R360) -/
  count : Nat
  /-- the response payload once formed -/
  resp : Option (List Byte)
  ends : Bool
  deriving DecidableEq, Repr

/-- A command that is received and not executed: it waits behind a FENCE (R333). -/
structure Waiting where
  seq : Nat
  ty : Nat
  origin : Nat
  payload : List Byte
  deriving DecidableEq, Repr

/-- A frame as it leaves on a line. -/
inductive Line where
  /-- a datagram of the host port: destination, IPv4 identification, datagram, and the whole frame (Table 14.1, R323) -/
  | tilvar (dest : To) (ident : Nat) (d : Datagram) (frame : List Byte)
  /-- an ARP answer (R325) -/
  | arp (mac : BitVec 48) (ip : Word)
  /-- what auto-negotiation advertises: 100GBASE-KR4, RS-FEC requested, symmetric PAUSE (Table 14.2) -/
  | advert (kr4 rsFec symPause : Bool)
  /-- a PAUSE frame (R341) -/
  | pause (quanta : Nat)
  /-- a frame of the maintenance UART: TYPE, TAG, payload (R443) -/
  | uart (ty tag : Nat) (payload frame : List Byte)
  /-- a frame of a hawser port -/
  | hawser (p : HwPort) (f : HwFrame)
  /-- an ACK frame: NEXT, CREDIT, KIND 1 (R355) -/
  | ack (p : HwPort) (next credit : Nat) (retry : Bool)
  /-- an LNY frame that starts an exchange -/
  | lny (p : HwPort)
  /-- the answer to one: t2, t3, own HOPS, ASYM of the port in ps (R368) -/
  | lnyAnswer (p : HwPort) (t2 t3 : Int) (hops : Nat) (asym : Int)
  /-- a REQUEST frame on LP_SIG for a class (R461) -/
  | request (cls : Nat) (frame : List Byte)
  deriving DecidableEq, Repr

/-- The host port and the maintenance UART. -/
structure LinkSt where
  /-- EVT_N driven low (R346) -/
  evtN : Bool
  /-- frames the lines have carried, newest first; the model's record of the outputs -/
  wire : List Line
  /-- class 1, class 2 and classes 3 to 5 (R338), oldest first -/
  replies : List Reply
  retx : List Datagram
  txq : List TxItem
  /-- messages begun and not ended: class, ORIGIN, MSGNO (R336) -/
  begun : List (Nat × Nat × Nat)
  /-- reliable datagrams held for NAK (R339) -/
  held : SMap Datagram
  /-- responses kept for a repeated command (R330), newest first -/
  cache : List Reply
  slots : List CmdSlot
  /-- received commands not executed yet; a FENCE waits for its answer (R333) -/
  inq : List Waiting
  fence : Bool
  /-- last session number, next MSGNO, next IPv4 identification, timeout of CONNECT (0: HOSTLINK_TMO) -/
  lastSession : Nat
  msgno : Nat
  ident : Nat
  tmo : Nat
  /-- PAUSE was sent and the buffer has not fallen below 16 KiB (R341) -/
  pausing : Bool
  /-- UART: a FENCE waits for its answer (its TAG), frames that wait: TAG, TYPE, payload (R443) -/
  uartFence : Option Nat
  uartq : List (Nat × Nat × List Byte)
  deriving DecidableEq, Repr

/-- A host port with nothing waiting. DESIGN CHOICE: log entry 4. -/
def LinkSt.reset : LinkSt :=
  { evtN := false, wire := [], replies := [], retx := [], txq := [], begun := [], held := [], cache := [], slots := [],
    inq := [], fence := false, lastSession := 0, msgno := 0, ident := 0, tmo := 0, pausing := false, uartFence := none,
    uartq := [] }

/-- One hawser port (R355, R356, R367, R368). -/
structure HwPortSt where
  /-- next LSEQ, sent frames not acknowledged yet, oldest first -/
  next : Nat
  unacked : List HwFrame
  /-- next expected LSEQ -/
  rxNext : Nat
  /-- consecutive replays without NEXT advancing -/
  replays : Nat
  /-- frames the partner has room for -/
  credit : Nat
  /-- frames that wait: class, own (not transit), frame -/
  wait : List (Nat × Bool × HwFrame)
  /-- classes in which the last frame served was an own one (R356) -/
  lastOwn : List Nat
  /-- neighbour's HOPS and delay of the last exchange in ps -/
  hops : Option Nat
  delay : Option Int
  deriving DecidableEq, Repr

/-- A port that has just come up: 64 frames of credit until an ACK says otherwise. -/
def HwPortSt.up : HwPortSt := ⟨0, [], 0, 0, 64, [], [], none, none⟩

/-- What the head keeps of one segment of a source (R359): the copy forwarded (check word and length, path B), and a path-B
copy held. -/
structure Copy where
  done : Option (Word × Nat × Bool)
  held : Option HwFrame
  deriving DecidableEq, Repr

/-- Window of one source at the head. -/
structure SrcWin where
  /-- highest RSEQ seen plus 1; none: none seen -/
  top : Option Nat
  copies : SMap Copy
  deriving DecidableEq, Repr

/-- A CMD the destination executed (R360): session, RSEQ, check word. -/
structure Done where
  session : Nat
  rseq : Nat
  ccrc : Word
  deriving DecidableEq, Repr

/-- The hawser and the lanyard. -/
structure HawserSt where
  portA : HwPortSt
  portB : HwPortSt
  /-- next RSEQ of the device's own segments (R358) -/
  rseq : Nat
  /-- windows of the sources at the head -/
  wins : SMap SrcWin
  /-- last incarnation number of each position (R364) -/
  incarn : SMap Nat
  /-- CMD frames executed, newest first -/
  done : List Done
  /-- hawser source: a FENCE waits for its answer, later commands wait behind it (R361) -/
  fence : Option Datagram
  waiting : List Datagram
  /-- broken segments the head knows, and whether TOPO has returned on HW_A and on HW_B since (R362) -/
  broken : List Nat
  backA : Bool
  backB : Bool
  /-- consecutive exchanges within 10 ps, and beyond 30 ps (R369, R372) -/
  good : Nat
  bad : Nat
  deriving DecidableEq, Repr

/-- No frame in flight. DESIGN CHOICE: log entry 4. -/
def HawserSt.reset : HawserSt :=
  { portA := HwPortSt.up, portB := HwPortSt.up, rseq := 0, wins := [], incarn := [], done := [], fence := none,
    waiting := [], broken := [], backA := false, backB := false, good := 0, bad := 0 }

end Sys2Proof.Machine
end

