-- ==== Sys2Proof/Machine/PrecState.lean ====
section
/-! DEFINITION. State of the precision channels that no register shows (chapters 08 and 09). -/

namespace Sys2Proof.Machine

/-- A PCVAL record (Table 9.7). -/
structure PcRec where
  t : Time
  chan : Nat
  sel : Nat
  gain : Nat
  fmode : Nat
  xe : Int
  flags : Nat
  seqno : Nat
  pair : Int
  deriving DecidableEq, Repr

/-- Calibration values of one precision channel as the store holds them (Table 9.6). -/
structure PcCal where
  /-- internal offsets per gain code, XE units -/
  off : List Int
  /-- internal gain corrections per gain code, 2⁻²⁴ -/
  gain : List Int
  /-- source currents in nA: code 1 A, code 1 B, code 2 A, ... -/
  cur : List Int
  /-- attenuator ratio, 2⁻²⁴ -/
  att : Int
  sysOff : Int
  sysGain : Int
  deriving DecidableEq, Repr

/-- Run-time state of one precision channel. -/
structure PcRt where
  /-- PC_EXC, PC_IEX, PC_CONN, PC_DIAG, PC_ADC, PC_SEQ and the slot registers as they are in force (R218) -/
  force : List Word
  /-- discard periods left before the result period (R208) -/
  discard : Nat
  /-- REV or SWAP phase (R216) -/
  phase : Nat
  /-- sequencer slot and valid results taken in it (R221) -/
  slot : Nat
  count : Nat
  /-- multiplexer input and gain in force -/
  sel : Nat
  gain : Nat
  /-- automatic gain chosen for measurement slots (R217) -/
  again : Nat
  /-- tick of the last filter boundary or of the restart of the grid (R219) -/
  edge : Nat
  /-- tick of the last write that waits for a conversion boundary (R218) -/
  wroteAt : Option Nat
  /-- modulator clocks since the last diagnostic insertion; step of the rotation (R222) -/
  diagClk : Nat
  diagStep : Nat
  diagNow : Bool
  /-- consecutive bad samples of the sense, open and short checks; consecutive good sense samples -/
  snsBad : Nat
  openBad : Nat
  shortBad : Nat
  snsGood : Nat
  /-- the latest monitor sample was bad for the sense check -/
  snsNow : Bool
  /-- SNS_FAULT was raised and no conversion boundary has come since (R198) -/
  snsDue : Bool
  /-- the conversion in progress overlapped a bad sense sample or a conducting clamp -/
  convSns : Bool
  convClamp : Bool
  /-- SNS_FAULT cleared in fall-back with FBRET 0 (R200) -/
  fbExit : Bool
  /-- held current in 10 nA and the excitation code then in force, held load in 1/64 ohm (R197) -/
  iHeld : Option (Nat × Nat)
  rLoad : Nat
  /-- fall-back current in 10 nA (R198) -/
  iFb : Nat
  /-- XE of a valid phase-0 result that the next valid phase-1 result pairs with (R216) -/
  pair0 : Option Int
  /-- PAIR of the last result with PAIR_VALID (R216, R312) -/
  pairMean : Int
  /-- |XE| of the last valid result when it allowed a step up (R217) -/
  upPrev : Option Nat
  /-- gain step decided, in force at the next boundary -/
  gainNext : Option Nat
  /-- marks due on the next valid result -/
  markFirst : Bool
  markAgain : Bool
  seqNo : Nat
  decCount : Nat
  cal : PcCal
  /-- consecutive rejections of each internal value: offsets, gains, currents, attenuator (R225) -/
  rejRun : List Nat
  /-- die values of Kealvavin test (Table 9.6) -/
  rint : Nat
  kref : Nat
  /-- system calibration in progress: span?, sum, results taken (R226) -/
  sys : Option (Bool × Int × Nat)
  /-- system values that take effect at the next conversion boundary -/
  sysNew : Option (Int × Int)
  /-- latest result the derating counts as valid, and a sensor fault with no valid result since (R128, R129) -/
  lastX : Option Int
  sensFault : Bool
  deriving DecidableEq, Repr

/-- A precision channel and its PC_FSTAT as a conversion boundary of the present clock found them (R220). -/
structure PcWas where
  rt : PcRt
  fstat : Word
  deriving DecidableEq, Repr

/-- Zero calibration values. -/
def PcCal.zero : PcCal :=
  ⟨[0, 0, 0, 0, 0, 0, 0, 0], [0, 0, 0, 0, 0, 0, 0, 0], [0, 0, 0, 0, 0, 0, 0, 0, 0, 0, 0, 0, 0, 0], 0, 0, 0⟩

/-- A precision channel after reset: every configuration register at its reset value, nothing in progress.
DESIGN CHOICE: log entry 4. -/
def PcRt.reset : PcRt :=
  { force := [0x00500000, 0, 0, 0, 0x00070006, 0x00000A00, 0x100, 0x100, 0x100, 0x100],
    discard := 0, phase := 0, slot := 0, count := 0, sel := 0, gain := 0, again := 0, edge := 0, wroteAt := none, diagClk := 0,
    diagStep := 0, diagNow := false, snsBad := 0, openBad := 0, shortBad := 0, snsGood := 0, snsNow := false, snsDue := false,
    convSns := false, convClamp := false, fbExit := false, iHeld := none, rLoad := 0, iFb := 0, pair0 := none,
    pairMean := 0, upPrev := none, gainNext := none, markFirst := false, markAgain := false, seqNo := 0, decCount := 0,
    cal := PcCal.zero,
    rejRun := [0, 0, 0, 0, 0, 0, 0, 0, 0, 0, 0, 0, 0, 0, 0, 0, 0, 0, 0, 0, 0, 0, 0, 0, 0, 0, 0, 0, 0, 0, 0],
    rint := 0, kref := 0, sys := none, sysNew := none, lastX := none, sensFault := false }

end Sys2Proof.Machine
end

