-- ==== Sys2Proof/Machine/RegTable.lean ====
section
/-! DEFINITION. The register map of chapter 19: every block of Table 19.1, every register of Table 19.2 and
every field of the field tables it names, with its access code and reset value (R16, R445 to R450).
`Reg.<BLOCK>_<REG>_<FIELD>` names a field as the manual does. -/

namespace Sys2Proof.Machine

/-- Access codes, Table 0.2 (R16). -/
inductive Acc where
  | ro | rw | rwl | w1c | w1s | rc | wo | img
  deriving DecidableEq, Repr

/-- Clock islands, Table 1.3; `plan` is the FC plan, which lies in all 12 sample islands (R84). -/
inductive Island where
  | sample | plan | fold | phase | core | link | housekeeping | precision
  deriving DecidableEq, Repr

/-- Instance groups of Table 19.1. -/
inductive Grp where
  | global | lanyard | power | boot | safety | log | probe | code | strand | fc | plan | wmon | wmonG | gapcal | gapCh | pc | foldG | foldS | foldC | phaseG | quad | core | hostlink | hawser
  deriving DecidableEq, Repr

/-- One field of a field table: bits `hi:lo`, access code, value at reset (R450). -/
structure FieldSpec where
  hi : Nat
  lo : Nat
  acc : Acc
  reset : Nat
  deriving DecidableEq, Repr

/-- One register of an instance: its offset, and for the registers the tables list once with `+ 4k` or
`+ 8k` the number of copies and their distance. -/
structure RegSpec where
  off : Nat
  copies : Nat
  step : Nat
  fields : List FieldSpec
  deriving DecidableEq, Repr

/-- One instance group of Table 19.1. -/
structure GroupSpec where
  grp : Grp
  base : Nat
  stride : Nat
  count : Nat
  island : Island
  regs : List RegSpec
  deriving DecidableEq, Repr

/-- A named field: where instance 0 holds it, the stride of its instances, its bits. -/
structure Field where
  base : Nat
  stride : Nat
  hi : Nat
  lo : Nat
  deriving DecidableEq, Repr

/-- Address of the register that holds field `f` of instance `i`. -/
def Field.addr (f : Field) (i : Nat) : Nat := f.base + f.stride * i

/-- Number of values a field of this width can hold. -/
def Field.span (f : Field) : Nat := 2 ^ (f.hi + 1 - f.lo)

/-- Registers of the GLOBAL group (R448 Table 19.3). -/
def globalRegs : List RegSpec := [
  ⟨0x0, 1, 0, [⟨31, 16, .ro, 0x7192⟩, ⟨7, 0, .ro, 0xb0⟩]⟩,
  ⟨0x4, 1, 0, [⟨31, 0, .ro, 0x10000⟩]⟩,
  ⟨0x8, 1, 0, [⟨31, 0, .ro, 0x10000⟩]⟩,
  ⟨0xc, 1, 0, [⟨2, 1, .ro, 0⟩, ⟨0, 0, .ro, 0⟩]⟩,
  ⟨0x10, 1, 0, [⟨31, 0, .rw, 0⟩]⟩,
  ⟨0x14, 1, 0, [⟨31, 0, .rw, 0⟩]⟩,
  ⟨0x18, 1, 0, [⟨15, 0, .rw, 0x690⟩]⟩,
  ⟨0x1c, 1, 0, [⟨8, 8, .ro, 0⟩, ⟨5, 0, .w1c, 0⟩]⟩,
  ⟨0x20, 6, 4, [⟨15, 0, .ro, 0⟩]⟩]

/-- Registers of the LANYARD group (R375 Table 15.7). -/
def lanyardRegs : List RegSpec := [
  ⟨0x0, 1, 0, [⟨2, 2, .img, 0⟩, ⟨1, 1, .img, 0⟩, ⟨0, 0, .img, 0⟩]⟩,
  ⟨0x4, 1, 0, [⟨8, 7, .ro, 0⟩, ⟨6, 6, .w1c, 0⟩, ⟨5, 5, .ro, 0⟩, ⟨4, 4, .ro, 0⟩, ⟨3, 3, .ro, 0⟩, ⟨2, 2, .w1c, 0⟩, ⟨0, 0, .ro, 0⟩]⟩,
  ⟨0x8, 1, 0, [⟨31, 0, .ro, 0⟩]⟩,
  ⟨0xc, 1, 0, [⟨31, 0, .ro, 0⟩]⟩,
  ⟨0x10, 1, 0, [⟨31, 0, .ro, 0⟩]⟩,
  ⟨0x14, 1, 0, [⟨31, 0, .ro, 0⟩]⟩,
  ⟨0x18, 1, 0, [⟨15, 0, .ro, 0⟩]⟩,
  ⟨0x1c, 1, 0, [⟨23, 0, .ro, 0⟩]⟩,
  ⟨0x20, 1, 0, [⟨31, 16, .img, 0⟩, ⟨15, 0, .img, 0⟩]⟩,
  ⟨0x24, 1, 0, [⟨5, 0, .ro, 0⟩]⟩]

/-- Registers of the POWER group (R404 Table 16.11). -/
def powerRegs : List RegSpec := [
  ⟨0x0, 1, 0, [⟨11, 8, .ro, 0⟩, ⟨7, 7, .ro, 0⟩, ⟨6, 6, .w1c, 0⟩, ⟨5, 4, .ro, 0⟩, ⟨3, 2, .ro, 0⟩, ⟨0, 0, .ro, 0⟩]⟩]

/-- Registers of the BOOT group (R403 Table 16.10). -/
def bootRegs : List RegSpec := [
  ⟨0x0, 1, 0, [⟨3, 0, .ro, 3⟩]⟩,
  ⟨0x4, 1, 0, [⟨15, 8, .wo, 0⟩, ⟨4, 4, .rwl, 0⟩, ⟨3, 3, .wo, 0⟩, ⟨2, 2, .wo, 0⟩, ⟨1, 1, .wo, 0⟩, ⟨0, 0, .wo, 0⟩]⟩,
  ⟨0x8, 1, 0, [⟨19, 18, .ro, 0⟩, ⟨17, 17, .ro, 0⟩, ⟨16, 16, .ro, 0⟩, ⟨15, 15, .ro, 0⟩, ⟨14, 14, .ro, 0⟩, ⟨13, 13, .w1c, 0⟩, ⟨8, 8, .ro, 0⟩, ⟨7, 7, .ro, 0⟩, ⟨6, 6, .ro, 0⟩, ⟨5, 5, .ro, 0⟩, ⟨4, 4, .ro, 0⟩, ⟨0, 0, .ro, 0⟩]⟩,
  ⟨0xc, 1, 0, [⟨31, 0, .ro, 0⟩]⟩,
  ⟨0x10, 1, 0, [⟨31, 0, .ro, 0⟩]⟩,
  ⟨0x14, 1, 0, [⟨31, 0, .img, 0⟩]⟩,
  ⟨0x18, 1, 0, [⟨31, 0, .ro, 0⟩]⟩,
  ⟨0x1c, 1, 0, [⟨31, 16, .ro, 0⟩, ⟨15, 0, .ro, 0⟩]⟩,
  ⟨0x20, 1, 0, [⟨7, 7, .ro, 0⟩, ⟨6, 6, .ro, 0⟩, ⟨2, 0, .ro, 0⟩]⟩,
  ⟨0x24, 1, 0, [⟨31, 0, .ro, 0⟩]⟩,
  ⟨0x28, 1, 0, [⟨4, 0, .ro, 0⟩]⟩,
  ⟨0x2c, 1, 0, [⟨31, 0, .rw, 0⟩]⟩,
  ⟨0x30, 1, 0, [⟨31, 0, .ro, 0⟩]⟩,
  ⟨0x34, 1, 0, [⟨31, 0, .ro, 0⟩]⟩,
  ⟨0x38, 1, 0, [⟨31, 0, .rwl, 0⟩]⟩,
  ⟨0x3c, 1, 0, [⟨31, 0, .rwl, 0⟩]⟩,
  ⟨0x40, 1, 0, [⟨1, 0, .rwl, 0⟩]⟩,
  ⟨0x44, 1, 0, [⟨2, 2, .w1c, 0⟩, ⟨1, 1, .w1c, 0⟩, ⟨0, 0, .ro, 0⟩]⟩]

/-- Registers of the SAFETY group (R426 Table 17.5). -/
def safetyRegs : List RegSpec := [
  ⟨0x0, 1, 0, [⟨15, 0, .w1c, 0⟩]⟩,
  ⟨0x4, 1, 0, [⟨15, 4, .img, 0⟩, ⟨3, 0, .ro, 0xf⟩]⟩,
  ⟨0x8, 1, 0, [⟨15, 8, .ro, 0⟩, ⟨2, 2, .ro, 0⟩, ⟨1, 1, .ro, 0⟩, ⟨0, 0, .ro, 1⟩]⟩,
  ⟨0xc, 1, 0, [⟨31, 0, .ro, 0⟩]⟩,
  ⟨0x10, 1, 0, [⟨31, 0, .ro, 0⟩]⟩,
  ⟨0x14, 1, 0, [⟨31, 0, .img, 0xffffffff⟩]⟩,
  ⟨0x18, 1, 0, [⟨31, 0, .img, 0xffffffff⟩]⟩,
  ⟨0x1c, 1, 0, [⟨23, 0, .img, 0xffffff⟩]⟩,
  ⟨0x20, 1, 0, [⟨31, 31, .w1c, 0⟩, ⟨11, 8, .ro, 0⟩, ⟨7, 0, .ro, 0⟩]⟩,
  ⟨0x24, 1, 0, [⟨31, 0, .ro, 0⟩]⟩,
  ⟨0x28, 1, 0, [⟨0, 0, .rwl, 0⟩]⟩,
  ⟨0x2c, 1, 0, [⟨23, 0, .w1c, 0⟩]⟩]

/-- Registers of the LOG group (R444 Table 18.9). -/
def logRegs : List RegSpec := [
  ⟨0x0, 1, 0, [⟨0, 0, .rwl, 0⟩]⟩,
  ⟨0x4, 1, 0, [⟨31, 0, .rwl, 0⟩]⟩,
  ⟨0x8, 1, 0, [⟨11, 8, .ro, 0⟩, ⟨7, 6, .ro, 0⟩, ⟨4, 4, .w1c, 0⟩, ⟨3, 3, .ro, 0⟩, ⟨2, 2, .ro, 0⟩]⟩,
  ⟨0xc, 1, 0, [⟨31, 0, .ro, 0⟩]⟩,
  ⟨0x10, 1, 0, [⟨31, 0, .rc, 0⟩]⟩,
  ⟨0x14, 1, 0, [⟨31, 0, .ro, 0⟩]⟩,
  ⟨0x100, 1, 0, [⟨11, 10, .ro, 0⟩, ⟨9, 9, .ro, 0⟩, ⟨8, 8, .ro, 0⟩, ⟨6, 4, .ro, 0⟩, ⟨3, 3, .ro, 1⟩, ⟨1, 0, .ro, 0⟩]⟩,
  ⟨0x104, 1, 0, [⟨23, 16, .img, 0x1e⟩, ⟨3, 2, .ro, 0⟩, ⟨1, 0, .img, 0⟩]⟩,
  ⟨0x108, 1, 0, [⟨9, 0, .ro, 0⟩]⟩,
  ⟨0x10c, 1, 0, [⟨31, 0, .ro, 0⟩]⟩,
  ⟨0x110, 1, 0, [⟨31, 0, .ro, 0⟩]⟩,
  ⟨0x114, 1, 0, [⟨31, 0, .rc, 0⟩]⟩]

/-- Registers of the PROBE group (R136 Table 5.5). -/
def probeRegs : List RegSpec := [
  ⟨0x0, 1, 0, [⟨8, 8, .rw, 0⟩, ⟨1, 0, .rw, 0⟩]⟩,
  ⟨0x4, 1, 0, [⟨11, 0, .rw, 4⟩]⟩,
  ⟨0x8, 1, 0, [⟨27, 24, .rw, 0⟩, ⟨19, 8, .rw, 0⟩, ⟨7, 0, .rw, 0⟩]⟩,
  ⟨0xc, 1, 0, [⟨23, 16, .rw, 0x10⟩, ⟨11, 0, .rw, 0⟩]⟩,
  ⟨0x10, 1, 0, [⟨27, 16, .ro, 0xfff⟩, ⟨11, 0, .ro, 0⟩]⟩,
  ⟨0x14, 1, 0, [⟨31, 31, .rw, 0⟩, ⟨30, 30, .rw, 0⟩, ⟨20, 16, .rw, 0⟩, ⟨11, 0, .rw, 0⟩]⟩,
  ⟨0x18, 1, 0, [⟨23, 0, .rw, 0⟩]⟩,
  ⟨0x1c, 1, 0, [⟨23, 0, .rw, 0⟩]⟩,
  ⟨0x20, 1, 0, [⟨31, 31, .rw, 1⟩, ⟨30, 29, .rw, 0⟩, ⟨23, 16, .rw, 0x10⟩, ⟨5, 0, .rw, 0⟩]⟩,
  ⟨0x24, 1, 0, [⟨15, 0, .img, 0x40⟩]⟩,
  ⟨0x28, 1, 0, [⟨23, 16, .rw, 0⟩, ⟨15, 8, .rw, 0⟩, ⟨7, 0, .rw, 4⟩]⟩,
  ⟨0x2c, 1, 0, [⟨31, 0, .img, 0x400⟩]⟩,
  ⟨0x30, 4, 4, [⟨31, 16, .ro, 0⟩, ⟨15, 0, .ro, 0⟩]⟩,
  ⟨0x40, 4, 4, [⟨31, 0, .ro, 0⟩]⟩,
  ⟨0x50, 1, 0, [⟨29, 24, .ro, 0⟩, ⟨23, 22, .ro, 0⟩, ⟨15, 15, .w1c, 0⟩, ⟨14, 14, .w1c, 0⟩, ⟨13, 13, .ro, 1⟩, ⟨12, 12, .ro, 0⟩, ⟨11, 11, .w1c, 0⟩, ⟨10, 10, .w1c, 0⟩, ⟨7, 4, .ro, 0⟩, ⟨1, 0, .ro, 0⟩]⟩,
  ⟨0x54, 1, 0, [⟨31, 0, .ro, 0⟩]⟩]

/-- Registers of the CODE group (R137 Table 5.6). -/
def codeRegs : List RegSpec := [
  ⟨0x0, 32, 4, [⟨31, 0, .rw, 0⟩]⟩,
  ⟨0x80, 32, 4, [⟨31, 0, .rw, 0⟩]⟩]

/-- Registers of the STRAND group (R50 Table 2.7). -/
def strandRegs : List RegSpec := [
  ⟨0x0, 1, 0, [⟨15, 15, .rw, 0⟩, ⟨14, 12, .rw, 0⟩, ⟨11, 8, .rw, 0⟩, ⟨7, 4, .rw, 0⟩, ⟨3, 1, .rw, 0⟩, ⟨0, 0, .rw, 0⟩]⟩,
  ⟨0x4, 1, 0, [⟨11, 0, .rw, 0⟩]⟩,
  ⟨0x8, 1, 0, [⟨16, 0, .rw, 0x200⟩]⟩,
  ⟨0xc, 1, 0, [⟨23, 0, .rw, 0x30d4⟩]⟩,
  ⟨0x10, 1, 0, [⟨23, 0, .rw, 1⟩]⟩,
  ⟨0x14, 1, 0, [⟨31, 0, .rw, 0⟩]⟩,
  ⟨0x18, 1, 0, [⟨31, 0, .rw, 0⟩]⟩,
  ⟨0x1c, 1, 0, [⟨15, 8, .wo, 0⟩, ⟨1, 1, .wo, 0⟩, ⟨0, 0, .wo, 0⟩]⟩,
  ⟨0x20, 1, 0, [⟨9, 9, .w1c, 0⟩, ⟨8, 8, .w1c, 0⟩, ⟨7, 4, .ro, 0⟩, ⟨1, 0, .ro, 0⟩]⟩,
  ⟨0x24, 1, 0, [⟨31, 0, .ro, 0⟩]⟩,
  ⟨0x28, 1, 0, [⟨23, 0, .ro, 0⟩]⟩,
  ⟨0x2c, 1, 0, [⟨31, 0, .ro, 0⟩]⟩,
  ⟨0x30, 1, 0, [⟨31, 0, .ro, 0⟩]⟩]

/-- Registers of the FC group (R35 Table 2.2, R83 Table 3.9). -/
def fcRegs : List RegSpec := [
  ⟨0x0, 1, 0, [⟨27, 24, .rw, 0⟩, ⟨19, 19, .rw, 0⟩, ⟨18, 16, .rw, 0⟩, ⟨13, 12, .rw, 0⟩, ⟨9, 8, .rw, 0⟩]⟩,
  ⟨0x4, 1, 0, [⟨15, 15, .rw, 0⟩, ⟨11, 8, .rw, 0⟩, ⟨5, 0, .rw, 0⟩]⟩,
  ⟨0x8, 1, 0, [⟨3, 0, .rw, 0⟩, ⟨7, 4, .rw, 0⟩, ⟨11, 8, .rw, 0⟩, ⟨15, 12, .rw, 0⟩, ⟨19, 16, .rw, 0⟩, ⟨23, 20, .rw, 0⟩, ⟨27, 24, .rw, 0⟩, ⟨31, 28, .rw, 0⟩]⟩,
  ⟨0xc, 1, 0, [⟨31, 24, .ro, 0⟩, ⟨23, 16, .ro, 0⟩, ⟨15, 8, .ro, 0⟩, ⟨7, 7, .ro, 0⟩, ⟨6, 6, .w1c, 0⟩, ⟨5, 5, .w1c, 0⟩, ⟨4, 4, .w1c, 0⟩, ⟨3, 3, .ro, 0⟩, ⟨1, 0, .ro, 1⟩]⟩]

/-- Registers of the FCPLAN group (R84 Table 3.10). -/
def planRegs : List RegSpec := [
  ⟨0x0, 1, 0, [⟨28, 20, .rw, 0⟩, ⟨18, 10, .rw, 0⟩, ⟨8, 0, .rw, 0⟩]⟩,
  ⟨0x4, 1, 0, [⟨28, 20, .rw, 0⟩, ⟨18, 10, .rw, 0⟩, ⟨8, 0, .rw, 0⟩]⟩,
  ⟨0x8, 1, 0, [⟨22, 16, .rw, 8⟩, ⟨14, 12, .rw, 0⟩, ⟨8, 0, .rw, 0⟩]⟩,
  ⟨0xc, 1, 0, [⟨31, 31, .rw, 0⟩, ⟨30, 27, .rw, 0xc⟩, ⟨26, 23, .rw, 0⟩, ⟨22, 21, .rw, 0⟩, ⟨20, 17, .rw, 4⟩, ⟨14, 8, .rw, 0x30⟩, ⟨7, 0, .rw, 4⟩]⟩]

/-- Registers of the WMON group (R250 Table 10.5). -/
def wmonRegs : List RegSpec := [
  ⟨0x0, 1, 0, [⟨23, 23, .rw, 0⟩, ⟨22, 22, .rw, 1⟩, ⟨21, 16, .rw, 8⟩, ⟨15, 12, .rw, 4⟩, ⟨11, 8, .rw, 3⟩, ⟨7, 4, .rw, 2⟩, ⟨2, 1, .rw, 0⟩, ⟨0, 0, .rw, 0⟩]⟩,
  ⟨0x4, 1, 0, [⟨28, 26, .rw, 1⟩, ⟨25, 16, .rw, 0⟩, ⟨9, 0, .rw, 0x3ff⟩]⟩,
  ⟨0x8, 1, 0, [⟨15, 12, .rw, 0xf⟩, ⟨10, 8, .rw, 4⟩, ⟨7, 7, .rw, 0⟩, ⟨6, 6, .rw, 0⟩, ⟨5, 5, .rw, 0⟩, ⟨4, 4, .rw, 0⟩, ⟨3, 0, .rw, 0⟩]⟩,
  ⟨0xc, 1, 0, [⟨31, 12, .ro, 0⟩, ⟨11, 10, .ro, 0⟩, ⟨9, 9, .w1c, 0⟩, ⟨8, 8, .ro, 0⟩, ⟨7, 7, .ro, 0⟩, ⟨6, 6, .ro, 0⟩, ⟨5, 5, .ro, 0⟩, ⟨4, 4, .ro, 0⟩, ⟨3, 0, .w1c, 0⟩]⟩]

/-- Registers of the WMONG group (R251 Table 10.6). -/
def wmonGRegs : List RegSpec := [
  ⟨0xc00, 1, 0, [⟨31, 0, .rc, 0⟩]⟩,
  ⟨0xc04, 1, 0, [⟨31, 31, .w1c, 0⟩, ⟨9, 8, .ro, 0⟩, ⟨7, 0, .ro, 0⟩]⟩,
  ⟨0xc08, 1, 0, [⟨11, 0, .ro, 0⟩]⟩]

/-- Registers of the GAPCAL group (R184 Table 7.6). -/
def gapcalRegs : List RegSpec := [
  ⟨0x0, 1, 0, [⟨31, 16, .rw, 0x190⟩, ⟨15, 8, .rw, 0x40⟩, ⟨3, 3, .rw, 1⟩, ⟨2, 2, .rw, 0⟩, ⟨1, 1, .rw, 0⟩, ⟨0, 0, .rw, 1⟩]⟩,
  ⟨0x4, 1, 0, [⟨31, 24, .rw, 4⟩, ⟨23, 20, .rw, 1⟩, ⟨15, 0, .rw, 0x150⟩]⟩,
  ⟨0x8, 1, 0, [⟨15, 0, .img, 0x80⟩]⟩,
  ⟨0xc, 1, 0, [⟨13, 8, .wo, 0⟩, ⟨2, 2, .rwl, 0⟩, ⟨0, 0, .wo, 0⟩]⟩,
  ⟨0x10, 1, 0, [⟨11, 11, .w1c, 0⟩, ⟨10, 10, .w1c, 0⟩, ⟨9, 9, .w1c, 0⟩, ⟨8, 8, .w1c, 0⟩, ⟨7, 7, .w1c, 0⟩, ⟨6, 6, .w1c, 0⟩, ⟨5, 5, .ro, 0⟩, ⟨4, 4, .ro, 0⟩, ⟨3, 3, .w1c, 0⟩, ⟨1, 1, .w1c, 0⟩, ⟨0, 0, .w1c, 0⟩]⟩,
  ⟨0x14, 1, 0, [⟨7, 0, .img, 0x18⟩]⟩,
  ⟨0x18, 1, 0, [⟨31, 0, .ro, 0⟩]⟩,
  ⟨0x1c, 1, 0, [⟨31, 0, .ro, 0⟩]⟩,
  ⟨0x20, 1, 0, [⟨31, 0, .ro, 0⟩]⟩,
  ⟨0x24, 1, 0, [⟨31, 0, .w1c, 0⟩]⟩,
  ⟨0x28, 1, 0, [⟨31, 0, .w1c, 0⟩]⟩,
  ⟨0x40, 1, 0, [⟨15, 8, .rw, 0⟩, ⟨3, 0, .rw, 0⟩]⟩,
  ⟨0x44, 1, 0, [⟨31, 16, .ro, 0⟩, ⟨15, 0, .rwl, 0⟩]⟩,
  ⟨0x48, 1, 0, [⟨23, 0, .rwl, 0⟩]⟩,
  ⟨0x4c, 1, 0, [⟨23, 0, .ro, 0⟩]⟩,
  ⟨0x50, 1, 0, [⟨31, 16, .ro, 0⟩, ⟨15, 0, .rwl, 0⟩]⟩,
  ⟨0x54, 1, 0, [⟨31, 0, .ro, 0⟩]⟩,
  ⟨0x58, 1, 0, [⟨31, 0, .ro, 0⟩]⟩,
  ⟨0x5c, 1, 0, [⟨31, 0, .ro, 0⟩]⟩,
  ⟨0x60, 1, 0, [⟨31, 0, .ro, 0⟩]⟩,
  ⟨0x64, 1, 0, [⟨31, 0, .ro, 0⟩]⟩,
  ⟨0x68, 1, 0, [⟨31, 16, .ro, 0⟩, ⟨15, 0, .ro, 0⟩]⟩]

/-- Registers of the GCCH group (R185 Table 7.7). -/
def gapChRegs : List RegSpec := [
  ⟨0x0, 1, 0, [⟨31, 28, .ro, 0⟩, ⟨27, 24, .ro, 0⟩, ⟨19, 18, .ro, 0⟩, ⟨17, 16, .ro, 0⟩, ⟨4, 4, .ro, 0⟩, ⟨3, 3, .ro, 0⟩, ⟨2, 2, .w1c, 0⟩, ⟨1, 1, .w1c, 0⟩, ⟨0, 0, .w1c, 0⟩]⟩]

/-- Registers of the PC group (R205 Table 8.9, R229 Table 9.10). -/
def pcRegs : List RegSpec := [
  ⟨0x0, 1, 0, [⟨31, 31, .wo, 0⟩, ⟨23, 23, .rw, 0⟩, ⟨22, 22, .rw, 1⟩, ⟨21, 20, .rw, 1⟩, ⟨16, 16, .rw, 0⟩, ⟨10, 8, .rw, 0⟩]⟩,
  ⟨0x4, 1, 0, [⟨17, 16, .rw, 0⟩, ⟨10, 8, .rw, 0⟩, ⟨2, 0, .rw, 0⟩]⟩,
  ⟨0x8, 1, 0, [⟨12, 12, .rw, 0⟩, ⟨3, 0, .rw, 0⟩]⟩,
  ⟨0xc, 1, 0, [⟨3, 0, .rw, 0⟩]⟩,
  ⟨0x10, 1, 0, [⟨31, 24, .w1c, 0⟩, ⟨23, 16, .ro, 0⟩, ⟨7, 7, .ro, 0⟩, ⟨6, 6, .w1c, 0⟩, ⟨5, 5, .w1c, 0⟩, ⟨4, 4, .w1c, 0⟩, ⟨3, 3, .w1c, 0⟩, ⟨2, 2, .ro, 0⟩, ⟨1, 1, .ro, 0⟩, ⟨0, 0, .ro, 0⟩]⟩,
  ⟨0x14, 1, 0, [⟨23, 0, .ro, 0⟩]⟩,
  ⟨0x18, 1, 0, [⟨23, 0, .ro, 0⟩]⟩,
  ⟨0x20, 1, 0, [⟨18, 16, .rw, 7⟩, ⟨14, 12, .rw, 0⟩, ⟨8, 8, .rw, 0⟩, ⟨6, 4, .rw, 0⟩, ⟨2, 0, .rw, 6⟩]⟩,
  ⟨0x24, 1, 0, [⟨16, 16, .rw, 0⟩, ⟨13, 8, .rw, 0xa⟩, ⟨6, 4, .rw, 0⟩, ⟨0, 0, .rw, 0⟩]⟩,
  ⟨0x28, 4, 4, [⟨31, 24, .rw, 0⟩, ⟨19, 16, .rw, 0⟩, ⟨15, 8, .rw, 1⟩, ⟨3, 0, .rw, 0⟩]⟩,
  ⟨0x38, 1, 0, [⟨9, 9, .rw, 0⟩, ⟨8, 8, .rw, 0⟩, ⟨7, 0, .rw, 0⟩]⟩,
  ⟨0x3c, 1, 0, [⟨23, 0, .rw, 0x800001⟩]⟩,
  ⟨0x40, 1, 0, [⟨23, 0, .rw, 0x7fffff⟩]⟩,
  ⟨0x44, 1, 0, [⟨3, 3, .rwl, 0⟩, ⟨2, 2, .rwl, 0⟩, ⟨1, 1, .rwl, 0⟩, ⟨0, 0, .wo, 0⟩]⟩,
  ⟨0x48, 1, 0, [⟨23, 0, .rwl, 0⟩]⟩,
  ⟨0x4c, 1, 0, [⟨23, 0, .rwl, 0⟩]⟩,
  ⟨0x50, 1, 0, [⟨23, 0, .rwl, 0⟩]⟩,
  ⟨0x54, 1, 0, [⟨23, 0, .ro, 0⟩]⟩,
  ⟨0x58, 1, 0, [⟨31, 0, .ro, 0⟩]⟩,
  ⟨0x5c, 1, 0, [⟨25, 25, .ro, 0⟩, ⟨24, 21, .ro, 0⟩, ⟨20, 18, .ro, 0⟩, ⟨17, 17, .ro, 0⟩, ⟨16, 16, .ro, 0⟩, ⟨15, 0, .ro, 0⟩]⟩,
  ⟨0x60, 1, 0, [⟨9, 9, .ro, 0⟩, ⟨8, 8, .ro, 0⟩, ⟨6, 6, .w1c, 0⟩, ⟨5, 5, .w1c, 0⟩, ⟨4, 4, .w1c, 0⟩, ⟨3, 3, .w1c, 0⟩, ⟨2, 2, .w1c, 0⟩, ⟨1, 1, .w1c, 0⟩, ⟨0, 0, .w1c, 0⟩]⟩,
  ⟨0x64, 1, 0, [⟨31, 0, .ro, 0⟩]⟩,
  ⟨0x68, 1, 0, [⟨31, 0, .ro, 0⟩]⟩,
  ⟨0x6c, 1, 0, [⟨23, 16, .img, 0x14⟩, ⟨15, 0, .img, 0x4000⟩]⟩]

/-- Registers of the FOLDG group (R108 Table 4.12). -/
def foldGRegs : List RegSpec := [
  ⟨0x0, 1, 0, [⟨31, 0, .rc, 0⟩]⟩,
  ⟨0x4, 1, 0, [⟨31, 0, .rc, 0⟩]⟩,
  ⟨0x8, 1, 0, [⟨31, 31, .w1c, 0⟩, ⟨25, 25, .ro, 0⟩, ⟨24, 16, .ro, 0⟩, ⟨8, 8, .ro, 0⟩, ⟨7, 0, .ro, 0⟩]⟩]

/-- Registers of the FOLDS group (R109 Table 4.13). -/
def foldSRegs : List RegSpec := [
  ⟨0x0, 1, 0, [⟨12, 8, .rw, 0x10⟩, ⟨1, 0, .rw, 0⟩]⟩,
  ⟨0x4, 1, 0, [⟨1, 1, .wo, 0⟩, ⟨0, 0, .wo, 0⟩]⟩,
  ⟨0x8, 1, 0, [⟨7, 7, .ro, 0⟩, ⟨6, 6, .ro, 0⟩, ⟨4, 4, .w1c, 0⟩, ⟨3, 3, .w1c, 0⟩, ⟨2, 2, .w1c, 0⟩, ⟨1, 1, .ro, 0⟩, ⟨0, 0, .ro, 0⟩]⟩,
  ⟨0xc, 1, 0, [⟨31, 0, .ro, 0⟩]⟩]

/-- Registers of the FOLDC group (R110 Table 4.14). -/
def foldCRegs : List RegSpec := [
  ⟨0x0, 1, 0, [⟨3, 2, .ro, 0⟩, ⟨1, 0, .ro, 0⟩]⟩,
  ⟨0x4, 1, 0, [⟨1, 1, .wo, 0⟩, ⟨0, 0, .wo, 0⟩]⟩,
  ⟨0x8, 1, 0, [⟨31, 0, .rc, 0⟩]⟩,
  ⟨0xc, 1, 0, [⟨31, 16, .rc, 0⟩, ⟨15, 0, .rc, 0⟩]⟩]

/-- Registers of the PHASEG group (R157 Table 6.12). -/
def phaseGRegs : List RegSpec := [
  ⟨0x0, 1, 0, [⟨19, 0, .rw, 0x16f94⟩]⟩,
  ⟨0x4, 1, 0, [⟨19, 0, .ro, 0⟩]⟩,
  ⟨0x8, 1, 0, [⟨0, 0, .w1c, 0⟩]⟩]

/-- Registers of the PHASEQ group (R158 Table 6.13). -/
def quadRegs : List RegSpec := [
  ⟨0x0, 1, 0, [⟨29, 28, .rw, 0⟩, ⟨26, 24, .rw, 0⟩, ⟨9, 0, .rw, 0x10⟩]⟩,
  ⟨0x4, 1, 0, [⟨5, 0, .rw, 0⟩]⟩,
  ⟨0x8, 1, 0, [⟨11, 0, .rw, 1⟩]⟩,
  ⟨0xc, 1, 0, [⟨15, 0, .rw, 0x10⟩]⟩,
  ⟨0x10, 1, 0, [⟨31, 28, .ro, 0⟩, ⟨27, 16, .ro, 0⟩, ⟨5, 5, .w1c, 0⟩, ⟨4, 4, .w1c, 0⟩, ⟨3, 3, .w1c, 0⟩, ⟨2, 2, .w1c, 0⟩, ⟨1, 1, .ro, 0⟩, ⟨0, 0, .ro, 0⟩]⟩,
  ⟨0x14, 1, 0, [⟨31, 0, .ro, 0⟩]⟩,
  ⟨0x18, 1, 0, [⟨31, 0, .ro, 0⟩]⟩]

/-- Registers of the CORE group (R281 Table 11.11). -/
def coreRegs : List RegSpec := [
  ⟨0x0, 1, 0, [⟨0, 0, .rw, 0⟩]⟩,
  ⟨0x4, 1, 0, [⟨15, 8, .wo, 0⟩, ⟨1, 1, .wo, 0⟩, ⟨0, 0, .wo, 0⟩]⟩,
  ⟨0x8, 1, 0, [⟨27, 24, .ro, 0⟩, ⟨19, 16, .ro, 0⟩, ⟨8, 8, .w1c, 0⟩, ⟨7, 7, .w1c, 0⟩, ⟨6, 6, .w1c, 0⟩, ⟨5, 5, .w1c, 0⟩, ⟨4, 4, .w1c, 0⟩, ⟨3, 3, .w1c, 0⟩, ⟨2, 0, .ro, 0⟩]⟩,
  ⟨0xc, 1, 0, [⟨31, 0, .ro, 0⟩]⟩,
  ⟨0x10, 1, 0, [⟨31, 0, .rw, 0x180⟩]⟩,
  ⟨0x14, 1, 0, [⟨11, 0, .img, 0xfa0⟩]⟩,
  ⟨0x18, 1, 0, [⟨3, 0, .rw, 0⟩]⟩,
  ⟨0x1c, 1, 0, [⟨3, 0, .rw, 0⟩]⟩,
  ⟨0x20, 1, 0, [⟨3, 3, .w1c, 0⟩, ⟨2, 2, .w1c, 0⟩, ⟨1, 1, .w1c, 0⟩, ⟨0, 0, .ro, 0⟩]⟩,
  ⟨0x24, 1, 0, [⟨31, 0, .rw, 0⟩]⟩,
  ⟨0x28, 1, 0, [⟨30, 16, .rw, 0⟩, ⟨14, 0, .rw, 0⟩]⟩,
  ⟨0x2c, 1, 0, [⟨14, 0, .ro, 0⟩]⟩,
  ⟨0x30, 1, 0, [⟨31, 16, .rc, 0⟩, ⟨15, 0, .rc, 0⟩]⟩,
  ⟨0x34, 1, 0, [⟨13, 0, .rwl, 0⟩]⟩,
  ⟨0x38, 1, 0, [⟨31, 0, .rwl, 0⟩]⟩,
  ⟨0x3c, 1, 0, [⟨18, 0, .rwl, 0⟩]⟩,
  ⟨0x40, 1, 0, [⟨31, 0, .rwl, 0⟩]⟩,
  ⟨0x44, 1, 0, [⟨31, 24, .ro, 0⟩, ⟨2, 0, .ro, 0⟩]⟩,
  ⟨0x48, 1, 0, [⟨31, 0, .rc, 0⟩]⟩,
  ⟨0x100, 16, 8, [⟨31, 31, .rw, 0⟩, ⟨30, 30, .rw, 0⟩, ⟨29, 24, .rw, 0⟩, ⟨14, 0, .rw, 0⟩]⟩,
  ⟨0x104, 16, 8, [⟨18, 0, .rw, 0⟩]⟩]

/-- Registers of the HOSTLINK group (R348 Table 14.13). -/
def hostlinkRegs : List RegSpec := [
  ⟨0x0, 1, 0, [⟨23, 16, .img, 0x40⟩, ⟨15, 10, .img, 0⟩, ⟨7, 7, .img, 0⟩, ⟨5, 5, .rw, 1⟩, ⟨4, 4, .rw, 1⟩, ⟨0, 0, .img, 0⟩]⟩,
  ⟨0x4, 1, 0, [⟨31, 0, .img, 0⟩]⟩,
  ⟨0x8, 1, 0, [⟨15, 0, .img, 0⟩]⟩,
  ⟨0xc, 1, 0, [⟨31, 0, .img, 0⟩]⟩,
  ⟨0x10, 1, 0, [⟨15, 0, .img, 0xb858⟩]⟩,
  ⟨0x14, 1, 0, [⟨15, 0, .rw, 0x7d0⟩]⟩,
  ⟨0x18, 1, 0, [⟨15, 0, .rw, 0xffff⟩]⟩,
  ⟨0x1c, 1, 0, [⟨8, 8, .rw, 1⟩, ⟨7, 0, .rw, 0xff⟩]⟩,
  ⟨0x20, 1, 0, [⟨15, 0, .rw, 0x64⟩]⟩,
  ⟨0x24, 1, 0, [⟨15, 8, .ro, 0⟩, ⟨7, 7, .w1c, 0⟩, ⟨6, 6, .w1c, 0⟩, ⟨5, 5, .w1c, 0⟩, ⟨4, 4, .ro, 0⟩, ⟨3, 3, .ro, 0⟩, ⟨2, 2, .ro, 0⟩, ⟨1, 1, .ro, 0⟩, ⟨0, 0, .ro, 0⟩]⟩,
  ⟨0x28, 1, 0, [⟨5, 0, .w1c, 0⟩]⟩,
  ⟨0x2c, 1, 0, [⟨5, 0, .rw, 0⟩]⟩,
  ⟨0x30, 1, 0, [⟨31, 0, .ro, 0⟩]⟩,
  ⟨0x34, 1, 0, [⟨15, 0, .ro, 0⟩]⟩,
  ⟨0x38, 1, 0, [⟨31, 0, .ro, 0⟩]⟩,
  ⟨0x3c, 1, 0, [⟨15, 0, .ro, 0⟩]⟩,
  ⟨0x40, 1, 0, [⟨31, 0, .ro, 0⟩]⟩,
  ⟨0x44, 1, 0, [⟨31, 0, .ro, 0⟩]⟩,
  ⟨0x48, 1, 0, [⟨31, 0, .rc, 0⟩]⟩,
  ⟨0x4c, 1, 0, [⟨31, 0, .rc, 0⟩]⟩,
  ⟨0x50, 1, 0, [⟨31, 0, .rc, 0⟩]⟩,
  ⟨0x54, 1, 0, [⟨31, 0, .rc, 0⟩]⟩,
  ⟨0x58, 1, 0, [⟨31, 0, .rc, 0⟩]⟩,
  ⟨0x5c, 1, 0, [⟨31, 0, .rc, 0⟩]⟩,
  ⟨0x60, 1, 0, [⟨31, 0, .rc, 0⟩]⟩,
  ⟨0x64, 1, 0, [⟨31, 0, .rc, 0⟩]⟩,
  ⟨0x68, 1, 0, [⟨31, 0, .rc, 0⟩]⟩]

/-- Registers of the HAWSER group (R374 Table 15.6). -/
def hawserRegs : List RegSpec := [
  ⟨0x0, 1, 0, [⟨23, 16, .rw, 0x20⟩, ⟨13, 8, .img, 0⟩, ⟨1, 1, .img, 1⟩, ⟨0, 0, .img, 0⟩]⟩,
  ⟨0x4, 1, 0, [⟨8, 8, .ro, 0⟩, ⟨5, 0, .ro, 0⟩]⟩,
  ⟨0x8, 1, 0, [⟨10, 10, .w1c, 0⟩, ⟨9, 9, .w1c, 0⟩, ⟨8, 8, .w1c, 0⟩, ⟨7, 7, .ro, 0⟩, ⟨6, 6, .w1c, 0⟩, ⟨5, 5, .w1c, 0⟩, ⟨4, 4, .w1c, 0⟩, ⟨3, 3, .w1c, 0⟩, ⟨1, 1, .ro, 0⟩, ⟨0, 0, .ro, 0⟩]⟩,
  ⟨0xc, 1, 0, [⟨31, 0, .ro, 0⟩]⟩,
  ⟨0x10, 1, 0, [⟨31, 0, .ro, 0⟩]⟩,
  ⟨0x14, 1, 0, [⟨31, 31, .ro, 0⟩, ⟨5, 0, .ro, 0⟩]⟩,
  ⟨0x18, 1, 0, [⟨31, 0, .rc, 0⟩]⟩,
  ⟨0x1c, 1, 0, [⟨31, 0, .rc, 0⟩]⟩,
  ⟨0x20, 1, 0, [⟨31, 0, .rc, 0⟩]⟩,
  ⟨0x24, 1, 0, [⟨31, 0, .rc, 0⟩]⟩,
  ⟨0x28, 1, 0, [⟨31, 0, .rc, 0⟩]⟩,
  ⟨0x2c, 1, 0, [⟨31, 0, .rc, 0⟩]⟩,
  ⟨0x30, 1, 0, [⟨31, 0, .rc, 0⟩]⟩,
  ⟨0x34, 1, 0, [⟨31, 0, .ro, 0⟩]⟩,
  ⟨0x38, 1, 0, [⟨5, 0, .ro, 0⟩]⟩]

/-- Table 19.1: every instance group with its base, stride, instance count and island. -/
def groups : List GroupSpec := [
  ⟨.global, 0x0, 0x0, 1, .housekeeping, globalRegs⟩,
  ⟨.lanyard, 0x1000, 0x0, 1, .housekeeping, lanyardRegs⟩,
  ⟨.power, 0x2000, 0x0, 1, .precision, powerRegs⟩,
  ⟨.boot, 0x3000, 0x0, 1, .housekeeping, bootRegs⟩,
  ⟨.safety, 0x4000, 0x0, 1, .housekeeping, safetyRegs⟩,
  ⟨.log, 0x5000, 0x0, 1, .housekeeping, logRegs⟩,
  ⟨.probe, 0x8000, 0x100, 16, .fold, probeRegs⟩,
  ⟨.code, 0x9000, 0x100, 16, .fold, codeRegs⟩,
  ⟨.strand, 0xa000, 0x40, 64, .fold, strandRegs⟩,
  ⟨.fc, 0x10000, 0x40, 192, .sample, fcRegs⟩,
  ⟨.plan, 0x13000, 0x10, 64, .plan, planRegs⟩,
  ⟨.wmon, 0x14000, 0x10, 192, .sample, wmonRegs⟩,
  ⟨.wmonG, 0x14000, 0x0, 1, .housekeeping, wmonGRegs⟩,
  ⟨.gapcal, 0x18000, 0x0, 1, .fold, gapcalRegs⟩,
  ⟨.gapCh, 0x18400, 0x4, 192, .fold, gapChRegs⟩,
  ⟨.pc, 0x20000, 0x80, 24, .precision, pcRegs⟩,
  ⟨.foldG, 0x24000, 0x0, 1, .fold, foldGRegs⟩,
  ⟨.foldS, 0x24400, 0x10, 64, .fold, foldSRegs⟩,
  ⟨.foldC, 0x25000, 0x10, 192, .fold, foldCRegs⟩,
  ⟨.phaseG, 0x28000, 0x0, 1, .phase, phaseGRegs⟩,
  ⟨.quad, 0x28100, 0x20, 48, .phase, quadRegs⟩,
  ⟨.core, 0x30000, 0x1000, 12, .core, coreRegs⟩,
  ⟨.hostlink, 0x40000, 0x0, 1, .link, hostlinkRegs⟩,
  ⟨.hawser, 0x44000, 0x0, 1, .link, hawserRegs⟩]

/-- A register address resolved by Table 19.2: its group, instance, the offset of its register in the
instance (of copy 0 where the table lists copies), which copy, its island and its fields. -/
structure Hit where
  grp : Grp
  inst : Nat
  off : Nat
  copy : Nat
  island : Island
  fields : List FieldSpec
  deriving DecidableEq, Repr

/-- The register of an instance at byte offset `o`, with the number of the copy. -/
def findReg : List RegSpec → Nat → Option (RegSpec × Nat)
  | [], _ => none
  | r :: rs, o =>
    if o = r.off then some (r, 0)
    else if r.off < o ∧ (o - r.off) % r.step = 0 ∧ (o - r.off) / r.step < r.copies then
      some (r, (o - r.off) / r.step)
    else findReg rs o

/-- Does `a` lie in the group, and at which register of which instance. -/
def GroupSpec.hit (g : GroupSpec) (a : Nat) : Option Hit :=
  if a < g.base then none
  else
    let d := a - g.base
    let i := if g.stride = 0 then 0 else d / g.stride
    let o := if g.stride = 0 then d else d % g.stride
    if i < g.count then
      (findReg g.regs o).map fun (r, k) => ⟨g.grp, i, r.off, k, g.island, r.fields⟩
    else none

/-- The register at byte address `a`; none: unassigned (R5, R446). -/
def lookup (a : Nat) : Option Hit := groups.findSome? (·.hit a)

/-- The value the fields of a register hold at reset (R450). -/
def resetOf (fs : List FieldSpec) : Word :=
  fs.foldl (fun w f => w ||| (BitVec.ofNat 32 f.reset <<< f.lo)) 0

/-- What a register reads as until something writes it: its Reset column (R450); an unassigned address
reads zero (R5). -/
def regReset (a : Nat) : Word :=
  match lookup a with
  | some h => resetOf h.fields
  | none => 0

/-- Registers counted as R445 counts them. -/
def registerCount : Nat :=
  groups.foldl (fun n g => n + g.count * g.regs.foldl (fun m r => m + r.copies) 0) 0

end Sys2Proof.Machine

namespace Sys2Proof.Machine.Reg

def FC_HITCH_EN : Field := ⟨0x10004, 0x40, 15, 15⟩
def FC_HITCH_ROLE : Field := ⟨0x10004, 0x40, 11, 8⟩
def FC_HITCH_STRAND : Field := ⟨0x10004, 0x40, 5, 0⟩
def STRAND_CTRL_START_NOW : Field := ⟨0xa000, 0x40, 15, 15⟩
def STRAND_CTRL_DEC : Field := ⟨0xa000, 0x40, 14, 12⟩
def STRAND_CTRL_SW : Field := ⟨0xa000, 0x40, 11, 8⟩
def STRAND_CTRL_PORT : Field := ⟨0xa000, 0x40, 7, 4⟩
def STRAND_CTRL_MODE : Field := ⟨0xa000, 0x40, 3, 1⟩
def STRAND_CTRL_RUN : Field := ⟨0xa000, 0x40, 0, 0⟩
def STRAND_LDLY_LDLY : Field := ⟨0xa004, 0x40, 11, 0⟩
def STRAND_NBIN_NBIN : Field := ⟨0xa008, 0x40, 16, 0⟩
def STRAND_PERIOD_PERIOD : Field := ⟨0xa00c, 0x40, 23, 0⟩
def STRAND_NSHOT_NSHOT : Field := ⟨0xa010, 0x40, 23, 0⟩
def STRAND_T0_LO_T : Field := ⟨0xa014, 0x40, 31, 0⟩
def STRAND_T0_HI_T : Field := ⟨0xa018, 0x40, 31, 0⟩
def STRAND_CMD_TAG : Field := ⟨0xa01c, 0x40, 15, 8⟩
def STRAND_CMD_ANY : Field := ⟨0xa01c, 0x40, 1, 1⟩
def STRAND_CMD_ABORT : Field := ⟨0xa01c, 0x40, 0, 0⟩
def STRAND_STAT_ABORT_LATE : Field := ⟨0xa020, 0x40, 9, 9⟩
def STRAND_STAT_ABORTED : Field := ⟨0xa020, 0x40, 8, 8⟩
def STRAND_STAT_CFG_ERR : Field := ⟨0xa020, 0x40, 7, 4⟩
def STRAND_STAT_STATE : Field := ⟨0xa020, 0x40, 1, 0⟩
def STRAND_STACKNO_N : Field := ⟨0xa024, 0x40, 31, 0⟩
def STRAND_SHOTNO_N : Field := ⟨0xa028, 0x40, 23, 0⟩
def STRAND_LAUNCH_LO_T : Field := ⟨0xa02c, 0x40, 31, 0⟩
def STRAND_LAUNCH_HI_T : Field := ⟨0xa030, 0x40, 31, 0⟩
def FC_CTRL_WGAIN : Field := ⟨0x10000, 0x40, 27, 24⟩
def FC_CTRL_INV : Field := ⟨0x10000, 0x40, 19, 19⟩
def FC_CTRL_AAF : Field := ⟨0x10000, 0x40, 18, 16⟩
def FC_CTRL_TERM : Field := ⟨0x10000, 0x40, 13, 12⟩
def FC_CTRL_PWR : Field := ⟨0x10000, 0x40, 9, 8⟩
/-- FC_GAIN.GAINk, k = 0 to 7. -/
def FC_GAIN_GAIN (k : Nat) : Field := ⟨0x10008, 0x40, 4 * k + 3, 4 * k⟩
def FC_STAT_RT_CHG : Field := ⟨0x1000c, 0x40, 31, 24⟩
def FC_STAT_UR : Field := ⟨0x1000c, 0x40, 23, 16⟩
def FC_STAT_OVL : Field := ⟨0x1000c, 0x40, 15, 8⟩
def FC_STAT_PEND : Field := ⟨0x1000c, 0x40, 7, 7⟩
def FC_STAT_PLAN_ERR : Field := ⟨0x1000c, 0x40, 6, 6⟩
def FC_STAT_RANGE_LIMIT : Field := ⟨0x1000c, 0x40, 5, 5⟩
def FC_STAT_OVL_SEEN : Field := ⟨0x1000c, 0x40, 4, 4⟩
def FC_STAT_READY : Field := ⟨0x1000c, 0x40, 3, 3⟩
def FC_STAT_PSTATE : Field := ⟨0x1000c, 0x40, 1, 0⟩
def FC_PLAN_B123_BLK3 : Field := ⟨0x13000, 0x10, 28, 20⟩
def FC_PLAN_B123_BLK2 : Field := ⟨0x13000, 0x10, 18, 10⟩
def FC_PLAN_B123_BLK1 : Field := ⟨0x13000, 0x10, 8, 0⟩
def FC_PLAN_B456_BLK6 : Field := ⟨0x13004, 0x10, 28, 20⟩
def FC_PLAN_B456_BLK5 : Field := ⟨0x13004, 0x10, 18, 10⟩
def FC_PLAN_B456_BLK4 : Field := ⟨0x13004, 0x10, 8, 0⟩
def FC_PLAN_B7_SETTLE : Field := ⟨0x13008, 0x10, 22, 16⟩
def FC_PLAN_B7_NB : Field := ⟨0x13008, 0x10, 14, 12⟩
def FC_PLAN_B7_BLK7 : Field := ⟨0x13008, 0x10, 8, 0⟩
def FC_PLAN_RT_EN : Field := ⟨0x1300c, 0x10, 31, 31⟩
def FC_PLAN_RT_GMAX : Field := ⟨0x1300c, 0x10, 30, 27⟩
def FC_PLAN_RT_GMIN : Field := ⟨0x1300c, 0x10, 26, 23⟩
def FC_PLAN_RT_OV_STEP : Field := ⟨0x1300c, 0x10, 22, 21⟩
def FC_PLAN_RT_UR_M : Field := ⟨0x1300c, 0x10, 20, 17⟩
def FC_PLAN_RT_UR_THR : Field := ⟨0x1300c, 0x10, 14, 8⟩
def FC_PLAN_RT_OV_N : Field := ⟨0x1300c, 0x10, 7, 0⟩
def FOLD_ECC_CE_N : Field := ⟨0x24000, 0x0, 31, 0⟩
def FOLD_ECC_UE_N : Field := ⟨0x24004, 0x0, 31, 0⟩
def FOLD_ECC_LAST_VALID : Field := ⟨0x24008, 0x0, 31, 31⟩
def FOLD_ECC_LAST_META : Field := ⟨0x24008, 0x0, 25, 25⟩
def FOLD_ECC_LAST_BLOCK : Field := ⟨0x24008, 0x0, 24, 16⟩
def FOLD_ECC_LAST_PLANE : Field := ⟨0x24008, 0x0, 8, 8⟩
def FOLD_ECC_LAST_CHAN : Field := ⟨0x24008, 0x0, 7, 0⟩
def FOLD_CTRL_LEAK : Field := ⟨0x24400, 0x10, 12, 8⟩
def FOLD_CTRL_MODE : Field := ⟨0x24400, 0x10, 1, 0⟩
def FOLD_CMD_RESTART : Field := ⟨0x24404, 0x10, 1, 1⟩
def FOLD_CMD_SNAP : Field := ⟨0x24404, 0x10, 0, 0⟩
def FOLD_SSTAT_SNAP_PEND : Field := ⟨0x24408, 0x10, 7, 7⟩
def FOLD_SSTAT_RESTART_PEND : Field := ⟨0x24408, 0x10, 6, 6⟩
def FOLD_SSTAT_UE_SEEN : Field := ⟨0x24408, 0x10, 4, 4⟩
def FOLD_SSTAT_SAT_SEEN : Field := ⟨0x24408, 0x10, 3, 3⟩
def FOLD_SSTAT_STACK_HELD : Field := ⟨0x24408, 0x10, 2, 2⟩
def FOLD_SSTAT_HELD : Field := ⟨0x24408, 0x10, 1, 1⟩
def FOLD_SSTAT_PLANE : Field := ⟨0x24408, 0x10, 0, 0⟩
def FOLD_SKIP_N : Field := ⟨0x2440c, 0x10, 31, 0⟩
def FOLD_PSTAT_OWN_B : Field := ⟨0x25000, 0x10, 3, 2⟩
def FOLD_PSTAT_OWN_A : Field := ⟨0x25000, 0x10, 1, 0⟩
def FOLD_REL_REL_B : Field := ⟨0x25004, 0x10, 1, 1⟩
def FOLD_REL_REL_A : Field := ⟨0x25004, 0x10, 0, 0⟩
def FOLD_HCONF_N : Field := ⟨0x25008, 0x10, 31, 0⟩
def FOLD_ECC_UE : Field := ⟨0x2500c, 0x10, 31, 16⟩
def FOLD_ECC_CE : Field := ⟨0x2500c, 0x10, 15, 0⟩
def PRB_CTRL_GPOL : Field := ⟨0x8000, 0x100, 8, 8⟩
def PRB_CTRL_PMODE : Field := ⟨0x8000, 0x100, 1, 0⟩
def PRB_GATE_PW : Field := ⟨0x8004, 0x100, 11, 0⟩
def PRB_CODE_LEN : Field := ⟨0x8008, 0x100, 27, 24⟩
def PRB_CODE_BLANK : Field := ⟨0x8008, 0x100, 19, 8⟩
def PRB_CODE_CHIPT : Field := ⟨0x8008, 0x100, 7, 0⟩
def PRB_SET_RSTEP : Field := ⟨0x800c, 0x100, 23, 16⟩
def PRB_SET_TARGET : Field := ⟨0x800c, 0x100, 11, 0⟩
def PRB_SETNOW_CEIL : Field := ⟨0x8010, 0x100, 27, 16⟩
def PRB_SETNOW_SET : Field := ⟨0x8010, 0x100, 11, 0⟩
def PRB_DER_CTRL_EN : Field := ⟨0x8014, 0x100, 31, 31⟩
def PRB_DER_CTRL_INV : Field := ⟨0x8014, 0x100, 30, 30⟩
def PRB_DER_CTRL_PC : Field := ⟨0x8014, 0x100, 20, 16⟩
def PRB_DER_CTRL_DFLOOR : Field := ⟨0x8014, 0x100, 11, 0⟩
def PRB_DER_T1_T : Field := ⟨0x8018, 0x100, 23, 0⟩
def PRB_DER_T2_T : Field := ⟨0x801c, 0x100, 23, 0⟩
def PRB_PRES_EN : Field := ⟨0x8020, 0x100, 31, 31⟩
def PRB_PRES_SRC : Field := ⟨0x8020, 0x100, 30, 29⟩
def PRB_PRES_PBIN : Field := ⟨0x8020, 0x100, 23, 16⟩
def PRB_PRES_RDSTRAND : Field := ⟨0x8020, 0x100, 5, 0⟩
def PRB_PRES_FLOOR_FLOOR : Field := ⟨0x8024, 0x100, 15, 0⟩
def PRB_MON_CHAN : Field := ⟨0x8028, 0x100, 23, 16⟩
def PRB_MON_DLY : Field := ⟨0x8028, 0x100, 15, 8⟩
def PRB_MON_EXT : Field := ⟨0x8028, 0x100, 7, 0⟩
def PRB_MON_FLOOR_FLOOR : Field := ⟨0x802c, 0x100, 31, 0⟩
def PRB_PLVL_LAST (k : Nat) : Field := ⟨0x8030 + 4 * k, 0x100, 31, 16⟩
def PRB_PLVL_LEARNED (k : Nat) : Field := ⟨0x8030 + 4 * k, 0x100, 15, 0⟩
def PRB_MLVL_LEARNED (k : Nat) : Field := ⟨0x8040 + 4 * k, 0x100, 31, 0⟩
def PRB_STAT_LOST_STRAND : Field := ⟨0x8050, 0x100, 29, 24⟩
def PRB_STAT_LOST_SRC : Field := ⟨0x8050, 0x100, 23, 22⟩
def PRB_STAT_LOST : Field := ⟨0x8050, 0x100, 15, 15⟩
def PRB_STAT_HIGH : Field := ⟨0x8050, 0x100, 14, 14⟩
def PRB_STAT_NOBAND : Field := ⟨0x8050, 0x100, 13, 13⟩
def PRB_STAT_DER_ACTIVE : Field := ⟨0x8050, 0x100, 12, 12⟩
def PRB_STAT_DER_FAULT : Field := ⟨0x8050, 0x100, 11, 11⟩
def PRB_STAT_CODE_CUT : Field := ⟨0x8050, 0x100, 10, 10⟩
def PRB_STAT_SWNEXT : Field := ⟨0x8050, 0x100, 7, 4⟩
def PRB_STAT_TYPE : Field := ⟨0x8050, 0x100, 1, 0⟩
def PRB_LAUNCHES_N : Field := ⟨0x8054, 0x100, 31, 0⟩
def PRB_CWA_CHIPS (k : Nat) : Field := ⟨0x9000 + 4 * k, 0x100, 31, 0⟩
def PRB_CWB_CHIPS (k : Nat) : Field := ⟨0x9080 + 4 * k, 0x100, 31, 0⟩
def PHASE_BUDGET_BUDGET : Field := ⟨0x28000, 0x0, 19, 0⟩
def PHASE_RATE_RATE : Field := ⟨0x28004, 0x0, 19, 0⟩
def PHASE_GSTAT_RATE_OVER : Field := ⟨0x28008, 0x0, 0, 0⟩
def PHASE_QCFG_POL : Field := ⟨0x28100, 0x20, 29, 28⟩
def PHASE_QCFG_SDEC : Field := ⟨0x28100, 0x20, 26, 24⟩
def PHASE_QCFG_GAUGE : Field := ⟨0x28100, 0x20, 9, 0⟩
def PHASE_QTDEC_TDEC : Field := ⟨0x28104, 0x20, 5, 0⟩
def PHASE_QHLEN_HLEN : Field := ⟨0x28108, 0x20, 11, 0⟩
def PHASE_QFADE_FADE_THR : Field := ⟨0x2810c, 0x20, 15, 0⟩
def PHASE_QSTAT_CFG_ERR : Field := ⟨0x28110, 0x20, 31, 28⟩
def PHASE_QSTAT_HEFF : Field := ⟨0x28110, 0x20, 27, 16⟩
def PHASE_QSTAT_SAT_SEEN : Field := ⟨0x28110, 0x20, 5, 5⟩
def PHASE_QSTAT_FADE_SEEN : Field := ⟨0x28110, 0x20, 4, 4⟩
def PHASE_QSTAT_H_CUT : Field := ⟨0x28110, 0x20, 3, 3⟩
def PHASE_QSTAT_BREAK : Field := ⟨0x28110, 0x20, 2, 2⟩
def PHASE_QSTAT_HFILL : Field := ⟨0x28110, 0x20, 1, 1⟩
def PHASE_QSTAT_ACTIVE : Field := ⟨0x28110, 0x20, 0, 0⟩
def PHASE_QROW_ROWNO : Field := ⟨0x28114, 0x20, 31, 0⟩
def PHASE_QBREAKS_N : Field := ⟨0x28118, 0x20, 31, 0⟩
def GAPCAL_CTRL_RPT : Field := ⟨0x18000, 0x0, 31, 16⟩
def GAPCAL_CTRL_LINP : Field := ⟨0x18000, 0x0, 15, 8⟩
def GAPCAL_CTRL_BGS : Field := ⟨0x18000, 0x0, 3, 3⟩
def GAPCAL_CTRL_SMODE : Field := ⟨0x18000, 0x0, 2, 2⟩
def GAPCAL_CTRL_FREEZE : Field := ⟨0x18000, 0x0, 1, 1⟩
def GAPCAL_CTRL_EN : Field := ⟨0x18000, 0x0, 0, 0⟩
def GAPCAL_SPLICE_OSTEP : Field := ⟨0x18004, 0x0, 31, 24⟩
def GAPCAL_SPLICE_KSTEP : Field := ⟨0x18004, 0x0, 23, 20⟩
def GAPCAL_SPLICE_GSTEP : Field := ⟨0x18004, 0x0, 15, 0⟩
def GAPCAL_LINLIM_LIM : Field := ⟨0x18008, 0x0, 15, 0⟩
def GAPCAL_CMD_STRAND : Field := ⟨0x1800c, 0x0, 13, 8⟩
def GAPCAL_CMD_COMMIT : Field := ⟨0x1800c, 0x0, 2, 2⟩
def GAPCAL_CMD_ABORT : Field := ⟨0x1800c, 0x0, 0, 0⟩
def GAPCAL_STAT_ABORT_LATE : Field := ⟨0x18010, 0x0, 11, 11⟩
def GAPCAL_STAT_ABORTED : Field := ⟨0x18010, 0x0, 10, 10⟩
def GAPCAL_STAT_CAL_DIVERGED : Field := ⟨0x18010, 0x0, 9, 9⟩
def GAPCAL_STAT_STORE_LOST : Field := ⟨0x18010, 0x0, 8, 8⟩
def GAPCAL_STAT_COMMIT_WAIT : Field := ⟨0x18010, 0x0, 7, 7⟩
def GAPCAL_STAT_COMMIT_FAIL : Field := ⟨0x18010, 0x0, 6, 6⟩
def GAPCAL_STAT_COMMIT_BUSY : Field := ⟨0x18010, 0x0, 5, 5⟩
def GAPCAL_STAT_START_DONE : Field := ⟨0x18010, 0x0, 4, 4⟩
def GAPCAL_STAT_START_NQ : Field := ⟨0x18010, 0x0, 3, 3⟩
def GAPCAL_STAT_GAP_NOT_QUIET : Field := ⟨0x18010, 0x0, 1, 1⟩
def GAPCAL_STAT_CAL_REJECTED : Field := ⟨0x18010, 0x0, 0, 0⟩
def GAPCAL_AUTO_HOURS : Field := ⟨0x18014, 0x0, 7, 0⟩
def GAPCAL_COMMIT_N_N : Field := ⟨0x18018, 0x0, 31, 0⟩
def GAPCAL_COMMIT_T_LO_T : Field := ⟨0x1801c, 0x0, 31, 0⟩
def GAPCAL_COMMIT_T_HI_T : Field := ⟨0x18020, 0x0, 31, 0⟩
def GAPCAL_GNQ_LO_S : Field := ⟨0x18024, 0x0, 31, 0⟩
def GAPCAL_GNQ_HI_S : Field := ⟨0x18028, 0x0, 31, 0⟩
def GAPCAL_VSEL_CHAN : Field := ⟨0x18040, 0x0, 15, 8⟩
def GAPCAL_VSEL_CODE : Field := ⟨0x18040, 0x0, 3, 0⟩
def GAPCAL_VOFF_WORKING : Field := ⟨0x18044, 0x0, 31, 16⟩
def GAPCAL_VOFF_HELD : Field := ⟨0x18044, 0x0, 15, 0⟩
def GAPCAL_VGAIN_HELD : Field := ⟨0x18048, 0x0, 23, 0⟩
def GAPCAL_VGAINW_WORKING : Field := ⟨0x1804c, 0x0, 23, 0⟩
def GAPCAL_VSKEW_WORKING : Field := ⟨0x18050, 0x0, 31, 16⟩
def GAPCAL_VSKEW_HELD : Field := ⟨0x18050, 0x0, 15, 0⟩
def GAPCAL_VACC_N : Field := ⟨0x18054, 0x0, 31, 0⟩
def GAPCAL_VREJ_N : Field := ⟨0x18058, 0x0, 31, 0⟩
def GAPCAL_VNQ_N : Field := ⟨0x1805c, 0x0, 31, 0⟩
def GAPCAL_VTACC_LO_T : Field := ⟨0x18060, 0x0, 31, 0⟩
def GAPCAL_VTACC_HI_T : Field := ⟨0x18064, 0x0, 31, 0⟩
def GAPCAL_VLIN_EPOS : Field := ⟨0x18068, 0x0, 31, 16⟩
def GAPCAL_VLIN_ENEG : Field := ⟨0x18068, 0x0, 15, 0⟩
def GAPCAL_CHSTAT_LASTRES : Field := ⟨0x18400, 0x4, 31, 28⟩
def GAPCAL_CHSTAT_TCODE : Field := ⟨0x18400, 0x4, 27, 24⟩
def GAPCAL_CHSTAT_NQ_RUN : Field := ⟨0x18400, 0x4, 19, 18⟩
def GAPCAL_CHSTAT_REJ_RUN : Field := ⟨0x18400, 0x4, 17, 16⟩
def GAPCAL_CHSTAT_INJ : Field := ⟨0x18400, 0x4, 4, 4⟩
def GAPCAL_CHSTAT_PEND : Field := ⟨0x18400, 0x4, 3, 3⟩
def GAPCAL_CHSTAT_LIN_FAIL : Field := ⟨0x18400, 0x4, 2, 2⟩
def GAPCAL_CHSTAT_CAL_REJECTED : Field := ⟨0x18400, 0x4, 1, 1⟩
def GAPCAL_CHSTAT_START_FAIL : Field := ⟨0x18400, 0x4, 0, 0⟩
def PC_EXC_IMM : Field := ⟨0x20000, 0x80, 31, 31⟩
def PC_EXC_FBRET : Field := ⟨0x20000, 0x80, 23, 23⟩
def PC_EXC_FBEN : Field := ⟨0x20000, 0x80, 22, 22⟩
def PC_EXC_SLIM : Field := ⟨0x20000, 0x80, 21, 20⟩
def PC_EXC_REV : Field := ⟨0x20000, 0x80, 16, 16⟩
def PC_EXC_VEXC : Field := ⟨0x20000, 0x80, 10, 8⟩
def PC_IEX_SWAP : Field := ⟨0x20004, 0x80, 17, 16⟩
def PC_IEX_IB : Field := ⟨0x20004, 0x80, 10, 8⟩
def PC_IEX_IA : Field := ⟨0x20004, 0x80, 2, 0⟩
def PC_CONN_CLWIN : Field := ⟨0x20008, 0x80, 12, 12⟩
def PC_CONN_TYPE : Field := ⟨0x20008, 0x80, 3, 0⟩
def PC_DIAG_SEL : Field := ⟨0x2000c, 0x80, 3, 0⟩
def PC_FSTAT_CLAMP : Field := ⟨0x20010, 0x80, 31, 24⟩
def PC_FSTAT_CLAMP_NOW : Field := ⟨0x20010, 0x80, 23, 16⟩
def PC_FSTAT_FALLBACK : Field := ⟨0x20010, 0x80, 7, 7⟩
def PC_FSTAT_FB_SEEN : Field := ⟨0x20010, 0x80, 6, 6⟩
def PC_FSTAT_SNS_FAULT : Field := ⟨0x20010, 0x80, 5, 5⟩
def PC_FSTAT_OPEN : Field := ⟨0x20010, 0x80, 4, 4⟩
def PC_FSTAT_SHORT : Field := ⟨0x20010, 0x80, 3, 3⟩
def PC_FSTAT_ILIM : Field := ⟨0x20010, 0x80, 2, 2⟩
def PC_FSTAT_COMPL : Field := ⟨0x20010, 0x80, 1, 1⟩
def PC_FSTAT_EXC_ON : Field := ⟨0x20010, 0x80, 0, 0⟩
def PC_IMEAS_I : Field := ⟨0x20014, 0x80, 23, 0⟩
def PC_RLOAD_R : Field := ⟨0x20018, 0x80, 23, 0⟩
def PC_ADC_GMAX : Field := ⟨0x20020, 0x80, 18, 16⟩
def PC_ADC_GMIN : Field := ⟨0x20020, 0x80, 14, 12⟩
def PC_ADC_AGAIN : Field := ⟨0x20020, 0x80, 8, 8⟩
def PC_ADC_GAIN : Field := ⟨0x20020, 0x80, 6, 4⟩
def PC_ADC_MODE : Field := ⟨0x20020, 0x80, 2, 0⟩
def PC_SEQ_NODIAG : Field := ⟨0x20024, 0x80, 16, 16⟩
def PC_SEQ_DIAGT : Field := ⟨0x20024, 0x80, 13, 8⟩
def PC_SEQ_NSLOT : Field := ⟨0x20024, 0x80, 6, 4⟩
def PC_SEQ_MODE : Field := ⟨0x20024, 0x80, 0, 0⟩
def PC_SLOT_ODD_NCONV (k : Nat) : Field := ⟨0x20028 + 4 * k, 0x80, 31, 24⟩
def PC_SLOT_ODD_SEL (k : Nat) : Field := ⟨0x20028 + 4 * k, 0x80, 19, 16⟩
def PC_SLOT_EVEN_NCONV (k : Nat) : Field := ⟨0x20028 + 4 * k, 0x80, 15, 8⟩
def PC_SLOT_EVEN_SEL (k : Nat) : Field := ⟨0x20028 + 4 * k, 0x80, 3, 0⟩
def PC_OUT_DIAGOUT : Field := ⟨0x20038, 0x80, 9, 9⟩
def PC_OUT_EN : Field := ⟨0x20038, 0x80, 8, 8⟩
def PC_OUT_DEC : Field := ⟨0x20038, 0x80, 7, 0⟩
def PC_RLIM_LO_X : Field := ⟨0x2003c, 0x80, 23, 0⟩
def PC_RLIM_HI_X : Field := ⟨0x20040, 0x80, 23, 0⟩
def PC_CMD_SYSCLR : Field := ⟨0x20044, 0x80, 3, 3⟩
def PC_CMD_SYSS : Field := ⟨0x20044, 0x80, 2, 2⟩
def PC_CMD_SYSZ : Field := ⟨0x20044, 0x80, 1, 1⟩
def PC_CMD_ICAL : Field := ⟨0x20044, 0x80, 0, 0⟩
def PC_SYSREF_X : Field := ⟨0x20048, 0x80, 23, 0⟩
def PC_SYSOFF_X : Field := ⟨0x2004c, 0x80, 23, 0⟩
def PC_SYSGAIN_G : Field := ⟨0x20050, 0x80, 23, 0⟩
def PC_RES_X : Field := ⟨0x20054, 0x80, 23, 0⟩
def PC_RESE_XE : Field := ⟨0x20058, 0x80, 31, 0⟩
def PC_BSTAT_PHASE : Field := ⟨0x2005c, 0x80, 25, 25⟩
def PC_BSTAT_SEL_NOW : Field := ⟨0x2005c, 0x80, 24, 21⟩
def PC_BSTAT_GAIN_NOW : Field := ⟨0x2005c, 0x80, 20, 18⟩
def PC_BSTAT_DISCARD : Field := ⟨0x2005c, 0x80, 17, 17⟩
def PC_BSTAT_EXC_PEND : Field := ⟨0x2005c, 0x80, 16, 16⟩
def PC_BSTAT_BCNT : Field := ⟨0x2005c, 0x80, 15, 0⟩
def PC_CSTAT_SYS_BUSY : Field := ⟨0x20060, 0x80, 9, 9⟩
def PC_CSTAT_ICAL_BUSY : Field := ⟨0x20060, 0x80, 8, 8⟩
def PC_CSTAT_AGAIN_LIMIT : Field := ⟨0x20060, 0x80, 6, 6⟩
def PC_CSTAT_ABX_SEEN : Field := ⟨0x20060, 0x80, 5, 5⟩
def PC_CSTAT_OVR_SEEN : Field := ⟨0x20060, 0x80, 4, 4⟩
def PC_CSTAT_RANGE_SEEN : Field := ⟨0x20060, 0x80, 3, 3⟩
def PC_CSTAT_REF_DRIFT : Field := ⟨0x20060, 0x80, 2, 2⟩
def PC_CSTAT_SYS_REJ : Field := ⟨0x20060, 0x80, 1, 1⟩
def PC_CSTAT_ICAL_REJ : Field := ⟨0x20060, 0x80, 0, 0⟩
def PC_BTIME_LO_T : Field := ⟨0x20064, 0x80, 31, 0⟩
def PC_BTIME_HI_T : Field := ⟨0x20068, 0x80, 31, 0⟩
def PC_SYSLIM_GLIM : Field := ⟨0x2006c, 0x80, 23, 16⟩
def PC_SYSLIM_ZLIM : Field := ⟨0x2006c, 0x80, 15, 0⟩
def WMON_CTRL_LMODE : Field := ⟨0x14000, 0x10, 23, 23⟩
def WMON_CTRL_CALMASK : Field := ⟨0x14000, 0x10, 22, 22⟩
def WMON_CTRL_BLANK : Field := ⟨0x14000, 0x10, 21, 16⟩
def WMON_CTRL_SPER : Field := ⟨0x14000, 0x10, 15, 12⟩
def WMON_CTRL_MM1 : Field := ⟨0x14000, 0x10, 11, 8⟩
def WMON_CTRL_NM1 : Field := ⟨0x14000, 0x10, 7, 4⟩
def WMON_CTRL_MODE : Field := ⟨0x14000, 0x10, 2, 1⟩
def WMON_CTRL_EN : Field := ⟨0x14000, 0x10, 0, 0⟩
def WMON_THR_HYS : Field := ⟨0x14004, 0x10, 28, 26⟩
def WMON_THR_LTH : Field := ⟨0x14004, 0x10, 25, 16⟩
def WMON_THR_UTH : Field := ⟨0x14004, 0x10, 9, 0⟩
def WMON_ROUTE_CORE : Field := ⟨0x14008, 0x10, 15, 12⟩
def WMON_ROUTE_EVRL : Field := ⟨0x14008, 0x10, 10, 8⟩
def WMON_ROUTE_WAKE : Field := ⟨0x14008, 0x10, 7, 7⟩
def WMON_ROUTE_IRQ : Field := ⟨0x14008, 0x10, 6, 6⟩
def WMON_ROUTE_EVT : Field := ⟨0x14008, 0x10, 5, 5⟩
def WMON_ROUTE_CAP : Field := ⟨0x14008, 0x10, 4, 4⟩
def WMON_ROUTE_EDGES : Field := ⟨0x14008, 0x10, 3, 0⟩
def WMON_STAT_CAPT : Field := ⟨0x1400c, 0x10, 31, 12⟩
def WMON_STAT_CEDGE : Field := ⟨0x1400c, 0x10, 11, 10⟩
def WMON_STAT_CAPV : Field := ⟨0x1400c, 0x10, 9, 9⟩
def WMON_STAT_NOPWR : Field := ⟨0x1400c, 0x10, 8, 8⟩
def WMON_STAT_INIT : Field := ⟨0x1400c, 0x10, 7, 7⟩
def WMON_STAT_ACTIVE : Field := ⟨0x1400c, 0x10, 6, 6⟩
def WMON_STAT_FL : Field := ⟨0x1400c, 0x10, 5, 5⟩
def WMON_STAT_FU : Field := ⟨0x1400c, 0x10, 4, 4⟩
def WMON_STAT_LATCH : Field := ⟨0x1400c, 0x10, 3, 0⟩
def WMON_EVLOST_N : Field := ⟨0x14c00, 0x0, 31, 0⟩
def WMON_WAKE_VALID : Field := ⟨0x14c04, 0x0, 31, 31⟩
def WMON_WAKE_EDGE : Field := ⟨0x14c04, 0x0, 9, 8⟩
def WMON_WAKE_CHAN : Field := ⟨0x14c04, 0x0, 7, 0⟩
def WMON_CIRQ_LINE : Field := ⟨0x14c08, 0x0, 11, 0⟩
def CORE_CTRL_EN : Field := ⟨0x30000, 0x1000, 0, 0⟩
def CORE_CMD_TAG : Field := ⟨0x30004, 0x1000, 15, 8⟩
def CORE_CMD_ANY : Field := ⟨0x30004, 0x1000, 1, 1⟩
def CORE_CMD_ABORT : Field := ⟨0x30004, 0x1000, 0, 0⟩
def CORE_STAT_FCODE : Field := ⟨0x30008, 0x1000, 27, 24⟩
def CORE_STAT_JOBS : Field := ⟨0x30008, 0x1000, 19, 16⟩
def CORE_STAT_JOB_LOST : Field := ⟨0x30008, 0x1000, 8, 8⟩
def CORE_STAT_UE : Field := ⟨0x30008, 0x1000, 7, 7⟩
def CORE_STAT_FAULT : Field := ⟨0x30008, 0x1000, 6, 6⟩
def CORE_STAT_WDOG : Field := ⟨0x30008, 0x1000, 5, 5⟩
def CORE_STAT_ABORT_LATE : Field := ⟨0x30008, 0x1000, 4, 4⟩
def CORE_STAT_ABORTED : Field := ⟨0x30008, 0x1000, 3, 3⟩
def CORE_STAT_STATE : Field := ⟨0x30008, 0x1000, 2, 0⟩
def CORE_RUNNO_N : Field := ⟨0x3000c, 0x1000, 31, 0⟩
def CORE_CSINIT_V : Field := ⟨0x30010, 0x1000, 31, 0⟩
def CORE_WDOG_PERIOD : Field := ⟨0x30014, 0x1000, 11, 0⟩
def CORE_IEN_EN : Field := ⟨0x30018, 0x1000, 3, 0⟩
def CORE_ILVL_LVL : Field := ⟨0x3001c, 0x1000, 3, 0⟩
def CORE_IPEND_DOOR : Field := ⟨0x30020, 0x1000, 3, 3⟩
def CORE_IPEND_TIMER : Field := ⟨0x30020, 0x1000, 2, 2⟩
def CORE_IPEND_HAUL : Field := ⟨0x30020, 0x1000, 1, 1⟩
def CORE_IPEND_MON : Field := ⟨0x30020, 0x1000, 0, 0⟩
def CORE_DOOR_V : Field := ⟨0x30024, 0x1000, 31, 0⟩
def CORE_IVEC_IVEC1 : Field := ⟨0x30028, 0x1000, 30, 16⟩
def CORE_IVEC_IVEC0 : Field := ⟨0x30028, 0x1000, 14, 0⟩
def CORE_PC_PC : Field := ⟨0x3002c, 0x1000, 14, 0⟩
def CORE_ECC_UE : Field := ⟨0x30030, 0x1000, 31, 16⟩
def CORE_ECC_CE : Field := ⟨0x30030, 0x1000, 15, 0⟩
def CORE_IMA_A : Field := ⟨0x30034, 0x1000, 13, 0⟩
def CORE_IMD_D : Field := ⟨0x30038, 0x1000, 31, 0⟩
def CORE_DMADR_A : Field := ⟨0x3003c, 0x1000, 18, 0⟩
def CORE_DMDAT_D : Field := ⟨0x30040, 0x1000, 31, 0⟩
def CORE_LASTRUN_RUN : Field := ⟨0x30044, 0x1000, 31, 24⟩
def CORE_LASTRUN_RES : Field := ⟨0x30044, 0x1000, 2, 0⟩
def CORE_JLOST_N : Field := ⟨0x30048, 0x1000, 31, 0⟩
def CORE_DTAB_EN (k : Nat) : Field := ⟨0x30100 + 8 * k, 0x1000, 31, 31⟩
def CORE_DTAB_JMODE (k : Nat) : Field := ⟨0x30100 + 8 * k, 0x1000, 30, 30⟩
def CORE_DTAB_STRAND (k : Nat) : Field := ⟨0x30100 + 8 * k, 0x1000, 29, 24⟩
def CORE_DTAB_ENTRY (k : Nat) : Field := ⟨0x30100 + 8 * k, 0x1000, 14, 0⟩
def CORE_DPAR_PARAM (k : Nat) : Field := ⟨0x30104 + 8 * k, 0x1000, 18, 0⟩
def HOSTLINK_CTRL_TTL : Field := ⟨0x40000, 0x0, 23, 16⟩
def HOSTLINK_CTRL_DSCP : Field := ⟨0x40000, 0x0, 15, 10⟩
def HOSTLINK_CTRL_ROUTE : Field := ⟨0x40000, 0x0, 7, 7⟩
def HOSTLINK_CTRL_PTX : Field := ⟨0x40000, 0x0, 5, 5⟩
def HOSTLINK_CTRL_PRX : Field := ⟨0x40000, 0x0, 4, 4⟩
def HOSTLINK_CTRL_EN : Field := ⟨0x40000, 0x0, 0, 0⟩
def HOSTLINK_MAC_LO_MAC : Field := ⟨0x40004, 0x0, 31, 0⟩
def HOSTLINK_MAC_HI_MAC : Field := ⟨0x40008, 0x0, 15, 0⟩
def HOSTLINK_IP_IP : Field := ⟨0x4000c, 0x0, 31, 0⟩
def HOSTLINK_PORT_PORT : Field := ⟨0x40010, 0x0, 15, 0⟩
def HOSTLINK_TMO_MS : Field := ⟨0x40014, 0x0, 15, 0⟩
def HOSTLINK_PAUSE_QUANTA : Field := ⟨0x40018, 0x0, 15, 0⟩
def HOSTLINK_REL_USER : Field := ⟨0x4001c, 0x0, 8, 8⟩
def HOSTLINK_REL_TYPES : Field := ⟨0x4001c, 0x0, 7, 0⟩
def HOSTLINK_STPER_MS : Field := ⟨0x40020, 0x0, 15, 0⟩
def HOSTLINK_STAT_SESSION : Field := ⟨0x40024, 0x0, 15, 8⟩
def HOSTLINK_STAT_TAKEOVER : Field := ⟨0x40024, 0x0, 7, 7⟩
def HOSTLINK_STAT_LINK_LOST : Field := ⟨0x40024, 0x0, 6, 6⟩
def HOSTLINK_STAT_TMO_END : Field := ⟨0x40024, 0x0, 5, 5⟩
def HOSTLINK_STAT_RXFULL : Field := ⟨0x40024, 0x0, 4, 4⟩
def HOSTLINK_STAT_PAUSED : Field := ⟨0x40024, 0x0, 3, 3⟩
def HOSTLINK_STAT_FEC_LOCK : Field := ⟨0x40024, 0x0, 2, 2⟩
def HOSTLINK_STAT_AN_DONE : Field := ⟨0x40024, 0x0, 1, 1⟩
def HOSTLINK_STAT_LINK_UP : Field := ⟨0x40024, 0x0, 0, 0⟩
def HOSTLINK_EVT_PEND : Field := ⟨0x40028, 0x0, 5, 0⟩
def HOSTLINK_EVTEN_EN : Field := ⟨0x4002c, 0x0, 5, 0⟩
def HOSTLINK_HOSTIP_IP : Field := ⟨0x40030, 0x0, 31, 0⟩
def HOSTLINK_HOSTPORT_PORT : Field := ⟨0x40034, 0x0, 15, 0⟩
def HOSTLINK_HMAC_LO_MAC : Field := ⟨0x40038, 0x0, 31, 0⟩
def HOSTLINK_HMAC_HI_MAC : Field := ⟨0x4003c, 0x0, 15, 0⟩
def HOSTLINK_TXSEQ_SEQ : Field := ⟨0x40040, 0x0, 31, 0⟩
def HOSTLINK_CMDSEQ_SEQ : Field := ⟨0x40044, 0x0, 31, 0⟩
def HOSTLINK_RXDROP_N : Field := ⟨0x40048, 0x0, 31, 0⟩
def HOSTLINK_RETX_N : Field := ⟨0x4004c, 0x0, 31, 0⟩
def HOSTLINK_GONE_N : Field := ⟨0x40050, 0x0, 31, 0⟩
def HOSTLINK_TXDROP_N : Field := ⟨0x40054, 0x0, 31, 0⟩
def HOSTLINK_PCLOST_N : Field := ⟨0x40058, 0x0, 31, 0⟩
def HOSTLINK_FECCE_N : Field := ⟨0x4005c, 0x0, 31, 0⟩
def HOSTLINK_FECUE_N : Field := ⟨0x40060, 0x0, 31, 0⟩
def HOSTLINK_PAUSERX_N : Field := ⟨0x40064, 0x0, 31, 0⟩
def HOSTLINK_SENDBAD_N : Field := ⟨0x40068, 0x0, 31, 0⟩
def HAWSER_CTRL_PWIN : Field := ⟨0x44000, 0x0, 23, 16⟩
def HAWSER_CTRL_NDEV : Field := ⟨0x44000, 0x0, 13, 8⟩
def HAWSER_CTRL_HEAD : Field := ⟨0x44000, 0x0, 1, 1⟩
def HAWSER_CTRL_EN : Field := ⟨0x44000, 0x0, 0, 0⟩
def HAWSER_POS_VALID : Field := ⟨0x44004, 0x0, 8, 8⟩
def HAWSER_POS_POS : Field := ⟨0x44004, 0x0, 5, 0⟩
def HAWSER_STAT_UNREACHED : Field := ⟨0x44008, 0x0, 10, 10⟩
def HAWSER_STAT_JOIN : Field := ⟨0x44008, 0x0, 9, 9⟩
def HAWSER_STAT_RING_DIVERGED : Field := ⟨0x44008, 0x0, 8, 8⟩
def HAWSER_STAT_BREAK : Field := ⟨0x44008, 0x0, 7, 7⟩
def HAWSER_STAT_SIZE_ERR : Field := ⟨0x44008, 0x0, 6, 6⟩
def HAWSER_STAT_POS_CONFLICT : Field := ⟨0x44008, 0x0, 5, 5⟩
def HAWSER_STAT_HEAD_CONFLICT : Field := ⟨0x44008, 0x0, 4, 4⟩
def HAWSER_STAT_DESKEW_ERR : Field := ⟨0x44008, 0x0, 3, 3⟩
def HAWSER_STAT_LINK_B : Field := ⟨0x44008, 0x0, 1, 1⟩
def HAWSER_STAT_LINK_A : Field := ⟨0x44008, 0x0, 0, 0⟩
def HAWSER_PRES_LO_P : Field := ⟨0x4400c, 0x0, 31, 0⟩
def HAWSER_PRES_HI_P : Field := ⟨0x44010, 0x0, 31, 0⟩
def HAWSER_BREAK_VALID : Field := ⟨0x44014, 0x0, 31, 31⟩
def HAWSER_BREAK_SEG : Field := ⟨0x44014, 0x0, 5, 0⟩
def HAWSER_RETRY_A_N : Field := ⟨0x44018, 0x0, 31, 0⟩
def HAWSER_RETRY_B_N : Field := ⟨0x4401c, 0x0, 31, 0⟩
def HAWSER_DUP_N : Field := ⟨0x44020, 0x0, 31, 0⟩
def HAWSER_CORRUPT_N : Field := ⟨0x44024, 0x0, 31, 0⟩
def HAWSER_LATE_N : Field := ⟨0x44028, 0x0, 31, 0⟩
def HAWSER_TXDROP_N : Field := ⟨0x4402c, 0x0, 31, 0⟩
def HAWSER_DIVCNT_N : Field := ⟨0x44030, 0x0, 31, 0⟩
def HAWSER_DIVLAST_RSEQ : Field := ⟨0x44034, 0x0, 31, 0⟩
def HAWSER_DIVSRC_SRC : Field := ⟨0x44038, 0x0, 5, 0⟩
def LANYARD_CTRL_LOCALREF : Field := ⟨0x1000, 0x0, 2, 2⟩
def LANYARD_CTRL_PPSSTART : Field := ⟨0x1000, 0x0, 1, 1⟩
def LANYARD_CTRL_REFF : Field := ⟨0x1000, 0x0, 0, 0⟩
def LANYARD_STAT_TPORT : Field := ⟨0x1004, 0x0, 8, 7⟩
def LANYARD_STAT_PPS_MISS : Field := ⟨0x1004, 0x0, 6, 6⟩
def LANYARD_STAT_RUNNING : Field := ⟨0x1004, 0x0, 5, 5⟩
def LANYARD_STAT_REF_LOCK : Field := ⟨0x1004, 0x0, 4, 4⟩
def LANYARD_STAT_HOLDOVER : Field := ⟨0x1004, 0x0, 3, 3⟩
def LANYARD_STAT_LOST : Field := ⟨0x1004, 0x0, 2, 2⟩
def LANYARD_STAT_LOCKED : Field := ⟨0x1004, 0x0, 0, 0⟩
def LANYARD_NOW_LO_T : Field := ⟨0x1008, 0x0, 31, 0⟩
def LANYARD_NOW_HI_T : Field := ⟨0x100c, 0x0, 31, 0⟩
def LANYARD_PPS_LO_T : Field := ⟨0x1010, 0x0, 31, 0⟩
def LANYARD_PPS_HI_T : Field := ⟨0x1014, 0x0, 31, 0⟩
def LANYARD_OFFS_PS : Field := ⟨0x1018, 0x0, 15, 0⟩
def LANYARD_DLY_PS : Field := ⟨0x101c, 0x0, 23, 0⟩
def LANYARD_ASYM_ASYM_A : Field := ⟨0x1020, 0x0, 31, 16⟩
def LANYARD_ASYM_ASYM_B : Field := ⟨0x1020, 0x0, 15, 0⟩
def LANYARD_HOPS_N : Field := ⟨0x1024, 0x0, 5, 0⟩
def BOOT_STATE_STATE : Field := ⟨0x3000, 0x0, 3, 0⟩
def BOOT_CMD_KEY : Field := ⟨0x3004, 0x0, 15, 8⟩
def BOOT_CMD_SWRST : Field := ⟨0x3004, 0x0, 4, 4⟩
def BOOT_CMD_WATCH : Field := ⟨0x3004, 0x0, 3, 3⟩
def BOOT_CMD_RESUME : Field := ⟨0x3004, 0x0, 2, 2⟩
def BOOT_CMD_HOLD : Field := ⟨0x3004, 0x0, 1, 1⟩
def BOOT_CMD_RUN : Field := ⟨0x3004, 0x0, 0, 0⟩
def BOOT_STAT_WCAUSE : Field := ⟨0x3008, 0x0, 19, 18⟩
def BOOT_STAT_WAKE_PEND : Field := ⟨0x3008, 0x0, 17, 17⟩
def BOOT_STAT_WATCH_PEND : Field := ⟨0x3008, 0x0, 16, 16⟩
def BOOT_STAT_STOPPING : Field := ⟨0x3008, 0x0, 15, 15⟩
def BOOT_STAT_RUN_PEND : Field := ⟨0x3008, 0x0, 14, 14⟩
def BOOT_STAT_CMD_REJ : Field := ⟨0x3008, 0x0, 13, 13⟩
def BOOT_STAT_DIV_ACK : Field := ⟨0x3008, 0x0, 8, 8⟩
def BOOT_STAT_DIVERGED : Field := ⟨0x3008, 0x0, 7, 7⟩
def BOOT_STAT_NOIMAGE : Field := ⟨0x3008, 0x0, 6, 6⟩
def BOOT_STAT_B_VALID : Field := ⟨0x3008, 0x0, 5, 5⟩
def BOOT_STAT_A_VALID : Field := ⟨0x3008, 0x0, 4, 4⟩
def BOOT_STAT_COPY : Field := ⟨0x3008, 0x0, 0, 0⟩
def BOOT_GEN_GEN : Field := ⟨0x300c, 0x0, 31, 0⟩
def BOOT_GENO_GEN : Field := ⟨0x3010, 0x0, 31, 0⟩
def BOOT_POLICY_P : Field := ⟨0x3014, 0x0, 31, 0⟩
def BOOT_BODYCRC_CRC : Field := ⟨0x3018, 0x0, 31, 0⟩
def BOOT_TIME_ST : Field := ⟨0x301c, 0x0, 31, 16⟩
def BOOT_TIME_BOOT : Field := ⟨0x301c, 0x0, 15, 0⟩
def BOOT_RSTCAUSE_HOLDUP : Field := ⟨0x3020, 0x0, 7, 7⟩
def BOOT_RSTCAUSE_PG_TMO : Field := ⟨0x3020, 0x0, 6, 6⟩
def BOOT_RSTCAUSE_CAUSE : Field := ⟨0x3020, 0x0, 2, 0⟩
def BOOT_INCARN_N : Field := ⟨0x3024, 0x0, 31, 0⟩
def BOOT_STFAIL_ITEMS : Field := ⟨0x3028, 0x0, 4, 0⟩
def BOOT_WTIMER_SEC : Field := ⟨0x302c, 0x0, 31, 0⟩
def BOOT_HMASK_LO_S : Field := ⟨0x3030, 0x0, 31, 0⟩
def BOOT_HMASK_HI_S : Field := ⟨0x3034, 0x0, 31, 0⟩
def BOOT_FADDR_A : Field := ⟨0x3038, 0x0, 31, 0⟩
def BOOT_FDATA_D : Field := ⟨0x303c, 0x0, 31, 0⟩
def BOOT_FCMD_OP : Field := ⟨0x3040, 0x0, 1, 0⟩
def BOOT_FSTAT_REFUSED : Field := ⟨0x3044, 0x0, 2, 2⟩
def BOOT_FSTAT_ERR : Field := ⟨0x3044, 0x0, 1, 1⟩
def BOOT_FSTAT_BUSY : Field := ⟨0x3044, 0x0, 0, 0⟩
def POWER_STAT_PG : Field := ⟨0x2000, 0x0, 11, 8⟩
def POWER_STAT_HOLDUP : Field := ⟨0x2000, 0x0, 7, 7⟩
def POWER_STAT_CLASS_LOW : Field := ⟨0x2000, 0x0, 6, 6⟩
def POWER_STAT_CLS_GRANT : Field := ⟨0x2000, 0x0, 5, 4⟩
def POWER_STAT_CLS_REQ : Field := ⟨0x2000, 0x0, 3, 2⟩
def POWER_STAT_MODE : Field := ⟨0x2000, 0x0, 0, 0⟩
def SAFETY_FAULT_F : Field := ⟨0x4000, 0x0, 15, 0⟩
def SAFETY_STOPEN_EN : Field := ⟨0x4004, 0x0, 15, 4⟩
def SAFETY_STOPEN_FORCED : Field := ⟨0x4004, 0x0, 3, 0⟩
def SAFETY_STAT_FIRST : Field := ⟨0x4008, 0x0, 15, 8⟩
def SAFETY_STAT_HB : Field := ⟨0x4008, 0x0, 2, 2⟩
def SAFETY_STAT_STOP : Field := ⟨0x4008, 0x0, 1, 1⟩
def SAFETY_STAT_SAFE : Field := ⟨0x4008, 0x0, 0, 0⟩
def SAFETY_FTIME_LO_T : Field := ⟨0x400c, 0x0, 31, 0⟩
def SAFETY_FTIME_HI_T : Field := ⟨0x4010, 0x0, 31, 0⟩
def SAFETY_SMASK_LO_S : Field := ⟨0x4014, 0x0, 31, 0⟩
def SAFETY_SMASK_HI_S : Field := ⟨0x4018, 0x0, 31, 0⟩
def SAFETY_PCMASK_C : Field := ⟨0x401c, 0x0, 23, 0⟩
def SAFETY_CREJ_VALID : Field := ⟨0x4020, 0x0, 31, 31⟩
def SAFETY_CREJ_CODE : Field := ⟨0x4020, 0x0, 11, 8⟩
def SAFETY_CREJ_CHAN : Field := ⟨0x4020, 0x0, 7, 0⟩
def SAFETY_SWEEP_PASS : Field := ⟨0x4024, 0x0, 31, 0⟩
def SAFETY_TEST_INJ : Field := ⟨0x4028, 0x0, 0, 0⟩
def SAFETY_PCALREJ_C : Field := ⟨0x402c, 0x0, 23, 0⟩
def LOG_CMD_FREEZE : Field := ⟨0x5000, 0x0, 0, 0⟩
def LOG_MARK_V : Field := ⟨0x5004, 0x0, 31, 0⟩
def LOG_STAT_SLOTV : Field := ⟨0x5008, 0x0, 11, 8⟩
def LOG_STAT_NEWSLOT : Field := ⟨0x5008, 0x0, 7, 6⟩
def LOG_STAT_LOST : Field := ⟨0x5008, 0x0, 4, 4⟩
def LOG_STAT_QUEUED : Field := ⟨0x5008, 0x0, 3, 3⟩
def LOG_STAT_FBUSY : Field := ⟨0x5008, 0x0, 2, 2⟩
def LOG_SEQ_N : Field := ⟨0x500c, 0x0, 31, 0⟩
def LOG_LOST_N : Field := ⟨0x5010, 0x0, 31, 0⟩
def LOG_FSEQ_N : Field := ⟨0x5014, 0x0, 31, 0⟩
def LOCK_STAT_SRC : Field := ⟨0x5100, 0x0, 11, 10⟩
def LOCK_STAT_CHAL : Field := ⟨0x5100, 0x0, 9, 9⟩
def LOCK_STAT_LOCKOUT : Field := ⟨0x5100, 0x0, 8, 8⟩
def LOCK_STAT_FAILS : Field := ⟨0x5100, 0x0, 6, 4⟩
def LOCK_STAT_OPEN : Field := ⟨0x5100, 0x0, 3, 3⟩
def LOCK_STAT_LEVEL : Field := ⟨0x5100, 0x0, 1, 0⟩
def LOCK_CFG_OPENMAX : Field := ⟨0x5104, 0x0, 23, 16⟩
def LOCK_CFG_FLOOR : Field := ⟨0x5104, 0x0, 3, 2⟩
def LOCK_CFG_LEVEL : Field := ⟨0x5104, 0x0, 1, 0⟩
def LOCK_LOUT_SEC : Field := ⟨0x5108, 0x0, 9, 0⟩
def LOCK_SERIAL_LO_S : Field := ⟨0x510c, 0x0, 31, 0⟩
def LOCK_SERIAL_HI_S : Field := ⟨0x5110, 0x0, 31, 0⟩
def LOCK_UARTERR_N : Field := ⟨0x5114, 0x0, 31, 0⟩
def GLOBAL_ID_PART : Field := ⟨0x0, 0x0, 31, 16⟩
def GLOBAL_ID_STEP : Field := ⟨0x0, 0x0, 7, 0⟩
def GLOBAL_ROMVER_V : Field := ⟨0x4, 0x0, 31, 0⟩
def GLOBAL_BROMVER_V : Field := ⟨0x8, 0x0, 31, 0⟩
def GLOBAL_STRAP_CLS : Field := ⟨0xc, 0x0, 2, 1⟩
def GLOBAL_STRAP_PWR : Field := ⟨0xc, 0x0, 0, 0⟩
def GLOBAL_SCRATCH0_V : Field := ⟨0x10, 0x0, 31, 0⟩
def GLOBAL_SCRATCH1_V : Field := ⟨0x14, 0x0, 31, 0⟩
def GLOBAL_TLIM_LIM : Field := ⟨0x18, 0x0, 15, 0⟩
def GLOBAL_TSTAT_VALID : Field := ⟨0x1c, 0x0, 8, 8⟩
def GLOBAL_TSTAT_HOT : Field := ⟨0x1c, 0x0, 5, 0⟩
def GLOBAL_TEMP_T (k : Nat) : Field := ⟨0x20 + 4 * k, 0x0, 15, 0⟩

end Sys2Proof.Machine.Reg
end

