-- ==== Sys2Proof/Machine/SysState.lean ====
section
/-! DEFINITION. State of the housekeeping island, the safety monitor, the MRAM, the OTP and the line-power front
end that no register shows (chapters 07, 09, 16, 17, 18, 20). -/

namespace Sys2Proof.Machine

/-- Level of an output pin. -/
inductive Drive where
  | hiZ | low | high
  deriving DecidableEq, Repr

/-- A log record (Table 18.1). -/
structure LogRec where
  t : Time
  lseq : Nat
  code : Nat
  island : Nat
  /-- FLAGS.SET -/
  set : Bool
  a0 : Nat
  a1 : Nat
  a2 : Nat
  a3 : Nat
  deriving DecidableEq, Repr

/-- A freeze that waits, runs or is queued (R431 to R433): LSEQ of its freeze point, cause bits, records to copy. -/
structure Freeze where
  point : Nat
  cause : Nat
  count : Nat
  /-- slot and FSEQ once it has begun -/
  begun : Option (Nat × Nat)
  /-- the slot an abandoned freeze was using (R433) -/
  useSlot : Option Nat
  deriving DecidableEq, Repr

/-- A frozen-log slot (Table 18.4): header fields and records, newest first. -/
structure Slot where
  fseq : Nat
  incarn : Nat
  cause : Nat
  tFreeze : Time
  lseq : Nat
  recs : List LogRec
  deriving DecidableEq, Repr

/-- The log line. -/
structure LogSt where
  /-- newest record first; at most 4,096 (R430) -/
  ring : List LogRec
  next : Nat
  cur : Option Freeze
  queued : Option Freeze
  /-- records dropped since protection began (R432) -/
  dropped : Nat
  deriving DecidableEq, Repr

/-- Header of a copy of a calibration set but its reserved words (Tables 7.5 and 9.6). -/
structure CopyHead where
  magic : Nat
  version : Nat
  nchan : Nat
  count : Nat
  tCommit : Time
  crc : Word
  deriving DecidableEq, Repr

/-- One copy of the calibration set (Table 7.5). -/
structure CalCopy where
  head : CopyHead
  /-- per channel: offsets, gain corrections, skew -/
  vals : List (List Int × List Int × Int)
  deriving DecidableEq, Repr

/-- One copy of the precision set (Table 9.6). -/
structure PcCopy where
  head : CopyHead
  cals : List PcCal
  rint : Nat
  kref : Nat
  deriving DecidableEq, Repr

/-- One copy of the counters region (R435): incarnation number, FSEQ counter, lock failures, lockout seconds. -/
structure Counters where
  incarn : Nat
  fseq : Nat
  fails : Nat
  lockout : Nat
  deriving DecidableEq, Repr

/-- The MRAM (Table 18.3). -/
structure Mram where
  cal0 : CalCopy
  cal1 : CalCopy
  pc0 : PcCopy
  pc1 : PcCopy
  ctr0 : Counters
  ctr1 : Counters
  slots : List (Option Slot)
  deriving DecidableEq, Repr

/-- The counters as the boot takes them: the copy with the higher incarnation number (R435). -/
def Mram.ctr (m : Mram) : Counters := if m.ctr0.incarn < m.ctr1.incarn then m.ctr1 else m.ctr0

/-- An update of the counters: copy 0, then copy 1 (R435). DEDUCED: log entry 77. -/
def Mram.setCtr (c : Counters) (m : Mram) : Mram := { m with ctr0 := c, ctr1 := c }

/-- Incarnation number. -/
def Mram.incarn (m : Mram) : Nat := m.ctr.incarn
/-- FSEQ counter. -/
def Mram.fseq (m : Mram) : Nat := m.ctr.fseq
/-- Lock failures. -/
def Mram.fails (m : Mram) : Nat := m.ctr.fails
/-- Lockout seconds. -/
def Mram.lockout (m : Mram) : Nat := m.ctr.lockout

/-- A calibration commit in progress (R180 to R182): COUNT of each set, T_COMMIT, its values, attempt 1 or 2. -/
structure Commit2 where
  count : Nat
  pcCount : Nat
  tCommit : Time
  vals : List (List Int × List Int × Int)
  cals : List PcCal
  attempt : Nat
  deriving DecidableEq, Repr

/-- One-time programmable store: serial, key (none: not programmed), lock floor (R439 to R441). -/
structure Otp where
  serial : BitVec 64
  key : Option (BitVec 256)
  floor : Nat
  deriving DecidableEq, Repr

/-- The maintenance lock beside its registers. -/
structure LockSt where
  /-- outstanding nonce and the source it is bound to (R440) -/
  nonce : Option (BitVec 128 × Source)
  /-- session of the opener (R442) -/
  session : Nat
  /-- PWHASH of the image's LOCK section; 0: no password -/
  pwhash : BitVec 256
  deriving DecidableEq, Repr

/-- The safety monitor beside its registers. -/
structure SafetySt where
  safeN : Drive
  safeHb : Drive
  /-- live conditions of CLOCK and RAIL (R417) -/
  clockBad : Bool
  railBad : Bool
  /-- LY_REF is lost at a head that needs it (R365, R412) -/
  refBad : Bool
  /-- fault sources that became set and that the monitor has not reacted to: bit, stamp of the source (R407) -/
  due : List (Nat × Time)
  deriving DecidableEq, Repr

/-- A start calibration in progress (R174): the tick it began, its channels, the pass, codes left in it, start tick and code
of the slot in progress. -/
structure StartCal where
  since : Nat
  chans : List Nat
  pass : Nat
  todo : List Nat
  slot : Option (Nat × Nat)
  deriving DecidableEq, Repr

/-- Boot controller, flash and state sequencer beside the BOOT registers. -/
structure BootSt where
  /-- strands of the image's START section in order (R394) -/
  start : List Nat
  /-- the start calibration in progress (R174) -/
  startCal : Option StartCal
  /-- a wake cause was taken and WATCH has not ended (R401) -/
  waking : Bool
  /-- the 64 MiB image area: bytes something has written (R402); others hold what the flash was given -/
  flash : SMap Byte
  /-- page buffer and its fill position (R402) -/
  page : SMap Byte
  pagePos : Nat
  /-- operation the flash performs: 1 erase, 2 program, 3 read, at which address -/
  flashOp : Option (Nat × Nat)
  /-- the last power-down followed a hold-up; a POWERING timeout preceded (R379, R380) -/
  hadHoldup : Bool
  hadTimeout : Bool
  /-- the hold-up runs (R380) -/
  holdup : Bool
  deriving DecidableEq, Repr

/-- Line-power front end (R377 to R379, R458 to R462). -/
structure PowerSt where
  /-- a QUERY frame was received and the REQUEST not sent yet; the last REQUEST sent -/
  queried : Bool
  requested : Option Nat
  /-- a grant stands -/
  granted : Bool
  /-- inrush gate LP_GATE on -/
  gate : Bool
  /-- the 1 s wait after a POWERING timeout runs -/
  wait : Bool
  deriving DecidableEq, Repr

end Sys2Proof.Machine
end

