-- ==== Sys2Proof/Machine/State.lean ====
section
/-! DEFINITION. State of the SK7192-B0 as plain data: the register file (chapter 19), every memory, queue and
sequencer the chapters name, and the queue of commands that wait. -/

namespace Sys2Proof.Machine

/-- Reasons the machine stops. -/
inductive Fault where
  /-- No meaning raises it: every command of the table has an effect the spec gives. It stands for a command
  no environment can send (safe). -/
  | impossible
  deriving DecidableEq, Repr

/-- Reasons a command is refused. -/
inductive Refusal where
  /-- raised by the dispatch of a command whose meaning is not written yet (safe) -/
  | notModelled (mnemonic : String)
  deriving DecidableEq, Repr

/-- Access code of the response to a register access (R16, R30, Table 14.8). -/
inductive AccCode where
  | ok | locked | gated | abortLate | aborted
  deriving DecidableEq, Repr

/-- The holding register of one source in one island (R29, R454): the captured high word and the address of the
low word that loaded it; none: the previous read was no low word of a pair. -/
structure Hold where
  key : Nat
  low : Nat
  high : Word
  deriving DecidableEq, Repr

/-- The state of the block. -/
structure State where
  /-- commands that wait, first in first out -/
  pending : List Instr
  /-- the model's own counter of free values used; no part of the hardware -/
  free : Nat
  /-- ticks counted by the 200 MHz islands (R6, R22) -/
  tick : Nat
  /-- lanyard time (R8) -/
  lany : Time
  /-- registers by byte address; an unlisted one reads its reset value (R450) -/
  regs : SMap Word
  /-- the registers as they stood when the tick began: what an event of the tick samples (R28) -/
  before : SMap Word
  /-- W1C bits hardware has set in this tick, by register address (R17) -/
  raised : SMap Word
  /-- last source, in the order of R27, that wrote a register in this tick, by register address -/
  wrote : SMap Nat
  /-- lanyard counts from the start of the tick to the last event of the link island stamped in it (R31) -/
  sub : Nat
  /-- rank, in the order of R381, of the cause that has governed a transition in the present clock -/
  cause : Option Nat
  /-- holding registers (R29) -/
  hold : List Hold
  /-- access code of the last register access and the value it returned -/
  acc : AccCode
  readVal : Word
  strands : SMap StrandRt
  ports : SMap PortRt
  chans : SMap ChanRt
  quads : SMap QuadRt
  /-- fold-engine and phase-pipeline commits in flight, oldest first (R21) -/
  pipe : List Commit
  /-- fold memory: key (2 chan + plane) × 102,400 + bin (Table 4.1) -/
  bins : SMap Bin40
  /-- quality maps: key (2 chan + plane) × 400 + block (R94) -/
  qmap : SMap Byte
  /-- stack headers and phase records: key 2 chan + plane (Table 4.5, Table 6.5) -/
  metas : SMap Meta
  cores : SMap CoreRt
  pcs : SMap PcRt
  /-- precision channels whose conversion boundary fell in the present tick (R220) -/
  pcWas : SMap PcWas
  /-- monitor event records queued (R246), oldest first -/
  monq : List MonRec
  /-- PCVAL records gathered (R228), oldest first -/
  pcq : List PcRec
  log : LogSt
  mram : Mram
  otp : Otp
  lock : LockSt
  safety : SafetySt
  commit : Option Commit2
  /-- tick at which the last commit began, below 0 where that was before the last reset (R181); none: none since power-up -/
  lastCommit : Option Int
  boot : BootSt
  power : PowerSt
  link : LinkSt
  hawser : HawserSt
  deriving DecidableEq, Repr

/-- The calibration set of a device whose store the spec does not print: no valid copy. DESIGN CHOICE: log entry 4. -/
def CalCopy.lost : CalCopy := ⟨⟨0, 0, 0, 0, 0, 0⟩, []⟩

/-- No valid precision set. DESIGN CHOICE: log entry 4. -/
def PcCopy.lost : PcCopy := ⟨⟨0, 0, 0, 0, 0, 0⟩, [], 0, 0⟩

/-- MRAM contents the model names for reset (the MRAM keeps its contents through resets).
DESIGN CHOICE: log entry 4. -/
def Mram.initial : Mram :=
  ⟨CalCopy.lost, CalCopy.lost, PcCopy.lost, PcCopy.lost, ⟨0, 0, 0, 0⟩, ⟨0, 0, 0, 0⟩, [none, none, none, none]⟩

/-- The block at entry to BOOT. DESIGN CHOICE: log entry 4. -/
def State.reset : State :=
  { pending := [], free := 0, tick := 0, lany := 0, regs := [], before := [], raised := [], wrote := [], cause := none,
    sub := 0, hold := [], acc := .ok, readVal := 0,
    strands := [], ports := [], chans := [], quads := [], pipe := [], bins := [], qmap := [], metas := [],
    cores := [], pcs := [], pcWas := [], monq := [], pcq := [],
    log := ⟨[], 0, none, none, 0⟩, mram := Mram.initial, otp := ⟨0, none, 0⟩, lock := ⟨none, 0, 0⟩,
    safety := ⟨.low, .low, false, false, false, []⟩, commit := none, lastCommit := none,
    boot := ⟨[], none, false, [], [], 0, none, false, false, false⟩, power := ⟨false, none, false, true, false⟩,
    link := LinkSt.reset, hawser := HawserSt.reset }

end Sys2Proof.Machine
end

