-- ==== Sys2Proof/Machine/Ops.lean ====
section
/-! DEFINITION. Named operations over the register file, the instance tables and numbers. -/

namespace Sys2Proof.Machine

/-! ### Numbers -/

/-- `x` held to `lo` to `hi`. -/
def clampInt (lo hi x : Int) : Int := if x < lo then lo else if hi < x then hi else x

/-- `a / b` rounded to the nearest integer, ties away from zero (R59, R65, R214); `b > 0`. -/
def roundDiv (a : Int) (b : Nat) : Int :=
  let m := (2 * a.natAbs + b) / (2 * b)
  if a < 0 then -(m : Int) else (m : Int)

/-- Saturation to 16 bits (R65). -/
def sat16 (x : Int) : Int := clampInt (-32768) 32767 x

/-- `x` modulo 2ⁿ read as a signed value. -/
def wrapInt (n : Nat) (x : Int) : Int := (BitVec.ofInt n x).toInt

/-- Element `i` of a list, `d` beyond its end. -/
def nth {α : Type} (l : List α) (i : Nat) (d : α) : α := (l[i]?).getD d

/-- The little-endian bytes of `v`, `n` of them (R14). -/
def leBytes (n v : Nat) : List Byte := (List.range n).map fun i => BitVec.ofNat 8 (v / 256 ^ i)

/-- The number a list of bytes spells, little-endian. -/
def leNat : List Byte → Nat
  | [] => 0
  | b :: bs => b.toNat + 256 * leNat bs

/-- Two's complement of `x` in `n` bytes. -/
def leInt (n : Nat) (x : Int) : List Byte := leBytes n (BitVec.ofInt (8 * n) x).toNat

/-! ### Registers -/

/-- The word held at register address `a`. -/
def State.reg (s : State) (a : Nat) : Word := s.regs.getD a (regReset a)

/-- The state with word `w` held at register address `a`. -/
def State.setReg (s : State) (a : Nat) (w : Word) : State :=
  { s with regs := s.regs.putD a (regReset a) w }

/-- The bits of field `f` in a word. -/
def Field.read (f : Field) (w : Word) : Nat := w.toNat / 2 ^ f.lo % f.span

/-- The word with the bits of field `f` replaced. -/
def Field.insert (f : Field) (w : Word) (v : Nat) : Word :=
  BitVec.ofNat 32 (w.toNat - f.read w * 2 ^ f.lo + v % f.span * 2 ^ f.lo)

/-- The value of field `f` of instance `i`. -/
def State.rd (s : State) (f : Field) (i : Nat) : Nat := f.read (s.reg (f.addr i))

/-- The state with field `f` of instance `i` set. -/
def State.wr (s : State) (f : Field) (i v : Nat) : State :=
  s.setReg (f.addr i) (f.insert (s.reg (f.addr i)) v)

/-- A one-bit field as a truth value. -/
def State.on (s : State) (f : Field) (i : Nat) : Bool := s.rd f i = 1

/-- A one-bit field set or cleared. -/
def State.put (s : State) (f : Field) (i : Nat) (b : Bool) : State := s.wr f i (if b then 1 else 0)

/-- A field read as a two's-complement number. -/
def State.rdInt (s : State) (f : Field) (i : Nat) : Int := wrapInt (f.hi + 1 - f.lo) (s.rd f i)

/-- The field plus `n`, holding at its highest value (counters that "hold at"). -/
def State.bump (s : State) (f : Field) (i n : Nat) : State := s.wr f i (min (s.rd f i + n) (f.span - 1))

/-- The field plus `n`, modulo its width. -/
def State.count (s : State) (f : Field) (i n : Nat) : State := s.wr f i (s.rd f i + n)

/-- The state with the registers as they stood when the tick began: an event of the tick samples these (R28).
DEDUCED: log entry 70. -/
def State.old (s : State) : State := { s with regs := s.before }

/-- Bits `m` of register `a` are W1C bits hardware sets in this tick (R17). DEDUCED: log entry 70. -/
def State.noteRaised (a : Nat) (m : Word) (s : State) : State :=
  { s with raised := s.raised.put a (s.raised.getD a 0 ||| m) }

/-- Hardware sets a W1C bit: a write in the same tick does not clear it (R17). -/
def State.raise (s : State) (f : Field) (i : Nat) : State :=
  (s.put f i true).noteRaised (f.addr i) (BitVec.ofNat 32 (2 ^ f.lo))

/-- Value of a W1C field with only the bits hardware has set in this tick. -/
def State.raisedIn (s : State) (f : Field) (i : Nat) : Nat := f.read (s.raised.getD (f.addr i) 0 &&& s.reg (f.addr i))

/-- Bit `k` of a field. -/
def State.bit (s : State) (f : Field) (i k : Nat) : Bool := s.rd f i / 2 ^ k % 2 = 1

/-- Bit `k` of a field set or cleared. -/
def State.putBit (s : State) (f : Field) (i k : Nat) (b : Bool) : State :=
  let v := s.rd f i
  let v0 := v - v / 2 ^ k % 2 * 2 ^ k
  s.wr f i (if b then v0 + 2 ^ k else v0)

/-- Hardware sets bit `k` of a W1C field (R17). -/
def State.raiseBit (s : State) (f : Field) (i k : Nat) : State :=
  (s.putBit f i k true).noteRaised (f.addr i) (BitVec.ofNat 32 (2 ^ (f.lo + k)))

/-- A pair of registers holding a 64-bit value, low word at `lo` (R29). -/
def State.setPair (s : State) (lo : Field) (i : Nat) (t : Time) : State :=
  (s.setReg (lo.addr i) (t.setWidth 32)).setReg (lo.addr i + 4) ((t >>> 32).setWidth 32)

/-- The 64-bit value of a pair. -/
def State.pair (s : State) (lo : Field) (i : Nat) : Time :=
  (s.reg (lo.addr i + 4)) ++ (s.reg (lo.addr i))

/-! ### Instances -/

/-- Run-time state of strand `i`. -/
def State.strand (s : State) (i : Nat) : StrandRt := s.strands.getD i StrandRt.idle
/-- Strand `i` replaced. -/
def State.setStrand (s : State) (i : Nat) (x : StrandRt) : State :=
  { s with strands := s.strands.putD i StrandRt.idle x }
/-- Run-time state of port `i`. -/
def State.port (s : State) (i : Nat) : PortRt := s.ports.getD i PortRt.idle
/-- Port `i` replaced. -/
def State.setPort (s : State) (i : Nat) (x : PortRt) : State :=
  { s with ports := s.ports.putD i PortRt.idle x }
/-- Run-time state of channel `i`. -/
def State.chan (s : State) (i : Nat) : ChanRt := s.chans.getD i ChanRt.idle
/-- Channel `i` replaced. -/
def State.setChan (s : State) (i : Nat) (x : ChanRt) : State :=
  { s with chans := s.chans.putD i ChanRt.idle x }
/-- Phase pipeline `i`. -/
def State.quad (s : State) (i : Nat) : QuadRt := s.quads.getD i QuadRt.idle
/-- Pipeline `i` replaced. -/
def State.setQuad (s : State) (i : Nat) (x : QuadRt) : State :=
  { s with quads := s.quads.putD i QuadRt.idle x }
/-- Core `i`. -/
def State.core (s : State) (i : Nat) : CoreRt := s.cores.getD i CoreRt.reset
/-- Core `i` replaced. -/
def State.setCore (s : State) (i : Nat) (x : CoreRt) : State :=
  { s with cores := s.cores.putD i CoreRt.reset x }
/-- Precision channel `i`. -/
def State.pc (s : State) (i : Nat) : PcRt := s.pcs.getD i PcRt.reset
/-- Precision channel `i` replaced. -/
def State.setPc (s : State) (i : Nat) (x : PcRt) : State :=
  { s with pcs := s.pcs.putD i PcRt.reset x }

/-- Calibration values of precision channel `c` as a commit takes them: the system values stand in registers. -/
def State.pcCal (s : State) (c : Nat) : PcCal :=
  { (s.pc c).cal with sysOff := s.rdInt Reg.PC_SYSOFF_X c, sysGain := s.rdInt Reg.PC_SYSGAIN_G c }

/-- `f` done for every element of a list, in order. -/
def State.each {α : Type} (l : List α) (f : α → State → State) (s : State) : State :=
  l.foldl (fun t a => f a t) s

/-- A value no rule gives: the next value of the model's own counter, to index a free value with.
DESIGN CHOICE: log entry 2. -/
def State.fresh (s : State) : Nat × State := (s.free, { s with free := s.free + 1 })

/-! ### Operating state -/

/-- BOOT_STATE.STATE (Table 16.1). -/
def State.mode (s : State) : Nat := s.rd Reg.BOOT_STATE_STATE 0

/-- Is the block in WATCH, where islands are gated (R30, R399)? -/
def State.inWatch (s : State) : Bool := s.mode = 7 && !s.on Reg.BOOT_STAT_WAKE_PEND 0

/-- A cause that governs in the present clock is discarded where one before it in the order of R381 has governed: 1 loss of
input, 2 RST_N or SWRST, 3 a fault that leads to SAFE_STOP, then 4 on, the rows of Table 16.2. DEDUCED: log entry 70. -/
def State.overruled (s : State) (rank : Nat) : Bool := s.cause.any fun k => k < rank

/-- A cause governs in the present clock. -/
def State.governed (rank : Nat) (s : State) : State := { s with cause := some rank }
/-- Is the block in SAFE_STOP (R419)? -/
def State.inSafeStop (s : State) : Bool := s.mode = 9

end Sys2Proof.Machine
end

