-- ==== Sys2Proof/Machine/Digest.lean ====
section
/-! DEFINITION. Check words and digests: the CRC-32 of R182, SHA-256 (FIPS 180-4) and HMAC-SHA-256 (FIPS 198-1) of
the maintenance lock (R440). -/

namespace Sys2Proof.Machine

/-! ### CRC-32 (R182) -/

/-- One bit of the reflected CRC-32 register. -/
def crcBit (c : Word) : Word := if c.getLsbD 0 then (c >>> 1) ^^^ 0xEDB88320#32 else c >>> 1

/-- One byte enters the register. -/
def crcByte (c : Word) (b : Byte) : Word :=
  crcBit (crcBit (crcBit (crcBit (crcBit (crcBit (crcBit (crcBit (c ^^^ b.setWidth 32))))))))

/-- CRC-32 of IEEE 802.3 over a list of bytes. -/
def crc32 (bs : List Byte) : Word := ~~~ (bs.foldl crcByte 0xFFFFFFFF#32)

/-! ### SHA-256 -/

/-- The primes whose roots the constants are taken from. -/
def shaPrimes : List Nat :=
  [2, 3, 5, 7, 11, 13, 17, 19, 23, 29, 31, 37, 41, 43, 47, 53, 59, 61, 67, 71, 73, 79, 83, 89, 97, 101, 103, 107, 109, 113,
   127, 131, 137, 139, 149, 151, 157, 163, 167, 173, 179, 181, 191, 193, 197, 199, 211, 223, 227, 229, 233, 239, 241, 251,
   257, 263, 269, 271, 277, 281, 283, 293, 307, 311]

/-- The greatest number of `b` bits above `r` whose `k`-th power is at most `n`. -/
def rootFrom (k n : Nat) : Nat → Nat → Nat
  | 0, r => r
  | b + 1, r => if (r + 2 ^ b) ^ k ≤ n then rootFrom k n b (r + 2 ^ b) else rootFrom k n b r

/-- First 32 bits of the fraction of the `k`-th root of a prime below 2⁹. -/
def rootFraction (k p : Nat) : Word := BitVec.ofNat 32 (rootFrom k (p * 2 ^ (32 * k)) 37 0)

/-- Round constants: cube roots. -/
def shaK : List Word := shaPrimes.map (rootFraction 3)

/-- Initial hash value: square roots of the first eight primes. -/
def shaInit : List Word := (shaPrimes.take 8).map (rootFraction 2)

/-- The big-endian number a list of bytes spells. -/
def beNat (bs : List Byte) : Nat := bs.foldl (fun a b => a * 256 + b.toNat) 0

/-- The big-endian bytes of a number, `n` of them. -/
def beBytes (n v : Nat) : List Byte := (leBytes n v).reverse

/-- Three rotations of a word, combined; the third of them a shift where `shift` says so. -/
def shaMix (shift : Bool) (i j k : Nat) (x : Word) : Word :=
  (x.rotateRight i ^^^ x.rotateRight j) ^^^ (if shift then x >>> k else x.rotateRight k)

/-- A block's words with the 48 that follow from them, latest first. -/
def shaExtend : Nat → List Word → List Word
  | 0, w => w
  | n + 1, w =>
    shaExtend n ((nth w 15 0 + nth w 6 0 + shaMix true 7 18 3 (nth w 14 0) + shaMix true 17 19 10 (nth w 1 0)) :: w)

/-- The rounds over pairs of constant and word: the working words stand as the last four of two sequences, latest first. -/
def shaRounds : List (Word × Word) → List Word × List Word → List Word × List Word
  | [], v => v
  | (k, w) :: rest, (p, q) =>
    let pick := nth q 2 0 ^^^ (nth q 0 0 &&& (nth q 1 0 ^^^ nth q 2 0))
    let vote := (nth p 0 0 &&& (nth p 1 0 ||| nth p 2 0)) ||| (nth p 1 0 &&& nth p 2 0)
    let sum := k + w + pick + nth q 3 0 + shaMix false 6 11 25 (nth q 0 0)
    shaRounds rest ((shaMix false 2 13 22 (nth p 0 0) + vote + sum) :: p.take 3, (nth p 3 0 + sum) :: q.take 3)

/-- A list cut into pieces of `n`, `k` of them. -/
def pieces {α : Type} (n : Nat) : Nat → List α → List (List α)
  | 0, _ => []
  | k + 1, l => l.take n :: pieces n k (l.drop n)

/-- One block of 64 bytes. -/
def shaBlock (h : List Word) (blk : List Byte) : List Word :=
  let words := (pieces 4 16 blk).map fun b => BitVec.ofNat 32 (beNat b)
  let (p, q) := shaRounds (shaK.zip (shaExtend 48 words.reverse).reverse) (h.take 4, h.drop 4)
  List.zipWith (· + ·) h (p ++ q)

/-- The padded message. -/
def shaPad (m : List Byte) : List Byte :=
  let z := (119 - m.length % 64) % 64
  m ++ [0x80#8] ++ List.replicate z 0 ++ beBytes 8 (8 * m.length)

/-- SHA-256, as 32 bytes. -/
def sha256 (m : List Byte) : List Byte :=
  let p := shaPad m
  ((pieces 64 (p.length / 64) p).foldl shaBlock shaInit).flatMap fun w => beBytes 4 w.toNat

/-- HMAC-SHA-256 for a key of 32 bytes. -/
def hmac (key m : List Byte) : List Byte :=
  let k := key ++ List.replicate (64 - key.length) 0
  sha256 (k.map (· ^^^ 0x5C#8) ++ sha256 (k.map (· ^^^ 0x36#8) ++ m))

end Sys2Proof.Machine
end

