-- ==== Sys2Proof/Config.lean ====
section
/-! DEFINITION. What the spec leaves open. Every constant here is opaque and has no body: nothing in Lean can
evaluate it or prove a value of it, so a claim holds for every value. Each is named in a row of the assumption log. -/

namespace Sys2Proof.Config

/-- Content of a fold-memory word no stack has written (R86): bank and plane, bin. DESIGN CHOICE: log entry 5. -/
opaque unwrittenBin : Nat → Nat → Bin40
/-- Content of a metadata byte nothing has written (R86, R150): bank and plane, byte. DESIGN CHOICE: log entry 5. -/
opaque unwrittenMeta : Nat → Nat → Byte
/-- Content of a core data-memory byte nothing has written: core, byte. DESIGN CHOICE: log entry 5. -/
opaque unwrittenDm : Nat → Nat → Byte
/-- Content of a core instruction-memory word nothing has written: core, word. DESIGN CHOICE: log entry 5. -/
opaque unwrittenIm : Nat → Nat → Word
/-- Molylith data-ROM byte, the same in every core (R298): byte offset in the ROM. DESIGN CHOICE: log entry 5. -/
opaque romByte : Nat → Byte
/-- Molylith ROM instruction word (R252): word offset in the ROM. DESIGN CHOICE: log entry 5. -/
opaque romWord : Nat → Word
/-- Flash byte the host has not written (R402). DESIGN CHOICE: log entry 5. -/
opaque flashByte : Nat → Byte
/-- A sample of QX, IY or QY delayed by a fractional skew (R138): channel, tick, skew, sample.
DESIGN CHOICE: log entry 26. -/
opaque aligned : Nat → Nat → Int → Int → Int
/-- Departure of angle16 from the computed angle, kept within the bound of R142 by its user: draw.
DESIGN CHOICE: log entry 26. -/
opaque angleErr : Nat → Int
/-- The angle of a gauge product of zero, which R142 does not state: draw. DESIGN CHOICE: log entry 26. -/
opaque angleZero : Nat → Int
/-- A fresh nonce of the random source (R440): serial number of the draw. DESIGN CHOICE: log entry 2. DEDUCED: log entry 56. -/
opaque nonce : Nat → BitVec 128
/-- A memory word read with an error beyond the check bits' power, or one they only detect (R86, R102, R271): draw.
DESIGN CHOICE: log entry 71. -/
opaque badWord : Nat → BitVec 64
/-- A byte of a memory word that a haul or a load delivers in such a case (R271): draw, byte. DESIGN CHOICE: log entry 71. -/
opaque badByte : Nat → Nat → Byte
/-- Departure in nV of a clamp's threshold from Table 8.6, kept within ±0.05 V by its user: channel, pin, clamp window, side.
DESIGN CHOICE: log entry 75. -/
opaque clampTrip : Nat → Nat → Nat → Bool → Int
/-- A byte of the fixed payload of a TOPO or TOPO_ACK frame, whose layout Table 15.2 does not print: what it carries, offset.
DESIGN CHOICE: log entry 2. DEDUCED: log entry 47. -/
opaque topoByte : List Int → Nat → Byte
/-- A value the spec does not state: which one (a small number named where it is used), draw.
DESIGN CHOICE: log entry 2. -/
opaque open_ : Nat → Nat → Int

end Sys2Proof.Config
end

