-- ==== Sys2Proof/Machine/Report.lean ====
section
/-! DEFINITION. Telling the outside: EVT_N, STATUS messages, the log line (R343, R346, R428 to R432). -/

namespace Sys2Proof.Machine

/-- EVT_N follows HOSTLINK_EVT.PEND and HOSTLINK_EVTEN (R346); it is high-impedance before BOOT. -/
def State.driveEvt (s : State) : State :=
  let p := s.rd Reg.HOSTLINK_EVT_PEND 0
  let e := s.rd Reg.HOSTLINK_EVTEN_EN 0
  { s with link := { s.link with evtN := 3 ≤ s.mode && (p &&& e) != 0 } }

/-- Bit `k` of HOSTLINK_EVT.PEND is set (Table 14.10). -/
def State.event (k : Nat) (s : State) : State := (s.putBit Reg.HOSTLINK_EVT_PEND 0 k true).driveEvt

/-- A message joins the link island's queue. -/
def State.queueMsg (m : Msg) (s : State) : State :=
  { s with link := { s.link with txq := s.link.txq ++ [⟨m.ty, s.rd Reg.HAWSER_POS_POS 0, .own m.payload, 0, none⟩] } }

/-- A frame leaves on a line. DESIGN CHOICE: log entry 49. -/
def State.emit (l : Line) (s : State) : State := { s with link := { s.link with wire := l :: s.link.wire } }

/-- One STATUS record of FORM 0 (Table 14.9). -/
structure StatusRec where
  t : Time
  cause : Nat
  src : Nat
  kind : Nat
  core : Nat
  reason : Nat
  strand : Nat
  runno : Nat
  stackno : Nat
  detail : Nat
  deriving DecidableEq, Repr

/-- Payload of a FORM 0 STATUS message of one record (R343). -/
def StatusRec.payload (r : StatusRec) : List Byte :=
  leBytes 2 1 ++ leBytes 2 1 ++ leBytes 1 0 ++ leBytes 3 0
    ++ leBytes 8 r.t.toNat ++ leBytes 2 r.cause ++ leBytes 1 r.src ++ leBytes 1 r.kind ++ leBytes 1 r.core
    ++ leBytes 1 r.reason ++ leBytes 1 r.strand ++ leBytes 1 0 ++ leBytes 4 r.runno ++ leBytes 4 r.stackno
    ++ leBytes 4 r.detail ++ leBytes 4 0

/-- A STATUS message is formed and queued, and STAT becomes pending (R343, R346). -/
def State.status (r : StatusRec) (s : State) : State := (s.queueMsg ⟨7, r.payload⟩).event 2

/-- A STATUS record that concerns no core run. -/
def State.plainStatus (t : Time) (cause strand detail : Nat) (s : State) : State :=
  s.status ⟨t, cause, 0, 0, 0xFF, 0, strand, 0, 0, detail⟩

/-- LSEQ numbers protected by a freeze (R432): from the oldest record it copies to its freeze point. -/
def Freeze.covers (f : Freeze) (n : Nat) : Bool := f.point < n + f.count && n ≤ f.point

/-- A record enters the ring: the oldest is overwritten when the ring is full, unless a freeze protects it; then
the new record is dropped (R430, R432). -/
def LogSt.add (l : LogSt) (r : LogRec) : LogSt × Bool :=
  if l.ring.length < 4096 then ({ l with ring := r :: l.ring, next := l.next + 1 }, true)
  else
    let old := (l.ring.getLast?.map (·.lseq)).getD 0
    let prot := (l.cur.any (·.covers old)) || (l.queued.any (·.covers old))
    if prot then ({ l with dropped := l.dropped + 1 }, false)
    else ({ l with ring := r :: l.ring.dropLast, next := l.next + 1 }, true)

/-- A log record is written (R428, R429). -/
def State.log_ (code island : Nat) (set : Bool) (a0 a1 a2 a3 : Nat) (t : Time) (s : State) : State :=
  let (l, kept) := s.log.add ⟨t, s.log.next, code, island, set, a0, a1, a2, a3⟩
  let s := { s with log := l }
  if kept then s.wr Reg.LOG_SEQ_N 0 (l.next - 1)
  else ((s.bump Reg.LOG_LOST_N 0 1).raise Reg.LOG_STAT_LOST 0)

/-! ### Lanyard stamps (R31) -/

/-- Lanyard time of the present tick, low 8 bits zero: the stamp of an event of a 200 MHz island. -/
def State.stamp (s : State) : Time := BitVec.ofNat 64 (s.lany.toNat / 256 * 256)

/-- The cycle it is now: a core that does not issue counts three cycles per tick. DEDUCED: log entry 10. -/
def State.nowCycle (s : State) (c : Nat) : Nat := max (s.core c).cycle (3 * s.tick)

/-- Lanyard time of cycle `n` of the core island, three to a tick. DEDUCED: log entry 76. -/
def State.cycleTime (s : State) (n : Nat) : Time :=
  if s.on Reg.LANYARD_STAT_RUNNING 0 then s.lany + BitVec.ofInt 64 (256 * ((n : Int) - 3 * s.tick) / 3) else s.lany

/-- The stamp of an event of core `c`. -/
def State.coreTime (s : State) (c : Nat) : Time := s.cycleTime (s.nowCycle c)

/-- The stamp of an event of the link island, whose clock no tick is a multiple of: a free instant of the tick, not before the
island's last. DEDUCED: log entry 76. -/
def State.linkTime (s : State) : Time × State :=
  if !s.on Reg.LANYARD_STAT_RUNNING 0 then (s.lany, s)
  else
    let (n, s) := s.fresh
    let sub := s.sub + (Config.open_ 19 n).toNat % (256 - s.sub)
    (s.lany + BitVec.ofNat 64 sub, { s with sub := sub })

/-- The stamp of an event of an island (numbered as in Table 18.1); `who` is the core of an event of the core island. -/
def State.eventTime (island who : Nat) (s : State) : Time × State :=
  if island = 4 then s.linkTime
  else if island = 3 then (s.coreTime who, s)
  else if island = 0 || island = 5 || island = 18 then (s.lany, s)
  else (s.stamp, s)

/-- A log record of the current instant with FLAGS.SET, of the core island's event at core `who`. -/
def State.logBy (who code island a0 a1 a2 a3 : Nat) (s : State) : State :=
  let (t, s) := s.eventTime island who
  s.log_ code island true a0 a1 a2 a3 t

/-- A log record of the current instant with FLAGS.SET. -/
def State.logNow (code island a0 a1 a2 a3 : Nat) (s : State) : State := s.logBy 0 code island a0 a1 a2 a3

/-- LOG_STAT.FBUSY and QUEUED follow the freezes. -/
def State.freezeFlags (s : State) : State :=
  (s.put Reg.LOG_STAT_FBUSY 0 s.log.cur.isSome).put Reg.LOG_STAT_QUEUED 0 s.log.queued.isSome

/-- A cause of a freeze arises at the record just written (R431, R433): it waits, or joins the queued freeze,
whose freeze point moves to it. -/
def State.askFreeze (cause : Nat) (s : State) : State :=
  let point := s.log.next - 1
  let f : Freeze := ⟨point, cause, 1024, none, none⟩
  let l := match s.log.cur, s.log.queued with
    | none, _ => { s.log with cur := some f }
    | some _, none => { s.log with queued := some f }
    | some _, some q => { s.log with queued := some { f with cause := q.cause ||| cause } }
  ({ s with log := l }).freezeFlags

/-- The operating state changes (R376): BOOT_STATE and a STATE record (Table 18.2). -/
def State.goto (new : Nat) (s : State) : State :=
  let old := s.mode
  let s := s.wr Reg.BOOT_STATE_STATE 0 new
  if old = new then s else s.logNow 2 0 old new (s.rd Reg.BOOT_STAT_WCAUSE 0) 0

/-- The source of safety fault `k` becomes set at lanyard time `t` (R406, R407); the monitor's reaction is SAFETY_FAULT's.
DEDUCED: log entry 59. -/
def State.sourceAt (k : Nat) (t : Time) (s : State) : State :=
  { s with safety := { s.safety with due := s.safety.due ++ [(k, t)] } }

/-- The source of safety fault `k` becomes set now, by the clock of its island (Table 17.1, R31). -/
def State.source (k : Nat) (s : State) : State :=
  s.sourceAt k (if k = 4 || (7 ≤ k && k ≤ 10 && k != 9) then s.stamp else s.lany)

/-- Is strand `i` in the safety function (R408)?. DEDUCED: log entry 59. -/
def State.strandMasked (s : State) (i : Nat) : Bool :=
  if i < 32 then s.bit Reg.SAFETY_SMASK_LO_S 0 i else s.bit Reg.SAFETY_SMASK_HI_S 0 (i - 32)

end Sys2Proof.Machine
end

