-- ==== Sys2Proof/Machine/Fold.lean ====
section
/-! DEFINITION. Fold memory, range plans and the fold engine's commit (chapters 03 and 04). -/

namespace Sys2Proof.Machine

/-! ### Strands and their channels -/

/-- Channels hitched to strand `i` (R35), in ascending order. -/
def State.hitched (s : State) (i : Nat) : List Nat :=
  (List.range 192).filter fun ch => s.on Reg.FC_HITCH_EN ch && s.rd Reg.FC_HITCH_STRAND ch = i

/-- The strand a channel is hitched to. -/
def State.strandOf (s : State) (ch : Nat) : Option Nat :=
  if s.on Reg.FC_HITCH_EN ch then some (s.rd Reg.FC_HITCH_STRAND ch) else none

/-- Launch delay L, bins N, bin decimation d, period P (R45). -/
def State.strandL (s : State) (i : Nat) : Nat := s.rd Reg.STRAND_LDLY_LDLY i
def State.strandN (s : State) (i : Nat) : Nat := s.rd Reg.STRAND_NBIN_NBIN i
def State.strandD (s : State) (i : Nat) : Nat := 2 ^ s.rd Reg.STRAND_CTRL_DEC i
def State.strandP (s : State) (i : Nat) : Nat := s.rd Reg.STRAND_PERIOD_PERIOD i
/-- First gap tick after launch, L + N × d. -/
def State.gapOff (s : State) (i : Nat) : Nat := s.strandL i + s.strandN i * s.strandD i

/-- STRAND_STAT.STATE: 0 STOPPED, 1 WAITING, 2 RUNNING, 3 STOPPING. -/
def State.sstate (s : State) (i : Nat) : Nat := s.rd Reg.STRAND_STAT_STATE i
/-- A strand runs while WAITING, RUNNING or STOPPING (R49). -/
def State.runs (s : State) (i : Nat) : Bool := s.sstate i != 0
/-- Strand in mode 2 (phase). -/
def State.isPhase (s : State) (i : Nat) : Bool := s.rd Reg.STRAND_CTRL_MODE i = 2
/-- PMODE of a port as it acts: 3 acts as 0 (R111). -/
def State.pmode (s : State) (p : Nat) : Nat :=
  let m := s.rd Reg.PRB_CTRL_PMODE p
  if m = 3 then 0 else m
/-- Cycle length c of a port (Table 5.1). -/
def State.cycleLen (s : State) (p : Nat) : Nat :=
  match s.pmode p with
  | 0 => 1
  | 1 => 4
  | _ => 2
/-- Coded strand (R112). -/
def State.isCoded (s : State) (i : Nat) : Bool :=
  s.pmode (s.rd Reg.STRAND_CTRL_PORT i) != 0 && (s.rd Reg.STRAND_CTRL_MODE i = 1 ||
    s.rd Reg.STRAND_CTRL_MODE i = 3 || s.rd Reg.STRAND_CTRL_MODE i = 4)
/-- Stacking mode as it acts: 3 acts as 0; coded stacks and phase runs are bounded (R91, R147). -/
def State.smode (s : State) (i : Nat) : Nat :=
  let m := s.rd Reg.FOLD_CTRL_MODE i
  if m = 3 || s.isCoded i || s.isPhase i then 0 else m
/-- K of leaky stacking as it acts (Table 4.2). -/
def State.leakK (s : State) (i : Nat) : Nat :=
  let k := s.rd Reg.FOLD_CTRL_LEAK i
  if k = 0 then 1 else min k 24

/-- STRAND_STAT.STATE changes, with a STRAND log record (Table 18.2). -/
def State.setSstate (i new : Nat) (s : State) : State :=
  if s.sstate i = new then s
  else (s.wr Reg.STRAND_STAT_STATE i new).logNow 0x20 1 i new (s.rd Reg.STRAND_STACKNO_N i)
    (s.rd Reg.STRAND_STAT_CFG_ERR i)

/-! ### Range plan (R66 to R72) -/

/-- BLKk of a strand. -/
def State.blk (s : State) (i k : Nat) : Nat :=
  match k with
  | 0 => 0
  | 1 => s.rd Reg.FC_PLAN_B123_BLK1 i
  | 2 => s.rd Reg.FC_PLAN_B123_BLK2 i
  | 3 => s.rd Reg.FC_PLAN_B123_BLK3 i
  | 4 => s.rd Reg.FC_PLAN_B456_BLK4 i
  | 5 => s.rd Reg.FC_PLAN_B456_BLK5 i
  | 6 => s.rd Reg.FC_PLAN_B456_BLK6 i
  | _ => s.rd Reg.FC_PLAN_B7_BLK7 i

/-- Bight k may follow the bights before it (R68). -/
def State.bightValid (s : State) (i k : Nat) : Bool :=
  k = 0 || (1 ≤ s.blk i k && (k = 1 || s.blk i (k - 1) < s.blk i k) && 256 * s.blk i k < s.strandN i)

/-- Bights of the configured plan before the first invalid one (R68). -/
def State.bightsUsed (s : State) (i : Nat) : Nat :=
  ((List.range (s.rd Reg.FC_PLAN_B7_NB i + 1)).takeWhile (s.bightValid i)).length

/-- Settle count as it acts: 0 and 1 act as 2, 65 and up as 64 (R71). -/
def State.settle (s : State) (i : Nat) : Nat := min (max (s.rd Reg.FC_PLAN_B7_SETTLE i) 2) 64

/-- Gain code as it acts: 13 to 15 act as 12 (R61). -/
def gainCode (g : Nat) : Nat := min g 12

/-- The channel whose FC_GAIN a channel uses: IX in a quad of mode 2 (R69). -/
def State.gainChan (s : State) (ch : Nat) : Nat :=
  match s.strandOf ch with
  | some i => if s.isPhase i && 8 ≤ s.rd Reg.FC_HITCH_ROLE ch then ch - ch % 4 else ch
  | none => ch

/-- The plan a channel would take now (R68); gain codes as they act. DESIGN CHOICE: log entry 72. -/
def State.pendingPlan (s : State) (ch : Nat) : Plan :=
  let i := (s.strandOf ch).getD 0
  ⟨(List.range (s.bightsUsed i)).map fun k =>
      (s.blk i k, gainCode (s.rd (Reg.FC_GAIN_GAIN k) (s.gainChan ch))), s.settle i⟩

/-- The channel takes the plan in force for its strand, as sampled at the launch tick (R28, R68): PLAN_ERR when a bight is
cut. -/
def State.takePlan (ch : Nat) (s : State) : State :=
  let i := (s.old.strandOf ch).getD 0
  let cut := s.old.bightsUsed i < s.old.rd Reg.FC_PLAN_B7_NB i + 1
  let c := s.chan ch
  let s := s.setChan ch { c with plan := some (s.old.pendingPlan ch), planCut := cut }
  if cut then s.raise Reg.FC_STAT_PLAN_ERR ch else s

/-- FC_STAT.PEND (R68). -/
def State.planPend (s : State) (ch : Nat) : Bool :=
  s.on Reg.FC_HITCH_EN ch && (s.chan ch).plan != some (s.pendingPlan ch)

/-- The bight of bin `b` under a plan. -/
def Plan.bightAt (p : Plan) (b : Nat) : Nat :=
  (p.bights.filter fun x => 256 * x.1 ≤ b).length - 1

/-- Gain code of bight `k` of a plan. -/
def Plan.gainOf (p : Plan) (k : Nat) : Nat := (nth p.bights k (0, 0)).2

/-- Settle bins of R71: the first ⌈S ÷ d⌉ bins of each bight after bight 0. -/
def Plan.settleBin (p : Plan) (d b : Nat) : Bool :=
  (p.bights.drop 1).any fun x => 256 * x.1 ≤ b && b < 256 * x.1 + (p.settle + d - 1) / d

/-! ### Fold memory (R85 to R88, R94) -/

/-- Key of a bank's plane. -/
def planeKey (ch pl : Nat) : Nat := 2 * ch + pl

/-- Bin `b` of a plane; a word nothing has written holds a free value. DESIGN CHOICE: log entry 5. -/
def State.bin (s : State) (ch pl b : Nat) : Bin40 :=
  s.bins.getD (planeKey ch pl * 102400 + b) (Config.unwrittenBin (planeKey ch pl + 384 * s.mram.incarn) b)

/-- Bin `b` of a plane written. -/
def State.setBin (ch pl b : Nat) (v : Bin40) (s : State) : State :=
  { s with bins := s.bins.put (planeKey ch pl * 102400 + b) v }

/-- Quality-map byte of a block. DESIGN CHOICE: log entry 5. -/
def State.qbyte (s : State) (ch pl blk : Nat) : Byte :=
  s.qmap.getD (planeKey ch pl * 400 + blk) (Config.unwrittenMeta (planeKey ch pl + 384 * s.mram.incarn) (0x60 + blk))

/-- Quality-map byte written. -/
def State.setQbyte (ch pl blk : Nat) (v : Byte) (s : State) : State :=
  { s with qmap := s.qmap.put (planeKey ch pl * 400 + blk) v }

/-- Bit `k` of a quality-map byte set (Table 4.4). -/
def State.mark (ch pl blk k : Nat) (s : State) : State :=
  s.setQbyte ch pl blk (s.qbyte ch pl blk ||| BitVec.ofNat 8 (2 ^ k))

/-- IX channel of a phase quad; another channel itself: the bank whose map takes the quad's marks (R150). -/
def State.mapChan (s : State) (ch : Nat) : Nat := s.gainChan ch

/-- A mark in a channel's map and, in a phase quad, in its IX map as well (R150). -/
def State.markBoth (ch pl blk k : Nat) (s : State) : State :=
  let s := s.mark ch pl blk k
  if s.mapChan ch = ch then s else s.mark (s.mapChan ch) pl blk k

/-- FOLD_PSTAT ownership of a plane: 0 FREE, 1 FILL, 2 HAUL (R96). -/
def State.own (s : State) (ch pl : Nat) : Nat :=
  if pl = 0 then s.rd Reg.FOLD_PSTAT_OWN_A ch else s.rd Reg.FOLD_PSTAT_OWN_B ch

/-- Ownership written. -/
def State.setOwn (ch pl v : Nat) (s : State) : State :=
  if pl = 0 then s.wr Reg.FOLD_PSTAT_OWN_A ch v else s.wr Reg.FOLD_PSTAT_OWN_B ch v

/-- A plane in HAUL passes to FREE; another release is ignored (R98). -/
def State.release (ch pl : Nat) (s : State) : State := if s.own ch pl = 2 then s.setOwn ch pl 0 else s

/-- Counts of a corrected single-bit error of a bank (R101). -/
def State.foldCe (ch : Nat) (s : State) : State := (s.bump Reg.FOLD_ECC_CE ch 1).bump Reg.FOLD_ECC_CE_N 0 1

/-- Counts, FOLD_ECC_LAST, UE_SEEN, the safety source and the log of an uncorrectable error (R102, R20);
`kind` of MEM_UE: 0 fold, 3 tile bundle. -/
def State.foldUe (ch pl blk : Nat) (isMeta : Bool) (kind : Nat) (s : State) : State :=
  let was := s.on Reg.FOLD_ECC_LAST_VALID 0
  let s := (s.bump Reg.FOLD_ECC_UE ch 1).bump Reg.FOLD_ECC_UE_N 0 1
  let s := ((((s.raise Reg.FOLD_ECC_LAST_VALID 0).put Reg.FOLD_ECC_LAST_META 0 isMeta).wr
    Reg.FOLD_ECC_LAST_BLOCK 0 blk).wr Reg.FOLD_ECC_LAST_PLANE 0 pl).wr Reg.FOLD_ECC_LAST_CHAN 0 ch
  let s := match s.strandOf ch with
    | some i => s.raise Reg.FOLD_SSTAT_UE_SEEN i
    | none => s
  let s := s.logNow 0x41 1 kind ch blk 0
  if was then s else s.source 4

/-- CORR or ECC in block `blk` of plane `pl` for the outcome of a read (R101, R102, R150). -/
def State.eccMark (ch pl blk : Nat) (e : Ecc) (s : State) : State :=
  if e.ce then s.markBoth ch pl blk 6 else if e.ue then s.markBoth ch pl blk 3 else s

/-- Counts and records of the outcome of a fold engine's read of plane `pl` (R101, R102). -/
def State.eccCount (ch pl blk : Nat) (isMeta : Bool) (e : Ecc) (s : State) : State :=
  if e.ce then s.foldCe ch else if e.ue then s.foldUe ch pl blk isMeta 0 else s

/-- A bin as a read with outcome `e` delivers it: the word stored, or where the check bits do not vouch for that a free value
(R86, R102). DESIGN CHOICE: log entry 71. -/
def State.readBin (ch pl b : Nat) (e : Ecc) (s : State) : Bin40 × State :=
  if e.intact then (s.bin ch pl b, s)
  else
    let (n, s) := s.fresh
    ((Config.badWord n).setWidth 40, s)

/-- A fold engine's or pipeline's read of bin `b` of plane `from_` while it fills plane `pl`: the value, with counts and
marks (R101, R102). On a carry the block of the plane that fills takes the mark. DESIGN CHOICE: log entry 71. -/
def State.takeBin (ch pl from_ b : Nat) (e : Ecc) (s : State) : Bin40 × State :=
  let (v, s) := s.readBin ch from_ b e
  (v, (s.eccMark ch pl (b / 256) e).eccCount ch from_ (b / 256) false e)

/-- Range figures of a committed sample of a folded shot (R75): its bight, its magnitude, overloaded. -/
def State.rangeCommit (ch : Nat) (fig : Option (Nat × Nat)) (ovl : Bool) (s : State) : State :=
  match fig with
  | none => s
  | some (k, m) =>
    let c := s.chan ch
    let new := ovl && !(nth c.ovlThis k false)
    s.setChan ch
      { c with peak := c.peak.set k (max (nth c.peak k 0) m),
               ovlThis := if new then c.ovlThis.set k true else c.ovlThis,
               ovlShots := if new then c.ovlShots.set k (nth c.ovlShots k 0 + 1) else c.ovlShots }

/-- One commit of the fold engine (R87, R88, R94): `old` names where the old value comes from. -/
def State.foldCommit (strand ch pl b : Nat) (x : Int) (old : OldKind) (leak : Option Nat) (ovl badFrame : Bool)
    (e : Ecc) (s : State) : State :=
  let (o, s) : Int × State := match old with
    | .zero => (0, s)
    | .carry => let (v, s) := s.takeBin ch pl (1 - pl) b e; (v.toInt, s)
    | .self => let (v, s) := s.takeBin ch pl pl b e; (v.toInt, s)
  let o := match leak with
    | some k => o - o / 2 ^ k
    | none => o
  let lim : Int := 2 ^ 39 - 1
  let v := clampInt (-lim) lim (o + x)
  let s := if o + x = v then s else (s.mark ch pl (b / 256) 0).raise Reg.FOLD_SSTAT_SAT_SEEN strand
  let s := if ovl then s.mark ch pl (b / 256) 1 else s
  let s := if badFrame then (s.mark ch pl (b / 256) 3).foldUe ch pl (b / 256) false 3 else s
  s.setBin ch pl b (BitVec.ofInt 40 v)

end Sys2Proof.Machine
end

