-- ==== Sys2Proof/Machine/Strand.lean ====
section
/-! DEFINITION. Strands: the check of a start, starting, stopping, and the probe port's rotation (chapter 02). -/

namespace Sys2Proof.Machine

/-! ### Ports and their strands (R40 to R44) -/

/-- Running strands bound to port `p` (R40, R49). -/
def State.portStrands (s : State) (p : Nat) : List Nat :=
  (List.range 64).filter fun i => s.runs i && (s.strand i).runPort = p

/-- SW value of a running strand. -/
def State.sw (s : State) (i : Nat) : Nat := (s.strand i).runSw

/-- The distinct values of a list below 16, ascending. -/
def distinct16 (l : List Nat) : List Nat := (List.range 16).filter fun v => l.contains v

/-- Least element of a list. -/
def least : List Nat → Option Nat
  | [] => none
  | x :: xs => some (xs.foldl min x)

/-- PRB_SW is driven with `v`, the value of the next launch (R42, R44). -/
def State.driveSw (p v : Nat) (s : State) : State :=
  let r := s.port p
  (s.setPort p { r with sw := v, fixed := some v }).wr Reg.PRB_STAT_SWNEXT p v

/-- A port that is not launching makes its first launch at the earliest start tick fixed (R43). -/
def State.portRetime (p : Nat) (s : State) : State :=
  let r := s.port p
  if r.launching then s
  else s.setPort p { r with next := least ((s.portStrands p).filterMap fun i => (s.strand i).start) }

/-- Number of distinct SW values among the running strands of a strand's port (R41). -/
def State.rotationLen (s : State) (i : Nat) : Nat :=
  max 1 (distinct16 ((s.portStrands (s.strand i).runPort).map s.sw)).length

/-! ### Phase pipelines of a strand (R37, R146, R153, R154) -/

/-- The quad of a strand in mode 2: that of its IX channel. -/
def State.quadOf (s : State) (i : Nat) : Nat :=
  (((s.hitched i).filter fun ch => s.rd Reg.FC_HITCH_ROLE ch = 8).head?.getD 0) / 4

/-- G, S, Dt of a pipeline as they act (R140, R143, Table 6.13). -/
def State.gauge (s : State) (q : Nat) : Nat := max 1 (s.rd Reg.PHASE_QCFG_GAUGE q)
def State.spatial (s : State) (q : Nat) : Nat := 2 ^ min 4 (s.rd Reg.PHASE_QCFG_SDEC q)
def State.shotsPerRow (s : State) (q : Nat) : Nat := s.rd Reg.PHASE_QTDEC_TDEC q + 1

/-- DPHI stream of the running phase strands in bit/s (R154). -/
def State.phaseStream (s : State) : Rat :=
  ((List.range 64).filter fun i => s.runs i && s.isPhase i).foldl (fun (a : Rat) i =>
    let q := s.quadOf i
    a + (16 * (s.strandN i / s.spatial q) * 200000000 : Nat)
      / ((s.shotsPerRow q * (s.strand i).runP * s.rotationLen i : Nat) : Rat)) 0

/-- PHASE_RATE computed and compared with the budget (R154). -/
def State.phaseRate (s : State) : State :=
  let r := ((s.phaseStream / 1000000).ceil).toNat
  let s := s.wr Reg.PHASE_RATE_RATE 0 r
  if s.rd Reg.PHASE_BUDGET_BUDGET 0 < r then s.raise Reg.PHASE_GSTAT_RATE_OVER 0 else s

/-- Table 6.6: code of the first failing check of a pipeline. -/
def State.phaseCheck (s : State) (i : Nat) : Nat :=
  let q := s.quadOf i
  let n := s.rd Reg.STRAND_NSHOT_NSHOT i
  let dt := s.shotsPerRow q
  if n % dt != 0 then 1
  else if 204800 < n / dt * (s.strandN i / s.spatial q) then 2
  else 0

/-! ### The check of a start (R49, Tables 2.5 and 2.6) -/

/-- The hitched roles match Table 2.1 for the strand's mode. -/
def State.rolesOk (s : State) (i : Nat) : Bool :=
  let hs := (s.hitched i).map fun ch => s.rd Reg.FC_HITCH_ROLE ch
  let n (r : Nat) := (hs.filter (· = r)).length
  match s.rd Reg.STRAND_CTRL_MODE i with
  | 1 => n 2 = 1 && n 3 = 1 && n 4 ≤ 1 && n 5 ≤ 1 && hs.length = 2 + n 4 + n 5
  | 2 => n 8 = 1 && n 9 = 1 && n 10 = 1 && n 11 = 1 && n 5 ≤ 1 && hs.length = 4 + n 5
  | 3 => n 1 = 1 && n 5 ≤ 1 && hs.length = 1 + n 5
  | 4 => n 1 = 1 && n 5 ≤ 1 && hs.length = 1 + n 5
  | _ => false

/-- A quad stands as R37 requires. -/
def State.quadOk (s : State) (i : Nat) : Bool :=
  (s.hitched i).all fun ch =>
    let r := s.rd Reg.FC_HITCH_ROLE ch
    r < 8 || (ch % 4 = r - 8 && ch / 4 = s.quadOf i)

/-- No tile of the strand's channels would serve more than 8 running strands (R39). -/
def State.tilesOk (s : State) (i : Nat) : Bool :=
  (s.hitched i).all fun ch =>
    let on := (List.range 64).filter fun j => j != i && s.runs j && (s.hitched j).any fun c => c / 16 = ch / 16
    on.length < 8

/-- No running strand of the port has another period (R41). -/
def State.periodsOk (s : State) (i : Nat) : Bool :=
  (s.portStrands (s.rd Reg.STRAND_CTRL_PORT i)).all fun j => (s.strand j).runP = s.strandP i

/-- STRAND_STAT.CFG_ERR: the first failing check of Table 2.6, 0 when none fails. DESIGN CHOICE: log entry 6. -/
def State.cfgCheck (s : State) (i : Nat) : Nat :=
  let n := s.strandN i
  let d := s.strandD i
  if !s.rolesOk i then 1
  else if s.isPhase i && !s.quadOk i then 2
  else if n < 512 || 102400 < n || n % 256 != 0 then 3
  else if 4 < s.rd Reg.STRAND_CTRL_DEC i then 4
  else if 102400 < n * d then 5
  else if s.strandP i < 12500 then 6
  else if s.strandP i < s.gapOff i + 1600 then 7
  else if !s.tilesOk i then 8
  else if !s.periodsOk i then 9
  else if s.rd Reg.STRAND_NSHOT_NSHOT i = 0 && s.smode i = 0 then 10
  else 0

/-! ### Starting (R49 to R51, R390) -/

/-- The start tick R51 gives now: 64 ticks from now, or STRAND_T0 when that lies no sooner, compared by modular
difference (R9). DESIGN CHOICE: log entry 23. -/
def State.startTick (s : State) (i : Nat) : Nat :=
  let now := s.lany.toNat / 256
  let ahead := ((s.pair Reg.STRAND_T0_LO_T i).toNat / 256 + (2 ^ 56 - now)) % 2 ^ 56
  if s.on Reg.STRAND_CTRL_START_NOW i || ahead < 64 || 2 ^ 55 ≤ ahead then s.tick + 64 else s.tick + ahead

/-- The start tick of a WAITING strand is fixed (R51, R390); a port that is not launching drives the strand's SW
value, the lowest one of those fixed in one tick (R44). DESIGN CHOICE: log entry 23. -/
def State.fixStart (i : Nat) (s : State) : State :=
  let p := (s.strand i).runPort
  let s := s.setStrand i { s.strand i with start := some (s.startTick i), fixedAt := some s.tick }
  let r := s.port p
  if r.launching then s
  else
    let v := if r.fixTick = some s.tick then min (r.fixed.getD (s.sw i)) (s.sw i) else s.sw i
    ((s.setPort p { r with fixTick := some s.tick }).driveSw p v).portRetime p

/-- RUN = 1 failed its check: RUN returns to 0, and a STRAND record gives the code (R49, R153). -/
def State.failStart (i code : Nat) (s : State) : State :=
  (s.put Reg.STRAND_CTRL_RUN i false).logNow 0x20 1 i (s.sstate i) (s.rd Reg.STRAND_STACKNO_N i) code

/-- The monitor band of a port is learned again from MON_FLOOR (R134, R396). DESIGN CHOICE: log entry 73. -/
def State.monRelearn (p : Nat) (s : State) : State :=
  s.setPort p { s.port p with monBlock := [(0, 0), (0, 0), (0, 0), (0, 0)],
                              monBlockMiss := [false, false, false, false],
                              monLearned := [none, none, none, none] }

/-- A strand that passed its checks becomes WAITING with its counts cleared (R51, R52, R79, R97, R131, R134); the miss count
and the last levels clear with the learned ones. DESIGN CHOICE: log entry 73. -/
def State.beginRun (i : Nat) (s : State) : State :=
  let rt := s.strand i
  let s := s.monRelearn (s.rd Reg.STRAND_CTRL_PORT i)
  let s := s.setStrand i
    { rt with start := none, fixedAt := none, runPort := s.rd Reg.STRAND_CTRL_PORT i,
              runSw := s.rd Reg.STRAND_CTRL_SW i, runP := s.strandP i,
              stack := none, lastClose := none, sysStop := none, restartRun := false,
              nextPlane := 0, skipped := 0, fresh := true, skippedLaunch := false, accShots := 0, tAcc := 0,
              launched := false, miss := 0, learned := [none, none, none, none], lastLevel := [0, 0, 0, 0] }
  let s := (((((s.wr Reg.STRAND_STACKNO_N i 0).wr Reg.STRAND_SHOTNO_N i 0).wr Reg.FOLD_SKIP_N i 0).put
    Reg.FOLD_SSTAT_PLANE i false).put Reg.FOLD_SSTAT_HELD i false)
  let s := s.each (s.hitched i) fun ch s => s.setChan ch { s.chan ch with urRun := zero8 }
  let s := s.setSstate i 1
  if s.isPhase i then
    let q := s.quadOf i
    (((s.wr Reg.PHASE_QSTAT_CFG_ERR q 0).put Reg.PHASE_QSTAT_ACTIVE q true).wr Reg.PHASE_QBREAKS_N q 0).phaseRate
  else s

/-- RUN = 1 takes effect on a STOPPED strand (R49, R153): the checks, then WAITING; the start tick is fixed now in
RUNNING and at RUNNING entry otherwise (R390). RUN reads 1 already. -/
def State.startRun (i : Nat) (s : State) : State :=
  let e := s.cfgCheck i
  let s := s.wr Reg.STRAND_STAT_CFG_ERR i e
  if e != 0 then s.failStart i e
  else
    let e := if s.isPhase i then s.phaseCheck i else 0
    if e != 0 then (s.wr Reg.PHASE_QSTAT_CFG_ERR (s.quadOf i) e).failStart i (e + 16)
    else
      let s := s.beginRun i
      if s.mode = 6 then s.fixStart i else s

/-! ### Stopping (R43, R51 to R53) -/

/-- HELD writes that waited for the channel's next launch take effect (R177): (code, gain?, value), code 13 the skew. -/
def State.applyDeferred (ch : Nat) (s : State) : State :=
  let c := s.chan ch
  s.setChan ch (c.deferred.foldl (fun (c : ChanRt) (d : Nat × Bool × Int) =>
    if d.1 = 13 then { c with wSkew := d.2.2 }
    else if d.2.1 then { c with wGain := c.wGain.set d.1 d.2.2 }
    else { c with wOff := c.wOff.set d.1 d.2.2 }) { c with deferred := [] })

/-- A port that makes no further launch: PRB_SW holds the value of its last launch (R43, R44). -/
def State.portIdle (p : Nat) (s : State) : State :=
  let r := s.port p
  s.setPort p { r with next := none, launching := false, fixed := none, fixTick := none, cycles := [], sw := r.lastSw }

/-- A port whose strands all stopped makes no further launch (R43). -/
def State.portRelease (p : Nat) (s : State) : State :=
  if s.portStrands p = [] then s.portIdle p else s.portRetime p

/-- The strand becomes STOPPED; a RUN = 1 that waited for this takes effect as a start (R53). A SNAP that is pending stays so.
DESIGN CHOICE: log entry 78. -/
def State.stopped (i : Nat) (s : State) : State :=
  let rt := s.strand i
  let hs := s.hitched i
  let s := s.setStrand i { rt with start := none, stack := none, sysStop := none, restartRun := false }
  let s := (s.put Reg.FOLD_SSTAT_HELD i false).setSstate i 0
  let s := s.each hs fun ch s => s.applyDeferred ch
  let s := if s.isPhase i then
      ((s.put Reg.PHASE_QSTAT_ACTIVE (s.quadOf i) false).put Reg.PHASE_QSTAT_HFILL (s.quadOf i) false).phaseRate else s
  let s := s.portRelease rt.runPort
  let s := if (List.range 64).all (fun j => !s.runs j) then s.put Reg.BOOT_STAT_STOPPING 0 false else s
  if rt.restartRun then (s.put Reg.STRAND_CTRL_RUN i true).startRun i else s

/-- RUN is written to 0 (R51 to R53). -/
def State.runOff (i : Nat) (s : State) : State :=
  let s := s.put Reg.STRAND_CTRL_RUN i false
  let rt := s.strand i
  if s.sstate i = 1 then s.stopped i
  else if s.sstate i = 2 && rt.stack.isSome then s.setSstate i 3
  else s.setStrand i { rt with restartRun := false }

/-- RUN is written to 1 (R49, R51, R53). -/
def State.runOn (i : Nat) (s : State) : State :=
  let was := s.on Reg.STRAND_CTRL_RUN i
  let s := s.put Reg.STRAND_CTRL_RUN i true
  let rt := s.strand i
  if s.sstate i = 0 then s.startRun i
  else if rt.sysStop.isSome then s.setStrand i { rt with restartRun := true }
  else if s.sstate i = 3 && !was then s.setSstate i 2
  else s

/-- HOLD and WATCH stop a strand that is WAITING or RUNNING, and record it in BOOT_HMASK (R395, R398). -/
def State.holdStrand (i : Nat) (s : State) : State :=
  if s.sstate i = 1 || s.sstate i = 2 then
    let s := if i < 32 then s.putBit Reg.BOOT_HMASK_LO_S 0 i true else s.putBit Reg.BOOT_HMASK_HI_S 0 (i - 32) true
    let s := s.runOff i
    if s.runs i then s.setStrand i { s.strand i with sysStop := some s.tick } else s
  else s

/-- RUN = 1 that the SK7192 writes to a strand of BOOT_HMASK (R396); one that still stops starts when STOPPED. -/
def State.resumeStrand (i : Nat) (s : State) : State :=
  let rt := s.strand i
  if s.sstate i = 0 then (s.put Reg.STRAND_CTRL_RUN i true).startRun i
  else (s.put Reg.STRAND_CTRL_RUN i true).setStrand i { rt with restartRun := true, sysStop := some (rt.sysStop.getD s.tick) }

/-- Is strand `i` in BOOT_HMASK? -/
def State.inHmask (s : State) (i : Nat) : Bool :=
  if i < 32 then s.bit Reg.BOOT_HMASK_LO_S 0 i else s.bit Reg.BOOT_HMASK_HI_S 0 (i - 32)

/-- The strands of BOOT_HMASK are restarted and the mask cleared (R396). -/
def State.resumeAll (s : State) : State :=
  let m := (List.range 64).filter s.inHmask
  let s := s.each m fun i s => s.resumeStrand i
  (s.wr Reg.BOOT_HMASK_LO_S 0 0).wr Reg.BOOT_HMASK_HI_S 0 0

end Sys2Proof.Machine
end

