-- ==== Sys2Proof/Machine/Stack.lean ====
section
/-! DEFINITION. Stacks: start, shots, headers, close and abort (chapters 02, 04, 05 and 06). -/

namespace Sys2Proof.Machine

/-- Blocks of a strand's planes, ⌈N ÷ 256⌉. -/
def State.blocks (s : State) (i : Nat) : Nat := (s.strandN i + 255) / 256

/-- Tick at which the last bin of the shot in progress is committed (R48). -/
def State.shotEnd (s : State) (i : Nat) (sh : Shot) : Nat := sh.launch + s.gapOff i + 31

/-! ### Commits in flight (R21, R144) -/

/-- Commits that are due are made, oldest first; `pick` chooses which. -/
def State.runPipe (commit : Work → Nat → State → State) (pick : Commit → Bool) (s : State) : State :=
  let due := s.pipe.filter pick
  let s := { s with pipe := s.pipe.filter (fun c => !pick c) }
  due.foldl (fun t c => commit c.work c.strand t) s

/-! ### Start of a stack (R47, R52, R87 to R91, R94, R96, R97) -/

/-- Planes of the next stack: both for a coded strand (R91), else the one whose turn it is (R97). -/
def State.stackPlanes (s : State) (i : Nat) : List Nat :=
  if s.isCoded i then [0, 1] else [(s.strand i).nextPlane]

/-- Every plane the next stack needs is FREE on every hitched channel, as sampled at the launch tick (R28, R99, R100). -/
def State.planesFree (s : State) (i : Nat) : Bool :=
  (s.hitched i).all fun ch => (s.old.stackPlanes i).all fun pl => s.old.own ch pl = 0

/-- A channel joins a stack: the plan is taken where `take` says so (R68, R69), range figures clear (R75). -/
def State.chanStart (take : Bool) (ch : Nat) (s : State) : State :=
  let s := if take then s.takePlan ch else s
  let c := s.chan ch
  s.setChan ch { c with prevPlan := c.plan, ovlShots := zero8, peak := zero8,
                        ovlThis := [false, false, false, false, false, false, false, false] }

/-- SAT, OVERLOAD, SETTLE and ECC of the map of the plane that closed last are copied into the map of plane `pl`, word by
word (R94); `errs`: the outcomes of these reads that are not clean, by channel and map word (R101). An uncorrectable word is
counted as the haul's is, and what is copied of it is a free value. DESIGN CHOICE: log entry 71. -/
def State.mapCopy (i ch pl : Nat) (errs : List (Nat × Nat × Ecc)) (s : State) : State :=
  let n := s.blocks i
  s.each (List.range ((n + 3) / 4)) fun w s =>
    let e := (errs.find? fun x => x.1 = ch && x.2.1 = w).elim .ok (·.2.2)
    let (k, s) := if e.intact then (0, s) else s.fresh
    let s := s.eccCount ch (1 - pl) (4 * w) true e
    s.each ((List.range 4).filter fun j => 4 * w + j < n) fun j s =>
      let v := if e.intact then s.qbyte ch (1 - pl) (4 * w + j) else ((Config.badWord k) >>> (8 * j)).setWidth 8
      s.setQbyte ch pl (4 * w + j) (v &&& 0x0F)

/-- The map of a plane at a stack's first launch: cleared, or copied from the plane that closed last (R94); then SETTLE in
the blocks of R71. -/
def State.mapStart (i : Nat) (carry : Bool) (errs : List (Nat × Nat × Ecc)) (ch pl : Nat) (s : State) : State :=
  let s := if carry then s.mapCopy i ch pl errs
    else s.each (List.range (s.blocks i)) fun b s => s.setQbyte ch pl b 0
  match (s.chan ch).plan with
  | some plan => s.each (plan.bights.drop 1) fun x s => s.markBoth ch pl x.1 2
  | none => s

/-- A phase pipeline takes its settings at a stack's first launch (R141, R149), with a reference shot or without. -/
def State.quadStart (i : Nat) (ref fresh : Bool) (s : State) : State :=
  let q := s.quadOf i
  let r := s.rd Reg.STRAND_NSHOT_NSHOT i / s.shotsPerRow q
  let hlen := max 1 (s.old.rd Reg.PHASE_QHLEN_HLEN q)
  let h := min hlen r
  let s := if ref then
      let s := (s.wr Reg.PHASE_QROW_ROWNO q 0).bump Reg.PHASE_QBREAKS_N q 1
      if fresh then s else s.raise Reg.PHASE_QSTAT_BREAK q
    else s
  let s := s.wr Reg.PHASE_QSTAT_HEFF q h
  let s := if h < hlen then s.raise Reg.PHASE_QSTAT_H_CUT q else s
  let qr := s.quad q
  s.setQuad q { qr with shots := if ref then 0 else qr.shots, tRef := if ref then s.stamp else qr.tRef,
                        rowK := if ref then 0 else qr.rowK, row0 := if ref then 0 else qr.rowK, rows := r, heff := h,
                        fade := s.old.rd Reg.PHASE_QFADE_FADE_THR q, hcut := h < hlen, refStack := ref,
                        rateOver := s.on Reg.PHASE_GSTAT_RATE_OVER 0 }

/-- Shots a stack takes: NSHOT, rounded up to whole cycles when coded (R122); 0: until SNAP. -/
def State.stackWant (s : State) (i c : Nat) : Nat :=
  let n := s.rd Reg.STRAND_NSHOT_NSHOT i
  if s.isCoded i then c * ((n + c - 1) / c) else n

/-- A stack starts at this launch tick, with what the registers held before it (R28, R52, R68, R89, R94, R96, R147). -/
def State.startStack (i : Nat) (errs : List (Nat × Nat × Ecc)) (s : State) : State :=
  let rt := s.strand i
  let hs := s.hitched i
  let phase := s.isPhase i
  let smode := s.old.smode i
  let coded := s.old.isCoded i
  let asked := s.old.on Reg.FOLD_SSTAT_RESTART_PEND i
  let take := !phase || !rt.launched
  let differ := hs.any fun ch => (s.chan ch).prevPlan != some (s.old.pendingPlan ch)
  let restart := rt.fresh || asked || differ
  let ref := phase && (rt.fresh || rt.skippedLaunch || asked)
  let planes := s.old.stackPlanes i
  let c := s.old.cycleLen rt.runPort
  let s := s.each hs fun ch s => s.chanStart take ch
  let s := s.each hs fun ch s => s.each planes fun pl s =>
    (s.setOwn ch pl 1).mapStart i (smode != 0 && !restart) errs ch pl
  let s := (((s.put Reg.FOLD_SSTAT_RESTART_PEND i (rt.restartAt = some s.tick)).put Reg.FOLD_SSTAT_HELD i false).wr
    Reg.FOLD_SSTAT_PLANE i (if coded then 0 else rt.nextPlane)).wr Reg.STRAND_SHOTNO_N i 0
  let fresh0 := smode = 0 || restart
  let k : Stack :=
    { num := s.rd Reg.STRAND_STACKNO_N i, first := s.tick, tFirst := s.stamp, tLast := s.stamp, taken := 0,
      want := s.old.stackWant i c, plane := rt.nextPlane, coded := coded, cycle := if coded then c else 1,
      phase := phase, restarted := if phase then ref else smode != 0 && restart, snap := false,
      skipped := rt.skipped, smode := smode, leak := if smode = 2 then s.old.leakK i else 0, missed := false,
      levels := [(0, 0), (0, 0), (0, 0), (0, 0)] }
  let s := s.setStrand i { rt with stack := some k, skipped := 0, fresh := false, skippedLaunch := false,
                                   accShots := if fresh0 then 0 else rt.accShots,
                                   tAcc := if fresh0 then s.stamp else rt.tAcc }
  if phase then s.quadStart i ref rt.fresh else s

/-! ### The header (R95, R96, R150, Tables 4.5, 4.6 and 6.5) -/

/-- Blocks with bit `k` set in the map of one of a stack's planes: both planes of a coded stack hold the same header
(R123). DEDUCED: log entry 74. -/
def State.mapCount (s : State) (i ch : Nat) (planes : List Nat) (k : Nat) : Nat :=
  ((List.range (s.blocks i)).filter fun b => planes.any fun pl => (s.qbyte ch pl b).getLsbD k).length

/-- Sum of powers of two for the bits that hold. -/
def flagWord : List (Bool × Nat) → Nat
  | [] => 0
  | (b, k) :: rest => (if b then 2 ^ k else 0) + flagWord rest

/-- Header of one plane of a stack that closes: W whole shots, `pb` bins of a cut shot. -/
def State.header (s : State) (i : Nat) (k : Stack) (ch pl w pb : Nat) (aborted : Bool) : Header :=
  let rt := s.strand i
  let c := s.chan ch
  let planes := if k.coded then [0, 1] else [pl]
  { stackNo := k.num, strand := i, smode := k.smode, dec := s.rd Reg.STRAND_CTRL_DEC i, leak := k.leak,
    nbin := s.strandN i, ldly := s.strandL i,
    flags := flagWord [(aborted, 0), (k.restarted, 1), (k.skipped != 0, 2), (!k.coded && pl = 1, 3),
      (c.planCut, 4), (k.snap, 5), (k.coded, 6), (k.phase, 7)],
    shots := rt.accShots + w, pbin := pb, skipped := k.skipped, tFirst := k.tFirst, tLast := k.tLast,
    tAcc := if k.phase then (s.quad (s.quadOf i)).tRef else rt.tAcc,
    nsat := s.mapCount i ch planes 0, necc := s.mapCount i ch planes 3, novl := s.mapCount i ch planes 1,
    plan := c.plan.getD ⟨[], 2⟩ }

/-- Phase record of the IX plane (Table 6.5). -/
def State.phaseRec (s : State) (i w : Nat) : PhaseRec :=
  let q := s.quadOf i
  let qr := s.quad q
  { row0 := qr.row0, nrow := qr.rows, rdone := w / s.shotsPerRow q, heff := qr.heff, gauge := s.gauge q,
    sdec := min 4 (s.rd Reg.PHASE_QCFG_SDEC q), tdec := s.rd Reg.PHASE_QTDEC_TDEC q,
    pol := if s.rd Reg.PHASE_QCFG_POL q = 3 then 0 else s.rd Reg.PHASE_QCFG_POL q,
    prflags := flagWord [(qr.refStack, 0), (qr.hcut, 1)], tRef := qr.tRef, rateOver := qr.rateOver,
    lper := (s.strand i).runP * s.rotationLen i }

/-- Headers of every plane of a closing stack. DEDUCED: log entry 27. -/
def State.writeHeaders (i : Nat) (k : Stack) (w pb : Nat) (aborted : Bool) (s : State) : State :=
  let planes := if k.coded then [0, 1] else [k.plane]
  s.each (s.hitched i) fun ch s => s.each planes fun pl s =>
    let ix := k.phase && s.rd Reg.FC_HITCH_ROLE ch = 8
    let m : Meta := ⟨s.header i k ch pl w pb aborted, if ix then some (s.phaseRec i w) else none⟩
    { s with metas := s.metas.put (planeKey ch pl) m }

/-- CUT and EMPTY of an aborted stack's maps (Table 4.4, R96, R123): `pl` is the plane of the cut shot, `got` the
samples of it that were committed. -/
def State.cutMarks (i : Nat) (k : Stack) (cut : Bool) (cutPlane pb got whole : Nat) (s : State) : State :=
  let d := s.strandD i
  let planes := if k.coded then [0, 1] else [k.plane]
  s.each (s.hitched i) fun ch s => s.each planes fun pl s =>
    let here := cut && pl = cutPlane
    let s := if here && pb < s.strandN i then s.markBoth ch pl (pb / 256) 4 else s
    -- whole shots folded into this plane: in a coded stack, those whose type enters it
    let full := if k.coded then
        ((List.range whole).filter fun j => j % k.cycle / (k.cycle / 2) = pl).length
      else whole
    if full = 0 then
      s.each (List.range (s.blocks i)) fun b s =>
        if here && b * 256 * d < got then s else s.markBoth ch pl b 5
    else s

/-! ### Close (R54, R76, R95, R131) -/

/-- Learned presence levels of a stack that closed without abort and without a miss (R131). -/
def State.learn (i : Nat) (k : Stack) (s : State) : State :=
  if k.missed then s
  else
    let rt := s.strand i
    let mean (ty : Nat) : Option Rat :=
      let l := nth k.levels ty (0, 0)
      if l.2 = 0 then nth rt.learned ty none else some (l.1 / (l.2 : Rat))
    s.setStrand i { rt with learned := (List.range 4).map mean }

/-- A stack becomes closed at the present tick: number, plane turn, hand-over pending. -/
def State.endStack (i : Nat) (k : Stack) (w : Nat) (s : State) : State :=
  let rt := s.strand i
  let planes := if k.coded then [0, 1] else [k.plane]
  let next := if k.coded then rt.nextPlane else 1 - k.plane
  ((s.setStrand i { rt with stack := none, accShots := rt.accShots + w, nextPlane := next,
                            lastClose := some (k.num, s.tick),
                            closed := some ⟨k.num, s.tick, planes, s.hitched i, s.rd Reg.STRAND_CTRL_MODE i⟩ }).count
    Reg.STRAND_STACKNO_N i 1).wr Reg.FOLD_SSTAT_PLANE i (if k.coded then 0 else next)

/-- Close instant of a stack whose last shot is complete. DEDUCED: log entry 27. -/
def State.closeStack (i : Nat) (k : Stack) (s : State) : State :=
  let s := s.writeHeaders i k k.taken 0 false
  let s := s.learn i k
  let s := s.each (s.hitched i) fun ch s => s.setChan ch
    { s.chan ch with evalDue := some (s.tick, s.old.reg (Reg.FC_PLAN_RT_EN.addr i)) }
  s.endStack i k k.taken

/-! ### Abort (R54 to R58, R96) -/

/-- An abort acts on the stack in progress at the present tick; its commits that are due have been made. -/
def State.cutStack (i : Nat) (k : Stack) (s : State) : State :=
  let s := { s with pipe := s.pipe.filter fun c => c.strand != i }
  let rt := s.strand i
  let n := s.strandN i
  let d := s.strandD i
  match rt.shot with
  | none => (s.writeHeaders i k k.taken 0 true).endStack i k k.taken
  | some sh =>
    let cut := sh.folded && s.tick < s.shotEnd i sh
    let got := if cut then min (n * d) (s.tick + 1 - (sh.launch + s.strandL i + 32)) else 0
    let pb := got / d
    let w := if cut && !sh.ref then k.taken - 1 else k.taken
    let s := s.cutMarks i k cut sh.plane pb got w
    (s.writeHeaders i k w pb true).endStack i k w

end Sys2Proof.Machine
end

