-- ==== Sys2Proof/Machine/Phase.lean ====
section
/-! DEFINITION. Phase pipelines: gauge product, angle, state words, rows and power words (chapter 06). -/

namespace Sys2Proof.Machine

/-! ### Angle (R142) -/

/-- atan(2⁻ⁱ) in units of 2⁻³² turn, i = 0 to 30. -/
def atanTable : List Nat :=
  [536870912, 316933406, 167458907, 85004756, 42667331, 21354465, 10679838, 5340245, 2670163, 1335087, 667544,
   333772, 166886, 83443, 41722, 20861, 10430, 5215, 2608, 1304, 652, 326, 163, 81, 41, 20, 10, 5, 3, 1, 1]

/-- One rotation toward the real axis per table entry: coordinates, angle turned so far, index. -/
def vectoring : List Nat → Nat → Int → Int → Int → Int
  | [], _, _, _, z => z
  | t :: ts, i, x, y, z =>
    if y < 0 then vectoring ts (i + 1) (x - y / 2 ^ i) (y + x / 2 ^ i) (z - t)
    else vectoring ts (i + 1) (x + y / 2 ^ i) (y - x / 2 ^ i) (z + t)

/-- Angle of re + j·im in units of 2⁻³² turn, that is 2⁻¹⁶ of the unit of angle16, before wrapping; the rotations leave
it within 2⁻¹⁰ of that unit. -/
def angleFine (re im : Int) : Int :=
  let k : Int := 2 ^ 40
  if 0 ≤ re then vectoring atanTable 0 (re * k) (im * k) 0
  else if 0 ≤ im then 2 ^ 31 + vectoring atanTable 0 (-re * k) (-im * k) 0
  else vectoring atanTable 0 (-re * k) (-im * k) 0 - 2 ^ 31

/-- The codes within ±2 units of an angle given in 2⁻¹⁶ unit: least and greatest. -/
def angleLow (z : Int) : Int := -((131072 - z) / 65536)
def angleHigh (z : Int) : Int := (z + 131072) / 65536

/-- angle16: a code within ±2 units of the angle (R142); which of them is a free value, and so is the angle of zero.
DESIGN CHOICE: log entry 26. -/
def State.angle16 (re im : Int) (s : State) : Int × State :=
  let (n, s) := s.fresh
  if re = 0 && im = 0 then (wrapInt 16 (Config.angleZero n), s)
  else
    let z := angleFine re im
    (wrapInt 16 (clampInt (angleLow z) (angleHigh z) (z / 65536 + Config.angleErr n)), s)

/-- R141: the magnitude estimate of P = (re + j·im) ÷ d2, times d2. DEDUCED: log entry 62. -/
def magEst (d2 : Nat) (re im : Int) : Nat :=
  max re.natAbs im.natAbs + d2 * (min re.natAbs im.natAbs / (2 * d2))

/-! ### State, row and power words (R142 to R145, Tables 6.2 to 6.4) -/

/-- PHIB, FSTK and PG of a state word. -/
def wordPhib (w : Bin40) : Nat := w.toNat / 2 ^ 17
def wordFstk (w : Bin40) : Bool := w.getLsbD 16
def wordPg (w : Bin40) : Int := wrapInt 16 (w.toNat % 2 ^ 16)

/-- A state word (Table 6.3). -/
def stateWord (phib : Nat) (fstk : Bool) (pg : Int) : Bin40 :=
  BitVec.ofNat 40 (phib % 2 ^ 23 * 2 ^ 17 + (if fstk then 2 ^ 16 else 0) + (BitVec.ofInt 16 pg).toNat)

/-- A row word (Table 6.4). -/
def rowWord (psum : Nat) (dphi : Int) (sat fade hfill ng : Bool) : Bin40 :=
  BitVec.ofNat 40 (psum * 2 ^ 20 + (BitVec.ofInt 16 dphi).toNat * 16
    + flagWord [(sat, 3), (fade, 2), (hfill, 1), (ng, 0)])

/-- Bank and word of row word `w` of quad `q` (Table 6.2). -/
def rowPlace (q w : Nat) : Nat × Nat := if w < 102400 then (4 * q + 1, w) else (4 * q + 2, w - 102400)

/-- The row word of a position in the shot that closes a row (R143). DEDUCED: log entry 63. -/
def State.writeRow (q pl pos nPos sBins : Nat) (eccX eccY : Ecc) (s : State) : State :=
  let qr := s.quad q
  let k := qr.rowK
  let i := k - qr.row0
  let psum := qr.accPhib % 2 ^ 23 / 8
  let hf := k < qr.heff
  let (oldPl, oldRow) := if qr.heff ≤ i then (pl, i - qr.heff) else (1 - pl, i + qr.rows - qr.heff)
  let (bank, w) := rowPlace q (oldRow * nPos + pos)
  let ecc := if bank % 4 = 1 then eccX else eccY
  let (old, s) : Nat × State :=
    if hf then (0, s)
    else
      let (v, s) := s.readBin bank oldPl w ecc
      let s := if ecc.ce then s.mark bank pl (w / 256) 6 else if ecc.ue then s.mark bank pl (w / 256) 3 else s
      let s := (s.eccMark (4 * q) pl (pos * sBins / 256) ecc).eccCount bank oldPl (w / 256) false ecc
      (v.toNat / 2 ^ 20, s)
  let e := wrapInt 20 ((psum : Int) - old)
  let x := roundDiv e sBins
  let dphi := clampInt (-32767) 32767 x
  let sat := dphi != x
  let s := if sat then s.raise Reg.PHASE_QSTAT_SAT_SEEN q else s
  let (bank, w) := rowPlace q (i * nPos + pos)
  let s := s.setBin bank pl w (rowWord psum dphi sat qr.accFade hf qr.accNg)
  let s := s.setQuad q { s.quad q with accPhib := 0, accFade := false, accNg := false }
  if pos + 1 = nPos then
    ((s.setQuad q { s.quad q with rowK := k + 1 }).count Reg.PHASE_QROW_ROWNO q 1).put Reg.PHASE_QSTAT_HFILL q
      (k + 1 < qr.heff)
  else s

/-- Commit of the state word of bin `b` (R142, R143); `pp` is d² times the gauge product.
DEDUCED: log entries 62 and 63. -/
def State.phaseCommit (strand q pl b : Nat) (pp : Option (Int × Int)) (ref first : Bool) (ecc eccX eccY : Ecc)
    (s : State) : State :=
  let qr := s.quad q
  let ch := 4 * q
  let d := s.strandD strand
  let sBins := s.spatial q
  let src := if first && !ref then 1 - pl else pl
  let (st, s) := s.takeBin ch pl src b ecc
  let fade : Bool := match pp with
    | some (re, im) => decide (magEst (d * d) re im < qr.fade * 65536 * (d * d))
    | none => false
  let (pg, inc, s) := match pp with
    | some (re, im) =>
      if !ref && fade then (wordPg st, (0 : Int), s)
      else
        let (a, s) := s.angle16 re im
        (a, if ref then 0 else wrapInt 16 (a - wordPg st), s)
    | none => (if ref then 0 else wordPg st, 0, s)
  let phib := if ref then 0 else (((wordPhib st : Int) + inc) % 2 ^ 23).toNat
  let fstk := !ref && (wordFstk st || fade)
  let s := if fade then s.raise Reg.PHASE_QSTAT_FADE_SEEN q else s
  let closes := !ref && qr.shots % s.shotsPerRow q = 0
  let s := s.setBin ch pl b (stateWord phib (fstk && !closes) pg)
  if closes then
    let qr := s.quad q
    let s := s.setQuad q { qr with accPhib := qr.accPhib + phib, accFade := qr.accFade || fstk,
                                   accNg := qr.accNg || pp.isNone }
    if b % sBins + 1 = sBins then s.writeRow q pl (b / sBins) (s.strandN strand / sBins) sBins eccX eccY else s
  else s

/-- Commit of a power word (Table 6.2). -/
def State.powerCommit (strand q pl b add : Nat) (first : Bool) (ecc : Ecc) (s : State) : State :=
  let ch := 4 * q + 3
  let (old, s) : Int × State :=
    if first then (0, s)
    else
      let (v, s) := s.takeBin ch pl pl b ecc
      (v.toInt, s)
  let v := clampInt (-(2 ^ 39 - 1)) (2 ^ 39 - 1) (old + add)
  let s := if v = old + add then s
    else (s.mark ch pl (b / 256) 0).raise Reg.FOLD_SSTAT_SAT_SEEN strand
  s.setBin ch pl b (BitVec.ofInt 40 v)

/-- An overloaded sample of a phase channel, or one from an uncorrectable frame, is marked (R74, R20, R150).
DEDUCED: log entry 63. -/
def State.noteCommit (ch pl b : Nat) (ovl bad : Bool) (fig : Option (Nat × Nat)) (s : State) : State :=
  let s := s.rangeCommit ch fig ovl
  let s := if ovl then s.markBoth ch pl (b / 256) 1 else s
  if bad then (s.markBoth ch pl (b / 256) 3).foldUe ch pl (b / 256) false 3 else s

/-- What a commit in flight does when it is due (R21, R144). -/
def commitWork (w : Work) (strand : Nat) (s : State) : State :=
  match w with
  | .fold ch pl b x old leak ovl bad _ fig ecc =>
    (s.foldCommit strand ch pl b x old leak ovl bad ecc).rangeCommit ch fig ovl
  | .phase q pl b pp ref first e ex ey => s.phaseCommit strand q pl b pp ref first e ex ey
  | .power q pl b add first e => s.powerCommit strand q pl b add first e
  | .note ch pl b ovl bad fig => s.noteCommit ch pl b ovl bad fig

/-- Every commit due at tick `t` or before is made. -/
def State.commitsDue (t : Nat) (s : State) : State := s.runPipe commitWork fun c => c.due ≤ t

/-- The commits of one strand due at the present tick are made. -/
def State.flush (i : Nat) (s : State) : State :=
  s.runPipe commitWork fun c => c.strand = i && c.due ≤ s.tick

end Sys2Proof.Machine
end

