-- ==== Sys2Proof/Machine/GapCal.lean ====
section
/-! DEFINITION. Gap runs, their judgement, the splice, and the calibration store's commit (chapter 07). -/

namespace Sys2Proof.Machine

/-! ### The splice (R172, R173) -/

/-- A working value moved toward its held value by at most `step`. -/
def stepTo (step w h : Int) : Int := w + clampInt (-step) step (h - w)

/-- The splice step of a channel at a launch tick of its strand. DEDUCED: log entry 60. -/
def State.splice (i : Nat) (starts : Bool) (ch : Nat) (s : State) : State :=
  let f := s.old
  if f.on Reg.GAPCAL_CTRL_FREEZE 0 || (f.on Reg.GAPCAL_CTRL_SMODE 0 && !starts) || s.inSafeStop then s
  else
    let o : Int := max 1 (f.rd Reg.GAPCAL_SPLICE_OSTEP 0)
    let g : Int := max 1 (f.rd Reg.GAPCAL_SPLICE_GSTEP 0)
    let k : Int := max 1 (f.rd Reg.GAPCAL_SPLICE_KSTEP 0)
    let hold := s.isPhase i && s.runs i
    let c := s.chan ch
    s.setChan ch { c with wOff := List.zipWith (stepTo o) c.wOff c.hOff,
                          wGain := if hold then c.wGain else List.zipWith (stepTo g) c.wGain c.hGain,
                          wSkew := if hold then c.wSkew else stepTo k c.wSkew c.hSkew }

/-- GAPCAL_CHSTAT.PEND: a working value differs from its held value. -/
def ChanRt.calPend (c : ChanRt) : Bool := c.wOff != c.hOff || c.wGain != c.hGain || c.wSkew != c.hSkew

/-! ### Start of a run (R160 to R162, R171) -/

/-- Codes of a plan. -/
def Plan.codes (p : Plan) : List Nat := p.bights.map (·.2)

/-- Gain code of the last bight. -/
def Plan.lastCode (p : Plan) : Nat := (p.bights.getLast?.map (·.2)).getD 0

/-- The plan code of the next plan run (R28, R171): the next code, cyclically, of the plan in force and, when it is
pending, of the pending plan. -/
def State.nextPlanCode (s : State) (ch : Nat) : Nat :=
  let c := s.chan ch
  let now := match c.plan with
    | some p => p.codes
    | none => []
  let list := distinct16 (if s.old.planPend ch then now ++ (s.old.pendingPlan ch).codes else now)
  match c.planCode with
  | some prev => ((list.find? (prev < ·)).orElse fun _ => list.head?).getD 0
  | none => list.head?.getD 0

/-- A gap run of a channel starts at the present tick; `first`: the first run of the period. -/
def State.chanRun (first : Bool) (ch : Nat) (s : State) : State :=
  let c := s.chan ch
  let linp := s.old.rd Reg.GAPCAL_CTRL_LINP 0
  let lin := linp != 0 && c.runNo % linp = linp - 1
  let cq := if first then (match c.plan with
      | some p => p.lastCode
      | none => c.gain) else c.gain
  let ix := s.gainChan ch
  let back := s.old.on Reg.GAPCAL_CTRL_BGS 0 && c.runNo % 8 = 7
  let own := if back then c.bgCode else s.nextPlanCode ch
  let ct := if ix = ch then own else match (s.chan ix).run with
    | some r => r.ct
    | none => own
  let run : GapRun :=
    { start := s.tick, cq := cq, ct := ct, lin := lin, atStart := false, notQuiet := false, decided := false,
      sumQ := 0, sqQ := 0, ovlQ := false, sumZ := 0, sumP := 0, sumN := 0, sumHP := 0, sumFP := 0, sumHN := 0,
      sumFN := 0, ovl := false, step := [] }
  s.setChan ch { c with run := some run, runNo := c.runNo + 1,
                        bgCode := if back then (if c.bgCode = 12 then 0 else c.bgCode + 1) else c.bgCode,
                        planCode := if back then c.planCode else some ct }

/-- A gap run of a strand starts when GAPCAL_CTRL.EN is 1, and never in SAFE_STOP (R160, R419).
DEDUCED: log entry 60. -/
def State.gapStart (i : Nat) (first : Bool) (s : State) : State :=
  if s.old.on Reg.GAPCAL_CTRL_EN 0 && !s.inSafeStop && (s.strand i).gapRun.isNone then
    let s := s.each (s.hitched i) fun ch s => s.chanRun first ch
    s.setStrand i { s.strand i with gapRun := some s.tick }
  else s

/-- The first gap tick of a strand's period: RPT is sampled and the first run starts (R160). -/
def State.gapFirst (i : Nat) (s : State) : State :=
  let rt := s.strand i
  match rt.shot with
  | none => s
  | some sh =>
    if sh.gapSeen || s.tick < sh.launch + rt.perGap then s
    else
      let s := s.setStrand i { rt with shot := some { sh with gapSeen := true }, gapIndex := 0, gapFirst := s.tick,
                                       gapRpt := s.old.rd Reg.GAPCAL_CTRL_RPT 0 }
      s.gapStart i true

/-- A repeat run of a strand whose tick has come (R160). -/
def State.gapRepeat (i : Nat) (s : State) : State :=
  let rt := s.strand i
  let sp := (if rt.gapRpt = 1 then 2 else rt.gapRpt) * 1000
  match rt.shot with
  | none => s
  | some sh =>
    let k := (s.tick - rt.gapFirst) / sp
    if !sh.gapSeen || sp = 0 || k ≤ rt.gapIndex || sh.launch + rt.perP < s.tick + 1344 then s
    else (s.setStrand i { rt with gapIndex := k }).gapStart i false

/-! ### Samples of a run (R161 to R163) -/

/-- Injected level in nV at the PGA output at tick offset `u` of a run; none for a channel that was skipped. -/
def GapRun.level (r : GapRun) (u : Nat) : Int :=
  if !r.decided || r.notQuiet || u < 576 || 1216 ≤ u then 0
  else if r.lin then
    (if u < 736 then 250000000 else if u < 896 then 500000000 else if u < 1056 then -250000000 else -500000000)
  else if u < 896 then 500000000 else -500000000

/-- A raw converter code taken at tick offset `u` of a run. -/
def GapRun.sample (r : GapRun) (u : Nat) (x : Int) (ov : Bool) : GapRun :=
  let r := if 576 ≤ u && u < 640 then { r with step := x :: r.step } else r
  if u < 256 then { r with sumQ := r.sumQ + x, sqQ := r.sqQ + (x * x).toNat, ovlQ := r.ovlQ || ov }
  else if 320 ≤ u && u < 576 then { r with sumZ := r.sumZ + x, ovl := r.ovl || ov }
  else if r.lin then
    (if 608 ≤ u && u < 736 then { r with sumHP := r.sumHP + x, ovl := r.ovl || ov }
    else if 768 ≤ u && u < 896 then { r with sumFP := r.sumFP + x, ovl := r.ovl || ov }
    else if 928 ≤ u && u < 1056 then { r with sumHN := r.sumHN + x, ovl := r.ovl || ov }
    else if 1088 ≤ u && u < 1216 then { r with sumFN := r.sumFN + x, ovl := r.ovl || ov }
    else r)
  else if 640 ≤ u && u < 896 then { r with sumP := r.sumP + x, ovl := r.ovl || ov }
  else if 960 ≤ u && u < 1216 then { r with sumN := r.sumN + x, ovl := r.ovl || ov }
  else r

/-! ### Judgement (R165 to R170) -/

/-- The quiet check of R165; a start run makes no mean criterion (R174). -/
def GapRun.isNotQuiet (r : GapRun) (hq : Int) : Bool :=
  (!r.atStart && 65536 < (16 * r.sumQ - 256 * hq).natAbs)
    || 64 * 65536 < (256 * (r.sqQ : Int) - r.sumQ * r.sumQ)
    || r.ovlQ

/-- Mean of +F minus mean of −F, over 32,768, as numerator and denominator (R167). -/
def GapRun.ratio (r : GapRun) : Int × Int :=
  if r.lin then (r.sumFP - r.sumFN, 128 * 32768) else (r.sumP - r.sumN, 256 * 32768)

/-- Tick, in 1/256, at which the step crosses half its height (R169); latest sample first in `step`.
DEDUCED: log entry 25. -/
def GapRun.crossing (r : GapRun) : Option Int :=
  -- 512 × half the height: μZ over 256 samples, the upper mean over 256 (128 in a linearity run)
  let h512 : Int := r.sumZ + (if r.lin then 2 * r.sumHP else r.sumP)
  let xs := r.step.reverse
  let pairs := (List.range 63).filterMap fun j =>
    let a := nth xs j 0
    let b := nth xs (j + 1) 0
    if 512 * a < h512 && h512 ≤ 512 * b then
      some (256 * (j : Int) + roundDiv (256 * (h512 - 512 * a)) (512 * (b - a)).toNat)
    else none
  pairs.head?

/-- What a completed run gives: LASTRES code, and with 1 the new offset, gain correction and skew. -/
structure Verdict where
  code : Nat
  off : Int
  gain : Int
  skew : Option Int
  epos : Int
  eneg : Int
  deriving DecidableEq, Repr

/-- Checks of Table 7.3 in order; `skew` is the measured skew where check 7 applies. -/
def GapRun.judge (r : GapRun) (gh lim : Int) (skew : Option Int) : Verdict :=
  let off := roundDiv r.sumZ 16
  let (num, den) := r.ratio
  let e4 : Int := 4 * r.sumHP - 2 * r.sumFP - r.sumZ
  let f4 : Int := 4 * r.sumHN - 2 * r.sumFN - r.sumZ
  let p := num * (2 ^ 24 + gh)
  let badSkew := match skew with
    | some k => k < -10 || 10 < k
    | none => false
  let code :=
    if r.ovl then 3
    else if 65536 * 256 < 100 * r.sumZ.natAbs then 4
    else if 100 * num < 97 * den || 103 * den < 100 * num then 5
    else if !r.atStart && (1000 * p < 998 * den * 2 ^ 24 || 1002 * den * 2 ^ 24 < 1000 * p) then 6
    else if badSkew then 7
    else if r.lin && (32 * lim < e4.natAbs || 32 * lim < f4.natAbs) then 8
    else 1
  ⟨code, off, roundDiv ((den - num) * 2 ^ 24) num.toNat, skew, roundDiv e4 32, roundDiv f4 32⟩

/-- Skew of a quad channel against IX (R169); where the samples do not straddle the half height the rule states no
value: a free one. `ixOk`: IX's run was accepted. DESIGN CHOICE: log entry 24. DEDUCED: log entry 25. -/
def State.skewOf (s : State) (i ch : Nat) (r : GapRun) (ix : Option GapRun) (ixOk : Bool) : Option Int × State :=
  let role := s.rd Reg.FC_HITCH_ROLE ch
  if !s.isPhase i || role < 9 || !ixOk then (none, s)
  else match ix.bind (·.crossing), r.crossing with
    | some a, some b => (some (b - a + (s.chan ch).wSkew), s)
    | _, _ =>
      let (n, s) := s.fresh
      (some (Config.open_ 2 n), s)

/-- CAL_REJECTED is raised for a channel (R170, R175): flags, log record, safety source. -/
def State.calRejected (ch res code : Nat) (s : State) : State :=
  let s := (s.raise Reg.GAPCAL_CHSTAT_CAL_REJECTED ch).raise Reg.GAPCAL_STAT_CAL_REJECTED 0
  let s := s.logNow 0x31 1 ch res code 0
  match s.strandOf ch with
  | some i => if s.strandMasked i then s.source 8 else s
  | none => s

/-- GAP_NOT_QUIET is raised for a strand (R166). -/
def State.gapNotQuiet (i ch : Nat) (s : State) : State :=
  let s := s.raise Reg.GAPCAL_STAT_GAP_NOT_QUIET 0
  let s := if i < 32 then s.raiseBit Reg.GAPCAL_GNQ_LO_S 0 i else s.raiseBit Reg.GAPCAL_GNQ_HI_S 0 (i - 32)
  let s := s.logNow 0x30 1 i ch 0 0
  if s.strandMasked i then s.source 7 else s

/-- Bit of a strand in GAPCAL_GNQ. -/
def State.gnq (s : State) (i : Nat) : Bool :=
  if i < 32 then s.bit Reg.GAPCAL_GNQ_LO_S 0 i else s.bit Reg.GAPCAL_GNQ_HI_S 0 (i - 32)

/-- CODE_REJECTED (R410): a rejected run left the count of its code at 3 while SAFETY_CREJ.VALID is 0. -/
def State.codeRejected (ch code : Nat) (s : State) : State :=
  if s.on Reg.SAFETY_CREJ_VALID 0 then s
  else
    let s := ((s.raise Reg.SAFETY_CREJ_VALID 0).wr Reg.SAFETY_CREJ_CHAN 0 ch).wr Reg.SAFETY_CREJ_CODE 0 code
    let s := s.logNow 0x11 18 ch code 0 0
    match s.strandOf ch with
    | some i => if s.strandMasked i then s.source 9 else s
    | none => s

/-- Count that holds at 0xFFFF_FFFF (R179). -/
def hold32 (n : Nat) : Nat := min n 0xFFFFFFFF

/-- A NOT_QUIET run of a channel of strand `i` commits (R165, R166, R179). DEDUCED: log entry 25. -/
def State.runNotQuiet (i ch : Nat) (r : GapRun) (s : State) : State :=
  let was := s.rd Reg.GAPCAL_CHSTAT_NQ_RUN ch
  let s := ((s.wr Reg.GAPCAL_CHSTAT_LASTRES ch 2).wr Reg.GAPCAL_CHSTAT_TCODE ch r.ct).wr
    Reg.GAPCAL_CHSTAT_NQ_RUN ch (min 3 (was + 1))
  let c := s.chan ch
  let s := s.setChan ch { c with run := none, nq := hold32 (c.nq + 1) }
  if 2 ≤ was && (was = 2 || !s.gnq i) then s.gapNotQuiet i ch else s

/-- An accepted run commits: the results become the held values (R168); at start the working values too (R174). -/
def State.runAccepted (ch : Nat) (r : GapRun) (v : Verdict) (s : State) : State :=
  let c := s.chan ch
  let c := { c with hOff := c.hOff.set r.ct v.off, hGain := c.hGain.set r.ct v.gain, hSkew := v.skew.getD c.hSkew,
                    acc := hold32 (c.acc + 1), tAcc := s.stamp, run := none,
                    rejCode := if r.atStart then c.rejCode else c.rejCode.set r.ct 0 }
  let c := if r.atStart then
      { c with wOff := c.wOff.set r.ct v.off, wGain := c.wGain.set r.ct v.gain, wSkew := v.skew.getD c.wSkew }
    else c
  let s := ((s.setChan ch c).wr Reg.GAPCAL_CHSTAT_LASTRES ch 1).wr Reg.GAPCAL_CHSTAT_TCODE ch r.ct
  if r.atStart then s else (s.wr Reg.GAPCAL_CHSTAT_REJ_RUN ch 0).wr Reg.GAPCAL_CHSTAT_NQ_RUN ch 0

/-- A rejected run commits (R168, R170, R410). DEDUCED: log entry 25. -/
def State.runRejected (ch : Nat) (r : GapRun) (v : Verdict) (s : State) : State :=
  let c := s.chan ch
  let n := min 3 (nth c.rejCode r.ct 0 + 1)
  let s := s.setChan ch { c with rej := hold32 (c.rej + 1), run := none,
                                 rejCode := if r.atStart then c.rejCode else c.rejCode.set r.ct n }
  let s := (s.wr Reg.GAPCAL_CHSTAT_LASTRES ch v.code).wr Reg.GAPCAL_CHSTAT_TCODE ch r.ct
  let s := if v.code = 8 then s.raise Reg.GAPCAL_CHSTAT_LIN_FAIL ch else s
  if r.atStart then s
  else
    let was := s.rd Reg.GAPCAL_CHSTAT_REJ_RUN ch
    let s := (s.wr Reg.GAPCAL_CHSTAT_REJ_RUN ch (min 3 (was + 1))).wr Reg.GAPCAL_CHSTAT_NQ_RUN ch 0
    let s := if 2 ≤ was && (was = 2 || !s.on Reg.GAPCAL_CHSTAT_CAL_REJECTED ch) then
        s.calRejected ch v.code r.ct else s
    if n = 3 then s.codeRejected ch r.ct else s

/-- The linearity bows of a linearity run (R167, R179). -/
def State.setBows (ch : Nat) (r : GapRun) (v : Verdict) (s : State) : State :=
  if r.lin then s.setChan ch { s.chan ch with ePos := v.epos, eNeg := v.eneg } else s

/-- Verdict of a channel's completed run; `ix` and `ixOk` speak of its quad's IX channel. -/
def State.verdict (s : State) (i ch : Nat) (r : GapRun) (ix : Option GapRun) (ixOk : Bool) : Verdict × State :=
  let (k, s) := s.skewOf i ch r ix ixOk
  (r.judge (nth (s.chan ch).hGain r.ct 0) (s.rd Reg.GAPCAL_LINLIM_LIM 0) k, s)

/-- A channel's run is judged and committed; answers whether it was accepted. -/
def State.commitRun (i ch : Nat) (ix : Option GapRun) (ixOk : Bool) (s : State) : Bool × State :=
  match (s.chan ch).run with
  | none => (false, s)
  | some r =>
    if r.notQuiet then (false, s.runNotQuiet i ch r)
    else
      let (v, s) := s.verdict i ch r ix ixOk
      let s := s.setBows ch r v
      if v.code = 1 then (true, s.runAccepted ch r v) else (false, s.runRejected ch r v)

/-- Channels in ascending order, IX before its quad: each is judged with IX's run and verdict at hand.
DEDUCED: log entry 25. -/
def State.commitRuns (i : Nat) : List Nat → Option GapRun → Bool → State → State
  | [], _, _, s => s
  | ch :: rest, ix, ixOk, s =>
    let run := (s.chan ch).run
    let (ok, s) := s.commitRun i ch ix ixOk
    if s.rd Reg.FC_HITCH_ROLE ch = 8 then State.commitRuns i rest run ok s
    else State.commitRuns i rest ix ixOk s

/-- INJ of a channel as its run commands it now (R164). -/
def State.dropInj (ch : Nat) (s : State) : State :=
  let c := s.chan ch
  if c.inj = 0 then s
  else (s.setChan ch { c with inj := 0, injOff := some s.tick }).put Reg.GAPCAL_CHSTAT_INJ ch false

/-- The gap run in progress on a strand is aborted (R176). -/
def State.gapAbort (i : Nat) (s : State) : State :=
  let s := s.each (s.hitched i) fun ch s =>
    match (s.chan ch).run with
    | some r =>
      let s := (s.setChan ch { s.chan ch with run := none }).dropInj ch
      (s.wr Reg.GAPCAL_CHSTAT_LASTRES ch 9).wr Reg.GAPCAL_CHSTAT_TCODE ch r.ct
    | none => s
  s.setStrand i { s.strand i with gapRun := none }

/-- Commit tick of a strand's run: s + 288 when every channel was skipped, else s + 1,248 (R161). -/
def State.gapCommitAt (s : State) (i start : Nat) : Nat :=
  let runs := (s.hitched i).filterMap fun ch => (s.chan ch).run
  if runs.all fun r => r.decided && r.notQuiet then start + 288 else start + 1248

/-! ### The commands -/

/-- QUIET_DECISION (R165): at s + 288 each channel of the run is judged quiet or NOT_QUIET. -/
def execQuietDecision (i : StrandId) (s : State) : Host.Outcome State Fault Refusal :=
  .next <|
    match (s.strand i).gapRun with
    | none => s
    | some t =>
      if s.tick < t + 288 then s
      else s.each (s.hitched i) fun ch s =>
        let c := s.chan ch
        match c.run with
        | some r =>
          if r.decided then s
          else s.setChan ch { c with run := some { r with decided := true,
                                                          notQuiet := r.isNotQuiet (nth c.hOff r.cq 0) } }
        | none => s

/-- At the commit tick of a strand's run every result is judged and committed (R161, R166 to R170). -/
def State.gapCommit (i : Nat) (s : State) : State :=
  match (s.strand i).gapRun with
  | none => s
  | some t =>
    if s.tick < s.gapCommitAt i t then s
    else
      let s := s.each (s.hitched i) fun ch s => s.dropInj ch
      let s := s.commitRuns i (s.hitched i) none false
      s.setStrand i { s.strand i with gapRun := none }

/-- GAP_RUN_COMMIT (R161, R166 to R170). -/
def execGapRunCommit (i : StrandId) (s : State) : Host.Outcome State Fault Refusal := .next (s.gapCommit i)

/-- REPEAT_RUN_START (R160): a repeat run starts RPT × 1,000 ticks after the run before it. -/
def execRepeatRunStart (i : StrandId) (s : State) : Host.Outcome State Fault Refusal := .next (s.gapRepeat i)

/-! ### Commit of the store (R180 to R182, R227, R420) -/

/-- The 32 bytes of a copy's header with a given CRC field. -/
def CopyHead.bytes (h : CopyHead) (crc : Word) : List Byte :=
  leBytes 4 h.magic ++ leBytes 2 h.version ++ leBytes 2 h.nchan ++ leBytes 4 h.count ++ leBytes 4 0
    ++ leBytes 8 h.tCommit.toNat ++ leBytes 4 0 ++ leBytes 4 crc.toNat

/-- A channel record of Table 7.5: offset and gain correction of each code, the skew, 13 reserved bytes. -/
def calRecord (v : List Int × List Int × Int) : List Byte :=
  (List.zipWith (fun o g => leInt 2 o ++ leInt 3 g) v.1 v.2.1).flatten ++ leInt 2 v.2.2 ++ leBytes 13 0

/-- A channel record of Table 9.6. -/
def pcRecord (v : PcCal) : List Byte :=
  v.off.flatMap (leInt 4) ++ v.gain.flatMap (leInt 3) ++ v.cur.flatMap (leInt 3) ++ leInt 3 v.att ++ leInt 3 v.sysOff
    ++ leInt 3 v.sysGain ++ leBytes 21 0

/-- A copy's bytes with a given CRC field (Table 7.5). -/
def CalCopy.bytes (c : CalCopy) (crc : Word) : List Byte := c.head.bytes crc ++ c.vals.flatMap calRecord

/-- A copy's bytes with a given CRC field (Table 9.6). -/
def PcCopy.bytes (c : PcCopy) (crc : Word) : List Byte :=
  c.head.bytes crc ++ c.cals.flatMap pcRecord ++ leBytes 4 c.rint ++ leBytes 4 c.kref

/-- MAGIC, VERSION, NCHAN and CRC of a copy of the fast set are correct (R182, R183). -/
def CalCopy.valid (c : CalCopy) : Bool :=
  c.head.magic = 0x4C414347 && c.head.version = 1 && c.head.nchan = 192 && c.head.crc = crc32 (c.bytes 0)

/-- MAGIC, VERSION, NCHAN and CRC of a copy of the precision set are correct (R183, R227). -/
def PcCopy.valid (c : PcCopy) : Bool :=
  c.head.magic = 0x5043414C && c.head.version = 1 && c.head.nchan = 24 && c.head.crc = crc32 (c.bytes 0)

/-- A copy of the fast set as a commit writes it (R182). -/
def CalCopy.written (count : Nat) (t : Time) (vals : List (List Int × List Int × Int)) : CalCopy :=
  let c : CalCopy := ⟨⟨0x4C414347, 1, 192, count, t, 0⟩, vals⟩
  { c with head := { c.head with crc := crc32 (c.bytes 0) } }

/-- A copy of the precision set as a commit writes it (R182, R227). -/
def PcCopy.written (count : Nat) (t : Time) (cals : List PcCal) (rint kref : Nat) : PcCopy :=
  let c : PcCopy := ⟨⟨0x5043414C, 1, 24, count, t, 0⟩, cals, rint, kref⟩
  { c with head := { c.head with crc := crc32 (c.bytes 0) } }

/-- The copy a boot uses of two (R183): of two valid ones that with the higher COUNT, copy 0 where they are equal; none when
neither is valid. -/
def pickCopy {α : Type} (head : α → CopyHead) (va vb : Bool) (a b : α) : Option α :=
  if va && (!vb || (head b).count ≤ (head a).count) then some a else if vb then some b else none

/-- The copy of the fast set in use. -/
def pickCal (a b : CalCopy) : Option CalCopy := pickCopy (·.head) a.valid b.valid a b

/-- The copy of the precision set in use. -/
def pickPc (a b : PcCopy) : Option PcCopy := pickCopy (·.head) a.valid b.valid a b

/-- The CRC of a copy that was not written well: any but the one it should be. DESIGN CHOICE: log entry 29. -/
def State.badCrc (h : CopyHead) (s : State) : CopyHead × State :=
  let (n, s) := s.fresh
  let x := BitVec.ofInt 32 (Config.open_ 16 n)
  ({ h with crc := if x = h.crc then ~~~h.crc else x }, s)

/-- A commit begins: the held values are taken in this clock (R180). -/
def State.beginCommit (s : State) : State :=
  let vals := (List.range 192).map fun ch => ((s.chan ch).hOff, (s.chan ch).hGain, (s.chan ch).hSkew)
  let cals := (List.range 24).map s.pcCal
  let pcCount := match pickPc s.mram.pc0 s.mram.pc1 with
    | some c => c.head.count
    | none => 0
  let s := { s with commit := some ⟨s.rd Reg.GAPCAL_COMMIT_N_N 0 + 1, pcCount + 1, s.stamp, vals, cals, 1⟩,
                    lastCommit := some (s.tick : Int) }
  s.put Reg.GAPCAL_STAT_COMMIT_BUSY 0 true

/-- Ticks in 10 minutes. DEDUCED: log entry 30. -/
def tenMinutes : Nat := 120000000000

/-- A commit may begin (R181, R183, R420): none runs, no freeze of the log line waits or runs, 10 minutes have passed since
the last began, no safety fault. DEDUCED: log entry 30. -/
def State.commitFree (s : State) : Bool :=
  s.commit.isNone && s.log.cur.isNone && s.rd Reg.SAFETY_FAULT_F 0 = 0 && (match s.lastCommit with
    | some t => decide (t + (tenMinutes : Int) ≤ (s.tick : Int))
    | none => true)

/-- COMMIT written 1 and let through by the lock (R181). DEDUCED: log entry 30. -/
def State.commitCmd (s : State) : State :=
  if s.commitFree then s.beginCommit else s.raise Reg.GAPCAL_STAT_COMMIT_WAIT 0

/-- AUTO_COMMIT (R181): the automatic commit that is due begins. DEDUCED: log entry 30. -/
def execAutoCommit (s : State) : Host.Outcome State Fault Refusal :=
  .next <|
    let hours := s.rd Reg.GAPCAL_AUTO_HOURS 0
    if hours != 0 && (s.lastCommit.getD 0).toNat + hours * 6 * tenMinutes ≤ s.tick && s.commitFree then s.beginCommit else s

/-- The fast set a commit writes. -/
def Commit2.cal (c : Commit2) : CalCopy := CalCopy.written c.count c.tCommit c.vals

/-- The precision set a commit writes: the die values stay as the boot loaded them (R227). -/
def Commit2.pc (c : Commit2) (s : State) : PcCopy :=
  PcCopy.written c.pcCount c.tCommit c.cals (s.pc 0).rint (s.pc 0).kref

/-- A copy as its read-back finds it. -/
def State.wroteCal (ok : Bool) (x : CalCopy) (s : State) : CalCopy × State :=
  if ok then (x, s)
  else
    let (h, s) := s.badCrc x.head
    ({ x with head := h }, s)

/-- A copy of the precision set as its read-back finds it. -/
def State.wrotePc (ok : Bool) (x : PcCopy) (s : State) : PcCopy × State :=
  if ok then (x, s)
  else
    let (h, s) := s.badCrc x.head
    ({ x with head := h }, s)

/-- COMMIT_ATTEMPT_END (R182): both copies of both sets have been written and read back; `ok0`, `ok1` and `pok0`,
`pok1` say which read back well. -/
def execCommitAttemptEnd (ok0 ok1 pok0 pok1 : Bool) (s : State) : Host.Outcome State Fault Refusal :=
  .next <|
    match s.commit with
    | none => s
    | some c =>
      let (a, s) := s.wroteCal ok0 c.cal
      let (b, s) := s.wroteCal ok1 c.cal
      let (p, s) := s.wrotePc pok0 (c.pc s)
      let (q, s) := s.wrotePc pok1 (c.pc s)
      let s := { s with mram := { s.mram with cal0 := a, cal1 := b, pc0 := p, pc1 := q } }
      let ok := ok0 && ok1 && pok0 && pok1
      if !ok && c.attempt = 1 then { s with commit := some { c with attempt := 2 } }
      else
        let s := { s with commit := none }
        let s := (s.put Reg.GAPCAL_STAT_COMMIT_BUSY 0 false).wr Reg.GAPCAL_COMMIT_N_N 0 c.count
        let s := s.setPair Reg.GAPCAL_COMMIT_T_LO_T 0 c.tCommit
        let s := if ok then s else s.raise Reg.GAPCAL_STAT_COMMIT_FAIL 0
        s.logNow 0x32 1 c.count (if ok then 0 else 1) 0 0

end Sys2Proof.Machine
end

