-- ==== Sys2Proof/Machine/Jobs.lean ====
section
/-! DEFINITION. The dispatcher: jobs, plane bindings and their release (R273, R274), and HAND_OVER (R96). -/

namespace Sys2Proof.Machine

/-- A queued job or a run in progress of some core binds the plane (R273). DEDUCED: log entry 31. -/
def State.bound (s : State) (b : Nat × Nat) : Bool :=
  (List.range 12).any fun c =>
    let k := s.core c
    k.binds.contains b || k.jobs.any fun j => j.binds.contains b

/-- Bindings that were dropped are released: a plane no binding is left on passes from HAUL to FREE (R98, R273).
DEDUCED: log entry 31. -/
def State.releaseAll (bs : List (Nat × Nat)) (s : State) : State :=
  s.each bs fun b s => if s.bound b then s else s.release b.1 b.2

/-- CORE_STAT.JOBS follows the queue. -/
def State.showJobs (c : Nat) (s : State) : State := s.wr Reg.CORE_STAT_JOBS c (s.core c).jobs.length

/-- A job joins its core's queue (R273). -/
def State.enqueue (c : Nat) (j : Job) (s : State) : State :=
  let k := s.core c
  (s.setCore c { k with jobs := k.jobs ++ [j] }).showJobs c

/-- A job is dropped (R274): JOB_LOST, its count and a STATUS record. -/
def State.loseJob (c : Nat) (j : Job) (s : State) : State :=
  ((s.put Reg.CORE_STAT_JOB_LOST c true).bump Reg.CORE_JLOST_N c 1).status
    ⟨s.lany, 2, 0, 0, c, 0, j.strand, 0, j.stack, 0⟩

/-- The jobs a dispatch entry forms at a hand-over (R273, R275). DEDUCED: log entry 28. -/
def State.entryJobs (s : State) (c k i : Nat) (h : Closed) : List Job :=
  if !(s.on (Reg.CORE_DTAB_EN k) c && s.rd (Reg.CORE_DTAB_STRAND k) c = i) then []
  else
    let pl := if h.planes.length = 2 then 2 else h.planes.head?.getD 0
    let mk (word : Nat) (binds : List (Nat × Nat)) : Job :=
      ⟨i, h.num, word + pl * 256, s.rd (Reg.CORE_DPAR_PARAM k) c, s.rd (Reg.CORE_DTAB_ENTRY k) c, binds⟩
    if s.on (Reg.CORE_DTAB_JMODE k) c then [mk 0xFF (h.chans.flatMap fun ch => h.planes.map fun p => (ch, p))]
    else h.chans.map fun ch => mk ch (h.planes.map fun p => (ch, p))

/-- The dispatcher forms and queues the jobs of a stack handed over (R273, R274).
DEDUCED: log entries 27 and 28 and 31. -/
def State.dispatchJobs (i : Nat) (h : Closed) (s : State) : State :=
  let jobs := (List.range 12).flatMap fun c => (List.range 16).flatMap fun k =>
    (s.entryJobs c k i h).map fun j => (c, j)
  let (s, lost) := jobs.foldl (fun (a : State × List (Nat × Nat)) cj =>
    let (s, lost) := a
    if s.on Reg.CORE_CTRL_EN cj.1 && (s.core cj.1).jobs.length < 8 then (s.enqueue cj.1 cj.2, lost)
    else (s.loseJob cj.1 cj.2, lost ++ cj.2.binds)) (s, [])
  s.releaseAll lost

/-- HAND_OVER (R96, R273): at C + 64 the planes pass to HAUL with their headers complete, and jobs are formed.
DEDUCED: log entry 27. -/
def execHandOver (i : StrandId) (s : State) : Host.Outcome State Fault Refusal :=
  .next <|
    match (s.strand i).closed with
    | none => s
    | some h =>
      if s.tick < h.close + 64 then s
      else
        let s := s.setStrand i { s.strand i with closed := none }
        let s := s.each h.chans fun ch s => s.each h.planes fun pl s => s.setOwn ch pl 2
        s.dispatchJobs i h

end Sys2Proof.Machine
end

