-- ==== Sys2Proof/Machine/Probe.lean ====
section
/-! DEFINITION. Probe ports: launches, shots of strands, first gap ticks, setpoint, derating, presence and monitor
checks (chapters 02, 03 and 05). -/

namespace Sys2Proof.Machine

/-! ### Patterns (R111 to R117) -/

/-- Code length n (Table 5.3). -/
def State.codeLen (s : State) (p : Nat) : Nat :=
  let l := s.rd Reg.PRB_CODE_LEN p
  if s.pmode p = 1 then 2 ^ min 10 (max 1 l) else 2 ^ min 10 (max 3 l) - 1

/-- Chip i of word A (`b` false) or B. -/
def State.chip (s : State) (p : Nat) (b : Bool) (i : Nat) : Bool :=
  (s.reg ((Reg.PRB_CWA_CHIPS (i / 32 + if b then 32 else 0)).addr p)).getLsbD (i % 32)

/-- Does a shot of type `ty` fire chip i (Table 5.2)? -/
def State.fires (s : State) (p ty i : Nat) : Bool :=
  if s.pmode p = 1 then s.chip p (2 ≤ ty) i = (ty % 2 = 0) else s.chip p false i = (ty = 0)

/-- Plane of a coded shot type (Table 5.2). -/
def State.typePlane (s : State) (p ty : Nat) : Nat := if s.pmode p = 1 then ty / 2 else ty

/-- Weight of a coded shot type (Table 5.2). -/
def State.typeWeight (s : State) (p ty : Nat) : Int := if s.pmode p = 1 && ty % 2 = 1 then -1 else 1

/-- Chips of a shot: those that fire and end by tick P − 1,601, and whether one was cut (R114, R116). -/
def State.shotChips (s : State) (p ty period : Nat) : List Nat × Bool :=
  let t := s.rd Reg.PRB_CODE_CHIPT p + 1
  let on := (List.range (s.codeLen p)).filter (s.fires p ty)
  let ok := on.filter fun i => (i + 1) * t + 1600 ≤ period
  (ok, ok.length < on.length)

/-- Gate pulses of a launch at the present tick, with CODE_CUT (R28, R113, R114, R116). -/
def State.firePattern (p ty period : Nat) (s : State) : List (Nat × Nat) × State :=
  let pw := max 1 (s.old.rd Reg.PRB_GATE_PW p)
  if s.old.pmode p = 0 then ([(s.tick, pw)], s)
  else
    let t := s.old.rd Reg.PRB_CODE_CHIPT p + 1
    let (chips, cut) := s.old.shotChips p ty period
    (chips.map fun i => (s.tick + i * t, min pw t), if cut then s.raise Reg.PRB_STAT_CODE_CUT p else s)

/-- PRB_G of a port is active at tick `t` (R113, R114). -/
def State.gateActive (s : State) (p t : Nat) : Bool := (s.port p).gate.any fun g => g.1 ≤ t && t < g.1 + g.2

/-- Level of a port's PRB_G pin at tick `t`: active low with GPOL 1 (R113), high-impedance before BOOT (R465). -/
def State.gatePin (s : State) (p t : Nat) : Drive :=
  if s.mode < 3 then .hiZ
  else if s.gateActive p t = s.on Reg.PRB_CTRL_GPOL p then .low else .high

/-- Output of a port's PRB_SET pin in volts (R124); none: high-impedance before BOOT (R468). -/
def State.setVolts (s : State) (p : Nat) : Option Rat :=
  if s.mode < 3 then none else some (5 / 2 * (s.rd Reg.PRB_SETNOW_SET p : Rat) / 4096)

/-! ### Rotation (R40 to R43) -/

/-- Strands in the rotation of a launch at tick `t`: launching already, or WAITING with a start tick by then.
DESIGN CHOICE: log entry 23. -/
def State.rotation (s : State) (p t : Nat) : List Nat :=
  (s.portStrands p).filter fun i => s.sstate i != 1 || (match (s.strand i).start with
    | some x => x ≤ t
    | none => false)

/-- The value after `v` in an ascending rotation. -/
def nextValue (vals : List Nat) (v : Nat) : Nat :=
  ((vals.find? (v < ·)).orElse fun _ => vals.head?).getD v

/-! ### Monitor latches (R243) -/

/-- Latch bits and CAPV of a channel with LMODE = 1 clear at a launch tick of its strand; those an edge of the same tick
set stay. -/
def State.latchClear (ch : Nat) (s : State) : State :=
  if s.old.on Reg.WMON_CTRL_LMODE ch then
    (s.wr Reg.WMON_STAT_LATCH ch (s.raisedIn Reg.WMON_STAT_LATCH ch)).wr Reg.WMON_STAT_CAPV ch
      (s.raisedIn Reg.WMON_STAT_CAPV ch)
  else s

/-! ### A strand takes a launch (R52, R68, R72, R90, R99, R121, R122, R147, R172) -/

/-- A launch of the strand that is not folded is counted (R99, R121). -/
def State.skipLaunch (i : Nat) (s : State) : State :=
  let rt := s.strand i
  (s.setStrand i { rt with skipped := rt.skipped + 1, skippedLaunch := true }).bump Reg.FOLD_SKIP_N i 1

/-- A stack starts if it can, `errs` being the reads of the closed planes' maps that are not clean; a launch that finds a plane not FREE is held (R99), one of a coded strand whose type
is not 0 only waits for its cycle (R121). -/
def State.tryStack (i ty : Nat) (errs : List (Nat × Nat × Ecc)) (s : State) : State :=
  if (s.strand i).stack.isSome then s
  else if s.old.isCoded i && ty != 0 then s.skipLaunch i
  else if s.planesFree i then s.startStack i errs
  else ((s.skipLaunch i).put Reg.FOLD_SSTAT_HELD i true).raise Reg.FOLD_SSTAT_STACK_HELD i

/-- PGA gain the launch brings in for the launch delay, and whether it differs from the gain before it (R70, R72). -/
def State.launchGain (took : Bool) (ch : Nat) (s : State) : State :=
  let c := s.chan ch
  let g := match c.plan with
    | some p => p.gainOf 0
    | none => c.gain
  s.setChan ch { c with launchChanged := took && g != c.gain,
                        ovlThis := [false, false, false, false, false, false, false, false] }

/-- Block 0 is marked SETTLE when the folded shot's launch changed the gain and S > L (R72). -/
def State.launchSettle (i pl ch : Nat) (s : State) : State :=
  let c := s.chan ch
  match c.plan with
  | some p => if c.launchChanged && s.strandL i < p.settle then s.markBoth ch pl 0 2 else s
  | none => s

/-- SNAP as a launch that folds a shot meets it (R28, R90, R122, R147): whether the shot is the last for it. A SNAP that takes
effect in the launch tick itself waits for the next one. -/
def State.takeSnap (i ty : Nat) (s : State) : Bool × State :=
  let again : Bool := (s.strand i).snapAt = some s.tick
  if !s.old.on Reg.FOLD_SSTAT_SNAP_PEND i then (false, s)
  else if s.isPhase i then (false, s.put Reg.FOLD_SSTAT_SNAP_PEND i again)
  else if s.old.isCoded i && ty + 1 != s.old.cycleLen (s.strand i).runPort then (false, s)
  else (true, s.put Reg.FOLD_SSTAT_SNAP_PEND i again)

/-- The launch is a shot of the stack in progress: count, plane and weight, and whether it is the last. -/
def State.foldShot (i p ty : Nat) (fresh : Bool) (k : Stack) (s : State) : State :=
  let ref := k.phase && fresh && k.restarted
  let taken := if ref then k.taken else k.taken + 1
  let (snap, s) := s.takeSnap i ty
  let last := !ref && (snap || (k.want != 0 && k.want ≤ taken))
  let pl := if k.coded then s.old.typePlane p ty else k.plane
  let first := if k.coded then k.taken < k.cycle && pl * (k.cycle / 2) = ty else fresh
  let rt := s.strand i
  let k := { k with taken := taken, tLast := s.stamp, snap := k.snap || snap }
  let sh : Shot := ⟨s.tick, true, ty, pl, if k.coded then s.old.typeWeight p ty else 1, first, ref, last, false, false, 0, 0⟩
  let s := s.setStrand i { rt with stack := some k, shot := some sh }
  let s := s.wr Reg.STRAND_SHOTNO_N i taken
  let s := if k.phase then
      let q := s.quadOf i
      let qr := s.quad q
      (s.setQuad q { qr with shots := if ref then 0 else qr.shots + 1, z := [], pow := 0, accPhib := 0,
                             accFade := false, accNg := false }).put Reg.PHASE_QSTAT_HFILL q
        (!ref && qr.rowK < qr.heff)
    else s
  s.each (s.hitched i) fun ch s => s.launchSettle i pl ch

/-- Strand `i` takes the launch made at the present tick, of type `ty`. Where RUN became 0 in this very tick, the launch has
sampled 1 and starts its stack, and the strand stops at that stack's close (R28, R52, R53). DESIGN CHOICE: log entry 23. -/
def State.takeLaunch (p ty : Nat) (errs : List (Nat × Nat × Ecc)) (i : Nat) (s : State) : State :=
  let hs := s.hitched i
  let rt0 := s.strand i
  let s := if s.sstate i = 1 then s.setSstate i 2 else s
  let s := s.setPair Reg.STRAND_LAUNCH_LO_T i s.stamp
  let had := rt0.stack.isSome
  let s := s.tryStack i ty errs
  let started := !had && (s.strand i).stack.isSome
  let s := if !started && !had && !rt0.launched then s.each hs fun ch s => s.takePlan ch else s
  let took := (started && (!s.isPhase i || !rt0.launched)) || !rt0.launched
  let s := s.each hs fun ch s => s.launchGain took ch
  let s := match (s.strand i).stack with
    | some k => s.foldShot i p ty started k
    | none =>
      let rt := s.strand i
      s.setStrand i { rt with shot := some ⟨s.tick, false, ty, 0, 0, false, false, false, false, false, 0, 0⟩ }
  let s := s.each hs fun ch s => ((s.splice i started ch).applyDeferred ch).latchClear ch
  let rt := s.strand i
  let s := s.setStrand i { rt with launched := true, launchTick := s.tick,
                                   prevLaunch := if rt.launched then some rt.launchTick else none, perPort := p,
                                   perGap := s.gapOff i, perP := rt.runP }
  if rt.stack.isSome && s.sstate i = 2 && !s.on Reg.STRAND_CTRL_RUN i then s.setSstate i 3 else s

/-! ### Monitor photodiode (R133) -/

/-- The last integration tick of a shot. -/
def monLast (gate : List (Nat × Nat)) (dly ext : Nat) : Option Nat :=
  gate.foldl (fun m g => some (max (m.getD 0) (g.1 + dly + g.2 + ext - 1))) none

/-- Is `t` an integration tick of the port's shot? -/
def State.monTick (s : State) (p t : Nat) : Bool :=
  let dly := s.rd Reg.PRB_MON_DLY p
  let ext := s.rd Reg.PRB_MON_EXT p
  (s.port p).gate.any fun g => g.1 + dly ≤ t && t < g.1 + dly + g.2 + ext

/-- Backscatter check on (R130); monitor check on (R133). -/
def State.presOn (s : State) (p : Nat) : Bool := s.on Reg.PRB_PRES_EN p && s.rd Reg.PRB_PRES_SRC p != 1
def State.monOn (s : State) (p : Nat) : Bool := s.on Reg.PRB_PRES_EN p && s.rd Reg.PRB_PRES_SRC p != 0

/-- A monitor channel is ON and READY. -/
def State.monReady (s : State) (p : Nat) : Bool :=
  let ch := s.rd Reg.PRB_MON_CHAN p
  ch < 192 && s.on Reg.FC_STAT_READY ch && s.rd Reg.FC_STAT_PSTATE ch = 3

/-! ### LAUNCH -/

/-- The port fires for the strands `took`; `gap`: the first gap tick of the shot at which it fixes its next value (R42, R43,
R111, R113, R117). DESIGN CHOICE: log entry 23. -/
def State.fire (p v period gap : Nat) (vals took : List Nat) (errs : List (Nat × Nat × Ecc)) (s : State) : State :=
  let r := s.port p
  let cycles := vals.map fun x => (x, (r.cycles.find? fun c => c.1 = x).elim 0 (·.2))
  let ty := (cycles.find? fun c => c.1 = v).elim 0 (·.2) % s.old.cycleLen p
  let (gate, s) := s.firePattern p ty period
  let s := (s.wr Reg.PRB_STAT_TYPE p ty).count Reg.PRB_LAUNCHES_N p 1
  let last := monLast gate (s.rd Reg.PRB_MON_DLY p) (s.rd Reg.PRB_MON_EXT p)
  let s := s.setPort p
    { s.port p with next := some (s.tick + period), launching := true, fixed := none, fixTick := none, sw := v,
                    lastSw := v,
                    cycles := cycles.map fun c => if c.1 = v then (c.1, (ty + 1) % s.old.cycleLen p) else c,
                    lastLaunch := some s.tick, period := period, gate := gate, ty := ty, gapSeen := false,
                    strands := took, gapOff := gap, monSum := 0, monCount := 0, monEnd := last, monSeen := last.isNone,
                    monReady := s.monReady p }
  s.each took fun i s => s.takeLaunch p ty errs i

/-- A launch whose every strand stopped is omitted: the grid stands, and PRB_SW takes the next value (R43).
DESIGN CHOICE: log entry 23. -/
def State.omitLaunch (p v period : Nat) (s : State) : State :=
  if s.portStrands p = [] then s
  else
    let here := (s.rotation p s.tick).map s.sw
    let vals := distinct16 ((s.rotation p (s.tick + period)).map s.sw)
    let r := s.port p
    let s := s.setPort p { r with next := some (s.tick + period), fixed := none,
                                  cycles := r.cycles.filter fun c => here.contains c.1 }
    if vals = [] then s else s.driveSw p (nextValue vals v)

/-- SW value of the launch of a port that launches already: the one fixed for it (R42). Of its first launch: the lowest of those
fixed in one clock with a strand that starts now (R44); where the value last driven was fixed in a later clock for a strand
still to come, the lowest value that has started, to which PRB_SW changes at the launch. DESIGN CHOICE: log entry 23. -/
def State.launchValue (s : State) (p : Nat) (act vals : List Nat) : Nat :=
  let r := s.port p
  match r.fixed with
  | none => nextValue vals r.sw
  | some v =>
    if r.launching || vals.contains v || act.any fun i => (s.strand i).fixedAt = r.fixTick then v else vals.head?.getD v

/-- A strand of the launch's value stops at its launch tick, as RUN stood before it (R28, R52, R53). -/
def State.stopsAtLaunch (s : State) (i : Nat) : Bool :=
  let rt := s.strand i
  rt.stack.isNone && (!s.old.on Reg.STRAND_CTRL_RUN i || rt.sysStop.any fun t => decide (t < s.tick))

/-- A launch of port `p` at the present tick. A launch whose value has lost every strand is omitted and the grid stands, by an
abort as by a stop at the launch tick (R43); so is one for which no strand has started yet. DESIGN CHOICE: log entry 23. -/
def State.launch (p : Nat) (errs : List (Nat × Nat × Ecc)) (s : State) : State :=
  let r := s.port p
  let act := s.rotation p s.tick
  let vals := distinct16 (act.map s.sw)
  let now : Bool := match r.next with
    | some n => n ≤ s.tick && (s.mode = 6 || s.mode = 8)
    | none => false
  -- the stack of a strand whose last shot is complete must have been closed first (R48)
  let open_ := act.any fun i => (s.strand i).stack.isSome && (s.strand i).shot.any fun sh => sh.folded && sh.last
  if !now || open_ then s
  else if act = [] then (if r.launching then s.omitLaunch p r.sw r.period else s)
  else
    let v := s.launchValue p act vals
    let period := (act.head?.map fun i => (s.strand i).runP).getD 0
    let mine := act.filter fun i => s.sw i = v
    let stop := mine.filter s.stopsAtLaunch
    let took := mine.filter fun i => !stop.contains i
    let gap := (if took = [] then act else took).foldl (fun m i => max m (s.gapOff i)) 0
    let s := s.each stop fun i s => s.stopped i
    if took != [] || (!r.launching && stop = []) then s.fire p v period gap vals took errs
    else if (s.port p).launching then s.omitLaunch p v period
    else s

/-- LAUNCH (R43): the port launches when its launch tick has come; `errs`: reads of a closed plane's map, by channel and word,
that a carry makes and that are not clean (R94, R101). -/
def execLaunch (l : LaunchIn) (s : State) : Host.Outcome State Fault Refusal :=
  .next (s.launch l.port (l.errs.map fun x => (x.1.val, x.2)))

/-! ### First gap tick and setpoint (R42, R125, R126, R128) -/

/-- The ceiling in force (R128). DEDUCED: log entry 14. -/
def State.ceilingNow (s : State) (p : Nat) : Nat :=
  if s.on Reg.PRB_DER_CTRL_EN p then s.rd Reg.PRB_SETNOW_CEIL p else 4095

/-- One step of SET toward min(TARGET, ceiling), as sampled at the step (R28, R126); held at 0 in WATCH and SAFE_STOP. DEDUCED: log entry 60. -/
def State.setStep (p : Nat) (s : State) : State :=
  if s.mode = 7 || s.inSafeStop then s
  else
    let goal : Int := min (s.old.rd Reg.PRB_SET_TARGET p) (s.old.ceilingNow p)
    let now : Int := s.rd Reg.PRB_SETNOW_SET p
    let r : Int := s.old.rd Reg.PRB_SET_RSTEP p
    let new := if r = 0 then goal else now + clampInt (-r) r (goal - now)
    s.wr Reg.PRB_SETNOW_SET p new.toNat

/-- The SW value of the port's next launch is fixed and PRB_SW driven with it (R42). DESIGN CHOICE: log entry 23. -/
def State.fixSw (p : Nat) (s : State) : State :=
  let r := s.port p
  match r.next with
  | none => s
  | some n =>
    let vals := distinct16 ((s.rotation p n).map s.sw)
    if vals = [] then s else s.driveSw p (nextValue vals r.sw)

/-- FIRST_GAP_TICK (R42, R125, R126, R160): strands whose first gap tick has come start their gap runs; at the
latest of the shot's strands the port fixes its next SW value and steps its setpoint. -/
def execFirstGapTick (p : PortId) (s : State) : Host.Outcome State Fault Refusal :=
  .next <|
    let s := s.each ((List.range 64).filter fun i => (s.strand i).perPort = p) fun i s => s.gapFirst i
    let r := s.port p
    match r.lastLaunch with
    | none => s
    | some t =>
      if r.gapSeen || s.tick < t + r.gapOff then s
      else ((s.setPort p { r with gapSeen := true }).fixSw p).setStep p

/-- The port makes no launch: no strand of it is past its first launch. -/
def State.portQuiet (s : State) (p : Nat) : Bool := (s.portStrands p).all fun i => s.sstate i = 1

/-- Tick the idle steps of a port count from: the end of the period of its last launch, or the end of BOOT step 5 or of WATCH,
or the last idle step (R126). -/
def PortRt.idleBase (r : PortRt) : Nat :=
  max r.idleFrom (match r.lastLaunch with
    | some t => t + r.period
    | none => 0)

/-- SETPOINT_IDLE_STEP (R126): a port that makes no launch steps every 4,096 ticks, from the end of BOOT on. -/
def execSetpointIdleStep (p : PortId) (s : State) : Host.Outcome State Fault Refusal :=
  .next <|
    let r := s.port p
    if !s.portQuiet p || s.mode < 4 || s.mode = 7 || s.inSafeStop || s.tick < r.idleBase + 4096 then s
    else (s.setPort p { r with idleFrom := r.idleBase + 4096 }).setStep p

/-- The ceiling that the latest valid result of the port's precision channel gives (R128, R129). -/
def State.ceilingOf (s : State) (p : Nat) : Nat × Bool :=
  let c := s.rd Reg.PRB_DER_CTRL_PC p
  let fl := s.rd Reg.PRB_DER_CTRL_DFLOOR p
  let t1 := s.rdInt Reg.PRB_DER_T1_T p
  let t2 := s.rdInt Reg.PRB_DER_T2_T p
  if !s.on Reg.PRB_DER_CTRL_EN p then (4095, false)
  else if 24 ≤ c || (s.pc c).sensFault then (fl, true)
  else match (s.pc c).lastX with
    | none => (s.rd Reg.PRB_SETNOW_CEIL p, false)
    | some x =>
      let x := if s.on Reg.PRB_DER_CTRL_INV p then -x else x
      if x ≤ t1 then (4095, false)
      else if t2 ≤ x then (fl, false)
      else (((4095 : Int) - (x - t1) * (4095 - fl) / (t2 - t1)).toNat, false)

/-- DERATING_UPDATE (R128, R129): the ceiling is recomputed after a result or a sensor fault. -/
def execDeratingUpdate (p : PortId) (s : State) : Host.Outcome State Fault Refusal :=
  .next <|
    let (v, bad) := s.ceilingOf p
    let s := (s.wr Reg.PRB_SETNOW_CEIL p v).setPort p { s.port p with derDue := false }
    if bad then s.raise Reg.PRB_STAT_DER_FAULT p else s

/-! ### Presence (R130 to R134) -/

/-- PROBE_LOST is raised for a port and strand by check `src` on a launch that brought its count to `n`; both counts reaching 4
on one launch make LOST_SRC 3. LOST_SRC and LOST_STRAND keep their values when LOST is cleared. DESIGN CHOICE: log entry 73. -/
def State.probeLost (p i src n : Nat) (s : State) : State :=
  let num := s.rd Reg.PRB_LAUNCHES_N p
  if s.on Reg.PRB_STAT_LOST p then
    if n = 4 && (s.port p).lostAt = some num && s.rd Reg.PRB_STAT_LOST_SRC p != src then
      s.wr Reg.PRB_STAT_LOST_SRC p 3 else s
  else
    let s := ((s.raise Reg.PRB_STAT_LOST p).wr Reg.PRB_STAT_LOST_SRC p src).wr Reg.PRB_STAT_LOST_STRAND p i
    let s := (s.setPort p { s.port p with lostAt := if n = 4 then some num else none }).logNow 0x22 1 p i src 0
    if s.strandMasked i then s.source 10 else s

/-- The level of the strand's shot is evaluated and its miss count updated (R130 to R132). -/
def State.presence (i : Nat) (s : State) : State :=
  let rt := s.strand i
  match rt.shot with
  | none => s
  | some sh =>
    let p := rt.perPort
    let at_ := sh.launch + s.strandL i + (s.rd Reg.PRB_PRES_PBIN p + 256) * s.strandD i + 32
    if sh.presSeen || s.tick < at_ || !s.presOn p || !s.runs i then s
    else
      let lvl : Rat := if sh.presCount = 0 then 0 else sh.presSum / (sh.presCount : Rat)
      let floor : Rat := (s.rd Reg.PRB_PRES_FLOOR_FLOOR p : Rat)
      let learned := nth rt.learned sh.ty none
      let edge := match learned with
        | some l => max floor (l / 2)
        | none => floor
      let miss : Bool := decide (lvl < edge)
      let high : Bool := match learned with
        | some l => decide (2 * l < lvl)
        | none => false
      let s := if high then s.raise Reg.PRB_STAT_HIGH p else s
      let stack := if !sh.folded || sh.ref then rt.stack else rt.stack.map fun k =>
        let l := nth k.levels sh.ty (0, 0)
        { k with levels := k.levels.set sh.ty (l.1 + lvl, l.2 + 1), missed := k.missed || miss }
      let n := if miss then rt.miss + 1 else 0
      let s := s.setStrand i { rt with shot := some { sh with presSeen := true }, stack := stack, miss := n,
                                       lastLevel := rt.lastLevel.set sh.ty lvl }
      if 4 ≤ n then s.probeLost p i 1 n else s

/-- PRESENCE_EVAL (R130). -/
def execPresenceEval (i : StrandId) (s : State) : Host.Outcome State Fault Refusal := .next (s.presence i)

/-- MONITOR_ENERGY_EVAL (R133, R134): the energy of the shot is evaluated and judged. -/
def execMonitorEnergyEval (p : PortId) (s : State) : Host.Outcome State Fault Refusal :=
  .next <|
    let r := s.port p
    match r.monEnd with
    | none => s
    | some e =>
      if r.monSeen || s.tick < e + 33 || !s.monOn p then s
      else
        let base : Rat := if r.monBaseCount = 0 then 0 else r.monBase / (r.monBaseCount : Rat)
        let en : Rat := if r.monReady then max 0 (r.monSum - base * (r.monCount : Rat)) else 0
        let floor : Rat := (s.rd Reg.PRB_MON_FLOOR_FLOOR p : Rat)
        let edge := match nth r.monLearned r.ty none with
          | some l => max floor (l / 2)
          | none => floor
        let miss : Bool := decide (en < edge)
        let b := nth r.monBlock r.ty (0, 0)
        let bad := nth r.monBlockMiss r.ty false || miss
        let full := b.1 + 1 = 1024
        let n := if miss then r.monMiss + 1 else 0
        let s := s.setPort p
          { r with monSeen := true, monMiss := n,
                   monBlock := r.monBlock.set r.ty (if full then (0, 0) else (b.1 + 1, b.2 + en)),
                   monBlockMiss := r.monBlockMiss.set r.ty (if full then false else bad),
                   monLearned := if full && !bad then r.monLearned.set r.ty (some ((b.2 + en) / 1024))
                     else r.monLearned }
        if 4 ≤ n then s.probeLost p ((least r.strands).getD 0) 2 n else s

/-! ### Close and range evaluation (R54, R76, R77) -/

/-- STACK_CLOSE (R54, R95, R131): the last bin of the last shot is committed and the stack closes.
DEDUCED: log entry 27. -/
def execStackClose (i : StrandId) (s : State) : Host.Outcome State Fault Refusal :=
  .next <|
    let rt := s.strand i
    match rt.stack, rt.shot with
    | some _, some sh =>
      if !(sh.folded && sh.last) || s.tick < s.shotEnd i sh then s
      else
        let s := (s.flush i).presence i
        match (s.strand i).stack with
        | some k => s.closeStack i k
        | none => s
    | _, _ => s

/-- One bight of the range tracker (R77): gain, ur_run and whether the limit was met. -/
def trackBight (gmin gmax step urm g ur : Nat) (ovl under : Bool) : Nat × Nat × Bool :=
  if ovl then (if gmin < g then (max gmin (g - (step + 1)), 0, false) else (g, 0, true))
  else if under then
    (if max 1 urm ≤ ur + 1 then (if g < gmax then (g + 1, 0, false) else (g, 0, true)) else (g, ur + 1, false))
  else (g, 0, false)

/-- RANGE_EVALUATION (R76, R77, R79): the figures of the closed stack are written and the tracker moves, under FC_PLAN_RT as
the close instant found it; the tracker works on gain codes as they act. DESIGN CHOICE: log entry 72. -/
def execRangeEvaluation (ch : ChanId) (s : State) : Host.Outcome State Fault Refusal :=
  .next <|
    let c := s.chan ch
    match c.evalDue, s.strandOf ch, c.plan with
    | some (_, rt), some i, some plan =>
      let ovn := max 1 (Reg.FC_PLAN_RT_OV_N.read rt)
      let thr := Reg.FC_PLAN_RT_UR_THR.read rt * 256
      let nb := plan.bights.length
      let ovl (k : Nat) : Bool := ovn ≤ nth c.ovlShots k 0
      let ur (k : Nat) : Bool := nth c.peak k 0 < thr
      let bits (f : Nat → Bool) := flagWord ((List.range nb).map fun k => (f k, k))
      let s := (s.wr Reg.FC_STAT_OVL ch (bits ovl)).wr Reg.FC_STAT_UR ch (bits ur)
      let s := s.setChan ch { c with evalDue := none }
      if Reg.FC_PLAN_RT_EN.read rt != 1 || s.inSafeStop || (s.isPhase i && s.runs i) then s
      else
        let gmin := gainCode (Reg.FC_PLAN_RT_GMIN.read rt)
        let gmax := gainCode (Reg.FC_PLAN_RT_GMAX.read rt)
        let (s, changed) := (List.range nb).foldl (fun (a : State × Bool) k =>
          let (s, chg) := a
          let c := s.chan ch
          let g := gainCode (s.rd (Reg.FC_GAIN_GAIN k) ch)
          let (g', u, lim) := trackBight gmin gmax (Reg.FC_PLAN_RT_OV_STEP.read rt) (Reg.FC_PLAN_RT_UR_M.read rt) g
            (nth c.urRun k 0) (ovl k) (ur k)
          let s := s.setChan ch { c with urRun := c.urRun.set k u }
          let s := if g' = g then s else s.wr (Reg.FC_GAIN_GAIN k) ch g'
          (if lim then s.raise Reg.FC_STAT_RANGE_LIMIT ch else s, chg || g' != g)) (s, false)
        if changed then s.count Reg.FC_STAT_RT_CHG ch 1 else s
    | _, _, _ => s

end Sys2Proof.Machine
end

