-- ==== Sys2Proof/Machine/StartCal.lean ====
section
/-! DEFINITION. Power states of the fast channels (R80, R82) and the start calibration (R174, R175). -/

namespace Sys2Proof.Machine

/-! ### Power states (R80, R82, R239) -/

/-- Power state R80 selects for a channel: 3 ON, 2 MONITOR, 1 STANDBY, 0 OFF; OFF in WATCH (R82), as is shown of a channel
whose monitor runs in sampled mode too. DESIGN CHOICE: log entry 72. -/
def State.powerTarget (s : State) (ch : Nat) : Nat :=
  let pwr := s.rd Reg.FC_CTRL_PWR ch
  if s.inWatch then 0
  else if pwr = 2 then 0
  else if pwr = 1 || (s.chan ch).forceOn || s.on Reg.FC_HITCH_EN ch then 3
  else if s.on Reg.WMON_CTRL_EN ch then 2
  else 1

/-- Ticks from a power state to READY (Table 3.8). -/
def settleTicks (old : Nat) : Nat :=
  match old with
  | 2 => 800
  | 1 => 2000
  | 0 => 10000
  | _ => 0

/-- The PGA of a channel is powered: ON or MONITOR, or in a strobe in WATCH (R80, R232). -/
def State.pgaOn (s : State) (ch : Nat) : Bool :=
  2 ≤ s.rd Reg.FC_STAT_PSTATE ch || (s.inWatch && (s.chan ch).strobe.isSome)

/-- A start of a window monitor is pending (R239, R240): INIT falls, latch and CAPV stay until it starts.
DEDUCED: log entry 53. -/
def State.monWait (ch : Nat) (s : State) : State :=
  (s.setChan ch { s.chan ch with mon := .wait }).put Reg.WMON_STAT_INIT ch false

/-- A channel goes to the power state R80 selects; a monitor whose PGA loses or gains power waits for its start. -/
def State.repower (ch : Nat) (s : State) : State :=
  let old := s.rd Reg.FC_STAT_PSTATE ch
  let new := s.powerTarget ch
  if old = new then s
  else
    let s := (s.wr Reg.FC_STAT_PSTATE ch new).put Reg.FC_STAT_READY ch false
    let s := s.setChan ch { s.chan ch with settleAt := if 2 ≤ new && new != old then some (s.tick + settleTicks old)
      else none }
    if s.on Reg.WMON_CTRL_EN ch && (old < 2 || new < 2) && !s.inWatch then s.monWait ch else s

/-- CHANNEL_READY (R80): a channel that has settled shows READY in ON. -/
def execChannelReady (ch : ChanId) (s : State) : Host.Outcome State Fault Refusal :=
  .next <|
    let c := s.chan ch
    match c.settleAt with
    | some t =>
      if s.tick < t then s
      else
        let s := s.setChan ch { c with settleAt := none }
        if s.rd Reg.FC_STAT_PSTATE ch = 3 then s.put Reg.FC_STAT_READY ch true else s
    | none => s

/-! ### Start calibration (R174, R175) -/

/-- The start calibration begins: every channel whose PWR is not 2 is brought ON. -/
def State.beginStartCal (s : State) : State :=
  let chans := (List.range 192).filter fun ch => s.rd Reg.FC_CTRL_PWR ch != 2
  let s := { s with boot := { s.boot with startCal := some ⟨s.tick, chans, 1, List.range 13, none⟩ } }
  s.each chans fun ch s =>
    (s.setChan ch { s.chan ch with forceOn := true, startTodo := List.range 13, startAgain := [],
                                   startRej := [0, 0, 0, 0, 0, 0, 0, 0, 0, 0, 0, 0, 0] }).repower ch

/-- A start run that failed at code `code` is retried, or after the third attempt the code keeps its values from
the store (R175). -/
def State.startFailed (pass code : Nat) (nq : Bool) (ch : Nat) (s : State) : State :=
  let c := s.chan ch
  let rej := if nq then c.startRej else c.startRej.set code (nth c.startRej code 0 + 1)
  let s := s.setChan ch { c with startRej := rej,
                                 startAgain := if pass < 3 then c.startAgain ++ [code] else c.startAgain }
  if pass < 3 then s
  else
    let s := s.raise Reg.GAPCAL_CHSTAT_START_FAIL ch
    let s := if nq then s.raise Reg.GAPCAL_STAT_START_NQ 0 else s
    if nth rej code 0 = 3 then s.calRejected ch (s.rd Reg.GAPCAL_CHSTAT_LASTRES ch) code else s

/-- A channel's start run is judged (R174); answers whether it was accepted. -/
def State.startJudge (pass ch : Nat) (ix : Option GapRun) (ixOk : Bool) (s : State) : Bool × State :=
  let c := s.chan ch
  match c.run with
  | none => (false, s)
  | some r =>
    if r.notQuiet then
      let s := s.setChan ch { c with run := none, nq := hold32 (c.nq + 1) }
      let s := (s.wr Reg.GAPCAL_CHSTAT_LASTRES ch 2).wr Reg.GAPCAL_CHSTAT_TCODE ch r.ct
      (false, s.startFailed pass r.ct true ch)
    else
      let (v, s) := s.verdict ((s.strandOf ch).getD 64) ch r ix ixOk
      if v.code = 1 then (true, s.runAccepted ch r v)
      else (false, (s.runRejected ch r v).startFailed pass r.ct false ch)

/-- Every channel of a slot is judged, IX before its quad. -/
def State.startJudges (pass : Nat) : List Nat → Option GapRun → Bool → State → State
  | [], _, _, s => s
  | ch :: rest, ix, ixOk, s =>
    let run := (s.chan ch).run
    let (ok, s) := s.startJudge pass ch ix ixOk
    if s.rd Reg.FC_HITCH_ROLE ch = 8 then State.startJudges pass rest run ok s
    else State.startJudges pass rest ix ixOk s

/-- The quiet decision of a start slot (R174). -/
def State.startDecide (chans : List Nat) (s : State) : State :=
  s.each chans fun ch s =>
    let c := s.chan ch
    match c.run with
    | some r =>
      if r.atStart && !r.decided then
        s.setChan ch { c with run := some { r with decided := true, notQuiet := r.isNotQuiet 0 } }
      else s
    | none => s

/-- A slot for `code` begins on the channels that still need it. -/
def State.startSlot (sc : StartCal) (code : Nat) (s : State) : State :=
  let s := { s with boot := { s.boot with startCal := some { sc with slot := some (s.tick, code) } } }
  s.each sc.chans fun ch s =>
    let c := s.chan ch
    if c.startTodo.contains code then
      let run : GapRun :=
        { start := s.tick, cq := code, ct := code, lin := false, atStart := true, notQuiet := false,
          decided := false, sumQ := 0, sqQ := 0, ovlQ := false, sumZ := 0, sumP := 0, sumN := 0, sumHP := 0,
          sumFP := 0, sumHN := 0, sumFN := 0, ovl := false, step := [] }
      s.setChan ch { c with run := some run }
    else s

/-- The pass after the one that ended: the codes that failed on some channel, at most three passes; pass 4: done. -/
def State.nextPass (sc : StartCal) (s : State) : State :=
  let codes := if sc.pass < 3 then distinct16 (sc.chans.flatMap fun ch => (s.chan ch).startAgain) else []
  let s := s.each sc.chans fun ch s =>
    let c := s.chan ch
    s.setChan ch { c with startTodo := c.startAgain, startAgain := [] }
  { s with boot := { s.boot with startCal := some { sc with pass := if codes = [] then 4 else sc.pass + 1,
                                                              todo := codes, slot := none } } }

/-- The start calibration between slots: the next slot follows with no gap. -/
def State.startNext (sc : StartCal) (s : State) : State :=
  match sc.todo with
  | code :: _ => s.startSlot sc code
  | [] => s

/-- The wait before the first slot is over: every channel reads READY, or 50 µs have passed. -/
def State.startReady (sc : StartCal) (s : State) : Bool :=
  (sc.chans.all fun ch => s.on Reg.FC_STAT_READY ch) || decide (sc.since + 10000 ≤ s.tick)

/-- What the sequencer does in one tick of the start calibration. -/
def State.startTick1 (s : State) : State :=
  match s.boot.startCal with
  | none => s
  | some sc =>
    match sc.slot with
    | none => if s.startReady sc then s.startNext sc else s
    | some (t, _) =>
      if s.tick = t + 288 then s.startDecide sc.chans
      else if s.tick = t + 1248 then s.startJudges sc.pass sc.chans none false
      else if t + 1536 ≤ s.tick then
        let sc := { sc with slot := none, todo := sc.todo.drop 1 }
        if sc.todo = [] then
          let s := s.nextPass sc
          match s.boot.startCal with
          | some sc => s.startNext sc
          | none => s
        else s.startNext sc
      else s

end Sys2Proof.Machine
end

