-- ==== Sys2Proof/Machine/Sample.lean ====
section
/-! DEFINITION. SAMPLE_TICK: what every fast channel, phase pipeline, presence check and comparator does in one tick
(chapters 03 to 07 and 10). -/

namespace Sys2Proof.Machine

/-! ### Gain, injection, converter (R59, R61, R65, R70, R73, R163) -/

/-- 1,000 × A of a gain code (Table 3.2). -/
def gainMilli (g : Nat) : Nat :=
  nth [1000, 1413, 1995, 2818, 3981, 5623, 7943, 11220, 15850, 22390, 31620, 44670, 63100] g 63100

/-- The gain of Table 3.5 for a channel of strand `i`, as a code; none: the gain stays. -/
def State.shotGain (s : State) (i ch : Nat) : Option Nat :=
  let c := s.chan ch
  match (s.strand i).shot, c.plan with
  | some sh, some p =>
    let u := s.tick - sh.launch
    let rt := s.strand i
    if u < s.strandL i then some (p.gainOf 0)
    else if u < rt.perGap then some (p.gainOf (p.bightAt ((u - s.strandL i) / s.strandD i)))
    else if u + 64 < rt.perP then
      match c.run with
      | some r => if r.start + 256 ≤ s.tick then some r.ct else none
      | none => none
    else some (p.gainOf 0)
  | _, _ => none

/-- The gain code a channel's PGA takes in this tick (R70, R82, R174); one that no strand's probe period sets keeps its last
gain. DESIGN CHOICE: log entry 72. -/
def State.gainNow (s : State) (ch : Nat) : Nat :=
  let c := s.chan ch
  let run := match c.run with
    | some r => if r.atStart then some r.ct else none
    | none => none
  if s.inWatch then gainCode (s.rd Reg.FC_CTRL_WGAIN ch)
  else match run with
    | some g => g
    | none => match s.strandOf ch with
      | some i => (s.shotGain i ch).getD c.gain
      | none => c.gain

/-- The PGA gain of this tick takes effect; a change is remembered for the monitor's blanking (R70, R238).
DEDUCED: log entry 21. -/
def State.takeGain (ch : Nat) (s : State) : State :=
  let c := s.chan ch
  let g := s.gainNow ch
  if g = c.gain then s else s.setChan ch { c with gain := g, gainTick := some s.tick }

/-- The injection of this tick takes effect (R161 to R164). -/
def State.takeInj (ch : Nat) (s : State) : State :=
  let c := s.chan ch
  let v := match c.run with
    | some r => r.level (s.tick - r.start)
    | none => 0
  if v = c.inj then s
  else
    let off := if v = 0 then some s.tick else c.injOff
    (s.setChan ch { c with inj := v, injOff := off }).put Reg.GAPCAL_CHSTAT_INJ ch (v != 0)

/-- Input terminations (Table 3.1). -/
inductive Termination where
  | none | floating | biased
  deriving DecidableEq, Repr

/-- Termination of a channel's input pins, in every power state: 100 Ω with the centre floating or driven to 0.9 V, or none;
TERM 3 acts as 0 (R60). -/
def State.termination (s : State) (ch : Nat) : Termination :=
  match s.rd Reg.FC_CTRL_TERM ch with
  | 1 => .floating
  | 2 => .biased
  | _ => .none

/-- PGA output in units of 10⁻¹² V, with the chain's error and injection, beside the comparator's departure `cmp`. -/
def pgaOut (g : Nat) (x : ChanIn) (inj cmp : Int) : Int :=
  x.vdiff * gainMilli g + 1000 * (inj + x.err + cmp)

/-- Group delay of the anti-alias filter in whole ticks (Table 3.3); the half tick of AAF 0 is in the operand (R62). -/
def State.groupDelay (s : State) (ch : Nat) : Nat := nth [0, 1, 2, 4, 8] (s.rd Reg.FC_CTRL_AAF ch) 8

/-- What the converter of a channel meets: V_diff as it stood one group delay before (R62). -/
def State.delayed (s : State) (ch : Nat) (x : ChanIn) : ChanIn :=
  { x with vdiff := nth (x.vdiff :: (s.chan ch).pins) (s.groupDelay ch) 0 }

/-- V_diff of the tick joins the values the filter delays. -/
def State.keepPin (ch : Nat) (x : ChanIn) (s : State) : State :=
  let c := s.chan ch
  s.setChan ch { c with pins := (x.vdiff :: c.pins).take 8 }

/-- Converter code of a PGA output (R59). -/
def codeOf (v : Int) : Int := sat16 (roundDiv (32768 * v) 1000000000000)

/-- The correction stage (R65): the corrected sample before saturation. -/
def corrected (code off gain : Int) (inv : Bool) : Int :=
  let y := (16 * code - off) * (2 ^ 24 + gain)
  roundDiv (if inv then -y else y) (2 ^ 28)

/-- One sample of one channel: converter code, corrected sample, overloaded (R73), outcome of its tile-bundle frame
and of the memory read it causes. -/
structure Samp where
  code : Int
  x : Int
  ovl : Bool
  bad : Bool
  ecc : Ecc
  deriving DecidableEq, Repr

/-- The converter of an ON channel takes its sample of the tick (R59, R62, R64, R65, R73); `bad`: its tile's frame is
uncorrectable (R20). DEDUCED: log entry 21. -/
def State.convert (s : State) (ch : Nat) (bad : Bool) (x : ChanIn) : Samp × State :=
  let c := s.chan ch
  let code := codeOf (pgaOut c.gain (s.delayed ch x) c.inj 0)
  let y := corrected code (nth c.wOff c.gain 0) (nth c.wGain c.gain 0) (s.on Reg.FC_CTRL_INV ch)
  let hit := code = 32767 || code = -32768 || x.ovl || sat16 y != y
  let tail := if hit then 8 else c.ovlTail - 1
  (⟨code, sat16 y, hit || 0 < c.ovlTail, bad, x.ecc⟩, s.setChan ch { c with ovlTail := tail, past := (sat16 y :: c.past).take 128 })

/-! ### Folding (R87, R120, R74, R75) -/

/-- Window offset of the present tick in a shot of strand `i`: ticks since bin 0 began. -/
def State.windowAt (s : State) (i : Nat) (sh : Shot) : Option Nat :=
  let u := s.tick - sh.launch
  if s.strandL i ≤ u && u < (s.strand i).perGap then some (u - s.strandL i) else none

/-- Bin `b` is a settle bin of the shot (R71, R72). -/
def State.settling (s : State) (i ch b : Nat) : Bool :=
  let c := s.chan ch
  match c.plan with
  | some p =>
    let d := s.strandD i
    p.settleBin d b || (c.launchChanged && b < (p.settle - s.strandL i + d - 1) / d)
  | none => false

/-- Bight and magnitude with which a folded sample of non-zero weight enters the range figures once it is committed; none in
a settle bin (R75). -/
def State.rangeFig (s : State) (i ch b : Nat) (y : Samp) : Option (Nat × Nat) :=
  if s.settling i ch b then none else some ((s.chan ch).plan.elim 0 (·.bightAt b), y.x.natAbs)

/-- OVL_SEEN is set at an overloaded sample of the trace window (R74, Table 3.9). -/
def State.ovlSeen (ch : Nat) (y : Samp) (s : State) : State := if y.ovl then s.raise Reg.FC_STAT_OVL_SEEN ch else s

/-- Does the pattern engine give the tick of bin `b` weight 0 (R120)? -/
def State.blanked (s : State) (i b : Nat) (k : Stack) : Bool :=
  k.coded && b < s.rd Reg.PRB_CODE_BLANK (s.strand i).perPort

/-- The sample joins its bin: the commit is due at tick + 32 (R21, R87). -/
def State.foldSample (i ch : Nat) (k : Stack) (sh : Shot) (w : Nat) (y : Samp) (s : State) : State :=
  let d := s.strandD i
  let b := w / d
  let firstOfBin := w % d = 0
  let zero := s.blanked i b k
  let first := if k.phase then k.taken = 1 else sh.first
  let old : OldKind :=
    if firstOfBin && first then (if k.smode = 0 || k.restarted then .zero else .carry) else .self
  let leak := if k.smode = 2 && firstOfBin then some k.leak else none
  let wk := Work.fold ch sh.plane b (if zero then 0 else sh.weight * y.x) old leak (y.ovl && !zero)
    (y.bad && !zero) (w % d + 1 = d) (if zero then none else s.rangeFig i ch b y) y.ecc
  let s := { s with pipe := s.pipe ++ [⟨s.tick + 32, i, wk⟩] }
  if zero then s else s.ovlSeen ch y

/-- A frame of tile `t` that is uncorrectable and of which no product takes a sample is handled as one uncorrectable error
(R20); channel, plane and block of it are not stated. DESIGN CHOICE: log entry 22. -/
def State.strayFrame (t : Nat) (s : State) : State :=
  let (n, s) := s.fresh
  s.foldUe (16 * t + (Config.open_ 5 n).toNat % 16) ((Config.open_ 3 n).toNat % 2) ((Config.open_ 4 n).toNat % 400) false 3

/-- A phase channel's sample: overloads and bad frames are marked, figures kept (R74, R75, R150).
DEDUCED: log entry 63. -/
def State.phaseNote (i ch : Nat) (k : Stack) (sh : Shot) (w : Nat) (y : Samp) (s : State) : State :=
  let b := w / s.strandD i
  let fig := if sh.ref then none else s.rangeFig i ch b y
  let s := if y.ovl || y.bad || fig.isSome then
      { s with pipe := s.pipe ++ [⟨s.tick + 32, i, .note ch k.plane b y.ovl y.bad fig⟩] } else s
  s.ovlSeen ch y

/-- What strand, stack and shot make of a hitched channel's sample; whether a product takes it. A sample of a trace window
that is not folded sets OVL_SEEN. DESIGN CHOICE: log entry 72. -/
def State.useSample (ch : Nat) (y : Samp) (s : State) : Bool × State :=
  match s.strandOf ch with
  | none => (false, s)
  | some i =>
    let rt := s.strand i
    match rt.shot with
    | none => (false, s)
    | some sh =>
      match s.windowAt i sh, rt.stack with
      | none, _ => (false, s)
      | some _, none => (false, s.ovlSeen ch y)
      | some w, some k =>
        if !sh.folded then (false, s.ovlSeen ch y)
        else if k.phase && 8 ≤ s.rd Reg.FC_HITCH_ROLE ch then (true, s.phaseNote i ch k sh w y)
        else if sh.ref then (false, s.ovlSeen ch y)
        else (!s.blanked i (w / s.strandD i) k, s.foldSample i ch k sh w y)

/-! ### Presence and monitor sums (R130, R133) -/

/-- |x| or x of a sample scaled to 0 dB by the nominal gain in force. -/
def scaled (x : Int) (g : Nat) : Rat := (x * 1000 : Int) / (gainMilli g : Rat)

/-- Is a channel a presence channel of its strand (R130)? -/
def presenceRole (role : Nat) : Bool := role = 1 || role = 3 || 8 ≤ role

/-- The sample enters its strand's presence level. -/
def State.presSample (ch : Nat) (y : Samp) (s : State) : State :=
  match s.strandOf ch with
  | none => s
  | some i =>
    let rt := s.strand i
    match rt.shot with
    | none => s
    | some sh =>
      match s.windowAt i sh with
      | none => s
      | some w =>
        let b := w / s.strandD i
        let pb := s.rd Reg.PRB_PRES_PBIN rt.perPort
        if pb ≤ b && b < pb + 256 && presenceRole (s.rd Reg.FC_HITCH_ROLE ch) && s.presOn rt.perPort
            && s.runs i && !s.settling i ch b then
          let sh := { sh with presSum := sh.presSum + scaled y.x.natAbs (s.chan ch).gain,
                              presCount := sh.presCount + 1 }
          s.setStrand i { rt with shot := some sh }
        else s

/-- The sample of a monitor photodiode enters its port's baseline or energy. -/
def State.monSample (ch : Nat) (y : Samp) (p : Nat) (s : State) : State :=
  if !(s.monOn p && s.rd Reg.PRB_MON_CHAN p = ch) then s
  else
    let v := scaled y.x (s.chan ch).gain
    let r := s.port p
    let s := match r.next with
      | some n =>
        if n ≤ s.tick + 16 && s.tick < n then
          let fresh := n = s.tick + 16
          s.setPort p { r with monBase := if fresh then v else r.monBase + v,
                               monBaseCount := if fresh then 1 else r.monBaseCount + 1 }
        else s
      | none => s
    if s.monTick p s.tick then
      let r := s.port p
      s.setPort p { r with monSum := r.monSum + v, monCount := r.monCount + 1 }
    else s

/-! ### Phase pipelines (R138 to R140, R144) -/

/-- The aligned sample of QX, IY or QY (R138): a skew of whole ticks delays by that many samples; a part of a tick, or a
negative skew, gives a free value. `past`: the channel's samples, this tick's first. DESIGN CHOICE: log entry 26. -/
def State.align (s : State) (ch : Nat) (x : Int) : Int :=
  let c := s.chan ch
  let k := c.wSkew
  if 0 ≤ k && k % 256 = 0 then (if k = 0 then x else nth c.past (k / 256).toNat 0)
  else Config.aligned ch s.tick k x

/-- Gauge product of two bins times d² (R140). -/
def gaugeProduct (pol : Nat) (a b : BinSum) : Int × Int :=
  let px := if pol = 2 then (0, 0) else (b.xr * a.xr + b.xi * a.xi, b.xi * a.xr - b.xr * a.xi)
  let py := if pol = 1 then (0, 0) else (b.yr * a.yr + b.yi * a.yi, b.yi * a.yr - b.yr * a.yi)
  (px.1 + py.1, px.2 + py.2)

/-- No light in a bin. -/
def BinSum.zero : BinSum := ⟨0, 0, 0, 0⟩

/-- Bins whose state word is committed with the last sample of bin `b` (R144). -/
def phaseBins (n g b : Nat) : List Nat :=
  (if g ≤ b then [b - g] else []) ++ (if b + 1 = n then (List.range n).filter fun x => n ≤ x + g else [])

/-- A pipeline takes the four aligned samples of a tick. DEDUCED: log entry 62. -/
def State.quadSample (i q : Nat) (k : Stack) (sh : Shot) (w : Nat) (ix qx iy qy : Samp) (s : State) : State :=
  let d := s.strandD i
  let b := w / d
  let qr := s.quad q
  let xi := ix.x
  let xq := s.align (4 * q + 1) qx.x
  let yi := s.align (4 * q + 2) iy.x
  let yq := s.align (4 * q + 3) qy.x
  let z := qr.z.getD b BinSum.zero
  let z' : BinSum := ⟨z.xr + xi, z.xi + xq, z.yr + yi, z.yi + yq⟩
  let pow := (if w % d = 0 then 0 else qr.pow) + (xi * xi + xq * xq + yi * yi + yq * yq).toNat
  let s := s.setQuad q { qr with z := qr.z.put b z', pow := pow }
  if w % d + 1 != d then s
  else
    let n := s.strandN i
    let g := s.gauge q
    let pol := s.rd Reg.PHASE_QCFG_POL q
    let zs := (s.quad q).z
    let at_ := s.tick + 32
    let ph := (phaseBins n g b).map fun x =>
      let pp := if x + g < n then
          some (gaugeProduct pol (zs.getD x BinSum.zero) (zs.getD (x + g) BinSum.zero)) else none
      Commit.mk at_ i (.phase q k.plane x pp sh.ref sh.first ix.ecc qx.ecc iy.ecc)
    let pw := if sh.ref then [] else [Commit.mk at_ i (.power q k.plane b (pow / 65536) (k.taken = 1) qy.ecc)]
    { s with pipe := s.pipe ++ ph ++ pw }

/-- No sample: the converter of a channel that is not ON. -/
def Samp.none : Samp := ⟨0, 0, false, false, .ok⟩

/-- The pipeline of a phase strand in its window. -/
def State.phaseTick (ys : SMap (Samp × Bool)) (i : Nat) (s : State) : State :=
  let rt := s.strand i
  match rt.stack, rt.shot with
  | some k, some sh =>
    if !(k.phase && sh.folded) then s
    else match s.windowAt i sh with
      | some w =>
        let q := s.quadOf i
        let y (j : Nat) := (ys.getD (4 * q + j) (Samp.none, false)).1
        s.quadSample i q k sh w (y 0) (y 1) (y 2) (y 3)
      | none => s
  | _, _ => s

/-! ### Comparators (R232 to R238, R240) -/

/-- M and N of a monitor as they act (R236). -/
def State.monM (s : State) (ch : Nat) : Nat := s.rd Reg.WMON_CTRL_MM1 ch + 1
def State.monN (s : State) (ch : Nat) : Nat :=
  let m := s.monM ch
  let n := s.rd Reg.WMON_CTRL_NM1 ch + 1
  if m < n then m else if n ≤ m / 2 then m / 2 + 1 else n

/-- A decision of the tick is masked (R238); a write of the tick's own clock acts from the next tick on (R249). -/
def State.monMasked (s : State) (ch : Nat) : Bool :=
  let c := s.chan ch
  let gain := match c.gainTick with
    | some t => s.tick < t + s.old.rd Reg.WMON_CTRL_BLANK ch
    | none => false
  let cal := s.old.on Reg.WMON_CTRL_CALMASK ch && (c.inj != 0 || (match c.injOff with
    | some t => s.tick < t + 64
    | none => false))
  gain || cal

/-- Threshold level of a code in converter codes (R233). -/
def thrLevel (t : Nat) : Int := ((t : Int) - 512) * 64

/-- Raw decisions of the pair in a tick (R233, R234): above the upper, below the lower level; without hysteresis in
the first-decision window (R240). A write of WMON_THR acts from the next tick on (R235). -/
def State.rawPair (s : State) (ch : Nat) (x : ChanIn) : Bool × Bool :=
  let c := s.chan ch
  let v := 32768 * pgaOut c.gain x c.inj x.cmp
  let one : Int := 1000000000000
  let h : Int := if c.mon = .first then 0 else s.old.rd Reg.WMON_THR_HYS ch * 64
  let up := thrLevel (s.old.rd Reg.WMON_THR_UTH ch) - (if c.upper.f then h else 0)
  let lo := thrLevel (s.old.rd Reg.WMON_THR_LTH ch) + (if c.lower.f then h else 0)
  (decide (up * one < v), decide (v < lo * one))

/-- Ones and zeros of a window. -/
def ones (w : List (Nat × Bool)) : Nat := (w.filter fun x => x.2).length
def zeros (w : List (Nat × Bool)) : Nat := (w.filter fun x => !x.2).length

/-- Tick of the `n`-th oldest decision `b` of a window. -/
def nthDecision (w : List (Nat × Bool)) (b : Bool) (n : Nat) : Nat :=
  (nth (w.reverse.filter fun x => x.2 = b) (n - 1) (0, b)).1

/-- The filter of R236 tried on a comparator: its state after, and whether it changed. -/
def Comparator.settle (c : Comparator) (n : Nat) : Comparator × Bool :=
  if !c.f && n ≤ ones c.win then ({ c with f := true }, true)
  else if c.f && n ≤ zeros c.win then ({ c with f := false }, true)
  else (c, false)

/-- A raw decision is pushed, the oldest dropped when the window holds m. -/
def Comparator.push (c : Comparator) (m t : Nat) (r : Bool) : Comparator := { c with win := ((t, r) :: c.win).take m }

/-- Edges that a change of the filtered states makes: type (R237) and tick, `e` or that of the decision of the strobe that
made the test hold (R236); by tick, those of one tick in the order of their types. -/
def edgeTypes (n : Nat) (e : Option Nat) (u l : Comparator) (cu cl : Bool) : List (Nat × Nat) :=
  let at_ (c : Comparator) : Nat := e.getD (nthDecision c.win c.f n)
  let us := if cu then [(if u.f then 0 else 1, at_ u)] else []
  let ls := if cl then [(if l.f then 2 else 3, at_ l)] else []
  if cu && cl && at_ l < at_ u then ls ++ us else us ++ ls

/-- Both comparators' filtered states are tried, after the decision of tick `e` or for a strobe's window; edges wait for
MONITOR_EDGE with the WMON_ROUTE word of their tick. -/
def State.monSettle (ch : Nat) (e : Option Nat) (route : Word) (s : State) : State :=
  let c := s.chan ch
  let n := s.monN ch
  let (u, cu) := c.upper.settle n
  let (l, cl) := c.lower.settle n
  let es := (edgeTypes n e u l cu cl).map fun k => MonEdge.mk k.1 k.2 route
  s.setChan ch { c with upper := u, lower := l, edges := c.edges ++ es }

/-- The pair of a SAMPLED monitor decides in this tick: M ticks from 2,000 ticks after the strobe started (R232). -/
def State.strobeTick (s : State) (ch : Nat) : Bool :=
  match (s.chan ch).strobe with
  | some t => t + 2000 ≤ s.tick && s.tick < t + 2000 + s.monM ch
  | none => false

/-- The comparator pair of a channel in one tick (R231, R236, R240). -/
def State.monTickOf (ch : Nat) (x : ChanIn) (s : State) : State :=
  let c := s.chan ch
  let sampled := s.rd Reg.WMON_CTRL_MODE ch = 3
  let live := s.on Reg.WMON_CTRL_EN ch && s.pgaOn ch && (c.mon = .first || c.mon = .on)
    && (if sampled then s.strobeTick ch else !s.inWatch)
  let route := s.old.reg (Reg.WMON_ROUTE_EDGES.addr ch)
  if !live then s
  else if s.monMasked ch then s.setChan ch { c with strobeRoute := route }
  else
    let m := s.monM ch
    if c.mon = .first && m ≤ c.upper.win.length then s
    else
      let (ru, rl) := s.rawPair ch x
      let s := s.setChan ch { c with strobeRoute := route, upper := c.upper.push m s.tick ru, lower := c.lower.push m s.tick rl }
      if sampled || c.mon = .first then s else s.monSettle ch (some s.tick) route

/-! ### The tick -/

/-- What a channel meets when no value is given for it: 0 V. DEDUCED: log entry 21. -/
def ChanIn.idle (ch : ChanId) : ChanIn := ⟨ch, 0, 0, 0, false, false, false, .ok⟩

/-- The input of a channel in this tick. DEDUCED: log entry 21. -/
def inputOf (xs : List ChanIn) (ch : ChanId) : ChanIn :=
  (xs.find? fun x => x.chan = ch).getD (ChanIn.idle ch)

/-- The tile-bundle frame of a channel's tile is uncorrectable in this tick: a frame carries all its 16 channels (R20). -/
def tileBad (xs : List ChanIn) (t : Nat) : Bool := xs.any fun x => x.badFrame && x.chan.val / 16 = t

/-- One channel in one tick: gain, injection, sample, uses of it, comparators; the samples so far with whether a product takes
each. DEDUCED: log entry 21. -/
def State.chanTick (xs : List ChanIn) (ch : ChanId) (a : SMap (Samp × Bool) × State) : SMap (Samp × Bool) × State :=
  let (ys, s) := a
  if !s.pgaOn ch then (ys, s)
  else
    let x := inputOf xs ch
    let s := (s.takeGain ch).takeInj ch
    let (ys, s) :=
      if s.rd Reg.FC_STAT_PSTATE ch = 3 then
        let (y, s) := s.convert ch (tileBad xs (ch / 16)) x
        let c := s.chan ch
        let s := match c.run with
          | some r => s.setChan ch { c with run := some (r.sample (s.tick - r.start) y.code y.ovl) }
          | none => s
        let (used, s) := s.useSample ch y
        let s := s.presSample ch y
        let s := s.each (List.range 16) fun p s => s.monSample ch y p
        (ys.put ch (y, used), s)
      else (ys, s)
    (ys, (s.monTickOf ch x).keepPin ch x)

/-- Every channel, then every phase pipeline, in one tick; an uncorrectable error in calibration values is CFG_CRC (R411). -/
def State.channelsTick (xs : List ChanIn) (s : State) : State :=
  let (ys, s) := (List.finRange 192).foldl (fun a ch => State.chanTick xs ch a) ([], s)
  let s := s.each (List.range 64) fun i s => s.phaseTick ys i
  let s := if xs.any (·.calUe) then s.source 3 else s
  s.each ((List.range 12).filter (tileBad xs)) fun t s =>
    if (List.range 16).any fun j => (ys.find (16 * t + j)).any (·.2) then s else s.strayFrame t

/-- The tick ends: the islands count it, and lanyard time where it runs (R6, R8, R365); what the next tick's events sample is
what the registers hold now (R28). DESIGN CHOICE: log entry 3. -/
def State.endTick (s : State) : State :=
  let s := { s with tick := s.tick + 1, before := s.regs, raised := [], wrote := [], sub := 0, cause := none, pcWas := [] }
  if s.on Reg.LANYARD_STAT_RUNNING 0 then { s with lany := s.lany + 256 } else s

/-- SAMPLE_TICK (R64): commits that are due, the start calibration's sequencer, then every channel's sample. Before
BOOT the digital islands have no clock. DESIGN CHOICE: log entry 3. -/
def execSampleTick (xs : List ChanIn) (s : State) : Host.Outcome State Fault Refusal :=
  .next <|
    if s.mode < 3 then s
    else ((((s.commitsDue s.tick).startTick1).channelsTick xs)).endTick

end Sys2Proof.Machine
end

