-- ==== Sys2Proof/Machine/Precision.lean ====
section
/-! DEFINITION. Precision channels: excitation, monitors, fall-back, conversions, sequencer, automatic gain, internal
and system calibration, PCVAL (chapters 08 and 09). -/

namespace Sys2Proof.Machine

/-! ### Settings in force (R186, R189, R193, R218) -/

/-- A precision channel's settings as written. -/
def State.pcWritten (s : State) (c : Nat) : List Word :=
  [0x00, 0x04, 0x08, 0x0C, 0x20, 0x24, 0x28, 0x2C, 0x30, 0x34].map fun o => s.reg (0x20000 + 0x80 * c + o)

/-- SLIM and CLWIN of `new`, every other setting of `old` (R195): what a monitor sample brings into force. -/
def monSettings (old new : List Word) : List Word :=
  let mix (m : Word) (k : Nat) : Word := (nth new k 0 &&& m) ||| (nth old k 0 &&& ~~~m)
  (old.set 0 (mix 0x00300000 0)).set 2 (mix 0x00001000 2)

/-- Field `f` of the settings in force; `k` is the register's place in the list. -/
def PcRt.get (r : PcRt) (k : Nat) (f : Field) : Nat := f.read (nth r.force k 0)

/-- Connection type as it acts (Table 8.2): 8 to 15 act as 0. -/
def PcRt.type (r : PcRt) : Nat :=
  let t := r.get 2 Reg.PC_CONN_TYPE
  if 8 ≤ t then 0 else t

/-- Constant-voltage types; constant-current types; types with a sense check (Table 8.2). -/
def voltType (t : Nat) : Bool := t = 1 || t = 2 || t = 3 || t = 7
def currType (t : Nat) : Bool := t = 4 || t = 5 || t = 6
def senseType (t : Nat) : Bool := t = 2 || t = 3 || t = 7

/-- Excitation voltage in mV of a code under a clamp window (Tables 8.4 and 8.6). -/
def vexcMilli (code clwin : Nat) : Nat :=
  let k := if clwin = 1 && 3 ≤ code then 2 else code
  match k with
  | 0 => 0
  | 1 => 1250
  | 2 => 2500
  | 3 => 4000
  | _ => 5000

/-- Current in nA of a code (Table 8.5). -/
def currentNano (code : Nat) : Nat := nth [0, 10000, 50000, 100000, 250000, 500000, 1000000, 2000000] code 0

/-- Excitation voltage in force, in mV. -/
def PcRt.vexc (r : PcRt) : Nat := vexcMilli (r.get 0 Reg.PC_EXC_VEXC) (r.get 2 Reg.PC_CONN_CLWIN)

/-- The channel alternates polarity or sources at each conversion boundary (R189, R194). -/
def PcRt.alternates (r : PcRt) : Bool :=
  (voltType r.type && r.get 0 Reg.PC_EXC_REV = 1) || (currType r.type && r.get 1 Reg.PC_IEX_SWAP = 1)

/-- The source that IEX_A (`pinB` false) or IEX_B is assigned: B where true (R194). -/
def PcRt.sourceAt (r : PcRt) (pinB : Bool) : Bool :=
  let sw := r.get 1 Reg.PC_IEX_SWAP
  (sw = 2 || (sw = 1 && r.phase = 1)) != pinB

/-- Current code of source A (`b` false) or B. -/
def PcRt.sourceCode (r : PcRt) (b : Bool) : Nat := if b then r.get 1 Reg.PC_IEX_IB else r.get 1 Reg.PC_IEX_IA

/-- The pin takes a source: IEX_A in every CURR type, IEX_B in RTD3 (R193). -/
def PcRt.pinUsed (r : PcRt) (pinB : Bool) : Bool := currType r.type && (!pinB || r.type = 5)

/-- Current code the assignment gives IEX_A or IEX_B; a source without a pin goes to the dummy load (R193, R194). -/
def PcRt.pinCode (r : PcRt) (pinB : Bool) : Nat := if r.pinUsed pinB then r.sourceCode (r.sourceAt pinB) else 0

/-- Current code that feeds the pin now: in SEL 8 and 9 the selected source has left it for RINT (R204).
DEDUCED: log entry 52. -/
def PcRt.fedCode (r : PcRt) (pinB : Bool) : Nat :=
  if r.sel = (if r.sourceAt pinB then 9 else 8) then 0 else r.pinCode pinB

/-- VBASE in mV (R189). -/
def vbase : Nat := 500

/-- What the excitation of a channel is set to (R186, R189, R193, R194, R198). -/
inductive PcDrive where
  /-- every EXC and IEX pin high-impedance -/
  | off
  /-- the sense pins are held at these levels in mV (Table 8.4) -/
  | volt (snsP snsN : Nat)
  /-- fall-back: I_FB in 10 nA from the upper force pin, EXC_N where `reversed`, into the lower one, held at VBASE in mV -/
  | const (iFb : Nat) (reversed : Bool) (lower : Nat)
  /-- currents in nA at IEX_A and IEX_B and in the dummy loads of sources A and B; EXC_N is held at VBASE in mV -/
  | curr (a b dummyA dummyB excN : Nat)
  deriving DecidableEq, Repr

/-- The excitation in force. -/
def PcRt.drive (r : PcRt) (fallback : Bool) : PcDrive :=
  let high := r.phase = 1
  if voltType r.type then
    if r.vexc = 0 then .off
    else if fallback then .const r.iFb high vbase
    else if high then .volt vbase (vbase + r.vexc) else .volt (vbase + r.vexc) vbase
  else if currType r.type then
    let dummy (b : Bool) : Nat :=
      if r.type = 5 || r.sourceAt false = b then 0 else currentNano (r.sourceCode b)
    .curr (currentNano (r.pinCode false)) (currentNano (r.pinCode true)) (dummy false) (dummy true) vbase
  else .off

/-- Excitation is driven into a pin (Table 8.9: EXC_ON); a source in its dummy load drives none. -/
def PcDrive.driven : PcDrive → Bool
  | .off => false
  | .volt _ _ => true
  | .const _ _ _ => true
  | .curr a b _ _ _ => a != 0 || b != 0

/-- Everything that makes the excitation (R208): a change of it restarts the filter. -/
def PcRt.excitation (r : PcRt) (fallback : Bool) : List Nat :=
  [r.type, r.vexc, r.get 1 Reg.PC_IEX_IA, r.get 1 Reg.PC_IEX_IB, r.get 1 Reg.PC_IEX_SWAP, r.get 0 Reg.PC_EXC_REV,
    r.phase, if fallback then 1 else 0]

/-- Filter mode as it acts, discard periods D and decimation ratio (Tables 9.1 and 9.2). -/
def PcRt.fmode (r : PcRt) : Nat := min 6 (r.get 4 Reg.PC_ADC_MODE)
def discards (m : Nat) : Nat := if m < 4 then 4 else 3
def ratioOf (m : Nat) : Nat := nth [64, 256, 1024, 4096, 40960, 102400, 204800] m 204800

/-- Multiplexer input as it acts: 14 and 15 act as 1 (Table 8.7). -/
def selOf (v : Nat) : Nat := if 14 ≤ v then 1 else v

/-- Slot k of the sequencer: input and valid results (R221). -/
def PcRt.slotSel (r : PcRt) (k : Nat) : Nat :=
  let w := nth r.force (6 + k / 2) 0
  selOf ((w.toNat / 2 ^ (16 * (k % 2))) % 16)
def PcRt.slotConv (r : PcRt) (k : Nat) : Nat :=
  let w := nth r.force (6 + k / 2) 0
  max 1 (w.toNat / 2 ^ (16 * (k % 2) + 8) % 256)

/-- Excitation is driven and conversions run: not in BOOT or WATCH (Table 16.1, R399). -/
def State.pcLive (s : State) : Bool := 4 ≤ s.mode && s.mode != 7

/-- Is precision channel `c` in the safety function (R408)? -/
def State.pcMasked (s : State) (c : Nat) : Bool := s.bit Reg.SAFETY_PCMASK_C 0 c

/-! ### PCVAL (R228) -/

/-- A PCVAL record (Table 9.7). -/
def PcRec.bytes (r : PcRec) : List Byte :=
  leBytes 8 r.t.toNat ++ leBytes 1 r.chan ++ leBytes 1 r.sel ++ leBytes 1 r.gain ++ leBytes 1 r.fmode
    ++ leInt 4 r.xe ++ leBytes 2 r.flags ++ leBytes 2 r.seqno ++ leInt 4 r.pair

/-- The gathered records leave as one PCVAL message. -/
def State.sendPcval (s : State) : State :=
  if s.pcq = [] then s
  else
    let body := s.pcq.flatMap PcRec.bytes
    ({ s with pcq := [] }).queueMsg ⟨6, leBytes 2 1 ++ leBytes 2 s.pcq.length ++ leBytes 4 0 ++ body⟩

/-- A record joins the gatherer, which holds up to 64 messages (R228, R342). DEDUCED: log entry 52. -/
def State.gather (r : PcRec) (s : State) : State :=
  if s.pcq = [] && 64 ≤ (s.link.txq.filter fun m => m.ty = 6 && m.isOwn).length then
    (s.bump Reg.HOSTLINK_PCLOST_N 0 1).event 5
  else
    let s := { s with pcq := s.pcq ++ [r] }
    if 60 ≤ s.pcq.length then s.sendPcval else s

/-- PCVAL_TIMEOUT (R228): the message leaves 10 ms after its oldest record. -/
def execPcvalTimeout (s : State) : Host.Outcome State Fault Refusal := .next s.sendPcval

/-! ### Sensor faults (R196, R199, R201, R128, R129) -/

/-- Ports whose derating follows the channel are due a new ceiling (R128). -/
def State.derNotify (c : Nat) (s : State) : State :=
  s.each (List.range 16) fun p s =>
    if s.on Reg.PRB_DER_CTRL_EN p && s.rd Reg.PRB_DER_CTRL_PC p = c then
      s.setPort p { s.port p with derDue := true } else s

/-- A PC_FAULT record with the channel's PC_FSTAT (Table 18.2). -/
def State.pcFaultLog (c : Nat) (s : State) : State :=
  s.logNow 0x50 5 c (s.reg (Reg.PC_FSTAT_OPEN.addr c)).toNat 0 0

/-- OPEN or SHORT is raised (R199, R201): flag, record, derating, safety source. -/
def State.sensorFault (c : Nat) (f : Field) (s : State) : State :=
  if s.on f c then s
  else
    let s := ((s.raise f c).pcFaultLog c).setPc c { s.pc c with sensFault := true }
    let s := s.derNotify c
    if s.pcMasked c then s.source 11 else s

/-- SNS_FAULT is raised (R196, R199). -/
def State.snsRaise (c : Nat) (s : State) : State :=
  if s.on Reg.PC_FSTAT_SNS_FAULT c then s
  else
    let s := (s.raise Reg.PC_FSTAT_SNS_FAULT c).pcFaultLog c
    let r := { s.pc c with snsDue := true }
    let s := s.setPc c r
    if r.get 0 Reg.PC_EXC_FBEN = 0 || r.iHeld.isNone then s.sensorFault c Reg.PC_FSTAT_OPEN else s

/-- Lead-drop limit in nV (R191). -/
def PcRt.slim (r : PcRt) : Nat := nth [50000000, 100000000, 200000000, 300000000] (r.get 0 Reg.PC_EXC_SLIM) 300000000

/-- Lead drops of the P and N side in nV (R191). -/
def leadDropP (v : PcPins) : Nat := (v.excP - v.snsP).natAbs
def leadDropN (v : PcPins) : Nat := (v.excN - v.snsN).natAbs

/-- A pin lies outside the compliance window of a source, in nV (R193, Table 8.6). -/
def PcRt.outOfReach (r : PcRt) (v : Int) : Bool :=
  v < 200000000 || (if r.get 2 Reg.PC_CONN_CLWIN = 1 then 3300000000 else 5000000000) < v

/-- A source that feeds a pin is out of compliance (R193). -/
def PcRt.compl (r : PcRt) (v : PcPins) : Bool :=
  (r.fedCode false != 0 && r.outOfReach v.iexA) || (r.fedCode true != 0 && r.outOfReach v.iexB)

/-- Bad for the open check, bad for the short check (R201). -/
def PcRt.openBadSample (r : PcRt) (m : PcMon) : Bool :=
  if voltType r.type then
    decide (m.current < 2000) || (match r.iHeld with
      | some h => decide (8 * m.current < h.1)
      | none => false)
  else r.compl m.pins
def PcRt.shortBadSample (r : PcRt) (m : PcMon) : Bool :=
  if voltType r.type then r.type != 7 && m.ilim
  else currType r.type && decide (m.pins.iexA - m.pins.excN < (currentNano (r.fedCode false) * 5 : Nat))

/-- A count of consecutive bad samples that holds at its limit. -/
def badRun (lim n : Nat) (bad : Bool) : Nat := if bad then min lim (n + 1) else 0

/-- SLIM and CLWIN as written before this clock come into force (R28, R195); a change between two phases breaks their pair
(R216). -/
def State.monTake (c : Nat) (s : State) : State :=
  let r := s.pc c
  let force := monSettings r.force (s.old.pcWritten c)
  s.setPc c { r with force := force, pair0 := if force = r.force then r.pair0 else none }

/-- One monitor sample of one channel (R195, R196, R200, R201). -/
def State.pcMonitor (c : Nat) (m : PcMon) (s : State) : State :=
  let s := s.monTake c
  let r := s.pc c
  if r.type = 0 || !s.pcLive then
    ((s.setPc c { r with snsBad := 0, openBad := 0, shortBad := 0 }).put Reg.PC_FSTAT_ILIM c false).put
      Reg.PC_FSTAT_COMPL c false
  else
    let s := (s.put Reg.PC_FSTAT_ILIM c m.ilim).put Reg.PC_FSTAT_COMPL c (r.compl m.pins)
    let sb := r.slim < leadDropP m.pins || r.slim < leadDropN m.pins
    let check := senseType r.type
    let r := { r with snsBad := if check then badRun 8 r.snsBad sb else 0,
                      snsGood := if sb then 0 else min 64 (r.snsGood + 1), snsNow := sb,
                      convSns := r.convSns || (check && sb),
                      openBad := badRun 64 r.openBad (r.openBadSample m),
                      shortBad := badRun 64 r.shortBad (r.shortBadSample m) }
    let s := s.setPc c r
    let s := if r.snsBad = 8 then s.snsRaise c else s
    let s := if r.openBad = 64 then s.sensorFault c Reg.PC_FSTAT_OPEN else s
    if r.shortBad = 64 then s.sensorFault c Reg.PC_FSTAT_SHORT else s

/-- PC_MONITOR_SAMPLE (R196): the monitors of the channels named are sampled in one clock. -/
def execPcMonitorSample (x : List (PcId × PcMon)) (s : State) : Host.Outcome State Fault Refusal :=
  .next (s.each x fun a s => s.pcMonitor a.1 a.2)

/-- A voltage in nV lies outside the clamp window of a pin (R202, Table 8.6), each threshold within its ±0.05 V.
DESIGN CHOICE: log entry 75. -/
def State.clampOut (s : State) (c pin : Nat) (v : Int) : Bool :=
  let w := (s.pc c).get 2 Reg.PC_CONN_CLWIN
  let trip (high : Bool) : Int := clampInt (-50000000) 50000000 (Config.clampTrip c pin w high)
  v < -300000000 + trip false || (if w = 1 then 3600000000 else 6300000000) + trip true < v

/-- CLAMP (R202, R203): the pin has gone outside its clamp window, and its clamp conducts. -/
def execClamp (c : PcId) (x : PinVolt) (s : State) : Host.Outcome State Fault Refusal :=
  .next <|
    if s.clampOut c x.pin.toNat x.v then
      ((s.putBit Reg.PC_FSTAT_CLAMP_NOW c x.pin.toNat true).raiseBit Reg.PC_FSTAT_CLAMP c x.pin.toNat).setPc c
        { s.pc c with convClamp := true }
    else s

/-- CLAMP_END (R203): the pin is back inside its window. -/
def execClampEnd (c : PcId) (x : PinVolt) (s : State) : Host.Outcome State Fault Refusal :=
  .next (if s.clampOut c x.pin.toNat x.v then s else s.putBit Reg.PC_FSTAT_CLAMP_NOW c x.pin.toNat false)

/-- Flags of PC_FSTAT that a W1C write clears restart their counts (R201); SNS_FAULT cleared with the latest sample good
ends fall-back without FBRET (R200). `w` is the word written, `was` the register before it. -/
def State.fstatCleared (c : Nat) (w was : Word) (s : State) : State :=
  let r := s.pc c
  let hit (k : Nat) : Bool := w.getLsbD k && was.getLsbD k
  s.setPc c { r with openBad := if hit 4 then 0 else r.openBad, shortBad := if hit 3 then 0 else r.shortBad,
                     snsBad := if hit 5 then 0 else r.snsBad,
                     fbExit := r.fbExit || (hit 5 && was.getLsbD 7 && !r.snsNow && r.get 0 Reg.PC_EXC_FBRET = 0) }

/-! ### Result codes (R214) -/

/-- The multiplexer's input in nV (Table 8.7). -/
def PcRt.vIn (r : PcRt) (x : PcIn) : Int :=
  let p := x.pins
  match r.sel with
  | 0 => p.pinP - p.pinN
  | 2 => roundDiv x.refB 2
  | 3 => roundDiv (p.snsP - p.snsN) 4
  | 4 => roundDiv (p.excP - p.excN) 4
  | 5 => p.excP - p.snsP
  | 6 => p.snsN - p.excN
  | 7 => roundDiv (p.iexA - p.excN) 4
  | 8 | 9 => x.rint
  | 10 => roundDiv (p.pinP - p.excN) 4
  | 11 => roundDiv (p.pinN - p.excN) 4
  | 12 => x.temp
  | 13 => roundDiv x.supply 8
  | _ => 0

/-- REFA in nV (R204). -/
def refA : Int := 2500000000

/-- The converter's reference in nV (Tables 8.2 and 8.7): SNS_P − SNS_N in a VOLT type, in fall-back I_FB × R_L with the sign of
the phase (R189, R198); REFA in a CURR type and for the other inputs. -/
def PcRt.vRef (r : PcRt) (fallback : Bool) (x : PcIn) : Int :=
  if 2 ≤ r.sel || !voltType r.type then refA
  else if fallback then
    let v : Int := roundDiv (r.iFb * r.rLoad * 10) 64
    if r.phase = 1 then -v else v
  else x.pins.snsP - x.pins.snsN

/-- The filter output scaled to the full range (R214 step 1); where the reference is 0 the chain alone gives it. -/
def PcRt.raw (r : PcRt) (fallback : Bool) (x : PcIn) : Int :=
  let d := r.vRef fallback x
  let v := if d < 0 then -r.vIn x else r.vIn x
  (if d = 0 then 0 else roundDiv (2 ^ 31 * v) d.natAbs) + x.err

/-- Steps 1 to 3 of R214, in units of 2⁻²⁴. -/
def PcRt.inner (r : PcRt) (raw : Int) : Int :=
  (raw - nth r.cal.off r.gain 0) * (2 ^ 24 + nth r.cal.gain r.gain 0)

/-- Largest magnitude of XE. -/
def xeMax : Int := 2 ^ 31 - 1

/-- XE without the system values, rounded. -/
def PcRt.xePlain (r : PcRt) (raw : Int) : Int := roundDiv (r.inner raw) (2 ^ 24)

/-- XE of a result period (R214). -/
def State.xe (s : State) (c : Nat) (raw : Int) : Int :=
  let r := s.pc c
  let v := if r.sel = 0 then
      roundDiv ((r.inner raw - s.rdInt Reg.PC_SYSOFF_X c * 256 * 2 ^ 24) * (2 ^ 24 + s.rdInt Reg.PC_SYSGAIN_G c))
        (2 ^ 48)
    else r.xePlain raw
  clampInt (-xeMax) xeMax v

/-- Result code X = round(XE ÷ 256) in 24 bits. -/
def xOf (xe : Int) : Int := clampInt (-(2 ^ 23)) (2 ^ 23 - 1) (roundDiv xe 256)

/-! ### Automatic gain (R217) -/

/-- Highest code in 0 to 7 at which |XE| stays at most 0.75 of the range. -/
def gainFor (m : Nat) : Nat := ((List.range 8).filter fun g => 4 * m * 2 ^ g ≤ 3 * 2 ^ 31).length - 1

/-- The gain after a result: the code, and whether GMIN or GMAX held a move back. -/
def PcRt.nextGain (r : PcRt) (xe : Nat) (ovr : Bool) : Option (Nat × Bool) :=
  let g := r.again
  let lo := r.get 4 Reg.PC_ADC_GMIN
  let hi := r.get 4 Reg.PC_ADC_GMAX
  let clamp (want : Nat) : Nat × Bool := let v := max lo (min hi want); (v, v != want)
  if ovr || 9 * 2 ^ 31 < 10 * xe * 2 ^ g then
    let want := min (gainFor (max xe (2 ^ 31 / 2 ^ g))) (g - (if ovr then 3 else 1))
    let (v, lim) := clamp want
    some (min v g, lim)
  else if 1000 * xe * 2 ^ g ≤ 375 * 2 ^ 31 then
    match r.upPrev with
    | some p =>
      let want := gainFor (max p xe)
      let (v, lim) := clamp want
      some (max v g, lim)
    | none => none
  else none

/-- The gain after a result of a measurement slot is decided (R217). -/
def State.autoGain (c : Nat) (xe : Nat) (ovr : Bool) (s : State) : State :=
  let r := s.pc c
  if r.get 4 Reg.PC_ADC_AGAIN = 0 then s.setPc c { r with upPrev := none }
  else
    let up := !ovr && decide (1000 * xe * 2 ^ r.again ≤ 375 * 2 ^ 31)
    match r.nextGain xe ovr with
    | some (g, lim) =>
      let s := if lim then s.raise Reg.PC_CSTAT_AGAIN_LIMIT c else s
      if g = r.again then s.setPc c { r with upPrev := if up then some xe else none }
      else s.setPc c { r with gainNext := some g, upPrev := none }
    | none => s.setPc c { r with upPrev := if up then some xe else none }

/-! ### Internal calibration (R224, R225) -/

/-- A value is rejected (R225): the third in a row raises PCAL_REJECTED. `k` numbers the channel's values: offsets 0 to
7, gains 8 to 15, currents 16 to 29, attenuator 30. -/
def State.pcalReject (c k : Nat) (s : State) : State :=
  let r := s.pc c
  let n := min 3 (nth r.rejRun k 0 + 1)
  let s := (s.setPc c { r with rejRun := r.rejRun.set k n }).raise Reg.PC_CSTAT_ICAL_REJ c
  if n = 3 && !s.bit Reg.SAFETY_PCALREJ_C 0 c then
    let s := (s.raiseBit Reg.SAFETY_PCALREJ_C 0 c).logNow 0x34 5 c 0 0 0
    if s.pcMasked c then s.source 13 else s
  else s

/-- A value is accepted. -/
def State.pcalAccept (c k : Nat) (cal : PcCal) (s : State) : State :=
  let r := s.pc c
  s.setPc c { r with cal := cal, rejRun := r.rejRun.set k 0 }

/-- Offset of gain code g within Table 9.5: ±1,000 ppm of the range, ±200 ppm from the old value. -/
def offOk (g : Nat) (old new : Int) : Bool :=
  decide (new.natAbs * 2 ^ g * 1000 ≤ 2 ^ 31) && decide ((new - old).natAbs * 2 ^ g * 5000 ≤ 2 ^ 31)

/-- Gain correction within Table 9.5: ±0.5 %, ±0.05 % from the old value. -/
def gainOk (old new : Int) : Bool :=
  decide (new.natAbs * 200 ≤ 2 ^ 24) && decide ((new - old).natAbs * 2000 ≤ 2 ^ 24)

/-- Source current in nA within Table 9.5; an old value of 0 is no value to change from. DEDUCED: log entry 52. -/
def currOk (nom : Nat) (old new : Int) : Bool :=
  decide ((new - nom).natAbs * 1000 ≤ nom * 15) && (old = 0 || decide ((new - old).natAbs * 1000 ≤ nom))

/-- Attenuator in 2⁻²⁴ within Table 9.5. DEDUCED: log entry 52. -/
def attOk (old new : Int) : Bool :=
  decide (24990 * 2 ^ 24 ≤ new * 100000) && decide (new * 100000 ≤ 25010 * 2 ^ 24)
    && (old = 0 || decide ((new - old).natAbs * 80000 ≤ 2 ^ 24))

/-- The offset of gain code `g` is judged. -/
def State.judgeOff (c g : Nat) (v : Int) (s : State) : State :=
  let cal := (s.pc c).cal
  if offOk g (nth cal.off g 0) v then s.pcalAccept c g { cal with off := cal.off.set g v } else s.pcalReject c g

/-- The gain correction of code `g` is judged. -/
def State.judgeGain (c g : Nat) (v : Int) (s : State) : State :=
  let cal := (s.pc c).cal
  if gainOk (nth cal.gain g 0) v then s.pcalAccept c (8 + g) { cal with gain := cal.gain.set g v }
  else s.pcalReject c (8 + g)

/-- Source current `k` (code 1 A, code 1 B, code 2 A, …) is judged. -/
def State.judgeCur (c k : Nat) (v : Int) (s : State) : State :=
  let cal := (s.pc c).cal
  if currOk (currentNano (k / 2 + 1)) (nth cal.cur k 0) v then
    s.pcalAccept c (16 + k) { cal with cur := cal.cur.set k v }
  else s.pcalReject c (16 + k)

/-- The attenuator is judged. -/
def State.judgeAtt (c : Nat) (v : Int) (s : State) : State :=
  let cal := (s.pc c).cal
  if attOk cal.att v then s.pcalAccept c 30 { cal with att := v } else s.pcalReject c 30

/-- Elements of a list with their places, at most `n`. -/
def numbered {α : Type} (n : Nat) (l : List α) : List (Nat × α) := (List.range n).zip l

/-- ICAL_END (R224, R225): the run's values are judged and the filter restarts. -/
def execIcalEnd (c : PcId) (x : IcalIn) (s : State) : Host.Outcome State Fault Refusal :=
  .next <|
    if !s.on Reg.PC_CSTAT_ICAL_BUSY c then s
    else
      let s := s.each (numbered 8 x.off) fun a s => s.judgeOff c a.1 a.2
      let s := s.each (numbered 8 x.gain) fun a s => s.judgeGain c a.1 a.2
      let s := if currType (s.pc c).type then s.each (numbered 14 x.cur) fun a s => s.judgeCur c a.1 a.2 else s
      let s := match x.att with
        | some v => if currType (s.pc c).type then s.judgeAtt c v else s
        | none => s
      let s := s.put Reg.PC_CSTAT_ICAL_BUSY c false
      let r := s.pc c
      (s.setPc c { r with discard := discards r.fmode, convSns := false,
                          convClamp := s.rd Reg.PC_FSTAT_CLAMP_NOW c != 0, pair0 := none }).put
        Reg.PC_BSTAT_DISCARD c (r.type != 0)

/-- Internal calibration starts (R224). -/
def State.icalStart (c : Nat) (s : State) : State := s.put Reg.PC_CSTAT_ICAL_BUSY c true

/-! ### System calibration (R226) -/

/-- PC_CMD.SYSZ or SYSS: the next 16 results are collected. -/
def State.sysStart (c : Nat) (span : Bool) (s : State) : State :=
  (s.setPc c { s.pc c with sys := some (span, 0, 0) }).put Reg.PC_CSTAT_SYS_BUSY c true

/-- PC_CMD.SYSCLR: both values are 0 at the next boundary. -/
def State.sysClear (c : Nat) (s : State) : State := s.setPc c { s.pc c with sysNew := some (0, 0) }

/-- The system values that 16 results of sum `sum` (XE units, system values not applied) give; none: rejected. -/
def State.sysValues (s : State) (c : Nat) (span : Bool) (sum : Int) : Option (Int × Int) :=
  let mean := roundDiv sum 4096
  let off := s.rdInt Reg.PC_SYSOFF_X c
  if !span then
    if mean.natAbs ≤ s.rd Reg.PC_SYSLIM_ZLIM c then some (mean, s.rdInt Reg.PC_SYSGAIN_G c) else none
  else
    let m := mean - off
    let ref := s.rdInt Reg.PC_SYSREF_X c
    if m = 0 then none
    else
      let (a, b) := if 0 < m then (ref - m, m) else (m - ref, -m)
      if a.natAbs * 1000 ≤ s.rd Reg.PC_SYSLIM_GLIM c * b.natAbs then some (off, roundDiv (a * 2 ^ 24) b.toNat)
      else none

/-- A valid SEL 0 result is collected for system calibration. -/
def State.sysCollect (c : Nat) (xe : Int) (s : State) : State :=
  let r := s.pc c
  match r.sys with
  | none => s
  | some (span, sum, n) =>
    if n + 1 < 16 then s.setPc c { r with sys := some (span, sum + xe, n + 1) }
    else
      let s := s.put Reg.PC_CSTAT_SYS_BUSY c false
      match s.sysValues c span (sum + xe) with
      | some v => s.setPc c { r with sys := none, sysNew := some v }
      | none => (s.setPc c { r with sys := none }).raise Reg.PC_CSTAT_SYS_REJ c

/-! ### Delivery of a result (R196, R197, R203, R215, R216, R221 to R223, R228) -/

/-- A result as it is delivered: marks, code, pair mean. -/
structure PcResult where
  flags : Nat
  xe : Int
  pair : Int
  deriving DecidableEq, Repr

/-- Marks that make a result not valid (R215). -/
def invalidMarks : Nat := 0x411B

/-- Is a result valid (R215)? -/
def PcResult.valid (r : PcResult) : Bool := r.flags &&& invalidMarks = 0

/-- The result is counted and, when it is due, gathered (R228). -/
def State.pcRecord (c : Nat) (x : PcResult) (s : State) : State :=
  let r := s.pc c
  let diag := x.flags.testBit 8
  if diag && !s.on Reg.PC_OUT_DIAGOUT c then s
  else
    let due := !x.valid || s.rd Reg.PC_OUT_DEC c ≤ r.decCount
    let dec := if !x.valid then r.decCount else if due then 0 else r.decCount + 1
    let s := s.setPc c { r with seqNo := (r.seqNo + 1) % 65536, decCount := dec }
    if due && s.on Reg.PC_OUT_EN c then
      s.gather ⟨s.lany, c, r.sel, r.gain, r.fmode, x.xe, x.flags, r.seqNo, x.pair⟩
    else s

/-- The held current and load of a valid conversion in a VOLT type (R197); a mean current of 0 is none held (Table 8.9).
DEDUCED: log entry 52. -/
def State.pcHold (c : Nat) (x : PcIn) (s : State) : State :=
  let r := s.pc c
  if x.current = 0 then
    ((s.setPc c { r with iHeld := none, rLoad := 0 }).wr Reg.PC_IMEAS_I c 0).wr Reg.PC_RLOAD_R c 0
  else
    let sense := (x.pins.snsP - x.pins.snsN).natAbs
    let load := min (2 ^ 24 - 1) ((64 * sense + 5 * x.current) / (10 * x.current))
    ((s.setPc c { r with iHeld := some (x.current, r.vexc), rLoad := load }).wr Reg.PC_IMEAS_I c
      (min (2 ^ 24 - 1) x.current)).wr Reg.PC_RLOAD_R c load

/-- A result of the dual-reference check (R223), which a channel with NODIAG = 1 does not make; `kref` in units of 2⁻³¹. -/
def State.refCheck (c : Nat) (xe : Int) (s : State) : State :=
  let k : Int := (s.pc c).kref
  if (s.pc c).get 5 Reg.PC_SEQ_NODIAG = 1 then s
  else if k < 2000 * (2 * xe - k).natAbs && !s.on Reg.PC_CSTAT_REF_DRIFT c then
    ((s.raise Reg.PC_CSTAT_REF_DRIFT c).logNow 0x51 5 c 0 0 0).source 12
  else s

/-- A valid result outside the limits is seen (R215). -/
def State.rangeSeen (c : Nat) (s : State) : State :=
  if s.on Reg.PC_CSTAT_RANGE_SEEN c then s
  else
    let s := s.raise Reg.PC_CSTAT_RANGE_SEEN c
    if s.pcMasked c then s.source 11 else s

/-- The derating takes every result that is neither discarded nor marked ABORTED_EXC; a sensor fault ends at the first of them
without one (R128, R129). -/
def State.deratingResult (c : Nat) (xe : Int) (s : State) : State :=
  let fault := s.on Reg.PC_FSTAT_OPEN c || s.on Reg.PC_FSTAT_SHORT c
  let r := s.pc c
  (s.setPc c { r with lastX := some (xOf xe), sensFault := r.sensFault && fault }).derNotify c

/-- What a valid result updates: PC_RES, pairs, slot count (R221: in sequence mode), system calibration. -/
def State.validResult (c : Nat) (raw : Int) (x : PcResult) (s : State) : State :=
  let r := s.pc c
  let s := (s.wr Reg.PC_RES_X c (BitVec.ofInt 24 (xOf x.xe)).toNat).wr Reg.PC_RESE_XE c (BitVec.ofInt 32 x.xe).toNat
  let s := s.setPc c { r with markFirst := false, markAgain := r.markAgain && r.sel != 0,
                              pair0 := if r.alternates && r.phase = 0 then some x.xe else none,
                              pairMean := if x.flags.testBit 10 then x.pair else r.pairMean,
                              count := if r.get 5 Reg.PC_SEQ_MODE = 1 then r.count + 1 else 0 }
  if r.sel = 0 then s.sysCollect c (r.xePlain raw) else s

/-- The filter output of a result period that ends now. -/
def State.pcRaw (s : State) (c : Nat) (x : PcIn) : Int := (s.pc c).raw (s.on Reg.PC_FSTAT_FALLBACK c) x

/-- Marks of a result period that ends now (Table 9.8). -/
def State.resultOf (s : State) (c : Nat) (x : PcIn) : PcResult :=
  let r := s.pc c
  let xe := s.xe c (s.pcRaw c x)
  let diag := r.diagNow || r.sel = 8 || r.sel = 9
  let base : Nat := flagWord [(r.convSns, 0), (r.convClamp, 1), (s.on Reg.PC_FSTAT_FALLBACK c, 2), (x.ovr, 4), (diag, 8),
    (r.phase = 1, 9), (s.on Reg.PC_FSTAT_OPEN c, 11), (s.on Reg.PC_FSTAT_SHORT c, 12),
    (r.sel = 0 && (s.rd Reg.PC_SYSOFF_X c != 0 || s.rd Reg.PC_SYSGAIN_G c != 0), 13)]
  if base &&& invalidMarks != 0 then ⟨base, xe, 0⟩
  else
    let v := xOf xe
    let out := decide (v < s.rdInt Reg.PC_RLIM_LO_X c) || decide (s.rdInt Reg.PC_RLIM_HI_X c < v)
    let pair := if r.alternates && r.phase = 1 then r.pair0 else none
    ⟨base + flagWord [(out, 5), (r.markAgain && r.sel = 0, 6), (r.markFirst, 7), (pair.isSome, 10)], xe,
      pair.elim 0 fun p => roundDiv (p + xe) 2⟩

/-- A result period ends: its result is delivered. -/
def State.deliver (c : Nat) (x : PcIn) (s : State) : State :=
  let r := s.pc c
  let y := s.resultOf c x
  let raw := s.pcRaw c x
  let s := (s.pcRecord c y).deratingResult c y.xe
  let s := if x.ovr then s.raise Reg.PC_CSTAT_OVR_SEEN c else s
  let s := if voltType r.type && !y.flags.testBit 0 && !y.flags.testBit 1 then s.pcHold c x else s
  let s := if y.flags.testBit 5 then s.rangeSeen c else s
  let s := if y.valid then s.validResult c raw y else s.setPc c { s.pc c with pair0 := none }
  let s := if r.sel = 2 then s.refCheck c y.xe else s
  let s := if r.diagNow && r.sel = 1 then s.judgeOff c r.gain raw else s
  if r.sel != 0 || r.diagNow then s
  else if y.valid || x.ovr then s.autoGain c y.xe.natAbs x.ovr
  else s.setPc c { s.pc c with upPrev := none }

/-! ### Changes at a conversion boundary (R195, R198 to R200, R208, R209, R221, R222) -/

/-- Fall-back may last: no write changed TYPE or set VEXC to 0 (R200). -/
def PcRt.fbStays (r : PcRt) (old : Nat) : Bool := r.type = old && voltType r.type && r.vexc != 0

/-- Fall-back is judged at a conversion boundary under the values now in force (R198, R200); `old`: TYPE before it. -/
def State.fallback (s : State) (c : Nat) (r : PcRt) (was : Bool) (old : Nat) : Bool :=
  if !r.fbStays old then false
  else if was then
    if r.get 0 Reg.PC_EXC_FBRET = 1 then r.snsGood < 64 else !r.fbExit
  else s.on Reg.PC_FSTAT_SNS_FAULT c && senseType r.type && r.get 0 Reg.PC_EXC_FBEN = 1 && r.iHeld.isSome &&
    r.snsDue && r.snsNow

/-- DIAGT in modulator clocks (R222): 0 acts as 1 s, more than 30 s as 30 s. -/
def PcRt.diagPeriod (r : PcRt) : Nat := max 1 (min 30 (r.get 5 Reg.PC_SEQ_DIAGT)) * 2048000

/-- Multiplexer input of a conversion that is no diagnostic insertion (R221). -/
def PcRt.planSel (r : PcRt) : Nat :=
  if r.get 5 Reg.PC_SEQ_MODE = 1 then r.slotSel r.slot else selOf (r.get 3 Reg.PC_DIAG_SEL)

/-- The sequencer's choice of the next input: whether it is a diagnostic insertion, and SEL (R221, R222). -/
def PcRt.nextSel (r : PcRt) : Bool × Nat :=
  if r.type != 0 && r.get 5 Reg.PC_SEQ_NODIAG = 0 && r.diagPeriod ≤ r.diagClk then
    let sel := match r.diagStep % 3 with
      | 0 => 1
      | 1 => 2
      | _ => if currType r.type then (if r.diagStep < 3 then 8 else 9) else 3
    (true, sel)
  else (false, r.planSel)

/-- The sequencer moves on when the slot has its valid results (R221). -/
def PcRt.stepSlot (r : PcRt) : PcRt :=
  if r.get 5 Reg.PC_SEQ_MODE = 0 then { r with slot := 0, count := 0 }
  else if r.slotConv r.slot ≤ r.count then
    { r with slot := if r.get 5 Reg.PC_SEQ_NSLOT ≤ r.slot then 0 else r.slot + 1, count := 0 }
  else r

/-- Gain in force for the next conversion (R217). -/
def PcRt.gainFor (r : PcRt) (diag : Bool) (sel : Nat) : Nat :=
  if diag then (if sel = 1 then r.again else 0)
  else if r.get 5 Reg.PC_SEQ_MODE = 1 && sel != 0 then 0
  else r.again

/-- Writes `w` come into force, then alternation, fall-back, input and gain; answers the channel, fall-back and whether the
filter restarts. `alt`: a conversion boundary, which alternates polarity or sources, enters and leaves fall-back, moves the
sequencer and leaves SLIM and CLWIN to the monitor sample; else an IMM write, which is no boundary (R207): it carries the
writes alone. `host`: a write came before it. DEDUCED: log entry 52. -/
def State.pcChange (s : State) (c : Nat) (w : List Word) (alt host : Bool) : PcRt × Bool × Bool :=
  let r0 := s.pc c
  let was := s.on Reg.PC_FSTAT_FALLBACK c
  let r := { r0 with force := if alt then monSettings w r0.force else w }
  let agOld := r0.get 4 Reg.PC_ADC_AGAIN
  let agNew := r.get 4 Reg.PC_ADC_AGAIN
  let again := if agNew = 0 || agOld = 0 then r.get 4 Reg.PC_ADC_GAIN else r0.gainNext.getD r0.again
  let off := r.type != r0.type || (r.vexc = 0) != (r0.vexc = 0)
  let r := { r with phase := if !r.alternates then 0 else if !r0.alternates then 0
                      else if alt then 1 - r0.phase else r0.phase,
                    again := again, gainNext := none, upPrev := if agNew = 0 || agOld = 0 then none else r0.upPrev,
                    markAgain := r0.markAgain || (again != r0.again && agNew = 1 && agOld = 1),
                    iHeld := if off then none else r0.iHeld, rLoad := if off then 0 else r0.rLoad,
                    markFirst := r0.markFirst || (r0.type = 0 && r.type != 0) }
  let fb := if alt then s.fallback c r was r0.type else was && r.fbStays r0.type
  let iFb := if fb && !was then (match r.iHeld with
      | some h => h.1 * r.vexc / h.2
      | none => 0)
    else if fb && r0.vexc != 0 then r0.iFb * r.vexc / r0.vexc else 0
  let r := { r with iFb := iFb, fbExit := !alt && fb && r0.fbExit, snsDue := !alt && r0.snsDue }
  let r := if alt then r.stepSlot else r
  let (diag, sel) := if alt then r.nextSel else (false, r.planSel)
  let g := r.gainFor diag sel
  let clk := if r.type = 0 then 0 else if diag then r.diagClk % r.diagPeriod else r.diagClk
  let r := { r with sel := sel, gain := g, diagNow := diag, diagClk := clk,
                    diagStep := if diag then (r.diagStep + 1) % 6 else r.diagStep }
  let restart := r.excitation fb != r0.excitation was || sel != r0.sel || g != r0.gain || r.fmode != r0.fmode
  let pairBroken := host || sel != r0.sel || g != r0.gain || fb != was || r0.sysNew.isSome
  (if pairBroken then { r with pair0 := none } else r, fb, restart)

/-- The changed channel is put in place and PC_BSTAT, PC_FSTAT, PC_IMEAS and PC_RLOAD follow; `pend`: a write of this clock still
waits. DEDUCED: log entry 52. -/
def State.pcTake (c : Nat) (a : PcRt × Bool × Bool) (pend : Bool) (s : State) : State :=
  let (r, fb, restart) := a
  let was := s.on Reg.PC_FSTAT_FALLBACK c
  let r := { r with discard := if restart then discards r.fmode else r.discard, convSns := false,
                    convClamp := s.rd Reg.PC_FSTAT_CLAMP_NOW c != 0 }
  let s := s.setPc c { r with sysNew := none }
  let s := match r.sysNew with
    | some (o, g) => (s.wr Reg.PC_SYSOFF_X c (BitVec.ofInt 24 o).toNat).wr Reg.PC_SYSGAIN_G c (BitVec.ofInt 24 g).toNat
    | none => s
  let s := (s.put Reg.PC_FSTAT_FALLBACK c fb).put Reg.PC_FSTAT_EXC_ON c (s.pcLive && (r.drive fb).driven)
  let s := if fb && !was then
      if s.on Reg.PC_FSTAT_FB_SEEN c then s else (s.raise Reg.PC_FSTAT_FB_SEEN c).pcFaultLog c
    else s
  let s := if r.iHeld.isNone then (s.wr Reg.PC_IMEAS_I c 0).wr Reg.PC_RLOAD_R c 0 else s
  ((((s.put Reg.PC_BSTAT_PHASE c (r.phase = 1)).wr Reg.PC_BSTAT_SEL_NOW c r.sel).wr Reg.PC_BSTAT_GAIN_NOW c r.gain).put
    Reg.PC_BSTAT_EXC_PEND c pend).put Reg.PC_BSTAT_DISCARD c (r.type != 0 && 0 < r.discard)

/-- A conversion boundary (R28, R207, R208): counted and stamped; the writes made before its clock come into force. -/
def State.conversionBoundary (c : Nat) (s : State) : State :=
  let s := (s.count Reg.PC_BSTAT_BCNT c 1).setPair Reg.PC_BTIME_LO_T c s.lany
  let s := { s with pcWas := s.pcWas.put c ⟨s.pc c, s.reg (Reg.PC_FSTAT_FALLBACK.addr c)⟩ }
  let now : Bool := (s.pc c).wroteAt = some s.tick
  s.pcTake c (s.pcChange c (s.old.pcWritten c) true (s.old.on Reg.PC_BSTAT_EXC_PEND c)) now

/-- FILTER_BOUNDARY (R206 to R209): a filter period ends; `x` is what the channel met in it. -/
def execFilterBoundary (c : PcId) (x : PcIn) (s : State) : Host.Outcome State Fault Refusal :=
  .next <|
    if !s.pcLive then s
    else
      let r := s.pc c
      let r := { r with diagClk := r.diagClk + ratioOf r.fmode, edge := s.tick }
      let s := s.setPc c r
      if r.type = 0 then s.conversionBoundary c
      else if s.on Reg.PC_CSTAT_ICAL_BUSY c then s
      else if 0 < r.discard then
        (s.setPc c { r with discard := r.discard - 1 }).put Reg.PC_BSTAT_DISCARD c (1 < r.discard)
      else (s.deliver c x).conversionBoundary c

/-! ### Writes and IMM (R218 to R220) -/

/-- A write waits for the next conversion boundary (R218). -/
def State.pcPend (c : Nat) (s : State) : State :=
  (s.put Reg.PC_BSTAT_EXC_PEND c true).setPc c { s.pc c with wroteAt := some s.tick }

/-- An IMM write in the clock of a conversion boundary, which has completed: it is applied at that boundary as a deferred write
(R220). DEDUCED: log entry 70. -/
def State.immLate (c : Nat) (w : PcWas) (s : State) : State :=
  let pend := s.on Reg.PC_BSTAT_EXC_PEND c
  let written := (s.old.pcWritten c).set 0 (s.reg (Reg.PC_EXC_VEXC.addr c))
  let was (f : Field) (s : State) : State := s.wr f c (f.read w.fstat)
  let s := (was Reg.PC_FSTAT_FB_SEEN (was Reg.PC_FSTAT_FALLBACK s)).setPc c { w.rt with wroteAt := (s.pc c).wroteAt }
  s.pcTake c (s.pcChange c written true true) pend

/-- Modulator clocks from the last filter boundary to now: 32 in 3,125 ticks. -/
def State.clocksCut (s : State) (r : PcRt) : Nat := min (ratioOf r.fmode) ((s.tick - r.edge) * 32 / 3125)

/-- A PC_EXC write with IMM applies at once, with every pending write, in manual mode; the running conversion is
delivered as one result marked ABORTED_EXC (R219). In sequence mode it waits. DEDUCED: log entry 52. -/
def State.excImm (c : Nat) (s : State) : State :=
  let r := s.pc c
  match s.pcWas.find c with
  | some w => if w.rt.get 5 Reg.PC_SEQ_MODE = 1 then s.pcPend c else s.immLate c w
  | none =>
    if r.get 5 Reg.PC_SEQ_MODE = 1 then s.pcPend c
    else
      let running := r.type != 0 && s.pcLive && !s.on Reg.PC_CSTAT_ICAL_BUSY c
      let s := if running then
          let fl := flagWord [(r.convSns, 0), (r.convClamp, 1), (s.on Reg.PC_FSTAT_FALLBACK c, 2), (true, 3),
            (r.diagNow || r.sel = 8 || r.sel = 9, 8), (r.phase = 1, 9), (s.on Reg.PC_FSTAT_OPEN c, 11),
            (s.on Reg.PC_FSTAT_SHORT c, 12)]
          (s.pcRecord c ⟨fl, 0, 0⟩).raise Reg.PC_CSTAT_ABX_SEEN c
        else s
      let r := s.pc c
      let s := s.setPc c { r with diagClk := if running then r.diagClk + s.clocksCut r else r.diagClk, edge := s.tick }
      let (r, fb, _) := s.pcChange c (s.pcWritten c) false true
      s.pcTake c ({ r with wroteAt := none }, fb, true) false

/-! ### WATCH (R399, R401) -/

/-- Every precision channel stops excitation and conversion. -/
def State.pcStopAll (s : State) : State :=
  s.each (List.range 24) fun c s => s.put Reg.PC_FSTAT_EXC_ON c false

/-- Conversions resume: the filter restarts and the first valid result carries FIRST (R209, Table 16.9). -/
def State.pcResumeAll (s : State) : State :=
  s.each (List.range 24) fun c s =>
    let r := s.pc c
    let s := s.setPc c { r with discard := discards r.fmode, markFirst := r.type != 0, convSns := false,
                                convClamp := s.rd Reg.PC_FSTAT_CLAMP_NOW c != 0, pair0 := none, upPrev := none,
                                edge := s.tick, snsBad := 0, openBad := 0, shortBad := 0 }
    (s.put Reg.PC_BSTAT_DISCARD c (r.type != 0)).put Reg.PC_FSTAT_EXC_ON c
      (r.drive (s.on Reg.PC_FSTAT_FALLBACK c)).driven

end Sys2Proof.Machine
end

