-- ==== Sys2Proof/Machine/StrandCmd.lean ====
section
/-! DEFINITION. What the command fields of STRAND, FOLD and GAPCAL do (R56, R89, R90, R98, R176 to R178). -/

namespace Sys2Proof.Machine

/-- The answer of an access. -/
def State.answer (a : AccCode) (s : State) : State := { s with acc := a }

/-- An ABORT record (Table 18.2): what kind of operation, strand or core, tag, and whether the abort acted. -/
def State.logAbort (kind who tag : Nat) (acted : Bool) (island : Nat) (s : State) : State :=
  s.logBy who 0x21 island kind who tag (if acted then 4 else 3)

/-! ### Strand aborts (R55 to R57) -/

/-- The stack in progress has reached its close instant (R54, R55). -/
def State.stackComplete (s : State) (i : Nat) : Bool :=
  match (s.strand i).shot with
  | some sh => sh.folded && sh.last && decide (s.shotEnd i sh ≤ s.tick)
  | none => false

/-- An abort finds its operation complete. -/
def State.strandLate (i tag : Nat) (s : State) : State :=
  ((s.raise Reg.STRAND_STAT_ABORT_LATE i).logAbort 0 i tag false 1).answer .abortLate

/-- An abort acts: the stack in progress is closed ABORTED, and the strand stops (R57). -/
def State.strandAbortNow (i tag : Nat) (s : State) : State :=
  let s := s.flush i
  let s := match (s.strand i).stack with
    | some k => s.cutStack i k
    | none => s
  let s := s.put Reg.STRAND_CTRL_RUN i false
  let s := (s.setStrand i { s.strand i with restartRun := false }).stopped i
  ((s.raise Reg.STRAND_STAT_ABORTED i).logAbort 0 i tag true 1).answer .aborted

/-- STRAND_CMD.ABORT = 1 takes effect (R55, R56). -/
def State.strandAbort (i : Nat) (any : Bool) (tag : Nat) (s : State) : State :=
  let rt := s.strand i
  if s.sstate i = 0 then s.strandLate i tag
  else match rt.stack with
    | some k =>
      if (any || k.num % 256 = tag) && !s.stackComplete i then s.strandAbortNow i tag else s.strandLate i tag
    | none =>
      if any && !(rt.lastClose.any fun c => c.2 = s.tick) then s.strandAbortNow i tag else s.strandLate i tag

/-! ### Fold commands (R89, R90, R98) -/

/-- SNAP = 1: pending while a stack is in progress, discarded otherwise (R90). -/
def State.snap (i : Nat) (s : State) : State :=
  let rt := s.strand i
  if rt.stack.isSome then (s.setStrand i { rt with snapAt := some s.tick }).put Reg.FOLD_SSTAT_SNAP_PEND i true else s

/-- RESTART = 1 (R89). -/
def State.restart (i : Nat) (s : State) : State :=
  (s.setStrand i { s.strand i with restartAt := some s.tick }).put Reg.FOLD_SSTAT_RESTART_PEND i true

/-- FOLD_REL (R98). -/
def State.relPlanes (ch : Nat) (a b : Bool) (s : State) : State :=
  let s := if a then s.release ch 0 else s
  if b then s.release ch 1 else s

/-! ### Gap-run abort (R176) -/

/-- GAPCAL_CMD.ABORT = 1 for strand `i`. -/
def State.gapAbortCmd (i : Nat) (s : State) : State :=
  let runs := match (s.strand i).gapRun with
    | some t => decide (s.tick < s.gapCommitAt i t)
    | none => false
  if runs then (((s.gapAbort i).raise Reg.GAPCAL_STAT_ABORTED 0).logAbort 1 i 0 true 1).answer .aborted
  else ((s.raise Reg.GAPCAL_STAT_ABORT_LATE 0).logAbort 1 i 0 false 1).answer .abortLate

/-! ### Held values (R177, R178) -/

/-- Channel and code of the window; none: the window reads 0 and discards writes. -/
def State.vsel (s : State) : Option (Nat × Nat) :=
  let ch := s.rd Reg.GAPCAL_VSEL_CHAN 0
  if 192 ≤ ch then none else some (ch, min 12 (s.rd Reg.GAPCAL_VSEL_CODE 0))

/-- A commit due in the present clock comes before a written value (R177): that of the gap run of the channel's strand, or of
the slot of the start calibration. -/
def State.dueCommit (ch : Nat) (s : State) : State :=
  let s := match s.strandOf ch with
    | some i => s.gapCommit i
    | none => s
  match s.boot.startCal with
  | some sc =>
    if sc.slot.any fun x => x.1 + 1248 = s.tick then s.startJudges sc.pass sc.chans none false else s
  | none => s

/-- The skew of an IX channel is always 0 (Table 7.1). DEDUCED: log entry 25. -/
def State.ixSkew (ch : Nat) (s : State) : State :=
  if s.rd Reg.FC_HITCH_ROLE ch = 8 then
    let c := s.chan ch
    s.setChan ch { c with hSkew := 0, wSkew := 0, deferred := c.deferred.filter fun d => d.1 != 13 }
  else s

/-- A held value of a channel is written: code 0 to 12 of the offsets or gain corrections, code 13 the skew. The working
value follows at once, or where the channel's strand runs, at its next launch. -/
def State.heldWrite (ch code : Nat) (gain : Bool) (v : Int) (s : State) : State :=
  let s := s.dueCommit ch
  let c := s.chan ch
  let c := if code = 13 then { c with hSkew := v } else if gain then { c with hGain := c.hGain.set code v }
    else { c with hOff := c.hOff.set code v }
  let c := { c with deferred := c.deferred ++ [(code, gain, v)] }
  let s := s.setChan ch c
  if (s.strandOf ch).any s.runs then s else s.applyDeferred ch

/-- A write of GAPCAL_VOFF (0), GAPCAL_VGAIN (1) or GAPCAL_VSKEW (2) HELD that the lock lets through. -/
def State.windowWrite (which : Nat) (v : Word) (s : State) : State :=
  match s.vsel with
  | none => s
  | some (ch, code) =>
    match which with
    | 0 => s.heldWrite ch code false (wrapInt 16 v.toNat)
    | 1 => s.heldWrite ch code true (wrapInt 24 v.toNat)
    | 2 => if s.rd Reg.FC_HITCH_ROLE ch = 8 then s else s.heldWrite ch 13 false (wrapInt 16 v.toNat)
    | _ => s

end Sys2Proof.Machine
end

