-- ==== Sys2Proof/Machine/SafetyMon.lean ====
section
/-! DEFINITION. The safety monitor: its pins, its reaction to a fault, clearing, SAFE_STOP, sweep, clocks and rails
(chapter 17). -/

namespace Sys2Proof.Machine

/-- The conditions of R415 for SAFE_N high. -/
def State.safeHigh (s : State) : Bool := 5 ≤ s.mode && s.mode ≤ 8 && s.rd Reg.SAFETY_FAULT_F 0 = 0

/-- SAFE_N and SAFE_HB follow the state (R415, R416); SAFE_N falling from high sets SAFE of HOSTLINK_EVT.
DEDUCED: log entry 59. -/
def State.driveSafe (s : State) : State :=
  let was := s.safety.safeN
  if s.mode < 3 then
    { s with safety := { s.safety with safeN := .hiZ, safeHb := .hiZ } }
  else
    let hi := s.safeHigh
    let hb := if s.mode ≤ 4 || s.safety.safeHb = .hiZ then Drive.low else s.safety.safeHb
    let s := { s with safety := { s.safety with safeN := if hi then .high else .low, safeHb := hb } }
    let s := (s.put Reg.SAFETY_STAT_SAFE 0 (!hi)).put Reg.SAFETY_STAT_HB 0 hi
    if was = .high && !hi then s.event 3 else s

/-- The operating state changes, and the safety pins follow it (R376, R415). -/
def State.enter (new : Nat) (s : State) : State := (s.goto new).driveSafe

/-! ### SAFE_STOP (R419) -/

/-- A port stops: no launch, gates inactive, setpoint 0. DEDUCED: log entry 60. -/
def State.portHalt (p : Nat) (s : State) : State :=
  ((s.setPort p { s.port p with gate := [] }).portIdle p).wr Reg.PRB_SETNOW_SET p 0

/-- A start calibration in progress stops; accepted values are kept. -/
def State.dropStartCal (s : State) : State :=
  match s.boot.startCal with
  | none => s
  | some sc =>
    let s := { s with boot := { s.boot with startCal := none } }
    s.each sc.chans fun ch s =>
      ((s.setChan ch { s.chan ch with run := none, forceOn := false }).dropInj ch).repower ch

/-- A strand is stopped as if by an abort with ANY = 1: a stack whose close instant has passed is complete.
DEDUCED: log entry 60. -/
def State.safeStopStrand (i : Nat) (s : State) : State :=
  if s.sstate i = 0 then s
  else if s.stackComplete i then
    let s := (s.flush i).presence i
    let s := match (s.strand i).stack with
      | some k => s.closeStack i k
      | none => s
    ((s.put Reg.STRAND_CTRL_RUN i false).setStrand i { s.strand i with restartRun := false }).stopped i
  else s.strandAbortNow i 0

/-- Entry to SAFE_STOP. DEDUCED: log entries 59 and 60. -/
def State.enterSafeStop (s : State) : State :=
  if s.mode = 9 then s
  else
    let watch := s.inWatch
    let acc := s.acc
    let s := (s.enter 9).put Reg.SAFETY_STAT_STOP 0 true
    let s := s.each (List.range 64) fun i s =>
      (if (s.strand i).gapRun.isSome then s.gapAbort i else s).safeStopStrand i
    let s := s.each (List.range 16) fun p s => s.portHalt p
    let s := s.dropStartCal
    let s := { s with acc := acc, boot := { s.boot with waking := false } }
    let s := (s.put Reg.BOOT_STAT_WATCH_PEND 0 false).put Reg.BOOT_STAT_WAKE_PEND 0 false
    if watch then (s.each (List.range 192) fun ch s => s.repower ch).pcResumeAll else s

/-! ### Faults (R406, R407, R417, R418) -/

/-- Does fault `k` lead to SAFE_STOP (Table 17.1)? -/
def State.stops (s : State) (k : Nat) : Bool := k < 4 || s.bit Reg.SAFETY_STOPEN_EN 0 (k - 4)

/-- The monitor reacts to fault `k` whose source set at lanyard time `t` (R407). DEDUCED: log entry 59. -/
def State.react (k : Nat) (t : Time) (s : State) : State :=
  let f := s.rd Reg.SAFETY_FAULT_F 0
  if s.mode < 3 || s.bit Reg.SAFETY_FAULT_F 0 k then s
  else
    let s := s.raiseBit Reg.SAFETY_FAULT_F 0 k
    let s := s.log_ 0x10 18 true (k + 1) (s.rd Reg.SAFETY_FAULT_F 0) 0 0 t
    let s := if f = 0 then
        ((s.wr Reg.SAFETY_STAT_FIRST 0 (k + 1)).setPair Reg.SAFETY_FTIME_LO_T 0 t).askFreeze 1 else s
    let s := s.driveSafe.plainStatus t 5 0xFF (k + 1)
    if s.stops k && 5 ≤ s.mode && !s.overruled 3 then (s.enterSafeStop).governed 3 else s

/-- The next source to react to: of those of the tick of the oldest, the lowest bit (R418). -/
def nextFault : List (Nat × Time) → Option (Nat × Time)
  | [] => none
  | x :: rest => some ((rest.filter fun y => y.2.toNat / 256 = x.2.toNat / 256).foldl (fun a b => if b.1 < a.1 then b else a) x)

/-- SAFETY_FAULT (R407): the monitor reacts to a source that has become set. DEDUCED: log entry 59. -/
def execSafetyFault (s : State) : Host.Outcome State Fault Refusal :=
  .next <|
    match nextFault s.safety.due with
    | none => s
    | some x => ({ s with safety := { s.safety with due := s.safety.due.erase x } }).react x.1 x.2

/-- The device is the head of its ring (R349); one that is not on a ring is its own. -/
def State.isHead (s : State) : Bool := s.on Reg.HAWSER_CTRL_HEAD 0 || !s.on Reg.HAWSER_CTRL_EN 0

/-- A head that times from LY_REF (R366). -/
def State.needsRef (s : State) : Bool := s.isHead && !s.on Reg.LANYARD_CTRL_LOCALREF 0

/-- The source of fault `k` reads set now (Table 17.1, R408, R417). -/
def State.sourceSet (s : State) (k : Nat) : Bool :=
  match k with
  | 1 => s.safety.clockBad || (s.safety.refBad && s.needsRef)
  | 2 => s.safety.railBad
  | 4 => s.on Reg.FOLD_ECC_LAST_VALID 0
  | 5 => (List.range 12).any fun c => s.on Reg.CORE_STAT_UE c ||
      (s.on Reg.CORE_STAT_FAULT c && s.rd Reg.CORE_STAT_FCODE c = 2)
  | 6 => (List.range 12).any fun c => s.on Reg.CORE_STAT_WDOG c
  | 7 => (List.range 64).any fun i => s.gnq i && s.strandMasked i
  | 8 => (List.range 192).any fun ch => s.on Reg.GAPCAL_CHSTAT_CAL_REJECTED ch && (s.strandOf ch).any s.strandMasked
  | 9 => s.on Reg.SAFETY_CREJ_VALID 0
  | 10 => (List.range 16).any fun p => s.on Reg.PRB_STAT_LOST p && s.strandMasked (s.rd Reg.PRB_STAT_LOST_STRAND p)
  | 11 => (List.range 24).any fun c => s.pcMasked c && (s.on Reg.PC_FSTAT_OPEN c || s.on Reg.PC_FSTAT_SHORT c ||
      s.on Reg.PC_CSTAT_RANGE_SEEN c)
  | 12 => (List.range 24).any fun c => s.on Reg.PC_CSTAT_REF_DRIFT c
  | 13 => (List.range 24).any fun c => s.pcMasked c && s.bit Reg.SAFETY_PCALREJ_C 0 c
  | 14 => s.on Reg.LANYARD_STAT_LOST 0 && s.on Reg.HAWSER_CTRL_EN 0
  | 15 => false
  | _ => true

/-- A fault bit clears when its source reads clear (R417) and it was not raised in the same clock (R418), with a SET 0 record. -/
def State.clearFault (k : Nat) (s : State) : State :=
  if s.bit Reg.SAFETY_FAULT_F 0 k && s.raisedIn Reg.SAFETY_FAULT_F 0 / 2 ^ k % 2 = 0 && !s.sourceSet k then
    let s := s.putBit Reg.SAFETY_FAULT_F 0 k false
    s.log_ 0x10 18 false (k + 1) (s.rd Reg.SAFETY_FAULT_F 0) 0 0 s.lany
  else s

/-- A write of `w` to SAFETY_FAULT (R417). -/
def State.clearFaults (w : Word) (s : State) : State :=
  let was := s.rd Reg.SAFETY_FAULT_F 0
  let s := s.each ((List.range 16).filter fun k => w.getLsbD k) fun k s => s.clearFault k
  if was != 0 && s.rd Reg.SAFETY_FAULT_F 0 = 0 then (s.wr Reg.SAFETY_STAT_FIRST 0 0).driveSafe else s

/-- SAFE_HB_TOGGLE (R416): the level changes while SAFE_N is high. -/
def execSafeHbToggle (s : State) : Host.Outcome State Fault Refusal :=
  .next <|
    if s.safety.safeN = .high then
      { s with safety := { s.safety with safeHb := if s.safety.safeHb = .high then .low else .high } }
    else s

/-- CONFIG_SWEEP_PASS (R411): a pass ends; `bad`: a covered field differs from its signature. -/
def execConfigSweepPass (bad : Bool) (s : State) : Host.Outcome State Fault Refusal :=
  .next <|
    if s.mode < 3 then s
    else
      let s := s.count Reg.SAFETY_SWEEP_PASS 0 1
      if bad then s.source 3 else s

/-- CLOCK_FAULT (R412): a monitored clock stops or leaves its band; `lasts`: it still does (R417). -/
def execClockFault (lasts : Bool) (s : State) : Host.Outcome State Fault Refusal :=
  .next <|
    if s.mode < 3 then s
    else ({ s with safety := { s.safety with clockBad := lasts } }).source 1

/-- RAIL_FAULT (R413): a rail leaves its window; `lasts`: it is still outside (R417). -/
def execRailFault (lasts : Bool) (s : State) : Host.Outcome State Fault Refusal :=
  .next <|
    if s.mode < 3 then s
    else ({ s with safety := { s.safety with railBad := lasts } }).source 2

end Sys2Proof.Machine
end

