-- ==== Sys2Proof/Machine/Modes.lean ====
section
/-! DEFINITION. Commands of the operating states: RUN, HOLD, RESUME, WATCH, WATCH entry and its end (chapter 16). -/

namespace Sys2Proof.Machine

/-- A command was ignored (R391, R395, R396, R398). DEDUCED: log entry 51. -/
def State.reject (s : State) : State := s.raise Reg.BOOT_STAT_CMD_REJ 0

/-- BOOT_STAT.STOPPING is 1 until every strand is STOPPED (R395). -/
def State.showStopping (s : State) : State :=
  s.put Reg.BOOT_STAT_STOPPING 0 ((List.range 64).any s.runs)

/-- Every strand that is WAITING or RUNNING is stopped at its stack's close (R395). -/
def State.holdAll (s : State) : State :=
  (s.each (List.range 64) fun i s => s.holdStrand i).showStopping

/-- RUNNING is entered: start ticks of strands that wait are fixed (R390). -/
def State.enterRunning (s : State) : State :=
  (s.enter 6).each (List.range 64) fun i s =>
    if s.sstate i = 1 && (s.strand i).start.isNone then s.fixStart i else s

/-- A cause that ends WATCH: the first one is recorded, of those of one clock the lowest (R400). -/
def State.wakeBy (cause : Nat) (s : State) : State :=
  if s.mode != 7 then s
  else if !s.boot.waking then
    ({ s with boot := { s.boot with waking := true } }).wr Reg.BOOT_STAT_WCAUSE 0 cause
  else if s.old.rd Reg.BOOT_STAT_WCAUSE 0 = 0 && cause < s.rd Reg.BOOT_STAT_WCAUSE 0 then s.wr Reg.BOOT_STAT_WCAUSE 0 cause
  else s

/-- BOOT_CMD.RUN (R391). -/
def State.cmdRun (s : State) : State :=
  if s.mode = 5 then s.put Reg.BOOT_STAT_RUN_PEND 0 true else s.reject

/-- BOOT_CMD.HOLD (R395, R398). -/
def State.cmdHold (s : State) : State :=
  let pend := s.on Reg.BOOT_STAT_WATCH_PEND 0
  if s.overruled 13 then s
  else if s.mode = 6 then (((s.put Reg.BOOT_STAT_WATCH_PEND 0 false).enter 8).holdAll).governed 13
  else if s.mode = 8 && pend then s.put Reg.BOOT_STAT_WATCH_PEND 0 false
  else s.reject

/-- RESUME or WAKE while WATCH_PEND stands, and RESUME in HELD (R396, R398). -/
def State.resume (s : State) : State :=
  ((s.put Reg.BOOT_STAT_WATCH_PEND 0 false).enterRunning.resumeAll).governed 14

/-- BOOT_CMD.RESUME (R396, R398, R400). -/
def State.cmdResume (s : State) : State :=
  if s.overruled 14 then s
  else if s.mode = 8 || (s.mode = 6 && s.on Reg.BOOT_STAT_WATCH_PEND 0) then s.resume
  else if s.mode = 7 then s.wakeBy 2
  else s.reject

/-- The Tilvar message WAKE (R335, R398, R400). DEDUCED: log entry 51. -/
def State.cmdWake (s : State) : State :=
  if s.overruled 14 then s
  else if s.mode = 7 then s.wakeBy 2
  else if (s.mode = 6 || s.mode = 8) && s.on Reg.BOOT_STAT_WATCH_PEND 0 then s.resume
  else s

/-- BOOT_CMD.WATCH (R398). -/
def State.cmdWatch (s : State) : State :=
  if s.overruled 15 then s
  else if s.mode = 6 || s.mode = 8 then (s.put Reg.BOOT_STAT_WATCH_PEND 0 true).holdAll else s.reject

/-! ### Entry to WATCH (R398, R399) and its end (R400, R401) -/

/-- The drain conditions of R398. DEDUCED: log entry 51. -/
def State.drained (s : State) : Bool :=
  (List.range 64).all (fun i => !s.runs i) &&
  (List.range 12).all (fun c => s.rd Reg.CORE_STAT_STATE c ≤ 1 && (s.core c).jobs = []) &&
  s.link.txq = []

/-- The window monitor of a channel at entry to WATCH: it stops unless it is SAMPLED (R241). -/
def State.monWatch (ch : Nat) (s : State) : State :=
  if s.rd Reg.WMON_CTRL_MODE ch = 3 then s else s.setChan ch { s.chan ch with mon := .off }

/-- WATCH_ENTRY (R398, R399): entered when its conditions hold. -/
def execWatchEntry (s : State) : Host.Outcome State Fault Refusal :=
  .next <|
    if (s.mode = 6 || s.mode = 8) && s.on Reg.BOOT_STAT_WATCH_PEND 0 && s.drained && !s.overruled 15 then
      let s := ((s.enter 7).put Reg.BOOT_STAT_WATCH_PEND 0 false).wr Reg.BOOT_STAT_WCAUSE 0 0
      let s := s.each (List.range 192) fun ch s => (s.repower ch).monWatch ch
      let s := s.each (List.range 16) fun p s =>
        (s.setPort p { s.port p with gate := [] }).wr Reg.PRB_SETNOW_SET p 0
      (s.pcStopAll).governed 15
    else s

/-- WATCH_TIMER_EXPIRY (R400). -/
def execWatchTimerExpiry (s : State) : Host.Outcome State Fault Refusal :=
  .next (if s.rd Reg.BOOT_WTIMER_SEC 0 = 0 then s else s.wakeBy 3)

/-- A channel returns to the power state R80 selects, settled (R82), and a monitor that is not SAMPLED starts (R239). -/
def State.chanWake (ch : Nat) (s : State) : State :=
  let new := s.powerTarget ch
  let s := (s.wr Reg.FC_STAT_PSTATE ch new).put Reg.FC_STAT_READY ch (new = 3)
  let s := s.setChan ch { s.chan ch with settleAt := none }
  if s.on Reg.WMON_CTRL_EN ch && s.rd Reg.WMON_CTRL_MODE ch != 3 then s.monWait ch else s

/-- The first three steps of Table 16.9: the islands are ungated, the channels and the precision channels resume. They are done
once, however long WAKE_PEND then stands. -/
def State.ungate (s : State) : State :=
  if s.on Reg.BOOT_STAT_WAKE_PEND 0 then s
  else ((s.put Reg.BOOT_STAT_WAKE_PEND 0 true).each (List.range 192) fun ch s => s.chanWake ch).pcResumeAll

/-- WAKE_COMPLETE (R401): step 4 of Table 16.9: RUNNING is entered, or WAKE_PEND stands while the lanyard is not locked on a
ring. DEDUCED: log entry 51. -/
def execWakeComplete (s : State) : Host.Outcome State Fault Refusal :=
  .next <|
    if !(s.mode = 7 && s.boot.waking) then s
    else
      let s := s.ungate
      if s.on Reg.HAWSER_CTRL_EN 0 && !s.on Reg.LANYARD_STAT_LOCKED 0 then s
      else
        let s := ({ s with boot := { s.boot with waking := false } }).put Reg.BOOT_STAT_WAKE_PEND 0 false
        (s.enterRunning.each (List.range 16) fun p s =>
          s.setPort p { s.port p with lastLaunch := none, idleFrom := s.tick }).resumeAll

end Sys2Proof.Machine
end

