-- ==== Sys2Proof/Machine/Monitors.lean ====
section
/-! DEFINITION. Window monitors: start, first decision, strobes, routing of edges, EVENT messages (chapter 10, R345). -/

namespace Sys2Proof.Machine

/-! ### EVENT messages of FORM 0 (R246, R345) -/

/-- A monitor event record (Table 10.3). -/
def MonRec.bytes (r : MonRec) : List Byte :=
  leBytes 8 r.t.toNat ++ leBytes 1 r.chan ++ leBytes 1 r.edge ++ leBytes 1 r.supp ++ leBytes 1 r.strand
    ++ leBytes 4 r.capt

/-- A FORM 0 EVENT message of the oldest records, at most 90 (R345, Table 13.11): VERSION, NREC, FORM. -/
def State.formEvent (s : State) : State :=
  let rs := s.monq.take 90
  if rs = [] then s
  else
    let head := leBytes 2 1 ++ leBytes 2 rs.length ++ leBytes 1 0 ++ leBytes 3 0
    (({ s with monq := s.monq.drop 90 }).queueMsg ⟨5, head ++ rs.flatMap MonRec.bytes⟩).event 0

/-- A FORM 0 EVENT message of this device waits to leave. DEDUCED: log entry 48. -/
def State.eventWaits (s : State) : Bool := s.link.txq.any fun m => m.ty = 5 && m.isOwn

/-- Messages are formed while 90 records wait and no earlier message does. DEDUCED: log entry 48. -/
def State.formEvents (s : State) : State := if 90 ≤ s.monq.length && !s.eventWaits then s.formEvent else s

/-- A record joins the queue of 512 (R246). -/
def State.queueMon (r : MonRec) (s : State) : State :=
  if 512 ≤ s.monq.length then (s.bump Reg.WMON_EVLOST_N 0 1).event 5
  else ({ s with monq := s.monq ++ [r] }).formEvents

/-- EVENT_MESSAGE_TIMEOUT (R345): 1 ms after its oldest record a message leaves with the records it holds. -/
def execEventMessageTimeout (s : State) : Host.Outcome State Fault Refusal :=
  .next (if s.eventWaits then s else s.formEvent)

/-! ### Start and first decision (R239, R240) -/

/-- The PGA of a monitor that waits for its start is ready. -/
def State.monPgaReady (s : State) (ch : Nat) : Bool :=
  if s.inWatch then s.rd Reg.WMON_CTRL_MODE ch = 3 && s.rd Reg.FC_CTRL_PWR ch != 2
  else 2 ≤ s.rd Reg.FC_STAT_PSTATE ch && ((s.chan ch).settleAt.all fun t => decide (t ≤ s.tick))

/-- MONITOR_START (R239, R240). -/
def execMonitorStart (ch : ChanId) (s : State) : Host.Outcome State Fault Refusal :=
  .next <|
    let c := s.chan ch
    if s.on Reg.WMON_CTRL_EN ch && c.mon = .wait && s.monPgaReady ch then
      let s := s.setChan ch { c with mon := .first, upper := { c.upper with win := [] },
                                     lower := { c.lower with win := [] }, strobe := none }
      ((s.wr Reg.WMON_STAT_LATCH ch 0).put Reg.WMON_STAT_CAPV ch false).put Reg.WMON_STAT_INIT ch false
    else s

/-- The majority of a first-decision window (R240). DEDUCED: log entry 53. -/
def Comparator.first (c : Comparator) (m : Nat) : Comparator := { c with f := decide (m < 2 * ones c.win) }

/-- The first decision is made: no edge (R240). -/
def State.monFirst (ch : Nat) (s : State) : State :=
  let c := s.chan ch
  let m := s.monM ch
  (s.setChan ch { c with mon := .on, upper := c.upper.first m, lower := c.lower.first m, strobe := none }).put
    Reg.WMON_STAT_INIT ch true

/-- A strobe has made its M decisions (R232). -/
def State.strobeOver (s : State) (ch : Nat) : Bool :=
  (s.chan ch).strobe.any fun t => decide (t + 2000 + s.monM ch ≤ s.tick)

/-- MONITOR_FIRST_DECISION (R240). -/
def execMonitorFirstDecision (ch : ChanId) (s : State) : Host.Outcome State Fault Refusal :=
  .next <|
    let c := s.chan ch
    let full := if s.rd Reg.WMON_CTRL_MODE ch = 3 then s.strobeOver ch else decide (s.monM ch ≤ c.upper.win.length)
    if s.on Reg.WMON_CTRL_EN ch && c.mon = .first && full then s.monFirst ch else s

/-! ### Strobes (R232, R236) -/

/-- Ticks between strobes. -/
def State.strobePeriod (s : State) (ch : Nat) : Nat := 2 ^ min 10 (s.rd Reg.WMON_CTRL_SPER ch) * 20000

/-- MONITOR_STROBE_START (R232): its period after the last one, the window holds the present strobe only. -/
def execMonitorStrobeStart (ch : ChanId) (s : State) : Host.Outcome State Fault Refusal :=
  .next <|
    let c := s.chan ch
    let due := c.lastStrobe.all fun t => decide (t + s.strobePeriod ch ≤ s.tick)
    if s.on Reg.WMON_CTRL_EN ch && s.rd Reg.WMON_CTRL_MODE ch = 3 && (c.mon = .first || c.mon = .on)
        && (if s.inWatch then s.rd Reg.FC_CTRL_PWR ch != 2 else s.pgaOn ch) && c.strobe = none && due then
      s.setChan ch { c with strobe := some s.tick, lastStrobe := some s.tick, upper := { c.upper with win := [] },
                            lower := { c.lower with win := [] } }
    else s

/-- MONITOR_STROBE_END (R232, R236): the filtered states are updated once, after the strobe's last tick; an edge carries
the tick of the decision that made the test hold. -/
def execMonitorStrobeEnd (ch : ChanId) (s : State) : Host.Outcome State Fault Refusal :=
  .next <|
    let c := s.chan ch
    match c.strobe with
    | some _ =>
      if !s.strobeOver ch then s
      else if c.mon = .first then s.monFirst ch
      else if c.mon = .on then (s.setChan ch { c with strobe := none }).monSettle ch none c.strobeRoute
      else s.setChan ch { c with strobe := none }
    | none => s

/-! ### Routing (R242 to R249) -/

/-- Lanyard time of tick `e`, low 8 bits zero (R31); it counts modulo 2⁶⁴ (R8). -/
def State.stampAt (s : State) (e : Nat) : Time :=
  let ago : Nat := if s.on Reg.LANYARD_STAT_RUNNING 0 then s.tick - e else 0
  ((s.lany >>> 8) - BitVec.ofNat 64 ago) <<< 8

/-- Ticks from the strand's last launch to an edge at tick `e` (R245). -/
def State.captOf (s : State) (ch e : Nat) : Nat :=
  match s.strandOf ch with
  | none => 0xFFFFF
  | some i =>
    let rt := s.strand i
    let l := if !rt.launched then none else if rt.launchTick ≤ e then some rt.launchTick else rt.prevLaunch
    match l with
    | some t => if t ≤ e && e - t ≤ 0xFFFFE then e - t else 0xFFFFF
    | none => 0xFFFFF

/-- Timer capture of an edge (R245). -/
def State.monCapture (ch : Nat) (e : MonEdge) (s : State) : State :=
  if Reg.WMON_ROUTE_CAP.read e.route = 1 && !s.on Reg.WMON_STAT_CAPV ch then
    ((s.wr Reg.WMON_STAT_CAPT ch (s.captOf ch e.tick)).wr Reg.WMON_STAT_CEDGE ch e.kind).raise Reg.WMON_STAT_CAPV ch
  else s

/-- Event record of an edge, under the rate limit (R246). -/
def State.monEvent (ch : Nat) (e : MonEdge) (s : State) : State :=
  if Reg.WMON_ROUTE_EVT.read e.route != 1 then s
  else
    let c := s.chan ch
    let gap := 2 ^ Reg.WMON_ROUTE_EVRL.read e.route * 200
    if c.evTick.any fun t => decide (e.tick < t + gap) then s.setChan ch { c with supp := min 255 (c.supp + 1) }
    else
      let r : MonRec := ⟨s.stampAt e.tick, ch, e.kind + (if s.mode = 7 then 4 else 0), c.supp,
        (s.strandOf ch).getD 0xFF, s.captOf ch e.tick⟩
      (s.setChan ch { c with evTick := some e.tick, supp := 0 }).queueMon r

/-- Wake request of an edge (R248). DEDUCED: log entry 51. -/
def State.monWake (ch : Nat) (e : MonEdge) (s : State) : State :=
  if s.mode = 7 && Reg.WMON_ROUTE_WAKE.read e.route = 1 && s.rd Reg.WMON_CTRL_MODE ch = 3 then
    let s := if s.on Reg.WMON_WAKE_VALID 0 then s
      else ((s.wr Reg.WMON_WAKE_CHAN 0 ch).wr Reg.WMON_WAKE_EDGE 0 e.kind).raise Reg.WMON_WAKE_VALID 0
    s.wakeBy 1
  else s

/-- A filtered-state change is routed when its type is selected (Table 10.2), under WMON_ROUTE as its tick had it. -/
def State.monRoute (ch : Nat) (e : MonEdge) (s : State) : State :=
  if Reg.WMON_ROUTE_EDGES.read e.route / 2 ^ e.kind % 2 != 1 then s
  else ((((s.raiseBit Reg.WMON_STAT_LATCH ch e.kind).monCapture ch e).monEvent ch e).monWake ch e)

/-- MONITOR_EDGE (R244): the oldest change that waits, 4 ticks after its tick. -/
def execMonitorEdge (ch : ChanId) (s : State) : Host.Outcome State Fault Refusal :=
  .next <|
    let c := s.chan ch
    match c.edges with
    | e :: rest => if e.tick + 4 ≤ s.tick then (s.setChan ch { c with edges := rest }).monRoute ch e else s
    | [] => s

/-- The monitor interrupt line of core `c` (R247). -/
def State.monLine (s : State) (c : Nat) : Bool :=
  (List.range 192).any fun ch =>
    s.on Reg.WMON_ROUTE_IRQ ch && s.rd Reg.WMON_ROUTE_CORE ch = c &&
      s.rd Reg.WMON_STAT_LATCH ch &&& s.rd Reg.WMON_ROUTE_EDGES ch != 0

end Sys2Proof.Machine
end

