-- ==== Sys2Proof/Machine/LogLine.lean ====
section
/-! DEFINITION. Log line: freezes, frozen-log slots, LOGREQ (R431 to R437), and the die temperatures (R449). -/

namespace Sys2Proof.Machine

/-! ### Slots -/

/-- LOG_STAT.SLOTV, NEWSLOT and LOG_FSEQ follow the slots (R436). -/
def State.showSlots (s : State) : State :=
  let v := (List.range 4).filter fun k => (nth s.mram.slots k none).isSome
  let fs (k : Nat) : Nat := (nth s.mram.slots k none).elim 0 (·.fseq)
  let new := v.foldl (fun b k => if fs b < fs k || !v.contains b then k else b) 0
  let s := s.wr Reg.LOG_STAT_SLOTV 0 ((v.map fun k => 2 ^ k).foldl (· + ·) 0)
  if v = [] then s else (s.wr Reg.LOG_STAT_NEWSLOT 0 new).wr Reg.LOG_FSEQ_N 0 (fs new)

/-- Slot `k` replaced. -/
def State.setSlot (k : Nat) (x : Option Slot) (s : State) : State :=
  ({ s with mram := { s.mram with slots := s.mram.slots.set k x } }).showSlots

/-- The slot a freeze writes (R434): an invalid one first, then the lowest FSEQ, the lower number on a tie.
DEDUCED: log entry 58. -/
def pickSlot (slots : List (Option Slot)) : Nat :=
  let key (k : Nat) : Nat := match nth slots k none with
    | none => 0
    | some x => x.fseq + 1
  (List.range 4).foldl (fun b k => if key k < key b then k else b) 0

/-! ### Freezes (R431 to R434) -/

/-- A FREEZE record (Table 18.2). DEDUCED: log entry 58. -/
def State.freezeRecord (f : Freeze) (abandoned : Bool) (s : State) : State :=
  let b := f.begun.getD (0, 0)
  s.logNow 0x90 0 f.cause b.1 b.2 (if abandoned then 1 else 0)

/-- FREEZE_BEGIN (R433, R434): the freeze that waits begins, unless a commit runs. DEDUCED: log entry 58. -/
def execFreezeBegin (s : State) : Host.Outcome State Fault Refusal :=
  .next <|
    match s.log.cur with
    | some f =>
      if f.begun.isSome || (s.commit.isSome && f.cause &&& 2 = 0) then s
      else
        let k := f.useSlot.getD (pickSlot s.mram.slots)
        let n := s.mram.fseq + 1
        let s := { s with mram := s.mram.setCtr { s.mram.ctr with fseq := n },
                          log := { s.log with cur := some { f with begun := some (k, n) } } }
        s.setSlot k none
    | none => s

/-- Protection ends: the queued freeze comes next, and a RECLOST record gives the records dropped (R432). -/
def State.endProtection (s : State) : State :=
  let n := s.log.dropped
  let s := ({ s with log := { s.log with cur := s.log.queued, queued := none, dropped := 0 } }).freezeFlags
  if n = 0 then s else s.logNow 0x91 0 n 0 0 0

/-- FREEZE_END (R433): the records and the slot header have been written. DEDUCED: log entry 58. -/
def execFreezeEnd (s : State) : Host.Outcome State Fault Refusal :=
  .next <|
    match s.log.cur with
    | some f =>
      match f.begun with
      | some (k, n) =>
        let recs := s.log.ring.filter fun r => f.covers r.lseq
        let t := ((recs.find? fun r => r.lseq = f.point).map (·.t)).getD 0
        let s := s.setSlot k (some ⟨n, s.mram.incarn, f.cause, t, f.point, recs⟩)
        (s.endProtection).freezeRecord f false
      | none => s
    | none => s

/-- LOG_CMD.FREEZE = 1 (R431). -/
def State.freezeCmd (s : State) : State := (s.logNow 0x90 0 4 0 0 2).askFreeze 4

/-- A brown-out (R431, R433): the HOLDUP record is the freeze point, and running and queued freezes are abandoned.
DEDUCED: log entry 58. -/
def State.brownOut (s : State) : State :=
  let s := s.logNow 5 0 (s.reg (Reg.POWER_STAT_HOLDUP.addr 0)).toNat 0 0 0
  let point := s.log.next - 1
  let old := s.log.cur.toList ++ s.log.queued.toList
  let cause := old.foldl (fun c f => c ||| f.cause) 2
  let slot := s.log.cur.bind fun f => f.begun.map (·.1)
  let s := ({ s with log := { s.log with cur := some ⟨point, cause, 512, none, slot⟩, queued := none } }).freezeFlags
  s.each old fun f s => s.freezeRecord f true

/-- LOG_MARK written by a source (Table 18.2). -/
def State.markLog (v src : Nat) (s : State) : State := s.logNow 0xF0 0 v src 0 0

/-! ### LOGREQ (R437) -/

/-- The 32 bytes of a record (Table 18.1). -/
def LogRec.bytes (r : LogRec) : List Byte :=
  leBytes 8 r.t.toNat ++ leBytes 4 r.lseq ++ leBytes 2 r.code ++ leBytes 1 r.island ++ leBytes 1 (if r.set then 1 else 0)
    ++ leBytes 4 r.a0 ++ leBytes 4 r.a1 ++ leBytes 4 r.a2 ++ leBytes 4 r.a3

/-- The header of a slot with a given CRC field (Table 18.4). -/
def Slot.header (x : Slot) (crc : Nat) : List Byte :=
  leBytes 4 0x474F4C46 ++ leBytes 4 x.fseq ++ leBytes 4 x.incarn ++ leBytes 2 x.cause ++ leBytes 2 x.recs.length
    ++ leBytes 8 x.tFreeze.toNat ++ leBytes 4 x.lseq ++ leBytes 4 crc

/-- The header of a slot as MRAM holds it. -/
def Slot.head (x : Slot) : List Byte := x.header (crc32 (x.header 0 ++ x.recs.flatMap LogRec.bytes)).toNat

/-- The records a LOGREQ names, in ascending LSEQ, which counts modulo 2³² (R428): `recs` newest first. -/
def wantedRecs (recs : List LogRec) (count first : Nat) : List LogRec :=
  if first = 0xFFFFFFFF then (recs.take count).reverse
  else (recs.filter fun r => (r.lseq + 2 ^ 32 - first) % 2 ^ 32 < count).reverse

/-- The 32 bytes of an invalid slot's header, which the spec does not state. DESIGN CHOICE: log entry 57. -/
def State.lostHeader (s : State) : List Byte × State :=
  let (n, s) := s.fresh
  ((List.range 32).map fun i => BitVec.ofInt 8 (Config.open_ (100 + i) n), s)

/-- The LOGDUMP payload of a LOGREQ payload; none: BAD_MSG. DESIGN CHOICE: log entry 57. -/
def State.logDump (p : List Byte) (s : State) : Option (List Byte) × State :=
  let src := leNat (p.take 1)
  let count := leNat ((p.drop 2).take 2)
  let first := leNat ((p.drop 4).take 4)
  if p.length != 8 || 4 < src || count = 0 || 4096 < count then (none, s)
  else
    let mk (valid : Nat) (head : List Byte) (rs : List LogRec) : Option (List Byte) :=
      some (leBytes 2 1 ++ leBytes 1 src ++ leBytes 1 valid ++ leBytes 2 rs.length
        ++ leBytes 2 (if rs.length < count then 1 else 0) ++ head ++ rs.flatMap LogRec.bytes)
    if src = 0 then (mk 1 (leBytes 32 0) (wantedRecs s.log.ring count first), s)
    else match nth s.mram.slots (src - 1) none with
      | some x => (mk 1 x.head (wantedRecs x.recs count first), s)
      | none =>
        let (h, s) := s.lostHeader
        (mk 0 h [], s)

/-! ### Die temperatures (R449) -/

/-- TEMP_MEASURE (R449): the highest sensor of each die, in the units of GLOBAL_TEMPk, and HOT at or above the limit. -/
def execTempMeasure (t : List Half) (s : State) : Host.Outcome State Fault Refusal :=
  .next <|
    if s.mode < 3 then s
    else
      let s := s.put Reg.GLOBAL_TSTAT_VALID 0 true
      s.each (List.range 6) fun k s =>
        let x := nth t k 0
        let s := s.wr (Reg.GLOBAL_TEMP_T k) 0 x.toNat
        if wrapInt 16 (s.rd Reg.GLOBAL_TLIM_LIM 0) ≤ x.toInt then s.raiseBit Reg.GLOBAL_TSTAT_HOT 0 k else s

end Sys2Proof.Machine
end

