-- ==== Sys2Proof/Machine/Lock.lean ====
section
/-! DEFINITION. The maintenance lock (R438 to R442). -/

namespace Sys2Proof.Machine

/-- Classes of Table 18.6. -/
inductive LockClass where
  | config | calibration | raw | device | uart
  deriving DecidableEq, Repr

/-- Does a level close a class (Table 18.6)? -/
def LockClass.closedAt (c : LockClass) (level : Nat) : Bool :=
  match c with
  | .calibration => 2 ≤ level
  | _ => 1 ≤ level

/-- Is a class open now (R438)? -/
def State.classOpen (s : State) (c : LockClass) : Bool :=
  s.on Reg.LOCK_STAT_OPEN 0 || !c.closedAt (s.rd Reg.LOCK_STAT_LEVEL 0)

/-- LOCK_STAT.LEVEL and OPEN follow the level in force and the opener (R439). DEDUCED: log entry 56. -/
def State.lockFlags (s : State) : State :=
  let level := max (s.rd Reg.LOCK_CFG_LEVEL 0) (s.rd Reg.LOCK_CFG_FLOOR 0)
  (s.wr Reg.LOCK_STAT_LEVEL 0 level).put Reg.LOCK_STAT_OPEN 0 (s.rd Reg.LOCK_STAT_SRC 0 != 0 || level = 0)

/-- Source numbers of LOCK_STAT.SRC, LOCK and CFGWRITE records. -/
def srcNumber (x : Source) : Nat :=
  match x with
  | .core _ => 0
  | .hawser => 1
  | .host => 2
  | .uart => 3

/-- A LOCK record (Table 18.2): what happened, source, by which means. DEDUCED: log entry 56. -/
def State.lockLog (what src means : Nat) (s : State) : State :=
  s.logNow 0x80 0 what src means (s.rd Reg.LOCK_STAT_LEVEL 0)

/-- The lock closes (R442); nothing where it is not open. -/
def State.lockClose (src : Nat) (s : State) : State :=
  if s.rd Reg.LOCK_STAT_SRC 0 = 0 then s
  else ((s.wr Reg.LOCK_STAT_SRC 0 0).lockFlags).lockLog 1 src 2

/-- The session `n` of the host port or of the ring's head has ended: the lock closes if it opened it (R442). -/
def State.lockSessionEnd (src : Source) (n : Nat) (s : State) : State :=
  if s.rd Reg.LOCK_STAT_SRC 0 = (srcNumber src) && s.lock.session = n then s.lockClose 0 else s

/-- FAILS and its copy in MRAM (R435, R441). -/
def State.setFails (n : Nat) (s : State) : State :=
  ({ s with mram := s.mram.setCtr { s.mram.ctr with fails := n } }).wr Reg.LOCK_STAT_FAILS 0 n

/-- The remaining lockout time and its copy in MRAM. -/
def State.setLout (n : Nat) (s : State) : State :=
  ({ s with mram := s.mram.setCtr { s.mram.ctr with lockout := n } }).wr Reg.LOCK_LOUT_SEC 0 n

/-- A matching RESPOND (means 1) or PASSWORD (means 0) opens the lock (R441). -/
def State.lockOpen (src : Source) (session means : Nat) (s : State) : State :=
  let s := { s with lock := { s.lock with session := session } }
  (((s.wr Reg.LOCK_STAT_SRC 0 (srcNumber src)).lockFlags).setFails 0).lockLog 0 (srcNumber src) means

/-- A wrong attempt (R441): the fifth in a row starts a lockout. -/
def State.lockFail (src : Source) (means : Nat) (s : State) : State :=
  let n := s.rd Reg.LOCK_STAT_FAILS 0 + 1
  let s := (s.setFails n).lockLog 2 (srcNumber src) means
  if n < 5 then s
  else (((s.put Reg.LOCK_STAT_LOCKOUT 0 true).setLout 600).lockLog 3 (srcNumber src) means)

/-- SERIAL in 8 bytes. -/
def State.serialBytes (s : State) : List Byte := leBytes 8 s.otp.serial.toNat

/-- The command-specific part of a LOCK response (R440). -/
def State.lockPart (s : State) (result nonce : Nat) : List Byte :=
  leBytes 1 result ++ leBytes 1 (s.rd Reg.LOCK_STAT_LEVEL 0) ++ leBytes 1 (s.rd Reg.LOCK_STAT_FAILS 0)
    ++ leBytes 1 (s.rd Reg.LOCK_STAT_SRC 0) ++ leBytes 2 (s.rd Reg.LOCK_LOUT_SEC 0) ++ leBytes 2 0 ++ leBytes 16 nonce

/-- Lockout stands, for an attempt also in the clock in which it ends (R441). -/
def State.lockedOut (s : State) : Bool := s.on Reg.LOCK_STAT_LOCKOUT 0 || s.old.on Reg.LOCK_STAT_LOCKOUT 0

/-- CHALLENGE: RESULT and nonce (R440, R441). DEDUCED: log entry 56. -/
def State.challenge (src : Source) (s : State) : Nat × Nat × State :=
  if s.lockedOut then (3, 0, s)
  else if s.otp.key = none then (5, 0, s)
  else
    let (k, s) := s.fresh
    let n := Config.nonce k
    let s := { s with lock := { s.lock with nonce := some (n, src) } }
    (6, n.toNat, s.put Reg.LOCK_STAT_CHAL 0 true)

/-- The nonce is gone. -/
def State.dropNonce (s : State) : State :=
  ({ s with lock := { s.lock with nonce := none } }).put Reg.LOCK_STAT_CHAL 0 false

/-- RESPOND: RESULT (R440, R441). DEDUCED: log entry 56. -/
def State.respond (src : Source) (session : Nat) (data : List Byte) (s : State) : Nat × State :=
  let mine := (s.lock.nonce.filter fun x => decide (x.2 = src)).map (·.1)
  let s := if mine.isSome then s.dropNonce else s
  if s.rd Reg.LOCK_STAT_LEVEL 0 = 0 then (0, s)
  else if s.lockedOut then (3, s)
  else match mine, s.otp.key with
    | some n, some key =>
      if hmac (leBytes 32 key.toNat) (leBytes 16 n.toNat ++ s.serialBytes) = data then (0, s.lockOpen src session 1)
      else (2, s.lockFail src 1)
    | _, _ => (4, s)

/-- PASSWORD: RESULT (R440, R441). DEDUCED: log entry 56. -/
def State.password (src : Source) (session : Nat) (data : List Byte) (s : State) : Nat × State :=
  let level := s.rd Reg.LOCK_STAT_LEVEL 0
  if level = 0 then (0, s)
  else if s.lockedOut then (3, s)
  else if level = 3 || s.lock.pwhash = 0 then (5, s)
  else if sha256 (s.serialBytes ++ data) = leBytes 32 s.lock.pwhash.toNat then (0, s.lockOpen src session 0)
  else (2, s.lockFail src 0)

/-- A LOCK command's OP and data (Table 18.8): the response part; none: BAD_MSG. -/
def State.lockOp (src : Source) (session op : Nat) (data : List Byte) (s : State) : Option (List Byte) × State :=
  let n := data.length
  match op with
  | 0 => if n = 0 then (some (s.lockPart 6 0), s) else (none, s)
  | 1 =>
    if n != 0 then (none, s)
    else
      let (r, nonce, s) := s.challenge src
      (some (s.lockPart r nonce), s)
  | 2 =>
    if n != 32 then (none, s)
    else
      let (r, s) := s.respond src session data
      (some (s.lockPart r 0), s)
  | 3 =>
    if n < 8 || 32 < n then (none, s)
    else
      let (r, s) := s.password src session data
      (some (s.lockPart r 0), s)
  | 4 =>
    if n != 0 then (none, s)
    else
      let s := s.lockClose (srcNumber src)
      (some (s.lockPart 1 0), s)
  | _ => (none, s)

/-- The payload of a LOCK command: OP, a reserved byte, LEN and LEN bytes of data (R440). -/
def State.lockPayload (src : Source) (session : Nat) (p : List Byte) (s : State) : Option (List Byte) × State :=
  if p.length < 4 || leNat ((p.drop 2).take 2) != p.length - 4 then (none, s)
  else s.lockOp src session (leNat (p.take 1)) (p.drop 4)

/-! ### Timers (R440 to R442) -/

/-- LOCK_OPEN_TIMEOUT (R442): OPENMAX minutes after it opened. -/
def execLockOpenTimeout (s : State) : Host.Outcome State Fault Refusal := .next (s.lockClose 0)

/-- LOCKOUT_SECOND (R441): the remaining time counts down and is written to MRAM. -/
def execLockoutSecond (s : State) : Host.Outcome State Fault Refusal :=
  .next (if s.on Reg.LOCK_STAT_LOCKOUT 0 then s.setLout (s.rd Reg.LOCK_LOUT_SEC 0 - 1) else s)

/-- LOCKOUT_END (R441): the remaining time has run out. -/
def execLockoutEnd (s : State) : Host.Outcome State Fault Refusal :=
  .next <|
    if s.on Reg.LOCK_STAT_LOCKOUT 0 && s.rd Reg.LOCK_LOUT_SEC 0 = 0 then
      ((s.put Reg.LOCK_STAT_LOCKOUT 0 false).setFails 0).lockLog 4 0 2
    else s

/-- NONCE_EXPIRY (R440). -/
def execNonceExpiry (s : State) : Host.Outcome State Fault Refusal := .next s.dropNonce

end Sys2Proof.Machine
end

