-- ==== Sys2Proof/Machine/Flash.lean ====
section
/-! DEFINITION. The boot flash and BOOT_FCMD (R387, R402). -/

namespace Sys2Proof.Machine

/-- Byte of the flash. DESIGN CHOICE: log entry 5. -/
def State.flash (s : State) (a : Nat) : Byte := s.boot.flash.getD a (Config.flashByte a)

/-- Bytes from `a` on become `bs`. -/
def State.flashWrite (a : Nat) (bs : List Byte) (s : State) : State :=
  { s with boot := { s.boot with flash := ((List.range bs.length).zip bs).foldl (fun m b => m.put (a + b.1) b.2) s.boot.flash } }

/-- Address `a` lies in the half of the image area that holds the copy in use (R387). DEDUCED: log entry 55. -/
def State.halfInUse (s : State) (a : Nat) : Bool :=
  !s.on Reg.BOOT_STAT_NOIMAGE 0 && a < 0x4000000 && a / 0x2000000 = s.rd Reg.BOOT_STAT_COPY 0

/-- BOOT_FCMD with an operation 1 to 3 that the lock lets through (R402). DEDUCED: log entry 55. -/
def State.flashCmd (op : Nat) (s : State) : State :=
  let a := s.rd Reg.BOOT_FADDR_A 0
  if !(s.mode = 5 || s.mode = 8) || s.on Reg.BOOT_FSTAT_BUSY 0 || s.halfInUse a then s.raise Reg.BOOT_FSTAT_REFUSED 0
  else
    let b := { s.boot with flashOp := some (op, a), pagePos := if op = 2 then 0 else s.boot.pagePos }
    ({ s with boot := b }).put Reg.BOOT_FSTAT_BUSY 0 true

/-- A byte of the page buffer; one that nothing has filled has no stated value. DESIGN CHOICE: log entry 61. -/
def State.pageByte (s : State) (i : Nat) : Byte := s.boot.page.getD i (BitVec.ofInt 8 (Config.open_ 9 i))

/-- BOOT_FDATA written: the next 4 bytes of the page buffer (R402). DEDUCED: log entry 55. -/
def State.fdataWrite (v : Word) (s : State) : State :=
  let p := s.boot.pagePos
  let page := ((List.range 4).zip (leBytes 4 v.toNat)).foldl (fun m b => m.put (p + b.1) b.2) s.boot.page
  ({ s with boot := { s.boot with page := page, pagePos := (p + 4) % 256 } }).wr Reg.BOOT_FDATA_D 0 v.toNat

/-- Bytes a failed operation leaves, which the spec does not state. DESIGN CHOICE: log entry 61. -/
def State.lostBytes (n : Nat) (s : State) : List Byte × State :=
  let (k, s) := s.fresh
  ((List.range n).map fun i => BitVec.ofInt 8 (Config.open_ 10 (k * 65536 + i)), s)

/-- An erase or a program that a reset or a power loss breaks off: what its bytes hold is not stated. DESIGN CHOICE: log entry 61. -/
def State.cutFlash (s : State) : State :=
  match s.boot.flashOp with
  | none => s
  | some (op, a) =>
    if op = 3 then s
    else
      let size := if op = 1 then 65536 else 256
      let (bs, s) := s.lostBytes size
      s.flashWrite (a / size * size) bs

/-- FLASH_OPERATION_END (R402): the flash reports the operation complete; `ok`: without a failure.
PRESUMED: log entry 54. DEDUCED: log entry 55. -/
def execFlashOperationEnd (ok : Bool) (s : State) : Host.Outcome State Fault Refusal :=
  .next <|
    match s.boot.flashOp with
    | none => s
    | some (op, a) =>
      let s := ({ s with boot := { s.boot with flashOp := none } }).put Reg.BOOT_FSTAT_BUSY 0 false
      let s := if ok then s else s.raise Reg.BOOT_FSTAT_ERR 0
      let (size, good) := match op with
        | 1 => (65536, List.replicate 65536 (0xFF#8 : Byte))
        | 2 => (256, (List.range 256).map s.pageByte)
        | _ => (4, (List.range 4).map fun i => s.flash (a + i))
      let (bs, s) := if ok then (good, s) else s.lostBytes size
      if op = 3 then s.wr Reg.BOOT_FDATA_D 0 (leNat bs) else s.flashWrite (a / size * size) bs

end Sys2Proof.Machine
end

