-- ==== Sys2Proof/Machine/CoreRun.lean ====
section
/-! DEFINITION. Reduction cores beside their instructions: register files, results in flight, memories, runs, hauls,
interrupts (chapter 11). -/

namespace Sys2Proof.Machine

/-! ### Register files and status (R255 to R258, R266) -/

/-- Scalar register `r` of the bank in use; s0 reads 0. -/
def CoreRt.sreg (k : CoreRt) (r : BitVec 5) : Word :=
  if r = 0 then 0 else if k.shadow then k.bank1.getD r.toNat 0 else k.bank0.getD r.toNat 0

/-- Scalar register written in a bank; s0 ignores it. -/
def CoreRt.setSreg (k : CoreRt) (shadow : Bool) (r : Nat) (v : Word) : CoreRt :=
  if r = 0 then k
  else if shadow then { k with bank1 := k.bank1.putD r 0 v } else { k with bank0 := k.bank0.putD r 0 v }

/-- The 16 lanes of a vector register. -/
def CoreRt.vreg (k : CoreRt) (r : Nat) : List Half := (List.range 16).map fun i => k.vregs.getD (16 * r + i) 0

/-- A vector register written. -/
def CoreRt.setVreg (k : CoreRt) (r : Nat) (l : List Half) : CoreRt :=
  { k with vregs := (List.range 16).foldl (fun m i => m.putD (16 * r + i) 0 (nth l i 0)) k.vregs }

/-- The 16 lanes of an accumulator. -/
def CoreRt.acc (k : CoreRt) (a : Nat) : List Int := (List.range 16).map fun i => (k.accs.getD (16 * a + i) 0).toInt

/-- An accumulator written. -/
def CoreRt.setAcc (k : CoreRt) (a : Nat) (l : List Int) : CoreRt :=
  { k with accs := (List.range 16).foldl (fun m i => m.putD (16 * a + i) 0 (BitVec.ofInt 40 (nth l i 0))) k.accs }

/-- CSTAT.SATM, RND, IE of a level, LVL (Table 11.4). -/
def CoreRt.satm (k : CoreRt) : Bool := k.cstat.getLsbD 7
def CoreRt.rnd (k : CoreRt) : Nat := k.cstat.toNat / 256 % 4
def CoreRt.ie (k : CoreRt) (level : Nat) : Bool := k.cstat.getLsbD (4 + level)
def CoreRt.lvl (k : CoreRt) : Nat := k.cstat.toNat / 4 % 4

/-- Sticky bits of CSTAT: OV, CWRAP, MUE. -/
def stickyMask : Word := 0xFFFFF800
/-- Bits an MTS writes: RND, SATM, IE1, IE0. -/
def modeMask : Word := 0x3B0

/-- acc40 of R285: the value a lane takes, and whether it overflowed. -/
def acc40 (satm : Bool) (x : Int) : Int × Bool :=
  let lim : Int := 2 ^ 39 - 1
  if lim < x || x < -lim then ((if satm then clampInt (-lim) lim x else wrapInt 40 x), true) else (x, false)

/-- sat16 of R285. -/
def satm16 (satm : Bool) (x : Int) : Int × Bool :=
  if 32767 < x || x < -32768 then ((if satm then sat16 x else wrapInt 16 x), true) else (x, false)

/-- rnd of R285: `x` divided by 2^sh under CSTAT.RND. -/
def rndShift (mode : Nat) (x : Int) (sh : Nat) : Int :=
  let n : Nat := 2 ^ sh
  if sh = 0 then x
  else if mode = 0 then x / (n : Int)
  else if mode = 2 then
    let q := x / (n : Int)
    let r := x % (n : Int)
    if 2 * r < n then q else if (n : Int) < 2 * r then q + 1 else if q % 2 = 0 then q else q + 1
  else roundDiv x n

/-- OV bits of the lanes that overflowed. -/
def ovBits (l : List Bool) : Word :=
  BitVec.ofNat 32 (((List.range l.length).zip l).foldl (fun n p => if p.2 then n + 2 ^ (16 + p.1) else n) 0)

/-! ### Results in flight (R257, R259, R260, Table 11.5) -/

/-- A result lands. -/
def CoreRt.landOne (k : CoreRt) (w : Landing) : CoreRt :=
  match w with
  | .scalar sh r v => k.setSreg sh r v
  | .vector r l => k.setVreg r l
  | .acc a op =>
    match op with
    | .put l => k.setAcc a l
    | .add l =>
      let r := (List.zip (k.acc a) l).map fun p => acc40 k.satm (p.1 + p.2)
      let k := k.setAcc a (r.map (·.1))
      { k with cstat := k.cstat ||| ovBits (r.map (·.2)) }
  | .flags b => { k with cstat := k.cstat ||| b }
  | .clear b => { k with cstat := k.cstat &&& ~~~(b &&& stickyMask) }
  | .modes v => { k with cstat := (k.cstat &&& ~~~modeMask) ||| (v &&& modeMask) }
  | .agBase i v => { k with agBase := k.agBase.set i (v &&& 0x7FFFF) }
  | .agLen i v => { k with agLen := k.agLen.set i v }
  | .tcmp v => { k with tcmp := v }

/-- A clearing of sticky bits comes before the flags that land in the same cycle. -/
def Landing.isClear (w : Landing) : Bool :=
  match w with
  | .clear _ => true
  | _ => false

/-- The results of cycle `n` land, in issue order. -/
def CoreRt.landAt (k : CoreRt) (n : Nat) : CoreRt :=
  let due := k.land.filter fun f => f.at_ = n
  let k := { k with land := k.land.filter fun f => f.at_ != n }
  let ws := (due.map (·.what)).filter (·.isClear) ++ (due.map (·.what)).filter (!·.isClear)
  ws.foldl CoreRt.landOne k

/-- Every result readable by the core's cycle `n` lands, the earlier cycles first. DESIGN CHOICE: log entry 6. -/
def CoreRt.landTo (k : CoreRt) (n : Nat) : CoreRt :=
  (List.range 4).foldl (fun k' j => if k.cycle + j ≤ n then k'.landAt (k.cycle + j) else k') k

/-- The core's cycle moves to `n`, and results land. DEDUCED: log entry 10. -/
def CoreRt.toCycle (k : CoreRt) (n : Nat) : CoreRt := { k.landTo n with cycle := max k.cycle n }

/-- The core issues in every cycle: it is in a run or a handler, and no wait and no END stops it. -/
def CoreRt.issues (k : CoreRt) (run : Bool) : Bool := (run || k.idleIrq) && !k.waiting && k.load.isNone && k.endAt.isNone

/-- An instruction that waited issues, or is left for a handler, in cycle `n` (R297). -/
def CoreRt.awake (k : CoreRt) (n : Nat) : CoreRt := if k.waiting then { k.toCycle n with waiting := false } else k

/-- A result joins those in flight, readable `n` cycles after this one. -/
def CoreRt.later (k : CoreRt) (n : Nat) (w : Landing) : CoreRt := { k with land := k.land ++ [⟨k.cycle + n, w⟩] }

/-- A scalar result of the bank in use. -/
def CoreRt.laterS (k : CoreRt) (n : Nat) (r : BitVec 5) (v : Word) : CoreRt := k.later n (.scalar k.shadow r.toNat v)

/-! ### Memories (R252) -/

/-- A byte of DM no store is listed for: what a library kernel left there, else what stood there at the last entry to BOOT.
DESIGN CHOICE: log entries 5 and 39. -/
def State.dmFill (s : State) (c a : Nat) : Byte :=
  match (s.core c).wiped.find? fun w => w.from_ ≤ a && a < w.from_ + w.len with
  | some w => (w.draw.map fun d => Config.badByte d a).getD 0
  | none => Config.unwrittenDm (c + 12 * s.mram.incarn) a

/-- A byte of DM. -/
def State.dm (s : State) (c a : Nat) : Byte := (s.core c).dm.getD a (s.dmFill c a)

/-- Bytes written into DM from `a` on. -/
def State.dmWrite (c a : Nat) (bs : List Byte) (s : State) : State :=
  let k := s.core c
  s.setCore c { k with dm := ((List.range bs.length).zip bs).foldl (fun m b => m.put (a + b.1) b.2) k.dm }

/-- `n` bytes of DM from `a` on. -/
def State.dmBytes (s : State) (c a n : Nat) : List Byte := (List.range n).map fun i => s.dm c (a + i)

/-- An instruction word: IM, then the Molylith ROM. DESIGN CHOICE: log entry 5. -/
def State.imWord (s : State) (c a : Nat) : Word :=
  if a < 0x4000 then (s.core c).im.getD a (Config.unwrittenIm (c + 12 * s.mram.incarn) a) else Config.romWord (a - 0x4000)

/-- A word of IM written. -/
def State.imWrite (c a : Nat) (w : Word) (s : State) : State :=
  let k := s.core c
  s.setCore c { k with im := k.im.put a w }

/-- A corrected or uncorrectable error of DM, IM or ROM is counted (R271, R280); `kind` of MEM_UE: 1 DM, 2 IM or ROM. -/
def State.coreEcc (c a kind : Nat) (e : Ecc) (s : State) : State :=
  if e.ce then s.bump Reg.CORE_ECC_CE c 1
  else if e.ue then (s.bump Reg.CORE_ECC_UE c 1).logBy c 0x41 3 kind c a 0
  else s

/-- `n` bytes that a read with outcome `e` delivers: those stored, or where the check bits do not vouch for them free values
(R271). DESIGN CHOICE: log entry 71. -/
def State.deliverBytes (stored : List Byte) (e : Ecc) (s : State) : List Byte × State :=
  if e.intact then (stored, s)
  else
    let (d, s) := s.fresh
    ((List.range stored.length).map (Config.badByte d), s)

/-! ### Metadata as the haul reads it (R86, R94, R95, R150) -/

/-- The stack header and plan record as bytes (Table 4.5). -/
def Header.bytes (h : Header) : List Byte :=
  let plan := (List.range 8).flatMap fun k =>
    let b := nth h.plan.bights k (0, 0)
    leBytes 2 b.1 ++ leBytes 1 b.2 ++ leBytes 1 0
  leBytes 4 h.stackNo ++ leBytes 1 h.strand ++ leBytes 1 h.smode ++ leBytes 1 h.dec ++ leBytes 1 h.leak
    ++ leBytes 4 h.nbin ++ leBytes 2 h.ldly ++ leBytes 2 h.flags ++ leBytes 8 h.shots ++ leBytes 4 h.pbin
    ++ leBytes 4 h.skipped ++ leBytes 8 h.tFirst.toNat ++ leBytes 8 h.tLast.toNat ++ leBytes 8 h.tAcc.toNat
    ++ leBytes 2 h.nsat ++ leBytes 2 h.necc ++ leBytes 2 h.novl ++ leBytes 1 h.plan.bights.length
    ++ leBytes 1 h.plan.settle ++ plan

/-- The phase record as bytes (Table 6.5). -/
def PhaseRec.bytes (r : PhaseRec) : List Byte :=
  leBytes 4 r.row0 ++ leBytes 2 r.nrow ++ leBytes 2 r.rdone ++ leBytes 2 r.heff ++ leBytes 2 r.gauge ++ leBytes 1 r.sdec
    ++ leBytes 1 r.tdec ++ leBytes 1 r.pol ++ leBytes 1 r.prflags ++ leBytes 8 r.tRef.toNat ++ leBytes 8 0

/-- Byte `o` of a plane's metadata. DESIGN CHOICE: log entry 5. -/
def State.metaByte (s : State) (ch pl o : Nat) : Byte :=
  let lost := Config.unwrittenMeta (planeKey ch pl + 384 * s.mram.incarn) o
  if 0x60 ≤ o && o < 0x1F0 then s.qbyte ch pl (o - 0x60)
  else match s.metas.find (planeKey ch pl) with
    | some m =>
      if o < 0x60 then nth m.header.bytes o 0
      else match m.phase with
        | some p => if o < 0x210 then nth p.bytes (o - 0x1F0) 0 else lost
        | none => lost
    | none => lost

/-! ### Sources of interrupts (Table 11.7) -/

/-- CORE_STAT.STATE of core `c`. -/
def State.cstate (s : State) (c : Nat) : Nat := s.rd Reg.CORE_STAT_STATE c

/-- The cycle core `c` is in: that of its next issue, or three a tick where it does not issue. DEDUCED: log entry 10. -/
def State.cycNow (s : State) (c : Nat) : Nat :=
  if (s.core c).issues (s.cstate c = 2) then (s.core c).cycle else s.nowCycle c

/-- Bit `k` of CORE_IPEND becomes pending in cycle `n` (Table 11.7). -/
def State.pendIn (c k n : Nat) (s : State) : State :=
  let a := Reg.CORE_IPEND_DOOR.addr c
  let s := s.setReg a (s.reg a ||| BitVec.ofNat 32 (2 ^ k))
  s.setCore c { s.core c with pendAt := (s.core c).pendAt.set k n }

/-- Bit `k` of CORE_IPEND becomes pending now. -/
def State.pend (c k : Nat) (s : State) : State := s.pendIn c k (s.cycNow c)

/-! ### The haul (R269 to R271) -/

/-- A descriptor as it stands in DM (Table 11.9). DEDUCED: log entry 35. -/
def State.haulAt (s : State) (c a : Nat) : Haul :=
  let f (o n : Nat) : Nat := leNat (s.dmBytes c (a + o) n)
  let ctl := f 1 1
  { at_ := a, chan := f 0 1, plane := ctl % 2, isMeta := ctl / 2 % 2 = 1, format := ctl / 4 % 4, irq := ctl / 128 = 1,
    shift := f 2 1 % 32, first := f 4 4, count := f 8 4, stride := wrapInt 32 (f 12 4), dest := f 16 4, lib := false }

/-- Bytes of one item: a metadata word or a bin. -/
def Haul.step (h : Haul) : Nat := if h.isMeta then 4 else if h.format = 0 then 8 else 2

/-- Items of a descriptor. -/
def Haul.items (h : Haul) : Nat := if h.isMeta then h.count / 4 else h.count

/-- Bin `i` of a descriptor (R270). -/
def Haul.binAt (h : Haul) (i : Nat) : Int := h.first + i * h.stride

/-- The engine refuses the descriptor (R270). DEDUCED: log entry 35. -/
def State.haulRefused (s : State) (h : Haul) : Bool :=
  let inBank (x : Int) : Bool := 0 ≤ x && x < 102400
  let bad := if h.isMeta then h.first % 4 != 0 || h.count % 4 != 0 || 12288 < h.count || 12288 < h.first + h.count
    else h.stride = 0 || !inBank (h.binAt 0) || !inBank (h.binAt (h.count - 1))
  192 ≤ h.chan || s.own h.chan h.plane != 2 || h.count = 0 || 2 ≤ h.format || bad || 0x80000 < h.dest + h.items * h.step

/-- What the engine delivers for item `i`: its bytes, and whether it was clipped; `bad`: the draw that stands for a word the
check bits do not vouch for (R271). DESIGN CHOICE: log entry 71. -/
def State.haulItem (s : State) (h : Haul) (i : Nat) (bad : Option Nat) : List Byte × Bool :=
  if h.isMeta then
    ((List.range 4).map fun j => match bad with
      | some d => Config.badByte d (8 * i + j)
      | none => s.metaByte h.chan h.plane (h.first + 4 * i + j), false)
  else
    let v := match bad with
      | some d => wrapInt 40 (leNat ((List.range 5).map fun j => Config.badByte d (8 * i + j)))
      | none => (s.bin h.chan h.plane (h.binAt i).toNat).toInt
    if h.format = 0 then (leInt 8 v, false)
    else
      let r := rndShift 1 v h.shift
      (leInt 2 (sat16 r), sat16 r != r)

/-- The block FOLD_ECC_LAST names for item `i`: a metadata word outside the quality map has 0x1FF (Table 4.12). -/
def Haul.block (h : Haul) (i : Nat) : Nat :=
  if h.isMeta then
    let o := h.first + 4 * i
    if 0x60 ≤ o && o < 0x1F0 then o - 0x60 else 0x1FF
  else (h.binAt i).toNat / 256

/-- An error the haul met in item `i` (R101, R102). -/
def State.haulErr (h : Haul) (i : Nat) (e : Ecc) (s : State) : State :=
  let s := if h.isMeta then s else if e.ce then s.markBoth h.chan h.plane (h.block i) 6 else s
  s.eccCount h.chan h.plane (h.block i) h.isMeta e

/-! ### HAUL_CONFLICT (R103 to R105) -/

/-- Sub-bank of bin `b` (R103). -/
def subBank (b : Nat) : Nat := (b % 8) ^^^ (b / 8 % 8)

/-- Of the queued reads, by sub-bank, those that wait when one read of each sub-bank that is not `busy` is made. -/
def waitingReads (busy : List Nat) : List Nat → List Nat
  | [] => []
  | b :: q => if busy.contains b then b :: waitingReads busy q else waitingReads (b :: busy) q

/-- Ticks with a conflict while a queue of up to 8 reads serves the reads `rest` from tick `n` on; `taken`: ticks in which the
fold engine takes a sub-bank. Answers the tick it ends in as well. -/
def conflictTicks (taken : List (Nat × Nat)) : Nat → Nat → List Nat → List Nat → Nat × Nat
  | 0, n, _, _ => (0, n)
  | fuel + 1, n, queue, rest =>
    let room := 8 - queue.length
    let q := queue ++ rest.take room
    if q = [] then (0, n)
    else
      let busy := (taken.filter fun x => x.1 = n).map (·.2)
      let (c, m) := conflictTicks taken fuel (n + 1) (waitingReads busy q) (rest.drop room)
      (c + if q.eraseDups.length < q.length then 1 else 0, m)

/-- HAUL_CONFLICT of the reads of one engine: stretches of 8 × each of `turns` bins, between which the bank serves other engines,
then the rest (R104, R105). -/
def haulConflicts (taken : List (Nat × Nat)) : List Nat → Nat → List Nat → Nat
  | [], n, reads => (conflictTicks taken (reads.length + taken.length) n [] reads).1
  | m :: turns, n, reads =>
    let part := reads.take (8 * m)
    let (c, n) := conflictTicks taken (part.length + taken.length) n [] part
    c + haulConflicts taken turns n (reads.drop (8 * m))

/-- The first `n` items are in DM, and FOLD_HCONF counts; `errs`: outcomes of the reads that were not clean, by item; `taken` and
`turns`: what the bank did meanwhile (R104). Answers the items. Of a library kernel's hauls only the decoder's have a stated
place in DM (R306). DEDUCED: log entry 35. -/
def State.haulCopy (c : Nat) (h : Haul) (n : Nat) (errs : List (Nat × Ecc)) (taken : List (Nat × Nat)) (turns : List Nat)
    (s : State) : List (List Byte × Bool) × State :=
  let (d, s) : Nat × State := if errs.all (·.2.intact) then (0, s) else s.fresh
  let items := (List.range n).map fun i => s.haulItem h i (if errs.any fun e => e.1 = i && !e.2.intact then some d else none)
  let reads := (List.range n).map fun i => subBank (h.binAt i).toNat
  let s := s.each errs fun e s => s.haulErr h e.1 e.2
  let s := if h.lib && h.format = 0 then s else s.dmWrite c h.dest (items.flatMap (·.1))
  (items, if h.isMeta then s else s.bump Reg.FOLD_HCONF_N h.chan (haulConflicts taken turns 0 reads))

/-- STATUS of a descriptor is written, with DONE (Table 11.9). -/
def State.haulStatus (c at_ bits : Nat) (s : State) : State := s.dmWrite c (at_ + 0x18) (leBytes 4 (bits ||| 1))

/-- Every descriptor queued or running is cancelled (R276); what the running one had copied by then no rule states.
DESIGN CHOICE: log entry 2. DEDUCED: log entry 35. -/
def State.cancelHauls (c : Nat) (s : State) : State :=
  let k := s.core c
  let s := s.setCore c { k with hq := [], hauling := none }
  let s := match k.hauling with
    | none => s
    | some h =>
      let (d, s) := s.fresh
      let s := (s.haulCopy c h ((Config.open_ 17 d).toNat % (h.items + 1)) [] [] []).2
      if h.lib then s else s.haulStatus c h.at_ 0x10
  s.each k.hq fun a s => s.haulStatus c a 0x10

/-! ### Core states and the end of a run (R256, R274, R276, R278 to R280, Table 11.10) -/

/-- The run's bindings are dropped, and planes nothing binds any more become FREE (R273, R276). -/
def State.dropBinds (c : Nat) (s : State) : State :=
  let k := s.core c
  (s.setCore c { k with binds := [] }).releaseAll k.binds

/-- Jobs still queued are dropped (R274). -/
def State.dropJobs (c : Nat) (s : State) : State :=
  let js := (s.core c).jobs
  let s := (s.setCore c { s.core c with jobs := [] }).showJobs c
  (s.each js fun j s => s.loseJob c j).releaseAll (js.flatMap (·.binds))

/-- CORE_CTRL.EN = 0 takes effect in IDLE (Table 11.10). -/
def State.offCheck (c : Nat) (s : State) : State :=
  if s.cstate c = 1 && !s.on Reg.CORE_CTRL_EN c then
    ((s.wr Reg.CORE_STAT_STATE c 0).setCore c { s.core c with idleIrq := false }).dropJobs c
  else s

/-- The core becomes IDLE, with CSTAT from CORE_CSINIT (R256). -/
def State.toIdle (c : Nat) (s : State) : State :=
  let k := s.core c
  let k := if k.idleIrq then k else { k with cstat := s.reg (Reg.CORE_CSINIT_V.addr c), shadow := false }
  ((s.setCore c k).wr Reg.CORE_STAT_STATE c 1).offCheck c

/-- What a run that has ended leaves of its issue. -/
def CoreRt.ended (k : CoreRt) : CoreRt :=
  { k with flow := none, rep := none, load := none, waiting := false, endAt := none, idleIrq := false, shadow := false }

/-- CORE_LASTRUN (Table 11.11). -/
def State.lastRun (c res : Nat) (s : State) : State :=
  (s.wr Reg.CORE_LASTRUN_RUN c (s.rd Reg.CORE_RUNNO_N c)).wr Reg.CORE_LASTRUN_RES c res

/-- A run is aborted (R278): reason 1 command, 2 watchdog, 3 fault; results still in flight are discarded.
DEDUCED: log entry 33. -/
def State.abortRun (c reason fcode : Nat) (s : State) : State :=
  let k := (s.core c).landTo (s.nowCycle c)
  let run := s.rd Reg.CORE_RUNNO_N c
  let s := s.setCore c { k.ended with land := [], sends := [], lib := none }
  let s := (((s.cancelHauls c).dropBinds c).lastRun c (reason + 1)).put Reg.CORE_STAT_ABORTED c true
  let s := s.status ⟨s.coreTime c, 1, 0, 0, c, reason, k.runStrand, run, k.runStack, fcode⟩
  let s := if reason = 1 then s else s.logBy c 0x40 3 c (reason + 1) fcode run
  s.toIdle c

/-- A run is in progress (R278). -/
def State.runOf (s : State) (c : Nat) : Bool := s.cstate c = 2

/-- The END that has issued retires after cycle `n`; no END has issued counts as so. -/
def CoreRt.before (k : CoreRt) (n : Nat) : Bool := k.endAt.all fun e => n < e

/-- CORE_CMD.ABORT = 1 (R278): it acts at least one cycle before END retires. DEDUCED: log entry 33. -/
def State.coreAbort (c : Nat) (any : Bool) (tag : Nat) (s : State) : State :=
  if s.runOf c && (any || s.rd Reg.CORE_RUNNO_N c % 256 = tag) && (s.core c).before (s.nowCycle c) then
    ((s.abortRun c 1 0).logAbort 2 c tag true 3).answer .aborted
  else ((s.put Reg.CORE_STAT_ABORT_LATE c true).logAbort 2 c tag false 3).answer .abortLate

/-- An instruction faults (R280): 1 ILLEGAL, 2 FETCH_UE, 3 ADDR. In a handler of an IDLE or DRAIN core there is no run to
abort: the handler is abandoned. DEDUCED: log entry 33. -/
def State.coreFault (c code : Nat) (s : State) : State :=
  let s := (s.wr Reg.CORE_STAT_FCODE c code).put Reg.CORE_STAT_FAULT c true
  let s := if code = 2 then s.sourceAt 5 (s.coreTime c) else s
  if s.runOf c then s.abortRun c 3 code
  else
    let s := s.setCore c { (s.core c).ended with land := [] }
    if s.cstate c = 1 then s.toIdle c else s

/-- CORE_CTRL written (Table 11.10). DEDUCED: log entry 33. -/
def State.coreEnable (c : Nat) (s : State) : State :=
  if s.on Reg.CORE_CTRL_EN c then
    (if s.cstate c = 0 && 4 ≤ s.mode then s.toIdle c else s)
  else s.offCheck c

/-- CORE_CSINIT written: in IDLE it is CSTAT at once (R256). -/
def State.csinitWritten (c : Nat) (s : State) : State :=
  if s.cstate c = 1 && !(s.core c).idleIrq then s.setCore c { s.core c with cstat := s.reg (Reg.CORE_CSINIT_V.addr c) }
  else s

/-- KIND of the Molylith entry at an instruction address (Table 13.1); 0: no library entry. DEDUCED: log entry 36. -/
def libKind (entry : Nat) : Nat :=
  if entry = 0x4000 then 1 else if entry = 0x4400 then 2 else if entry = 0x4800 then 3 else if entry = 0x4C00 then 4 else 0

/-! ### Draining and the watchdog (R277, R279) -/

/-- DRAIN_COMPLETE (R277): every buffer has been read. DEDUCED: log entries 33 and 42. -/
def execDrainComplete (c : CoreId) (s : State) : Host.Outcome State Fault Refusal :=
  .next (if s.cstate c = 3 && (s.core c).drain = [] then s.toIdle c else s)

/-- Watchdog period in microseconds as it acts (R279). -/
def State.wdPeriod (s : State) (c : Nat) : Nat := max 100 (min 4000 (s.rd Reg.CORE_WDOG_PERIOD c))

/-- Cycle in which the watchdog's count reaches PERIOD: 600 core cycles are a microsecond. -/
def State.wdAt (s : State) (c : Nat) : Nat := (s.core c).wdFrom + 600 * s.wdPeriod c

/-- WATCHDOG_EXPIRY (R279): END's retirement in the cycle of expiry comes first. A library kernel executes WDK at least every
50 µs, and no period is that short (R300). -/
def execWatchdogExpiry (c : CoreId) (s : State) : Host.Outcome State Fault Refusal :=
  .next <|
    if s.runOf c && libKind (s.core c).runEntry = 0 && s.wdAt c ≤ s.nowCycle c && (s.core c).before (s.wdAt c) then
      ((s.abortRun c 2 0).put Reg.CORE_STAT_WDOG c true).sourceAt 6 (s.coreTime c)
    else s

/-! ### Interrupts (R264, R265, R268) -/

/-- CORE_IPEND as it reads, with the monitor line (Table 11.7). -/
def State.ipend (s : State) (c : Nat) : Nat :=
  (s.reg (Reg.CORE_IPEND_DOOR.addr c)).toNat / 2 * 2 + (if s.monLine c then 1 else 0)

/-- A level is requested (R264) and may be taken in cycle `n`, two cycles after its source was first seen pending (R265).
DEDUCED: log entry 33. -/
def State.requested (s : State) (c level n : Nat) : Bool :=
  (List.range 4).any fun k =>
    s.ipend c / 2 ^ k % 2 = 1 && s.bit Reg.CORE_IEN_EN c k && s.bit Reg.CORE_ILVL_LVL c k = decide (level = 1)
      && (k = 0 || nth (s.core c).pendAt k 0 + 2 ≤ n)

/-- The level taken: 1 before 0 (R264). -/
def State.irqLevel (s : State) (c : Nat) (k : CoreRt) : Option Nat :=
  if s.requested c 1 k.cycle && k.ie 1 && k.lvl ≤ 1 then some 1
  else if s.requested c 0 k.cycle && k.ie 0 && k.lvl = 0 then some 0
  else none

/-- Entry to a handler (Table 11.8). DEDUCED: log entry 33. -/
def CoreRt.enterIrq (k : CoreRt) (level vec : Nat) : CoreRt :=
  let off : Word := if level = 1 then 0x3C else 0x1C
  let k' := { k with ira := k.ira.set level (BitVec.ofNat 32 k.pc), istat := k.istat.set level k.cstat,
                     cstat := (k.cstat &&& ~~~off) ||| BitVec.ofNat 32 (4 * (level + 1)), pc := vec }
  { k'.toCycle (k.cycle + 6) with shadow := k.shadow || level = 1 }

/-- INTERRUPT_ENTRY (R265, R268). -/
def execInterruptEntry (c : CoreId) (s : State) : Host.Outcome State Fault Refusal :=
  .next <|
    let k := s.core c
    let st := s.cstate c
    let idle := (st = 1 || st = 3) && !k.idleIrq
    if st = 0 || s.mode < 4 || s.inWatch || k.flow.isSome || k.rep.isSome || k.endAt.isSome || k.load.isSome then s
    else
      let k := k.awake (s.nowCycle c)
      let k := k.toCycle (if idle then s.nowCycle c else k.cycle)
      let k := if idle then { k with cstat := s.reg (Reg.CORE_CSINIT_V.addr c) } else k
      match s.irqLevel c k with
      | none => s
      | some l =>
        let vec := if l = 1 then s.rd Reg.CORE_IVEC_IVEC1 c else s.rd Reg.CORE_IVEC_IVEC0 c
        s.setCore c { k.enterIrq l vec with idleIrq := k.idleIrq || idle }

/-- TIMER_MATCH (R255): CYC equals TCMP in the present cycle or one of the two before it. DEDUCED: log entry 10. -/
def execTimerMatch (c : CoreId) (s : State) : Host.Outcome State Fault Refusal :=
  .next <|
    let n := s.cycNow c
    let since := (BitVec.ofNat 32 n - ((s.core c).landTo n).tcmp).toNat
    if !s.inWatch && since < 3 && since ≤ n then s.pendIn c 2 (n - since) else s

end Sys2Proof.Machine
end

