-- ==== Sys2Proof/Machine/Session.lean ====
section
/-! DEFINITION. Host-port sessions, response slots, pause and sent frames: what chapter 14 says beside the commands
themselves. -/

namespace Sys2Proof.Machine

/-- A session is open. -/
def State.session (s : State) : Nat := s.rd Reg.HOSTLINK_STAT_SESSION 0

/-- A message of classes 3 to 5 is discarded (R328, R342): TXDROP and LOSS. -/
def State.txDrop (s : State) : State := (s.bump Reg.HOSTLINK_TXDROP_N 0 1).event 5

/-- A received frame or datagram is discarded (R324). -/
def State.rxDrop (s : State) : State := s.bump Reg.HOSTLINK_RXDROP_N 0 1

/-- Buffers that a discarded or sent item frees: a core's send counts as read (R277, R342). -/
def State.sendRead (m : TxItem) (s : State) : State :=
  match m.body with
  | .send c a n _ => s.setCore c { s.core c with drain := (s.core c).drain.erase ⟨a, n, m.ty⟩ }
  | .lib c p => s.setCore c { s.core c with drain := (s.core c).drain.erase ⟨0, p.length, m.ty⟩ }
  | _ => s

/-! ### The receive buffer (R341) -/

/-- Bytes the receive buffer holds: the Tilvar header and payload of each command that waits. DEDUCED: log entry 47. -/
def State.rxFill (s : State) : Nat := (s.link.inq.map fun w => 24 + w.payload.length).foldl (· + ·) 0

/-- RXFULL follows the buffer, and PAUSE is sent as it fills and as it empties (R341). -/
def State.rxPause (s : State) : State :=
  let n := s.rxFill
  let s := s.put Reg.HOSTLINK_STAT_RXFULL 0 (decide (49152 ≤ n))
  if 49152 ≤ n && s.on Reg.HOSTLINK_CTRL_PTX 0 && !s.link.pausing then
    ({ s with link := { s.link with pausing := true } }).emit (.pause (s.rd Reg.HOSTLINK_PAUSE_QUANTA 0))
  else if n < 16384 && s.link.pausing then ({ s with link := { s.link with pausing := false } }).emit (.pause 0)
  else s

/-! ### Sessions (R329) -/

/-- The open session ends (R329): 1 DISCONNECT, 2 timeout, 3 link loss, 4 displaced. -/
def State.endSession (cause : Nat) (s : State) : State :=
  let n := s.session
  if n = 0 then s
  else
    let s := s.wr Reg.HOSTLINK_STAT_SESSION 0 0
    let s := if cause = 2 then s.put Reg.HOSTLINK_STAT_TMO_END 0 true
      else if cause = 3 then s.put Reg.HOSTLINK_STAT_LINK_LOST 0 true else s
    let s := s.logNow 0x70 4 n cause (s.rd Reg.HOSTLINK_HOSTIP_IP 0) 0
    let s := if cause = 1 then s else s.event 4
    let s := { s with link := { s.link with slots := [], inq := [], fence := false } }
    s.rxPause.lockSessionEnd .host n

/-- The host link goes down (R329): nothing can leave it, and any session ends. -/
def State.hostDown (s : State) : State :=
  let s := ((s.put Reg.HOSTLINK_STAT_LINK_UP 0 false).put Reg.HOSTLINK_STAT_AN_DONE 0 false).put Reg.HOSTLINK_STAT_FEC_LOCK 0 false
  let s := { s with link := { s.link with replies := s.link.replies.filter (fun r => decide (r.dest = To.hawser)), retx := [], pausing := false } }
  (s.put Reg.HOSTLINK_STAT_PAUSED 0 false).endSession 3

/-- What auto-negotiation advertises: 100GBASE-KR4 alone, with RS-FEC requested, and symmetric PAUSE with PRX = 1 (R321). -/
def State.advert (s : State) : Line := .advert true true (s.on Reg.HOSTLINK_CTRL_PRX 0)

/-- LINK_UP (R321, R322): auto-negotiation and training complete on an enabled port. -/
def execLinkUp (s : State) : Host.Outcome State Fault Refusal :=
  .next <|
    if s.mode < 3 || !s.on Reg.HOSTLINK_CTRL_EN 0 then s
    else (((s.emit s.advert).put Reg.HOSTLINK_STAT_LINK_UP 0 true).put Reg.HOSTLINK_STAT_AN_DONE 0 true).put
      Reg.HOSTLINK_STAT_FEC_LOCK 0 true

/-- LINK_DOWN (R329). -/
def execLinkDown (s : State) : Host.Outcome State Fault Refusal :=
  .next (if s.on Reg.HOSTLINK_STAT_LINK_UP 0 then s.hostDown else s)

/-- Session timeout in force, in ms (R328, R329). -/
def State.timeout (s : State) : Nat := if s.link.tmo = 0 then s.rd Reg.HOSTLINK_TMO_MS 0 else s.link.tmo

/-- SESSION_TIMEOUT (R329). -/
def execSessionTimeout (s : State) : Host.Outcome State Fault Refusal :=
  .next (if s.session = 0 || s.timeout = 0 then s else s.endSession 2)

/-! ### Responses (R330, R331, Table 14.7) -/

/-- A RESP payload: code, type answered, values, access codes, command-specific part (Table 14.7). -/
def respPayload (code ty : Nat) (done : Nat) (values : List Word) (acodes : List Nat) (part : List Byte) : List Byte :=
  let pad := (4 - acodes.length % 4) % 4
  leBytes 1 code ++ leBytes 1 ty ++ leBytes 2 done ++ leBytes 4 0 ++ (values.flatMap fun v => leBytes 4 v.toNat)
    ++ (acodes.flatMap fun a => leBytes 1 a) ++ leBytes pad 0 ++ part

/-- A response that answers with a code and a command-specific part alone. -/
def respCode (code ty : Nat) (part : List Byte) : List Byte := respPayload code ty 0 [] [] part

/-- Leading slots whose responses are formed leave in SEQ order (R331). -/
def readySlots : List CmdSlot → List CmdSlot × List CmdSlot
  | [] => ([], [])
  | x :: rest =>
    match x.resp with
    | none => ([], x :: rest)
    | some _ =>
      let (a, b) := readySlots rest
      (x :: a, b)

/-- The command a response answers: its session ends with an OK alone (R335). -/
def CmdSlot.closes (x : CmdSlot) : Bool := x.ends && (x.resp.getD []).head? = some 0

/-- Responses that are next in SEQ order join class 1. -/
def State.releaseSlots (s : State) : State :=
  let (out, rest) := readySlots s.link.slots
  let mk (x : CmdSlot) : Reply := ⟨x.dest, x.origin, s.session, x.seq, x.resp.getD [], false, none, x.closes, true⟩
  { s with link := { s.link with slots := rest, replies := s.link.replies ++ out.map mk } }

/-- The response of the command with sequence number `seq` is formed. DEDUCED: log entry 44. -/
def State.formResp (seq : Nat) (p : List Byte) (s : State) : State :=
  let fill (x : CmdSlot) : CmdSlot := if x.seq = seq && x.resp = none then { x with resp := some p } else x
  ({ s with link := { s.link with slots := s.link.slots.map fill } }).releaseSlots

/-- The answer to a command whose device cannot be reached (R360): each access GATED. -/
def gatedResp (ty count : Nat) : List Byte :=
  if ty = 0x42 then respPayload 0 ty count (List.replicate count 0) (List.replicate count 2) []
  else if ty = 0x43 then respPayload 0 ty count [] (List.replicate count 2) []
  else respCode 2 ty []

/-! ### Pause (R340, R341) -/

/-- PAUSE_REPEAT (R341). -/
def execPauseRepeat (s : State) : Host.Outcome State Fault Refusal :=
  .next <|
    if s.link.pausing && 16384 ≤ s.rxFill then s.emit (.pause (s.rd Reg.HOSTLINK_PAUSE_QUANTA 0)) else s

/-- PAUSE_FRAME (R340): counted always, honoured with PRX = 1. -/
def execPauseFrame (quanta : Half) (s : State) : Host.Outcome State Fault Refusal :=
  .next <|
    if !s.on Reg.HOSTLINK_STAT_LINK_UP 0 then s
    else
      let s := s.bump Reg.HOSTLINK_PAUSERX_N 0 1
      if s.on Reg.HOSTLINK_CTRL_PRX 0 then s.put Reg.HOSTLINK_STAT_PAUSED 0 (quanta != 0) else s

/-- PAUSE_EXPIRY (R340). -/
def execPauseExpiry (s : State) : Host.Outcome State Fault Refusal := .next (s.put Reg.HOSTLINK_STAT_PAUSED 0 false)

/-- ARP_REQUEST (R325): a request for HOSTLINK_IP is answered. -/
def execArpRequest (mac : BitVec 48) (ip target : Word) (s : State) : Host.Outcome State Fault Refusal :=
  .next <|
    if s.on Reg.HOSTLINK_STAT_LINK_UP 0 && target = s.reg (Reg.HOSTLINK_IP_IP.addr 0) then s.emit (.arp mac ip) else s

/-- Codewords of the RS-FEC corrected and not correctable (R348). -/
def State.fecCount (ce ue : Nat) (s : State) : State :=
  (s.bump Reg.HOSTLINK_FECCE_N 0 ce).bump Reg.HOSTLINK_FECUE_N 0 ue

/-- RX_DISCARD (R322, R324; on the UART R443): counted, with the codewords since the frame before (R348). -/
def execRxDiscard (x : RxBad) (s : State) : Host.Outcome State Fault Refusal :=
  .next <|
    if s.mode < 3 then s
    else if x.uart then s.bump Reg.LOCK_UARTERR_N 0 1
    else if s.on Reg.HOSTLINK_STAT_LINK_UP 0 then (s.fecCount x.fecCe x.fecUe).rxDrop else s

end Sys2Proof.Machine
end

