-- ==== Sys2Proof/Machine/Ring.lean ====
section
/-! DEFINITION. Hawser ports, frames, positions, breaks and the head's judgement of copies (R349 to R364). -/

namespace Sys2Proof.Machine

/-! ### Ports and roles -/

/-- The other port. -/
def otherPort (p : HwPort) : HwPort :=
  match p with
  | .a => .b
  | .b => .a

/-- Run-time state of a port. -/
def State.hw (s : State) (p : HwPort) : HwPortSt :=
  match p with
  | .a => s.hawser.portA
  | .b => s.hawser.portB

/-- Run-time state of a port replaced. -/
def State.setHw (p : HwPort) (x : HwPortSt) (s : State) : State :=
  match p with
  | .a => { s with hawser := { s.hawser with portA := x } }
  | .b => { s with hawser := { s.hawser with portB := x } }

/-- LINK_A or LINK_B. -/
def linkField (p : HwPort) : Field :=
  match p with
  | .a => Reg.HAWSER_STAT_LINK_A
  | .b => Reg.HAWSER_STAT_LINK_B

/-- A port is up. -/
def State.hwUp (s : State) (p : HwPort) : Bool := s.on (linkField p) 0

/-- Ring size (R350). -/
def State.ringSize (s : State) : Nat := s.rd Reg.HAWSER_CTRL_NDEV 0 + 1

/-- Position of the device; the head has 0. -/
def State.pos (s : State) : Nat := if s.isHead then 0 else s.rd Reg.HAWSER_POS_POS 0

/-- A position-conflict device sends only TOPO_ACK; a head in conflict sends no DATA and no CMD (R349, R351).
DEDUCED: log entry 46. -/
def State.mute (s : State) : Bool :=
  if s.isHead then s.on Reg.HAWSER_STAT_HEAD_CONFLICT 0 else s.on Reg.HAWSER_STAT_POS_CONFLICT 0

/-- A frame may leave a port: a head in conflict sends no DATA and no CMD, a device in conflict of its own only TOPO_ACK (R349, R351).
DEDUCED: log entry 46. -/
def State.mayLeave (s : State) (own : Bool) (f : HwFrame) : Bool :=
  !(s.mute && (if s.isHead then f.ty = 1 || f.ty = 2 else own && f.ty != 6))

/-- A RING record, written when its flag changes (Table 18.2). -/
def State.ringLog (src rseq : Nat) (set : Bool) (s : State) : State :=
  let (t, s) := s.linkTime
  s.log_ 0x61 4 set (s.reg (Reg.HAWSER_STAT_BREAK.addr 0)).toNat (s.reg (Reg.HAWSER_BREAK_SEG.addr 0)).toNat src rseq t

/-- A flag of HAWSER_STAT is set, with a record when it was not. -/
def State.ringFlag (f : Field) (src rseq : Nat) (s : State) : State :=
  if s.on f 0 then s else (s.put f 0 true).ringLog src rseq true

/-! ### Bytes and classes -/

/-- A Tilvar header and segment as bytes (Table 14.3). -/
def datagramBytes (d : Datagram) : List Byte :=
  leBytes 2 0x4B54 ++ leBytes 1 1 ++ leBytes 1 d.ty ++ leBytes 1 d.origin ++ leBytes 1 d.session ++ leBytes 2 d.flags
    ++ leBytes 4 d.seq ++ leBytes 4 d.msgno ++ leBytes 4 d.mlen ++ leBytes 4 d.offset ++ d.seg

/-- Class of a message type (R338). -/
def msgClass (ty : Nat) : Nat :=
  if ty = 0x80 then 1 else if ty = 5 || ty = 7 then 3 else if ty = 6 || ty = 8 then 4 else 5

/-- Class of a frame at an output port: control frames go first. DEDUCED: log entry 47. -/
def frameClass (f : HwFrame) : Nat :=
  match f.body with
  | .tilvar d => if f.ty = 1 then msgClass d.ty else 0
  | _ => 0

/-! ### Sending (R355, R356) -/

/-- The frame a port serves next: the lowest class; within it transit and own frames in turn (R356); `lastOwn`: classes that
served an own frame last. -/
def pickFrame (w : List (Nat × Bool × HwFrame)) (lastOwn : List Nat) : Option (Nat × Bool × HwFrame) :=
  let c := w.foldl (fun m x => min m x.1) 6
  let l := w.filter fun x => x.1 = c
  match l.find? fun x => x.2.1 != lastOwn.contains c with
  | some x => some x
  | none => l.head?

/-- One frame leaves a port that has one waiting and holds credit. -/
def State.hwServe (p : HwPort) (s : State) : State :=
  let x := s.hw p
  if x.credit ≤ x.unacked.length || 512 ≤ x.unacked.length then s
  else match pickFrame (x.wait.filter fun y => s.mayLeave y.2.1 y.2.2) x.lastOwn with
    | none => s
    | some (c, own, f) =>
      let g := { f with lseq := x.next, replay := false }
      let last := x.lastOwn.filter (· != c)
      let x := { x with wait := x.wait.erase (c, own, f), lastOwn := if own then c :: last else last, next := (x.next + 1) % 2 ^ 32,
                        unacked := x.unacked ++ [g] }
      (s.setHw p x).emit (.hawser p g)

/-- Frames leave while credit lasts. DEDUCED: log entry 47. -/
def State.hwPump (p : HwPort) (s : State) : State := s.each (List.range (s.hw p).wait.length) fun _ s => s.hwServe p

/-- A frame is given to a port; a port that is down loses it. -/
def State.hwSend (p : HwPort) (own : Bool) (f : HwFrame) (s : State) : State :=
  if !s.hwUp p then s
  else (s.setHw p { s.hw p with wait := (s.hw p).wait ++ [(frameClass f, own, f)] }).hwPump p

/-- Payload of a frame with a link sequence number (Table 15.2). DESIGN CHOICE: log entry 2. DEDUCED: log entry 47. -/
def bodyBytes (b : HwBody) : List Byte :=
  match b with
  | .tilvar d => datagramBytes d
  | .topo n => (List.range 32).map (Config.topoByte [n])
  | .topoAck k n c brk =>
    (List.range 32).map (Config.topoByte [k, n, if c then 1 else 0, (brk.map fun j => (j : Int)).getD (-1)])

/-- A frame of the device's own on one port, its CCRC over the payload (R354): path A leaves HW_B (Table 15.1).
DEDUCED: log entry 47. -/
def State.ownFrame (p : HwPort) (ty dst rseq : Nat) (body : HwBody) (s : State) : State :=
  s.hwSend p true ⟨ty, decide (p = .a), false, s.pos, dst, 0, rseq, crc32 (bodyBytes body), body⟩

/-- A TOPO_ACK on one port. -/
def State.topoAckOut (p : HwPort) (brk : Option Nat) (s : State) : State :=
  s.ownFrame p 6 0 s.mram.incarn (.topoAck s.pos s.mram.incarn (s.on Reg.HAWSER_STAT_POS_CONFLICT 0) brk)

/-! ### The head's judgement (R359) -/

/-- A segment of another device enters the head's host port, or its response the slot of its command (R359, R360). -/
def State.enterHost (src : Nat) (d : Datagram) (s : State) : State :=
  if d.ty = 0x80 then (if d.session = s.session then s.formResp d.seq d.seg else s)
  else { s with link := { s.link with txq := s.link.txq ++ [⟨d.ty, src, .seg { d with origin := src }, 0, none⟩] } }

/-- A frame's segment enters the host port. -/
def State.forwardUp (f : HwFrame) (s : State) : State :=
  match f.body with
  | .tilvar d => s.enterHost f.src d
  | _ => s

/-- RING_DIVERGED at the head (R359). -/
def State.diverged (src rseq : Nat) (s : State) : State :=
  let s := s.ringFlag Reg.HAWSER_STAT_RING_DIVERGED src rseq
  ((s.wr Reg.HAWSER_DIVLAST_RSEQ 0 rseq).wr Reg.HAWSER_DIVSRC_SRC 0 src).bump Reg.HAWSER_DIVCNT_N 0 1

/-- Check word and length of a copy. DEDUCED: log entry 47. -/
def frameMark (f : HwFrame) : Word × Nat :=
  match f.body with
  | .tilvar d => (f.ccrc, d.seg.length)
  | _ => (f.ccrc, 0)

/-- A copy is intact when its payload matches its CCRC. -/
def frameIntact (f : HwFrame) : Bool := crc32 (bodyBytes f.body) = f.ccrc

/-- Path A of source `src` is known broken (R362). -/
def State.pathABroken (s : State) (src : Nat) : Bool := s.hawser.broken.any fun j => j + 1 ≤ src

/-- No segment seen. -/
def SrcWin.empty : SrcWin := ⟨none, []⟩
/-- No copy seen. -/
def Copy.none : Copy := ⟨.none, .none⟩

/-- A window with a copy of `rseq`: segments 4,096 below the newest leave it. DEDUCED: log entry 47. -/
def SrcWin.note (w : SrcWin) (rseq : Nat) (c : Copy) : SrcWin :=
  let ahead := w.top.all fun t => (rseq + 2 ^ 32 - t) % 2 ^ 32 < 2 ^ 31
  let top := if ahead then (rseq + 1) % 2 ^ 32 else w.top.getD 0
  ⟨some top, (w.copies.put rseq c).filter fun x => (top + 2 ^ 32 - x.1) % 2 ^ 32 ≤ 4096⟩

/-- A copy lies below the window. DEDUCED: log entry 47. -/
def SrcWin.late (w : SrcWin) (rseq : Nat) : Bool :=
  w.top.any fun t => decide (4096 < (t + 2 ^ 32 - rseq) % 2 ^ 32) && decide ((t + 2 ^ 32 - rseq) % 2 ^ 32 ≤ 2 ^ 31)

/-- What is kept of one segment of a source. -/
def State.copyOf (s : State) (src rseq : Nat) : Copy :=
  ((s.hawser.wins.getD src SrcWin.empty).copies.find rseq).getD Copy.none

/-- What is kept of one segment replaced. -/
def State.setCopy (src rseq : Nat) (c : Copy) (s : State) : State :=
  { s with hawser := { s.hawser with
      wins := s.hawser.wins.put src ((s.hawser.wins.getD src SrcWin.empty).note rseq c) } }

/-- A copy is forwarded. -/
def State.forwardCopy (f : HwFrame) (s : State) : State :=
  (s.setCopy f.src f.rseq ⟨some ((frameMark f).1, (frameMark f).2, f.pathB), none⟩).forwardUp f

/-- An intact copy inside the window. -/
def State.judgeCopy (f : HwFrame) (s : State) : State :=
  let c := s.copyOf f.src f.rseq
  match c.done, c.held with
  | some (w, n, _), _ =>
    if (frameMark f) = (w, n) then s.bump Reg.HAWSER_DUP_N 0 1 else s.diverged f.src f.rseq
  | none, some h =>
    let s := if f.pathB then s else s.forwardCopy f
    if (frameMark f) = (frameMark h) then s.bump Reg.HAWSER_DUP_N 0 1 else s.diverged f.src f.rseq
  | none, none =>
    if f.pathB && !s.pathABroken f.src then s.setCopy f.src f.rseq ⟨none, some f⟩ else s.forwardCopy f

/-- The head judges a copy (R359). -/
def State.judge (f : HwFrame) (s : State) : State :=
  if !frameIntact f then s.bump Reg.HAWSER_CORRUPT_N 0 1
  else if (s.hawser.wins.getD f.src SrcWin.empty).late f.rseq then s.bump Reg.HAWSER_LATE_N 0 1
  else s.judgeCopy f

/-- A held copy is forwarded. -/
def State.releaseHeld (src rseq : Nat) (s : State) : State :=
  let c := s.copyOf src rseq
  match c.done, c.held with
  | none, some h => s.forwardCopy h
  | _, _ => s

/-- PATH_B_HOLD_EXPIRY (R359). -/
def execPathBHoldExpiry (src : Fin 64) (rseq : Word) (s : State) : Host.Outcome State Fault Refusal :=
  .next (if s.isHead then s.releaseHeld src rseq.toNat else s)

/-! ### Breaks (R362) -/

/-- The head learns that a segment is broken: copies held for the sources behind it are forwarded at once. -/
def State.addBreak (seg : Nat) (s : State) : State :=
  if s.hawser.broken.contains seg then s
  else
    let b := seg :: s.hawser.broken
    let s := { s with hawser := { s.hawser with broken := b, backA := false, backB := false } }
    let was := s.on Reg.HAWSER_STAT_BREAK 0
    let s := ((s.put Reg.HAWSER_STAT_BREAK 0 true).put Reg.HAWSER_BREAK_VALID 0 true).wr Reg.HAWSER_BREAK_SEG 0 (b.foldl min seg)
    let s := if was then s else s.ringLog 0 0 true
    s.each s.hawser.wins fun w s => if s.pathABroken w.1 then s.each w.2.copies fun c s => s.releaseHeld w.1 c.1 else s

/-- The head, or another device that has learned it from a BREAK, knows a segment broken (R362, R363). DEDUCED: log entry 47. -/
def State.noteBreak (seg : Nat) (s : State) : State :=
  if s.isHead then s.addBreak seg
  else { s with hawser := { s.hawser with broken := seg :: s.hawser.broken.filter (· != seg) } }

/-- A TOPO frame of the head on port `p` has passed every segment between (R362). DEDUCED: log entry 47. -/
def State.passed (p : HwPort) (s : State) : State :=
  let beyond (j : Nat) : Bool := match p with
    | .b => s.pos ≤ j
    | .a => j < s.pos
  { s with hawser := { s.hawser with broken := s.hawser.broken.filter beyond } }

/-- A device other than the head reaches it by neither path (R363). DEDUCED: log entry 47. -/
def State.cutOff (s : State) : Bool :=
  (!s.hwUp .b || s.hawser.broken.any fun j => j < s.pos) && (!s.hwUp .a || s.hawser.broken.any fun j => s.pos ≤ j)

/-- TOPO has passed every segment in both directions again. DEDUCED: log entry 47. -/
def State.clearBreak (s : State) : State :=
  if !s.on Reg.HAWSER_STAT_BREAK 0 then s
  else
    let s := { s with hawser := { s.hawser with broken := [] } }
    ((s.put Reg.HAWSER_STAT_BREAK 0 false).setReg (Reg.HAWSER_BREAK_SEG.addr 0) 0).ringLog 0 0 false

/-- The segment at a port of the device (Table 15.1). -/
def State.segment (s : State) (p : HwPort) : Nat :=
  match p with
  | .a => s.pos
  | .b => (s.pos + s.ringSize - 1) % s.ringSize

/-! ### Timing port (R367, R371) -/

/-- A LANYARD record (Table 18.2). -/
def State.lanyardLog (set : Bool) (s : State) : State :=
  s.log_ 0x60 0 set (s.reg (Reg.LANYARD_STAT_LOCKED.addr 0)).toNat (s.rd Reg.LANYARD_OFFS_PS 0) 0 0 s.lany

/-- A flag of LANYARD_STAT takes a value, with a record when it changes. -/
def State.lanyardFlag (f : Field) (b : Bool) (s : State) : State :=
  if s.on f 0 = b then s else (s.put f 0 b).lanyardLog b

/-- Neighbour's HOPS on a port that is up. -/
def State.nbHops (s : State) (p : HwPort) : Option Nat := if s.hwUp p then (s.hw p).hops else none

/-- The timing port the rule gives, from the present one (R367). -/
def State.timingPort (s : State) : Option HwPort :=
  let now : Option HwPort := match s.rd Reg.LANYARD_STAT_TPORT 0 with
    | 1 => some .b
    | 2 => some .a
    | _ => none
  match s.nbHops .a, s.nbHops .b with
  | none, none => none
  | some _, none => some .a
  | none, some _ => some .b
  | some ha, some hb =>
    match now with
    | some .a => if hb < ha then some .b else some .a
    | some .b => if ha < hb then some .a else some .b
    | none => if ha < hb then some .a else some .b

/-- TPORT, HOPS and HOLDOVER follow the ports (R367, R371); the head has none. -/
def State.retime (s : State) : State :=
  if s.isHead then s
  else
    let t := s.timingPort
    let had := s.rd Reg.LANYARD_STAT_TPORT 0 != 0
    let code := match t with
      | none => 0
      | some .b => 1
      | some .a => 2
    let s := s.wr Reg.LANYARD_STAT_TPORT 0 code
    let hops := match s.nbHops .a, s.nbHops .b with
      | none, none => s.rd Reg.LANYARD_HOPS_N 0
      | some a, none => a + 1
      | none, some b => b + 1
      | some a, some b => min a b + 1
    let s := s.wr Reg.LANYARD_HOPS_N 0 hops
    let s := if had && t = none then { s with hawser := { s.hawser with bad := 0 } } else s
    s.lanyardFlag Reg.LANYARD_STAT_HOLDOVER (decide (t = none))

/-! ### Ports up and down (R353, R362) -/

/-- A port goes down: what it held is lost, and both ends of the segment report the break (R362). -/
def State.hwDown (p : HwPort) (s : State) : State :=
  if !s.hwUp p then s
  else
    let s := (s.put (linkField p) 0 false).setHw p HwPortSt.up
    let s := s.noteBreak (s.segment p)
    let s := if s.isHead then s else s.topoAckOut (otherPort p) (some (s.segment p))
    s.retime

/-- HAWSER_PORT_UP (R353): training ends; `skew`: lanes more than 64 ns apart. -/
def execHawserPortUp (p : HwPort) (skew : Bool) (s : State) : Host.Outcome State Fault Refusal :=
  .next <|
    if s.mode < 3 || !s.on Reg.HAWSER_CTRL_EN 0 || s.hwUp p then s
    else if skew then s.put Reg.HAWSER_STAT_DESKEW_ERR 0 true
    else (s.put (linkField p) 0 true).setHw p HwPortSt.up

/-- HAWSER_PORT_DOWN (R362). -/
def execHawserPortDown (p : HwPort) (s : State) : Host.Outcome State Fault Refusal := .next (s.hwDown p)

/-- HAWSER_CTRL.EN is 0: both ports are down. -/
def State.hwDisable (s : State) : State := (s.hwDown .a).hwDown .b

/-! ### ACK and replay (R355) -/

/-- Frames of buffer the receiver of a port grants: 64 less the transit frames that wait for the other port (R356).
DEDUCED: log entry 47. -/
def State.grant (s : State) (p : HwPort) : Nat := 64 - ((s.hw (otherPort p)).wait.filter fun x => !x.2.1).length

/-- The receiver takes a frame of type `ty` with a link sequence number: whether it is the next, and the state after. A frame of
a type the command is not of is refused (R354). -/
def State.hwTake (p : HwPort) (ty : Nat) (ok : Bool) (f : HwFrame) (s : State) : Bool × State :=
  let x := s.hw p
  if !s.hwUp p || (ok && f.ty != ty) then (false, s)
  else if !ok then (false, s.emit (.ack p x.rxNext (s.grant p) true))
  else if f.lseq = x.rxNext then (true, s.setHw p { x with rxNext := (x.rxNext + 1) % 2 ^ 32 })
  else if (f.lseq + 2 ^ 32 - x.rxNext) % 2 ^ 32 < 2 ^ 31 then (false, s.emit (.ack p x.rxNext (s.grant p) true))
  else (false, s)

/-- Frames below NEXT are acknowledged: whether NEXT advanced. -/
def HwPortSt.advance (x : HwPortSt) (next : Nat) : Bool × HwPortSt :=
  let rest := x.unacked.filter fun f => (f.lseq + 2 ^ 32 - next) % 2 ^ 32 < 2 ^ 31
  let moved := rest.length < x.unacked.length
  (moved, { x with unacked := rest, replays := if moved then 0 else x.replays })

/-- RETRY counter of a port. -/
def retryField (p : HwPort) : Field :=
  match p with
  | .a => Reg.HAWSER_RETRY_A_N
  | .b => Reg.HAWSER_RETRY_B_N

/-- Every unacknowledged frame is sent again, oldest first; after 8 replays in a row the port is down. -/
def State.hwReplay (p : HwPort) (s : State) : State :=
  let x := s.hw p
  if x.unacked = [] then s
  else
    let again := x.unacked.map fun f => { f with replay := true }
    let s := (s.setHw p { x with unacked := again, replays := x.replays + 1 }).bump (retryField p) 0 1
    let s := s.each (again.filter fun f => s.mayLeave (f.src = s.pos) f) fun f s => s.emit (.hawser p f)
    if 8 ≤ x.replays + 1 then s.hwDown p else s

/-- HAWSER_ACK (R355, R356). -/
def execHawserAck (p : HwPort) (next : Word) (credit : Half) (s : State) : Host.Outcome State Fault Refusal :=
  .next <|
    if !s.hwUp p then s
    else (s.setHw p { ((s.hw p).advance next.toNat).2 with credit := min 64 credit.toNat }).hwPump p

/-- HAWSER_RETRY (R355): an ACK of KIND 1 makes the sender replay from NEXT. -/
def execHawserRetry (p : HwPort) (next : Word) (credit : Half) (s : State) : Host.Outcome State Fault Refusal :=
  .next <|
    if !s.hwUp p then s
    else (s.setHw p { ((s.hw p).advance next.toNat).2 with credit := min 64 credit.toNat }).hwReplay p |>.hwPump p

/-- REPLAY_TIMEOUT (R355). -/
def execReplayTimeout (p : HwPort) (s : State) : Host.Outcome State Fault Refusal :=
  .next (if s.hwUp p then s.hwReplay p else s)

/-- ACK_SEND (R355). -/
def execAckSend (p : HwPort) (s : State) : Host.Outcome State Fault Refusal :=
  .next (if s.hwUp p then s.emit (.ack p (s.hw p).rxNext (s.grant p) false) else s)

/-! ### TOPO (R350 to R352, R364) -/

/-- TOPO_SEND (R350). -/
def execTopoSend (s : State) : Host.Outcome State Fault Refusal :=
  .next <|
    if s.on Reg.HAWSER_CTRL_EN 0 && s.on Reg.HAWSER_CTRL_HEAD 0 then
      (s.ownFrame .a 5 0xFF 0 (.topo 1)).ownFrame .b 5 0xFF 0 (.topo (s.ringSize - 1))
    else s

/-- A device takes a position, or finds that it holds another (R350, R351). DEDUCED: log entry 47. -/
def State.takePos (n : Int) (s : State) : State :=
  if s.on Reg.HAWSER_POS_VALID 0 then
    if (s.rd Reg.HAWSER_POS_POS 0 : Int) = n then s else s.ringFlag Reg.HAWSER_STAT_POS_CONFLICT s.pos 0
  else (s.wr Reg.HAWSER_POS_POS 0 n.toNat).put Reg.HAWSER_POS_VALID 0 true

/-- A TOPO frame at the head (R349, R351, R362). -/
def State.topoAtHead (p : HwPort) (own : Bool) (count : Int) (s : State) : State :=
  if !own then s.ringFlag Reg.HAWSER_STAT_HEAD_CONFLICT 0 0
  else
    let s := match p with
      | .b => if count = s.ringSize then s else s.put Reg.HAWSER_STAT_SIZE_ERR 0 true
      | .a => s
    let h := match p with
      | .a => { s.hawser with backA := true }
      | .b => { s.hawser with backB := true }
    let s := { s with hawser := h }
    if h.backA && h.backB && s.hwUp .a && s.hwUp .b then s.clearBreak else s

/-- A TOPO frame at another device: position, forwarding, answer on both paths (R350). -/
def State.topoAtDevice (p : HwPort) (f : HwFrame) (count : Int) (s : State) : State :=
  let s := (s.takePos count).passed p
  let n : Int := match p with
    | .b => count + 1
    | .a => count - 1
  let s := s.hwSend (otherPort p) false { f with body := .topo n }
  (s.topoAckOut .a none).topoAckOut .b none

/-- TOPO (R350): `ok`: its LCRC is right; `own`: the head that receives it formed it. -/
def execTopo (p : HwPort) (ok own : Bool) (f : HwFrame) (s : State) : Host.Outcome State Fault Refusal :=
  .next <|
    let (take, s) := s.hwTake p 5 ok f
    match take, f.body with
    | true, .topo n => if s.isHead then s.topoAtHead p own n else s.topoAtDevice p f n
    | _, _ => s

/-- Bit `k` of HAWSER_PRES. -/
def State.present (s : State) (k : Nat) : Bool :=
  if k < 32 then s.bit Reg.HAWSER_PRES_LO_P 0 k else s.bit Reg.HAWSER_PRES_HI_P 0 (k - 32)

/-- Bit `k` of HAWSER_PRES written. -/
def State.setPresent (k : Nat) (b : Bool) (s : State) : State :=
  if k < 32 then s.putBit Reg.HAWSER_PRES_LO_P 0 k b else s.putBit Reg.HAWSER_PRES_HI_P 0 (k - 32) b

/-- A position is absent: commands that wait for it are answered GATED (R352, R360). -/
def State.absent (k : Nat) (s : State) : State :=
  if !s.present k then s
  else
    let s := s.setPresent k false
    let due := s.link.slots.filter fun x => x.origin = k && x.origin != 0 && decide (x.resp = none)
    let s := { s with link := { s.link with begun := s.link.begun.filter fun b => b.2.1 != k } }
    let s := if due = [] then s else s.put Reg.HAWSER_STAT_UNREACHED 0 true
    s.each due fun x s => s.formResp x.seq (gatedResp x.ty x.count)

/-- The head records a TOPO_ACK of a device without POS_CONFLICT (R352, R362, R364). -/
def State.ackAtHead (k incarn : Nat) (brk : Option Nat) (s : State) : State :=
  let s := s.setPresent k true
  let s := if s.hawser.incarn.find k = some incarn then s
    else
      let h := { s.hawser with incarn := s.hawser.incarn.put k incarn, wins := s.hawser.wins.erase k }
      let was := s.on Reg.HAWSER_STAT_JOIN 0
      let s := ({ s with hawser := h }).put Reg.HAWSER_STAT_JOIN 0 true
      if was then s else s.ringLog k 0 true
  match brk with
  | some j => s.addBreak j
  | none => s

/-- TOPO_ACK (R352): recorded at the head, where a device with POS_CONFLICT is absent (R351); forwarded elsewhere.
DEDUCED: log entry 46. -/
def execTopoAck (p : HwPort) (ok : Bool) (f : HwFrame) (s : State) : Host.Outcome State Fault Refusal :=
  .next <|
    let (take, s) := s.hwTake p 6 ok f
    match take, f.body with
    | true, .topoAck k n conflict brk =>
      if s.isHead then (if conflict then s.absent k else s.ackAtHead k n brk)
      else if f.src = s.pos then s
      else (match brk with
        | some j => s.noteBreak j
        | none => s).hwSend (otherPort p) false f
    | _, _ => s

/-- POSITION_ABSENT (R352, R360). -/
def execPositionAbsent (k : Fin 64) (s : State) : Host.Outcome State Fault Refusal :=
  .next (if s.isHead then s.absent k else s)

end Sys2Proof.Machine
end

