-- ==== Sys2Proof/Machine/Reset.lean ====
section
/-! DEFINITION. Entry to BOOT (R382, R450, Table 19.4) and what a reset or a power loss does to a commit (R182). -/

namespace Sys2Proof.Machine

/-- The pair of copies that a cut leaves (R182): `second`: the cut falls on copy 1, `bad`: the copy that was being written. A
copy that already held the commit's bytes still holds them. At least one copy is valid afterwards: a cut of copy 0 that left
none falls on copy 1. DESIGN CHOICE: log entry 29. -/
def cutPair {α : Type} [DecidableEq α] (valid : α → Bool) (new bad : α) (second : Bool) (a b : α) : α × α :=
  let cut (x : α) : α := if x = new then x else bad
  if second || !(valid (cut a) || valid b) then (new, cut b) else (cut a, b)

/-- Where a commit is cut is not stated: while it writes copy 0 or 1 of the fast set, or copy 0 or 1 of the precision
set. A copy written in full is valid; the one being written is not; later copies keep what they held.
DESIGN CHOICE: log entry 29. -/
def State.cutCommit (s : State) : State :=
  match s.commit with
  | none => s
  | some c =>
    let (k, s) := s.fresh
    let at_ := (Config.open_ 11 k % 4).toNat
    let m := s.mram
    let pc := c.pc s
    let (bad, s) := s.wroteCal false c.cal
    let (pbad, s) := s.wrotePc false pc
    let (a, b) := if at_ < 2 then cutPair CalCopy.valid c.cal bad (at_ = 1) m.cal0 m.cal1 else (c.cal, c.cal)
    let (p, q) := if at_ < 2 then (m.pc0, m.pc1) else cutPair PcCopy.valid pc pbad (at_ = 3) m.pc0 m.pc1
    ({ s with commit := none, mram := { m with cal0 := a, cal1 := b, pc0 := p, pc1 := q } }).put
      Reg.GAPCAL_STAT_COMMIT_BUSY 0 false

/-- Registers that a reset keeps: the POWER block and the strap pins (R382, R404, R458). DEDUCED: log entry 17. -/
def State.keptRegs (s : State) (t : State) : State :=
  (t.setReg (Reg.POWER_STAT_MODE.addr 0) (s.reg (Reg.POWER_STAT_MODE.addr 0))).setReg (Reg.GLOBAL_STRAP_PWR.addr 0)
    (s.reg (Reg.GLOBAL_STRAP_PWR.addr 0))

/-- Fields loaded at entry to BOOT from MRAM and OTP (Table 19.4). DEDUCED: log entry 17. -/
def State.loadEntry (cause : Nat) (s : State) : State :=
  let s := ((s.wr Reg.BOOT_RSTCAUSE_CAUSE 0 cause).put Reg.BOOT_RSTCAUSE_HOLDUP 0 s.boot.hadHoldup).put
    Reg.BOOT_RSTCAUSE_PG_TMO 0 s.boot.hadTimeout
  let s := ((s.wr Reg.BOOT_INCARN_N 0 s.mram.incarn).wr Reg.LOCK_CFG_FLOOR 0 s.otp.floor).setPair Reg.LOCK_SERIAL_LO_S 0
    s.otp.serial
  let s := (s.wr Reg.LOCK_STAT_FAILS 0 s.mram.fails).wr Reg.LOCK_LOUT_SEC 0 s.mram.lockout
  (s.put Reg.LOCK_STAT_LOCKOUT 0 (s.mram.lockout != 0)).showSlots

/-- The line a device off the air and back on has carried stays in the model's record of outputs.
DEDUCED: log entry 17. -/
def LinkSt.restart (l : LinkSt) : LinkSt := { LinkSt.reset with wire := l.wire }

/-- Entry to BOOT: every island at its reset values but the line front end, the POWER block and the MRAM; `cause` as
BOOT_RSTCAUSE.CAUSE has it. DEDUCED: log entry 17. -/
def State.enterBoot (cause : Nat) (s : State) : State :=
  let s := s.cutCommit.cutFlash
  let r := State.reset
  let b := s.boot
  let t := { r with pending := s.pending, free := s.free, otp := s.otp, power := s.power, link := s.link.restart,
                    lastCommit := s.lastCommit.map (· - (s.tick : Int)),
                    mram := s.mram.setCtr { s.mram.ctr with incarn := (s.mram.incarn + 1) % 2 ^ 32 },
                    boot := { r.boot with flash := b.flash, hadHoldup := b.hadHoldup,
                                          hadTimeout := b.hadTimeout && cause ≤ 2, holdup := b.holdup } }
  let t := ((s.keptRegs t).loadEntry cause).logNow 2 0 s.mode 3 0 0
  { t with boot := { t.boot with hadTimeout := false } }

/-- The block goes to OFF (R379, R380): every rail is off. DEDUCED: log entries 17 and 18. -/
def State.powerOff (s : State) : State :=
  let s := s.cutCommit.cutFlash
  let r := State.reset
  let b := s.boot
  let t := { r with pending := s.pending, free := s.free, otp := s.otp, mram := s.mram, link := s.link.restart,
                    power := { s.power with gate := false, queried := false, requested := none },
                    boot := { r.boot with flash := b.flash, hadHoldup := b.hadHoldup, hadTimeout := b.hadTimeout } }
  let t := ((s.keptRegs t).wr Reg.POWER_STAT_PG 0 0).put Reg.POWER_STAT_HOLDUP 0 false
  (t.wr Reg.BOOT_STATE_STATE 0 0).driveSafe

end Sys2Proof.Machine
end

