-- ==== Sys2Proof/Machine/RegAccess.lean ====
section
/-! DEFINITION. Register accesses from every source: what a read returns and does, what a write does to each field and what
it starts (R5, R16, R29, R30, R438, R451 to R456). -/

namespace Sys2Proof.Machine

/-! ### Islands and gating (R30, R347) -/

/-- A tile keeps a channel whose monitor runs in sampled mode, so WATCH does not gate its sample island (R82).
DEDUCED: log entry 13. -/
def State.tileKept (s : State) (tile : Nat) : Bool :=
  (List.range 16).any fun j =>
    let ch := 16 * tile + j
    s.on Reg.WMON_CTRL_EN ch && s.rd Reg.WMON_CTRL_MODE ch = 3 && s.rd Reg.FC_CTRL_PWR ch != 2

/-- The island of an access is gated. A plan is read from the sample island of T0 and written into all 12 (R84).
DEDUCED: log entry 13. -/
def State.gated (s : State) (h : Hit) (write : Bool) : Bool :=
  s.inWatch && match h.island with
    | .fold | .phase | .core => true
    | .sample => !s.tileKept (h.inst / 16)
    | .plan => if write then !(List.range 12).all s.tileKept else !s.tileKept 0
    | _ => false

/-- ISLAND of a record about a register (Table 18.1). DEDUCED: log entry 12. -/
def Hit.islandNo (h : Hit) : Nat :=
  match h.island with
  | .housekeeping => 0
  | .fold => 1
  | .phase => 2
  | .core => 3
  | .link => 4
  | .precision => 5
  | .sample => 6 + h.inst / 16
  | .plan => 6

/-! ### Values that are not held as register words -/

/-- A level as a field of `n` values shows it; how a part of a code is rounded is not stated.
DESIGN CHOICE: log entry 15. -/
def levelField (n : Nat) (r : Rat) : Nat :=
  let k := r.floor.toNat
  min (n - 1) (if (k : Rat) = r then k else k + (Config.open_ 12 k % 2).toNat)

/-- A running strand of the port lacks the learned level of a type (Table 5.5); 1 as at reset while none runs.
DEDUCED: log entry 14. -/
def State.noband (s : State) (p : Nat) : Bool :=
  let l := s.portStrands p
  l = [] || l.any fun i => (List.range (s.cycleLen p)).any fun k => nth (s.strand i).learned k none = none

/-- PRB_SETNOW, PRB_PLVLk, PRB_MLVLk, PRB_STAT. DEDUCED: log entry 14. -/
def State.viewProbe (s : State) (p off k : Nat) (w : Word) : Word :=
  match off with
  | 0x10 => Reg.PRB_SETNOW_CEIL.insert w (s.ceilingNow p)
  | 0x30 =>
    let rt := s.strand (s.rd Reg.PRB_PRES_RDSTRAND p)
    BitVec.ofNat 32 (65536 * levelField 65536 (nth rt.lastLevel k 0)
      + (nth rt.learned k none).elim 0 (levelField 65536))
  | 0x40 => BitVec.ofNat 32 ((nth (s.port p).monLearned k none).elim 0 (levelField (2 ^ 32)))
  | 0x50 =>
    let der := decide (s.ceilingNow p < s.rd Reg.PRB_SET_TARGET p)
    Reg.PRB_STAT_NOBAND.insert (Reg.PRB_STAT_DER_ACTIVE.insert w (if der then 1 else 0)) (if s.noband p then 1 else 0)
  | _ => w

/-- The window of GAPCAL_VSEL (R178, R179, Table 7.6). -/
def State.viewGapcal (s : State) (off : Nat) (w : Word) : Word :=
  if off < 0x44 then w
  else match s.vsel with
    | none => 0
    | some (ch, code) =>
      let c := s.chan ch
      let two (hi lo : Int) : Word := BitVec.ofInt 16 hi ++ BitVec.ofInt 16 lo
      let low (x : Int) : Word := (BitVec.ofInt 24 x).setWidth 32
      match off with
      | 0x44 => two (nth c.wOff code 0) (nth c.hOff code 0)
      | 0x48 => low (nth c.hGain code 0)
      | 0x4C => low (nth c.wGain code 0)
      | 0x50 => two c.wSkew c.hSkew
      | 0x54 => BitVec.ofNat 32 c.acc
      | 0x58 => BitVec.ofNat 32 c.rej
      | 0x5C => BitVec.ofNat 32 c.nq
      | 0x60 => c.tAcc.setWidth 32
      | 0x64 => (c.tAcc >>> 32).setWidth 32
      | 0x68 => two c.ePos c.eNeg
      | _ => w

/-- WMON_STAT: the filtered states read 0 while the monitor is off (R239, R241). DEDUCED: log entry 14. -/
def State.viewMon (s : State) (ch : Nat) (w : Word) : Word :=
  let c := s.chan ch
  let en := s.on Reg.WMON_CTRL_EN ch
  let deciding := en && (c.mon = .first || c.mon = .on) && (s.rd Reg.WMON_CTRL_MODE ch != 3 || c.strobe.isSome)
  let put (f : Field) (b : Bool) (w : Word) : Word := f.insert w (if b then 1 else 0)
  put Reg.WMON_STAT_NOPWR (en && !s.pgaOn ch) (put Reg.WMON_STAT_ACTIVE deciding
    (put Reg.WMON_STAT_FL (en && c.lower.f) (put Reg.WMON_STAT_FU (en && c.upper.f) w)))

/-- Address CORE_DMADR names: bits 1:0 are ignored. -/
def State.dmAdr (s : State) (c : Nat) : Nat := s.rd Reg.CORE_DMADR_A c / 4 * 4

/-- CORE_IPEND, CORE_IMD, CORE_DMDAT. -/
def State.viewCore (s : State) (c off : Nat) (w : Word) : Word :=
  match off with
  | 0x20 => BitVec.ofNat 32 (s.ipend c)
  | 0x38 => s.imWord c (s.rd Reg.CORE_IMA_A c)
  | 0x40 => BitVec.ofNat 32 (leNat (s.dmBytes c (s.dmAdr c) 4))
  | _ => w

/-- What a read of a register returns. -/
def State.view (s : State) (h : Hit) (a : Nat) : Word :=
  let w := s.reg a
  match h.grp with
  | .lanyard => if h.off = 8 then s.lany.setWidth 32 else if h.off = 0xC then (s.lany >>> 32).setWidth 32 else w
  | .probe => s.viewProbe h.inst h.off h.copy w
  | .fc => if h.off = 0xC then Reg.FC_STAT_PEND.insert w (if s.planPend h.inst then 1 else 0) else w
  | .gapcal => s.viewGapcal h.off w
  | .gapCh => Reg.GAPCAL_CHSTAT_PEND.insert w (if (s.chan h.inst).calPend then 1 else 0)
  | .wmon => if h.off = 0xC then s.viewMon h.inst w else w
  | .wmonG =>
    if h.off = 8 then BitVec.ofNat 32 (((List.range 12).map fun c => if s.monLine c then 2 ^ c else 0).foldl (· + ·) 0)
    else w
  | .core => s.viewCore h.inst h.off w
  | _ => w

/-! ### Pairs (R29, R454) -/

/-- Low words of Table 19.5. DEDUCED: log entry 11. -/
def Hit.isLow (h : Hit) : Bool :=
  match h.grp with
  | .strand => h.off = 0x14 || h.off = 0x2C
  | .gapcal => h.off = 0x1C || h.off = 0x60
  | .pc => h.off = 0x64
  | .lanyard => h.off = 0x08 || h.off = 0x10
  | .safety => h.off = 0x0C
  | _ => false

/-- The holding register of a source in an island. DEDUCED: log entry 11. -/
def holdKey (src : Source) (i : Island) : Nat :=
  let n := match src with
    | .host => 0
    | .hawser => 1
    | .uart => 2
    | .core c => 3 + c.val
  let k := match i with
    | .sample => 0
    | .plan => 0
    | .fold => 1
    | .phase => 2
    | .core => 3
    | .link => 4
    | .housekeeping => 5
    | .precision => 6
  8 * n + k

/-- The word a read of a pair's high word returns, and the holding register afterwards. DEDUCED: log entry 11. -/
def State.capture (s : State) (src : Source) (h : Hit) (a : Nat) (w : Word) : Word × State :=
  let key := holdKey src h.island
  let held := s.hold.find? fun x => x.key = key
  let rest := s.hold.filter fun x => x.key != key
  if h.isLow then (w, { s with hold := ⟨key, a, s.view { h with off := h.off + 4 } (a + 4)⟩ :: rest })
  else
    let w := match held with
      | some x => if x.low + 4 = a && Hit.isLow { h with off := h.off - 4 } then x.high else w
      | none => w
    (w, { s with hold := rest })

/-! ### Reads -/

/-- Bits of the RC fields of a register. -/
def Hit.rcMask (h : Hit) : Word :=
  h.fields.foldl (fun m f => if f.acc = .rc then m ||| BitVec.ofNat 32 (2 ^ (f.hi + 1) - 2 ^ f.lo) else m) 0

/-- A register with RC fields, split by the clock (R453): what a read returns, without the increments of the present clock, and
what the counters hold after it. Link and core islands have clocks of their own. DEDUCED: log entry 70. -/
def State.rcSplit (s : State) (h : Hit) (a : Nat) : Word × Word :=
  let cur := s.reg a
  let old := if h.island = .link || h.island = .core then cur else s.old.reg a
  h.fields.foldl (fun p f =>
    let x : Field := ⟨0, 0, f.hi, f.lo⟩
    let was := min (x.read old) (x.read cur)
    if f.acc = .rc then (x.insert p.1 was, x.insert p.2 (x.read cur - was)) else p) (cur, cur)

/-- What a read does: it clears RC fields and advances the addresses of CORE_IMD and CORE_DMDAT. -/
def State.readEffect (h : Hit) (a : Nat) (s : State) : State :=
  let s := if h.rcMask = 0 then s
    else
      let b := s.old.setReg a (s.old.reg a &&& ~~~h.rcMask)
      { s.setReg a (s.rcSplit h a).2 with before := b.regs }
  match h.grp, h.off with
  | .core, 0x38 => s.count Reg.CORE_IMA_A h.inst 1
  | .core, 0x40 => s.count Reg.CORE_DMADR_A h.inst 4
  | _, _ => s

/-- A read by a source: the value, the access code in `acc`. DEDUCED: log entry 11. -/
def State.readReg (src : Source) (a : Nat) (s : State) : State :=
  let give (c : AccCode) (w : Word) (s : State) : State := { s with acc := c, readVal := w }
  if s.mode < 3 then s
  else match lookup a with
    | none => give .ok 0 s
    | some h =>
      if s.gated h false then give .gated 0 s
      else
        let (w, s) := s.capture src h a (if h.rcMask = 0 then s.view h a else (s.rcSplit h a).1)
        give .ok w (s.readEffect h a)

/-! ### Fields of a write (R16, R451) -/

/-- Mask of a field. -/
def FieldSpec.mask (f : FieldSpec) : Word := BitVec.ofNat 32 (2 ^ (f.hi + 1) - 2 ^ f.lo)

/-- The register holds RWL or IMG fields together with writable fields of other codes. DEDUCED: log entry 12. -/
def Hit.mixed (h : Hit) : Bool :=
  h.fields.any fun f => f.acc = .rw || f.acc = .w1c || f.acc = .w1s || f.acc = .wo

/-- An RWL or IMG field counts as written (R451). -/
def FieldSpec.counts (f : FieldSpec) (mixed : Bool) (old v : Word) : Bool :=
  match f.acc with
  | .rwl => !mixed || v &&& f.mask != 0
  | .img => !mixed || v &&& f.mask != old &&& f.mask
  | _ => false

/-- The word with one field written under its access code. DEDUCED: log entry 12. -/
def FieldSpec.write (f : FieldSpec) (open_ : Bool) (mixed : Bool) (old v w : Word) : Word :=
  let set := (w &&& ~~~f.mask) ||| (v &&& f.mask)
  match f.acc with
  | .rw => set
  | .w1c => w &&& ~~~(v &&& f.mask)
  | .w1s => w ||| (v &&& f.mask)
  | .rwl | .img => if open_ && f.counts mixed old v then set else w
  | .ro | .rc | .wo => w

/-- Lock class of a register's RWL and IMG fields (Table 18.6). -/
def Hit.lockClass (h : Hit) : LockClass :=
  match h.grp with
  | .gapcal => if h.off = 0x0C || h.off = 0x44 || h.off = 0x48 || h.off = 0x50 then .calibration else .config
  | .pc => if 0x44 ≤ h.off && h.off ≤ 0x50 then .calibration else .config
  | .core => if h.off = 0x14 then .config else .raw
  | .boot => if h.off = 0x14 then .config else .device
  | .safety => if h.off = 0x28 then .device else .config
  | .log => if h.off < 0x100 then .device else .config
  | _ => .config

/-- Registers whose words the generic rule does not store: command registers that read 0, windows, and those an effect
below writes by itself. -/
def Hit.keeps (h : Hit) : Bool :=
  match h.grp with
  | .gapcal => h.off = 0x0C || h.off = 0x44 || h.off = 0x48 || h.off = 0x50
  | .pc => h.off = 0x44
  | .core => h.off = 0x38 || h.off = 0x40
  | .boot => h.off = 0x04 || h.off = 0x3C
  | .safety => h.off = 0x00 || h.off = 0x28
  | .log => h.off = 0x00
  | _ => false

/-! ### What a write starts -/

/-- STRAND_CTRL and STRAND_CMD; RUN is discarded in SAFE_STOP (R419) and forced to 0 by the image (R388). -/
def State.wrStrand (image : Bool) (i off : Nat) (v : Word) (s : State) : State :=
  match off with
  | 0x00 =>
    if image || s.inSafeStop then s
    else if v.getLsbD 0 then s.runOn i else s.runOff i
  | 0x1C => if v.getLsbD 0 then s.strandAbort i (v.getLsbD 1) (v.toNat / 256 % 256) else s
  | _ => s

/-- FOLD_CMD. -/
def State.wrFold (i : Nat) (v : Word) (s : State) : State :=
  let s := if v.getLsbD 0 then s.snap i else s
  if v.getLsbD 1 then s.restart i else s

/-- GAPCAL_CMD and the HELD fields; `free`: the lock lets the RWL field through. -/
def State.wrGapcal (free : Bool) (off : Nat) (v : Word) (s : State) : State :=
  match off with
  | 0x0C =>
    let s := if v.getLsbD 2 && free then s.commitCmd else s
    if v.getLsbD 0 then s.gapAbortCmd (v.toNat / 256 % 64) else s
  | 0x44 => if free then s.windowWrite 0 v else s
  | 0x48 => if free then s.windowWrite 1 v else s
  | 0x50 => if free then s.windowWrite 2 v else s
  | _ => s

/-- A monitor control word that differs from `old` takes effect (R239, R241). DEDUCED: log entry 53. -/
def State.monCtrl (ch : Nat) (old : Word) (s : State) : State :=
  let s := s.repower ch
  let same (f : Field) : Bool := f.read old = s.rd f ch
  if !s.on Reg.WMON_CTRL_EN ch then
    let c := s.chan ch
    s.setChan ch { c with mon := .off, strobe := none, upper := { c.upper with f := false }, lower := { c.lower with f := false } }
  else if Reg.WMON_CTRL_EN.read old = 1 && same Reg.WMON_CTRL_MODE && same Reg.WMON_CTRL_MM1 && same Reg.WMON_CTRL_NM1 then s
  else s.monWait ch

/-- A write of FC_CTRL in WATCH powers the strobes of a sampled monitor down or up again: its start waits (R82, R232, R239). -/
def State.watchPower (ch : Nat) (was : Word) (s : State) : State :=
  if s.inWatch && s.on Reg.WMON_CTRL_EN ch && s.rd Reg.WMON_CTRL_MODE ch = 3
      && (Reg.FC_CTRL_PWR.read was = 2) != (s.rd Reg.FC_CTRL_PWR ch = 2) then
    (s.setChan ch { s.chan ch with strobe := none }).monWait ch
  else s

/-- FC_CTRL and FC_HITCH: the power state follows (R80), and a channel whose ROLE becomes IX has skew 0 (Table 7.1). -/
def State.wrFc (ch off : Nat) (was : Word) (s : State) : State :=
  match off with
  | 0x00 => (s.repower ch).watchPower ch was
  | 0x04 => (s.repower ch).ixSkew ch
  | _ => s

/-- PC registers: settings wait for their boundary (R218), IMM acts now (R219), PC_FSTAT and PC_CMD; a write between the two
phases breaks their pair (R216).
DEDUCED: log entry 12. -/
def State.wrPc (free : Bool) (c off : Nat) (v was : Word) (s : State) : State :=
  let s := s.setPc c { s.pc c with pair0 := none }
  match off with
  | 0x10 => s.fstatCleared c v was
  | 0x44 =>
    let s := if v.getLsbD 0 then s.icalStart c else s
    let s := if v.getLsbD 3 && free then s.sysClear c else s
    let s := if v.getLsbD 1 && free then s.sysStart c false else s
    if v.getLsbD 2 && free then s.sysStart c true else s
  | _ =>
    if off = 0 && v.getLsbD 31 then s.excImm c
    else if off ≤ 0x0C || (0x20 ≤ off && off ≤ 0x34) then s.pcPend c
    else s

/-- CORE registers (R256, R264, R278, R281). -/
def State.wrCore (free : Bool) (c off : Nat) (v : Word) (s : State) : State :=
  match off with
  | 0x00 => s.coreEnable c
  | 0x04 => if v.getLsbD 0 then s.coreAbort c (v.getLsbD 1) (v.toNat / 256 % 256) else s
  | 0x10 => s.csinitWritten c
  | 0x24 => s.pend c 3
  | 0x38 => if free then (s.imWrite c (s.rd Reg.CORE_IMA_A c) v).count Reg.CORE_IMA_A c 1 else s
  | 0x40 =>
    if free then (s.dmWrite c (s.dmAdr c) (leBytes 4 v.toNat)).count Reg.CORE_DMADR_A c 4 else s
  | _ => s

/-- BOOT_CMD (R382, R391, R392, R395 to R398, R419). DEDUCED: log entry 16. -/
def State.bootCmd (free : Bool) (v : Word) (s : State) : State :=
  let n := ((List.range 5).filter fun k => v.getLsbD k).length
  if s.inSafeStop && !v.getLsbD 4 then s
  else if 1 < n then s.reject
  else if v.getLsbD 4 then (if free && v.toNat / 256 % 256 = 0xA5 && !s.overruled 2 then (s.enterBoot 4).governed 2 else s)
  else if v.getLsbD 0 then s.cmdRun
  else if v.getLsbD 1 then s.cmdHold
  else if v.getLsbD 2 then s.cmdResume
  else if v.getLsbD 3 then s.cmdWatch
  else s

/-- BOOT registers. -/
def State.wrBoot (free : Bool) (off : Nat) (v : Word) (s : State) : State :=
  match off with
  | 0x04 => s.bootCmd free v
  | 0x3C => if free then s.fdataWrite v else s
  | 0x40 => if free && v.toNat % 4 != 0 then s.flashCmd (v.toNat % 4) else s
  | _ => s

/-- LOG and LOCK registers. -/
def State.wrLog (src : Nat) (free : Bool) (off : Nat) (v : Word) (s : State) : State :=
  match off with
  | 0x00 => if free && v.getLsbD 0 then s.freezeCmd else s
  | 0x04 => if free then s.markLog v.toNat src else s
  | 0x104 => if free then s.lockFlags else s
  | _ => s

/-- A flag whose changes are recorded was cleared by the write (Table 18.2, R429): `was`, the register before it. -/
def State.cleared (s : State) (was : Word) (f : Field) : Bool := f.read was = 1 && !s.on f 0

/-- RING and LANYARD records of the flags a write has cleared (Table 18.2). -/
def State.logCleared (h : Hit) (was : Word) (s : State) : State :=
  match h.grp with
  | .hawser =>
    if h.off != 8 then s
    else s.each ([Reg.HAWSER_STAT_HEAD_CONFLICT, Reg.HAWSER_STAT_POS_CONFLICT, Reg.HAWSER_STAT_RING_DIVERGED,
      Reg.HAWSER_STAT_JOIN].filter (s.cleared was)) fun _ s => s.ringLog 0 0 false
  | .lanyard => if h.off = 4 && s.cleared was Reg.LANYARD_STAT_LOST then s.lanyardLog false else s
  | _ => s

/-- What a write starts, once its fields stand; `was`: the register before it. DEDUCED: log entry 12. -/
def State.writeEffect (src : Nat) (image free : Bool) (h : Hit) (v was : Word) (s : State) : State :=
  match h.grp with
  | .strand => s.wrStrand image h.inst h.off v
  | .foldS => if h.off = 4 then s.wrFold h.inst v else s
  | .foldC => if h.off = 4 then s.relPlanes h.inst (v.getLsbD 0) (v.getLsbD 1) else s
  | .fc => s.wrFc h.inst h.off was
  | .wmon => if h.off = 0 then s.monCtrl h.inst was else s
  | .gapcal => s.wrGapcal free h.off v
  | .pc => s.wrPc free h.inst h.off v was
  | .core => s.wrCore free h.inst h.off v
  | .hostlink =>
    if h.off = 0 then (if s.on Reg.HOSTLINK_CTRL_EN 0 then s else s.hostDown).rxPause
    else if h.off = 0x28 || h.off = 0x2C then s.driveEvt
    else s
  | .hawser => if h.off = 0 then (if s.on Reg.HAWSER_CTRL_EN 0 then s else s.hwDisable).retime else s.logCleared h was
  | .lanyard => s.logCleared h was
  | .boot => s.wrBoot free h.off v
  | .safety => if h.off = 0 then s.clearFaults v else if h.off = 0x28 && free && v.getLsbD 0 then s.source 15 else s
  | .log => s.wrLog src free h.off v
  | _ => s

/-! ### Writes -/

/-- FC_GAIN is discarded while the tracker of the channel's strand is on (R78), an image's write too.
DESIGN CHOICE: log entry 72. -/
def State.gainHeld (s : State) (h : Hit) : Bool :=
  h.grp = .fc && h.off = 8 && (s.strandOf h.inst).any fun i => s.on Reg.FC_PLAN_RT_EN i

/-- The word a register holds after a write; STRAND_CTRL.RUN is left to its effect. DEDUCED: log entry 12. -/
def State.written (s : State) (free : Bool) (h : Hit) (a : Nat) (v : Word) : Word :=
  let old := s.reg a
  if h.keeps || s.gainHeld h then old
  else
    let w := h.fields.foldl (fun w f => f.write free h.mixed old v w) old
    if h.grp = .strand && h.off = 0 then (w &&& ~~~1) ||| (old &&& 1) else w

/-- Place of a source in the order in which writes of one clock are applied (R27). -/
def srcRank : Source → Nat
  | .core _ => 1
  | .hawser => 2
  | .host => 3
  | .uart => 4

/-- A register of an island with at most one clock edge in a tick: two writes of it in one tick fall in one clock (R17, R27).
DEDUCED: log entry 70. -/
def Hit.oneEdge (h : Hit) : Bool :=
  match h.island with
  | .core | .link => false
  | .sample | .plan | .fold | .phase | .housekeeping | .precision => true

/-- The word that acts: of W1C fields without the bits hardware sets in this clock (R17); with the stored bits of the other
writable fields where a source that R27 puts later has written them in this clock. DEDUCED: log entry 70. -/
def State.acting (s : State) (rank : Nat) (h : Hit) (a : Nat) (v : Word) : Word :=
  let late : Bool := h.oneEdge && decide (rank < s.wrote.getD a 0)
  h.fields.foldl (fun v f => match f.acc with
    | .w1c => v &&& ~~~(s.raised.getD a 0 &&& f.mask)
    | .rw | .rwl | .img => if late && !h.keeps then (v &&& ~~~f.mask) ||| (s.reg a &&& f.mask) else v
    | .ro | .rc | .wo | .w1s => v) v

/-- A write of the register `h` at `a`, of which `act` acts. DEDUCED: log entry 12. -/
def State.writeHit (src : Nat) (image : Bool) (h : Hit) (a : Nat) (v act : Word) (s : State) : State :=
  let old := s.reg a
  let carries := h.fields.any fun f => f.counts h.mixed old v
  let free := image || s.classOpen h.lockClass
  let s := { s with acc := .ok }
  let s := if carries && !free && !h.mixed then s
    else
      let s := s.setReg a (s.written free h a act)
      let s := if carries && free && !image then s.logBy h.inst 0x81 h.islandNo a v.toNat src 0 else s
      s.writeEffect src image free h act old
  if carries && !free then { s with acc := .locked } else s

/-- A write of a source is noted for the rest of its clock (R27). -/
def State.noteWrite (src : Source) (a : Nat) (s : State) : State :=
  { s with wrote := s.wrote.put a (max (s.wrote.getD a 0) (srcRank src)) }

/-- A write by a source. A window register that a later source of R27 has written in this clock is not written again.
DESIGN CHOICE: log entry 6. DEDUCED: log entry 12. -/
def State.writeReg (src : Source) (a : Nat) (v : Word) (s : State) : State :=
  if s.mode < 3 then s
  else match lookup a with
    | none => { s with acc := .ok }
    | some h =>
      if s.gated h true then { s with acc := .gated }
      else if h.grp = .gapcal && 0x44 ≤ h.off && srcRank src < s.wrote.getD a 0 then { s with acc := .ok }
      else (s.writeHit (srcNumber src) false h a v (s.acting (srcRank src) h a v)).noteWrite src a

/-- A write by the image (R388). -/
def State.imageWrite (a : Nat) (v : Word) (s : State) : State :=
  match lookup a with
  | none => s
  | some h => s.writeHit 0 true h a v v

/-! ### The commands that are register accesses -/

/-- A write of the register that holds field `f` of instance `i`. -/
def State.writeField (src : Source) (f : Field) (i : Nat) (v : Nat) (s : State) : State :=
  s.writeReg src (f.addr i) (BitVec.ofNat 32 v)

/-- REGISTER_WRITE (R451). -/
def execRegisterWrite (src : Source) (addr : Nat) (v : Word) (s : State) : Host.Outcome State Fault Refusal :=
  .next (s.writeReg src addr v)

/-- STRAND_START (R49): STRAND_CTRL written with RUN = 1, its other fields as they stand. -/
def execStrandStart (src : Source) (i : StrandId) (s : State) : Host.Outcome State Fault Refusal :=
  .next (s.writeReg src (Reg.STRAND_CTRL_RUN.addr i) (s.reg (Reg.STRAND_CTRL_RUN.addr i) ||| 1))

/-- STRAND_STOP (R53): STRAND_CTRL written with RUN = 0. -/
def execStrandStop (src : Source) (i : StrandId) (s : State) : Host.Outcome State Fault Refusal :=
  .next (s.writeReg src (Reg.STRAND_CTRL_RUN.addr i) (s.reg (Reg.STRAND_CTRL_RUN.addr i) &&& ~~~1))

/-- STRAND_CMD_ABORT (R55, R56). -/
def execStrandCmdAbort (src : Source) (i : StrandId) (any : Bool) (tag : Byte) (s : State) :
    Host.Outcome State Fault Refusal :=
  .next (s.writeField src Reg.STRAND_CMD_ABORT i (256 * tag.toNat + (if any then 2 else 0) + 1))

/-- FOLD_CMD_SNAP (R90). -/
def execFoldCmdSnap (src : Source) (i : StrandId) (s : State) : Host.Outcome State Fault Refusal :=
  .next (s.writeField src Reg.FOLD_CMD_SNAP i 1)

/-- FOLD_CMD_RESTART (R89). -/
def execFoldCmdRestart (src : Source) (i : StrandId) (s : State) : Host.Outcome State Fault Refusal :=
  .next (s.writeField src Reg.FOLD_CMD_RESTART i 2)

/-- FOLD_REL (R98). -/
def execFoldRel (src : Source) (ch : ChanId) (relA relB : Bool) (s : State) : Host.Outcome State Fault Refusal :=
  .next (s.writeField src Reg.FOLD_REL_REL_A ch ((if relA then 1 else 0) + (if relB then 2 else 0)))

/-- GAPCAL_CMD_ABORT (R176). -/
def execGapcalCmdAbort (src : Source) (i : StrandId) (s : State) : Host.Outcome State Fault Refusal :=
  .next (s.writeField src Reg.GAPCAL_CMD_ABORT 0 (256 * i.val + 1))

/-- GAPCAL_CMD_COMMIT (R181). -/
def execGapcalCmdCommit (src : Source) (s : State) : Host.Outcome State Fault Refusal :=
  .next (s.writeField src Reg.GAPCAL_CMD_COMMIT 0 4)

/-- CAL_HELD_WRITE (R177): 0 VOFF, 1 VGAIN, 2 VSKEW. -/
def execCalHeldWrite (src : Source) (which : BitVec 2) (v : Word) (s : State) : Host.Outcome State Fault Refusal :=
  .next <|
    match which with
    | 0 => s.writeReg src (Reg.GAPCAL_VOFF_HELD.addr 0) v
    | 1 => s.writeReg src (Reg.GAPCAL_VGAIN_HELD.addr 0) v
    | 2 => s.writeReg src (Reg.GAPCAL_VSKEW_HELD.addr 0) v
    | _ => s

/-- PC_EXC_IMM (R219). -/
def execPcExcImm (src : Source) (c : PcId) (v : Word) (s : State) : Host.Outcome State Fault Refusal :=
  .next (s.writeReg src (Reg.PC_EXC_IMM.addr c) (v ||| 0x80000000))

/-- PC_CMD_ICAL (R224). -/
def execPcCmdIcal (src : Source) (c : PcId) (s : State) : Host.Outcome State Fault Refusal :=
  .next (s.writeField src Reg.PC_CMD_ICAL c 1)

/-- PC_CMD_SYSZ (R226). -/
def execPcCmdSysz (src : Source) (c : PcId) (s : State) : Host.Outcome State Fault Refusal :=
  .next (s.writeField src Reg.PC_CMD_SYSZ c 2)

/-- PC_CMD_SYSS (R226). -/
def execPcCmdSyss (src : Source) (c : PcId) (s : State) : Host.Outcome State Fault Refusal :=
  .next (s.writeField src Reg.PC_CMD_SYSS c 4)

/-- PC_CMD_SYSCLR (R226). -/
def execPcCmdSysclr (src : Source) (c : PcId) (s : State) : Host.Outcome State Fault Refusal :=
  .next (s.writeField src Reg.PC_CMD_SYSCLR c 8)

/-- CORE_CMD_ABORT (R278). -/
def execCoreCmdAbort (src : Source) (c : CoreId) (any : Bool) (tag : Byte) (s : State) :
    Host.Outcome State Fault Refusal :=
  .next (s.writeField src Reg.CORE_CMD_ABORT c (256 * tag.toNat + (if any then 2 else 0) + 1))

/-- CORE_DOOR (R264). -/
def execCoreDoor (src : Source) (c : CoreId) (v : Word) (s : State) : Host.Outcome State Fault Refusal :=
  .next (s.writeReg src (Reg.CORE_DOOR_V.addr c) v)

/-- CORE_IMD_ACCESS (R281): a write of `w`, or a read. -/
def execCoreImdAccess (src : Source) (c : CoreId) (w : Option Word) (s : State) : Host.Outcome State Fault Refusal :=
  .next <|
    match w with
    | some v => s.writeReg src (Reg.CORE_IMD_D.addr c) v
    | none => s.readReg src (Reg.CORE_IMD_D.addr c)

/-- CORE_DMDAT_ACCESS (R281): a write of `w`, or a read. -/
def execCoreDmdatAccess (src : Source) (c : CoreId) (w : Option Word) (s : State) : Host.Outcome State Fault Refusal :=
  .next <|
    match w with
    | some v => s.writeReg src (Reg.CORE_DMDAT_D.addr c) v
    | none => s.readReg src (Reg.CORE_DMDAT_D.addr c)

/-- BOOT_CMD_RUN (R391). -/
def execBootCmdRun (src : Source) (s : State) : Host.Outcome State Fault Refusal :=
  .next (s.writeField src Reg.BOOT_CMD_RUN 0 1)

/-- BOOT_CMD_HOLD (R395). -/
def execBootCmdHold (src : Source) (s : State) : Host.Outcome State Fault Refusal :=
  .next (s.writeField src Reg.BOOT_CMD_HOLD 0 2)

/-- BOOT_CMD_RESUME (R396). -/
def execBootCmdResume (src : Source) (s : State) : Host.Outcome State Fault Refusal :=
  .next (s.writeField src Reg.BOOT_CMD_RESUME 0 4)

/-- BOOT_CMD_WATCH (R398). -/
def execBootCmdWatch (src : Source) (s : State) : Host.Outcome State Fault Refusal :=
  .next (s.writeField src Reg.BOOT_CMD_WATCH 0 8)

/-- BOOT_CMD_SWRST (R382). -/
def execBootCmdSwrst (src : Source) (key : Byte) (s : State) : Host.Outcome State Fault Refusal :=
  .next (s.writeField src Reg.BOOT_CMD_SWRST 0 (256 * key.toNat + 16))

/-- BOOT_FCMD_ERASE (R402). -/
def execBootFcmdErase (src : Source) (s : State) : Host.Outcome State Fault Refusal :=
  .next (s.writeField src Reg.BOOT_FCMD_OP 0 1)

/-- BOOT_FCMD_PROGRAM (R402). -/
def execBootFcmdProgram (src : Source) (s : State) : Host.Outcome State Fault Refusal :=
  .next (s.writeField src Reg.BOOT_FCMD_OP 0 2)

/-- BOOT_FCMD_READ (R402). -/
def execBootFcmdRead (src : Source) (s : State) : Host.Outcome State Fault Refusal :=
  .next (s.writeField src Reg.BOOT_FCMD_OP 0 3)

/-- BOOT_FDATA_WRITE (R402). -/
def execBootFdataWrite (src : Source) (v : Word) (s : State) : Host.Outcome State Fault Refusal :=
  .next (s.writeReg src (Reg.BOOT_FDATA_D.addr 0) v)

/-- SAFETY_FAULT_CLEAR (R417). -/
def execSafetyFaultClear (src : Source) (w : Word) (s : State) : Host.Outcome State Fault Refusal :=
  .next (s.writeReg src (Reg.SAFETY_FAULT_F.addr 0) w)

/-- SAFETY_TEST_INJ (R425). -/
def execSafetyTestInj (src : Source) (s : State) : Host.Outcome State Fault Refusal :=
  .next (s.writeField src Reg.SAFETY_TEST_INJ 0 1)

/-- LOG_CMD_FREEZE (R431). -/
def execLogCmdFreeze (src : Source) (s : State) : Host.Outcome State Fault Refusal :=
  .next (s.writeField src Reg.LOG_CMD_FREEZE 0 1)

/-- LOG_MARK (R429). -/
def execLogMark (src : Source) (v : Word) (s : State) : Host.Outcome State Fault Refusal :=
  .next (s.writeReg src (Reg.LOG_MARK_V.addr 0) v)

end Sys2Proof.Machine
end

