-- ==== Sys2Proof/Machine/Image.lean ====
section
/-! DEFINITION. The Frafen image: its copies in the boot flash, their checks, and what the boot controller applies
(R383 to R388, R427, R439). -/

namespace Sys2Proof.Machine

/-! ### A copy in the flash (Tables 16.4 and 16.5) -/

/-- `n` flash bytes from `a` on. -/
def State.flashBytes (s : State) (a n : Nat) : List Byte := (List.range n).map fun i => s.flash (a + i)

/-- The number in bytes `o` to `o + n - 1` of a list. -/
def numAt (bs : List Byte) (o n : Nat) : Nat := leNat ((bs.drop o).take n)

/-- A section of a copy: its table entry and its bytes. -/
structure Section where
  type : Nat
  target : Nat
  offset : Nat
  slen : Nat
  crc : Nat
  data : List Byte
  deriving DecidableEq, Repr

/-- A copy: the header fields that the boot uses, its bytes, its sections. -/
structure Image where
  generation : Nat
  policy : Nat
  bodyCrc : Nat
  bytes : List Byte
  sections : List Section
  deriving DecidableEq, Repr

/-- First flash byte of copy A (0) or B (1). -/
def copyBase (k : Nat) : Nat := 0x2000000 * k

/-- Header checks of R384. DEDUCED: log entry 20. -/
def headerOk (h : List Byte) : Bool :=
  let len := numAt h 0x10 4
  let nsect := numAt h 0x14 2
  let gen := numAt h 0x0C 4
  let lines := numAt h 0x1F 1
  numAt h 0 4 = 0x46415246 && numAt h 4 2 = 1 && numAt h 6 2 = 256 && numAt h 8 4 = 0x719200B0 && 1 ≤ gen && gen ≤ 0xFFFFFFFE
    && len % 256 = 0 && 512 ≤ len && len ≤ 8388608 && 1 ≤ nsect && nsect ≤ 64 && numAt h 0x1E 1 ≤ 2
    && lines % 4 ≤ 2 && lines / 8 = 0
    && numAt h 0x3C 4 = (crc32 (h.take 0x3C ++ [0, 0, 0, 0] ++ h.drop 0x40)).toNat

/-- Entry `i` of the section table with its section. -/
def sectionAt (bytes : List Byte) (i : Nat) : Section :=
  let e := (bytes.drop (256 + 16 * i)).take 16
  let off := numAt e 4 4
  let len := numAt e 8 4
  ⟨numAt e 0 1, numAt e 1 1, off, len, numAt e 12 4, (bytes.drop off).take len⟩

/-- Records of a REGWRITE section: address and value. -/
def Section.records (x : Section) : List (Nat × Word) :=
  (List.range (x.slen / 8)).map fun i => (numAt x.data (8 * i) 4, BitVec.ofNat 32 (numAt x.data (8 * i + 4) 4))

/-- A register that no REGWRITE record may address (R384). -/
def isCommandReg (a : Nat) : Bool :=
  match lookup (a / 4 * 4) with
  | none => false
  | some h =>
    let at_ (f : Field) : Bool := f.addr h.inst = a / 4 * 4
    at_ Reg.STRAND_CMD_ABORT || at_ Reg.FOLD_CMD_SNAP || at_ Reg.FOLD_REL_REL_A || at_ Reg.GAPCAL_CMD_ABORT || at_ Reg.PC_CMD_ICAL
      || at_ Reg.CORE_CMD_ABORT || at_ Reg.BOOT_CMD_RUN

/-- Length limits of a section type (Table 16.6). DEDUCED: log entry 20. -/
def Section.lenOk (x : Section) : Bool :=
  match x.type with
  | 1 => x.slen % 8 = 0
  | 2 => x.slen % 4 = 0 && x.slen ≤ 65536
  | 3 =>
    let a := numAt x.data 0 4
    4 ≤ x.slen && a % 4 = 0 && a + (x.slen - 4) ≤ 0x80000
  | _ => true

/-- Checks of one section (R384). DEDUCED: log entry 20. -/
def Section.ok (len nsect : Nat) (x : Section) : Bool :=
  x.offset % 32 = 0 && 256 + 16 * nsect ≤ x.offset && x.offset + x.slen ≤ len && x.crc = (crc32 x.data).toNat
    && 1 ≤ x.type && x.type ≤ 7
    && (x.target = 0xFF || ((x.type = 2 || x.type = 3) && x.target < 12)) && x.lenOk
    && (x.type != 1 || x.records.all fun r => r.1 < 0x48000 && !isCommandReg r.1)

/-- Copy `k` as the boot reads it: none when it is not valid (R384). -/
def State.copy (s : State) (k : Nat) : Option Image :=
  let h := s.flashBytes (copyBase k) 256
  if !headerOk h then none
  else
    let len := numAt h 0x10 4
    let nsect := numAt h 0x14 2
    let bytes := h ++ s.flashBytes (copyBase k + 256) (len - 256)
    let sections := (List.range nsect).map (sectionAt bytes)
    if numAt h 0x38 4 = (crc32 (bytes.drop 256)).toNat && sections.all (fun x => x.ok len nsect) then
      some ⟨numAt h 0x0C 4, numAt h 0x18 4, numAt h 0x38 4, bytes, sections⟩
    else none

/-- Two copies differ in a byte from 0 to the greater LENGTH less 1 (R385): beyond its own LENGTH a copy's flash bytes count. -/
def State.copiesDiffer (s : State) (a b : Image) : Bool :=
  let n := max a.bytes.length b.bytes.length
  s.flashBytes (copyBase 0) n != s.flashBytes (copyBase 1) n

/-! ### Choice (R385) -/

/-- Boot step 4: the copy in use, and BOOT_STAT, BOOT_GEN, BOOT_GENO, BOOT_BODYCRC as the checks leave them. -/
def State.chooseCopy (s : State) : Option Image × State :=
  let a := s.copy 0
  let b := s.copy 1
  let s := (s.put Reg.BOOT_STAT_A_VALID 0 a.isSome).put Reg.BOOT_STAT_B_VALID 0 b.isSome
  let use (k : Nat) (x : Image) (other : Nat) (s : State) : Option Image × State :=
    (some x, (((s.wr Reg.BOOT_STAT_COPY 0 k).wr Reg.BOOT_GEN_GEN 0 x.generation).wr Reg.BOOT_GENO_GEN 0 other).wr
      Reg.BOOT_BODYCRC_CRC 0 x.bodyCrc)
  match a, b with
  | none, none => (none, s.put Reg.BOOT_STAT_NOIMAGE 0 true)
  | some x, none => use 0 x 0 s
  | none, some y => use 1 y 0 s
  | some x, some y =>
    if x.generation < y.generation then use 1 y x.generation s
    else
      let (i, s) := use 0 x y.generation s
      if x.generation = y.generation && s.copiesDiffer x y then
        (i, (s.put Reg.BOOT_STAT_DIVERGED 0 true).logNow 3 0 x.generation 0 0 0)
      else (i, s)

/-! ### Application (R388, R427, R439) -/

/-- The cores a section names. -/
def Section.cores (x : Section) : List Nat := if x.target = 0xFF then List.range 12 else [x.target]

/-- A LOCK section (R439): LEVEL 3 where its length or version is not the one known. -/
def State.applyLock (x : Section) (s : State) : State :=
  if x.slen = 40 && numAt x.data 0 2 = 1 then
    let s := (s.wr Reg.LOCK_CFG_LEVEL 0 (numAt x.data 2 1)).wr Reg.LOCK_CFG_OPENMAX 0 (numAt x.data 3 1)
    { s with lock := { s.lock with pwhash := BitVec.ofNat 256 (leNat (x.data.drop 8)) } }
  else s.wr Reg.LOCK_CFG_LEVEL 0 3

/-- A SAFETY section (R427). -/
def State.applySafety (x : Section) (s : State) : State :=
  if x.slen = 24 && numAt x.data 0 2 = 1 then
    (((s.wr Reg.SAFETY_STOPEN_EN 0 (numAt x.data 4 4 / 16)).wr Reg.SAFETY_SMASK_LO_S 0 (numAt x.data 8 4)).wr
      Reg.SAFETY_SMASK_HI_S 0 (numAt x.data 12 4)).wr Reg.SAFETY_PCMASK_C 0 (numAt x.data 16 4)
  else s

/-- One section is applied (Table 16.6). DEDUCED: log entry 20. -/
def State.applySection (x : Section) (s : State) : State :=
  match x.type with
  | 1 => s.each x.records fun r s => s.imageWrite r.1 r.2
  | 2 => s.each x.cores fun c s =>
      s.each (List.range (x.slen / 4)) fun i s => s.imWrite c i (BitVec.ofNat 32 (numAt x.data (4 * i) 4))
  | 3 => s.each x.cores fun c s => s.dmWrite c (numAt x.data 0 4) (x.data.drop 4)
  | 4 => s.applyLock x
  | 5 => s.applySafety x
  | 6 => { s with boot := { s.boot with start := s.boot.start ++ (x.data.map (·.toNat)).filter (· < 64) } }
  | _ => s

/-- Boot step 5: the sections in the order of the table, then the lock level in force.
DEDUCED: log entries 19 and 20. -/
def State.applyImage (i : Option Image) (s : State) : State :=
  let s := match i with
    | none => s
    | some x => (s.each x.sections fun x s => s.applySection x).wr Reg.BOOT_POLICY_P 0 x.policy
  s.lockFlags

/-! ### The stores (R183, R227) -/

/-- Held and working values of every channel become those of a copy; the skew of an IX channel is always 0 (Table 7.1). -/
def State.loadCal (vals : List (List Int × List Int × Int)) (s : State) : State :=
  s.each (List.range 192) fun ch s =>
    let v := nth vals ch (zero13, zero13, 0)
    (s.setChan ch { s.chan ch with hOff := v.1, wOff := v.1, hGain := v.2.1, wGain := v.2.1, hSkew := v.2.2,
                                   wSkew := v.2.2 }).ixSkew ch

/-- Precision values of every channel become those of a copy. DEDUCED: log entry 20. -/
def State.loadPc (cals : List PcCal) (rint kref : Nat) (s : State) : State :=
  s.each (List.range 24) fun c s =>
    let v := nth cals c PcCal.zero
    ((s.setPc c { s.pc c with cal := v, rint := rint, kref := kref }).wr Reg.PC_SYSOFF_X c (BitVec.ofInt 24 v.sysOff).toNat).wr
      Reg.PC_SYSGAIN_G c (BitVec.ofInt 24 v.sysGain).toNat

/-- A store found diverged or lost (R183, Table 18.2); `k`: 0 fast set, 1 precision set. DEDUCED: log entry 20. -/
def State.storeBad (k : Nat) (div lost : Bool) (s : State) : State :=
  let s := if div then s.raise Reg.GAPCAL_STAT_CAL_DIVERGED 0 else s
  let s := if lost then s.raise Reg.GAPCAL_STAT_STORE_LOST 0 else s
  if div || lost then s.logNow 0x33 1 k ((if div then 1 else 0) + (if lost then 2 else 0)) 0 0 else s

/-- Boot step 6. DEDUCED: log entry 19. -/
def State.loadStores (s : State) : State :=
  let m := s.mram
  let (v0, v1) := (m.cal0.valid, m.cal1.valid)
  let s := match pickCopy (·.head) v0 v1 m.cal0 m.cal1 with
    | some c => ((s.loadCal c.vals).wr Reg.GAPCAL_COMMIT_N_N 0 c.head.count).setPair Reg.GAPCAL_COMMIT_T_LO_T 0 c.head.tCommit
    | none => s.loadCal []
  let s := s.storeBad 0 (v0 && v1 && m.cal0.head.count = m.cal1.head.count && m.cal0 != m.cal1) (!v0 && !v1)
  let (w0, w1) := (m.pc0.valid, m.pc1.valid)
  let s := match pickCopy (·.head) w0 w1 m.pc0 m.pc1 with
    | some c => s.loadPc c.cals c.rint c.kref
    | none => s.loadPc [] 0 0
  s.storeBad 1 (w0 && w1 && m.pc0.head.count = m.pc1.head.count && m.pc0 != m.pc1) (!w0 && !w1)

end Sys2Proof.Machine
end

