-- ==== Sys2Proof/Machine/Boot.lean ====
section
/-! DEFINITION. The state sequence from reset to RUNNING: BOOT, SELF_TEST, ARMED and the start calibration (R174, R383 to
R394). -/

namespace Sys2Proof.Machine

/-- BOOT_COMPLETE (R383): steps 4 to 6, then SELF_TEST, whose item 7 begins at once (R389); idle setpoint steps count
and the clock monitor's watch of LY_REF count
from here (R126, R412); `time`: the duration in 10 µs. DEDUCED: log entry 19. -/
def execBootComplete (time : Half) (s : State) : Host.Outcome State Fault Refusal :=
  .next <|
    if s.mode != 3 then s
    else
      let (i, s) := s.chooseCopy
      let s := ((s.applyImage i).loadStores).wr Reg.BOOT_TIME_BOOT 0 time.toNat
      let s := s.logNow 1 0 (s.reg (Reg.BOOT_RSTCAUSE_CAUSE.addr 0)).toNat s.mram.incarn (s.rd Reg.BOOT_GEN_GEN 0)
        (s.reg (Reg.BOOT_STAT_COPY.addr 0)).toNat
      let s := s.each (List.range 16) fun p s => s.setPort p { s.port p with idleFrom := s.tick }
      let s := s.enter 4
      let s := s.each (List.range 192) fun ch s => s.repower ch
      let s := s.each (List.range 12) fun c s => s.coreEnable c
      let s := s.each (List.range 24) fun c s => s.icalStart c
      if s.needsRef && s.safety.refBad then s.source 1 else s

/-- SELF_TEST_END (R389, R418): `items` are the failed items 1 to 5 of Table 16.7; `time`: the duration in 10 µs. A recorded
fault that leads to SAFE_STOP takes effect here.
DEDUCED: log entry 19. -/
def execSelfTestEnd (items : BitVec 5) (time : Half) (s : State) : Host.Outcome State Fault Refusal :=
  .next <|
    if s.mode != 4 then s
    else
      let s := (s.wr Reg.BOOT_STFAIL_ITEMS 0 items.toNat).wr Reg.BOOT_TIME_ST 0 time.toNat
      let s := s.logNow 4 0 items.toNat 0 0 0
      let s := if items = 0 then s else s.source 0
      let stop := items != 0 || (List.range 16).any fun k => s.bit Reg.SAFETY_FAULT_F 0 k && s.stops k
      if s.overruled 10 then s
      else if stop then s.enterSafeStop
      else
        let s := s.enter 5
        if s.bit Reg.BOOT_POLICY_P 0 1 then s.put Reg.BOOT_STAT_RUN_PEND 0 true else s

/-- The conditions of R393 for leaving ARMED. -/
def State.mayRun (s : State) : Bool :=
  s.mode = 5 && s.boot.startCal.isNone && s.on Reg.BOOT_STAT_RUN_PEND 0 && !s.on Reg.BOOT_STAT_NOIMAGE 0
    && (!s.on Reg.BOOT_STAT_DIVERGED 0 || s.on Reg.BOOT_STAT_DIV_ACK 0 || s.bit Reg.BOOT_POLICY_P 0 0)
    && (List.range 24).all (fun c => s.rd Reg.PC_CONN_TYPE c = 0 || !s.on Reg.PC_CSTAT_ICAL_BUSY c)
    && s.on Reg.LANYARD_STAT_RUNNING 0 && (!s.on Reg.HAWSER_CTRL_EN 0 || s.on Reg.LANYARD_STAT_LOCKED 0)

/-- ARMED_TO_RUNNING (R393): the start calibration begins. -/
def execArmedToRunning (s : State) : Host.Outcome State Fault Refusal :=
  .next (if s.mayRun then s.beginStartCal else s)

/-- START_CALIBRATION_END (R174, R390, R394): once every pass has ended, RUNNING is entered. -/
def execStartCalibrationEnd (s : State) : Host.Outcome State Fault Refusal :=
  .next <|
    match s.boot.startCal with
    | none => s
    | some sc =>
      if sc.pass < 4 || s.mode != 5 || s.overruled 12 then s
      else
        let s := (s.dropStartCal).put Reg.GAPCAL_STAT_START_DONE 0 true
        let s := (s.put Reg.BOOT_STAT_RUN_PEND 0 false).enterRunning
        s.each s.boot.start fun i s => s.runOn i

/-- RST_N_RESET (R382): RST_N was low for at least 10 µs and is released. DEDUCED: log entry 17. -/
def execRstNReset (s : State) : Host.Outcome State Fault Refusal :=
  .next (if s.mode < 3 || s.overruled 2 then s else (s.enterBoot 3).governed 2)

/-! ### The line front end (R377 to R380, R458 to R462) -/

/-- POWER_STAT.MODE and CLS_REQ are taken from the straps (R458). -/
def State.takeStraps (s : State) : State :=
  (s.wr Reg.POWER_STAT_MODE 0 (s.rd Reg.GLOBAL_STRAP_PWR 0)).wr Reg.POWER_STAT_CLS_REQ 0 (s.rd Reg.GLOBAL_STRAP_CLS 0)

/-- The state of a block whose rails are off: there is no log line to record it. -/
def State.frontState (n : Nat) (s : State) : State := s.wr Reg.BOOT_STATE_STATE 0 n

/-- POWERING begins: the inrush gate is driven. DEDUCED: log entry 18. -/
def State.beginPowering (s : State) : State :=
  { s.takeStraps.frontState 2 with power := { s.power with gate := true, queried := false, requested := none } }

/-- LINE_DETECT (R377 step 1). -/
def execLineDetect (s : State) : Host.Outcome State Fault Refusal :=
  .next (if s.mode = 0 && !s.on Reg.GLOBAL_STRAP_PWR 0 then s.frontState 1 else s)

/-- LINE_REMOVED (R377, R462): the grant ends, and LINE_DETECT returns to OFF. DEDUCED: log entry 18. -/
def execLineRemoved (s : State) : Host.Outcome State Fault Refusal :=
  .next <|
    let t := ({ s with power := { s.power with granted := false, requested := none, queried := false } }).wr
      Reg.POWER_STAT_CLS_GRANT 0 0
    if s.mode = 1 then t.frontState 0 else t

/-- CLASS_QUERY (R461): frames from POWERING onward are ignored (R462). -/
def execClassQuery (s : State) : Host.Outcome State Fault Refusal :=
  .next (if s.mode = 1 then { s with power := { s.power with queried := true } } else s)

/-- A class handshake frame: the sync byte, a code byte and its complement (R461). -/
def classFrame (code : Byte) : List Byte := [0xAA, code, ~~~code]

/-- CLASS_REQUEST (R461, Table 20.4): the answer to a QUERY. -/
def execClassRequest (s : State) : Host.Outcome State Fault Refusal :=
  .next <|
    if s.mode = 1 && s.power.queried then
      let s := s.takeStraps
      let c := s.rd Reg.POWER_STAT_CLS_REQ 0
      ({ s with power := { s.power with queried := false, requested := some c } }).emit (.request c (classFrame (BitVec.ofNat 8 (0xC0 + c))))
    else s

/-- GRANT (R462): recorded when it comes at most 20 ms after a REQUEST; `after`: µs since the last bit of it. -/
def execGrant (g : GrantIn) (s : State) : Host.Outcome State Fault Refusal :=
  .next <|
    if s.mode = 1 && s.power.requested.isSome && g.after ≤ 20000 then
      ({ s with power := { s.power with granted := true } }).wr Reg.POWER_STAT_CLS_GRANT 0 g.cls.toNat
    else s

/-- START_THRESHOLD (R377 step 3, R378): POWERING begins, or a grant below the request sets CLASS_LOW.
DEDUCED: log entry 18. -/
def execStartThreshold (s : State) : Host.Outcome State Fault Refusal :=
  .next <|
    if s.power.wait then s
    else if s.mode = 0 && s.on Reg.GLOBAL_STRAP_PWR 0 then s.beginPowering
    else if s.mode = 1 && s.power.granted then
      if s.rd Reg.POWER_STAT_CLS_REQ 0 ≤ s.rd Reg.POWER_STAT_CLS_GRANT 0 then s.beginPowering
      else s.raise Reg.POWER_STAT_CLASS_LOW 0
    else s

/-- POWER_GOOD (R377 step 4): internal reset is released. -/
def execPowerGood (s : State) : Host.Outcome State Fault Refusal :=
  .next <|
    if s.mode = 2 then
      (s.wr Reg.POWER_STAT_PG 0 0xF).enterBoot (if s.on Reg.POWER_STAT_MODE 0 then 2 else 1)
    else s

/-- POWERING_TIMEOUT (R379). DEDUCED: log entry 18. -/
def execPoweringTimeout (s : State) : Host.Outcome State Fault Refusal :=
  .next <|
    if s.mode = 2 then
      let t := s.powerOff
      { t with boot := { t.boot with hadTimeout := true }, power := { t.power with wait := true } }
    else s

/-- POWERING_RETRY (R379): the 1 s wait ends. -/
def execPoweringRetry (s : State) : Host.Outcome State Fault Refusal :=
  .next { s with power := { s.power with wait := false } }

/-- LOSS_OF_INPUT (R380, R431, R433, R460): HOLDUP sets, the log line freezes at its record, and a commit in progress
is cut; which LP_PG inputs read true then is the supply's. DEDUCED: log entry 17. DESIGN CHOICE: log entry 2. -/
def execLossOfInput (s : State) : Host.Outcome State Fault Refusal :=
  .next <|
    if s.mode < 3 then s
    else
      let (n, s) := s.fresh
      let s := s.wr Reg.POWER_STAT_PG 0 ((Config.open_ 20 n).toNat % 16)
      if s.boot.holdup then s
      else
        let s := ((s.cutCommit.put Reg.POWER_STAT_HOLDUP 0 true).brownOut).governed 1
        { s with boot := { s.boot with holdup := true, hadHoldup := true } }

/-- HOLDUP_EXPIRY (R380): the block goes to OFF, even if the input has recovered. -/
def execHoldupExpiry (s : State) : Host.Outcome State Fault Refusal :=
  .next (if s.boot.holdup then s.powerOff else s)

end Sys2Proof.Machine
end

