-- ==== Sys2Proof/Machine/Products.lean ====
section
/-! DEFINITION. What the kernels of the Molylith library compute from their parameter block and from what the haul delivered
(chapter 13). -/

namespace Sys2Proof.Machine

/-! ### Numbers -/

/-- A rational rounded to the nearest integer, ties away from zero. DEDUCED: log entry 38. -/
def roundRat (x : Rat) : Int := roundDiv x.num x.den

/-- Bytes padded with zeros to a multiple of 4. -/
def pad4 (l : List Byte) : List Byte := l ++ List.replicate ((4 - l.length % 4) % 4) 0

/-- `n` rounded up to a multiple of 4. -/
def up4 (n : Nat) : Nat := (n + 3) / 4 * 4

/-- A byte with the bits of `v` set. -/
def orBit (b : Bool) (v x : Byte) : Byte := if b then x ||| v else x

/-- ⌈log₂ x⌉. -/
def clog2 (x : Nat) : Nat := if x ≤ 1 then 0 else Nat.log2 (x - 1) + 1

/-- `n` bytes at offset `o`, little-endian. -/
def bytesAt (b : List Byte) (o n : Nat) : Nat := leNat ((b.drop o).take n)

/-! ### Stack header and phase record from their bytes (Table 4.5, Table 6.5) -/

/-- The stack header and plan record that 96 bytes spell. -/
def Header.parse (b : List Byte) : Header :=
  let f := bytesAt b
  { stackNo := f 0 4, strand := f 4 1, smode := f 5 1, dec := f 6 1, leak := f 7 1, nbin := f 8 4, ldly := f 12 2,
    flags := f 14 2, shots := f 16 8, pbin := f 24 4, skipped := f 28 4, tFirst := BitVec.ofNat 64 (f 32 8),
    tLast := BitVec.ofNat 64 (f 40 8), tAcc := BitVec.ofNat 64 (f 48 8), nsat := f 56 2, necc := f 58 2, novl := f 60 2,
    plan := ⟨(List.range (min 8 (f 62 1))).map fun k => (f (64 + 4 * k) 2, f (66 + 4 * k) 1), f 63 1⟩ }

/-- The phase record that 32 bytes spell, with what no byte holds. -/
def PhaseRec.parse (b : List Byte) (side : Nat × Bool) : PhaseRec :=
  let f := bytesAt b
  { row0 := f 0 4, nrow := f 4 2, rdone := f 6 2, heff := f 8 2, gauge := f 10 2, sdec := f 12 1, tdec := f 13 1, pol := f 14 1,
    prflags := f 15 1, tRef := BitVec.ofNat 64 (f 16 8), rateOver := side.2, lper := side.1 }

/-- A stack is coded (Table 4.6). -/
def Header.coded (h : Header) : Bool := h.flags / 64 % 2 = 1

/-- Blocks of a stack. -/
def Header.blocks (h : Header) : Nat := (h.nbin + 255) / 256

/-- n_b of R107: shots folded into plane `pl` that reached bin `b`; `c`: cycle length of the pattern. -/
def Header.hits (h : Header) (c pl b : Nat) : Nat :=
  if h.nbin ≤ b then 0
  else if h.coded then
    let half := c / 2
    h.shots / c * half + min half (h.shots % c - pl * half) + (if b < h.pbin && h.shots % c / half = pl then 1 else 0)
  else h.shots + (if b < h.pbin then 1 else 0)

/-- Divisor of a bin's sum in its mean (R107). -/
def Header.weight (h : Header) (n : Nat) : Rat :=
  let d : Nat := 2 ^ h.dec
  if h.smode = 2 then
    let q : Rat := 2 ^ h.leak
    q * (1 - (1 - 1 / q) ^ n) * d
  else (n * d : Nat)

/-! ### A run's parameter block and hauls -/

/-- A field of the parameter block (R299). -/
def LibRun.param (r : LibRun) (o n : Nat) : Nat := bytesAt r.blk o n

/-- Metadata of a plane as hauled. -/
def LibRun.head (r : LibRun) (b : Nat × Nat) : List Byte := r.heads.getD (planeKey b.1 b.2) []

/-- Header of a plane as hauled. -/
def LibRun.header (r : LibRun) (b : Nat × Nat) : Header := Header.parse (r.head b)

/-- Bins of a plane as hauled, from the first one hauled. -/
def LibRun.got (r : LibRun) (b : Nat × Nat) : List Int := r.bins.getD (planeKey b.1 b.2) []

/-- FC_HITCH.ROLE of a channel bound. -/
def LibRun.role (r : LibRun) (ch : Nat) : Nat := r.roles.getD ch 0

/-- The haul met an uncorrectable error in a piece with this block (R302). -/
def LibRun.uncorrected (r : LibRun) (b : Nat × Nat) (blk : Nat) : Bool :=
  r.ues.any fun u => u.1 = planeKey b.1 b.2 && u.2.1 ≤ blk && blk ≤ u.2.2

/-- Quality byte of a block as a product carries it: ECC is set where R302 asks for it. DEDUCED: log entry 38. -/
def LibRun.quality (r : LibRun) (b : Nat × Nat) (blk : Nat) : Byte :=
  orBit (r.uncorrected b blk) 8 (nth (r.head b) (0x60 + blk) 0)

/-- Mean corrected sample of a bin with sum `v` (R107). DEDUCED: log entry 38. -/
def Header.mean (h : Header) (c pl b : Nat) (v : Int) : Rat :=
  let n := h.hits c pl b
  if n = 0 then 0 else v / h.weight n

/-! ### Averaged trace (R305) -/

/-- A bin in a TRACE format, and whether it was clipped (Table 4.11). -/
def traceBin (format c pl : Nat) (h : Header) (b : Nat) (v : Int) : List Byte × Bool :=
  let m := h.mean c pl b v
  if format = 0 then
    let x := roundRat (m * 65536)
    let w := clampInt (-(2 ^ 31)) (2 ^ 31 - 1) x
    (leInt 4 w, x != w)
  else if format = 1 then (leInt 5 v, false)
  else
    let x := roundRat m
    (leInt 2 (sat16 x), x != sat16 x)

/-- Bytes of a value in a TRACE format. -/
def traceSize (format : Nat) : Nat := nth [4, 5, 2] format 0

/-- Blocks a TRACE sends (Table 13.5). -/
def LibRun.traceBlocks (r : LibRun) (h : Header) : Nat :=
  let rest := h.blocks - r.param 0x12 2
  if r.param 0x14 2 = 0 then rest else min (r.param 0x14 2) rest

/-- A TRACE payload (R106, R107, Table 4.10). -/
def LibRun.tracePayload (r : LibRun) (b : Nat × Nat) : List Byte :=
  let h := r.header b
  let format := r.param 0x10 1
  let fblk := r.param 0x12 2
  let nblk := r.traceBlocks h
  let vs := r.got b
  let blocks := (List.range nblk).map fun j => (j, (List.range 256).map fun i =>
    traceBin format r.cyc b.2 h (256 * (fblk + j) + i) (nth vs (256 * j + i) 0))
  let q := blocks.map fun x => orBit (x.2.any (·.2)) 1 (r.quality b (fblk + x.1))
  leBytes 2 1 ++ leBytes 1 (r.role b.1) ++ leBytes 1 format ++ leBytes 2 b.1 ++ leBytes 2 fblk ++ leBytes 2 nblk ++ leBytes 1 b.2
    ++ leBytes 5 0 ++ (r.head b).take 96 ++ pad4 q ++ blocks.flatMap fun x => x.2.flatMap (·.1)

/-! ### Decoder (R306 to R310) -/

/-- Bins per chip, shots per plane and sign, haul shift, halfwords of a plane's region (R306). -/
structure Decoding where
  r : Nat
  cyc : Nat
  e : Nat
  need : Nat

/-- What R306 computes from the header of plane A. -/
def LibRun.decoding (r : LibRun) (h : Header) : Decoding :=
  let d := 2 ^ h.dec
  let cyc := h.shots / r.cyc
  let q := (r.chipt + 1) / d
  { r := q, cyc := cyc, e := clog2 (2 * cyc * d) - r.param 0x10 1, need := h.nbin + (r.ncode - 1) * q }

/-- Sum over the chips of a word of the chip's sign times a sample (R307). -/
def correlate (chips : List Bool) (x : Nat → Int) : Int :=
  ((List.range chips.length).zip chips).foldl (fun y c => if c.2 then y + x c.1 else y - x c.1) 0

/-- Numerators and denominator of the responses h[b] of all bins (R307); `a`, `b`: the planes as hauled, 0 beyond their end. -/
def LibRun.decode (r : LibRun) (p : Decoding) (d : Nat) (a b : List Int) : List Int × Nat :=
  let at_ (l : List Int) (i : Nat) : Int := nth l i 0
  let n := r.ncode
  let bins := List.range a.length
  if r.pmode = 1 then
    (bins.map fun i => (correlate r.chips.1 (fun j => at_ a (i + j * p.r)) + correlate r.chips.2 fun j => at_ b (i + j * p.r)) * 2 ^ p.e,
      2 * n * p.cyc * d)
  else
    let y := bins.map fun i => correlate r.chips.1 fun j => sat16 (at_ a (i + j * p.r) - at_ b (i + j * p.r))
    let sum := y.foldl (· + ·) 0
    (y.map fun v => (v + sum) * 2 ^ p.e, (n + 1) * p.cyc * d)

/-- The values for EXP = k − 16 (R308). -/
def decodeValues (num : List Int) (den k : Nat) : List Int := num.map fun x => roundDiv (x * 2 ^ 16) (den * 2 ^ k)

/-- The smallest k for which every value fits; 31 when none does (R308). -/
def decodeExp (num : List Int) (den : Nat) : Nat :=
  ((List.range 32).find? fun k => (decodeValues num den k).all fun v => v.natAbs ≤ 32767).getD 31

/-- The quality byte of a block of the decoded trace (R302, R308): in PMODE 2 every value reads every bin through ΣY. -/
def LibRun.codedQuality (r : LibRun) (ch : Nat) (p : Decoding) (h : Header) (j : Nat) : Byte :=
  let span := (r.ncode - 1) * p.r
  let last := min (h.blocks - 1) ((256 * j + 255 + span) / 256)
  let src := (List.range (last + 1 - j)).flatMap fun i => [(0, j + i), (1, j + i)]
  let byte (x : Nat × Nat) : Byte :=
    orBit (r.clips.contains (planeKey ch x.1, x.2)) 1 (r.quality (ch, x.1) x.2 &&& 0x7F)
  orBit (r.pmode = 2 && r.ues != []) 8
    (orBit (decide (h.nbin ≤ min (256 * j + 255) (h.nbin - 1) + span)) 0x80 (src.foldl (fun q x => q ||| byte x) 0))

/-- A CODED payload (Table 13.7). -/
def LibRun.codedPayload (r : LibRun) (ch : Nat) : List Byte :=
  let h := r.header (ch, 0)
  let p := r.decoding h
  let (num, den) := r.decode p (2 ^ h.dec) (r.got (ch, 0)) (r.got (ch, 1))
  let x := decodeExp num den
  let vs := decodeValues num den x
  let q := (List.range h.blocks).map (r.codedQuality ch p h)
  let flags := flagWord [(r.clips != [], 0), (vs.any fun v => decide (32767 < v.natAbs), 1), (q.any fun b => b.getLsbD 7, 2),
    (h.skipped != 0, 3)]
  leBytes 2 1 ++ leBytes 2 ch ++ leBytes 1 r.pmode ++ leBytes 1 p.e ++ leBytes 2 p.r ++ leBytes 2 r.ncode ++ leInt 1 ((x : Int) - 16)
    ++ leBytes 1 0 ++ leBytes 2 flags ++ leBytes 2 0 ++ leBytes 4 p.cyc ++ leBytes 12 0 ++ (r.head (ch, 0)).take 96 ++ pad4 q
    ++ vs.flatMap fun v => leInt 2 (clampInt (-32767) 32767 v)

/-! ### Events (R316 to R319) -/

/-- Positions that meet a condition, ascending, with their values, gathered into zones: runs merge across at most `gap`
positions (R316). -/
def zonesOf (kind gap : Nat) : List (Nat × Int) → List Zone
  | [] => []
  | (p, v) :: rest =>
    match zonesOf kind gap rest with
    | z :: zs =>
      if z.first ≤ p + gap + 1 then ⟨kind, p, z.last, if z.peak ≤ v then p else z.peakPos, max v z.peak⟩ :: zs
      else ⟨kind, p, p, p, v⟩ :: z :: zs
    | [] => [⟨kind, p, p, p, v⟩]

/-- Two zones of one kind overlap. -/
def Zone.overlaps (x y : Zone) : Bool := x.kind = y.kind && x.first ≤ y.last && y.first ≤ x.last

/-- The 64 zones with the highest PEAK, in order of position (R318). DEDUCED: log entry 38. -/
def topZones (zs : List Zone) : List Zone :=
  zs.filter fun z => (zs.filter fun y => z.peak < y.peak || (y.peak = z.peak && y.first < z.first)).length < 64

/-- What every record of an EVENT message of a product shares; `draw`: the draw of the fields no rule states. -/
structure EventCtx where
  t : Time
  strand : Nat
  quad : Nat
  stack : Nat
  draw : Nat

/-- A kernel event record (Table 13.12). DESIGN CHOICE: log entry 39. -/
def EventCtx.record (x : EventCtx) (kind state first last pos : Nat) (peak : Int) : List Byte :=
  leBytes 8 x.t.toNat ++ leBytes 1 kind ++ leBytes 1 state ++ leBytes 1 x.strand ++ leBytes 1 x.quad ++ leBytes 4 first
    ++ leBytes 4 last ++ leBytes 4 pos ++ leInt 4 peak ++ leBytes 4 x.stack

/-- A field of a record of dropped zones that no rule states. DESIGN CHOICE: log entry 41. -/
def EventCtx.openField (x : EventCtx) (i : Nat) : Nat := (Config.open_ 13 (4 * x.draw + i)).toNat

/-- Records of one kind: current zones, cleared zones, dropped zones (R318). Answers the zones kept too.
DESIGN CHOICE: log entry 39. -/
def EventCtx.records (x : EventCtx) (now was : List Zone) : List (List Byte) × List Zone :=
  let kept := topZones now
  let cur := kept.map fun z => x.record z.kind (if was.any z.overlaps then 0 else 1) z.first z.last z.peakPos z.peak
  let gone := (was.filter fun z => !now.any z.overlaps).map fun z => x.record z.kind 2 z.first z.last z.peakPos 0
  let lost := now.length - kept.length
  let drop := if lost = 0 then [] else [x.record 0xFF (x.openField 1 % 4) (x.openField 2) (x.openField 3) (x.openField 0) lost]
  (cur ++ gone ++ drop, kept)

/-- EVENT messages of up to 45 records (R318, R319). -/
def eventMessages : Nat → List (List Byte) → List (Nat × List Byte)
  | 0, _ => []
  | _, [] => []
  | n + 1, rs =>
    let part := rs.take 45
    (5, leBytes 2 1 ++ leBytes 2 part.length ++ leBytes 1 1 ++ leBytes 3 0 ++ part.flatten) :: eventMessages n (rs.drop 45)

/-- Positions that meet a condition on their value. -/
def hitsOf (vals : List Int) (f : Nat → Int → Option Int) : List (Nat × Int) :=
  ((List.range vals.length).zip vals).filterMap fun x => if x.2 = -32768 then none else (f x.1 x.2).map fun v => (x.1, v)

/-! ### Raman temperature (R311 to R314) -/

/-- Natural logarithm of a positive rational: ln 2 times the exponent, plus twice the series of artanh, in steps of 2⁻⁶⁴.
DESIGN CHOICE: log entry 40. -/
def kernelLn (x : Rat) : Rat :=
  let k : Int := (x.num.natAbs.log2 : Int) - x.den.log2
  let m : Rat := if 0 ≤ k then x / (2 ^ k.toNat : Nat) else x * (2 ^ (-k).toNat : Nat)
  let one : Int := 2 ^ 64
  let y := roundRat ((m - 1) / (m + 1) * one)
  let y2 := roundDiv (y * y) (2 ^ 64)
  let sum := ((List.range 24).foldl (fun (a : Int × Int) i =>
    (a.1 + roundDiv a.2 (2 * i + 1), roundDiv (a.2 * y2) (2 ^ 64))) (0, y)).1
  ((k * 12786308645202655660 + 2 * sum : Int) : Rat) / (2 ^ 64 : Nat)

/-- What a reference section gives: its temperature, mean logarithm and mean centre. -/
structure RefOut where
  t : Rat
  lr : Rat
  z : Rat

/-- lr of every position (R311). -/
def LibRun.ratios (r : LibRun) (as_ st : Nat × Nat) (q : Nat) : List (Option Rat) :=
  let sum (b : Nat × Nat) (h : Header) (vs : List Int) (p : Nat) : Rat :=
    (List.range q).foldl (fun x i => x + h.mean r.cyc b.2 (p * q + i) (nth vs (p * q + i) 0)) 0
  let hA := r.header as_
  (List.range (hA.nbin / q)).map fun p =>
    let x := sum as_ hA (r.got as_) p
    let y := sum st (r.header st) (r.got st) p
    if 0 < x && 0 < y then some (kernelLn (y / x)) else none

/-- Centre of a position in bins. -/
def centre (q p : Nat) : Rat := (p * q : Nat) + ((q : Rat) - 1) / 2

/-- Temperature of a reference channel in kelvin (R312). -/
def LibRun.refTemp (r : LibRun) (x : RefIn) : Rat :=
  let f (o : Nat) : Rat := r.param o 4
  let v : Rat := x.xe / (2 ^ 31 : Nat)
  (f 0x24 + f 0x28 * v + f 0x2C * v * v) / 65536

/-- A position's bins lie wholly in a section (R311). -/
def within (q lo hi p : Nat) : Bool := lo ≤ p * q && p * q + q ≤ hi + 1

/-- A reference over the bins `lo` to `hi`; none where it is unusable (R311, R314; R9 compares the stamps). -/
def LibRun.refOut (r : LibRun) (q lo hi : Nat) (tLast : Time) (x : RefIn) (lr : List (Option Rat)) : Option RefOut :=
  let age : Int := 51200000 * r.param 0x22 2
  let ps := ((List.range lr.length).zip lr).filterMap fun y =>
    if within q lo hi y.1 then y.2.map fun v => (centre q y.1, v) else none
  let n : Rat := ps.length
  if ps = [] || x.faulty || decide (age < (tLast - x.btime).toInt) then none
  else some ⟨r.refTemp x, ps.foldl (fun u y => u + y.2) 0 / n, ps.foldl (fun u y => u + y.1) 0 / n⟩

/-- The value sent for a position, 0.01 °C (R312); where the formula divides by 0, no rule states it.
DESIGN CHOICE: log entry 41. -/
def tempAt (draw q : Nat) (g dA : Rat) (r : RefOut) (p : Nat) (lr : Option Rat) : Int :=
  match lr with
  | none => -32768
  | some v =>
    let inv := 1 / r.t + (v - r.lr + dA * (centre q p - r.z)) / g
    if r.t = 0 || inv = 0 then clampInt (-32767) 32767 (Config.open_ 14 (draw * 102400 + p))
    else clampInt (-32767) 32767 (roundRat ((1 / inv - 273.15) * 100))

/-- An uncorrectable error met in a piece of the reference coil: every value reads its bins through lr_c (R302). -/
def LibRun.coilError (r : LibRun) (as_ st : Nat × Nat) (q npos : Nat) : Bool :=
  (List.range npos).any fun p => within q (r.param 0x18 4) (r.param 0x1C 4) p
    && (List.range q).any fun i => r.uncorrected as_ ((p * q + i) / 256) || r.uncorrected st ((p * q + i) / 256)

/-- A TEMP payload (Table 13.10). -/
def LibRun.tempPayload (r : LibRun) (strand : Nat) (as_ st : Nat × Nat) (flags : Nat) (tc dA : Rat) (tpc : Time)
    (vals : List Int) : List Byte :=
  let h := r.header as_
  let coil := r.coilError as_ st (2 ^ r.param 0x21 1) vals.length
  let q := (List.range h.blocks).map fun b => orBit coil 8 (r.quality as_ b ||| r.quality st b)
  leBytes 2 1 ++ leBytes 1 strand ++ leBytes 1 (r.param 0x21 1) ++ leBytes 4 vals.length ++ leBytes 2 flags
    ++ leBytes 1 (r.param 0x20 1) ++ leBytes 1 0 ++ leInt 4 (roundRat ((tc - 273.15) * 1000))
    ++ leInt 4 (roundRat (dA * (2 ^ 32 : Nat))) ++ leBytes 8 tpc.toNat ++ leBytes 4 0 ++ (r.head as_).take 96 ++ pad4 q
    ++ vals.flatMap fun v => leInt 2 v

/-- The next value held for Δα (R313). DESIGN CHOICE: log entry 39. DESIGN CHOICE: log entry 41. -/
def nextSlope (draw : Nat) (fresh : Bool) (w : Nat) (g used : Rat) (held : Rat) (r : RefOut) (r2 : Option RefOut) : Rat :=
  match r2 with
  | none => if fresh then used else held
  | some y =>
    let est : Rat := if y.z = r.z || y.t = 0 || r.t = 0 then (Config.open_ 15 draw : Rat) / (2 ^ 32 : Nat)
      else (g / y.t - g / r.t - (y.lr - r.lr)) / (y.z - r.z)
    if fresh then est else held + (est - held) / (2 ^ w : Nat)

/-! ### Strain rate (R315) -/

/-- DPHI and the flags SAT, FADE, HFILL, NOGAUGE of a row word (Table 6.4). -/
def wordDphi (w : Bin40) : Int := wrapInt 16 (w.toNat / 16 % 65536)
def wordFlags (w : Bin40) : Nat := w.toNat % 16

/-- Row word `w` of quad `q` as hauled from plane `pl` (Table 6.2). -/
def LibRun.rowWordAt (r : LibRun) (q pl w : Nat) : Bin40 :=
  let x := rowPlace q w
  BitVec.ofInt 40 (nth (r.got (x.1, pl)) x.2 0)

/-- FMAP bits of a position of a row (Table 6.11). -/
def LibRun.posMap (r : LibRun) (q pl gauge sBins nbin w p : Nat) : Byte :=
  let (bank, x) := rowPlace q w
  let f := wordFlags (r.rowWordAt q pl w)
  let bins := (List.range sBins).flatMap fun i => [p * sBins + i, p * sBins + i + gauge]
  let ix := (bins.filter fun b => b < nbin).foldl (fun m b => m ||| r.quality (4 * q, pl) (b / 256)) 0
  BitVec.ofNat 8 (flagWord [(f / 8 % 2 = 1, 0), (ix.getLsbD 1, 1), (ix.getLsbD 2, 2),
    (ix.getLsbD 3 || r.uncorrected (bank, pl) (x / 256), 3), (f / 2 % 2 = 1, 4), (f / 4 % 2 = 1, 5), (f % 2 = 1, 6)])

/-- A PHASE payload (Table 6.9) and what the search for events reads: positions with their largest |DPHI| (R316). -/
def LibRun.phaseProduct (r : LibRun) (strand q pl : Nat) : List Byte × List (Nat × Int) :=
  let md := r.head (4 * q, pl)
  let h := Header.parse md
  let pr := PhaseRec.parse (md.drop 0x1F0) r.side
  let sBins := 2 ^ min 4 pr.sdec
  let all := h.nbin / sBins
  let fpos := r.param 0x10 4
  let npos := if r.param 0x14 4 = 0 then all - fpos else min (r.param 0x14 4) (all - fpos)
  let nblk := (npos + 255) / 256
  let rows := List.range pr.rdone
  let fmap := rows.flatMap fun k => (List.range nblk).map fun j =>
    (List.range (min 256 (npos - 256 * j))).foldl (fun b i =>
      let p := fpos + 256 * j + i
      b ||| r.posMap q pl pr.gauge sBins h.nbin (k * all + p) p) (0 : Byte)
  let has (i : Nat) : Bool := fmap.any fun b => b.getLsbD i
  let pflags := flagWord [(h.flags % 2 = 1, 0), (pr.prflags % 2 = 1, 1), (pr.prflags / 2 % 2 = 1, 2), (has 4, 3), (has 5, 4),
    (has 0, 5), (pr.rateOver, 6)]
  let word (k i : Nat) : Bin40 := r.rowWordAt q pl (k * all + fpos + i)
  let peak (i : Nat) : Option Int :=
    ((rows.filter fun k => wordFlags (word k i) = 0).map fun k => ((wordDphi (word k i)).natAbs : Int)).max?
  (leBytes 2 1 ++ leBytes 1 q ++ leBytes 1 0 ++ leBytes 1 strand ++ leBytes 1 pr.pol ++ leBytes 1 pr.sdec ++ leBytes 1 pr.tdec
    ++ leBytes 4 fpos ++ leBytes 4 npos ++ leBytes 2 pr.rdone ++ leBytes 2 pr.gauge ++ leBytes 2 pr.heff ++ leBytes 2 pflags
    ++ leBytes 4 pr.row0 ++ leBytes 4 pr.lper ++ leBytes 8 pr.tRef.toNat ++ leBytes 8 0 ++ md.take 96 ++ pad4 fmap
    ++ rows.flatMap fun k => (List.range npos).flatMap fun i => leInt 2 (wordDphi (word k i)),
   (List.range npos).filterMap fun i =>
    (peak i).bind fun v => if (r.param 0x18 2 : Int) ≤ v then some (fpos + i, v) else none)

/-! ### Checks (R301) -/

/-- The detail of the first check that fails, in the order given. -/
def firstBad : List (Bool × Nat) → Option Nat
  | [] => none
  | (bad, o) :: rest => if bad then some o else firstBad rest

/-- Bytes of a parameter block by KIND. -/
def blockSize (kind : Nat) : Nat := nth [0, 24, 20, 64, 32] kind 0

/-- DETAIL of a condition that is no field of the block. -/
def noField : Nat := 0xFFFFFFFF

/-- Entry checks of the job and the common header of a block at `a` (R298, R299, R301). DEDUCED: log entry 37. -/
def LibRun.headChecks (r : LibRun) (a : Nat) (jmode : Bool) : List (Bool × Nat) :=
  let wb := r.param 4 4
  let wl := r.param 8 4
  let st := r.param 12 4
  [(jmode != decide (3 ≤ r.kind) || a % 4 != 0 || decide (0x80000 < a + blockSize r.kind), noField),
   (r.param 0 1 != r.kind, 0), (r.param 1 1 != 1, 1), ((if r.kind ≤ 2 then r.param 2 2 != 0 else decide (1 < r.param 2 2)), 2),
   (wb % 32 != 0, 4), (wl % 32 != 0 || decide (0x80000 < wb + wl), 8),
   (if r.kind ≤ 2 then st != 0 else st % 32 != 0 || decide (0x80000 ≤ st), 12)]

/-- Entry checks of a kernel's own fields and job (R301, Tables 13.5, 13.6, 13.9, 13.11). DEDUCED: log entry 37. -/
def LibRun.ownChecks (r : LibRun) : List (Bool × Nat) :=
  let f := r.param
  match r.kind with
  | 1 => [(decide (2 < f 0x10 1), 0x10), (f 0x11 1 != 0, 0x11), (f 0x16 2 != 0, 0x16)]
  | 2 => [(decide (8 < f 0x10 1), 0x10), (f 0x11 3 != 0, 0x11)]
  | 3 => [(decide (f 0x10 4 < 65536) || decide (2000 * 65536 < f 0x10 4), 0x10),
     (decide (f 0x1C 4 + 1 < f 0x18 4 + 2 ^ f 0x21 1), 0x1C),
     (decide (23 < f 0x20 1) || !((r.refs.head?.map (·.manual)).getD false), 0x20), (decide (4 < f 0x21 1), 0x21),
     (f 0x22 2 = 0 || decide (60000 < f 0x22 2), 0x22), (decide (23 < f 0x38 1) && f 0x38 1 != 0xFF, 0x38),
     (decide (8 < f 0x39 1), 0x39), (f 0x3E 2 = 0 || decide (32767 < f 0x3E 2), 0x3E), (r.planes.length != 2, noField)]
  | _ => [(f 0x18 2 = 0 || decide (32767 < f 0x18 2), 0x18), (f 0x1C 4 != 0, 0x1C), (r.planes.length != 1, noField)]

/-- Checks that depend on the header, and cause and DETAIL of the first that fails (R301, R309, R310).
DEDUCED: log entry 37. -/
def LibRun.judge (r : LibRun) : Option (Nat × Nat) :=
  let h := r.header (r.planes.head?.getD (0, 0))
  let wl := r.param 8 4
  let st := r.param 12 4
  let bad (l : List (Bool × Nat)) : Option (Nat × Nat) := (firstBad l).map fun d => (0x10, d)
  match r.kind with
  | 1 =>
    let nblk := r.traceBlocks h
    bad [(decide (h.blocks ≤ r.param 0x12 2), 0x12),
      (decide (wl < 32768 + 112 + up4 nblk + 256 * nblk * traceSize (r.param 0x10 1)), 8)]
  | 2 =>
    let need := (r.decoding h).need
    match bad [(!h.coded || r.pmode = 0 || r.planes.length != 2, noField), (decide (wl < 4 * need + 8192), 8)] with
    | some d => some d
    | none =>
      if 120832 < need then some (0x11, noField)
      else if h.shots = 0 || h.shots % r.cyc != 0 || h.pbin != 0 then some (0x12, noField)
      else none
  | 3 =>
    let npos := h.nbin / 2 ^ r.param 0x21 1
    bad [(decide (wl < 49152 + 2 * npos), 8), (decide (0x80000 < st + 1024 + 2 * npos), 12)]
  | _ =>
    let pr := PhaseRec.parse ((r.head (r.planes.head?.getD (0, 0))).drop 0x1F0) r.side
    let all := h.nbin / 2 ^ min 4 pr.sdec
    let npos := if r.param 0x14 4 = 0 then all - r.param 0x10 4 else min (r.param 0x14 4) (all - r.param 0x10 4)
    bad [(decide (all ≤ r.param 0x10 4), 0x10),
      (decide (wl < 32768 + 144 + up4 (pr.rdone * ((npos + 255) / 256)) + 2 * pr.rdone * npos), 8),
      (decide (0x80000 < st + 1024), 12)]

end Sys2Proof.Machine
end

