-- ==== Sys2Proof/Machine/Kernels.lean ====
section
/-! DEFINITION. Runs of the Molylith kernel library (chapter 13): entry, hauls, products and release, and with them the haul
engine's events, job starts and END retirement (R269, R275, R276). DEDUCED: log entry 36. -/

namespace Sys2Proof.Machine

/-! ### DM a kernel writes (R300, R317) -/

/-- A kernel writes `n` bytes of DM from `a` on: values of a draw, or zeros; state areas there are gone. -/
def CoreRt.wipe (a n : Nat) (draw : Option Nat) (k : CoreRt) : CoreRt :=
  let clear (b m : Nat) : Bool := decide (b + m ≤ a) || decide (a + n ≤ b)
  { k with dm := k.dm.filter fun p => clear p.1 1, wiped := ⟨a, n, draw⟩ :: k.wiped.filter fun w => !(a ≤ w.from_ && w.from_ + w.len ≤ a + n),
           areas := k.areas.filter fun p => clear p.1 p.2.size }

/-- Its mark word (R317). -/
def areaMark : Nat := 0x4D4F4C59

/-- The state area at `a`, unless it counts as empty for this run (R317): other bytes than the kernel left there make it so.
DESIGN CHOICE: log entry 39. -/
def State.area (s : State) (c a : Nat) : Option Area :=
  let k := s.core c
  match k.areas.find a with
  | none => none
  | some x =>
    if leNat (s.dmBytes c a 4) = areaMark && !(k.dm.any fun p => decide (a + 4 ≤ p.1) && decide (p.1 < a + x.size))
      && x.strand = k.runStrand && (x.stack + 1) % 2 ^ 32 = k.runStack then some x
    else none

/-- The state area is written (R317). -/
def State.putArea (c a : Nat) (x : Area) (s : State) : State :=
  let (d, s) := s.fresh
  let k := (s.core c).wipe a x.size (some d)
  (s.setCore c { k with areas := k.areas.put a x }).dmWrite c a (leBytes 4 areaMark)

/-! ### Entry (R298, R300, R301, R320) -/

/-- What a temperature run reads of one precision channel (R312, R314). -/
def State.refIn (s : State) (p : Nat) : RefIn :=
  { chan := p, xe := if (s.pc p).alternates then (s.pc p).pairMean else s.rdInt Reg.PC_RESE_XE p,
    btime := s.pair Reg.PC_BTIME_LO_T p, manual := s.rd Reg.PC_SEQ_MODE p = 0 && s.rd Reg.PC_DIAG_SEL p = 0,
    faulty := s.on Reg.PC_FSTAT_OPEN p || s.on Reg.PC_FSTAT_SHORT p || s.on Reg.PC_FSTAT_SNS_FAULT p
      || s.on Reg.PC_CSTAT_REF_DRIFT p }

/-- The planes a product is computed from: those of the job's channel; AS and ST; IX (R305, R306, R311, R315). -/
def State.productPlanes (s : State) (k : CoreRt) (kind : Nat) : List (Nat × Nat) :=
  let role (n : Nat) := (k.binds.find? fun b => s.rd Reg.FC_HITCH_ROLE b.1 = n).toList
  match kind with
  | 3 => role 2 ++ role 3
  | 4 => role 8
  | _ => k.binds.filter fun b => b.1 = k.runWord % 256

/-- What a kernel reads at entry: the block at `a`, and the registers it names (R300, R306, R312). -/
def State.libRead (s : State) (k : CoreRt) (c kind a : Nat) : LibRun :=
  let blk := s.dmBytes c a 64
  let i := k.runStrand
  let p := s.rd Reg.STRAND_CTRL_PORT i
  let n := s.codeLen p
  let word (b : Bool) : List Bool := if kind = 2 then (List.range n).map (s.chip p b) else []
  { kind := kind, blk := blk, refs := if kind = 3 then [bytesAt blk 0x20 1, bytesAt blk 0x38 1].map s.refIn else [],
    roles := k.binds.foldl (fun m b => m.put b.1 (s.rd Reg.FC_HITCH_ROLE b.1)) [], phase := s.isPhase i, pmode := s.pmode p,
    cyc := s.cycleLen p, ncode := n, chipt := s.rd Reg.PRB_CODE_CHIPT p, chips := (word false, word true),
    planes := s.productPlanes k kind, todo := [], judged := false, heads := [], side := (0, false), bins := [], clips := [],
    ues := [], out := none }

/-- The run's kernel changed. -/
def State.setLib (c : Nat) (r : LibRun) (s : State) : State := s.setCore c { s.core c with lib := some r }

/-- Bindings of the run are released early (R276). -/
def State.unbind (c : Nat) (bs : List (Nat × Nat)) (s : State) : State :=
  let k := s.core c
  (s.setCore c { k with binds := k.binds.filter fun b => !bs.contains b }).releaseAll (k.binds.filter bs.contains)

/-- The STATUS message a kernel sends (R301, R343, Table 14.9); END's retirement gives its T (R337). DEDUCED: log entry 37. -/
def State.libStatus (s : State) (c cause detail : Nat) : Nat × List Byte :=
  let k := s.core c
  (7, (StatusRec.mk 0 cause 1 (libKind k.runEntry) c 0 k.runStrand (s.rd Reg.CORE_RUNNO_N c) k.runStack detail).payload)

/-- A kernel's work is done: its messages stand in the send queue, and its END may come. -/
def State.libDone (c : Nat) (r : LibRun) (msgs : List (Nat × List Byte)) (s : State) : State :=
  s.setLib c { r with todo := [], out := some msgs }

/-- A kernel releases its bindings and sends a STATUS message (R301, R477). -/
def State.libFail (c : Nat) (r : LibRun) (cause detail : Nat) (s : State) : State :=
  (s.dropBinds c).libDone c r [s.libStatus c cause detail]

/-- A haul of a library kernel. -/
def libHaul (b : Nat × Nat) (isMeta : Bool) (format shift first count dest : Nat) : Haul :=
  { at_ := 0, chan := b.1, plane := b.2, isMeta := isMeta, format := format, irq := false, shift := shift, first := first,
    count := count, stride := 1, dest := dest, lib := true }

/-- The kernel's workspace takes values no rule states (R300). -/
def State.libSpace (c : Nat) (r : LibRun) (s : State) : State :=
  let (d, s) := s.fresh
  s.setCore c ((s.core c).wipe (r.param 4 4) (r.param 8 4) (some d))

/-- Hauls of the metadata begin: header, plan record and quality map, and for a phase run the phase record.
A mode-2 strand has a TRACE of its QY channel alone (R305); a temperature run releases other planes at once (R311). -/
def State.libStart (c : Nat) (r : LibRun) (s : State) : State :=
  let n := if r.kind = 4 then 0x210 else 0x1F0
  let go (s : State) : State := (s.libSpace c r).setLib c { r with todo := r.planes.map fun b => libHaul b true 0 0 0 n 0 }
  match r.kind with
  | 1 => if r.phase && r.planes.any fun b => r.role b.1 != 11 then (s.dropBinds c).libDone c r [] else go s
  | 3 => go (s.unbind c ((s.core c).binds.filter fun b => !r.planes.contains b))
  | _ => go s

/-- A run stands at a library entry: the kernel sets SATM and RND (R300), takes the block at s4 (R320) and makes the checks of
entry (R301). -/
def State.enterLib (c : Nat) (s : State) : State :=
  let k := (s.core c).landTo (s.core c).cycle
  let kind := libKind k.pc
  if s.runOf c && kind != 0 then
    let a := (k.bank0.getD 4 0).toNat
    let r := s.libRead k c kind a
    let s := s.setCore c { k with runEntry := k.pc, runParam := a, cstat := (k.cstat &&& ~~~0x380) ||| 0x180, lib := some r }
    match firstBad (r.headChecks a (k.runWord % 256 = 0xFF) ++ r.ownChecks) with
    | some d => s.libFail c r 0x10 d
    | none => s.libStart c r
  else s

/-! ### Products (R305 to R319) -/

/-- The bins or row words a kernel hauls once its header is judged. -/
def LibRun.binHauls (r : LibRun) : List Haul :=
  let h := r.header (r.planes.head?.getD (0, 0))
  match r.kind with
  | 1 => r.planes.map fun b => libHaul b false 0 0 (256 * r.param 0x12 2) (256 * r.traceBlocks (r.header b)) 0
  | 2 =>
    let p := r.decoding h
    r.planes.map fun b => libHaul b false 1 p.e 0 h.nbin (r.param 4 4 + 2 * p.need * b.2)
  | 3 => r.planes.map fun b => libHaul b false 0 0 0 h.nbin 0
  | _ => r.planes.flatMap fun b =>
    let pr := PhaseRec.parse ((r.head b).drop 0x1F0) r.side
    let n := pr.rdone * (h.nbin / 2 ^ min 4 pr.sdec)
    [libHaul (b.1 + 1, b.2) false 0 0 0 (min n 102400) 0, libHaul (b.1 + 2, b.2) false 0 0 0 (n - 102400) 0]

/-- The Raman temperature kernel's messages and state area (R311 to R314, R316 to R318). DEDUCED: log entry 38. -/
def State.tempProduct (c : Nat) (r : LibRun) (s : State) : List (Nat × List Byte) × State :=
  let k := s.core c
  let f := r.param
  let as_ := r.planes.head?.getD (0, 0)
  let st := (r.planes[1]?).getD (0, 0)
  let h := r.header as_
  let q := 2 ^ f 0x21 1
  let npos := h.nbin / q
  let pc : RefIn := r.refs.head?.getD ⟨0, 0, 0, false, true⟩
  let g : Rat := (f 0x10 4 : Rat) / 65536
  let lr := r.ratios as_ st q
  let one := f 0x38 1 = 0xFF
  let r2 := if one then none else (r.refs[1]?).bind fun x => r.refOut q (f 0x30 4) (f 0x34 4) h.tLast x lr
  let old := s.area c (f 12 4)
  let fixed : Rat := (wrapInt 32 (f 0x14 4) : Rat) / (2 ^ 32 : Nat)
  let held := (old.map (·.slope)).getD fixed
  let dA := if one then fixed else held
  let flags (bad two : Bool) := flagWord [(old.isNone, 0), (bad, 1), (h.flags % 2 = 1, 2), (two, 3), (h.skipped != 0, 4)]
  let temp (bad two : Bool) (vals : List Int) : Nat × List Byte :=
    (3, r.tempPayload k.runStrand as_ st (flags bad two) (r.refTemp pc) dA pc.btime vals)
  match r.refOut q (f 0x18 4) (f 0x1C 4) h.tLast pc lr with
  | none => ([temp true false (List.replicate npos (-32768)), s.libStatus c 0x13 0], s)
  | some y =>
    let (d, s) := s.fresh
    let vals := ((List.range npos).zip lr).map fun x => tempAt d q g dA y x.1 x.2
    let even : Bool := f 2 2 % 2 = 1
    let was := (old.map (·.zones)).getD []
    let prev := (old.map (·.prev)).getD []
    let high := if even then zonesOf 1 (f 0x3A 2) (hitsOf vals fun _ v => if wrapInt 16 (f 0x3C 2) ≤ v then some v else none) else []
    let rise := if !even then [] else zonesOf 2 (f 0x3A 2) (hitsOf vals fun p v =>
      let u := nth prev p (-32768)
      if u != -32768 && (f 0x3E 2 : Int) ≤ v - u then some (v - u) else none)
    let x : EventCtx := ⟨h.tLast, k.runStrand, 0xFF, k.runStack, d⟩
    let (e1, z1) := x.records high (was.filter fun z => z.kind = 1)
    let (e2, z2) := { x with draw := d + 1 }.records rise (was.filter fun z => z.kind = 2)
    let recs := if even then e1 ++ e2 else []
    (temp false r2.isSome vals :: eventMessages recs.length recs,
     s.fresh.2.putArea c (f 12 4) ⟨1024 + 2 * npos, k.runStrand, k.runStack, z1 ++ z2, vals,
       nextSlope d old.isNone (f 0x39 1) g dA held y r2⟩)

/-- The strain-rate kernel's messages and state area (R315 to R318). DEDUCED: log entry 38. -/
def State.strainProduct (c : Nat) (r : LibRun) (s : State) : List (Nat × List Byte) × State :=
  let k := s.core c
  let b := r.planes.head?.getD (0, 0)
  let q := b.1 / 4
  let (payload, hits) := r.phaseProduct k.runStrand q b.2
  let pr := PhaseRec.parse ((r.head b).drop 0x1F0) r.side
  let even : Bool := r.param 2 2 % 2 = 1
  let t : Time := pr.tRef + BitVec.ofNat 64 ((pr.row0 + pr.rdone) * (pr.tdec + 1) * pr.lper * 256)
  let was := ((s.area c (r.param 12 4)).map (·.zones)).getD []
  let (d, s) := s.fresh
  let (recs, kept) := EventCtx.records ⟨t, k.runStrand, q, k.runStack, d⟩ (if even then zonesOf 3 (r.param 0x1A 2) hits else []) was
  ((4, payload) :: (if even then eventMessages recs.length recs else []),
   s.putArea c (r.param 12 4) ⟨1024, k.runStrand, k.runStack, kept, [], 0⟩)

/-- The kernel's product, once every haul of the job has ended (R477). -/
def State.product (c : Nat) (r : LibRun) (s : State) : List (Nat × List Byte) × State :=
  match r.kind with
  | 1 => (r.planes.map fun b => (1, r.tracePayload b), s)
  | 2 => ([(2, r.codedPayload ((s.core c).runWord % 256))], s)
  | 3 => s.tempProduct c r
  | _ => s.strainProduct c r

/-! ### The haul of a library kernel (R300 to R302, R477) -/

/-- Planes no haul is left for are released; of a phase run those of its quad (R300, R305, R309, R311, R315). -/
def State.libFree (c : Nat) (r : LibRun) (s : State) : State :=
  let mine (b : Nat × Nat) : Bool := r.kind != 4 || r.planes.any fun x => b.1 / 4 = x.1 / 4
  s.unbind c ((s.core c).binds.filter fun b => mine b && !r.todo.any fun h => h.chan = b.1 && h.plane = b.2)

/-- The metadata is hauled: the checks that depend on it (R301), and the hauls of bins or row words; the decoder's regions are
zeros (R306). -/
def State.libJudge (c : Nat) (r : LibRun) (s : State) : State :=
  match r.judge with
  | some (cause, d) => s.libFail c r cause d
  | none =>
    let r := { r with judged := true, todo := r.binHauls.filter fun h => h.count != 0 }
    let need := (r.decoding (r.header (r.planes.head?.getD (0, 0)))).need
    let s := if r.kind = 2 then s.setCore c ((s.core c).wipe (r.param 4 4) (4 * need) none) else s
    (s.libFree c r).setLib c r

/-- Every haul has ended: the product is computed. -/
def State.libFinish (c : Nat) (s : State) : State :=
  match (s.core c).lib with
  | some r =>
    if r.judged && r.todo = [] && r.out.isNone then
      let (msgs, s) := s.product c r
      (s.libSpace c r).libDone c r msgs
    else s
  | none => s

/-- What a haul delivered is taken in; a UE, or MUE at its end, goes to the piece (R302). DEDUCED: log entry 38. -/
def LibRun.take (r : LibRun) (h : Haul) (items : List (List Byte × Bool)) (bad : Bool) : LibRun :=
  let key := planeKey h.chan h.plane
  let blk (i : Nat) : Nat := (h.first + i) / 256
  let r := if !bad then r else
    { r with ues := r.ues ++ [if h.isMeta then (key, 0, 399) else (key, blk 0, blk (h.count - 1))] }
  if h.isMeta then { r with heads := r.heads.put key (items.flatMap (·.1)) }
  else
    let vs := items.map fun x => wrapInt (8 * h.step) (leNat x.1)
    let clip := ((List.range items.length).zip items).filterMap fun x => if x.2.2 then some (key, blk x.1) else none
    { r with bins := r.bins.put key (r.bins.getD key [] ++ vs), clips := r.clips ++ clip.eraseDups }

/-- A haul of the run's kernel has ended. -/
def State.libHauled (c : Nat) (r : LibRun) (h : Haul) (items : List (List Byte × Bool)) (ue : Bool) (s : State) : State :=
  let k := s.core c
  let r := r.take h items (ue || k.cstat.getLsbD 11)
  let side := match (s.metas.find (planeKey h.chan h.plane)).bind (·.phase) with
    | some p => (p.lper, p.rateOver)
    | none => r.side
  let r := if h.isMeta then { r with side := side } else r
  let s := (s.setCore c { k with cstat := k.cstat &&& ~~~0x800 }).setLib c r
  if r.judged then (s.libFree c r).libFinish c
  else if r.todo = [] then (s.libJudge c r).libFinish c
  else s

/-- The engine begins the kernel's next descriptor: a piece of `piece` bins, all that are left for 0 or more than that; refused, it
ends the kernel's work (R477). -/
def State.libBegin (c piece : Nat) (s : State) : State :=
  match (s.core c).lib with
  | none => s
  | some r =>
    match r.todo with
    | [] => s
    | h :: rest =>
      if s.haulRefused h then
        s.libFail c r 0x14 (h.chan + 256 * (h.plane + (if h.isMeta then 2 else 0) + 4 * h.format))
      else
        let n := if h.isMeta || piece = 0 then h.count else min piece h.count
        let left := if n = h.count then [] else [{ h with first := h.first + n, count := h.count - n, dest := h.dest + n * h.step }]
        s.setCore c { s.core c with hauling := some { h with count := n }, lib := some { r with todo := left ++ rest } }

/-! ### The haul engine's events (R269 to R271) -/

/-- HAUL_DESCRIPTOR_BEGIN (R269, R270). DEDUCED: log entries 35 and 36. -/
def execHaulDescriptorBegin (x : HaulStart) (s : State) : Host.Outcome State Fault Refusal :=
  .next <|
    let c := x.core
    let k := s.core c
    match k.hq, k.hauling with
    | a :: rest, none =>
      let h := s.haulAt c a
      let s := s.setCore c { k with hq := rest }
      if s.haulRefused h then
        let s := s.haulStatus c a 2
        if h.irq then s.pend c 1 else s
      else s.setCore c { s.core c with hauling := some h }
    | [], none => s.libBegin c x.piece
    | _, _ => s

/-- HAUL_DESCRIPTOR_END (R269 to R271): the items are in DM, STATUS is written, HAUL becomes pending when asked for; operands as
those of `State.haulCopy`. DEDUCED: log entry 35. -/
def execHaulDescriptorEnd (c : CoreId) (errs : List (Nat × Ecc)) (bank : BankUse) (s : State) : Host.Outcome State Fault Refusal :=
  .next <|
    match (s.core c).hauling with
    | none => s
    | some h =>
      let met := errs.filter fun e => e.1 < h.items
      let ue := (met.filter (·.2.ue)).length
      let (items, s) := (s.setCore c { s.core c with hauling := none }).haulCopy c h h.items met bank.taken bank.turns
      match h.lib, (s.core c).lib with
      | true, some r => s.libHauled c r h items (ue != 0)
      | _, _ =>
        let bits := (if ue = 0 then 0 else 4) + (if items.any (·.2) then 8 else 0) + 65536 * min 0xFFFF ue
        let s := s.haulStatus c h.at_ bits
        if h.irq then s.pend c 1 else s

/-! ### Starting and ending runs (R275, R276) -/

/-- JOB_START (R275): the oldest job of an IDLE core; `fetch`: the outcome of the first instruction's fetch.
DESIGN CHOICE: log entry 8. -/
def execJobStart (c : CoreId) (fetch : Ecc) (s : State) : Host.Outcome State Fault Refusal :=
  .next <|
    let k := s.core c
    match k.jobs with
    | [] => s
    | j :: rest =>
      if !(s.cstate c = 1 && !k.idleIrq && 4 ≤ s.mode && !s.inWatch) then s
      else
        let n := s.nowCycle c
        let k := (k.toCycle n).ended
        let k := { k with jobs := rest, binds := j.binds, runStrand := j.strand, runStack := j.stack, runEntry := j.entry,
                          runParam := j.param, runWord := j.word, lib := none, pc := j.entry,
                          land := [], cstat := s.reg (Reg.CORE_CSINIT_V.addr c), wdFrom := n }
        let k := (((k.setSreg false 1 (BitVec.ofNat 32 j.strand)).setSreg false 2 (BitVec.ofNat 32 j.stack)).setSreg
          false 3 (BitVec.ofNat 32 j.word)).setSreg false 4 (BitVec.ofNat 32 j.param)
        let s := ((s.setCore c k).showJobs c).wr Reg.CORE_STAT_STATE c 2
        let s := (s.count Reg.CORE_RUNNO_N c 1).coreEcc c j.entry 2 fetch
        if fetch.ue then s.coreFault c 2
        else if libKind j.entry = 0 && decodeCoreWord c (s.imWord c j.entry) = none then s.coreFault c 1
        else s.enterLib c

/-- A kernel's message as it is sent: a STATUS record's T is the lanyard time of END's retirement (R337). -/
def libStamped (t : Time) (p : Nat × List Byte) : Nat × List Byte :=
  if p.1 = 7 then (7, p.2.take 8 ++ leBytes 8 t.toNat ++ p.2.drop 16) else p

/-- END_RETIRE (R276): every result has landed; sends go to the link island in SQ order, a library kernel's after them.
DEDUCED: log entries 33 and 36 and 42. -/
def execEndRetire (c : CoreId) (s : State) : Host.Outcome State Fault Refusal :=
  .next <|
    let k := s.core c
    match k.endAt with
    | none => s
    | some t =>
      let k := k.toCycle t
      if !s.runOf c then
        let s := s.setCore c k.ended
        if s.cstate c = 1 then s.toIdle c else s
      else
        let at_ := s.cycleTime t
        let lib := ((k.lib.bind (·.out)).getD []).map (libStamped at_)
        let own := lib.map fun p => Send.mk 0 p.2.length p.1
        let s := s.setCore c { k.ended with sends := [], lib := none, drain := k.sends ++ own }
        let s := (((s.cancelHauls c).dropBinds c).lastRun c 1).wr Reg.CORE_STAT_STATE c 3
        let pos := s.rd Reg.HAWSER_POS_POS 0
        let items := k.sends.map fun d => TxItem.mk d.ty pos (.send c d.addr d.len at_) 0 none
        let items := items ++ lib.map fun p => TxItem.mk p.1 pos (.lib c p.2) 0 none
        { s with link := { s.link with txq := s.link.txq ++ items } }

end Sys2Proof.Machine
end

