-- ==== Sys2Proof/Machine/CoreIssue.lean ====
section
/-! DEFINITION. How a core issues an instruction: its cycle, the results that land, the program counter with delay slots and
repeats, memory accesses and address generators (chapters 11 and 12). -/

namespace Sys2Proof.Machine

/-! ### Issue (R259, R262, R267, R292) -/

/-- What an instruction does as it issues. -/
inductive Did where
  /-- it takes effect; the register-window store it posts, if any -/
  | ok (s : State) (post : Option (Nat × Word))
  /-- it faults with a code of R280 and has no effect -/
  | fault (code : Nat)
  /-- it waits and has not issued (R297) -/
  | wait

/-- A core can issue: it is in RUN or in a handler, it awaits no answer and no END, and its island is not gated. -/
def State.canIssue (s : State) (c : Nat) : Bool :=
  4 ≤ s.mode && !s.inWatch && (s.cstate c = 2 || (s.core c).idleIrq) && (s.core c).load.isNone && (s.core c).endAt.isNone

/-- Bits of CSTAT that exist (Table 11.4). DEDUCED: log entry 33. -/
def cstatMask : Word := 0xFFFFFBBC

/-- RTI takes effect (R267, R268). DEDUCED: log entry 33. -/
def CoreRt.rtiTo (k : CoreRt) (level : Nat) (csinit : Word) : CoreRt :=
  let st := nth k.istat level 0 &&& cstatMask
  let k := { k with cstat := st, pc := (nth k.ira level 0).toNat % 2 ^ 15, shadow := k.shadow && level != 1, flow := none }
  if k.idleIrq && k.lvl = 0 then { k with idleIrq := false, cstat := csinit } else k

/-- The program counter after the instruction at `was.pc`: repeats, delay slots, then the next word.
DEDUCED: log entry 10. -/
def CoreRt.advance (was k : CoreRt) (csinit : Word) : CoreRt :=
  let k := { k with cycle := was.cycle + 1 }
  let next := (was.pc + 1) % 2 ^ 15
  match was.rep with
  | some n => if n ≤ 1 then { k with rep := none, pc := next } else { k with rep := some (n - 1) }
  | none =>
    match was.flow with
    | some (n, f) =>
      if 1 < n then { k with flow := some (n - 1, f), pc := next }
      else match f with
        | .to t => { k with flow := none, pc := t }
        | .rti l => k.rtiTo l csinit
    | none => { k with pc := next }

/-- The instruction that issues is the last delay slot of a branch, CALL or JR. -/
def CoreRt.jumps (k : CoreRt) : Bool :=
  match k.flow with
  | some (n, .to _) => k.rep.isNone && n ≤ 1
  | _ => false

/-- One instruction issues on core `c`. DESIGN CHOICE: log entries 6 and 8. -/
def State.issue (c : Nat) (eff : State → Did) (s : State) : State :=
  if !s.canIssue c then s
  else
    let k := (s.core c).awake (s.nowCycle c)
    let k := k.landTo k.cycle
    let t := (s.setCore c k).wr Reg.CORE_PC_PC c k.pc
    match eff t with
    | .wait => s.setCore c { (s.core c).toCycle (s.nowCycle c) with waiting := true }
    | .fault code => t.coreFault c code
    | .ok u post =>
      let u := u.setCore c (k.advance (u.core c) (s.reg (Reg.CORE_CSINIT_V.addr c)))
      let u := if k.jumps then u.enterLib c else u
      match post with
      | none => u
      | some (a, v) => if h : c < 12 then u.writeReg (.core ⟨c, h⟩) a v else u

/-- An instruction that only changes the core. -/
def coreOp (c : CoreId) (f : CoreRt → CoreRt) (s : State) : Host.Outcome State Fault Refusal :=
  .next (s.issue c fun t => .ok (t.setCore c (f (t.core c))) none)

/-- A scalar result of one cycle. -/
def scalarOp (c : CoreId) (d : BitVec 5) (f : CoreRt → Word) (s : State) : Host.Outcome State Fault Refusal :=
  coreOp c (fun k => k.laterS 1 d (f k)) s

/-! ### Address generators (R255, R261, Table 12.3) -/

/-- Length of an address generator as it acts: bit 0 ignored, 0 acts as 524,288. DEDUCED: log entry 32. -/
def CoreRt.agSize (k : CoreRt) (g : Nat) : Nat :=
  let n := (nth k.agLen g 0).toNat / 2 * 2
  if n = 0 then 524288 else n

/-- Base address of an address generator. -/
def CoreRt.agFrom (k : CoreRt) (g : Nat) : Word := nth k.agBase g 0

/-- circ_update: the pointer's new value, and CWRAP when the offset was at or beyond the length.
DESIGN CHOICE: log entry 6. DEDUCED: log entry 32. -/
def CoreRt.circ (k : CoreRt) (p : BitVec 5) (g : Nat) (st : Int) : CoreRt :=
  let off := (k.sreg p).toNat
  let len := k.agSize g
  let k := if len ≤ off then k.later 1 (.flags (BitVec.ofNat 32 (2 ^ (12 + g)))) else k
  k.laterS 1 p (BitVec.ofInt 32 (((off : Int) + st) % (len : Int)))

/-- Access address of an M-format instruction, and whether an address generator formed it. DEDUCED: log entry 32. -/
def CoreRt.address (k : CoreRt) (p : BitVec 5) (m : Mem) : Nat × Bool :=
  match m with
  | .off x => ((k.sreg p + x.signExtend 32).toNat, false)
  | .post _ => ((k.sreg p).toNat, false)
  | .circ g _ => ((k.agFrom g.toNat + k.sreg p).toNat, true)
  | .circReg g _ => ((k.agFrom g.toNat + k.sreg p).toNat, true)

/-- Post-update of an M-format instruction. -/
def CoreRt.postUpdate (k : CoreRt) (p : BitVec 5) (m : Mem) : CoreRt :=
  match m with
  | .off _ => k
  | .post x => k.laterS 1 p (k.sreg p + x.signExtend 32)
  | .circ g x => k.circ p g.toNat x.toInt
  | .circReg g q => k.circ p g.toNat (k.sreg q).toInt

/-! ### Data space (R252, Table 11.2) -/

/-- `n` bytes at `a` lie in DM. DEDUCED: log entry 32. -/
def inDm (a n : Nat) : Bool := a + n ≤ 0x80000
/-- `n` bytes at `a` lie in the data ROM. DEDUCED: log entry 32. -/
def inRom (a n : Nat) : Bool := 0x80000 ≤ a && a + n ≤ 0x90000
/-- A word at `a` lies in the register window. DEDUCED: log entry 32. -/
def inWindow (a : Nat) : Bool := 0x80000000 ≤ a && a ≤ 0x80047FFC

/-- A data-ROM byte; the word at offset 0 is the Molylith version (R298). DESIGN CHOICE: log entry 5. -/
def romData (o : Nat) : Byte := if o < 4 then nth (leBytes 4 0x00010000) o 0 else Config.romByte o

/-- `n` bytes of the data space of a core from `a` on. -/
def State.dataBytes (s : State) (c a n : Nat) : List Byte :=
  if a < 0x80000 then s.dmBytes c a n else (List.range n).map fun i => romData (a + i - 0x80000)

/-- The outcome of a load's read (R271): an uncorrectable DM word sets UE now and MUE with the result. -/
def State.loadEcc (c a : Nat) (e : Ecc) (s : State) : State :=
  let dm : Bool := decide (a < 0x80000)
  let s := s.coreEcc c (a / 4) (if dm then 1 else 2) e
  if e.ue && dm then
    ((s.put Reg.CORE_STAT_UE c true).sourceAt 5 (s.coreTime c)).setCore c ((s.core c).later 3 (.flags 0x800))
  else s

/-- A load from DM or the data ROM of `n` bytes aligned to `al`: `put` files the result. -/
def State.loadFrom (c : Nat) (p : BitVec 5) (m : Mem) (n al : Nat) (e : Ecc) (put : CoreRt → List Byte → CoreRt) (s : State) :
    Did :=
  let k := s.core c
  let (a, ag) := k.address p m
  if a % al = 0 && (inDm a n || (!ag && inRom a n)) then
    let (bs, s) := s.deliverBytes (s.dataBytes c a n) e
    .ok ((s.setCore c (put (k.postUpdate p m) bs)).loadEcc c a e) none
  else .fault 3

/-- A scalar load of `n` bytes, extended by `ext`. -/
def scalarLoad (c : CoreId) (t p : BitVec 5) (m : Mem) (n : Nat) (e : Ecc) (ext : Nat → Word) (s : State) :
    Host.Outcome State Fault Refusal :=
  .next (s.issue c fun s => s.loadFrom c p m n n e fun k bs => k.laterS 3 t (ext (leNat bs)))

/-- A store of bytes aligned to `al`. DEDUCED: log entry 34. -/
def State.storeTo (c : Nat) (p : BitVec 5) (m : Mem) (al : Nat) (bs : List Byte) (s : State) : Did :=
  let k := s.core c
  let (a, _) := k.address p m
  if a % al = 0 && inDm a bs.length then .ok ((s.setCore c (k.postUpdate p m)).dmWrite c a bs) none else .fault 3

/-- A scalar store of the low `n` bytes of `t`. -/
def scalarStore (c : CoreId) (t p : BitVec 5) (m : Mem) (n : Nat) (s : State) : Host.Outcome State Fault Refusal :=
  .next (s.issue c fun s => s.storeTo c p m n (leBytes n ((s.core c).sreg t).toNat))

/-- LDW: the register window answers later (R253), DM and the data ROM as other loads. -/
def State.loadWord (c : Nat) (t p : BitVec 5) (m : Mem) (e : Ecc) (s : State) : Did :=
  let k := s.core c
  let (a, ag) := k.address p m
  if !ag && inWindow a && a % 4 = 0 then
    .ok (s.setCore c { k.postUpdate p m with load := some ⟨k.shadow, t.toNat, a - 0x80000000⟩ }) none
  else s.loadFrom c p m 4 4 e fun k bs => k.laterS 3 t (BitVec.ofNat 32 (leNat bs))

/-- STW: to the register window it is posted. -/
def State.storeWord (c : Nat) (t p : BitVec 5) (m : Mem) (s : State) : Did :=
  let k := s.core c
  let (a, ag) := k.address p m
  if !ag && inWindow a && a % 4 = 0 then .ok (s.setCore c (k.postUpdate p m)) (some (a - 0x80000000, k.sreg t))
  else s.storeTo c p m 4 (leBytes 4 (k.sreg t).toNat)

/-! ### Lanes (R285) -/

/-- Lanes as signed values. -/
def lanesInt (l : List Half) : List Int := l.map fun x => x.toInt

/-- Bytes as 16 lanes (R284). -/
def toLanes (bs : List Byte) : List Half := (List.range 16).map fun i => BitVec.ofNat 16 (leNat ((bs.drop (2 * i)).take 2))

/-- Lanes as bytes. -/
def fromLanes (l : List Half) : List Byte := l.flatMap fun x => leBytes 2 x.toNat

/-- A vector result of one cycle, without flags. -/
def CoreRt.putLanes (k : CoreRt) (d : BitVec 4) (l : List Half) : CoreRt := k.later 1 (.vector d.toNat l)

/-- A vector result that passes through sat16, readable after `n` cycles, with its OV bits. -/
def CoreRt.satLanes (k : CoreRt) (n : Nat) (d : BitVec 4) (l : List Int) : CoreRt :=
  let r := l.map fun x => satm16 k.satm x
  (k.later n (.vector d.toNat (r.map fun x => BitVec.ofInt 16 x.1))).later n (.flags (ovBits (r.map (·.2))))

/-- The value of a scalar's low half, as sext16. -/
def half (w : Word) : Int := (w.setWidth 16 : Half).toInt

/-- Two lists combined lane by lane. -/
def lanes2 {α β γ : Type} (f : α → β → γ) (x : List α) (y : List β) : List γ := (List.zip x y).map fun p => f p.1 p.2

/-- A lane mask as a scalar (VCGT). -/
def maskOf (l : List Bool) : Word :=
  BitVec.ofNat 32 (((List.range l.length).zip l).foldl (fun n p => if p.2 then n + 2 ^ p.1 else n) 0)

/-! ### Branches (R292) -/

/-- A control instruction: two delay slots, then `t`. DEDUCED: log entry 34. -/
def CoreRt.branchTo (k : CoreRt) (t : Nat) : CoreRt := { k with flow := some (2, .to (t % 2 ^ 15)) }

/-- A conditional branch; one that is not taken goes on behind its delay slots. DEDUCED: log entry 34. -/
def branchOp (c : CoreId) (taken : CoreRt → Bool) (target : BitVec 15) (s : State) : Host.Outcome State Fault Refusal :=
  coreOp c (fun k => k.branchTo (if taken k then target.toNat else k.pc + 3)) s

end Sys2Proof.Machine
end

