-- ==== Sys2Proof/Machine/CoreIsa.lean ====
section
/-! DEFINITION. Meanings of the core instructions (chapter 12): each is an issue on the core it names. -/

namespace Sys2Proof.Machine

/-! ### Scalar (Table 12.2) -/

/-- 1 for true. -/
def wordOf (b : Bool) : Word := if b then 1 else 0

/-- ADD (R286): `d := a + b`. -/
def execAdd (c : CoreId) (d a b : BitVec 5) (s : State) : Host.Outcome State Fault Refusal :=
  scalarOp c d (fun k => k.sreg a + k.sreg b) s

/-- SUB (R286): `d := a - b`. -/
def execSub (c : CoreId) (d a b : BitVec 5) (s : State) : Host.Outcome State Fault Refusal :=
  scalarOp c d (fun k => k.sreg a - k.sreg b) s

/-- AND (R286): bitwise and. -/
def execAnd (c : CoreId) (d a b : BitVec 5) (s : State) : Host.Outcome State Fault Refusal :=
  scalarOp c d (fun k => k.sreg a &&& k.sreg b) s

/-- OR (R286): bitwise or. -/
def execOr (c : CoreId) (d a b : BitVec 5) (s : State) : Host.Outcome State Fault Refusal :=
  scalarOp c d (fun k => k.sreg a ||| k.sreg b) s

/-- XOR (R286): bitwise exclusive or. -/
def execXor (c : CoreId) (d a b : BitVec 5) (s : State) : Host.Outcome State Fault Refusal :=
  scalarOp c d (fun k => k.sreg a ^^^ k.sreg b) s

/-- SHL (R286): left by b[4:0]. -/
def execShl (c : CoreId) (d a b : BitVec 5) (s : State) : Host.Outcome State Fault Refusal :=
  scalarOp c d (fun k => k.sreg a <<< ((k.sreg b).toNat % 32)) s

/-- SHR (R286): logical right by b[4:0]. -/
def execShr (c : CoreId) (d a b : BitVec 5) (s : State) : Host.Outcome State Fault Refusal :=
  scalarOp c d (fun k => k.sreg a >>> ((k.sreg b).toNat % 32)) s

/-- SRA (R286): arithmetic right by b[4:0]. -/
def execSra (c : CoreId) (d a b : BitVec 5) (s : State) : Host.Outcome State Fault Refusal :=
  scalarOp c d (fun k => (k.sreg a).sshiftRight ((k.sreg b).toNat % 32)) s

/-- SLT (R286): signed less than. -/
def execSlt (c : CoreId) (d a b : BitVec 5) (s : State) : Host.Outcome State Fault Refusal :=
  scalarOp c d (fun k => wordOf ((k.sreg a).slt (k.sreg b))) s

/-- SLTU (R286): unsigned less than. -/
def execSltu (c : CoreId) (d a b : BitVec 5) (s : State) : Host.Outcome State Fault Refusal :=
  scalarOp c d (fun k => wordOf ((k.sreg a).ult (k.sreg b))) s

/-- MIN (R286): signed minimum. -/
def execMin (c : CoreId) (d a b : BitVec 5) (s : State) : Host.Outcome State Fault Refusal :=
  scalarOp c d (fun k => if (k.sreg b).slt (k.sreg a) then k.sreg b else k.sreg a) s

/-- MAX (R286): signed maximum. -/
def execMax (c : CoreId) (d a b : BitVec 5) (s : State) : Host.Outcome State Fault Refusal :=
  scalarOp c d (fun k => if (k.sreg a).slt (k.sreg b) then k.sreg b else k.sreg a) s

/-- MUL (R286): the low 32 bits of the product, multiply class. -/
def execMul (c : CoreId) (d a b : BitVec 5) (s : State) : Host.Outcome State Fault Refusal :=
  coreOp c (fun k => k.laterS 3 d (k.sreg a * k.sreg b)) s

/-- SHLI (R286): left by `sh`. -/
def execShli (c : CoreId) (d a sh : BitVec 5) (s : State) : Host.Outcome State Fault Refusal :=
  scalarOp c d (fun k => k.sreg a <<< sh.toNat) s

/-- SHRI (R286): logical right by `sh`. -/
def execShri (c : CoreId) (d a sh : BitVec 5) (s : State) : Host.Outcome State Fault Refusal :=
  scalarOp c d (fun k => k.sreg a >>> sh.toNat) s

/-- SRAI (R286): arithmetic right by `sh`. -/
def execSrai (c : CoreId) (d a sh : BitVec 5) (s : State) : Host.Outcome State Fault Refusal :=
  scalarOp c d (fun k => (k.sreg a).sshiftRight sh.toNat) s

/-- ADDI (R286): add of the sign-extended immediate. -/
def execAddi (c : CoreId) (d a : BitVec 5) (imm : BitVec 16) (s : State) : Host.Outcome State Fault Refusal :=
  scalarOp c d (fun k => k.sreg a + imm.signExtend 32) s

/-- ANDI (R286): and with the zero-extended immediate. -/
def execAndi (c : CoreId) (d a : BitVec 5) (imm : BitVec 16) (s : State) : Host.Outcome State Fault Refusal :=
  scalarOp c d (fun k => k.sreg a &&& imm.setWidth 32) s

/-- ORI (R286): or with the zero-extended immediate. -/
def execOri (c : CoreId) (d a : BitVec 5) (imm : BitVec 16) (s : State) : Host.Outcome State Fault Refusal :=
  scalarOp c d (fun k => k.sreg a ||| imm.setWidth 32) s

/-- XORI (R286): exclusive or with the zero-extended immediate. -/
def execXori (c : CoreId) (d a : BitVec 5) (imm : BitVec 16) (s : State) : Host.Outcome State Fault Refusal :=
  scalarOp c d (fun k => k.sreg a ^^^ imm.setWidth 32) s

/-- SLTI (R286): signed less than the sign-extended immediate. -/
def execSlti (c : CoreId) (d a : BitVec 5) (imm : BitVec 16) (s : State) : Host.Outcome State Fault Refusal :=
  scalarOp c d (fun k => wordOf ((k.sreg a).slt (imm.signExtend 32))) s

/-- LUI (R286): the immediate in the upper half. -/
def execLui (c : CoreId) (d : BitVec 5) (imm : BitVec 16) (s : State) : Host.Outcome State Fault Refusal :=
  scalarOp c d (fun _ => imm ++ (0#16)) s

/-! ### Loads, stores and CADD (Table 12.4) -/

/-- LDB (R288): a sign-extended byte. -/
def execLdb (c : CoreId) (t p : BitVec 5) (m : Mem) (e : Ecc) (s : State) : Host.Outcome State Fault Refusal :=
  scalarLoad c t p m 1 e (fun n => (BitVec.ofNat 8 n).signExtend 32) s

/-- LDBU (R288): a zero-extended byte. -/
def execLdbu (c : CoreId) (t p : BitVec 5) (m : Mem) (e : Ecc) (s : State) : Host.Outcome State Fault Refusal :=
  scalarLoad c t p m 1 e (fun n => BitVec.ofNat 32 n) s

/-- LDH (R288): a sign-extended halfword. -/
def execLdh (c : CoreId) (t p : BitVec 5) (m : Mem) (e : Ecc) (s : State) : Host.Outcome State Fault Refusal :=
  scalarLoad c t p m 2 e (fun n => (BitVec.ofNat 16 n).signExtend 32) s

/-- LDHU (R288): a zero-extended halfword. -/
def execLdhu (c : CoreId) (t p : BitVec 5) (m : Mem) (e : Ecc) (s : State) : Host.Outcome State Fault Refusal :=
  scalarLoad c t p m 2 e (fun n => BitVec.ofNat 32 n) s

/-- LDW (R288): a word, also from the register window. -/
def execLdw (c : CoreId) (t p : BitVec 5) (m : Mem) (e : Ecc) (s : State) : Host.Outcome State Fault Refusal :=
  .next (s.issue c fun s => s.loadWord c t p m e)

/-- STB (R288): stores the low byte. -/
def execStb (c : CoreId) (t p : BitVec 5) (m : Mem) (s : State) : Host.Outcome State Fault Refusal :=
  scalarStore c t p m 1 s

/-- STH (R288): stores the low halfword. -/
def execSth (c : CoreId) (t p : BitVec 5) (m : Mem) (s : State) : Host.Outcome State Fault Refusal :=
  scalarStore c t p m 2 s

/-- STW (R288): stores a word, posted to the register window. -/
def execStw (c : CoreId) (t p : BitVec 5) (m : Mem) (s : State) : Host.Outcome State Fault Refusal :=
  .next (s.issue c fun s => s.storeWord c t p m)

/-- VLD (R288): 16 halfwords. -/
def execVld (c : CoreId) (t : BitVec 4) (p : BitVec 5) (m : Mem) (e : Ecc) (s : State) : Host.Outcome State Fault Refusal :=
  .next (s.issue c fun s => s.loadFrom c p m 32 2 e fun k bs => k.later 3 (.vector t.toNat (toLanes bs)))

/-- VST (R288): 16 halfwords. -/
def execVst (c : CoreId) (t : BitVec 4) (p : BitVec 5) (m : Mem) (s : State) : Host.Outcome State Fault Refusal :=
  .next (s.issue c fun s => s.storeTo c p m 2 (fromLanes ((s.core c).vreg t.toNat)))

/-- CADD (R288): the post-update without an access; modes 0 and 1 are no instruction (R284). -/
def execCadd (c : CoreId) (p : BitVec 5) (m : Mem) (s : State) : Host.Outcome State Fault Refusal :=
  .next (s.issue c fun s =>
    match m with
    | .off _ => .fault 1
    | .post _ => .fault 1
    | .circ g x => .ok (s.setCore c ((s.core c).postUpdate p (.circ g x))) none
    | .circReg g q => .ok (s.setCore c ((s.core c).postUpdate p (.circReg g q))) none)

/-! ### Vectors (Table 12.5) -/

/-- VADD (R289): saturating lane sums. -/
def execVadd (c : CoreId) (d a b : BitVec 4) (s : State) : Host.Outcome State Fault Refusal :=
  coreOp c (fun k => k.satLanes 1 d (lanes2 (fun x y : Half => x.toInt + y.toInt) (k.vreg a.toNat) (k.vreg b.toNat))) s

/-- VSUB (R289): saturating lane differences. -/
def execVsub (c : CoreId) (d a b : BitVec 4) (s : State) : Host.Outcome State Fault Refusal :=
  coreOp c (fun k => k.satLanes 1 d (lanes2 (fun x y : Half => x.toInt - y.toInt) (k.vreg a.toNat) (k.vreg b.toNat))) s

/-- VADDS (R289): a scalar added to every lane. -/
def execVadds (c : CoreId) (d a : BitVec 4) (b : BitVec 5) (s : State) : Host.Outcome State Fault Refusal :=
  coreOp c (fun k => k.satLanes 1 d ((lanesInt (k.vreg a.toNat)).map fun x => x + half (k.sreg b))) s

/-- VMIN (R289): signed lane minimum. -/
def execVmin (c : CoreId) (d a b : BitVec 4) (s : State) : Host.Outcome State Fault Refusal :=
  coreOp c (fun k => k.putLanes d (lanes2 (fun x y : Half => if y.slt x then y else x) (k.vreg a.toNat) (k.vreg b.toNat))) s

/-- VMAX (R289): signed lane maximum. -/
def execVmax (c : CoreId) (d a b : BitVec 4) (s : State) : Host.Outcome State Fault Refusal :=
  coreOp c (fun k => k.putLanes d (lanes2 (fun x y : Half => if x.slt y then y else x) (k.vreg a.toNat) (k.vreg b.toNat))) s

/-- VABS (R289): saturating magnitude. -/
def execVabs (c : CoreId) (d a : BitVec 4) (s : State) : Host.Outcome State Fault Refusal :=
  coreOp c (fun k => k.satLanes 1 d ((lanesInt (k.vreg a.toNat)).map fun x => (x.natAbs : Int))) s

/-- VAND (R289): lane-wise bits. -/
def execVand (c : CoreId) (d a b : BitVec 4) (s : State) : Host.Outcome State Fault Refusal :=
  coreOp c (fun k => k.putLanes d (lanes2 (fun x y : Half => x &&& y) (k.vreg a.toNat) (k.vreg b.toNat))) s

/-- VOR (R289): lane-wise bits. -/
def execVor (c : CoreId) (d a b : BitVec 4) (s : State) : Host.Outcome State Fault Refusal :=
  coreOp c (fun k => k.putLanes d (lanes2 (fun x y : Half => x ||| y) (k.vreg a.toNat) (k.vreg b.toNat))) s

/-- VXOR (R289): lane-wise bits. -/
def execVxor (c : CoreId) (d a b : BitVec 4) (s : State) : Host.Outcome State Fault Refusal :=
  coreOp c (fun k => k.putLanes d (lanes2 (fun x y : Half => x ^^^ y) (k.vreg a.toNat) (k.vreg b.toNat))) s

/-- VSHLI (R289): saturating left shift. -/
def execVshli (c : CoreId) (d a sh : BitVec 4) (s : State) : Host.Outcome State Fault Refusal :=
  coreOp c (fun k => k.satLanes 1 d ((lanesInt (k.vreg a.toNat)).map fun x => x * 2 ^ sh.toNat)) s

/-- VSRAI (R289): arithmetic right shift. -/
def execVsrai (c : CoreId) (d a sh : BitVec 4) (s : State) : Host.Outcome State Fault Refusal :=
  coreOp c (fun k => k.putLanes d ((k.vreg a.toNat).map fun x => x.sshiftRight sh.toNat)) s

/-- VBC (R289): a scalar half in every lane. -/
def execVbc (c : CoreId) (d : BitVec 4) (a : BitVec 5) (s : State) : Host.Outcome State Fault Refusal :=
  coreOp c (fun k => k.putLanes d (List.replicate 16 ((k.sreg a).setWidth 16))) s

/-- VGET (R289): one lane, sign-extended. -/
def execVget (c : CoreId) (d : BitVec 5) (a lane : BitVec 4) (s : State) : Host.Outcome State Fault Refusal :=
  scalarOp c d (fun k => (nth (k.vreg a.toNat) lane.toNat 0).signExtend 32) s

/-- VPUT (R289): a scalar half in one lane. -/
def execVput (c : CoreId) (d : BitVec 4) (a : BitVec 5) (lane : BitVec 4) (s : State) : Host.Outcome State Fault Refusal :=
  coreOp c (fun k => k.putLanes d ((k.vreg d.toNat).set lane.toNat ((k.sreg a).setWidth 16))) s

/-- VCGT (R289): mask of signed greater-than. -/
def execVcgt (c : CoreId) (d : BitVec 5) (a b : BitVec 4) (s : State) : Host.Outcome State Fault Refusal :=
  scalarOp c d (fun k => maskOf (lanes2 (fun x y : Half => y.slt x) (k.vreg a.toNat) (k.vreg b.toNat))) s

/-- VCGTS (R289): mask of greater-than a scalar. -/
def execVcgts (c : CoreId) (d : BitVec 5) (a : BitVec 4) (b : BitVec 5) (s : State) : Host.Outcome State Fault Refusal :=
  scalarOp c d (fun k => maskOf ((lanesInt (k.vreg a.toNat)).map fun x => decide (half (k.sreg b) < x))) s

/-- VMOV (R289): a copy. -/
def execVmov (c : CoreId) (d a : BitVec 4) (s : State) : Host.Outcome State Fault Refusal :=
  coreOp c (fun k => k.putLanes d (k.vreg a.toNat)) s

/-! ### Multiply-accumulate and narrowing (Table 12.6) -/

/-- An operation of the multiply-accumulate class. -/
def macOp (c : CoreId) (d : BitVec 3) (f : CoreRt → AccOp) (s : State) : Host.Outcome State Fault Refusal :=
  coreOp c (fun k => k.later 3 (.acc d.toNat (f k))) s

/-- Lane products of two vectors. -/
def products (x y : List Half) : List Int := lanes2 (fun a b : Half => a.toInt * b.toInt) x y

/-- A narrowing result without flags: `f` of the raw 40 bits of each lane. -/
def narrow (c : CoreId) (d : BitVec 4) (a : BitVec 3) (f : Bin40 → Half) (s : State) : Host.Outcome State Fault Refusal :=
  coreOp c (fun k => k.later 2 (.vector d.toNat ((k.acc a.toNat).map fun x => f (BitVec.ofInt 40 x)))) s

/-- VMUL (R290): lane products. -/
def execVmul (c : CoreId) (d : BitVec 3) (a b : BitVec 4) (s : State) : Host.Outcome State Fault Refusal :=
  macOp c d (fun k => .put (products (k.vreg a.toNat) (k.vreg b.toNat))) s

/-- VMAC (R290): lane products added. -/
def execVmac (c : CoreId) (d : BitVec 3) (a b : BitVec 4) (s : State) : Host.Outcome State Fault Refusal :=
  macOp c d (fun k => .add (products (k.vreg a.toNat) (k.vreg b.toNat))) s

/-- VMSC (R290): lane products subtracted. -/
def execVmsc (c : CoreId) (d : BitVec 3) (a b : BitVec 4) (s : State) : Host.Outcome State Fault Refusal :=
  macOp c d (fun k => .add ((products (k.vreg a.toNat) (k.vreg b.toNat)).map fun x => -x)) s

/-- VMACS (R290): products with a scalar added. -/
def execVmacs (c : CoreId) (d : BitVec 3) (a : BitVec 4) (b : BitVec 5) (s : State) : Host.Outcome State Fault Refusal :=
  macOp c d (fun k => .add ((lanesInt (k.vreg a.toNat)).map fun x => x * half (k.sreg b))) s

/-- VADDA (R290): a vector added. -/
def execVadda (c : CoreId) (d : BitVec 3) (a : BitVec 4) (s : State) : Host.Outcome State Fault Refusal :=
  macOp c d (fun k => .add (lanesInt (k.vreg a.toNat))) s

/-- VSUBA (R290): a vector subtracted. -/
def execVsuba (c : CoreId) (d : BitVec 3) (a : BitVec 4) (s : State) : Host.Outcome State Fault Refusal :=
  macOp c d (fun k => .add ((lanesInt (k.vreg a.toNat)).map fun x => -x)) s

/-- ACLR (R290): zero in every lane. -/
def execAclr (c : CoreId) (d : BitVec 3) (s : State) : Host.Outcome State Fault Refusal :=
  macOp c d (fun _ => .put (List.replicate 16 0)) s

/-- VNRW (R290): shift, round and saturate. -/
def execVnrw (c : CoreId) (d : BitVec 4) (a : BitVec 3) (sh : BitVec 5) (s : State) : Host.Outcome State Fault Refusal :=
  coreOp c (fun k => k.satLanes 2 d ((k.acc a.toNat).map fun x => rndShift k.rnd x sh.toNat)) s

/-- The sum ASUM gives, and whether it left the 32-bit range (R290). -/
def CoreRt.asum (k : CoreRt) (a sh : Nat) : Word × Bool :=
  let x := rndShift k.rnd (k.acc a).sum sh
  let lo : Int := -2 ^ 31
  let hi : Int := 2 ^ 31 - 1
  if lo ≤ x && x ≤ hi then (BitVec.ofInt 32 x, false)
  else (BitVec.ofInt 32 (if k.satm then clampInt lo hi x else x), true)

/-- ASUM (R290): the sum of the lanes, shifted and rounded. -/
def execAsum (c : CoreId) (d : BitVec 5) (a : BitVec 3) (sh : BitVec 5) (s : State) : Host.Outcome State Fault Refusal :=
  coreOp c (fun k =>
    let r := k.asum a.toNat sh.toNat
    let k := k.laterS 2 d r.1
    if r.2 then k.later 2 (.flags 0x10000) else k) s

/-- AMOVL (R290): bits 15:0. -/
def execAmovl (c : CoreId) (d : BitVec 4) (a : BitVec 3) (s : State) : Host.Outcome State Fault Refusal :=
  narrow c d a (fun x => x.extractLsb' 0 16) s

/-- AMOVH (R290): bits 31:16. -/
def execAmovh (c : CoreId) (d : BitVec 4) (a : BitVec 3) (s : State) : Host.Outcome State Fault Refusal :=
  narrow c d a (fun x => x.extractLsb' 16 16) s

/-- AMOVX (R290): bits 39:32, sign-extended. -/
def execAmovx (c : CoreId) (d : BitVec 4) (a : BitVec 3) (s : State) : Host.Outcome State Fault Refusal :=
  narrow c d a (fun x => (x.extractLsb' 32 8).signExtend 16) s

/-- One lane that ASET assembles. -/
def asetLane (a b x : Half) : Int := ((a.extractLsb' 0 8 ++ b ++ x : Bin40)).toInt

/-- ASET (R290): bits 39:32, 31:16 and 15:0 from three vectors. -/
def execAset (c : CoreId) (d : BitVec 3) (a b x : BitVec 4) (s : State) : Host.Outcome State Fault Refusal :=
  macOp c d (fun k => .put ((List.range 16).map fun i =>
    asetLane (nth (k.vreg a.toNat) i 0) (nth (k.vreg b.toNat) i 0) (nth (k.vreg x.toNat) i 0))) s

/-- VDMAC (R291): `e` holds the outcomes of the vector's and of the coefficient's read. -/
def execVdmac (c : CoreId) (d : BitVec 3) (p1 : BitVec 5) (k1 : BitVec 2) (p2 : BitVec 5) (k2 : BitVec 2) (q : BitVec 5)
    (neg : Bool) (e : Ecc × Ecc) (s : State) : Host.Outcome State Fault Refusal :=
  .next (s.issue c fun s =>
    let k := s.core c
    let a1 := (k.agFrom k1.toNat + k.sreg p1).toNat
    let a2 := (k.agFrom k2.toNat + k.sreg p2).toNat
    if a1 % 2 = 0 && a2 % 2 = 0 && inDm a1 32 && inDm a2 2 then
      let (coef, s) := s.deliverBytes (s.dmBytes c a2 2) e.2
      let (vec, s) := s.deliverBytes (s.dmBytes c a1 32) e.1
      let h := (BitVec.ofNat 16 (leNat coef)).toInt
      let h := if neg then -h else h
      let l := (lanesInt (toLanes vec)).map fun x => x * h
      let k' := ((k.later 3 (.acc d.toNat (.add l))).circ p2 k2.toNat 2).circ p1 k1.toNat (k.sreg q).toInt
      .ok (((s.setCore c k').loadEcc c a1 e.1).loadEcc c a2 e.2) none
    else .fault 3)

/-! ### Control (Table 12.7) -/

/-- BEQ (R292): branch if equal. -/
def execBeq (c : CoreId) (a b : BitVec 5) (target : BitVec 15) (s : State) : Host.Outcome State Fault Refusal :=
  branchOp c (fun k => k.sreg a = k.sreg b) target s

/-- BNE (R292): branch if not equal. -/
def execBne (c : CoreId) (a b : BitVec 5) (target : BitVec 15) (s : State) : Host.Outcome State Fault Refusal :=
  branchOp c (fun k => k.sreg a ≠ k.sreg b) target s

/-- BLT (R292): branch if less, signed. -/
def execBlt (c : CoreId) (a b : BitVec 5) (target : BitVec 15) (s : State) : Host.Outcome State Fault Refusal :=
  branchOp c (fun k => (k.sreg a).slt (k.sreg b)) target s

/-- BGE (R292): branch if greater or equal, signed. -/
def execBge (c : CoreId) (a b : BitVec 5) (target : BitVec 15) (s : State) : Host.Outcome State Fault Refusal :=
  branchOp c (fun k => (k.sreg b).sle (k.sreg a)) target s

/-- BLTU (R292): branch if less, unsigned. -/
def execBltu (c : CoreId) (a b : BitVec 5) (target : BitVec 15) (s : State) : Host.Outcome State Fault Refusal :=
  branchOp c (fun k => (k.sreg a).ult (k.sreg b)) target s

/-- BGEU (R292): branch if greater or equal, unsigned. -/
def execBgeu (c : CoreId) (a b : BitVec 5) (target : BitVec 15) (s : State) : Host.Outcome State Fault Refusal :=
  branchOp c (fun k => (k.sreg b).ule (k.sreg a)) target s

/-- JMP (R292): branch always. -/
def execJmp (c : CoreId) (target : BitVec 15) (s : State) : Host.Outcome State Fault Refusal :=
  coreOp c (fun k => k.branchTo target.toNat) s

/-- CALL (R292): s31 takes the return address. -/
def execCall (c : CoreId) (target : BitVec 15) (s : State) : Host.Outcome State Fault Refusal :=
  coreOp c (fun k => (k.laterS 1 31 (BitVec.ofNat 32 ((k.pc + 3) % 2 ^ 15))).branchTo target.toNat) s

/-- JR (R292): branch to a[14:0]. -/
def execJr (c : CoreId) (a : BitVec 5) (s : State) : Host.Outcome State Fault Refusal :=
  coreOp c (fun k => k.branchTo (k.sreg a).toNat) s

/-- The count of a REP: 0 means 4,096 (R262). -/
def CoreRt.repCount (k : CoreRt) (n : RepCount) : Nat :=
  let v := match n with
    | .imm n => n.toNat
    | .reg a => (k.sreg a).toNat % 4096
  if v = 0 then 4096 else v

/-- REP (R262). -/
def execRep (c : CoreId) (n : RepCount) (s : State) : Host.Outcome State Fault Refusal :=
  coreOp c (fun k => { k with rep := some (k.repCount n) }) s

/-! ### System (Tables 12.8, 11.3) -/

/-- END (R276, R293): it retires at t + 3. A library kernel has none before its work is done. DEDUCED: log entry 36. -/
def execEndRun (c : CoreId) (s : State) : Host.Outcome State Fault Refusal :=
  .next (s.issue c fun s =>
    if (s.core c).lib.any (·.out.isNone) then .wait
    else .ok (s.setCore c { s.core c with endAt := some (s.nowCycle c + 3) }) none)

/-- RTI (R267): two delay slots, then the state of the handler's level is restored. -/
def execRti (c : CoreId) (s : State) : Host.Outcome State Fault Refusal :=
  .next (s.issue c fun s =>
    let k := s.core c
    if k.lvl = 0 then .fault 1 else .ok (s.setCore c { k with flow := some (2, .rti (k.lvl - 1)) }) none)

/-- WDK (R279): the watchdog count clears, unless it has reached PERIOD (R296). -/
def execWdk (c : CoreId) (s : State) : Host.Outcome State Fault Refusal :=
  .next (s.issue c fun s =>
    .ok (if s.wdAt c ≤ s.nowCycle c then s else s.setCore c { s.core c with wdFrom := s.nowCycle c }) none)

/-- Bits of CORE_IPEND an MTS clears: not those of a source that becomes pending in the cycle (R294). -/
def CoreRt.settled (k : CoreRt) (v : Word) : Word :=
  (List.range 4).foldl (fun m j => if j != 0 && nth k.pendAt j 0 != k.cycle then m ||| (v &&& BitVec.ofNat 32 (2 ^ j)) else m) 0

/-- Special register `n` (Table 11.3). -/
def State.special (s : State) (c n : Nat) : Word :=
  let k := s.core c
  match n with
  | 0 => k.cstat
  | 1 => BitVec.ofNat 32 (s.ipend c)
  | 2 => nth k.ira 0 0
  | 3 => nth k.ira 1 0
  | 4 => nth k.istat 0 0
  | 5 => nth k.istat 1 0
  | 6 => BitVec.ofNat 32 k.cycle
  | 7 => k.tcmp
  | 8 => s.reg (Reg.CORE_DOOR_V.addr c)
  | _ =>
    if 16 ≤ n && n < 24 then (if n % 2 = 0 then nth k.agBase ((n - 16) / 2) 0 else nth k.agLen ((n - 16) / 2) 0) else 0

/-- MFS (R293). -/
def execMfs (c : CoreId) (d n : BitVec 5) (s : State) : Host.Outcome State Fault Refusal :=
  .next (s.issue c fun s => .ok (s.setCore c ((s.core c).laterS 1 d (s.special c n.toNat))) none)

/-- What MTS does (R294, Table 11.5). -/
def State.setSpecial (c n : Nat) (v : Word) (s : State) : State :=
  let k := s.core c
  match n with
  | 0 => s.setCore c ((k.later 1 (.clear v)).later 2 (.modes v))
  | 1 => let a := Reg.CORE_IPEND_DOOR.addr c
         s.setReg a (s.reg a &&& ~~~(k.settled v))
  | 2 => s.setCore c { k with ira := k.ira.set 0 v }
  | 3 => s.setCore c { k with ira := k.ira.set 1 v }
  | 4 => s.setCore c { k with istat := k.istat.set 0 v }
  | 5 => s.setCore c { k with istat := k.istat.set 1 v }
  | 7 => s.setCore c (k.later 2 (.tcmp v))
  | _ =>
    if 16 ≤ n && n < 24 then
      s.setCore c (k.later 2 (if n % 2 = 0 then .agBase ((n - 16) / 2) v else .agLen ((n - 16) / 2) v))
    else s

/-- MTS (R294). -/
def execMts (c : CoreId) (n a : BitVec 5) (s : State) : Host.Outcome State Fault Refusal :=
  .next (s.issue c fun s => .ok (s.setSpecial c n.toNat ((s.core c).sreg a)) none)

/-- HQ (R269): the DM address of a descriptor joins the queue, once it has room. DEDUCED: log entry 35. -/
def execHq (c : CoreId) (a : BitVec 5) (s : State) : Host.Outcome State Fault Refusal :=
  .next (s.issue c fun s =>
    let k := s.core c
    let x := (k.sreg a).toNat
    if x % 32 != 0 || !inDm x 32 then .fault 3
    else if 4 ≤ k.hq.length then .wait
    else .ok (s.setCore c { k with hq := k.hq ++ [x] }) none)

/-- HWAIT (R269). -/
def execHwait (c : CoreId) (s : State) : Host.Outcome State Fault Refusal :=
  .next (s.issue c fun s => if (s.core c).hq = [] && (s.core c).hauling.isNone then .ok s none else .wait)

/-- HREL (R276, R293): one binding of the run is released early. -/
def execHrel (c : CoreId) (a : BitVec 5) (s : State) : Host.Outcome State Fault Refusal :=
  .next (s.issue c fun s =>
    let k := s.core c
    let v := (k.sreg a).toNat
    let b := (v % 256, v / 256 % 4)
    if k.binds.contains b then .ok ((s.setCore c { k with binds := k.binds.erase b }).releaseAll [b]) none else .ok s none)

/-- SQ (R277, R293, R295): a send descriptor; it waits while 16 are queued. -/
def execSq (c : CoreId) (a b : BitVec 5) (s : State) : Host.Outcome State Fault Refusal :=
  .next (s.issue c fun s =>
    let k := s.core c
    let x := (k.sreg a).toNat
    let v := (k.sreg b).toNat
    let len := v % 2 ^ 24
    if len = 0 || 524288 < len || !inDm x len then .fault 3
    else if 16 ≤ k.sends.length then .wait
    else .ok (s.setCore c { k with sends := k.sends ++ [⟨x, len, v / 2 ^ 24⟩] }) none)

/-- REGISTER_WINDOW_ANSWER (R253): the answer to a register-window load; issue resumes. DEDUCED: log entry 34. -/
def execRegisterWindowAnswer (c : CoreId) (s : State) : Host.Outcome State Fault Refusal :=
  .next <|
    match (s.core c).load with
    | none => s
    | some l =>
      let s := s.readReg (.core c) l.addr
      let k := (s.core c).toCycle (s.nowCycle c)
      s.setCore c { k.setSreg l.shadow l.r s.readVal with load := none }

end Sys2Proof.Machine
end

