-- ==== Sys2Proof/Machine/Commands.lean ====
section
/-! DEFINITION. What each Tilvar command does and answers, whichever way it came (R326 to R335, R386, R437, R440). -/

namespace Sys2Proof.Machine

/-- Number of bytes `o` to `o + n - 1` of a payload. -/
def field (p : List Byte) (o n : Nat) : Nat := leNat ((p.drop o).take n)

/-- Response codes of commands (Table 14.8). -/
def okCode : Nat := 0
def lockedCode : Nat := 1
def gatedCode : Nat := 2
def badAddr : Nat := 5
def badMsg : Nat := 6
def busy : Nat := 7
def gone : Nat := 8

/-- Response codes of accesses (Table 14.8). -/
def accNumber (a : AccCode) : Nat :=
  match a with
  | .ok => 0
  | .locked => 1
  | .gated => 2
  | .abortLate => 3
  | .aborted => 4

/-! ### READ and WRITE (R332) -/

/-- Why a READ (at most 288 accesses) or WRITE (360) is refused, and its access addresses. -/
def burst (write : Bool) (p : List Byte) : Nat × List Nat :=
  let a := field p 0 4
  let n := field p 4 2
  let mode := field p 6 1
  let len := if write then 8 + 4 * n else 8
  if p.length < 8 || n = 0 || (if write then 360 else 288) < n || 1 < mode || p.length != len then (badMsg, [])
  else
    let last := if mode = 0 then a + 4 * (n - 1) else a
    if a % 4 != 0 || 0x48000 < last + 4 then (badAddr, [])
    else (okCode, (List.range n).map fun i => if mode = 0 then a + 4 * i else a)

/-- The accesses of a burst in order: values and access codes, newest first. A reset by one of them ends the burst.
DEDUCED: log entry 45. -/
def State.accesses (src : Source) (gen : Nat) : List (Nat × Option Word) → List Word → List Nat → State → List Word × List Nat × State
  | [], vs, cs, s => (vs, cs, s)
  | (a, w) :: rest, vs, cs, s =>
    if s.mram.incarn != gen then (vs, cs, s)
    else
      let s := match w with
        | none => s.readReg src a
        | some v => s.writeReg src a v
      State.accesses src gen rest (s.readVal :: vs) (accNumber s.acc :: cs) s

/-- READ (R332). -/
def State.cmdRead (src : Source) (p : List Byte) (s : State) : List Byte × State :=
  let (code, as) := burst false p
  if code != okCode then (respCode code 0x42 [], s)
  else
    let (vs, cs, s) := s.accesses src s.mram.incarn (as.map fun a => (a, none)) [] []
    (respPayload okCode 0x42 as.length vs.reverse cs.reverse [], s)

/-- WRITE (R332). -/
def State.cmdWrite (src : Source) (p : List Byte) (s : State) : List Byte × State :=
  let (code, as) := burst true p
  if code != okCode then (respCode code 0x43 [], s)
  else
    let ws := (List.range as.length).map fun i => (nth as i 0, some (BitVec.ofNat 32 (field p (8 + 4 * i) 4)))
    let (_, cs, s) := s.accesses src s.mram.incarn ws [] []
    (respPayload okCode 0x43 as.length [] cs.reverse [], s)

/-! ### NAK (R334, R339) -/

/-- A SEQ of the session that has been sent; `wrapped`: SEQ has passed 2³² within the window (R339).
DEDUCED: log entry 44. -/
def State.seqSent (s : State) (q : Nat) : Bool :=
  let next := s.rd Reg.HOSTLINK_TXSEQ_SEQ 0
  let wrapped := decide (next < 4096) && (s.link.held.find (2 ^ 32 - 1)).isSome
  q < next || (wrapped && decide (2 ^ 31 ≤ q))

/-- NAK: the datagrams still held are sent again. -/
def State.cmdNak (p : List Byte) (s : State) : List Byte × State :=
  let first := field p 0 4
  let n := field p 4 2
  let seqs := (List.range n).map fun i => (first + i) % 2 ^ 32
  if p.length != 8 || n = 0 || 256 < n || seqs.any (fun q => !s.seqSent q) then (respCode badMsg 0x45 [], s)
  else
    let have_ := seqs.filterMap fun q => s.link.held.find q
    let lost := seqs.filter fun q => (s.link.held.find q).isNone
    let again := have_.map fun d => { d with flags := d.flags ||| 8 }
    let s := { s with link := { s.link with retx := s.link.retx ++ again } }
    if lost = [] then (respCode okCode 0x45 [], s)
    else
      (respCode gone 0x45 (leBytes 4 (nth lost 0 0) ++ leBytes 2 lost.length), s.bump Reg.HOSTLINK_GONE_N 0 lost.length)

/-! ### LOGREQ (R437) -/

/-- An earlier LOGDUMP that has not fully left is discarded. -/
def State.dropDump (s : State) : State :=
  let isDump (m : TxItem) : Bool := m.ty = 8 && m.isOwn
  let old := s.link.txq.filter isDump
  let s := { s with link := { s.link with txq := s.link.txq.filter fun m => !isDump m } }
  s.each old fun _ s => s.txDrop

/-- LOGREQ from a session: the dump joins class 4. DEDUCED: log entry 45. -/
def State.cmdLogreq (p : List Byte) (s : State) : List Byte × State :=
  let (d, s) := s.logDump p
  match d with
  | none => (respCode badMsg 0x4A [], s)
  | some bs => (respCode okCode 0x4A [], (s.dropDump).queueMsg ⟨8, bs⟩)

/-! ### The others -/

/-- ACK_DIVERGED (R386). DEDUCED: log entry 45. -/
def State.cmdAckDiverged (p : List Byte) (s : State) : List Byte × State :=
  if p.length = 8 && s.on Reg.BOOT_STAT_DIVERGED 0 && field p 0 4 = s.rd Reg.BOOT_GEN_GEN 0 then
    (respCode okCode 0x48 [], s.put Reg.BOOT_STAT_DIV_ACK 0 true)
  else (respCode badMsg 0x48 [], s)

/-- LOCK (R440): its response carries the part of Table 18.8. DEDUCED: log entry 45. -/
def State.cmdLock (src : Source) (session : Nat) (p : List Byte) (s : State) : List Byte × State :=
  let (part, s) := s.lockPayload src session p
  match part with
  | none => (respCode badMsg 0x49 [], s)
  | some x => (respCode okCode 0x49 x, s)

/-- What a command other than CONNECT and FENCE does and answers. A command without payload that carries one, and a reserved
TYPE, is malformed (R327). DEDUCED: log entry 45. -/
def State.command (src : Source) (session ty : Nat) (p : List Byte) (s : State) : List Byte × State :=
  match ty with
  | 0x41 => (respCode (if p = [] then okCode else badMsg) ty [], s)
  | 0x42 => s.cmdRead src p
  | 0x43 => s.cmdWrite src p
  | 0x45 => s.cmdNak p
  | 0x46 => if p = [] then (respCode okCode ty [], s.cmdWake) else (respCode badMsg ty [], s)
  | 0x47 => (respCode (if p = [] then okCode else badMsg) ty [], s)
  | 0x48 => s.cmdAckDiverged p
  | 0x49 => s.cmdLock src session p
  | 0x4A => s.cmdLogreq p
  | _ => (respCode badMsg ty [], s)

/-- Accesses that a READ or WRITE names, for the answer GATED. -/
def accessCount (ty : Nat) (p : List Byte) : Nat :=
  if ty = 0x42 then (burst false p).2.length else if ty = 0x43 then (burst true p).2.length else 0

/-- The payload of a LOCK command: OP, a reserved byte, LEN, data (R440). -/
def lockBytes (op : Nat) (len : Half) (data : List Byte) : List Byte := leBytes 1 op ++ leBytes 1 0 ++ leBytes 2 len.toNat ++ data

end Sys2Proof.Machine
end

