-- ==== Sys2Proof/Machine/HostPort.lean ====
section
/-! DEFINITION. The host port's command intake: sessions, sequence numbers, the receive buffer, forwarding to the ring; and the
frames of the maintenance UART (R324, R326 to R335, R341, R360, R361, R443). -/

namespace Sys2Proof.Machine

/-! ### Commands for other devices (R360) -/

/-- A CMD frame on both ports, with the command's SEQ (Table 15.2); a head in conflict sends none (R349). -/
def State.sendCmd (dst : Nat) (d : Datagram) (s : State) : State :=
  if s.mute then s else (s.ownFrame .b 2 dst d.seq (.tilvar d)).ownFrame .a 2 dst d.seq (.tilvar d)

/-- A command is forwarded to the device at ring position `w.origin`, or answered GATED when it cannot be reached.
DEDUCED: log entry 46. -/
def State.forwardCmd (w : Waiting) (s : State) : State :=
  if s.ringSize ≤ w.origin || !s.present w.origin then
    (s.put Reg.HAWSER_STAT_UNREACHED 0 true).formResp w.seq (gatedResp w.ty (accessCount w.ty w.payload))
  else s.sendCmd w.origin ⟨w.ty, w.origin, s.session, 3, w.seq, 0, w.payload.length, 0, w.payload⟩

/-! ### Execution in order (R330, R331, R333) -/

/-- A command is carried out by the device itself. A FENCE waits for its answer, and the commands behind it with it. -/
def State.runCmd (w : Waiting) (s : State) : State :=
  if w.ty = 0x44 && w.payload = [] then { s with link := { s.link with fence := true } }
  else
    let (r, s) := s.command .host s.session w.ty w.payload
    s.formResp w.seq r

/-- The oldest waiting command is carried out or forwarded, unless a FENCE waits. DEDUCED: log entry 46. -/
def State.serveCmd (s : State) : State :=
  match s.link.inq with
  | [] => s
  | w :: rest =>
    if s.link.fence then s
    else
      let s := { s with link := { s.link with inq := rest } }
      if w.origin != 0 && s.isHead then s.forwardCmd w else s.runCmd w

/-- Waiting commands are served until a FENCE holds them. -/
def State.serveCmds (s : State) : State := (s.each s.link.inq fun _ s => s.serveCmd).rxPause

/-- A command taken in SEQ order. -/
def State.takeCmd (dest : To) (origin seq ty : Nat) (p : List Byte) (s : State) : State :=
  let s := s.wr Reg.HOSTLINK_CMDSEQ_SEQ 0 (seq + 1)
  let slot : CmdSlot := ⟨seq, ty, origin, dest, accessCount ty p, none, ty = 0x41⟩
  let l := { s.link with slots := s.link.slots ++ [slot], inq := s.link.inq ++ [⟨seq, ty, origin, p⟩] }
  ({ s with link := l }).serveCmds

/-- A command repeated: its cached response is sent again (R330). -/
def State.repeatCmd (seq : Nat) (s : State) : State :=
  match s.link.cache.find? fun r => decide (r.seq = seq) with
  | none => s
  | some r => { s with link := { s.link with replies := s.link.replies ++ [{ r with retx := true, keep := false, ends := false }] } }

/-- The address of the session's host. DEDUCED: log entry 43. -/
def State.sessionHost (s : State) : To :=
  .host (((s.rd Reg.HOSTLINK_HMAC_HI_MAC 0) * 2 ^ 32 + s.rd Reg.HOSTLINK_HMAC_LO_MAC 0 : Nat)) (s.reg (Reg.HOSTLINK_HOSTIP_IP.addr 0))
    ((s.rd Reg.HOSTLINK_HOSTPORT_PORT 0 : Nat))

/-- A command of the session is handled by its SEQ (R330). -/
def State.bySeq (dest : To) (origin seq ty : Nat) (p : List Byte) (s : State) : State :=
  let next := s.rd Reg.HOSTLINK_CMDSEQ_SEQ 0
  let back := (next + 2 ^ 32 - seq) % 2 ^ 32
  if seq = next then s.takeCmd dest origin seq ty p
  else if 1 ≤ back && back ≤ 256 then s.repeatCmd seq
  else s.rxDrop

/-- A datagram that carries command `ty` arrives: from the session's host with the session's number it is handled by
its SEQ; any other is discarded and counted. DEDUCED: log entry 43. -/
def State.hostCmd (dest : To) (session origin seq ty : Nat) (p : List Byte) (s : State) : State :=
  if s.session = 0 || session != s.session || dest != s.sessionHost then s.rxDrop else s.bySeq dest origin seq ty p

/-! ### CONNECT (R328) -/

/-- Class of a message type among 3, 4 and 5 (R338). -/
def itemClass (ty : Nat) : Nat := if ty = 5 || ty = 7 then 3 else if ty = 6 || ty = 8 then 4 else 5

/-- Waiting items without the remaining segments of the messages of other devices that have begun: class, ORIGIN. -/
def dropSegs : List (Nat × Nat) → List TxItem → List TxItem
  | _, [] => []
  | begun, m :: rest =>
    match m.body with
    | .seg d =>
      let k := (itemClass m.ty, m.origin)
      if begun.contains k && d.flags % 2 = 0 then dropSegs (if d.flags / 2 % 2 = 1 then begun.erase k else begun) rest
      else m :: dropSegs begun rest
    | _ => m :: dropSegs begun rest

/-- Messages that had begun are discarded and counted (R328). -/
def State.dropBegun (s : State) : State :=
  let own := s.link.txq.filter fun m => decide (0 < m.off)
  let begun := s.link.begun
  let rest := dropSegs (begun.map fun b => (b.1, b.2.1)) (s.link.txq.filter fun m => decide (m.off = 0))
  let s := { s with link := { s.link with txq := rest, begun := [] } }
  let s := s.each own fun m s => s.sendRead m
  s.each (List.range (own.length + begun.length)) fun _ s => s.txDrop

/-- A new session opens for a host, after everything of the old one has ended. DEDUCED: log entries 43 and 44. -/
def State.openSession (mac : BitVec 48) (ip : Word) (port : Half) (tmo seq : Nat) (other : Bool) (s : State) : State :=
  let s := if s.session != 0 && other then s.put Reg.HOSTLINK_STAT_TAKEOVER 0 true else s
  let s := (s.endSession 4).dropBegun
  let n := if s.link.lastSession = 255 then 1 else s.link.lastSession + 1
  let l : LinkSt := { s.link with lastSession := n, tmo := tmo, held := [], retx := [], cache := [], replies := [], slots := [], inq := [], fence := false, msgno := 1 }
  let s := ({ s with link := l }).rxPause
  let s := (s.wr Reg.HOSTLINK_STAT_SESSION 0 n).wr Reg.HOSTLINK_TXSEQ_SEQ 0 0
  let s := (s.wr Reg.HOSTLINK_CMDSEQ_SEQ 0 (seq + 1)).setReg (Reg.HOSTLINK_HOSTIP_IP.addr 0) ip
  let s := (s.wr Reg.HOSTLINK_HOSTPORT_PORT 0 port.toNat).wr Reg.HOSTLINK_HMAC_LO_MAC 0 mac.toNat
  let (t, s) := (s.wr Reg.HOSTLINK_HMAC_HI_MAC 0 (mac.toNat / 2 ^ 32)).linkTime
  let s := s.log_ 0x70 4 true n 0 ip.toNat 0 t
  let first : StatusRec := ⟨t, 4, 0, 0, 0xFF, 0, 0xFF, 0, 0, 0⟩
  let item : TxItem := ⟨7, s.rd Reg.HAWSER_POS_POS 0, .own first.payload, 0, some 0⟩
  let part := leBytes 1 n ++ leBytes 3 0 ++ leBytes 4 4096 ++ leBytes 2 288 ++ leBytes 2 360
  let r : Reply := ⟨.host mac ip port, 0, n, seq, respCode okCode 0x40 part, false, none, false, true⟩
  ({ s with link := { s.link with txq := item :: s.link.txq, replies := [r] } }).event 2

/-- An answer to a sender that has no session: it takes no MSGNO of one. DEDUCED: log entry 43. -/
def State.answerStranger (dest : To) (seq code : Nat) (s : State) : State :=
  let (n, s) := s.fresh
  let r : Reply :=
    ⟨dest, 0, s.session, seq, respCode code 0x40 [], false, some ((Config.open_ 18 n).toNat % 2 ^ 32), false, false⟩
  { s with link := { s.link with replies := s.link.replies ++ [r] } }

/-- A CONNECT arrives. DEDUCED: log entry 43. -/
def State.hostConnect (mac : BitVec 48) (ip : Word) (port : Half) (seq : Nat) (p : List Byte) (s : State) : State :=
  let dest : To := .host mac ip port
  let mine := s.session != 0 && dest = s.sessionHost
  if p.length != 8 || 1 < field p 0 2 then
    if mine then s.bySeq dest 0 seq 0x40 p else s.answerStranger dest seq badMsg
  else if s.session = 0 || mine || field p 0 2 = 1 then s.openSession mac ip port (field p 2 2) seq (!mine)
  else s.answerStranger dest seq busy

/-! ### The maintenance UART (R443) -/

/-- A frame on the line: two sync bytes, TYPE, TAG, LEN, payload, and the CRC from TYPE on (R443). -/
def uartLine (ty tag : Nat) (p : List Byte) : Line :=
  let body := leBytes 1 ty ++ leBytes 1 tag ++ leBytes 2 p.length ++ p
  .uart ty tag p ([0xA5, 0x5A] ++ body ++ leBytes 4 (crc32 body).toNat)

/-- A response frame. -/
def State.uartAnswer (tag : Nat) (p : List Byte) (s : State) : State := s.emit (uartLine 0x80 tag p)

/-- A LOGDUMP in frames of at most 1,444 payload bytes, each with its byte offset. DEDUCED: log entry 45. -/
def State.uartDump (tag : Nat) (bs : List Byte) (s : State) : State :=
  s.each (List.range ((bs.length + 1443) / 1444)) fun k s =>
    s.emit (uartLine 8 tag (leBytes 4 (1444 * k) ++ (bs.drop (1444 * k)).take 1444))

/-- A frame is carried out: (TAG, TYPE, payload). -/
def State.uartRun (x : Nat × Nat × List Byte) (s : State) : State :=
  let tag := x.1
  let ty := x.2.1
  let p := x.2.2
  if ty != 0x49 && !s.classOpen .uart then s.uartAnswer tag (respCode lockedCode ty [])
  else match ty with
    | 0x44 =>
      if p = [] then { s with link := { s.link with uartFence := some tag } } else s.uartAnswer tag (respCode badMsg ty [])
    | 0x4A =>
      let (d, s) := s.logDump p
      match d with
      | none => s.uartAnswer tag (respCode badMsg ty [])
      | some bs => (s.uartAnswer tag (respCode okCode ty [])).uartDump tag bs
    | 0x42 | 0x43 | 0x47 | 0x49 =>
      let (r, s) := s.command .uart 0 ty p
      s.uartAnswer tag r
    | _ => s.uartAnswer tag (respCode badMsg ty [])

/-- Waiting frames are carried out in order until a FENCE holds them. -/
def State.uartServe (s : State) : State :=
  s.each s.link.uartq fun _ s =>
    match s.link.uartFence, s.link.uartq with
    | none, x :: rest => ({ s with link := { s.link with uartq := rest } }).uartRun x
    | _, _ => s

/-- A frame arrives: up to 4 wait; a fifth, or one with a LEN above 1,448, is discarded and counted. -/
def State.uartCmd (tag ty : Nat) (p : List Byte) (s : State) : State :=
  if 4 ≤ s.link.uartq.length || 1448 < p.length then s.bump Reg.LOCK_UARTERR_N 0 1
  else ({ s with link := { s.link with uartq := s.link.uartq ++ [(tag, ty, p)] } }).uartServe

/-! ### Arrival -/

/-- A datagram passes the tests of R321, R324 and R326. -/
def State.accepts (s : State) (h : RxHead) : Bool :=
  h.dstMac.toNat = s.rd Reg.HOSTLINK_MAC_HI_MAC 0 * 2 ^ 32 + s.rd Reg.HOSTLINK_MAC_LO_MAC 0
    && h.dstIp = s.reg (Reg.HOSTLINK_IP_IP.addr 0) && h.ihl = 5 && !h.moreFrags && h.fragOff = 0 && h.protocol = 17
    && h.dstPort.toNat = s.rd Reg.HOSTLINK_PORT_PORT 0 && h.fcsOk && h.sumOk && h.udpOk && h.whole && h.magic = 0x4B54
    && h.version = 1 && h.flags.toNat < 32

/-- A command arrives by way `v`. A datagram that finds the receive buffer full is discarded (R341). -/
def State.arrive (v : Via) (ty : Nat) (p : List Byte) (s : State) : State :=
  if s.mode < 3 then s
  else match v with
    | .uart tag => s.uartCmd tag.toNat ty p
    | .host h mac ip port session origin seq =>
      if !s.on Reg.HOSTLINK_STAT_LINK_UP 0 then s
      else
        let s := s.fecCount h.fecCe h.fecUe
        if !s.accepts h || 65536 < s.rxFill + 24 + p.length then s.rxDrop
        else if ty = 0x40 then s.hostConnect mac ip port seq.toNat p
        else s.hostCmd (.host mac ip port) session.toNat origin.toNat seq.toNat ty p

/-- CONNECT (R328). -/
def execConnect (v : Via) (p : List Byte) (s : State) : Host.Outcome State Fault Refusal := .next (s.arrive v 0x40 p)
/-- DISCONNECT (R335). -/
def execDisconnect (v : Via) (p : List Byte) (s : State) : Host.Outcome State Fault Refusal := .next (s.arrive v 0x41 p)
/-- READ (R332). -/
def execRead (v : Via) (p : List Byte) (s : State) : Host.Outcome State Fault Refusal := .next (s.arrive v 0x42 p)
/-- WRITE (R332). -/
def execWrite (v : Via) (p : List Byte) (s : State) : Host.Outcome State Fault Refusal := .next (s.arrive v 0x43 p)
/-- FENCE (R26, R333). -/
def execFence (v : Via) (p : List Byte) (s : State) : Host.Outcome State Fault Refusal := .next (s.arrive v 0x44 p)
/-- NAK (R334). -/
def execNak (v : Via) (p : List Byte) (s : State) : Host.Outcome State Fault Refusal := .next (s.arrive v 0x45 p)
/-- WAKE (R335). -/
def execWake (v : Via) (p : List Byte) (s : State) : Host.Outcome State Fault Refusal := .next (s.arrive v 0x46 p)
/-- KEEPALIVE (R329). -/
def execKeepalive (v : Via) (p : List Byte) (s : State) : Host.Outcome State Fault Refusal := .next (s.arrive v 0x47 p)
/-- ACK_DIVERGED (R386). -/
def execAckDiverged (v : Via) (p : List Byte) (s : State) : Host.Outcome State Fault Refusal := .next (s.arrive v 0x48 p)
/-- LOCK with OP 0 (R440). -/
def execLockQuery (v : Via) (len : Half) (data : List Byte) (s : State) : Host.Outcome State Fault Refusal :=
  .next (s.arrive v 0x49 (lockBytes 0 len data))
/-- LOCK with OP 1 (R440). -/
def execLockChallenge (v : Via) (len : Half) (data : List Byte) (s : State) : Host.Outcome State Fault Refusal :=
  .next (s.arrive v 0x49 (lockBytes 1 len data))
/-- LOCK with OP 2 (R441). -/
def execLockRespond (v : Via) (len : Half) (data : List Byte) (s : State) : Host.Outcome State Fault Refusal :=
  .next (s.arrive v 0x49 (lockBytes 2 len data))
/-- LOCK with OP 3 (R441). -/
def execLockPassword (v : Via) (len : Half) (data : List Byte) (s : State) : Host.Outcome State Fault Refusal :=
  .next (s.arrive v 0x49 (lockBytes 3 len data))
/-- LOCK with OP 4 (R442). -/
def execLockClose (v : Via) (len : Half) (data : List Byte) (s : State) : Host.Outcome State Fault Refusal :=
  .next (s.arrive v 0x49 (lockBytes 4 len data))
/-- LOGREQ (R437). -/
def execLogreq (v : Via) (p : List Byte) (s : State) : Host.Outcome State Fault Refusal := .next (s.arrive v 0x4A p)
/-- RESERVED_TYPE_COMMAND (R327). -/
def execReservedTypeCommand (v : Via) (ty : Byte) (p : List Byte) (s : State) : Host.Outcome State Fault Refusal :=
  .next (s.arrive v ty.toNat p)

end Sys2Proof.Machine
end

