-- ==== Sys2Proof/Machine/Transmit.lean ====
section
/-! DEFINITION. What leaves the host port and the ring at each datagram boundary (R323, R336 to R344, R356, R358, R363). -/

namespace Sys2Proof.Machine

/-! ### Datagrams to the session's host -/

/-- Sum of 16-bit words, most significant byte first. -/
def sumWords : List Byte → Nat
  | [] => 0
  | [a] => a.toNat * 256
  | a :: b :: rest => a.toNat * 256 + b.toNat + sumWords rest

/-- The Internet checksum of bytes that are not all 0. -/
def inetSum (bs : List Byte) : Nat := 65535 - ((sumWords bs - 1) % 65535 + 1)

/-- The IPv4 header without options for a UDP datagram of `n` bytes (R323). -/
def State.ipHeader (s : State) (ident n : Nat) (ip : Word) : List Byte :=
  let a := beBytes 1 0x45 ++ beBytes 1 (s.rd Reg.HOSTLINK_CTRL_DSCP 0 * 4) ++ beBytes 2 (20 + n) ++ beBytes 2 ident
    ++ beBytes 2 0x4000 ++ beBytes 1 (s.rd Reg.HOSTLINK_CTRL_TTL 0) ++ beBytes 1 17
  let b := beBytes 4 (s.rd Reg.HOSTLINK_IP_IP 0) ++ beBytes 4 ip.toNat
  a ++ beBytes 2 (inetSum (a ++ b)) ++ b

/-- A UDP datagram with its checksum over the pseudo-header, which is never 0 (R323). -/
def State.udp (s : State) (ip : Word) (port : Half) (data : List Byte) : List Byte :=
  let n := 8 + data.length
  let h := beBytes 2 (s.rd Reg.HOSTLINK_PORT_PORT 0) ++ beBytes 2 port.toNat ++ beBytes 2 n
  let sum := inetSum (beBytes 4 (s.rd Reg.HOSTLINK_IP_IP 0) ++ beBytes 4 ip.toNat ++ beBytes 2 17 ++ beBytes 2 n ++ h ++ data)
  h ++ beBytes 2 (if sum = 0 then 65535 else sum) ++ data

/-- A frame of the host port from the destination MAC to the FCS (Table 14.1, R321, R323). DESIGN CHOICE: log entry 49. -/
def State.frame (s : State) (dest : To) (ident : Nat) (d : Datagram) : List Byte :=
  match dest with
  | .host mac ip port =>
    let u := s.udp ip port (datagramBytes d)
    let f := beBytes 6 mac.toNat ++ beBytes 6 (s.rd Reg.HOSTLINK_MAC_HI_MAC 0 * 2 ^ 32 + s.rd Reg.HOSTLINK_MAC_LO_MAC 0)
      ++ beBytes 2 0x0800 ++ s.ipHeader ident u.length ip ++ u
    f ++ leBytes 4 (crc32 f).toNat
  | _ => []

/-- A Tilvar datagram leaves; its IPv4 identification rises by 1 (R323). DESIGN CHOICE: log entry 49. -/
def State.sendUp (dest : To) (d : Datagram) (s : State) : State :=
  ({ s with link := { s.link with ident := (s.link.ident + 1) % 65536 } }).emit
    (.tilvar dest s.link.ident d (s.frame dest s.link.ident d))

/-- The next MSGNO of the session (R326). DEDUCED: log entry 44. -/
def State.nextMsgno (s : State) : Nat × State :=
  (s.link.msgno, { s with link := { s.link with msgno := (s.link.msgno + 1) % 2 ^ 32 } })

/-- Is a message type reliable (R339)? -/
def State.reliable (s : State) (ty : Nat) : Bool :=
  if 0x20 ≤ ty && ty ≤ 0x3F then s.on Reg.HOSTLINK_REL_USER 0
  else 1 ≤ ty && ty ≤ 8 && s.bit Reg.HOSTLINK_REL_TYPES 0 (ty - 1)

/-- A response leaves (R330, R335). DEDUCED: log entry 44. -/
def State.sendReply (r : Reply) (s : State) : State :=
  let (n, s) := match r.msgno with
    | some n => (n, s)
    | none => s.nextMsgno
  let d : Datagram := ⟨0x80, r.origin, r.session, 1 + 2 + 4 + (if r.retx then 8 else 0) + 16, r.seq, n, r.payload.length, 0, r.payload⟩
  let s := s.sendUp r.dest d
  let s := if r.keep then { s with link := { s.link with cache := ({ r with msgno := some n } :: s.link.cache).take 256 } } else s
  if r.ends then s.endSession 1 else s

/-- A segment leaves in the session: reliable ones take the next SEQ and are held (R339). -/
def State.sendSegment (d : Datagram) (s : State) : State :=
  let q := s.rd Reg.HOSTLINK_TXSEQ_SEQ 0
  if s.reliable d.ty then
    let d := { d with seq := q }
    let held := (s.link.held.erase ((q + 2 ^ 32 - 4096) % 2 ^ 32)).put q d
    (({ s with link := { s.link with held := held } }).wr Reg.HOSTLINK_TXSEQ_SEQ 0 (q + 1)).sendUp s.sessionHost d
  else s.sendUp s.sessionHost { d with seq := q, flags := d.flags ||| 16 }

/-! ### Messages of the device's own (R336, R337) -/

/-- Bytes of a message that waits. -/
def TxItem.size (m : TxItem) : Nat :=
  match m.body with
  | .own p => p.length
  | .send _ _ n _ => n
  | .lib _ p => p.length
  | .seg d => d.seg.length

/-- A byte of a STATUS record's T, by its offset in the payload (R343). -/
def inStamp (nrec o : Nat) : Bool := 8 ≤ o && (o - 8) % 32 < 8 && o < 8 + 32 * nrec

/-- The bytes of a message from `off` on, at most `n`: a core send is read from DM, and the T of each STATUS record in it is the
lanyard time of the END (R337). -/
def State.itemBytes (s : State) (m : TxItem) (off n : Nat) : List Byte :=
  match m.body with
  | .own p => (p.drop off).take n
  | .lib _ p => (p.drop off).take n
  | .send c a len t =>
    let k := min n (len - off)
    let raw := s.dmBytes c (a + off) k
    if m.ty != 7 then raw
    else
      let nrec := leNat (s.dmBytes c (a + 2) 2)
      (List.range k).map fun i => if inStamp nrec (off + i) then nth (leBytes 8 t.toNat) ((off + i - 8) % 32) 0 else nth raw i 0
  | .seg d => d.seg

/-- A core may send this type (R337). DEDUCED: log entry 48. -/
def sendable (ty : Nat) : Bool := (1 ≤ ty && ty ≤ 5) || ty = 7 || (0x20 ≤ ty && ty ≤ 0x3F)

/-- A core send is taken up: a bad type is discarded (R337), a FORM 1 EVENT and a FORM 0 STATUS set their bits (R346). Answers
whether it goes on. -/
def State.takeSend (m : TxItem) (s : State) : Bool × State :=
  match m.body with
  | .lib _ _ =>
    (true, if m.ty = 5 then s.event 1 else if m.ty = 7 then s.event 2 else s)
  | .send c _ _ _ =>
    if !sendable m.ty then
      let s := (s.sendRead m).bump Reg.HOSTLINK_SENDBAD_N 0 1
      let k := s.core c
      let (t, s) := s.linkTime
      (false, s.status ⟨t, 3, 0, 0, c, 0, k.runStrand, s.rd Reg.CORE_RUNNO_N c, k.runStack, m.ty⟩)
    else
      let form := leNat (s.itemBytes m 4 1)
      (true, if m.ty = 5 && form = 1 then s.event 1 else if m.ty = 7 && form = 0 then s.event 2 else s)
  | _ => (true, s)

/-- One segment of an own message: the datagram, and the item that remains. -/
def State.nextSegment (m : TxItem) (no session : Nat) (s : State) : Datagram × Option TxItem :=
  let size := m.size
  let bs := s.itemBytes m m.off 1448
  let last := size ≤ m.off + 1448
  let flags := (if m.off = 0 then 1 else 0) + (if last then 2 else 0)
  (⟨m.ty, m.origin, session, flags, 0, no, size, m.off, bs⟩, if last then none else some { m with off := m.off + 1448, no := some no })

/-! ### Choice (R336, R338) -/

/-- The item that class `c` serves next, by its place in the queue: a message that has begun goes on; while one of another
device has begun, only its segments. -/
def State.pickItem (s : State) (c : Nat) : Option (Nat × TxItem) :=
  let l := ((List.range s.link.txq.length).zip s.link.txq).filter fun x => itemClass x.2.ty = c
  match l.find? fun x => decide (0 < x.2.off) with
  | some x => some x
  | none =>
    match s.link.begun.find? fun b => b.1 = c with
    | some b => l.find? fun x => x.2.origin = b.2.1 && !x.2.isOwn && (match x.2.body with
        | .seg _ => true
        | _ => false)
    | none => l.head?

/-- The highest of the classes 3 to 5 that has something. -/
def State.pickAny (s : State) : Option (Nat × TxItem) :=
  match s.pickItem 3 with
  | some x => some x
  | none => match s.pickItem 4 with
    | some x => some x
    | none => s.pickItem 5

/-- The item at a place of the queue is replaced, or taken out. -/
def State.setItem (k : Nat) (m : Option TxItem) (s : State) : State :=
  let q := match m with
    | some x => s.link.txq.set k x
    | none => s.link.txq.eraseIdx k
  { s with link := { s.link with txq := q } }

/-- A whole message is discarded: no session is open (R342), or neither path leads to the head (R363).
DEDUCED: log entry 48. -/
def State.discardItem (k : Nat) (m : TxItem) (count : State → State) (s : State) : State :=
  let s := (s.setItem k none).sendRead m
  match m.body with
  | .seg d => if d.flags % 2 = 1 then count s else s
  | _ => count s

/-- A message whose turn comes is discarded; a core send is taken up first, whatever becomes of it (R337, R346). -/
def State.discardTurn (k : Nat) (m : TxItem) (count : State → State) (s : State) : State :=
  let (ok, s) := if m.off = 0 then s.takeSend m else (true, s)
  if ok then s.discardItem k m count else s.setItem k none

/-- A segment of another device's message (R359): MSGNO is the head's. -/
def State.sendForeign (k : Nat) (m : TxItem) (d : Datagram) (s : State) : State :=
  let c := itemClass m.ty
  let s := s.setItem k none
  let first := d.flags % 2 = 1
  let last := d.flags / 2 % 2 = 1
  let go (n : Nat) (s : State) : State :=
    let b := s.link.begun.filter fun b => b != (c, m.origin, n)
    let s := { s with link := { s.link with begun := if last then b else b ++ [(c, m.origin, n)] } }
    s.sendSegment { d with origin := m.origin, session := s.session, msgno := n, flags := d.flags % 4 }
  if first then
    let (n, s) := s.nextMsgno
    go n s
  else match s.link.begun.find? fun b => b.1 = c && b.2.1 = m.origin with
    | some b => go b.2.2 s
    | none => s

/-- One segment of an own message leaves in the session. -/
def State.sendOwn (k : Nat) (m : TxItem) (s : State) : State :=
  let (ok, s) := if m.off = 0 then s.takeSend m else (true, s)
  if !ok then s.setItem k none
  else
    let (n, s) := match m.no with
      | some n => (n, s)
      | none => s.nextMsgno
    let (d, rest) := s.nextSegment m n s.session
    let s := (s.setItem k rest).sendSegment d
    if rest.isNone then s.sendRead m else s

/-! ### On the ring (R356, R358, R363) -/

/-- The device's messages go on the hawser. DEDUCED: log entry 47. -/
def State.routed (s : State) : Bool := s.on Reg.HOSTLINK_CTRL_ROUTE 0 && !s.isHead

/-- An own frame still waits on a port that is up. -/
def State.hwBusy (s : State) : Bool :=
  [HwPort.a, HwPort.b].any fun p => s.hwUp p && (s.hw p).wait.any fun x => x.2.1

/-- A DATA frame on each port, with equal RSEQ (R358). -/
def State.sendData (d : Datagram) (s : State) : State :=
  let n := s.hawser.rseq
  let s := { s with hawser := { s.hawser with rseq := (n + 1) % 2 ^ 32 } }
  (s.ownFrame .b 1 0 n (.tilvar d)).ownFrame .a 1 0 n (.tilvar d)

/-- One segment of an own message leaves on the ring. -/
def State.sendRing (k : Nat) (m : TxItem) (s : State) : State :=
  if s.cutOff then s.discardTurn k m fun s => s.bump Reg.HAWSER_TXDROP_N 0 1
  else if s.hwBusy || s.mute then s
  else
    let (ok, s) := if m.off = 0 then s.takeSend m else (true, s)
    if !ok then s.setItem k none
    else
      let (n, s) := match m.no with
        | some n => (n, s)
        | none => s.nextMsgno
      let (d, rest) := s.nextSegment m n 0
      let s := (s.setItem k rest).sendData d
      if rest.isNone then s.sendRead m else s

/-! ### The boundary -/

/-- Classes 3 to 5 at a boundary of the host port. -/
def State.serveMessages (s : State) : State :=
  match s.pickAny with
  | none => s
  | some (k, m) =>
    if s.routed then s.sendRing k m
    else if s.session = 0 then s.discardTurn k m State.txDrop
    else if !s.on Reg.HOSTLINK_STAT_LINK_UP 0 || s.on Reg.HOSTLINK_STAT_PAUSED 0 then s
    else match m.body with
      | .seg d => s.sendForeign k m d
      | _ => s.sendOwn k m

/-- DATAGRAM_SEND (R338): the oldest datagram of the highest class that has one leaves. -/
def execDatagramSend (s : State) : Host.Outcome State Fault Refusal :=
  .next <|
    if s.mode < 3 then s
    else
      let open_ := s.on Reg.HOSTLINK_STAT_LINK_UP 0 && !s.on Reg.HOSTLINK_STAT_PAUSED 0
      match open_, s.link.replies, s.link.retx with
      | true, r :: rest, _ => ({ s with link := { s.link with replies := rest } }).sendReply r
      | true, [], d :: rest =>
        (({ s with link := { s.link with retx := rest } }).bump Reg.HOSTLINK_RETX_N 0 1).sendUp s.sessionHost d
      | _, _, _ => s.serveMessages.formEvents

/-- STATUS_SUMMARY (R344): a FORM 1 STATUS of one record. -/
def execStatusSummary (s : State) : Host.Outcome State Fault Refusal :=
  .next <|
    if s.mode < 3 || s.rd Reg.HOSTLINK_STPER_MS 0 = 0 then s
    else
      let n (f : Field) : List Byte := leBytes 4 (s.rd f 0)
      let (t, s) := s.linkTime
      s.queueMsg ⟨7, leBytes 2 1 ++ leBytes 2 1 ++ leBytes 1 1 ++ leBytes 3 0 ++ leBytes 8 t.toNat ++ leBytes 1 s.mode
        ++ leBytes 1 (if s.safety.safeN = .low then 1 else 0) ++ leBytes 2 0 ++ n Reg.SAFETY_FAULT_F ++ n Reg.HOSTLINK_TXDROP_N
        ++ n Reg.HOSTLINK_RXDROP_N ++ n Reg.HOSTLINK_GONE_N ++ n Reg.HOSTLINK_PCLOST_N⟩

/-! ### Fences (R26) -/

/-- The host's FENCE is answered, and the commands behind it go on (R333). -/
def State.hostFence (s : State) : State :=
  if !s.link.fence then s
  else
    let s := { s with link := { s.link with fence := false } }
    let s := match s.link.slots.find? fun x => x.ty = 0x44 && decide (x.resp = none) && (x.origin = 0 || !s.isHead) with
      | some x => s.formResp x.seq (respCode okCode 0x44 [])
      | none => s
    s.serveCmds

/-- The UART's FENCE is answered. -/
def State.uartFenceDone (s : State) : State :=
  match s.link.uartFence with
  | none => s
  | some tag => (({ s with link := { s.link with uartFence := none } }).uartAnswer tag (respCode okCode 0x44 [])).uartServe

end Sys2Proof.Machine
end

