-- ==== Sys2Proof/Machine/Hawser.lean ====
section
/-! DEFINITION. DATA and CMD frames of the ring: judgement at the head, transit, execution at the destination (R349, R351,
R356 to R361), and the answers of FENCE for every source (R26). -/

namespace Sys2Proof.Machine

/-! ### Commands from the ring (R360, R361) -/

/-- The response of a command from the ring: DATA on both paths, or lost when neither leads to the head (R363). -/
def State.ringAnswer (d : Datagram) (p : List Byte) (s : State) : State :=
  if s.mute then s
  else if s.cutOff then s.bump Reg.HAWSER_TXDROP_N 0 1
  else s.sendData ⟨0x80, s.pos, d.session, 1 + 2 + 4 + 16, d.seq, 0, p.length, 0, p⟩

/-- A command from the ring is carried out; a FENCE waits for its answer. DEDUCED: log entry 46. -/
def State.ringRun (d : Datagram) (s : State) : State :=
  if d.ty = 0x44 && d.seg = [] then { s with hawser := { s.hawser with fence := some d } }
  else
    let (r, s) := s.command .hawser d.session d.ty d.seg
    s.ringAnswer d r

/-- Waiting commands are carried out in order until a FENCE holds them. -/
def State.ringServe (s : State) : State :=
  s.each s.hawser.waiting fun _ s =>
    match s.hawser.fence, s.hawser.waiting with
    | none, d :: rest => ({ s with hawser := { s.hawser with waiting := rest } }).ringRun d
    | _, _ => s

/-- A new session of the head closes a lock that an earlier one opened (R442). -/
def State.ringSession (session : Nat) (s : State) : State :=
  if s.rd Reg.LOCK_STAT_SRC 0 = srcNumber .hawser && s.lock.session != session then s.lockClose 0 else s

/-- A CMD frame at its destination: the first intact copy is carried out (R360). DEDUCED: log entry 46. -/
def State.ringCmd (f : HwFrame) (d : Datagram) (s : State) : State :=
  if !frameIntact f then s.bump Reg.HAWSER_CORRUPT_N 0 1
  else match s.hawser.done.find? fun x => x.session = d.session && x.rseq = f.rseq with
    | some x => if x.ccrc = f.ccrc then s else s.diverged f.src f.rseq
    | none =>
      let h := { s.hawser with done := (⟨d.session, f.rseq, f.ccrc⟩ :: s.hawser.done).take 4096, waiting := s.hawser.waiting ++ [d] }
      (({ s with hawser := h }).ringSession d.session).ringServe

/-- HAWSER_CMD (R360): carried out at its destination, forwarded elsewhere; the head discards its own that return. -/
def execHawserCmd (p : HwPort) (ok : Bool) (f : HwFrame) (s : State) : Host.Outcome State Fault Refusal :=
  .next <|
    let (take, s) := s.hwTake p 2 ok f
    match take, f.body with
    | true, .tilvar d =>
      if s.isHead then s
      else if s.on Reg.HAWSER_POS_VALID 0 && f.dst = s.pos then s.ringCmd f d
      else s.hwSend (otherPort p) false f
    | _, _ => s

/-- HAWSER_DATA (R358, R359). -/
def execHawserData (p : HwPort) (ok : Bool) (f : HwFrame) (s : State) : Host.Outcome State Fault Refusal :=
  .next <|
    let (take, s) := s.hwTake p 1 ok f
    match take, f.body with
    | true, .tilvar _ =>
      if s.isHead then s.judge f
      else if f.src = s.pos then s
      else s.hwSend (otherPort p) false f
    | _, _ => s

/-! ### FENCE (R26) -/

/-- The ring's FENCE is answered, and the commands behind it go on (R361). -/
def State.ringFence (s : State) : State :=
  match s.hawser.fence with
  | none => s
  | some d => (({ s with hawser := { s.hawser with fence := none } }).ringAnswer d (respCode okCode 0x44 [])).ringServe

/-- FENCE_ANSWER (R26): every earlier write of the source has taken effect; cores have no FENCE (R253). -/
def execFenceAnswer (src : Source) (s : State) : Host.Outcome State Fault Refusal :=
  .next <|
    match src with
    | .host => s.hostFence
    | .hawser => s.ringFence
    | .uart => s.uartFenceDone
    | .core _ => s

end Sys2Proof.Machine
end

