-- ==== Sys2Proof/Machine/Lanyard.lean ====
section
/-! DEFINITION. Lanyard time: its start at the head, LNY exchanges, lock, holdover and loss (R365 to R373, R412). -/

namespace Sys2Proof.Machine

/-! ### At the head (R365, R366) -/

/-- Lanyard time starts at zero, once after each reset. DEDUCED: log entry 50. -/
def State.startLanyard (s : State) : State :=
  (({ s with lany := 0 }).put Reg.LANYARD_STAT_RUNNING 0 true).lanyardFlag Reg.LANYARD_STAT_LOCKED true

/-- The sample clock locks to the head's reference. -/
def State.refLocked (s : State) : State :=
  let s := s.put Reg.LANYARD_STAT_REF_LOCK 0 true
  if s.on Reg.LANYARD_STAT_RUNNING 0 then s.lanyardFlag Reg.LANYARD_STAT_LOCKED true
  else if s.on Reg.LANYARD_CTRL_PPSSTART 0 then s
  else s.startLanyard

/-- LANYARD_START (R365, R366). DEDUCED: log entry 50. -/
def execLanyardStart (s : State) : Host.Outcome State Fault Refusal :=
  .next (if s.mode < 3 || !s.isHead || (s.safety.refBad && s.needsRef) then s else s.refLocked)

/-- PPS_EDGE (R365): `sub`: its place in the tick, in 1/256. -/
def execPpsEdge (sub : Byte) (s : State) : Host.Outcome State Fault Refusal :=
  .next <|
    if s.mode < 3 || !s.isHead then s
    else if s.on Reg.LANYARD_STAT_RUNNING 0 then s.setPair Reg.LANYARD_PPS_LO_T 0 (s.lany + sub.setWidth 64)
    else if s.on Reg.LANYARD_STAT_REF_LOCK 0 && s.on Reg.LANYARD_CTRL_PPSSTART 0 then s.startLanyard.setPair Reg.LANYARD_PPS_LO_T 0 0
    else s

/-- PPS_MISS (R365): no safety fault. -/
def execPpsMiss (s : State) : Host.Outcome State Fault Refusal :=
  .next (if s.isHead && s.on Reg.LANYARD_STAT_RUNNING 0 then s.raise Reg.LANYARD_STAT_PPS_MISS 0 else s)

/-- LY_REF_LOSS (R365, R412): a clock fault; lanyard time keeps counting. -/
def execLyRefLoss (s : State) : Host.Outcome State Fault Refusal :=
  .next <|
    let s := if s.mode < 3 then s else { s with safety := { s.safety with refBad := true } }
    if s.mode < 3 || !s.needsRef then s
    else
      let s := (s.put Reg.LANYARD_STAT_REF_LOCK 0 false).lanyardFlag Reg.LANYARD_STAT_LOCKED false
      if s.mode = 3 then s else s.source 1

/-- LY_REF_RETURN (R365): the head locks to it again without stepping its lanyard time. -/
def execLyRefReturn (s : State) : Host.Outcome State Fault Refusal :=
  .next <|
    let s := { s with safety := { s.safety with refBad := false } }
    if s.mode < 3 || !s.needsRef then s else s.refLocked

/-! ### Elsewhere (R367 to R372) -/

/-- LANYARD_LOST (R372). DEDUCED: log entry 50. -/
def State.lanyardLost (s : State) : State :=
  let lost := s.raise Reg.LANYARD_STAT_LOST 0
  let s := (if s.on Reg.LANYARD_STAT_LOST 0 then lost else lost.lanyardLog true).lanyardFlag Reg.LANYARD_STAT_LOCKED false
  let s := { s with hawser := { s.hawser with good := 0, bad := 0 } }
  if s.on Reg.HAWSER_CTRL_EN 0 then s.source 14 else s

/-- ASYM of a port in ps. -/
def asymField (p : HwPort) : Field :=
  match p with
  | .a => Reg.LANYARD_ASYM_ASYM_A
  | .b => Reg.LANYARD_ASYM_ASYM_B

/-- An exchange as R368 computes it, in 1/8,192 ps: delay and offset. DEDUCED: log entry 50. -/
def exchange (t1 t2 t3 t4 asym : Int) : Int × Int :=
  (((t4 - t1) - (t3 - t2)) * 5000, ((t2 - t1) - (t4 - t3)) * 5000 - asym * 4096)

/-- The timing port's exchange: OFFS, DLY, steering, LOCKED and LOST (R369, R372). `apart` and the offset's whole ticks in
1/4,096 tick. DEDUCED: log entry 50. -/
def State.steer (delay offset : Int) (old : Option Int) (apart : Int) (s : State) : State :=
  let ps := roundDiv offset 8192
  let s := (s.wr Reg.LANYARD_OFFS_PS 0 (BitVec.ofInt 16 ps).toNat).wr Reg.LANYARD_DLY_PS 0 (BitVec.ofInt 24 (roundDiv delay 8192)).toNat
  let locked := s.on Reg.LANYARD_STAT_LOCKED 0
  let far := decide (30 * 8192 < offset.natAbs)
  let jump := match old with
    | some d => decide (200 * 8192 < (delay - d).natAbs)
    | none => false
  if locked then
    let bad := if far then s.hawser.bad + 1 else 0
    let s := { s with hawser := { s.hawser with bad := bad } }
    if 2 ≤ bad || jump || 4096 < apart.natAbs then s.lanyardLost else s
  else
    let step : Int := 256 * roundDiv offset (5000 * 8192)
    let s := { s with lany := s.lany + BitVec.ofInt 64 step }
    let s := s.put Reg.LANYARD_STAT_RUNNING 0 true
    let good := if offset.natAbs ≤ 10 * 8192 then s.hawser.good + 1 else 0
    let s := { s with hawser := { s.hawser with good := good, bad := 0 } }
    if 16 ≤ good then s.lanyardFlag Reg.LANYARD_STAT_LOCKED true else s

/-- An answer to the device's LNY frame on a port. DEDUCED: log entry 50. -/
def State.lnyDone (p : HwPort) (t1 t2 t3 t4 : Int) (hops : Nat) (asym apart : Int) (s : State) : State :=
  let (delay, offset) := exchange t1 t2 t3 t4 (s.rdInt (asymField p) 0 - asym)
  let old := (s.hw p).delay
  let s := (s.setHw p { s.hw p with hops := some hops, delay := some delay }).retime
  if !s.isHead && s.timingPort = some p then s.steer delay offset old apart else s

/-- The device sends LNY frames: in position conflict it sends only TOPO_ACK (R351). -/
def State.sendsLny (s : State) : Bool := s.isHead || !s.on Reg.HAWSER_STAT_POS_CONFLICT 0

/-- LNY (R368). -/
def execLny (p : HwPort) (x : LnyIn) (s : State) : Host.Outcome State Fault Refusal :=
  .next <|
    if !s.hwUp p then s
    else match x with
      | .ask _ t2 t3 => if !s.sendsLny then s else s.emit (.lnyAnswer p t2 t3 (if s.isHead then 0 else s.rd Reg.LANYARD_HOPS_N 0) (s.rdInt (asymField p) 0))
      | .answer t1 t2 t3 t4 hops asym apart => s.lnyDone p t1 t2 t3 t4 hops asym apart

/-- LNY_SEND (R368): on each port that is up; a device in position conflict sends none (R351). -/
def execLnySend (s : State) : Host.Outcome State Fault Refusal :=
  .next <|
    s.each [HwPort.a, HwPort.b] fun p s =>
      if s.hwUp p && s.sendsLny then s.emit (.lny p) else s

/-- HOLDOVER_EXPIRY (R372): 1 ms without a timing port. -/
def execHoldoverExpiry (s : State) : Host.Outcome State Fault Refusal :=
  .next (if s.on Reg.LANYARD_STAT_HOLDOVER 0 && s.on Reg.LANYARD_STAT_LOCKED 0 then s.lanyardLost else s)

end Sys2Proof.Machine
end

