-- ==== Sys2Proof/Machine/Dispatch.lean ====
section
/-! DEFINITION. The meaning of every command: one arm per constructor. -/

namespace Sys2Proof.Machine

def exec (i : Instr) (s : State) : Host.Outcome State Fault Refusal :=
  match i with
  | .add c d a b => Sys2Proof.Machine.execAdd c d a b s
  | .sub c d a b => Sys2Proof.Machine.execSub c d a b s
  | .and c d a b => Sys2Proof.Machine.execAnd c d a b s
  | .or c d a b => Sys2Proof.Machine.execOr c d a b s
  | .xor c d a b => Sys2Proof.Machine.execXor c d a b s
  | .shl c d a b => Sys2Proof.Machine.execShl c d a b s
  | .shr c d a b => Sys2Proof.Machine.execShr c d a b s
  | .sra c d a b => Sys2Proof.Machine.execSra c d a b s
  | .shli c d a sh => Sys2Proof.Machine.execShli c d a sh s
  | .shri c d a sh => Sys2Proof.Machine.execShri c d a sh s
  | .srai c d a sh => Sys2Proof.Machine.execSrai c d a sh s
  | .slt c d a b => Sys2Proof.Machine.execSlt c d a b s
  | .sltu c d a b => Sys2Proof.Machine.execSltu c d a b s
  | .min c d a b => Sys2Proof.Machine.execMin c d a b s
  | .max c d a b => Sys2Proof.Machine.execMax c d a b s
  | .mul c d a b => Sys2Proof.Machine.execMul c d a b s
  | .addi c d a imm => Sys2Proof.Machine.execAddi c d a imm s
  | .andi c d a imm => Sys2Proof.Machine.execAndi c d a imm s
  | .ori c d a imm => Sys2Proof.Machine.execOri c d a imm s
  | .xori c d a imm => Sys2Proof.Machine.execXori c d a imm s
  | .slti c d a imm => Sys2Proof.Machine.execSlti c d a imm s
  | .lui c d imm => Sys2Proof.Machine.execLui c d imm s
  | .ldb c t p m ecc => Sys2Proof.Machine.execLdb c t p m ecc s
  | .ldbu c t p m ecc => Sys2Proof.Machine.execLdbu c t p m ecc s
  | .ldh c t p m ecc => Sys2Proof.Machine.execLdh c t p m ecc s
  | .ldhu c t p m ecc => Sys2Proof.Machine.execLdhu c t p m ecc s
  | .ldw c t p m ecc => Sys2Proof.Machine.execLdw c t p m ecc s
  | .stb c t p m => Sys2Proof.Machine.execStb c t p m s
  | .sth c t p m => Sys2Proof.Machine.execSth c t p m s
  | .stw c t p m => Sys2Proof.Machine.execStw c t p m s
  | .vld c t p m ecc => Sys2Proof.Machine.execVld c t p m ecc s
  | .vst c t p m => Sys2Proof.Machine.execVst c t p m s
  | .cadd c p m => Sys2Proof.Machine.execCadd c p m s
  | .vadd c d a b => Sys2Proof.Machine.execVadd c d a b s
  | .vsub c d a b => Sys2Proof.Machine.execVsub c d a b s
  | .vadds c d a b => Sys2Proof.Machine.execVadds c d a b s
  | .vmin c d a b => Sys2Proof.Machine.execVmin c d a b s
  | .vmax c d a b => Sys2Proof.Machine.execVmax c d a b s
  | .vabs c d a => Sys2Proof.Machine.execVabs c d a s
  | .vand c d a b => Sys2Proof.Machine.execVand c d a b s
  | .vor c d a b => Sys2Proof.Machine.execVor c d a b s
  | .vxor c d a b => Sys2Proof.Machine.execVxor c d a b s
  | .vshli c d a sh => Sys2Proof.Machine.execVshli c d a sh s
  | .vsrai c d a sh => Sys2Proof.Machine.execVsrai c d a sh s
  | .vbc c d a => Sys2Proof.Machine.execVbc c d a s
  | .vget c d a lane => Sys2Proof.Machine.execVget c d a lane s
  | .vput c d a lane => Sys2Proof.Machine.execVput c d a lane s
  | .vcgt c d a b => Sys2Proof.Machine.execVcgt c d a b s
  | .vcgts c d a b => Sys2Proof.Machine.execVcgts c d a b s
  | .vmov c d a => Sys2Proof.Machine.execVmov c d a s
  | .vmul c d a b => Sys2Proof.Machine.execVmul c d a b s
  | .vmac c d a b => Sys2Proof.Machine.execVmac c d a b s
  | .vmsc c d a b => Sys2Proof.Machine.execVmsc c d a b s
  | .vmacs c d a b => Sys2Proof.Machine.execVmacs c d a b s
  | .vadda c d a => Sys2Proof.Machine.execVadda c d a s
  | .vsuba c d a => Sys2Proof.Machine.execVsuba c d a s
  | .aclr c d => Sys2Proof.Machine.execAclr c d s
  | .vnrw c d a sh => Sys2Proof.Machine.execVnrw c d a sh s
  | .asum c d a sh => Sys2Proof.Machine.execAsum c d a sh s
  | .amovl c d a => Sys2Proof.Machine.execAmovl c d a s
  | .amovh c d a => Sys2Proof.Machine.execAmovh c d a s
  | .amovx c d a => Sys2Proof.Machine.execAmovx c d a s
  | .aset c d a b x => Sys2Proof.Machine.execAset c d a b x s
  | .vdmac c d p1 k1 p2 k2 q neg ecc => Sys2Proof.Machine.execVdmac c d p1 k1 p2 k2 q neg ecc s
  | .beq c a b target => Sys2Proof.Machine.execBeq c a b target s
  | .bne c a b target => Sys2Proof.Machine.execBne c a b target s
  | .blt c a b target => Sys2Proof.Machine.execBlt c a b target s
  | .bge c a b target => Sys2Proof.Machine.execBge c a b target s
  | .bltu c a b target => Sys2Proof.Machine.execBltu c a b target s
  | .bgeu c a b target => Sys2Proof.Machine.execBgeu c a b target s
  | .jmp c target => Sys2Proof.Machine.execJmp c target s
  | .call c target => Sys2Proof.Machine.execCall c target s
  | .jr c a => Sys2Proof.Machine.execJr c a s
  | .rep c n => Sys2Proof.Machine.execRep c n s
  | .endRun c => Sys2Proof.Machine.execEndRun c s
  | .rti c => Sys2Proof.Machine.execRti c s
  | .wdk c => Sys2Proof.Machine.execWdk c s
  | .mfs c d n => Sys2Proof.Machine.execMfs c d n s
  | .mts c n a => Sys2Proof.Machine.execMts c n a s
  | .hq c a => Sys2Proof.Machine.execHq c a s
  | .hwait c => Sys2Proof.Machine.execHwait c s
  | .hrel c a => Sys2Proof.Machine.execHrel c a s
  | .sq c a b => Sys2Proof.Machine.execSq c a b s
  | .registerWindowAnswer c => Sys2Proof.Machine.execRegisterWindowAnswer c s
  | .interruptEntry c => Sys2Proof.Machine.execInterruptEntry c s
  | .timerMatch c => Sys2Proof.Machine.execTimerMatch c s
  | .endRetire c => Sys2Proof.Machine.execEndRetire c s
  | .drainComplete c => Sys2Proof.Machine.execDrainComplete c s
  | .jobStart c fetch => Sys2Proof.Machine.execJobStart c fetch s
  | .watchdogExpiry c => Sys2Proof.Machine.execWatchdogExpiry c s
  | .haulDescriptorBegin h => Sys2Proof.Machine.execHaulDescriptorBegin h s
  | .haulDescriptorEnd c errs bank => Sys2Proof.Machine.execHaulDescriptorEnd c errs bank s
  | .coreCmdAbort src c any tag => Sys2Proof.Machine.execCoreCmdAbort src c any tag s
  | .coreDoor src c v => Sys2Proof.Machine.execCoreDoor src c v s
  | .coreImdAccess src c w => Sys2Proof.Machine.execCoreImdAccess src c w s
  | .coreDmdatAccess src c w => Sys2Proof.Machine.execCoreDmdatAccess src c w s
  | .launch l => Sys2Proof.Machine.execLaunch l s
  | .firstGapTick p => Sys2Proof.Machine.execFirstGapTick p s
  | .setpointIdleStep p => Sys2Proof.Machine.execSetpointIdleStep p s
  | .repeatRunStart st => Sys2Proof.Machine.execRepeatRunStart st s
  | .quietDecision st => Sys2Proof.Machine.execQuietDecision st s
  | .gapRunCommit st => Sys2Proof.Machine.execGapRunCommit st s
  | .stackClose st => Sys2Proof.Machine.execStackClose st s
  | .rangeEvaluation ch => Sys2Proof.Machine.execRangeEvaluation ch s
  | .handOver st => Sys2Proof.Machine.execHandOver st s
  | .presenceEval st => Sys2Proof.Machine.execPresenceEval st s
  | .monitorEnergyEval p => Sys2Proof.Machine.execMonitorEnergyEval p s
  | .deratingUpdate p => Sys2Proof.Machine.execDeratingUpdate p s
  | .strandStart src st => Sys2Proof.Machine.execStrandStart src st s
  | .strandStop src st => Sys2Proof.Machine.execStrandStop src st s
  | .strandCmdAbort src st any tag => Sys2Proof.Machine.execStrandCmdAbort src st any tag s
  | .foldCmdSnap src st => Sys2Proof.Machine.execFoldCmdSnap src st s
  | .foldCmdRestart src st => Sys2Proof.Machine.execFoldCmdRestart src st s
  | .foldRel src ch relA relB => Sys2Proof.Machine.execFoldRel src ch relA relB s
  | .gapcalCmdAbort src st => Sys2Proof.Machine.execGapcalCmdAbort src st s
  | .gapcalCmdCommit src => Sys2Proof.Machine.execGapcalCmdCommit src s
  | .autoCommit => Sys2Proof.Machine.execAutoCommit s
  | .commitAttemptEnd ok0 ok1 pok0 pok1 => Sys2Proof.Machine.execCommitAttemptEnd ok0 ok1 pok0 pok1 s
  | .calHeldWrite src which v => Sys2Proof.Machine.execCalHeldWrite src which v s
  | .startCalibrationEnd => Sys2Proof.Machine.execStartCalibrationEnd s
  | .monitorStart ch => Sys2Proof.Machine.execMonitorStart ch s
  | .monitorFirstDecision ch => Sys2Proof.Machine.execMonitorFirstDecision ch s
  | .monitorStrobeEnd ch => Sys2Proof.Machine.execMonitorStrobeEnd ch s
  | .monitorEdge ch => Sys2Proof.Machine.execMonitorEdge ch s
  | .filterBoundary c x => Sys2Proof.Machine.execFilterBoundary c x s
  | .pcMonitorSample x => Sys2Proof.Machine.execPcMonitorSample x s
  | .clamp c x => Sys2Proof.Machine.execClamp c x s
  | .pcExcImm src c v => Sys2Proof.Machine.execPcExcImm src c v s
  | .pcCmdIcal src c => Sys2Proof.Machine.execPcCmdIcal src c s
  | .icalEnd c x => Sys2Proof.Machine.execIcalEnd c x s
  | .pcCmdSysz src c => Sys2Proof.Machine.execPcCmdSysz src c s
  | .pcCmdSyss src c => Sys2Proof.Machine.execPcCmdSyss src c s
  | .pcCmdSysclr src c => Sys2Proof.Machine.execPcCmdSysclr src c s
  | .pcvalTimeout => Sys2Proof.Machine.execPcvalTimeout s
  | .connect v p => Sys2Proof.Machine.execConnect v p s
  | .disconnect v p => Sys2Proof.Machine.execDisconnect v p s
  | .read v p => Sys2Proof.Machine.execRead v p s
  | .write v p => Sys2Proof.Machine.execWrite v p s
  | .fence v p => Sys2Proof.Machine.execFence v p s
  | .fenceAnswer src => Sys2Proof.Machine.execFenceAnswer src s
  | .nak v p => Sys2Proof.Machine.execNak v p s
  | .wake v p => Sys2Proof.Machine.execWake v p s
  | .keepalive v p => Sys2Proof.Machine.execKeepalive v p s
  | .ackDiverged v p => Sys2Proof.Machine.execAckDiverged v p s
  | .lockQuery v len data => Sys2Proof.Machine.execLockQuery v len data s
  | .lockChallenge v len data => Sys2Proof.Machine.execLockChallenge v len data s
  | .lockRespond v len data => Sys2Proof.Machine.execLockRespond v len data s
  | .lockPassword v len data => Sys2Proof.Machine.execLockPassword v len data s
  | .lockClose v len data => Sys2Proof.Machine.execLockClose v len data s
  | .logreq v p => Sys2Proof.Machine.execLogreq v p s
  | .rxDiscard x => Sys2Proof.Machine.execRxDiscard x s
  | .arpRequest mac ip target => Sys2Proof.Machine.execArpRequest mac ip target s
  | .pauseFrame quanta => Sys2Proof.Machine.execPauseFrame quanta s
  | .pauseExpiry => Sys2Proof.Machine.execPauseExpiry s
  | .pauseRepeat => Sys2Proof.Machine.execPauseRepeat s
  | .datagramSend => Sys2Proof.Machine.execDatagramSend s
  | .eventMessageTimeout => Sys2Proof.Machine.execEventMessageTimeout s
  | .statusSummary => Sys2Proof.Machine.execStatusSummary s
  | .sessionTimeout => Sys2Proof.Machine.execSessionTimeout s
  | .linkUp => Sys2Proof.Machine.execLinkUp s
  | .linkDown => Sys2Proof.Machine.execLinkDown s
  | .hawserPortUp p skew => Sys2Proof.Machine.execHawserPortUp p skew s
  | .hawserPortDown p => Sys2Proof.Machine.execHawserPortDown p s
  | .topoSend => Sys2Proof.Machine.execTopoSend s
  | .topo p ok own f => Sys2Proof.Machine.execTopo p ok own f s
  | .topoAck p ok f => Sys2Proof.Machine.execTopoAck p ok f s
  | .positionAbsent k => Sys2Proof.Machine.execPositionAbsent k s
  | .hawserData p ok f => Sys2Proof.Machine.execHawserData p ok f s
  | .hawserCmd p ok f => Sys2Proof.Machine.execHawserCmd p ok f s
  | .hawserAck p next credit => Sys2Proof.Machine.execHawserAck p next credit s
  | .hawserRetry p next credit => Sys2Proof.Machine.execHawserRetry p next credit s
  | .replayTimeout p => Sys2Proof.Machine.execReplayTimeout p s
  | .pathBHoldExpiry src rseq => Sys2Proof.Machine.execPathBHoldExpiry src rseq s
  | .lnySend => Sys2Proof.Machine.execLnySend s
  | .lny p x => Sys2Proof.Machine.execLny p x s
  | .holdoverExpiry => Sys2Proof.Machine.execHoldoverExpiry s
  | .lanyardStart => Sys2Proof.Machine.execLanyardStart s
  | .ppsEdge sub => Sys2Proof.Machine.execPpsEdge sub s
  | .ppsMiss => Sys2Proof.Machine.execPpsMiss s
  | .lyRefLoss => Sys2Proof.Machine.execLyRefLoss s
  | .lineDetect => Sys2Proof.Machine.execLineDetect s
  | .lineRemoved => Sys2Proof.Machine.execLineRemoved s
  | .classQuery => Sys2Proof.Machine.execClassQuery s
  | .classRequest => Sys2Proof.Machine.execClassRequest s
  | .grant g => Sys2Proof.Machine.execGrant g s
  | .startThreshold => Sys2Proof.Machine.execStartThreshold s
  | .powerGood => Sys2Proof.Machine.execPowerGood s
  | .poweringTimeout => Sys2Proof.Machine.execPoweringTimeout s
  | .lossOfInput => Sys2Proof.Machine.execLossOfInput s
  | .holdupExpiry => Sys2Proof.Machine.execHoldupExpiry s
  | .rstNReset => Sys2Proof.Machine.execRstNReset s
  | .bootComplete time => Sys2Proof.Machine.execBootComplete time s
  | .selfTestEnd items time => Sys2Proof.Machine.execSelfTestEnd items time s
  | .armedToRunning => Sys2Proof.Machine.execArmedToRunning s
  | .bootCmdRun src => Sys2Proof.Machine.execBootCmdRun src s
  | .bootCmdHold src => Sys2Proof.Machine.execBootCmdHold src s
  | .bootCmdResume src => Sys2Proof.Machine.execBootCmdResume src s
  | .bootCmdWatch src => Sys2Proof.Machine.execBootCmdWatch src s
  | .bootCmdSwrst src key => Sys2Proof.Machine.execBootCmdSwrst src key s
  | .watchEntry => Sys2Proof.Machine.execWatchEntry s
  | .watchTimerExpiry => Sys2Proof.Machine.execWatchTimerExpiry s
  | .wakeComplete => Sys2Proof.Machine.execWakeComplete s
  | .bootFcmdErase src => Sys2Proof.Machine.execBootFcmdErase src s
  | .bootFcmdProgram src => Sys2Proof.Machine.execBootFcmdProgram src s
  | .bootFcmdRead src => Sys2Proof.Machine.execBootFcmdRead src s
  | .bootFdataWrite src v => Sys2Proof.Machine.execBootFdataWrite src v s
  | .flashOperationEnd ok => Sys2Proof.Machine.execFlashOperationEnd ok s
  | .safetyFault => Sys2Proof.Machine.execSafetyFault s
  | .safetyFaultClear src w => Sys2Proof.Machine.execSafetyFaultClear src w s
  | .safetyTestInj src => Sys2Proof.Machine.execSafetyTestInj src s
  | .safeHbToggle => Sys2Proof.Machine.execSafeHbToggle s
  | .configSweepPass bad => Sys2Proof.Machine.execConfigSweepPass bad s
  | .clockFault lasts => Sys2Proof.Machine.execClockFault lasts s
  | .railFault lasts => Sys2Proof.Machine.execRailFault lasts s
  | .tempMeasure t => Sys2Proof.Machine.execTempMeasure t s
  | .logCmdFreeze src => Sys2Proof.Machine.execLogCmdFreeze src s
  | .logMark src v => Sys2Proof.Machine.execLogMark src v s
  | .freezeBegin => Sys2Proof.Machine.execFreezeBegin s
  | .freezeEnd => Sys2Proof.Machine.execFreezeEnd s
  | .lockOpenTimeout => Sys2Proof.Machine.execLockOpenTimeout s
  | .lockoutEnd => Sys2Proof.Machine.execLockoutEnd s
  | .nonceExpiry => Sys2Proof.Machine.execNonceExpiry s
  | .registerWrite src addr v => Sys2Proof.Machine.execRegisterWrite src addr v s
  | .sampleTick x => Sys2Proof.Machine.execSampleTick x s
  | .channelReady ch => Sys2Proof.Machine.execChannelReady ch s
  | .monitorStrobeStart ch => Sys2Proof.Machine.execMonitorStrobeStart ch s
  | .clampEnd c x => Sys2Proof.Machine.execClampEnd c x s
  | .lyRefReturn => Sys2Proof.Machine.execLyRefReturn s
  | .poweringRetry => Sys2Proof.Machine.execPoweringRetry s
  | .reservedTypeCommand v ty p => Sys2Proof.Machine.execReservedTypeCommand v ty p s
  | .lockoutSecond => Sys2Proof.Machine.execLockoutSecond s
  | .ackSend p => Sys2Proof.Machine.execAckSend p s

end Sys2Proof.Machine
end

