-- ==== Sys2Proof/Machine/Step.lean ====
section
/-! DEFINITION. One step: the command at the front of the queue is taken and executed on the state with the rest of
the queue. -/

namespace Sys2Proof.Machine

/-- Takes the command at the front of the queue and executes it with the queue's rest; on an empty queue the block
idles, and its time stands still: time passes by commands of its own (SAMPLE_TICK and the timers' rows).
DESIGN CHOICE: log entry 1. -/
def step (s : State) : Host.Outcome State Fault Refusal :=
  match s.pending with
  | [] => .next s
  | c :: rest => exec c { s with pending := rest }

/-- The state with the command a table word spells put at the front of the queue. -/
def State.withFetchWord (s : State) (nbits w : Nat) : State :=
  match decodeTableWord nbits w with
  | some c => { s with pending := c :: s.pending }
  | none => s

end Sys2Proof.Machine
end

