-- ==== Sys2Proof/Safety.lean ====
section
/-! DEFINITION. What a safe run is, in the terms claims use: the invariant of the stores, and what the tables of chapter 12
say each core instruction gives, written apart from the meanings. -/

namespace Sys2Proof.Machine

/-- The sparse stores of a state are in canonical form: keys strictly rising. -/
def State.sortedStores (s : State) : Bool :=
  s.regs.sorted && s.bins.sorted && s.qmap.sorted && s.metas.sorted && s.strands.sorted && s.ports.sorted
    && s.chans.sorted && s.quads.sorted && s.cores.sorted && s.pcs.sorted

/-- `t` is `s` but for registers, the answer of the access, and what is noted of the writes and flags of the present clock (R17, R27). -/
def RegsOnly (s t : State) : Prop := { t with regs := s.regs, acc := s.acc, raised := s.raised, wrote := s.wrote } = s

/-- No source that R27 puts after `src` has written register `a` in the present clock. -/
def State.notLate (s : State) (src : Source) (a : Nat) : Prop := s.wrote.getD a 0 ≤ srcRank src

/-! ### Issue on a core (R257, R259, R262, R292) -/

/-- Core `c` as an instruction that issues now finds it: results readable in its cycle have landed. -/
def State.coreNow (s : State) (c : Nat) : CoreRt :=
  let k := (s.core c).awake (s.nowCycle c)
  k.landTo k.cycle

/-- Core `c` of a state whose instruction waits: results readable by the present cycle have landed, and nothing else of the block changed
(R297). -/
def State.waits (s : State) (c : Nat) : State := s.setCore c { (s.core c).toCycle (s.nowCycle c) with waiting := true }

/-- The instruction that issues is the last delay slot of a jump to an entry of the Molylith library (R320). -/
def CoreRt.entersLib (k : CoreRt) : Bool :=
  match k.flow with
  | some (n, .to t) => k.rep.isNone && n ≤ 1 && libKind t != 0
  | _ => false

/-- `t` is `s` but for core `c` and its CORE_PC, which shows the address of the instruction issued. -/
def IssuedOnly (s t : State) (c : Nat) : Prop :=
  t.rd Reg.CORE_PC_PC c = (s.core c).pc % 2 ^ 15 ∧ (∀ e, e ≠ c → t.core e = s.core e)
    ∧ (∀ a, a ≠ Reg.CORE_PC_PC.addr c → t.reg a = s.reg a) ∧ { t with regs := s.regs, cores := s.cores } = s

/-- An instruction issued on core `c` and left it as `k`, but for the cycle, the program counter, the delay slot and the
repeat, which move on (R262, R292); nothing else of the block changed. The last delay slot of a jump into a library
entry also enters the kernel (R320). -/
def Issued (s t : State) (c : Nat) (k : CoreRt) : Prop :=
  ∃ u, IssuedOnly s u c ∧ u.core c = (s.coreNow c).advance k (s.reg (Reg.CORE_CSINIT_V.addr c))
    ∧ t = if (s.coreNow c).jumps then u.enterLib c else u

/-- The instruction with another outcome of the memory words it reads. -/
def withEcc (e : Ecc) (i : Instr) : Instr :=
  match i with
  | .ldb c t p m _ => .ldb c t p m e
  | .ldbu c t p m _ => .ldbu c t p m e
  | .ldh c t p m _ => .ldh c t p m e
  | .ldhu c t p m _ => .ldhu c t p m e
  | .ldw c t p m _ => .ldw c t p m e
  | .vld c t p m _ => .vld c t p m e
  | .vdmac c d p1 k1 p2 k2 q neg _ => .vdmac c d p1 k1 p2 k2 q neg (e, e)
  | i => i

/-- The core that issues an instruction; none: the command is no core instruction. -/
def issuer (i : Instr) : Option CoreId :=
  match i with
  | .add c _ _ _ => some c
  | .sub c _ _ _ => some c
  | .and c _ _ _ => some c
  | .or c _ _ _ => some c
  | .xor c _ _ _ => some c
  | .shl c _ _ _ => some c
  | .shr c _ _ _ => some c
  | .sra c _ _ _ => some c
  | .slt c _ _ _ => some c
  | .sltu c _ _ _ => some c
  | .min c _ _ _ => some c
  | .max c _ _ _ => some c
  | .mul c _ _ _ => some c
  | .addi c _ _ _ => some c
  | .andi c _ _ _ => some c
  | .ori c _ _ _ => some c
  | .xori c _ _ _ => some c
  | .slti c _ _ _ => some c
  | .lui c _ _ => some c
  | .ldb c _ _ _ _ => some c
  | .ldbu c _ _ _ _ => some c
  | .ldh c _ _ _ _ => some c
  | .ldhu c _ _ _ _ => some c
  | .ldw c _ _ _ _ => some c
  | .stb c _ _ _ => some c
  | .sth c _ _ _ => some c
  | .stw c _ _ _ => some c
  | .vld c _ _ _ _ => some c
  | .vst c _ _ _ => some c
  | .cadd c _ _ => some c
  | .vadd c _ _ _ => some c
  | .vsub c _ _ _ => some c
  | .vadds c _ _ _ => some c
  | .vmin c _ _ _ => some c
  | .vmax c _ _ _ => some c
  | .vabs c _ _ => some c
  | .vand c _ _ _ => some c
  | .vor c _ _ _ => some c
  | .vxor c _ _ _ => some c
  | .vshli c _ _ _ => some c
  | .vsrai c _ _ _ => some c
  | .vbc c _ _ => some c
  | .vget c _ _ _ => some c
  | .vput c _ _ _ => some c
  | .vcgt c _ _ _ => some c
  | .vcgts c _ _ _ => some c
  | .vmov c _ _ => some c
  | .vmul c _ _ _ => some c
  | .vmac c _ _ _ => some c
  | .vmsc c _ _ _ => some c
  | .vmacs c _ _ _ => some c
  | .vadda c _ _ => some c
  | .vsuba c _ _ => some c
  | .aclr c _ => some c
  | .vnrw c _ _ _ => some c
  | .asum c _ _ _ => some c
  | .amovl c _ _ => some c
  | .amovh c _ _ => some c
  | .amovx c _ _ => some c
  | .aset c _ _ _ _ => some c
  | .vdmac c _ _ _ _ _ _ _ _ => some c
  | .beq c _ _ _ => some c
  | .bne c _ _ _ => some c
  | .blt c _ _ _ => some c
  | .bge c _ _ _ => some c
  | .bltu c _ _ _ => some c
  | .bgeu c _ _ _ => some c
  | .jmp c _ => some c
  | .call c _ => some c
  | .jr c _ => some c
  | .rep c _ => some c
  | .endRun c => some c
  | .rti c => some c
  | .wdk c => some c
  | .mfs c _ _ => some c
  | .mts c _ _ => some c
  | .hq c _ => some c
  | .hwait c => some c
  | .hrel c _ => some c
  | .sq c _ _ => some c
  | .shli c _ _ _ => some c
  | .shri c _ _ _ => some c
  | .srai c _ _ _ => some c
  | _ => none

/-! ### Scalar results (Tables 12.2, 12.5) -/

/-- The signed value of lane `i` of a vector register. -/
def CoreRt.lane (k : CoreRt) (r : BitVec 4) (i : Nat) : Int := (k.vregs.getD (16 * r.toNat + i) 0).toInt

/-- The signed value of lane `i` of an accumulator. -/
def CoreRt.alane (k : CoreRt) (a : BitVec 3) (i : Nat) : Int := (k.accs.getD (16 * a.toNat + i) 0).toInt

/-- The 16 lanes that `f` gives. -/
def byLane {α : Type} (f : Nat → α) : List α := (List.range 16).map f

/-- sext16 of the low half of a scalar. -/
def low16 (w : Word) : Int := wrapInt 16 w.toNat

/-- Core, destination, cycles to readable, and value of an instruction with one scalar result and no flag. -/
def State.scalarResult (s : State) (i : Instr) : Option (CoreId × BitVec 5 × Nat × Word) :=
  let r (c : CoreId) (x : BitVec 5) : Word := (s.coreNow c).sreg x
  let v (c : CoreId) (x : BitVec 4) (i : Nat) : Int := (s.coreNow c).lane x i
  let one (b : Bool) : Word := if b then 1 else 0
  match i with
  | .add c d a b => some (c, d, 1, BitVec.ofNat 32 ((r c a).toNat + (r c b).toNat))
  | .sub c d a b => some (c, d, 1, BitVec.ofInt 32 ((r c a).toInt - (r c b).toInt))
  | .and c d a b => some (c, d, 1, r c a &&& r c b)
  | .or c d a b => some (c, d, 1, r c a ||| r c b)
  | .xor c d a b => some (c, d, 1, r c a ^^^ r c b)
  | .shl c d a b => some (c, d, 1, BitVec.ofNat 32 ((r c a).toNat * 2 ^ ((r c b).toNat % 32)))
  | .shr c d a b => some (c, d, 1, BitVec.ofNat 32 ((r c a).toNat / 2 ^ ((r c b).toNat % 32)))
  | .sra c d a b => some (c, d, 1, BitVec.ofInt 32 ((r c a).toInt / 2 ^ ((r c b).toNat % 32)))
  | .shli c d a sh => some (c, d, 1, BitVec.ofNat 32 ((r c a).toNat * 2 ^ sh.toNat))
  | .shri c d a sh => some (c, d, 1, BitVec.ofNat 32 ((r c a).toNat / 2 ^ sh.toNat))
  | .srai c d a sh => some (c, d, 1, BitVec.ofInt 32 ((r c a).toInt / 2 ^ sh.toNat))
  | .slt c d a b => some (c, d, 1, one (decide ((r c a).toInt < (r c b).toInt)))
  | .sltu c d a b => some (c, d, 1, one (decide ((r c a).toNat < (r c b).toNat)))
  | .min c d a b => some (c, d, 1, BitVec.ofInt 32 (Min.min (r c a).toInt (r c b).toInt))
  | .max c d a b => some (c, d, 1, BitVec.ofInt 32 (Max.max (r c a).toInt (r c b).toInt))
  | .mul c d a b => some (c, d, 3, BitVec.ofNat 32 ((r c a).toNat * (r c b).toNat))
  | .addi c d a imm => some (c, d, 1, BitVec.ofInt 32 ((r c a).toInt + imm.toInt))
  | .andi c d a imm => some (c, d, 1, r c a &&& BitVec.ofNat 32 imm.toNat)
  | .ori c d a imm => some (c, d, 1, r c a ||| BitVec.ofNat 32 imm.toNat)
  | .xori c d a imm => some (c, d, 1, r c a ^^^ BitVec.ofNat 32 imm.toNat)
  | .slti c d a imm => some (c, d, 1, one (decide ((r c a).toInt < imm.toInt)))
  | .lui c d imm => some (c, d, 1, BitVec.ofNat 32 (imm.toNat * 65536))
  | .vget c d a lane => some (c, d, 1, BitVec.ofInt 32 (v c a lane.toNat))
  | .vcgt c d a b => some (c, d, 1, maskOf (byLane fun i => decide (v c b i < v c a i)))
  | .vcgts c d a b => some (c, d, 1, maskOf (byLane fun i => decide (low16 (r c b) < v c a i)))
  | .mfs c d n => some (c, d, 1, (s.setCore c (s.coreNow c)).special c n.toNat)
  | _ => none

/-! ### Vector and accumulator results (Tables 12.5, 12.6) -/

/-- Core, destination, cycles to readable, and exact lanes of an instruction whose lanes pass through sat16. -/
def State.satResult (s : State) (i : Instr) : Option (CoreId × BitVec 4 × Nat × List Int) :=
  let r (c : CoreId) (x : BitVec 5) : Word := (s.coreNow c).sreg x
  let v (c : CoreId) (x : BitVec 4) (i : Nat) : Int := (s.coreNow c).lane x i
  match i with
  | .vadd c d a b => some (c, d, 1, byLane fun i => v c a i + v c b i)
  | .vsub c d a b => some (c, d, 1, byLane fun i => v c a i - v c b i)
  | .vadds c d a b => some (c, d, 1, byLane fun i => v c a i + low16 (r c b))
  | .vabs c d a => some (c, d, 1, byLane fun i => |v c a i|)
  | .vshli c d a sh => some (c, d, 1, byLane fun i => v c a i * 2 ^ sh.toNat)
  | .vnrw c d a sh => some (c, d, 2, byLane fun i => rndShift (s.coreNow c).rnd ((s.coreNow c).alane a i) sh.toNat)
  | _ => none

/-- The lanes after sat16, and their OV bits, join the results in flight. -/
def CoreRt.withSat (k : CoreRt) (d : BitVec 4) (n : Nat) (x : List Int) : CoreRt :=
  { k with land := k.land ++ [⟨k.cycle + n, .vector d.toNat (x.map fun y => BitVec.ofInt 16 (satm16 k.satm y).1)⟩,
                              ⟨k.cycle + n, .flags (ovBits (x.map fun y => (satm16 k.satm y).2))⟩] }

/-- Core, destination, cycles to readable, and lanes of an instruction with one vector result and no flag. -/
def State.vectorResult (s : State) (i : Instr) : Option (CoreId × BitVec 4 × Nat × List Half) :=
  let r (c : CoreId) (x : BitVec 5) : Word := (s.coreNow c).sreg x
  let v (c : CoreId) (x : BitVec 4) (i : Nat) : Int := (s.coreNow c).lane x i
  let w (c : CoreId) (x : BitVec 4) (i : Nat) : Half := (s.coreNow c).vregs.getD (16 * x.toNat + i) 0
  let acc (c : CoreId) (x : BitVec 3) (i : Nat) : Bin40 := (s.coreNow c).accs.getD (16 * x.toNat + i) 0
  match i with
  | .vmin c d a b => some (c, d, 1, byLane fun i => BitVec.ofInt 16 (Min.min (v c a i) (v c b i)))
  | .vmax c d a b => some (c, d, 1, byLane fun i => BitVec.ofInt 16 (Max.max (v c a i) (v c b i)))
  | .vand c d a b => some (c, d, 1, byLane fun i => w c a i &&& w c b i)
  | .vor c d a b => some (c, d, 1, byLane fun i => w c a i ||| w c b i)
  | .vxor c d a b => some (c, d, 1, byLane fun i => w c a i ^^^ w c b i)
  | .vsrai c d a sh => some (c, d, 1, byLane fun i => BitVec.ofInt 16 (v c a i / 2 ^ sh.toNat))
  | .vbc c d a => some (c, d, 1, byLane fun _ => BitVec.ofNat 16 (r c a).toNat)
  | .vput c d a lane => some (c, d, 1, byLane fun i => if i = lane.toNat then BitVec.ofNat 16 (r c a).toNat else w c d i)
  | .vmov c d a => some (c, d, 1, byLane fun i => w c a i)
  | .amovl c d a => some (c, d, 2, byLane fun i => BitVec.ofNat 16 (acc c a i).toNat)
  | .amovh c d a => some (c, d, 2, byLane fun i => BitVec.ofNat 16 ((acc c a i).toNat / 2 ^ 16))
  | .amovx c d a => some (c, d, 2, byLane fun i => BitVec.ofInt 16 ((acc c a i).toInt / 2 ^ 32))
  | _ => none

/-- Core, accumulator and what it takes three cycles after issue, of an instruction of the multiply-accumulate class. -/
def State.accResult (s : State) (i : Instr) : Option (CoreId × BitVec 3 × AccOp) :=
  let v (c : CoreId) (x : BitVec 4) (i : Nat) : Int := (s.coreNow c).lane x i
  let h (c : CoreId) (x : BitVec 4) (i : Nat) : Nat := ((s.coreNow c).vregs.getD (16 * x.toNat + i) 0).toNat
  match i with
  | .vmul c d a b => some (c, d, .put (byLane fun i => v c a i * v c b i))
  | .vmac c d a b => some (c, d, .add (byLane fun i => v c a i * v c b i))
  | .vmsc c d a b => some (c, d, .add (byLane fun i => -(v c a i * v c b i)))
  | .vmacs c d a b => some (c, d, .add (byLane fun i => v c a i * low16 ((s.coreNow c).sreg b)))
  | .vadda c d a => some (c, d, .add (byLane fun i => v c a i))
  | .vsuba c d a => some (c, d, .add (byLane fun i => -(v c a i)))
  | .aclr c d => some (c, d, .put (byLane fun _ => 0))
  | .aset c d a b x =>
    some (c, d, .put (byLane fun i => wrapInt 40 (((h c a i % 256 * 2 ^ 32 + h c b i * 2 ^ 16 + h c x i : Nat)) : Int)))
  | _ => none

/-! ### Loads and stores (Table 12.4) -/

/-- Core, pointer, mode, bytes, alignment and memory outcome of a load. -/
def loadForm (i : Instr) : Option (CoreId × BitVec 5 × Mem × Nat × Nat × Ecc) :=
  match i with
  | .ldb c _ p m e => some (c, p, m, 1, 1, e)
  | .ldbu c _ p m e => some (c, p, m, 1, 1, e)
  | .ldh c _ p m e => some (c, p, m, 2, 2, e)
  | .ldhu c _ p m e => some (c, p, m, 2, 2, e)
  | .ldw c _ p m e => some (c, p, m, 4, 4, e)
  | .vld c _ p m e => some (c, p, m, 32, 2, e)
  | _ => none

/-- What a load leaves in flight from the bytes it read, least significant first. -/
def loadedWhat (shadow : Bool) (bs : List Byte) (i : Instr) : Option Landing :=
  match i with
  | .ldb _ t _ _ _ => some (.scalar shadow t.toNat (BitVec.ofInt 32 (wrapInt 8 (leNat bs))))
  | .ldbu _ t _ _ _ => some (.scalar shadow t.toNat (BitVec.ofNat 32 (leNat bs)))
  | .ldh _ t _ _ _ => some (.scalar shadow t.toNat (BitVec.ofInt 32 (wrapInt 16 (leNat bs))))
  | .ldhu _ t _ _ _ => some (.scalar shadow t.toNat (BitVec.ofNat 32 (leNat bs)))
  | .ldw _ t _ _ _ => some (.scalar shadow t.toNat (BitVec.ofNat 32 (leNat bs)))
  | .vld _ t _ _ _ => some (.vector t.toNat (byLane fun i => nth bs (2 * i + 1) 0 ++ nth bs (2 * i) 0))
  | _ => none

/-- Core, pointer, mode, bytes and alignment of a store. -/
def storeForm (i : Instr) : Option (CoreId × BitVec 5 × Mem × Nat × Nat) :=
  match i with
  | .stb c _ p m => some (c, p, m, 1, 1)
  | .sth c _ p m => some (c, p, m, 2, 2)
  | .stw c _ p m => some (c, p, m, 4, 4)
  | .vst c _ p m => some (c, p, m, 32, 2)
  | _ => none

/-- Byte `j` that a store writes. -/
def CoreRt.storedByte (k : CoreRt) (j : Nat) (i : Instr) : Byte :=
  match i with
  | .stb _ t _ _ => BitVec.ofNat 8 ((k.sreg t).toNat / 256 ^ j)
  | .sth _ t _ _ => BitVec.ofNat 8 ((k.sreg t).toNat / 256 ^ j)
  | .stw _ t _ _ => BitVec.ofNat 8 ((k.sreg t).toNat / 256 ^ j)
  | .vst _ t _ _ => BitVec.ofNat 8 ((k.vregs.getD (16 * t.toNat + j / 2) 0).toNat / 256 ^ (j % 2))
  | _ => 0

/-! ### Control (Table 12.7) -/

/-- Core and the address where issue goes on behind the two delay slots of a branch or jump at word `pc`. -/
def State.branchTarget (s : State) (i : Instr) : Option (CoreId × Nat) :=
  let r (c : CoreId) (x : BitVec 5) : Word := (s.coreNow c).sreg x
  let go (c : CoreId) (taken : Bool) (target : BitVec 15) : Option (CoreId × Nat) :=
    some (c, if taken then target.toNat else ((s.core c).pc + 3) % 2 ^ 15)
  match i with
  | .beq c a b target => go c (r c a == r c b) target
  | .bne c a b target => go c (r c a != r c b) target
  | .blt c a b target => go c (decide ((r c a).toInt < (r c b).toInt)) target
  | .bge c a b target => go c (decide ((r c b).toInt ≤ (r c a).toInt)) target
  | .bltu c a b target => go c (decide ((r c a).toNat < (r c b).toNat)) target
  | .bgeu c a b target => go c (decide ((r c b).toNat ≤ (r c a).toNat)) target
  | .jmp c target => go c true target
  | .jr c a => some (c, (r c a).toNat % 2 ^ 15)
  | _ => none

/-! ### Commands of the host port and the UART (R326 to R331, R443) -/

/-- The Tilvar commands that the device itself answers at once: each with its TYPE and its payload. -/
def plainCommands (v : Via) (p : List Byte) (len : Half) (data : List Byte) (ty : Byte) : List (Instr × Nat × List Byte) :=
  [(.disconnect v p, 0x41, p), (.read v p, 0x42, p), (.write v p, 0x43, p), (.nak v p, 0x45, p), (.wake v p, 0x46, p),
    (.keepalive v p, 0x47, p), (.ackDiverged v p, 0x48, p), (.logreq v p, 0x4A, p),
    (.lockQuery v len data, 0x49, lockBytes 0 len data), (.lockChallenge v len data, 0x49, lockBytes 1 len data),
    (.lockRespond v len data, 0x49, lockBytes 2 len data), (.lockPassword v len data, 0x49, lockBytes 3 len data),
    (.lockClose v len data, 0x49, lockBytes 4 len data),
    (.reservedTypeCommand v ty p, if 0x40 ≤ ty.toNat ∧ ty.toNat ≤ 0x4A then 0x7F else ty.toNat, p)]

/-- The datagram passes what R321, R324 and R326 ask: a correct FCS and destination MAC; an IPv4 header without options and with a
correct checksum, not a fragment, of protocol 17, to the port's address; a UDP checksum of zero or a correct one, to the port's number; a
Tilvar header, whole, with its MAGIC and VERSION and no reserved FLAGS bit. -/
def State.admits (s : State) (h : RxHead) : Prop :=
  h.fcsOk = true ∧ h.dstMac.toNat = s.rd Reg.HOSTLINK_MAC_HI_MAC 0 * 2 ^ 32 + s.rd Reg.HOSTLINK_MAC_LO_MAC 0
    ∧ h.ihl = 5 ∧ h.sumOk = true ∧ h.moreFrags = false ∧ h.fragOff = 0 ∧ h.protocol = 17 ∧ h.dstIp = s.reg (Reg.HOSTLINK_IP_IP.addr 0)
    ∧ h.udpOk = true ∧ h.dstPort.toNat = s.rd Reg.HOSTLINK_PORT_PORT 0
    ∧ h.whole = true ∧ h.magic = 0x4B54 ∧ h.version = 1 ∧ h.flags.toNat / 32 = 0

/-- The datagram comes from the session's host in the open session, the receive buffer has room for its `n` bytes, and the
command is the next in order, with none before it unanswered. -/
def State.nextInOrder (s : State) (h : RxHead) (mac : BitVec 48) (ip : Word) (port : Half) (session origin : Byte) (seq : Word) (n : Nat) : Prop :=
  3 ≤ s.mode ∧ s.on Reg.HOSTLINK_STAT_LINK_UP 0 = true ∧ s.admits h ∧ s.session ≠ 0 ∧ session.toNat = s.session
    ∧ s.sessionHost = .host mac ip port ∧ seq.toNat = s.rd Reg.HOSTLINK_CMDSEQ_SEQ 0 ∧ (origin = 0 ∨ s.isHead = false)
    ∧ s.link.inq = [] ∧ s.link.slots = [] ∧ s.link.fence = false ∧ n ≤ 65512

/-- The state in which a command taken in order is carried out: its SEQ is consumed and its response is awaited. -/
def State.taking (s : State) (dest : To) (origin seq ty : Nat) (p : List Byte) : State :=
  let s := s.wr Reg.HOSTLINK_CMDSEQ_SEQ 0 (seq + 1)
  { s with link := { s.link with slots := [⟨seq, ty, origin, dest, accessCount ty p, none, ty = 0x41⟩], inq := [] } }

end Sys2Proof.Machine
end

