-- ==== Sys2Proof/Certificates/Slice0/Obligations.lean ====
section
/-! DEFINITION. The statements about the block, for the provers. -/

open Sys2Proof Sys2Proof.Machine

/-! ### Commands and words -/

/-- The command that waits longest is taken and executed on the block with the rest of the queue; an idle block stays as it
is (the model's choice for an empty queue: log entry 1). -/
def Obligations.StepTakesFront : Prop :=
  (∀ (s : State) (c : Instr) (rest : List Instr), s.pending = c :: rest → step s = exec c { s with pending := rest })
    ∧ ∀ s : State, s.pending = [] → step s = .next s

/-- Every core instruction the encoding tables can spell is read back from its word with every operand (Tables 12.1 to 12.8);
the outcome of a load's memory word is no part of the word. -/
def Obligations.WordRoundTrip : Prop :=
  ∀ (i : Instr) (c : CoreId) (w : Word), issuer i = some c → encodeCoreWord i = some w →
    decodeCoreWord c w = some (withEcc .ok i)

/-- Words written out from Tables 12.1 to 12.8 are the instructions they spell. -/
def Obligations.WordsDecode : Prop :=
  decodeCoreWord 0 0x00000000 = some (.add 0 0 0 0)
    ∧ decodeCoreWord 0 (0b000000_00101_00110_00111_00000_000001#32) = some (.sub 0 5 6 7)
    ∧ decodeCoreWord 1 (0b000001_00101_00110_1111111111111111#32) = some (.addi 1 5 6 0xFFFF)
    ∧ decodeCoreWord 2 (0b001100_01000_01001_01_00_000000000100#32) = some (.ldw 2 8 9 (.post 4) .ok)
    ∧ decodeCoreWord 0 (0b010000_00001_00010_00011_00000_000000#32) = some (.vadd 0 1 2 3)
    ∧ decodeCoreWord 0 (0b010001_00001_00010_00011_00000_000001#32) = some (.vmac 0 1 2 3)
    ∧ decodeCoreWord 0 (0b010100_010_00101_01_00110_10_00111_000_1#32) = some (.vdmac 0 2 5 1 6 2 7 true (.ok, .ok))
    ∧ decodeCoreWord 0 (0b011000_00001_00010_0_000000000010000#32) = some (.beq 0 1 2 16)
    ∧ decodeCoreWord 0 (0b100100_00000_0_00000000_000000001000#32) = some (.rep 0 (.imm 8))
    ∧ decodeCoreWord 0 (0b111111_00000_00000_00000_00000_000000#32) = some (.endRun 0)
    ∧ decodeCoreWord 0 (0b010101_00000_00110_00_00_000000000000#32) = none
    ∧ decodeCoreWord 0 (0b111110_00000_00000_00000_00000_000000#32) = none

/-! ### Core instructions -/

/-- A core that cannot issue (no run and no handler, a pending register-window load, an END on its way, a gated island)
executes no instruction. -/
def Obligations.NoIssue : Prop :=
  ∀ (i : Instr) (c : CoreId) (s : State), issuer i = some c → s.canIssue c = false → exec i s = .next s

/-- Tables 12.2, 12.5 and 12.8: every instruction with one scalar result completes; the value of the registers as its issue cycle
reads them is readable after the cycles of Table 11.5, in the bank in use, and nothing else changes. -/
def Obligations.ScalarResults : Prop :=
  ∀ (i : Instr) (s : State) (c : CoreId) (d : BitVec 5) (n : Nat) (v : Word),
    s.scalarResult i = some (c, d, n, v) → s.canIssue c = true →
    ∃ t, exec i s = .next t ∧ Issued s t c ((s.coreNow c).later n (.scalar (s.coreNow c).shadow d.toNat v))

/-- Tables 12.5 and 12.6: every vector instruction completes; its lanes, through sat16 with their OV bits where the table says so,
are readable after the cycles of Table 11.5, and nothing else changes. -/
def Obligations.VectorResults : Prop :=
  (∀ (i : Instr) (s : State) (c : CoreId) (d : BitVec 4) (n : Nat) (x : List Int),
    s.satResult i = some (c, d, n, x) → s.canIssue c = true →
    ∃ t, exec i s = .next t ∧ Issued s t c ((s.coreNow c).withSat d n x))
  ∧ ∀ (i : Instr) (s : State) (c : CoreId) (d : BitVec 4) (n : Nat) (x : List Half),
    s.vectorResult i = some (c, d, n, x) → s.canIssue c = true →
    ∃ t, exec i s = .next t ∧ Issued s t c ((s.coreNow c).later n (.vector d.toNat x))

/-- Table 12.6: every instruction of the multiply-accumulate class completes and lands in its accumulator three cycles after it
issues; ASUM gives the rounded sum two cycles after, with OV bit 0 when it leaves the 32-bit range. -/
def Obligations.AccumulatorResults : Prop :=
  (∀ (i : Instr) (s : State) (c : CoreId) (d : BitVec 3) (op : AccOp),
    s.accResult i = some (c, d, op) → s.canIssue c = true →
    ∃ t, exec i s = .next t ∧ Issued s t c ((s.coreNow c).later 3 (.acc d.toNat op)))
  ∧ ∀ (s : State) (c : CoreId) (d : BitVec 5) (a : BitVec 3) (sh : BitVec 5), s.canIssue c = true →
    let k := s.coreNow c
    let x := rndShift k.rnd (byLane fun i => k.alane a i).sum sh.toNat
    ∃ t, exec (.asum c d a sh) s = .next t ∧
      ((-2 ^ 31 ≤ x ∧ x < 2 ^ 31 → Issued s t c (k.later 2 (.scalar k.shadow d.toNat (BitVec.ofInt 32 x))))
      ∧ (x < -2 ^ 31 ∨ 2 ^ 31 ≤ x →
          let v := if k.satm then (if x < 0 then -2 ^ 31 else 2 ^ 31 - 1) else x
          Issued s t c ((k.later 2 (.scalar k.shadow d.toNat (BitVec.ofInt 32 v))).later 2 (.flags 0x10000))))

/-- The lane functions sat16, acc40 and rnd (R285): the value in range, the limit or the wrapped value and the flag outside it, the nearest value and the ties. -/
def Obligations.LaneFunctions : Prop :=
  (∀ (satm : Bool) (x : Int),
    (-32768 ≤ x ∧ x ≤ 32767 → satm16 satm x = (x, false))
    ∧ (32767 < x → satm16 true x = (32767, true)) ∧ (x < -32768 → satm16 true x = (-32768, true))
    ∧ (x < -32768 ∨ 32767 < x → (satm16 false x).2 = true ∧ -32768 ≤ (satm16 false x).1 ∧ (satm16 false x).1 ≤ 32767
        ∧ (65536 : Int) ∣ (satm16 false x).1 - x))
  ∧ (∀ (satm : Bool) (x : Int), let lim : Int := 2 ^ 39 - 1
    (-lim ≤ x ∧ x ≤ lim → acc40 satm x = (x, false))
    ∧ (lim < x → acc40 true x = (lim, true)) ∧ (x < -lim → acc40 true x = (-lim, true))
    ∧ (x < -lim ∨ lim < x → (acc40 false x).2 = true ∧ -2 ^ 39 ≤ (acc40 false x).1 ∧ (acc40 false x).1 < 2 ^ 39
        ∧ (2 ^ 40 : Int) ∣ (acc40 false x).1 - x))
  ∧ (∀ (mode : Nat) (x : Int), rndShift mode x 0 = x)
  ∧ (∀ (x : Int) (sh : Nat), let r := rndShift 0 x sh
    r * 2 ^ sh ≤ x ∧ x < (r + 1) * 2 ^ sh)
  ∧ ∀ (mode : Nat) (x : Int) (sh : Nat), mode ≠ 0 → 0 < sh → let r := rndShift mode x sh
    let e := 2 * (r * 2 ^ sh - x)
    |e| ≤ 2 ^ sh ∧ (e = 2 ^ sh ∨ e = -2 ^ sh →
      (mode = 2 → r % 2 = 0) ∧ (mode ≠ 2 → if 0 ≤ x then e = 2 ^ sh else e = -2 ^ sh))

/-- A scalar result that becomes readable `n` cycles after its issue (Table 11.5): before that cycle every register reads as if it
had not issued, in that cycle its register reads the value, a later-issued result of the same cycle standing (Table 11.6); and
s0 reads 0. What a landing result does: a vector register takes its lanes, an accumulator takes a value or the saturating sum under the mode
then in force with OV set where a lane overflows, sticky flags stay set, and an MTS clears sticky bits or sets the modes
(R257, R260, Tables 11.4 and 11.5). -/
def Obligations.ResultLatency : Prop :=
  ((
    (∀ (k : CoreRt) (d e : BitVec 5) (v : Word) (n m : Nat), 1 ≤ n → n ≤ 3 →
      let k' := k.laterS n d v
      (m < n → (k'.toCycle (k.cycle + m)).sreg e = (k.toCycle (k.cycle + m)).sreg e)
      ∧ (d ≠ 0 → (k'.toCycle (k.cycle + n)).sreg d = v)
      ∧ (e ≠ d → (k'.toCycle (k.cycle + n)).sreg e = (k.toCycle (k.cycle + n)).sreg e))
    ∧ ∀ k : CoreRt, k.sreg 0 = 0)
  ∧ (
    (∀ (k : CoreRt) (r q : BitVec 4) (l : List Half) (i : Nat), i < 16 →
      (k.landOne (.vector r.toNat l)).lane q i = if q = r then (nth l i 0).toInt else k.lane q i)
    ∧ (∀ (k : CoreRt) (a b : BitVec 3) (l : List Int) (i : Nat), i < 16 → l.length = 16 →
      (k.landOne (.acc a.toNat (.add l))).alane b i
        = if b = a then (acc40 k.satm (k.alane a i + nth l i 0)).1 else k.alane b i)
    ∧ (∀ (k : CoreRt) (a : BitVec 3) (l : List Int) (i : Nat), i < 16 → l.length = 16 →
      (k.landOne (.acc a.toNat (.add l))).cstat.getLsbD (16 + i)
        = (k.cstat.getLsbD (16 + i) || (acc40 k.satm (k.alane a i + nth l i 0)).2))
    ∧ (∀ (k : CoreRt) (a : BitVec 3) (l : List Int) (i : Nat), i < 16 → -2 ^ 39 ≤ nth l i 0 → nth l i 0 < 2 ^ 39 →
      (k.landOne (.acc a.toNat (.put l))).alane a i = nth l i 0 ∧ (k.landOne (.acc a.toNat (.put l))).cstat = k.cstat)
    ∧ (∀ (k : CoreRt) (b : Word) (j : Nat), (k.landOne (.flags b)).cstat.getLsbD j = (k.cstat.getLsbD j || b.getLsbD j))
    ∧ (∀ (k : CoreRt) (b : Word) (j : Nat), (k.landOne (.clear b)).cstat.getLsbD j
        = (k.cstat.getLsbD j && !(b.getLsbD j && decide (11 ≤ j))))
    ∧ ∀ (k : CoreRt) (v : Word) (j : Nat), (k.landOne (.modes v)).cstat.getLsbD j
        = if j = 4 ∨ j = 5 ∨ j = 7 ∨ j = 8 ∨ j = 9 then v.getLsbD j else k.cstat.getLsbD j))

/-- Loads (Table 12.4): an aligned load from DM or the data ROM whose word is clean completes: the bytes at the address formed from the
pointer before its update are readable three cycles later, the pointer is updated, and nothing else changes. The outcome of a load's read (R271): a corrected error is counted in CORE_ECC.CE; an uncorrectable one is counted in CORE_ECC.UE and, in
DM, sets CORE_STAT.UE at once and CSTAT.MUE with the result. The load delivers the bytes stored when they are intact or corrected, and else some
bytes, and completes all the same. -/
def Obligations.LoadResults : Prop :=
  ((
    ∀ (i : Instr) (s : State) (c : CoreId) (p : BitVec 5) (m : Mem) (n al : Nat) (w : Landing),
      loadForm i = some (c, p, m, n, al, .ok) → s.canIssue c = true →
      let k := s.coreNow c
      let a := (k.address p m).1
      loadedWhat k.shadow (s.dataBytes c a n) i = some w →
      a % al = 0 → inDm a n = true ∨ ((k.address p m).2 = false ∧ inRom a n = true) →
      ∃ t, exec i s = .next t ∧ Issued s t c ((k.postUpdate p m).later 3 w))
  ∧ (
    ∀ (i : Instr) (s : State) (c : CoreId) (p : BitVec 5) (m : Mem) (n al : Nat) (e : Ecc),
      loadForm i = some (c, p, m, n, al, e) → s.canIssue c = true → (s.coreNow c).entersLib = false →
      let k := s.coreNow c
      let a := (k.address p m).1
      a % al = 0 → inDm a n = true →
      ∃ t bs w, exec i s = .next t ∧ bs.length = n ∧ (e = .ok ∨ e = .corrected → bs = s.dataBytes c a n)
        ∧ loadedWhat k.shadow bs i = some w ∧ t.core c = k.advance
          (if e = .uncorrectable then ((k.postUpdate p m).later 3 w).later 3 (.flags 0x800) else (k.postUpdate p m).later 3 w)
          (s.reg (Reg.CORE_CSINIT_V.addr c))
        ∧ t.rd Reg.CORE_ECC_CE c
            = (if e = .corrected ∨ e = .miscorrected then Min.min (s.rd Reg.CORE_ECC_CE c + 1) 0xFFFF else s.rd Reg.CORE_ECC_CE c)
        ∧ t.rd Reg.CORE_ECC_UE c = (if e = .uncorrectable then Min.min (s.rd Reg.CORE_ECC_UE c + 1) 0xFFFF else s.rd Reg.CORE_ECC_UE c)
        ∧ t.on Reg.CORE_STAT_UE c = (s.on Reg.CORE_STAT_UE c || decide (e = .uncorrectable))))

/-- The register window (R253, R288): a load from it stops issue; its answer puts what the register access returns into the register and
bank the load named and issue resumes; a store to it is performed as a register write of the core, and the core goes on. -/
def Obligations.RegisterWindow : Prop :=
  (∀ (s : State) (c : CoreId) (t p : BitVec 5) (m : Mem) (e : Ecc), s.canIssue c = true →
    let k := s.coreNow c
    let a := (k.address p m).1
    (k.address p m).2 = false → inWindow a = true → a % 4 = 0 →
    ∃ u, exec (.ldw c t p m e) s = .next u
      ∧ Issued s u c { k.postUpdate p m with load := some ⟨k.shadow, t.toNat, a - 0x80000000⟩ })
  ∧ (∀ (s : State) (c : CoreId) (t p : BitVec 5) (m : Mem), s.canIssue c = true →
    let k := s.coreNow c
    let a := (k.address p m).1
    (k.address p m).2 = false → inWindow a = true → a % 4 = 0 →
    ∃ u, Issued s u c (k.postUpdate p m)
      ∧ exec (.stw c t p m) s = .next (u.writeReg (.core c) (a - 0x80000000) (k.sreg t)))
  ∧ (∀ (s : State) (c : CoreId) (l : WinLoad), (s.core c).load = some l →
    ∃ t, exec (.registerWindowAnswer c) s = .next t ∧ (t.core c).load = none
      ∧ (l.r ≠ 0 → (if l.shadow then (t.core c).bank1 else (t.core c).bank0).getD l.r 0
          = (s.readReg (.core c) l.addr).readVal)
      ∧ (∀ a, t.reg a = (s.readReg (.core c) l.addr).reg a))
  ∧ ∀ (s : State) (c : CoreId), (s.core c).load = none → exec (.registerWindowAnswer c) s = .next s

/-- Stores to DM (Table 12.4): the bytes stand at the address formed from the pointer before its update, every other byte of every core's
DM reads as before, the pointer is updated, and nothing else changes; in the last delay slot of a jump into a library entry the kernel then takes its workspace. -/
def Obligations.Stores : Prop :=
  ∀ (i : Instr) (s : State) (c : CoreId) (p : BitVec 5) (m : Mem) (n al : Nat),
    storeForm i = some (c, p, m, n, al) → s.canIssue c = true →
    let k := s.coreNow c
    let a := (k.address p m).1
    a % al = 0 → inDm a n = true →
    ∃ t, exec i s = .next t ∧ (∃ dm, Issued s t c { k.postUpdate p m with dm := dm })
      ∧ (k.entersLib = false → (∀ j, j < n → t.dm c (a + j) = k.storedByte j i) ∧ ∀ b, b < a ∨ a + n ≤ b → t.dm c b = s.dm c b)
      ∧ ∀ (e b : Nat), e ≠ c.val → t.dm e b = s.dm e b

/-- An access outside Table 11.2 or misaligned faults the run with code ADDR and has no effect of its own (R280, R288): the run is aborted
as a fault, its sends are discarded and its memory stands as it was but for the STATUS of cancelled descriptors. -/
def Obligations.AddressFaults : Prop :=
  ∀ (i : Instr) (s : State) (c : CoreId) (p : BitVec 5) (m : Mem) (n al : Nat),
    ((∃ e, loadForm i = some (c, p, m, n, al, e)) ∨ storeForm i = some (c, p, m, n, al)) →
    s.canIssue c = true → s.cstate c = 2 → (s.core c).hq = [] → (s.core c).hauling = none →
    let k := s.coreNow c
    let a := (k.address p m).1
    (inDm a n = false ∧ ((k.address p m).2 = true ∨ inRom a n = false ∨ (storeForm i).isSome)
        ∧ (n ≠ 4 ∨ inWindow a = false ∨ (k.address p m).2 = true)) ∨ (a % al ≠ 0 ∧ n ≠ 1) →
    ∃ t, exec i s = .next t ∧ t.rd Reg.CORE_STAT_FCODE c = 3 ∧ t.on Reg.CORE_STAT_FAULT c = true ∧ t.on Reg.CORE_STAT_ABORTED c = true
      ∧ t.cstate c = (if s.on Reg.CORE_CTRL_EN c then 1 else 0) ∧ t.rd Reg.CORE_LASTRUN_RES c = 4
      ∧ (t.core c).sends = [] ∧ (t.core c).land = [] ∧ (t.core c).binds = [] ∧ ∀ b, t.dm c b = s.dm c b

/-- Pointer updates (Table 12.3, R261): none in mode 0, the sum modulo 2³² in mode 1, and the offset plus the step modulo the length in
modes 2 and 3, with CWRAP of the generator when the offset was at or beyond the length; each is readable in the next cycle. CADD is the
update of modes 2 and 3 alone, and no instruction in modes 0 and 1. -/
def Obligations.PointerUpdates : Prop :=
  (∀ (k : CoreRt) (p : BitVec 5) (x : BitVec 12), k.postUpdate p (.off x) = k
    ∧ k.postUpdate p (.post x)
        = k.later 1 (.scalar k.shadow p.toNat (BitVec.ofInt 32 ((k.sreg p).toInt + x.toInt))))
  ∧ (∀ (k : CoreRt) (p : BitVec 5) (m : Mem) (g : BitVec 2) (st : Int),
    (∃ x, m = .circ g x ∧ st = x.toInt) ∨ (∃ q, m = .circReg g q ∧ st = (k.sreg q).toInt) →
    let n := (nth k.agLen g.toNat 0).toNat
    let len := if n < 2 then 524288 else n - n % 2
    let off := (k.sreg p).toNat
    let v := BitVec.ofInt 32 ((off + st) % len)
    k.postUpdate p m = if len ≤ off
      then (k.later 1 (.flags (1#32 <<< (12 + g.toNat)))).later 1 (.scalar k.shadow p.toNat v)
      else k.later 1 (.scalar k.shadow p.toNat v))
  ∧ (∀ (s : State) (c : CoreId) (p : BitVec 5) (m : Mem), s.canIssue c = true →
    (∃ g x, m = .circ g x) ∨ (∃ g q, m = .circReg g q) →
    ∃ t, exec (.cadd c p m) s = .next t ∧ Issued s t c ((s.coreNow c).postUpdate p m))
  ∧ ∀ (s : State) (c : CoreId) (p : BitVec 5) (x : BitVec 12), s.canIssue c = true → s.cstate c = 2 →
    (∃ t, exec (.cadd c p (.off x)) s = .next t ∧ t.rd Reg.CORE_STAT_FCODE c = 1 ∧ t.on Reg.CORE_STAT_FAULT c = true)
    ∧ ∃ t, exec (.cadd c p (.post x)) s = .next t ∧ t.rd Reg.CORE_STAT_FCODE c = 1 ∧ t.on Reg.CORE_STAT_FAULT c = true

/-- VDMAC (R291): sixteen halfwords at ag k1 times the coefficient at ag k2 join the accumulator three cycles later, both pointers are updated,
p1's update remaining when they are one register; a misaligned or outlying operand faults the run with ADDR. -/
def Obligations.DualStream : Prop :=
  ∀ (s : State) (c : CoreId) (d : BitVec 3) (p1 : BitVec 5) (k1 : BitVec 2) (p2 : BitVec 5) (k2 : BitVec 2) (q : BitVec 5)
    (neg : Bool), s.canIssue c = true →
    let k := s.coreNow c
    let a1 := (nth k.agBase k1.toNat 0 + k.sreg p1).toNat
    let a2 := (nth k.agBase k2.toNat 0 + k.sreg p2).toNat
    let lane (j : Nat) : Int := wrapInt 16 (leNat (s.dmBytes c (a1 + 2 * j) 2))
    let h : Int := wrapInt 16 (leNat (s.dmBytes c a2 2))
    (a1 % 2 = 0 → a2 % 2 = 0 → inDm a1 32 = true → inDm a2 2 = true →
      ∃ t, exec (.vdmac c d p1 k1 p2 k2 q neg (.ok, .ok)) s = .next t ∧ Issued s t c
        (((k.later 3 (.acc d.toNat (.add (byLane fun j => if neg then -(lane j * h) else lane j * h)))).circ p2 k2.toNat 2).circ
          p1 k1.toNat (k.sreg q).toInt))
    ∧ (∀ e, s.cstate c = 2 → ¬ (a1 % 2 = 0 ∧ a2 % 2 = 0 ∧ inDm a1 32 = true ∧ inDm a2 2 = true) →
      ∃ t, exec (.vdmac c d p1 k1 p2 k2 q neg e) s = .next t ∧ t.rd Reg.CORE_STAT_FCODE c = 3
        ∧ t.on Reg.CORE_STAT_FAULT c = true)

/-- Branches and jumps (Table 12.7): two delay slots, then the target, or the word behind the slots when the condition fails on the values
readable at issue; CALL also leaves its return address in s31. -/
def Obligations.Branches : Prop :=
  (∀ (i : Instr) (s : State) (c : CoreId) (pc : Nat), s.branchTarget i = some (c, pc) → s.canIssue c = true →
    ∃ t, exec i s = .next t ∧ Issued s t c { s.coreNow c with flow := some (2, .to pc) })
  ∧ ∀ (s : State) (c : CoreId) (target : BitVec 15), s.canIssue c = true →
    let k := s.coreNow c
    ∃ t, exec (.call c target) s = .next t ∧ Issued s t c
      { k.later 1 (.scalar k.shadow 31 (BitVec.ofNat 32 ((k.pc + 3) % 2 ^ 15))) with flow := some (2, .to target.toNat) }

/-- How issue goes on (R262, R267, R292): the next word, modulo 2¹⁵; the same word while a repeat lasts; behind the second delay slot the
target, or for an RTI the saved address, status and bank of its level. The cycle moves on by one. -/
def Obligations.FlowOfIssue : Prop :=
  (∀ (was k : CoreRt) (v : Word), was.rep = none → was.flow = none →
    was.advance k v = { k with cycle := was.cycle + 1, pc := (was.pc + 1) % 2 ^ 15 })
  ∧ (∀ (was k : CoreRt) (v : Word) (f : Flow), was.rep = none → was.flow = some (2, f) →
    was.advance k v = { k with cycle := was.cycle + 1, pc := (was.pc + 1) % 2 ^ 15, flow := some (1, f) })
  ∧ (∀ (was k : CoreRt) (v : Word) (t : Nat), was.rep = none → was.flow = some (1, .to t) →
    was.advance k v = { k with cycle := was.cycle + 1, pc := t, flow := none })
  ∧ (∀ (was k : CoreRt) (v : Word) (n : Nat), was.rep = some (n + 2) →
    was.advance k v = { k with cycle := was.cycle + 1, rep := some (n + 1) })
  ∧ (∀ (was k : CoreRt) (v : Word), was.rep = some 1 →
    was.advance k v = { k with cycle := was.cycle + 1, rep := none, pc := (was.pc + 1) % 2 ^ 15 })
  ∧ ∀ (was k : CoreRt) (v : Word) (l : Nat), was.rep = none → was.flow = some (1, .rti l) → l < 2 → k.idleIrq = false →
    let u := was.advance k v
    u.pc = (nth k.ira l 0).toNat % 2 ^ 15 ∧ u.shadow = (k.shadow && decide (l = 0)) ∧ u.flow = none
      ∧ ∀ j, u.cstat.getLsbD j = ((nth k.istat l 0).getLsbD j && !decide (j = 0 ∨ j = 1 ∨ j = 6 ∨ j = 10))

/-- REP, END, WDK and RTI (R262, R267, R279, R293, R296): the count, 0 meaning 4,096; the retirement three cycles on, a library kernel's END waiting
for its work (the model's reading of R300: log entry 36); the watchdog cleared unless its count has reached PERIOD; two delay slots before the return of the current level, and ILLEGAL outside a handler. -/
def Obligations.RepEndRtiWdk : Prop :=
  (∀ (s : State) (c : CoreId) (n : BitVec 12), s.canIssue c = true →
    ∃ t, exec (.rep c (.imm n)) s = .next t
      ∧ Issued s t c { s.coreNow c with rep := some (if n = 0 then 4096 else n.toNat) })
  ∧ (∀ (s : State) (c : CoreId) (a : BitVec 5), s.canIssue c = true →
    let n := ((s.coreNow c).sreg a).toNat % 4096
    ∃ t, exec (.rep c (.reg a)) s = .next t ∧ Issued s t c { s.coreNow c with rep := some (if n = 0 then 4096 else n) })
  ∧ (∀ (s : State) (c : CoreId), s.canIssue c = true →
    ((∀ r, (s.core c).lib = some r → r.out.isSome = true) →
      ∃ t, exec (.endRun c) s = .next t ∧ Issued s t c { s.coreNow c with endAt := some (s.nowCycle c + 3) })
    ∧ ∀ r, (s.core c).lib = some r → r.out = none → exec (.endRun c) s = .next (s.waits c))
  ∧ (∀ (s : State) (c : CoreId), s.canIssue c = true →
    ∃ t, exec (.wdk c) s = .next t ∧ Issued s t c (if s.nowCycle c < (s.core c).wdFrom + 600 * s.wdPeriod c
      then { s.coreNow c with wdFrom := s.nowCycle c } else s.coreNow c))
  ∧ (∀ (s : State) (c : CoreId), s.canIssue c = true → (s.coreNow c).lvl ≠ 0 →
    ∃ t, exec (.rti c) s = .next t ∧ Issued s t c { s.coreNow c with flow := some (2, .rti ((s.coreNow c).lvl - 1)) })
  ∧ ∀ (s : State) (c : CoreId), s.canIssue c = true → (s.coreNow c).lvl = 0 → s.cstate c = 2 →
    ∃ t, exec (.rti c) s = .next t ∧ t.rd Reg.CORE_STAT_FCODE c = 1 ∧ t.on Reg.CORE_STAT_FAULT c = true

/-- MTS (R294, Table 11.5): each special register takes the value when Table 11.5 says; read-only and reserved numbers ignore it; IPEND clears
the sources where 1 is written, but not one that becomes pending in the cycle, and leaves MON. -/
def Obligations.SpecialWrites : Prop :=
  (∀ (s : State) (c : CoreId) (n a : BitVec 5), s.canIssue c = true → n ≠ 1 →
    let k := s.coreNow c
    let v := k.sreg a
    ∃ t, exec (.mts c n a) s = .next t ∧ Issued s t c
      (if n = 0 then (k.later 1 (.clear v)).later 2 (.modes v)
       else if n = 2 then { k with ira := k.ira.set 0 v } else if n = 3 then { k with ira := k.ira.set 1 v }
       else if n = 4 then { k with istat := k.istat.set 0 v } else if n = 5 then { k with istat := k.istat.set 1 v }
       else if n = 7 then k.later 2 (.tcmp v)
       else if n = 16 ∨ n = 18 ∨ n = 20 ∨ n = 22 then k.later 2 (.agBase ((n.toNat - 16) / 2) v)
       else if n = 17 ∨ n = 19 ∨ n = 21 ∨ n = 23 then k.later 2 (.agLen ((n.toNat - 17) / 2) v)
       else k))
  ∧ ∀ (s : State) (c : CoreId) (a : BitVec 5), s.canIssue c = true →
    let v := (s.coreNow c).sreg a
    let pend := Reg.CORE_IPEND_DOOR.addr c
    ∃ t, exec (.mts c 1 a) s = .next t
      ∧ (∀ j, (t.reg pend).getLsbD j = ((s.reg pend).getLsbD j
          && !(v.getLsbD j && decide ((j = 1 ∨ j = 2 ∨ j = 3) ∧ nth (s.coreNow c).pendAt j 0 ≠ (s.coreNow c).cycle))))
      ∧ ∀ b, b ≠ pend → b ≠ Reg.CORE_PC_PC.addr c → t.reg b = s.reg b

/-- HQ, HWAIT, HREL and SQ (R269, R276, R277, R293, R295, R297). Each completes: a descriptor or a send joins its queue in order; HWAIT goes on once the queue is
empty and the engine idle; HREL drops the binding the run holds, and a plane in HAUL that no binding is left on is free. With the queue full, or a haul not done for HWAIT, the
instruction has not issued: results land while it waits and nothing else changes. A descriptor or buffer outside its limits faults the run with ADDR. -/
def Obligations.HaulAndSendQueues : Prop :=
  let faults (i : Instr) (s : State) (c : CoreId) : Prop :=
    ∃ t, exec i s = .next t ∧ t.rd Reg.CORE_STAT_FCODE c = 3 ∧ t.on Reg.CORE_STAT_FAULT c = true
  ∀ (s : State) (c : CoreId) (a b : BitVec 5), s.canIssue c = true →
    let k := s.coreNow c
    let x := (k.sreg a).toNat
    let len := (k.sreg b).toNat % 2 ^ 24
    let bind := (x % 256, x / 256 % 4)
    (x % 32 = 0 → x + 32 ≤ 0x80000 → (k.hq.length < 4 → ∃ t, exec (.hq c a) s = .next t ∧ Issued s t c { k with hq := k.hq ++ [x] })
      ∧ (4 ≤ k.hq.length → exec (.hq c a) s = .next (s.waits c)))
    ∧ (s.cstate c = 2 → x % 32 ≠ 0 ∨ 0x80000 < x + 32 → faults (.hq c a) s c)
    ∧ ((s.core c).hq = [] → (s.core c).hauling = none → ∃ t, exec (.hwait c) s = .next t ∧ Issued s t c k)
    ∧ ((s.core c).hq ≠ [] ∨ (s.core c).hauling ≠ none → exec (.hwait c) s = .next (s.waits c))
    ∧ (bind ∉ k.binds → ∃ t, exec (.hrel c a) s = .next t ∧ Issued s t c k)
    ∧ (bind ∈ k.binds → k.entersLib = false → ∃ t, exec (.hrel c a) s = .next t
        ∧ t.core c = k.advance { k with binds := k.binds.erase bind } (s.reg (Reg.CORE_CSINIT_V.addr c))
        ∧ (bind.1 < 192 → bind.2 < 2 → t.own bind.1 bind.2 = if s.own bind.1 bind.2 = 2 ∧ t.bound bind = false then 0 else s.own bind.1 bind.2))
    ∧ (len ≠ 0 → len ≤ 524288 → x + len ≤ 0x80000 → (k.sends.length < 16 → ∃ t, exec (.sq c a b) s = .next t
          ∧ Issued s t c { k with sends := k.sends ++ [⟨x, len, (k.sreg b).toNat / 2 ^ 24⟩] })
      ∧ (16 ≤ k.sends.length → exec (.sq c a b) s = .next (s.waits c)))
    ∧ (s.cstate c = 2 → len = 0 ∨ 524288 < len ∨ 0x80000 < x + len → faults (.sq c a b) s c)
/-! ### Core events -/

/-- Entry to a handler (R264 to R266, R268, Table 11.8). Of the requests that are enabled, level 1 is taken when IE1 is set and LVL is 0 or 1, level 0
otherwise when IE0 is set and LVL is 0. The address that would have issued, of an instruction that waits its own (R297), and CSTAT are saved, the level's vector is taken, six cycles pass, and level 1
switches to the shadow bank; with no result in flight LVL, IE0 and, for level 1, IE1 are as Table 11.8 says. With no request to take, or between the
delay slots of a branch, within a repeat, behind an END or a register-window load, nothing happens. TIMER becomes pending when CYC equals TCMP in the core's present cycle or one of the two before it, one tick being three cycles (R255; the model's
reading of the tick: log entry 10), and remembers that cycle; otherwise nothing happens. -/
def Obligations.Interrupts : Prop :=
  ((
    (∀ (s : State) (c : CoreId) (l : Nat), s.cstate c = 2 ∨ (s.core c).idleIrq = true → s.cstate c ≠ 0 → 4 ≤ s.mode → s.inWatch = false →
      (s.core c).flow = none → (s.core c).rep = none → (s.core c).endAt = none → (s.core c).load = none →
      (s.core c).ira.length = 2 → (s.core c).istat.length = 2 →
      let k := s.coreNow c
      (l = 1 ∧ s.requested c 1 k.cycle = true ∧ k.cstat.getLsbD 5 = true ∧ k.lvl ≤ 1)
        ∨ (l = 0 ∧ s.requested c 0 k.cycle = true ∧ k.cstat.getLsbD 4 = true ∧ k.lvl = 0 ∧ ¬ (s.requested c 1 k.cycle = true ∧ k.cstat.getLsbD 5 = true)) →
      ∃ t, exec (.interruptEntry c) s = .next t
        ∧ (t.core c).pc = (if l = 1 then s.rd Reg.CORE_IVEC_IVEC1 c else s.rd Reg.CORE_IVEC_IVEC0 c)
        ∧ nth (t.core c).ira l 0 = BitVec.ofNat 32 k.pc ∧ nth (t.core c).istat l 0 = k.cstat
        ∧ nth (t.core c).ira (1 - l) 0 = nth k.ira (1 - l) 0 ∧ nth (t.core c).istat (1 - l) 0 = nth k.istat (1 - l) 0
        ∧ (t.core c).cycle = k.cycle + 6 ∧ (t.core c).shadow = (k.shadow || decide (l = 1))
        ∧ (k.land = [] → (t.core c).lvl = l + 1 ∧ (t.core c).cstat.getLsbD 4 = false
            ∧ (t.core c).cstat.getLsbD 5 = (k.cstat.getLsbD 5 && decide (l = 0)) ∧ (t.core c).bank0 = k.bank0
            ∧ (t.core c).bank1 = k.bank1)
        ∧ (t.core c).dm = k.dm ∧ (∀ e, e ≠ c.val → t.core e = s.core e) ∧ t.regs = s.regs)
    ∧ (∀ (s : State) (c : CoreId), s.cstate c = 1 ∨ s.cstate c = 3 → (s.core c).idleIrq = false → 4 ≤ s.mode → s.inWatch = false →
      (s.core c).flow = none → (s.core c).rep = none → (s.core c).endAt = none → (s.core c).load = none → (s.core c).istat.length = 2 →
      let init := s.reg (Reg.CORE_CSINIT_V.addr c)
      s.requested c 1 (s.nowCycle c) = true → init.getLsbD 5 = true → init.getLsbD 2 = false → init.getLsbD 3 = false →
      ∃ t, exec (.interruptEntry c) s = .next t ∧ (t.core c).idleIrq = true ∧ (t.core c).pc = s.rd Reg.CORE_IVEC_IVEC1 c
        ∧ nth (t.core c).istat 1 0 = init ∧ t.cstate c = s.cstate c)
    ∧ ∀ (s : State) (c : CoreId), (∀ l n, s.requested c l n = false) ∨ (s.core c).flow.isSome ∨ (s.core c).rep.isSome
        ∨ (s.core c).endAt.isSome ∨ (s.core c).load.isSome ∨ s.cstate c = 0 →
      exec (.interruptEntry c) s = .next s)
  ∧ (
    ∀ (s : State) (c : CoreId), s.inWatch = false →
      let now := s.cycNow c
      let pend := Reg.CORE_IPEND_DOOR.addr c
      (∀ m, m ≤ now → now < m + 3 → m % 2 ^ 32 = ((s.core c).landTo now).tcmp.toNat →
        ∃ t, exec (.timerMatch c) s = .next t ∧ (∀ j, (t.reg pend).getLsbD j = ((s.reg pend).getLsbD j || decide (j = 2)))
          ∧ t.core c = { s.core c with pendAt := (s.core c).pendAt.set 2 m } ∧ (∀ e, e ≠ c.val → t.core e = s.core e)
          ∧ (∀ a, a ≠ pend → t.reg a = s.reg a) ∧ { t with regs := s.regs, cores := s.cores } = s)
      ∧ ((¬ ∃ m, m ≤ now ∧ now < m + 3 ∧ m % 2 ^ 32 = ((s.core c).landTo now).tcmp.toNat) → exec (.timerMatch c) s = .next s)))

/-- A job starts on an IDLE core (R275): the oldest one leaves the queue, s1 to s4 hold its strand, stack, job word and parameter, the run number counts
up, the program counter stands at its entry, and CSTAT takes CORE_CSINIT, which a library kernel, at work from its entry on, gives its own modes (R300). A first word that is
uncorrectable or no instruction faults the run (R280); a core that is not IDLE or has no job starts none. -/
def Obligations.JobStart : Prop :=
  (∀ (s : State) (c : CoreId) (fetch : Ecc) (j : Job) (rest : List Job), (s.core c).jobs = j :: rest → s.cstate c = 1 →
    (s.core c).idleIrq = false → 4 ≤ s.mode → s.inWatch = false →
    fetch ≠ .uncorrectable ∧ (libKind j.entry ≠ 0 ∨ decodeCoreWord c (s.imWord c j.entry) ≠ none) →
    ∃ t, exec (.jobStart c fetch) s = .next t ∧ t.cstate c = 2 ∧ (t.core c).jobs = rest
      ∧ t.rd Reg.CORE_STAT_JOBS c = rest.length % 16 ∧ (t.core c).pc = j.entry ∧ (t.core c).shadow = false
      ∧ (t.core c).sreg 1 = BitVec.ofNat 32 j.strand ∧ (t.core c).sreg 2 = BitVec.ofNat 32 j.stack
      ∧ (t.core c).sreg 3 = BitVec.ofNat 32 j.word ∧ (t.core c).sreg 4 = BitVec.ofNat 32 j.param
      ∧ t.rd Reg.CORE_RUNNO_N c = (s.rd Reg.CORE_RUNNO_N c + 1) % 2 ^ 32
      ∧ (libKind j.entry = 0 → (t.core c).cstat = s.reg (Reg.CORE_CSINIT_V.addr c) ∧ (t.core c).binds = j.binds
          ∧ (t.core c).dm = (s.core c).dm ∧ (t.core c).lib = none)
      ∧ (libKind j.entry ≠ 0 → (t.core c).satm = true ∧ (t.core c).rnd = 1 ∧ (t.core c).lib.isSome = true)
      ∧ (t.core c).wdFrom = s.nowCycle c)
  ∧ (∀ (s : State) (c : CoreId) (fetch : Ecc) (j : Job) (rest : List Job), (s.core c).jobs = j :: rest → s.cstate c = 1 →
    (s.core c).idleIrq = false → 4 ≤ s.mode → s.inWatch = false →
    fetch = .uncorrectable ∨ (libKind j.entry = 0 ∧ decodeCoreWord c (s.imWord c j.entry) = none) →
    ∃ t, exec (.jobStart c fetch) s = .next t ∧ t.rd Reg.CORE_STAT_FCODE c = (if fetch = .uncorrectable then 2 else 1)
      ∧ t.on Reg.CORE_STAT_FAULT c = true ∧ t.rd Reg.CORE_LASTRUN_RES c = 4)
  ∧ ∀ (s : State) (c : CoreId) (fetch : Ecc), (s.core c).jobs = [] ∨ s.cstate c ≠ 1 → exec (.jobStart c fetch) s = .next s

/-- END retires and draining ends (R276, R277): the run's hauls are cancelled, its bindings dropped, its sends and then a library kernel's messages pass to the link
island in order, and the core is DRAIN; END in a handler of a core without a run ends the handler. Once every buffer is read the core is IDLE, or OFF with EN = 0. -/
def Obligations.EndAndDrain : Prop :=
  (∀ (s : State) (c : CoreId) (x : Nat), (s.core c).endAt = some x → s.cstate c = 2 →
    let own := (((s.core c).lib.bind (·.out)).getD []).map (libStamped (s.cycleTime x))
    let pos := s.rd Reg.HAWSER_POS_POS 0
    ∃ t, exec (.endRetire c) s = .next t ∧ t.cstate c = 3 ∧ t.rd Reg.CORE_LASTRUN_RES c = 1
      ∧ t.rd Reg.CORE_LASTRUN_RUN c = s.rd Reg.CORE_RUNNO_N c % 256
      ∧ (t.core c).endAt = none ∧ (t.core c).sends = [] ∧ (t.core c).drain = (s.core c).sends ++ (own.map fun m => Send.mk 0 m.2.length m.1)
      ∧ (t.core c).binds = [] ∧ (t.core c).hq = [] ∧ (t.core c).hauling = none
      ∧ t.link.txq = s.link.txq ++ ((s.core c).sends.map fun d => TxItem.mk d.ty pos (.send c d.addr d.len (s.cycleTime x)) 0 none)
          ++ (own.map fun m => TxItem.mk m.1 pos (.lib c m.2) 0 none))
  ∧ (∀ (s : State) (c : CoreId) (x : Nat), (s.core c).endAt = some x → s.cstate c ≠ 2 →
    ∃ t, exec (.endRetire c) s = .next t ∧ (t.core c).endAt = none ∧ (t.core c).idleIrq = false ∧ ((s.core c).jobs = [] → t.link = s.link) ∧ (t.core c).dm = (s.core c).dm)
  ∧ (∀ (s : State) (c : CoreId), (s.core c).endAt = none → exec (.endRetire c) s = .next s)
  ∧ (∀ (s : State) (c : CoreId), s.cstate c = 3 → (s.core c).drain = [] →
    ∃ t, exec (.drainComplete c) s = .next t ∧ t.cstate c = (if s.on Reg.CORE_CTRL_EN c then 1 else 0)
      ∧ (t.core c).dm = (s.core c).dm)
  ∧ ∀ (s : State) (c : CoreId), s.cstate c ≠ 3 ∨ (s.core c).drain ≠ [] → exec (.drainComplete c) s = .next s

/-- The watchdog (R279): a run of no library kernel whose count since the last clear reaches PERIOD microseconds of 600 cycles, the period held to 100 to 4,000, is
aborted as R278 aborts, with WDOG and ABORTED set, and the safety monitor is told; before that, and where END retires by then, nothing happens. CORE_CMD.ABORT (R278): the run in progress, or with ANY = 0 the one whose number ends in TAG, is aborted unless its END retires by this cycle: its results in
flight and sends are discarded, its hauls cancelled, its bindings dropped, ABORTED is set and the answer says so; an abort that finds no such run is answered
ABORT_LATE and acts on nothing. -/
def Obligations.CoreStops : Prop :=
  ((
    (∀ (s : State) (c : CoreId), s.cstate c = 2 → libKind (s.core c).runEntry = 0 →
      let period := if s.rd Reg.CORE_WDOG_PERIOD c < 100 then 100 else if 4000 < s.rd Reg.CORE_WDOG_PERIOD c then 4000 else s.rd Reg.CORE_WDOG_PERIOD c
      (s.core c).wdFrom + 600 * period ≤ s.nowCycle c → (∀ e, (s.core c).endAt = some e → (s.core c).wdFrom + 600 * period < e) →
      ∃ t, exec (.watchdogExpiry c) s = .next t ∧ t.on Reg.CORE_STAT_WDOG c = true ∧ t.on Reg.CORE_STAT_ABORTED c = true
        ∧ t.rd Reg.CORE_LASTRUN_RES c = 3 ∧ t.cstate c = (if s.on Reg.CORE_CTRL_EN c then 1 else 0) ∧ (t.core c).sends = []
        ∧ (t.core c).land = [] ∧ (t.core c).binds = [] ∧ (t.core c).hq = [] ∧ (t.core c).hauling = none
        ∧ (6, s.coreTime c) ∈ t.safety.due ∧ ∀ e, e ≠ c.val → t.core e = s.core e)
    ∧ ∀ (s : State) (c : CoreId), s.cstate c ≠ 2 ∨ s.nowCycle c < (s.core c).wdFrom + 60000
        ∨ (∃ e, (s.core c).endAt = some e ∧ e ≤ (s.core c).wdFrom + 60000) → exec (.watchdogExpiry c) s = .next s)
  ∧ (
    ∀ (src : Source) (c : CoreId) (any : Bool) (tag : Byte) (s : State), 3 ≤ s.mode → s.inWatch = false →
      (s.cstate c = 2 → any = true ∨ s.rd Reg.CORE_RUNNO_N c % 256 = tag.toNat → (∀ e, (s.core c).endAt = some e → s.nowCycle c < e) →
        ∃ t, exec (.coreCmdAbort src c any tag) s = .next t ∧ t.acc = .aborted ∧ t.on Reg.CORE_STAT_ABORTED c = true
          ∧ t.rd Reg.CORE_LASTRUN_RES c = 2 ∧ t.cstate c = (if s.on Reg.CORE_CTRL_EN c then 1 else 0)
          ∧ (t.core c).land = [] ∧ (t.core c).sends = [] ∧ (t.core c).binds = [] ∧ (t.core c).hq = []
          ∧ (t.core c).hauling = none ∧ ∀ e, e ≠ c.val → t.core e = s.core e)
      ∧ (s.cstate c ≠ 2 ∨ (any = false ∧ s.rd Reg.CORE_RUNNO_N c % 256 ≠ tag.toNat) ∨ (∃ e, (s.core c).endAt = some e ∧ e ≤ s.nowCycle c) →
        ∃ t, exec (.coreCmdAbort src c any tag) s = .next t ∧ t.acc = .abortLate ∧ t.on Reg.CORE_STAT_ABORT_LATE c = true
          ∧ t.cores = s.cores ∧ t.strands = s.strands ∧ t.bins = s.bins)))

/-- When the haul engine refuses a descriptor (R270). -/
def Obligations.HaulRefusal : Prop :=
  ∀ (s : State) (h : Haul), s.haulRefused h = true ↔
    192 ≤ h.chan ∨ s.own h.chan h.plane ≠ 2 ∨ h.count = 0 ∨ 2 ≤ h.format
    ∨ (h.isMeta = false ∧ (h.stride = 0
        ∨ ∃ i, i < h.count ∧ ((h.first : Int) + i * h.stride < 0 ∨ 102399 < (h.first : Int) + i * h.stride)))
    ∨ (h.isMeta = true ∧ (h.first % 4 ≠ 0 ∨ h.count % 4 ≠ 0 ∨ 12288 < h.count ∨ 12288 < h.first + h.count))
    ∨ 0x80000 < h.dest + (if h.isMeta then h.count else if h.format = 0 then 8 * h.count else 2 * h.count)

/-- The haul engine begins its oldest descriptor (R269, R270): it is read as it stands in DM; refused, its STATUS says REFUSED and DONE, and HAUL becomes
pending when it asks for that; else it is in progress and DM is unchanged. With no descriptor of a program the engine takes a library kernel's next one; refused, it ends the
kernel's work and releases its planes (R477). An engine that is busy or has none begins none. A program's haul of bins ends (R270, R271, R105): bin FIRST + i × STRIDE of the plane stands in DM as 8 bytes, sign-extended, for RAW40, and as 2 bytes, shifted right and
rounded to nearest with ties away from zero and saturated, for SHR16, unless its word was reported uncorrectable or the check bits do not vouch for it; STATUS says DONE, UE when a
word was uncorrectable, and CLIP when one saturated; every other byte of DM, and the fold memory, are unchanged; HAUL becomes pending when asked for, and FOLD_HCONF counts the
ticks in which its reads conflict. -/
def Obligations.HaulTransfers : Prop :=
  ((
    (∀ (s : State) (c : CoreId) (piece a : Nat) (rest : List Nat), (s.core c).hq = a :: rest → (s.core c).hauling = none →
      let h := s.haulAt c a
      ∃ t, exec (.haulDescriptorBegin ⟨c, piece⟩) s = .next t ∧ (t.core c).hq = rest
        ∧ (s.haulRefused h = true → (t.core c).hauling = none
            ∧ (∀ b, t.dm c b = if b = a + 0x18 then 3 else if a + 0x19 ≤ b ∧ b < a + 0x1C then 0 else s.dm c b)
            ∧ (t.reg (Reg.CORE_IPEND_DOOR.addr c)).getLsbD 1 = ((s.reg (Reg.CORE_IPEND_DOOR.addr c)).getLsbD 1 || h.irq))
        ∧ (s.haulRefused h = false → (t.core c).hauling = some h ∧ (∀ b, t.dm c b = s.dm c b) ∧ t.regs = s.regs)
        ∧ t.bins = s.bins)
    ∧ (∀ (s : State) (c : CoreId) (piece : Nat) (r : LibRun) (h : Haul) (rest : List Haul), (s.core c).hq = [] → (s.core c).hauling = none →
      (s.core c).lib = some r → r.todo = h :: rest →
      ∃ t, exec (.haulDescriptorBegin ⟨c, piece⟩) s = .next t ∧ (∀ b, t.dm c b = s.dm c b) ∧ t.bins = s.bins
        ∧ (s.haulRefused h = false → piece = 0 → t = s.setCore c { s.core c with hauling := some h, lib := some { r with todo := rest } })
        ∧ (s.haulRefused h = true → (t.core c).hauling = none ∧ (t.core c).binds = [] ∧ ∃ u, (t.core c).lib = some u ∧ u.todo = [] ∧ u.out.isSome = true))
    ∧ ∀ (s : State) (c : CoreId) (piece : Nat), ((s.core c).hq = [] ∧ (s.core c).lib = none) ∨ (s.core c).hauling ≠ none →
      exec (.haulDescriptorBegin ⟨c, piece⟩) s = .next s)
  ∧ (
    (∀ (s : State) (c : CoreId) (errs : List (Nat × Ecc)) (taken : List (Nat × Nat)) (turns : List Nat) (h : Haul), (s.core c).hauling = some h →
      h.isMeta = false → h.lib = false →
      let size := h.count * (if h.format = 0 then 8 else 2)
      h.at_ + 32 ≤ h.dest ∨ h.dest + size ≤ h.at_ →
      let at_ (i : Nat) : Nat := (h.first + i * h.stride : Int).toNat
      let bin (i : Nat) : Bin40 := s.bin h.chan h.plane (at_ i)
      let short (i : Nat) : Int := roundDiv (bin i).toInt (2 ^ h.shift)
      let good (i : Nat) : Prop := ∀ e ∈ errs, e.1 = i → e.2 = .ok ∨ e.2 = .corrected
      ∃ t, exec (.haulDescriptorEnd c errs ⟨taken, turns⟩) s = .next t ∧ (t.core c).hauling = none
        ∧ (h.format = 0 → ∀ i j, i < h.count → j < 8 → good i →
            t.dm c (h.dest + 8 * i + j) = BitVec.ofNat 8 (((bin i).signExtend 64).toNat / 256 ^ j))
        ∧ (h.format ≠ 0 → ∀ i j, i < h.count → j < 2 → good i → t.dm c (h.dest + 2 * i + j)
            = BitVec.ofNat 8 ((BitVec.ofInt 16 (Max.max (-32768) (Min.min 32767 (short i)))).toNat / 256 ^ j))
        ∧ (t.dm c (h.at_ + 0x18)).getLsbD 0 = true
        ∧ (t.dm c (h.at_ + 0x18)).getLsbD 2 = decide (∃ e ∈ errs, e.1 < h.count ∧ e.2 = .uncorrectable)
        ∧ (h.format ≠ 0 → (∀ i, i < h.count → good i) → (t.dm c (h.at_ + 0x18)).getLsbD 3
            = decide (∃ i, i < h.count ∧ (short i < -32768 ∨ 32767 < short i)))
        ∧ (∀ b, b < h.dest ∨ h.dest + size ≤ b → b < h.at_ + 0x18 ∨ h.at_ + 0x1C ≤ b → t.dm c b = s.dm c b)
        ∧ (t.reg (Reg.CORE_IPEND_DOOR.addr c)).getLsbD 1 = ((s.reg (Reg.CORE_IPEND_DOOR.addr c)).getLsbD 1 || h.irq)
        ∧ (h.chan < 192 → t.rd Reg.FOLD_HCONF_N h.chan = Min.min (2 ^ 32 - 1) (s.rd Reg.FOLD_HCONF_N h.chan
            + haulConflicts taken turns 0 ((List.range h.count).map fun i => subBank (at_ i))))
        ∧ t.bins = s.bins)
    ∧ ∀ (s : State) (c : CoreId) (errs : List (Nat × Ecc)) (taken : List (Nat × Nat)) (turns : List Nat), (s.core c).hauling = none →
      exec (.haulDescriptorEnd c errs ⟨taken, turns⟩) s = .next s))

/-- The core windows and the doorbell (R264, R281): with the raw class open, a write of CORE_IMD or CORE_DMDAT stores the word at the address its address register
names and a read returns it, and the address moves on by one word, modulo the memory's size; every other word stays. A write of CORE_DOOR is held and
makes DOOR pending. -/
def Obligations.CoreWindows : Prop :=
  (∀ (src : Source) (c : CoreId) (v : Word) (s : State), 3 ≤ s.mode → s.inWatch = false → s.classOpen .raw = true →
    let a := s.rd Reg.CORE_IMA_A c
    ∃ t, exec (.coreImdAccess src c (some v)) s = .next t ∧ t.acc = .ok
      ∧ (∀ b, t.imWord c b = if b = a then v else s.imWord c b) ∧ t.rd Reg.CORE_IMA_A c = (a + 1) % 16384)
  ∧ (∀ (src : Source) (c : CoreId) (s : State), 3 ≤ s.mode → s.inWatch = false →
    let a := s.rd Reg.CORE_IMA_A c
    ∃ t, exec (.coreImdAccess src c none) s = .next t ∧ t.acc = .ok ∧ t.readVal = s.imWord c a
      ∧ t.rd Reg.CORE_IMA_A c = (a + 1) % 16384 ∧ t.cores = s.cores)
  ∧ (∀ (src : Source) (c : CoreId) (v : Word) (s : State), 3 ≤ s.mode → s.inWatch = false → s.classOpen .raw = true →
    let a := s.rd Reg.CORE_DMADR_A c / 4 * 4
    ∃ t, exec (.coreDmdatAccess src c (some v)) s = .next t ∧ t.acc = .ok
      ∧ (∀ j, j < 4 → t.dm c (a + j) = BitVec.ofNat 8 (v.toNat / 256 ^ j))
      ∧ (∀ b, b < a ∨ a + 4 ≤ b → t.dm c b = s.dm c b)
      ∧ t.rd Reg.CORE_DMADR_A c = (s.rd Reg.CORE_DMADR_A c + 4) % 524288)
  ∧ (∀ (src : Source) (c : CoreId) (s : State), 3 ≤ s.mode → s.inWatch = false →
    let a := s.rd Reg.CORE_DMADR_A c / 4 * 4
    ∃ t, exec (.coreDmdatAccess src c none) s = .next t ∧ t.acc = .ok
      ∧ (∀ j, j < 4 → BitVec.ofNat 8 (t.readVal.toNat / 256 ^ j) = s.dm c (a + j))
      ∧ t.rd Reg.CORE_DMADR_A c = (s.rd Reg.CORE_DMADR_A c + 4) % 524288 ∧ t.cores = s.cores)
  ∧ ∀ (src : Source) (c : CoreId) (v : Word) (s : State), 3 ≤ s.mode → s.inWatch = false →
    ∃ t, exec (.coreDoor src c v) s = .next t ∧ t.acc = .ok ∧ t.reg (Reg.CORE_DOOR_V.addr c) = v
      ∧ (∀ j, (t.reg (Reg.CORE_IPEND_DOOR.addr c)).getLsbD j
          = ((s.reg (Reg.CORE_IPEND_DOOR.addr c)).getLsbD j || decide (j = 3)))
      ∧ ∀ a, a ≠ Reg.CORE_DOOR_V.addr c → a ≠ Reg.CORE_IPEND_DOOR.addr c → t.reg a = s.reg a
/-! ### Strands, stacks and planes -/

/-- STRAND_CTRL.RUN written (R49, R51, R53). A STOPPED strand that fails a check of Table 2.6 does not start: RUN reads 0 and CFG_ERR holds the first
failing check; one that passes every check (and is no phase strand) is WAITING with its counts cleared, its start tick fixed at once in RUNNING. RUN = 0
stops a WAITING strand at once and makes a RUNNING one with a stack in progress STOPPING. The other bits of STRAND_CTRL stay. STRAND_CMD.ABORT (R55 to R57): on the stack in progress, by number or with ANY, before its close instant it closes the stack ABORTED and the strand is
STOPPED; otherwise it is answered ABORT_LATE and acts on nothing. -/
def Obligations.StrandCommands : Prop :=
  ((
    (∀ (src : Source) (i : StrandId) (s : State), 3 ≤ s.mode → s.mode ≠ 7 → s.mode ≠ 9 → s.sstate i = 0 → s.notLate src (Reg.STRAND_CTRL_RUN.addr i) →
      let s' := s.put Reg.STRAND_CTRL_RUN i true
      ∃ t, exec (.strandStart src i) s = .next t ∧ t.acc = .ok
        ∧ (∀ j, j ≠ 0 → (t.reg (0xA000 + 64 * i.val)).getLsbD j = (s.reg (0xA000 + 64 * i.val)).getLsbD j)
        ∧ (s'.cfgCheck i ≠ 0 → t.sstate i = 0 ∧ t.on Reg.STRAND_CTRL_RUN i = false
            ∧ t.rd Reg.STRAND_STAT_CFG_ERR i = s'.cfgCheck i ∧ t.strands = s.strands ∧ t.bins = s.bins)
        ∧ (s'.cfgCheck i = 0 → s.isPhase i = false → t.sstate i = 1 ∧ t.on Reg.STRAND_CTRL_RUN i = true
            ∧ t.rd Reg.STRAND_STAT_CFG_ERR i = 0 ∧ t.rd Reg.STRAND_STACKNO_N i = 0 ∧ t.rd Reg.STRAND_SHOTNO_N i = 0
            ∧ (t.strand i).stack = none ∧ (t.strand i).start = (if s.mode = 6 then some (s.startTick i) else none)
            ∧ t.bins = s.bins))
    ∧ ∀ (src : Source) (i : StrandId) (s : State), 3 ≤ s.mode → s.mode ≠ 7 → s.mode ≠ 9 → (s.strand i).restartRun = false →
      s.notLate src (Reg.STRAND_CTRL_RUN.addr i) →
      ∃ t, exec (.strandStop src i) s = .next t ∧ t.acc = .ok ∧ t.on Reg.STRAND_CTRL_RUN i = false
        ∧ (∀ j, j ≠ 0 → (t.reg (0xA000 + 64 * i.val)).getLsbD j = (s.reg (0xA000 + 64 * i.val)).getLsbD j)
        ∧ t.sstate i = (if s.sstate i = 1 then 0 else if s.sstate i = 2 ∧ (s.strand i).stack.isSome then 3 else s.sstate i)
        ∧ t.bins = s.bins ∧ t.metas = s.metas)
  ∧ (
    ∀ (src : Source) (i : StrandId) (any : Bool) (tag : Byte) (s : State), 3 ≤ s.mode → s.mode ≠ 7 →
      (∀ k, s.sstate i ≠ 0 → (s.strand i).stack = some k → any = true ∨ k.num % 256 = tag.toNat → s.stackComplete i = false →
        ∃ t, exec (.strandCmdAbort src i any tag) s = .next t ∧ t.acc = .aborted ∧ t.on Reg.STRAND_STAT_ABORTED i = true
          ∧ t.sstate i = 0 ∧ t.on Reg.STRAND_CTRL_RUN i = false ∧ (t.strand i).stack = none
          ∧ (t.strand i).lastClose = some (k.num, s.tick))
      ∧ (s.sstate i = 0 ∨ (∃ k, (s.strand i).stack = some k ∧ (s.stackComplete i = true ∨ (any = false ∧ k.num % 256 ≠ tag.toNat)))
          ∨ ((s.strand i).stack = none ∧ any = false) →
        ∃ t, exec (.strandCmdAbort src i any tag) s = .next t ∧ t.acc = .abortLate ∧ t.on Reg.STRAND_STAT_ABORT_LATE i = true
          ∧ t.strands = s.strands ∧ t.bins = s.bins ∧ t.pipe = s.pipe ∧ t.sstate i = s.sstate i)))

/-- The fold commands (R89, R90, R98): SNAP is pending while a stack is in progress and is discarded otherwise, RESTART is pending until the next stack, and
FOLD_REL frees a plane that is in HAUL and no other. One commit of the fold engine (R87, R88): the bin takes the old value, less its leak, plus the sample, held to ±(2³⁹ − 1); the old value is 0, the other
plane's, or the bin's own, as its word stands when the check bits vouch for it (R86); SAT is marked and SAT_SEEN set when it saturates; every other bin is
unchanged, whatever was read. -/
def Obligations.FoldEngine : Prop :=
  ((
    (∀ (src : Source) (i : StrandId) (s : State), 3 ≤ s.mode → s.mode ≠ 7 →
      ∃ t, exec (.foldCmdSnap src i) s = .next t ∧ t.acc = .ok
        ∧ t.on Reg.FOLD_SSTAT_SNAP_PEND i = (s.on Reg.FOLD_SSTAT_SNAP_PEND i || (s.strand i).stack.isSome)
        ∧ (∀ a, a ≠ Reg.FOLD_SSTAT_SNAP_PEND.addr i → t.reg a = s.reg a) ∧ (∀ j, j ≠ i.val → t.strand j = s.strand j)
        ∧ RegsOnly s { t with strands := s.strands })
    ∧ (∀ (src : Source) (i : StrandId) (s : State), 3 ≤ s.mode → s.mode ≠ 7 →
      ∃ t, exec (.foldCmdRestart src i) s = .next t ∧ t.acc = .ok ∧ t.on Reg.FOLD_SSTAT_RESTART_PEND i = true
        ∧ (∀ a, a ≠ Reg.FOLD_SSTAT_SNAP_PEND.addr i → t.reg a = s.reg a) ∧ (∀ j, j ≠ i.val → t.strand j = s.strand j)
        ∧ RegsOnly s { t with strands := s.strands })
    ∧ ∀ (src : Source) (ch : ChanId) (a b : Bool) (s : State), 3 ≤ s.mode → s.mode ≠ 7 →
      ∃ t, exec (.foldRel src ch a b) s = .next t ∧ t.acc = .ok
        ∧ t.own ch 0 = (if a = true ∧ s.own ch 0 = 2 then 0 else s.own ch 0)
        ∧ t.own ch 1 = (if b = true ∧ s.own ch 1 = 2 then 0 else s.own ch 1)
        ∧ (∀ x, x ≠ Reg.FOLD_PSTAT_OWN_A.addr ch → t.reg x = s.reg x) ∧ RegsOnly s t)
  ∧ (
    ∀ (s : State) (strand ch pl b : Nat) (x : Int) (old : OldKind) (leak : Option Nat) (ovl bad : Bool) (e : Ecc),
      pl < 2 → b < 102400 →
      let t := s.foldCommit strand ch pl b x old leak ovl bad e
      let o : Int := match old with
        | .zero => 0
        | .carry => (s.bin ch (1 - pl) b).toInt
        | .self => (s.bin ch pl b).toInt
      let o : Int := match leak with
        | some k => o - o / 2 ^ k
        | none => o
      let lim : Int := 2 ^ 39 - 1
      (e = .ok ∨ e = .corrected ∨ old = .zero → (t.bin ch pl b).toInt = Max.max (-lim) (Min.min lim (o + x)))
        ∧ (e = .ok ∨ e = .corrected ∨ old = .zero → o + x < -lim ∨ lim < o + x → (t.qbyte ch pl (b / 256)).getLsbD 0 = true ∧ t.on Reg.FOLD_SSTAT_SAT_SEEN strand = true)
        ∧ ∀ ch' pl' b', pl' < 2 → b' < 102400 → (ch', pl', b') ≠ (ch, pl, b) → t.bin ch' pl' b' = s.bin ch' pl' b'))

/-- A stack closes (R52, R54, R95, R97): its last shot's last bin committed, its number counts up, its planes wait for their hand-over with a header each, and
the next stack takes the other plane; before that instant nothing happens. The hand-over (R96, R273, R274): 64 ticks after the close the planes of the stack pass to HAUL, and each core that is enabled and has room queues
the jobs of its dispatch entries for the strand; a plane whose every job was dropped is free again; before that nothing happens. -/
def Obligations.StackCloseAndHandOver : Prop :=
  ((
    (∀ (i : StrandId) (s : State) (k : Stack) (sh : Shot), (s.strand i).stack = some k → (s.strand i).shot = some sh →
      sh.folded = true → sh.last = true → sh.launch + s.gapOff i + 31 ≤ s.tick →
      ∃ t, exec (.stackClose i) s = .next t ∧ (t.strand i).stack = none ∧ (t.strand i).lastClose = some (k.num, s.tick)
        ∧ (∃ c, (t.strand i).closed = some c ∧ c.num = k.num ∧ c.close = s.tick
            ∧ c.planes = (if k.coded then [0, 1] else [k.plane]) ∧ c.chans = s.hitched i)
        ∧ t.rd Reg.STRAND_STACKNO_N i = (s.rd Reg.STRAND_STACKNO_N i + 1) % 2 ^ 32
        ∧ (k.coded = false → (t.strand i).nextPlane = 1 - k.plane
            ∧ ∀ ch ∈ s.hitched i, ∃ m, t.metas.find (planeKey ch k.plane) = some m ∧ m.header.stackNo = k.num
                ∧ m.header.strand = i ∧ m.header.nbin = s.strandN i ∧ m.header.tFirst = k.tFirst))
    ∧ ∀ (i : StrandId) (s : State) (k : Stack) (sh : Shot), (s.strand i).stack = some k → (s.strand i).shot = some sh →
      sh.folded = false ∨ sh.last = false ∨ s.tick < sh.launch + s.gapOff i + 31 → exec (.stackClose i) s = .next s)
  ∧ (
    (∀ (i : StrandId) (s : State) (h : Closed), (s.strand i).closed = some h → h.close + 64 ≤ s.tick → (∀ ch ∈ h.chans, ch < 192) →
      ∃ t, exec (.handOver i) s = .next t ∧ (t.strand i).closed = none
        ∧ (∀ ch ∈ h.chans, ∀ pl ∈ h.planes, pl < 2 → t.own ch pl = 2 ∨ t.own ch pl = 0)
        ∧ ((∀ c k, c < 12 → k < 16 → s.entryJobs c k i h = []) → (∀ ch ∈ h.chans, ∀ pl ∈ h.planes, pl < 2 → t.own ch pl = 2)
            ∧ t.cores = s.cores)
        ∧ (∀ c : CoreId, let new := (List.range 16).flatMap fun k => s.entryJobs c k i h
            s.on Reg.CORE_CTRL_EN c = true → (s.core c).jobs.length + new.length ≤ 8 → (t.core c).jobs = (s.core c).jobs ++ new)
        ∧ t.bins = s.bins)
    ∧ ∀ (i : StrandId) (s : State), (∀ h, (s.strand i).closed = some h → s.tick < h.close + 64) → exec (.handOver i) s = .next s))

/-- The range evaluation of a closed stack (R76, R77), under FC_PLAN_RT as the close instant found it: OVL and UR say which bights overloaded in OV_N shots or
peaked below the threshold; with the tracker on, every bight's gain, as its code acts (the model's reading: log entry 72), moves as the tracker's procedure says;
with it off no gain moves; nothing due, nothing happens. -/
def Obligations.RangeEvaluation : Prop :=
  (∀ (ch : ChanId) (s : State) (x i : Nat) (w : Word) (plan : Plan), (s.chan ch).evalDue = some (x, w) → s.strandOf ch = some i →
    (s.chan ch).plan = some plan → plan.bights.length ≤ 8 →
    let c := s.chan ch
    let ovl (k : Nat) : Prop := Max.max 1 (Reg.FC_PLAN_RT_OV_N.read w) ≤ nth c.ovlShots k 0
    let under (k : Nat) : Prop := nth c.peak k 0 < Reg.FC_PLAN_RT_UR_THR.read w * 256
    let tracks : Prop := Reg.FC_PLAN_RT_EN.read w = 1 ∧ s.mode ≠ 9 ∧ ¬ (s.isPhase i = true ∧ s.runs i = true)
    let gmin := Min.min 12 (Reg.FC_PLAN_RT_GMIN.read w)
    let gmax := Min.min 12 (Reg.FC_PLAN_RT_GMAX.read w)
    ∃ t, exec (.rangeEvaluation ch) s = .next t ∧ (t.chan ch).evalDue = none
      ∧ (∀ k, k < plan.bights.length → (t.bit Reg.FC_STAT_OVL ch k = true ↔ ovl k) ∧ (t.bit Reg.FC_STAT_UR ch k = true ↔ under k))
      ∧ (¬ tracks → ∀ k, k < 8 → t.rd (Reg.FC_GAIN_GAIN k) ch = s.rd (Reg.FC_GAIN_GAIN k) ch)
      ∧ (tracks → ∀ k, k < plan.bights.length →
          let g := Min.min 12 (s.rd (Reg.FC_GAIN_GAIN k) ch)
          let g' := Min.min 12 (t.rd (Reg.FC_GAIN_GAIN k) ch)
          (ovl k → g' = if gmin < g then Max.max gmin (g - (Reg.FC_PLAN_RT_OV_STEP.read w + 1)) else g)
          ∧ (¬ ovl k → under k → g' = if Max.max 1 (Reg.FC_PLAN_RT_UR_M.read w) ≤ nth c.urRun k 0 + 1 ∧ g < gmax then g + 1 else g)
          ∧ (¬ ovl k → ¬ under k → g' = g)))
  ∧ ∀ (ch : ChanId) (s : State), (s.chan ch).evalDue = none → exec (.rangeEvaluation ch) s = .next s

/-! ### Probe ports -/

/-- A launch (R43, R52, R113): at the port's launch tick, in RUNNING or HELD, the one strand of its rotation, which runs as the tick begins, is launched: its first launch makes it
RUNNING, the launch time is latched, the port fires one gate pulse when it does not code, counts the launch, drives the strand's SW value, and fixes the next launch
one period on, the period and value as the strand latched them; before that tick nothing happens. -/
def Obligations.Launch : Prop :=
  (∀ (p : PortId) (errs : List (ChanId × Nat × Ecc)) (i : Nat) (n : Nat) (s : State), s.mode = 6 ∨ s.mode = 8 → (s.port p).next = some n → n ≤ s.tick →
    s.rotation p s.tick = [i] → s.on Reg.STRAND_CTRL_RUN i = true → s.old.on Reg.STRAND_CTRL_RUN i = true → (s.strand i).sysStop = none →
    (∀ sh, (s.strand i).shot = some sh → (s.strand i).stack.isSome → ¬ (sh.folded = true ∧ sh.last = true)) →
    (s.port p).fixed = none ∨ (s.port p).fixed = some (s.sw i) →
    ∃ t, exec (.launch ⟨p, errs⟩) s = .next t ∧ (t.port p).next = some (s.tick + (s.strand i).runP) ∧ (t.port p).launching = true
      ∧ (t.port p).lastLaunch = some s.tick ∧ (t.port p).sw = s.sw i
      ∧ t.rd Reg.PRB_LAUNCHES_N p = (s.rd Reg.PRB_LAUNCHES_N p + 1) % 2 ^ 32
      ∧ (s.old.pmode p = 0 → (t.port p).gate = [(s.tick, Max.max 1 (s.old.rd Reg.PRB_GATE_PW p))])
      ∧ t.sstate i = (if s.sstate i = 1 then 2 else s.sstate i) ∧ (t.strand i).launchTick = s.tick
      ∧ t.pair Reg.STRAND_LAUNCH_LO_T i = s.stamp)
  ∧ ∀ (p : PortId) (errs : List (ChanId × Nat × Ecc)) (s : State),
    (s.port p).next = none ∨ (∃ n, (s.port p).next = some n ∧ s.tick < n) ∨ (s.mode ≠ 6 ∧ s.mode ≠ 8) → exec (.launch ⟨p, errs⟩) s = .next s

/-- The setpoint and its ceiling (R126, R128, R129). At the first gap tick of a port's shot, and every 4,096 ticks while it makes no launch, SET goes to the goal
with RSTEP = 0 and otherwise moves toward it by at most RSTEP; the goal is the lesser of TARGET and the ceiling, as the tick found them. The ceiling is 4,095 without
derating, DFLOOR at a sensor fault, which is flagged, and otherwise falls linearly from 4,095 at T1 to DFLOOR at T2. -/
def Obligations.Setpoint : Prop :=
  let moved (s : State) (p : PortId) (v : Nat) : Prop :=
    let goal := Min.min (s.old.rd Reg.PRB_SET_TARGET p) (s.old.ceilingNow p)
    let now := s.rd Reg.PRB_SETNOW_SET p
    let r := s.old.rd Reg.PRB_SET_RSTEP p
    v = if r = 0 then goal else if now + r ≤ goal then now + r else if goal + r ≤ now then now - r else goal
  let idle (s : State) (p : PortId) : Prop := ∀ i ∈ s.portStrands p, s.sstate i = 1
  (∀ (p : PortId) (x : Nat) (s : State), s.mode ≠ 7 → s.mode ≠ 9 → (s.port p).lastLaunch = some x → (s.port p).gapSeen = false →
    x + (s.port p).gapOff ≤ s.tick →
    ∃ t, exec (.firstGapTick p) s = .next t ∧ moved s p (t.rd Reg.PRB_SETNOW_SET p) ∧ (t.port p).gapSeen = true)
  ∧ (∀ (p : PortId) (s : State), 4 ≤ s.mode → s.mode ≠ 7 → s.mode ≠ 9 → idle s p → (s.port p).idleBase + 4096 ≤ s.tick →
    ∃ t, exec (.setpointIdleStep p) s = .next t ∧ moved s p (t.rd Reg.PRB_SETNOW_SET p)
      ∧ (t.port p).idleFrom = (s.port p).idleBase + 4096 ∧ ∀ a, a ≠ Reg.PRB_SETNOW_SET.addr p → t.reg a = s.reg a)
  ∧ (∀ (p : PortId) (s : State), ¬ idle s p ∨ s.mode < 4 ∨ s.mode = 7 ∨ s.mode = 9
      ∨ s.tick < (s.port p).idleBase + 4096 → exec (.setpointIdleStep p) s = .next s)
  ∧ ∀ (p : PortId) (s : State),
    let en := s.on Reg.PRB_DER_CTRL_EN p
    let pc := s.rd Reg.PRB_DER_CTRL_PC p
    let fl := s.rd Reg.PRB_DER_CTRL_DFLOOR p
    let t1 := s.rdInt Reg.PRB_DER_T1_T p
    let t2 := s.rdInt Reg.PRB_DER_T2_T p
    ∃ t, exec (.deratingUpdate p) s = .next t ∧ (t.port p).derDue = false
      ∧ (en = false → t.rd Reg.PRB_SETNOW_CEIL p = 4095)
      ∧ (en = true → pc < 24 → (s.pc pc).sensFault = true →
          t.rd Reg.PRB_SETNOW_CEIL p = fl ∧ t.on Reg.PRB_STAT_DER_FAULT p = true)
      ∧ (∀ x, en = true → pc < 24 → (s.pc pc).sensFault = false → (s.pc pc).lastX = some x →
          let y := if s.on Reg.PRB_DER_CTRL_INV p then -x else x
          (y ≤ t1 → t.rd Reg.PRB_SETNOW_CEIL p = 4095) ∧ (t1 < y → t2 ≤ y → t.rd Reg.PRB_SETNOW_CEIL p = fl)
          ∧ (t1 < y → y < t2 → (t.rd Reg.PRB_SETNOW_CEIL p : Int) = 4095 - (y - t1) * (4095 - fl) / (t2 - t1)))
      ∧ (∀ a, a ≠ Reg.PRB_SETNOW_CEIL.addr p → a ≠ Reg.PRB_STAT_DER_FAULT.addr p → t.reg a = s.reg a)

/-- The light checks (R130 to R134). A shot's presence level is the mean over its window; a level below the lower edge (FLOOR, or half the learned level when
that is more) counts as a miss, one at or above it clears the count, and PROBE_LOST is raised, with its source and strand, when the count reaches 4 and
LOST is not set. The monitor energy of a launch is judged alike against MON_FLOOR and the port's own count. What is not due changes nothing. -/
def Obligations.LightChecks : Prop :=
  (∀ (i : StrandId) (s : State) (sh : Shot), (s.strand i).shot = some sh → sh.presSeen = false → s.runs i = true →
    s.presOn (s.strand i).perPort = true →
    sh.launch + s.strandL i + (s.rd Reg.PRB_PRES_PBIN (s.strand i).perPort + 256) * s.strandD i + 32 ≤ s.tick →
    let p := (s.strand i).perPort
    let lvl : Rat := if sh.presCount = 0 then 0 else sh.presSum / (sh.presCount : Rat)
    let floor : Rat := (s.rd Reg.PRB_PRES_FLOOR_FLOOR p : Rat)
    let edge : Rat := match nth (s.strand i).learned sh.ty none with
      | some l => Max.max floor (l / 2)
      | none => floor
    ∃ t, exec (.presenceEval i) s = .next t ∧ (t.strand i).miss = (if lvl < edge then (s.strand i).miss + 1 else 0)
      ∧ (∃ sh', (t.strand i).shot = some sh' ∧ sh'.presSeen = true)
      ∧ (lvl < edge → 3 ≤ (s.strand i).miss → t.on Reg.PRB_STAT_LOST p = true
          ∧ (s.on Reg.PRB_STAT_LOST p = false → t.rd Reg.PRB_STAT_LOST_SRC p = 1 ∧ t.rd Reg.PRB_STAT_LOST_STRAND p = i))
      ∧ (edge ≤ lvl → t.on Reg.PRB_STAT_LOST p = s.on Reg.PRB_STAT_LOST p)
      ∧ t.sstate i = s.sstate i ∧ t.bins = s.bins)
  ∧ (∀ (i : StrandId) (s : State), (s.strand i).shot = none ∨ (∃ sh, (s.strand i).shot = some sh ∧ sh.presSeen = true) →
    exec (.presenceEval i) s = .next s)
  ∧ (∀ (p : PortId) (s : State) (e : Nat), (s.port p).monEnd = some e → (s.port p).monSeen = false → e + 33 ≤ s.tick →
    s.monOn p = true →
    let r := s.port p
    let base : Rat := if r.monBaseCount = 0 then 0 else r.monBase / (r.monBaseCount : Rat)
    let en : Rat := if r.monReady then Max.max 0 (r.monSum - base * (r.monCount : Rat)) else 0
    let floor : Rat := (s.rd Reg.PRB_MON_FLOOR_FLOOR p : Rat)
    let edge : Rat := match nth r.monLearned r.ty none with
      | some l => Max.max floor (l / 2)
      | none => floor
    ∃ t, exec (.monitorEnergyEval p) s = .next t ∧ (t.port p).monSeen = true
      ∧ (t.port p).monMiss = (if en < edge then r.monMiss + 1 else 0)
      ∧ (en < edge → 3 ≤ r.monMiss → t.on Reg.PRB_STAT_LOST p = true
          ∧ (s.on Reg.PRB_STAT_LOST p = false → t.rd Reg.PRB_STAT_LOST_SRC p = 2))
      ∧ (edge ≤ en → t.regs = s.regs))
  ∧ ∀ (p : PortId) (s : State), (s.port p).monEnd = none ∨ (s.port p).monSeen = true → exec (.monitorEnergyEval p) s = .next s

/-! ### Gap calibration -/

/-- Gap runs (R160, R161, R165, R168, R176): a repeat run starts at its tick when one fits the period; at s + 288 each channel is judged quiet or not; at the commit
tick no run is left, an accepted result becomes the held values of its code and a rejected one leaves every held value; an abort in time discards
the run, and a late one acts on nothing. -/
def Obligations.GapRuns : Prop :=
  (∀ (st : StrandId) (s : State) (sh : Shot), let rt := s.strand st
    let sp := (if rt.gapRpt = 1 then 2 else rt.gapRpt) * 1000
    rt.shot = some sh → sh.gapSeen = true → 0 < sp → rt.gapIndex < (s.tick - rt.gapFirst) / sp →
    s.tick + 1344 ≤ sh.launch + rt.perP → s.old.on Reg.GAPCAL_CTRL_EN 0 = true → s.mode ≠ 9 → rt.gapRun = none →
    ∃ t, exec (.repeatRunStart st) s = .next t ∧ (t.strand st).gapRun = some s.tick
      ∧ (∀ ch ∈ s.hitched st, ∃ r, (t.chan ch).run = some r ∧ r.start = s.tick ∧ r.cq = (s.chan ch).gain) ∧ t.regs = s.regs)
  ∧ (∀ (st : StrandId) (s : State) (x : Nat), (s.strand st).gapRun = some x → x + 288 ≤ s.tick →
    ∃ t, exec (.quietDecision st) s = .next t ∧ t.regs = s.regs
      ∧ ∀ ch ∈ s.hitched st, ∀ r, (s.chan ch).run = some r → r.decided = false → r.atStart = false →
          ∃ r', (t.chan ch).run = some r' ∧ r'.decided = true
            ∧ (r'.notQuiet = true ↔ 16 * 16 * 256 < |16 * r.sumQ - 256 * nth (s.chan ch).hOff r.cq 0|
                ∨ 64 * 65536 < 256 * (r.sqQ : Int) - r.sumQ * r.sumQ ∨ r.ovlQ = true))
  ∧ (∀ (st : StrandId) (s : State) (x : Nat), (s.strand st).gapRun = some x → s.tick < x + 288 →
    exec (.quietDecision st) s = .next s)
  ∧ (∀ (st : StrandId) (s : State) (x : Nat), (s.strand st).gapRun = some x → s.gapCommitAt st x ≤ s.tick →
    ∃ t, exec (.gapRunCommit st) s = .next t ∧ (t.strand st).gapRun = none
      ∧ (∀ ch ∈ s.hitched st, (t.chan ch).run = none ∧ (t.chan ch).inj = 0)
      ∧ ∀ ch ∈ s.hitched st, ∀ r, (s.chan ch).run = some r → r.notQuiet = false → r.atStart = false → s.isPhase st = false →
          let v := r.judge (nth (s.chan ch).hGain r.ct 0) (s.rd Reg.GAPCAL_LINLIM_LIM 0) none
          t.rd Reg.GAPCAL_CHSTAT_LASTRES ch = v.code % 16
            ∧ (v.code = 1 → (t.chan ch).hOff = (s.chan ch).hOff.set r.ct v.off ∧ (t.chan ch).hGain = (s.chan ch).hGain.set r.ct v.gain)
            ∧ (v.code ≠ 1 → (t.chan ch).hOff = (s.chan ch).hOff ∧ (t.chan ch).hGain = (s.chan ch).hGain))
  ∧ (∀ (st : StrandId) (s : State), (∀ x, (s.strand st).gapRun = some x → s.tick < s.gapCommitAt st x) →
    exec (.gapRunCommit st) s = .next s)
  ∧ (∀ (src : Source) (st : StrandId) (s : State) (x : Nat), 3 ≤ s.mode → s.mode ≠ 7 → (s.strand st).gapRun = some x →
    s.tick < s.gapCommitAt st x →
    ∃ t, exec (.gapcalCmdAbort src st) s = .next t ∧ t.acc = .aborted ∧ t.on Reg.GAPCAL_STAT_ABORTED 0 = true
      ∧ (t.strand st).gapRun = none ∧ ∀ ch ∈ s.hitched st, (t.chan ch).run = none
          ∧ (t.chan ch).hOff = (s.chan ch).hOff ∧ (t.chan ch).hGain = (s.chan ch).hGain ∧ (t.chan ch).acc = (s.chan ch).acc
          ∧ (t.chan ch).rej = (s.chan ch).rej)
  ∧ ∀ (src : Source) (st : StrandId) (s : State), 3 ≤ s.mode → s.mode ≠ 7 → (s.strand st).gapRun = none →
    ∃ t, exec (.gapcalCmdAbort src st) s = .next t ∧ t.acc = .abortLate ∧ t.on Reg.GAPCAL_STAT_ABORT_LATE 0 = true
      ∧ t.chans = s.chans ∧ t.strands = s.strands

/-- The calibration store (R177, R180 to R183, R420). COMMIT with the lock open begins a commit when none runs, no freeze of the log waits or runs, ten minutes have passed since the
last began and no safety fault shows, and otherwise sets COMMIT_WAIT (of a freeze the model's choice: log entry 30); with the lock closed it does nothing. The automatic commit begins alike. An
attempt writes both copies of both sets, each with its header and CRC; when one does not read back well it is not valid, and the attempt is repeated once, and a second failure sets
COMMIT_FAIL. A HELD write sets the held value, and the working value too unless the channel's strand runs. -/
def Obligations.CalibrationStore : Prop :=
  let tenMin := 120000000000
  let mayBegin (s : State) : Prop := s.commit = none ∧ s.log.cur = none ∧ s.rd Reg.SAFETY_FAULT_F 0 = 0
    ∧ ∀ x : Int, s.lastCommit = some x → x + (tenMin : Nat) ≤ s.tick
  let begun (s t : State) : Prop := t.on Reg.GAPCAL_STAT_COMMIT_BUSY 0 = true ∧ t.lastCommit = some (s.tick : Int) ∧ t.mram = s.mram
    ∧ ∃ c, t.commit = some c ∧ c.count = s.rd Reg.GAPCAL_COMMIT_N_N 0 + 1 ∧ c.attempt = 1 ∧ c.tCommit = s.stamp
        ∧ ∀ ch, ch < 192 → nth c.vals ch ([], [], 0) = ((s.chan ch).hOff, (s.chan ch).hGain, (s.chan ch).hSkew)
  (∀ (src : Source) (s : State), 3 ≤ s.mode → s.mode ≠ 7 → s.classOpen .calibration = true →
    (mayBegin s → ∃ t, exec (.gapcalCmdCommit src) s = .next t ∧ t.acc = .ok ∧ begun s t)
    ∧ (¬ mayBegin s → ∃ t, exec (.gapcalCmdCommit src) s = .next t ∧ t.acc = .ok ∧ t.commit = s.commit
        ∧ t.on Reg.GAPCAL_STAT_COMMIT_WAIT 0 = true))
  ∧ (∀ (src : Source) (s : State), 3 ≤ s.mode → s.mode ≠ 7 → s.classOpen .calibration = false →
    ∃ t, exec (.gapcalCmdCommit src) s = .next t ∧ t.acc = .locked ∧ t.commit = s.commit ∧ ∀ a, t.reg a = s.reg a)
  ∧ (∀ (s : State), let hours := s.rd Reg.GAPCAL_AUTO_HOURS 0
    let due := hours ≠ 0 ∧ (s.lastCommit.getD 0).toNat + hours * (6 * tenMin) ≤ s.tick ∧ mayBegin s
    (due → ∃ t, exec .autoCommit s = .next t ∧ begun s t) ∧ (¬ due → exec .autoCommit s = .next s))
  ∧ (∀ (a b pa pb : Bool) (s : State) (c : Commit2), s.commit = some c →
    let ok := a && b && pa && pb
    let cal := CalCopy.written c.count c.tCommit c.vals
    let pc := PcCopy.written c.pcCount c.tCommit c.cals (s.pc 0).rint (s.pc 0).kref
    ∃ t, exec (.commitAttemptEnd a b pa pb) s = .next t
      ∧ (a = true → t.mram.cal0 = cal) ∧ (b = true → t.mram.cal1 = cal) ∧ (pa = true → t.mram.pc0 = pc) ∧ (pb = true → t.mram.pc1 = pc)
      ∧ (a = false → t.mram.cal0.valid = false) ∧ (b = false → t.mram.cal1.valid = false)
      ∧ (pa = false → t.mram.pc0.valid = false) ∧ (pb = false → t.mram.pc1.valid = false)
      ∧ (ok = false → c.attempt = 1 → t.commit = some { c with attempt := 2 } ∧ t.regs = s.regs)
      ∧ (ok = true ∨ c.attempt ≠ 1 → t.commit = none ∧ t.on Reg.GAPCAL_STAT_COMMIT_BUSY 0 = false
          ∧ t.rd Reg.GAPCAL_COMMIT_N_N 0 = c.count % 2 ^ 32
          ∧ t.on Reg.GAPCAL_STAT_COMMIT_FAIL 0 = (s.on Reg.GAPCAL_STAT_COMMIT_FAIL 0 || !ok)))
  ∧ (∀ (a b pa pb : Bool) (s : State), s.commit = none → exec (.commitAttemptEnd a b pa pb) s = .next s)
  ∧ ∀ (src : Source) (w : BitVec 2) (v : Word) (s : State), 3 ≤ s.mode → s.mode ≠ 7 → s.classOpen .calibration = true → w ≠ 3 →
    (∀ a, s.notLate src a) →
    let ch := s.rd Reg.GAPCAL_VSEL_CHAN 0
    let code := Min.min 12 (s.rd Reg.GAPCAL_VSEL_CODE 0)
    ch < 192 → s.rd Reg.FC_HITCH_ROLE ch ≠ 8 → (s.chan ch).hOff.length = 13 → (s.chan ch).wOff.length = 13 → s.boot.startCal = none →
    (∀ i x, s.strandOf ch = some i → (s.strand i).gapRun = some x → s.tick < s.gapCommitAt i x) →
    ∃ t, exec (.calHeldWrite src w v) s = .next t ∧ t.acc = .ok
      ∧ (w = 0 → nth (t.chan ch).hOff code 0 = wrapInt 16 v.toNat) ∧ (w = 2 → (t.chan ch).hSkew = wrapInt 16 v.toNat)
      ∧ (w = 1 → (t.chan ch).hGain = (s.chan ch).hGain.set code (wrapInt 24 v.toNat))
      ∧ (w = 0 → (∀ i, s.strandOf ch = some i → s.runs i = false) → (s.chan ch).deferred = [] →
          (t.chan ch).wOff = (s.chan ch).wOff.set code (wrapInt 16 v.toNat))
      ∧ (∀ i, s.strandOf ch = some i → s.runs i = true → (t.chan ch).wOff = (s.chan ch).wOff
          ∧ (t.chan ch).wGain = (s.chan ch).wGain ∧ (t.chan ch).wSkew = (s.chan ch).wSkew)
      ∧ ∀ e, e ≠ ch → t.chan e = s.chan e

/-- A sampling tick (R6, R8, R59, R65): the islands count one tick and lanyard time goes on by one tick where it runs; before BOOT nothing moves. The converter's
code is the one nearest the input, held to 16 bits, and the corrected sample is the nearest of (16 code − offset) × (1 + gain × 2⁻²⁴) ÷ 16. A channel
that has settled is READY when it is ON. -/
def Obligations.SampleTick : Prop :=
  (∀ (xs : List ChanIn) (s : State), 3 ≤ s.mode → ∃ t, exec (.sampleTick xs) s = .next t ∧ t.tick = s.tick + 1
    ∧ (t.on Reg.LANYARD_STAT_RUNNING 0 = true → t.lany = s.lany + 256)
    ∧ (t.on Reg.LANYARD_STAT_RUNNING 0 = false → t.lany = s.lany) ∧ t.cores = s.cores)
  ∧ (∀ (xs : List ChanIn) (s : State), s.mode < 3 → exec (.sampleTick xs) s = .next s)
  ∧ (∀ v : Int, let q := codeOf v
    q ≤ 32767 ∧ -32768 ≤ q ∧ (-32768 < q → q < 32767 → |q * 1000000000000 - 32768 * v| * 2 ≤ 1000000000000)
      ∧ (q = 32767 → 32767 * 1000000000000 - 500000000000 ≤ 32768 * v)
      ∧ (q = -32768 → 32768 * v ≤ -32768 * 1000000000000 + 500000000000))
  ∧ (∀ code off gain : Int, let y := corrected code off gain false
    |y * 2 ^ 28 - (16 * code - off) * (2 ^ 24 + gain)| * 2 ≤ 2 ^ 28 ∧ corrected code off gain true = -y)
  ∧ (∀ (ch : ChanId) (x : Nat) (s : State), (s.chan ch).settleAt = some x → x ≤ s.tick →
    ∃ t, exec (.channelReady ch) s = .next t ∧ (t.chan ch).settleAt = none
      ∧ t.on Reg.FC_STAT_READY ch = (s.on Reg.FC_STAT_READY ch || decide (s.rd Reg.FC_STAT_PSTATE ch = 3))
      ∧ ∀ a, a ≠ Reg.FC_STAT_READY.addr ch → t.reg a = s.reg a)
  ∧ ∀ (ch : ChanId) (s : State), (∀ x, (s.chan ch).settleAt = some x → s.tick < x) → exec (.channelReady ch) s = .next s

/-! ### Precision channels -/

/-- A filter boundary of a precision channel (R195, R206 to R208, R214, R218). Where it ends a discard period only the count of discards moves. Where it is a
conversion boundary it is counted and stamped with lanyard time, the settings written before its clock come into force, and EXC_PEND clears unless a write of this clock waits (R28). XE of the result is the nearest value of the chain of corrections (R214), held to ±(2³¹ − 1), and a result without a mark that makes it invalid stands in PC_RES and PC_RESE.
The records gathered leave in one message of 8 + 24 bytes each (R228). -/
def Obligations.FilterBoundaries : Prop :=
  let live (s : State) : Prop := 4 ≤ s.mode ∧ s.mode ≠ 7
  (∀ (c : PcId) (x : PcIn) (s : State), ¬ live s → exec (.filterBoundary c x) s = .next s)
  ∧ (∀ (c : PcId) (x : PcIn) (s : State), live s → (s.pc c).type ≠ 0 → s.on Reg.PC_CSTAT_ICAL_BUSY c = false → 0 < (s.pc c).discard →
    ∃ t, exec (.filterBoundary c x) s = .next t ∧ (t.pc c).discard = (s.pc c).discard - 1
      ∧ t.on Reg.PC_BSTAT_DISCARD c = decide (1 < (s.pc c).discard) ∧ t.pcq = s.pcq
      ∧ ∀ a, a ≠ Reg.PC_BSTAT_DISCARD.addr c → t.reg a = s.reg a)
  ∧ (∀ (c : PcId) (x : PcIn) (s : State), live s →
    (s.pc c).type = 0 ∨ (s.on Reg.PC_CSTAT_ICAL_BUSY c = false ∧ (s.pc c).discard = 0) →
    ∃ t, exec (.filterBoundary c x) s = .next t ∧ t.rd Reg.PC_BSTAT_BCNT c = (s.rd Reg.PC_BSTAT_BCNT c + 1) % 65536
      ∧ t.pair Reg.PC_BTIME_LO_T c = s.lany ∧ (t.pc c).force = monSettings (s.old.pcWritten c) (s.pc c).force
      ∧ t.on Reg.PC_BSTAT_EXC_PEND c = decide ((s.pc c).wroteAt = some s.tick)
      ∧ (∀ d : Nat, d ≠ c → t.pc d = s.pc d)
      ∧ ((s.pc c).type ≠ 0 → (s.pc c).convSns = false → (s.pc c).convClamp = false → x.ovr = false → (s.pc c).diagNow = false →
          (s.pc c).sel ≠ 8 → (s.pc c).sel ≠ 9 →
          let y := s.xe c (s.pcRaw c x)
          t.rd Reg.PC_RES_X c = (BitVec.ofInt 24 (xOf y)).toNat ∧ t.rd Reg.PC_RESE_XE c = (BitVec.ofInt 32 y).toNat
            ∧ (t.pc c).lastX = some (xOf y)))
  ∧ (∀ s : State, s.pcq ≠ [] → ∃ t m, exec .pcvalTimeout s = .next t ∧ t.pcq = [] ∧ t.link.txq = s.link.txq ++ [m] ∧ m.ty = 6
      ∧ m.size = 8 + 24 * s.pcq.length ∧ t.regs = s.regs)
  ∧ (∀ s : State, s.pcq = [] → exec .pcvalTimeout s = .next s)
  ∧ ∀ (s : State) (c : Nat) (raw : Int), let y := s.xe c raw
    let off := nth (s.pc c).cal.off (s.pc c).gain 0
    let g := 2 ^ 24 + nth (s.pc c).cal.gain (s.pc c).gain 0
    let lim : Int := 2 ^ 31 - 1
    y ≤ lim ∧ -lim ≤ y ∧ -(2 ^ 23) ≤ xOf y ∧ xOf y ≤ 2 ^ 23 - 1 ∧ (xOf y < 2 ^ 23 - 1 → |256 * xOf y - y| * 2 ≤ 256)
      ∧ ((s.pc c).sel ≠ 0 → -lim < y → y < lim → |y * 2 ^ 24 - (raw - off) * g| * 2 ≤ 2 ^ 24)
      ∧ ((s.pc c).sel = 0 → -lim < y → y < lim →
          |y * 2 ^ 48 - ((raw - off) * g - s.rdInt Reg.PC_SYSOFF_X c * 2 ^ 32) * (2 ^ 24 + s.rdInt Reg.PC_SYSGAIN_G c)| * 2 ≤ 2 ^ 48)

/-- The monitors and clamps of a precision pin (R191, R193, R196, R199, R201 to R203): under SLIM and CLWIN as written before its clock, a sample shows ILIM and COMPL, counts consecutive bad
samples and raises OPEN, SHORT and SNS_FAULT at their limits of 64, 64 and 8. A pin that goes outside its clamp window by more than the 0.05 V its thresholds may err sets its CLAMP_NOW
and CLAMP bits and marks the conversion; one inside by as much has no clamp that conducts, and CLAMP_NOW alone clears. -/
def Obligations.PinMonitors : Prop :=
  (∀ (c : PcId) (m : PcMon) (s : State), 4 ≤ s.mode → s.mode ≠ 7 → (s.pc c).type ≠ 0 →
    let r : PcRt := { s.pc c with force := monSettings (s.pc c).force (s.old.pcWritten c) }
    let limit := nth [50000000, 100000000, 200000000, 300000000] (s.old.rd Reg.PC_EXC_SLIM c) 300000000
    let reach : Int := if s.old.rd Reg.PC_CONN_CLWIN c = 1 then 3300000000 else 5000000000
    let out (b : Bool) (v : Int) : Prop := r.fedCode b ≠ 0 ∧ (v < 200000000 ∨ reach < v)
    let sns : Prop := senseType r.type = true ∧ (limit < |m.pins.excP - m.pins.snsP| ∨ limit < |m.pins.excN - m.pins.snsN|)
    ∃ t, exec (.pcMonitorSample [(c, m)]) s = .next t ∧ t.on Reg.PC_FSTAT_ILIM c = m.ilim
      ∧ (t.on Reg.PC_FSTAT_COMPL c = true ↔ out false m.pins.iexA ∨ out true m.pins.iexB)
      ∧ (r.openBadSample m = true → 63 ≤ r.openBad → t.on Reg.PC_FSTAT_OPEN c = true)
      ∧ (r.openBadSample m = false → (t.pc c).openBad = 0 ∧ (¬ sns → t.on Reg.PC_FSTAT_OPEN c = s.on Reg.PC_FSTAT_OPEN c))
      ∧ (r.shortBadSample m = true → 63 ≤ r.shortBad → t.on Reg.PC_FSTAT_SHORT c = true)
      ∧ (r.shortBadSample m = false → t.on Reg.PC_FSTAT_SHORT c = s.on Reg.PC_FSTAT_SHORT c)
      ∧ (sns → 7 ≤ r.snsBad → t.on Reg.PC_FSTAT_SNS_FAULT c = true
          ∧ (r.snsBad = 7 → s.on Reg.PC_FSTAT_SNS_FAULT c = false → r.get 0 Reg.PC_EXC_FBEN = 0 → t.on Reg.PC_FSTAT_OPEN c = true))
      ∧ (¬ sns → (t.pc c).snsBad = 0 ∧ t.on Reg.PC_FSTAT_SNS_FAULT c = s.on Reg.PC_FSTAT_SNS_FAULT c)
      ∧ (t.pc c).force = r.force ∧ ∀ d : Nat, d ≠ c → t.pc d = s.pc d)
  ∧ (∀ s : State, exec (.pcMonitorSample []) s = .next s)
  ∧ (∀ (c : PcId) (m : PcMon) (s : State), s.mode < 4 ∨ s.mode = 7 ∨ (s.pc c).type = 0 →
    ∃ t, exec (.pcMonitorSample [(c, m)]) s = .next t ∧ t.on Reg.PC_FSTAT_ILIM c = false ∧ t.on Reg.PC_FSTAT_COMPL c = false
      ∧ (t.pc c).force = monSettings (s.pc c).force (s.old.pcWritten c) ∧ (t.pc c).openBad = 0 ∧ (t.pc c).shortBad = 0 ∧ (t.pc c).snsBad = 0
      ∧ (∀ d : Nat, d ≠ c → t.pc d = s.pc d) ∧ (∀ a, a ≠ Reg.PC_FSTAT_ILIM.addr c → t.reg a = s.reg a)
      ∧ { t with regs := s.regs, pcs := s.pcs } = s)
  ∧ ∀ (c : PcId) (pin : BitVec 3) (v : Int) (s : State),
    let high : Int := if (s.pc c).get 2 Reg.PC_CONN_CLWIN = 1 then 3600000000 else 6300000000
    let only (t : State) : Prop := (∀ k, k < 8 → k ≠ pin.toNat → t.bit Reg.PC_FSTAT_CLAMP_NOW c k = s.bit Reg.PC_FSTAT_CLAMP_NOW c k)
      ∧ ∀ a, a ≠ Reg.PC_FSTAT_CLAMP.addr c → t.reg a = s.reg a
    (v < -350000000 ∨ high + 50000000 < v →
      (∃ t, exec (.clamp c ⟨pin, v⟩) s = .next t ∧ t.bit Reg.PC_FSTAT_CLAMP_NOW c pin.toNat = true ∧ t.bit Reg.PC_FSTAT_CLAMP c pin.toNat = true
        ∧ (t.pc c).convClamp = true ∧ only t) ∧ exec (.clampEnd c ⟨pin, v⟩) s = .next s)
    ∧ (-250000000 ≤ v → v ≤ high - 50000000 → exec (.clamp c ⟨pin, v⟩) s = .next s
      ∧ ∃ t, exec (.clampEnd c ⟨pin, v⟩) s = .next t ∧ t.bit Reg.PC_FSTAT_CLAMP_NOW c pin.toNat = false
          ∧ t.rd Reg.PC_FSTAT_CLAMP c = s.rd Reg.PC_FSTAT_CLAMP c ∧ only t ∧ { t with regs := s.regs } = s)

/-- The commands of a precision channel (R219, R220, R224 to R226). IMM in manual mode puts every written setting in force and ends the running conversion as a result marked
ABORTED_EXC; in the clock of a conversion boundary, which has completed its conversion, it cuts none and acts as a deferred write of that boundary; in sequence mode the write waits. ICAL starts an
internal calibration; at its end each value within Table 9.5 is taken and any other is kept as it was and sets ICAL_REJ. SYSZ and SYSS start a collection and SYSCLR asks for zeros, with
the lock open; with it closed they do nothing and are answered LOCKED. -/
def Obligations.PrecisionCommands : Prop :=
  let up (s : State) : Prop := 3 ≤ s.mode ∧ s.mode ≠ 7
  let same (c : PcId) (s t : State) : Prop := (t.pc c).sys = (s.pc c).sys ∧ (t.pc c).sysNew = (s.pc c).sysNew
    ∧ (∀ d : Nat, d ≠ c → t.pc d = s.pc d) ∧ t.acc = .locked ∧ ∀ a, t.reg a = s.reg a
  (∀ (src : Source) (c : PcId) (v : Word) (s : State), up s →
    ∃ t, exec (.pcExcImm src c v) s = .next t ∧ t.acc = .ok
      ∧ (s.pcWas.find c = none → (s.pc c).get 5 Reg.PC_SEQ_MODE = 1 → (t.pc c).force = (s.pc c).force ∧ t.on Reg.PC_BSTAT_EXC_PEND c = true)
      ∧ (s.pcWas.find c = none → (s.pc c).get 5 Reg.PC_SEQ_MODE = 0 → (t.pc c).force = t.pcWritten c ∧ t.on Reg.PC_BSTAT_EXC_PEND c = false
          ∧ (4 ≤ s.mode → (s.pc c).type ≠ 0 → s.on Reg.PC_CSTAT_ICAL_BUSY c = false → t.on Reg.PC_CSTAT_ABX_SEEN c = true))
      ∧ ∀ w, s.pcWas.find c = some w → t.on Reg.PC_CSTAT_ABX_SEEN c = s.on Reg.PC_CSTAT_ABX_SEEN c ∧ t.pcq = s.pcq
          ∧ (w.rt.get 5 Reg.PC_SEQ_MODE = 0 →
              (t.pc c).force = monSettings ((s.old.pcWritten c).set 0 (t.reg (Reg.PC_EXC_VEXC.addr c))) w.rt.force))
  ∧ (∀ (src : Source) (c : PcId) (s : State), up s →
    ∃ t, exec (.pcCmdIcal src c) s = .next t ∧ t.acc = .ok ∧ t.on Reg.PC_CSTAT_ICAL_BUSY c = true ∧ t.pc c = { s.pc c with pair0 := none }
      ∧ (∀ d : Nat, d ≠ c → t.pc d = s.pc d) ∧ ∀ a, a ≠ Reg.PC_CSTAT_ICAL_BUSY.addr c → t.reg a = s.reg a)
  ∧ (∀ (c : PcId) (x : IcalIn) (s : State), s.on Reg.PC_CSTAT_ICAL_BUSY c = false → exec (.icalEnd c x) s = .next s)
  ∧ (∀ (c : PcId) (x : IcalIn) (s : State), s.on Reg.PC_CSTAT_ICAL_BUSY c = true → (s.pc c).cal.off.length = 8 →
    (s.pc c).cal.gain.length = 8 → x.off.length = 8 → x.gain.length = 8 →
    ∃ t, exec (.icalEnd c x) s = .next t ∧ t.on Reg.PC_CSTAT_ICAL_BUSY c = false ∧ (t.pc c).discard = discards (s.pc c).fmode
      ∧ (∀ g, g < 8 →
          let old := nth (s.pc c).cal.off g 0
          let new := nth x.off g 0
          let ok : Prop := |new| * 2 ^ g * 1000 ≤ 2 ^ 31 ∧ |new - old| * 2 ^ g * 5000 ≤ 2 ^ 31
          (ok → nth (t.pc c).cal.off g 0 = new)
            ∧ (¬ ok → nth (t.pc c).cal.off g 0 = old ∧ t.on Reg.PC_CSTAT_ICAL_REJ c = true))
      ∧ ∀ g, g < 8 →
          let old := nth (s.pc c).cal.gain g 0
          let new := nth x.gain g 0
          let ok : Prop := |new| * 200 ≤ 2 ^ 24 ∧ |new - old| * 2000 ≤ 2 ^ 24
          (ok → nth (t.pc c).cal.gain g 0 = new)
            ∧ (¬ ok → nth (t.pc c).cal.gain g 0 = old ∧ t.on Reg.PC_CSTAT_ICAL_REJ c = true))
  ∧ (∀ (src : Source) (c : PcId) (s : State), up s → s.classOpen .calibration = true →
    (∃ t, exec (.pcCmdSysz src c) s = .next t ∧ t.acc = .ok ∧ t.on Reg.PC_CSTAT_SYS_BUSY c = true ∧ (t.pc c).sys = some (false, 0, 0))
    ∧ (∃ t, exec (.pcCmdSyss src c) s = .next t ∧ t.acc = .ok ∧ t.on Reg.PC_CSTAT_SYS_BUSY c = true ∧ (t.pc c).sys = some (true, 0, 0))
    ∧ ∃ t, exec (.pcCmdSysclr src c) s = .next t ∧ t.acc = .ok ∧ (t.pc c).sysNew = some (0, 0))
  ∧ ∀ (src : Source) (c : PcId) (s : State), up s → s.classOpen .calibration = false →
    (∃ t, exec (.pcCmdSysz src c) s = .next t ∧ same c s t) ∧ (∃ t, exec (.pcCmdSyss src c) s = .next t ∧ same c s t)
    ∧ ∃ t, exec (.pcCmdSysclr src c) s = .next t ∧ same c s t

/-! ### Window monitors -/

/-- A window monitor (R232, R236, R239, R240). It starts when its amplifier is ready, with its latch, CAPV and INIT cleared; its first decision is the majority of M decisions, a tie
deciding 0, and makes no edge; a strobe begins its period after the last one with an empty window; at its last tick each filtered state changes when at least N decisions of the
strobe stand against it, and only then waits an edge. -/
def Obligations.WindowMonitor : Prop :=
  (∀ (ch : ChanId) (s : State), s.on Reg.WMON_CTRL_EN ch = true → (s.chan ch).mon = .wait → s.monPgaReady ch = true →
    ∃ t, exec (.monitorStart ch) s = .next t ∧ (t.chan ch).mon = .first ∧ t.rd Reg.WMON_STAT_LATCH ch = 0
      ∧ t.on Reg.WMON_STAT_CAPV ch = false ∧ t.on Reg.WMON_STAT_INIT ch = false ∧ (∀ d : Nat, d ≠ ch → t.chan d = s.chan d)
      ∧ ∀ a, a ≠ Reg.WMON_STAT_LATCH.addr ch → t.reg a = s.reg a)
  ∧ (∀ (ch : ChanId) (s : State), s.on Reg.WMON_CTRL_EN ch = false ∨ (s.chan ch).mon ≠ .wait ∨ s.monPgaReady ch = false →
    exec (.monitorStart ch) s = .next s)
  ∧ (∀ (ch : ChanId) (s : State), s.on Reg.WMON_CTRL_EN ch = true → (s.chan ch).mon = .first → s.rd Reg.WMON_CTRL_MODE ch ≠ 3 →
    s.monM ch ≤ (s.chan ch).upper.win.length →
    ∃ t, exec (.monitorFirstDecision ch) s = .next t ∧ (t.chan ch).mon = .on ∧ t.on Reg.WMON_STAT_INIT ch = true
      ∧ ((t.chan ch).upper.f = true ↔ s.monM ch < 2 * ((s.chan ch).upper.win.map (·.2)).count true)
      ∧ ((t.chan ch).lower.f = true ↔ s.monM ch < 2 * ((s.chan ch).lower.win.map (·.2)).count true)
      ∧ (t.chan ch).edges = (s.chan ch).edges ∧ t.rd Reg.WMON_STAT_LATCH ch = s.rd Reg.WMON_STAT_LATCH ch)
  ∧ (∀ (ch : ChanId) (s : State), s.on Reg.WMON_CTRL_EN ch = false ∨ (s.chan ch).mon ≠ .first → exec (.monitorFirstDecision ch) s = .next s)
  ∧ (∀ (ch : ChanId) (s : State) (t0 : Nat), s.on Reg.WMON_CTRL_EN ch = true → s.rd Reg.WMON_CTRL_MODE ch = 3 → (s.chan ch).mon = .on →
    (s.inWatch = true → s.rd Reg.FC_CTRL_PWR ch ≠ 2) → (s.inWatch = false → 2 ≤ s.rd Reg.FC_STAT_PSTATE ch) → (s.chan ch).strobe = none → (s.chan ch).lastStrobe = some t0 →
    (t0 + 2 ^ Min.min 10 (s.rd Reg.WMON_CTRL_SPER ch) * 20000 ≤ s.tick →
      ∃ t, exec (.monitorStrobeStart ch) s = .next t ∧ (t.chan ch).strobe = some s.tick ∧ (t.chan ch).upper.win = []
        ∧ (t.chan ch).lower.win = [] ∧ (t.chan ch).upper.f = (s.chan ch).upper.f ∧ t.regs = s.regs)
    ∧ (s.tick < t0 + 2 ^ Min.min 10 (s.rd Reg.WMON_CTRL_SPER ch) * 20000 → exec (.monitorStrobeStart ch) s = .next s))
  ∧ (∀ (ch : ChanId) (s : State) (t0 : Nat), (s.chan ch).strobe = some t0 → (s.chan ch).mon = .on →
    (t0 + 2000 + s.monM ch ≤ s.tick →
      let n := s.monN ch
      ∃ t, exec (.monitorStrobeEnd ch) s = .next t ∧ (t.chan ch).strobe = none ∧ t.regs = s.regs
        ∧ (t.chan ch).upper.f = (if (s.chan ch).upper.f then !decide (n ≤ ((s.chan ch).upper.win.map (·.2)).count false)
            else decide (n ≤ ((s.chan ch).upper.win.map (·.2)).count true))
        ∧ (t.chan ch).lower.f = (if (s.chan ch).lower.f then !decide (n ≤ ((s.chan ch).lower.win.map (·.2)).count false)
            else decide (n ≤ ((s.chan ch).lower.win.map (·.2)).count true))
        ∧ ((t.chan ch).upper.f = (s.chan ch).upper.f → (t.chan ch).lower.f = (s.chan ch).lower.f →
            (t.chan ch).edges = (s.chan ch).edges))
    ∧ (s.tick < t0 + 2000 + s.monM ch → exec (.monitorStrobeEnd ch) s = .next s))
  ∧ ∀ (s : State) (ch : Nat), 1 ≤ s.monN ch ∧ s.monN ch ≤ s.monM ch ∧ s.monM ch ≤ 16 ∧ s.monM ch < 2 * s.monN ch

/-- The routes of an edge (R242, R244 to R246, R248). Four ticks after its tick the oldest edge that waits is taken; one whose type is not selected has no effect; a selected one, under WMON_ROUTE as its tick had it (R249), sets its
latch bit and no other, is captured while CAPV is 0 and then only, joins the event queue when its route and the rate limit allow, and asks for a wake in WATCH alone. An EVENT
message leaves with the oldest records, at most 90. -/
def Obligations.MonitorEdges : Prop :=
  (∀ (ch : ChanId) (s : State) (x : MonEdge) (rest : List MonEdge), (s.chan ch).edges = x :: rest → x.tick + 4 ≤ s.tick → x.kind < 4 →
    let has (f : Field) : Prop := f.read x.route = 1
    let chosen : Prop := Reg.WMON_ROUTE_EDGES.read x.route / 2 ^ x.kind % 2 = 1
    let gap := 2 ^ Reg.WMON_ROUTE_EVRL.read x.route * 200
    ∃ t, exec (.monitorEdge ch) s = .next t ∧ (t.chan ch).edges = rest
      ∧ (¬ chosen → t.regs = s.regs ∧ t.monq = s.monq ∧ t.link = s.link ∧ t.boot = s.boot)
      ∧ (chosen →
          (∀ j, j < 4 → t.bit Reg.WMON_STAT_LATCH ch j = (s.bit Reg.WMON_STAT_LATCH ch j || decide (j = x.kind)))
          ∧ (has Reg.WMON_ROUTE_CAP → s.on Reg.WMON_STAT_CAPV ch = false →
              t.on Reg.WMON_STAT_CAPV ch = true ∧ t.rd Reg.WMON_STAT_CEDGE ch = x.kind ∧ t.rd Reg.WMON_STAT_CAPT ch = s.captOf ch x.tick)
          ∧ (¬ has Reg.WMON_ROUTE_CAP ∨ s.on Reg.WMON_STAT_CAPV ch = true →
              t.on Reg.WMON_STAT_CAPV ch = s.on Reg.WMON_STAT_CAPV ch ∧ t.rd Reg.WMON_STAT_CAPT ch = s.rd Reg.WMON_STAT_CAPT ch)
          ∧ (¬ has Reg.WMON_ROUTE_EVT → t.monq = s.monq)
          ∧ (∀ y, has Reg.WMON_ROUTE_EVT → (s.chan ch).evTick = some y →
              (x.tick < y + gap → t.monq = s.monq ∧ (t.chan ch).supp = Min.min 255 ((s.chan ch).supp + 1))
              ∧ (y + gap ≤ x.tick → (t.chan ch).evTick = some x.tick ∧ (t.chan ch).supp = 0
                  ∧ (s.monq.length < 89 → ∃ r : MonRec, t.monq = s.monq ++ [r] ∧ r.chan = ch.val ∧ r.supp = (s.chan ch).supp
                      ∧ r.capt = s.captOf ch x.tick)))
          ∧ (s.mode ≠ 7 → t.on Reg.WMON_WAKE_VALID 0 = s.on Reg.WMON_WAKE_VALID 0)
          ∧ (s.mode = 7 → has Reg.WMON_ROUTE_WAKE → s.rd Reg.WMON_CTRL_MODE ch = 3 → t.on Reg.WMON_WAKE_VALID 0 = true)))
  ∧ (∀ (ch : ChanId) (s : State), (∀ x ∈ (s.chan ch).edges.head?, s.tick < x.tick + 4) → exec (.monitorEdge ch) s = .next s)
  ∧ (∀ s : State, s.monq ≠ [] → s.eventWaits = false →
    ∃ t, exec .eventMessageTimeout s = .next t ∧ t.monq = s.monq.drop 90 ∧ t.bit Reg.HOSTLINK_EVT_PEND 0 0 = true
      ∧ t.link.txq.length = s.link.txq.length + 1)
  ∧ ∀ s : State, s.monq = [] → exec .eventMessageTimeout s = .next s

/-! ### Tilvar commands -/

/-- What happens to a Tilvar command as it arrives (R326, R330, R341). With the link down it does not arrive. One that finds the receive buffer full, fails a test of R321, R324 or R326, is not from the session's host
in the open session, or whose SEQ is neither the next nor one of the 256 before it, is discarded and counted. One of those 256 is answered again from the cache and not carried out. Codewords of the RS-FEC are counted with the frame (R348). -/
def Obligations.CommandIntake : Prop :=
  ∀ (h : RxHead) (mac : BitVec 48) (ip : Word) (port : Half) (session origin : Byte) (seq : Word) (p data : List Byte) (len : Half) (ty : Byte) (s : State),
    let v : Via := .host h mac ip port session origin seq
    let dest : To := .host mac ip port
    let counted := s.fecCount h.fecCe h.fecUe
    let next := s.rd Reg.HOSTLINK_CMDSEQ_SEQ 0
    let back := (next + 2 ^ 32 - seq.toNat) % 2 ^ 32
    let mine : Prop := s.session ≠ 0 ∧ session.toNat = s.session ∧ s.sessionHost = dest
    let dropped (t : State) : Prop :=
      t.rd Reg.HOSTLINK_RXDROP_N 0 = Min.min (s.rd Reg.HOSTLINK_RXDROP_N 0 + 1) (2 ^ 32 - 1)
        ∧ (∀ a, a ≠ Reg.HOSTLINK_RXDROP_N.addr 0 → t.reg a = counted.reg a) ∧ { t with regs := s.regs } = s
    (ty.toNat < 0x40 ∨ 0x4A < ty.toNat) →
    ∀ x ∈ (.fence v p, 0x44, p) :: plainCommands v p len data ty,
      (s.mode < 3 ∨ s.on Reg.HOSTLINK_STAT_LINK_UP 0 = false → exec x.1 s = .next s)
      ∧ (3 ≤ s.mode → s.on Reg.HOSTLINK_STAT_LINK_UP 0 = true →
          (65536 < s.rxFill + 24 + x.2.2.length ∨ ¬ s.admits h ∨ ¬ mine ∨ 256 < back → ∃ t, exec x.1 s = .next t ∧ dropped t)
          ∧ (s.rxFill + 24 + x.2.2.length ≤ 65536 → s.admits h → mine → 1 ≤ back → back ≤ 256 →
              (s.link.cache.find? (fun r => decide (r.seq = seq.toNat)) = none → exec x.1 s = .next counted)
              ∧ ∀ r, s.link.cache.find? (fun r => decide (r.seq = seq.toNat)) = some r →
                  ∃ t, exec x.1 s = .next t ∧ t.link.replies = s.link.replies ++ [{ r with retx := true, keep := false, ends := false }]
                    ∧ t.regs = counted.regs))

/-- The next command in order is carried out and answered (R326, R330, R331): its SEQ is consumed, it has the effect of its TYPE, and its response, which carries its SEQ and
ORIGIN, joins class 1. FENCE waits for its answer and then answers OK. On the UART a frame is answered on the line, LOCKED when the lock closes the UART class. -/
def Obligations.CommandExecution : Prop :=
  (∀ (h : RxHead) (mac : BitVec 48) (ip : Word) (port : Half) (session origin : Byte) (seq : Word) (p data : List Byte) (len : Half) (ty : Byte)
      (s u : State) (b : List Byte), let v : Via := .host h mac ip port session origin seq
    let dest : To := .host mac ip port
    (ty.toNat < 0x40 ∨ 0x4A < ty.toNat) →
    ∀ x ∈ plainCommands v p len data ty, s.nextInOrder h mac ip port session origin seq x.2.2.length →
      let w := (s.fecCount h.fecCe h.fecUe).taking dest origin.toNat seq.toNat x.2.1 x.2.2
      State.command .host s.session x.2.1 x.2.2 w = (b, u) →
      ∃ t, exec x.1 s = .next t ∧ (∀ a, a ≠ Reg.HOSTLINK_STAT_RXFULL.addr 0 → t.reg a = u.reg a)
        ∧ { t with regs := u.regs, link := u.link } = u ∧ t.link.txq = u.link.txq
        ∧ (u.link.slots = w.link.slots →
            t.link.slots = [] ∧ t.link.replies = u.link.replies
              ++ [⟨dest, origin.toNat, u.session, seq.toNat, b, false, none, decide (x.2.1 = 0x41 ∧ b.head? = some 0), true⟩]))
  ∧ (∀ (h : RxHead) (mac : BitVec 48) (ip : Word) (port : Half) (session origin : Byte) (seq : Word) (s : State),
    s.nextInOrder h mac ip port session origin seq 0 →
    ∃ t u, exec (.fence (.host h mac ip port session origin seq) []) s = .next t ∧ t.link.fence = true ∧ t.link.replies = s.link.replies
      ∧ exec (.fenceAnswer .host) t = .next u ∧ u.link.fence = false
      ∧ u.link.replies = s.link.replies ++ [⟨.host mac ip port, origin.toNat, s.session, seq.toNat, respCode 0 0x44 [], false, none, false, true⟩]
      ∧ u.rd Reg.HOSTLINK_CMDSEQ_SEQ 0 = (seq.toNat + 1) % 2 ^ 32)
  ∧ (∀ s : State, s.link.fence = false → exec (.fenceAnswer .host) s = .next s)
  ∧ ∀ (tag : Byte) (p data : List Byte) (len : Half) (ty : Byte) (s : State), 3 ≤ s.mode → s.link.uartq = [] → s.link.uartFence = none →
    ∀ x ∈ plainCommands (.uart tag) p len data ty, x.2.2.length ≤ 1448 →
      (x.2.1 = 0x49 ∨ (s.classOpen .uart = true ∧ (x.2.1 = 0x42 ∨ x.2.1 = 0x43 ∨ x.2.1 = 0x47)) →
        ∀ b u, State.command .uart 0 x.2.1 x.2.2 s = (b, u) →
        ∃ t, exec x.1 s = .next t ∧ t.link.wire = uartLine 0x80 tag.toNat b :: u.link.wire ∧ { t with link := u.link } = u)
      ∧ (x.2.1 ≠ 0x49 → x.2.1 ≠ 0x7F → s.classOpen .uart = false →
        ∃ t, exec x.1 s = .next t ∧ t.link.wire = uartLine 0x80 tag.toNat (respCode 1 x.2.1 []) :: s.link.wire ∧ { t with link := s.link } = s)

/-- What each command does and answers (R332, R334, R335, R386, R437, Table 14.8): KEEPALIVE and DISCONNECT change nothing themselves; a READ or WRITE outside its bounds is BAD_MSG and
one that is misaligned or leaves the register space is BAD_ADDR, with no access; a READ of one word returns it and a WRITE of one word writes it, each with its access code; NAK sends
again what is held and names what is gone; WAKE ends WATCH; ACK_DIVERGED needs the generation that diverged; a malformed payload and a reserved TYPE are BAD_MSG with no effect. -/
def Obligations.CommandEffects : Prop :=
  (∀ (src : Source) (n : Nat) (p : List Byte) (s : State), p ≠ [] → ∀ ty ∈ [0x41, 0x46, 0x47],
    s.command src n ty [] = (respCode 0 ty [], if ty = 0x46 then s.cmdWake else s) ∧ s.command src n ty p = (respCode 6 ty [], s))
  ∧ (∀ (src : Source) (n ty : Nat) (p : List Byte) (s : State), (∀ k, 0x41 ≤ k → k ≤ 0x4A → k ≠ 0x44 → ty ≠ k) → s.command src n ty p = (respCode 6 ty [], s))
  ∧ (∀ s : State, (s.mode = 7 → s.boot.waking = false → s.overruled 14 = false → s.cmdWake.boot.waking = true ∧ s.cmdWake.rd Reg.BOOT_STAT_WCAUSE 0 = 2)
      ∧ (s.mode ≠ 6 → s.mode ≠ 7 → s.mode ≠ 8 → s.cmdWake = s))
  ∧ (∀ (src : Source) (n : Nat) (a cnt mode r : Nat) (ws : List Byte) (s : State), a < 2 ^ 32 → cnt < 2 ^ 16 → mode < 2 ^ 8 → r < 2 ^ 8 →
    let head := leBytes 4 a ++ leBytes 2 cnt ++ leBytes 1 mode ++ leBytes 1 r
    let last := if mode = 0 then a + 4 * (cnt - 1) else a
    (cnt = 0 ∨ 288 < cnt ∨ 1 < mode ∨ ws ≠ [] → s.command src n 0x42 (head ++ ws) = (respCode 6 0x42 [], s))
    ∧ (cnt = 0 ∨ 360 < cnt ∨ 1 < mode ∨ ws.length ≠ 4 * cnt → s.command src n 0x43 (head ++ ws) = (respCode 6 0x43 [], s))
    ∧ (1 ≤ cnt → cnt ≤ 288 → mode ≤ 1 → a % 4 ≠ 0 ∨ 0x48000 ≤ last → s.command src n 0x42 head = (respCode 5 0x42 [], s))
    ∧ (1 ≤ cnt → cnt ≤ 360 → mode ≤ 1 → ws.length = 4 * cnt → a % 4 ≠ 0 ∨ 0x48000 ≤ last →
        s.command src n 0x43 (head ++ ws) = (respCode 5 0x43 [], s))
    ∧ (cnt = 1 → mode ≤ 1 → a % 4 = 0 → a < 0x48000 →
        let u := s.readReg src a
        s.command src n 0x42 head = (respPayload 0 0x42 1 [u.readVal] [accNumber u.acc] [], u))
    ∧ ∀ w : Word, cnt = 1 → mode ≤ 1 → a % 4 = 0 → a < 0x48000 → ws = leBytes 4 w.toNat →
        let u := s.writeReg src a w
        s.command src n 0x43 (head ++ ws) = (respPayload 0 0x43 1 [] [accNumber u.acc] [], u))
  ∧ (∀ (src : Source) (n first cnt : Nat) (s : State), first < 2 ^ 32 → cnt < 2 ^ 16 →
    let p := leBytes 4 first ++ leBytes 2 cnt ++ leBytes 2 0
    let next := s.rd Reg.HOSTLINK_TXSEQ_SEQ 0
    (cnt = 0 ∨ 256 < cnt ∨ (next < first + cnt ∧ s.link.held.find (2 ^ 32 - 1) = none) → s.command src n 0x45 p = (respCode 6 0x45 [], s))
    ∧ (1 ≤ cnt → cnt ≤ 256 → first + cnt ≤ next → (∀ q, first ≤ q → q < first + cnt → (s.link.held.find q).isSome) →
        ∃ u, s.command src n 0x45 p = (respCode 0 0x45 [], u) ∧ u.regs = s.regs ∧ u.link.retx.length = s.link.retx.length + cnt
          ∧ ∀ q d, first ≤ q → q < first + cnt → s.link.held.find q = some d → { d with flags := d.flags ||| 8 } ∈ u.link.retx)
    ∧ (1 ≤ cnt → cnt ≤ 256 → first + cnt ≤ next → (∀ q, first ≤ q → q < first + cnt → s.link.held.find q = none) →
        ∃ u, s.command src n 0x45 p = (respCode 8 0x45 (leBytes 4 first ++ leBytes 2 cnt), u) ∧ u.link = s.link
          ∧ u.rd Reg.HOSTLINK_GONE_N 0 = Min.min (s.rd Reg.HOSTLINK_GONE_N 0 + cnt) (2 ^ 32 - 1)))
  ∧ (∀ (src : Source) (n g : Nat) (s : State), g < 2 ^ 32 → let p := leBytes 4 g ++ leBytes 4 0
    (s.on Reg.BOOT_STAT_DIVERGED 0 = true → s.rd Reg.BOOT_GEN_GEN 0 = g →
      ∃ u, s.command src n 0x48 p = (respCode 0 0x48 [], u) ∧ u.on Reg.BOOT_STAT_DIV_ACK 0 = true
        ∧ (∀ a, a ≠ Reg.BOOT_STAT_DIV_ACK.addr 0 → u.reg a = s.reg a) ∧ { u with regs := s.regs } = s)
    ∧ (s.on Reg.BOOT_STAT_DIVERGED 0 = false ∨ s.rd Reg.BOOT_GEN_GEN 0 ≠ g → s.command src n 0x48 p = (respCode 6 0x48 [], s)))
  ∧ ∀ (src : Source) (n k cnt first : Nat) (s : State), k < 2 ^ 8 → cnt < 2 ^ 16 → first < 2 ^ 32 →
    let p := leBytes 1 k ++ leBytes 1 0 ++ leBytes 2 cnt ++ leBytes 4 first
    (4 < k ∨ cnt = 0 ∨ 4096 < cnt → s.command src n 0x4A p = (respCode 6 0x4A [], s))
    ∧ (k = 0 → 1 ≤ cnt → cnt ≤ 4096 → s.link.txq = [] →
        let rs := if first = 0xFFFFFFFF then (s.log.ring.take cnt).reverse
          else (s.log.ring.filter fun r => decide ((r.lseq + 2 ^ 32 - first) % 2 ^ 32 < cnt)).reverse
        ∃ u, s.command src n 0x4A p = (respCode 0 0x4A [], u) ∧ u.regs = s.regs
          ∧ u.link.txq = [⟨8, s.rd Reg.HAWSER_POS_POS 0, .own (leBytes 2 1 ++ leBytes 1 0 ++ leBytes 1 1 ++ leBytes 2 rs.length
              ++ leBytes 2 (if rs.length < cnt then 1 else 0) ++ leBytes 32 0 ++ rs.flatMap LogRec.bytes), 0, none⟩])

/-- The maintenance lock (R439 to R442, Table 18.8). QUERY answers and changes nothing; CHALLENGE gives a nonce bound to its source unless locked out or no key is programmed; the right
PASSWORD or HMAC opens the lock for its source and clears FAILS; a wrong one counts, and the fifth starts a lockout of 600 s; CLOSE and the opening timeout close it. A lockout counts its
seconds and ends at 0 with FAILS 0; a nonce expires. A LEN that is not the data's is BAD_MSG. -/
def Obligations.MaintenanceLock : Prop :=
  let cmd (src : Source) (n op : Nat) (data : List Byte) (s : State) := s.command src n 0x49 (lockBytes op (BitVec.ofNat 16 data.length) data)
  let opened (src : Source) (n : Nat) (s t : State) : Prop := t.on Reg.LOCK_STAT_OPEN 0 = true ∧ t.rd Reg.LOCK_STAT_SRC 0 = srcNumber src
    ∧ t.rd Reg.LOCK_STAT_FAILS 0 = 0 ∧ t.mram.fails = 0 ∧ t.lock.session = n ∧ t.rd Reg.LOCK_LOUT_SEC 0 = s.rd Reg.LOCK_LOUT_SEC 0
  let failed (s t : State) : Prop := let k := s.rd Reg.LOCK_STAT_FAILS 0 + 1
    t.on Reg.LOCK_STAT_OPEN 0 = s.on Reg.LOCK_STAT_OPEN 0 ∧ t.mram.fails = k ∧ t.rd Reg.LOCK_STAT_FAILS 0 = k
      ∧ (5 ≤ k → t.on Reg.LOCK_STAT_LOCKOUT 0 = true ∧ t.rd Reg.LOCK_LOUT_SEC 0 = 600 ∧ t.mram.lockout = 600)
      ∧ (k < 5 → t.on Reg.LOCK_STAT_LOCKOUT 0 = false ∧ t.rd Reg.LOCK_LOUT_SEC 0 = s.rd Reg.LOCK_LOUT_SEC 0)
  let closed (t : State) : Prop := t.rd Reg.LOCK_STAT_SRC 0 = 0
    ∧ t.on Reg.LOCK_STAT_OPEN 0 = decide (t.rd Reg.LOCK_CFG_LEVEL 0 = 0 ∧ t.rd Reg.LOCK_CFG_FLOOR 0 = 0)
  (∀ (src : Source) (n op : Nat) (len : Half) (data : List Byte) (s : State), op < 256 → len.toNat ≠ data.length →
    s.command src n 0x49 (lockBytes op len data) = (respCode 6 0x49 [], s))
  ∧ (∀ (src : Source) (n : Nat) (s : State), cmd src n 0 [] s = (respCode 0 0x49 (s.lockPart 6 0), s))
  ∧ (∀ (src : Source) (n : Nat) (s : State),
    (s.lockedOut = true → cmd src n 1 [] s = (respCode 0 0x49 (s.lockPart 3 0), s))
    ∧ (s.lockedOut = false → s.otp.key = none → cmd src n 1 [] s = (respCode 0 0x49 (s.lockPart 5 0), s))
    ∧ (s.lockedOut = false → s.otp.key ≠ none → ∃ (x : BitVec 128) (t : State), cmd src n 1 [] s = (respCode 0 0x49 (t.lockPart 6 x.toNat), t)
        ∧ t.lock.nonce = some (x, src) ∧ t.on Reg.LOCK_STAT_CHAL 0 = true))
  ∧ (∀ (src : Source) (n : Nat) (data : List Byte) (s : State), 8 ≤ data.length → data.length ≤ 32 →
    let level := s.rd Reg.LOCK_STAT_LEVEL 0
    (level ≠ 0 → s.lockedOut = true → cmd src n 3 data s = (respCode 0 0x49 (s.lockPart 3 0), s))
    ∧ (s.lockedOut = false → level = 3 ∨ (level ≠ 0 ∧ s.lock.pwhash = 0) → cmd src n 3 data s = (respCode 0 0x49 (s.lockPart 5 0), s))
    ∧ (s.lockedOut = false → level = 1 ∨ level = 2 → s.lock.pwhash ≠ 0 → src = .host ∨ src = .hawser ∨ src = .uart → s.rd Reg.LOCK_STAT_FAILS 0 < 5 →
        (sha256 (leBytes 8 s.otp.serial.toNat ++ data) = leBytes 32 s.lock.pwhash.toNat →
          ∃ t, cmd src n 3 data s = (respCode 0 0x49 (t.lockPart 0 0), t) ∧ opened src n s t)
        ∧ (sha256 (leBytes 8 s.otp.serial.toNat ++ data) ≠ leBytes 32 s.lock.pwhash.toNat →
          ∃ t, cmd src n 3 data s = (respCode 0 0x49 (t.lockPart 2 0), t) ∧ failed s t)))
  ∧ (∀ (src : Source) (n : Nat) (data : List Byte) (s : State) (x : BitVec 128) (key : BitVec 256), data.length = 32 →
    s.lockedOut = false → s.rd Reg.LOCK_STAT_LEVEL 0 ≠ 0 → s.lock.nonce = some (x, src) → s.otp.key = some key →
    src = .host ∨ src = .hawser ∨ src = .uart → s.rd Reg.LOCK_STAT_FAILS 0 < 5 →
    let right := hmac (leBytes 32 key.toNat) (leBytes 16 x.toNat ++ leBytes 8 s.otp.serial.toNat)
    (right = data → ∃ t, cmd src n 2 data s = (respCode 0 0x49 (t.lockPart 0 0), t) ∧ opened src n s t ∧ t.lock.nonce = none)
    ∧ (right ≠ data → ∃ t, cmd src n 2 data s = (respCode 0 0x49 (t.lockPart 2 0), t) ∧ failed s t ∧ t.lock.nonce = none))
  ∧ (∀ (src : Source) (n : Nat) (s : State), (∃ t, cmd src n 4 [] s = (respCode 0 0x49 (t.lockPart 1 0), t)
      ∧ (s.rd Reg.LOCK_STAT_SRC 0 ≠ 0 → closed t) ∧ (s.rd Reg.LOCK_STAT_SRC 0 = 0 → t = s)))
  ∧ (∀ s : State, (s.rd Reg.LOCK_STAT_SRC 0 ≠ 0 → ∃ t, exec .lockOpenTimeout s = .next t ∧ closed t)
      ∧ (s.rd Reg.LOCK_STAT_SRC 0 = 0 → exec .lockOpenTimeout s = .next s))
  ∧ (∀ s : State, (s.on Reg.LOCK_STAT_LOCKOUT 0 = true → ∃ t, exec .lockoutSecond s = .next t ∧ t.rd Reg.LOCK_LOUT_SEC 0 = s.rd Reg.LOCK_LOUT_SEC 0 - 1
          ∧ t.mram.lockout = s.rd Reg.LOCK_LOUT_SEC 0 - 1 ∧ ∀ a, a ≠ Reg.LOCK_LOUT_SEC.addr 0 → t.reg a = s.reg a)
      ∧ (s.on Reg.LOCK_STAT_LOCKOUT 0 = false → exec .lockoutSecond s = .next s))
  ∧ (∀ s : State, (s.on Reg.LOCK_STAT_LOCKOUT 0 = true → s.rd Reg.LOCK_LOUT_SEC 0 = 0 →
          ∃ t, exec .lockoutEnd s = .next t ∧ t.on Reg.LOCK_STAT_LOCKOUT 0 = false ∧ t.rd Reg.LOCK_STAT_FAILS 0 = 0 ∧ t.mram.fails = 0)
      ∧ (s.on Reg.LOCK_STAT_LOCKOUT 0 = false ∨ s.rd Reg.LOCK_LOUT_SEC 0 ≠ 0 → exec .lockoutEnd s = .next s))
  ∧ ∀ s : State, ∃ t, exec .nonceExpiry s = .next t ∧ t.lock.nonce = none ∧ t.on Reg.LOCK_STAT_CHAL 0 = false
      ∧ (∀ a, a ≠ Reg.LOCK_STAT_CHAL.addr 0 → t.reg a = s.reg a) ∧ t.mram = s.mram

/-! ### The host link -/

/-- Sessions (R322, R328, R329, R335). CONNECT to a device without a session, from the session's own host, or with FORCE opens the next session, with every count and queue of the old one cleared and
its answer in class 1; from another host it is BUSY. A timeout or the loss of the link ends the session, shows why, and raises SESSION; the link comes up on an enabled port, which advertises 100GBASE-KR4, RS-FEC and, with PRX, symmetric PAUSE. -/
def Obligations.Sessions : Prop :=
  let lockGone (s t : State) : Prop := s.rd Reg.LOCK_STAT_SRC 0 = 2 → s.lock.session = s.session → t.rd Reg.LOCK_STAT_SRC 0 = 0
  (∀ (h : RxHead) (mac : BitVec 48) (ip : Word) (port : Half) (session origin : Byte) (seq : Word) (force : Bool) (tmo : Nat) (s : State), tmo < 2 ^ 16 →
    let p := leBytes 2 (if force then 1 else 0) ++ leBytes 2 tmo ++ leBytes 4 0
    let mine : Prop := s.session ≠ 0 ∧ s.sessionHost = .host mac ip port
    3 ≤ s.mode → s.on Reg.HOSTLINK_STAT_LINK_UP 0 = true → s.admits h → s.rxFill ≤ 65504 →
    (s.session = 0 ∨ mine ∨ force = true → s.link.lastSession ≤ 255 →
      let n := if s.link.lastSession = 255 then 1 else s.link.lastSession + 1
      ∃ t, exec (.connect (.host h mac ip port session origin seq) p) s = .next t ∧ t.session = n ∧ t.sessionHost = .host mac ip port
        ∧ t.rd Reg.HOSTLINK_TXSEQ_SEQ 0 = 0 ∧ t.rd Reg.HOSTLINK_CMDSEQ_SEQ 0 = (seq.toNat + 1) % 2 ^ 32 ∧ t.link.tmo = tmo
        ∧ t.on Reg.HOSTLINK_STAT_TAKEOVER 0 = (s.on Reg.HOSTLINK_STAT_TAKEOVER 0 || decide (s.session ≠ 0 ∧ ¬ mine))
        ∧ t.link.held = [] ∧ t.link.cache = [] ∧ t.link.retx = [] ∧ t.link.slots = [] ∧ t.link.inq = []
        ∧ ∃ r, t.link.replies = [r] ∧ r.seq = seq.toNat ∧ r.session = n
            ∧ r.payload = respCode 0 0x40 (leBytes 1 n ++ leBytes 3 0 ++ leBytes 4 4096 ++ leBytes 2 288 ++ leBytes 2 360))
    ∧ (s.session ≠ 0 → ¬ mine → force = false →
      ∃ t, exec (.connect (.host h mac ip port session origin seq) p) s = .next t ∧ t.regs = (s.fecCount h.fecCe h.fecUe).regs
        ∧ ∃ r, t.link.replies = s.link.replies ++ [r] ∧ r.seq = seq.toNat ∧ r.payload = respCode 7 0x40 []))
  ∧ (∀ s : State, s.session ≠ 0 → s.timeout ≠ 0 → ∃ t, exec .sessionTimeout s = .next t ∧ t.session = 0
      ∧ t.on Reg.HOSTLINK_STAT_TMO_END 0 = true ∧ t.bit Reg.HOSTLINK_EVT_PEND 0 4 = true ∧ lockGone s t)
  ∧ (∀ s : State, s.session = 0 ∨ s.timeout = 0 → exec .sessionTimeout s = .next s)
  ∧ (∀ s : State, s.on Reg.HOSTLINK_STAT_LINK_UP 0 = true → ∃ t, exec .linkDown s = .next t ∧ t.on Reg.HOSTLINK_STAT_LINK_UP 0 = false
      ∧ t.on Reg.HOSTLINK_STAT_PAUSED 0 = false ∧ t.session = 0 ∧ t.link.retx = [] ∧ t.link.txq = s.link.txq
      ∧ (s.session ≠ 0 → t.on Reg.HOSTLINK_STAT_LINK_LOST 0 = true ∧ t.bit Reg.HOSTLINK_EVT_PEND 0 4 = true ∧ lockGone s t))
  ∧ (∀ s : State, s.on Reg.HOSTLINK_STAT_LINK_UP 0 = false → exec .linkDown s = .next s)
  ∧ (∀ s : State, 3 ≤ s.mode → s.on Reg.HOSTLINK_CTRL_EN 0 = true → ∃ t, exec .linkUp s = .next t ∧ t.on Reg.HOSTLINK_STAT_LINK_UP 0 = true
      ∧ t.on Reg.HOSTLINK_STAT_AN_DONE 0 = true ∧ t.on Reg.HOSTLINK_STAT_FEC_LOCK 0 = true
      ∧ (∀ a, a ≠ Reg.HOSTLINK_STAT_LINK_UP.addr 0 → t.reg a = s.reg a)
      ∧ { t with regs := s.regs, link := s.link } = s
      ∧ t.link = { s.link with wire := .advert true true (s.on Reg.HOSTLINK_CTRL_PRX 0) :: s.link.wire })
  ∧ ∀ s : State, s.mode < 3 ∨ s.on Reg.HOSTLINK_CTRL_EN 0 = false → exec .linkUp s = .next s

/-- Frames of the link (R324, R325, R336, R338 to R344, R443). A bad frame is counted; ARP is answered for the device's own address alone; PAUSE is counted, honoured with PRX, and lapses. At a datagram
boundary a response leaves first, then a datagram asked for by NAK, then classes 3 to 5; a message with no session is discarded and counted; one that fits a segment leaves whole
with the next MSGNO; PAUSE holds them all. A summary STATUS is formed while STPER is not 0. -/
def Obligations.LinkFrames : Prop :=
  let open_ (s : State) : Prop := 3 ≤ s.mode ∧ s.on Reg.HOSTLINK_STAT_LINK_UP 0 = true ∧ s.on Reg.HOSTLINK_STAT_PAUSED 0 = false
  let plus (f : Field) (n : Nat) (s t : State) : Prop := t.rd f 0 = Min.min (s.rd f 0 + n) (2 ^ 32 - 1)
  let plus1 (f : Field) (s t : State) : Prop := plus f 1 s t ∧ ∀ a, a ≠ f.addr 0 → t.reg a = s.reg a
  (∀ s : State, 3 ≤ s.mode →
    (∀ ce ue, ∃ t, exec (.rxDiscard ⟨true, ce, ue⟩) s = .next t ∧ plus1 Reg.LOCK_UARTERR_N s t ∧ { t with regs := s.regs } = s)
    ∧ (s.on Reg.HOSTLINK_STAT_LINK_UP 0 = true → ∀ ce ue,
        ∃ t, exec (.rxDiscard ⟨false, ce, ue⟩) s = .next t ∧ plus Reg.HOSTLINK_RXDROP_N 1 s t ∧ plus Reg.HOSTLINK_FECCE_N ce s t
          ∧ plus Reg.HOSTLINK_FECUE_N ue s t ∧ { t with regs := s.regs } = s
          ∧ ∀ a, a ≠ Reg.HOSTLINK_RXDROP_N.addr 0 → a ≠ Reg.HOSTLINK_FECCE_N.addr 0 → a ≠ Reg.HOSTLINK_FECUE_N.addr 0 → t.reg a = s.reg a))
  ∧ (∀ (mac : BitVec 48) (ip target : Word) (s : State), s.on Reg.HOSTLINK_STAT_LINK_UP 0 = true →
    ∃ t, exec (.arpRequest mac ip target) s = .next t ∧ { t with link := s.link } = s
      ∧ t.link = if target = s.reg 0x4000C then { s.link with wire := .arp mac ip :: s.link.wire } else s.link)
  ∧ (∀ (q : Half) (s : State), s.on Reg.HOSTLINK_STAT_LINK_UP 0 = true →
    ∃ t, exec (.pauseFrame q) s = .next t ∧ t.rd Reg.HOSTLINK_PAUSERX_N 0 = Min.min (s.rd Reg.HOSTLINK_PAUSERX_N 0 + 1) (2 ^ 32 - 1)
      ∧ t.on Reg.HOSTLINK_STAT_PAUSED 0 = (if s.on Reg.HOSTLINK_CTRL_PRX 0 then decide (q ≠ 0) else s.on Reg.HOSTLINK_STAT_PAUSED 0)
      ∧ { t with regs := s.regs } = s)
  ∧ (∀ s : State, ∃ t, exec .pauseExpiry s = .next t ∧ t.on Reg.HOSTLINK_STAT_PAUSED 0 = false
      ∧ (∀ a, a ≠ Reg.HOSTLINK_STAT_PAUSED.addr 0 → t.reg a = s.reg a) ∧ { t with regs := s.regs } = s)
  ∧ (∀ s : State, ∃ t, exec .pauseRepeat s = .next t ∧ { t with link := s.link } = s
      ∧ t.link.wire = if s.link.pausing ∧ 16384 ≤ s.rxFill then .pause (s.rd Reg.HOSTLINK_PAUSE_QUANTA 0) :: s.link.wire else s.link.wire)
  ∧ (∀ (s : State) (r : Reply) (rest : List Reply), open_ s → s.link.replies = r :: rest → r.msgno = none →
    ∃ t d, exec .datagramSend s = .next t ∧ t.link.replies = rest ∧ t.link.wire = .tilvar r.dest s.link.ident d (s.frame r.dest s.link.ident d) :: s.link.wire
      ∧ d.ty = 0x80 ∧ d.seg = r.payload ∧ d.seq = r.seq ∧ d.msgno = s.link.msgno ∧ t.link.msgno = (s.link.msgno + 1) % 2 ^ 32
      ∧ (r.ends = true → t.session = 0) ∧ (r.ends = false → t.regs = s.regs))
  ∧ (∀ (s : State) (d : Datagram) (rest : List Datagram), open_ s → s.link.replies = [] → s.link.retx = d :: rest →
    ∃ t, exec .datagramSend s = .next t ∧ t.link.retx = rest
      ∧ t.link.wire = .tilvar s.sessionHost s.link.ident d (s.frame s.sessionHost s.link.ident d) :: s.link.wire
      ∧ plus1 Reg.HOSTLINK_RETX_N s t)
  ∧ (∀ (s : State) (m : TxItem) (bs : List Byte), open_ s → s.link.replies = [] → s.link.retx = [] → s.link.txq = [m] → s.link.begun = [] →
    m.body = .own bs → m.off = 0 → m.no = none → bs.length ≤ 1448 → s.routed = false → s.monq.length < 90 →
    (s.session = 0 → ∃ t, exec .datagramSend s = .next t ∧ t.link.txq = [] ∧ t.link.wire = s.link.wire
        ∧ t.rd Reg.HOSTLINK_TXDROP_N 0 = Min.min (s.rd Reg.HOSTLINK_TXDROP_N 0 + 1) (2 ^ 32 - 1) ∧ t.bit Reg.HOSTLINK_EVT_PEND 0 5 = true)
    ∧ (s.session ≠ 0 → ∃ t d, exec .datagramSend s = .next t ∧ t.link.txq = []
        ∧ t.link.wire = .tilvar s.sessionHost s.link.ident d (s.frame s.sessionHost s.link.ident d) :: s.link.wire
        ∧ d.ty = m.ty ∧ d.origin = m.origin ∧ d.session = s.session ∧ d.seg = bs ∧ d.mlen = bs.length ∧ d.offset = 0 ∧ d.msgno = s.link.msgno
        ∧ d.flags % 4 = 3 ∧ d.seq = s.rd Reg.HOSTLINK_TXSEQ_SEQ 0
        ∧ t.rd Reg.HOSTLINK_TXSEQ_SEQ 0 = (s.rd Reg.HOSTLINK_TXSEQ_SEQ 0 + (if s.reliable m.ty then 1 else 0)) % 2 ^ 32
        ∧ (s.reliable m.ty = true → t.link.held.find (s.rd Reg.HOSTLINK_TXSEQ_SEQ 0) = some d)))
  ∧ (∀ s : State, 3 ≤ s.mode → s.on Reg.HOSTLINK_STAT_PAUSED 0 = true → s.session ≠ 0 → s.routed = false → s.monq.length < 90 →
      exec .datagramSend s = .next s)
  ∧ (∀ s : State, 3 ≤ s.mode → s.rd Reg.HOSTLINK_STPER_MS 0 ≠ 0 → ∃ t m, exec .statusSummary s = .next t
      ∧ t.link.txq = s.link.txq ++ [m] ∧ m.ty = 7 ∧ m.size = 40 ∧ t.regs = s.regs)
  ∧ ∀ s : State, s.mode < 3 ∨ s.rd Reg.HOSTLINK_STPER_MS 0 = 0 → exec .statusSummary s = .next s

/-! ### The ring -/

/-- Hawser ports (R353, R355, R362). A trained port comes up with empty counts, or shows DESKEW_ERR; a port that goes down loses what it held, and the head records the break. An ACK releases the frames
below NEXT; KIND 1 and the replay timeout send every frame still held again, oldest first, with REPLAY set, and after 8 replays without progress the port is down. An ACK grants
the room that the transit frames waiting for the other port leave of 64 frames. A head in conflict sends no DATA and no CMD, another device in conflict nothing of its own but TOPO_ACK. A port that is
down does none of this. -/
def Obligations.RingPorts : Prop :=
  let freed (x : HwPortSt) (next : Nat) := x.unacked.filter fun f => decide ((f.lseq + 2 ^ 32 - next) % 2 ^ 32 < 2 ^ 31)
  let leaving (p : HwPort) (s : State) (l : List HwFrame) := ((l.filter fun f => s.mayLeave (decide (f.src = s.pos)) f).map fun f => Line.hawser p f).reverse
  let room (p : HwPort) (s : State) := 64 - ((s.hw (otherPort p)).wait.filter fun x => !x.2.1).length
  (∀ (p : HwPort) (s : State), 3 ≤ s.mode → s.on Reg.HAWSER_CTRL_EN 0 = true → s.hwUp p = false →
    (∃ t, exec (.hawserPortUp p false) s = .next t ∧ t.hwUp p = true ∧ t.hw p = ⟨0, [], 0, 0, 64, [], [], none, none⟩
      ∧ t.hw (otherPort p) = s.hw (otherPort p) ∧ ∀ a, a ≠ Reg.HAWSER_STAT_LINK_A.addr 0 → t.reg a = s.reg a)
    ∧ ∃ t, exec (.hawserPortUp p true) s = .next t ∧ t.hwUp p = false ∧ t.on Reg.HAWSER_STAT_DESKEW_ERR 0 = true
      ∧ (∀ a, a ≠ Reg.HAWSER_STAT_DESKEW_ERR.addr 0 → t.reg a = s.reg a) ∧ { t with regs := s.regs } = s)
  ∧ (∀ (p : HwPort) (k : Bool) (s : State), s.mode < 3 ∨ s.on Reg.HAWSER_CTRL_EN 0 = false ∨ s.hwUp p = true →
    exec (.hawserPortUp p k) s = .next s)
  ∧ (∀ (p : HwPort) (s : State), s.hwUp p = true → s.isHead = true → s.hawser.broken = [] →
    let seg := match p with
      | .a => 0
      | .b => s.rd Reg.HAWSER_CTRL_NDEV 0
    ∃ t, exec (.hawserPortDown p) s = .next t ∧ t.hwUp p = false ∧ t.hw p = HwPortSt.up ∧ t.hawser.broken = [seg]
      ∧ t.on Reg.HAWSER_STAT_BREAK 0 = true ∧ t.on Reg.HAWSER_BREAK_VALID 0 = true ∧ t.rd Reg.HAWSER_BREAK_SEG 0 = seg)
  ∧ (∀ (p : HwPort) (s : State), s.hwUp p = true → s.isHead = false → s.hwUp (otherPort p) = false →
    ∃ t, exec (.hawserPortDown p) s = .next t ∧ t.hwUp p = false ∧ t.hw p = HwPortSt.up ∧ t.link = s.link
      ∧ t.rd Reg.LANYARD_STAT_TPORT 0 = 0 ∧ t.on Reg.LANYARD_STAT_HOLDOVER 0 = true)
  ∧ (∀ (p : HwPort) (next : Word) (credit : Half) (s : State), s.hwUp p = true → (s.hw p).wait = [] →
    ∃ t, exec (.hawserAck p next credit) s = .next t ∧ (t.hw p).unacked = freed (s.hw p) next.toNat
      ∧ (t.hw p).credit = Min.min 64 credit.toNat ∧ t.hw (otherPort p) = s.hw (otherPort p) ∧ t.regs = s.regs ∧ t.link = s.link)
  ∧ (∀ (p : HwPort) (next : Word) (credit : Half) (s : State), s.hwUp p = true → freed (s.hw p) next.toNat ≠ [] → (s.hw p).replays < 7 → (s.hw p).wait = [] →
    let again := (freed (s.hw p) next.toNat).map fun f => { f with replay := true }
    ∃ t, exec (.hawserRetry p next credit) s = .next t ∧ (t.hw p).unacked = again ∧ t.hwUp p = true
      ∧ t.link.wire = leaving p s again ++ s.link.wire
      ∧ t.rd (retryField p) 0 = Min.min (s.rd (retryField p) 0 + 1) (2 ^ 32 - 1) ∧ ∀ a, a ≠ (retryField p).addr 0 → t.reg a = s.reg a)
  ∧ (∀ (p : HwPort) (s : State), s.hwUp p = true → (s.hw p).unacked ≠ [] →
    let again := (s.hw p).unacked.map fun f => { f with replay := true }
    ∃ t, exec (.replayTimeout p) s = .next t ∧ t.rd (retryField p) 0 = Min.min (s.rd (retryField p) 0 + 1) (2 ^ 32 - 1)
      ∧ ((s.hw p).replays < 7 → t.hwUp p = true ∧ (t.hw p).unacked = again ∧ (t.hw p).replays = (s.hw p).replays + 1
          ∧ t.link.wire = leaving p s again ++ s.link.wire)
      ∧ (7 ≤ (s.hw p).replays → t.hwUp p = false))
  ∧ (∀ (p : HwPort) (s : State), s.hwUp p = true → ∃ t, exec (.ackSend p) s = .next t ∧ { t with link := s.link } = s
      ∧ t.link.wire = .ack p (s.hw p).rxNext (room p s) false :: s.link.wire)
  ∧ (∀ (own : Bool) (f : HwFrame) (s : State), s.mayLeave own f = false ↔
      (s.isHead = true ∧ s.on Reg.HAWSER_STAT_HEAD_CONFLICT 0 = true ∧ (f.ty = 1 ∨ f.ty = 2))
        ∨ (s.isHead = false ∧ s.on Reg.HAWSER_STAT_POS_CONFLICT 0 = true ∧ own = true ∧ f.ty ≠ 6))
  ∧ ∀ (p : HwPort) (next : Word) (credit : Half) (s : State), s.hwUp p = false →
    exec (.hawserPortDown p) s = .next s ∧ exec (.hawserAck p next credit) s = .next s ∧ exec (.hawserRetry p next credit) s = .next s
      ∧ exec (.replayTimeout p) s = .next s ∧ exec (.ackSend p) s = .next s

/-- Frames of the ring (R349 to R352, R355 to R361, R364). A frame is taken when its check is good and its LSEQ is the next; else it is answered with KIND 1 or discarded. TOPO goes out at the head with the
counts 1 and n − 1, gives a device its position or shows a conflict, and its acknowledgement marks a position present and a new incarnation joined, one with POS_CONFLICT absent. A frame of another type is refused. Of a segment's copies the head forwards the first of path A, holds
one of path B that comes first until PWIN has passed, and compares the second. A command is carried out once at its destination, and another device passes frames on. -/
def Obligations.RingFrames : Prop :=
  let got (p : HwPort) (ty : Nat) (f : HwFrame) (s : State) : Prop := s.hwUp p = true ∧ f.ty = ty ∧ f.lseq = (s.hw p).rxNext
  let room (p : HwPort) (s : State) := 64 - ((s.hw (otherPort p)).wait.filter fun x => !x.2.1).length
  let took (p : HwPort) (s : State) : State := s.setHw p { s.hw p with rxNext := ((s.hw p).rxNext + 1) % 2 ^ 32 }
  let ready (p : HwPort) (s : State) : Prop := s.hwUp p = true ∧ (s.hw p).wait = [] ∧ (s.hw p).unacked.length < (s.hw p).credit
    ∧ (s.hw p).unacked.length < 512
  let plus1 (f : Field) (s t : State) : Prop := t.rd f 0 = Min.min (s.rd f 0 + 1) (2 ^ 32 - 1)
  let passed (p : HwPort) (f : HwFrame) (s t : State) : Prop := t.link.wire = .hawser (otherPort p) { f with lseq := (s.hw (otherPort p)).next, replay := false } :: s.link.wire
    ∧ t.regs = s.regs
  (∀ (p : HwPort) (f : HwFrame) (own : Bool) (s : State), s.hwUp p = true → ∀ i ∈ [Instr.topo p false own f, .topoAck p false f, .hawserData p false f, .hawserCmd p false f],
    ∃ t, exec i s = .next t ∧ { t with link := s.link } = s ∧ t.link.wire = .ack p (s.hw p).rxNext (room p s) true :: s.link.wire)
  ∧ (∀ (p : HwPort) (f : HwFrame) (ok own : Bool) (s : State),
      ∀ x ∈ [(Instr.topo p ok own f, 5), (.topoAck p ok f, 6), (.hawserData p ok f, 1), (.hawserCmd p ok f, 2)],
        s.hwUp p = false ∨ (ok = true ∧ f.ty ≠ x.2) → exec x.1 s = .next s)
  ∧ (∀ s : State, s.on Reg.HAWSER_CTRL_EN 0 = true → s.on Reg.HAWSER_CTRL_HEAD 0 = true → ready .a s → ready .b s →
    ∃ t f g, exec .topoSend s = .next t ∧ t.link.wire = .hawser .b g :: .hawser .a f :: s.link.wire ∧ t.regs = s.regs
      ∧ f.body = .topo 1 ∧ f.lseq = s.hawser.portA.next ∧ g.body = .topo (s.rd Reg.HAWSER_CTRL_NDEV 0) ∧ g.lseq = s.hawser.portB.next)
  ∧ (∀ s : State, s.on Reg.HAWSER_CTRL_HEAD 0 = false → exec .topoSend s = .next s)
  ∧ (∀ (p : HwPort) (own : Bool) (f : HwFrame) (n : Nat) (s : State), got p 5 f s → s.isHead = false → f.body = .topo n → n < 64 →
    ∃ t, exec (.topo p true own f) s = .next t ∧ t.on Reg.HAWSER_POS_VALID 0 = true
      ∧ t.rd Reg.HAWSER_POS_POS 0 = (if s.on Reg.HAWSER_POS_VALID 0 then s.rd Reg.HAWSER_POS_POS 0 else n)
      ∧ t.on Reg.HAWSER_STAT_POS_CONFLICT 0 = (s.on Reg.HAWSER_STAT_POS_CONFLICT 0
          || (s.on Reg.HAWSER_POS_VALID 0 && decide (s.rd Reg.HAWSER_POS_POS 0 ≠ n))))
  ∧ (∀ (p : HwPort) (own : Bool) (f : HwFrame) (n : Int) (s : State), got p 5 f s → s.isHead = true → f.body = .topo n →
    ∃ t, exec (.topo p true own f) s = .next t ∧ (own = false → t.on Reg.HAWSER_STAT_HEAD_CONFLICT 0 = true)
      ∧ (own = true → p = .b → n ≠ s.ringSize → t.on Reg.HAWSER_STAT_SIZE_ERR 0 = true))
  ∧ (∀ (p : HwPort) (f : HwFrame) (k n : Nat) (s : State), got p 6 f s → s.isHead = true → f.body = .topoAck k n false none → k < 64 →
    ∃ t, exec (.topoAck p true f) s = .next t ∧ t.present k = true ∧ t.hawser.incarn.find k = some n
      ∧ (s.hawser.incarn.find k ≠ some n → t.on Reg.HAWSER_STAT_JOIN 0 = true ∧ t.hawser.wins.find k = none)
      ∧ (s.hawser.incarn.find k = some n → t.hawser.wins = s.hawser.wins)
      ∧ ∀ j, j < 64 → j ≠ k → t.present j = s.present j)
  ∧ (∀ (p : HwPort) (f : HwFrame) (k n : Nat) (b : Option Nat) (s : State), got p 6 f s → s.isHead = true → f.body = .topoAck k n true b → k < 64 →
    ∃ t, exec (.topoAck p true f) s = .next t ∧ t.present k = false ∧ t.hawser.incarn = s.hawser.incarn)
  ∧ (∀ (p : HwPort) (f : HwFrame) (k n : Nat) (c : Bool) (b : Option Nat) (s : State), got p 6 f s → s.isHead = false → f.body = .topoAck k n c b → f.src ≠ s.pos →
    ready (otherPort p) s → ∃ t, exec (.topoAck p true f) s = .next t ∧ passed p f s t)
  ∧ (∀ (k : Fin 64) (s : State), s.isHead = true → s.present k = true → ∃ t, exec (.positionAbsent k) s = .next t ∧ t.present k = false
      ∧ (∀ j, j < 64 → j ≠ k.val → t.present j = s.present j)
      ∧ ((∃ x ∈ s.link.slots, x.origin = k.val ∧ x.origin ≠ 0 ∧ x.resp = none) → t.on Reg.HAWSER_STAT_UNREACHED 0 = true))
  ∧ (∀ (k : Fin 64) (s : State), s.isHead = false ∨ s.present k = false → exec (.positionAbsent k) s = .next s)
  ∧ (∀ (p : HwPort) (f : HwFrame) (d : Datagram) (s : State), got p 1 f s → s.isHead = true → f.body = .tilvar d → d.ty ≠ 0x80 →
    let win := s.hawser.wins.getD f.src SrcWin.empty
    let item : TxItem := ⟨d.ty, f.src, .seg { d with origin := f.src }, 0, none⟩
    ∃ t, exec (.hawserData p true f) s = .next t
      ∧ (frameIntact f = false → plus1 Reg.HAWSER_CORRUPT_N s t ∧ t.link = s.link)
      ∧ (frameIntact f = true → win.late f.rseq = true → plus1 Reg.HAWSER_LATE_N s t ∧ t.link = s.link)
      ∧ (frameIntact f = true → win.late f.rseq = false → (s.copyOf f.src f.rseq).done = none → (s.copyOf f.src f.rseq).held = none →
          (f.pathB = false ∨ s.pathABroken f.src = true → t.link.txq = s.link.txq ++ [item] ∧ t.regs = s.regs)
          ∧ (f.pathB = true → s.pathABroken f.src = false → t.link = s.link ∧ t.regs = s.regs
              ∧ (win = SrcWin.empty → f.rseq < 2 ^ 32 → t.copyOf f.src f.rseq = ⟨none, some f⟩)))
      ∧ (∀ w n b, frameIntact f = true → win.late f.rseq = false → (s.copyOf f.src f.rseq).done = some (w, n, b) →
          ((f.ccrc, d.seg.length) = (w, n) → plus1 Reg.HAWSER_DUP_N s t ∧ t.link = s.link)
          ∧ ((f.ccrc, d.seg.length) ≠ (w, n) → t.on Reg.HAWSER_STAT_RING_DIVERGED 0 = true ∧ plus1 Reg.HAWSER_DIVCNT_N s t
              ∧ t.rd Reg.HAWSER_DIVLAST_RSEQ 0 = f.rseq % 2 ^ 32 ∧ t.rd Reg.HAWSER_DIVSRC_SRC 0 = f.src % 64 ∧ t.link = s.link)))
  ∧ (∀ (src : Fin 64) (rseq : Word) (h : HwFrame) (d : Datagram) (s : State), s.isHead = true → s.copyOf src rseq.toNat = ⟨none, some h⟩ →
    h.body = .tilvar d → d.ty ≠ 0x80 →
    ∃ t, exec (.pathBHoldExpiry src rseq) s = .next t ∧ t.regs = s.regs
      ∧ t.link.txq = s.link.txq ++ [⟨d.ty, h.src, .seg { d with origin := h.src }, 0, none⟩])
  ∧ (∀ (src : Fin 64) (rseq : Word) (s : State), s.isHead = false ∨ (s.copyOf src rseq.toNat).held = none → exec (.pathBHoldExpiry src rseq) s = .next s)
  ∧ (∀ (p : HwPort) (f : HwFrame) (d : Datagram) (s : State), s.isHead = false → f.body = .tilvar d → ready (otherPort p) s →
    (got p 1 f s → f.src ≠ s.pos → ∃ t, exec (.hawserData p true f) s = .next t ∧ passed p f s t)
    ∧ (got p 2 f s → s.on Reg.HAWSER_POS_VALID 0 = false ∨ f.dst ≠ s.pos → ∃ t, exec (.hawserCmd p true f) s = .next t ∧ passed p f s t))
  ∧ (∀ (p : HwPort) (f : HwFrame) (d : Datagram) (s : State), got p 2 f s → s.isHead = false → f.body = .tilvar d → s.on Reg.HAWSER_POS_VALID 0 = true →
    f.dst = s.pos →
    (frameIntact f = false → ∃ t, exec (.hawserCmd p true f) s = .next t ∧ plus1 Reg.HAWSER_CORRUPT_N s t ∧ t.hawser.done = s.hawser.done)
    ∧ (∀ x, frameIntact f = true → s.hawser.done.find? (fun x => decide (x.session = d.session) && decide (x.rseq = f.rseq)) = some x →
        (x.ccrc = f.ccrc → exec (.hawserCmd p true f) s = .next (took p s))
        ∧ (x.ccrc ≠ f.ccrc → ∃ t, exec (.hawserCmd p true f) s = .next t ∧ t.on Reg.HAWSER_STAT_RING_DIVERGED 0 = true ∧ t.hawser.done = s.hawser.done))
    ∧ (frameIntact f = true → s.hawser.done.find? (fun x => decide (x.session = d.session) && decide (x.rseq = f.rseq)) = none → s.hawser.fence = none →
        s.hawser.waiting = [] → d.ty = 0x47 → d.seg = [] → s.rd Reg.LOCK_STAT_SRC 0 ≠ 1 → s.on Reg.HAWSER_STAT_POS_CONFLICT 0 = false → s.hawser.broken = [] → ready .a s → ready .b s →
        ∃ t, exec (.hawserCmd p true f) s = .next t ∧ t.regs = s.regs ∧ (⟨d.session, f.rseq, f.ccrc⟩ : Done) ∈ t.hawser.done
          ∧ t.hawser.rseq = (s.hawser.rseq + 1) % 2 ^ 32
          ∧ ∃ g h, t.link.wire = .hawser .a g :: .hawser .b h :: s.link.wire ∧ g.body = h.body ∧ g.pathB = true ∧ h.pathB = false))
  ∧ ∀ (s : State), (∀ c, exec (.fenceAnswer (.core c)) s = .next s) ∧ (s.hawser.fence = none → exec (.fenceAnswer .hawser) s = .next s)

/-- Lanyard time (R365 to R369, R372). The head starts it at zero once its clock is locked, or at the first LY_PPS edge with PPSSTART; an edge is captured to 1/256 tick; the loss of LY_REF clears REF_LOCK and LOCKED, raises
CLOCK, and neither it nor its return steps the time. An exchange at the timing port gives DLY and OFFS; before LOCKED it steps the count by whole ticks, after it never; LOCKED comes with the sixteenth
exchange in a row within 10 ps, and LOST with the second beyond 30 ps, a jump of the delay, or holdover of 1 ms. -/
def Obligations.LanyardTime : Prop :=
  let atHead (s : State) : Prop := 3 ≤ s.mode ∧ s.isHead = true
  (∀ s : State, atHead s → s.safety.refBad = false → ∃ t, exec .lanyardStart s = .next t ∧ t.on Reg.LANYARD_STAT_REF_LOCK 0 = true
      ∧ (s.on Reg.LANYARD_STAT_RUNNING 0 = true → t.lany = s.lany ∧ t.on Reg.LANYARD_STAT_LOCKED 0 = true)
      ∧ (s.on Reg.LANYARD_STAT_RUNNING 0 = false → s.on Reg.LANYARD_CTRL_PPSSTART 0 = false →
          t.lany = 0 ∧ t.on Reg.LANYARD_STAT_RUNNING 0 = true ∧ t.on Reg.LANYARD_STAT_LOCKED 0 = true)
      ∧ (s.on Reg.LANYARD_STAT_RUNNING 0 = false → s.on Reg.LANYARD_CTRL_PPSSTART 0 = true →
          t.lany = s.lany ∧ t.on Reg.LANYARD_STAT_RUNNING 0 = false))
  ∧ (∀ s : State, ¬ atHead s ∨ (s.safety.refBad = true ∧ s.on Reg.LANYARD_CTRL_LOCALREF 0 = false) → exec .lanyardStart s = .next s)
  ∧ (∀ (sub : Byte) (s : State), atHead s →
      (s.on Reg.LANYARD_STAT_RUNNING 0 = true → ∃ t, exec (.ppsEdge sub) s = .next t ∧ t.pair Reg.LANYARD_PPS_LO_T 0 = s.lany + sub.setWidth 64
          ∧ t.lany = s.lany ∧ ∀ a, a ≠ 0x1010 → a ≠ 0x1014 → t.reg a = s.reg a)
      ∧ (s.on Reg.LANYARD_STAT_RUNNING 0 = false → s.on Reg.LANYARD_STAT_REF_LOCK 0 = true → s.on Reg.LANYARD_CTRL_PPSSTART 0 = true →
          ∃ t, exec (.ppsEdge sub) s = .next t ∧ t.lany = 0 ∧ t.on Reg.LANYARD_STAT_RUNNING 0 = true ∧ t.pair Reg.LANYARD_PPS_LO_T 0 = 0)
      ∧ (s.on Reg.LANYARD_STAT_RUNNING 0 = false → s.on Reg.LANYARD_STAT_REF_LOCK 0 = false ∨ s.on Reg.LANYARD_CTRL_PPSSTART 0 = false →
          exec (.ppsEdge sub) s = .next s))
  ∧ (∀ (sub : Byte) (s : State), ¬ atHead s → exec (.ppsEdge sub) s = .next s)
  ∧ (∀ s : State, (s.isHead = true → s.on Reg.LANYARD_STAT_RUNNING 0 = true → ∃ t, exec .ppsMiss s = .next t ∧ t.on Reg.LANYARD_STAT_PPS_MISS 0 = true
          ∧ t.safety = s.safety ∧ ∀ a, a ≠ Reg.LANYARD_STAT_PPS_MISS.addr 0 → t.reg a = s.reg a)
      ∧ (s.isHead = false ∨ s.on Reg.LANYARD_STAT_RUNNING 0 = false → exec .ppsMiss s = .next s))
  ∧ (∀ s : State, atHead s → s.on Reg.LANYARD_CTRL_LOCALREF 0 = false →
      (∃ t, exec .lyRefLoss s = .next t ∧ t.on Reg.LANYARD_STAT_REF_LOCK 0 = false ∧ t.on Reg.LANYARD_STAT_LOCKED 0 = false ∧ t.lany = s.lany
        ∧ t.on Reg.LANYARD_STAT_RUNNING 0 = s.on Reg.LANYARD_STAT_RUNNING 0 ∧ t.on Reg.LANYARD_STAT_LOST 0 = s.on Reg.LANYARD_STAT_LOST 0
        ∧ (s.mode ≠ 3 → t.safety.due = s.safety.due ++ [(1, s.lany)]))
      ∧ ∃ t, exec .lyRefReturn s = .next t ∧ t.safety.refBad = false ∧ t.on Reg.LANYARD_STAT_REF_LOCK 0 = true
        ∧ (s.on Reg.LANYARD_STAT_RUNNING 0 = true → t.lany = s.lany ∧ t.on Reg.LANYARD_STAT_LOCKED 0 = true))
  ∧ (∀ s : State, (s.mode < 3 → exec .lyRefLoss s = .next s)
      ∧ (3 ≤ s.mode → s.isHead = false ∨ s.on Reg.LANYARD_CTRL_LOCALREF 0 = true →
          ∃ t, exec .lyRefLoss s = .next t ∧ t.safety.refBad = true ∧ { t with safety := s.safety } = s))
  ∧ (∀ s : State, s.on Reg.HAWSER_STAT_POS_CONFLICT 0 = false → s.hwUp .a = true → s.hwUp .b = true →
      ∃ t, exec .lnySend s = .next t ∧ t.link.wire = .lny .b :: .lny .a :: s.link.wire ∧ { t with link := s.link } = s)
  ∧ (∀ (p : HwPort) (x : LnyIn) (s : State), s.hwUp p = false → exec (.lny p x) s = .next s)
  ∧ (∀ (p : HwPort) (t1 t2 t3 : Int) (s : State), s.hwUp p = true → s.on Reg.HAWSER_STAT_POS_CONFLICT 0 = false → ∃ t, exec (.lny p (.ask t1 t2 t3)) s = .next t ∧ { t with link := s.link } = s
      ∧ t.link.wire = .lnyAnswer p t2 t3 (if s.isHead then 0 else s.rd Reg.LANYARD_HOPS_N 0) (s.rdInt (asymField p) 0) :: s.link.wire)
  ∧ (∀ (p : HwPort) (t1 t2 t3 t4 : Int) (hops : Nat) (asym apart : Int) (s : State), s.hwUp p = true → s.hwUp (otherPort p) = false → s.isHead = false →
    let delay := ((t4 - t1) - (t3 - t2)) * 5000
    let offset := ((t2 - t1) - (t4 - t3)) * 5000 - (s.rdInt (asymField p) 0 - asym) * 4096
    let jump : Prop := ∃ d, (s.hw p).delay = some d ∧ 200 * 8192 < |delay - d|
    ∃ t, exec (.lny p (.answer t1 t2 t3 t4 hops asym apart)) s = .next t
      ∧ t.rd Reg.LANYARD_OFFS_PS 0 = (BitVec.ofInt 16 (roundDiv offset 8192)).toNat
      ∧ t.rd Reg.LANYARD_DLY_PS 0 = (BitVec.ofInt 24 (roundDiv delay 8192)).toNat
      ∧ t.rd Reg.LANYARD_HOPS_N 0 = (hops + 1) % 64 ∧ t.on Reg.LANYARD_STAT_HOLDOVER 0 = false
      ∧ (s.on Reg.LANYARD_STAT_LOCKED 0 = true → t.lany = s.lany
          ∧ (t.on Reg.LANYARD_STAT_LOCKED 0 = false ↔ (30 * 8192 < |offset| ∧ 1 ≤ s.hawser.bad) ∨ jump ∨ 4096 < |apart|)
          ∧ (t.on Reg.LANYARD_STAT_LOCKED 0 = false → t.on Reg.LANYARD_STAT_LOST 0 = true))
      ∧ (s.on Reg.LANYARD_STAT_LOCKED 0 = false → t.lany = s.lany + BitVec.ofInt 64 (256 * roundDiv offset (5000 * 8192))
          ∧ t.on Reg.LANYARD_STAT_RUNNING 0 = true
          ∧ (t.on Reg.LANYARD_STAT_LOCKED 0 = true ↔ |offset| ≤ 10 * 8192 ∧ 15 ≤ s.hawser.good)))
  ∧ ∀ s : State, (s.on Reg.LANYARD_STAT_HOLDOVER 0 = true → s.on Reg.LANYARD_STAT_LOCKED 0 = true → ∃ t, exec .holdoverExpiry s = .next t
        ∧ t.on Reg.LANYARD_STAT_LOST 0 = true ∧ t.on Reg.LANYARD_STAT_LOCKED 0 = false ∧ t.lany = s.lany)
    ∧ (s.on Reg.LANYARD_STAT_HOLDOVER 0 = false ∨ s.on Reg.LANYARD_STAT_LOCKED 0 = false → exec .holdoverExpiry s = .next s)

/-! ### Power, operating states, reset -/

/-- The line front end (R377 to R380, R458 to R462). Detection leads from OFF to LINE_DETECT and removal back; a QUERY is answered by a REQUEST of the strapped class, and a GRANT within 20 ms after it is recorded; the start threshold leads to
POWERING, or sets CLASS_LOW when the grant is below the request; good rails enter BOOT with the cause of the strap; 100 ms without them return to OFF for a wait; a loss of input sets HOLDUP and freezes the
log, and the end of the hold-up is OFF. What is out of its place changes nothing. -/
def Obligations.PowerStates : Prop :=
  let state (n : Nat) (s t : State) : Prop := t.mode = n ∧ (∀ a, a ≠ 0x3000 → t.reg a = s.reg a) ∧ { t with regs := s.regs } = s
  (∀ s : State, (s.mode = 0 → s.on Reg.GLOBAL_STRAP_PWR 0 = false → ∃ t, exec .lineDetect s = .next t ∧ state 1 s t)
    ∧ (s.mode ≠ 0 ∨ s.on Reg.GLOBAL_STRAP_PWR 0 = true → exec .lineDetect s = .next s))
  ∧ (∀ s : State, ∃ t, exec .lineRemoved s = .next t ∧ t.mode = (if s.mode = 1 then 0 else s.mode) ∧ t.power.granted = false
      ∧ t.rd Reg.POWER_STAT_CLS_GRANT 0 = 0 ∧ ∀ a, a ≠ 0x3000 → a ≠ 0x2000 → t.reg a = s.reg a)
  ∧ (∀ s : State, (s.mode = 1 → ∃ t, exec .classQuery s = .next t ∧ t.power.queried = true ∧ { t with power := s.power } = s)
    ∧ (s.mode ≠ 1 → exec .classQuery s = .next s))
  ∧ (∀ s : State, (s.mode = 1 → s.power.queried = true → let c := s.rd Reg.GLOBAL_STRAP_CLS 0
        ∃ t, exec .classRequest s = .next t ∧ t.power.requested = some c ∧ t.power.queried = false ∧ t.link.wire = .request c [0xAA, BitVec.ofNat 8 (0xC0 + c), ~~~BitVec.ofNat 8 (0xC0 + c)] :: s.link.wire
          ∧ t.rd Reg.POWER_STAT_CLS_REQ 0 = c ∧ t.mode = 1)
    ∧ (s.mode ≠ 1 ∨ s.power.queried = false → exec .classRequest s = .next s))
  ∧ (∀ (k : BitVec 2) (after : Nat) (s : State), (s.mode = 1 → s.power.requested.isSome = true → after ≤ 20000 →
        ∃ t, exec (.grant ⟨k, after⟩) s = .next t ∧ t.power.granted = true ∧ t.rd Reg.POWER_STAT_CLS_GRANT 0 = k.toNat ∧ ∀ a, a ≠ 0x2000 → t.reg a = s.reg a)
    ∧ (s.mode ≠ 1 ∨ s.power.requested = none ∨ 20000 < after → exec (.grant ⟨k, after⟩) s = .next s))
  ∧ (∀ s : State, let external := s.on Reg.GLOBAL_STRAP_PWR 0
    let low := s.rd Reg.POWER_STAT_CLS_GRANT 0 < s.rd Reg.POWER_STAT_CLS_REQ 0
    (s.power.wait = false → (s.mode = 0 ∧ external = true) ∨ (s.mode = 1 ∧ s.power.granted = true ∧ ¬ low) →
        ∃ t, exec .startThreshold s = .next t ∧ t.mode = 2 ∧ t.power.gate = true ∧ t.on Reg.POWER_STAT_MODE 0 = external)
    ∧ (s.power.wait = false → s.mode = 1 → s.power.granted = true → low →
        ∃ t, exec .startThreshold s = .next t ∧ t.mode = 1 ∧ t.on Reg.POWER_STAT_CLASS_LOW 0 = true ∧ t.power = s.power)
    ∧ (s.power.wait = true ∨ (s.mode = 0 ∧ external = false) ∨ (s.mode = 1 ∧ s.power.granted = false) ∨ 2 ≤ s.mode → exec .startThreshold s = .next s))
  ∧ (∀ s : State, (s.mode = 2 → ∃ t, exec .powerGood s = .next t ∧ t.mode = 3 ∧ t.rd Reg.POWER_STAT_PG 0 = 15
        ∧ t.rd Reg.BOOT_RSTCAUSE_CAUSE 0 = (if s.on Reg.POWER_STAT_MODE 0 then 2 else 1)
        ∧ t.on Reg.BOOT_RSTCAUSE_HOLDUP 0 = s.boot.hadHoldup ∧ t.on Reg.BOOT_RSTCAUSE_PG_TMO 0 = s.boot.hadTimeout
        ∧ t.rd Reg.BOOT_INCARN_N 0 = (s.mram.incarn + 1) % 2 ^ 32)
    ∧ (s.mode ≠ 2 → exec .powerGood s = .next s))
  ∧ (∀ s : State, (s.mode = 2 → ∃ t, exec .poweringTimeout s = .next t ∧ t.mode = 0 ∧ t.power.wait = true ∧ t.power.gate = false
        ∧ t.rd Reg.POWER_STAT_PG 0 = 0 ∧ t.boot.hadTimeout = true ∧ t.mram.slots = s.mram.slots)
    ∧ (s.mode ≠ 2 → exec .poweringTimeout s = .next s))
  ∧ (∀ s : State, ∃ t, exec .poweringRetry s = .next t ∧ t.power.wait = false ∧ { t with power := s.power } = s)
  ∧ (∀ s : State, (3 ≤ s.mode → s.boot.holdup = false → ∃ t, exec .lossOfInput s = .next t ∧ t.on Reg.POWER_STAT_HOLDUP 0 = true
        ∧ t.boot.holdup = true ∧ t.mode = s.mode ∧ ∃ f, t.log.cur = some f ∧ f.cause.testBit 1 = true ∧ f.count = 512 ∧ f.begun = none)
    ∧ (3 ≤ s.mode → s.boot.holdup = true → ∃ t, exec .lossOfInput s = .next t ∧ t.on Reg.POWER_STAT_HOLDUP 0 = s.on Reg.POWER_STAT_HOLDUP 0
        ∧ (∀ a, a ≠ 0x2000 → t.reg a = s.reg a) ∧ { t with regs := s.regs, free := s.free } = s)
    ∧ (s.mode < 3 → exec .lossOfInput s = .next s))
  ∧ ∀ s : State, (s.boot.holdup = true → ∃ t, exec .holdupExpiry s = .next t ∧ t.mode = 0 ∧ t.boot.holdup = false ∧ t.bins = []
        ∧ t.strands = [] ∧ t.mram.slots = s.mram.slots ∧ t.otp = s.otp)
    ∧ (s.boot.holdup = false → exec .holdupExpiry s = .next s)

/-- The operating states from BOOT to WATCH (R376, R383, R389 to R401). Each transition is taken from its own state and under its own conditions, and elsewhere is not: BOOT to SELF_TEST, to ARMED, or to SAFE_STOP on a failed item or a recorded fault that leads there; ARMED
through the start calibration to RUNNING; RUN, HOLD, RESUME and WATCH, which set CMD_REJ where they do not apply and are not governed by the lock; WATCH and its end. A cause that
one before it in the order of R381 has overruled in the same clock changes nothing. -/
def Obligations.OperatingStates : Prop :=
  let rejected (i : Instr) (s : State) : Prop := ∃ t, exec i s = .next t ∧ t.acc = .ok ∧ t.on Reg.BOOT_STAT_CMD_REJ 0 = true
    ∧ (∀ a, a ≠ 0x3008 → t.reg a = s.reg a) ∧ RegsOnly s t
  let discarded (i : Instr) (s : State) : Prop := ∃ t, exec i s = .next t ∧ t.acc = .ok ∧ (∀ a, t.reg a = s.reg a) ∧ RegsOnly s t
  (∀ (x : Half) (s : State), (s.mode = 3 → ∃ t, exec (.bootComplete x) s = .next t ∧ t.mode = 4 ∧ t.rd Reg.BOOT_TIME_BOOT 0 = x.toNat
        ∧ ∀ c : PcId, t.on Reg.PC_CSTAT_ICAL_BUSY c = true)
    ∧ (s.mode ≠ 3 → exec (.bootComplete x) s = .next s))
  ∧ (∀ (b : BitVec 5) (x : Half) (s : State), (s.mode = 4 →
        let stop : Prop := b ≠ 0 ∨ ∃ k, k < 16 ∧ s.bit Reg.SAFETY_FAULT_F 0 k = true ∧ (k < 4 ∨ s.bit Reg.SAFETY_STOPEN_EN 0 (k - 4) = true)
        ∃ t, exec (.selfTestEnd b x) s = .next t ∧ t.rd Reg.BOOT_STFAIL_ITEMS 0 = b.toNat ∧ t.rd Reg.BOOT_TIME_ST 0 = x.toNat
        ∧ (s.overruled 10 = false → stop → t.mode = 9)
        ∧ (s.overruled 10 = false → ¬ stop → t.mode = 5
            ∧ t.on Reg.BOOT_STAT_RUN_PEND 0 = (s.on Reg.BOOT_STAT_RUN_PEND 0 || s.bit Reg.BOOT_POLICY_P 0 1))
        ∧ (s.overruled 10 = true → t.mode = 4) ∧ (b ≠ 0 → (0, s.lany) ∈ t.safety.due))
    ∧ (s.mode ≠ 4 → exec (.selfTestEnd b x) s = .next s))
  ∧ (∀ s : State,
    let free : Prop := s.mode = 5 ∧ s.boot.startCal = none ∧ s.on Reg.BOOT_STAT_RUN_PEND 0 = true ∧ s.on Reg.BOOT_STAT_NOIMAGE 0 = false
        ∧ (s.on Reg.BOOT_STAT_DIVERGED 0 = false ∨ s.on Reg.BOOT_STAT_DIV_ACK 0 = true ∨ s.bit Reg.BOOT_POLICY_P 0 0 = true)
        ∧ (∀ c, c < 24 → s.rd Reg.PC_CONN_TYPE c = 0 ∨ s.on Reg.PC_CSTAT_ICAL_BUSY c = false)
        ∧ s.on Reg.LANYARD_STAT_RUNNING 0 = true ∧ (s.on Reg.HAWSER_CTRL_EN 0 = false ∨ s.on Reg.LANYARD_STAT_LOCKED 0 = true);
    (free → ∃ t sc, exec .armedToRunning s = .next t ∧ t.mode = 5 ∧ t.boot.startCal = some sc ∧ sc.pass = 1 ∧ sc.todo = List.range 13
        ∧ ∀ ch, ch < 192 → s.rd Reg.FC_CTRL_PWR ch ≠ 2 → ch ∈ sc.chans ∧ t.rd Reg.FC_STAT_PSTATE ch = 3)
    ∧ (¬ free → exec .armedToRunning s = .next s))
  ∧ (∀ (s : State) (sc : StartCal), s.boot.startCal = some sc → (4 ≤ sc.pass → s.mode = 5 → s.overruled 12 = false → ∃ t, exec .startCalibrationEnd s = .next t ∧ t.mode = 6
        ∧ t.on Reg.GAPCAL_STAT_START_DONE 0 = true ∧ t.on Reg.BOOT_STAT_RUN_PEND 0 = false ∧ t.boot.startCal = none)
    ∧ (sc.pass < 4 ∨ s.mode ≠ 5 ∨ s.overruled 12 = true → exec .startCalibrationEnd s = .next s))
  ∧ (∀ s : State, s.boot.startCal = none → exec .startCalibrationEnd s = .next s)
  ∧ (∀ (src : Source) (s : State), 3 ≤ s.mode → s.mode ≠ 9 →
    (s.mode = 5 → ∃ t, exec (.bootCmdRun src) s = .next t ∧ t.acc = .ok ∧ t.on Reg.BOOT_STAT_RUN_PEND 0 = true ∧ t.mode = 5
        ∧ (∀ a, a ≠ 0x3008 → t.reg a = s.reg a) ∧ RegsOnly s t)
    ∧ (s.mode ≠ 5 → rejected (.bootCmdRun src) s)
    ∧ (s.overruled 13 = true → discarded (.bootCmdHold src) s) ∧ (s.overruled 14 = true → discarded (.bootCmdResume src) s)
    ∧ (s.overruled 15 = true → discarded (.bootCmdWatch src) s)
    ∧ (s.overruled 13 = false → s.mode = 6 → ∃ t, exec (.bootCmdHold src) s = .next t ∧ t.acc = .ok ∧ t.mode = 8 ∧ t.on Reg.BOOT_STAT_WATCH_PEND 0 = false
        ∧ t.on Reg.BOOT_STAT_STOPPING 0 = (List.range 64).any t.runs
        ∧ ∀ i : StrandId, s.sstate i = 1 ∨ s.sstate i = 2 → (s.strand i).restartRun = false → t.on Reg.STRAND_CTRL_RUN i = false)
    ∧ (s.overruled 13 = false → s.mode = 8 → s.on Reg.BOOT_STAT_WATCH_PEND 0 = true → ∃ t, exec (.bootCmdHold src) s = .next t ∧ t.mode = 8
        ∧ t.on Reg.BOOT_STAT_WATCH_PEND 0 = false ∧ (∀ a, a ≠ 0x3008 → t.reg a = s.reg a) ∧ RegsOnly s t)
    ∧ (s.overruled 13 = false → s.mode ≠ 6 → s.mode ≠ 8 ∨ s.on Reg.BOOT_STAT_WATCH_PEND 0 = false → rejected (.bootCmdHold src) s)
    ∧ (s.overruled 14 = false → s.mode = 8 ∨ (s.mode = 6 ∧ s.on Reg.BOOT_STAT_WATCH_PEND 0 = true) → ∃ t, exec (.bootCmdResume src) s = .next t ∧ t.acc = .ok ∧ t.mode = 6
        ∧ t.on Reg.BOOT_STAT_WATCH_PEND 0 = false ∧ t.reg 0x3030 = 0 ∧ t.reg 0x3034 = 0)
    ∧ (s.overruled 14 = false → s.mode = 7 → s.boot.waking = false → ∃ t, exec (.bootCmdResume src) s = .next t ∧ t.mode = 7 ∧ t.boot.waking = true ∧ t.rd Reg.BOOT_STAT_WCAUSE 0 = 2)
    ∧ (s.overruled 14 = false → s.mode < 6 ∨ (s.mode = 6 ∧ s.on Reg.BOOT_STAT_WATCH_PEND 0 = false) → rejected (.bootCmdResume src) s)
    ∧ (s.overruled 15 = false → s.mode = 6 ∨ s.mode = 8 → ∃ t, exec (.bootCmdWatch src) s = .next t ∧ t.acc = .ok ∧ t.mode = s.mode ∧ t.on Reg.BOOT_STAT_WATCH_PEND 0 = true)
    ∧ (s.overruled 15 = false → s.mode ≠ 6 → s.mode ≠ 8 → rejected (.bootCmdWatch src) s))
  ∧ (∀ s : State, (s.mode = 6 ∨ s.mode = 8 → s.on Reg.BOOT_STAT_WATCH_PEND 0 = true → s.drained = true → s.overruled 15 = false →
        ∃ t, exec .watchEntry s = .next t ∧ t.mode = 7 ∧ t.on Reg.BOOT_STAT_WATCH_PEND 0 = false ∧ t.rd Reg.BOOT_STAT_WCAUSE 0 = 0
          ∧ (s.on Reg.BOOT_STAT_WAKE_PEND 0 = false → ∀ ch : ChanId, t.rd Reg.FC_STAT_PSTATE ch = 0) ∧ (∀ p : PortId, t.rd Reg.PRB_SETNOW_SET p = 0) ∧ ∀ c : PcId, t.on Reg.PC_FSTAT_EXC_ON c = false)
    ∧ (s.drained = false ∨ s.overruled 15 = true ∨ s.on Reg.BOOT_STAT_WATCH_PEND 0 = false ∨ (s.mode ≠ 6 ∧ s.mode ≠ 8) → exec .watchEntry s = .next s))
  ∧ (∀ s : State, (s.mode = 7 → s.boot.waking = false → s.rd Reg.BOOT_WTIMER_SEC 0 ≠ 0 →
        ∃ t, exec .watchTimerExpiry s = .next t ∧ t.boot.waking = true ∧ t.rd Reg.BOOT_STAT_WCAUSE 0 = 3 ∧ t.mode = 7)
    ∧ (s.mode ≠ 7 ∨ (s.boot.waking = true ∧ s.rd Reg.BOOT_STAT_WCAUSE 0 ≤ 3) ∨ s.rd Reg.BOOT_WTIMER_SEC 0 = 0 → exec .watchTimerExpiry s = .next s))
  ∧ ∀ s : State, let unlocked : Prop := s.on Reg.HAWSER_CTRL_EN 0 = true ∧ s.on Reg.LANYARD_STAT_LOCKED 0 = false
    (s.mode = 7 → s.boot.waking = true → unlocked → ∃ t, exec .wakeComplete s = .next t ∧ t.mode = 7 ∧ t.on Reg.BOOT_STAT_WAKE_PEND 0 = true)
    ∧ (s.mode = 7 → s.boot.waking = true → ¬ unlocked → ∃ t, exec .wakeComplete s = .next t ∧ t.mode = 6 ∧ t.boot.waking = false
        ∧ t.on Reg.BOOT_STAT_WAKE_PEND 0 = false)
    ∧ (s.mode ≠ 7 ∨ s.boot.waking = false → exec .wakeComplete s = .next s)

/-- Reset (R382, R450, Table 19.4). At entry to BOOT every register holds its Reset value but the ones loaded from MRAM and OTP, nothing runs, and no memory word is listed; RST_N, and SWRST with its key and the lock open, come
to that state with their cause, one incarnation more, and POWER_STAT, the MRAM log slots and, with no operation on it broken off, the flash as they were. A SWRST without its key or with the lock closed resets nothing. That the straps, MRAM and OTP of State.reset
are zero is the model's choice (log entry 4). -/
def Obligations.ResetValues : Prop :=
  let loaded : List Nat := [0x3020, 0x3024, 0x5100, 0x5104, 0x5108, 0x510C, 0x5110, 0x5008, 0x500C, 0x5014, 0x2000, 0xC]
  let again (cause : Nat) (s t : State) : Prop := t.mode = 3 ∧ (∀ a, a ∉ loaded → t.reg a = regReset a)
    ∧ t.rd Reg.BOOT_RSTCAUSE_CAUSE 0 = cause ∧ t.rd Reg.BOOT_INCARN_N 0 = (s.mram.incarn + 1) % 2 ^ 32 ∧ t.reg 0x2000 = s.reg 0x2000
    ∧ t.strands = [] ∧ t.cores = [] ∧ t.chans = [] ∧ t.pcs = [] ∧ t.bins = [] ∧ t.metas = [] ∧ t.lany = 0
    ∧ t.mram.slots = s.mram.slots ∧ (s.boot.flashOp = none → t.boot.flash = s.boot.flash) ∧ t.otp = s.otp ∧ t.pending = s.pending
  (∀ a, State.reset.reg a = regReset a)
  ∧ regReset 0 = 0x719200B0 ∧ regReset 0x18 = 0x690 ∧ regReset 0x3000 = 3 ∧ regReset 0x4004 = 0xF ∧ regReset 0x4008 = 1 ∧ regReset 0x5100 = 8
  ∧ (∀ c : PcId, regReset (0x20000 + 128 * c.val) = 0x500000 ∧ regReset (0x2003C + 128 * c.val) = 0x800001 ∧ regReset (0x20040 + 128 * c.val) = 0x7FFFFF)
  ∧ State.reset.pending = [] ∧ State.reset.sortedStores = true ∧ State.reset.mode = 3
  ∧ (∀ s : State, (3 ≤ s.mode → s.overruled 2 = false → ∃ t, exec .rstNReset s = .next t ∧ again 3 s t) ∧ (s.mode < 3 ∨ s.overruled 2 = true → exec .rstNReset s = .next s))
  ∧ ∀ (src : Source) (key : Byte) (s : State), 3 ≤ s.mode →
    (s.classOpen .device = true → key = 0xA5 → s.overruled 2 = false → ∃ t, exec (.bootCmdSwrst src key) s = .next t ∧ again 4 s t)
    ∧ (s.classOpen .device = true → key ≠ 0xA5 ∨ s.overruled 2 = true → ∃ t, exec (.bootCmdSwrst src key) s = .next t ∧ t.mode = s.mode ∧ t.mram = s.mram ∧ t.strands = s.strands)
    ∧ (s.classOpen .device = false → ∃ t, exec (.bootCmdSwrst src key) s = .next t ∧ t.acc = .locked ∧ (∀ a, t.reg a = s.reg a)
        ∧ RegsOnly s t)

/-- The flash and the log line (R402, R428 to R434, R449). A flash operation is taken in ARMED and HELD, outside the half in use, while none runs, and otherwise REFUSED; with the lock closed nothing happens. At its end an erased sector reads 0xFF,
a programmed page holds the page buffer, a read stands in BOOT_FDATA, and a failure shows in ERR. LOG_MARK makes a record and LOG_CMD a freeze; a freeze takes an invalid slot or the lowest FSEQ, invalid while it writes and valid at its end.
A temperature at or above the limit sets its HOT bit. -/
def Obligations.FlashAndLog : Prop :=
  let fcmd (op : Nat) (src : Source) : Instr := if op = 1 then .bootFcmdErase src else if op = 2 then .bootFcmdProgram src else .bootFcmdRead src
  let inUse (s : State) : Prop := s.on Reg.BOOT_STAT_NOIMAGE 0 = false ∧ s.rd Reg.BOOT_FADDR_A 0 / 0x2000000 = s.rd Reg.BOOT_STAT_COPY 0
  (∀ (src : Source) (op : Nat) (s : State), 1 ≤ op → op ≤ 3 → 3 ≤ s.mode → s.classOpen .device = true → s.notLate src 0x3040 →
    (s.mode = 5 ∨ s.mode = 8 → s.on Reg.BOOT_FSTAT_BUSY 0 = false → ¬ inUse s → ∃ t, exec (fcmd op src) s = .next t ∧ t.acc = .ok
        ∧ t.on Reg.BOOT_FSTAT_BUSY 0 = true ∧ t.boot.flashOp = some (op, s.rd Reg.BOOT_FADDR_A 0) ∧ t.boot.flash = s.boot.flash)
    ∧ ((s.mode ≠ 5 ∧ s.mode ≠ 8) ∨ s.on Reg.BOOT_FSTAT_BUSY 0 = true ∨ inUse s → ∃ t, exec (fcmd op src) s = .next t ∧ t.acc = .ok
        ∧ t.on Reg.BOOT_FSTAT_REFUSED 0 = true ∧ t.boot = s.boot))
  ∧ (∀ (src : Source) (op : Nat) (v : Word) (s : State), 1 ≤ op → op ≤ 3 → 3 ≤ s.mode → s.classOpen .device = false →
    ∀ i ∈ [fcmd op src, .bootFdataWrite src v, .safetyTestInj src, .logCmdFreeze src, .logMark src v],
      ∃ t, exec i s = .next t ∧ t.acc = .locked ∧ t.regs = s.regs ∧ RegsOnly s t)
  ∧ (∀ (src : Source) (v : Word) (s : State), 3 ≤ s.mode → s.classOpen .device = true → s.boot.pagePos < 256 →
    ∃ t, exec (.bootFdataWrite src v) s = .next t ∧ t.acc = .ok ∧ t.boot.pagePos = (s.boot.pagePos + 4) % 256 ∧ t.boot.flash = s.boot.flash
      ∧ ∀ k, k < 4 → t.pageByte (s.boot.pagePos + k) = BitVec.ofNat 8 (v.toNat / 256 ^ k))
  ∧ (∀ (ok : Bool) (s : State), s.boot.flashOp = none → exec (.flashOperationEnd ok) s = .next s)
  ∧ (∀ (s : State) (op a : Nat), s.boot.flashOp = some (op, a) → 1 ≤ op → op ≤ 3 →
    (∃ t, exec (.flashOperationEnd true) s = .next t ∧ t.on Reg.BOOT_FSTAT_BUSY 0 = false ∧ t.boot.flashOp = none
      ∧ (op = 1 → ∀ b, t.flash b = (if b / 65536 = a / 65536 then 0xFF else s.flash b))
      ∧ (op = 2 → ∀ b, t.flash b = (if b / 256 = a / 256 then s.pageByte (b % 256) else s.flash b))
      ∧ (op = 3 → t.boot.flash = s.boot.flash ∧ t.rd Reg.BOOT_FDATA_D 0
          = (s.flash a).toNat + 256 * (s.flash (a + 1)).toNat + 65536 * (s.flash (a + 2)).toNat + 16777216 * (s.flash (a + 3)).toNat))
    ∧ ∃ t, exec (.flashOperationEnd false) s = .next t ∧ t.on Reg.BOOT_FSTAT_BUSY 0 = false ∧ t.on Reg.BOOT_FSTAT_ERR 0 = true
      ∧ t.boot.flashOp = none ∧ ∀ b, b / 65536 ≠ a / 65536 → t.flash b = s.flash b)
  ∧ (∀ (src : Source) (v : Word) (s : State), 3 ≤ s.mode → s.classOpen .device = true → s.log.ring.length < 4094 →
    (s.notLate src 0x5004 → ∃ t r, exec (.logMark src v) s = .next t ∧ t.acc = .ok ∧ t.log.ring.head? = some r ∧ r.code = 0xF0 ∧ r.a0 = v.toNat ∧ r.t = s.lany
      ∧ t.rd Reg.LOG_SEQ_N 0 = r.lseq % 2 ^ 32)
    ∧ (s.log.cur = none → ∃ t f, exec (.logCmdFreeze src) s = .next t ∧ t.acc = .ok ∧ t.log.cur = some f ∧ f.cause = 4 ∧ f.begun = none
        ∧ f.point + 1 = t.log.next ∧ t.on Reg.LOG_STAT_FBUSY 0 = true))
  ∧ (∀ (s : State) (f : Freeze), s.log.cur = some f → f.begun = none → f.useSlot = none → s.commit = none → s.mram.slots.length = 4 →
    ∃ t k, exec .freezeBegin s = .next t ∧ k < 4 ∧ t.log.cur = some { f with begun := some (k, s.mram.fseq + 1) } ∧ t.mram.fseq = s.mram.fseq + 1
      ∧ nth t.mram.slots k none = none ∧ (∀ j, j ≠ k → nth t.mram.slots j none = nth s.mram.slots j none)
      ∧ ∀ j x, j < 4 → nth s.mram.slots k none = some x → ∃ y, nth s.mram.slots j none = some y ∧ x.fseq ≤ y.fseq)
  ∧ (∀ s : State, (∀ f, s.log.cur = some f → f.begun.isSome = true) → exec .freezeBegin s = .next s)
  ∧ (∀ (s : State) (f : Freeze) (k n : Nat), s.log.cur = some f → f.begun = some (k, n) → k < 4 → s.mram.slots.length = 4 →
    ∃ t x, exec .freezeEnd s = .next t ∧ nth t.mram.slots k none = some x ∧ x.fseq = n ∧ x.cause = f.cause ∧ x.lseq = f.point
      ∧ x.recs = s.log.ring.filter (fun r => decide (f.point < r.lseq + f.count ∧ r.lseq ≤ f.point)) ∧ t.log.cur = s.log.queued ∧ t.log.queued = none)
  ∧ (∀ s : State, (∀ f, s.log.cur = some f → f.begun = none) → exec .freezeEnd s = .next s)
  ∧ ∀ (x : List Half) (s : State), x.length = 6 → 3 ≤ s.mode → ∃ t, exec (.tempMeasure x) s = .next t ∧ t.on Reg.GLOBAL_TSTAT_VALID 0 = true
      ∧ { t with regs := s.regs, raised := s.raised } = s ∧ ∀ k, k < 6 → t.rd (Reg.GLOBAL_TEMP_T k) 0 = (nth x k 0).toNat
          ∧ t.bit Reg.GLOBAL_TSTAT_HOT 0 k = (s.bit Reg.GLOBAL_TSTAT_HOT 0 k || decide (s.rdInt Reg.GLOBAL_TLIM_LIM 0 ≤ (nth x k 0).toInt))

/-! ### Functional safety -/

/-- The safety monitor (R407, R411 to R419, R425). A source that has become set sets its bit, drives SAFE_N low and reports; the first fault is recorded with its time; one that Table 17.1 or STOPEN makes a stop enters SAFE_STOP from ARMED,
RUNNING, WATCH or HELD. A write clears the bits whose sources read clear and no others, and none that the same clock sets, and SAFE_N returns with the last of them only in those four states. The heartbeat toggles while SAFE_N is high. -/
def Obligations.SafetyMonitor : Prop :=
  (∀ s : State, s.safety.due = [] → exec .safetyFault s = .next s)
  ∧ (∀ (s : State) (k : Nat) (x : Time), s.safety.due = [(k, x)] → k < 16 → 3 ≤ s.mode → s.bit Reg.SAFETY_FAULT_F 0 k = false →
    let stops : Prop := k < 4 ∨ s.bit Reg.SAFETY_STOPEN_EN 0 (k - 4) = true
    ∃ t, exec .safetyFault s = .next t ∧ (∀ j, j < 16 → t.bit Reg.SAFETY_FAULT_F 0 j = (s.bit Reg.SAFETY_FAULT_F 0 j || decide (j = k)))
      ∧ t.safety.safeN = .low ∧ t.on Reg.SAFETY_STAT_SAFE 0 = true
      ∧ (s.rd Reg.SAFETY_FAULT_F 0 = 0 → t.rd Reg.SAFETY_STAT_FIRST 0 = k + 1 ∧ t.pair Reg.SAFETY_FTIME_LO_T 0 = x)
      ∧ (s.rd Reg.SAFETY_FAULT_F 0 ≠ 0 → t.rd Reg.SAFETY_STAT_FIRST 0 = s.rd Reg.SAFETY_STAT_FIRST 0)
      ∧ t.mode = (if (k < 4 ∨ s.bit Reg.SAFETY_STOPEN_EN 0 (k - 4) = true) ∧ 5 ≤ s.mode ∧ s.overruled 3 = false then 9 else s.mode)
      ∧ (stops → s.overruled 3 = false → 5 ≤ s.mode → s.mode ≤ 8 → t.on Reg.SAFETY_STAT_STOP 0 = true ∧ ∀ p : PortId, (t.port p).gate = [] ∧ (t.port p).next = none
          ∧ t.rd Reg.PRB_SETNOW_SET p = 0))
  ∧ (∀ (s : State) (k : Nat) (x : Time), s.safety.due = [(k, x)] → s.bit Reg.SAFETY_FAULT_F 0 k = true →
    ∃ t, exec .safetyFault s = .next t ∧ t.safety.due = [] ∧ { t with safety := s.safety } = s)
  ∧ (∀ (src : Source) (w : Word) (s : State), 3 ≤ s.mode → ∃ t, exec (.safetyFaultClear src w) s = .next t ∧ t.acc = .ok ∧ t.mode = s.mode
      ∧ (∀ k, k < 16 → t.bit Reg.SAFETY_FAULT_F 0 k = (s.bit Reg.SAFETY_FAULT_F 0 k
          && !(w.getLsbD k && !s.sourceSet k && !((s.raised.getD (Reg.SAFETY_FAULT_F.addr 0) 0).getLsbD k))))
      ∧ (s.rd Reg.SAFETY_FAULT_F 0 ≠ 0 → t.rd Reg.SAFETY_FAULT_F 0 = 0 → t.rd Reg.SAFETY_STAT_FIRST 0 = 0
          ∧ t.safety.safeN = (if 5 ≤ s.mode ∧ s.mode ≤ 8 then .high else .low))
      ∧ (t.rd Reg.SAFETY_FAULT_F 0 ≠ 0 → t.safety = s.safety ∧ t.rd Reg.SAFETY_STAT_FIRST 0 = s.rd Reg.SAFETY_STAT_FIRST 0))
  ∧ (∀ (src : Source) (s : State), 3 ≤ s.mode → s.classOpen .device = true → ∃ t, exec (.safetyTestInj src) s = .next t ∧ t.acc = .ok
      ∧ t.safety.due = s.safety.due ++ [(15, s.lany)] ∧ t.mode = s.mode)
  ∧ (∀ s : State, ∃ t, exec .safeHbToggle s = .next t ∧ { t with safety := s.safety } = s ∧ t.safety.safeN = s.safety.safeN
      ∧ (s.safety.safeN = .high → (t.safety.safeHb = .high ↔ s.safety.safeHb ≠ .high)) ∧ (s.safety.safeN ≠ .high → t = s))
  ∧ (∀ (bad : Bool) (s : State), 3 ≤ s.mode → ∃ t, exec (.configSweepPass bad) s = .next t
      ∧ t.rd Reg.SAFETY_SWEEP_PASS 0 = (s.rd Reg.SAFETY_SWEEP_PASS 0 + 1) % 2 ^ 32 ∧ (∀ a, a ≠ Reg.SAFETY_SWEEP_PASS.addr 0 → t.reg a = s.reg a)
      ∧ t.safety.due = s.safety.due ++ (if bad then [(3, s.lany)] else []))
  ∧ ∀ (lasts : Bool) (s : State), 3 ≤ s.mode →
    (∃ t, exec (.clockFault lasts) s = .next t ∧ t.safety.due = s.safety.due ++ [(1, s.lany)] ∧ t.safety.clockBad = lasts ∧ { t with safety := s.safety } = s)
    ∧ ∃ t, exec (.railFault lasts) s = .next t ∧ t.safety.due = s.safety.due ++ [(2, s.lany)] ∧ t.safety.railBad = lasts ∧ { t with safety := s.safety } = s

/-! ### Register accesses and the stores -/

/-- A register write (R5, R16, R30, R438, R451). Before BOOT none is carried out. An unassigned address takes no write and answers OK; a gated island performs no access, reads 0 and answers GATED, which housekeeping never does (R30); a register whose writable fields are all RWL or IMG answers LOCKED while the lock closes
its class; each with no effect. Elsewhere each field takes the write under its access code, shown on GLOBAL. A read of an unassigned address is 0, and of a pair the low word holds the high one for the source (R29).
A read of an RC counter returns and takes away what it held before the present clock (R453). -/
def Obligations.RegisterAccess : Prop :=
  let only (c : AccCode) (i : Instr) (s : State) : Prop := ∃ t, exec i s = .next t ∧ t.acc = c ∧ t.regs = s.regs ∧ RegsOnly s t
  (∀ (src : Source) (a : Nat) (v : Word) (s : State), (s.mode < 3 → exec (.registerWrite src a v) s = .next s)
    ∧ (3 ≤ s.mode → lookup a = none → only .ok (.registerWrite src a v) s)
    ∧ (∀ h, s.mode = 7 → lookup a = some h → h.island = .fold ∨ h.island = .phase ∨ h.island = .core → only .gated (.registerWrite src a v) s)
    ∧ ∀ h, 3 ≤ s.mode → lookup a = some h → s.gated h true = false → (∀ f ∈ h.fields, f.acc ≠ .rw ∧ f.acc ≠ .w1c ∧ f.acc ≠ .w1s ∧ f.acc ≠ .wo) →
        (∃ f ∈ h.fields, f.acc = .rwl ∨ f.acc = .img) → s.classOpen h.lockClass = false → s.notLate src a → only .locked (.registerWrite src a v) s)
  ∧ (∀ (src : Source) (a : Nat) (v : Word) (s : State) (h : Hit), 3 ≤ s.mode → lookup a = some h →
    (s.gated h true = true → only .gated (.registerWrite src a v) s)
    ∧ (s.gated h false = true → (s.readReg src a).readVal = 0 ∧ (s.readReg src a).acc = .gated
        ∧ { s.readReg src a with readVal := s.readVal, acc := s.acc } = s)
    ∧ (h.island = .housekeeping → ∀ w, s.gated h w = false))
  ∧ (∀ (src : Source) (v : Word) (s : State), 3 ≤ s.mode → ∀ x ∈ [((0x10 : Nat), v), (0x14, v), (0x18, (s.reg 0x18 &&& 0xFFFF0000) ||| (v &&& 0xFFFF)),
      (0x1C, s.reg 0x1C &&& ~~~(v &&& 0x3F &&& ~~~s.raised.getD 0x1C 0)), (0, s.reg 0)],
    s.notLate src x.1 → ∃ t, exec (.registerWrite src x.1 v) s = .next t ∧ t.acc = .ok ∧ t.reg x.1 = x.2 ∧ (∀ a, a ≠ x.1 → t.reg a = s.reg a)
      ∧ RegsOnly s t)
  ∧ (∀ (src : Source) (a : Nat) (s : State), 3 ≤ s.mode → lookup a = none → (s.readReg src a).readVal = 0 ∧ (s.readReg src a).acc = .ok ∧ (s.readReg src a).regs = s.regs)
  ∧ (∀ (src : Source) (s w : State), 3 ≤ s.mode → 3 ≤ w.mode → w.hold = (s.readReg src 0x1008).hold →
    (s.readReg src 0x1008).readVal = s.lany.setWidth 32 ∧ (w.readReg src 0x100C).readVal = (s.lany >>> 32).setWidth 32)
  ∧ ∀ (src : Source) (s : State), 3 ≤ s.mode →
    let before := Min.min (s.old.reg 0x5010).toNat (s.reg 0x5010).toNat
    (s.readReg src 0x5010).readVal.toNat = before ∧ ((s.readReg src 0x5010).reg 0x5010).toNat = (s.reg 0x5010).toNat - before
      ∧ (s.readReg src 0x500C).readVal = s.reg 0x500C ∧ (s.readReg src 0x500C).regs = s.regs

/-- Every step keeps every store of the state in canonical form: each is a list of keys that rise strictly, so that equal contents are equal data. -/
def Obligations.StoresSorted : Prop :=
  ∀ s t : State, s.sortedStores = true → Sys2Proof.Machine.step s = .next t → t.sortedStores = true

/-! ### Rules stated whole -/

/-- A lost job (R274): when the one job that a hand-over forms finds its core with EN = 0 or its queue full, it is dropped: the queue stays,
JOB_LOST is set, CORE_JLOST counts it, and a plane it bound that no other job or run binds is released. -/
def Obligations.LostJobs : Prop :=
  ∀ (i : StrandId) (s : State) (h : Closed) (c : CoreId) (j : Job), (s.strand i).closed = some h → h.close + 64 ≤ s.tick → (∀ ch ∈ h.chans, ch < 192) →
    ((List.range 12).flatMap fun c' => (List.range 16).flatMap fun k => (s.entryJobs c' k i h).map fun j' => (c', j')) = [(c.val, j)] →
    s.on Reg.CORE_CTRL_EN c = false ∨ 8 ≤ (s.core c).jobs.length →
    ∃ t, exec (.handOver i) s = .next t ∧ t.cores = s.cores ∧ t.on Reg.CORE_STAT_JOB_LOST c = true
      ∧ t.rd Reg.CORE_JLOST_N c = Min.min (s.rd Reg.CORE_JLOST_N c + 1) (2 ^ 32 - 1)
      ∧ ∀ b ∈ j.binds, b.2 < 2 → s.bound b = false → t.own b.1 b.2 = 0

/-- A BOOT_CMD write names one command (R392): one with more than one of RUN, HOLD, RESUME, WATCH and SWRST set is ignored and sets CMD_REJ ; in SAFE_STOP one
without SWRST is discarded (R419). Nothing but CMD_REJ and the log of the write changes. -/
def Obligations.OneBootCommand : Prop :=
  ∀ (src : Source) (v : Word) (s : State), 3 ≤ s.mode → (∃ j k, j < k ∧ k < 5 ∧ v.getLsbD j = true ∧ v.getLsbD k = true) →
    ∃ t, exec (.registerWrite src 0x3004 v) s = .next t ∧ t.mode = s.mode
      ∧ (s.mode ≠ 9 ∨ v.getLsbD 4 = true → t.on Reg.BOOT_STAT_CMD_REJ 0 = true)
      ∧ (s.mode = 9 → v.getLsbD 4 = false → t.reg 0x3008 = s.reg 0x3008)
      ∧ (∀ a, a ≠ 0x3008 → a < 0x5000 ∨ 0x6000 ≤ a → t.reg a = s.reg a)
      ∧ RegsOnly s { t with log := s.log }
end

