-- ==== Sys2Proof/Laws/Exec.lean ====
section
/-! SUPPORT. What `exec` does with each command: it calls its meaning. -/

namespace Sys2Proof.Machine

@[simp] theorem exec_add (c : CoreId) (d a b : BitVec 5) (s : State) : exec (.add c d a b) s = execAdd c d a b s := rfl
@[simp] theorem exec_sub (c : CoreId) (d a b : BitVec 5) (s : State) : exec (.sub c d a b) s = execSub c d a b s := rfl
@[simp] theorem exec_and (c : CoreId) (d a b : BitVec 5) (s : State) : exec (.and c d a b) s = execAnd c d a b s := rfl
@[simp] theorem exec_or (c : CoreId) (d a b : BitVec 5) (s : State) : exec (.or c d a b) s = execOr c d a b s := rfl
@[simp] theorem exec_xor (c : CoreId) (d a b : BitVec 5) (s : State) : exec (.xor c d a b) s = execXor c d a b s := rfl
@[simp] theorem exec_shl (c : CoreId) (d a b : BitVec 5) (s : State) : exec (.shl c d a b) s = execShl c d a b s := rfl
@[simp] theorem exec_shr (c : CoreId) (d a b : BitVec 5) (s : State) : exec (.shr c d a b) s = execShr c d a b s := rfl
@[simp] theorem exec_sra (c : CoreId) (d a b : BitVec 5) (s : State) : exec (.sra c d a b) s = execSra c d a b s := rfl
@[simp] theorem exec_shli (c : CoreId) (d a : BitVec 5) (sh : BitVec 5) (s : State) : exec (.shli c d a sh) s = execShli c d a sh s := rfl
@[simp] theorem exec_shri (c : CoreId) (d a : BitVec 5) (sh : BitVec 5) (s : State) : exec (.shri c d a sh) s = execShri c d a sh s := rfl
@[simp] theorem exec_srai (c : CoreId) (d a : BitVec 5) (sh : BitVec 5) (s : State) : exec (.srai c d a sh) s = execSrai c d a sh s := rfl
@[simp] theorem exec_slt (c : CoreId) (d a b : BitVec 5) (s : State) : exec (.slt c d a b) s = execSlt c d a b s := rfl
@[simp] theorem exec_sltu (c : CoreId) (d a b : BitVec 5) (s : State) : exec (.sltu c d a b) s = execSltu c d a b s := rfl
@[simp] theorem exec_min (c : CoreId) (d a b : BitVec 5) (s : State) : exec (.min c d a b) s = execMin c d a b s := rfl
@[simp] theorem exec_max (c : CoreId) (d a b : BitVec 5) (s : State) : exec (.max c d a b) s = execMax c d a b s := rfl
@[simp] theorem exec_mul (c : CoreId) (d a b : BitVec 5) (s : State) : exec (.mul c d a b) s = execMul c d a b s := rfl
@[simp] theorem exec_addi (c : CoreId) (d a : BitVec 5) (imm : BitVec 16) (s : State) : exec (.addi c d a imm) s = execAddi c d a imm s := rfl
@[simp] theorem exec_andi (c : CoreId) (d a : BitVec 5) (imm : BitVec 16) (s : State) : exec (.andi c d a imm) s = execAndi c d a imm s := rfl
@[simp] theorem exec_ori (c : CoreId) (d a : BitVec 5) (imm : BitVec 16) (s : State) : exec (.ori c d a imm) s = execOri c d a imm s := rfl
@[simp] theorem exec_xori (c : CoreId) (d a : BitVec 5) (imm : BitVec 16) (s : State) : exec (.xori c d a imm) s = execXori c d a imm s := rfl
@[simp] theorem exec_slti (c : CoreId) (d a : BitVec 5) (imm : BitVec 16) (s : State) : exec (.slti c d a imm) s = execSlti c d a imm s := rfl
@[simp] theorem exec_lui (c : CoreId) (d : BitVec 5) (imm : BitVec 16) (s : State) : exec (.lui c d imm) s = execLui c d imm s := rfl
@[simp] theorem exec_ldb (c : CoreId) (t p : BitVec 5) (m : Mem) (ecc : Ecc) (s : State) : exec (.ldb c t p m ecc) s = execLdb c t p m ecc s := rfl
@[simp] theorem exec_ldbu (c : CoreId) (t p : BitVec 5) (m : Mem) (ecc : Ecc) (s : State) : exec (.ldbu c t p m ecc) s = execLdbu c t p m ecc s := rfl
@[simp] theorem exec_ldh (c : CoreId) (t p : BitVec 5) (m : Mem) (ecc : Ecc) (s : State) : exec (.ldh c t p m ecc) s = execLdh c t p m ecc s := rfl
@[simp] theorem exec_ldhu (c : CoreId) (t p : BitVec 5) (m : Mem) (ecc : Ecc) (s : State) : exec (.ldhu c t p m ecc) s = execLdhu c t p m ecc s := rfl
@[simp] theorem exec_ldw (c : CoreId) (t p : BitVec 5) (m : Mem) (ecc : Ecc) (s : State) : exec (.ldw c t p m ecc) s = execLdw c t p m ecc s := rfl
@[simp] theorem exec_stb (c : CoreId) (t p : BitVec 5) (m : Mem) (s : State) : exec (.stb c t p m) s = execStb c t p m s := rfl
@[simp] theorem exec_sth (c : CoreId) (t p : BitVec 5) (m : Mem) (s : State) : exec (.sth c t p m) s = execSth c t p m s := rfl
@[simp] theorem exec_stw (c : CoreId) (t p : BitVec 5) (m : Mem) (s : State) : exec (.stw c t p m) s = execStw c t p m s := rfl
@[simp] theorem exec_vld (c : CoreId) (t : BitVec 4) (p : BitVec 5) (m : Mem) (ecc : Ecc) (s : State) : exec (.vld c t p m ecc) s = execVld c t p m ecc s := rfl
@[simp] theorem exec_vst (c : CoreId) (t : BitVec 4) (p : BitVec 5) (m : Mem) (s : State) : exec (.vst c t p m) s = execVst c t p m s := rfl
@[simp] theorem exec_cadd (c : CoreId) (p : BitVec 5) (m : Mem) (s : State) : exec (.cadd c p m) s = execCadd c p m s := rfl
@[simp] theorem exec_vadd (c : CoreId) (d a b : BitVec 4) (s : State) : exec (.vadd c d a b) s = execVadd c d a b s := rfl
@[simp] theorem exec_vsub (c : CoreId) (d a b : BitVec 4) (s : State) : exec (.vsub c d a b) s = execVsub c d a b s := rfl
@[simp] theorem exec_vadds (c : CoreId) (d a : BitVec 4) (b : BitVec 5) (s : State) : exec (.vadds c d a b) s = execVadds c d a b s := rfl
@[simp] theorem exec_vmin (c : CoreId) (d a b : BitVec 4) (s : State) : exec (.vmin c d a b) s = execVmin c d a b s := rfl
@[simp] theorem exec_vmax (c : CoreId) (d a b : BitVec 4) (s : State) : exec (.vmax c d a b) s = execVmax c d a b s := rfl
@[simp] theorem exec_vabs (c : CoreId) (d a : BitVec 4) (s : State) : exec (.vabs c d a) s = execVabs c d a s := rfl
@[simp] theorem exec_vand (c : CoreId) (d a b : BitVec 4) (s : State) : exec (.vand c d a b) s = execVand c d a b s := rfl
@[simp] theorem exec_vor (c : CoreId) (d a b : BitVec 4) (s : State) : exec (.vor c d a b) s = execVor c d a b s := rfl
@[simp] theorem exec_vxor (c : CoreId) (d a b : BitVec 4) (s : State) : exec (.vxor c d a b) s = execVxor c d a b s := rfl
@[simp] theorem exec_vshli (c : CoreId) (d a : BitVec 4) (sh : BitVec 4) (s : State) : exec (.vshli c d a sh) s = execVshli c d a sh s := rfl
@[simp] theorem exec_vsrai (c : CoreId) (d a : BitVec 4) (sh : BitVec 4) (s : State) : exec (.vsrai c d a sh) s = execVsrai c d a sh s := rfl
@[simp] theorem exec_vbc (c : CoreId) (d : BitVec 4) (a : BitVec 5) (s : State) : exec (.vbc c d a) s = execVbc c d a s := rfl
@[simp] theorem exec_vget (c : CoreId) (d : BitVec 5) (a : BitVec 4) (lane : BitVec 4) (s : State) : exec (.vget c d a lane) s = execVget c d a lane s := rfl
@[simp] theorem exec_vput (c : CoreId) (d : BitVec 4) (a : BitVec 5) (lane : BitVec 4) (s : State) : exec (.vput c d a lane) s = execVput c d a lane s := rfl
@[simp] theorem exec_vcgt (c : CoreId) (d : BitVec 5) (a b : BitVec 4) (s : State) : exec (.vcgt c d a b) s = execVcgt c d a b s := rfl
@[simp] theorem exec_vcgts (c : CoreId) (d : BitVec 5) (a : BitVec 4) (b : BitVec 5) (s : State) : exec (.vcgts c d a b) s = execVcgts c d a b s := rfl
@[simp] theorem exec_vmov (c : CoreId) (d a : BitVec 4) (s : State) : exec (.vmov c d a) s = execVmov c d a s := rfl
@[simp] theorem exec_vmul (c : CoreId) (d : BitVec 3) (a b : BitVec 4) (s : State) : exec (.vmul c d a b) s = execVmul c d a b s := rfl
@[simp] theorem exec_vmac (c : CoreId) (d : BitVec 3) (a b : BitVec 4) (s : State) : exec (.vmac c d a b) s = execVmac c d a b s := rfl
@[simp] theorem exec_vmsc (c : CoreId) (d : BitVec 3) (a b : BitVec 4) (s : State) : exec (.vmsc c d a b) s = execVmsc c d a b s := rfl
@[simp] theorem exec_vmacs (c : CoreId) (d : BitVec 3) (a : BitVec 4) (b : BitVec 5) (s : State) : exec (.vmacs c d a b) s = execVmacs c d a b s := rfl
@[simp] theorem exec_vadda (c : CoreId) (d : BitVec 3) (a : BitVec 4) (s : State) : exec (.vadda c d a) s = execVadda c d a s := rfl
@[simp] theorem exec_vsuba (c : CoreId) (d : BitVec 3) (a : BitVec 4) (s : State) : exec (.vsuba c d a) s = execVsuba c d a s := rfl
@[simp] theorem exec_aclr (c : CoreId) (d : BitVec 3) (s : State) : exec (.aclr c d) s = execAclr c d s := rfl
@[simp] theorem exec_vnrw (c : CoreId) (d : BitVec 4) (a : BitVec 3) (sh : BitVec 5) (s : State) : exec (.vnrw c d a sh) s = execVnrw c d a sh s := rfl
@[simp] theorem exec_asum (c : CoreId) (d : BitVec 5) (a : BitVec 3) (sh : BitVec 5) (s : State) : exec (.asum c d a sh) s = execAsum c d a sh s := rfl
@[simp] theorem exec_amovl (c : CoreId) (d : BitVec 4) (a : BitVec 3) (s : State) : exec (.amovl c d a) s = execAmovl c d a s := rfl
@[simp] theorem exec_amovh (c : CoreId) (d : BitVec 4) (a : BitVec 3) (s : State) : exec (.amovh c d a) s = execAmovh c d a s := rfl
@[simp] theorem exec_amovx (c : CoreId) (d : BitVec 4) (a : BitVec 3) (s : State) : exec (.amovx c d a) s = execAmovx c d a s := rfl
@[simp] theorem exec_aset (c : CoreId) (d : BitVec 3) (a b x : BitVec 4) (s : State) : exec (.aset c d a b x) s = execAset c d a b x s := rfl
@[simp] theorem exec_vdmac (c : CoreId) (d : BitVec 3) (p1 : BitVec 5) (k1 : BitVec 2) (p2 : BitVec 5) (k2 : BitVec 2) (q : BitVec 5) (neg : Bool) (ecc : Ecc × Ecc) (s : State) : exec (.vdmac c d p1 k1 p2 k2 q neg ecc) s = execVdmac c d p1 k1 p2 k2 q neg ecc s := rfl
@[simp] theorem exec_beq (c : CoreId) (a b : BitVec 5) (target : BitVec 15) (s : State) : exec (.beq c a b target) s = execBeq c a b target s := rfl
@[simp] theorem exec_bne (c : CoreId) (a b : BitVec 5) (target : BitVec 15) (s : State) : exec (.bne c a b target) s = execBne c a b target s := rfl
@[simp] theorem exec_blt (c : CoreId) (a b : BitVec 5) (target : BitVec 15) (s : State) : exec (.blt c a b target) s = execBlt c a b target s := rfl
@[simp] theorem exec_bge (c : CoreId) (a b : BitVec 5) (target : BitVec 15) (s : State) : exec (.bge c a b target) s = execBge c a b target s := rfl
@[simp] theorem exec_bltu (c : CoreId) (a b : BitVec 5) (target : BitVec 15) (s : State) : exec (.bltu c a b target) s = execBltu c a b target s := rfl
@[simp] theorem exec_bgeu (c : CoreId) (a b : BitVec 5) (target : BitVec 15) (s : State) : exec (.bgeu c a b target) s = execBgeu c a b target s := rfl
@[simp] theorem exec_jmp (c : CoreId) (target : BitVec 15) (s : State) : exec (.jmp c target) s = execJmp c target s := rfl
@[simp] theorem exec_call (c : CoreId) (target : BitVec 15) (s : State) : exec (.call c target) s = execCall c target s := rfl
@[simp] theorem exec_jr (c : CoreId) (a : BitVec 5) (s : State) : exec (.jr c a) s = execJr c a s := rfl
@[simp] theorem exec_rep (c : CoreId) (n : RepCount) (s : State) : exec (.rep c n) s = execRep c n s := rfl
@[simp] theorem exec_endRun (c : CoreId) (s : State) : exec (.endRun c) s = execEndRun c s := rfl
@[simp] theorem exec_rti (c : CoreId) (s : State) : exec (.rti c) s = execRti c s := rfl
@[simp] theorem exec_wdk (c : CoreId) (s : State) : exec (.wdk c) s = execWdk c s := rfl
@[simp] theorem exec_mfs (c : CoreId) (d n : BitVec 5) (s : State) : exec (.mfs c d n) s = execMfs c d n s := rfl
@[simp] theorem exec_mts (c : CoreId) (n a : BitVec 5) (s : State) : exec (.mts c n a) s = execMts c n a s := rfl
@[simp] theorem exec_hq (c : CoreId) (a : BitVec 5) (s : State) : exec (.hq c a) s = execHq c a s := rfl
@[simp] theorem exec_hwait (c : CoreId) (s : State) : exec (.hwait c) s = execHwait c s := rfl
@[simp] theorem exec_hrel (c : CoreId) (a : BitVec 5) (s : State) : exec (.hrel c a) s = execHrel c a s := rfl
@[simp] theorem exec_sq (c : CoreId) (a b : BitVec 5) (s : State) : exec (.sq c a b) s = execSq c a b s := rfl
@[simp] theorem exec_registerWindowAnswer (c : CoreId) (s : State) : exec (.registerWindowAnswer c) s = execRegisterWindowAnswer c s := rfl
@[simp] theorem exec_interruptEntry (c : CoreId) (s : State) : exec (.interruptEntry c) s = execInterruptEntry c s := rfl
@[simp] theorem exec_timerMatch (c : CoreId) (s : State) : exec (.timerMatch c) s = execTimerMatch c s := rfl
@[simp] theorem exec_endRetire (c : CoreId) (s : State) : exec (.endRetire c) s = execEndRetire c s := rfl
@[simp] theorem exec_drainComplete (c : CoreId) (s : State) : exec (.drainComplete c) s = execDrainComplete c s := rfl
@[simp] theorem exec_jobStart (c : CoreId) (fetch : Ecc) (s : State) : exec (.jobStart c fetch) s = execJobStart c fetch s := rfl
@[simp] theorem exec_watchdogExpiry (c : CoreId) (s : State) : exec (.watchdogExpiry c) s = execWatchdogExpiry c s := rfl
@[simp] theorem exec_haulDescriptorBegin (h : HaulStart) (s : State) : exec (.haulDescriptorBegin h) s = execHaulDescriptorBegin h s := rfl
@[simp] theorem exec_haulDescriptorEnd (c : CoreId) (errs : List (Nat × Ecc)) (bank : BankUse) (s : State) : exec (.haulDescriptorEnd c errs bank) s = execHaulDescriptorEnd c errs bank s := rfl
@[simp] theorem exec_coreCmdAbort (src : Source) (c : CoreId) (any : Bool) (tag : Byte) (s : State) : exec (.coreCmdAbort src c any tag) s = execCoreCmdAbort src c any tag s := rfl
@[simp] theorem exec_coreDoor (src : Source) (c : CoreId) (v : Word) (s : State) : exec (.coreDoor src c v) s = execCoreDoor src c v s := rfl
@[simp] theorem exec_coreImdAccess (src : Source) (c : CoreId) (w : Option Word) (s : State) : exec (.coreImdAccess src c w) s = execCoreImdAccess src c w s := rfl
@[simp] theorem exec_coreDmdatAccess (src : Source) (c : CoreId) (w : Option Word) (s : State) : exec (.coreDmdatAccess src c w) s = execCoreDmdatAccess src c w s := rfl
@[simp] theorem exec_launch (l : LaunchIn) (s : State) : exec (.launch l) s = execLaunch l s := rfl
@[simp] theorem exec_firstGapTick (p : PortId) (s : State) : exec (.firstGapTick p) s = execFirstGapTick p s := rfl
@[simp] theorem exec_setpointIdleStep (p : PortId) (s : State) : exec (.setpointIdleStep p) s = execSetpointIdleStep p s := rfl
@[simp] theorem exec_repeatRunStart (i : StrandId) (s : State) : exec (.repeatRunStart i) s = execRepeatRunStart i s := rfl
@[simp] theorem exec_quietDecision (i : StrandId) (s : State) : exec (.quietDecision i) s = execQuietDecision i s := rfl
@[simp] theorem exec_gapRunCommit (i : StrandId) (s : State) : exec (.gapRunCommit i) s = execGapRunCommit i s := rfl
@[simp] theorem exec_stackClose (i : StrandId) (s : State) : exec (.stackClose i) s = execStackClose i s := rfl
@[simp] theorem exec_rangeEvaluation (ch : ChanId) (s : State) : exec (.rangeEvaluation ch) s = execRangeEvaluation ch s := rfl
@[simp] theorem exec_handOver (i : StrandId) (s : State) : exec (.handOver i) s = execHandOver i s := rfl
@[simp] theorem exec_presenceEval (i : StrandId) (s : State) : exec (.presenceEval i) s = execPresenceEval i s := rfl
@[simp] theorem exec_monitorEnergyEval (p : PortId) (s : State) : exec (.monitorEnergyEval p) s = execMonitorEnergyEval p s := rfl
@[simp] theorem exec_deratingUpdate (p : PortId) (s : State) : exec (.deratingUpdate p) s = execDeratingUpdate p s := rfl
@[simp] theorem exec_strandStart (src : Source) (i : StrandId) (s : State) : exec (.strandStart src i) s = execStrandStart src i s := rfl
@[simp] theorem exec_strandStop (src : Source) (i : StrandId) (s : State) : exec (.strandStop src i) s = execStrandStop src i s := rfl
@[simp] theorem exec_strandCmdAbort (src : Source) (i : StrandId) (any : Bool) (tag : Byte) (s : State) : exec (.strandCmdAbort src i any tag) s = execStrandCmdAbort src i any tag s := rfl
@[simp] theorem exec_foldCmdSnap (src : Source) (i : StrandId) (s : State) : exec (.foldCmdSnap src i) s = execFoldCmdSnap src i s := rfl
@[simp] theorem exec_foldCmdRestart (src : Source) (i : StrandId) (s : State) : exec (.foldCmdRestart src i) s = execFoldCmdRestart src i s := rfl
@[simp] theorem exec_foldRel (src : Source) (ch : ChanId) (relA relB : Bool) (s : State) : exec (.foldRel src ch relA relB) s = execFoldRel src ch relA relB s := rfl
@[simp] theorem exec_gapcalCmdAbort (src : Source) (i : StrandId) (s : State) : exec (.gapcalCmdAbort src i) s = execGapcalCmdAbort src i s := rfl
@[simp] theorem exec_gapcalCmdCommit (src : Source) (s : State) : exec (.gapcalCmdCommit src) s = execGapcalCmdCommit src s := rfl
@[simp] theorem exec_autoCommit (s : State) : exec (.autoCommit) s = execAutoCommit s := rfl
@[simp] theorem exec_commitAttemptEnd (ok0 ok1 pok0 pok1 : Bool) (s : State) : exec (.commitAttemptEnd ok0 ok1 pok0 pok1) s = execCommitAttemptEnd ok0 ok1 pok0 pok1 s := rfl
@[simp] theorem exec_calHeldWrite (src : Source) (which : BitVec 2) (v : Word) (s : State) : exec (.calHeldWrite src which v) s = execCalHeldWrite src which v s := rfl
@[simp] theorem exec_startCalibrationEnd (s : State) : exec (.startCalibrationEnd) s = execStartCalibrationEnd s := rfl
@[simp] theorem exec_monitorStart (ch : ChanId) (s : State) : exec (.monitorStart ch) s = execMonitorStart ch s := rfl
@[simp] theorem exec_monitorFirstDecision (ch : ChanId) (s : State) : exec (.monitorFirstDecision ch) s = execMonitorFirstDecision ch s := rfl
@[simp] theorem exec_monitorStrobeEnd (ch : ChanId) (s : State) : exec (.monitorStrobeEnd ch) s = execMonitorStrobeEnd ch s := rfl
@[simp] theorem exec_monitorEdge (ch : ChanId) (s : State) : exec (.monitorEdge ch) s = execMonitorEdge ch s := rfl
@[simp] theorem exec_filterBoundary (c : PcId) (x : PcIn) (s : State) : exec (.filterBoundary c x) s = execFilterBoundary c x s := rfl
@[simp] theorem exec_pcMonitorSample (x : List (PcId × PcMon)) (s : State) : exec (.pcMonitorSample x) s = execPcMonitorSample x s := rfl
@[simp] theorem exec_clamp (c : PcId) (x : PinVolt) (s : State) : exec (.clamp c x) s = execClamp c x s := rfl
@[simp] theorem exec_pcExcImm (src : Source) (c : PcId) (v : Word) (s : State) : exec (.pcExcImm src c v) s = execPcExcImm src c v s := rfl
@[simp] theorem exec_pcCmdIcal (src : Source) (c : PcId) (s : State) : exec (.pcCmdIcal src c) s = execPcCmdIcal src c s := rfl
@[simp] theorem exec_icalEnd (c : PcId) (x : IcalIn) (s : State) : exec (.icalEnd c x) s = execIcalEnd c x s := rfl
@[simp] theorem exec_pcCmdSysz (src : Source) (c : PcId) (s : State) : exec (.pcCmdSysz src c) s = execPcCmdSysz src c s := rfl
@[simp] theorem exec_pcCmdSyss (src : Source) (c : PcId) (s : State) : exec (.pcCmdSyss src c) s = execPcCmdSyss src c s := rfl
@[simp] theorem exec_pcCmdSysclr (src : Source) (c : PcId) (s : State) : exec (.pcCmdSysclr src c) s = execPcCmdSysclr src c s := rfl
@[simp] theorem exec_pcvalTimeout (s : State) : exec (.pcvalTimeout) s = execPcvalTimeout s := rfl
@[simp] theorem exec_connect (v : Via) (p : List Byte) (s : State) : exec (.connect v p) s = execConnect v p s := rfl
@[simp] theorem exec_disconnect (v : Via) (p : List Byte) (s : State) : exec (.disconnect v p) s = execDisconnect v p s := rfl
@[simp] theorem exec_read (v : Via) (p : List Byte) (s : State) : exec (.read v p) s = execRead v p s := rfl
@[simp] theorem exec_write (v : Via) (p : List Byte) (s : State) : exec (.write v p) s = execWrite v p s := rfl
@[simp] theorem exec_fence (v : Via) (p : List Byte) (s : State) : exec (.fence v p) s = execFence v p s := rfl
@[simp] theorem exec_fenceAnswer (src : Source) (s : State) : exec (.fenceAnswer src) s = execFenceAnswer src s := rfl
@[simp] theorem exec_nak (v : Via) (p : List Byte) (s : State) : exec (.nak v p) s = execNak v p s := rfl
@[simp] theorem exec_wake (v : Via) (p : List Byte) (s : State) : exec (.wake v p) s = execWake v p s := rfl
@[simp] theorem exec_keepalive (v : Via) (p : List Byte) (s : State) : exec (.keepalive v p) s = execKeepalive v p s := rfl
@[simp] theorem exec_ackDiverged (v : Via) (p : List Byte) (s : State) : exec (.ackDiverged v p) s = execAckDiverged v p s := rfl
@[simp] theorem exec_lockQuery (v : Via) (len : Half) (data : List Byte) (s : State) : exec (.lockQuery v len data) s = execLockQuery v len data s := rfl
@[simp] theorem exec_lockChallenge (v : Via) (len : Half) (data : List Byte) (s : State) : exec (.lockChallenge v len data) s = execLockChallenge v len data s := rfl
@[simp] theorem exec_lockRespond (v : Via) (len : Half) (data : List Byte) (s : State) : exec (.lockRespond v len data) s = execLockRespond v len data s := rfl
@[simp] theorem exec_lockPassword (v : Via) (len : Half) (data : List Byte) (s : State) : exec (.lockPassword v len data) s = execLockPassword v len data s := rfl
@[simp] theorem exec_lockClose (v : Via) (len : Half) (data : List Byte) (s : State) : exec (.lockClose v len data) s = execLockClose v len data s := rfl
@[simp] theorem exec_logreq (v : Via) (p : List Byte) (s : State) : exec (.logreq v p) s = execLogreq v p s := rfl
@[simp] theorem exec_rxDiscard (x : RxBad) (s : State) : exec (.rxDiscard x) s = execRxDiscard x s := rfl
@[simp] theorem exec_arpRequest (mac : BitVec 48) (ip target : Word) (s : State) : exec (.arpRequest mac ip target) s = execArpRequest mac ip target s := rfl
@[simp] theorem exec_pauseFrame (quanta : Half) (s : State) : exec (.pauseFrame quanta) s = execPauseFrame quanta s := rfl
@[simp] theorem exec_pauseExpiry (s : State) : exec (.pauseExpiry) s = execPauseExpiry s := rfl
@[simp] theorem exec_pauseRepeat (s : State) : exec (.pauseRepeat) s = execPauseRepeat s := rfl
@[simp] theorem exec_datagramSend (s : State) : exec (.datagramSend) s = execDatagramSend s := rfl
@[simp] theorem exec_eventMessageTimeout (s : State) : exec (.eventMessageTimeout) s = execEventMessageTimeout s := rfl
@[simp] theorem exec_statusSummary (s : State) : exec (.statusSummary) s = execStatusSummary s := rfl
@[simp] theorem exec_sessionTimeout (s : State) : exec (.sessionTimeout) s = execSessionTimeout s := rfl
@[simp] theorem exec_linkUp (s : State) : exec (.linkUp) s = execLinkUp s := rfl
@[simp] theorem exec_linkDown (s : State) : exec (.linkDown) s = execLinkDown s := rfl
@[simp] theorem exec_hawserPortUp (p : HwPort) (skew : Bool) (s : State) : exec (.hawserPortUp p skew) s = execHawserPortUp p skew s := rfl
@[simp] theorem exec_hawserPortDown (p : HwPort) (s : State) : exec (.hawserPortDown p) s = execHawserPortDown p s := rfl
@[simp] theorem exec_topoSend (s : State) : exec (.topoSend) s = execTopoSend s := rfl
@[simp] theorem exec_topo (p : HwPort) (ok own : Bool) (f : HwFrame) (s : State) : exec (.topo p ok own f) s = execTopo p ok own f s := rfl
@[simp] theorem exec_topoAck (p : HwPort) (ok : Bool) (f : HwFrame) (s : State) : exec (.topoAck p ok f) s = execTopoAck p ok f s := rfl
@[simp] theorem exec_positionAbsent (k : Fin 64) (s : State) : exec (.positionAbsent k) s = execPositionAbsent k s := rfl
@[simp] theorem exec_hawserData (p : HwPort) (ok : Bool) (f : HwFrame) (s : State) : exec (.hawserData p ok f) s = execHawserData p ok f s := rfl
@[simp] theorem exec_hawserCmd (p : HwPort) (ok : Bool) (f : HwFrame) (s : State) : exec (.hawserCmd p ok f) s = execHawserCmd p ok f s := rfl
@[simp] theorem exec_hawserAck (p : HwPort) (next : Word) (credit : Half) (s : State) : exec (.hawserAck p next credit) s = execHawserAck p next credit s := rfl
@[simp] theorem exec_hawserRetry (p : HwPort) (next : Word) (credit : Half) (s : State) : exec (.hawserRetry p next credit) s = execHawserRetry p next credit s := rfl
@[simp] theorem exec_replayTimeout (p : HwPort) (s : State) : exec (.replayTimeout p) s = execReplayTimeout p s := rfl
@[simp] theorem exec_pathBHoldExpiry (src : Fin 64) (rseq : Word) (s : State) : exec (.pathBHoldExpiry src rseq) s = execPathBHoldExpiry src rseq s := rfl
@[simp] theorem exec_lnySend (s : State) : exec (.lnySend) s = execLnySend s := rfl
@[simp] theorem exec_lny (p : HwPort) (x : LnyIn) (s : State) : exec (.lny p x) s = execLny p x s := rfl
@[simp] theorem exec_holdoverExpiry (s : State) : exec (.holdoverExpiry) s = execHoldoverExpiry s := rfl
@[simp] theorem exec_lanyardStart (s : State) : exec (.lanyardStart) s = execLanyardStart s := rfl
@[simp] theorem exec_ppsEdge (sub : Byte) (s : State) : exec (.ppsEdge sub) s = execPpsEdge sub s := rfl
@[simp] theorem exec_ppsMiss (s : State) : exec (.ppsMiss) s = execPpsMiss s := rfl
@[simp] theorem exec_lyRefLoss (s : State) : exec (.lyRefLoss) s = execLyRefLoss s := rfl
@[simp] theorem exec_lineDetect (s : State) : exec (.lineDetect) s = execLineDetect s := rfl
@[simp] theorem exec_lineRemoved (s : State) : exec (.lineRemoved) s = execLineRemoved s := rfl
@[simp] theorem exec_classQuery (s : State) : exec (.classQuery) s = execClassQuery s := rfl
@[simp] theorem exec_classRequest (s : State) : exec (.classRequest) s = execClassRequest s := rfl
@[simp] theorem exec_grant (g : GrantIn) (s : State) : exec (.grant g) s = execGrant g s := rfl
@[simp] theorem exec_startThreshold (s : State) : exec (.startThreshold) s = execStartThreshold s := rfl
@[simp] theorem exec_powerGood (s : State) : exec (.powerGood) s = execPowerGood s := rfl
@[simp] theorem exec_poweringTimeout (s : State) : exec (.poweringTimeout) s = execPoweringTimeout s := rfl
@[simp] theorem exec_lossOfInput (s : State) : exec (.lossOfInput) s = execLossOfInput s := rfl
@[simp] theorem exec_holdupExpiry (s : State) : exec (.holdupExpiry) s = execHoldupExpiry s := rfl
@[simp] theorem exec_rstNReset (s : State) : exec (.rstNReset) s = execRstNReset s := rfl
@[simp] theorem exec_bootComplete (time : Half) (s : State) : exec (.bootComplete time) s = execBootComplete time s := rfl
@[simp] theorem exec_selfTestEnd (items : BitVec 5) (time : Half) (s : State) : exec (.selfTestEnd items time) s = execSelfTestEnd items time s := rfl
@[simp] theorem exec_armedToRunning (s : State) : exec (.armedToRunning) s = execArmedToRunning s := rfl
@[simp] theorem exec_bootCmdRun (src : Source) (s : State) : exec (.bootCmdRun src) s = execBootCmdRun src s := rfl
@[simp] theorem exec_bootCmdHold (src : Source) (s : State) : exec (.bootCmdHold src) s = execBootCmdHold src s := rfl
@[simp] theorem exec_bootCmdResume (src : Source) (s : State) : exec (.bootCmdResume src) s = execBootCmdResume src s := rfl
@[simp] theorem exec_bootCmdWatch (src : Source) (s : State) : exec (.bootCmdWatch src) s = execBootCmdWatch src s := rfl
@[simp] theorem exec_bootCmdSwrst (src : Source) (key : Byte) (s : State) : exec (.bootCmdSwrst src key) s = execBootCmdSwrst src key s := rfl
@[simp] theorem exec_watchEntry (s : State) : exec (.watchEntry) s = execWatchEntry s := rfl
@[simp] theorem exec_watchTimerExpiry (s : State) : exec (.watchTimerExpiry) s = execWatchTimerExpiry s := rfl
@[simp] theorem exec_wakeComplete (s : State) : exec (.wakeComplete) s = execWakeComplete s := rfl
@[simp] theorem exec_bootFcmdErase (src : Source) (s : State) : exec (.bootFcmdErase src) s = execBootFcmdErase src s := rfl
@[simp] theorem exec_bootFcmdProgram (src : Source) (s : State) : exec (.bootFcmdProgram src) s = execBootFcmdProgram src s := rfl
@[simp] theorem exec_bootFcmdRead (src : Source) (s : State) : exec (.bootFcmdRead src) s = execBootFcmdRead src s := rfl
@[simp] theorem exec_bootFdataWrite (src : Source) (v : Word) (s : State) : exec (.bootFdataWrite src v) s = execBootFdataWrite src v s := rfl
@[simp] theorem exec_flashOperationEnd (ok : Bool) (s : State) : exec (.flashOperationEnd ok) s = execFlashOperationEnd ok s := rfl
@[simp] theorem exec_safetyFault (s : State) : exec (.safetyFault) s = execSafetyFault s := rfl
@[simp] theorem exec_safetyFaultClear (src : Source) (w : Word) (s : State) : exec (.safetyFaultClear src w) s = execSafetyFaultClear src w s := rfl
@[simp] theorem exec_safetyTestInj (src : Source) (s : State) : exec (.safetyTestInj src) s = execSafetyTestInj src s := rfl
@[simp] theorem exec_safeHbToggle (s : State) : exec (.safeHbToggle) s = execSafeHbToggle s := rfl
@[simp] theorem exec_configSweepPass (bad : Bool) (s : State) : exec (.configSweepPass bad) s = execConfigSweepPass bad s := rfl
@[simp] theorem exec_clockFault (lasts : Bool) (s : State) : exec (.clockFault lasts) s = execClockFault lasts s := rfl
@[simp] theorem exec_railFault (lasts : Bool) (s : State) : exec (.railFault lasts) s = execRailFault lasts s := rfl
@[simp] theorem exec_tempMeasure (t : List Half) (s : State) : exec (.tempMeasure t) s = execTempMeasure t s := rfl
@[simp] theorem exec_logCmdFreeze (src : Source) (s : State) : exec (.logCmdFreeze src) s = execLogCmdFreeze src s := rfl
@[simp] theorem exec_logMark (src : Source) (v : Word) (s : State) : exec (.logMark src v) s = execLogMark src v s := rfl
@[simp] theorem exec_freezeBegin (s : State) : exec (.freezeBegin) s = execFreezeBegin s := rfl
@[simp] theorem exec_freezeEnd (s : State) : exec (.freezeEnd) s = execFreezeEnd s := rfl
@[simp] theorem exec_lockOpenTimeout (s : State) : exec (.lockOpenTimeout) s = execLockOpenTimeout s := rfl
@[simp] theorem exec_lockoutEnd (s : State) : exec (.lockoutEnd) s = execLockoutEnd s := rfl
@[simp] theorem exec_nonceExpiry (s : State) : exec (.nonceExpiry) s = execNonceExpiry s := rfl
@[simp] theorem exec_registerWrite (src : Source) (addr : Nat) (v : Word) (s : State) : exec (.registerWrite src addr v) s = execRegisterWrite src addr v s := rfl
@[simp] theorem exec_sampleTick (x : List ChanIn) (s : State) : exec (.sampleTick x) s = execSampleTick x s := rfl
@[simp] theorem exec_channelReady (ch : ChanId) (s : State) : exec (.channelReady ch) s = execChannelReady ch s := rfl
@[simp] theorem exec_monitorStrobeStart (ch : ChanId) (s : State) : exec (.monitorStrobeStart ch) s = execMonitorStrobeStart ch s := rfl
@[simp] theorem exec_clampEnd (c : PcId) (x : PinVolt) (s : State) : exec (.clampEnd c x) s = execClampEnd c x s := rfl
@[simp] theorem exec_lyRefReturn (s : State) : exec (.lyRefReturn) s = execLyRefReturn s := rfl
@[simp] theorem exec_poweringRetry (s : State) : exec (.poweringRetry) s = execPoweringRetry s := rfl
@[simp] theorem exec_reservedTypeCommand (v : Via) (ty : Byte) (p : List Byte) (s : State) : exec (.reservedTypeCommand v ty p) s = execReservedTypeCommand v ty p s := rfl
@[simp] theorem exec_lockoutSecond (s : State) : exec (.lockoutSecond) s = execLockoutSecond s := rfl
@[simp] theorem exec_ackSend (p : HwPort) (s : State) : exec (.ackSend p) s = execAckSend p s := rfl

end Sys2Proof.Machine
end

