-- ==== Sys2Proof/Laws/SMap.lean ====
section
/-! SUPPORT. Laws of sparse maps: read after write, and that every operation keeps the canonical form. -/

namespace Sys2Proof.Machine

theorem SMap.find_put_same {α : Type} (m : SMap α) (k : Nat) (v : α) : (m.put k v).find k = some v := by
  induction m with
  | nil => simp [SMap.put, SMap.find]
  | cons p m ih =>
    obtain ⟨j, w⟩ := p
    unfold SMap.put
    split
    · simp [SMap.find]
    · split
      · simp [SMap.find]
      · rename_i h; simp [SMap.find, h, ih]

theorem SMap.find_put_other {α : Type} (m : SMap α) {k j : Nat} (v : α) (h : j ≠ k) : (m.put k v).find j = m.find j := by
  induction m with
  | nil => simp [SMap.put, SMap.find, h.symm]
  | cons p m ih =>
    obtain ⟨i, w⟩ := p
    unfold SMap.put
    split
    · simp [SMap.find, h.symm]
    · split
      · rename_i e; subst e; simp [SMap.find, h.symm]
      · simp [SMap.find, ih]

theorem SMap.find_erase_same {α : Type} (m : SMap α) (k : Nat) : (m.erase k).find k = none := by
  induction m with
  | nil => rfl
  | cons p m ih =>
    obtain ⟨j, w⟩ := p
    unfold SMap.erase
    split
    · exact ih
    · rename_i h; simp [SMap.find, h, ih]

theorem SMap.find_erase_other {α : Type} (m : SMap α) {k j : Nat} (h : j ≠ k) : (m.erase k).find j = m.find j := by
  induction m with
  | nil => rfl
  | cons p m ih =>
    obtain ⟨i, w⟩ := p
    unfold SMap.erase
    split
    · rename_i e; subst e; simp [SMap.find, h.symm, ih]
    · simp [SMap.find, ih]

@[simp] theorem SMap.getD_putD_same {α : Type} [DecidableEq α] (m : SMap α) (k : Nat) (d v : α) :
    (m.putD k d v).getD k d = v := by
  unfold SMap.putD SMap.getD
  split
  · rename_i h; simp [SMap.find_erase_same, h]
  · simp [SMap.find_put_same]

theorem SMap.getD_putD_other {α : Type} [DecidableEq α] (m : SMap α) {k j : Nat} (d v e : α) (h : j ≠ k) :
    (m.putD k d v).getD j e = m.getD j e := by
  unfold SMap.putD SMap.getD
  split
  · simp [SMap.find_erase_other _ h]
  · simp [SMap.find_put_other _ _ h]

@[simp] theorem SMap.getD_put_same {α : Type} (m : SMap α) (k : Nat) (d v : α) : (m.put k v).getD k d = v := by
  simp [SMap.getD, SMap.find_put_same]

theorem SMap.getD_put_other {α : Type} (m : SMap α) {k j : Nat} (v e : α) (h : j ≠ k) :
    (m.put k v).getD j e = m.getD j e := by
  simp [SMap.getD, SMap.find_put_other _ _ h]

/-! ### The canonical form -/

theorem SMap.mem_put {α : Type} {m : SMap α} {k : Nat} {v : α} {p : Nat × α} (h : p ∈ m.put k v) : p.1 = k ∨ p ∈ m := by
  induction m with
  | nil => simp [SMap.put] at h; simp [h]
  | cons q m ih =>
    obtain ⟨j, w⟩ := q
    unfold SMap.put at h
    split at h
    · rcases List.mem_cons.mp h with h | h
      · simp [h]
      · exact .inr h
    · split at h
      · rcases List.mem_cons.mp h with h | h
        · simp [h]
        · exact .inr (List.mem_cons_of_mem _ h)
      · rcases List.mem_cons.mp h with h | h
        · exact .inr (by simp [h])
        · rcases ih h with h | h
          · exact .inl h
          · exact .inr (List.mem_cons_of_mem _ h)

theorem SMap.mem_erase {α : Type} {m : SMap α} {k : Nat} {p : Nat × α} (h : p ∈ m.erase k) : p ∈ m := by
  induction m with
  | nil => simp [SMap.erase] at h
  | cons q m ih =>
    obtain ⟨j, w⟩ := q
    unfold SMap.erase at h
    split at h
    · exact List.mem_cons_of_mem _ (ih h)
    · rcases List.mem_cons.mp h with h | h
      · simp [h]
      · exact List.mem_cons_of_mem _ (ih h)

theorem SMap.sorted_cons {α : Type} {p : Nat × α} {m : SMap α} :
    SMap.sorted (p :: m) = true ↔ (∀ q ∈ m, p.1 < q.1) ∧ SMap.sorted m = true := by
  obtain ⟨k, v⟩ := p
  simp [SMap.sorted]

@[simp] theorem SMap.sorted_nil {α : Type} : SMap.sorted ([] : SMap α) = true := rfl

theorem SMap.sorted_put {α : Type} {m : SMap α} (k : Nat) (v : α) (h : m.sorted = true) : (m.put k v).sorted = true := by
  induction m with
  | nil => simp [SMap.put, SMap.sorted]
  | cons q m ih =>
    obtain ⟨j, w⟩ := q
    obtain ⟨h1, h2⟩ := SMap.sorted_cons.mp h
    unfold SMap.put
    split
    · rename_i hk
      refine SMap.sorted_cons.mpr ⟨fun q hq => ?_, h⟩
      rcases List.mem_cons.mp hq with e | e
      · simpa [e] using hk
      · exact Nat.lt_trans hk (h1 q e)
    · split
      · rename_i e; subst e; exact SMap.sorted_cons.mpr ⟨h1, h2⟩
      · rename_i n1 n2
        refine SMap.sorted_cons.mpr ⟨fun q hq => ?_, ih h2⟩
        rcases SMap.mem_put hq with e | e
        · simp only [e]; omega
        · exact h1 q e

theorem SMap.sorted_erase {α : Type} {m : SMap α} (k : Nat) (h : m.sorted = true) : (m.erase k).sorted = true := by
  induction m with
  | nil => rfl
  | cons q m ih =>
    obtain ⟨j, w⟩ := q
    obtain ⟨h1, h2⟩ := SMap.sorted_cons.mp h
    unfold SMap.erase
    split
    · exact ih h2
    · exact SMap.sorted_cons.mpr ⟨fun q hq => h1 q (SMap.mem_erase hq), ih h2⟩

theorem SMap.sorted_putD {α : Type} [DecidableEq α] {m : SMap α} (k : Nat) (d v : α) (h : m.sorted = true) :
    (m.putD k d v).sorted = true := by
  unfold SMap.putD
  split
  · exact SMap.sorted_erase k h
  · exact SMap.sorted_put k v h

theorem SMap.sorted_filter {α : Type} {m : SMap α} (f : Nat × α → Bool) (h : m.sorted = true) :
    SMap.sorted (m.filter f) = true := by
  induction m with
  | nil => rfl
  | cons q m ih =>
    obtain ⟨h1, h2⟩ := SMap.sorted_cons.mp h
    rw [List.filter_cons]
    split
    · exact SMap.sorted_cons.mpr ⟨fun q hq => h1 q (List.mem_filter.mp hq).1, ih h2⟩
    · exact ih h2

end Sys2Proof.Machine
end

