-- ==== Sys2Proof/Laws/Registers.lean ====
section
/-! SUPPORT. Laws of the register file: a field reads what was written to it, other fields and other addresses keep
their value. -/

namespace Sys2Proof.Machine

/-! ### Words -/

@[simp] theorem State.reg_setReg_same (s : State) (a : Nat) (w : Word) : (s.setReg a w).reg a = w := by
  simp [State.reg, State.setReg]

theorem State.reg_setReg_other (s : State) {a b : Nat} (w : Word) (h : b ≠ a) : (s.setReg a w).reg b = s.reg b := by
  simp [State.reg, State.setReg, SMap.getD_putD_other _ _ _ _ h]

theorem State.reg_setReg (s : State) (a b : Nat) (w : Word) : (s.setReg a w).reg b = if b = a then w else s.reg b := by
  split
  · rename_i h; subst h; simp
  · rename_i h; exact s.reg_setReg_other w h

/-- Registers read alike when the register files are equal. -/
theorem State.reg_of_regs {s t : State} (h : t.regs = s.regs) (a : Nat) : t.reg a = s.reg a := by
  simp [State.reg, h]

theorem State.rd_of_regs {s t : State} (h : t.regs = s.regs) (f : Field) (i : Nat) : t.rd f i = s.rd f i := by
  simp [State.rd, State.reg, h]

/-! ### Fields -/

/-- A field lies in a word. -/
def Field.fits (f : Field) : Bool := decide (f.lo ≤ f.hi) && decide (f.hi < 32)

theorem Field.insert_toNat (f : Field) (h : f.fits = true) (w : Word) (v : Nat) :
    (f.insert w v).toNat
      = w.toNat / 2 ^ (f.hi + 1) * 2 ^ (f.hi + 1) + v % f.span * 2 ^ f.lo + w.toNat % 2 ^ f.lo := by
  simp only [Field.fits, Bool.and_eq_true, decide_eq_true_eq] at h
  obtain ⟨h1, h2⟩ := h
  have hs : 2 ^ (f.hi + 1) = f.span * 2 ^ f.lo := by
    unfold Field.span; rw [← Nat.pow_add]; congr 1; omega
  have hw := w.isLt
  have hspan : 0 < f.span := by unfold Field.span; exact Nat.two_pow_pos _
  have hlo : 0 < 2 ^ f.lo := Nat.two_pow_pos _
  have h32 : (2:Nat) ^ 32 = 2 ^ (31 - f.hi) * (f.span * 2 ^ f.lo) := by
    rw [← hs, ← Nat.pow_add]; congr 1; omega
  have hv : v % f.span < f.span := Nat.mod_lt _ hspan
  set n := w.toNat with hn
  have e1 : n = n / 2 ^ (f.hi + 1) * 2 ^ (f.hi + 1) + f.read w * 2 ^ f.lo + n % 2 ^ f.lo := by
    have a := Nat.div_add_mod n (2 ^ f.lo)
    have b := Nat.div_add_mod (n / 2 ^ f.lo) f.span
    have c : n / 2 ^ f.lo / f.span = n / 2 ^ (f.hi + 1) := by
      rw [Nat.div_div_eq_div_mul, hs, Nat.mul_comm]
    have d : f.read w = n / 2 ^ f.lo % f.span := rfl
    rw [c] at b
    rw [d]
    calc n = 2 ^ f.lo * (n / 2 ^ f.lo) + n % 2 ^ f.lo := a.symm
      _ = 2 ^ f.lo * (f.span * (n / 2 ^ (f.hi + 1)) + n / 2 ^ f.lo % f.span) + n % 2 ^ f.lo := by rw [b]
      _ = n / 2 ^ (f.hi + 1) * (f.span * 2 ^ f.lo) + n / 2 ^ f.lo % f.span * 2 ^ f.lo + n % 2 ^ f.lo := by ring
      _ = _ := by rw [← hs]
  have e2 : n - f.read w * 2 ^ f.lo = n / 2 ^ (f.hi + 1) * 2 ^ (f.hi + 1) + n % 2 ^ f.lo := by omega
  have hA : n / 2 ^ (f.hi + 1) < 2 ^ (31 - f.hi) := by
    rw [Nat.div_lt_iff_lt_mul (Nat.two_pow_pos _), hs, ← h32]; exact hw
  have hB : n % 2 ^ f.lo < 2 ^ f.lo := Nat.mod_lt _ hlo
  have key : n / 2 ^ (f.hi + 1) * (f.span * 2 ^ f.lo) + n % 2 ^ f.lo + v % f.span * 2 ^ f.lo < 2 ^ 32 := by
    have p : (v % f.span + 1) * 2 ^ f.lo ≤ f.span * 2 ^ f.lo := Nat.mul_le_mul_right _ hv
    have q : (n / 2 ^ (f.hi + 1) + 1) * (f.span * 2 ^ f.lo) ≤ 2 ^ (31 - f.hi) * (f.span * 2 ^ f.lo) :=
      Nat.mul_le_mul_right _ hA
    rw [h32]
    rw [Nat.add_mul, Nat.one_mul] at p q
    omega
  unfold Field.insert
  rw [BitVec.toNat_ofNat, ← hn, e2, Nat.mod_eq_of_lt]
  · omega
  · rw [← hs] at key; exact key

theorem Field.read_insert (f : Field) (h : f.fits = true) (w : Word) (v : Nat) :
    f.read (f.insert w v) = v % f.span := by
  have h' := h
  simp only [Field.fits, Bool.and_eq_true, decide_eq_true_eq] at h'
  have hs : 2 ^ (f.hi + 1) = f.span * 2 ^ f.lo := by
    unfold Field.span; rw [← Nat.pow_add]; congr 1; omega
  have hlo : 0 < 2 ^ f.lo := Nat.two_pow_pos _
  have hspan : 0 < f.span := by unfold Field.span; exact Nat.two_pow_pos _
  unfold Field.read
  rw [f.insert_toNat h, hs, ← Nat.mul_assoc, ← Nat.add_mul, Nat.mul_comm (_ + _) (2 ^ f.lo),
    Nat.mul_add_div hlo, Nat.div_eq_of_lt (Nat.mod_lt _ hlo), Nat.add_zero, Nat.mul_add_mod_self_right, Nat.mod_mod]

/-- Two fields share no bit. -/
def Field.apart (f g : Field) : Bool := decide (f.hi < g.lo) || decide (g.hi < f.lo)

theorem Field.read_eq_bits (f : Field) (w : Word) :
    f.read w = (w.extractLsb' f.lo (f.hi + 1 - f.lo)).toNat := by
  simp [Field.read, BitVec.extractLsb'_toNat, Nat.shiftRight_eq_div_pow, Field.span]

theorem Field.testBit_insert (f : Field) (h : f.fits = true) (w : Word) (v i : Nat) :
    (f.insert w v).toNat.testBit i
      = if f.lo ≤ i ∧ i ≤ f.hi then (v % f.span).testBit (i - f.lo) else w.toNat.testBit i := by
  have h' := h
  simp only [Field.fits, Bool.and_eq_true, decide_eq_true_eq] at h'
  have hs : 2 ^ (f.hi + 1) = 2 ^ f.lo * f.span := by
    unfold Field.span; rw [← Nat.pow_add]; congr 1; omega
  have hspan : f.span = 2 ^ (f.hi + 1 - f.lo) := rfl
  have hv : v % f.span < f.span := Nat.mod_lt _ (by rw [hspan]; exact Nat.two_pow_pos _)
  rw [f.insert_toNat h]
  have e : w.toNat / 2 ^ (f.hi + 1) * 2 ^ (f.hi + 1) + v % f.span * 2 ^ f.lo + w.toNat % 2 ^ f.lo
      = 2 ^ f.lo * (f.span * (w.toNat / 2 ^ (f.hi + 1)) + v % f.span) + w.toNat % 2 ^ f.lo := by
    rw [hs]; ring
  rw [e, Nat.testBit_two_pow_mul_add _ (Nat.mod_lt _ (Nat.two_pow_pos _))]
  by_cases c1 : i < f.lo
  · simp [c1, Nat.testBit_mod_two_pow]
  · rw [if_neg c1, hspan, Nat.testBit_two_pow_mul_add _ (by rw [← hspan]; exact hv)]
    by_cases c2 : i ≤ f.hi
    · rw [if_pos (by omega), if_pos (by omega)]
    · rw [if_neg (by omega), if_neg (by omega), Nat.testBit_div_two_pow]
      congr 1; omega

theorem Field.read_testBit (f : Field) (w : Word) (i : Nat) :
    (f.read w).testBit i = (decide (i < f.hi + 1 - f.lo) && w.toNat.testBit (f.lo + i)) := by
  unfold Field.read Field.span
  rw [Nat.testBit_mod_two_pow, Nat.testBit_div_two_pow, Nat.add_comm i]

theorem Field.read_insert_apart (f g : Field) (hf : f.fits = true) (h : f.apart g = true) (w : Word) (v : Nat) :
    g.read (f.insert w v) = g.read w := by
  simp only [Field.apart, Bool.or_eq_true, decide_eq_true_eq] at h
  simp only [Field.fits, Bool.and_eq_true, decide_eq_true_eq] at hf
  apply Nat.eq_of_testBit_eq
  intro i
  rw [Field.read_testBit, Field.read_testBit, Field.testBit_insert f (by simp [Field.fits, hf])]
  by_cases c : i < g.hi + 1 - g.lo
  · rw [if_neg (by omega)]
  · simp [c]

/-! ### Reading a field after writing one -/

theorem State.rd_wr_same (s : State) (f : Field) (i v : Nat) (h : f.fits = true) : (s.wr f i v).rd f i = v % f.span := by
  simp [State.rd, State.wr, Field.read_insert f h]

theorem State.rd_wr_addr (s : State) (f g : Field) (i j v : Nat) (h : g.addr j ≠ f.addr i) :
    (s.wr f i v).rd g j = s.rd g j := by
  simp [State.rd, State.wr, State.reg_setReg_other _ _ h]

theorem State.rd_wr_apart (s : State) (f g : Field) (i j v : Nat) (hf : f.fits = true) (h : f.apart g = true) :
    (s.wr f i v).rd g j = s.rd g j := by
  by_cases c : g.addr j = f.addr i
  · simp [State.rd, State.wr, c, Field.read_insert_apart f g hf h]
  · exact s.rd_wr_addr f g i j v c

theorem State.reg_wr_other (s : State) (f : Field) (i v : Nat) {a : Nat} (h : a ≠ f.addr i) :
    (s.wr f i v).reg a = s.reg a := by
  simp [State.wr, State.reg_setReg_other _ _ h]

theorem State.on_put_same (s : State) (f : Field) (i : Nat) (b : Bool) (h : f.fits = true) : (s.put f i b).on f i = b := by
  have hs : 2 ≤ f.span := by
    simp only [Field.fits, Bool.and_eq_true, decide_eq_true_eq] at h
    have : 2 ^ 1 ≤ 2 ^ (f.hi + 1 - f.lo) := Nat.pow_le_pow_right (by decide) (by omega)
    simpa [Field.span] using this
  unfold State.on State.put
  rw [State.rd_wr_same _ _ _ _ h]
  cases b
  · simp
  · simp [Nat.mod_eq_of_lt (show 1 < f.span by omega)]

theorem State.rd_bump_same (s : State) (f : Field) (i n : Nat) (h : f.fits = true) :
    (s.bump f i n).rd f i = min (s.rd f i + n) (f.span - 1) := by
  have : 0 < f.span := by unfold Field.span; exact Nat.two_pow_pos _
  unfold State.bump
  rw [State.rd_wr_same _ _ _ _ h, Nat.mod_eq_of_lt (by omega)]

theorem State.rd_count_same (s : State) (f : Field) (i n : Nat) (h : f.fits = true) :
    (s.count f i n).rd f i = (s.rd f i + n) % f.span := by
  unfold State.count
  rw [State.rd_wr_same _ _ _ _ h]

end Sys2Proof.Machine
end

