-- ==== Sys2Proof/Laws/State.lean ====
section
/-! SUPPORT. Laws of State: what each update leaves of each field, and what is read after it. -/

namespace Sys2Proof.Machine

variable (s : State)

/-! ### `setReg` -/

@[simp] theorem State.setReg_pending (a : Nat) (w : Word) : (s.setReg a w).pending = s.pending := rfl
@[simp] theorem State.setReg_free (a : Nat) (w : Word) : (s.setReg a w).free = s.free := rfl
@[simp] theorem State.setReg_tick (a : Nat) (w : Word) : (s.setReg a w).tick = s.tick := rfl
@[simp] theorem State.setReg_lany (a : Nat) (w : Word) : (s.setReg a w).lany = s.lany := rfl
@[simp] theorem State.setReg_before (a : Nat) (w : Word) : (s.setReg a w).before = s.before := rfl
@[simp] theorem State.setReg_raised (a : Nat) (w : Word) : (s.setReg a w).raised = s.raised := rfl
@[simp] theorem State.setReg_wrote (a : Nat) (w : Word) : (s.setReg a w).wrote = s.wrote := rfl
@[simp] theorem State.setReg_sub (a : Nat) (w : Word) : (s.setReg a w).sub = s.sub := rfl
@[simp] theorem State.setReg_cause (a : Nat) (w : Word) : (s.setReg a w).cause = s.cause := rfl
@[simp] theorem State.setReg_hold (a : Nat) (w : Word) : (s.setReg a w).hold = s.hold := rfl
@[simp] theorem State.setReg_acc (a : Nat) (w : Word) : (s.setReg a w).acc = s.acc := rfl
@[simp] theorem State.setReg_readVal (a : Nat) (w : Word) : (s.setReg a w).readVal = s.readVal := rfl
@[simp] theorem State.setReg_strands (a : Nat) (w : Word) : (s.setReg a w).strands = s.strands := rfl
@[simp] theorem State.setReg_ports (a : Nat) (w : Word) : (s.setReg a w).ports = s.ports := rfl
@[simp] theorem State.setReg_chans (a : Nat) (w : Word) : (s.setReg a w).chans = s.chans := rfl
@[simp] theorem State.setReg_quads (a : Nat) (w : Word) : (s.setReg a w).quads = s.quads := rfl
@[simp] theorem State.setReg_pipe (a : Nat) (w : Word) : (s.setReg a w).pipe = s.pipe := rfl
@[simp] theorem State.setReg_bins (a : Nat) (w : Word) : (s.setReg a w).bins = s.bins := rfl
@[simp] theorem State.setReg_qmap (a : Nat) (w : Word) : (s.setReg a w).qmap = s.qmap := rfl
@[simp] theorem State.setReg_metas (a : Nat) (w : Word) : (s.setReg a w).metas = s.metas := rfl
@[simp] theorem State.setReg_cores (a : Nat) (w : Word) : (s.setReg a w).cores = s.cores := rfl
@[simp] theorem State.setReg_pcs (a : Nat) (w : Word) : (s.setReg a w).pcs = s.pcs := rfl
@[simp] theorem State.setReg_pcWas (a : Nat) (w : Word) : (s.setReg a w).pcWas = s.pcWas := rfl
@[simp] theorem State.setReg_monq (a : Nat) (w : Word) : (s.setReg a w).monq = s.monq := rfl
@[simp] theorem State.setReg_pcq (a : Nat) (w : Word) : (s.setReg a w).pcq = s.pcq := rfl
@[simp] theorem State.setReg_log (a : Nat) (w : Word) : (s.setReg a w).log = s.log := rfl
@[simp] theorem State.setReg_mram (a : Nat) (w : Word) : (s.setReg a w).mram = s.mram := rfl
@[simp] theorem State.setReg_otp (a : Nat) (w : Word) : (s.setReg a w).otp = s.otp := rfl
@[simp] theorem State.setReg_lock (a : Nat) (w : Word) : (s.setReg a w).lock = s.lock := rfl
@[simp] theorem State.setReg_safety (a : Nat) (w : Word) : (s.setReg a w).safety = s.safety := rfl
@[simp] theorem State.setReg_commit (a : Nat) (w : Word) : (s.setReg a w).commit = s.commit := rfl
@[simp] theorem State.setReg_lastCommit (a : Nat) (w : Word) : (s.setReg a w).lastCommit = s.lastCommit := rfl
@[simp] theorem State.setReg_boot (a : Nat) (w : Word) : (s.setReg a w).boot = s.boot := rfl
@[simp] theorem State.setReg_power (a : Nat) (w : Word) : (s.setReg a w).power = s.power := rfl
@[simp] theorem State.setReg_link (a : Nat) (w : Word) : (s.setReg a w).link = s.link := rfl
@[simp] theorem State.setReg_hawser (a : Nat) (w : Word) : (s.setReg a w).hawser = s.hawser := rfl

/-! ### `wr` -/

@[simp] theorem State.wr_pending (f : Field) (i v : Nat) : (s.wr f i v).pending = s.pending := rfl
@[simp] theorem State.wr_free (f : Field) (i v : Nat) : (s.wr f i v).free = s.free := rfl
@[simp] theorem State.wr_tick (f : Field) (i v : Nat) : (s.wr f i v).tick = s.tick := rfl
@[simp] theorem State.wr_lany (f : Field) (i v : Nat) : (s.wr f i v).lany = s.lany := rfl
@[simp] theorem State.wr_before (f : Field) (i v : Nat) : (s.wr f i v).before = s.before := rfl
@[simp] theorem State.wr_raised (f : Field) (i v : Nat) : (s.wr f i v).raised = s.raised := rfl
@[simp] theorem State.wr_wrote (f : Field) (i v : Nat) : (s.wr f i v).wrote = s.wrote := rfl
@[simp] theorem State.wr_sub (f : Field) (i v : Nat) : (s.wr f i v).sub = s.sub := rfl
@[simp] theorem State.wr_cause (f : Field) (i v : Nat) : (s.wr f i v).cause = s.cause := rfl
@[simp] theorem State.wr_hold (f : Field) (i v : Nat) : (s.wr f i v).hold = s.hold := rfl
@[simp] theorem State.wr_acc (f : Field) (i v : Nat) : (s.wr f i v).acc = s.acc := rfl
@[simp] theorem State.wr_readVal (f : Field) (i v : Nat) : (s.wr f i v).readVal = s.readVal := rfl
@[simp] theorem State.wr_strands (f : Field) (i v : Nat) : (s.wr f i v).strands = s.strands := rfl
@[simp] theorem State.wr_ports (f : Field) (i v : Nat) : (s.wr f i v).ports = s.ports := rfl
@[simp] theorem State.wr_chans (f : Field) (i v : Nat) : (s.wr f i v).chans = s.chans := rfl
@[simp] theorem State.wr_quads (f : Field) (i v : Nat) : (s.wr f i v).quads = s.quads := rfl
@[simp] theorem State.wr_pipe (f : Field) (i v : Nat) : (s.wr f i v).pipe = s.pipe := rfl
@[simp] theorem State.wr_bins (f : Field) (i v : Nat) : (s.wr f i v).bins = s.bins := rfl
@[simp] theorem State.wr_qmap (f : Field) (i v : Nat) : (s.wr f i v).qmap = s.qmap := rfl
@[simp] theorem State.wr_metas (f : Field) (i v : Nat) : (s.wr f i v).metas = s.metas := rfl
@[simp] theorem State.wr_cores (f : Field) (i v : Nat) : (s.wr f i v).cores = s.cores := rfl
@[simp] theorem State.wr_pcs (f : Field) (i v : Nat) : (s.wr f i v).pcs = s.pcs := rfl
@[simp] theorem State.wr_pcWas (f : Field) (i v : Nat) : (s.wr f i v).pcWas = s.pcWas := rfl
@[simp] theorem State.wr_monq (f : Field) (i v : Nat) : (s.wr f i v).monq = s.monq := rfl
@[simp] theorem State.wr_pcq (f : Field) (i v : Nat) : (s.wr f i v).pcq = s.pcq := rfl
@[simp] theorem State.wr_log (f : Field) (i v : Nat) : (s.wr f i v).log = s.log := rfl
@[simp] theorem State.wr_mram (f : Field) (i v : Nat) : (s.wr f i v).mram = s.mram := rfl
@[simp] theorem State.wr_otp (f : Field) (i v : Nat) : (s.wr f i v).otp = s.otp := rfl
@[simp] theorem State.wr_lock (f : Field) (i v : Nat) : (s.wr f i v).lock = s.lock := rfl
@[simp] theorem State.wr_safety (f : Field) (i v : Nat) : (s.wr f i v).safety = s.safety := rfl
@[simp] theorem State.wr_commit (f : Field) (i v : Nat) : (s.wr f i v).commit = s.commit := rfl
@[simp] theorem State.wr_lastCommit (f : Field) (i v : Nat) : (s.wr f i v).lastCommit = s.lastCommit := rfl
@[simp] theorem State.wr_boot (f : Field) (i v : Nat) : (s.wr f i v).boot = s.boot := rfl
@[simp] theorem State.wr_power (f : Field) (i v : Nat) : (s.wr f i v).power = s.power := rfl
@[simp] theorem State.wr_link (f : Field) (i v : Nat) : (s.wr f i v).link = s.link := rfl
@[simp] theorem State.wr_hawser (f : Field) (i v : Nat) : (s.wr f i v).hawser = s.hawser := rfl

/-! ### `put` -/

@[simp] theorem State.put_pending (f : Field) (i : Nat) (b : Bool) : (s.put f i b).pending = s.pending := rfl
@[simp] theorem State.put_free (f : Field) (i : Nat) (b : Bool) : (s.put f i b).free = s.free := rfl
@[simp] theorem State.put_tick (f : Field) (i : Nat) (b : Bool) : (s.put f i b).tick = s.tick := rfl
@[simp] theorem State.put_lany (f : Field) (i : Nat) (b : Bool) : (s.put f i b).lany = s.lany := rfl
@[simp] theorem State.put_before (f : Field) (i : Nat) (b : Bool) : (s.put f i b).before = s.before := rfl
@[simp] theorem State.put_raised (f : Field) (i : Nat) (b : Bool) : (s.put f i b).raised = s.raised := rfl
@[simp] theorem State.put_wrote (f : Field) (i : Nat) (b : Bool) : (s.put f i b).wrote = s.wrote := rfl
@[simp] theorem State.put_sub (f : Field) (i : Nat) (b : Bool) : (s.put f i b).sub = s.sub := rfl
@[simp] theorem State.put_cause (f : Field) (i : Nat) (b : Bool) : (s.put f i b).cause = s.cause := rfl
@[simp] theorem State.put_hold (f : Field) (i : Nat) (b : Bool) : (s.put f i b).hold = s.hold := rfl
@[simp] theorem State.put_acc (f : Field) (i : Nat) (b : Bool) : (s.put f i b).acc = s.acc := rfl
@[simp] theorem State.put_readVal (f : Field) (i : Nat) (b : Bool) : (s.put f i b).readVal = s.readVal := rfl
@[simp] theorem State.put_strands (f : Field) (i : Nat) (b : Bool) : (s.put f i b).strands = s.strands := rfl
@[simp] theorem State.put_ports (f : Field) (i : Nat) (b : Bool) : (s.put f i b).ports = s.ports := rfl
@[simp] theorem State.put_chans (f : Field) (i : Nat) (b : Bool) : (s.put f i b).chans = s.chans := rfl
@[simp] theorem State.put_quads (f : Field) (i : Nat) (b : Bool) : (s.put f i b).quads = s.quads := rfl
@[simp] theorem State.put_pipe (f : Field) (i : Nat) (b : Bool) : (s.put f i b).pipe = s.pipe := rfl
@[simp] theorem State.put_bins (f : Field) (i : Nat) (b : Bool) : (s.put f i b).bins = s.bins := rfl
@[simp] theorem State.put_qmap (f : Field) (i : Nat) (b : Bool) : (s.put f i b).qmap = s.qmap := rfl
@[simp] theorem State.put_metas (f : Field) (i : Nat) (b : Bool) : (s.put f i b).metas = s.metas := rfl
@[simp] theorem State.put_cores (f : Field) (i : Nat) (b : Bool) : (s.put f i b).cores = s.cores := rfl
@[simp] theorem State.put_pcs (f : Field) (i : Nat) (b : Bool) : (s.put f i b).pcs = s.pcs := rfl
@[simp] theorem State.put_pcWas (f : Field) (i : Nat) (b : Bool) : (s.put f i b).pcWas = s.pcWas := rfl
@[simp] theorem State.put_monq (f : Field) (i : Nat) (b : Bool) : (s.put f i b).monq = s.monq := rfl
@[simp] theorem State.put_pcq (f : Field) (i : Nat) (b : Bool) : (s.put f i b).pcq = s.pcq := rfl
@[simp] theorem State.put_log (f : Field) (i : Nat) (b : Bool) : (s.put f i b).log = s.log := rfl
@[simp] theorem State.put_mram (f : Field) (i : Nat) (b : Bool) : (s.put f i b).mram = s.mram := rfl
@[simp] theorem State.put_otp (f : Field) (i : Nat) (b : Bool) : (s.put f i b).otp = s.otp := rfl
@[simp] theorem State.put_lock (f : Field) (i : Nat) (b : Bool) : (s.put f i b).lock = s.lock := rfl
@[simp] theorem State.put_safety (f : Field) (i : Nat) (b : Bool) : (s.put f i b).safety = s.safety := rfl
@[simp] theorem State.put_commit (f : Field) (i : Nat) (b : Bool) : (s.put f i b).commit = s.commit := rfl
@[simp] theorem State.put_lastCommit (f : Field) (i : Nat) (b : Bool) : (s.put f i b).lastCommit = s.lastCommit := rfl
@[simp] theorem State.put_boot (f : Field) (i : Nat) (b : Bool) : (s.put f i b).boot = s.boot := rfl
@[simp] theorem State.put_power (f : Field) (i : Nat) (b : Bool) : (s.put f i b).power = s.power := rfl
@[simp] theorem State.put_link (f : Field) (i : Nat) (b : Bool) : (s.put f i b).link = s.link := rfl
@[simp] theorem State.put_hawser (f : Field) (i : Nat) (b : Bool) : (s.put f i b).hawser = s.hawser := rfl

/-! ### `bump` -/

@[simp] theorem State.bump_pending (f : Field) (i n : Nat) : (s.bump f i n).pending = s.pending := rfl
@[simp] theorem State.bump_free (f : Field) (i n : Nat) : (s.bump f i n).free = s.free := rfl
@[simp] theorem State.bump_tick (f : Field) (i n : Nat) : (s.bump f i n).tick = s.tick := rfl
@[simp] theorem State.bump_lany (f : Field) (i n : Nat) : (s.bump f i n).lany = s.lany := rfl
@[simp] theorem State.bump_before (f : Field) (i n : Nat) : (s.bump f i n).before = s.before := rfl
@[simp] theorem State.bump_raised (f : Field) (i n : Nat) : (s.bump f i n).raised = s.raised := rfl
@[simp] theorem State.bump_wrote (f : Field) (i n : Nat) : (s.bump f i n).wrote = s.wrote := rfl
@[simp] theorem State.bump_sub (f : Field) (i n : Nat) : (s.bump f i n).sub = s.sub := rfl
@[simp] theorem State.bump_cause (f : Field) (i n : Nat) : (s.bump f i n).cause = s.cause := rfl
@[simp] theorem State.bump_hold (f : Field) (i n : Nat) : (s.bump f i n).hold = s.hold := rfl
@[simp] theorem State.bump_acc (f : Field) (i n : Nat) : (s.bump f i n).acc = s.acc := rfl
@[simp] theorem State.bump_readVal (f : Field) (i n : Nat) : (s.bump f i n).readVal = s.readVal := rfl
@[simp] theorem State.bump_strands (f : Field) (i n : Nat) : (s.bump f i n).strands = s.strands := rfl
@[simp] theorem State.bump_ports (f : Field) (i n : Nat) : (s.bump f i n).ports = s.ports := rfl
@[simp] theorem State.bump_chans (f : Field) (i n : Nat) : (s.bump f i n).chans = s.chans := rfl
@[simp] theorem State.bump_quads (f : Field) (i n : Nat) : (s.bump f i n).quads = s.quads := rfl
@[simp] theorem State.bump_pipe (f : Field) (i n : Nat) : (s.bump f i n).pipe = s.pipe := rfl
@[simp] theorem State.bump_bins (f : Field) (i n : Nat) : (s.bump f i n).bins = s.bins := rfl
@[simp] theorem State.bump_qmap (f : Field) (i n : Nat) : (s.bump f i n).qmap = s.qmap := rfl
@[simp] theorem State.bump_metas (f : Field) (i n : Nat) : (s.bump f i n).metas = s.metas := rfl
@[simp] theorem State.bump_cores (f : Field) (i n : Nat) : (s.bump f i n).cores = s.cores := rfl
@[simp] theorem State.bump_pcs (f : Field) (i n : Nat) : (s.bump f i n).pcs = s.pcs := rfl
@[simp] theorem State.bump_pcWas (f : Field) (i n : Nat) : (s.bump f i n).pcWas = s.pcWas := rfl
@[simp] theorem State.bump_monq (f : Field) (i n : Nat) : (s.bump f i n).monq = s.monq := rfl
@[simp] theorem State.bump_pcq (f : Field) (i n : Nat) : (s.bump f i n).pcq = s.pcq := rfl
@[simp] theorem State.bump_log (f : Field) (i n : Nat) : (s.bump f i n).log = s.log := rfl
@[simp] theorem State.bump_mram (f : Field) (i n : Nat) : (s.bump f i n).mram = s.mram := rfl
@[simp] theorem State.bump_otp (f : Field) (i n : Nat) : (s.bump f i n).otp = s.otp := rfl
@[simp] theorem State.bump_lock (f : Field) (i n : Nat) : (s.bump f i n).lock = s.lock := rfl
@[simp] theorem State.bump_safety (f : Field) (i n : Nat) : (s.bump f i n).safety = s.safety := rfl
@[simp] theorem State.bump_commit (f : Field) (i n : Nat) : (s.bump f i n).commit = s.commit := rfl
@[simp] theorem State.bump_lastCommit (f : Field) (i n : Nat) : (s.bump f i n).lastCommit = s.lastCommit := rfl
@[simp] theorem State.bump_boot (f : Field) (i n : Nat) : (s.bump f i n).boot = s.boot := rfl
@[simp] theorem State.bump_power (f : Field) (i n : Nat) : (s.bump f i n).power = s.power := rfl
@[simp] theorem State.bump_link (f : Field) (i n : Nat) : (s.bump f i n).link = s.link := rfl
@[simp] theorem State.bump_hawser (f : Field) (i n : Nat) : (s.bump f i n).hawser = s.hawser := rfl

/-! ### `count` -/

@[simp] theorem State.count_pending (f : Field) (i n : Nat) : (s.count f i n).pending = s.pending := rfl
@[simp] theorem State.count_free (f : Field) (i n : Nat) : (s.count f i n).free = s.free := rfl
@[simp] theorem State.count_tick (f : Field) (i n : Nat) : (s.count f i n).tick = s.tick := rfl
@[simp] theorem State.count_lany (f : Field) (i n : Nat) : (s.count f i n).lany = s.lany := rfl
@[simp] theorem State.count_before (f : Field) (i n : Nat) : (s.count f i n).before = s.before := rfl
@[simp] theorem State.count_raised (f : Field) (i n : Nat) : (s.count f i n).raised = s.raised := rfl
@[simp] theorem State.count_wrote (f : Field) (i n : Nat) : (s.count f i n).wrote = s.wrote := rfl
@[simp] theorem State.count_sub (f : Field) (i n : Nat) : (s.count f i n).sub = s.sub := rfl
@[simp] theorem State.count_cause (f : Field) (i n : Nat) : (s.count f i n).cause = s.cause := rfl
@[simp] theorem State.count_hold (f : Field) (i n : Nat) : (s.count f i n).hold = s.hold := rfl
@[simp] theorem State.count_acc (f : Field) (i n : Nat) : (s.count f i n).acc = s.acc := rfl
@[simp] theorem State.count_readVal (f : Field) (i n : Nat) : (s.count f i n).readVal = s.readVal := rfl
@[simp] theorem State.count_strands (f : Field) (i n : Nat) : (s.count f i n).strands = s.strands := rfl
@[simp] theorem State.count_ports (f : Field) (i n : Nat) : (s.count f i n).ports = s.ports := rfl
@[simp] theorem State.count_chans (f : Field) (i n : Nat) : (s.count f i n).chans = s.chans := rfl
@[simp] theorem State.count_quads (f : Field) (i n : Nat) : (s.count f i n).quads = s.quads := rfl
@[simp] theorem State.count_pipe (f : Field) (i n : Nat) : (s.count f i n).pipe = s.pipe := rfl
@[simp] theorem State.count_bins (f : Field) (i n : Nat) : (s.count f i n).bins = s.bins := rfl
@[simp] theorem State.count_qmap (f : Field) (i n : Nat) : (s.count f i n).qmap = s.qmap := rfl
@[simp] theorem State.count_metas (f : Field) (i n : Nat) : (s.count f i n).metas = s.metas := rfl
@[simp] theorem State.count_cores (f : Field) (i n : Nat) : (s.count f i n).cores = s.cores := rfl
@[simp] theorem State.count_pcs (f : Field) (i n : Nat) : (s.count f i n).pcs = s.pcs := rfl
@[simp] theorem State.count_pcWas (f : Field) (i n : Nat) : (s.count f i n).pcWas = s.pcWas := rfl
@[simp] theorem State.count_monq (f : Field) (i n : Nat) : (s.count f i n).monq = s.monq := rfl
@[simp] theorem State.count_pcq (f : Field) (i n : Nat) : (s.count f i n).pcq = s.pcq := rfl
@[simp] theorem State.count_log (f : Field) (i n : Nat) : (s.count f i n).log = s.log := rfl
@[simp] theorem State.count_mram (f : Field) (i n : Nat) : (s.count f i n).mram = s.mram := rfl
@[simp] theorem State.count_otp (f : Field) (i n : Nat) : (s.count f i n).otp = s.otp := rfl
@[simp] theorem State.count_lock (f : Field) (i n : Nat) : (s.count f i n).lock = s.lock := rfl
@[simp] theorem State.count_safety (f : Field) (i n : Nat) : (s.count f i n).safety = s.safety := rfl
@[simp] theorem State.count_commit (f : Field) (i n : Nat) : (s.count f i n).commit = s.commit := rfl
@[simp] theorem State.count_lastCommit (f : Field) (i n : Nat) : (s.count f i n).lastCommit = s.lastCommit := rfl
@[simp] theorem State.count_boot (f : Field) (i n : Nat) : (s.count f i n).boot = s.boot := rfl
@[simp] theorem State.count_power (f : Field) (i n : Nat) : (s.count f i n).power = s.power := rfl
@[simp] theorem State.count_link (f : Field) (i n : Nat) : (s.count f i n).link = s.link := rfl
@[simp] theorem State.count_hawser (f : Field) (i n : Nat) : (s.count f i n).hawser = s.hawser := rfl

/-! ### `putBit` -/

@[simp] theorem State.putBit_pending (f : Field) (i k : Nat) (b : Bool) : (s.putBit f i k b).pending = s.pending := rfl
@[simp] theorem State.putBit_free (f : Field) (i k : Nat) (b : Bool) : (s.putBit f i k b).free = s.free := rfl
@[simp] theorem State.putBit_tick (f : Field) (i k : Nat) (b : Bool) : (s.putBit f i k b).tick = s.tick := rfl
@[simp] theorem State.putBit_lany (f : Field) (i k : Nat) (b : Bool) : (s.putBit f i k b).lany = s.lany := rfl
@[simp] theorem State.putBit_before (f : Field) (i k : Nat) (b : Bool) : (s.putBit f i k b).before = s.before := rfl
@[simp] theorem State.putBit_raised (f : Field) (i k : Nat) (b : Bool) : (s.putBit f i k b).raised = s.raised := rfl
@[simp] theorem State.putBit_wrote (f : Field) (i k : Nat) (b : Bool) : (s.putBit f i k b).wrote = s.wrote := rfl
@[simp] theorem State.putBit_sub (f : Field) (i k : Nat) (b : Bool) : (s.putBit f i k b).sub = s.sub := rfl
@[simp] theorem State.putBit_cause (f : Field) (i k : Nat) (b : Bool) : (s.putBit f i k b).cause = s.cause := rfl
@[simp] theorem State.putBit_hold (f : Field) (i k : Nat) (b : Bool) : (s.putBit f i k b).hold = s.hold := rfl
@[simp] theorem State.putBit_acc (f : Field) (i k : Nat) (b : Bool) : (s.putBit f i k b).acc = s.acc := rfl
@[simp] theorem State.putBit_readVal (f : Field) (i k : Nat) (b : Bool) : (s.putBit f i k b).readVal = s.readVal := rfl
@[simp] theorem State.putBit_strands (f : Field) (i k : Nat) (b : Bool) : (s.putBit f i k b).strands = s.strands := rfl
@[simp] theorem State.putBit_ports (f : Field) (i k : Nat) (b : Bool) : (s.putBit f i k b).ports = s.ports := rfl
@[simp] theorem State.putBit_chans (f : Field) (i k : Nat) (b : Bool) : (s.putBit f i k b).chans = s.chans := rfl
@[simp] theorem State.putBit_quads (f : Field) (i k : Nat) (b : Bool) : (s.putBit f i k b).quads = s.quads := rfl
@[simp] theorem State.putBit_pipe (f : Field) (i k : Nat) (b : Bool) : (s.putBit f i k b).pipe = s.pipe := rfl
@[simp] theorem State.putBit_bins (f : Field) (i k : Nat) (b : Bool) : (s.putBit f i k b).bins = s.bins := rfl
@[simp] theorem State.putBit_qmap (f : Field) (i k : Nat) (b : Bool) : (s.putBit f i k b).qmap = s.qmap := rfl
@[simp] theorem State.putBit_metas (f : Field) (i k : Nat) (b : Bool) : (s.putBit f i k b).metas = s.metas := rfl
@[simp] theorem State.putBit_cores (f : Field) (i k : Nat) (b : Bool) : (s.putBit f i k b).cores = s.cores := rfl
@[simp] theorem State.putBit_pcs (f : Field) (i k : Nat) (b : Bool) : (s.putBit f i k b).pcs = s.pcs := rfl
@[simp] theorem State.putBit_pcWas (f : Field) (i k : Nat) (b : Bool) : (s.putBit f i k b).pcWas = s.pcWas := rfl
@[simp] theorem State.putBit_monq (f : Field) (i k : Nat) (b : Bool) : (s.putBit f i k b).monq = s.monq := rfl
@[simp] theorem State.putBit_pcq (f : Field) (i k : Nat) (b : Bool) : (s.putBit f i k b).pcq = s.pcq := rfl
@[simp] theorem State.putBit_log (f : Field) (i k : Nat) (b : Bool) : (s.putBit f i k b).log = s.log := rfl
@[simp] theorem State.putBit_mram (f : Field) (i k : Nat) (b : Bool) : (s.putBit f i k b).mram = s.mram := rfl
@[simp] theorem State.putBit_otp (f : Field) (i k : Nat) (b : Bool) : (s.putBit f i k b).otp = s.otp := rfl
@[simp] theorem State.putBit_lock (f : Field) (i k : Nat) (b : Bool) : (s.putBit f i k b).lock = s.lock := rfl
@[simp] theorem State.putBit_safety (f : Field) (i k : Nat) (b : Bool) : (s.putBit f i k b).safety = s.safety := rfl
@[simp] theorem State.putBit_commit (f : Field) (i k : Nat) (b : Bool) : (s.putBit f i k b).commit = s.commit := rfl
@[simp] theorem State.putBit_lastCommit (f : Field) (i k : Nat) (b : Bool) : (s.putBit f i k b).lastCommit = s.lastCommit := rfl
@[simp] theorem State.putBit_boot (f : Field) (i k : Nat) (b : Bool) : (s.putBit f i k b).boot = s.boot := rfl
@[simp] theorem State.putBit_power (f : Field) (i k : Nat) (b : Bool) : (s.putBit f i k b).power = s.power := rfl
@[simp] theorem State.putBit_link (f : Field) (i k : Nat) (b : Bool) : (s.putBit f i k b).link = s.link := rfl
@[simp] theorem State.putBit_hawser (f : Field) (i k : Nat) (b : Bool) : (s.putBit f i k b).hawser = s.hawser := rfl

/-! ### `setPair` -/

@[simp] theorem State.setPair_pending (f : Field) (i : Nat) (x : Time) : (s.setPair f i x).pending = s.pending := rfl
@[simp] theorem State.setPair_free (f : Field) (i : Nat) (x : Time) : (s.setPair f i x).free = s.free := rfl
@[simp] theorem State.setPair_tick (f : Field) (i : Nat) (x : Time) : (s.setPair f i x).tick = s.tick := rfl
@[simp] theorem State.setPair_lany (f : Field) (i : Nat) (x : Time) : (s.setPair f i x).lany = s.lany := rfl
@[simp] theorem State.setPair_before (f : Field) (i : Nat) (x : Time) : (s.setPair f i x).before = s.before := rfl
@[simp] theorem State.setPair_raised (f : Field) (i : Nat) (x : Time) : (s.setPair f i x).raised = s.raised := rfl
@[simp] theorem State.setPair_wrote (f : Field) (i : Nat) (x : Time) : (s.setPair f i x).wrote = s.wrote := rfl
@[simp] theorem State.setPair_sub (f : Field) (i : Nat) (x : Time) : (s.setPair f i x).sub = s.sub := rfl
@[simp] theorem State.setPair_cause (f : Field) (i : Nat) (x : Time) : (s.setPair f i x).cause = s.cause := rfl
@[simp] theorem State.setPair_hold (f : Field) (i : Nat) (x : Time) : (s.setPair f i x).hold = s.hold := rfl
@[simp] theorem State.setPair_acc (f : Field) (i : Nat) (x : Time) : (s.setPair f i x).acc = s.acc := rfl
@[simp] theorem State.setPair_readVal (f : Field) (i : Nat) (x : Time) : (s.setPair f i x).readVal = s.readVal := rfl
@[simp] theorem State.setPair_strands (f : Field) (i : Nat) (x : Time) : (s.setPair f i x).strands = s.strands := rfl
@[simp] theorem State.setPair_ports (f : Field) (i : Nat) (x : Time) : (s.setPair f i x).ports = s.ports := rfl
@[simp] theorem State.setPair_chans (f : Field) (i : Nat) (x : Time) : (s.setPair f i x).chans = s.chans := rfl
@[simp] theorem State.setPair_quads (f : Field) (i : Nat) (x : Time) : (s.setPair f i x).quads = s.quads := rfl
@[simp] theorem State.setPair_pipe (f : Field) (i : Nat) (x : Time) : (s.setPair f i x).pipe = s.pipe := rfl
@[simp] theorem State.setPair_bins (f : Field) (i : Nat) (x : Time) : (s.setPair f i x).bins = s.bins := rfl
@[simp] theorem State.setPair_qmap (f : Field) (i : Nat) (x : Time) : (s.setPair f i x).qmap = s.qmap := rfl
@[simp] theorem State.setPair_metas (f : Field) (i : Nat) (x : Time) : (s.setPair f i x).metas = s.metas := rfl
@[simp] theorem State.setPair_cores (f : Field) (i : Nat) (x : Time) : (s.setPair f i x).cores = s.cores := rfl
@[simp] theorem State.setPair_pcs (f : Field) (i : Nat) (x : Time) : (s.setPair f i x).pcs = s.pcs := rfl
@[simp] theorem State.setPair_pcWas (f : Field) (i : Nat) (x : Time) : (s.setPair f i x).pcWas = s.pcWas := rfl
@[simp] theorem State.setPair_monq (f : Field) (i : Nat) (x : Time) : (s.setPair f i x).monq = s.monq := rfl
@[simp] theorem State.setPair_pcq (f : Field) (i : Nat) (x : Time) : (s.setPair f i x).pcq = s.pcq := rfl
@[simp] theorem State.setPair_log (f : Field) (i : Nat) (x : Time) : (s.setPair f i x).log = s.log := rfl
@[simp] theorem State.setPair_mram (f : Field) (i : Nat) (x : Time) : (s.setPair f i x).mram = s.mram := rfl
@[simp] theorem State.setPair_otp (f : Field) (i : Nat) (x : Time) : (s.setPair f i x).otp = s.otp := rfl
@[simp] theorem State.setPair_lock (f : Field) (i : Nat) (x : Time) : (s.setPair f i x).lock = s.lock := rfl
@[simp] theorem State.setPair_safety (f : Field) (i : Nat) (x : Time) : (s.setPair f i x).safety = s.safety := rfl
@[simp] theorem State.setPair_commit (f : Field) (i : Nat) (x : Time) : (s.setPair f i x).commit = s.commit := rfl
@[simp] theorem State.setPair_lastCommit (f : Field) (i : Nat) (x : Time) : (s.setPair f i x).lastCommit = s.lastCommit := rfl
@[simp] theorem State.setPair_boot (f : Field) (i : Nat) (x : Time) : (s.setPair f i x).boot = s.boot := rfl
@[simp] theorem State.setPair_power (f : Field) (i : Nat) (x : Time) : (s.setPair f i x).power = s.power := rfl
@[simp] theorem State.setPair_link (f : Field) (i : Nat) (x : Time) : (s.setPair f i x).link = s.link := rfl
@[simp] theorem State.setPair_hawser (f : Field) (i : Nat) (x : Time) : (s.setPair f i x).hawser = s.hawser := rfl

/-! ### `noteRaised` -/

@[simp] theorem State.noteRaised_pending (k : Nat) (w : Word) : (s.noteRaised k w).pending = s.pending := rfl
@[simp] theorem State.noteRaised_free (k : Nat) (w : Word) : (s.noteRaised k w).free = s.free := rfl
@[simp] theorem State.noteRaised_tick (k : Nat) (w : Word) : (s.noteRaised k w).tick = s.tick := rfl
@[simp] theorem State.noteRaised_lany (k : Nat) (w : Word) : (s.noteRaised k w).lany = s.lany := rfl
@[simp] theorem State.noteRaised_regs (k : Nat) (w : Word) : (s.noteRaised k w).regs = s.regs := rfl
@[simp] theorem State.noteRaised_before (k : Nat) (w : Word) : (s.noteRaised k w).before = s.before := rfl
@[simp] theorem State.noteRaised_wrote (k : Nat) (w : Word) : (s.noteRaised k w).wrote = s.wrote := rfl
@[simp] theorem State.noteRaised_sub (k : Nat) (w : Word) : (s.noteRaised k w).sub = s.sub := rfl
@[simp] theorem State.noteRaised_cause (k : Nat) (w : Word) : (s.noteRaised k w).cause = s.cause := rfl
@[simp] theorem State.noteRaised_hold (k : Nat) (w : Word) : (s.noteRaised k w).hold = s.hold := rfl
@[simp] theorem State.noteRaised_acc (k : Nat) (w : Word) : (s.noteRaised k w).acc = s.acc := rfl
@[simp] theorem State.noteRaised_readVal (k : Nat) (w : Word) : (s.noteRaised k w).readVal = s.readVal := rfl
@[simp] theorem State.noteRaised_strands (k : Nat) (w : Word) : (s.noteRaised k w).strands = s.strands := rfl
@[simp] theorem State.noteRaised_ports (k : Nat) (w : Word) : (s.noteRaised k w).ports = s.ports := rfl
@[simp] theorem State.noteRaised_chans (k : Nat) (w : Word) : (s.noteRaised k w).chans = s.chans := rfl
@[simp] theorem State.noteRaised_quads (k : Nat) (w : Word) : (s.noteRaised k w).quads = s.quads := rfl
@[simp] theorem State.noteRaised_pipe (k : Nat) (w : Word) : (s.noteRaised k w).pipe = s.pipe := rfl
@[simp] theorem State.noteRaised_bins (k : Nat) (w : Word) : (s.noteRaised k w).bins = s.bins := rfl
@[simp] theorem State.noteRaised_qmap (k : Nat) (w : Word) : (s.noteRaised k w).qmap = s.qmap := rfl
@[simp] theorem State.noteRaised_metas (k : Nat) (w : Word) : (s.noteRaised k w).metas = s.metas := rfl
@[simp] theorem State.noteRaised_cores (k : Nat) (w : Word) : (s.noteRaised k w).cores = s.cores := rfl
@[simp] theorem State.noteRaised_pcs (k : Nat) (w : Word) : (s.noteRaised k w).pcs = s.pcs := rfl
@[simp] theorem State.noteRaised_pcWas (k : Nat) (w : Word) : (s.noteRaised k w).pcWas = s.pcWas := rfl
@[simp] theorem State.noteRaised_monq (k : Nat) (w : Word) : (s.noteRaised k w).monq = s.monq := rfl
@[simp] theorem State.noteRaised_pcq (k : Nat) (w : Word) : (s.noteRaised k w).pcq = s.pcq := rfl
@[simp] theorem State.noteRaised_log (k : Nat) (w : Word) : (s.noteRaised k w).log = s.log := rfl
@[simp] theorem State.noteRaised_mram (k : Nat) (w : Word) : (s.noteRaised k w).mram = s.mram := rfl
@[simp] theorem State.noteRaised_otp (k : Nat) (w : Word) : (s.noteRaised k w).otp = s.otp := rfl
@[simp] theorem State.noteRaised_lock (k : Nat) (w : Word) : (s.noteRaised k w).lock = s.lock := rfl
@[simp] theorem State.noteRaised_safety (k : Nat) (w : Word) : (s.noteRaised k w).safety = s.safety := rfl
@[simp] theorem State.noteRaised_commit (k : Nat) (w : Word) : (s.noteRaised k w).commit = s.commit := rfl
@[simp] theorem State.noteRaised_lastCommit (k : Nat) (w : Word) : (s.noteRaised k w).lastCommit = s.lastCommit := rfl
@[simp] theorem State.noteRaised_boot (k : Nat) (w : Word) : (s.noteRaised k w).boot = s.boot := rfl
@[simp] theorem State.noteRaised_power (k : Nat) (w : Word) : (s.noteRaised k w).power = s.power := rfl
@[simp] theorem State.noteRaised_link (k : Nat) (w : Word) : (s.noteRaised k w).link = s.link := rfl
@[simp] theorem State.noteRaised_hawser (k : Nat) (w : Word) : (s.noteRaised k w).hawser = s.hawser := rfl

/-! ### `raise` -/

@[simp] theorem State.raise_pending (f : Field) (i : Nat) : (s.raise f i).pending = s.pending := rfl
@[simp] theorem State.raise_free (f : Field) (i : Nat) : (s.raise f i).free = s.free := rfl
@[simp] theorem State.raise_tick (f : Field) (i : Nat) : (s.raise f i).tick = s.tick := rfl
@[simp] theorem State.raise_lany (f : Field) (i : Nat) : (s.raise f i).lany = s.lany := rfl
@[simp] theorem State.raise_before (f : Field) (i : Nat) : (s.raise f i).before = s.before := rfl
@[simp] theorem State.raise_wrote (f : Field) (i : Nat) : (s.raise f i).wrote = s.wrote := rfl
@[simp] theorem State.raise_sub (f : Field) (i : Nat) : (s.raise f i).sub = s.sub := rfl
@[simp] theorem State.raise_cause (f : Field) (i : Nat) : (s.raise f i).cause = s.cause := rfl
@[simp] theorem State.raise_hold (f : Field) (i : Nat) : (s.raise f i).hold = s.hold := rfl
@[simp] theorem State.raise_acc (f : Field) (i : Nat) : (s.raise f i).acc = s.acc := rfl
@[simp] theorem State.raise_readVal (f : Field) (i : Nat) : (s.raise f i).readVal = s.readVal := rfl
@[simp] theorem State.raise_strands (f : Field) (i : Nat) : (s.raise f i).strands = s.strands := rfl
@[simp] theorem State.raise_ports (f : Field) (i : Nat) : (s.raise f i).ports = s.ports := rfl
@[simp] theorem State.raise_chans (f : Field) (i : Nat) : (s.raise f i).chans = s.chans := rfl
@[simp] theorem State.raise_quads (f : Field) (i : Nat) : (s.raise f i).quads = s.quads := rfl
@[simp] theorem State.raise_pipe (f : Field) (i : Nat) : (s.raise f i).pipe = s.pipe := rfl
@[simp] theorem State.raise_bins (f : Field) (i : Nat) : (s.raise f i).bins = s.bins := rfl
@[simp] theorem State.raise_qmap (f : Field) (i : Nat) : (s.raise f i).qmap = s.qmap := rfl
@[simp] theorem State.raise_metas (f : Field) (i : Nat) : (s.raise f i).metas = s.metas := rfl
@[simp] theorem State.raise_cores (f : Field) (i : Nat) : (s.raise f i).cores = s.cores := rfl
@[simp] theorem State.raise_pcs (f : Field) (i : Nat) : (s.raise f i).pcs = s.pcs := rfl
@[simp] theorem State.raise_pcWas (f : Field) (i : Nat) : (s.raise f i).pcWas = s.pcWas := rfl
@[simp] theorem State.raise_monq (f : Field) (i : Nat) : (s.raise f i).monq = s.monq := rfl
@[simp] theorem State.raise_pcq (f : Field) (i : Nat) : (s.raise f i).pcq = s.pcq := rfl
@[simp] theorem State.raise_log (f : Field) (i : Nat) : (s.raise f i).log = s.log := rfl
@[simp] theorem State.raise_mram (f : Field) (i : Nat) : (s.raise f i).mram = s.mram := rfl
@[simp] theorem State.raise_otp (f : Field) (i : Nat) : (s.raise f i).otp = s.otp := rfl
@[simp] theorem State.raise_lock (f : Field) (i : Nat) : (s.raise f i).lock = s.lock := rfl
@[simp] theorem State.raise_safety (f : Field) (i : Nat) : (s.raise f i).safety = s.safety := rfl
@[simp] theorem State.raise_commit (f : Field) (i : Nat) : (s.raise f i).commit = s.commit := rfl
@[simp] theorem State.raise_lastCommit (f : Field) (i : Nat) : (s.raise f i).lastCommit = s.lastCommit := rfl
@[simp] theorem State.raise_boot (f : Field) (i : Nat) : (s.raise f i).boot = s.boot := rfl
@[simp] theorem State.raise_power (f : Field) (i : Nat) : (s.raise f i).power = s.power := rfl
@[simp] theorem State.raise_link (f : Field) (i : Nat) : (s.raise f i).link = s.link := rfl
@[simp] theorem State.raise_hawser (f : Field) (i : Nat) : (s.raise f i).hawser = s.hawser := rfl

/-! ### `raiseBit` -/

@[simp] theorem State.raiseBit_pending (f : Field) (i k : Nat) : (s.raiseBit f i k).pending = s.pending := rfl
@[simp] theorem State.raiseBit_free (f : Field) (i k : Nat) : (s.raiseBit f i k).free = s.free := rfl
@[simp] theorem State.raiseBit_tick (f : Field) (i k : Nat) : (s.raiseBit f i k).tick = s.tick := rfl
@[simp] theorem State.raiseBit_lany (f : Field) (i k : Nat) : (s.raiseBit f i k).lany = s.lany := rfl
@[simp] theorem State.raiseBit_before (f : Field) (i k : Nat) : (s.raiseBit f i k).before = s.before := rfl
@[simp] theorem State.raiseBit_wrote (f : Field) (i k : Nat) : (s.raiseBit f i k).wrote = s.wrote := rfl
@[simp] theorem State.raiseBit_sub (f : Field) (i k : Nat) : (s.raiseBit f i k).sub = s.sub := rfl
@[simp] theorem State.raiseBit_cause (f : Field) (i k : Nat) : (s.raiseBit f i k).cause = s.cause := rfl
@[simp] theorem State.raiseBit_hold (f : Field) (i k : Nat) : (s.raiseBit f i k).hold = s.hold := rfl
@[simp] theorem State.raiseBit_acc (f : Field) (i k : Nat) : (s.raiseBit f i k).acc = s.acc := rfl
@[simp] theorem State.raiseBit_readVal (f : Field) (i k : Nat) : (s.raiseBit f i k).readVal = s.readVal := rfl
@[simp] theorem State.raiseBit_strands (f : Field) (i k : Nat) : (s.raiseBit f i k).strands = s.strands := rfl
@[simp] theorem State.raiseBit_ports (f : Field) (i k : Nat) : (s.raiseBit f i k).ports = s.ports := rfl
@[simp] theorem State.raiseBit_chans (f : Field) (i k : Nat) : (s.raiseBit f i k).chans = s.chans := rfl
@[simp] theorem State.raiseBit_quads (f : Field) (i k : Nat) : (s.raiseBit f i k).quads = s.quads := rfl
@[simp] theorem State.raiseBit_pipe (f : Field) (i k : Nat) : (s.raiseBit f i k).pipe = s.pipe := rfl
@[simp] theorem State.raiseBit_bins (f : Field) (i k : Nat) : (s.raiseBit f i k).bins = s.bins := rfl
@[simp] theorem State.raiseBit_qmap (f : Field) (i k : Nat) : (s.raiseBit f i k).qmap = s.qmap := rfl
@[simp] theorem State.raiseBit_metas (f : Field) (i k : Nat) : (s.raiseBit f i k).metas = s.metas := rfl
@[simp] theorem State.raiseBit_cores (f : Field) (i k : Nat) : (s.raiseBit f i k).cores = s.cores := rfl
@[simp] theorem State.raiseBit_pcs (f : Field) (i k : Nat) : (s.raiseBit f i k).pcs = s.pcs := rfl
@[simp] theorem State.raiseBit_pcWas (f : Field) (i k : Nat) : (s.raiseBit f i k).pcWas = s.pcWas := rfl
@[simp] theorem State.raiseBit_monq (f : Field) (i k : Nat) : (s.raiseBit f i k).monq = s.monq := rfl
@[simp] theorem State.raiseBit_pcq (f : Field) (i k : Nat) : (s.raiseBit f i k).pcq = s.pcq := rfl
@[simp] theorem State.raiseBit_log (f : Field) (i k : Nat) : (s.raiseBit f i k).log = s.log := rfl
@[simp] theorem State.raiseBit_mram (f : Field) (i k : Nat) : (s.raiseBit f i k).mram = s.mram := rfl
@[simp] theorem State.raiseBit_otp (f : Field) (i k : Nat) : (s.raiseBit f i k).otp = s.otp := rfl
@[simp] theorem State.raiseBit_lock (f : Field) (i k : Nat) : (s.raiseBit f i k).lock = s.lock := rfl
@[simp] theorem State.raiseBit_safety (f : Field) (i k : Nat) : (s.raiseBit f i k).safety = s.safety := rfl
@[simp] theorem State.raiseBit_commit (f : Field) (i k : Nat) : (s.raiseBit f i k).commit = s.commit := rfl
@[simp] theorem State.raiseBit_lastCommit (f : Field) (i k : Nat) : (s.raiseBit f i k).lastCommit = s.lastCommit := rfl
@[simp] theorem State.raiseBit_boot (f : Field) (i k : Nat) : (s.raiseBit f i k).boot = s.boot := rfl
@[simp] theorem State.raiseBit_power (f : Field) (i k : Nat) : (s.raiseBit f i k).power = s.power := rfl
@[simp] theorem State.raiseBit_link (f : Field) (i k : Nat) : (s.raiseBit f i k).link = s.link := rfl
@[simp] theorem State.raiseBit_hawser (f : Field) (i k : Nat) : (s.raiseBit f i k).hawser = s.hawser := rfl

/-! ### `setStrand` -/

@[simp] theorem State.setStrand_pending (i : Nat) (x : StrandRt) : (s.setStrand i x).pending = s.pending := rfl
@[simp] theorem State.setStrand_free (i : Nat) (x : StrandRt) : (s.setStrand i x).free = s.free := rfl
@[simp] theorem State.setStrand_tick (i : Nat) (x : StrandRt) : (s.setStrand i x).tick = s.tick := rfl
@[simp] theorem State.setStrand_lany (i : Nat) (x : StrandRt) : (s.setStrand i x).lany = s.lany := rfl
@[simp] theorem State.setStrand_regs (i : Nat) (x : StrandRt) : (s.setStrand i x).regs = s.regs := rfl
@[simp] theorem State.setStrand_before (i : Nat) (x : StrandRt) : (s.setStrand i x).before = s.before := rfl
@[simp] theorem State.setStrand_raised (i : Nat) (x : StrandRt) : (s.setStrand i x).raised = s.raised := rfl
@[simp] theorem State.setStrand_wrote (i : Nat) (x : StrandRt) : (s.setStrand i x).wrote = s.wrote := rfl
@[simp] theorem State.setStrand_sub (i : Nat) (x : StrandRt) : (s.setStrand i x).sub = s.sub := rfl
@[simp] theorem State.setStrand_cause (i : Nat) (x : StrandRt) : (s.setStrand i x).cause = s.cause := rfl
@[simp] theorem State.setStrand_hold (i : Nat) (x : StrandRt) : (s.setStrand i x).hold = s.hold := rfl
@[simp] theorem State.setStrand_acc (i : Nat) (x : StrandRt) : (s.setStrand i x).acc = s.acc := rfl
@[simp] theorem State.setStrand_readVal (i : Nat) (x : StrandRt) : (s.setStrand i x).readVal = s.readVal := rfl
@[simp] theorem State.setStrand_ports (i : Nat) (x : StrandRt) : (s.setStrand i x).ports = s.ports := rfl
@[simp] theorem State.setStrand_chans (i : Nat) (x : StrandRt) : (s.setStrand i x).chans = s.chans := rfl
@[simp] theorem State.setStrand_quads (i : Nat) (x : StrandRt) : (s.setStrand i x).quads = s.quads := rfl
@[simp] theorem State.setStrand_pipe (i : Nat) (x : StrandRt) : (s.setStrand i x).pipe = s.pipe := rfl
@[simp] theorem State.setStrand_bins (i : Nat) (x : StrandRt) : (s.setStrand i x).bins = s.bins := rfl
@[simp] theorem State.setStrand_qmap (i : Nat) (x : StrandRt) : (s.setStrand i x).qmap = s.qmap := rfl
@[simp] theorem State.setStrand_metas (i : Nat) (x : StrandRt) : (s.setStrand i x).metas = s.metas := rfl
@[simp] theorem State.setStrand_cores (i : Nat) (x : StrandRt) : (s.setStrand i x).cores = s.cores := rfl
@[simp] theorem State.setStrand_pcs (i : Nat) (x : StrandRt) : (s.setStrand i x).pcs = s.pcs := rfl
@[simp] theorem State.setStrand_pcWas (i : Nat) (x : StrandRt) : (s.setStrand i x).pcWas = s.pcWas := rfl
@[simp] theorem State.setStrand_monq (i : Nat) (x : StrandRt) : (s.setStrand i x).monq = s.monq := rfl
@[simp] theorem State.setStrand_pcq (i : Nat) (x : StrandRt) : (s.setStrand i x).pcq = s.pcq := rfl
@[simp] theorem State.setStrand_log (i : Nat) (x : StrandRt) : (s.setStrand i x).log = s.log := rfl
@[simp] theorem State.setStrand_mram (i : Nat) (x : StrandRt) : (s.setStrand i x).mram = s.mram := rfl
@[simp] theorem State.setStrand_otp (i : Nat) (x : StrandRt) : (s.setStrand i x).otp = s.otp := rfl
@[simp] theorem State.setStrand_lock (i : Nat) (x : StrandRt) : (s.setStrand i x).lock = s.lock := rfl
@[simp] theorem State.setStrand_safety (i : Nat) (x : StrandRt) : (s.setStrand i x).safety = s.safety := rfl
@[simp] theorem State.setStrand_commit (i : Nat) (x : StrandRt) : (s.setStrand i x).commit = s.commit := rfl
@[simp] theorem State.setStrand_lastCommit (i : Nat) (x : StrandRt) : (s.setStrand i x).lastCommit = s.lastCommit := rfl
@[simp] theorem State.setStrand_boot (i : Nat) (x : StrandRt) : (s.setStrand i x).boot = s.boot := rfl
@[simp] theorem State.setStrand_power (i : Nat) (x : StrandRt) : (s.setStrand i x).power = s.power := rfl
@[simp] theorem State.setStrand_link (i : Nat) (x : StrandRt) : (s.setStrand i x).link = s.link := rfl
@[simp] theorem State.setStrand_hawser (i : Nat) (x : StrandRt) : (s.setStrand i x).hawser = s.hawser := rfl

/-! ### `setPort` -/

@[simp] theorem State.setPort_pending (i : Nat) (x : PortRt) : (s.setPort i x).pending = s.pending := rfl
@[simp] theorem State.setPort_free (i : Nat) (x : PortRt) : (s.setPort i x).free = s.free := rfl
@[simp] theorem State.setPort_tick (i : Nat) (x : PortRt) : (s.setPort i x).tick = s.tick := rfl
@[simp] theorem State.setPort_lany (i : Nat) (x : PortRt) : (s.setPort i x).lany = s.lany := rfl
@[simp] theorem State.setPort_regs (i : Nat) (x : PortRt) : (s.setPort i x).regs = s.regs := rfl
@[simp] theorem State.setPort_before (i : Nat) (x : PortRt) : (s.setPort i x).before = s.before := rfl
@[simp] theorem State.setPort_raised (i : Nat) (x : PortRt) : (s.setPort i x).raised = s.raised := rfl
@[simp] theorem State.setPort_wrote (i : Nat) (x : PortRt) : (s.setPort i x).wrote = s.wrote := rfl
@[simp] theorem State.setPort_sub (i : Nat) (x : PortRt) : (s.setPort i x).sub = s.sub := rfl
@[simp] theorem State.setPort_cause (i : Nat) (x : PortRt) : (s.setPort i x).cause = s.cause := rfl
@[simp] theorem State.setPort_hold (i : Nat) (x : PortRt) : (s.setPort i x).hold = s.hold := rfl
@[simp] theorem State.setPort_acc (i : Nat) (x : PortRt) : (s.setPort i x).acc = s.acc := rfl
@[simp] theorem State.setPort_readVal (i : Nat) (x : PortRt) : (s.setPort i x).readVal = s.readVal := rfl
@[simp] theorem State.setPort_strands (i : Nat) (x : PortRt) : (s.setPort i x).strands = s.strands := rfl
@[simp] theorem State.setPort_chans (i : Nat) (x : PortRt) : (s.setPort i x).chans = s.chans := rfl
@[simp] theorem State.setPort_quads (i : Nat) (x : PortRt) : (s.setPort i x).quads = s.quads := rfl
@[simp] theorem State.setPort_pipe (i : Nat) (x : PortRt) : (s.setPort i x).pipe = s.pipe := rfl
@[simp] theorem State.setPort_bins (i : Nat) (x : PortRt) : (s.setPort i x).bins = s.bins := rfl
@[simp] theorem State.setPort_qmap (i : Nat) (x : PortRt) : (s.setPort i x).qmap = s.qmap := rfl
@[simp] theorem State.setPort_metas (i : Nat) (x : PortRt) : (s.setPort i x).metas = s.metas := rfl
@[simp] theorem State.setPort_cores (i : Nat) (x : PortRt) : (s.setPort i x).cores = s.cores := rfl
@[simp] theorem State.setPort_pcs (i : Nat) (x : PortRt) : (s.setPort i x).pcs = s.pcs := rfl
@[simp] theorem State.setPort_pcWas (i : Nat) (x : PortRt) : (s.setPort i x).pcWas = s.pcWas := rfl
@[simp] theorem State.setPort_monq (i : Nat) (x : PortRt) : (s.setPort i x).monq = s.monq := rfl
@[simp] theorem State.setPort_pcq (i : Nat) (x : PortRt) : (s.setPort i x).pcq = s.pcq := rfl
@[simp] theorem State.setPort_log (i : Nat) (x : PortRt) : (s.setPort i x).log = s.log := rfl
@[simp] theorem State.setPort_mram (i : Nat) (x : PortRt) : (s.setPort i x).mram = s.mram := rfl
@[simp] theorem State.setPort_otp (i : Nat) (x : PortRt) : (s.setPort i x).otp = s.otp := rfl
@[simp] theorem State.setPort_lock (i : Nat) (x : PortRt) : (s.setPort i x).lock = s.lock := rfl
@[simp] theorem State.setPort_safety (i : Nat) (x : PortRt) : (s.setPort i x).safety = s.safety := rfl
@[simp] theorem State.setPort_commit (i : Nat) (x : PortRt) : (s.setPort i x).commit = s.commit := rfl
@[simp] theorem State.setPort_lastCommit (i : Nat) (x : PortRt) : (s.setPort i x).lastCommit = s.lastCommit := rfl
@[simp] theorem State.setPort_boot (i : Nat) (x : PortRt) : (s.setPort i x).boot = s.boot := rfl
@[simp] theorem State.setPort_power (i : Nat) (x : PortRt) : (s.setPort i x).power = s.power := rfl
@[simp] theorem State.setPort_link (i : Nat) (x : PortRt) : (s.setPort i x).link = s.link := rfl
@[simp] theorem State.setPort_hawser (i : Nat) (x : PortRt) : (s.setPort i x).hawser = s.hawser := rfl

/-! ### `setChan` -/

@[simp] theorem State.setChan_pending (i : Nat) (x : ChanRt) : (s.setChan i x).pending = s.pending := rfl
@[simp] theorem State.setChan_free (i : Nat) (x : ChanRt) : (s.setChan i x).free = s.free := rfl
@[simp] theorem State.setChan_tick (i : Nat) (x : ChanRt) : (s.setChan i x).tick = s.tick := rfl
@[simp] theorem State.setChan_lany (i : Nat) (x : ChanRt) : (s.setChan i x).lany = s.lany := rfl
@[simp] theorem State.setChan_regs (i : Nat) (x : ChanRt) : (s.setChan i x).regs = s.regs := rfl
@[simp] theorem State.setChan_before (i : Nat) (x : ChanRt) : (s.setChan i x).before = s.before := rfl
@[simp] theorem State.setChan_raised (i : Nat) (x : ChanRt) : (s.setChan i x).raised = s.raised := rfl
@[simp] theorem State.setChan_wrote (i : Nat) (x : ChanRt) : (s.setChan i x).wrote = s.wrote := rfl
@[simp] theorem State.setChan_sub (i : Nat) (x : ChanRt) : (s.setChan i x).sub = s.sub := rfl
@[simp] theorem State.setChan_cause (i : Nat) (x : ChanRt) : (s.setChan i x).cause = s.cause := rfl
@[simp] theorem State.setChan_hold (i : Nat) (x : ChanRt) : (s.setChan i x).hold = s.hold := rfl
@[simp] theorem State.setChan_acc (i : Nat) (x : ChanRt) : (s.setChan i x).acc = s.acc := rfl
@[simp] theorem State.setChan_readVal (i : Nat) (x : ChanRt) : (s.setChan i x).readVal = s.readVal := rfl
@[simp] theorem State.setChan_strands (i : Nat) (x : ChanRt) : (s.setChan i x).strands = s.strands := rfl
@[simp] theorem State.setChan_ports (i : Nat) (x : ChanRt) : (s.setChan i x).ports = s.ports := rfl
@[simp] theorem State.setChan_quads (i : Nat) (x : ChanRt) : (s.setChan i x).quads = s.quads := rfl
@[simp] theorem State.setChan_pipe (i : Nat) (x : ChanRt) : (s.setChan i x).pipe = s.pipe := rfl
@[simp] theorem State.setChan_bins (i : Nat) (x : ChanRt) : (s.setChan i x).bins = s.bins := rfl
@[simp] theorem State.setChan_qmap (i : Nat) (x : ChanRt) : (s.setChan i x).qmap = s.qmap := rfl
@[simp] theorem State.setChan_metas (i : Nat) (x : ChanRt) : (s.setChan i x).metas = s.metas := rfl
@[simp] theorem State.setChan_cores (i : Nat) (x : ChanRt) : (s.setChan i x).cores = s.cores := rfl
@[simp] theorem State.setChan_pcs (i : Nat) (x : ChanRt) : (s.setChan i x).pcs = s.pcs := rfl
@[simp] theorem State.setChan_pcWas (i : Nat) (x : ChanRt) : (s.setChan i x).pcWas = s.pcWas := rfl
@[simp] theorem State.setChan_monq (i : Nat) (x : ChanRt) : (s.setChan i x).monq = s.monq := rfl
@[simp] theorem State.setChan_pcq (i : Nat) (x : ChanRt) : (s.setChan i x).pcq = s.pcq := rfl
@[simp] theorem State.setChan_log (i : Nat) (x : ChanRt) : (s.setChan i x).log = s.log := rfl
@[simp] theorem State.setChan_mram (i : Nat) (x : ChanRt) : (s.setChan i x).mram = s.mram := rfl
@[simp] theorem State.setChan_otp (i : Nat) (x : ChanRt) : (s.setChan i x).otp = s.otp := rfl
@[simp] theorem State.setChan_lock (i : Nat) (x : ChanRt) : (s.setChan i x).lock = s.lock := rfl
@[simp] theorem State.setChan_safety (i : Nat) (x : ChanRt) : (s.setChan i x).safety = s.safety := rfl
@[simp] theorem State.setChan_commit (i : Nat) (x : ChanRt) : (s.setChan i x).commit = s.commit := rfl
@[simp] theorem State.setChan_lastCommit (i : Nat) (x : ChanRt) : (s.setChan i x).lastCommit = s.lastCommit := rfl
@[simp] theorem State.setChan_boot (i : Nat) (x : ChanRt) : (s.setChan i x).boot = s.boot := rfl
@[simp] theorem State.setChan_power (i : Nat) (x : ChanRt) : (s.setChan i x).power = s.power := rfl
@[simp] theorem State.setChan_link (i : Nat) (x : ChanRt) : (s.setChan i x).link = s.link := rfl
@[simp] theorem State.setChan_hawser (i : Nat) (x : ChanRt) : (s.setChan i x).hawser = s.hawser := rfl

/-! ### `setQuad` -/

@[simp] theorem State.setQuad_pending (i : Nat) (x : QuadRt) : (s.setQuad i x).pending = s.pending := rfl
@[simp] theorem State.setQuad_free (i : Nat) (x : QuadRt) : (s.setQuad i x).free = s.free := rfl
@[simp] theorem State.setQuad_tick (i : Nat) (x : QuadRt) : (s.setQuad i x).tick = s.tick := rfl
@[simp] theorem State.setQuad_lany (i : Nat) (x : QuadRt) : (s.setQuad i x).lany = s.lany := rfl
@[simp] theorem State.setQuad_regs (i : Nat) (x : QuadRt) : (s.setQuad i x).regs = s.regs := rfl
@[simp] theorem State.setQuad_before (i : Nat) (x : QuadRt) : (s.setQuad i x).before = s.before := rfl
@[simp] theorem State.setQuad_raised (i : Nat) (x : QuadRt) : (s.setQuad i x).raised = s.raised := rfl
@[simp] theorem State.setQuad_wrote (i : Nat) (x : QuadRt) : (s.setQuad i x).wrote = s.wrote := rfl
@[simp] theorem State.setQuad_sub (i : Nat) (x : QuadRt) : (s.setQuad i x).sub = s.sub := rfl
@[simp] theorem State.setQuad_cause (i : Nat) (x : QuadRt) : (s.setQuad i x).cause = s.cause := rfl
@[simp] theorem State.setQuad_hold (i : Nat) (x : QuadRt) : (s.setQuad i x).hold = s.hold := rfl
@[simp] theorem State.setQuad_acc (i : Nat) (x : QuadRt) : (s.setQuad i x).acc = s.acc := rfl
@[simp] theorem State.setQuad_readVal (i : Nat) (x : QuadRt) : (s.setQuad i x).readVal = s.readVal := rfl
@[simp] theorem State.setQuad_strands (i : Nat) (x : QuadRt) : (s.setQuad i x).strands = s.strands := rfl
@[simp] theorem State.setQuad_ports (i : Nat) (x : QuadRt) : (s.setQuad i x).ports = s.ports := rfl
@[simp] theorem State.setQuad_chans (i : Nat) (x : QuadRt) : (s.setQuad i x).chans = s.chans := rfl
@[simp] theorem State.setQuad_pipe (i : Nat) (x : QuadRt) : (s.setQuad i x).pipe = s.pipe := rfl
@[simp] theorem State.setQuad_bins (i : Nat) (x : QuadRt) : (s.setQuad i x).bins = s.bins := rfl
@[simp] theorem State.setQuad_qmap (i : Nat) (x : QuadRt) : (s.setQuad i x).qmap = s.qmap := rfl
@[simp] theorem State.setQuad_metas (i : Nat) (x : QuadRt) : (s.setQuad i x).metas = s.metas := rfl
@[simp] theorem State.setQuad_cores (i : Nat) (x : QuadRt) : (s.setQuad i x).cores = s.cores := rfl
@[simp] theorem State.setQuad_pcs (i : Nat) (x : QuadRt) : (s.setQuad i x).pcs = s.pcs := rfl
@[simp] theorem State.setQuad_pcWas (i : Nat) (x : QuadRt) : (s.setQuad i x).pcWas = s.pcWas := rfl
@[simp] theorem State.setQuad_monq (i : Nat) (x : QuadRt) : (s.setQuad i x).monq = s.monq := rfl
@[simp] theorem State.setQuad_pcq (i : Nat) (x : QuadRt) : (s.setQuad i x).pcq = s.pcq := rfl
@[simp] theorem State.setQuad_log (i : Nat) (x : QuadRt) : (s.setQuad i x).log = s.log := rfl
@[simp] theorem State.setQuad_mram (i : Nat) (x : QuadRt) : (s.setQuad i x).mram = s.mram := rfl
@[simp] theorem State.setQuad_otp (i : Nat) (x : QuadRt) : (s.setQuad i x).otp = s.otp := rfl
@[simp] theorem State.setQuad_lock (i : Nat) (x : QuadRt) : (s.setQuad i x).lock = s.lock := rfl
@[simp] theorem State.setQuad_safety (i : Nat) (x : QuadRt) : (s.setQuad i x).safety = s.safety := rfl
@[simp] theorem State.setQuad_commit (i : Nat) (x : QuadRt) : (s.setQuad i x).commit = s.commit := rfl
@[simp] theorem State.setQuad_lastCommit (i : Nat) (x : QuadRt) : (s.setQuad i x).lastCommit = s.lastCommit := rfl
@[simp] theorem State.setQuad_boot (i : Nat) (x : QuadRt) : (s.setQuad i x).boot = s.boot := rfl
@[simp] theorem State.setQuad_power (i : Nat) (x : QuadRt) : (s.setQuad i x).power = s.power := rfl
@[simp] theorem State.setQuad_link (i : Nat) (x : QuadRt) : (s.setQuad i x).link = s.link := rfl
@[simp] theorem State.setQuad_hawser (i : Nat) (x : QuadRt) : (s.setQuad i x).hawser = s.hawser := rfl

/-! ### `setCore` -/

@[simp] theorem State.setCore_pending (i : Nat) (x : CoreRt) : (s.setCore i x).pending = s.pending := rfl
@[simp] theorem State.setCore_free (i : Nat) (x : CoreRt) : (s.setCore i x).free = s.free := rfl
@[simp] theorem State.setCore_tick (i : Nat) (x : CoreRt) : (s.setCore i x).tick = s.tick := rfl
@[simp] theorem State.setCore_lany (i : Nat) (x : CoreRt) : (s.setCore i x).lany = s.lany := rfl
@[simp] theorem State.setCore_regs (i : Nat) (x : CoreRt) : (s.setCore i x).regs = s.regs := rfl
@[simp] theorem State.setCore_before (i : Nat) (x : CoreRt) : (s.setCore i x).before = s.before := rfl
@[simp] theorem State.setCore_raised (i : Nat) (x : CoreRt) : (s.setCore i x).raised = s.raised := rfl
@[simp] theorem State.setCore_wrote (i : Nat) (x : CoreRt) : (s.setCore i x).wrote = s.wrote := rfl
@[simp] theorem State.setCore_sub (i : Nat) (x : CoreRt) : (s.setCore i x).sub = s.sub := rfl
@[simp] theorem State.setCore_cause (i : Nat) (x : CoreRt) : (s.setCore i x).cause = s.cause := rfl
@[simp] theorem State.setCore_hold (i : Nat) (x : CoreRt) : (s.setCore i x).hold = s.hold := rfl
@[simp] theorem State.setCore_acc (i : Nat) (x : CoreRt) : (s.setCore i x).acc = s.acc := rfl
@[simp] theorem State.setCore_readVal (i : Nat) (x : CoreRt) : (s.setCore i x).readVal = s.readVal := rfl
@[simp] theorem State.setCore_strands (i : Nat) (x : CoreRt) : (s.setCore i x).strands = s.strands := rfl
@[simp] theorem State.setCore_ports (i : Nat) (x : CoreRt) : (s.setCore i x).ports = s.ports := rfl
@[simp] theorem State.setCore_chans (i : Nat) (x : CoreRt) : (s.setCore i x).chans = s.chans := rfl
@[simp] theorem State.setCore_quads (i : Nat) (x : CoreRt) : (s.setCore i x).quads = s.quads := rfl
@[simp] theorem State.setCore_pipe (i : Nat) (x : CoreRt) : (s.setCore i x).pipe = s.pipe := rfl
@[simp] theorem State.setCore_bins (i : Nat) (x : CoreRt) : (s.setCore i x).bins = s.bins := rfl
@[simp] theorem State.setCore_qmap (i : Nat) (x : CoreRt) : (s.setCore i x).qmap = s.qmap := rfl
@[simp] theorem State.setCore_metas (i : Nat) (x : CoreRt) : (s.setCore i x).metas = s.metas := rfl
@[simp] theorem State.setCore_pcs (i : Nat) (x : CoreRt) : (s.setCore i x).pcs = s.pcs := rfl
@[simp] theorem State.setCore_pcWas (i : Nat) (x : CoreRt) : (s.setCore i x).pcWas = s.pcWas := rfl
@[simp] theorem State.setCore_monq (i : Nat) (x : CoreRt) : (s.setCore i x).monq = s.monq := rfl
@[simp] theorem State.setCore_pcq (i : Nat) (x : CoreRt) : (s.setCore i x).pcq = s.pcq := rfl
@[simp] theorem State.setCore_log (i : Nat) (x : CoreRt) : (s.setCore i x).log = s.log := rfl
@[simp] theorem State.setCore_mram (i : Nat) (x : CoreRt) : (s.setCore i x).mram = s.mram := rfl
@[simp] theorem State.setCore_otp (i : Nat) (x : CoreRt) : (s.setCore i x).otp = s.otp := rfl
@[simp] theorem State.setCore_lock (i : Nat) (x : CoreRt) : (s.setCore i x).lock = s.lock := rfl
@[simp] theorem State.setCore_safety (i : Nat) (x : CoreRt) : (s.setCore i x).safety = s.safety := rfl
@[simp] theorem State.setCore_commit (i : Nat) (x : CoreRt) : (s.setCore i x).commit = s.commit := rfl
@[simp] theorem State.setCore_lastCommit (i : Nat) (x : CoreRt) : (s.setCore i x).lastCommit = s.lastCommit := rfl
@[simp] theorem State.setCore_boot (i : Nat) (x : CoreRt) : (s.setCore i x).boot = s.boot := rfl
@[simp] theorem State.setCore_power (i : Nat) (x : CoreRt) : (s.setCore i x).power = s.power := rfl
@[simp] theorem State.setCore_link (i : Nat) (x : CoreRt) : (s.setCore i x).link = s.link := rfl
@[simp] theorem State.setCore_hawser (i : Nat) (x : CoreRt) : (s.setCore i x).hawser = s.hawser := rfl

/-! ### `setPc` -/

@[simp] theorem State.setPc_pending (i : Nat) (x : PcRt) : (s.setPc i x).pending = s.pending := rfl
@[simp] theorem State.setPc_free (i : Nat) (x : PcRt) : (s.setPc i x).free = s.free := rfl
@[simp] theorem State.setPc_tick (i : Nat) (x : PcRt) : (s.setPc i x).tick = s.tick := rfl
@[simp] theorem State.setPc_lany (i : Nat) (x : PcRt) : (s.setPc i x).lany = s.lany := rfl
@[simp] theorem State.setPc_regs (i : Nat) (x : PcRt) : (s.setPc i x).regs = s.regs := rfl
@[simp] theorem State.setPc_before (i : Nat) (x : PcRt) : (s.setPc i x).before = s.before := rfl
@[simp] theorem State.setPc_raised (i : Nat) (x : PcRt) : (s.setPc i x).raised = s.raised := rfl
@[simp] theorem State.setPc_wrote (i : Nat) (x : PcRt) : (s.setPc i x).wrote = s.wrote := rfl
@[simp] theorem State.setPc_sub (i : Nat) (x : PcRt) : (s.setPc i x).sub = s.sub := rfl
@[simp] theorem State.setPc_cause (i : Nat) (x : PcRt) : (s.setPc i x).cause = s.cause := rfl
@[simp] theorem State.setPc_hold (i : Nat) (x : PcRt) : (s.setPc i x).hold = s.hold := rfl
@[simp] theorem State.setPc_acc (i : Nat) (x : PcRt) : (s.setPc i x).acc = s.acc := rfl
@[simp] theorem State.setPc_readVal (i : Nat) (x : PcRt) : (s.setPc i x).readVal = s.readVal := rfl
@[simp] theorem State.setPc_strands (i : Nat) (x : PcRt) : (s.setPc i x).strands = s.strands := rfl
@[simp] theorem State.setPc_ports (i : Nat) (x : PcRt) : (s.setPc i x).ports = s.ports := rfl
@[simp] theorem State.setPc_chans (i : Nat) (x : PcRt) : (s.setPc i x).chans = s.chans := rfl
@[simp] theorem State.setPc_quads (i : Nat) (x : PcRt) : (s.setPc i x).quads = s.quads := rfl
@[simp] theorem State.setPc_pipe (i : Nat) (x : PcRt) : (s.setPc i x).pipe = s.pipe := rfl
@[simp] theorem State.setPc_bins (i : Nat) (x : PcRt) : (s.setPc i x).bins = s.bins := rfl
@[simp] theorem State.setPc_qmap (i : Nat) (x : PcRt) : (s.setPc i x).qmap = s.qmap := rfl
@[simp] theorem State.setPc_metas (i : Nat) (x : PcRt) : (s.setPc i x).metas = s.metas := rfl
@[simp] theorem State.setPc_cores (i : Nat) (x : PcRt) : (s.setPc i x).cores = s.cores := rfl
@[simp] theorem State.setPc_pcWas (i : Nat) (x : PcRt) : (s.setPc i x).pcWas = s.pcWas := rfl
@[simp] theorem State.setPc_monq (i : Nat) (x : PcRt) : (s.setPc i x).monq = s.monq := rfl
@[simp] theorem State.setPc_pcq (i : Nat) (x : PcRt) : (s.setPc i x).pcq = s.pcq := rfl
@[simp] theorem State.setPc_log (i : Nat) (x : PcRt) : (s.setPc i x).log = s.log := rfl
@[simp] theorem State.setPc_mram (i : Nat) (x : PcRt) : (s.setPc i x).mram = s.mram := rfl
@[simp] theorem State.setPc_otp (i : Nat) (x : PcRt) : (s.setPc i x).otp = s.otp := rfl
@[simp] theorem State.setPc_lock (i : Nat) (x : PcRt) : (s.setPc i x).lock = s.lock := rfl
@[simp] theorem State.setPc_safety (i : Nat) (x : PcRt) : (s.setPc i x).safety = s.safety := rfl
@[simp] theorem State.setPc_commit (i : Nat) (x : PcRt) : (s.setPc i x).commit = s.commit := rfl
@[simp] theorem State.setPc_lastCommit (i : Nat) (x : PcRt) : (s.setPc i x).lastCommit = s.lastCommit := rfl
@[simp] theorem State.setPc_boot (i : Nat) (x : PcRt) : (s.setPc i x).boot = s.boot := rfl
@[simp] theorem State.setPc_power (i : Nat) (x : PcRt) : (s.setPc i x).power = s.power := rfl
@[simp] theorem State.setPc_link (i : Nat) (x : PcRt) : (s.setPc i x).link = s.link := rfl
@[simp] theorem State.setPc_hawser (i : Nat) (x : PcRt) : (s.setPc i x).hawser = s.hawser := rfl

/-! ### Instances -/

@[simp] theorem State.setStrand_same (i : Nat) (x : StrandRt) : (s.setStrand i x).strand i = x := by simp [State.setStrand, State.strand]
theorem State.setStrand_other {i j : Nat} (x : StrandRt) (h : j ≠ i) : (s.setStrand i x).strand j = s.strand j := by
  simp [State.setStrand, State.strand, SMap.getD_putD_other _ _ _ _ h]
@[simp] theorem State.setPort_same (i : Nat) (x : PortRt) : (s.setPort i x).port i = x := by simp [State.setPort, State.port]
theorem State.setPort_other {i j : Nat} (x : PortRt) (h : j ≠ i) : (s.setPort i x).port j = s.port j := by
  simp [State.setPort, State.port, SMap.getD_putD_other _ _ _ _ h]
@[simp] theorem State.setChan_same (i : Nat) (x : ChanRt) : (s.setChan i x).chan i = x := by simp [State.setChan, State.chan]
theorem State.setChan_other {i j : Nat} (x : ChanRt) (h : j ≠ i) : (s.setChan i x).chan j = s.chan j := by
  simp [State.setChan, State.chan, SMap.getD_putD_other _ _ _ _ h]
@[simp] theorem State.setQuad_same (i : Nat) (x : QuadRt) : (s.setQuad i x).quad i = x := by simp [State.setQuad, State.quad]
theorem State.setQuad_other {i j : Nat} (x : QuadRt) (h : j ≠ i) : (s.setQuad i x).quad j = s.quad j := by
  simp [State.setQuad, State.quad, SMap.getD_putD_other _ _ _ _ h]
@[simp] theorem State.setCore_same (i : Nat) (x : CoreRt) : (s.setCore i x).core i = x := by simp [State.setCore, State.core]
theorem State.setCore_other {i j : Nat} (x : CoreRt) (h : j ≠ i) : (s.setCore i x).core j = s.core j := by
  simp [State.setCore, State.core, SMap.getD_putD_other _ _ _ _ h]
@[simp] theorem State.setPc_same (i : Nat) (x : PcRt) : (s.setPc i x).pc i = x := by simp [State.setPc, State.pc]
theorem State.setPc_other {i j : Nat} (x : PcRt) (h : j ≠ i) : (s.setPc i x).pc j = s.pc j := by
  simp [State.setPc, State.pc, SMap.getD_putD_other _ _ _ _ h]
@[simp] theorem State.setReg_strand (a : Nat) (w : Word) (j : Nat) : (s.setReg a w).strand j = s.strand j := rfl
@[simp] theorem State.setReg_port (a : Nat) (w : Word) (j : Nat) : (s.setReg a w).port j = s.port j := rfl
@[simp] theorem State.setReg_chan (a : Nat) (w : Word) (j : Nat) : (s.setReg a w).chan j = s.chan j := rfl
@[simp] theorem State.setReg_quad (a : Nat) (w : Word) (j : Nat) : (s.setReg a w).quad j = s.quad j := rfl
@[simp] theorem State.setReg_core (a : Nat) (w : Word) (j : Nat) : (s.setReg a w).core j = s.core j := rfl
@[simp] theorem State.setReg_pc (a : Nat) (w : Word) (j : Nat) : (s.setReg a w).pc j = s.pc j := rfl
@[simp] theorem State.wr_strand (f : Field) (i v : Nat) (j : Nat) : (s.wr f i v).strand j = s.strand j := rfl
@[simp] theorem State.wr_port (f : Field) (i v : Nat) (j : Nat) : (s.wr f i v).port j = s.port j := rfl
@[simp] theorem State.wr_chan (f : Field) (i v : Nat) (j : Nat) : (s.wr f i v).chan j = s.chan j := rfl
@[simp] theorem State.wr_quad (f : Field) (i v : Nat) (j : Nat) : (s.wr f i v).quad j = s.quad j := rfl
@[simp] theorem State.wr_core (f : Field) (i v : Nat) (j : Nat) : (s.wr f i v).core j = s.core j := rfl
@[simp] theorem State.wr_pc (f : Field) (i v : Nat) (j : Nat) : (s.wr f i v).pc j = s.pc j := rfl
@[simp] theorem State.put_strand (f : Field) (i : Nat) (b : Bool) (j : Nat) : (s.put f i b).strand j = s.strand j := rfl
@[simp] theorem State.put_port (f : Field) (i : Nat) (b : Bool) (j : Nat) : (s.put f i b).port j = s.port j := rfl
@[simp] theorem State.put_chan (f : Field) (i : Nat) (b : Bool) (j : Nat) : (s.put f i b).chan j = s.chan j := rfl
@[simp] theorem State.put_quad (f : Field) (i : Nat) (b : Bool) (j : Nat) : (s.put f i b).quad j = s.quad j := rfl
@[simp] theorem State.put_core (f : Field) (i : Nat) (b : Bool) (j : Nat) : (s.put f i b).core j = s.core j := rfl
@[simp] theorem State.put_pc (f : Field) (i : Nat) (b : Bool) (j : Nat) : (s.put f i b).pc j = s.pc j := rfl
@[simp] theorem State.bump_strand (f : Field) (i n : Nat) (j : Nat) : (s.bump f i n).strand j = s.strand j := rfl
@[simp] theorem State.bump_port (f : Field) (i n : Nat) (j : Nat) : (s.bump f i n).port j = s.port j := rfl
@[simp] theorem State.bump_chan (f : Field) (i n : Nat) (j : Nat) : (s.bump f i n).chan j = s.chan j := rfl
@[simp] theorem State.bump_quad (f : Field) (i n : Nat) (j : Nat) : (s.bump f i n).quad j = s.quad j := rfl
@[simp] theorem State.bump_core (f : Field) (i n : Nat) (j : Nat) : (s.bump f i n).core j = s.core j := rfl
@[simp] theorem State.bump_pc (f : Field) (i n : Nat) (j : Nat) : (s.bump f i n).pc j = s.pc j := rfl
@[simp] theorem State.count_strand (f : Field) (i n : Nat) (j : Nat) : (s.count f i n).strand j = s.strand j := rfl
@[simp] theorem State.count_port (f : Field) (i n : Nat) (j : Nat) : (s.count f i n).port j = s.port j := rfl
@[simp] theorem State.count_chan (f : Field) (i n : Nat) (j : Nat) : (s.count f i n).chan j = s.chan j := rfl
@[simp] theorem State.count_quad (f : Field) (i n : Nat) (j : Nat) : (s.count f i n).quad j = s.quad j := rfl
@[simp] theorem State.count_core (f : Field) (i n : Nat) (j : Nat) : (s.count f i n).core j = s.core j := rfl
@[simp] theorem State.count_pc (f : Field) (i n : Nat) (j : Nat) : (s.count f i n).pc j = s.pc j := rfl
@[simp] theorem State.putBit_strand (f : Field) (i k : Nat) (b : Bool) (j : Nat) : (s.putBit f i k b).strand j = s.strand j := rfl
@[simp] theorem State.putBit_port (f : Field) (i k : Nat) (b : Bool) (j : Nat) : (s.putBit f i k b).port j = s.port j := rfl
@[simp] theorem State.putBit_chan (f : Field) (i k : Nat) (b : Bool) (j : Nat) : (s.putBit f i k b).chan j = s.chan j := rfl
@[simp] theorem State.putBit_quad (f : Field) (i k : Nat) (b : Bool) (j : Nat) : (s.putBit f i k b).quad j = s.quad j := rfl
@[simp] theorem State.putBit_core (f : Field) (i k : Nat) (b : Bool) (j : Nat) : (s.putBit f i k b).core j = s.core j := rfl
@[simp] theorem State.putBit_pc (f : Field) (i k : Nat) (b : Bool) (j : Nat) : (s.putBit f i k b).pc j = s.pc j := rfl
@[simp] theorem State.setPair_strand (f : Field) (i : Nat) (x : Time) (j : Nat) : (s.setPair f i x).strand j = s.strand j := rfl
@[simp] theorem State.setPair_port (f : Field) (i : Nat) (x : Time) (j : Nat) : (s.setPair f i x).port j = s.port j := rfl
@[simp] theorem State.setPair_chan (f : Field) (i : Nat) (x : Time) (j : Nat) : (s.setPair f i x).chan j = s.chan j := rfl
@[simp] theorem State.setPair_quad (f : Field) (i : Nat) (x : Time) (j : Nat) : (s.setPair f i x).quad j = s.quad j := rfl
@[simp] theorem State.setPair_core (f : Field) (i : Nat) (x : Time) (j : Nat) : (s.setPair f i x).core j = s.core j := rfl
@[simp] theorem State.setPair_pc (f : Field) (i : Nat) (x : Time) (j : Nat) : (s.setPair f i x).pc j = s.pc j := rfl
@[simp] theorem State.noteRaised_reg (k : Nat) (w : Word) (a : Nat) : (s.noteRaised k w).reg a = s.reg a := rfl
@[simp] theorem State.noteRaised_rd (k : Nat) (w : Word) (f : Field) (j : Nat) : (s.noteRaised k w).rd f j = s.rd f j := rfl
@[simp] theorem State.noteRaised_strand (k : Nat) (w : Word) (j : Nat) : (s.noteRaised k w).strand j = s.strand j := rfl
@[simp] theorem State.noteRaised_port (k : Nat) (w : Word) (j : Nat) : (s.noteRaised k w).port j = s.port j := rfl
@[simp] theorem State.noteRaised_chan (k : Nat) (w : Word) (j : Nat) : (s.noteRaised k w).chan j = s.chan j := rfl
@[simp] theorem State.noteRaised_quad (k : Nat) (w : Word) (j : Nat) : (s.noteRaised k w).quad j = s.quad j := rfl
@[simp] theorem State.noteRaised_core (k : Nat) (w : Word) (j : Nat) : (s.noteRaised k w).core j = s.core j := rfl
@[simp] theorem State.noteRaised_pc (k : Nat) (w : Word) (j : Nat) : (s.noteRaised k w).pc j = s.pc j := rfl
@[simp] theorem State.raise_strand (f : Field) (i : Nat) (j : Nat) : (s.raise f i).strand j = s.strand j := rfl
@[simp] theorem State.raise_port (f : Field) (i : Nat) (j : Nat) : (s.raise f i).port j = s.port j := rfl
@[simp] theorem State.raise_chan (f : Field) (i : Nat) (j : Nat) : (s.raise f i).chan j = s.chan j := rfl
@[simp] theorem State.raise_quad (f : Field) (i : Nat) (j : Nat) : (s.raise f i).quad j = s.quad j := rfl
@[simp] theorem State.raise_core (f : Field) (i : Nat) (j : Nat) : (s.raise f i).core j = s.core j := rfl
@[simp] theorem State.raise_pc (f : Field) (i : Nat) (j : Nat) : (s.raise f i).pc j = s.pc j := rfl
@[simp] theorem State.raiseBit_strand (f : Field) (i k : Nat) (j : Nat) : (s.raiseBit f i k).strand j = s.strand j := rfl
@[simp] theorem State.raiseBit_port (f : Field) (i k : Nat) (j : Nat) : (s.raiseBit f i k).port j = s.port j := rfl
@[simp] theorem State.raiseBit_chan (f : Field) (i k : Nat) (j : Nat) : (s.raiseBit f i k).chan j = s.chan j := rfl
@[simp] theorem State.raiseBit_quad (f : Field) (i k : Nat) (j : Nat) : (s.raiseBit f i k).quad j = s.quad j := rfl
@[simp] theorem State.raiseBit_core (f : Field) (i k : Nat) (j : Nat) : (s.raiseBit f i k).core j = s.core j := rfl
@[simp] theorem State.raiseBit_pc (f : Field) (i k : Nat) (j : Nat) : (s.raiseBit f i k).pc j = s.pc j := rfl
@[simp] theorem State.setStrand_reg (i : Nat) (x : StrandRt) (a : Nat) : (s.setStrand i x).reg a = s.reg a := rfl
@[simp] theorem State.setStrand_rd (i : Nat) (x : StrandRt) (f : Field) (j : Nat) : (s.setStrand i x).rd f j = s.rd f j := rfl
@[simp] theorem State.setStrand_port (i : Nat) (x : StrandRt) (j : Nat) : (s.setStrand i x).port j = s.port j := rfl
@[simp] theorem State.setStrand_chan (i : Nat) (x : StrandRt) (j : Nat) : (s.setStrand i x).chan j = s.chan j := rfl
@[simp] theorem State.setStrand_quad (i : Nat) (x : StrandRt) (j : Nat) : (s.setStrand i x).quad j = s.quad j := rfl
@[simp] theorem State.setStrand_core (i : Nat) (x : StrandRt) (j : Nat) : (s.setStrand i x).core j = s.core j := rfl
@[simp] theorem State.setStrand_pc (i : Nat) (x : StrandRt) (j : Nat) : (s.setStrand i x).pc j = s.pc j := rfl
@[simp] theorem State.setPort_reg (i : Nat) (x : PortRt) (a : Nat) : (s.setPort i x).reg a = s.reg a := rfl
@[simp] theorem State.setPort_rd (i : Nat) (x : PortRt) (f : Field) (j : Nat) : (s.setPort i x).rd f j = s.rd f j := rfl
@[simp] theorem State.setPort_strand (i : Nat) (x : PortRt) (j : Nat) : (s.setPort i x).strand j = s.strand j := rfl
@[simp] theorem State.setPort_chan (i : Nat) (x : PortRt) (j : Nat) : (s.setPort i x).chan j = s.chan j := rfl
@[simp] theorem State.setPort_quad (i : Nat) (x : PortRt) (j : Nat) : (s.setPort i x).quad j = s.quad j := rfl
@[simp] theorem State.setPort_core (i : Nat) (x : PortRt) (j : Nat) : (s.setPort i x).core j = s.core j := rfl
@[simp] theorem State.setPort_pc (i : Nat) (x : PortRt) (j : Nat) : (s.setPort i x).pc j = s.pc j := rfl
@[simp] theorem State.setChan_reg (i : Nat) (x : ChanRt) (a : Nat) : (s.setChan i x).reg a = s.reg a := rfl
@[simp] theorem State.setChan_rd (i : Nat) (x : ChanRt) (f : Field) (j : Nat) : (s.setChan i x).rd f j = s.rd f j := rfl
@[simp] theorem State.setChan_strand (i : Nat) (x : ChanRt) (j : Nat) : (s.setChan i x).strand j = s.strand j := rfl
@[simp] theorem State.setChan_port (i : Nat) (x : ChanRt) (j : Nat) : (s.setChan i x).port j = s.port j := rfl
@[simp] theorem State.setChan_quad (i : Nat) (x : ChanRt) (j : Nat) : (s.setChan i x).quad j = s.quad j := rfl
@[simp] theorem State.setChan_core (i : Nat) (x : ChanRt) (j : Nat) : (s.setChan i x).core j = s.core j := rfl
@[simp] theorem State.setChan_pc (i : Nat) (x : ChanRt) (j : Nat) : (s.setChan i x).pc j = s.pc j := rfl
@[simp] theorem State.setQuad_reg (i : Nat) (x : QuadRt) (a : Nat) : (s.setQuad i x).reg a = s.reg a := rfl
@[simp] theorem State.setQuad_rd (i : Nat) (x : QuadRt) (f : Field) (j : Nat) : (s.setQuad i x).rd f j = s.rd f j := rfl
@[simp] theorem State.setQuad_strand (i : Nat) (x : QuadRt) (j : Nat) : (s.setQuad i x).strand j = s.strand j := rfl
@[simp] theorem State.setQuad_port (i : Nat) (x : QuadRt) (j : Nat) : (s.setQuad i x).port j = s.port j := rfl
@[simp] theorem State.setQuad_chan (i : Nat) (x : QuadRt) (j : Nat) : (s.setQuad i x).chan j = s.chan j := rfl
@[simp] theorem State.setQuad_core (i : Nat) (x : QuadRt) (j : Nat) : (s.setQuad i x).core j = s.core j := rfl
@[simp] theorem State.setQuad_pc (i : Nat) (x : QuadRt) (j : Nat) : (s.setQuad i x).pc j = s.pc j := rfl
@[simp] theorem State.setCore_reg (i : Nat) (x : CoreRt) (a : Nat) : (s.setCore i x).reg a = s.reg a := rfl
@[simp] theorem State.setCore_rd (i : Nat) (x : CoreRt) (f : Field) (j : Nat) : (s.setCore i x).rd f j = s.rd f j := rfl
@[simp] theorem State.setCore_strand (i : Nat) (x : CoreRt) (j : Nat) : (s.setCore i x).strand j = s.strand j := rfl
@[simp] theorem State.setCore_port (i : Nat) (x : CoreRt) (j : Nat) : (s.setCore i x).port j = s.port j := rfl
@[simp] theorem State.setCore_chan (i : Nat) (x : CoreRt) (j : Nat) : (s.setCore i x).chan j = s.chan j := rfl
@[simp] theorem State.setCore_quad (i : Nat) (x : CoreRt) (j : Nat) : (s.setCore i x).quad j = s.quad j := rfl
@[simp] theorem State.setCore_pc (i : Nat) (x : CoreRt) (j : Nat) : (s.setCore i x).pc j = s.pc j := rfl
@[simp] theorem State.setPc_reg (i : Nat) (x : PcRt) (a : Nat) : (s.setPc i x).reg a = s.reg a := rfl
@[simp] theorem State.setPc_rd (i : Nat) (x : PcRt) (f : Field) (j : Nat) : (s.setPc i x).rd f j = s.rd f j := rfl
@[simp] theorem State.setPc_strand (i : Nat) (x : PcRt) (j : Nat) : (s.setPc i x).strand j = s.strand j := rfl
@[simp] theorem State.setPc_port (i : Nat) (x : PcRt) (j : Nat) : (s.setPc i x).port j = s.port j := rfl
@[simp] theorem State.setPc_chan (i : Nat) (x : PcRt) (j : Nat) : (s.setPc i x).chan j = s.chan j := rfl
@[simp] theorem State.setPc_quad (i : Nat) (x : PcRt) (j : Nat) : (s.setPc i x).quad j = s.quad j := rfl
@[simp] theorem State.setPc_core (i : Nat) (x : PcRt) (j : Nat) : (s.setPc i x).core j = s.core j := rfl

end Sys2Proof.Machine
end

