-- ==== Sys2Proof/Laws/Core.lean ====
section
/-! SUPPORT. Laws of the reduction cores: what landing leaves alone, and what one issue can do. -/

namespace Sys2Proof.Machine

/-! ### Landing -/

/-- The parts of a core no landing result touches. -/
def CoreRt.still (k : CoreRt) : CoreRt :=
  { k with bank0 := [], bank1 := [], vregs := [], accs := [], cstat := 0, agBase := [], agLen := [], tcmp := 0, land := [] }

theorem CoreRt.still_landOne (k : CoreRt) (w : Landing) : (k.landOne w).still = k.still := by
  cases w with
  | scalar sh r v => simp only [CoreRt.landOne, CoreRt.setSreg]; split <;> [rfl; (split <;> rfl)]
  | acc a op => cases op <;> rfl
  | _ => rfl

theorem CoreRt.still_foldl (l : List Landing) (k : CoreRt) : (l.foldl CoreRt.landOne k).still = k.still := by
  induction l generalizing k with
  | nil => rfl
  | cons w l ih => rw [List.foldl_cons, ih, CoreRt.still_landOne]

theorem CoreRt.still_landAt (k : CoreRt) (n : Nat) : (k.landAt n).still = k.still := by
  unfold CoreRt.landAt
  rw [CoreRt.still_foldl]
  rfl

theorem CoreRt.still_landTo (k : CoreRt) (n : Nat) : (k.landTo n).still = k.still := by
  unfold CoreRt.landTo
  generalize List.range 4 = l
  have : ∀ k' : CoreRt, (l.foldl (fun (k' : CoreRt) j => if k.cycle + j ≤ n then k'.landAt (k.cycle + j) else k') k').still = k'.still := by
    induction l with
    | nil => intro k'; rfl
    | cons j l ih =>
      intro k'
      rw [List.foldl_cons, ih]
      split
      · exact CoreRt.still_landAt _ _
      · rfl
  exact this k

@[simp] theorem CoreRt.landTo_cycle (k : CoreRt) (n : Nat) : (k.landTo n).cycle = k.cycle := by
  simpa only [CoreRt.still] using congrArg CoreRt.cycle (CoreRt.still_landTo k n)
@[simp] theorem CoreRt.landTo_pc (k : CoreRt) (n : Nat) : (k.landTo n).pc = k.pc := by
  simpa only [CoreRt.still] using congrArg CoreRt.pc (CoreRt.still_landTo k n)
@[simp] theorem CoreRt.landTo_shadow (k : CoreRt) (n : Nat) : (k.landTo n).shadow = k.shadow := by
  simpa only [CoreRt.still] using congrArg CoreRt.shadow (CoreRt.still_landTo k n)
@[simp] theorem CoreRt.landTo_dm (k : CoreRt) (n : Nat) : (k.landTo n).dm = k.dm := by
  simpa only [CoreRt.still] using congrArg CoreRt.dm (CoreRt.still_landTo k n)
@[simp] theorem CoreRt.landTo_rep (k : CoreRt) (n : Nat) : (k.landTo n).rep = k.rep := by
  simpa only [CoreRt.still] using congrArg CoreRt.rep (CoreRt.still_landTo k n)
@[simp] theorem CoreRt.landTo_flow (k : CoreRt) (n : Nat) : (k.landTo n).flow = k.flow := by
  simpa only [CoreRt.still] using congrArg CoreRt.flow (CoreRt.still_landTo k n)
@[simp] theorem CoreRt.landTo_hq (k : CoreRt) (n : Nat) : (k.landTo n).hq = k.hq := by
  simpa only [CoreRt.still] using congrArg CoreRt.hq (CoreRt.still_landTo k n)
@[simp] theorem CoreRt.landTo_hauling (k : CoreRt) (n : Nat) : (k.landTo n).hauling = k.hauling := by
  simpa only [CoreRt.still] using congrArg CoreRt.hauling (CoreRt.still_landTo k n)
@[simp] theorem CoreRt.landTo_sends (k : CoreRt) (n : Nat) : (k.landTo n).sends = k.sends := by
  simpa only [CoreRt.still] using congrArg CoreRt.sends (CoreRt.still_landTo k n)
@[simp] theorem CoreRt.landTo_binds (k : CoreRt) (n : Nat) : (k.landTo n).binds = k.binds := by
  simpa only [CoreRt.still] using congrArg CoreRt.binds (CoreRt.still_landTo k n)
@[simp] theorem CoreRt.awake_pc (k : CoreRt) (n : Nat) : (k.awake n).pc = k.pc := by
  unfold CoreRt.awake; split <;> simp [CoreRt.toCycle]
@[simp] theorem CoreRt.awake_shadow (k : CoreRt) (n : Nat) : (k.awake n).shadow = k.shadow := by
  unfold CoreRt.awake; split <;> simp [CoreRt.toCycle]
@[simp] theorem CoreRt.awake_dm (k : CoreRt) (n : Nat) : (k.awake n).dm = k.dm := by
  unfold CoreRt.awake; split <;> simp [CoreRt.toCycle]
@[simp] theorem CoreRt.awake_rep (k : CoreRt) (n : Nat) : (k.awake n).rep = k.rep := by
  unfold CoreRt.awake; split <;> simp [CoreRt.toCycle]
@[simp] theorem CoreRt.awake_flow (k : CoreRt) (n : Nat) : (k.awake n).flow = k.flow := by
  unfold CoreRt.awake; split <;> simp [CoreRt.toCycle]
@[simp] theorem CoreRt.awake_hq (k : CoreRt) (n : Nat) : (k.awake n).hq = k.hq := by
  unfold CoreRt.awake; split <;> simp [CoreRt.toCycle]
@[simp] theorem CoreRt.awake_hauling (k : CoreRt) (n : Nat) : (k.awake n).hauling = k.hauling := by
  unfold CoreRt.awake; split <;> simp [CoreRt.toCycle]
@[simp] theorem CoreRt.awake_sends (k : CoreRt) (n : Nat) : (k.awake n).sends = k.sends := by
  unfold CoreRt.awake; split <;> simp [CoreRt.toCycle]
@[simp] theorem CoreRt.awake_binds (k : CoreRt) (n : Nat) : (k.awake n).binds = k.binds := by
  unfold CoreRt.awake; split <;> simp [CoreRt.toCycle]
@[simp] theorem State.coreNow_pc (s : State) (c : Nat) : (s.coreNow c).pc = (s.core c).pc := by
  simp [State.coreNow]
@[simp] theorem State.coreNow_shadow (s : State) (c : Nat) : (s.coreNow c).shadow = (s.core c).shadow := by
  simp [State.coreNow]
@[simp] theorem State.coreNow_dm (s : State) (c : Nat) : (s.coreNow c).dm = (s.core c).dm := by
  simp [State.coreNow]
@[simp] theorem State.coreNow_rep (s : State) (c : Nat) : (s.coreNow c).rep = (s.core c).rep := by
  simp [State.coreNow]
@[simp] theorem State.coreNow_flow (s : State) (c : Nat) : (s.coreNow c).flow = (s.core c).flow := by
  simp [State.coreNow]
@[simp] theorem State.coreNow_hq (s : State) (c : Nat) : (s.coreNow c).hq = (s.core c).hq := by
  simp [State.coreNow]
@[simp] theorem State.coreNow_hauling (s : State) (c : Nat) : (s.coreNow c).hauling = (s.core c).hauling := by
  simp [State.coreNow]
@[simp] theorem State.coreNow_sends (s : State) (c : Nat) : (s.coreNow c).sends = (s.core c).sends := by
  simp [State.coreNow]
@[simp] theorem State.coreNow_binds (s : State) (c : Nat) : (s.coreNow c).binds = (s.core c).binds := by
  simp [State.coreNow]

/-- What an instruction finds on its core, and the address it shows, before its own effect. -/
def State.atIssue (s : State) (c : Nat) : State :=
  (s.setCore c (s.coreNow c)).wr Reg.CORE_PC_PC c (s.coreNow c).pc

@[simp] theorem State.atIssue_core (s : State) (c : Nat) : (s.atIssue c).core c = s.coreNow c := by
  simp [State.atIssue]

/-- The outcomes of an issue in one place: not allowed, waiting, faulting, or done. -/
theorem State.issue_eq (c : Nat) (eff : State → Did) (s : State) (h : s.canIssue c = true) :
    s.issue c eff = match eff (s.atIssue c) with
      | .wait => s.setCore c { (s.core c).toCycle (s.nowCycle c) with waiting := true }
      | .fault code => (s.atIssue c).coreFault c code
      | .ok u post =>
        let u := u.setCore c ((s.coreNow c).advance (u.core c) (s.reg (Reg.CORE_CSINIT_V.addr c)))
        let u := if (s.coreNow c).jumps then u.enterLib c else u
        match post with
        | none => u
        | some (a, v) => if h : c < 12 then u.writeReg (.core ⟨c, h⟩) a v else u := by
  simp only [State.issue, h]
  rfl

theorem State.issue_blocked (c : Nat) (eff : State → Did) (s : State) (h : s.canIssue c = false) : s.issue c eff = s := by
  simp [State.issue, h]

/-- An instruction that only changes its core, whatever the change. -/
theorem State.issued_of_core (c : Nat) (s : State) (k : CoreRt) (h : s.canIssue c = true) (eff : State → Did)
    (he : eff (s.atIssue c) = .ok ((s.atIssue c).setCore c k) none) : Issued s (s.issue c eff) c k := by
  rw [State.issue_eq c eff s h, he]
  refine ⟨((s.atIssue c).setCore c k).setCore c
      ((s.coreNow c).advance k (s.reg (Reg.CORE_CSINIT_V.addr c))), ⟨?_, ?_, ?_, ?_⟩, ?_, ?_⟩
  · simp only [State.setCore_rd, State.atIssue]
    rw [State.rd_wr_same _ Reg.CORE_PC_PC _ _ (by decide)]
    simp [Reg.CORE_PC_PC, Field.span]
  · intro e he
    simp [State.setCore_other _ _ he, State.atIssue]
  · intro a ha
    simp [State.atIssue, State.reg_wr_other _ _ _ _ ha]
  · simp [State.atIssue, State.setCore, State.wr, State.setReg]
  · simp
  · simp

/-- An instruction that only changes its core completes. -/
theorem coreOp_next (c : CoreId) (f : CoreRt → CoreRt) (s : State) (k : CoreRt) (h : s.canIssue c = true)
    (hk : f (s.coreNow c) = k) : ∃ t, coreOp c f s = .next t ∧ Issued s t c k := by
  subst hk
  exact ⟨_, rfl, State.issued_of_core c s _ h _ (by simp)⟩

/-- An instruction with a scalar result of one cycle completes. -/
theorem scalarOp_next (c : CoreId) (d : BitVec 5) (f : CoreRt → Word) (s : State) (v : Word) (h : s.canIssue c = true)
    (hv : f (s.coreNow c) = v) :
    ∃ t, scalarOp c d f s = .next t
      ∧ Issued s t c ((s.coreNow c).later 1 (.scalar (s.coreNow c).shadow d.toNat v)) := by
  subst hv
  exact coreOp_next c _ s _ h rfl

end Sys2Proof.Machine
end

