-- ==== Sys2Proof/WellFormed.lean ====
section
/-! DEFINITION. Well-formed commands: operands the spec gives a command a meaning for, where their types admit more. A
meaning does not ask for it; it says which operands an environment that follows the spec sends. -/

namespace Sys2Proof

/-- No two elements are equal. -/
def distinct {α : Type} [DecidableEq α] : List α → Bool
  | [] => true
  | a :: l => !l.contains a && distinct l

/-- CADD has a word only with an address generator (R261, Table 12.3). -/
def Mem.circular : Mem → Bool
  | .off _ => false
  | .post _ => false
  | .circ _ _ => true
  | .circReg _ _ => true

/-- A Tilvar datagram's fields fit the header of Table 14.3, and its segment one datagram (R336). -/
def Datagram.wellFormed (d : Datagram) : Bool :=
  decide (d.ty < 2 ^ 8) && decide (d.origin < 2 ^ 8) && decide (d.session < 2 ^ 8) && decide (d.flags < 32)
    && decide (d.seq < 2 ^ 32) && decide (d.msgno < 2 ^ 32) && decide (d.mlen < 2 ^ 32) && decide (d.offset < 2 ^ 32)
    && decide (d.seg.length ≤ 1448)

/-- A hawser frame's fields fit Table 15.2. -/
def HwFrame.wellFormed (f : HwFrame) : Bool :=
  decide (f.ty < 2 ^ 8) && decide (f.src < 2 ^ 8) && decide (f.dst < 2 ^ 8) && decide (f.lseq < 2 ^ 32)
    && decide (f.rseq < 2 ^ 32) &&
    match f.body with
    | .tilvar d => d.wellFormed
    | .topo _ => true
    | .topoAck pos incarn _ _ => decide (pos < 2 ^ 8) && decide (incarn < 2 ^ 32)

/-- A command's operands are ones the spec speaks of. -/
def Instr.wellFormed (i : Instr) : Bool :=
  match i with
  | .cadd _ _ m => m.circular
  | .registerWrite _ a _ => decide (a < 2 ^ 32)
  | .sampleTick l => distinct (l.map (·.chan))
  | .pcMonitorSample l => distinct (l.map (·.1))
  | .haulDescriptorEnd _ errs _ => distinct (errs.map (·.1))
  | .icalEnd _ x => decide (x.off.length ≤ 8) && decide (x.gain.length ≤ 8) && decide (x.cur.length ≤ 14)
  | .connect _ p => decide (p.length ≤ 1448)
  | .disconnect _ p => decide (p.length ≤ 1448)
  | .read _ p => decide (p.length ≤ 1448)
  | .write _ p => decide (p.length ≤ 1448)
  | .fence _ p => decide (p.length ≤ 1448)
  | .nak _ p => decide (p.length ≤ 1448)
  | .wake _ p => decide (p.length ≤ 1448)
  | .keepalive _ p => decide (p.length ≤ 1448)
  | .ackDiverged _ p => decide (p.length ≤ 1448)
  | .logreq _ p => decide (p.length ≤ 1448)
  | .reservedTypeCommand _ _ p => decide (p.length ≤ 1448)
  | .topo _ _ _ f => f.wellFormed
  | .topoAck _ _ f => f.wellFormed
  | .hawserData _ _ f => f.wellFormed
  | .hawserCmd _ _ f => f.wellFormed
  | .tempMeasure t => decide (t.length = 6)
  | _ => true

end Sys2Proof
end

