-- ==== Sys2Proof/Tests/Slice0.lean ====
section
/-! SUPPORT. Tests: ill-formed commands are refused, words decode, results of single commands, and for each statement's
hypotheses a state that meets them. -/

namespace Sys2Proof.Tests

set_option Elab.async false

open Sys2Proof Sys2Proof.Machine

/-! ### Well-formed commands -/

/-- A datagram of the tests. -/
def dg : Datagram := ⟨0x47, 0, 1, 0, 0, 0, 0, 0, []⟩

/-- Pins at 0 V. -/
def noPins : PcPins := ⟨0, 0, 0, 0, 0, 0, 0, 0⟩

/-- A frame of the tests that carries `b` from position 2 to position 1. -/
def fr (b : HwBody) : HwFrame := ⟨1, false, false, 2, 1, 0, 0, 0, b⟩

theorem smoke_pointer : (Instr.cadd 0 5 (.off 4)).wellFormed = false ∧ (Instr.cadd 0 5 (.post 4)).wellFormed = false
    ∧ (Instr.cadd 0 5 (.circ 1 4)).wellFormed = true := by decide

theorem smoke_address : (Instr.registerWrite .host (2 ^ 32) 0).wellFormed = false
    ∧ (Instr.registerWrite .host (2 ^ 32 - 4) 0).wellFormed = true := by decide

theorem smoke_twice : (Instr.sampleTick [⟨3, 0, 0, 0, false, false, false, .ok⟩, ⟨3, 0, 0, 0, false, false, false, .ok⟩]).wellFormed = false
    ∧ (Instr.pcMonitorSample [(3, ⟨noPins, 0, false⟩), (3, ⟨noPins, 0, false⟩)]).wellFormed = false
    ∧ (Instr.haulDescriptorEnd 0 [(7, .corrected), (7, .uncorrectable)] ⟨[], []⟩).wellFormed = false
    ∧ (Instr.haulDescriptorEnd 0 [(7, .corrected), (8, .uncorrectable)] ⟨[], []⟩).wellFormed = true := by decide

theorem smoke_lengths : (Instr.icalEnd 0 ⟨List.replicate 9 0, [], [], none⟩).wellFormed = false
    ∧ (Instr.icalEnd 0 ⟨[], List.replicate 9 0, [], none⟩).wellFormed = false
    ∧ (Instr.icalEnd 0 ⟨[], [], List.replicate 15 0, none⟩).wellFormed = false
    ∧ (Instr.tempMeasure [0, 0, 0, 0, 0]).wellFormed = false ∧ (Instr.tempMeasure [0, 0, 0, 0, 0, 0]).wellFormed = true := by decide

theorem smoke_payload (p : List Byte) (h : 1448 < p.length) : ∀ i ∈ [Instr.connect (.uart 0) p, .disconnect (.uart 0) p,
      .read (.uart 0) p, .write (.uart 0) p, .fence (.uart 0) p, .nak (.uart 0) p, .wake (.uart 0) p, .keepalive (.uart 0) p,
      .ackDiverged (.uart 0) p, .logreq (.uart 0) p, .reservedTypeCommand (.uart 0) 0x50 p], i.wellFormed = false := by
  simp [Instr.wellFormed, h]

theorem smoke_frames : ∀ f ∈ [{ fr (.topo 1) with ty := 256 }, { fr (.topo 1) with src := 256 }, { fr (.topo 1) with dst := 256 },
      { fr (.topo 1) with lseq := 2 ^ 32 }, { fr (.topo 1) with rseq := 2 ^ 32 }, fr (.topoAck 256 0 false none), fr (.topoAck 0 (2 ^ 32) false none),
      fr (.tilvar { dg with ty := 256 }), fr (.tilvar { dg with flags := 32 }), fr (.tilvar { dg with session := 256 }),
      fr (.tilvar { dg with origin := 256 }), fr (.tilvar { dg with seq := 2 ^ 32 }), fr (.tilvar { dg with msgno := 2 ^ 32 }),
      fr (.tilvar { dg with mlen := 2 ^ 32 }), fr (.tilvar { dg with offset := 2 ^ 32 })],
    (Instr.topo .a true false f).wellFormed = false ∧ (Instr.topoAck .a true f).wellFormed = false
      ∧ (Instr.hawserData .a true f).wellFormed = false ∧ (Instr.hawserCmd .a true f).wellFormed = false := by decide

theorem smoke_segment (p : List Byte) (h : 1448 < p.length) :
    (Instr.hawserData .a true (fr (.tilvar { dg with seg := p }))).wellFormed = false := by
  simp [Instr.wellFormed, HwFrame.wellFormed, Datagram.wellFormed, fr, h]

/-! ### Core instruction words (Tables 12.1 to 12.8) -/

/-- The loop of Table 12.10: its encodings, as the manual prints them, and what they spell. -/
theorem test_words_loop :
    decodeCoreWord 3 0x44000006 = some (.aclr 3 0)
    ∧ decodeCoreWord 3 0x90000400 = some (.rep 3 (.imm 1024))
    ∧ decodeCoreWord 3 0x50295CC0 = some (.vdmac 3 0 10 1 11 2 12 false (.ok, .ok))
    ∧ decodeCoreWord 3 0x540A9820 = some (.cadd 3 10 (.circ 1 (-2016)))
    ∧ decodeCoreWord 3 0x05CEFFFF = some (.addi 3 14 14 (-1))
    ∧ decodeCoreWord 3 0x44600288 = some (.vnrw 3 3 0 10)
    ∧ decodeCoreWord 3 0x65C00040 = some (.bne 3 14 0 0x40)
    ∧ decodeCoreWord 3 0x4C6D4020 = some (.vst 3 3 13 (.post 32))
    ∧ decodeCoreWord 3 0 = some (.add 3 0 0 0) := by decide

theorem test_words_scalar : decodeCoreWord 3 (0b000000_00001_00010_00011_00000_000101#32) = some (.shl 3 1 2 3)
    ∧ decodeCoreWord 3 (0b000000_11111_00010_00011_00000_001111#32) = some (.mul 3 31 2 3)
    ∧ decodeCoreWord 0 (0b000110_00001_00000_1000000000000000#32) = some (.lui 0 1 0x8000) := by decide

/-- R284: an unassigned group, a vector field of 16, an accumulator field of 8 spell nothing. -/
theorem test_words_illegal : decodeCoreWord 3 (0b111110_00000_00000_00000_00000_000000#32) = none
    ∧ decodeCoreWord 3 (0b010000_10000_00010_00011_00000_000000#32) = none
    ∧ decodeCoreWord 3 (0b010001_01000_00000_00000_00000_000110#32) = none := by decide

/-! ### States of the tests -/

/-- The block after reset, in operating state `n` (Table 16.1: 3 BOOT, 5 ARMED, 6 RUNNING, 7 WATCH, 8 HELD, 9 SAFE_STOP). -/
def up (n : Nat) : State := State.reset.wr Reg.BOOT_STATE_STATE 0 n

/-- RUNNING, with a run on core 0. -/
def run : State := (up 6).wr Reg.CORE_STAT_STATE 0 2

/-- `run` with core 0 changed. -/
def runWith (k : CoreRt) : State := run.setCore 0 k

/-- A core after reset with some scalar registers set. -/
def regs (l : SMap Word) : CoreRt := { CoreRt.reset with bank0 := l }

/-- A state with the maintenance lock open. -/
def opened (s : State) : State := s.put Reg.LOCK_STAT_OPEN 0 true

/-- A state as it stands when its clock begins. -/
def settled (s : State) : State := { s with before := s.regs }


/-- The command answers a next state of which `p` holds. -/
def after (i : Instr) (s : State) (p : State → Bool) : Bool :=
  match exec i s with
  | .next t => p t
  | _ => false

/-! ### Witnesses: core instructions -/

theorem wit_StepTakesFront : ({ run with pending := [.add 0 1 2 3, .wdk 0] } : State).pending = .add 0 1 2 3 :: [.wdk 0]
    ∧ State.reset.pending = [] := by decide

theorem wit_WordRoundTrip : issuer (.aset 2 7 15 14 13) = some 2 ∧ (encodeCoreWord (.aset 2 7 15 14 13)).isSome = true
    ∧ issuer (.ldw 11 31 30 (.circReg 3 31) .corrected) = some 11
    ∧ (encodeCoreWord (.ldw 11 31 30 (.circReg 3 31) .corrected)).isSome = true := by decide

theorem wit_NoIssue : issuer (.add 11 0 0 0) = some 11 ∧ State.reset.canIssue 11 = false := by decide

theorem wit_issue : run.canIssue 0 = true ∧ run.cstate 0 = 2 ∧ (run.coreNow 0).jumps = false := by decide

theorem wit_ScalarResults : (run.scalarResult (.add 0 31 0 0)).isSome = true ∧ (run.scalarResult (.mfs 0 1 31)).isSome = true := by
  decide

theorem wit_VectorResults : (run.satResult (.vadd 0 15 0 15)).isSome = true ∧ (run.vectorResult (.vmov 0 15 0)).isSome = true := by
  decide

theorem wit_AccumulatorResults : (run.accResult (.vmac 0 7 15 0)).isSome = true := by decide

theorem wit_LaneFunctions : (-32768 : Int) ≤ 32767 ∧ (32767 : Int) < 32768 ∧ (-32769 : Int) < -32768
    ∧ (2 ^ 39 - 1 : Int) < 2 ^ 39 ∧ (-(2 ^ 39) : Int) < -(2 ^ 39 - 1) := by decide

theorem wit_ResultLatency : 1 ≤ 3 ∧ (List.replicate 16 (0 : Int)).length = 16 ∧ (-2 ^ 39 : Int) ≤ nth [-2 ^ 39] 0 0 := by decide

/-- A load of the last word of DM, and one from the data ROM. -/
theorem wit_LoadResults : loadForm (.ldw 0 1 2 (.off 0) .ok) = some (0, 2, .off 0, 4, 4, .ok)
    ∧ (loadedWhat false ((runWith (regs [(2, 0x7FFFC)])).dataBytes 0 0x7FFFC 4) (.ldw 0 1 2 (.off 0) .ok)).isSome = true
    ∧ (((runWith (regs [(2, 0x7FFFC)])).coreNow 0).address 2 (.off 0)).1 = 0x7FFFC ∧ 0x7FFFC % 4 = 0
    ∧ inDm 0x7FFFC 4 = true ∧ inDm 0x7FFFD 4 = false
    ∧ (((runWith (regs [(2, 0x80000)])).coreNow 0).address 2 (.off 0)) = (0x80000, false) ∧ inRom 0x80000 4 = true
    ∧ (runWith (regs [(2, 0x7FFFC)])).canIssue 0 = true := by
  refine ⟨by decide, rfl, by decide, by decide, by decide, by decide, by decide, by decide, by decide⟩

theorem wit_RegisterWindow : (((runWith (regs [(2, 0x80000000)])).coreNow 0).address 2 (.off 0)) = (0x80000000, false)
    ∧ inWindow 0x80000000 = true ∧ (runWith (regs [(2, 0x80000000)])).canIssue 0 = true
    ∧ ((runWith { CoreRt.reset with load := some ⟨false, 31, 0x18⟩ }).core 0).load = some ⟨false, 31, 0x18⟩ := by decide

theorem wit_Stores : storeForm (.vst 0 15 2 (.post 32)) = some (0, 2, .post 32, 32, 2)
    ∧ (((runWith (regs [(2, 0x7FFE0)])).coreNow 0).address 2 (.post 32)).1 = 0x7FFE0 ∧ 0x7FFE0 % 2 = 0 ∧ inDm 0x7FFE0 32 = true := by
  decide

/-- A word at the end of DM plus 1, and a misaligned halfword. -/
theorem wit_AddressFaults : storeForm (.stw 0 1 2 (.off 0)) = some (0, 2, .off 0, 4, 4) ∧ inDm 0x80000 4 = false ∧ inWindow 0x80000 = false
    ∧ (((runWith (regs [(2, 0x80000)])).coreNow 0).address 2 (.off 0)) = (0x80000, false)
    ∧ (runWith (regs [(2, 0x80000)])).canIssue 0 = true ∧ (runWith (regs [(2, 0x80000)])).cstate 0 = 2
    ∧ ((runWith (regs [(2, 0x80000)])).core 0).hq = [] ∧ ((runWith (regs [(2, 0x80000)])).core 0).hauling = none
    ∧ loadForm (.ldh 0 1 2 (.off 1) .ok) = some (0, 2, .off 1, 2, 2, .ok)
    ∧ ((run.coreNow 0).address 2 (.off 1)).1 = 1 ∧ 1 % 2 ≠ 0 := by
  refine ⟨rfl, by decide, by decide, by decide, by decide, by decide, by decide, by decide, rfl, by decide, by decide⟩

theorem wit_PointerUpdates : (∃ g x, Mem.circ 3 (-2048) = .circ g x) ∧ (∃ g q, Mem.circReg 0 31 = .circReg g q)
    ∧ run.canIssue 0 = true ∧ run.cstate 0 = 2 := ⟨⟨3, -2048, rfl⟩, ⟨0, 31, rfl⟩, by decide, by decide⟩

theorem wit_DualStream : (nth (run.coreNow 0).agBase 1 0 + (run.coreNow 0).sreg 2).toNat = 0 ∧ inDm 0 32 = true ∧ inDm 0x7FFE0 32 = true
    ∧ inDm 0x7FFE2 32 = false ∧ inDm 0x7FFFE 2 = true ∧ run.cstate 0 = 2 := by decide

theorem wit_Branches : run.branchTarget (.beq 0 0 0 0x7FFF) = some (0, 0x7FFF) ∧ run.branchTarget (.bne 0 0 0 0x7FFF) = some (0, 3)
    ∧ run.canIssue 0 = true := by decide

theorem wit_FlowOfIssue : CoreRt.reset.rep = none ∧ CoreRt.reset.flow = none
    ∧ ({ CoreRt.reset with flow := some (2, .to 5) } : CoreRt).flow = some (2, .to 5)
    ∧ ({ CoreRt.reset with flow := some (1, .rti 1) } : CoreRt).flow = some (1, .rti 1)
    ∧ ({ CoreRt.reset with rep := some 2 } : CoreRt).rep = some (0 + 2) ∧ CoreRt.reset.idleIrq = false := by decide

theorem wit_RepEndRtiWdk : (run.coreNow 0).lvl = 0
    ∧ ((runWith { CoreRt.reset with cstat := 0x184 }).coreNow 0).lvl ≠ 0 ∧ (runWith { CoreRt.reset with cstat := 0x184 }).canIssue 0 = true := by
  decide

theorem wit_SpecialWrites : (0 : BitVec 5) ≠ 1 ∧ (31 : BitVec 5) ≠ 1 ∧ run.canIssue 0 = true := by decide

/-- The last descriptor of DM, one beyond it, a full queue, a full send list, a binding the run holds and buffers at the limits. -/
theorem wit_HaulAndSendQueues : 0x7FFE0 % 32 = 0 ∧ inDm 0x7FFE0 32 = true ∧ inDm 0x80000 32 = false
    ∧ 4 ≤ ((runWith { CoreRt.reset with hq := [0, 32, 64, 96] }).coreNow 0).hq.length
    ∧ ((runWith { CoreRt.reset with hq := [0, 32, 64, 96] }).core 0).hq ≠ []
    ∧ (((runWith (regs [(1, 0x1BF)])).coreNow 0).sreg 1).toNat % 256 = 191
    ∧ (0, 0) ∈ ((runWith { CoreRt.reset with binds := [(0, 0)] }).coreNow 0).binds
    ∧ (run.core 0).hq = [] ∧ (run.core 0).hauling = none ∧ (run.coreNow 0).jumps = false
    ∧ 524288 ≤ 524288 ∧ 0 + 524288 ≤ 0x80000 ∧ ¬ 1 + 524288 ≤ 0x80000
    ∧ 16 ≤ ((runWith { CoreRt.reset with sends := List.replicate 16 ⟨0, 1, 7⟩ }).coreNow 0).sends.length := by decide

/-! ### Witnesses: core events -/

/-- Core 0 in a run with level 0 and level 1 enabled, DOOR pending and assigned to level 1 or 0. -/
def asked (lvl1 : Bool) : State :=
  ((runWith { CoreRt.reset with cstat := 0x1B0, cycle := 4 }).wr Reg.CORE_IPEND_DOOR 0 1).wr Reg.CORE_IEN_EN 0 8 |>.wr Reg.CORE_ILVL_LVL 0 (if lvl1 then 8 else 0)

theorem wit_Interrupts : (asked true).cstate 0 = 2 ∧ (asked true).cstate 0 ≠ 0 ∧ 4 ≤ (asked true).mode ∧ (asked true).inWatch = false
    ∧ ((asked true).core 0).flow = none ∧ ((asked true).core 0).rep = none ∧ ((asked true).core 0).endAt = none
    ∧ ((asked true).core 0).load = none ∧ ((asked true).core 0).ira.length = 2 ∧ ((asked true).core 0).istat.length = 2
    ∧ (asked true).requested 0 1 ((asked true).coreNow 0).cycle = true ∧ ((asked true).coreNow 0).cstat.getLsbD 5 = true
    ∧ ((asked true).coreNow 0).lvl ≤ 1 ∧ ((asked true).coreNow 0).land = []
    ∧ (asked false).requested 0 0 ((asked false).coreNow 0).cycle = true ∧ (asked false).requested 0 1 ((asked false).coreNow 0).cycle = false
    ∧ ((asked false).coreNow 0).cstat.getLsbD 4 = true ∧ ((asked false).coreNow 0).lvl = 0 := by decide +kernel

theorem wit_Interrupts_idle : let s := (asked true |>.wr Reg.CORE_STAT_STATE 0 1).setReg (Reg.CORE_CSINIT_V.addr 0) 0x1A0
    s.cstate 0 = 1 ∧ (s.core 0).idleIrq = false ∧ s.requested 0 1 (s.nowCycle 0) = true
    ∧ (s.reg (Reg.CORE_CSINIT_V.addr 0)).getLsbD 5 = true
    ∧ (s.reg (Reg.CORE_CSINIT_V.addr 0)).getLsbD 2 = false ∧ (s.reg (Reg.CORE_CSINIT_V.addr 0)).getLsbD 3 = false
    ∧ (up 6).cstate 0 = 0 := by decide +kernel

/-- A block without a pending source requests nothing. -/
theorem wit_Interrupts_none : ∀ l n, State.reset.requested 0 l n = false := by
  intro l n
  have h : ∀ k ∈ List.range 4, State.reset.ipend 0 / 2 ^ k % 2 = 0 := by decide +kernel
  unfold State.requested
  rw [List.any_eq_false]
  intro k hk
  simp [h k hk]

/-- TCMP equals the count in the second of the three cycles of the tick. -/
theorem wit_Interrupts_timer : let s := runWith { CoreRt.reset with cycle := 9, tcmp := 8 }
    s.inWatch = false ∧ s.cycNow 0 = 9 ∧ 8 ≤ s.cycNow 0 ∧ s.cycNow 0 < 8 + 3
    ∧ 8 % 2 ^ 32 = ((s.core 0).landTo (s.cycNow 0)).tcmp.toNat := by decide +kernel

/-- RUNNING, core 0 IDLE with a job of strand 5 at IM word 0x100, whose word is the NOP. -/
def job : State := (up 6).setCore 0 { CoreRt.reset with jobs := [⟨5, 9, 0x10, 7, 0x100, [(2, 1)]⟩], im := [(0x100, 0)] } |>.wr Reg.CORE_STAT_STATE 0 1

theorem wit_JobStart : (job.core 0).jobs = ⟨5, 9, 0x10, 7, 0x100, [(2, 1)]⟩ :: [] ∧ job.cstate 0 = 1 ∧ (job.core 0).idleIrq = false
    ∧ 4 ≤ job.mode ∧ job.inWatch = false ∧ decodeCoreWord 0 (job.imWord 0 0x100) ≠ none ∧ libKind 0x100 = 0
    ∧ Ecc.ok ≠ .uncorrectable ∧ (run.core 0).jobs = [] := by decide +kernel

/-- A library kernel, and a word that is no instruction. -/
theorem wit_JobStart_other : libKind 0x4000 ≠ 0
    ∧ decodeCoreWord 0 ((job.setCore 0 { CoreRt.reset with im := [(0x100, 0xF8000000)] }).imWord 0 0x100) = none := by decide +kernel

theorem wit_EndAndDrain : ((runWith { CoreRt.reset with endAt := some 3 }).core 0).endAt = some 3
    ∧ (runWith { CoreRt.reset with endAt := some 3 }).cstate 0 = 2
    ∧ libKind ((runWith { CoreRt.reset with endAt := some 3 }).core 0).runEntry = 0 ∧ (run.core 0).endAt = none
    ∧ (run.wr Reg.CORE_STAT_STATE 0 3).cstate 0 = 3 ∧ ((run.wr Reg.CORE_STAT_STATE 0 3).core 0).drain = [] ∧ run.cstate 0 ≠ 3 := by
  decide +kernel

/-- An END in a handler of a core without a run; an END that retires with the watchdog's last cycle, and one after it. -/
theorem wit_CoreStops_end : (runWith { CoreRt.reset with endAt := some 3 } |>.wr Reg.CORE_STAT_STATE 0 1).cstate 0 ≠ 2
    ∧ ((runWith { CoreRt.reset with endAt := some 60000 }).core 0).endAt = some 60000 ∧ 60000 ≤ ((runWith { CoreRt.reset with endAt := some 60000 }).core 0).wdFrom + 60000
    ∧ ((runWith { CoreRt.reset with endAt := some 60001 }).core 0).wdFrom + 60000 < 60001 := by decide +kernel

/-- The watchdog at the lower limit of its period, 100 µs, in its last cycle and one before. -/
theorem wit_CoreStops : libKind (run.core 0).runEntry = 0 ∧ run.cstate 0 = 2
    ∧ (run.wr Reg.CORE_WDOG_PERIOD 0 0).rd Reg.CORE_WDOG_PERIOD 0 < 100
    ∧ ((runWith { CoreRt.reset with cycle := 60000 }).core 0).wdFrom + 600 * 100 ≤ (runWith { CoreRt.reset with cycle := 60000 }).nowCycle 0
    ∧ (runWith { CoreRt.reset with cycle := 59999 }).nowCycle 0 < ((runWith { CoreRt.reset with cycle := 59999 }).core 0).wdFrom + 60000
    ∧ 3 ≤ run.mode ∧ run.inWatch = false ∧ run.rd Reg.CORE_RUNNO_N 0 % 256 = (0 : Byte).toNat
    ∧ run.rd Reg.CORE_RUNNO_N 0 % 256 ≠ (1 : Byte).toNat ∧ (up 6).cstate 0 ≠ 2 := by decide +kernel

/-- A descriptor of the last bin, and one bin beyond. -/
theorem wit_HaulRefusal : (102399 : Int) + 0 * 1 ≤ 102399 ∧ (102399 : Int) < 102400 + 0 * 1 ∧ 12288 - 4 + 4 ≤ 12288 := by decide +kernel

/-- A haul of two bins that is in progress, its destination clear of its descriptor. -/
theorem wit_HaulTransfers : let h : Haul := ⟨0x100, 3, 1, false, 1, true, 2, 5, 2, -5, 0x120, false⟩
    ((runWith { CoreRt.reset with hauling := some h }).core 0).hauling = some h ∧ h.isMeta = false ∧ h.lib = false ∧ h.at_ + 32 ≤ h.dest
    ∧ ((runWith { CoreRt.reset with hq := [0x100] }).core 0).hq = 0x100 :: [] ∧ ((runWith { CoreRt.reset with hq := [0x100] }).core 0).hauling = none
    ∧ (run.core 0).hq = [] ∧ (run.core 0).lib = none ∧ (run.core 0).hauling = none := by decide +kernel

/-- The example of R105, cut to 8 bins: at stride 64 every read after the first conflicts, at stride 1 none does. -/
theorem test_conflicts : haulConflicts [] [] 0 ((List.range 8).map fun i => subBank (64 * i)) = 7
    ∧ haulConflicts [] [] 0 ((List.range 8).map subBank) = 0 := by decide +kernel

theorem wit_CoreWindows : 3 ≤ (opened run).mode ∧ (opened run).inWatch = false ∧ (opened run).classOpen .raw = true := by decide +kernel

/-! ### Witnesses: strands, planes, ports, calibration, channels -/

/-- RUNNING, strand 0 an OTDR strand on port 0 with channel 0 as SIG: N 512, P 12,500, NSHOT 2. -/
def st0 : State :=
  ((((((up 6).wr Reg.FC_HITCH_EN 0 1).wr Reg.FC_HITCH_ROLE 0 1).wr Reg.STRAND_CTRL_MODE 0 4).wr Reg.STRAND_NBIN_NBIN 0 512).wr
    Reg.STRAND_PERIOD_PERIOD 0 12500).wr Reg.STRAND_NSHOT_NSHOT 0 2

/-- A stack with number 3 in plane 0. -/
def stack3 : Stack := ⟨3, 0, 0, 0, 2, 2, 0, false, 1, false, false, false, 0, 0, 0, false, [(0, 0), (0, 0), (0, 0), (0, 0)]⟩

/-- The last shot of that stack, launched at tick 0. -/
def lastShot : Shot := ⟨0, true, 0, 0, 1, false, false, true, false, false, 0, 0⟩

/-- Strand 0 RUNNING at tick `t` with that stack and shot. -/
def st0run (t : Nat) : State :=
  { ((st0.wr Reg.STRAND_STAT_STATE 0 2).wr Reg.STRAND_CTRL_RUN 0 1).setStrand 0
      { StrandRt.idle with runP := 12500, stack := some stack3, shot := some lastShot, perP := 12500, perGap := 512 } with tick := t }

theorem wit_StrandCommands : 3 ≤ st0.mode ∧ st0.mode ≠ 7 ∧ st0.mode ≠ 9 ∧ st0.sstate 0 = 0 ∧ (st0.put Reg.STRAND_CTRL_RUN 0 true).cfgCheck 0 = 0
    ∧ st0.isPhase 0 = false ∧ ((up 6).put Reg.STRAND_CTRL_RUN 0 true).cfgCheck 0 ≠ 0 ∧ (st0.strand 0).restartRun = false := by
  decide +kernel

/-- An abort one tick before the close instant, in it, and with another number. -/
theorem wit_StrandCommands_abort : (st0run 542).sstate 0 ≠ 0 ∧ ((st0run 542).strand 0).stack = some stack3 ∧ stack3.num % 256 = (3 : Byte).toNat
    ∧ (st0run 542).stackComplete 0 = false ∧ (st0run 543).stackComplete 0 = true ∧ stack3.num % 256 ≠ (4 : Byte).toNat
    ∧ (st0.strand 0).stack = none := by decide +kernel

theorem wit_FoldEngine : 3 ≤ st0.mode ∧ st0.mode ≠ 7 ∧ 1 < 2 ∧ 102399 < 102400 ∧ (2 ^ 39 - 1 : Int) < (2 ^ 39 - 1) + 1 := by decide +kernel

theorem wit_StackCloseAndHandOver : ((st0run 543).strand 0).stack = some stack3 ∧ ((st0run 543).strand 0).shot = some lastShot
    ∧ lastShot.folded = true ∧ lastShot.last = true ∧ lastShot.launch + (st0run 543).gapOff 0 + 31 ≤ (st0run 543).tick
    ∧ (st0run 542).tick < lastShot.launch + (st0run 542).gapOff 0 + 31 ∧ stack3.coded = false := by decide +kernel

/-- A closed stack 64 ticks after its close, with no job entry for it. -/
theorem wit_StackCloseAndHandOver_hand : let s := { (up 6).setStrand 0 { StrandRt.idle with closed := some ⟨3, 543, [0], [0], 4⟩ } with tick := 607 }
    (s.strand 0).closed = some ⟨3, 543, [0], [0], 4⟩ ∧ 543 + 64 ≤ s.tick
    ∧ ∀ c, c < 12 → ∀ k, k < 16 → s.entryJobs c k 0 ⟨3, 543, [0], [0], 4⟩ = [] := by decide +kernel

/-- An FC_PLAN_RT with EN, UR_THR 48 and OV_N 4. -/
def planRt : Word := 0x80003004

/-- Strand 0 with its tracker on, channel 0 evaluated now: bight 0 overloaded, bight 1 under range. -/
def evalNow : State := st0.setChan 0
      { ChanRt.idle with plan := some ⟨[(0, 2), (50, 4)], 8⟩, evalDue := some (0, planRt), ovlShots := [4, 3, 0, 0, 0, 0, 0, 0], peak := [32767, 12287, 0, 0, 0, 0, 0, 0] }

theorem wit_RangeEvaluation : let s := evalNow
    (s.chan 0).evalDue = some (0, planRt) ∧ s.strandOf 0 = some 0 ∧ (s.chan 0).plan = some ⟨[(0, 2), (50, 4)], 8⟩ ∧ [(0, 2), (50, 4)].length ≤ 8
    ∧ Max.max 1 (Reg.FC_PLAN_RT_OV_N.read planRt) ≤ nth (s.chan 0).ovlShots 0 0
    ∧ ¬ Max.max 1 (Reg.FC_PLAN_RT_OV_N.read planRt) ≤ nth (s.chan 0).ovlShots 1 0
    ∧ nth (s.chan 0).peak 1 0 < Reg.FC_PLAN_RT_UR_THR.read planRt * 256 ∧ Reg.FC_PLAN_RT_EN.read planRt = 1 ∧ s.mode ≠ 9 ∧ s.isPhase 0 = false
    ∧ (st0.chan 0).evalDue = none := by decide +kernel

/-- Port 0 at its launch tick with strand 0 alone in its rotation. -/
theorem wit_Launch : let s := settled { ((st0.wr Reg.STRAND_STAT_STATE 0 1).wr Reg.STRAND_CTRL_RUN 0 1).setStrand 0
      { StrandRt.idle with start := some 64, runP := 12500 } |>.setPort 0 { PortRt.idle with next := some 64 } with tick := 64 }
    s.mode = 6 ∧ (s.port 0).next = some 64 ∧ 64 ≤ s.tick ∧ s.rotation 0 s.tick = [0] ∧ s.on Reg.STRAND_CTRL_RUN 0 = true
    ∧ s.old.on Reg.STRAND_CTRL_RUN 0 = true ∧ (s.strand 0).sysStop = none
    ∧ (s.strand 0).shot = none ∧ (s.port 0).fixed = none ∧ s.old.pmode 0 = 0 ∧ (st0.port 0).next = none := by decide +kernel

theorem wit_Setpoint : let s := settled { (up 6).setPort 0 { PortRt.idle with lastLaunch := some 0, gapSeen := false } with tick := 4096 }
    s.mode ≠ 7 ∧ s.mode ≠ 9 ∧ (s.port 0).lastLaunch = some 0 ∧ (s.port 0).gapSeen = false ∧ 0 + (s.port 0).gapOff ≤ s.tick ∧ 4 ≤ s.mode
    ∧ s.portStrands 0 = [] ∧ (s.port 0).idleBase + 4096 ≤ s.tick
    ∧ ({ s with tick := 4095 } : State).tick < (({ s with tick := 4095 } : State).port 0).idleBase + 4096 := by decide +kernel

/-- Derating of the example of chapter 05, between its thresholds. -/
def der : State :=
  ((((((up 6).wr Reg.PRB_DER_CTRL_EN 1 1).wr Reg.PRB_DER_CTRL_DFLOOR 1 1600).wr Reg.PRB_DER_T1_T 1 2000000).wr Reg.PRB_DER_T2_T 1 2400000).setPc 0
    { PcRt.reset with lastX := some 2150000 })

theorem wit_Setpoint_derating : der.on Reg.PRB_DER_CTRL_EN 1 = true ∧ der.rd Reg.PRB_DER_CTRL_PC 1 < 24 ∧ (der.pc 0).sensFault = false
    ∧ (der.pc 0).lastX = some 2150000 ∧ der.rdInt Reg.PRB_DER_T1_T 1 < 2150000 ∧ 2150000 < der.rdInt Reg.PRB_DER_T2_T 1 := by decide +kernel

/-- The ceiling of that example as the manual prints it: 3,160. -/
theorem test_derating : after (.deratingUpdate 1) der (fun t => t.rd Reg.PRB_SETNOW_CEIL 1 = 3160) = true := by decide +kernel

/-- A presence level due in its tick, with a miss before it. -/
theorem wit_LightChecks : let s := { ((st0run 0).wr Reg.PRB_PRES_EN 0 1).wr Reg.PRB_PRES_FLOOR_FLOOR 0 100 with tick := 304 }
    (s.strand 0).shot = some lastShot ∧ lastShot.presSeen = false ∧ s.runs 0 = true ∧ s.presOn (s.strand 0).perPort = true
    ∧ lastShot.launch + s.strandL 0 + (s.rd Reg.PRB_PRES_PBIN (s.strand 0).perPort + 256) * s.strandD 0 + 32 ≤ s.tick
    ∧ (0 : Rat) < (s.rd Reg.PRB_PRES_FLOOR_FLOOR 0 : Rat) ∧ (st0.strand 0).shot = none := by decide +kernel

theorem wit_LightChecks_monitor : let s := { (((up 6).wr Reg.PRB_PRES_EN 0 1).wr Reg.PRB_PRES_SRC 0 2).setPort 0
      { PortRt.idle with monEnd := some 9, monSeen := false, monMiss := 3 } with tick := 42 }
    (s.port 0).monEnd = some 9 ∧ (s.port 0).monSeen = false ∧ 9 + 33 ≤ s.tick ∧ s.monOn 0 = true ∧ 3 ≤ (s.port 0).monMiss
    ∧ ((up 6).port 0).monEnd = none := by decide +kernel

/-- A gap run of strand 0 that began at tick 1,000, on channel 0. -/
def gapAt (t : Nat) : State :=
  { ((st0.wr Reg.GAPCAL_CTRL_EN 0 1).setStrand 0 { StrandRt.idle with gapRun := some 1000 }).setChan 0
      { ChanRt.idle with run := some ⟨1000, 0, 2, false, false, false, decide (1288 < t), 0, 0, false, 0, 0, 0, 0, 0, 0, 0, false, []⟩ } with tick := t }

theorem wit_GapRuns : ((gapAt 1288).strand 0).gapRun = some 1000 ∧ 1000 + 288 ≤ (gapAt 1288).tick ∧ (gapAt 1287).tick < 1000 + 288
    ∧ (gapAt 1288).hitched 0 = [0] ∧ ((gapAt 2248).strand 0).gapRun = some 1000 ∧ (gapAt 2248).gapCommitAt 0 1000 ≤ (gapAt 2248).tick
    ∧ (gapAt 2247).tick < (gapAt 2247).gapCommitAt 0 1000 ∧ (gapAt 2248).isPhase 0 = false ∧ 3 ≤ (gapAt 2247).mode ∧ (gapAt 2247).mode ≠ 7
    ∧ (st0.strand 0).gapRun = none := by decide +kernel

/-- The second repeat of a period whose first gap tick was 1,000. -/
def again : StrandRt :=
  { StrandRt.idle with shot := some { lastShot with gapSeen := true }, gapRpt := 2, gapFirst := 1000, perP := 12500 }

theorem wit_GapRuns_repeat : let s := settled { (st0.wr Reg.GAPCAL_CTRL_EN 0 1).setStrand 0 again with tick := 3000 }
    (s.strand 0).shot = some { lastShot with gapSeen := true } ∧ (s.strand 0).gapRpt = 2 ∧ (s.strand 0).gapIndex < (s.tick - (s.strand 0).gapFirst) / 2000
    ∧ s.tick + 1344 ≤ 0 + (s.strand 0).perP ∧ s.old.on Reg.GAPCAL_CTRL_EN 0 = true ∧ s.mode ≠ 9 ∧ (s.strand 0).gapRun = none := by decide +kernel

theorem wit_CalibrationStore : let s := { (opened st0).setReg 0x12345 0 with tick := 120000000000, lastCommit := some 0 }
    3 ≤ s.mode ∧ s.mode ≠ 7 ∧ s.classOpen .calibration = true ∧ s.commit = none ∧ s.log.cur = none ∧ s.boot.startCal = none ∧ s.wrote = [] ∧ s.rd Reg.SAFETY_FAULT_F 0 = 0 ∧ s.lastCommit = some 0
    ∧ 0 + 120000000000 ≤ s.tick ∧ s.rd Reg.GAPCAL_VSEL_CHAN 0 < 192 ∧ s.rd Reg.FC_HITCH_ROLE 0 ≠ 8 ∧ (s.chan 0).hOff.length = 13
    ∧ (s.chan 0).wOff.length = 13 ∧ s.strandOf 0 = some 0 ∧ s.runs 0 = false ∧ (s.chan 0).deferred = []
    ∧ (st0run 0).strandOf 0 = some 0 ∧ (st0run 0).runs 0 = true := by decide +kernel

/-- With no write of the present clock every write is in time. -/
theorem wit_notLate (s : State) (h : s.wrote = []) (src : Source) (a : Nat) : s.notLate src a := by
  unfold State.notLate
  rw [h]
  exact Nat.zero_le _

theorem wit_CalibrationStore_due : let s := { (up 6).wr Reg.GAPCAL_AUTO_HOURS 0 1 with tick := 720000000000, lastCommit := some (-5), commit := some ⟨1, 1, 0, [], [], 1⟩ }
    s.rd Reg.GAPCAL_AUTO_HOURS 0 ≠ 0 ∧ (s.lastCommit.getD 0).toNat + s.rd Reg.GAPCAL_AUTO_HOURS 0 * (6 * 120000000000) ≤ s.tick
    ∧ s.commit = some ⟨1, 1, 0, [], [], 1⟩ ∧ (((up 6).wr Reg.LOCK_STAT_LEVEL 0 2).wr Reg.LOCK_STAT_OPEN 0 0).classOpen .calibration = false := by decide +kernel

theorem wit_SampleTick : 3 ≤ (up 3).mode ∧ (up 2).mode < 3 ∧ (((up 6).setChan 5 { ChanRt.idle with settleAt := some 7 }).chan 5).settleAt = some 7
    ∧ (up 6).on Reg.LANYARD_STAT_RUNNING 0 = false ∧ ((up 6).wr Reg.LANYARD_STAT_RUNNING 0 1).on Reg.LANYARD_STAT_RUNNING 0 = true := by decide +kernel

/-- A precision channel of type 1 in force. -/
def pcOn : PcRt := { PcRt.reset with force := PcRt.reset.force.set 2 1 }

theorem wit_FilterBoundaries : 4 ≤ (up 4).mode ∧ (up 4).mode ≠ 7 ∧ ¬ (4 ≤ (up 3).mode ∧ (up 3).mode ≠ 7)
    ∧ (((up 6).setPc 1 { pcOn with discard := 1 }).pc 1).type ≠ 0 ∧ (up 6).on Reg.PC_CSTAT_ICAL_BUSY 1 = false ∧ ((up 6).pc 1).discard = 0
    ∧ ((up 6).pc 1).convSns = false ∧ ((up 6).pc 1).convClamp = false ∧ ((up 6).pc 1).diagNow = false ∧ ((up 6).pc 1).sel ≠ 8 := by decide +kernel

theorem wit_PinMonitors : 4 ≤ (up 6).mode ∧ (up 6).mode ≠ 7 ∧ ((up 6).setPc 1 pcOn |>.pc 1).type ≠ 0 ∧ (up 3).mode < 4 := by decide +kernel

theorem wit_PrecisionCommands : 3 ≤ (opened (up 6)).mode ∧ (opened (up 6)).mode ≠ 7 ∧ (opened (up 6)).classOpen .calibration = true
    ∧ ((up 6).wr Reg.PC_CSTAT_ICAL_BUSY 1 1).on Reg.PC_CSTAT_ICAL_BUSY 1 = true ∧ ((up 6).pc 1).cal.off.length = 8 ∧ ((up 6).pc 1).cal.gain.length = 8
    ∧ (up 6).on Reg.PC_CSTAT_ICAL_BUSY 1 = false := by decide +kernel

/-! ### Witnesses: monitors, commands, link, ring, power, states, safety -/

/-- RUNNING, monitor of channel 0 enabled with mode `m` and M, N as reset. -/
def mon (m : Nat) (c : ChanRt) : State :=
  ((((up 6).wr Reg.WMON_CTRL_EN 0 1).wr Reg.WMON_CTRL_MODE 0 m).wr Reg.FC_STAT_PSTATE 0 3).setChan 0 c

theorem wit_WindowMonitor : let w := mon 1 { ChanRt.idle with mon := .wait }
    w.on Reg.WMON_CTRL_EN 0 = true ∧ (w.chan 0).mon = .wait ∧ w.monPgaReady 0 = true ∧ (up 6).on Reg.WMON_CTRL_EN 0 = false
    ∧ (mon 1 { ChanRt.idle with mon := .first, upper := ⟨[(0, true), (1, true), (2, false), (3, false)], false⟩ }).monM 0 ≤ 4
    ∧ (mon 1 { ChanRt.idle with mon := .first, upper := ⟨[(0, true), (1, true), (2, false), (3, false)], false⟩ }).rd Reg.WMON_CTRL_MODE 0 ≠ 3 := by decide +kernel

/-- A strobe's period in its last tick and after it, and the end of one. -/
theorem wit_WindowMonitor_strobe : let s := { mon 3 { ChanRt.idle with mon := .on, lastStrobe := some 0 } with tick := 320000 }
    s.on Reg.WMON_CTRL_EN 0 = true ∧ s.rd Reg.WMON_CTRL_MODE 0 = 3 ∧ (s.chan 0).mon = .on ∧ 2 ≤ s.rd Reg.FC_STAT_PSTATE 0
    ∧ (s.chan 0).strobe = none ∧ (s.chan 0).lastStrobe = some 0 ∧ 0 + 2 ^ Min.min 10 (s.rd Reg.WMON_CTRL_SPER 0) * 20000 ≤ s.tick
    ∧ 319999 < 0 + 2 ^ Min.min 10 (s.rd Reg.WMON_CTRL_SPER 0) * 20000
    ∧ ((mon 3 { ChanRt.idle with mon := .on, strobe := some 0 }).chan 0).strobe = some 0 ∧ 0 + 2000 + s.monM 0 ≤ 20000 := by decide +kernel

/-- Edges of channel 0, a type selected and captured. -/
theorem wit_MonitorEdges : let route := Reg.WMON_ROUTE_EDGES.insert 0 1
    let s := { mon 1 { ChanRt.idle with edges := [⟨0, 5, route⟩, ⟨1, 6, route⟩], evTick := some 0 } with tick := 9 }
    (s.chan 0).edges = ⟨0, 5, route⟩ :: [⟨1, 6, route⟩] ∧ 5 + 4 ≤ s.tick ∧ Reg.WMON_ROUTE_EDGES.read route / 2 ^ 0 % 2 = 1
    ∧ Reg.WMON_ROUTE_EDGES.read route / 2 ^ 1 % 2 = 0
    ∧ s.on Reg.WMON_STAT_CAPV 0 = false ∧ (s.chan 0).evTick = some 0 ∧ s.mode ≠ 7 ∧ s.monq = [] ∧ s.eventWaits = false
    ∧ ({ s with monq := [⟨0, 0, 0, 0, 0, 0⟩] } : State).monq ≠ [] := by decide +kernel

/-- A host session 1 of an IPv4 host, its next command SEQ 7, the link up. -/
def ses : State :=
  { ((((up 6).wr Reg.HOSTLINK_STAT_LINK_UP 0 1).wr Reg.HOSTLINK_STAT_SESSION 0 1).wr Reg.HOSTLINK_CMDSEQ_SEQ 0 7) with link := LinkSt.reset }

/-- The headers of a datagram for the port as reset left it. -/
def hd : RxHead :=
  ⟨BitVec.ofNat 48 (ses.rd Reg.HOSTLINK_MAC_HI_MAC 0 * 2 ^ 32 + ses.rd Reg.HOSTLINK_MAC_LO_MAC 0), ses.reg (Reg.HOSTLINK_IP_IP.addr 0), 5, false, 0, 17,
    BitVec.ofNat 16 (ses.rd Reg.HOSTLINK_PORT_PORT 0), true, true, true, true, 0x4B54, 1, 0, 0, 0⟩

theorem hd_admitted : ses.admits hd := by unfold State.admits; decide +kernel

theorem wit_CommandIntake : ses.admits hd ∧ ¬ ses.admits { hd with version := 2 } ∧ 3 ≤ ses.mode ∧ ses.on Reg.HOSTLINK_STAT_LINK_UP 0 = true ∧ ses.session = 1 ∧ ses.sessionHost = .host 0 0 0
    ∧ (1 : Byte).toNat = ses.session ∧ ses.rxFill + 24 + 0 ≤ 65536 ∧ (7 + 2 ^ 32 - 6) % 2 ^ 32 = 1 ∧ 256 < (7 + 2 ^ 32 - 8) % 2 ^ 32
    ∧ (7 + 2 ^ 32 - (7 + 2 ^ 32 - 256)) % 2 ^ 32 = 256 ∧ ((0x3F : Byte).toNat < 0x40 ∨ 0x4A < (0x3F : Byte).toNat)
    ∧ 65536 < 65535 - 24 + 24 + 2 ∧ (up 6).on Reg.HOSTLINK_STAT_LINK_UP 0 = false ∧ ses.link.cache = [] := by
  refine ⟨hd_admitted, fun h => absurd h.2.2.2.2.2.2.2.2.2.2.2.2.1 (by decide), ?_⟩
  decide +kernel

theorem wit_CommandExecution : ses.nextInOrder hd 0 0 0 1 0 7 0 ∧ ses.link.fence = false ∧ ses.link.uartq = [] ∧ ses.link.uartFence = none
    ∧ ses.classOpen .uart = true ∧ ((ses.wr Reg.LOCK_STAT_LEVEL 0 1).wr Reg.LOCK_STAT_OPEN 0 0).classOpen .uart = false := by
  refine ⟨⟨by decide +kernel, by decide +kernel, hd_admitted, ?_⟩, by decide +kernel, by decide +kernel, by decide +kernel, by decide +kernel, by decide +kernel⟩
  decide +kernel

theorem wit_CommandEffects : [(0 : Byte)] ≠ [] ∧ (up 7).mode = 7 ∧ (up 7).boot.waking = false ∧ 288 < 289 ∧ 360 < 361
    ∧ ((up 6).wr Reg.HOSTLINK_TXSEQ_SEQ 0 5).rd Reg.HOSTLINK_TXSEQ_SEQ 0 = 5 ∧ 0 + 5 ≤ 5 ∧ 5 < 0 + 6
    ∧ (((up 6).put Reg.BOOT_STAT_DIVERGED 0 true).wr Reg.BOOT_GEN_GEN 0 3).on Reg.BOOT_STAT_DIVERGED 0 = true
    ∧ (((up 6).put Reg.BOOT_STAT_DIVERGED 0 true).wr Reg.BOOT_GEN_GEN 0 3).rd Reg.BOOT_GEN_GEN 0 = 3 ∧ (up 6).link.txq = [] ∧ 4096 < 4097
    ∧ 0x47FFC < 0x48000 ∧ 0x48000 % 4 = 0 := by decide +kernel

/-- A device at lock level 1 with a password, one at level 3 with a key and a nonce out. -/
def lock1 : State := { (up 6).wr Reg.LOCK_STAT_LEVEL 0 1 with lock := ⟨none, 0, 1⟩ }
def lock3 : State := { (up 6).wr Reg.LOCK_STAT_LEVEL 0 3 with lock := ⟨some (5, .host), 0, 0⟩, otp := ⟨0, some 9, 0⟩ }

theorem wit_MaintenanceLock : lock1.lockedOut = false ∧ lock1.rd Reg.LOCK_STAT_LEVEL 0 = 1 ∧ lock1.lock.pwhash ≠ 0 ∧ lock1.rd Reg.LOCK_STAT_FAILS 0 < 5
    ∧ lock1.otp.key = none ∧ lock3.otp.key = some 9 ∧ lock3.lock.nonce = some (5, .host) ∧ lock3.rd Reg.LOCK_STAT_LEVEL 0 = 3 ∧ lock3.lockedOut = false
    ∧ ((up 6).put Reg.LOCK_STAT_LOCKOUT 0 true).lockedOut = true ∧ ((up 6).put Reg.LOCK_STAT_LOCKOUT 0 true).rd Reg.LOCK_LOUT_SEC 0 = 0
    ∧ ((up 6).wr Reg.LOCK_STAT_SRC 0 2).rd Reg.LOCK_STAT_SRC 0 ≠ 0 ∧ (List.replicate 8 (0 : Byte)).length = 8
    ∧ (List.replicate 32 (0 : Byte)).length = 32 := by decide +kernel

theorem wit_Sessions : (State.reset.admits hd ∧ ses.admits hd) ∧ 3 ≤ ses.mode ∧ ses.on Reg.HOSTLINK_STAT_LINK_UP 0 = true ∧ ses.rxFill ≤ 65504 ∧ ses.link.lastSession ≤ 255 ∧ ses.session ≠ 0
    ∧ ses.sessionHost = .host 0 0 0 ∧ ses.sessionHost ≠ .host 1 0 0 ∧ (up 6).session = 0 ∧ ({ ses with link := { ses.link with tmo := 5 } } : State).timeout ≠ 0 ∧ (up 6).on Reg.HOSTLINK_STAT_LINK_UP 0 = false
    ∧ ((up 6).wr Reg.HOSTLINK_CTRL_EN 0 1).on Reg.HOSTLINK_CTRL_EN 0 = true ∧ ((up 6).wr Reg.HOSTLINK_CTRL_EN 0 0).on Reg.HOSTLINK_CTRL_EN 0 = false ∧ (up 2).mode < 3 := by
  refine ⟨⟨by unfold State.admits; decide +kernel, hd_admitted⟩, ?_⟩
  decide +kernel

theorem wit_LinkFrames : let m : TxItem := ⟨7, 0, .own [1, 2], 0, none⟩
    ses.on Reg.HOSTLINK_STAT_PAUSED 0 = false ∧ (ses.put Reg.HOSTLINK_STAT_PAUSED 0 true).on Reg.HOSTLINK_STAT_PAUSED 0 = true
    ∧ ({ ses with link := { ses.link with replies := [⟨.uart, 0, 0, 0, [], false, none, false, true⟩] } } : State).link.replies.length = 1
    ∧ ({ ses with link := { ses.link with retx := [dg] } } : State).link.retx = dg :: []
    ∧ ({ ses with link := { ses.link with txq := [m] } } : State).link.txq = [m] ∧ m.off = 0 ∧ m.no = none ∧ [1, 2].length ≤ 1448
    ∧ ses.link.begun = [] ∧ ses.link.replies = [] ∧ ses.link.retx = [] ∧ ses.routed = false ∧ ses.monq.length < 90
    ∧ (ses.wr Reg.HOSTLINK_STPER_MS 0 1).rd Reg.HOSTLINK_STPER_MS 0 ≠ 0 ∧ (ses.wr Reg.HOSTLINK_STPER_MS 0 0).rd Reg.HOSTLINK_STPER_MS 0 = 0 := by decide +kernel

/-- A device on a ring with both ports up: the head or another one. -/
def ring (head : Bool) : State :=
  (((((up 6).wr Reg.HAWSER_CTRL_EN 0 1).put Reg.HAWSER_CTRL_HEAD 0 head).wr Reg.HAWSER_CTRL_NDEV 0 3).put (linkField .a) 0 true).put (linkField .b) 0 true

theorem wit_RingPorts : 3 ≤ (ring true).mode ∧ (ring true).on Reg.HAWSER_CTRL_EN 0 = true ∧ (ring true).hwUp .a = true ∧ (ring true).isHead = true
    ∧ (ring true).hawser.broken = [] ∧ ((ring true).put (linkField .a) 0 false).hwUp .a = false ∧ (ring false).isHead = false
    ∧ ((ring false).put (linkField .b) 0 false).hwUp (otherPort .a) = false ∧ ((ring true).hw .a).wait = []
    ∧ (((ring true).setHw .a { HwPortSt.up with unacked := [fr (.topo 1)], replays := 6 }).hw .a).unacked ≠ []
    ∧ ((fr (.topo 1)).lseq + 2 ^ 32 - 0) % 2 ^ 32 < 2 ^ 31 ∧ 6 < 7 := by decide +kernel

theorem wit_RingFrames : let f := fr (.tilvar dg)
    (ring true).hwUp .a = true ∧ f.lseq = ((ring true).hw .a).rxNext ∧ (ring true).isHead = true ∧ f.body = .tilvar dg ∧ dg.ty ≠ 0x80
    ∧ ((ring true).hw .a).unacked.length < ((ring true).hw .a).credit ∧ ((ring true).hw .a).unacked.length < 512
    ∧ frameIntact f = false ∧ frameIntact { f with ccrc := crc32 (datagramBytes dg) } = true
    ∧ ((ring true).hawser.wins.getD 2 SrcWin.empty).late 0 = false
    ∧ ((ring true).copyOf 2 0).done = none ∧ ((ring true).copyOf 2 0).held = none ∧ (ring true).pathABroken 2 = false
    ∧ (ring false).isHead = false ∧ (ring false).on Reg.HAWSER_POS_VALID 0 = false ∧ f.src ≠ (ring false).pos
    ∧ ((ring false).put Reg.HAWSER_POS_VALID 0 true |>.wr Reg.HAWSER_POS_POS 0 1).pos = f.dst
    ∧ ((ring true).setPresent 63 true).present 63 = true ∧ (ring true).present 63 = false := by decide +kernel

/-- A window that has seen RSEQ up to 5,000: 903 is late, 904 is not. -/
theorem wit_RingFrames_window : (⟨some 5000, []⟩ : SrcWin).late 903 = true ∧ (⟨some 5000, []⟩ : SrcWin).late 904 = false
    ∧ ((ring true).setCopy 2 0 ⟨none, some (fr (.tilvar dg))⟩).copyOf 2 0 = ⟨none, some (fr (.tilvar dg))⟩
    ∧ (((ring true).setCopy 2 0 ⟨some (9, 0, false), none⟩).copyOf 2 0).done = some (9, 0, false) := by decide +kernel

theorem wit_LanyardTime : 3 ≤ (up 6).mode ∧ (up 6).isHead = true ∧ (up 6).safety.refBad = false ∧ (up 6).on Reg.LANYARD_STAT_RUNNING 0 = false
    ∧ (up 6).on Reg.LANYARD_CTRL_PPSSTART 0 = false ∧ (up 6).on Reg.LANYARD_CTRL_LOCALREF 0 = false ∧ (ring false).on Reg.HAWSER_STAT_POS_CONFLICT 0 = false
    ∧ ((ring false).put (linkField .b) 0 false).hwUp .a = true ∧ ((ring false).put (linkField .b) 0 false).hwUp (otherPort .a) = false
    ∧ ((ring false).put Reg.LANYARD_STAT_LOCKED 0 true).on Reg.LANYARD_STAT_LOCKED 0 = true
    ∧ ((up 6).put Reg.LANYARD_STAT_HOLDOVER 0 true).on Reg.LANYARD_STAT_HOLDOVER 0 = true := by decide +kernel

theorem wit_PowerStates : (up 0).mode = 0 ∧ (up 0).on Reg.GLOBAL_STRAP_PWR 0 = false ∧ (up 1).mode = 1 ∧ (up 2).mode = 2 ∧ (up 0).power.wait = false
    ∧ ({ up 1 with power := ⟨true, some 2, true, true, false⟩ } : State).power.queried = true
    ∧ ({ up 1 with power := ⟨true, some 2, true, true, false⟩ } : State).power.requested.isSome = true
    ∧ ({ up 1 with power := ⟨true, some 2, true, true, false⟩ } : State).power.granted = true
    ∧ ((up 1).wr Reg.POWER_STAT_CLS_REQ 0 1).rd Reg.POWER_STAT_CLS_GRANT 0 < ((up 1).wr Reg.POWER_STAT_CLS_REQ 0 1).rd Reg.POWER_STAT_CLS_REQ 0
    ∧ 3 ≤ (up 3).mode ∧ (up 3).boot.holdup = false ∧ (up 2).mode < 3 := by decide +kernel

/-- ARMED and free to go on: image present, lanyard time running, a RUN pending. -/
def armed : State := (((up 5).put Reg.BOOT_STAT_RUN_PEND 0 true).put Reg.BOOT_STAT_NOIMAGE 0 false).put Reg.LANYARD_STAT_RUNNING 0 true

theorem wit_OperatingStates : (up 3).mode = 3 ∧ (up 4).mode = 4 ∧ armed.mode = 5 ∧ armed.boot.startCal = none ∧ armed.on Reg.BOOT_STAT_RUN_PEND 0 = true
    ∧ armed.on Reg.BOOT_STAT_NOIMAGE 0 = false ∧ armed.on Reg.BOOT_STAT_DIVERGED 0 = false
    ∧ (∀ c, c < 24 → armed.rd Reg.PC_CONN_TYPE c = 0 ∨ armed.on Reg.PC_CSTAT_ICAL_BUSY c = false)
    ∧ armed.on Reg.LANYARD_STAT_RUNNING 0 = true ∧ armed.on Reg.HAWSER_CTRL_EN 0 = false
    ∧ ({ armed with boot := { armed.boot with startCal := some ⟨0, [], 4, [], none⟩ } } : State).boot.startCal = some ⟨0, [], 4, [], none⟩
    ∧ ((up 6).put Reg.BOOT_STAT_WATCH_PEND 0 true).drained = true ∧ ((up 6).put Reg.BOOT_STAT_WATCH_PEND 0 true).on Reg.BOOT_STAT_WATCH_PEND 0 = true
    ∧ (up 8).mode = 8 ∧ (up 7).mode = 7 ∧ (up 7).boot.waking = false
    ∧ ((up 7).wr Reg.BOOT_WTIMER_SEC 0 1).rd Reg.BOOT_WTIMER_SEC 0 ≠ 0 := by decide +kernel

/-- A cause that an earlier one of the clock overrules: a fault (3) before a HOLD (13), and RST_N (2) before all but the loss of input. -/
theorem wit_OperatingStates_overruled : (up 6).overruled 13 = false ∧ ({ up 6 with cause := some 3 } : State).overruled 13 = true
    ∧ ({ up 6 with cause := some 2 } : State).overruled 2 = false ∧ ({ up 6 with cause := some 1 } : State).overruled 2 = true := by decide +kernel

theorem wit_ResetValues : (opened (up 6)).classOpen .device = true ∧ (((up 6).wr Reg.LOCK_STAT_LEVEL 0 3).wr Reg.LOCK_STAT_OPEN 0 0).classOpen .device = false
    ∧ (0xA5 : Byte) = 0xA5 ∧ (0x5A : Byte) ≠ 0xA5 ∧ (up 2).mode < 3 ∧ 3 ≤ (up 9).mode := by decide +kernel

theorem wit_FlashAndLog : let s := (opened (up 5)).put Reg.BOOT_STAT_NOIMAGE 0 true
    s.mode = 5 ∧ s.on Reg.BOOT_FSTAT_BUSY 0 = false ∧ s.on Reg.BOOT_STAT_NOIMAGE 0 = true ∧ s.classOpen .device = true ∧ (up 6).boot.flashOp = none
    ∧ ({ s with boot := { s.boot with flashOp := some (2, 0x3FFFF00) } } : State).boot.flashOp = some (2, 0x3FFFF00) ∧ s.boot.pagePos < 256
    ∧ s.log.ring.length < 4094 ∧ s.log.cur = none ∧ s.commit = none ∧ s.mram.slots.length = 4
    ∧ ({ s with log := { s.log with cur := some ⟨0, 4, 512, none, none⟩ } } : State).log.cur = some ⟨0, 4, 512, none, none⟩
    ∧ ({ s with log := { s.log with cur := some ⟨0, 4, 512, some (3, 1), none⟩ } } : State).log.cur = some ⟨0, 4, 512, some (3, 1), none⟩
    ∧ ([0, 0, 0, 0, 0, 0] : List Half).length = 6 := by decide +kernel

theorem wit_SafetyMonitor : let s := { up 6 with safety := { (up 6).safety with due := [(4, 0)] } }
    s.safety.due = [(4, 0)] ∧ 3 ≤ s.mode ∧ s.bit Reg.SAFETY_FAULT_F 0 4 = false ∧ 5 ≤ s.mode ∧ s.mode ≤ 8 ∧ s.rd Reg.SAFETY_FAULT_F 0 = 0
    ∧ (s.wr Reg.SAFETY_FAULT_F 0 0x10).bit Reg.SAFETY_FAULT_F 0 4 = true ∧ (up 6).safety.due = []
    ∧ (s.wr Reg.SAFETY_STOPEN_EN 0 1).bit Reg.SAFETY_STOPEN_EN 0 0 = true ∧ (opened (up 6)).classOpen .device = true := by decide +kernel

theorem wit_RegisterAccess : (up 2).mode < 3 ∧ 3 ≤ (up 3).mode ∧ lookup 0x48000 = none ∧ (lookup 0x18).isSome = true ∧ (up 7).mode = 7
    ∧ (lookup 0xA000).isSome = true ∧ (lookup 0x4004).isSome = true := by decide +kernel

/-- A gated register in WATCH, and one of the housekeeping island. -/
theorem wit_RegisterAccess_gated : ((lookup 0xA000).map fun h => ((up 7).gated h true, (up 7).gated h false, (up 6).gated h true)) = some (true, true, false)
    ∧ (lookup 0x18).map (·.island) = some .housekeeping := by decide +kernel

theorem wit_LostJobs : let h : Closed := ⟨3, 543, [0], [5], 4⟩
    let s := { (up 6).wr (Reg.CORE_DTAB_EN 2) 7 1 with tick := 607 }
    let s := s.setStrand 0 { StrandRt.idle with closed := some h }
    (s.strand 0).closed = some h ∧ h.close + 64 ≤ s.tick ∧ (∀ ch ∈ h.chans, ch < 192)
    ∧ ((List.range 12).flatMap fun c => (List.range 16).flatMap fun k => (s.entryJobs c k 0 h).map fun j => (c, j)) = [(7, ⟨0, 3, 5, 0, 0, [(5, 0)]⟩)]
    ∧ s.on Reg.CORE_CTRL_EN 7 = false ∧ s.bound (5, 0) = false := by decide +kernel

theorem wit_OneBootCommand : 3 ≤ (up 6).mode ∧ (3 : Nat) < 4 ∧ (0x18 : Word).getLsbD 3 = true ∧ (0x18 : Word).getLsbD 4 = true := by decide +kernel

theorem wit_StoresSorted : State.reset.sortedStores = true ∧ step State.reset = .next State.reset := ⟨by decide +kernel, rfl⟩

/-! ### Results the manual prints -/

/-- The pointer s10 of the example of R261 at 960 with ag1 1,024 bytes long, then at 992 with 640. -/
theorem test_pointer_wrap :
    let k (off len : Word) : CoreRt := { regs [(10, off)] with agLen := [0, len, 0, 0] }
    ((k 960 1024).circ 10 1 32).land = [⟨1, .scalar false 10 992⟩]
    ∧ ((k 992 640).circ 10 1 32).land.map (·.what) = [.flags 0x2000, .scalar false 10 384]
    ∧ ((k 608 640).circ 10 1 32).land.map (·.what) = [.scalar false 10 0] := by decide +kernel

/-- The close instant of the example of R57: 76,843 ticks after the launch with L = 12 and N = 76,800. -/
theorem test_close_instant : (((up 6).wr Reg.STRAND_LDLY_LDLY 0 12).wr Reg.STRAND_NBIN_NBIN 0 76800).gapOff 0 + 31 = 76843 := by decide +kernel

/-- The presence level of Table 5.4 is evaluated at tick 304 of its shot, and its miss is counted. -/
theorem test_presence :
    after (.presenceEval 0) { ((st0run 0).wr Reg.PRB_PRES_EN 0 1).wr Reg.PRB_PRES_FLOOR_FLOOR 0 100 with tick := 304 } (fun t => (t.strand 0).miss = 1) = true
    ∧ after (.presenceEval 0) { ((st0run 0).wr Reg.PRB_PRES_EN 0 1).wr Reg.PRB_PRES_FLOOR_FLOOR 0 100 with tick := 303 } (fun t => (t.strand 0).miss = 0) = true := by
  decide +kernel

/-- A run on a converter stuck at +1,200. -/
def stuck : GapRun := ⟨1000, 0, 2, false, false, false, false, 256 * 1200, 256 * 1200 * 1200, false, 0, 0, 0, 0, 0, 0, 0, false, []⟩

/-- The quiet decision of Table 17.3: a converter stuck at +1,200 with a held offset of −3 codes is not quiet. -/
theorem test_not_quiet :
    after (.quietDecision 0)
      ((gapAt 1288).setChan 0 { ChanRt.idle with hOff := [-48, 0, 0, 0, 0, 0, 0, 0, 0, 0, 0, 0, 0], run := some stuck })
      (fun t => ((t.chan 0).run.map (·.notQuiet)) = some true) = true := by decide +kernel

/-- The edge of Table 10.4: taken at tick 4, it shows its latch bit and CAPT = 4 from tick 8. -/
theorem test_edge_captured :
    after (.monitorEdge 0) { ((((mon 1 { ChanRt.idle with edges := [⟨0, 4, Reg.WMON_ROUTE_CAP.insert (Reg.WMON_ROUTE_EDGES.insert 0 1) 1⟩] }).wr Reg.WMON_ROUTE_EDGES 0 1).wr Reg.WMON_ROUTE_CAP 0 1).wr Reg.FC_HITCH_EN 0 1).setStrand 0
        { StrandRt.idle with launched := true } with tick := 8 }
      (fun t => t.rd Reg.WMON_STAT_LATCH 0 = 1 ∧ t.rd Reg.WMON_STAT_CAPT 0 = 4 ∧ t.rd Reg.WMON_STAT_CEDGE 0 = 0) = true
    ∧ after (.monitorEdge 0) { (mon 1 { ChanRt.idle with edges := [⟨0, 4, Reg.WMON_ROUTE_EDGES.insert 0 1⟩] }).wr Reg.WMON_ROUTE_EDGES 0 1 with tick := 7 }
      (fun t => t.rd Reg.WMON_STAT_LATCH 0 = 0) = true := by decide +kernel

/-- The check value of the CRC-32 of R182 for the ASCII digits 1 to 9 (the common one of its polynomial). -/
theorem test_crc : crc32 [0x31, 0x32, 0x33, 0x34, 0x35, 0x36, 0x37, 0x38, 0x39] = 0xCBF43926 := by decide +kernel

/-- SHA-256 of "abc" as FIPS 180-4 prints it. -/
theorem test_sha : (sha256 [0x61, 0x62, 0x63]).take 8 = [0xBA, 0x78, 0x16, 0xBF, 0x8F, 0x01, 0xCF, 0xEA] := by decide +kernel

/-- An unassigned address reads 0, and a reset value of Table 19.2 is read. -/
theorem test_reads : ((up 6).readReg .host 0x48000).readVal = 0 ∧ ((up 6).readReg .host 0).readVal = 0x719200B0 := by decide +kernel
end Sys2Proof.Tests
end

