-- ==== Sys2Proof/Proofs/RegisterAccess.lean ====
section
/-! Register accesses while a wake waits for the lanyard: WATCH with WAKE_PEND = 1 gates no island (R401, Table 16.9). -/

namespace Sys2Proof.Machine

/-! ### Which islands are gated -/

/-- The islands that WATCH gates whatever their channels do (R30, R347). -/
theorem State.gated_eq_inWatch (s : State) {h : Hit} (hi : h.island = .fold ∨ h.island = .phase ∨ h.island = .core)
    (write : Bool) : s.gated h write = s.inWatch := by
  unfold State.gated
  rcases hi with hi | hi | hi <;> rw [hi] <;> exact Bool.and_true _

theorem State.inWatch_of_wakePend {s : State} (hp : s.on Reg.BOOT_STAT_WAKE_PEND 0 = true) : s.inWatch = false := by
  simp [State.inWatch, hp]

/-! ### A write of a register without RWL or IMG fields -/

theorem FieldSpec.counts_eq_false {f : FieldSpec} (hl : f.acc ≠ .rwl) (hi : f.acc ≠ .img) (mixed : Bool) (old v : Word) :
    f.counts mixed old v = false := by
  unfold FieldSpec.counts
  split
  · exact absurd ‹_› hl
  · exact absurd ‹_› hi
  · rfl

/-- The lock has no say in a write of a register without RWL or IMG fields: it answers OK, the fields are stored, and what
the write starts follows. -/
theorem State.writeHit_unlocked (s : State) {h : Hit} (hf : ∀ f ∈ h.fields, f.acc ≠ .rwl ∧ f.acc ≠ .img) (src : Nat)
    (image : Bool) (a : Nat) (v act : Word) :
    s.writeHit src image h a v act =
      let free := image || s.classOpen h.lockClass
      let t : State := { s with acc := .ok }
      (t.setReg a (t.written free h a act)).writeEffect src image free h act (s.reg a) := by
  have carries : h.fields.any (fun f => f.counts h.mixed (s.reg a) v) = false :=
    List.any_eq_false.mpr fun f hm => by
      obtain ⟨hl, hi⟩ := hf f hm
      simp [FieldSpec.counts_eq_false hl hi]
  unfold State.writeHit
  simp only [carries]
  rfl

/-- What the address of PHASE_BUDGET, a register of the phase island, resolves to (Table 6.12). -/
def budgetHit : Hit := ⟨.phaseG, 0, 0, 0, .phase, [⟨19, 0, .rw, 0x16f94⟩]⟩

theorem lookup_budget : lookup (Reg.PHASE_BUDGET_BUDGET.addr 0) = some budgetHit := by decide

theorem State.writeReg_budget_acc {s : State} (src : Source) (v : Word) (hm : 3 ≤ s.mode) (hw : s.inWatch = false) :
    (s.writeReg src (Reg.PHASE_BUDGET_BUDGET.addr 0) v).acc = .ok := by
  have hg : s.gated budgetHit true = false := (s.gated_eq_inWatch (.inr (.inl rfl)) true).trans hw
  have hb : ¬ s.mode < 3 := by omega
  unfold State.writeReg
  rw [if_neg hb, lookup_budget]
  simp only [hg]
  rw [State.writeHit_unlocked _ (by decide)]
  rfl

/-! ### A wake that waits for the lanyard (R401) -/

/-- A register that each of a list of updates leaves alone, all of them leave alone. -/
theorem State.reg_each {α : Type} {a : Nat} {f : α → State → State} {l : List α}
    (hf : ∀ x ∈ l, ∀ t : State, (f x t).reg a = t.reg a) (s : State) : (s.each l f).reg a = s.reg a := by
  unfold State.each
  induction l generalizing s with
  | nil => rfl
  | cons x l ih =>
    rw [List.foldl_cons, ih fun y hy => hf y (List.mem_cons_of_mem _ hy), hf x List.mem_cons_self]

theorem State.reg_put_other (s : State) (f : Field) (i : Nat) (b : Bool) {a : Nat} (h : a ≠ f.addr i) :
    (s.put f i b).reg a = s.reg a := s.reg_wr_other f i _ h

theorem State.reg_monWait_other (s : State) {a ch : Nat} (h : a ≠ Reg.WMON_STAT_INIT.addr ch) :
    (s.monWait ch).reg a = s.reg a := State.reg_put_other _ _ _ _ h

/-- The registers of channels, monitors and precision channels lie from 0x8000 to below 0x40000 (Table 19.1). -/
def outsideChannels (a : Nat) : Prop := a < 0x8000 ∨ 0x40000 ≤ a

theorem State.reg_chanWake {a ch : Nat} (ha : outsideChannels a) (hc : ch < 192) (s : State) :
    (s.chanWake ch).reg a = s.reg a := by
  have hp : a ≠ Reg.FC_STAT_PSTATE.addr ch := by
    simp only [outsideChannels, Field.addr, Reg.FC_STAT_PSTATE] at *; omega
  have hr : a ≠ Reg.FC_STAT_READY.addr ch := hp
  have hi : a ≠ Reg.WMON_STAT_INIT.addr ch := by
    simp only [outsideChannels, Field.addr, Reg.WMON_STAT_INIT] at *; omega
  simp only [State.chanWake]
  split
  · simp [State.reg_monWait_other, State.reg_put_other, State.reg_wr_other, hp, hr, hi]
  · simp [State.reg_put_other, State.reg_wr_other, hp, hr]

theorem State.reg_pcResumeAll {a : Nat} (ha : outsideChannels a) (s : State) : s.pcResumeAll.reg a = s.reg a := by
  refine State.reg_each (fun c hc t => ?_) s
  have hc := List.mem_range.mp hc
  have hd : a ≠ Reg.PC_BSTAT_DISCARD.addr c := by
    simp only [outsideChannels, Field.addr, Reg.PC_BSTAT_DISCARD] at *; omega
  have he : a ≠ Reg.PC_FSTAT_EXC_ON.addr c := by
    simp only [outsideChannels, Field.addr, Reg.PC_FSTAT_EXC_ON] at *; omega
  simp [State.reg_put_other, hd, he]

/-- Where no wake was pending, ungating sets WAKE_PEND and changes no register outside the channels besides. -/
theorem State.reg_ungate {s : State} (hp : s.on Reg.BOOT_STAT_WAKE_PEND 0 = false) {a : Nat} (ha : outsideChannels a) :
    s.ungate.reg a = (s.put Reg.BOOT_STAT_WAKE_PEND 0 true).reg a := by
  simp only [State.ungate, hp, Bool.false_eq_true, if_false]
  rw [State.reg_pcResumeAll ha, State.reg_each fun ch hc => State.reg_chanWake ha (List.mem_range.mp hc)]

/-- A device of a ring in WATCH whose lanyard is not locked, after a wake cause. -/
def waking : State :=
  let s := (State.reset.wr Reg.BOOT_STATE_STATE 0 7).put Reg.HAWSER_CTRL_EN 0 true
  { s with boot := { s.boot with waking := true } }

/-- `waking` once its islands run again: WATCH with WAKE_PEND = 1. -/
theorem waking_ungate : waking.ungate.mode = 7 ∧ waking.ungate.on Reg.BOOT_STAT_WAKE_PEND 0 = true
    ∧ waking.ungate.on Reg.HAWSER_CTRL_EN 0 = true ∧ waking.ungate.on Reg.LANYARD_STAT_LOCKED 0 = false := by
  have hp : waking.on Reg.BOOT_STAT_WAKE_PEND 0 = false := by decide +kernel
  have hf (f : Field) (h : outsideChannels (f.addr 0)) :
      waking.ungate.rd f 0 = (waking.put Reg.BOOT_STAT_WAKE_PEND 0 true).rd f 0 := congrArg f.read (State.reg_ungate hp h)
  simp only [State.mode, State.on]
  rw [hf _ (.inl (by decide)), hf _ (.inl (by decide)), hf _ (.inr (by decide)), hf _ (.inl (by decide))]
  decide +kernel

/-- WAKE_COMPLETE ungates the islands of `waking` and leaves it in WATCH: the machine reaches the refuting state. -/
theorem exec_wakeComplete_waking : exec .wakeComplete waking = .next waking.ungate := by
  obtain ⟨-, -, hen, hunlocked⟩ := waking_ungate
  have hw : (waking.mode = 7 && waking.boot.waking) = true := by decide +kernel
  simp only [exec_wakeComplete, execWakeComplete, hw, hen, hunlocked]
  rfl

/-! ### The obligation -/

/-- Refutes O57: its third clause has a write to the phase island answer GATED wherever STATE is WATCH, but while WAKE_PEND
is 1 the islands run again (R401, Table 16.9: "GATED answers end"), and a write of PHASE_BUDGET answers OK. The state is
the one WAKE_COMPLETE reaches from `waking` (`exec_wakeComplete_waking`). -/
theorem not_registerAccess : ¬ Obligations.RegisterAccess := by
  unfold Obligations.RegisterAccess
  rintro ⟨hwrites, -⟩
  obtain ⟨hmode, hpend, -, -⟩ := waking_ungate
  obtain ⟨-, -, hgated, -⟩ := hwrites .host (Reg.PHASE_BUDGET_BUDGET.addr 0) 0 waking.ungate
  obtain ⟨t, hexec, hacc, -, -⟩ := hgated budgetHit hmode lookup_budget (.inr (.inl rfl))
  have ht : waking.ungate.writeReg .host (Reg.PHASE_BUDGET_BUDGET.addr 0) 0 = t := Host.Outcome.next.inj hexec
  have hok : t.acc = .ok := ht ▸ State.writeReg_budget_acc .host 0 (by omega) (State.inWatch_of_wakePend hpend)
  exact AccCode.noConfusion (hacc.symm.trans hok)

end Sys2Proof.Machine
end

