-- ==== Sys2Proof/Proofs/LostJobs.lean ====
section
/-! A job lost at the hand-over (R273, R274): what passing planes to HAUL, dropping a job and releasing its bindings each do
and leave alone, and the hand-over that drops its one job. -/

namespace Sys2Proof.Machine

/-! ### Updates in a row, and one field of a register -/

/-- What each of a list of updates keeps, all of them keep. -/
theorem State.each_keeps {α : Type} {P : State → Prop} {f : α → State → State} {l : List α}
    (hf : ∀ x ∈ l, ∀ t, P t → P (f x t)) {s : State} (hs : P s) : P (s.each l f) := by
  unfold State.each
  induction l generalizing s with
  | nil => exact hs
  | cons x l ih => exact ih (fun y hy => hf y (List.mem_cons_of_mem _ hy)) (hf x List.mem_cons_self s hs)

/-- What the update for one element brings about, and the updates for the others keep, holds after all of them. -/
theorem State.each_brings {α : Type} {P Q : State → Prop} {f : α → State → State} {l : List α} {x : α} (hx : x ∈ l)
    (hQ : ∀ y ∈ l, ∀ t, Q t → Q (f y t)) (hP : ∀ y ∈ l, ∀ t, P t → P (f y t)) (hxP : ∀ t, Q t → P (f x t))
    {s : State} (hs : Q s) : P (s.each l f) := by
  obtain ⟨l₁, l₂, rfl⟩ := List.append_of_mem hx
  have split : s.each (l₁ ++ x :: l₂) f = (f x (s.each l₁ f)).each l₂ f := by simp [State.each]
  have before : Q (s.each l₁ f) := State.each_keeps (fun y hy => hQ y (List.mem_append_left _ hy)) hs
  rw [split]
  exact State.each_keeps (fun y hy => hP y (List.mem_append_right _ (List.mem_cons_of_mem _ hy))) (hxP _ before)

theorem State.on_of_reg {s t : State} {f : Field} {i : Nat} (h : t.reg (f.addr i) = s.reg (f.addr i)) : t.on f i = s.on f i :=
  congrArg (fun w => decide (f.read w = 1)) h

/-! ### Ownership of a plane (R96, R98)

The registers of the fold engines lie below 0x30000, those of the cores from there on (Table 19.1). -/

theorem State.own_of_reg {s t : State} {ch : Nat}
    (h : t.reg (Reg.FOLD_PSTAT_OWN_A.addr ch) = s.reg (Reg.FOLD_PSTAT_OWN_A.addr ch)) (pl : Nat) : t.own ch pl = s.own ch pl := by
  have hB : t.reg (Reg.FOLD_PSTAT_OWN_B.addr ch) = s.reg (Reg.FOLD_PSTAT_OWN_B.addr ch) := h
  simp only [State.own, State.rd, h, hB]

@[simp] theorem State.setOwn_cores (s : State) (ch pl v : Nat) : (s.setOwn ch pl v).cores = s.cores := by
  unfold State.setOwn
  split <;> rfl

theorem State.reg_setOwn_other (s : State) {ch a : Nat} (pl v : Nat) (h : a ≠ Reg.FOLD_PSTAT_OWN_A.addr ch) :
    (s.setOwn ch pl v).reg a = s.reg a := by
  unfold State.setOwn
  split
  · exact State.reg_wr_other _ _ _ _ h
  · exact State.reg_wr_other _ _ _ _ h

theorem State.reg_setOwn_core (s : State) {ch a : Nat} (pl v : Nat) (hch : ch < 192) (ha : 0x30000 ≤ a) :
    (s.setOwn ch pl v).reg a = s.reg a :=
  s.reg_setOwn_other pl v (by simp only [Field.addr, Reg.FOLD_PSTAT_OWN_A]; omega)

theorem State.own_setOwn_same (s : State) (ch pl : Nat) {v : Nat} (hv : v < 4) : (s.setOwn ch pl v).own ch pl = v := by
  unfold State.setOwn State.own
  split
  · rw [State.rd_wr_same _ _ _ _ (by decide)]; exact Nat.mod_eq_of_lt hv
  · rw [State.rd_wr_same _ _ _ _ (by decide)]; exact Nat.mod_eq_of_lt hv

/-- Writing one ownership leaves another as it is, or gives it the same value. -/
theorem State.own_setOwn_or (s : State) (ch pl ch' pl' : Nat) {v : Nat} (hv : v < 4) :
    (s.setOwn ch pl v).own ch' pl' = v ∨ (s.setOwn ch pl v).own ch' pl' = s.own ch' pl' := by
  by_cases hch : ch' = ch
  · subst hch
    by_cases hpl : pl' = 0 ↔ pl = 0
    · left
      have same : (s.setOwn ch' pl v).own ch' pl' = (s.setOwn ch' pl v).own ch' pl := by simp only [State.own, hpl]
      rw [same, s.own_setOwn_same ch' pl hv]
    · right
      unfold State.setOwn State.own
      split <;> split
      · omega
      · exact State.rd_wr_apart _ _ _ _ _ _ (by decide) (by decide)
      · exact State.rd_wr_apart _ _ _ _ _ _ (by decide) (by decide)
      · omega
  · right
    refine State.own_of_reg (s.reg_setOwn_other pl v ?_) pl'
    simp only [Field.addr, Reg.FOLD_PSTAT_OWN_A]
    omega

/-! ### Release of bindings (R98, R273) -/

@[simp] theorem State.release_cores (s : State) (ch pl : Nat) : (s.release ch pl).cores = s.cores := by
  unfold State.release
  split
  · exact s.setOwn_cores ch pl 0
  · rfl

theorem State.reg_release_core (s : State) {ch a : Nat} (pl : Nat) (hch : ch < 192) (ha : 0x30000 ≤ a) :
    (s.release ch pl).reg a = s.reg a := by
  unfold State.release
  split
  · exact s.reg_setOwn_core pl 0 hch ha
  · rfl

theorem State.own_release_of_haul {s : State} {ch pl : Nat} (h : s.own ch pl = 2) : (s.release ch pl).own ch pl = 0 := by
  rw [State.release, if_pos h, s.own_setOwn_same ch pl (by decide)]

/-- A release changes an ownership to FREE or not at all. -/
theorem State.own_release_or (s : State) (ch pl ch' pl' : Nat) :
    (s.release ch pl).own ch' pl' = 0 ∨ (s.release ch pl).own ch' pl' = s.own ch' pl' := by
  unfold State.release
  split
  · exact s.own_setOwn_or ch pl ch' pl' (by decide)
  · exact .inr rfl

theorem State.bound_of_cores {s t : State} (h : t.cores = s.cores) (b : Nat × Nat) : t.bound b = s.bound b := by
  simp only [State.bound, State.core, h]

/-- The release of one binding, where nothing else binds the plane. -/
def State.releaseOne (b : Nat × Nat) (s : State) : State := if s.bound b then s else s.release b.1 b.2

theorem State.releaseAll_eq_each (s : State) (bs : List (Nat × Nat)) : s.releaseAll bs = s.each bs State.releaseOne := rfl

/-- One binding's release leaves the state, or is a release (R98). -/
theorem State.releaseOne_or (s : State) (b : Nat × Nat) : s.releaseOne b = s ∨ s.releaseOne b = s.release b.1 b.2 := by
  unfold State.releaseOne
  split
  · exact .inl rfl
  · exact .inr rfl

@[simp] theorem State.releaseOne_cores (s : State) (b : Nat × Nat) : (s.releaseOne b).cores = s.cores := by
  rcases s.releaseOne_or b with h | h <;> rw [h]
  exact s.release_cores b.1 b.2

theorem State.reg_releaseOne_core (s : State) {b : Nat × Nat} {a : Nat} (hb : b.1 < 192) (ha : 0x30000 ≤ a) :
    (s.releaseOne b).reg a = s.reg a := by
  rcases s.releaseOne_or b with h | h <;> rw [h]
  exact s.reg_release_core b.2 hb ha

theorem State.own_releaseOne_or (s : State) (b : Nat × Nat) (ch pl : Nat) :
    (s.releaseOne b).own ch pl = 0 ∨ (s.releaseOne b).own ch pl = s.own ch pl := by
  rcases s.releaseOne_or b with h | h <;> rw [h]
  · exact .inr rfl
  · exact s.own_release_or b.1 b.2 ch pl

@[simp] theorem State.releaseAll_cores (s : State) (bs : List (Nat × Nat)) : (s.releaseAll bs).cores = s.cores :=
  State.each_keeps (P := fun t => t.cores = s.cores) (fun b _ t ht => (t.releaseOne_cores b).trans ht) rfl

theorem State.reg_releaseAll_core (s : State) {bs : List (Nat × Nat)} {a : Nat} (hbs : ∀ b ∈ bs, b.1 < 192)
    (ha : 0x30000 ≤ a) : (s.releaseAll bs).reg a = s.reg a :=
  State.reg_each (fun b hb t => t.reg_releaseOne_core (hbs b hb) ha) s

/-- A plane in HAUL that nothing binds is FREE once its bindings are released: its own release frees it, and neither the
releases before it nor those after give it another owner. -/
theorem State.own_releaseAll {s : State} {bs : List (Nat × Nat)} {b : Nat × Nat} (hb : b ∈ bs) (hfree : s.bound b = false)
    (hown : s.own b.1 b.2 = 2) : (s.releaseAll bs).own b.1 b.2 = 0 := by
  rw [State.releaseAll_eq_each]
  refine State.each_brings (P := fun t => t.own b.1 b.2 = 0)
    (Q := fun t => t.cores = s.cores ∧ (t.own b.1 b.2 = 0 ∨ t.own b.1 b.2 = 2)) hb ?_ ?_ ?_ ⟨rfl, .inr hown⟩
  · intro y _ t ⟨hcores, ht⟩
    refine ⟨(t.releaseOne_cores y).trans hcores, ?_⟩
    rcases t.own_releaseOne_or y b.1 b.2 with h | h
    · exact .inl h
    · rwa [h]
  · intro y _ t ht
    rcases t.own_releaseOne_or y b.1 b.2 with h | h
    · exact h
    · exact h.trans ht
  · intro t ⟨hcores, ht⟩
    have unbound : t.bound b = false := (State.bound_of_cores hcores b).trans hfree
    rcases ht with ht | ht
    · rcases t.own_releaseOne_or b b.1 b.2 with h | h
      · exact h
      · exact h.trans ht
    · simpa [State.releaseOne, unbound] using State.own_release_of_haul ht

/-! ### A job dropped (R274) -/

@[simp] theorem State.status_cores (s : State) (r : StatusRec) : (s.status r).cores = s.cores := rfl

/-- A STATUS message changes no register but the pending bits of HOSTLINK_EVT (R346). -/
theorem State.reg_status_other (s : State) (r : StatusRec) {a : Nat} (h : a ≠ Reg.HOSTLINK_EVT_PEND.addr 0) :
    (s.status r).reg a = s.reg a :=
  (s.queueMsg ⟨7, r.payload⟩).reg_wr_other _ _ _ h

@[simp] theorem State.loseJob_cores (s : State) (c : Nat) (j : Job) : (s.loseJob c j).cores = s.cores := by
  simp [State.loseJob]

/-- The addresses of the two registers of core `c` that a lost job shows in, and of HOSTLINK_EVT, are three. -/
theorem jlost_addrs {c : Nat} (hc : c < 12) : Reg.CORE_STAT_JOB_LOST.addr c ≠ Reg.CORE_JLOST_N.addr c
    ∧ Reg.CORE_STAT_JOB_LOST.addr c ≠ Reg.HOSTLINK_EVT_PEND.addr 0
    ∧ Reg.CORE_JLOST_N.addr c ≠ Reg.HOSTLINK_EVT_PEND.addr 0 := by
  simp only [Field.addr, Reg.CORE_STAT_JOB_LOST, Reg.CORE_JLOST_N, Reg.HOSTLINK_EVT_PEND]
  omega

theorem State.on_jobLost_loseJob (s : State) {c : Nat} (j : Job) (hc : c < 12) :
    (s.loseJob c j).on Reg.CORE_STAT_JOB_LOST c = true := by
  obtain ⟨hJ, hE, -⟩ := jlost_addrs hc
  unfold State.loseJob
  rw [State.on_of_reg (State.reg_status_other _ _ hE), State.bump, State.on_of_reg (State.reg_wr_other _ _ _ _ hJ)]
  exact s.on_put_same _ c true (by decide)

theorem State.rd_jlost_loseJob (s : State) {c : Nat} (j : Job) (hc : c < 12) :
    (s.loseJob c j).rd Reg.CORE_JLOST_N c = min (s.rd Reg.CORE_JLOST_N c + 1) (2 ^ 32 - 1) := by
  obtain ⟨hJ, -, hE⟩ := jlost_addrs hc
  have status : (s.loseJob c j).rd Reg.CORE_JLOST_N c
      = ((s.put Reg.CORE_STAT_JOB_LOST c true).bump Reg.CORE_JLOST_N c 1).rd Reg.CORE_JLOST_N c :=
    congrArg Reg.CORE_JLOST_N.read (State.reg_status_other _ _ hE)
  rw [status, State.rd_bump_same _ _ _ _ (by decide), State.put, State.rd_wr_addr _ _ _ _ _ _ hJ.symm]
  rfl

/-- A lost job leaves the registers below the cores' as they are. -/
theorem State.reg_loseJob_below (s : State) (c : Nat) (j : Job) {a : Nat} (ha : a < 0x30000) :
    (s.loseJob c j).reg a = s.reg a := by
  have hJ : a ≠ Reg.CORE_STAT_JOB_LOST.addr c := by simp only [Field.addr, Reg.CORE_STAT_JOB_LOST]; omega
  have hN : a ≠ Reg.CORE_JLOST_N.addr c := by simp only [Field.addr, Reg.CORE_JLOST_N]; omega
  have hE : a ≠ Reg.HOSTLINK_EVT_PEND.addr 0 := by simp only [Field.addr, Reg.HOSTLINK_EVT_PEND]; omega
  calc (s.loseJob c j).reg a
      _ = ((s.put Reg.CORE_STAT_JOB_LOST c true).bump Reg.CORE_JLOST_N c 1).reg a := State.reg_status_other _ _ hE
      _ = (s.put Reg.CORE_STAT_JOB_LOST c true).reg a := State.reg_wr_other _ _ _ _ hN
      _ = s.reg a := State.reg_put_other _ _ _ _ hJ

theorem State.own_loseJob (s : State) (c : Nat) (j : Job) {ch : Nat} (pl : Nat) (hch : ch < 192) :
    (s.loseJob c j).own ch pl = s.own ch pl :=
  State.own_of_reg (s.reg_loseJob_below c j (by simp only [Field.addr, Reg.FOLD_PSTAT_OWN_A]; omega)) pl

/-! ### The jobs a hand-over forms (R273, R275) -/

/-- The jobs of a stack handed over, each with its core, in the order they are formed. -/
def State.formedJobs (i : Nat) (h : Closed) (s : State) : List (Nat × Job) :=
  (List.range 12).flatMap fun c => (List.range 16).flatMap fun k => (s.entryJobs c k i h).map fun j => (c, j)

/-- A job binds planes of the stack's channels only. -/
theorem State.mem_binds_of_mem_entryJobs {s : State} {c k i : Nat} {h : Closed} {j : Job} (hj : j ∈ s.entryJobs c k i h)
    {b : Nat × Nat} (hb : b ∈ j.binds) : b.1 ∈ h.chans ∧ b.2 ∈ h.planes := by
  unfold State.entryJobs at hj
  split at hj
  · simp at hj
  · dsimp only at hj
    split at hj
    · obtain rfl := List.mem_singleton.mp hj
      obtain ⟨ch, hch, hb⟩ := List.mem_flatMap.mp hb
      obtain ⟨p, hp, rfl⟩ := List.mem_map.mp hb
      exact ⟨hch, hp⟩
    · obtain ⟨ch, hch, rfl⟩ := List.mem_map.mp hj
      obtain ⟨p, hp, rfl⟩ := List.mem_map.mp hb
      exact ⟨hch, hp⟩

theorem State.mem_binds_of_mem_formedJobs {s : State} {i : Nat} {h : Closed} {cj : Nat × Job}
    (hj : cj ∈ s.formedJobs i h) {b : Nat × Nat} (hb : b ∈ cj.2.binds) : b.1 ∈ h.chans ∧ b.2 ∈ h.planes := by
  simp only [State.formedJobs, List.mem_flatMap, List.mem_map] at hj
  obtain ⟨c, -, k, -, j, hj, rfl⟩ := hj
  exact State.mem_binds_of_mem_entryJobs hj hb

/-- The dispatch tables, which the jobs are formed from, are registers of the cores. -/
theorem State.entryJobs_of_coreRegs {s t : State} (hreg : ∀ a, 0x30000 ≤ a → t.reg a = s.reg a) (c k i : Nat) (h : Closed) :
    t.entryJobs c k i h = s.entryJobs c k i h := by
  have hrd (f : Field) (hf : 0x30000 ≤ f.base) : t.rd f c = s.rd f c :=
    congrArg f.read (hreg _ (Nat.le_add_right_of_le hf))
  have dtab : 0x30000 ≤ 0x30100 + 8 * k := by omega
  have dpar : 0x30000 ≤ 0x30104 + 8 * k := by omega
  unfold State.entryJobs State.on
  rw [hrd (Reg.CORE_DTAB_EN k) dtab, hrd (Reg.CORE_DTAB_STRAND k) dtab, hrd (Reg.CORE_DTAB_JMODE k) dtab,
    hrd (Reg.CORE_DTAB_ENTRY k) dtab, hrd (Reg.CORE_DPAR_PARAM k) dpar]

theorem State.formedJobs_of_coreRegs {s t : State} (hreg : ∀ a, 0x30000 ≤ a → t.reg a = s.reg a) (i : Nat) (h : Closed) :
    t.formedJobs i h = s.formedJobs i h := by
  simp only [State.formedJobs, State.entryJobs_of_coreRegs hreg]

/-- A dispatch of one job that finds its core with EN = 0 or its queue full drops it and releases its bindings. -/
theorem State.dispatchJobs_of_lost {s : State} {i c : Nat} {h : Closed} {j : Job} (hjobs : s.formedJobs i h = [(c, j)])
    (hfull : s.on Reg.CORE_CTRL_EN c = false ∨ 8 ≤ (s.core c).jobs.length) :
    s.dispatchJobs i h = (s.loseJob c j).releaseAll j.binds := by
  have lost : ¬ (s.on Reg.CORE_CTRL_EN c && (s.core c).jobs.length < 8) = true := by
    rcases hfull with hen | hlen
    · simp [hen]
    · simp [Nat.not_lt.mpr hlen]
  unfold State.formedJobs at hjobs
  unfold State.dispatchJobs
  rw [hjobs]
  simp only [List.foldl_cons, List.foldl_nil, if_neg lost, List.nil_append]

/-! ### The planes pass to HAUL (R96) -/

/-- The state the dispatcher finds at C + 64: the stack is no longer waiting, its planes are in HAUL. -/
def State.planesToHaul (i : Nat) (h : Closed) (s : State) : State :=
  (s.setStrand i { s.strand i with closed := none }).each h.chans fun ch s => s.each h.planes fun pl s => s.setOwn ch pl 2

theorem execHandOver_of_due {i : StrandId} {s : State} {h : Closed} (hclosed : (s.strand i).closed = some h)
    (hdue : h.close + 64 ≤ s.tick) : execHandOver i s = .next ((s.planesToHaul i h).dispatchJobs i h) := by
  simp only [execHandOver, hclosed, if_neg (Nat.not_lt.mpr hdue)]
  rfl

@[simp] theorem State.planesToHaul_cores (s : State) (i : Nat) (h : Closed) : (s.planesToHaul i h).cores = s.cores :=
  State.each_keeps (P := fun t => t.cores = s.cores)
    (fun ch _ _ ht => State.each_keeps (fun pl _ u hu => (u.setOwn_cores ch pl 2).trans hu) ht) rfl

theorem State.reg_planesToHaul_core (s : State) (i : Nat) {h : Closed} (hch : ∀ ch ∈ h.chans, ch < 192) {a : Nat}
    (ha : 0x30000 ≤ a) : (s.planesToHaul i h).reg a = s.reg a :=
  State.reg_each (fun ch hm => State.reg_each fun pl _ t => t.reg_setOwn_core pl 2 (hch ch hm) ha) _

theorem State.own_planesToHaul (s : State) (i : Nat) {h : Closed} {ch pl : Nat} (hch : ch ∈ h.chans) (hpl : pl ∈ h.planes) :
    (s.planesToHaul i h).own ch pl = 2 := by
  have keeps (ch' pl' : Nat) (t : State) (ht : t.own ch pl = 2) : (t.setOwn ch' pl' 2).own ch pl = 2 := by
    rcases t.own_setOwn_or ch' pl' ch pl (v := 2) (by decide) with h | h
    · exact h
    · exact h.trans ht
  refine State.each_brings (P := fun t => t.own ch pl = 2) (Q := fun _ => True) hch (fun _ _ _ _ => trivial) ?_ ?_ trivial
  · exact fun ch' _ t ht => State.each_keeps (fun pl' _ u hu => keeps ch' pl' u hu) ht
  · exact fun t _ => State.each_brings (Q := fun _ => True) hpl (fun _ _ _ _ => trivial)
      (fun pl' _ u hu => keeps ch pl' u hu) (fun u _ => u.own_setOwn_same ch pl (by decide)) trivial

/-! ### The obligation -/

/-- Settles O59: the planes pass to HAUL, which touches no core register and no queue, so the dispatcher forms the same one
job and drops it; the release of its bindings then frees each plane of it that nothing else binds. -/
theorem lostJobs : Obligations.LostJobs := by
  unfold Obligations.LostJobs
  intro i s h c j hclosed hdue hchans hjobs hfull
  let u := s.planesToHaul i h
  have hreg (a : Nat) (ha : 0x30000 ≤ a) : u.reg a = s.reg a := s.reg_planesToHaul_core i hchans ha
  have hcores : u.cores = s.cores := s.planesToHaul_cores i h
  have hjobs' : u.formedJobs i h = [(c.val, j)] := (State.formedJobs_of_coreRegs hreg i h).trans hjobs
  have hfull' : u.on Reg.CORE_CTRL_EN c = false ∨ 8 ≤ (u.core c).jobs.length := by
    have hen : u.on Reg.CORE_CTRL_EN c = s.on Reg.CORE_CTRL_EN c :=
      State.on_of_reg (hreg _ (Nat.le_add_right _ _))
    simpa only [State.core, hcores, hen] using hfull
  have hbinds {b : Nat × Nat} (hb : b ∈ j.binds) : b.1 ∈ h.chans ∧ b.2 ∈ h.planes :=
    State.mem_binds_of_mem_formedJobs (cj := (c.val, j)) (by rw [hjobs']; exact List.mem_singleton_self _) hb
  have hrelease {a : Nat} (ha : 0x30000 ≤ a) : ((u.loseJob c j).releaseAll j.binds).reg a = (u.loseJob c j).reg a :=
    State.reg_releaseAll_core _ (fun b hb => hchans _ (hbinds hb).1) ha
  refine ⟨(u.loseJob c j).releaseAll j.binds, ?_, ?_, ?_, ?_, ?_⟩
  · rw [exec_handOver, execHandOver_of_due hclosed hdue, State.dispatchJobs_of_lost hjobs' hfull']
  · rw [State.releaseAll_cores, State.loseJob_cores, hcores]
  · rw [State.on_of_reg (hrelease (by simp only [Field.addr, Reg.CORE_STAT_JOB_LOST]; omega))]
    exact u.on_jobLost_loseJob j c.isLt
  · have hN : 0x30000 ≤ Reg.CORE_JLOST_N.addr c := by simp only [Field.addr, Reg.CORE_JLOST_N]; omega
    calc ((u.loseJob c j).releaseAll j.binds).rd Reg.CORE_JLOST_N c
        _ = (u.loseJob c j).rd Reg.CORE_JLOST_N c := congrArg Reg.CORE_JLOST_N.read (hrelease hN)
        _ = min (u.rd Reg.CORE_JLOST_N c + 1) (2 ^ 32 - 1) := u.rd_jlost_loseJob j c.isLt
        _ = min (s.rd Reg.CORE_JLOST_N c + 1) (2 ^ 32 - 1) := by rw [State.rd, State.rd, hreg _ hN]
  · intro b hb _ hfree
    obtain ⟨hch, hpl⟩ := hbinds hb
    refine State.own_releaseAll hb ?_ ?_
    · rw [State.bound_of_cores ((u.loseJob_cores c j).trans hcores), hfree]
    · rw [State.own_loseJob _ _ _ _ (hchans _ hch), s.own_planesToHaul i hch hpl]

end Sys2Proof.Machine
end

