-- ==== Sys2Proof/Proofs/CalibrationStore.lean ====
section
/-! The calibration store (R177, R180 to R183, R420): the writes of GAPCAL_CMD and of the HELD windows, the beginning of a
commit, the attempts that write the copies, and what a HELD write does to its channel. -/

namespace Sys2Proof.Machine

/-! ### Registers after a raise -/

theorem State.reg_raise_other (s : State) (f : Field) (i : Nat) {a : Nat} (h : a ≠ f.addr i) :
    (s.raise f i).reg a = s.reg a := s.reg_put_other f i true h

theorem State.rd_raise_other (s : State) (f g : Field) (i j : Nat) (h : g.addr j ≠ f.addr i) :
    (s.raise f i).rd g j = s.rd g j := congrArg g.read (s.reg_raise_other f i h)

theorem State.on_put_apart (s : State) (f g : Field) (i j : Nat) (b : Bool) (hf : f.fits = true) (h : f.apart g = true) :
    (s.put f i b).on g j = s.on g j := congrArg (fun n => decide (n = 1)) (s.rd_wr_apart f g i j _ hf h)

theorem State.on_raise_apart (s : State) (f g : Field) (i j : Nat) (hf : f.fits = true) (h : f.apart g = true) :
    (s.raise f i).on g j = s.on g j := s.on_put_apart f g i j true hf h

theorem State.on_raise_same (s : State) (f : Field) (i : Nat) (h : f.fits = true) : (s.raise f i).on f i = true :=
  (State.on_of_reg rfl).trans (s.on_put_same f i true h)

/-! ### What the calibration store reads, and the log record of a write -/

/-- Addresses outside LOG_STAT, LOG_SEQ and LOG_LOST, the registers a log record changes. -/
abbrev outsideLog (a : Nat) : Prop := a < 0x5000 ∨ 0x5014 ≤ a

theorem outsideLog_hitch (ch : Nat) : outsideLog (Reg.FC_HITCH_EN.addr ch) :=
  .inr (by simp only [Field.addr, Reg.FC_HITCH_EN]; omega)

/-- All that the calibration store reads stands in `t` as in `s`. -/
structure State.CalAgree (s t : State) : Prop where
  reg : ∀ a, outsideLog a → t.reg a = s.reg a
  cur : t.log.cur = s.log.cur
  tick : t.tick = s.tick
  lany : t.lany = s.lany
  chans : t.chans = s.chans
  strands : t.strands = s.strands
  mram : t.mram = s.mram
  commit : t.commit = s.commit
  lastCommit : t.lastCommit = s.lastCommit
  boot : t.boot = s.boot

theorem State.CalAgree.trans {s t u : State} (h : s.CalAgree t) (k : t.CalAgree u) : s.CalAgree u :=
  ⟨fun a ha => (k.reg a ha).trans (h.reg a ha), k.cur.trans h.cur, k.tick.trans h.tick, k.lany.trans h.lany,
    k.chans.trans h.chans, k.strands.trans h.strands, k.mram.trans h.mram, k.commit.trans h.commit,
    k.lastCommit.trans h.lastCommit, k.boot.trans h.boot⟩

theorem State.calAgree_wr (s : State) {f : Field} {i : Nat} (v : Nat) (hf : ¬ outsideLog (f.addr i)) :
    s.CalAgree (s.wr f i v) :=
  ⟨fun _ ha => s.reg_wr_other f i v fun h => hf (h ▸ ha), rfl, rfl, rfl, rfl, rfl, rfl, rfl, rfl, rfl⟩

theorem State.calAgree_noteRaised (s : State) (a : Nat) (w : Word) : s.CalAgree (s.noteRaised a w) :=
  ⟨fun _ _ => rfl, rfl, rfl, rfl, rfl, rfl, rfl, rfl, rfl, rfl⟩

theorem LogSt.add_cur (l : LogSt) (r : LogRec) : (l.add r).1.cur = l.cur := by
  unfold LogSt.add
  dsimp only
  split
  · rfl
  · split <;> rfl

theorem State.calAgree_log (s : State) {l : LogSt} (h : l.cur = s.log.cur) : s.CalAgree { s with log := l } :=
  ⟨fun _ _ => rfl, h, rfl, rfl, rfl, rfl, rfl, rfl, rfl, rfl⟩

section
variable (s : State) (code a0 a1 a2 a3 : Nat)

theorem State.calAgree_log_ (island : Nat) (set : Bool) (t : Time) :
    s.CalAgree (s.log_ code island set a0 a1 a2 a3 t) := by
  have ring := s.calAgree_log (LogSt.add_cur s.log ⟨t, s.log.next, code, island, set, a0, a1, a2, a3⟩)
  unfold State.log_
  dsimp only
  split
  · exact ring.trans (State.calAgree_wr _ _ (by decide))
  · exact ((ring.trans (State.calAgree_wr _ _ (by decide))).trans (State.calAgree_wr _ _ (by decide))).trans
      (State.calAgree_noteRaised ..)

@[simp] theorem State.acc_log_ (island : Nat) (set : Bool) (t : Time) :
    (s.log_ code island set a0 a1 a2 a3 t).acc = s.acc := by
  unfold State.log_
  dsimp only
  split <;> rfl

/-- A record of the fold island, where GAPCAL lies, is stamped with the tick. -/
theorem State.logBy_fold (who : Nat) : s.logBy who code 1 a0 a1 a2 a3 = s.log_ code 1 true a0 a1 a2 a3 s.stamp := rfl

end

namespace State.CalAgree
variable {s t : State} (h : s.CalAgree t)
include h

theorem rd (f : Field) (i : Nat) (hf : outsideLog (f.addr i)) : t.rd f i = s.rd f i := congrArg f.read (h.reg _ hf)

theorem on (f : Field) (i : Nat) (hf : outsideLog (f.addr i)) : t.on f i = s.on f i := State.on_of_reg (h.reg _ hf)

theorem chan (ch : Nat) : t.chan ch = s.chan ch := by simp only [State.chan, h.chans]

theorem strand (i : Nat) : t.strand i = s.strand i := by simp only [State.strand, h.strands]

theorem stamp : t.stamp = s.stamp := by simp only [State.stamp, h.lany]

theorem commitFree : t.commitFree = s.commitFree := by
  unfold State.commitFree
  rw [h.commit, h.cur, h.rd Reg.SAFETY_FAULT_F 0 (.inl (by decide)), h.lastCommit, h.tick]

theorem strandOf (ch : Nat) : t.strandOf ch = s.strandOf ch := by
  unfold State.strandOf
  rw [h.on _ _ (outsideLog_hitch ch), h.rd Reg.FC_HITCH_STRAND _ (outsideLog_hitch ch)]

theorem runs (i : Nat) : t.runs i = s.runs i := by
  unfold State.runs State.sstate
  rw [h.rd _ _ (.inr (by simp only [Field.addr, Reg.STRAND_STAT_STATE]; omega))]

theorem hitched (i : Nat) : t.hitched i = s.hitched i := by
  simp only [State.hitched, h.on _ _ (outsideLog_hitch _), h.rd Reg.FC_HITCH_STRAND _ (outsideLog_hitch _)]

theorem gapCommitAt (i x : Nat) : t.gapCommitAt i x = s.gapCommitAt i x := by
  simp only [State.gapCommitAt, h.hitched, h.chan]

theorem vsel : t.vsel = s.vsel := by
  unfold State.vsel
  rw [h.rd _ _ (.inr (by decide)), h.rd Reg.GAPCAL_VSEL_CODE _ (.inr (by decide))]

end State.CalAgree

/-! ### Writes of GAPCAL_CMD and of the HELD windows -/

/-- A command register or window of GAPCAL that the calibration class locks (Table 18.6). -/
structure Hit.CalReg (h : Hit) : Prop where
  grp : h.grp = .gapcal
  island : h.island = .fold
  keeps : h.keeps = true
  lockClass : h.lockClass = .calibration
  noW1c : ∀ f ∈ h.fields, f.acc ≠ .w1c

/-- The register at `a` is `h`, and a write of `v` from `src`, not late in its clock, carries a locked field. -/
structure State.CalWrite (s : State) (src : Source) (h : Hit) (a : Nat) (v : Word) : Prop where
  up : 3 ≤ s.mode
  awake : s.mode ≠ 7
  calReg : h.CalReg
  found : lookup a = some h
  carries : (h.fields.any fun f => f.counts h.mixed (s.reg a) v) = true
  inTime : h.off < 0x44 ∨ s.notLate src a

/-- R17 and R27 leave a write of such a register whole: it has no W1C fields and stores no word. -/
theorem State.acting_of_calReg (s : State) {h : Hit} (hc : h.CalReg) (rank a : Nat) (v : Word) :
    s.acting rank h a v = v := by
  have noW1c := hc.noW1c
  unfold State.acting
  generalize h.fields = fs at noW1c
  induction fs with
  | nil => rfl
  | cons f fs ih =>
    have rest := ih fun g hg => noW1c g (List.mem_cons_of_mem _ hg)
    rw [List.foldl_cons]
    cases hacc : f.acc with
    | w1c => exact absurd hacc (noW1c f List.mem_cons_self)
    | _ => simpa [hc.keeps] using rest

theorem State.written_of_keeps (s : State) {h : Hit} (hk : h.keeps = true) (free : Bool) (a : Nat) (v : Word) :
    s.written free h a v = s.reg a := by
  simp [State.written, hk]

/-- An answer given and a register's own word stored in it. -/
theorem State.reg_rewrite (s : State) (c : AccCode) (a b : Nat) :
    (({ s with acc := c } : State).setReg a (s.reg a)).reg b = s.reg b := by
  rw [State.reg_setReg]
  split
  · rename_i hb; rw [hb]
  · rfl

theorem State.calAgree_rewrite (s : State) (c : AccCode) (a : Nat) :
    s.CalAgree (({ s with acc := c } : State).setReg a (s.reg a)) :=
  ⟨fun b _ => s.reg_rewrite c a b, rfl, rfl, rfl, rfl, rfl, rfl, rfl, rfl, rfl⟩

section
variable {s : State} {src : Source} {h : Hit} {a : Nat} {v : Word}

theorem State.writeReg_of_calWrite (hw : s.CalWrite src h a v) :
    s.writeReg src a v = (s.writeHit (srcNumber src) false h a v v).noteWrite src a := by
  have notGated : s.gated h true = false := by
    rw [s.gated_eq_inWatch (.inl hw.calReg.island)]; simp [State.inWatch, hw.awake]
  have notLate : ¬ (h.grp = .gapcal && 0x44 ≤ h.off && srcRank src < s.wrote.getD a 0) = true := by
    have := hw.inTime
    simp only [State.notLate] at this
    simp only [Bool.and_eq_true, decide_eq_true_eq]
    omega
  unfold State.writeReg
  simp only [if_neg (Nat.not_lt.mpr hw.up), hw.found, notGated, s.acting_of_calReg hw.calReg, if_neg notLate]
  rfl

@[simp] theorem State.noteWrite_reg (s : State) (src : Source) (a b : Nat) : (s.noteWrite src a).reg b = s.reg b := rfl
@[simp] theorem State.noteWrite_acc (s : State) (src : Source) (a : Nat) : (s.noteWrite src a).acc = s.acc := rfl
@[simp] theorem State.noteWrite_commit (s : State) (src : Source) (a : Nat) : (s.noteWrite src a).commit = s.commit := rfl

/-- The lock lets the write through: it is recorded, and what the register does follows on an unchanged store. -/
theorem State.writeReg_calOpen (hw : s.CalWrite src h a v) (hopen : s.classOpen .calibration = true) :
    ∃ u, s.CalAgree u ∧ u.acc = .ok ∧ s.writeReg src a v = (u.wrGapcal true h.off v).noteWrite src a := by
  let kept : State := ({ s with acc := .ok } : State).setReg a (s.reg a)
  have hkept : s.CalAgree kept := s.calAgree_rewrite .ok a
  refine ⟨kept.log_ 0x81 1 true a v.toNat (srcNumber src) 0 kept.stamp, hkept.trans (kept.calAgree_log_ ..),
    kept.acc_log_ .., ?_⟩
  have isl : h.islandNo = 1 := by rw [Hit.islandNo, hw.calReg.island]
  rw [State.writeReg_of_calWrite hw]
  unfold State.writeHit
  simp only [hw.carries, hw.calReg.lockClass, hopen, State.written_of_keeps _ hw.calReg.keeps, isl, State.logBy_fold,
    State.writeEffect, hw.calReg.grp]
  rfl

end

/-! ### The beginning of a commit (R180, R181, R420) -/

/-- When a commit may begin (R181, R420; of a freeze, log entry 30). -/
def State.MayBegin (s : State) : Prop :=
  s.commit = none ∧ s.log.cur = none ∧ s.rd Reg.SAFETY_FAULT_F 0 = 0
    ∧ ∀ x : Int, s.lastCommit = some x → x + (120000000000 : Nat) ≤ s.tick

/-- `t` is `s` with a commit begun: the held values and the stamp are those of this clock (R180). -/
def State.Begun (s t : State) : Prop :=
  t.on Reg.GAPCAL_STAT_COMMIT_BUSY 0 = true ∧ t.lastCommit = some (s.tick : Int) ∧ t.mram = s.mram
    ∧ ∃ c, t.commit = some c ∧ c.count = s.rd Reg.GAPCAL_COMMIT_N_N 0 + 1 ∧ c.attempt = 1 ∧ c.tCommit = s.stamp
        ∧ ∀ ch, ch < 192 → nth c.vals ch ([], [], 0) = ((s.chan ch).hOff, (s.chan ch).hGain, (s.chan ch).hSkew)

theorem State.commitFree_iff (s : State) : s.commitFree = true ↔ s.MayBegin := by
  unfold State.commitFree State.MayBegin
  cases s.lastCommit with
  | none => simp [and_assoc]
  | some x =>
    simp only [Bool.and_eq_true, Option.isNone_iff_eq_none, decide_eq_true_eq, and_assoc, Option.some.injEq, forall_eq']
    rfl

theorem nth_map_range {α : Type} (f : Nat → α) {n i : Nat} (d : α) (h : i < n) : nth ((List.range n).map f) i d = f i := by
  simp [nth, h]

theorem nth_set_self {α : Type} {l : List α} {i : Nat} {x d : α} (h : i < l.length) : nth (l.set i x) i d = x := by
  simp [nth, h]

theorem State.begun_beginCommit (s : State) : s.Begun s.beginCommit :=
  ⟨State.on_put_same _ _ _ _ (by decide), rfl, rfl, _, rfl, rfl, rfl, rfl, fun _ hch => nth_map_range _ _ hch⟩

theorem State.CalAgree.begun {s u t : State} (h : s.CalAgree u) (hb : u.Begun t) : s.Begun t := by
  unfold State.Begun at *
  simpa only [h.tick, h.mram, h.stamp, h.chan, h.rd Reg.GAPCAL_COMMIT_N_N 0 (.inr (by decide))] using hb

/-- The register of GAPCAL_CMD (Table 7.6). -/
def commitHit : Hit := ⟨.gapcal, 0, 0x0C, 0, .fold, [⟨13, 8, .wo, 0⟩, ⟨2, 2, .rwl, 0⟩, ⟨0, 0, .wo, 0⟩]⟩

theorem commitHit_calReg : commitHit.CalReg := ⟨rfl, rfl, rfl, rfl, by decide⟩

section
variable {s : State} (src : Source)

theorem State.calWrite_commit (hup : 3 ≤ s.mode) (hawake : s.mode ≠ 7) :
    s.CalWrite src commitHit (Reg.GAPCAL_CMD_COMMIT.addr 0) 4 :=
  ⟨hup, hawake, commitHit_calReg, by decide, rfl, .inl (by decide)⟩

/-- COMMIT that the lock lets through. -/
theorem exec_commit_open (hup : 3 ≤ s.mode) (hawake : s.mode ≠ 7) (hopen : s.classOpen .calibration = true) :
    ∃ u, s.CalAgree u ∧ u.acc = .ok
      ∧ exec (.gapcalCmdCommit src) s = .next (u.commitCmd.noteWrite src (Reg.GAPCAL_CMD_COMMIT.addr 0)) := by
  obtain ⟨u, agree, hacc, hwrite⟩ := State.writeReg_calOpen (State.calWrite_commit src hup hawake) hopen
  exact ⟨u, agree, hacc, congrArg Host.Outcome.next hwrite⟩

/-- COMMIT that the lock holds back. -/
theorem exec_commit_locked (hup : 3 ≤ s.mode) (hawake : s.mode ≠ 7) (hclosed : s.classOpen .calibration = false) :
    ∃ t, exec (.gapcalCmdCommit src) s = .next t ∧ t.acc = .locked ∧ t.commit = s.commit ∧ ∀ a, t.reg a = s.reg a := by
  let a := Reg.GAPCAL_CMD_COMMIT.addr 0
  let kept : State := ({ s with acc := .ok } : State).setReg a (s.reg a)
  have hw := State.calWrite_commit src hup hawake
  have hwrite : s.writeReg src a 4 = ({ kept with acc := .locked } : State).noteWrite src a := by
    rw [State.writeReg_of_calWrite hw]
    unfold State.writeHit
    simp only [hw.carries, hw.calReg.lockClass, hclosed, State.written_of_keeps _ hw.calReg.keeps]
    rfl
  exact ⟨_, congrArg Host.Outcome.next hwrite, rfl, rfl, s.reg_rewrite .ok a⟩

theorem exec_commit_begins (hup : 3 ≤ s.mode) (hawake : s.mode ≠ 7) (hopen : s.classOpen .calibration = true)
    (hmay : s.MayBegin) : ∃ t, exec (.gapcalCmdCommit src) s = .next t ∧ t.acc = .ok ∧ s.Begun t := by
  obtain ⟨u, agree, hacc, hexec⟩ := exec_commit_open src hup hawake hopen
  have hfree : u.commitFree = true := by rw [agree.commitFree, s.commitFree_iff]; exact hmay
  rw [State.commitCmd, if_pos hfree] at hexec
  exact ⟨_, hexec, hacc, agree.begun u.begun_beginCommit⟩

theorem exec_commit_waits (hup : 3 ≤ s.mode) (hawake : s.mode ≠ 7) (hopen : s.classOpen .calibration = true)
    (hnot : ¬ s.MayBegin) : ∃ t, exec (.gapcalCmdCommit src) s = .next t ∧ t.acc = .ok ∧ t.commit = s.commit
      ∧ t.on Reg.GAPCAL_STAT_COMMIT_WAIT 0 = true := by
  obtain ⟨u, agree, hacc, hexec⟩ := exec_commit_open src hup hawake hopen
  have hbusy : ¬ u.commitFree = true := by rw [agree.commitFree, s.commitFree_iff]; exact hnot
  rw [State.commitCmd, if_neg hbusy] at hexec
  refine ⟨_, hexec, ?_, ?_, ?_⟩
  · rw [State.noteWrite_acc, State.raise_acc, hacc]
  · rw [State.noteWrite_commit, State.raise_commit, agree.commit]
  · rw [State.on_of_reg (State.noteWrite_reg ..)]; exact u.on_raise_same _ 0 (by decide)

end

/-- When the automatic commit is due (R181). -/
def State.AutoDue (s : State) : Prop :=
  s.rd Reg.GAPCAL_AUTO_HOURS 0 ≠ 0
    ∧ (s.lastCommit.getD 0).toNat + s.rd Reg.GAPCAL_AUTO_HOURS 0 * (6 * 120000000000) ≤ s.tick ∧ s.MayBegin

theorem State.autoDue_iff (s : State) : (s.rd Reg.GAPCAL_AUTO_HOURS 0 != 0 && (s.lastCommit.getD 0).toNat
    + s.rd Reg.GAPCAL_AUTO_HOURS 0 * 6 * tenMinutes ≤ s.tick && s.commitFree) = true ↔ s.AutoDue := by
  simp only [Bool.and_eq_true, bne_iff_ne, decide_eq_true_eq, s.commitFree_iff, State.AutoDue, and_assoc, Nat.mul_assoc,
    tenMinutes]

theorem exec_autoCommit_of_due {s : State} (h : s.AutoDue) : exec .autoCommit s = .next s.beginCommit :=
  congrArg Host.Outcome.next (if_pos (s.autoDue_iff.mpr h))

theorem exec_autoCommit_of_not_due {s : State} (h : ¬ s.AutoDue) : exec .autoCommit s = .next s :=
  congrArg Host.Outcome.next (if_neg fun due => h (s.autoDue_iff.mp due))

/-! ### An attempt of a commit (R182) -/

theorem CalCopy.valid_eq_false {c : CalCopy} (h : c.head.crc ≠ crc32 (c.bytes 0)) : c.valid = false := by
  simp only [CalCopy.valid, decide_eq_false h, Bool.and_false]

theorem PcCopy.valid_eq_false {c : PcCopy} (h : c.head.crc ≠ crc32 (c.bytes 0)) : c.valid = false := by
  simp only [PcCopy.valid, decide_eq_false h, Bool.and_false]

/-- The CRC of a copy that was not written well is not the one it should be. -/
theorem State.crc_badCrc_ne (s : State) (h : CopyHead) : (s.badCrc h).1.crc ≠ h.crc := by
  unfold State.badCrc
  dsimp only
  split
  · intro e
    have bit := congrArg (·.getLsbD 0) e
    simp at bit
  · assumption

/-- A copy that reads back well is the one written, and one that does not is not valid. -/
theorem State.wroteCal_spec (s : State) (ok : Bool) (count : Nat) (t : Time) (vals : List (List Int × List Int × Int)) :
    let x := CalCopy.written count t vals
    (ok = true → (s.wroteCal ok x).1 = x) ∧ (ok = false → (s.wroteCal ok x).1.valid = false) := by
  refine ⟨fun h => by rw [h]; rfl, fun h => ?_⟩
  subst h
  exact CalCopy.valid_eq_false (s.crc_badCrc_ne (CalCopy.written count t vals).head)

theorem State.wrotePc_spec (s : State) (ok : Bool) (count : Nat) (t : Time) (cals : List PcCal) (rint kref : Nat) :
    let x := PcCopy.written count t cals rint kref
    (ok = true → (s.wrotePc ok x).1 = x) ∧ (ok = false → (s.wrotePc ok x).1.valid = false) := by
  refine ⟨fun h => by rw [h]; rfl, fun h => ?_⟩
  subst h
  exact PcCopy.valid_eq_false (s.crc_badCrc_ne (PcCopy.written count t cals rint kref).head)

/-- `s` with the model's counter of free values at `n` (log entry 2). -/
def State.drawn (n : Nat) (s : State) : State := { s with free := n }

/-- Writing a copy changes nothing else but the model's counter of free values. -/
theorem State.wroteCal_snd (s : State) (ok : Bool) (x : CalCopy) : ∃ n, (s.wroteCal ok x).2 = s.drawn n := by
  cases ok
  · exact ⟨s.free + 1, rfl⟩
  · exact ⟨s.free, rfl⟩

theorem State.wrotePc_snd (s : State) (ok : Bool) (x : PcCopy) : ∃ n, (s.wrotePc ok x).2 = s.drawn n := by
  cases ok
  · exact ⟨s.free + 1, rfl⟩
  · exact ⟨s.free, rfl⟩

/-- What an attempt leaves in the two copies of a set, whose written form is `x`. -/
structure CopiesWritten {α : Type} (valid : α → Bool) (x : α) (ok0 ok1 : Bool) (y0 y1 : α) : Prop where
  well0 : ok0 = true → y0 = x
  well1 : ok1 = true → y1 = x
  bad0 : ok0 = false → valid y0 = false
  bad1 : ok1 = false → valid y1 = false

/-! ### The end of a commit (R182) -/

section
variable (s : State) (ok : Bool) (c : Commit2)

theorem State.calAgree_logNow_fold (code a0 a1 a2 a3 : Nat) : s.CalAgree (s.logNow code 1 a0 a1 a2 a3) :=
  s.calAgree_log_ code a0 a1 a2 a3 1 true s.stamp

theorem State.reg_setPair_other (f : Field) (i : Nat) (x : Time) {a : Nat} (h : a ≠ f.addr i) (h4 : a ≠ f.addr i + 4) :
    (s.setPair f i x).reg a = s.reg a :=
  (State.reg_setReg_other _ _ h4).trans (State.reg_setReg_other _ _ h)

/-- A commit is over: BUSY falls, and its number and time are shown. -/
def State.closeCommit (s : State) (c : Commit2) : State :=
  let s := { s with commit := none }
  ((s.put Reg.GAPCAL_STAT_COMMIT_BUSY 0 false).wr Reg.GAPCAL_COMMIT_N_N 0 c.count).setPair Reg.GAPCAL_COMMIT_T_LO_T 0 c.tCommit

/-- A commit ends, `ok` or with FAIL (R182), and is recorded. -/
def State.endCommit (s : State) (ok : Bool) (c : Commit2) : State :=
  (if ok then s.closeCommit c else (s.closeCommit c).raise Reg.GAPCAL_STAT_COMMIT_FAIL 0).logNow 0x32 1 c.count
    (if ok then 0 else 1) 0 0

theorem State.rd_commitN_closeCommit : (s.closeCommit c).rd Reg.GAPCAL_COMMIT_N_N 0 = c.count % 2 ^ 32 := by
  rw [State.closeCommit, State.rd, State.reg_setPair_other _ _ _ _ (by decide) (by decide)]
  exact State.rd_wr_same _ _ _ _ (by decide)

theorem State.reg_stat_closeCommit : (s.closeCommit c).reg (Reg.GAPCAL_STAT_COMMIT_BUSY.addr 0)
    = (s.put Reg.GAPCAL_STAT_COMMIT_BUSY 0 false).reg (Reg.GAPCAL_STAT_COMMIT_BUSY.addr 0) := by
  rw [State.closeCommit, State.reg_setPair_other _ _ _ _ (by decide) (by decide), State.reg_wr_other _ _ _ _ (by decide)]
  rfl

theorem State.on_busy_closeCommit : (s.closeCommit c).on Reg.GAPCAL_STAT_COMMIT_BUSY 0 = false :=
  (State.on_of_reg (s.reg_stat_closeCommit c)).trans (s.on_put_same _ _ _ (by decide))

theorem State.on_fail_closeCommit :
    (s.closeCommit c).on Reg.GAPCAL_STAT_COMMIT_FAIL 0 = s.on Reg.GAPCAL_STAT_COMMIT_FAIL 0 :=
  (State.on_of_reg (f := Reg.GAPCAL_STAT_COMMIT_FAIL) (s.reg_stat_closeCommit c)).trans
    (s.on_put_apart _ _ _ _ _ (by decide) (by decide))

/-- All of the end of a commit but its log record. -/
theorem State.calAgree_endCommit : (if ok then s.closeCommit c else
    (s.closeCommit c).raise Reg.GAPCAL_STAT_COMMIT_FAIL 0).CalAgree (s.endCommit ok c) := State.calAgree_logNow_fold ..

theorem State.commit_endCommit : (s.endCommit ok c).commit = none := by
  rw [(s.calAgree_endCommit ok c).commit]
  split
  · rfl
  · exact State.raise_commit ..

theorem State.mram_endCommit : (s.endCommit ok c).mram = s.mram := by
  rw [(s.calAgree_endCommit ok c).mram]
  split
  · rfl
  · exact State.raise_mram ..

theorem State.rd_commitN_endCommit : (s.endCommit ok c).rd Reg.GAPCAL_COMMIT_N_N 0 = c.count % 2 ^ 32 := by
  rw [(s.calAgree_endCommit ok c).rd _ _ (.inr (by decide)), ← s.rd_commitN_closeCommit c]
  split
  · rfl
  · exact State.rd_raise_other _ _ _ _ _ (by decide)

theorem State.on_busy_endCommit : (s.endCommit ok c).on Reg.GAPCAL_STAT_COMMIT_BUSY 0 = false := by
  rw [(s.calAgree_endCommit ok c).on _ _ (.inr (by decide)), ← s.on_busy_closeCommit c]
  split
  · rfl
  · exact State.on_raise_apart _ _ _ _ _ (by decide) (by decide)

theorem State.on_fail_endCommit :
    (s.endCommit ok c).on Reg.GAPCAL_STAT_COMMIT_FAIL 0 = (s.on Reg.GAPCAL_STAT_COMMIT_FAIL 0 || !ok) := by
  rw [(s.calAgree_endCommit ok c).on _ _ (.inr (by decide)), ← s.on_fail_closeCommit c]
  cases ok
  · exact (State.on_raise_same _ _ _ (by decide)).trans (Bool.or_true _).symm
  · exact (Bool.or_false _).symm

end

/-! ### Repetition of an attempt (R182) -/

/-- `s` once an attempt has written the copies in `m`. -/
def State.withCopies (n : Nat) (m : Mram) (s : State) : State := { s with free := n, mram := m }

/-- An attempt writes the copies; then a first one that failed is repeated, and any other ends the commit (R182). -/
theorem execCommitAttemptEnd_eq {s : State} {c : Commit2} (hc : s.commit = some c) (a b pa pb : Bool) :
    ∃ n m, CopiesWritten CalCopy.valid c.cal a b m.cal0 m.cal1 ∧ CopiesWritten PcCopy.valid (c.pc s) pa pb m.pc0 m.pc1
      ∧ execCommitAttemptEnd a b pa pb s = .next (if !(a && b && pa && pb) && c.attempt = 1 then
          { s.withCopies n m with commit := some { c with attempt := 2 } }
        else (s.withCopies n m).endCommit (a && b && pa && pb) c) := by
  obtain ⟨n1, h1⟩ := s.wroteCal_snd a c.cal
  obtain ⟨n2, h2⟩ := (s.drawn n1).wroteCal_snd b c.cal
  obtain ⟨n3, h3⟩ := (s.drawn n2).wrotePc_snd pa (c.pc s)
  obtain ⟨n4, h4⟩ := (s.drawn n3).wrotePc_snd pb (c.pc s)
  have w1 := s.wroteCal_spec a c.count c.tCommit c.vals
  have w2 := (s.drawn n1).wroteCal_spec b c.count c.tCommit c.vals
  have w3 := (s.drawn n2).wrotePc_spec pa c.pcCount c.tCommit c.cals (s.pc 0).rint (s.pc 0).kref
  have w4 := (s.drawn n3).wrotePc_spec pb c.pcCount c.tCommit c.cals (s.pc 0).rint (s.pc 0).kref
  refine ⟨n4, { s.mram with
    cal0 := (s.wroteCal a c.cal).1, cal1 := ((s.drawn n1).wroteCal b c.cal).1,
    pc0 := ((s.drawn n2).wrotePc pa (c.pc s)).1,
    pc1 := ((s.drawn n3).wrotePc pb (c.pc s)).1 },
    ⟨w1.1, w2.1, w1.2, w2.2⟩, ⟨w3.1, w4.1, w3.2, w4.2⟩, ?_⟩
  have hpc (n : Nat) : c.pc (s.drawn n) = c.pc s := rfl
  have drawn (n k : Nat) : (s.drawn n).drawn k = s.drawn k := rfl
  unfold execCommitAttemptEnd
  simp only [hc, h1, h2, hpc, h3, h4, drawn]
  rfl

section
variable {s : State} {c : Commit2} {a b pa pb : Bool}

/-- A first attempt of which a copy failed is repeated (R182). -/
theorem exec_attempt_repeats (hc : s.commit = some c) (hagain : (a && b && pa && pb) = false ∧ c.attempt = 1) :
    ∃ t, exec (.commitAttemptEnd a b pa pb) s = .next t ∧ CopiesWritten CalCopy.valid c.cal a b t.mram.cal0 t.mram.cal1
      ∧ CopiesWritten PcCopy.valid (c.pc s) pa pb t.mram.pc0 t.mram.pc1
      ∧ t.commit = some { c with attempt := 2 } ∧ t.regs = s.regs := by
  obtain ⟨n, m, cal, pc, hexec⟩ := execCommitAttemptEnd_eq hc a b pa pb
  rw [if_pos (by simp [hagain])] at hexec
  exact ⟨_, hexec, cal, pc, rfl, rfl⟩

/-- An attempt that went well, or a second one, ends the commit; a second failure sets COMMIT_FAIL (R182). -/
theorem exec_attempt_ends (hc : s.commit = some c) (hend : ¬ ((a && b && pa && pb) = false ∧ c.attempt = 1)) :
    ∃ t, exec (.commitAttemptEnd a b pa pb) s = .next t ∧ CopiesWritten CalCopy.valid c.cal a b t.mram.cal0 t.mram.cal1
      ∧ CopiesWritten PcCopy.valid (c.pc s) pa pb t.mram.pc0 t.mram.pc1
      ∧ t.commit = none ∧ t.on Reg.GAPCAL_STAT_COMMIT_BUSY 0 = false ∧ t.rd Reg.GAPCAL_COMMIT_N_N 0 = c.count % 2 ^ 32
      ∧ t.on Reg.GAPCAL_STAT_COMMIT_FAIL 0 = (s.on Reg.GAPCAL_STAT_COMMIT_FAIL 0 || !(a && b && pa && pb)) := by
  obtain ⟨n, m, cal, pc, hexec⟩ := execCommitAttemptEnd_eq hc a b pa pb
  have last : ¬ (!(a && b && pa && pb) && c.attempt = 1) = true := by
    rwa [Bool.and_eq_true, Bool.not_eq_true', decide_eq_true_eq]
  rw [if_neg last] at hexec
  refine ⟨_, hexec, ?_, ?_, State.commit_endCommit .., State.on_busy_endCommit .., State.rd_commitN_endCommit ..,
    State.on_fail_endCommit ..⟩
  · rwa [State.mram_endCommit]
  · rwa [State.mram_endCommit]

end

/-! ### HELD writes (R177) -/

/-- The channel's held value of a code, or its skew (code 13), replaced. -/
def ChanRt.setHeld (c : ChanRt) (code : Nat) (gain : Bool) (v : Int) : ChanRt :=
  if code = 13 then { c with hSkew := v } else if gain then { c with hGain := c.hGain.set code v }
  else { c with hOff := c.hOff.set code v }

/-- The channel's working value of a code, or its skew (code 13), replaced. -/
def ChanRt.setWork (c : ChanRt) (d : Nat × Bool × Int) : ChanRt :=
  if d.1 = 13 then { c with wSkew := d.2.2 } else if d.2.1 then { c with wGain := c.wGain.set d.1 d.2.2 }
  else { c with wOff := c.wOff.set d.1 d.2.2 }

/-- Two channels hold the same held values. -/
def ChanRt.SameHeld (c d : ChanRt) : Prop := d.hOff = c.hOff ∧ d.hGain = c.hGain ∧ d.hSkew = c.hSkew

/-- Two channels hold the same working values. -/
def ChanRt.SameWork (c d : ChanRt) : Prop := d.wOff = c.wOff ∧ d.wGain = c.wGain ∧ d.wSkew = c.wSkew

theorem ChanRt.sameWork_setHeld (c : ChanRt) (code : Nat) (gain : Bool) (v : Int) : c.SameWork (c.setHeld code gain v) := by
  unfold ChanRt.setHeld
  split
  · exact ⟨rfl, rfl, rfl⟩
  · split <;> exact ⟨rfl, rfl, rfl⟩

theorem ChanRt.deferred_setHeld (c : ChanRt) (code : Nat) (gain : Bool) (v : Int) :
    (c.setHeld code gain v).deferred = c.deferred := by
  unfold ChanRt.setHeld
  split
  · rfl
  · split <;> rfl

theorem ChanRt.sameHeld_setWork (c : ChanRt) (d : Nat × Bool × Int) : c.SameHeld (c.setWork d) := by
  unfold ChanRt.setWork
  split
  · exact ⟨rfl, rfl, rfl⟩
  · split <;> exact ⟨rfl, rfl, rfl⟩

theorem ChanRt.SameHeld.trans {c d e : ChanRt} (h : c.SameHeld d) (k : d.SameHeld e) : c.SameHeld e :=
  ⟨k.1.trans h.1, k.2.1.trans h.2.1, k.2.2.trans h.2.2⟩

theorem ChanRt.sameHeld_foldl_setWork (l : List (Nat × Bool × Int)) (c : ChanRt) :
    c.SameHeld (l.foldl ChanRt.setWork c) := by
  induction l generalizing c with
  | nil => exact ⟨rfl, rfl, rfl⟩
  | cons d l ih => exact (c.sameHeld_setWork d).trans (ih (c.setWork d))

section
variable {s : State} {ch : Nat}

theorem State.applyDeferred_eq (s : State) (ch : Nat) : s.applyDeferred ch
    = s.setChan ch ((s.chan ch).deferred.foldl ChanRt.setWork { s.chan ch with deferred := [] }) := rfl

theorem State.gapCommit_of_not_due {i : Nat} (h : ∀ x, (s.strand i).gapRun = some x → s.tick < s.gapCommitAt i x) :
    s.gapCommit i = s := by
  unfold State.gapCommit
  split
  · rfl
  · rename_i x hx; exact if_pos (h x hx)

theorem State.dueCommit_of_none_due (hstart : s.boot.startCal = none)
    (hrun : ∀ i x, s.strandOf ch = some i → (s.strand i).gapRun = some x → s.tick < s.gapCommitAt i x) :
    s.dueCommit ch = s := by
  unfold State.dueCommit
  cases hs : s.strandOf ch with
  | none => simp only [hstart]
  | some i => simp only [State.gapCommit_of_not_due fun x => hrun i x hs, hstart]

/-- What a HELD write does to its channel while no commit is due, and to no other. -/
structure State.HeldWritten (s t : State) (ch code : Nat) (gain : Bool) (v : Int) : Prop where
  held : ((s.chan ch).setHeld code gain v).SameHeld (t.chan ch)
  working : (∀ i, s.strandOf ch = some i → s.runs i = false) → (s.chan ch).deferred = [] →
    ((s.chan ch).setWork (code, gain, v)).SameWork (t.chan ch)
  running : ∀ i, s.strandOf ch = some i → s.runs i = true → (s.chan ch).SameWork (t.chan ch)
  others : ∀ e, e ≠ ch → t.chan e = s.chan e

theorem ChanRt.sameWork_setWork {c d : ChanRt} (h : c.SameWork d) (w : Nat × Bool × Int) :
    (c.setWork w).SameWork (d.setWork w) := by
  obtain ⟨hOff, hGain, hSkew⟩ := h
  unfold ChanRt.setWork ChanRt.SameWork
  split
  · exact ⟨hOff, hGain, rfl⟩
  · split
    · exact ⟨hOff, by rw [hGain], hSkew⟩
    · exact ⟨by rw [hOff], hGain, hSkew⟩

/-- The channel as a HELD write leaves it before its working value follows. -/
def ChanRt.heldPending (c : ChanRt) (code : Nat) (gain : Bool) (v : Int) : ChanRt :=
  { c.setHeld code gain v with deferred := c.deferred ++ [(code, gain, v)] }

theorem State.heldWrite_eq (hdue : s.dueCommit ch = s) (code : Nat) (gain : Bool) (v : Int) :
    s.heldWrite ch code gain v =
      let t := s.setChan ch ((s.chan ch).heldPending code gain v)
      if (s.strandOf ch).any s.runs then t else t.applyDeferred ch := by
  have pending : ({ (s.chan ch).setHeld code gain v with
      deferred := ((s.chan ch).setHeld code gain v).deferred ++ [(code, gain, v)] } : ChanRt)
      = (s.chan ch).heldPending code gain v := by rw [ChanRt.deferred_setHeld]; rfl
  unfold State.heldWrite
  rw [hdue, ← pending]
  rfl

theorem State.acc_heldWrite (hdue : s.dueCommit ch = s) (code : Nat) (gain : Bool) (v : Int) :
    (s.heldWrite ch code gain v).acc = s.acc := by
  rw [State.heldWrite_eq hdue]
  dsimp only
  split <;> rfl

theorem State.heldWritten_heldWrite (hdue : s.dueCommit ch = s) (code : Nat) (gain : Bool) (v : Int) :
    s.HeldWritten (s.heldWrite ch code gain v) ch code gain v := by
  have work : (s.chan ch).SameWork ((s.chan ch).heldPending code gain v) := (s.chan ch).sameWork_setHeld code gain v
  rw [State.heldWrite_eq hdue]
  by_cases hruns : (s.strandOf ch).any s.runs = true
  · simp only [if_pos hruns]
    obtain ⟨i, hi, hr⟩ := (Option.any_eq_true _ _).mp hruns
    refine ⟨?_, fun hstop => ?_, fun _ _ _ => ?_, fun e he => s.setChan_other _ he⟩
    · rw [State.setChan_same]; exact ⟨rfl, rfl, rfl⟩
    · exact absurd (hr.symm.trans (hstop i hi)) Bool.noConfusion
    · rwa [State.setChan_same]
  · simp only [if_neg hruns]
    rw [State.applyDeferred_eq, State.setChan_same]
    refine ⟨?_, fun _ hnone => ?_, fun i hi hr => ?_, fun e he => ?_⟩
    · rw [State.setChan_same]
      exact ChanRt.SameHeld.trans ⟨rfl, rfl, rfl⟩ (ChanRt.sameHeld_foldl_setWork _ _)
    · have one : ((s.chan ch).heldPending code gain v).deferred = [(code, gain, v)] := by
        rw [ChanRt.heldPending, hnone]; rfl
      rw [State.setChan_same, one]
      refine ChanRt.sameWork_setWork ?_ (code, gain, v)
      exact work
    · exact absurd ((Option.any_eq_true _ _).mpr ⟨i, hi, hr⟩) hruns
    · rw [State.setChan_other _ _ he, State.setChan_other _ _ he]

theorem State.CalAgree.heldWritten {u t : State} (h : s.CalAgree u) {code : Nat} {gain : Bool} {v : Int}
    (hw : u.HeldWritten t ch code gain v) : s.HeldWritten t ch code gain v := by
  obtain ⟨held, working, running, others⟩ := hw
  simp only [h.chan, h.strandOf, h.runs] at held working running others
  exact ⟨held, working, running, others⟩

end

/-! ### The windows of GAPCAL_VSEL (Table 7.6) -/

/-- The registers of GAPCAL_VOFF, GAPCAL_VGAIN and GAPCAL_VSKEW. -/
def heldHit (w : BitVec 2) : Hit :=
  if w = 0 then ⟨.gapcal, 0, 0x44, 0, .fold, [⟨31, 16, .ro, 0⟩, ⟨15, 0, .rwl, 0⟩]⟩
  else if w = 1 then ⟨.gapcal, 0, 0x48, 0, .fold, [⟨23, 0, .rwl, 0⟩]⟩
  else ⟨.gapcal, 0, 0x50, 0, .fold, [⟨31, 16, .ro, 0⟩, ⟨15, 0, .rwl, 0⟩]⟩

/-- Their address. -/
def heldAddr (w : BitVec 2) : Nat := 0x18000 + (heldHit w).off

theorem heldWindow_cases {w : BitVec 2} (hw : w ≠ 3) : w = 0 ∨ w = 1 ∨ w = 2 := by
  revert w; decide

theorem heldHit_calReg {w : BitVec 2} (hw : w ≠ 3) : (heldHit w).CalReg := by
  rcases heldWindow_cases hw with rfl | rfl | rfl <;> exact ⟨rfl, rfl, rfl, rfl, by decide⟩

theorem lookup_heldAddr {w : BitVec 2} (hw : w ≠ 3) : lookup (heldAddr w) = some (heldHit w) := by
  rcases heldWindow_cases hw with rfl | rfl | rfl <;> decide

/-- The code a window writes: 13, the skew, for GAPCAL_VSKEW. -/
def heldCode (w : BitVec 2) (code : Nat) : Nat := if w = 2 then 13 else code

theorem heldCode_of_ne {w : BitVec 2} (hw : w ≠ 2) (code : Nat) : heldCode w code = code := if_neg hw

/-- The value a window takes from the word written. -/
def heldValue (w : BitVec 2) (v : Word) : Int := if w = 1 then wrapInt 24 v.toNat else wrapInt 16 v.toNat

section
variable {s : State}

theorem State.calWrite_held (src : Source) {w : BitVec 2} (hw : w ≠ 3) (v : Word) (hup : 3 ≤ s.mode) (hawake : s.mode ≠ 7)
    (hlate : ∀ a, s.notLate src a) : s.CalWrite src (heldHit w) (heldAddr w) v := by
  refine ⟨hup, hawake, heldHit_calReg hw, lookup_heldAddr hw, ?_, .inr (hlate _)⟩
  rcases heldWindow_cases hw with rfl | rfl | rfl <;> rfl

theorem State.vsel_eq (hch : s.rd Reg.GAPCAL_VSEL_CHAN 0 < 192) :
    s.vsel = some (s.rd Reg.GAPCAL_VSEL_CHAN 0, min 12 (s.rd Reg.GAPCAL_VSEL_CODE 0)) := by
  simp only [State.vsel, if_neg (Nat.not_le.mpr hch)]

theorem State.wrGapcal_held {w : BitVec 2} (hw : w ≠ 3) (v : Word) {ch code : Nat} (hsel : s.vsel = some (ch, code))
    (hrole : s.rd Reg.FC_HITCH_ROLE ch ≠ 8) :
    s.wrGapcal true (heldHit w).off v = s.heldWrite ch (heldCode w code) (w = 1) (heldValue w v) := by
  rcases heldWindow_cases hw with rfl | rfl | rfl
  · have offset : s.windowWrite 0 v = s.heldWrite ch code false (wrapInt 16 v.toNat) := by
      simp only [State.windowWrite, hsel]
    exact offset
  · have gain : s.windowWrite 1 v = s.heldWrite ch code true (wrapInt 24 v.toNat) := by
      simp only [State.windowWrite, hsel]
    exact gain
  · have skew : s.windowWrite 2 v = s.heldWrite ch 13 false (wrapInt 16 v.toNat) := by
      simp only [State.windowWrite, hsel, if_neg hrole]
    exact skew

/-- A HELD write that the lock lets through, while no commit is due. -/
theorem exec_calHeldWrite_open (src : Source) {w : BitVec 2} (hw : w ≠ 3) (v : Word) (hup : 3 ≤ s.mode)
    (hawake : s.mode ≠ 7) (hopen : s.classOpen .calibration = true) (hlate : ∀ a, s.notLate src a) {ch code : Nat}
    (hsel : s.vsel = some (ch, code)) (hrole : s.rd Reg.FC_HITCH_ROLE ch ≠ 8) (hdue : ∀ u, s.CalAgree u → u.dueCommit ch = u) :
    ∃ t, exec (.calHeldWrite src w v) s = .next t ∧ t.acc = .ok
      ∧ s.HeldWritten t ch (heldCode w code) (w = 1) (heldValue w v) := by
  obtain ⟨u, agree, hacc, hwrite⟩ := State.writeReg_calOpen (State.calWrite_held src hw v hup hawake hlate) hopen
  have hexec : exec (.calHeldWrite src w v) s = .next (s.writeReg src (heldAddr w) v) := by
    rcases heldWindow_cases hw with rfl | rfl | rfl <;> rfl
  have role : u.rd Reg.FC_HITCH_ROLE ch ≠ 8 := by
    rwa [agree.rd Reg.FC_HITCH_ROLE _ (outsideLog_hitch ch)]
  rw [State.wrGapcal_held hw v (agree.vsel.trans hsel) role] at hwrite
  have due := hdue u agree
  obtain ⟨held, working, running, others⟩ :=
    agree.heldWritten (State.heldWritten_heldWrite due (heldCode w code) (w = 1) (heldValue w v))
  exact ⟨_, hexec.trans (congrArg _ hwrite), (State.acc_heldWrite due ..).trans hacc, held, working, running, others⟩

end

/-! ### The obligation -/

/-- Settles O36: GAPCAL_CMD and the HELD windows are written on a store that the record of the write leaves alone; each attempt
writes the copies one after the other, and a CRC that is not the copy's own makes it invalid. -/
theorem calibrationStore : Obligations.CalibrationStore := by
  unfold Obligations.CalibrationStore
  refine ⟨?_, ?_, ?_, ?_, ?_, ?_⟩
  · exact fun src s hup hawake hopen => ⟨exec_commit_begins src hup hawake hopen, exec_commit_waits src hup hawake hopen⟩
  · exact fun src s hup hawake hclosed => exec_commit_locked src hup hawake hclosed
  · exact fun s => ⟨fun hdue => ⟨_, exec_autoCommit_of_due hdue, s.begun_beginCommit⟩, exec_autoCommit_of_not_due⟩
  · intro a b pa pb s c hc
    by_cases hagain : (a && b && pa && pb) = false ∧ c.attempt = 1
    · obtain ⟨t, hexec, cal, pc, hcommit, hregs⟩ := exec_attempt_repeats hc hagain
      refine ⟨t, hexec, cal.well0, cal.well1, pc.well0, pc.well1, cal.bad0, cal.bad1, pc.bad0, pc.bad1,
        fun _ _ => ⟨hcommit, hregs⟩, fun hend => ?_⟩
      rcases hend with hok | hlast
      · exact absurd (hok.symm.trans hagain.1) Bool.noConfusion
      · exact absurd hagain.2 hlast
    · obtain ⟨t, hexec, cal, pc, hended⟩ := exec_attempt_ends hc hagain
      exact ⟨t, hexec, cal.well0, cal.well1, pc.well0, pc.well1, cal.bad0, cal.bad1, pc.bad0, pc.bad1,
        fun hok hfirst => absurd ⟨hok, hfirst⟩ hagain, fun _ => hended⟩
  · intro a b pa pb s hnone
    simp only [exec_commitAttemptEnd, execCommitAttemptEnd, hnone]
  · intro src w v s hup hawake hopen hw hlate ch code hch hrole hOff _ hstart hrun
    have hdue (u : State) (agree : s.CalAgree u) : u.dueCommit ch = u := by
      refine State.dueCommit_of_none_due (by rw [agree.boot, hstart]) fun i x hi hx => ?_
      rw [agree.strandOf] at hi
      rw [agree.strand] at hx
      rw [agree.tick, agree.gapCommitAt]
      exact hrun i x hi hx
    have hcode : code ≤ 12 := Nat.min_le_left _ _
    obtain ⟨t, hexec, hacc, ⟨heldOff, heldGain, heldSkew⟩, working, running, others⟩ :=
      exec_calHeldWrite_open src hw v hup hawake hopen hlate (State.vsel_eq hch) hrole hdue
    refine ⟨t, hexec, hacc, ?_, ?_, ?_, ?_, running, others⟩
    · rintro rfl
      rw [heldOff, heldCode_of_ne (by decide), ChanRt.setHeld, if_neg (by omega)]
      exact nth_set_self (by rw [hOff]; omega)
    · rintro rfl
      exact heldSkew
    · rintro rfl
      rw [heldGain, heldCode_of_ne (by decide), ChanRt.setHeld, if_neg (by omega)]
      rfl
    · rintro rfl hstop hnone
      rw [(working hstop hnone).1, heldCode_of_ne (by decide), ChanRt.setWork, if_neg (Nat.ne_of_lt (by omega))]
      rfl

end Sys2Proof.Machine
end

