-- ==== Sys2Proof/Proofs/CoreWords.lean ====
section
/-! The front of the command queue, and the words of core instructions (R282 to R284, Tables 12.1 to 12.8): each field of a
word is read back from it, and so is the instruction. -/

namespace Sys2Proof.Machine

/-! ### The queue -/

/-- Settles O1: a step is the match on the queue that defines it. -/
theorem stepTakesFront : Obligations.StepTakesFront := by
  unfold Obligations.StepTakesFront
  refine ⟨fun s c rest hfront => ?_, fun s hidle => ?_⟩
  · rw [step, hfront]
  · rw [step, hidle]

/-! ### The fields of a word (Table 12.1) -/

/-- Every format gives back the fields it was put together from. -/
@[simp] theorem fields_of_word :
    (∀ (op : BitVec 6) (d a b sh : BitVec 5) (fn : BitVec 6), let w := wordT op d a b sh fn
      fOp w = op ∧ fD w = d ∧ fA w = a ∧ fB w = b ∧ fSh w = sh ∧ fFn w = fn)
    ∧ (∀ (op : BitVec 6) (d a : BitVec 5) (imm : BitVec 16), let w := wordI op d a imm
      fOp w = op ∧ fD w = d ∧ fA w = a ∧ fImm w = imm)
    ∧ (∀ (op : BitVec 6) (t p : BitVec 5) (am k : BitVec 2) (x : BitVec 12), let w := wordM op t p am k x
      fOp w = op ∧ fD w = t ∧ fA w = p ∧ w.extractLsb' 14 2 = am ∧ w.extractLsb' 12 2 = k ∧ w.extractLsb' 0 12 = x)
    ∧ (∀ (op : BitVec 6) (a b : BitVec 5) (target : BitVec 15), let w := wordB op a b target
      fOp w = op ∧ fD w = a ∧ fA w = b ∧ w.extractLsb' 15 1 = 0#1 ∧ w.extractLsb' 0 15 = target)
    ∧ (∀ (op : BitVec 6) (target : BitVec 15), let w := wordJ op target
      fOp w = op ∧ w.extractLsb' 15 11 = 0#11 ∧ w.extractLsb' 0 15 = target)
    ∧ (∀ (d : BitVec 3) (p1 : BitVec 5) (k1 : BitVec 2) (p2 : BitVec 5) (k2 : BitVec 2) (q : BitVec 5) (neg : Bool),
      let w := wordD d p1 k1 p2 k2 q neg
      fOp w = 0x14 ∧ w.extractLsb' 23 3 = d ∧ w.extractLsb' 18 5 = p1 ∧ w.extractLsb' 16 2 = k1 ∧ w.extractLsb' 11 5 = p2
        ∧ w.extractLsb' 9 2 = k2 ∧ w.extractLsb' 4 5 = q ∧ w.extractLsb' 1 3 = 0#3 ∧ w.extractLsb' 0 1 = BitVec.ofBool neg) := by
  unfold fOp fD fA fB fSh fFn fImm wordT wordI wordM wordB wordJ wordD
  refine ⟨fun _ _ _ _ _ _ => ?_, fun _ _ _ _ => ?_, fun _ _ _ _ _ _ => ?_, fun _ _ _ _ => ?_, fun _ _ => ?_,
    fun _ _ _ _ _ _ _ => ?_⟩
  all_goals and_intros
  all_goals
    repeat rw [BitVec.extractLsb'_append_eq_of_le (by decide)]
    try rw [BitVec.extractLsb'_append_eq_of_add_le (by decide)]
    exact BitVec.extractLsb'_eq_self

/-! ### Register fields (R283, R284) -/

@[simp] theorem isV_ofV (x : BitVec 4) : isV (ofV x) = true := by revert x; decide
@[simp] theorem toV_ofV (x : BitVec 4) : toV (ofV x) = x := by revert x; decide
@[simp] theorem isAcc_ofAcc (x : BitVec 3) : isAcc (ofAcc x) = true := by revert x; decide
@[simp] theorem toAcc_ofAcc (x : BitVec 3) : toAcc (ofAcc x) = x := by revert x; decide
@[simp] theorem only_true (i : Instr) : only true i = some i := rfl

/-! ### Address modes (Table 12.3) -/

theorem encodeMem_eq_wordM (op : BitVec 6) (t p : BitVec 5) (m : Mem) : ∃ am k x, encodeMem op t p m = wordM op t p am k x := by
  cases m <;> exact ⟨_, _, _, rfl⟩

@[simp] theorem fields_encodeMem (op : BitVec 6) (t p : BitVec 5) (m : Mem) :
    fOp (encodeMem op t p m) = op ∧ fD (encodeMem op t p m) = t ∧ fA (encodeMem op t p m) = p := by
  obtain ⟨am, k, x, h⟩ := encodeMem_eq_wordM op t p m
  simp [h]

@[simp] theorem decodeMem_encodeMem (op : BitVec 6) (t p : BitVec 5) (m : Mem) : decodeMem (encodeMem op t p m) = some m := by
  have hq (q : BitVec 5) : ((0#7) ++ q : BitVec 12).extractLsb' 5 7 = 0#7 ∧ ((0#7) ++ q : BitVec 12).extractLsb' 0 5 = q := by
    revert q; decide
  cases m <;> simp [decodeMem, encodeMem, hq]

@[simp] theorem withMem_encodeMem (op : BitVec 6) (t p : BitVec 5) (m : Mem) (f : Mem → Instr) :
    withMem (encodeMem op t p m) f = some (f m) := by
  simp [withMem]

/-! ### Groups -/

section
variable (c : CoreId) {w : Word}

theorem decodeCoreWord_scalar (h : fOp w = 0x00) : decodeCoreWord c w = decodeScalar c w := by simp [decodeCoreWord, h]
theorem decodeCoreWord_vector (h : fOp w = 0x10) : decodeCoreWord c w = decodeVector c w := by simp [decodeCoreWord, h]
theorem decodeCoreWord_mac (h : fOp w = 0x11) : decodeCoreWord c w = decodeMac c w := by simp [decodeCoreWord, h]
theorem decodeCoreWord_system (h : fOp w = 0x3F) : decodeCoreWord c w = decodeSystem c w := by simp [decodeCoreWord, h]

end

theorem getLsbD_zero_of_extract {w : Word} {b : Bool} (h : w.extractLsb' 0 1 = BitVec.ofBool b) : w.getLsbD 0 = b := by
  simpa only [BitVec.getLsbD_extractLsb', Nat.zero_add, Nat.lt_one_iff, decide_true, Bool.true_and, BitVec.getLsbD_ofBool] using
    congrArg (·.getLsbD 0) h

/-- VDMAC is read back; its word names no outcome of the reads (R291). -/
theorem decodeCoreWord_wordD (c : CoreId) (d : BitVec 3) (p1 : BitVec 5) (k1 : BitVec 2) (p2 : BitVec 5) (k2 : BitVec 2)
    (q : BitVec 5) (neg : Bool) :
    decodeCoreWord c (wordD d p1 k1 p2 k2 q neg) = some (.vdmac c d p1 k1 p2 k2 q neg (.ok, .ok)) := by
  have hneg : (wordD d p1 k1 p2 k2 q neg).getLsbD 0 = neg := getLsbD_zero_of_extract (by simp)
  have hvdmac : decodeCoreWord c (wordD d p1 k1 p2 k2 q neg) = decodeVdmac c (wordD d p1 k1 p2 k2 q neg) := by
    simp [decodeCoreWord]
  rw [hvdmac, decodeVdmac, hneg]
  simp

/-- The fields of a REP (Table 12.7): `m` holds the form in its highest bit. -/
theorem fields_rep (a : BitVec 5) (m : BitVec 9) (n : BitVec 12) : let w : Word := (0x24#6) ++ a ++ m ++ n
    fOp w = 0x24 ∧ fD w = a ∧ w.extractLsb' 12 9 = m ∧ w.extractLsb' 0 12 = n := by
  unfold fOp fD
  and_intros
  all_goals
    repeat rw [BitVec.extractLsb'_append_eq_of_le (by decide)]
    try rw [BitVec.extractLsb'_append_eq_of_add_le (by decide)]
    exact BitVec.extractLsb'_eq_self

/-- Both forms of REP are read back. -/
theorem decodeCoreWord_rep (c : CoreId) (n : RepCount) {w : Word} (h : encodeCoreWord (.rep c n) = some w) :
    decodeCoreWord c w = some (.rep c n) := by
  have hlow (w : Word) (m : BitVec 9) (hm : w.extractLsb' 12 9 = m) :
      w.extractLsb' 12 8 = m.extractLsb' 0 8 ∧ w.getLsbD 20 = m.getLsbD 8 := by
    subst hm
    exact ⟨by ext i hi; simp; omega, by simp⟩
  have hdecode (hop : fOp w = 0x24) : decodeCoreWord c w = decodeRep c w := by simp [decodeCoreWord, hop]
  cases n with
  | imm n =>
    obtain ⟨hop, hd, hm, hn⟩ := fields_rep 0#5 0#9 n
    obtain rfl := Option.some.inj h
    obtain ⟨h8, h20⟩ := hlow _ _ hm
    rw [hdecode hop, decodeRep, h8, h20, hd, hn]
    rfl
  | reg a =>
    obtain ⟨hop, hd, hm, hn⟩ := fields_rep a 0x100#9 0#12
    obtain rfl := Option.some.inj h
    obtain ⟨h8, h20⟩ := hlow _ _ hm
    rw [hdecode hop, decodeRep, h8, h20, hd, hn]
    rfl

/-- CADD has a word in modes 2 and 3 alone, which has bit 15 set and names no register in its first field. -/
theorem decodeCoreWord_cadd (c : CoreId) (p : BitVec 5) (m : Mem) {w : Word} (h : encodeCoreWord (.cadd c p m) = some w) :
    decodeCoreWord c w = some (.cadd c p m) := by
  have key (am k : BitVec 2) (x : BitVec 12) (ham : am.getLsbD 1 = true) (hw : wordM 0x15 0 p am k x = encodeMem 0x15 0 p m) :
      decodeCoreWord c (wordM 0x15 0 p am k x) = some (.cadd c p m) := by
    have h15 : (wordM 0x15 0 p am k x).getLsbD 15 = true := by
      have := congrArg (·.getLsbD 1) (show (wordM 0x15 0 p am k x).extractLsb' 14 2 = am by simp)
      simpa only [BitVec.getLsbD_extractLsb', ham, Nat.one_lt_ofNat, decide_true, Bool.true_and, Nat.reduceAdd] using this
    have hcadd : decodeCoreWord c (wordM 0x15 0 p am k x)
        = withMem (wordM 0x15 0 p am k x) fun m => .cadd c p m := by
      simp only [decodeCoreWord, h15]
      simp
    rw [hcadd, hw, withMem_encodeMem]
  cases m with
  | off | post => cases h
  | circ k x => cases h; exact key 2 k x rfl rfl
  | circReg k q => cases h; exact key 3 k _ rfl rfl

/-- Settles O2, by cases on the instruction: each format gives back its fields, and the opcode and the function select the
instruction again. -/
theorem wordRoundTrip : Obligations.WordRoundTrip := by
  unfold Obligations.WordRoundTrip
  intro i c w hi hw
  cases i <;> cases hi
  case rep n => exact decodeCoreWord_rep c n hw
  case vdmac => cases hw; exact decodeCoreWord_wordD ..
  case cadd p m => exact decodeCoreWord_cadd c p m hw
  all_goals obtain rfl := Option.some.inj hw
  case add | sub | and | or | xor | shl | shr | sra | shli | shri | srai | slt | sltu | min | max | mul =>
    simp [decodeCoreWord_scalar, decodeScalar, withEcc]
  case vadd | vsub | vadds | vmin | vmax | vabs | vand | vor | vxor | vshli | vsrai | vbc | vget | vput | vcgt | vcgts | vmov =>
    simp [decodeCoreWord_vector, decodeVector, withEcc]
  case vmul | vmac | vmsc | vmacs | vadda | vsuba | aclr | vnrw | asum | amovl | amovh | amovx | aset =>
    simp [decodeCoreWord_mac, decodeMac, withEcc]
  case endRun | rti | wdk | mfs | mts | hq | hwait | hrel | sq =>
    simp [decodeCoreWord_system, decodeSystem, withEcc]
  all_goals simp [decodeCoreWord, withEcc]

/-- Settles O3: each word is decoded by evaluation. -/
theorem wordsDecode : Obligations.WordsDecode := by
  unfold Obligations.WordsDecode
  exact ⟨rfl, rfl, rfl, rfl, rfl, rfl, rfl, rfl, rfl, rfl, rfl, rfl⟩

end Sys2Proof.Machine
end

