-- ==== Sys2Proof/Proofs/CoreResults.lean ====
section
/-! What one core instruction does as it issues (R257, R259, R282 to R290): every core instruction is an issue, and the results
of Tables 12.2, 12.5 and 12.6 join those in flight. -/

namespace Sys2Proof.Machine

/-! ### Every core instruction is an issue -/

theorem exec_eq_issue {i : Instr} {c : CoreId} (h : issuer i = some c) :
    ∃ eff : State → Did, ∀ s, exec i s = .next (s.issue c eff) := by
  cases i <;> cases h <;> exact ⟨_, fun _ => rfl⟩

/-- Settles O4: a core that cannot issue leaves the state to the next command as it is. -/
theorem noIssue : Obligations.NoIssue := by
  unfold Obligations.NoIssue
  intro i c s hi hblocked
  obtain ⟨eff, heff⟩ := exec_eq_issue hi
  rw [heff, State.issue_blocked c eff s hblocked]

/-! ### Words as numbers (Table 12.2) -/

section
variable (x y : Word) (n : Nat)

theorem word_add : x + y = BitVec.ofNat 32 (x.toNat + y.toNat) := by simp [BitVec.ofNat_add]
theorem word_sub : x - y = BitVec.ofInt 32 (x.toInt - y.toInt) := 
  BitVec.eq_of_toInt_eq (by simp [BitVec.toInt_sub])
theorem word_mul : x * y = BitVec.ofNat 32 (x.toNat * y.toNat) := by simp [BitVec.ofNat_mul]
theorem word_shiftLeft : x <<< n = BitVec.ofNat 32 (x.toNat * 2 ^ n) :=
  BitVec.eq_of_toNat_eq (by simp [Nat.shiftLeft_eq])
theorem word_shiftRight : x >>> n = BitVec.ofNat 32 (x.toNat / 2 ^ n) := by
  have h : x.toNat / 2 ^ n < 2 ^ 32 := Nat.lt_of_le_of_lt (Nat.div_le_self _ _) x.isLt
  refine BitVec.eq_of_toNat_eq ?_
  rw [BitVec.toNat_ofNat, Nat.mod_eq_of_lt h, BitVec.toNat_ushiftRight, Nat.shiftRight_eq_div_pow]
theorem sshiftRight_eq_ofInt {w : Nat} (x : BitVec w) : x.sshiftRight n = BitVec.ofInt w (x.toInt / 2 ^ n) := by
  simp [BitVec.sshiftRight_eq, Int.shiftRight_eq_div_pow]
theorem word_addImm (imm : BitVec 16) : x + imm.signExtend 32 = BitVec.ofInt 32 (x.toInt + imm.toInt) := by
  simp [BitVec.ofInt_add, BitVec.signExtend]
theorem word_lui (imm : BitVec 16) : imm ++ (0#16) = BitVec.ofNat 32 (imm.toNat * 65536) := by
  have := imm.isLt
  refine BitVec.eq_of_toNat_eq ?_
  rw [BitVec.toNat_append, BitVec.toNat_ofNat, Nat.shiftLeft_eq, BitVec.toNat_ofNat,
    Nat.mod_eq_of_lt (a := imm.toNat * 65536) (by omega)]
  exact Nat.or_zero _
theorem word_slt : wordOf (x.slt y) = if decide (x.toInt < y.toInt) = true then 1 else 0 := rfl
theorem ofInt_min {w : Nat} (x y : BitVec w) : (if y.slt x then y else x) = BitVec.ofInt w (min x.toInt y.toInt) := by
  by_cases h : y.toInt < x.toInt
  · simp [BitVec.slt_eq_decide, h, Int.min_eq_right (Int.le_of_lt h)]
  · simp [BitVec.slt_eq_decide, h, Int.min_eq_left (Int.not_lt.mp h)]
theorem ofInt_max {w : Nat} (x y : BitVec w) : (if x.slt y then y else x) = BitVec.ofInt w (max x.toInt y.toInt) := by
  by_cases h : x.toInt < y.toInt
  · simp [BitVec.slt_eq_decide, h, Int.max_eq_right (Int.le_of_lt h)]
  · simp [BitVec.slt_eq_decide, h, Int.max_eq_left (Int.not_lt.mp h)]

end

/-! ### Lanes -/

section
variable {α β γ : Type}

theorem map_byLane (f : α → β) (g : Nat → α) : (byLane g).map f = byLane fun i => f (g i) := by simp [byLane]
theorem lanes2_byLane (f : α → β → γ) (g : Nat → α) (h : Nat → β) :
    lanes2 f (byLane g) (byLane h) = byLane fun i => f (g i) (h i) := by
  simp [lanes2, byLane, List.zip_map']
theorem byLane_const (x : α) : List.replicate 16 x = byLane fun _ => x := rfl

end

theorem CoreRt.vreg_eq_byLane (k : CoreRt) (r : Nat) : k.vreg r = byLane fun i => k.vregs.getD (16 * r + i) 0 := rfl
theorem lanesInt_byLane (g : Nat → Half) : lanesInt (byLane g) = byLane fun i => (g i).toInt := map_byLane _ _
theorem CoreRt.acc_eq_byLane (k : CoreRt) (a : BitVec 3) : k.acc a.toNat = byLane (k.alane a) := rfl
theorem half_eq_low16 (w : Word) : half w = low16 w := by
  simp [half, low16, wrapInt, BitVec.ofInt_natCast]
theorem nth_byLane {α : Type} (g : Nat → α) (d : α) {j : Nat} (hj : j < 16) : nth (byLane g) j d = g j := by
  simp [nth, byLane, hj]
theorem byLane_congr {α : Type} {f g : Nat → α} (h : ∀ i, i < 16 → f i = g i) : byLane f = byLane g :=
  List.map_congr_left fun i hi => h i (List.mem_range.mp hi)
theorem set_byLane (g : Nat → Half) (j : Nat) (x : Half) : (byLane g).set j x = byLane fun i => if i = j then x else g i := by
  refine List.ext_getElem (by simp [byLane]) fun i _ _ => ?_
  simp [byLane, List.getElem_set, eq_comm]

/-! ### Special registers (Table 11.3) -/

theorem State.reg_atIssue_other (s : State) (c : Nat) {a : Nat} (h : a ≠ Reg.CORE_PC_PC.addr c) :
    (s.atIssue c).reg a = s.reg a := by
  simp [State.atIssue, State.reg_wr_other _ _ _ _ h]

theorem any_range_congr {n : Nat} {p q : Nat → Bool} (h : ∀ i, i < n → p i = q i) :
    (List.range n).any p = (List.range n).any q := by
  rw [Bool.eq_iff_iff, List.any_eq_true, List.any_eq_true]
  exact exists_congr fun i => and_congr_right fun hi => by rw [h i (List.mem_range.mp hi)]

/-- The monitor interrupt line is formed of registers that lie below those of the cores (Table 19.1). -/
theorem State.monLine_congr {s t : State} (h : ∀ a, a < 0x30000 → t.reg a = s.reg a) (c : Nat) : t.monLine c = s.monLine c := by
  refine any_range_congr fun ch hch => ?_
  have hrd (f : Field) (hf : f.addr ch < 0x30000) : t.rd f ch = s.rd f ch := congrArg f.read (h _ hf)
  simp only [State.on, hrd Reg.WMON_ROUTE_IRQ (by simp only [Field.addr, Reg.WMON_ROUTE_IRQ]; omega),
    hrd Reg.WMON_ROUTE_CORE (by simp only [Field.addr, Reg.WMON_ROUTE_CORE]; omega),
    hrd Reg.WMON_STAT_LATCH (by simp only [Field.addr, Reg.WMON_STAT_LATCH]; omega),
    hrd Reg.WMON_ROUTE_EDGES (by simp only [Field.addr, Reg.WMON_ROUTE_EDGES]; omega)]

/-- What an MFS reads as its instruction issues: showing the program counter changes no special register. -/
theorem State.special_atIssue (s : State) (c n : Nat) :
    (s.atIssue c).special c n = (s.setCore c (s.coreNow c)).special c n := by
  have hreg (a : Nat) (h : a ≠ Reg.CORE_PC_PC.addr c) : (s.atIssue c).reg a = (s.setCore c (s.coreNow c)).reg a :=
    s.reg_atIssue_other c h
  have hline : (s.atIssue c).monLine c = (s.setCore c (s.coreNow c)).monLine c :=
    State.monLine_congr (fun a ha => hreg a (by simp only [Field.addr, Reg.CORE_PC_PC]; omega)) c
  simp only [State.special, State.atIssue_core, State.setCore_same, State.ipend, hline,
    hreg (Reg.CORE_DOOR_V.addr c) (by simp [Field.addr, Reg.CORE_DOOR_V, Reg.CORE_PC_PC]),
    hreg (Reg.CORE_IPEND_DOOR.addr c) (by simp [Field.addr, Reg.CORE_IPEND_DOOR, Reg.CORE_PC_PC])]

/-! ### One scalar result -/

/-- Settles O5, by cases on the instruction: each is a `scalarOp` whose value is that of its table. -/
theorem scalarResults : Obligations.ScalarResults := by
  unfold Obligations.ScalarResults
  intro i s c d n v hr hc
  cases i <;> simp only [State.scalarResult, reduceCtorEq, Option.some.injEq, Prod.mk.injEq] at hr
  all_goals obtain ⟨rfl, rfl, rfl, rfl⟩ := hr
  case add => rw [exec_add]; exact scalarOp_next _ _ _ s _ hc (word_add _ _)
  case sub => rw [exec_sub]; exact scalarOp_next _ _ _ s _ hc (word_sub _ _)
  case and => rw [exec_and]; exact scalarOp_next _ _ _ s _ hc rfl
  case or => rw [exec_or]; exact scalarOp_next _ _ _ s _ hc rfl
  case xor => rw [exec_xor]; exact scalarOp_next _ _ _ s _ hc rfl
  case shl => rw [exec_shl]; exact scalarOp_next _ _ _ s _ hc (word_shiftLeft _ _)
  case shr => rw [exec_shr]; exact scalarOp_next _ _ _ s _ hc (word_shiftRight _ _)
  case sra => rw [exec_sra]; exact scalarOp_next _ _ _ s _ hc (sshiftRight_eq_ofInt _ _)
  case shli => rw [exec_shli]; exact scalarOp_next _ _ _ s _ hc (word_shiftLeft _ _)
  case shri => rw [exec_shri]; exact scalarOp_next _ _ _ s _ hc (word_shiftRight _ _)
  case srai => rw [exec_srai]; exact scalarOp_next _ _ _ s _ hc (sshiftRight_eq_ofInt _ _)
  case slt => rw [exec_slt]; exact scalarOp_next _ _ _ s _ hc rfl
  case sltu => rw [exec_sltu]; exact scalarOp_next _ _ _ s _ hc rfl
  case min => rw [exec_min]; exact scalarOp_next _ _ _ s _ hc (ofInt_min _ _)
  case max => rw [exec_max]; exact scalarOp_next _ _ _ s _ hc (ofInt_max _ _)
  case mul => rw [exec_mul]; exact coreOp_next _ _ s _ hc (by rw [word_mul]; rfl)
  case addi => rw [exec_addi]; exact scalarOp_next _ _ _ s _ hc (word_addImm _ _)
  case andi => rw [exec_andi]; exact scalarOp_next _ _ _ s _ hc (by rw [BitVec.ofNat_toNat])
  case ori => rw [exec_ori]; exact scalarOp_next _ _ _ s _ hc (by rw [BitVec.ofNat_toNat])
  case xori => rw [exec_xori]; exact scalarOp_next _ _ _ s _ hc (by rw [BitVec.ofNat_toNat])
  case slti => rw [exec_slti]; exact scalarOp_next _ _ _ s _ hc (by rw [BitVec.slt_eq_decide, BitVec.toInt_signExtend_of_le (by decide)]; rfl)
  case lui => rw [exec_lui]; exact scalarOp_next _ _ _ s _ hc (word_lui _)
  case vget => rw [exec_vget]; exact scalarOp_next _ _ _ s _ hc (by rw [CoreRt.vreg_eq_byLane, nth_byLane _ _ (BitVec.isLt _)]; rfl)
  case vcgt =>
    rw [exec_vcgt]
    exact scalarOp_next _ _ _ s _ hc (by simp only [CoreRt.vreg_eq_byLane, lanes2_byLane, BitVec.slt_eq_decide]; rfl)
  case vcgts =>
    rw [exec_vcgts]
    exact scalarOp_next _ _ _ s _ hc (by simp only [CoreRt.vreg_eq_byLane, lanesInt_byLane, map_byLane, half_eq_low16]; rfl)
  case mfs => rw [exec_mfs]; exact ⟨_, rfl, State.issued_of_core _ s _ hc _ (by rw [State.special_atIssue, State.atIssue_core]; rfl)⟩

/-! ### Vector results -/

theorem CoreRt.satLanes_eq_withSat (k : CoreRt) (n : Nat) (d : BitVec 4) (l : List Int) : k.satLanes n d l = k.withSat d n l := by
  simp [CoreRt.satLanes, CoreRt.withSat, CoreRt.later, Function.comp_def]

/-- An instruction whose lanes pass through sat16 completes. -/
theorem satOp_next (c : CoreId) (d : BitVec 4) (n : Nat) (f : CoreRt → List Int) (s : State) (x : List Int)
    (h : s.canIssue c = true) (hx : f (s.coreNow c) = x) :
    ∃ t, coreOp c (fun k => k.satLanes n d (f k)) s = .next t ∧ Issued s t c ((s.coreNow c).withSat d n x) :=
  coreOp_next c _ s _ h (by rw [CoreRt.satLanes_eq_withSat, hx])

/-- An instruction with one vector result completes. -/
theorem laneOp_next (c : CoreId) (d : BitVec 4) (f : CoreRt → List Half) (s : State) (x : List Half) (h : s.canIssue c = true)
    (hx : f (s.coreNow c) = x) :
    ∃ t, coreOp c (fun k => k.putLanes d (f k)) s = .next t
      ∧ Issued s t c ((s.coreNow c).later 1 (.vector d.toNat x)) :=
  coreOp_next c _ s _ h (by rw [hx]; rfl)

/-- A narrowing instruction completes. -/
theorem narrow_next (c : CoreId) (d : BitVec 4) (a : BitVec 3) (f : Bin40 → Half) (s : State) (g : Nat → Half)
    (h : s.canIssue c = true) (hg : ∀ i, f ((s.coreNow c).accs.getD (16 * a.toNat + i) 0) = g i) :
    ∃ t, narrow c d a f s = .next t ∧ Issued s t c ((s.coreNow c).later 2 (.vector d.toNat (byLane g))) := by
  refine coreOp_next c _ s _ h ?_
  simp only [CoreRt.acc_eq_byLane, map_byLane, CoreRt.alane, BitVec.ofInt_toInt, hg]

theorem low_half (x : Bin40) : x.extractLsb' 0 16 = BitVec.ofNat 16 x.toNat := by
  refine BitVec.eq_of_toNat_eq ?_
  simp [BitVec.extractLsb'_toNat]
theorem high_half (x : Bin40) : x.extractLsb' 16 16 = BitVec.ofNat 16 (x.toNat / 2 ^ 16) := by
  refine BitVec.eq_of_toNat_eq ?_
  simp [BitVec.extractLsb'_toNat, Nat.shiftRight_eq_div_pow]
theorem top_byte (x : Bin40) : (x.extractLsb' 32 8).signExtend 16 = BitVec.ofInt 16 (x.toInt / 2 ^ 32) := by
  have hx := x.isLt
  have hn : (x.extractLsb' 32 8).toNat = x.toNat / 2 ^ 32 := by
    rw [BitVec.extractLsb'_toNat, Nat.shiftRight_eq_div_pow]
    omega
  rw [BitVec.signExtend, BitVec.toInt_eq_toNat_cond, BitVec.toInt_eq_toNat_cond, hn]
  congr 1
  split <;> split <;> omega

/-- Settles O6, by cases on the instruction: the lanes of the model's lists are those of the tables, lane by lane. -/
theorem vectorResults : Obligations.VectorResults := by
  unfold Obligations.VectorResults
  refine ⟨?_, ?_⟩
  · intro i s c d n x hr hc
    cases i <;> simp only [State.satResult, reduceCtorEq, Option.some.injEq, Prod.mk.injEq] at hr
    all_goals obtain ⟨rfl, rfl, rfl, rfl⟩ := hr
    case vadd => rw [exec_vadd]; exact satOp_next _ _ _ _ s _ hc (lanes2_byLane _ _ _)
    case vsub => rw [exec_vsub]; exact satOp_next _ _ _ _ s _ hc (lanes2_byLane _ _ _)
    case vadds =>
      rw [exec_vadds]
      exact satOp_next _ _ _ _ s _ hc (by simp only [CoreRt.vreg_eq_byLane, lanesInt_byLane, map_byLane, half_eq_low16]; rfl)
    case vabs =>
      rw [exec_vabs]
      exact satOp_next _ _ _ _ s _ hc (by simp only [CoreRt.vreg_eq_byLane, lanesInt_byLane, map_byLane, Int.abs_eq_natAbs]; rfl)
    case vshli =>
      rw [exec_vshli]
      exact satOp_next _ _ _ _ s _ hc (by simp only [CoreRt.vreg_eq_byLane, lanesInt_byLane, map_byLane]; rfl)
    case vnrw => rw [exec_vnrw]; exact satOp_next _ _ _ _ s _ hc (by rw [CoreRt.acc_eq_byLane, map_byLane])
  · intro i s c d n x hr hc
    cases i <;> simp only [State.vectorResult, reduceCtorEq, Option.some.injEq, Prod.mk.injEq] at hr
    all_goals obtain ⟨rfl, rfl, rfl, rfl⟩ := hr
    case vmin =>
      rw [exec_vmin]
      exact laneOp_next _ _ _ s _ hc (by simp only [CoreRt.vreg_eq_byLane, lanes2_byLane, ofInt_min]; rfl)
    case vmax =>
      rw [exec_vmax]
      exact laneOp_next _ _ _ s _ hc (by simp only [CoreRt.vreg_eq_byLane, lanes2_byLane, ofInt_max]; rfl)
    case vand => rw [exec_vand]; exact laneOp_next _ _ _ s _ hc (lanes2_byLane _ _ _)
    case vor => rw [exec_vor]; exact laneOp_next _ _ _ s _ hc (lanes2_byLane _ _ _)
    case vxor => rw [exec_vxor]; exact laneOp_next _ _ _ s _ hc (lanes2_byLane _ _ _)
    case vsrai =>
      rw [exec_vsrai]
      exact laneOp_next _ _ _ s _ hc (by simp only [CoreRt.vreg_eq_byLane, map_byLane, sshiftRight_eq_ofInt]; rfl)
    case vbc =>
      rw [exec_vbc]
      exact laneOp_next _ _ _ s _ hc (by rw [byLane_const, BitVec.ofNat_toNat])
    case vput =>
      rw [exec_vput]
      exact laneOp_next _ _ _ s _ hc (by rw [CoreRt.vreg_eq_byLane, set_byLane, BitVec.ofNat_toNat])
    case vmov => rw [exec_vmov]; exact laneOp_next _ _ _ s _ hc rfl
    case amovl => rw [exec_amovl]; exact narrow_next _ _ _ _ s _ hc fun _ => low_half _
    case amovh => rw [exec_amovh]; exact narrow_next _ _ _ _ s _ hc fun _ => high_half _
    case amovx => rw [exec_amovx]; exact narrow_next _ _ _ _ s _ hc fun _ => top_byte _

/-! ### Accumulator results -/

/-- An instruction of the multiply-accumulate class completes. -/
theorem macOp_next (c : CoreId) (d : BitVec 3) (f : CoreRt → AccOp) (s : State) (op : AccOp) (h : s.canIssue c = true)
    (hop : f (s.coreNow c) = op) :
    ∃ t, macOp c d f s = .next t ∧ Issued s t c ((s.coreNow c).later 3 (.acc d.toNat op)) :=
  coreOp_next c _ s _ h (by rw [hop])

/-- One lane that ASET assembles, as a number. -/
theorem asetLane_eq (a b x : Half) :
    asetLane a b x = wrapInt 40 ((a.toNat % 256 * 2 ^ 32 + b.toNat * 2 ^ 16 + x.toNat : Nat) : Int) := by
  rw [asetLane, wrapInt, BitVec.ofInt_natCast]
  have hb := b.isLt
  have hx := x.isLt
  congr 1
  refine BitVec.eq_of_toNat_eq ?_
  rw [BitVec.toNat_append, BitVec.toNat_append, BitVec.toNat_ofNat, ← Nat.shiftLeft_add_eq_or_of_lt hb,
    ← Nat.shiftLeft_add_eq_or_of_lt hx, BitVec.extractLsb'_toNat, Nat.shiftLeft_eq, Nat.shiftLeft_eq, Nat.shiftRight_zero]
  omega

/-- What ASUM leaves in flight: the rounded sum in the 32-bit range, else the limit or the wrapped sum with OV bit 0 (R290). -/
theorem CoreRt.asum_eq (k : CoreRt) (a : BitVec 3) (sh : Nat) : let x := rndShift k.rnd (byLane (k.alane a)).sum sh
    (-2 ^ 31 ≤ x ∧ x < 2 ^ 31 → k.asum a.toNat sh = (BitVec.ofInt 32 x, false))
    ∧ (x < -2 ^ 31 ∨ 2 ^ 31 ≤ x → k.asum a.toNat sh
        = (BitVec.ofInt 32 (if k.satm then (if x < 0 then -2 ^ 31 else 2 ^ 31 - 1) else x), true)) := by
  rw [CoreRt.asum, CoreRt.acc_eq_byLane]
  generalize rndShift k.rnd (byLane (k.alane a)).sum sh = x
  refine ⟨fun hin => ?_, fun hout => ?_⟩
  · rw [if_pos (by simp; omega)]
  · have hclamp : clampInt (-2 ^ 31) (2 ^ 31 - 1) x = if x < 0 then -2 ^ 31 else 2 ^ 31 - 1 := by
      unfold clampInt
      split <;> split <;> omega
    rw [if_neg (by simp; omega), hclamp]

/-- Settles O7, by cases on the instruction; ASUM by its two ranges. -/
theorem accumulatorResults : Obligations.AccumulatorResults := by
  unfold Obligations.AccumulatorResults
  refine ⟨?_, ?_⟩
  · intro i s c d op hr hc
    cases i <;> simp only [State.accResult, reduceCtorEq, Option.some.injEq, Prod.mk.injEq] at hr
    all_goals obtain ⟨rfl, rfl, rfl⟩ := hr
    case vmul => rw [exec_vmul]; exact macOp_next _ _ _ s _ hc (congrArg AccOp.put (lanes2_byLane _ _ _))
    case vmac => rw [exec_vmac]; exact macOp_next _ _ _ s _ hc (congrArg AccOp.add (lanes2_byLane _ _ _))
    case vmsc =>
      rw [exec_vmsc]
      exact macOp_next _ _ _ s _ hc (congrArg AccOp.add (by
        simp only [products, CoreRt.vreg_eq_byLane, lanes2_byLane, map_byLane]; rfl))
    case vmacs =>
      rw [exec_vmacs]
      exact macOp_next _ _ _ s _ hc (congrArg AccOp.add (by
        simp only [CoreRt.vreg_eq_byLane, lanesInt_byLane, map_byLane, half_eq_low16]; rfl))
    case vadda => rw [exec_vadda]; exact macOp_next _ _ _ s _ hc (congrArg AccOp.add (lanesInt_byLane _))
    case vsuba =>
      rw [exec_vsuba]
      exact macOp_next _ _ _ s _ hc (congrArg AccOp.add (by
        simp only [CoreRt.vreg_eq_byLane, lanesInt_byLane, map_byLane]; rfl))
    case aclr => rw [exec_aclr]; exact macOp_next _ _ _ s _ hc rfl
    case aset =>
      rw [exec_aset]
      exact macOp_next _ _ _ s _ hc (congrArg AccOp.put (byLane_congr fun i hi => by
        simp only [CoreRt.vreg_eq_byLane, nth_byLane _ _ hi, asetLane_eq]))
  · intro s c d a sh hc
    obtain ⟨hin, hout⟩ := (s.coreNow c).asum_eq a sh.toNat
    obtain ⟨t, hexec, hissued⟩ := coreOp_next c (fun k =>
      let r := k.asum a.toNat sh.toNat
      let k := k.laterS 2 d r.1
      if r.2 then k.later 2 (.flags 0x10000) else k) s _ hc rfl
    refine ⟨t, hexec, fun h => ?_, fun h => ?_⟩
    · rw [hin h] at hissued
      exact hissued
    · rw [hout h] at hissued
      exact hissued

/-! ### The lane functions -/

theorem wrapInt_bounds (n : Nat) (x : Int) :
    -2 ^ (n - 1) ≤ wrapInt n x ∧ wrapInt n x < 2 ^ (n - 1) ∧ (2 ^ n : Int) ∣ wrapInt n x - x := by
  refine ⟨BitVec.le_toInt _, BitVec.toInt_lt, ?_⟩
  have h : (((2 ^ n : Nat) : Int)) ∣ x.bmod (2 ^ n) - x := Int.dvd_bmod_sub_self
  rw [wrapInt, BitVec.toInt_ofInt]
  exact_mod_cast h

/-- Rounding to nearest with ties away from zero: twice the error is at most the divisor, and a tie goes away from zero. -/
theorem roundDiv_error (x : Int) (n : Nat) (hn : 0 < n) : let e := 2 * (roundDiv x n * n - x)
    |e| ≤ n ∧ (e = n ∨ e = -n → if 0 ≤ x then e = n else e = -n) := by
  have hle : (2 * x.natAbs + n) / (2 * n) * (2 * n) ≤ 2 * x.natAbs + n := Nat.div_mul_le_self _ _
  have hlt : 2 * x.natAbs + n < 2 * n * ((2 * x.natAbs + n) / (2 * n) + 1) := Nat.lt_mul_div_succ _ (by omega)
  simp only [roundDiv]
  generalize (2 * x.natAbs + n) / (2 * n) = m at *
  have hp : (m : Int) * n = (m * n : Nat) := (Nat.cast_mul m n).symm
  rw [show m * (2 * n) = 2 * (m * n) by ring] at hle
  rw [show 2 * n * (m + 1) = 2 * (m * n) + 2 * n by ring] at hlt
  obtain ⟨p, hmn⟩ : ∃ p, p = m * n := ⟨_, rfl⟩
  rw [← hmn] at hle hlt hp
  rcases lt_or_ge x 0 with hx | hx
  · simp only [if_pos hx, if_neg (Int.not_le.mpr hx), neg_mul, hp, abs_le]
    omega
  · simp only [if_neg (Int.not_lt.mpr hx), if_pos hx, hp, abs_le]
    omega

/-- Rounding to nearest with ties to even (RND = 2 of R285): twice the error is at most the divisor, and a tie gives an even value. -/
theorem rndShift_even_error (x : Int) (sh : Nat) (hsh : 0 < sh) : let r := rndShift 2 x sh
    let e := 2 * (r * 2 ^ sh - x)
    |e| ≤ 2 ^ sh ∧ (e = 2 ^ sh ∨ e = -2 ^ sh → r % 2 = 0) := by
  have hn : (0 : Int) < 2 ^ sh := by positivity
  have hx := Int.mul_ediv_add_emod x (2 ^ sh)
  have hr0 := Int.emod_nonneg x hn.ne'
  have hr1 := Int.emod_lt_of_pos x hn
  simp only [rndShift, Nat.cast_pow, Nat.cast_ofNat, if_neg hsh.ne']
  generalize x / 2 ^ sh = q at *
  generalize x % 2 ^ sh = r at *
  generalize (2 : Int) ^ sh = n at *
  have hq : (q + 1) * n = n * q + n := by ring
  have hq' : q * n = n * q := Int.mul_comm _ _
  simp only [if_neg (show (2 : Nat) ≠ 0 by decide), if_true, abs_le]
  split
  · rw [hq']; omega
  · split
    · rw [hq]; omega
    · split
      · rw [hq']; omega
      · rw [hq]; omega

/-- Settles O8: each function by the branches of its definition. -/
theorem laneFunctions : Obligations.LaneFunctions := by
  unfold Obligations.LaneFunctions
  refine ⟨?_, ?_, ?_, ?_, ?_⟩
  · intro satm x
    refine ⟨fun h => ?_, fun h => ?_, fun h => ?_, fun h => ?_⟩
    · rw [satm16, if_neg (by simp; omega)]
    · rw [satm16, if_pos (by simp; omega)]
      simp [sat16, clampInt]
      omega
    · rw [satm16, if_pos (by simp; omega)]
      simp [sat16, clampInt]
      omega
    · rw [satm16, if_pos (by simp; omega)]
      obtain ⟨hlo, hhi, hdvd⟩ := wrapInt_bounds 16 x
      exact ⟨rfl, hlo, Int.le_of_lt_add_one hhi, hdvd⟩
  · intro satm x
    refine ⟨fun h => ?_, fun h => ?_, fun h => ?_, fun h => ?_⟩
    · rw [acc40, if_neg (by simp; omega)]
    · rw [acc40, if_pos (by simp; omega)]
      simp [clampInt]
      omega
    · rw [acc40, if_pos (by simp; omega)]
      simp [clampInt]
      omega
    · rw [acc40, if_pos (by simp; omega)]
      obtain ⟨hlo, hhi, hdvd⟩ := wrapInt_bounds 40 x
      exact ⟨rfl, hlo, hhi, hdvd⟩
  · intro mode x
    simp [rndShift]
  · intro x sh
    have hn : (0 : Int) < 2 ^ sh := by positivity
    have hr : rndShift 0 x sh = x / 2 ^ sh := by
      simp only [rndShift, Nat.cast_pow, Nat.cast_ofNat]
      split
      · simp [*]
      · rfl
    simp only [hr]
    exact ⟨Int.ediv_mul_le _ hn.ne', Int.lt_ediv_add_one_mul_self _ hn⟩
  · intro mode x sh hmode hsh
    by_cases heven : mode = 2
    · subst heven
      obtain ⟨hle, htie⟩ := rndShift_even_error x sh hsh
      exact ⟨hle, fun h => ⟨fun _ => htie h, fun hne => absurd rfl hne⟩⟩
    · have hr : rndShift mode x sh = roundDiv x (2 ^ sh) := by simp [rndShift, hmode, heven, hsh.ne']
      have herr := roundDiv_error x (2 ^ sh) (Nat.two_pow_pos _)
      simp only [Nat.cast_pow, Nat.cast_ofNat] at herr
      simp only [hr]
      exact ⟨herr.1, fun h => ⟨fun h2 => absurd h2 heven, fun _ => herr.2 h⟩⟩

end Sys2Proof.Machine
end

