-- ==== Sys2Proof/Proofs/CoreLatency.lean ====
section
/-! When a result of a core is readable and what it does as it lands (R257, R260, Tables 11.4 to 11.6). -/

namespace Sys2Proof.Machine

/-! ### Results in flight -/

/-- The core with one more result in flight. -/
def CoreRt.flying (k : CoreRt) (x : Flight) : CoreRt := { k with land := k.land ++ [x] }

theorem CoreRt.laterS_eq_flying (k : CoreRt) (n : Nat) (d : BitVec 5) (v : Word) :
    k.laterS n d v = k.flying ⟨k.cycle + n, .scalar k.shadow d.toNat v⟩ := rfl

@[simp] theorem CoreRt.flying_cycle (k : CoreRt) (x : Flight) : (k.flying x).cycle = k.cycle := rfl
@[simp] theorem CoreRt.flying_sreg (k : CoreRt) (x : Flight) (e : BitVec 5) : (k.flying x).sreg e = k.sreg e := rfl

/-- A result lands as it would with another one in flight. -/
theorem CoreRt.landOne_flying (k : CoreRt) (x : Flight) (w : Landing) : (k.flying x).landOne w = (k.landOne w).flying x := by
  cases w with
  | scalar sh r v =>
    simp only [CoreRt.landOne, CoreRt.setSreg]
    split
    · rfl
    · split <;> rfl
  | acc a op => cases op <;> rfl
  | _ => rfl

theorem CoreRt.foldl_landOne_flying (l : List Landing) (k : CoreRt) (x : Flight) :
    l.foldl CoreRt.landOne (k.flying x) = (l.foldl CoreRt.landOne k).flying x := by
  induction l generalizing k with
  | nil => rfl
  | cons w l ih => rw [List.foldl_cons, List.foldl_cons, CoreRt.landOne_flying, ih]

/-- A result of another cycle stays in flight. -/
theorem CoreRt.landAt_flying_other (k : CoreRt) {x : Flight} {n : Nat} (h : x.at_ ≠ n) :
    (k.flying x).landAt n = (k.landAt n).flying x := by
  have hdue : (k.flying x).land.filter (fun f => decide (f.at_ = n)) = k.land.filter fun f => decide (f.at_ = n) := by
    simp [CoreRt.flying, List.filter_append, h]
  have hleft : (k.flying x).land.filter (fun f => f.at_ != n) = k.land.filter (fun f => f.at_ != n) ++ [x] := by
    simp [CoreRt.flying, List.filter_append, h]
  simp only [CoreRt.landAt, hdue, hleft]
  exact CoreRt.foldl_landOne_flying _ { k with land := k.land.filter fun f => f.at_ != n } x

/-- A result of the cycle, of an instruction that issued last, lands last (Table 11.6). -/
theorem CoreRt.landAt_flying_same (k : CoreRt) {x : Flight} {n : Nat} (h : x.at_ = n) (hw : x.what.isClear = false) :
    (k.flying x).landAt n = (k.landAt n).landOne x.what := by
  have hdue : (k.flying x).land.filter (fun f => decide (f.at_ = n)) = (k.land.filter fun f => decide (f.at_ = n)) ++ [x] := by
    simp [CoreRt.flying, List.filter_append, h]
  have hleft : (k.flying x).land.filter (fun f => f.at_ != n) = k.land.filter fun f => f.at_ != n := by
    simp [CoreRt.flying, List.filter_append, h]
  simp only [CoreRt.landAt, hdue, hleft, List.map_append, List.filter_append, List.map_cons, List.map_nil]
  simp [hw, CoreRt.flying, List.foldl_append]

/-- Landing up to a cycle of the next three lands each cycle in turn. -/
theorem CoreRt.landTo_ahead (k : CoreRt) {m : Nat} (hm : m < 4) :
    k.landTo (k.cycle + m) = (List.range (m + 1)).foldl (fun k' j => k'.landAt (k.cycle + j)) k := by
  interval_cases m <;> simp [CoreRt.landTo, List.range_succ]

theorem CoreRt.foldl_landAt_flying (k : CoreRt) (x : Flight) (n : Nat) {l : List Nat} (h : ∀ j ∈ l, x.at_ ≠ n + j) :
    l.foldl (fun k' j => k'.landAt (n + j)) (k.flying x) = (l.foldl (fun k' j => k'.landAt (n + j)) k).flying x := by
  induction l generalizing k with
  | nil => rfl
  | cons j l ih =>
    rw [List.foldl_cons, List.foldl_cons, CoreRt.landAt_flying_other k (h j List.mem_cons_self),
      ih _ fun i hi => h i (List.mem_cons_of_mem _ hi)]

/-- Before its cycle a result is in flight still. -/
theorem CoreRt.landTo_flying_before (k : CoreRt) {x : Flight} {m : Nat} (hm : m < 4) (hx : k.cycle + m < x.at_) :
    (k.flying x).landTo (k.cycle + m) = (k.landTo (k.cycle + m)).flying x := by
  have hahead := (k.flying x).landTo_ahead hm
  rw [CoreRt.flying_cycle] at hahead
  rw [hahead, k.landTo_ahead hm]
  exact k.foldl_landAt_flying x k.cycle fun j hj => by have := List.mem_range.mp hj; omega

/-- In its cycle a result lands behind those that land by then. -/
theorem CoreRt.landTo_flying_at (k : CoreRt) {x : Flight} {m : Nat} (hm : m < 4) (hx : x.at_ = k.cycle + m)
    (hw : x.what.isClear = false) :
    (k.flying x).landTo (k.cycle + m) = (k.landTo (k.cycle + m)).landOne x.what := by
  have hahead := (k.flying x).landTo_ahead hm
  rw [CoreRt.flying_cycle] at hahead
  rw [hahead, k.landTo_ahead hm, List.range_succ, List.foldl_append, List.foldl_append,
    k.foldl_landAt_flying x k.cycle fun j hj => by have := List.mem_range.mp hj; omega]
  exact CoreRt.landAt_flying_same _ hx hw

/-! ### Scalar registers -/

@[simp] theorem CoreRt.sreg_zero (k : CoreRt) : k.sreg 0 = 0 := rfl

/-- The bank in use reads what was written to it; s0 ignores a write. -/
theorem CoreRt.sreg_setSreg (k : CoreRt) (d e : BitVec 5) (v : Word) :
    (k.setSreg k.shadow d.toNat v).sreg e = if e = d ∧ d ≠ 0 then v else k.sreg e := by
  by_cases hd : d = 0#5
  · simp [hd, CoreRt.setSreg]
  · have hd' : d.toNat ≠ 0 := fun h => hd (BitVec.eq_of_toNat_eq h)
    have hget (m : SMap Word) : (m.putD d.toNat 0 v).getD e.toNat 0 = if e = d then v else m.getD e.toNat 0 := by
      split
      · next h => rw [h]; exact SMap.getD_putD_same _ _ _ _
      · next h => exact SMap.getD_putD_other _ _ _ _ fun h' => h (BitVec.eq_of_toNat_eq h')
    unfold CoreRt.setSreg CoreRt.sreg
    rw [if_neg hd']
    by_cases he : e = 0#5
    · subst he
      have : (0#5) ≠ d := fun h => hd h.symm
      simp [this]
    · cases hs : k.shadow <;> simpa [he, hd, hs] using hget _

/-! ### Vector registers and accumulators -/

/-- A run of keys written in turn reads what was written; every other key reads as before. -/
theorem SMap.getD_foldl_putD {α : Type} [DecidableEq α] (m : SMap α) (base n : Nat) (d : α) (f : Nat → α) (key : Nat) :
    ((List.range n).foldl (fun m i => m.putD (base + i) d (f i)) m).getD key d
      = if base ≤ key ∧ key < base + n then f (key - base) else m.getD key d := by
  induction n with
  | zero => rw [if_neg (by omega)]; rfl
  | succ n ih =>
    rw [List.range_succ, List.foldl_append, List.foldl_cons, List.foldl_nil]
    by_cases h : key = base + n
    · rw [h, SMap.getD_putD_same, if_pos (by omega), Nat.add_sub_cancel_left]
    · rw [SMap.getD_putD_other _ _ _ _ h, ih]
      exact if_congr (by omega) rfl rfl

/-- Lane `i` of register `q` in the keys of register `r`. -/
theorem lane_key {w : Nat} (q r : BitVec w) {i : Nat} (hi : i < 16) :
    (16 * r.toNat ≤ 16 * q.toNat + i ∧ 16 * q.toNat + i < 16 * r.toNat + 16) ↔ q = r := by
  constructor
  · exact fun h => BitVec.eq_of_toNat_eq (by omega)
  · rintro rfl; omega

theorem CoreRt.lane_setVreg (k : CoreRt) (r q : BitVec 4) (l : List Half) {i : Nat} (hi : i < 16) :
    (k.setVreg r.toNat l).lane q i = if q = r then (nth l i 0).toInt else k.lane q i := by
  simp only [CoreRt.lane, CoreRt.setVreg, SMap.getD_foldl_putD, lane_key q r hi]
  split
  · next h => rw [h, Nat.add_sub_cancel_left]
  · rfl

theorem CoreRt.alane_setAcc (k : CoreRt) (a b : BitVec 3) (l : List Int) {i : Nat} (hi : i < 16) :
    (k.setAcc a.toNat l).alane b i = if b = a then wrapInt 40 (nth l i 0) else k.alane b i := by
  simp only [CoreRt.alane, CoreRt.setAcc, SMap.getD_foldl_putD, lane_key b a hi]
  split
  · next h => rw [h, Nat.add_sub_cancel_left]; rfl
  · rfl

theorem wrapInt_40_of_fits {x : Int} (hlo : -2 ^ 39 ≤ x) (hhi : x < 2 ^ 39) : wrapInt 40 x = x := by
  rw [wrapInt, BitVec.toInt_ofInt, Int.bmod_eq_of_le] <;> omega

/-- acc40 gives a value of 40 bits (R285). -/
theorem wrapInt_acc40 (satm : Bool) (x : Int) : wrapInt 40 (acc40 satm x).1 = (acc40 satm x).1 := by
  have h : -2 ^ 39 ≤ (acc40 satm x).1 ∧ (acc40 satm x).1 < 2 ^ 39 := by
    obtain ⟨-, hacc, -⟩ := laneFunctions
    obtain ⟨hin, hover, hunder, hwrap⟩ := hacc satm x
    rcases lt_or_ge (2 ^ 39 - 1) x with hx | hx
    · cases satm
      · exact (hwrap (.inr hx)).2.imp_right And.left
      · rw [hover hx]; decide
    · rcases lt_or_ge x (-(2 ^ 39 - 1)) with hx' | hx'
      · cases satm
        · exact (hwrap (.inl hx')).2.imp_right And.left
        · rw [hunder hx']; decide
      · rw [hin ⟨hx', hx⟩]; dsimp only; omega
  exact wrapInt_40_of_fits h.1 h.2

/-! ### OV bits (Table 11.4) -/

/-- The sum of 2^(16 + i) over the lanes that overflowed. -/
def ovSum (l : List Bool) : Nat := ((List.range l.length).zip l).foldl (fun n p => if p.2 then n + 2 ^ (16 + p.1) else n) 0

theorem ovBits_eq (l : List Bool) : ovBits l = BitVec.ofNat 32 (ovSum l) := rfl

theorem ovSum_append (l : List Bool) (b : Bool) : ovSum (l ++ [b]) = if b then ovSum l + 2 ^ (16 + l.length) else ovSum l := by
  simp only [ovSum, List.length_append, List.length_singleton, List.range_succ]
  rw [List.zip_append (by simp), List.foldl_append]
  rfl

theorem ovSum_lt (l : List Bool) : ovSum l < 2 ^ (16 + l.length) := by
  induction l using List.reverseRecOn with
  | nil => decide
  | append_singleton l b ih =>
    rw [ovSum_append, List.length_append, List.length_singleton, ← Nat.add_assoc, Nat.pow_succ]
    split <;> omega

theorem testBit_ovSum (l : List Bool) (i : Nat) : (ovSum l).testBit (16 + i) = nth l i false := by
  induction l using List.reverseRecOn with
  | nil => simp [ovSum, nth]
  | append_singleton l b ih =>
    have hlt := ovSum_lt l
    have hnth : nth (l ++ [b]) i false = if i = l.length then b else nth l i false := by
      rcases lt_trichotomy i l.length with h | h | h
      · simp [nth, h, h.ne, List.getElem?_append_left]
      · simp [nth, h]
      · simp [nth, h.ne', List.getElem?_eq_none, h.le, Nat.succ_le_of_lt h]
    have hself : (ovSum l).testBit (16 + l.length) = false := Nat.testBit_lt_two_pow hlt
    rw [ovSum_append, hnth]
    cases b with
    | false =>
      rw [if_neg (by decide), ih]
      split
      · next h => rw [← ih, h, hself]
      · rfl
    | true =>
      rw [if_pos rfl, Nat.add_comm (ovSum l)]
      rcases lt_trichotomy i l.length with h | h | h
      · rw [Nat.testBit_two_pow_add_gt (by omega), ih, if_neg h.ne]
      · rw [if_pos h, h, Nat.testBit_two_pow_add_eq, hself]; rfl
      · have hbig : 2 ^ (16 + l.length) + ovSum l < 2 ^ (16 + i) := by
          have := Nat.pow_le_pow_right (n := 2) (by decide) (show 16 + l.length + 1 ≤ 16 + i by omega)
          rw [Nat.pow_succ] at this
          omega
        rw [Nat.testBit_lt_two_pow hbig, if_neg h.ne', ← ih]
        exact (Nat.testBit_lt_two_pow (by omega)).symm

/-- Bit 16 + i of the OV bits is lane i's. -/
theorem getLsbD_ovBits (l : List Bool) {i : Nat} (hi : i < 16) : (ovBits l).getLsbD (16 + i) = nth l i false := by
  rw [ovBits_eq, BitVec.getLsbD_ofNat, testBit_ovSum, decide_eq_true (by omega), Bool.true_and]

/-! ### A sum that lands (R257, R260) -/

theorem nth_zip_map {α β γ : Type} (f : α × β → γ) (x : Nat → α) (l : List β) (dx : β) (d : γ) {i : Nat} (hi : i < 16)
    (hl : l.length = 16) : nth ((List.zip (byLane x) l).map f) i d = f (x i, nth l i dx) := by
  have hz : i < (List.zip (byLane x) l).length := by simp [byLane, hl, hi]
  simp [nth, byLane, hl, hi]

theorem CoreRt.alane_landOne_add (k : CoreRt) (a b : BitVec 3) {l : List Int} {i : Nat} (hi : i < 16) (hl : l.length = 16) :
    (k.landOne (.acc a.toNat (.add l))).alane b i
      = if b = a then (acc40 k.satm (k.alane a i + nth l i 0)).1 else k.alane b i := by
  refine (k.alane_setAcc a b _ hi).trans ?_
  rw [List.map_map, CoreRt.acc_eq_byLane, nth_zip_map _ _ l 0 0 hi hl]
  exact if_congr Iff.rfl (wrapInt_acc40 _ _) rfl

theorem CoreRt.getLsbD_cstat_landOne_add (k : CoreRt) (a : BitVec 3) {l : List Int} {i : Nat} (hi : i < 16)
    (hl : l.length = 16) : (k.landOne (.acc a.toNat (.add l))).cstat.getLsbD (16 + i)
      = (k.cstat.getLsbD (16 + i) || (acc40 k.satm (k.alane a i + nth l i 0)).2) := by
  refine BitVec.getLsbD_or.trans ?_
  rw [getLsbD_ovBits _ hi]
  refine congrArg _ ?_
  rw [List.map_map, CoreRt.acc_eq_byLane, nth_zip_map _ _ l 0 false hi hl]
  rfl

/-! ### Masks of CSTAT (Table 11.4) -/

theorem getLsbD_stickyMask {j : Nat} (hj : j < 32) : stickyMask.getLsbD j = decide (11 ≤ j) := by
  revert j; decide
theorem getLsbD_modeMask {j : Nat} (hj : j < 32) :
    modeMask.getLsbD j = decide (j = 4 ∨ j = 5 ∨ j = 7 ∨ j = 8 ∨ j = 9) := by
  revert j; decide

/-! ### The cycle a scalar result is readable in -/

theorem CoreRt.sreg_laterS (k : CoreRt) (d e : BitVec 5) (v : Word) (n m : Nat) (hn1 : 1 ≤ n) (hn3 : n ≤ 3) :
    let k' := k.laterS n d v
    (m < n → (k'.toCycle (k.cycle + m)).sreg e = (k.toCycle (k.cycle + m)).sreg e)
    ∧ (d ≠ 0 → (k'.toCycle (k.cycle + n)).sreg d = v)
    ∧ (e ≠ d → (k'.toCycle (k.cycle + n)).sreg e = (k.toCycle (k.cycle + n)).sreg e) := by
  have hread (k : CoreRt) (j : Nat) (r : BitVec 5) : (k.toCycle j).sreg r = (k.landTo j).sreg r := rfl
  have hland : (k.laterS n d v).landTo (k.cycle + n)
      = (k.landTo (k.cycle + n)).setSreg (k.landTo (k.cycle + n)).shadow d.toNat v := by
    rw [k.laterS_eq_flying, k.landTo_flying_at (by omega) rfl rfl, k.landTo_shadow]
    rfl
  refine ⟨fun hm => ?_, fun hd => ?_, fun hne => ?_⟩
  · rw [hread, hread, k.laterS_eq_flying, k.landTo_flying_before (by omega) (by simpa using hm), CoreRt.flying_sreg]
  · rw [hread, hland, CoreRt.sreg_setSreg, if_pos ⟨rfl, hd⟩]
  · rw [hread, hread, hland, CoreRt.sreg_setSreg, if_neg fun h => hne h.1]

/-- Settles O9: a result in flight joins the others without touching them, and lands behind them in its own cycle. -/
theorem resultLatency : Obligations.ResultLatency := by
  unfold Obligations.ResultLatency
  refine ⟨⟨?_, CoreRt.sreg_zero⟩, ?_, ?_, ?_, ?_, ?_, ?_, ?_⟩
  · exact CoreRt.sreg_laterS
  · exact fun k r q l i hi => k.lane_setVreg r q l hi
  · exact fun k a b l i hi hl => k.alane_landOne_add a b hi hl
  · exact fun k a l i hi hl => k.getLsbD_cstat_landOne_add a hi hl
  · intro k a l i hi hlo hhi
    exact ⟨by rw [CoreRt.landOne, CoreRt.alane_setAcc _ _ _ _ hi, if_pos rfl, wrapInt_40_of_fits hlo hhi], rfl⟩
  · intro k b j
    exact BitVec.getLsbD_or
  · intro k b j
    change (k.cstat &&& ~~~(b &&& stickyMask)).getLsbD j = _
    by_cases hj : j < 32
    · simp only [BitVec.getLsbD_and, BitVec.getLsbD_not, getLsbD_stickyMask hj, hj, decide_true, Bool.true_and]
    · simp [BitVec.getLsbD_of_ge, Nat.le_of_not_lt hj]
  · intro k v j
    change ((k.cstat &&& ~~~modeMask) ||| (v &&& modeMask)).getLsbD j = _
    by_cases hj : j < 32
    · simp only [BitVec.getLsbD_or, BitVec.getLsbD_and, BitVec.getLsbD_not, getLsbD_modeMask hj, hj]
      split <;> simp [*]
    · simp [BitVec.getLsbD_of_ge, Nat.le_of_not_lt hj]

end Sys2Proof.Machine
end

