-- ==== Sys2Proof/Proofs/CoreControl.lean ====
section
/-! Control flow and special registers of the cores (R262, R267, R292, R294, Tables 12.7 and 12.8). -/

namespace Sys2Proof.Machine

/-! ### Branches (R292) -/

/-- An instruction that only sets where issue goes on behind its delay slots completes. -/
theorem branchTo_next (c : CoreId) (f : CoreRt → Nat) (s : State) (pc : Nat) (h : s.canIssue c = true)
    (hpc : f (s.coreNow c) % 2 ^ 15 = pc) :
    ∃ t, coreOp c (fun k => k.branchTo (f k)) s = .next t ∧ Issued s t c { s.coreNow c with flow := some (2, .to pc) } :=
  coreOp_next c _ s _ h (by rw [← hpc]; rfl)

/-- A conditional branch goes to its target or behind its delay slots. -/
theorem branchOp_next (c : CoreId) (taken : CoreRt → Bool) (target : BitVec 15) (s : State) (b : Bool) (h : s.canIssue c = true)
    (hb : taken (s.coreNow c) = b) :
    ∃ t, branchOp c taken target s = .next t ∧ Issued s t c
      { s.coreNow c with flow := some (2, .to (if b then target.toNat else ((s.core c).pc + 3) % 2 ^ 15)) } := by
  refine branchTo_next c (fun k => if taken k then target.toNat else k.pc + 3) s _ h ?_
  simp only [hb, State.coreNow_pc]
  cases b
  · rfl
  · exact Nat.mod_eq_of_lt target.isLt

/-- Settles O16, by cases on the instruction. -/
theorem branches : Obligations.Branches := by
  unfold Obligations.Branches
  refine ⟨?_, ?_⟩
  · intro i s c pc hpc hc
    cases i <;> simp only [State.branchTarget, reduceCtorEq, Option.some.injEq, Prod.mk.injEq] at hpc
    all_goals obtain ⟨rfl, rfl⟩ := hpc
    case beq => rw [exec_beq]; exact branchOp_next _ _ _ s _ hc rfl
    case bne => rw [exec_bne]; exact branchOp_next _ _ _ s _ hc (decide_not.trans rfl)
    case blt => rw [exec_blt]; exact branchOp_next _ _ _ s _ hc (BitVec.slt_eq_decide ..)
    case bge => rw [exec_bge]; exact branchOp_next _ _ _ s _ hc (BitVec.sle_eq_decide ..)
    case bltu => rw [exec_bltu]; exact branchOp_next _ _ _ s _ hc (BitVec.ult_eq_decide ..)
    case bgeu => rw [exec_bgeu]; exact branchOp_next _ _ _ s _ hc (BitVec.ule_eq_decide ..)
    case jmp => rw [exec_jmp]; exact branchTo_next _ _ s _ hc (Nat.mod_eq_of_lt (BitVec.isLt _))
    case jr => rw [exec_jr]; exact branchTo_next _ _ s _ hc rfl
  · intro s c target hc
    rw [exec_call]
    refine coreOp_next c _ s _ hc ?_
    simp only [CoreRt.branchTo, Nat.mod_eq_of_lt target.isLt]
    rfl

/-! ### How issue goes on (R262, R267) -/

theorem getLsbD_cstatMask {j : Nat} (hj : j < 32) :
    cstatMask.getLsbD j = !decide (j = 0 ∨ j = 1 ∨ j = 6 ∨ j = 10) := by
  revert j; decide

/-- An RTI of a handler of a run restores the address, the status and the bank saved at its level. -/
theorem CoreRt.rtiTo_of_run (k : CoreRt) {l : Nat} (hl : l < 2) (hrun : k.idleIrq = false) (v : Word) :
    k.rtiTo l v = { k with cstat := nth k.istat l 0 &&& cstatMask, pc := (nth k.ira l 0).toNat % 2 ^ 15,
                           shadow := k.shadow && decide (l = 0), flow := none } := by
  have hshadow : (l != 1) = decide (l = 0) := by interval_cases l <;> rfl
  simp [CoreRt.rtiTo, hrun, hshadow]

/-- Settles O17: the branches of `CoreRt.advance`, one by one. -/
theorem flowOfIssue : Obligations.FlowOfIssue := by
  unfold Obligations.FlowOfIssue
  refine ⟨?_, ?_, ?_, ?_, ?_, ?_⟩
  · intro was k v hrep hflow
    simp only [CoreRt.advance, hrep, hflow]
  · intro was k v f hrep hflow
    simp only [CoreRt.advance, hrep, hflow]
    rfl
  · intro was k v t hrep hflow
    simp only [CoreRt.advance, hrep, hflow]
    rfl
  · intro was k v n hrep
    simp only [CoreRt.advance, hrep]
    rfl
  · intro was k v hrep
    simp only [CoreRt.advance, hrep]
    rfl
  · intro was k v l hrep hflow hl hrun
    have h : was.advance k v = { k with cycle := was.cycle + 1 }.rtiTo l v := by
      simp only [CoreRt.advance, hrep, hflow]
      rfl
    simp only [h, CoreRt.rtiTo_of_run { k with cycle := was.cycle + 1 } hl hrun, true_and]
    intro j
    by_cases hj : j < 32
    · simp only [BitVec.getLsbD_and, getLsbD_cstatMask hj]
    · simp [BitVec.getLsbD_of_ge, Nat.le_of_not_lt hj]

/-! ### MTS to CORE_IPEND in a delay slot (R294, R320) -/

/-- Core 0 in RUN with plane A of channel 0 bound and in HAUL, about to issue the last delay slot of a jump to the library entry
0x4000 with the parameter address 1, which no block of Table 13.1 may have. -/
def jumpingIntoLib : State :=
  let s := ((State.reset.wr Reg.BOOT_STATE_STATE 0 6).wr Reg.CORE_STAT_STATE 0 2).wr Reg.FOLD_PSTAT_OWN_A 0 2
  s.setCore 0 { CoreRt.reset with bank0 := [(4, 1)], flow := some (1, .to 0x4000), binds := [(0, 0)] }

/-- The word of FOLD_PSTAT of channel 0 that a command leaves. -/
def pstatAfter (i : Instr) (s : State) : Option Word :=
  match exec i s with
  | .next t => some (t.reg (Reg.FOLD_PSTAT_OWN_A.addr 0))
  | _ => none

/-- The kernel that the jump enters fails its first check and releases the plane: FOLD_PSTAT passes from HAUL to FREE. -/
theorem pstatAfter_mts_jumpingIntoLib : pstatAfter (.mts 0 1 0) jumpingIntoLib = some 0 := by decide +kernel

/-- Refutes O19: its second clause lets an MTS of IPEND change no register but CORE_IPEND and CORE_PC, but in the last delay slot of
a jump to a library entry the instruction also enters the kernel, whose failed check at entry releases the planes of the job
(R301, R320). -/
theorem not_specialWrites : ¬ Obligations.SpecialWrites := by
  unfold Obligations.SpecialWrites
  rintro ⟨-, hipend⟩
  obtain ⟨t, hexec, -, hregs⟩ := hipend jumpingIntoLib 0 0 (by decide +kernel)
  have hkept : t.reg (Reg.FOLD_PSTAT_OWN_A.addr 0) = jumpingIntoLib.reg (Reg.FOLD_PSTAT_OWN_A.addr 0) :=
    hregs _ (by decide) (by decide)
  have hfreed : some (t.reg (Reg.FOLD_PSTAT_OWN_A.addr 0)) = some 0 := by
    rw [← pstatAfter_mts_jumpingIntoLib, pstatAfter, hexec]
  have hheld : jumpingIntoLib.reg (Reg.FOLD_PSTAT_OWN_A.addr 0) = 2 := by decide +kernel
  have hne : (0 : Word) ≠ 2 := by decide
  exact hne ((Option.some.inj hfreed).symm.trans (hkept.trans hheld))

end Sys2Proof.Machine
end

