-- ==== Sys2Proof/Proofs/CoreMemory.lean ====
section
/-! Loads, stores and the register window of the cores (R252, R253, R271, R288, Table 12.4). -/

namespace Sys2Proof.Machine

/-! ### What a log record leaves alone (R428, R429) -/

/-- `t` is `s` but for the log ring, the registers of the log line and the model's counters of free values and stamps. -/
def State.Logged (s t : State) : Prop :=
  ∃ (regs raised : SMap Word) (log : LogSt) (free sub : Nat),
    t = { s with regs := regs, raised := raised, log := log, free := free, sub := sub } ∧ ∀ a, outsideLog a → t.reg a = s.reg a

theorem State.Logged.refl (s : State) : s.Logged s := ⟨_, _, _, _, _, rfl, fun _ _ => rfl⟩

theorem State.Logged.reg {s t : State} (h : s.Logged t) {a : Nat} (ha : outsideLog a) : t.reg a = s.reg a := by
  obtain ⟨_, _, _, _, _, -, hreg⟩ := h
  exact hreg a ha

theorem State.Logged.trans {s t u : State} (h : s.Logged t) (k : t.Logged u) : s.Logged u := by
  have hreg (a : Nat) (ha : outsideLog a) : u.reg a = s.reg a := (k.reg ha).trans (h.reg ha)
  obtain ⟨_, _, _, _, _, rfl, -⟩ := h
  obtain ⟨_, _, _, _, _, rfl, -⟩ := k
  exact ⟨_, _, _, _, _, rfl, hreg⟩

theorem State.logged_log_ (s : State) (code island : Nat) (set : Bool) (a0 a1 a2 a3 : Nat) (t : Time) :
    s.Logged (s.log_ code island set a0 a1 a2 a3 t) := by
  have hreg := (s.calAgree_log_ code a0 a1 a2 a3 island set t).reg
  have hform : ∃ (regs raised : SMap Word) (log : LogSt) (free sub : Nat), s.log_ code island set a0 a1 a2 a3 t =
      { s with regs := regs, raised := raised, log := log, free := free, sub := sub } := by
    unfold State.log_
    dsimp only
    split <;> exact ⟨_, _, _, _, _, rfl⟩
  obtain ⟨regs, raised, log, free, sub, h⟩ := hform
  exact ⟨regs, raised, log, free, sub, h, fun a ha => (hreg a ha)⟩

/-- The stamp of an event of the link island takes at most one free value. -/
theorem State.linkTime_state (s : State) :
    s.linkTime.2 = s ∨ ∃ n, s.linkTime.2 = { s with free := s.free + 1, sub := n } := by
  unfold State.linkTime
  split
  · exact .inl rfl
  · exact .inr ⟨_, rfl⟩

theorem State.logged_eventTime (s : State) (island who : Nat) : s.Logged (s.eventTime island who).2 := by
  unfold State.eventTime
  split
  · rcases s.linkTime_state with h | ⟨n, h⟩ <;> rw [h]
    · exact .refl s
    · exact ⟨_, _, _, _, _, rfl, fun _ _ => rfl⟩
  · split
    · exact .refl s
    · split <;> exact .refl s

theorem State.logged_logBy (s : State) (who code island a0 a1 a2 a3 : Nat) : s.Logged (s.logBy who code island a0 a1 a2 a3) :=
  (s.logged_eventTime island who).trans (State.logged_log_ ..)

/-! ### Loads and stores are accesses (Table 12.4) -/

/-- An access at `a` of `n` bytes aligned to `al`, formed by an address generator or not, goes to DM or the data ROM (R253). -/
def toMemory (x : Nat × Bool) (n al : Nat) : Prop := n ≠ 4 ∨ inWindow x.1 = false ∨ x.2 = true ∨ x.1 % al ≠ 0

theorem not_toWindow {x : Nat × Bool} (h : toMemory x 4 4) : ¬ (!x.2 && inWindow x.1 && decide (x.1 % 4 = 0)) = true := by
  rcases h with h | h | h | h <;> simp_all

theorem CoreRt.postUpdate_still (k : CoreRt) (p : BitVec 5) (m : Mem) : (k.postUpdate p m).still = k.still := by
  cases m
  case off => rfl
  case post => rfl
  case circ => unfold CoreRt.postUpdate CoreRt.circ; dsimp only; split <;> rfl
  case circReg => unfold CoreRt.postUpdate CoreRt.circ; dsimp only; split <;> rfl

@[simp] theorem CoreRt.postUpdate_shadow (k : CoreRt) (p : BitVec 5) (m : Mem) : (k.postUpdate p m).shadow = k.shadow := by
  simpa only [CoreRt.still] using congrArg CoreRt.shadow (k.postUpdate_still p m)
@[simp] theorem CoreRt.postUpdate_dm (k : CoreRt) (p : BitVec 5) (m : Mem) : (k.postUpdate p m).dm = k.dm := by
  simpa only [CoreRt.still] using congrArg CoreRt.dm (k.postUpdate_still p m)

@[simp] theorem CoreRt.postUpdate_wiped (k : CoreRt) (p : BitVec 5) (m : Mem) : (k.postUpdate p m).wiped = k.wiped := by
  simpa only [CoreRt.still] using congrArg CoreRt.wiped (k.postUpdate_still p m)

theorem leNat_lane (bs : List Byte) (i : Nat) (h : 2 * i + 1 < bs.length) :
    BitVec.ofNat 16 (leNat ((bs.drop (2 * i)).take 2)) = nth bs (2 * i + 1) 0 ++ nth bs (2 * i) 0 := by
  have h0 : 2 * i < bs.length := by omega
  have hpair : (bs.drop (2 * i)).take 2 = [bs[2 * i], bs[2 * i + 1]] := by
    rw [List.drop_eq_getElem_cons h0, List.drop_eq_getElem_cons h]
    rfl
  have hlo := (bs[2 * i]).isLt
  have hhi := (bs[2 * i + 1]).isLt
  refine BitVec.eq_of_toNat_eq ?_
  rw [hpair, nth, nth, List.getElem?_eq_getElem h0, List.getElem?_eq_getElem h, Option.getD_some, Option.getD_some,
    BitVec.toNat_append, ← Nat.shiftLeft_add_eq_or_of_lt hlo, Nat.shiftLeft_eq, BitVec.toNat_ofNat, leNat, leNat, leNat]
  omega

theorem toLanes_eq (bs : List Byte) (h : bs.length = 32) :
    toLanes bs = byLane fun i => nth bs (2 * i + 1) 0 ++ nth bs (2 * i) 0 :=
  byLane_congr fun i hi => leNat_lane bs i (by omega)

/-- A load issues as a read of DM or the data ROM whose bytes it files as `loadedWhat` says, unless it reads the register window. -/
theorem load_issue {i : Instr} {c : CoreId} {p : BitVec 5} {m : Mem} {n al : Nat} {e : Ecc}
    (h : loadForm i = some (c, p, m, n, al, e)) :
    ∃ (eff : State → Did) (put : CoreRt → List Byte → CoreRt), (∀ s, exec i s = .next (s.issue c eff))
      ∧ (∀ u : State, toMemory ((u.core c).address p m) n al → eff u = u.loadFrom c p m n al e put)
      ∧ ∀ k bs, bs.length = n → ∃ w, loadedWhat k.shadow bs i = some w ∧ put k bs = k.later 3 w := by
  cases i <;> simp only [loadForm, reduceCtorEq, Option.some.injEq, Prod.mk.injEq] at h
  all_goals obtain ⟨rfl, rfl, rfl, rfl, rfl, rfl⟩ := h
  case ldb => exact ⟨_, _, fun _ => rfl, fun _ _ => rfl, fun k bs _ => ⟨_, rfl, rfl⟩⟩
  case ldbu => exact ⟨_, _, fun _ => rfl, fun _ _ => rfl, fun k bs _ => ⟨_, rfl, rfl⟩⟩
  case ldh => exact ⟨_, _, fun _ => rfl, fun _ _ => rfl, fun k bs _ => ⟨_, rfl, rfl⟩⟩
  case ldhu => exact ⟨_, _, fun _ => rfl, fun _ _ => rfl, fun k bs _ => ⟨_, rfl, rfl⟩⟩
  case ldw =>
    refine ⟨_, _, fun _ => rfl, fun u hu => ?_, fun k bs _ => ⟨_, rfl, rfl⟩⟩
    rw [State.loadWord]
    exact if_neg (not_toWindow hu)
  case vld =>
    exact ⟨_, _, fun _ => rfl, fun _ _ => rfl, fun k bs hbs => ⟨_, rfl, by rw [toLanes_eq bs hbs]⟩⟩

/-- A store issues as a write of DM of the bytes `storedByte` gives, unless it writes the register window. -/
theorem store_issue {i : Instr} {c : CoreId} {p : BitVec 5} {m : Mem} {n al : Nat} (h : storeForm i = some (c, p, m, n, al)) :
    ∃ (eff : State → Did) (bytes : CoreRt → List Byte), (∀ s, exec i s = .next (s.issue c eff))
      ∧ (∀ u : State, toMemory ((u.core c).address p m) n al → eff u = u.storeTo c p m al (bytes (u.core c)))
      ∧ ∀ k, bytes k = (List.range n).map fun j => k.storedByte j i := by
  cases i <;> simp only [storeForm, reduceCtorEq, Option.some.injEq, Prod.mk.injEq] at h
  all_goals obtain ⟨rfl, rfl, rfl, rfl, rfl⟩ := h
  case stb c t _ _ => exact ⟨_, fun k => leBytes 1 (k.sreg t).toNat, fun _ => rfl, fun _ _ => rfl, fun k => rfl⟩
  case sth c t _ _ => exact ⟨_, fun k => leBytes 2 (k.sreg t).toNat, fun _ => rfl, fun _ _ => rfl, fun k => rfl⟩
  case stw c t _ _ =>
    refine ⟨_, fun k => leBytes 4 (k.sreg t).toNat, fun _ => rfl, fun u hu => ?_, fun k => rfl⟩
    rw [State.storeWord]
    exact if_neg (not_toWindow hu)
  case vst c t _ _ => exact ⟨_, fun k => fromLanes (k.vreg t.toNat), fun _ => rfl, fun _ _ => rfl, fun k => rfl⟩

/-! ### What entry to a library kernel touches (R300, R301, R320) -/

/-- `t` is `s` but for registers, core `c` and the model's counter of free values. -/
def State.OnCore (c : Nat) (s t : State) : Prop :=
  ∃ (regs : SMap Word) (cores : SMap CoreRt) (free : Nat), t = { s with regs := regs, cores := cores, free := free }
    ∧ ∀ e, e ≠ c → t.core e = s.core e

theorem State.OnCore.refl (c : Nat) (s : State) : s.OnCore c s := ⟨_, _, _, rfl, fun _ _ => rfl⟩

theorem State.OnCore.trans {c : Nat} {s t u : State} (h : s.OnCore c t) (k : t.OnCore c u) : s.OnCore c u := by
  obtain ⟨_, _, _, rfl, hcores⟩ := h
  obtain ⟨_, _, _, rfl, kcores⟩ := k
  exact ⟨_, _, _, rfl, fun e he => (kcores e he).trans (hcores e he)⟩

theorem State.onCore_setCore (s : State) (c : Nat) (k : CoreRt) : s.OnCore c (s.setCore c k) :=
  ⟨_, _, _, rfl, fun _ he => State.setCore_other _ _ he⟩

theorem State.onCore_wr (s : State) (c : Nat) (f : Field) (i v : Nat) : s.OnCore c (s.wr f i v) := ⟨_, _, _, rfl, fun _ _ => rfl⟩

theorem State.onCore_each {α : Type} {c : Nat} {f : α → State → State} (hf : ∀ x t, State.OnCore c t (f x t)) (s : State)
    (l : List α) : s.OnCore c (s.each l f) :=
  State.each_keeps (P := s.OnCore c) (fun x _ _ ht => ht.trans (hf x _)) (.refl c s)

theorem State.onCore_release (s : State) (c ch pl : Nat) : s.OnCore c (s.release ch pl) := by
  unfold State.release State.setOwn
  split
  · split <;> exact s.onCore_wr ..
  · exact .refl c s

theorem State.onCore_releaseAll (s : State) (c : Nat) (bs : List (Nat × Nat)) : s.OnCore c (s.releaseAll bs) := by
  rw [State.releaseAll_eq_each]
  refine State.onCore_each (fun b t => ?_) s bs
  rcases t.releaseOne_or b with h | h <;> rw [h]
  · exact .refl c t
  · exact t.onCore_release c b.1 b.2

theorem State.onCore_dropBinds (s : State) (c : Nat) : s.OnCore c (s.dropBinds c) :=
  (s.onCore_setCore ..).trans (State.onCore_releaseAll ..)

theorem State.onCore_unbind (s : State) (c : Nat) (bs : List (Nat × Nat)) : s.OnCore c (s.unbind c bs) :=
  (s.onCore_setCore ..).trans (State.onCore_releaseAll ..)

theorem State.onCore_libFail (s : State) (c : Nat) (r : LibRun) (cause detail : Nat) : s.OnCore c (s.libFail c r cause detail) :=
  (s.onCore_dropBinds c).trans (State.onCore_setCore ..)

theorem State.onCore_libSpace (s : State) (c : Nat) (r : LibRun) : s.OnCore c (s.libSpace c r) :=
  ⟨_, _, _, rfl, fun _ he => State.setCore_other _ _ he⟩

theorem State.onCore_libStart (s : State) (c : Nat) (r : LibRun) : s.OnCore c (s.libStart c r) := by
  unfold State.libStart
  dsimp only
  split
  · split
    · exact (s.onCore_dropBinds c).trans (State.onCore_setCore ..)
    · exact (s.onCore_libSpace c r).trans (State.onCore_setCore ..)
  · exact ((s.onCore_unbind c _).trans (State.onCore_libSpace ..)).trans (State.onCore_setCore ..)
  · exact (s.onCore_libSpace c r).trans (State.onCore_setCore ..)

theorem State.onCore_enterLib (s : State) (c : Nat) : s.OnCore c (s.enterLib c) := by
  unfold State.enterLib
  dsimp only
  split
  · split
    · exact (s.onCore_setCore ..).trans (State.onCore_libFail ..)
    · exact (s.onCore_setCore ..).trans (State.onCore_libStart ..)
  · exact .refl c s

/-- A core that does not stand at a library entry enters none. -/
theorem State.enterLib_of_elsewhere {s : State} {c : Nat} (h : libKind (s.core c).pc = 0) : s.enterLib c = s := by
  simp [State.enterLib, h]

/-- A jump that leads to no library entry leaves the core outside the library. -/
theorem CoreRt.libKind_advance {k : CoreRt} (hj : k.jumps = true) (hl : k.entersLib = false) (k' : CoreRt) (v : Word) :
    libKind (k.advance k' v).pc = 0 := by
  unfold CoreRt.jumps at hj
  unfold CoreRt.entersLib at hl
  split at hj
  · rename_i n t hflow
    obtain ⟨hrep, hn⟩ := Bool.and_eq_true_iff.mp hj
    have hn : ¬ 1 < n := by simpa using hn
    simp only [hflow, hj, Bool.true_and, bne_eq_false_iff_eq] at hl
    simpa [CoreRt.advance, Option.isNone_iff_eq_none.mp hrep, hflow, hn] using hl
  · cases hj

/-! ### What an issue leaves (R257, R259) -/

theorem State.atIssue_reg (s : State) (c : Nat) : (s.atIssue c).rd Reg.CORE_PC_PC c = (s.core c).pc % 2 ^ 15 := by
  rw [State.atIssue, State.rd_wr_same _ Reg.CORE_PC_PC _ _ (by decide), State.coreNow_pc]
  rfl

theorem State.atIssue_core_other (s : State) {c e : Nat} (h : e ≠ c) : (s.atIssue c).core e = s.core e := by
  rw [State.atIssue]
  exact State.setCore_other _ _ h

/-- An instruction whose effect is on its core alone has issued. -/
theorem State.issued_of_frame {c : Nat} {s u : State} (h : s.canIssue c = true) {eff : State → Did}
    (he : eff (s.atIssue c) = .ok u none) (hframe : ∃ regs cores, u = { s with regs := regs, cores := cores })
    (hreg : ∀ a, u.reg a = (s.atIssue c).reg a) (hother : ∀ e, e ≠ c → u.core e = s.core e) :
    Issued s (s.issue c eff) c (u.core c) := by
  rw [State.issue_eq c eff s h, he]
  refine ⟨u.setCore c ((s.coreNow c).advance (u.core c) (s.reg (Reg.CORE_CSINIT_V.addr c))),
    ⟨?_, fun e hce => ?_, fun a ha => ?_, ?_⟩, State.setCore_same .., rfl⟩
  · exact (congrArg Reg.CORE_PC_PC.read (hreg _)).trans (s.atIssue_reg c)
  · exact (State.setCore_other _ _ hce).trans (hother e hce)
  · exact (hreg a).trans (s.reg_atIssue_other c ha)
  · obtain ⟨_, _, rfl⟩ := hframe
    rfl

/-- Writing DM of core `c` changes nothing else. -/
theorem State.dmWrite_eq (s : State) (c a : Nat) (bs : List Byte) : s.dmWrite c a bs = s.setCore c { s.core c with
    dm := ((List.range bs.length).zip bs).foldl (fun m b => m.put (a + b.1) b.2) (s.core c).dm } := rfl

/-- A run of bytes put into a map from key `a` on: inside it the bytes are found, outside it what was there. -/
theorem SMap.find_foldl_put (m : SMap Byte) (a : Nat) (bs : List Byte) (b : Nat) :
    SMap.find (((List.range bs.length).zip bs).foldl (fun m b => SMap.put m (a + b.1) b.2) m) b =
      if a ≤ b ∧ b < a + bs.length then some (nth bs (b - a) 0) else m.find b := by
  induction bs using List.reverseRecOn with
  | nil => rw [if_neg (by simp)]; rfl
  | append_singleton bs x ih =>
    rw [List.length_append, List.length_singleton, List.range_succ, List.zip_append (by simp), List.foldl_append]
    simp only [List.zip_cons_cons, List.zip_nil_right, List.foldl_cons, List.foldl_nil]
    by_cases hb : b = a + bs.length
    · subst hb
      rw [SMap.find_put_same, if_pos (by omega), nth, Nat.add_sub_cancel_left, List.getElem?_concat_length]
      rfl
    · rw [SMap.find_put_other _ _ hb, ih]
      by_cases hin : a ≤ b ∧ b < a + bs.length
      · rw [if_pos hin, if_pos (by omega), nth, nth, List.getElem?_append_left (by omega)]
      · rw [if_neg hin, if_neg (by omega)]

/-- A byte of DM after a write into it. -/
theorem State.dm_dmWrite (s : State) (c a : Nat) (bs : List Byte) (b : Nat) :
    (s.dmWrite c a bs).dm c b = if a ≤ b ∧ b < a + bs.length then nth bs (b - a) 0 else s.dm c b := by
  simp only [State.dmWrite_eq, State.dm, State.dmFill, State.setCore_same, SMap.getD, SMap.find_foldl_put]
  split <;> rfl

/-! ### Loads -/

@[simp] theorem CoreRt.awake_wiped (k : CoreRt) (n : Nat) : (k.awake n).wiped = k.wiped := by
  have h := congrArg CoreRt.wiped (CoreRt.still_landTo k n)
  simp only [CoreRt.still] at h
  unfold CoreRt.awake
  split <;> simp [CoreRt.toCycle, h]

@[simp] theorem State.coreNow_wiped (s : State) (c : Nat) : (s.coreNow c).wiped = (s.core c).wiped := by
  have h := congrArg CoreRt.wiped (CoreRt.still_landTo ((s.core c).awake (s.nowCycle c)) ((s.core c).awake (s.nowCycle c)).cycle)
  simp only [CoreRt.still] at h
  exact h.trans (CoreRt.awake_wiped ..)

theorem State.dm_congr {s t : State} {c : Nat} (hdm : (t.core c).dm = (s.core c).dm) (hw : (t.core c).wiped = (s.core c).wiped)
    (hm : t.mram = s.mram) (b : Nat) : t.dm c b = s.dm c b := by
  simp only [State.dm, State.dmFill, hdm, hw, hm]

theorem State.dm_atIssue (s : State) (c b : Nat) : (s.atIssue c).dm c b = s.dm c b :=
  State.dm_congr (s := s) (t := s.atIssue c) (by simp) (by simp) rfl b

theorem State.dataBytes_atIssue (s : State) (c a n : Nat) : (s.atIssue c).dataBytes c a n = s.dataBytes c a n := by
  simp only [State.dataBytes, State.dmBytes, State.dm_atIssue]

theorem State.length_dataBytes (s : State) (c a n : Nat) : (s.dataBytes c a n).length = n := by
  unfold State.dataBytes
  split <;> simp [State.dmBytes]

/-- DM and the data ROM lie below the register window (Table 11.2). -/
theorem toMemory_of_inDm {x : Nat × Bool} {n al : Nat} (h : inDm x.1 n = true) : toMemory x n al :=
  .inr (.inl (by simp [inDm, inWindow] at *; omega))

theorem toMemory_of_inRom {x : Nat × Bool} {n al : Nat} (h : inRom x.1 n = true) : toMemory x n al :=
  .inr (.inl (by simp [inRom, inWindow] at *; omega))

/-- A load inside DM or the data ROM delivers its bytes and takes its memory outcome. -/
theorem State.loadFrom_inside {u : State} {c : Nat} {p : BitVec 5} {m : Mem} {n al : Nat} (e : Ecc)
    (put : CoreRt → List Byte → CoreRt) (hal : ((u.core c).address p m).1 % al = 0)
    (hin : inDm ((u.core c).address p m).1 n = true
      ∨ (((u.core c).address p m).2 = false ∧ inRom ((u.core c).address p m).1 n = true)) :
    u.loadFrom c p m n al e put =
      let r := u.deliverBytes (u.dataBytes c ((u.core c).address p m).1 n) e
      .ok ((r.2.setCore c (put ((u.core c).postUpdate p m) r.1)).loadEcc c ((u.core c).address p m).1 e) none := by
  unfold State.loadFrom
  dsimp only
  rw [if_pos (by rcases hin with h | ⟨h, h'⟩ <;> simp [*])]

/-- A clean load takes the bytes that stand there. -/
theorem loads_clean {i : Instr} {s : State} {c : CoreId} {p : BitVec 5} {m : Mem} {n al : Nat} {w : Landing}
    (hform : loadForm i = some (c, p, m, n, al, .ok)) (hc : s.canIssue c = true)
    (hw : loadedWhat (s.coreNow c).shadow (s.dataBytes c ((s.coreNow c).address p m).1 n) i = some w)
    (hal : ((s.coreNow c).address p m).1 % al = 0)
    (hin : inDm ((s.coreNow c).address p m).1 n = true
      ∨ (((s.coreNow c).address p m).2 = false ∧ inRom ((s.coreNow c).address p m).1 n = true)) :
    ∃ t, exec i s = .next t ∧ Issued s t c (((s.coreNow c).postUpdate p m).later 3 w) := by
  obtain ⟨eff, put, hexec, heff, hput⟩ := load_issue hform
  obtain ⟨w', hw', hput⟩ := hput ((s.coreNow c).postUpdate p m) _ (s.length_dataBytes c ((s.coreNow c).address p m).1 n)
  rw [CoreRt.postUpdate_shadow, hw] at hw'
  cases hw'
  refine ⟨_, hexec s, State.issued_of_core c s _ hc eff ?_⟩
  rw [heff _ (by
      rw [State.atIssue_core]
      exact hin.elim toMemory_of_inDm fun h => toMemory_of_inRom h.2),
    State.loadFrom_inside .ok put (by rwa [State.atIssue_core]) (by rwa [State.atIssue_core]), State.atIssue_core,
    State.dataBytes_atIssue, ← hput]
  rfl

/-- An instruction that enters no library kernel has issued, and its core moves on. -/
theorem State.issue_elsewhere {c : Nat} {s u : State} (h : s.canIssue c = true) {eff : State → Did}
    (he : eff (s.atIssue c) = .ok u none) (hl : (s.coreNow c).entersLib = false) :
    s.issue c eff = u.setCore c ((s.coreNow c).advance (u.core c) (s.reg (Reg.CORE_CSINIT_V.addr c))) := by
  rw [State.issue_eq c eff s h, he]
  dsimp only
  split
  · rename_i hj
    refine State.enterLib_of_elsewhere ?_
    rw [State.setCore_same]
    exact CoreRt.libKind_advance hj hl _ _
  · rfl

theorem outsideLog_core (f : Field) (c : Nat) (h : 0x30000 ≤ f.base) : outsideLog (f.addr c) :=
  .inr (by simp only [Field.addr]; omega)

/-- CORE_STAT.UE is set, the safety source noted, and MUE joins the results in flight (R271). -/
def State.ueMarked (c : Nat) (w : State) : State :=
  let v := (w.put Reg.CORE_STAT_UE c true).sourceAt 5 (w.coreTime c)
  v.setCore c ((w.core c).later 3 (.flags 0x800))

theorem State.ueMarked_frame (w : State) (c : Nat) : (w.ueMarked c).core c = (w.core c).later 3 (.flags 0x800)
    ∧ ∀ a, (w.ueMarked c).reg a = (w.put Reg.CORE_STAT_UE c true).reg a :=
  ⟨State.setCore_same .., fun _ => rfl⟩

theorem State.loadEcc_uncorrectable (u : State) (c : Nat) {a : Nat} (ha : a < 0x80000) :
    u.loadEcc c a .uncorrectable = ((u.bump Reg.CORE_ECC_UE c 1).logBy c 0x41 3 1 c (a / 4) 0).ueMarked c := by
  simp only [State.loadEcc, State.coreEcc, ha, decide_true, if_true, Ecc.ce, Ecc.ue, Bool.false_eq_true, if_false, Bool.and_self]
  rfl

/-- What the outcome of a read of DM leaves (R271). -/
theorem State.loadEcc_inDm (u : State) (c : Nat) {a : Nat} (ha : a < 0x80000) (e : Ecc) :
    ((u.loadEcc c a e).core c = if e = .uncorrectable then (u.core c).later 3 (.flags 0x800) else u.core c)
    ∧ (u.loadEcc c a e).rd Reg.CORE_ECC_CE c
        = (if e = .corrected ∨ e = .miscorrected then min (u.rd Reg.CORE_ECC_CE c + 1) 0xFFFF else u.rd Reg.CORE_ECC_CE c)
    ∧ (u.loadEcc c a e).rd Reg.CORE_ECC_UE c
        = (if e = .uncorrectable then min (u.rd Reg.CORE_ECC_UE c + 1) 0xFFFF else u.rd Reg.CORE_ECC_UE c)
    ∧ (u.loadEcc c a e).on Reg.CORE_STAT_UE c = (u.on Reg.CORE_STAT_UE c || decide (e = .uncorrectable)) := by
  have counted : ((u.bump Reg.CORE_ECC_CE c 1).core c = u.core c)
      ∧ (u.bump Reg.CORE_ECC_CE c 1).rd Reg.CORE_ECC_CE c = min (u.rd Reg.CORE_ECC_CE c + 1) 0xFFFF
      ∧ (u.bump Reg.CORE_ECC_CE c 1).rd Reg.CORE_ECC_UE c = u.rd Reg.CORE_ECC_UE c
      ∧ (u.bump Reg.CORE_ECC_CE c 1).on Reg.CORE_STAT_UE c = u.on Reg.CORE_STAT_UE c := by
    refine ⟨rfl, u.rd_bump_same _ _ _ (by decide), u.rd_wr_apart _ _ _ _ _ (by decide) (by decide), ?_⟩
    exact State.on_of_reg (u.reg_wr_other _ _ _ (by simp [Field.addr, Reg.CORE_STAT_UE, Reg.CORE_ECC_CE]))
  cases e
  case ok => simp [State.loadEcc, State.coreEcc, Ecc.ce, Ecc.ue]
  case passed => simp [State.loadEcc, State.coreEcc, Ecc.ce, Ecc.ue]
  case corrected => simpa [State.loadEcc, State.coreEcc, Ecc.ce, Ecc.ue] using counted
  case miscorrected => simpa [State.loadEcc, State.coreEcc, Ecc.ce, Ecc.ue] using counted
  case uncorrectable =>
    have hlog := (u.bump Reg.CORE_ECC_UE c 1).logged_logBy c 0x41 3 1 c (a / 4) 0
    have hue : (u.bump Reg.CORE_ECC_UE c 1).rd Reg.CORE_ECC_UE c = min (u.rd Reg.CORE_ECC_UE c + 1) 0xFFFF :=
      u.rd_bump_same _ _ _ (by decide)
    have hce : (u.bump Reg.CORE_ECC_UE c 1).rd Reg.CORE_ECC_CE c = u.rd Reg.CORE_ECC_CE c :=
      u.rd_wr_apart _ _ _ _ _ (by decide) (by decide)
    have hcore : (u.bump Reg.CORE_ECC_UE c 1).core c = u.core c := rfl
    rw [u.loadEcc_uncorrectable c ha]
    generalize (u.bump Reg.CORE_ECC_UE c 1).logBy c 0x41 3 1 c (a / 4) 0 = w at hlog
    have hecc : (w.put Reg.CORE_STAT_UE c true).reg (Reg.CORE_ECC_UE.addr c) = (u.bump Reg.CORE_ECC_UE c 1).reg (Reg.CORE_ECC_UE.addr c) :=
      (w.reg_put_other _ _ _ (by simp [Field.addr, Reg.CORE_STAT_UE, Reg.CORE_ECC_UE])).trans
        (hlog.reg (outsideLog_core _ c (by decide)))
    have hw : w.core c = u.core c := by
      obtain ⟨_, _, _, _, _, rfl, -⟩ := hlog
      rfl
    obtain ⟨hcore, hreg⟩ := w.ueMarked_frame c
    have hrd (f : Field) : (w.ueMarked c).rd f c = (w.put Reg.CORE_STAT_UE c true).rd f c := congrArg f.read (hreg _)
    refine ⟨by rw [hcore, hw, if_pos rfl], ?_, ?_, ?_⟩
    · exact (hrd _).trans ((congrArg Reg.CORE_ECC_CE.read hecc).trans hce)
    · exact (hrd _).trans ((congrArg Reg.CORE_ECC_UE.read hecc).trans hue)
    · rw [State.on_of_reg (hreg _), w.on_put_same _ _ _ (by decide)]
      simp

/-- The bytes delivered are those stored where the check vouches for them, and as many in any case. -/
theorem State.deliverBytes_eq (u : State) (stored : List Byte) (e : Ecc) :
    (u.deliverBytes stored e).1.length = stored.length ∧ (e = .ok ∨ e = .corrected → (u.deliverBytes stored e).1 = stored)
    ∧ ∃ free, (u.deliverBytes stored e).2 = { u with free := free } := by
  cases e
  case ok => exact ⟨rfl, fun _ => rfl, _, rfl⟩
  case corrected => exact ⟨rfl, fun _ => rfl, _, rfl⟩
  all_goals exact ⟨by simp [State.deliverBytes, Ecc.intact], by simp, _, rfl⟩

theorem State.rd_atIssue (s : State) (c : Nat) (f : Field) (h : f.addr c ≠ Reg.CORE_PC_PC.addr c) :
    (s.atIssue c).rd f c = s.rd f c := congrArg f.read (s.reg_atIssue_other c h)

theorem loadForm_pos {i : Instr} {c : CoreId} {p : BitVec 5} {m : Mem} {n al : Nat} {e : Ecc}
    (h : loadForm i = some (c, p, m, n, al, e)) : 0 < n := by
  cases i <;> simp only [loadForm, reduceCtorEq, Option.some.injEq, Prod.mk.injEq] at h
  all_goals
    obtain ⟨-, -, -, rfl, -⟩ := h
    decide

/-- A load from DM delivers its bytes, counts and marks the outcome of its read, and completes all the same. -/
theorem loads_marked {i : Instr} {s : State} {c : CoreId} {p : BitVec 5} {m : Mem} {n al : Nat} {e : Ecc}
    (hform : loadForm i = some (c, p, m, n, al, e)) (hc : s.canIssue c = true) (hl : (s.coreNow c).entersLib = false)
    (hal : ((s.coreNow c).address p m).1 % al = 0) (hin : inDm ((s.coreNow c).address p m).1 n = true) :
    ∃ t bs w, exec i s = .next t ∧ bs.length = n
      ∧ (e = .ok ∨ e = .corrected → bs = s.dataBytes c ((s.coreNow c).address p m).1 n)
      ∧ loadedWhat (s.coreNow c).shadow bs i = some w ∧ t.core c = (s.coreNow c).advance
          (if e = .uncorrectable then (((s.coreNow c).postUpdate p m).later 3 w).later 3 (.flags 0x800)
            else ((s.coreNow c).postUpdate p m).later 3 w)
          (s.reg (Reg.CORE_CSINIT_V.addr c))
      ∧ t.rd Reg.CORE_ECC_CE c
          = (if e = .corrected ∨ e = .miscorrected then min (s.rd Reg.CORE_ECC_CE c + 1) 0xFFFF else s.rd Reg.CORE_ECC_CE c)
      ∧ t.rd Reg.CORE_ECC_UE c = (if e = .uncorrectable then min (s.rd Reg.CORE_ECC_UE c + 1) 0xFFFF else s.rd Reg.CORE_ECC_UE c)
      ∧ t.on Reg.CORE_STAT_UE c = (s.on Reg.CORE_STAT_UE c || decide (e = .uncorrectable)) := by
  obtain ⟨eff, put, hexec, heff, hput⟩ := load_issue hform
  generalize ha : ((s.coreNow c).address p m).1 = a at hal hin ⊢
  obtain ⟨hlen, hbs, free, hfree⟩ := (s.atIssue c).deliverBytes_eq (s.dataBytes c a n) e
  rw [State.length_dataBytes] at hlen
  obtain ⟨w, hw, hput⟩ := hput ((s.coreNow c).postUpdate p m) _ hlen
  rw [CoreRt.postUpdate_shadow] at hw
  have hpos := loadForm_pos hform
  have hdm : a < 0x80000 := by
    simp [inDm] at hin
    omega
  have hok : eff (s.atIssue c) = .ok ((State.setCore { s.atIssue c with free := free } c
      (((s.coreNow c).postUpdate p m).later 3 w)).loadEcc c a e) none := by
    have hnow : ((s.atIssue c).core c).address p m = (s.coreNow c).address p m := by rw [State.atIssue_core]
    rw [heff _ (by rw [hnow]; exact toMemory_of_inDm (by rwa [ha])),
      State.loadFrom_inside e put (by rwa [hnow, ha]) (.inl (by rwa [hnow, ha])), hnow, ha, State.atIssue_core]
    dsimp only
    rw [State.dataBytes_atIssue, hfree, hput]
  generalize hV : State.setCore { s.atIssue c with free := free } c (((s.coreNow c).postUpdate p m).later 3 w) = V at hok
  have hVcore : V.core c = ((s.coreNow c).postUpdate p m).later 3 w := by rw [← hV, State.setCore_same]
  have hVrd (f : Field) (h : f.addr c ≠ Reg.CORE_PC_PC.addr c) : V.rd f c = s.rd f c := by
    rw [← s.rd_atIssue c f h, ← hV]
    rfl
  obtain ⟨hcore, hce, hue, hstat⟩ := V.loadEcc_inDm c hdm e
  rw [hVrd _ (by simp [Field.addr, Reg.CORE_ECC_CE, Reg.CORE_PC_PC])] at hce
  rw [hVrd _ (by simp [Field.addr, Reg.CORE_ECC_UE, Reg.CORE_PC_PC])] at hue
  have hstat' : V.on Reg.CORE_STAT_UE c = s.on Reg.CORE_STAT_UE c := by
    simp only [State.on, hVrd _ (show Reg.CORE_STAT_UE.addr c ≠ Reg.CORE_PC_PC.addr c by
      simp [Field.addr, Reg.CORE_STAT_UE, Reg.CORE_PC_PC])]
  rw [hstat'] at hstat
  rw [hVcore] at hcore
  refine ⟨_, _, w, hexec s, hlen, hbs, hw, ?_⟩
  rw [State.issue_elsewhere hc hok hl, State.setCore_same, hcore]
  exact ⟨rfl, hce, hue, hstat⟩

/-- Settles O10. -/
theorem loadResults : Obligations.LoadResults := by
  unfold Obligations.LoadResults
  exact ⟨fun i s c p m n al w hform hc hw hal hin => loads_clean hform hc hw hal hin,
    fun i s c p m n al e hform hc hl hal hin => loads_marked hform hc hl hal hin⟩

/-! ### Stores -/

theorem State.storeTo_inside {u : State} {c : Nat} {p : BitVec 5} {m : Mem} {al : Nat} {bs : List Byte}
    (hal : ((u.core c).address p m).1 % al = 0) (hin : inDm ((u.core c).address p m).1 bs.length = true) :
    u.storeTo c p m al bs =
      .ok ((u.setCore c ((u.core c).postUpdate p m)).dmWrite c ((u.core c).address p m).1 bs) none := by
  unfold State.storeTo
  dsimp only
  rw [if_pos (by simp [*])]

/-- What entry to a library kernel leaves alone shows in every byte of another core. -/
theorem State.OnCore.dm_other {c e : Nat} {s t : State} (h : s.OnCore c t) (he : e ≠ c) (b : Nat) : t.dm e b = s.dm e b := by
  obtain ⟨_, _, _, rfl, hcores⟩ := h
  have hcore := hcores e he
  exact State.dm_congr (congrArg CoreRt.dm hcore) (congrArg CoreRt.wiped hcore) rfl b

/-- The core that has stored `bs` at `a`, and moves on. -/
def State.stored (s : State) (c : Nat) (k : CoreRt) (a : Nat) (bs : List Byte) : State :=
  ((s.atIssue c).setCore c k).dmWrite c a bs

theorem State.stored_frame (s : State) (c : Nat) (k : CoreRt) (a : Nat) (bs : List Byte) :
    (∃ regs cores, s.stored c k a bs = { s with regs := regs, cores := cores })
    ∧ ∀ a', (s.stored c k a bs).reg a' = (s.atIssue c).reg a' := by
  refine ⟨?_, fun a' => ?_⟩
  · simp only [State.stored, State.dmWrite_eq, State.setCore, State.atIssue, State.wr, State.setReg]
    exact ⟨_, _, rfl⟩
  · simp only [State.stored, State.dmWrite_eq, State.setCore_reg]

theorem State.dm_stored (s : State) (c : Nat) (k : CoreRt) (hk : k.dm = (s.coreNow c).dm) (hw : k.wiped = (s.coreNow c).wiped)
    (a : Nat) (bs : List Byte) (b : Nat) :
    (s.stored c k a bs).dm c b = if a ≤ b ∧ b < a + bs.length then nth bs (b - a) 0 else s.dm c b := by
  have hdm : ((s.atIssue c).setCore c k).dm c b = s.dm c b :=
    (State.dm_congr (s := s.atIssue c) (t := (s.atIssue c).setCore c k) (by simp [hk]) (by simp [hw]) rfl b).trans
      (s.dm_atIssue c b)
  rw [State.stored, State.dm_dmWrite, hdm]

theorem CoreRt.advance_still (k k' : CoreRt) (v : Word) : (k.advance k' v).dm = k'.dm ∧ (k.advance k' v).wiped = k'.wiped := by
  unfold CoreRt.advance CoreRt.rtiTo
  dsimp only
  repeat' split
  all_goals exact ⟨rfl, rfl⟩

theorem CoreRt.advance_dm (k k' : CoreRt) (v : Word) : (k.advance k' v).dm = k'.dm := (k.advance_still k' v).1
theorem CoreRt.advance_wiped (k k' : CoreRt) (v : Word) : (k.advance k' v).wiped = k'.wiped := (k.advance_still k' v).2

theorem State.OnCore.issue {c : Nat} {s u : State} (hu : s.OnCore c u) (hc : s.canIssue c = true) {eff : State → Did}
    (he : eff (s.atIssue c) = .ok u none) : s.OnCore c (s.issue c eff) := by
  rw [State.issue_eq c eff s hc, he]
  dsimp only
  split
  · exact (hu.trans (State.onCore_setCore ..)).trans (State.onCore_enterLib ..)
  · exact hu.trans (State.onCore_setCore ..)

/-- Settles O12. -/
theorem stores : Obligations.Stores := by
  unfold Obligations.Stores
  intro i s c p m n al hform hc k a hal hin
  obtain ⟨eff, bytes, hexec, heff, hbytes⟩ := store_issue hform
  have hlen : (bytes k).length = n := by simp [hbytes]
  have hok : eff (s.atIssue c) = .ok (s.stored c (k.postUpdate p m) a (bytes k)) none := by
    rw [heff _ (by rw [State.atIssue_core]; exact toMemory_of_inDm hin),
      State.storeTo_inside (by rwa [State.atIssue_core]) (by rwa [State.atIssue_core, hlen]), State.atIssue_core]
    rfl
  have hcore : (s.stored c (k.postUpdate p m) a (bytes k)).core c =
      { k.postUpdate p m with dm := ((s.stored c (k.postUpdate p m) a (bytes k)).core c).dm } := by
    simp only [State.stored, State.dmWrite_eq, State.setCore_same]
  have hother (e : Nat) (he : e ≠ c) : (s.stored c (k.postUpdate p m) a (bytes k)).core e = s.core e := by
    rw [State.stored, State.dmWrite_eq, State.setCore_other _ _ he, State.setCore_other _ _ he, s.atIssue_core_other he]
  have hframe := s.stored_frame c (k.postUpdate p m) a (bytes k)
  refine ⟨_, hexec s, ⟨((s.stored c (k.postUpdate p m) a (bytes k)).core c).dm, ?_⟩, fun hl => ?_, fun e b he => ?_⟩
  · rw [← hcore]
    exact State.issued_of_frame hc hok hframe.1 hframe.2 hother
  · have hstored := s.dm_stored c (k.postUpdate p m) (CoreRt.postUpdate_dm ..) (CoreRt.postUpdate_wiped ..) a (bytes k)
    have hdm (b : Nat) : (s.issue c eff).dm c b = (s.stored c (k.postUpdate p m) a (bytes k)).dm c b := by
      rw [State.issue_elsewhere hc hok hl]
      refine State.dm_congr ?_ ?_ ?_ b
      · rw [State.setCore_same, CoreRt.advance_dm]
      · rw [State.setCore_same, CoreRt.advance_wiped]
      · rfl
    refine ⟨fun j hj => ?_, fun b hb => ?_⟩
    · rw [hdm, hstored, if_pos (by omega), Nat.add_sub_cancel_left, hbytes, nth]
      simp [hj]
    · rw [hdm, hstored, if_neg (by omega)]
  · obtain ⟨regs, cores, hform⟩ := hframe.1
    have hstored : s.OnCore c (s.stored c (k.postUpdate p m) a (bytes k)) := ⟨regs, cores, s.free, hform, hother⟩
    exact (hstored.issue hc hok).dm_other he b

/-! ### The register window (R253) -/

theorem State.loadWord_window {u : State} {c : Nat} {t p : BitVec 5} {m : Mem} {e : Ecc} (hag : ((u.core c).address p m).2 = false)
    (hwin : inWindow ((u.core c).address p m).1 = true) (hal : ((u.core c).address p m).1 % 4 = 0) :
    u.loadWord c t p m e = .ok (u.setCore c { (u.core c).postUpdate p m with
      load := some ⟨(u.core c).shadow, t.toNat, ((u.core c).address p m).1 - 0x80000000⟩ }) none := by
  unfold State.loadWord
  dsimp only
  rw [if_pos (by simp [*])]

theorem State.storeWord_window {u : State} {c : Nat} {t p : BitVec 5} {m : Mem} (hag : ((u.core c).address p m).2 = false)
    (hwin : inWindow ((u.core c).address p m).1 = true) (hal : ((u.core c).address p m).1 % 4 = 0) :
    u.storeWord c t p m = .ok (u.setCore c ((u.core c).postUpdate p m))
      (some (((u.core c).address p m).1 - 0x80000000, (u.core c).sreg t)) := by
  unfold State.storeWord
  dsimp only
  rw [if_pos (by simp [*])]

/-- A posted store is written to the register file of the state the issue leaves. -/
theorem State.issue_post {c : CoreId} {s u : State} {a : Nat} {v : Word} (h : s.canIssue c = true) {eff : State → Did}
    (he : eff (s.atIssue c) = .ok u (some (a, v))) :
    s.issue c eff = (s.issue c fun _ => .ok u none).writeReg (.core c) a v := by
  rw [State.issue_eq c eff s h, State.issue_eq c (fun _ => .ok u none) s h, he]
  exact dif_pos c.isLt

theorem CoreRt.bank_setSreg (k : CoreRt) (shadow : Bool) {r : Nat} (v : Word) (hr : r ≠ 0) :
    (if shadow then (k.setSreg shadow r v).bank1 else (k.setSreg shadow r v).bank0).getD r 0 = v := by
  unfold CoreRt.setSreg
  cases shadow <;> simp [hr]

/-- Settles O11. -/
theorem registerWindow : Obligations.RegisterWindow := by
  unfold Obligations.RegisterWindow
  refine ⟨?_, ?_, ?_, ?_⟩
  · intro s c t p m e hc k a hag hwin hal
    refine ⟨_, rfl, State.issued_of_core c s _ hc _ ?_⟩
    rw [State.loadWord_window (by rwa [State.atIssue_core]) (by rwa [State.atIssue_core]) (by rwa [State.atIssue_core]),
      State.atIssue_core]
  · intro s c t p m hc k a hag hwin hal
    refine ⟨_, State.issued_of_core c s (k.postUpdate p m) hc (fun _ => .ok ((s.atIssue c).setCore c (k.postUpdate p m)) none) rfl,
      congrArg Host.Outcome.next (State.issue_post hc ?_)⟩
    rw [State.storeWord_window (by rwa [State.atIssue_core]) (by rwa [State.atIssue_core]) (by rwa [State.atIssue_core]),
      State.atIssue_core]
  · intro s c l hl
    have hexec : exec (.registerWindowAnswer c) s = .next ((s.readReg (.core c) l.addr).setCore c
        { (((s.readReg (.core c) l.addr).core c).toCycle ((s.readReg (.core c) l.addr).nowCycle c)).setSreg l.shadow l.r
            (s.readReg (.core c) l.addr).readVal with load := none }) := by
      rw [exec_registerWindowAnswer, execRegisterWindowAnswer, hl]
    refine ⟨_, hexec, ?_, fun hr => ?_, fun a => rfl⟩
    · rw [State.setCore_same]
    · rw [State.setCore_same]
      exact CoreRt.bank_setSreg _ _ _ hr
  · intro s c hl
    rw [exec_registerWindowAnswer, execRegisterWindowAnswer, hl]

end Sys2Proof.Machine
end

