-- ==== Sys2Proof/Proofs/CoreFault.lean ====
section
/-! A fault of a core's instruction (R280, R288): what the abort of its run leaves in the core and its registers. -/

namespace Sys2Proof.Machine

/-! ### Fields of a core that an operation leaves alone -/

/-- Writing field `g` of an index leaves field `f` of that index alone: other bits, or another register. -/
def Field.clears (g f : Field) : Bool := g.apart f || (g.stride = f.stride && g.base ≠ f.base)

theorem State.rd_wr_clears (s : State) {g f : Field} (c v : Nat) (hg : g.fits = true) (h : g.clears f = true) :
    (s.wr g c v).rd f c = s.rd f c := by
  rcases (Bool.or_eq_true _ _).mp h with h | h
  · exact s.rd_wr_apart g f c c v hg h
  · obtain ⟨hstride, hbase⟩ := (Bool.and_eq_true _ _).mp h
    have hstride : g.stride = f.stride := of_decide_eq_true hstride
    have hbase : g.base ≠ f.base := of_decide_eq_true hbase
    exact s.rd_wr_addr g f c c v (by simp only [Field.addr, hstride]; omega)

/-- The fields of a core's registers no release of a plane touches (R98): PSTAT registers stand at multiples of 16, where of a core's
registers only CORE_CTRL stands, and there a release can only clear bit 1. -/
def Field.keptByRelease (f : Field) : Bool :=
  decide (f = Reg.CORE_CTRL_EN) || (decide (f.base % 16 ≠ 0) && decide (f.stride % 16 = 0))

theorem Field.read_en_insert (w : Word) (h : Reg.FOLD_PSTAT_OWN_A.read w = 2) :
    Reg.CORE_CTRL_EN.read (Reg.FOLD_PSTAT_OWN_A.insert w 0) = Reg.CORE_CTRL_EN.read w := by
  have hread : w.toNat % 4 = 2 := by simpa [Field.read, Field.span, Reg.FOLD_PSTAT_OWN_A] using h
  have hw := w.isLt
  simp only [Field.read, Field.insert, Field.span, Reg.FOLD_PSTAT_OWN_A, Reg.CORE_CTRL_EN, BitVec.toNat_ofNat]
  omega

theorem State.rd_release (s : State) {f : Field} (c ch pl : Nat) (h : f.keptByRelease = true) :
    (s.release ch pl).rd f c = s.rd f c := by
  rcases (Bool.or_eq_true _ _).mp h with h | h
  · obtain rfl : f = Reg.CORE_CTRL_EN := of_decide_eq_true h
    unfold State.release
    split
    · rename_i hown
      unfold State.own at hown
      unfold State.setOwn
      by_cases hpl : pl = 0
      · rw [if_pos hpl] at hown ⊢
        by_cases ha : Reg.CORE_CTRL_EN.addr c = Reg.FOLD_PSTAT_OWN_A.addr ch
        · simp only [State.rd, State.wr, ha, State.reg_setReg_same]
          exact Field.read_en_insert _ hown
        · exact s.rd_wr_addr _ _ _ _ _ ha
      · rw [if_neg hpl]
        exact s.rd_wr_apart Reg.FOLD_PSTAT_OWN_B Reg.CORE_CTRL_EN ch c 0 (by decide) (by decide)
    · rfl
  · obtain ⟨hbase, hstride⟩ := (Bool.and_eq_true _ _).mp h
    have hbase : f.base % 16 ≠ 0 := of_decide_eq_true hbase
    have hstride : f.stride % 16 = 0 := of_decide_eq_true hstride
    have haddr : f.addr c ≠ Reg.FOLD_PSTAT_OWN_A.addr ch := by
      have hmod : (f.base + f.stride * c) % 16 = f.base % 16 := by
        rw [Nat.add_mod, Nat.mul_mod, hstride]
        simp
      simp only [Field.addr, Reg.FOLD_PSTAT_OWN_A]
      omega
    unfold State.release
    split
    · exact congrArg f.read (s.reg_setOwn_other pl 0 haddr)
    · rfl

/-- `t` has the fields `fs` of core `c` as `s` has them, and what a run leaves of its core. -/
structure State.SameRun (fs : List Field) (c : Nat) (s t : State) : Prop where
  rd : ∀ f ∈ fs, t.rd f c = s.rd f c
  sends : (t.core c).sends = (s.core c).sends
  land : (t.core c).land = (s.core c).land
  binds : (t.core c).binds = (s.core c).binds
  dm : (t.core c).dm = (s.core c).dm
  wiped : (t.core c).wiped = (s.core c).wiped
  mram : t.mram = s.mram

section
variable {fs : List Field} {c : Nat} {s t u : State}

theorem State.SameRun.refl : s.SameRun fs c s := ⟨fun _ _ => rfl, rfl, rfl, rfl, rfl, rfl, rfl⟩

theorem State.SameRun.trans (h : s.SameRun fs c t) (k : t.SameRun fs c u) : s.SameRun fs c u :=
  ⟨fun f hf => (k.rd f hf).trans (h.rd f hf), k.sends.trans h.sends, k.land.trans h.land, k.binds.trans h.binds,
    k.dm.trans h.dm, k.wiped.trans h.wiped, k.mram.trans h.mram⟩

/-- An operation on registers alone. -/
theorem State.SameRun.of_regs (hrd : ∀ f ∈ fs, t.rd f c = s.rd f c) (hcores : t.cores = s.cores) (hm : t.mram = s.mram) :
    s.SameRun fs c t := by
  have hcore : t.core c = s.core c := congrArg (SMap.getD · c CoreRt.reset) hcores
  exact ⟨hrd, congrArg CoreRt.sends hcore, congrArg CoreRt.land hcore, congrArg CoreRt.binds hcore, congrArg CoreRt.dm hcore,
    congrArg CoreRt.wiped hcore, hm⟩

theorem State.SameRun.dm_eq (h : s.SameRun fs c t) (b : Nat) : t.dm c b = s.dm c b := State.dm_congr h.dm h.wiped h.mram b

theorem State.sameRun_wr (s : State) (g : Field) (v : Nat) (hg : g.fits = true) (h : fs.all g.clears = true) :
    s.SameRun fs c (s.wr g c v) :=
  .of_regs (fun f hf => s.rd_wr_clears c v hg (List.all_eq_true.mp h f hf)) rfl rfl

/-- A field of the registers of a core (Table 19.1). -/
def Field.ofCore (f : Field) : Bool := decide (0x30000 ≤ f.base) && decide (f.base < 0x31000) && decide (f.stride = 0x1000)

theorem Field.addr_ofCore {f : Field} (h : f.ofCore = true) (hc : c < 12) : 0x30000 ≤ f.addr c ∧ f.addr c < 0x40000 := by
  simp only [Field.ofCore, Bool.and_eq_true, decide_eq_true_eq] at h
  obtain ⟨⟨hlo, hhi⟩, hstride⟩ := h
  simp only [Field.addr, hstride]
  omega

theorem State.sameRun_logged (hfs : fs.all Field.ofCore = true) (hc : c < 12) (h : s.Logged t) : s.SameRun fs c t := by
  have hrd (f : Field) (hf : f ∈ fs) : t.rd f c = s.rd f c := by
    have := Field.addr_ofCore (List.all_eq_true.mp hfs f hf) hc
    exact congrArg f.read (h.reg (.inr (by omega)))
  obtain ⟨_, _, _, _, _, rfl, -⟩ := h
  exact .of_regs hrd rfl rfl

theorem State.sameRun_status (hfs : fs.all Field.ofCore = true) (hc : c < 12) (s : State) (r : StatusRec) :
    s.SameRun fs c (s.status r) := by
  refine .of_regs (fun f hf => ?_) (s.status_cores r) rfl
  have := Field.addr_ofCore (List.all_eq_true.mp hfs f hf) hc
  exact congrArg f.read (s.reg_status_other r (by simp only [Field.addr, Reg.HOSTLINK_EVT_PEND] at this ⊢; omega))

theorem State.SameRun.each {α : Type} {f : α → State → State} (hf : ∀ x t, State.SameRun fs c t (f x t)) (s : State) (l : List α) :
    s.SameRun fs c (s.each l f) :=
  State.each_keeps (P := s.SameRun fs c) (fun x _ _ ht => ht.trans (hf x _)) .refl

theorem State.sameRun_releaseAll (hfs : fs.all Field.keptByRelease = true) (s : State) (bs : List (Nat × Nat)) :
    s.SameRun fs c (s.releaseAll bs) := by
  rw [State.releaseAll_eq_each]
  refine .each (fun b t => .of_regs (fun f hf => ?_) (t.releaseOne_cores b) ?_) s bs
  · rcases t.releaseOne_or b with h | h <;> rw [h]
    exact t.rd_release c b.1 b.2 (List.all_eq_true.mp hfs f hf)
  · obtain ⟨_, _, _, h, -⟩ := t.onCore_release c b.1 b.2
    rcases t.releaseOne_or b with h' | h' <;> rw [h']
    rw [h]

theorem State.sameRun_loseJob (hfs : fs.all Field.ofCore = true) (hlost : fs.all Reg.CORE_STAT_JOB_LOST.clears = true)
    (hn : fs.all Reg.CORE_JLOST_N.clears = true) (hc : c < 12) (s : State) (j : Job) : s.SameRun fs c (s.loseJob c j) :=
  ((s.sameRun_wr Reg.CORE_STAT_JOB_LOST _ (by decide) hlost).trans (State.sameRun_wr _ Reg.CORE_JLOST_N _ (by decide) hn)).trans
    (State.sameRun_status hfs hc _ _)

theorem State.sameRun_setCore (s : State) (k : CoreRt) (hsends : k.sends = (s.core c).sends) (hland : k.land = (s.core c).land)
    (hbinds : k.binds = (s.core c).binds) (hdm : k.dm = (s.core c).dm) (hwiped : k.wiped = (s.core c).wiped) :
    s.SameRun fs c (s.setCore c k) := by
  refine ⟨fun f _ => s.setCore_rd .., ?_, ?_, ?_, ?_, ?_, rfl⟩ <;> rw [State.setCore_same]
  · exact hsends
  · exact hland
  · exact hbinds
  · exact hdm
  · exact hwiped

end

/-! ### The core becomes IDLE or OFF (R256, Table 11.10) -/

/-- What the end of a run shows in the registers of its core, and CORE_CTRL.EN. -/
def endFields : List Field :=
  [Reg.CORE_CTRL_EN, Reg.CORE_STAT_FCODE, Reg.CORE_STAT_FAULT, Reg.CORE_STAT_ABORTED, Reg.CORE_LASTRUN_RES]

/-- These fields and CORE_STAT.STATE. -/
def idleFields : List Field := Reg.CORE_STAT_STATE :: endFields

section
variable {c : Nat}

theorem State.sameRun_dropJobs (hc : c < 12) (s : State) : s.SameRun idleFields c (s.dropJobs c) := by
  have hjobs : s.SameRun idleFields c (s.setCore c { s.core c with jobs := [] }) := s.sameRun_setCore _ rfl rfl rfl rfl rfl
  have hshow (t : State) : t.SameRun idleFields c (t.showJobs c) := t.sameRun_wr Reg.CORE_STAT_JOBS _ (by decide) (by decide)
  have hlose (t : State) (js : List Job) : t.SameRun idleFields c (t.each js fun j t => t.loseJob c j) :=
    .each (fun j t => t.sameRun_loseJob (by decide) (by decide) (by decide) hc j) t js
  exact ((hjobs.trans (hshow _)).trans (hlose _ _)).trans (State.sameRun_releaseAll (by decide) _ _)

theorem State.SameRun.mono {fs gs : List Field} {s t : State} (h : s.SameRun fs c t) (hsub : ∀ f ∈ gs, f ∈ fs) :
    s.SameRun gs c t :=
  ⟨fun f hf => h.rd f (hsub f hf), h.sends, h.land, h.binds, h.dm, h.wiped, h.mram⟩

theorem State.SameRun.on_eq {fs : List Field} {s t : State} (h : s.SameRun fs c t) {f : Field} (hf : f ∈ fs) : t.on f c = s.on f c := by
  simp only [State.on, h.rd f hf]

theorem endFields_sub : ∀ f ∈ endFields, f ∈ idleFields := fun _ hf => List.mem_cons_of_mem _ hf

theorem State.cstate_wr (s : State) (c : Nat) {v : Nat} (hv : v < 8) : (s.wr Reg.CORE_STAT_STATE c v).cstate c = v :=
  (s.rd_wr_same _ _ _ (by decide)).trans (Nat.mod_eq_of_lt hv)

/-- The core as it becomes IDLE: with CSTAT from CORE_CSINIT unless a handler runs on it. -/
def CoreRt.idled (k : CoreRt) (csinit : Word) : CoreRt := if k.idleIrq then k else { k with cstat := csinit, shadow := false }

theorem CoreRt.idled_frame (k : CoreRt) (csinit : Word) :
    ∃ cstat shadow, k.idled csinit = { k with cstat := cstat, shadow := shadow } := by
  unfold CoreRt.idled
  split <;> exact ⟨_, _, rfl⟩

/-- A core becomes IDLE, or OFF with EN = 0. -/
theorem State.toIdle_end (hc : c < 12) (s : State) :
    s.SameRun endFields c (s.toIdle c) ∧ (s.toIdle c).cstate c = if s.on Reg.CORE_CTRL_EN c then 1 else 0 := by
  let k := (s.core c).idled (s.reg (Reg.CORE_CSINIT_V.addr c))
  let u := (s.setCore c k).wr Reg.CORE_STAT_STATE c 1
  have hk : s.SameRun endFields c (s.setCore c k) := by
    obtain ⟨cstat, shadow, hk⟩ := (s.core c).idled_frame (s.reg (Reg.CORE_CSINIT_V.addr c))
    simp only [k, hk]
    exact s.sameRun_setCore _ rfl rfl rfl rfl rfl
  have hu : s.SameRun endFields c u := hk.trans (State.sameRun_wr _ _ _ (by decide) (by decide))
  have hstate : u.cstate c = 1 := State.cstate_wr _ c (by decide)
  have hen : u.on Reg.CORE_CTRL_EN c = s.on Reg.CORE_CTRL_EN c := hu.on_eq (by decide)
  have hform : s.toIdle c = u.offCheck c := rfl
  rw [hform, State.offCheck, hstate, hen]
  cases s.on Reg.CORE_CTRL_EN c
  · let v := (u.wr Reg.CORE_STAT_STATE c 0).setCore c { u.core c with idleIrq := false }
    have hv : u.SameRun endFields c v :=
      (u.sameRun_wr _ _ (by decide) (by decide)).trans (State.sameRun_setCore _ _ rfl rfl rfl rfl rfl)
    have hdrop := v.sameRun_dropJobs hc
    rw [if_pos (show (decide ((1 : Nat) = 1) && !false) = true from rfl)]
    refine ⟨(hu.trans hv).trans (hdrop.mono endFields_sub), ?_⟩
    exact (hdrop.rd _ (List.mem_cons_self ..)).trans (State.cstate_wr u c (by decide))
  · rw [if_neg (show ¬ (decide ((1 : Nat) = 1) && !true) = true from nofun)]
    exact ⟨hu, hstate⟩

/-! ### A run is aborted (R278) -/

/-- With no haul queued or running nothing is cancelled. -/
theorem State.cancelHauls_of_idle {s : State} (hq : (s.core c).hq = []) (hh : (s.core c).hauling = none) :
    s.cancelHauls c = s.setCore c { s.core c with hq := [], hauling := none } := by
  simp only [State.cancelHauls, hq, hh]
  rfl

theorem CoreRt.landTo_wiped (k : CoreRt) (n : Nat) : (k.landTo n).wiped = k.wiped := by
  simpa only [CoreRt.still] using congrArg CoreRt.wiped (CoreRt.still_landTo k n)

theorem State.Logged.cores {s t : State} (h : s.Logged t) : t.cores = s.cores := by
  obtain ⟨_, _, _, _, _, rfl, -⟩ := h
  rfl

/-- A run's bindings are gone, and no release touches the fields of its end. -/
theorem State.dropBinds_frame (s : State) (c : Nat) : (s.dropBinds c).core c = { s.core c with binds := [] }
    ∧ (∀ f : Field, f.keptByRelease = true → (s.dropBinds c).rd f c = s.rd f c) ∧ (s.dropBinds c).mram = s.mram := by
  have hrel (fs : List Field) (h : fs.all Field.keptByRelease = true) :=
    State.sameRun_releaseAll (c := c) h (s.setCore c { s.core c with binds := [] }) (s.core c).binds
  refine ⟨?_, fun f hf => (hrel [f] (by simpa using hf)).rd f (List.mem_singleton_self f), (hrel [] rfl).mram⟩
  rw [State.dropBinds, State.core, State.releaseAll_cores]
  exact State.setCore_same ..

/-- A run that leaves core as `k` has gone from its core: no haul runs and nothing is bound. -/
def State.quit (c : Nat) (k : CoreRt) (s : State) : State := ((s.setCore c k).cancelHauls c).dropBinds c

theorem State.quit_frame (s : State) (c : Nat) {k : CoreRt} (hq : k.hq = []) (hh : k.hauling = none) :
    (s.quit c k).core c = { k with hq := [], hauling := none, binds := [] }
    ∧ (∀ f : Field, f.keptByRelease = true → (s.quit c k).rd f c = s.rd f c) ∧ (s.quit c k).mram = s.mram := by
  have hcancel : (s.setCore c k).cancelHauls c = (s.setCore c k).setCore c { k with hq := [], hauling := none } := by
    rw [State.cancelHauls_of_idle (by rwa [State.setCore_same]) (by rwa [State.setCore_same]), State.setCore_same]
  obtain ⟨hcore, hrd, hmram⟩ := ((s.setCore c k).cancelHauls c).dropBinds_frame c
  refine ⟨?_, fun f hf => ?_, ?_⟩
  · rw [State.quit, hcore, hcancel, State.setCore_same]
  · rw [State.quit, hrd f hf, hcancel]
    rfl
  · rw [State.quit, hmram, hcancel]
    rfl

/-- The end of a run stands in LASTRUN, ABORTED, a STATUS record and, but for a command's abort, the log (R278, R342). -/
def State.shownEnd (c reason code : Nat) (r : Time → StatusRec) (run : Nat) (s : State) : State :=
  let s := (s.lastRun c (reason + 1)).put Reg.CORE_STAT_ABORTED c true
  let s := s.status (r (s.coreTime c))
  if reason = 1 then s else s.logBy c 0x40 3 c (reason + 1) code run

theorem State.shownEnd_frame (hc : c < 12) (s : State) (code : Nat) (r : Time → StatusRec) (run : Nat) :
    s.SameRun [Reg.CORE_CTRL_EN, Reg.CORE_STAT_FCODE, Reg.CORE_STAT_FAULT] c (s.shownEnd c 3 code r run)
    ∧ (s.shownEnd c 3 code r run).rd Reg.CORE_LASTRUN_RES c = 4
    ∧ (s.shownEnd c 3 code r run).on Reg.CORE_STAT_ABORTED c = true
    ∧ ((s.shownEnd c 3 code r run).core c) = s.core c := by
  have hkept : s.SameRun [Reg.CORE_CTRL_EN, Reg.CORE_STAT_FCODE, Reg.CORE_STAT_FAULT] c
      ((s.lastRun c 4).put Reg.CORE_STAT_ABORTED c true) := by
    rw [State.lastRun, State.put]
    exact ((State.sameRun_wr _ Reg.CORE_LASTRUN_RUN _ (by decide) (by decide)).trans
      (State.sameRun_wr _ Reg.CORE_LASTRUN_RES _ (by decide) (by decide))).trans
      (State.sameRun_wr _ Reg.CORE_STAT_ABORTED _ (by decide) (by decide))
  have hres : ((s.lastRun c 4).put Reg.CORE_STAT_ABORTED c true).rd Reg.CORE_LASTRUN_RES c = 4 := by
    rw [State.lastRun, State.put, State.rd_wr_clears _ c _ (by decide) (by decide), State.rd_wr_same _ _ _ _ (by decide)]
    rfl
  have hab : ((s.lastRun c 4).put Reg.CORE_STAT_ABORTED c true).on Reg.CORE_STAT_ABORTED c = true :=
    State.on_put_same _ _ _ _ (by decide)
  have hcores : ((s.lastRun c 4).put Reg.CORE_STAT_ABORTED c true).cores = s.cores := by
    rw [State.put_cores, State.lastRun, State.wr_cores, State.wr_cores]
  have hform : s.shownEnd c 3 code r run =
      (((s.lastRun c 4).put Reg.CORE_STAT_ABORTED c true).status
        (r (((s.lastRun c 4).put Reg.CORE_STAT_ABORTED c true).coreTime c))).logBy c 0x40 3 c 4 code run := by
    rw [State.shownEnd]
    exact if_neg (show ¬ (3 = 1) by decide)
  rw [hform]
  generalize (s.lastRun c 4).put Reg.CORE_STAT_ABORTED c true = u at *
  have hmsg (fs : List Field) (h : fs.all Field.ofCore = true) :
      u.SameRun fs c ((u.status (r (u.coreTime c))).logBy c 0x40 3 c 4 code run) :=
    (State.sameRun_status h hc _ _).trans (State.sameRun_logged h hc (State.logged_logBy ..))
  refine ⟨hkept.trans (hmsg _ (by decide)), ?_, ?_, ?_⟩
  · exact ((hmsg [Reg.CORE_LASTRUN_RES] (by decide)).rd _ (by decide)).trans hres
  · exact ((hmsg [Reg.CORE_STAT_ABORTED] (by decide)).on_eq (by decide)).trans hab
  · exact congrArg (SMap.getD · c CoreRt.reset)
      ((State.logged_logBy ..).cores.trans ((State.status_cores ..).trans hcores))

theorem State.abortRun_eq (s : State) (c reason code : Nat) :
    let k := (s.core c).landTo (s.nowCycle c)
    let run := s.rd Reg.CORE_RUNNO_N c
    s.abortRun c reason code = ((s.quit c { k.ended with land := [], sends := [], lib := none }).shownEnd c reason code
      (fun t => ⟨t, 1, 0, 0, c, reason, k.runStrand, run, k.runStack, code⟩) run).toIdle c := rfl

/-- What the fault of an instruction leaves of a run with no haul queued or running. -/
theorem State.abortRun_end (hc : c < 12) {s : State} (hq : (s.core c).hq = []) (hh : (s.core c).hauling = none) (code : Nat) :
    ∃ t, s.abortRun c 3 code = t ∧ t.rd Reg.CORE_STAT_FCODE c = s.rd Reg.CORE_STAT_FCODE c
      ∧ t.on Reg.CORE_STAT_FAULT c = s.on Reg.CORE_STAT_FAULT c
      ∧ t.on Reg.CORE_STAT_ABORTED c = true ∧ t.cstate c = (if s.on Reg.CORE_CTRL_EN c then 1 else 0)
      ∧ t.rd Reg.CORE_LASTRUN_RES c = 4 ∧ (t.core c).sends = [] ∧ (t.core c).land = [] ∧ (t.core c).binds = []
      ∧ ∀ b, t.dm c b = s.dm c b := by
  rw [State.abortRun_eq]
  let k := (s.core c).landTo (s.nowCycle c)
  obtain ⟨hcore, hrd, hmram⟩ := s.quit_frame c (k := { k.ended with land := [], sends := [], lib := none })
    ((CoreRt.landTo_hq ..).trans hq) ((CoreRt.landTo_hauling ..).trans hh)
  generalize s.quit c { k.ended with land := [], sends := [], lib := none } = u at *
  have hdm (b : Nat) : u.dm c b = s.dm c b :=
    State.dm_congr ((congrArg CoreRt.dm hcore).trans (CoreRt.landTo_dm ..))
      ((congrArg CoreRt.wiped hcore).trans (CoreRt.landTo_wiped ..)) hmram b
  obtain ⟨hkept, hres, hab, hcores⟩ := u.shownEnd_frame hc code
    (fun t => ⟨t, 1, 0, 0, c, 3, k.runStrand, s.rd Reg.CORE_RUNNO_N c, k.runStack, code⟩) (s.rd Reg.CORE_RUNNO_N c)
  generalize u.shownEnd c 3 code _ _ = v at *
  obtain ⟨hend, hstate⟩ := v.toIdle_end hc
  have hfield (f : Field) (hf : f ∈ [Reg.CORE_CTRL_EN, Reg.CORE_STAT_FCODE, Reg.CORE_STAT_FAULT]) (hrel : f.keptByRelease = true) :
      v.rd f c = s.rd f c := (hkept.rd f hf).trans (hrd f hrel)
  have hon (f : Field) (hf : f ∈ [Reg.CORE_CTRL_EN, Reg.CORE_STAT_FCODE, Reg.CORE_STAT_FAULT]) (hrel : f.keptByRelease = true) :
      v.on f c = s.on f c := congrArg (fun n => decide (n = 1)) (hfield f hf hrel)
  rw [hon _ (by decide) (by decide)] at hstate
  refine ⟨_, rfl, (hend.rd _ (by decide)).trans (hfield _ (by decide) (by decide)),
    (hend.on_eq (by decide)).trans (hon _ (by decide) (by decide)), (hend.on_eq (by decide)).trans hab, hstate,
    (hend.rd _ (by decide)).trans hres, ?_, ?_, ?_, fun b => ?_⟩
  · exact hend.sends.trans (hkept.sends.trans (congrArg CoreRt.sends hcore))
  · exact hend.land.trans (hkept.land.trans (congrArg CoreRt.land hcore))
  · exact hend.binds.trans (hkept.binds.trans (congrArg CoreRt.binds hcore))
  · rw [hend.dm_eq, hkept.dm_eq, hdm]

end

/-! ### Accesses that fault (R280, R288) -/

theorem State.loadFrom_outside {u : State} {c : Nat} {p : BitVec 5} {m : Mem} {n al : Nat} {e : Ecc}
    {put : CoreRt → List Byte → CoreRt} (h : ((u.core c).address p m).1 % al ≠ 0 ∨ (inDm ((u.core c).address p m).1 n = false
      ∧ (((u.core c).address p m).2 = true ∨ inRom ((u.core c).address p m).1 n = false))) :
    u.loadFrom c p m n al e put = .fault 3 := by
  unfold State.loadFrom
  dsimp only
  refine if_neg fun hin => ?_
  obtain ⟨hal, hin⟩ := (Bool.and_eq_true _ _).mp hin
  rcases h with h | ⟨h, h'⟩
  · exact h (of_decide_eq_true hal)
  · rcases h' with h' | h' <;> simp [h, h'] at hin

theorem State.storeTo_outside {u : State} {c : Nat} {p : BitVec 5} {m : Mem} {al : Nat} {bs : List Byte}
    (h : ((u.core c).address p m).1 % al ≠ 0 ∨ inDm ((u.core c).address p m).1 bs.length = false) :
    u.storeTo c p m al bs = .fault 3 := by
  unfold State.storeTo
  dsimp only
  refine if_neg fun hin => ?_
  obtain ⟨hal, hin⟩ := (Bool.and_eq_true _ _).mp hin
  rcases h with h | h
  · exact h (of_decide_eq_true hal)
  · exact Bool.false_ne_true (h.symm.trans hin)

/-- An ADDR fault of an instruction in a run with no haul queued or running (R278, R280). -/
theorem State.coreFault_end {c : Nat} (hc : c < 12) {s t : State} (hrun : s.cstate c = 2) (hq : (s.core c).hq = [])
    (hh : (s.core c).hauling = none) (ht : s.coreFault c 3 = t) :
    t.rd Reg.CORE_STAT_FCODE c = 3 ∧ t.on Reg.CORE_STAT_FAULT c = true ∧ t.on Reg.CORE_STAT_ABORTED c = true
      ∧ t.cstate c = (if s.on Reg.CORE_CTRL_EN c then 1 else 0) ∧ t.rd Reg.CORE_LASTRUN_RES c = 4
      ∧ (t.core c).sends = [] ∧ (t.core c).land = [] ∧ (t.core c).binds = [] ∧ ∀ b, t.dm c b = s.dm c b := by
  let u := (s.wr Reg.CORE_STAT_FCODE c 3).put Reg.CORE_STAT_FAULT c true
  have hu : s.SameRun [Reg.CORE_CTRL_EN, Reg.CORE_STAT_STATE] c u :=
    (State.sameRun_wr _ Reg.CORE_STAT_FCODE _ (by decide) (by decide)).trans
      (State.sameRun_wr _ Reg.CORE_STAT_FAULT _ (by decide) (by decide))
  have hcores : u.core c = s.core c := by rw [State.core, State.put_cores, State.wr_cores]; rfl
  have hcode : u.rd Reg.CORE_STAT_FCODE c = 3 :=
    (State.rd_wr_clears _ c _ (g := Reg.CORE_STAT_FAULT) (by decide) (by decide)).trans (State.rd_wr_same _ _ _ _ (by decide))
  have hfault : u.on Reg.CORE_STAT_FAULT c = true := State.on_put_same _ _ _ _ (by decide)
  have hstate : u.cstate c = 2 := (hu.rd Reg.CORE_STAT_STATE (by decide)).trans hrun
  have hrun' : u.runOf c = true := by
    rw [State.runOf, hstate]
    rfl
  have hform : s.coreFault c 3 = u.abortRun c 3 3 := by
    rw [State.coreFault]
    exact if_pos hrun'
  obtain ⟨v, hv, hend⟩ := u.abortRun_end hc (by rwa [hcores]) (by rwa [hcores]) 3
  obtain rfl : v = t := hv.symm.trans (hform.symm.trans ht)
  rw [hcode, hfault, hu.on_eq (by decide)] at hend
  simpa only [hu.dm_eq] using hend

/-- An instruction that faults with ADDR in a run with no haul queued or running. -/
theorem State.issue_fault {c : CoreId} {s : State} {eff : State → Did} (hc : s.canIssue c = true) (hrun : s.cstate c = 2)
    (hq : (s.core c).hq = []) (hh : (s.core c).hauling = none) (he : eff (s.atIssue c) = .fault 3) :
    ∃ t, s.issue c eff = t ∧ t.rd Reg.CORE_STAT_FCODE c = 3 ∧ t.on Reg.CORE_STAT_FAULT c = true
      ∧ t.on Reg.CORE_STAT_ABORTED c = true ∧ t.cstate c = (if s.on Reg.CORE_CTRL_EN c then 1 else 0)
      ∧ t.rd Reg.CORE_LASTRUN_RES c = 4 ∧ (t.core c).sends = [] ∧ (t.core c).land = [] ∧ (t.core c).binds = []
      ∧ ∀ b, t.dm c b = s.dm c b := by
  have hrd (f : Field) (h : f.addr c ≠ Reg.CORE_PC_PC.addr c) : (s.atIssue c).rd f c = s.rd f c := s.rd_atIssue c f h
  have hen : (s.atIssue c).on Reg.CORE_CTRL_EN c = s.on Reg.CORE_CTRL_EN c := by
    rw [State.on, State.on, hrd _ (by simp [Field.addr, Reg.CORE_CTRL_EN, Reg.CORE_PC_PC])]
  have hend := State.coreFault_end c.isLt (s := s.atIssue c)
    ((hrd _ (by simp [Field.addr, Reg.CORE_STAT_STATE, Reg.CORE_PC_PC])).trans hrun)
    (by rwa [State.atIssue_core, State.coreNow_hq]) (by rwa [State.atIssue_core, State.coreNow_hauling]) rfl
  rw [hen] at hend
  simp only [State.dm_atIssue] at hend
  refine ⟨_, rfl, ?_⟩
  rw [State.issue_eq c eff s hc, he]
  exact hend

/-- Settles O13. -/
theorem addressFaults : Obligations.AddressFaults := by
  unfold Obligations.AddressFaults
  intro i s c p m n al hform hc hrun hq hh k a hout
  have hnow : ((s.atIssue c).core c).address p m = k.address p m := by rw [State.atIssue_core]
  have hmem : toMemory (k.address p m) n al := by
    rcases hout with ⟨-, -, h | h | h⟩ | ⟨h, -⟩
    · exact .inl h
    · exact .inr (.inl h)
    · exact .inr (.inr (.inl h))
    · exact .inr (.inr (.inr h))
  have hfault : ∃ eff : State → Did, exec i s = .next (s.issue c eff) ∧ eff (s.atIssue c) = .fault 3 := by
    rcases hform with ⟨e, hload⟩ | hstore
    · obtain ⟨eff, put, hexec, heff, -⟩ := load_issue hload
      have hnot : (storeForm i).isSome = false := by
        cases i <;> simp only [loadForm, reduceCtorEq] at hload <;> rfl
      refine ⟨eff, hexec s, ?_⟩
      rw [heff _ (by rwa [hnow]), State.loadFrom_outside]
      rw [hnow]
      rcases hout with ⟨hdm, hrom, -⟩ | ⟨hal, -⟩
      · exact .inr ⟨hdm, hrom.imp_right fun h => h.resolve_right (by simp [hnot])⟩
      · exact .inl hal
    · obtain ⟨eff, bytes, hexec, heff, hbytes⟩ := store_issue hstore
      refine ⟨eff, hexec s, ?_⟩
      rw [heff _ (by rwa [hnow]), State.storeTo_outside]
      rw [hnow, hbytes, List.length_map, List.length_range]
      exact hout.elim (fun h => .inr h.1) fun h => .inl h.1
  obtain ⟨eff, hexec, heff⟩ := hfault
  obtain ⟨t, ht, hend⟩ := State.issue_fault hc hrun hq hh heff
  exact ⟨t, by rw [hexec, ht], hend⟩

end Sys2Proof.Machine
end

