-- ==== Sys2Proof/Proofs/CoreInterrupts.lean ====
section
/-! Entry to a handler and the TIMER request (R255, R264, R265, R268, Tables 11.7 and 11.8). -/

namespace Sys2Proof.Machine

/-! ### Landing and the cycle -/

/-- A part of the core no landing result touches is as it was. -/
theorem CoreRt.landTo_of_still {α : Type} {f : CoreRt → α} (hf : ∀ k, f k.still = f k) (k : CoreRt) (n : Nat) :
    f (k.landTo n) = f k :=
  (hf _).symm.trans ((congrArg f (CoreRt.still_landTo k n)).trans (hf k))

theorem CoreRt.landAt_nil {k : CoreRt} (h : k.land = []) (n : Nat) : k.landAt n = k := by
  have hland : { k with land := [] } = k := by rw [← h]
  simp only [CoreRt.landAt, h, List.filter_nil, List.map_nil, List.append_nil, List.foldl_nil, hland]

theorem CoreRt.landTo_nil {k : CoreRt} (h : k.land = []) (n : Nat) : k.landTo n = k := by
  unfold CoreRt.landTo
  refine List.foldlRecOn (motive := fun k' => k' = k) _ _ rfl fun k' hk' j _ => ?_
  subst hk'
  split
  · exact CoreRt.landAt_nil h _
  · rfl

theorem CoreRt.toCycle_self (k : CoreRt) : k.toCycle k.cycle = k.landTo k.cycle := by
  have h := k.landTo_cycle k.cycle
  rw [CoreRt.toCycle, Nat.max_self]
  generalize k.landTo k.cycle = x at h ⊢
  rw [← h]

/-! ### Entry to a handler -/

/-- The core that entry to a handler of level `l` leaves, but for the results that land while it is entered. -/
def CoreRt.savedFor (k : CoreRt) (l vec : Nat) : CoreRt :=
  { k with ira := k.ira.set l (BitVec.ofNat 32 k.pc), istat := k.istat.set l k.cstat,
           cstat := (k.cstat &&& ~~~(if l = 1 then 0x3C else 0x1C)) ||| BitVec.ofNat 32 (4 * (l + 1)), pc := vec }

theorem CoreRt.enterIrq_eq (k : CoreRt) (l vec : Nat) : k.enterIrq l vec =
    { (k.savedFor l vec).landTo (k.cycle + 6) with cycle := k.cycle + 6, shadow := k.shadow || l = 1 } := by
  have h : max k.cycle (k.cycle + 6) = k.cycle + 6 := by omega
  simp only [CoreRt.enterIrq, CoreRt.toCycle, h]
  rfl

theorem CoreRt.enterIrq_frame (k : CoreRt) (l vec : Nat) : (k.enterIrq l vec).pc = vec
    ∧ (k.enterIrq l vec).ira = k.ira.set l (BitVec.ofNat 32 k.pc) ∧ (k.enterIrq l vec).istat = k.istat.set l k.cstat
    ∧ (k.enterIrq l vec).cycle = k.cycle + 6 ∧ (k.enterIrq l vec).shadow = (k.shadow || l = 1)
    ∧ (k.enterIrq l vec).dm = k.dm := by
  rw [CoreRt.enterIrq_eq]
  exact ⟨CoreRt.landTo_pc .., CoreRt.landTo_of_still (f := CoreRt.ira) (fun _ => rfl) _ _,
    CoreRt.landTo_of_still (f := CoreRt.istat) (fun _ => rfl) _ _, rfl, rfl, CoreRt.landTo_dm ..⟩

theorem CoreRt.enterIrq_of_landed {k : CoreRt} (h : k.land = []) (l vec : Nat) : k.enterIrq l vec =
    { k.savedFor l vec with cycle := k.cycle + 6, shadow := k.shadow || l = 1 } := by
  rw [CoreRt.enterIrq_eq, CoreRt.landTo_nil (k := k.savedFor l vec) h]

/-- LVL and the enables as entry to a handler leaves them (Table 11.8). -/
theorem CoreRt.savedFor_status (k : CoreRt) {l : Nat} (hl : l < 2) (vec : Nat) : (k.savedFor l vec).lvl = l + 1
    ∧ (k.savedFor l vec).cstat.getLsbD 4 = false
    ∧ (k.savedFor l vec).cstat.getLsbD 5 = (k.cstat.getLsbD 5 && decide (l = 0)) := by
  have hlvl (x : Word) : x.toNat / 4 % 4 = (x.extractLsb' 2 2).toNat := by
    simp [BitVec.extractLsb'_toNat, Nat.shiftRight_eq_div_pow]
  simp only [CoreRt.lvl, CoreRt.savedFor, hlvl, BitVec.extractLsb'_or, BitVec.extractLsb'_and]
  interval_cases l
  · refine ⟨?_, by simp, by simp⟩
    rw [show BitVec.extractLsb' 2 2 (~~~(if 0 = 1 then 0x3C else 0x1C) : Word) = 0#2 from rfl, BitVec.and_zero, BitVec.zero_or]
    rfl
  · refine ⟨?_, by simp, by simp⟩
    rw [show BitVec.extractLsb' 2 2 (~~~(if 1 = 1 then 0x3C else 0x1C) : Word) = 0#2 from rfl, BitVec.and_zero, BitVec.zero_or]
    rfl

theorem nth_set {α : Type} (x : List α) (i j : Nat) (v d : α) (hi : i < x.length) :
    nth (x.set i v) j d = if i = j then v else nth x j d := by
  simp only [nth, List.getElem?_set]
  split
  · rename_i h
    simp [← h, hi]
  · rfl

/-- Nothing stops entry to a handler in this cycle (R265). -/
def State.irqOpen (s : State) (c : Nat) : Prop :=
  s.cstate c ≠ 0 ∧ 4 ≤ s.mode ∧ s.inWatch = false ∧ (s.core c).flow = none ∧ (s.core c).rep = none ∧ (s.core c).endAt = none
    ∧ (s.core c).load = none

theorem execInterruptEntry_of_open {s : State} {c : CoreId} (h : s.irqOpen c) :
    let idle := (s.cstate c = 1 || s.cstate c = 3) && !(s.core c).idleIrq
    let k := (s.core c).awake (s.nowCycle c)
    let k := k.toCycle (if idle then s.nowCycle c else k.cycle)
    let k := if idle then { k with cstat := s.reg (Reg.CORE_CSINIT_V.addr c) } else k
    exec (.interruptEntry c) s = .next (match s.irqLevel c k with
      | none => s
      | some l => s.setCore c { k.enterIrq l (if l = 1 then s.rd Reg.CORE_IVEC_IVEC1 c else s.rd Reg.CORE_IVEC_IVEC0 c) with
          idleIrq := k.idleIrq || idle }) := by
  obtain ⟨hst, hmode, hwatch, hflow, hrep, hend, hload⟩ := h
  rw [exec_interruptEntry, execInterruptEntry]
  exact congrArg Host.Outcome.next (if_neg (by simp [hst, hwatch, hflow, hrep, hend, hload, Nat.not_lt.mpr hmode]))

theorem CoreRt.awake_istat (k : CoreRt) (n : Nat) : (k.awake n).istat = k.istat := by
  unfold CoreRt.awake
  split
  · exact CoreRt.landTo_of_still (f := CoreRt.istat) (fun _ => rfl) k n
  · rfl

theorem CoreRt.awake_ira (k : CoreRt) (n : Nat) : (k.awake n).ira = k.ira := by
  unfold CoreRt.awake
  split
  · exact CoreRt.landTo_of_still (f := CoreRt.ira) (fun _ => rfl) k n
  · rfl

theorem State.coreNow_ira (s : State) (c : Nat) : (s.coreNow c).ira = (s.core c).ira :=
  (CoreRt.landTo_of_still (f := CoreRt.ira) (fun _ => rfl) _ _).trans (CoreRt.awake_ira ..)

theorem State.coreNow_istat (s : State) (c : Nat) : (s.coreNow c).istat = (s.core c).istat :=
  (CoreRt.landTo_of_still (f := CoreRt.istat) (fun _ => rfl) _ _).trans (CoreRt.awake_istat ..)

theorem CoreRt.awake_cycle_le (k : CoreRt) {n : Nat} (h : k.cycle ≤ n) : max (k.awake n).cycle n = n := by
  unfold CoreRt.awake
  split
  · exact Nat.max_eq_right (Nat.max_le.mpr ⟨h, le_rfl⟩)
  · exact Nat.max_eq_right h

/-- A handler of a run, or of a handler of level 0, is entered at the level that may be taken. -/
theorem interruptEntry_of_run {s : State} {c : CoreId} {l : Nat} (hopen : s.irqOpen c)
    (hrun : s.cstate c = 2 ∨ (s.core c).idleIrq = true) (hl : s.irqLevel c (s.coreNow c) = some l) :
    exec (.interruptEntry c) s = .next (s.setCore c
      { (s.coreNow c).enterIrq l (if l = 1 then s.rd Reg.CORE_IVEC_IVEC1 c else s.rd Reg.CORE_IVEC_IVEC0 c) with
        idleIrq := (s.coreNow c).idleIrq }) := by
  have hidle : ((s.cstate c = 1 || s.cstate c = 3) && !(s.core c).idleIrq) = false := by
    rcases hrun with h | h <;> simp [h]
  have hnow : ((s.core c).awake (s.nowCycle c)).toCycle ((s.core c).awake (s.nowCycle c)).cycle = s.coreNow c :=
    CoreRt.toCycle_self _
  rw [execInterruptEntry_of_open hopen, hidle]
  simp only [Bool.false_eq_true, if_false, hnow, hl, Bool.or_false]

/-- A handler of an IDLE or DRAIN core is entered with the status of CORE_CSINIT. -/
theorem interruptEntry_of_idle {s : State} {c : CoreId} {l : Nat} (hopen : s.irqOpen c)
    (hidle : s.cstate c = 1 ∨ s.cstate c = 3) (hirq : (s.core c).idleIrq = false)
    (hl : s.irqLevel c { ((s.core c).awake (s.nowCycle c)).toCycle (s.nowCycle c) with
      cstat := s.reg (Reg.CORE_CSINIT_V.addr c) } = some l) :
    ∃ k : CoreRt, k.istat = (s.core c).istat ∧ k.cstat = s.reg (Reg.CORE_CSINIT_V.addr c) ∧ exec (.interruptEntry c) s =
      .next (s.setCore c { k.enterIrq l (if l = 1 then s.rd Reg.CORE_IVEC_IVEC1 c else s.rd Reg.CORE_IVEC_IVEC0 c) with
        idleIrq := true }) := by
  have hidle' : ((s.cstate c = 1 || s.cstate c = 3) && !(s.core c).idleIrq) = true := by
    rcases hidle with h | h <;> simp [h, hirq]
  refine ⟨{ ((s.core c).awake (s.nowCycle c)).toCycle (s.nowCycle c) with cstat := s.reg (Reg.CORE_CSINIT_V.addr c) }, ?_, rfl, ?_⟩
  · exact (CoreRt.landTo_of_still (f := CoreRt.istat) (fun _ => rfl) _ _).trans (CoreRt.awake_istat ..)
  · rw [execInterruptEntry_of_open hopen, hidle']
    simp only [if_true, hl, Bool.or_true]

theorem State.irqLevel_none {s : State} {c : Nat} (h : ∀ l n, s.requested c l n = false) (k : CoreRt) : s.irqLevel c k = none := by
  simp [State.irqLevel, h]

theorem State.irqLevel_one {s : State} {c : Nat} {k : CoreRt} (hreq : s.requested c 1 k.cycle = true)
    (hie : k.cstat.getLsbD 5 = true) (hlvl : k.lvl ≤ 1) : s.irqLevel c k = some 1 :=
  if_pos (by simp [hreq, hlvl, CoreRt.ie, hie])

theorem State.irqLevel_zero {s : State} {c : Nat} {k : CoreRt} (hreq : s.requested c 0 k.cycle = true)
    (hie : k.cstat.getLsbD 4 = true) (hlvl : k.lvl = 0)
    (hno : ¬ (s.requested c 1 k.cycle = true ∧ k.cstat.getLsbD 5 = true)) : s.irqLevel c k = some 0 := by
  rw [State.irqLevel, if_neg (by simpa [CoreRt.ie, hlvl] using hno)]
  exact if_pos (by simp [hreq, hlvl, CoreRt.ie, hie])

theorem lvl_zero {x : Word} (h2 : x.getLsbD 2 = false) (h3 : x.getLsbD 3 = false) : x.toNat / 4 % 4 = 0 := by
  rw [BitVec.getLsbD, Nat.testBit_eq_decide_div_mod_eq, decide_eq_false_iff_not] at h2 h3
  omega

/-! ### The TIMER request (R255) -/

/-- The cycle of the last three in which CYC equals a comparand is the one as far back as the comparand lies behind. -/
theorem timer_since {now m : Nat} {x : Word} (hm : m ≤ now) (hnow : now < m + 3) (hx : m % 2 ^ 32 = x.toNat) :
    (BitVec.ofNat 32 now - x).toNat = now - m := by
  rw [BitVec.toNat_sub, BitVec.toNat_ofNat, ← hx]
  omega

theorem timer_match {now : Nat} {x : Word} (h3 : (BitVec.ofNat 32 now - x).toNat < 3) (hle : (BitVec.ofNat 32 now - x).toNat ≤ now) :
    (now - (BitVec.ofNat 32 now - x).toNat) % 2 ^ 32 = x.toNat := by
  have hx := x.isLt
  rw [BitVec.toNat_sub, BitVec.toNat_ofNat] at *
  omega

theorem State.reg_pendIn (s : State) (c k n : Nat) : (s.pendIn c k n).reg (Reg.CORE_IPEND_DOOR.addr c)
    = s.reg (Reg.CORE_IPEND_DOOR.addr c) ||| BitVec.ofNat 32 (2 ^ k) := s.reg_setReg_same ..

/-- Settles O21. -/
theorem interrupts : Obligations.Interrupts := by
  unfold Obligations.Interrupts
  refine ⟨⟨?_, ?_, ?_⟩, ?_⟩
  · intro s c l hrun hst hmode hwatch hflow hrep hend hload hira histat k hlevel
    have hopen : s.irqOpen c := ⟨hst, hmode, hwatch, hflow, hrep, hend, hload⟩
    have hl : s.irqLevel c k = some l := by
      rcases hlevel with ⟨rfl, hreq, hie, hlvl⟩ | ⟨rfl, hreq, hie, hlvl, hno⟩
      · exact State.irqLevel_one hreq hie hlvl
      · exact State.irqLevel_zero hreq hie hlvl hno
    have hl2 : l < 2 := by rcases hlevel with ⟨h, -⟩ | ⟨h, -⟩ <;> omega
    have hkira : k.ira.length = 2 := by rw [State.coreNow_ira, hira]
    have hkistat : k.istat.length = 2 := by rw [State.coreNow_istat, histat]
    obtain ⟨hpc, hira', histat', hcycle, hshadow, hdm⟩ :=
      k.enterIrq_frame l (if l = 1 then s.rd Reg.CORE_IVEC_IVEC1 c else s.rd Reg.CORE_IVEC_IVEC0 c)
    refine ⟨_, interruptEntry_of_run hopen hrun hl, ?_⟩
    rw [State.setCore_same]
    refine ⟨hpc, ?_, ?_, ?_, ?_, hcycle, hshadow, fun hland => ?_, hdm, fun e he => State.setCore_other _ _ he, rfl⟩
    · rw [hira', nth_set _ _ _ _ _ (by omega), if_pos rfl]
    · rw [histat', nth_set _ _ _ _ _ (by omega), if_pos rfl]
    · rw [hira', nth_set _ _ _ _ _ (by omega), if_neg (by omega)]
    · rw [histat', nth_set _ _ _ _ _ (by omega), if_neg (by omega)]
    · rw [CoreRt.enterIrq_of_landed hland]
      obtain ⟨hlvl, h4, h5⟩ := k.savedFor_status hl2 (if l = 1 then s.rd Reg.CORE_IVEC_IVEC1 c else s.rd Reg.CORE_IVEC_IVEC0 c)
      exact ⟨hlvl, h4, h5, rfl, rfl⟩
  · intro s c hidle hirq hmode hwatch hflow hrep hend hload histat init hreq h5 h2 h3
    have hst : s.cstate c ≠ 0 := by omega
    have hlvl : init.toNat / 4 % 4 = 0 := lvl_zero h2 h3
    obtain ⟨k, hkistat, hkstat, hexec⟩ := interruptEntry_of_idle (l := 1) ⟨hst, hmode, hwatch, hflow, hrep, hend, hload⟩ hidle hirq
      (State.irqLevel_one
        ((congrArg (s.requested c 1) (CoreRt.awake_cycle_le (s.core c) (Nat.le_max_left ..))).trans hreq) h5 (by
        rw [CoreRt.lvl, hlvl]
        exact Nat.zero_le 1))
    obtain ⟨hpc, -, histat', -⟩ := k.enterIrq_frame 1 (if 1 = 1 then s.rd Reg.CORE_IVEC_IVEC1 c else s.rd Reg.CORE_IVEC_IVEC0 c)
    refine ⟨_, hexec, ?_, ?_, ?_, rfl⟩ <;> rw [State.setCore_same]
    · exact hpc
    · rw [histat', nth_set _ _ _ _ _ (by rw [hkistat, histat]; decide), if_pos rfl, hkstat]
  · intro s c h
    rw [exec_interruptEntry, execInterruptEntry]
    refine congrArg Host.Outcome.next (ite_eq_left_iff.mpr fun hopen => ?_)
    rcases h with h | h | h | h | h | h
    · dsimp only
      rw [State.irqLevel_none h]
    all_goals exact absurd (by simp [h]) hopen
  · intro s c hwatch now pend
    refine ⟨fun m hm hnow heq => ?_, fun hno => ?_⟩
    · have hsince := timer_since hm hnow heq
      have hexec : exec (.timerMatch c) s = .next (s.pendIn c 2 m) := by
        rw [exec_timerMatch, execTimerMatch]
        dsimp only
        rw [hsince, if_pos (by simp only [hwatch, Bool.not_false, Bool.true_and, Bool.and_eq_true, decide_eq_true_eq]; omega),
          show s.cycNow c - (now - m) = m by omega]
      refine ⟨_, hexec, fun j => ?_, State.setCore_same .., fun e he => State.setCore_other _ _ he,
        fun a ha => s.reg_setReg_other _ ha, rfl⟩
      rw [State.reg_pendIn, BitVec.getLsbD_or]
      congr 1
      rw [BitVec.getLsbD_ofNat, Nat.testBit_two_pow]
      by_cases hj : j = 2 <;> simp [hj, eq_comm]
    · rw [exec_timerMatch, execTimerMatch]
      refine congrArg Host.Outcome.next (if_neg fun h => hno ?_)
      change (!s.inWatch && decide ((BitVec.ofNat 32 now - ((s.core c).landTo now).tcmp).toNat < 3)
        && decide ((BitVec.ofNat 32 now - ((s.core c).landTo now).tcmp).toNat ≤ now)) = true at h
      simp only [hwatch, Bool.not_false, Bool.true_and, Bool.and_eq_true, decide_eq_true_eq] at h
      exact ⟨_, Nat.sub_le .., by omega, timer_match h.1 h.2⟩

end Sys2Proof.Machine
end

