-- ==== Sys2Proof/Proofs/CoreEnd.lean ====
section
/-! The end of a run and of its draining (R276, R277). -/

namespace Sys2Proof.Machine

/-! ### What cancelling the hauls of a core touches (R276) -/

/-- `t` is `s` but for DM of core `c`, registers at 8 modulo 16, where the conflict counts stand, and the model's counter of free values. -/
structure State.DmOnly (c : Nat) (s t : State) : Prop where
  onCore : s.OnCore c t
  core : t.core c = { s.core c with dm := (t.core c).dm }
  reg : ∀ a, a % 16 ≠ 8 → t.reg a = s.reg a

section
variable {c : Nat} {s t u : State}

theorem State.DmOnly.refl (s : State) : s.DmOnly c s := ⟨.refl c s, rfl, fun _ _ => rfl⟩

theorem State.DmOnly.trans (h : s.DmOnly c t) (k : t.DmOnly c u) : s.DmOnly c u := by
  refine ⟨h.onCore.trans k.onCore, ?_, fun a ha => (k.reg a ha).trans (h.reg a ha)⟩
  have hcore := h.core
  have kcore := k.core
  rw [hcore] at kcore
  exact kcore

theorem State.dmOnly_dmWrite (s : State) (a : Nat) (bs : List Byte) : s.DmOnly c (s.dmWrite c a bs) := by
  rw [State.dmWrite_eq]
  exact ⟨s.onCore_setCore .., by rw [State.setCore_same], fun _ _ => rfl⟩

theorem State.dmOnly_conflicts (s : State) (ch n : Nat) : s.DmOnly c (s.bump Reg.FOLD_HCONF_N ch n) :=
  ⟨s.onCore_wr .., rfl, fun a ha => s.reg_wr_other _ _ _ (by simp only [Field.addr, Reg.FOLD_HCONF_N]; omega)⟩

theorem State.dmOnly_haulCopy (s : State) (h : Haul) (n : Nat) : s.DmOnly c (s.haulCopy c h n [] [] []).2 := by
  have hcopy (bs : List Byte) : s.DmOnly c (if h.lib && h.format = 0 then s else s.dmWrite c h.dest bs) := by
    split
    · exact .refl s
    · exact s.dmOnly_dmWrite h.dest bs
  unfold State.haulCopy
  dsimp only
  split
  · exact hcopy _
  · exact (hcopy _).trans (State.dmOnly_conflicts ..)

theorem State.dmOnly_haulStatus (s : State) (a bits : Nat) : s.DmOnly c (s.haulStatus c a bits) := s.dmOnly_dmWrite ..

/-- The haul in progress is cancelled, and what it had copied by then stands in DM. -/
theorem State.dmOnly_cancelOne (s : State) (h : Option Haul) : s.DmOnly c (match h with
    | none => s
    | some h =>
      let (d, s) := s.fresh
      let s := (s.haulCopy c h ((Config.open_ 17 d).toNat % (h.items + 1)) [] [] []).2
      if h.lib then s else s.haulStatus c h.at_ 0x10) := by
  cases h with
  | none => exact .refl s
  | some h =>
    have hfresh : s.DmOnly c s.fresh.2 := ⟨⟨_, _, _, rfl, fun _ _ => rfl⟩, rfl, fun _ _ => rfl⟩
    have hcopy := hfresh.trans (State.dmOnly_haulCopy _ h ((Config.open_ 17 s.free).toNat % (h.items + 1)))
    dsimp only [State.fresh] at hcopy ⊢
    split
    · exact hcopy
    · exact hcopy.trans (State.dmOnly_haulStatus ..)

theorem State.dmOnly_cancelHauls (s : State) :
    (s.setCore c { s.core c with hq := [], hauling := none }).DmOnly c (s.cancelHauls c) :=
  State.each_keeps (P := State.DmOnly c _) (fun a _ _ ht => ht.trans (State.dmOnly_haulStatus _ a 0x10))
    (State.dmOnly_cancelOne _ (s.core c).hauling)

end

/-- Registers that stand neither at 0 nor at 8 modulo 16 hold no ownership and no conflict count. -/
theorem State.reg_release_apart (s : State) (ch pl : Nat) {a : Nat} (ha : a % 16 ≠ 0) : (s.release ch pl).reg a = s.reg a := by
  unfold State.release
  split
  · exact s.reg_setOwn_other pl 0 (by simp only [Field.addr, Reg.FOLD_PSTAT_OWN_A]; omega)
  · rfl

theorem State.reg_releaseAll_apart (s : State) (bs : List (Nat × Nat)) {a : Nat} (ha : a % 16 ≠ 0) :
    (s.releaseAll bs).reg a = s.reg a := by
  rw [State.releaseAll_eq_each]
  refine State.reg_each (fun b _ t => ?_) s
  rcases t.releaseOne_or b with h | h <;> rw [h]
  exact t.reg_release_apart b.1 b.2 ha

/-- A run leaves its core as `k`: its hauls are cancelled and its bindings dropped, and the rest of the block stands but for
conflict counts and ownerships. -/
theorem State.quit_run (s : State) (c : Nat) (k : CoreRt) : s.OnCore c (s.quit c k)
    ∧ (s.quit c k).core c = { k with hq := [], hauling := none, binds := [], dm := ((s.quit c k).core c).dm }
    ∧ ∀ a, a % 16 ≠ 0 → a % 16 ≠ 8 → (s.quit c k).reg a = s.reg a := by
  have hcancel := (s.setCore c k).dmOnly_cancelHauls (c := c)
  rw [State.setCore_same] at hcancel
  have hcore := hcancel.core
  rw [State.setCore_same] at hcore
  have hdrop := (((s.setCore c k).cancelHauls c).dropBinds_frame c).1
  refine ⟨?_, ?_, fun a h0 h8 => ?_⟩
  · exact (((s.onCore_setCore c k).trans (State.onCore_setCore ..)).trans hcancel.onCore).trans (State.onCore_dropBinds ..)
  · rw [State.quit, hdrop, hcore]
  · rw [State.quit, State.dropBinds, State.reg_releaseAll_apart _ _ h0, State.setCore_reg, hcancel.reg a h8]
    rfl

/-! ### END retires (R276) -/

/-- CORE_LASTRUN and DRAIN as END's retirement shows them (Tables 11.10 and 11.11). -/
def State.shownDrain (c : Nat) (s : State) : State := (s.lastRun c 1).wr Reg.CORE_STAT_STATE c 3

theorem State.shownDrain_frame {c : Nat} (hc : c < 12) (s : State) : (s.shownDrain c).cstate c = 3
    ∧ (s.shownDrain c).rd Reg.CORE_LASTRUN_RES c = 1 ∧ (s.shownDrain c).rd Reg.CORE_LASTRUN_RUN c = s.rd Reg.CORE_RUNNO_N c % 256
    ∧ (s.shownDrain c).rd Reg.HAWSER_POS_POS 0 = s.rd Reg.HAWSER_POS_POS 0
    ∧ (s.shownDrain c).core c = s.core c ∧ (s.shownDrain c).link = s.link := by
  refine ⟨?_, ?_, ?_, ?_, ?_, ?_⟩
  · exact State.cstate_wr _ c (by decide)
  · rw [State.shownDrain, State.rd_wr_clears _ c _ (by decide) (by decide), State.lastRun, State.rd_wr_same _ _ _ _ (by decide)]
    rfl
  · rw [State.shownDrain, State.rd_wr_clears _ c _ (by decide) (by decide), State.lastRun,
      State.rd_wr_clears _ c _ (by decide) (by decide), State.rd_wr_same _ _ _ _ (by decide)]
    rfl
  · have hpos (f : Field) (hf : f.ofCore = true) (v : Nat) (u : State) :
        (u.wr f c v).rd Reg.HAWSER_POS_POS 0 = u.rd Reg.HAWSER_POS_POS 0 := by
      have := Field.addr_ofCore hf hc
      exact u.rd_wr_addr _ _ _ _ _ (by simp only [Field.addr, Reg.HAWSER_POS_POS] at this ⊢; omega)
    rw [State.shownDrain, State.lastRun, hpos _ (by decide), hpos _ (by decide), hpos _ (by decide)]
  · rw [State.core, State.shownDrain, State.lastRun, State.wr_cores, State.wr_cores, State.wr_cores]
    rfl
  · rw [State.shownDrain, State.lastRun, State.wr_link, State.wr_link, State.wr_link]

/-- What END's retirement leaves of the core while the link island reads its sends and the kernel's messages `own`. -/
def CoreRt.retired (k : CoreRt) (own : List (Nat × List Byte)) : CoreRt :=
  { k.ended with sends := [], lib := none, drain := k.sends ++ own.map fun p => Send.mk 0 p.2.length p.1 }

/-- The messages of the run's kernel, stamped at `at_`. -/
def CoreRt.ownMessages (k : CoreRt) (at_ : Time) : List (Nat × List Byte) := ((k.lib.bind (·.out)).getD []).map (libStamped at_)

/-- The sends of a run, and behind them its kernel's messages, join the link island's queue (R276, R277). -/
def State.sendsOut (c : Nat) (at_ : Time) (sends : List Send) (own : List (Nat × List Byte)) (s : State) : State :=
  let pos := s.rd Reg.HAWSER_POS_POS 0
  { s with link := { s.link with txq := s.link.txq ++ ((sends.map fun d => TxItem.mk d.ty pos (.send c d.addr d.len at_) 0 none)
      ++ own.map fun p => TxItem.mk p.1 pos (.lib c p.2) 0 none) } }

theorem State.sendsOut_frame (s : State) (c : Nat) (at_ : Time) (sends : List Send) (own : List (Nat × List Byte)) :
    (∀ f i, (s.sendsOut c at_ sends own).rd f i = s.rd f i) ∧ (∀ e, (s.sendsOut c at_ sends own).core e = s.core e)
    ∧ (s.sendsOut c at_ sends own).link.txq = s.link.txq
        ++ (sends.map fun d => TxItem.mk d.ty (s.rd Reg.HAWSER_POS_POS 0) (.send c d.addr d.len at_) 0 none)
        ++ own.map fun p => TxItem.mk p.1 (s.rd Reg.HAWSER_POS_POS 0) (.lib c p.2) 0 none :=
  ⟨fun _ _ => rfl, fun _ => rfl, (List.append_assoc ..).symm⟩

theorem execEndRetire_of_run {s : State} {c : CoreId} {x : Nat} {k : CoreRt} (hx : (s.core c).endAt = some x)
    (hrun : s.cstate c = 2) (hk : (s.core c).toCycle x = k) :
    exec (.endRetire c) s = .next (((s.quit c (k.retired (k.ownMessages (s.cycleTime x)))).shownDrain c).sendsOut c (s.cycleTime x)
      k.sends (k.ownMessages (s.cycleTime x))) := by
  have hrun' : s.runOf c = true := by
    rw [State.runOf, hrun]
    rfl
  subst hk
  rw [exec_endRetire]
  simp only [execEndRetire, hx, hrun', Bool.not_true, Bool.false_eq_true, if_false]
  rfl

theorem State.OnCore.link {c : Nat} {s t : State} (h : s.OnCore c t) : t.link = s.link := by
  obtain ⟨_, _, _, rfl, -⟩ := h
  rfl

/-- END of a run retires. -/
theorem endRetire_of_run {s : State} {c : CoreId} {x : Nat} (hx : (s.core c).endAt = some x) (hrun : s.cstate c = 2) :
    let own := (((s.core c).lib.bind (·.out)).getD []).map (libStamped (s.cycleTime x))
    let pos := s.rd Reg.HAWSER_POS_POS 0
    ∃ t, exec (.endRetire c) s = .next t ∧ t.cstate c = 3 ∧ t.rd Reg.CORE_LASTRUN_RES c = 1
      ∧ t.rd Reg.CORE_LASTRUN_RUN c = s.rd Reg.CORE_RUNNO_N c % 256
      ∧ (t.core c).endAt = none ∧ (t.core c).sends = [] ∧ (t.core c).drain = (s.core c).sends ++ (own.map fun m => Send.mk 0 m.2.length m.1)
      ∧ (t.core c).binds = [] ∧ (t.core c).hq = [] ∧ (t.core c).hauling = none
      ∧ t.link.txq = s.link.txq ++ ((s.core c).sends.map fun d => TxItem.mk d.ty pos (.send c d.addr d.len (s.cycleTime x)) 0 none)
          ++ (own.map fun m => TxItem.mk m.1 pos (.lib c m.2) 0 none) := by
  intro own pos
  have hexec := execEndRetire_of_run hx hrun rfl
  have hsends : ((s.core c).toCycle x).sends = (s.core c).sends := CoreRt.landTo_sends ..
  have hown : ((s.core c).toCycle x).ownMessages (s.cycleTime x) = own := by
    rw [CoreRt.ownMessages, show ((s.core c).toCycle x).lib = (s.core c).lib from
      CoreRt.landTo_of_still (f := CoreRt.lib) (fun _ => rfl) _ _]
  obtain ⟨honly, hcore, hreg⟩ := s.quit_run c (((s.core c).toCycle x).retired own)
  rw [hown, hsends] at hexec
  generalize s.quit c (((s.core c).toCycle x).retired own) = v at hexec honly hcore hreg
  have hrunno : v.rd Reg.CORE_RUNNO_N c = s.rd Reg.CORE_RUNNO_N c :=
    congrArg Reg.CORE_RUNNO_N.read (hreg _ (by simp only [Field.addr, Reg.CORE_RUNNO_N]; omega)
      (by simp only [Field.addr, Reg.CORE_RUNNO_N]; omega))
  have hpos : v.rd Reg.HAWSER_POS_POS 0 = pos := congrArg Reg.HAWSER_POS_POS.read (hreg _ (by decide) (by decide))
  obtain ⟨hstate, hres, hno, hpos', hcore', hlink⟩ := v.shownDrain_frame c.isLt
  rw [hcore] at hcore'
  rw [hrunno] at hno
  rw [hpos] at hpos'
  rw [honly.link] at hlink
  generalize v.shownDrain c = u at *
  obtain ⟨hrd, hcores, htxq⟩ := u.sendsOut_frame c (s.cycleTime x) (s.core c).sends own
  rw [hpos', hlink] at htxq
  generalize u.sendsOut c (s.cycleTime x) (s.core c).sends own = t at *
  rw [← hcores] at hcore'
  refine ⟨t, hexec, (hrd ..).trans hstate, (hrd ..).trans hres, (hrd ..).trans hno, ?_, ?_, ?_, ?_, ?_, ?_, htxq⟩
  · exact congrArg CoreRt.endAt hcore'
  · exact congrArg CoreRt.sends hcore'
  · rw [← hsends]
    exact congrArg CoreRt.drain hcore'
  · exact congrArg CoreRt.binds hcore'
  · exact congrArg CoreRt.hq hcore'
  · exact congrArg CoreRt.hauling hcore'

/-! ### A core becomes IDLE or OFF (Table 11.10) -/

/-- Dropping the jobs of a core leaves the rest of the core; with none queued the link island has nothing to say. -/
theorem State.dropJobs_frame (s : State) (c : Nat) : (∃ jobs, (s.dropJobs c).core c = { s.core c with jobs := jobs })
    ∧ ((s.core c).jobs = [] → (s.dropJobs c).link = s.link) := by
  refine ⟨⟨[], ?_⟩, fun hjobs => ?_⟩
  · have hlost (u : State) (js : List Job) : (u.each js fun j s => s.loseJob c j).cores = u.cores :=
      State.each_keeps (P := fun t => t.cores = u.cores) (fun j _ t ht => (t.loseJob_cores c j).trans ht) rfl
    rw [State.core, State.dropJobs, State.releaseAll_cores, hlost]
    exact State.setCore_same ..
  · rw [State.dropJobs, hjobs]
    rfl

theorem State.offCheck_frame (s : State) (c : Nat) :
    (∃ jobs irq, (s.offCheck c).core c = { s.core c with jobs := jobs, idleIrq := irq } ∧ (irq = true → (s.core c).idleIrq = true))
    ∧ ((s.core c).jobs = [] → (s.offCheck c).link = s.link) := by
  unfold State.offCheck
  split
  · obtain ⟨⟨jobs, hcore⟩, hlink⟩ := State.dropJobs_frame ((s.wr Reg.CORE_STAT_STATE c 0).setCore c { s.core c with idleIrq := false }) c
    rw [State.setCore_same] at hcore hlink
    exact ⟨⟨jobs, false, hcore, nofun⟩, fun hjobs => (hlink hjobs).trans rfl⟩
  · exact ⟨⟨_, _, rfl, id⟩, fun _ => rfl⟩

/-- What becoming IDLE or OFF leaves of a core that runs no handler. -/
theorem State.toIdle_frame (s : State) (c : Nat) :
    (∃ jobs irq cstat shadow, (s.toIdle c).core c = { s.core c with jobs := jobs, idleIrq := irq, cstat := cstat, shadow := shadow }
      ∧ (irq = true → (s.core c).idleIrq = true))
    ∧ ((s.core c).jobs = [] → (s.toIdle c).link = s.link) := by
  obtain ⟨cstat, shadow, hk⟩ := (s.core c).idled_frame (s.reg (Reg.CORE_CSINIT_V.addr c))
  let u := (s.setCore c ((s.core c).idled (s.reg (Reg.CORE_CSINIT_V.addr c)))).wr Reg.CORE_STAT_STATE c 1
  have hu : u.core c = { s.core c with cstat := cstat, shadow := shadow } := (State.setCore_same ..).trans hk
  obtain ⟨⟨jobs, irq, hcore, hirq⟩, hlink⟩ := u.offCheck_frame c
  rw [hu] at hcore hirq hlink
  exact ⟨⟨jobs, irq, cstat, shadow, hcore, hirq⟩, fun hjobs => (hlink hjobs).trans rfl⟩

/-- END of a handler on a core without a run retires. -/
theorem endRetire_of_handler {s : State} {c : CoreId} {x : Nat} (hx : (s.core c).endAt = some x) (hrun : s.cstate c ≠ 2) :
    ∃ t, exec (.endRetire c) s = .next t ∧ (t.core c).endAt = none ∧ (t.core c).idleIrq = false
      ∧ ((s.core c).jobs = [] → t.link = s.link) ∧ (t.core c).dm = (s.core c).dm := by
  let u := s.setCore c ((s.core c).toCycle x).ended
  have hu : u.core c = ((s.core c).toCycle x).ended := State.setCore_same ..
  have hjobs : ((s.core c).toCycle x).jobs = (s.core c).jobs := CoreRt.landTo_of_still (f := CoreRt.jobs) (fun _ => rfl) _ _
  have hdm : ((s.core c).toCycle x).dm = (s.core c).dm := CoreRt.landTo_dm ..
  have hexec : exec (.endRetire c) s = .next (if u.cstate c = 1 then u.toIdle c else u) := by
    have hrun' : s.runOf c = false := by simpa [State.runOf] using hrun
    rw [exec_endRetire]
    simp only [execEndRetire, hx, hrun', Bool.not_false, if_true, u]
  refine ⟨_, hexec, ?_⟩
  split
  · obtain ⟨⟨jobs, irq, cstat, shadow, hcore, hirq⟩, hlink⟩ := u.toIdle_frame c
    rw [hu] at hcore hirq hlink
    refine ⟨congrArg CoreRt.endAt hcore, ?_, fun h => (hlink (hjobs.trans h)).trans rfl, (congrArg CoreRt.dm hcore).trans hdm⟩
    rw [hcore]
    exact Bool.eq_false_iff.mpr fun h => Bool.false_ne_true (hirq h)
  · exact ⟨congrArg CoreRt.endAt hu, congrArg CoreRt.idleIrq hu, fun _ => rfl, (congrArg CoreRt.dm hu).trans hdm⟩

/-- Settles O23. -/
theorem endAndDrain : Obligations.EndAndDrain := by
  unfold Obligations.EndAndDrain
  refine ⟨fun s c x hx hrun => endRetire_of_run hx hrun, fun s c x hx hrun => endRetire_of_handler hx hrun, ?_, ?_, ?_⟩
  · intro s c hx
    rw [exec_endRetire, execEndRetire]
    simp only [hx]
  · intro s c hstate hdrain
    have hexec : exec (.drainComplete c) s = .next (s.toIdle c) := by
      rw [exec_drainComplete, execDrainComplete, hstate, hdrain]
      rfl
    obtain ⟨hsame, hidle⟩ := s.toIdle_end c.isLt
    exact ⟨_, hexec, hidle, hsame.dm⟩
  · intro s c h
    rw [exec_drainComplete, execDrainComplete]
    refine congrArg Host.Outcome.next (if_neg ?_)
    rcases h with h | h <;> simp [h]

end Sys2Proof.Machine
end

