-- ==== Sys2Proof/Proofs/Hauls.lean ====
section
/-! The haul engine (R269 to R271, R105): what it refuses, how it begins a descriptor, and what it leaves at the end. -/

namespace Sys2Proof.Machine

/-! ### What it refuses (R270) -/

/-- The bins of a descriptor lie in the bank when its first and its last do. -/
theorem bins_inside_iff (first stride : Int) {n : Nat} (hn : n ≠ 0) :
    (∃ i : Nat, i < n ∧ (first + i * stride < 0 ∨ 102399 < first + i * stride)) ↔
      (first < 0 ∨ 102399 < first) ∨ (first + (n - 1 : Nat) * stride < 0 ∨ 102399 < first + (n - 1 : Nat) * stride) := by
  constructor
  · rintro ⟨i, hi, h⟩
    by_contra hno
    have hle : (i : Int) ≤ (n - 1 : Nat) := by omega
    have h0 : (0 : Int) ≤ i := Int.natCast_nonneg i
    rcases le_or_gt 0 stride with hs | hs
    · have h1 : 0 ≤ (i : Int) * stride := Int.mul_nonneg h0 hs
      have h2 : (i : Int) * stride ≤ (n - 1 : Nat) * stride := Int.mul_le_mul_of_nonneg_right hle hs
      omega
    · have h1 : (i : Int) * stride ≤ 0 := Int.mul_nonpos_of_nonneg_of_nonpos h0 hs.le
      have h2 : ((n - 1 : Nat) : Int) * stride ≤ i * stride := Int.mul_le_mul_of_nonpos_right hle hs.le
      omega
  · rintro (h | h)
    · exact ⟨0, by omega, by simpa using h⟩
    · exact ⟨n - 1, by omega, h⟩

/-- Settles O25: the engine looks at the first and the last bin, and between them lie the others. -/
theorem haulRefusal : Obligations.HaulRefusal := by
  unfold Obligations.HaulRefusal
  intro s h
  by_cases hcount : h.count = 0
  · simp [State.haulRefused, hcount]
  have hbins := bins_inside_iff h.first h.stride hcount
  cases hm : h.isMeta
  · have hsize : h.items * h.step = if h.format = 0 then 8 * h.count else 2 * h.count := by
      simp only [Haul.items, Haul.step, hm, Bool.false_eq_true, if_false]
      split <;> omega
    have hfirst : h.binAt 0 = h.first := by simp [Haul.binAt]
    have hlast : h.binAt (h.count - 1) = h.first + (h.count - 1 : Nat) * h.stride := rfl
    rw [← hlast, ← hfirst] at hbins
    simp [State.haulRefused, hm, hsize, ← hfirst, hbins]
    omega
  · have hsize : h.items * h.step = h.count / 4 * 4 := by simp [Haul.items, Haul.step, hm]
    simp only [State.haulRefused, hm, hsize, if_true, true_and, Bool.true_eq_false, false_and, Bool.or_eq_true, decide_eq_true_eq,
      bne_iff_ne, false_or]
    omega

/-! ### What an error of a haul's read touches (R101, R102) -/

/-- `t` is `s` but for the quality maps, the log, the safety sources and registers, of those from the plane states on only the banks'
error counts, at 12 modulo 16. -/
def State.ErrNoted (s t : State) : Prop :=
  ∃ (regs raised : SMap Word) (qmap : SMap Byte) (log : LogSt) (free sub : Nat) (safety : SafetySt),
    t = { s with regs := regs, raised := raised, qmap := qmap, log := log, free := free, sub := sub, safety := safety }
    ∧ ∀ a, 0x25000 ≤ a → a % 16 ≠ 12 → t.reg a = s.reg a

section
variable {s t u : State}

theorem State.ErrNoted.refl (s : State) : s.ErrNoted s := ⟨_, _, _, _, _, _, _, rfl, fun _ _ _ => rfl⟩

theorem State.ErrNoted.trans (h : s.ErrNoted t) (k : t.ErrNoted u) : s.ErrNoted u := by
  obtain ⟨_, _, _, _, _, _, _, rfl, hreg⟩ := h
  obtain ⟨_, _, _, _, _, _, _, rfl, kreg⟩ := k
  exact ⟨_, _, _, _, _, _, _, rfl, fun a h25 h12 => (kreg a h25 h12).trans (hreg a h25 h12)⟩

theorem State.errNoted_wr (s : State) (f : Field) (i v : Nat) (h : f.addr i < 0x25000 ∨ f.addr i % 16 = 12) :
    s.ErrNoted (s.wr f i v) :=
  ⟨_, _, _, _, _, _, _, rfl, fun a h25 h12 => s.reg_wr_other _ _ _ (by omega)⟩

theorem State.errNoted_raise (s : State) (f : Field) (i : Nat) (h : f.addr i < 0x25000) : s.ErrNoted (s.raise f i) :=
  (s.errNoted_wr f i 1 (.inl h)).trans ⟨_, _, _, _, _, _, _, rfl, fun _ _ _ => rfl⟩

theorem State.Logged.errNoted (h : s.Logged t) : s.ErrNoted t := by
  obtain ⟨_, _, _, _, _, rfl, hreg⟩ := h
  exact ⟨_, _, _, _, _, _, _, rfl, fun a h25 _ => hreg a (.inr (by omega))⟩

theorem State.errNoted_setQbyte (s : State) (ch pl blk : Nat) (v : Byte) : s.ErrNoted (s.setQbyte ch pl blk v) :=
  ⟨_, _, _, _, _, _, _, rfl, fun _ _ _ => rfl⟩

theorem State.errNoted_markBoth (s : State) (ch pl blk k : Nat) : s.ErrNoted (s.markBoth ch pl blk k) := by
  unfold State.markBoth
  dsimp only
  split
  · exact s.errNoted_setQbyte ..
  · exact (s.errNoted_setQbyte ..).trans (State.errNoted_setQbyte ..)

theorem State.errNoted_foldCe (s : State) (ch : Nat) : s.ErrNoted (s.foldCe ch) :=
  (s.errNoted_wr Reg.FOLD_ECC_CE ch _ (.inr (by simp only [Field.addr, Reg.FOLD_ECC_CE]; omega))).trans
    (State.errNoted_wr _ Reg.FOLD_ECC_CE_N 0 _ (.inl (by decide)))

theorem State.strandOf_lt {s : State} {ch i : Nat} (h : s.strandOf ch = some i) : i < 64 := by
  unfold State.strandOf at h
  split at h
  · rw [← Option.some.inj h]
    exact Nat.mod_lt _ (by decide)
  · cases h

theorem State.errNoted_source (s : State) (k : Nat) : s.ErrNoted (s.source k) := ⟨_, _, _, _, _, _, _, rfl, fun _ _ _ => rfl⟩

theorem State.errNoted_foldUe (s : State) (ch pl blk : Nat) (isMeta : Bool) (kind : Nat) :
    s.ErrNoted (s.foldUe ch pl blk isMeta kind) := by
  unfold State.foldUe
  extract_lets was s1 s2 s3 s4
  have h1 : s.ErrNoted s1 :=
    (s.errNoted_wr Reg.FOLD_ECC_UE ch _ (.inr (by simp only [Field.addr, Reg.FOLD_ECC_UE]; omega))).trans
      (State.errNoted_wr _ Reg.FOLD_ECC_UE_N 0 _ (.inl (by decide)))
  have h2 : s1.ErrNoted s2 :=
    ((((s1.errNoted_raise Reg.FOLD_ECC_LAST_VALID 0 (by decide)).trans
      (State.errNoted_wr _ Reg.FOLD_ECC_LAST_META 0 _ (.inl (by decide)))).trans
      (State.errNoted_wr _ Reg.FOLD_ECC_LAST_BLOCK 0 _ (.inl (by decide)))).trans
      (State.errNoted_wr _ Reg.FOLD_ECC_LAST_PLANE 0 _ (.inl (by decide)))).trans
      (State.errNoted_wr _ Reg.FOLD_ECC_LAST_CHAN 0 _ (.inl (by decide)))
  have h3 : s2.ErrNoted s3 := by
    cases hi : s2.strandOf ch with
    | none =>
      simp only [s3, hi]
      exact .refl s2
    | some i =>
      have hlt := State.strandOf_lt hi
      simp only [s3, hi]
      exact s2.errNoted_raise _ i (by simp only [Field.addr, Reg.FOLD_SSTAT_UE_SEEN]; omega)
  have h4 : s3.ErrNoted s4 := (State.logged_logBy ..).errNoted
  have h := ((h1.trans h2).trans h3).trans h4
  split
  · exact h
  · exact h.trans (s4.errNoted_source 4)

theorem State.errNoted_eccCount (s : State) (ch pl blk : Nat) (isMeta : Bool) (e : Ecc) :
    s.ErrNoted (s.eccCount ch pl blk isMeta e) := by
  unfold State.eccCount
  split
  · exact s.errNoted_foldCe ch
  · split
    · exact s.errNoted_foldUe ..
    · exact .refl s

theorem State.errNoted_haulErr (s : State) (h : Haul) (i : Nat) (e : Ecc) : s.ErrNoted (s.haulErr h i e) := by
  unfold State.haulErr
  dsimp only
  split
  · exact s.errNoted_eccCount ..
  · split
    · exact (s.errNoted_markBoth ..).trans (State.errNoted_eccCount ..)
    · exact s.errNoted_eccCount ..

end

/-! ### Bytes of equal pieces -/

/-- Equal pieces laid end to end: byte `j` of piece `i`. -/
theorem nth_flatMap_range {α : Type} {f : Nat → List α} {m : Nat} (n : Nat) (hf : ∀ i, i < n → (f i).length = m) :
    ((List.range n).flatMap f).length = n * m
    ∧ ∀ i j d, i < n → j < m → nth ((List.range n).flatMap f) (m * i + j) d = nth (f i) j d := by
  induction n with
  | zero => exact ⟨by simp, by omega⟩
  | succ n ih =>
    obtain ⟨hlen, hnth⟩ := ih fun i hi => hf i (by omega)
    rw [List.range_succ, List.flatMap_append, List.flatMap_singleton]
    refine ⟨by rw [List.length_append, hlen, hf n (by omega)]; ring, fun i j d hi hj => ?_⟩
    have hmul : m * n = n * m := Nat.mul_comm m n
    rcases Nat.lt_succ_iff_lt_or_eq.mp hi with hlt | rfl
    · have hin : m * i + j < n * m := by
        have : m * (i + 1) ≤ m * n := Nat.mul_le_mul_left m hlt
        rw [Nat.mul_succ] at this
        omega
      rw [← hnth i j d hlt hj, nth, nth, List.getElem?_append_left (by omega)]
    · rw [nth, nth, List.getElem?_append_right (by omega), hlen]
      congr 2
      omega

theorem nth_leBytes (n v j : Nat) (d : Byte) (hj : j < n) : nth (leBytes n v) j d = BitVec.ofNat 8 (v / 256 ^ j) := by
  simp [nth, leBytes, hj]

theorem length_leBytes (n v : Nat) : (leBytes n v).length = n := by simp [leBytes]

/-! ### The end of a program's haul of bins (R270, R271, R105) -/

theorem State.ErrNoted.each {α : Type} {f : α → State → State} (hf : ∀ x t, State.ErrNoted t (f x t)) (s : State) (l : List α) :
    s.ErrNoted (s.each l f) :=
  State.each_keeps (P := s.ErrNoted) (fun x _ _ ht => ht.trans (hf x _)) (.refl s)

theorem State.ErrNoted.frame {s t : State} (h : s.ErrNoted t) (c : Nat) : t.core c = s.core c ∧ (∀ b, t.dm c b = s.dm c b)
    ∧ t.bins = s.bins ∧ ∀ a, 0x25000 ≤ a → a % 16 ≠ 12 → t.reg a = s.reg a := by
  obtain ⟨_, _, _, _, _, _, _, rfl, hreg⟩ := h
  exact ⟨rfl, fun _ => rfl, rfl, hreg⟩

/-- The free value that stands for words the check bits do not vouch for, and the state after its draw. -/
theorem State.errDraw (s : State) (errs : List (Nat × Ecc)) :
    ∃ d free, (if errs.all (·.2.intact) then ((0 : Nat), s) else s.fresh) = (d, { s with free := free }) := by
  split
  · exact ⟨0, s.free, rfl⟩
  · exact ⟨_, _, rfl⟩

/-- What the engine delivers of a bin, `bad` where the check bits do not vouch for its word. -/
theorem State.haulItem_free (s : State) (free : Nat) (h : Haul) (i : Nat) (bad : Option Nat) :
    State.haulItem { s with free := free } h i bad = s.haulItem h i bad := rfl

/-- The items of a program's haul stand in DM, its conflicts are counted, and the fold memory stands. -/
theorem State.haulCopy_bins {s v : State} {c : Nat} {h : Haul} {n : Nat} {errs : List (Nat × Ecc)} {taken : List (Nat × Nat)}
    {turns : List Nat} {items : List (List Byte × Bool)} (hm : h.isMeta = false) (hl : h.lib = false)
    (hcopy : s.haulCopy c h n errs taken turns = (items, v)) :
    (∃ d, items = (List.range n).map fun i => s.haulItem h i (if errs.any fun e => e.1 = i && !e.2.intact then some d else none))
    ∧ (∀ b, v.dm c b = if h.dest ≤ b ∧ b < h.dest + (items.flatMap (·.1)).length then nth (items.flatMap (·.1)) (b - h.dest) 0
        else s.dm c b)
    ∧ v.core c = { s.core c with dm := (v.core c).dm } ∧ v.bins = s.bins
    ∧ v.reg (Reg.CORE_IPEND_DOOR.addr c) = s.reg (Reg.CORE_IPEND_DOOR.addr c)
    ∧ v.rd Reg.FOLD_HCONF_N h.chan = min (s.rd Reg.FOLD_HCONF_N h.chan
        + haulConflicts taken turns 0 ((List.range n).map fun i => subBank (h.binAt i).toNat)) (2 ^ 32 - 1) := by
  obtain ⟨d, free, hd⟩ := s.errDraw errs
  unfold State.haulCopy at hcopy
  rw [hd] at hcopy
  simp only [hl, hm, Bool.false_and, Bool.false_eq_true, if_false, State.haulItem_free, Prod.mk.injEq] at hcopy
  obtain ⟨hitems, hv⟩ := hcopy
  have herr := State.ErrNoted.each (f := fun e s => s.haulErr h e.1 e.2) (fun e t => t.errNoted_haulErr h e.1 e.2)
    ({ s with free := free } : State) errs
  rw [hitems] at hv
  generalize State.each errs (fun e s => s.haulErr h e.1 e.2) ({ s with free := free } : State) = w at herr hv
  obtain ⟨hcore, hdm, hbins, hreg⟩ := herr.frame c
  rw [← hv]
  refine ⟨⟨d, hitems.symm⟩, fun b => ?_, ?_, hbins, ?_, ?_⟩
  · exact (w.dm_dmWrite c h.dest _ b).trans (by rw [hdm]; rfl)
  · have hw : (w.dmWrite c h.dest (items.flatMap (·.1))).core c =
        { s.core c with dm := ((w.dmWrite c h.dest (items.flatMap (·.1))).core c).dm } := by
      rw [State.dmWrite_eq, State.setCore_same, hcore]
      rfl
    exact hw
  · refine (State.reg_wr_other _ _ _ _ (by simp only [Field.addr, Reg.FOLD_HCONF_N, Reg.CORE_IPEND_DOOR]; omega)).trans ?_
    exact hreg _ (by simp only [Field.addr, Reg.CORE_IPEND_DOOR]; omega) (by simp only [Field.addr, Reg.CORE_IPEND_DOOR]; omega)
  · rw [State.rd_bump_same _ _ _ _ (by decide)]
    have hrd : w.rd Reg.FOLD_HCONF_N h.chan = s.rd Reg.FOLD_HCONF_N h.chan :=
      congrArg Reg.FOLD_HCONF_N.read (hreg _ (by simp only [Field.addr, Reg.FOLD_HCONF_N]; omega)
        (by simp only [Field.addr, Reg.FOLD_HCONF_N]; omega))
    rw [← hrd]
    rfl

theorem sat16_eq (x : Int) : sat16 x = max (-32768) (min 32767 x) := by
  unfold sat16 clampInt
  split
  · omega
  · split <;> omega

theorem sat16_bne (x : Int) : (sat16 x != x) = decide (x < -32768 ∨ 32767 < x) := by
  rw [sat16_eq, Bool.eq_iff_iff, bne_iff_ne, decide_eq_true_eq]
  omega

theorem rndShift_one (x : Int) (sh : Nat) : rndShift 1 x sh = roundDiv x (2 ^ sh) := by
  by_cases hsh : sh = 0
  · have hx : (2 * x.natAbs + 1) / (2 * 1) = x.natAbs := by omega
    simp only [rndShift, hsh, if_true, roundDiv, Nat.pow_zero, hx]
    split <;> omega
  · simp [rndShift, hsh]

/-- The bytes and the clipping of bin `i` where the check bits vouch for its word (R270). -/
theorem State.haulItem_bin (s : State) {h : Haul} (hm : h.isMeta = false) (i : Nat) :
    (h.format = 0 → s.haulItem h i none = (leBytes 8 ((s.bin h.chan h.plane (h.binAt i).toNat).signExtend 64).toNat, false))
    ∧ (h.format ≠ 0 → s.haulItem h i none =
        (let x := roundDiv (s.bin h.chan h.plane (h.binAt i).toNat).toInt (2 ^ h.shift)
         (leBytes 2 (BitVec.ofInt 16 (max (-32768) (min 32767 x))).toNat, decide (x < -32768 ∨ 32767 < x)))) := by
  refine ⟨fun hf => ?_, fun hf => ?_⟩
  · simp only [State.haulItem, hm, hf, Bool.false_eq_true, if_false, if_true]
    rfl
  · simp only [State.haulItem, hm, hf, Bool.false_eq_true, if_false, rndShift_one, sat16_bne]
    rw [sat16_eq]
    rfl

theorem State.length_haulItem (s : State) {h : Haul} (hm : h.isMeta = false) (i : Nat) (bad : Option Nat) :
    (s.haulItem h i bad).1.length = if h.format = 0 then 8 else 2 := by
  simp only [State.haulItem, hm, Bool.false_eq_true, if_false]
  split <;> simp [leInt, length_leBytes]

/-- STATUS of a program's haul as its end writes it: UE when a word was uncorrectable, CLIP when one was clipped (Table 11.9). -/
def haulBits (ue : Nat) (clip : Bool) : Nat := (if ue = 0 then 0 else 4) + (if clip then 8 else 0) + 65536 * min 0xFFFF ue

theorem getLsbD_haulBits (ue : Nat) (clip : Bool) (v : Byte) (hv : v = BitVec.ofNat 8 ((haulBits ue clip ||| 1) / 256 ^ 0)) :
    v.getLsbD 0 = true ∧ v.getLsbD 2 = decide (ue ≠ 0) ∧ v.getLsbD 3 = clip := by
  have htest (j : Nat) (hj : j < 8) : v.getLsbD j = (decide (haulBits ue clip / 2 ^ j % 2 = 1) || decide (j = 0)) := by
    rw [hv, BitVec.getLsbD_ofNat, Nat.pow_zero, Nat.div_one, Nat.testBit_or, Nat.testBit_eq_decide_div_mod_eq, decide_eq_true hj,
      Bool.true_and, show Nat.testBit 1 j = decide (j = 0) by
        rw [Bool.eq_iff_iff, Nat.testBit_one_eq_true_iff_self_eq_zero, decide_eq_true_eq]]
  have hbits : haulBits ue clip / 2 ^ 2 % 2 = (if ue = 0 then 0 else 1) ∧ haulBits ue clip / 2 ^ 3 % 2 = (if clip then 1 else 0) := by
    unfold haulBits
    split <;> split <;> omega
  rw [htest 0 (by decide), htest 2 (by decide), htest 3 (by decide), hbits.1, hbits.2]
  refine ⟨by simp, ?_, ?_⟩
  · by_cases hue : ue = 0 <;> simp [hue]
  · cases clip <;> rfl

/-- A bit of IPEND that becomes pending, or not. -/
def State.pendIf (c : Nat) (irq : Bool) (s : State) : State := if irq then s.pend c 1 else s

theorem State.pendIf_frame (w : State) (c : Nat) (irq : Bool) :
    (∀ b, (w.pendIf c irq).dm c b = w.dm c b) ∧ ((w.pendIf c irq).core c).hauling = (w.core c).hauling
    ∧ ((w.pendIf c irq).core c).hq = (w.core c).hq ∧ (w.pendIf c irq).bins = w.bins
    ∧ ((w.pendIf c irq).reg (Reg.CORE_IPEND_DOOR.addr c)).getLsbD 1 = ((w.reg (Reg.CORE_IPEND_DOOR.addr c)).getLsbD 1 || irq)
    ∧ ∀ a, a ≠ Reg.CORE_IPEND_DOOR.addr c → (w.pendIf c irq).reg a = w.reg a := by
  cases irq
  · exact ⟨fun _ => rfl, rfl, rfl, rfl, (Bool.or_false _).symm, fun _ _ => rfl⟩
  · rw [State.pendIf, if_pos rfl]
    have hcore : (w.pend c 1).core c = { w.core c with pendAt := (w.core c).pendAt.set 1 (w.cycNow c) } := State.setCore_same ..
    refine ⟨fun b => State.dm_congr (s := w) (t := w.pend c 1) ((congrArg CoreRt.dm hcore).trans rfl)
        ((congrArg CoreRt.wiped hcore).trans rfl) rfl b,
      (congrArg CoreRt.hauling hcore).trans rfl, (congrArg CoreRt.hq hcore).trans rfl, rfl, ?_, fun a ha => w.reg_setReg_other _ ha⟩
    rw [State.pend, State.reg_pendIn, BitVec.getLsbD_or]
    rfl

/-- The end of a program's haul. -/
theorem execHaulDescriptorEnd_of_program {s : State} {c : CoreId} {errs : List (Nat × Ecc)} {bank : BankUse} {h : Haul}
    (hh : (s.core c).hauling = some h) (hl : h.lib = false) {items : List (List Byte × Bool)} {v : State}
    (hcopy : (s.setCore c { s.core c with hauling := none }).haulCopy c h h.items (errs.filter fun e => e.1 < h.items) bank.taken
      bank.turns = (items, v)) :
    exec (.haulDescriptorEnd c errs bank) s = .next
      ((v.haulStatus c h.at_ (haulBits ((errs.filter fun e => e.1 < h.items).filter (·.2.ue)).length (items.any (·.2)))).pendIf c
        h.irq) := by
  rw [exec_haulDescriptorEnd, execHaulDescriptorEnd, hh]
  dsimp only
  rw [hcopy]
  simp only [hl]
  rfl

theorem length_ue (errs : List (Nat × Ecc)) (n : Nat) : ((errs.filter fun e => e.1 < n).filter (·.2.ue)).length ≠ 0
    ↔ ∃ e ∈ errs, e.1 < n ∧ e.2 = .uncorrectable := by
  have hue (e : Ecc) : e.ue = true ↔ e = .uncorrectable := by cases e <;> simp [Ecc.ue]
  rw [Ne, List.length_eq_zero_iff, List.eq_nil_iff_forall_not_mem]
  simp [hue, and_assoc]

/-- A program's haul of bins ends. -/
theorem haulEnd_bins {s : State} {c : CoreId} {errs : List (Nat × Ecc)} {taken : List (Nat × Nat)} {turns : List Nat} {h : Haul}
    (hh : (s.core c).hauling = some h) (hm : h.isMeta = false) (hl : h.lib = false)
    (hapart : h.at_ + 32 ≤ h.dest ∨ h.dest + h.count * (if h.format = 0 then 8 else 2) ≤ h.at_) :
    let size := h.count * (if h.format = 0 then 8 else 2)
    let at_ (i : Nat) : Nat := (h.first + i * h.stride : Int).toNat
    let bin (i : Nat) : Bin40 := s.bin h.chan h.plane (at_ i)
    let short (i : Nat) : Int := roundDiv (bin i).toInt (2 ^ h.shift)
    let good (i : Nat) : Prop := ∀ e ∈ errs, e.1 = i → e.2 = .ok ∨ e.2 = .corrected
    ∃ t, exec (.haulDescriptorEnd c errs ⟨taken, turns⟩) s = .next t ∧ (t.core c).hauling = none
      ∧ (h.format = 0 → ∀ i j, i < h.count → j < 8 → good i →
          t.dm c (h.dest + 8 * i + j) = BitVec.ofNat 8 (((bin i).signExtend 64).toNat / 256 ^ j))
      ∧ (h.format ≠ 0 → ∀ i j, i < h.count → j < 2 → good i → t.dm c (h.dest + 2 * i + j)
          = BitVec.ofNat 8 ((BitVec.ofInt 16 (Max.max (-32768) (Min.min 32767 (short i)))).toNat / 256 ^ j))
      ∧ (t.dm c (h.at_ + 0x18)).getLsbD 0 = true
      ∧ (t.dm c (h.at_ + 0x18)).getLsbD 2 = decide (∃ e ∈ errs, e.1 < h.count ∧ e.2 = .uncorrectable)
      ∧ (h.format ≠ 0 → (∀ i, i < h.count → good i) → (t.dm c (h.at_ + 0x18)).getLsbD 3
          = decide (∃ i, i < h.count ∧ (short i < -32768 ∨ 32767 < short i)))
      ∧ (∀ b, b < h.dest ∨ h.dest + size ≤ b → b < h.at_ + 0x18 ∨ h.at_ + 0x1C ≤ b → t.dm c b = s.dm c b)
      ∧ (t.reg (Reg.CORE_IPEND_DOOR.addr c)).getLsbD 1 = ((s.reg (Reg.CORE_IPEND_DOOR.addr c)).getLsbD 1 || h.irq)
      ∧ (h.chan < 192 → t.rd Reg.FOLD_HCONF_N h.chan = Min.min (2 ^ 32 - 1) (s.rd Reg.FOLD_HCONF_N h.chan
          + haulConflicts taken turns 0 ((List.range h.count).map fun i => subBank (at_ i))))
      ∧ t.bins = s.bins := by
  intro size at_ bin short good
  have hitems : h.items = h.count := by simp [Haul.items, hm]
  let s0 := s.setCore c { s.core c with hauling := none }
  have hs0 (b : Nat) : s0.dm c b = s.dm c b := State.dm_congr (s := s) (t := s0) (by rw [State.setCore_same]) (by rw [State.setCore_same]) rfl b
  rcases hcopy : s0.haulCopy c h h.items (errs.filter fun e => e.1 < h.items) taken turns with ⟨items, v⟩
  have hexec := execHaulDescriptorEnd_of_program (bank := ⟨taken, turns⟩) hh hl hcopy
  obtain ⟨⟨d, hmap⟩, hdm, hcore, hbins, hpend, hconf⟩ := State.haulCopy_bins hm hl hcopy
  obtain ⟨hdm', hhaul', -, hbins', hpend', hreg'⟩ := State.pendIf_frame (v.haulStatus c h.at_
    (haulBits ((errs.filter fun e => e.1 < h.items).filter (·.2.ue)).length (items.any (·.2)))) c h.irq
  generalize State.pendIf c h.irq _ = t at hexec hdm' hhaul' hbins' hpend' hreg'
  have hlen : ∀ i, i < h.count → ((s0.haulItem h i (if (errs.filter fun e => e.1 < h.items).any fun e => e.1 = i && !e.2.intact
      then some d else none)).1).length = if h.format = 0 then 8 else 2 := fun i _ => s0.length_haulItem hm i _
  have hbytes : items.flatMap (·.1) = (List.range h.count).flatMap fun i => (s0.haulItem h i
      (if (errs.filter fun e => e.1 < h.items).any fun e => e.1 = i && !e.2.intact then some d else none)).1 := by
    rw [hmap, hitems, List.flatMap_map]
  obtain ⟨htotal, hnth⟩ := nth_flatMap_range h.count hlen
  rw [← hbytes] at htotal hnth
  have hgood (i : Nat) (hi : good i) : (if (errs.filter fun e => e.1 < h.items).any fun e => e.1 = i && !e.2.intact
      then some d else none) = none := by
    refine if_neg ?_
    simp only [List.any_eq_true, List.mem_filter, Bool.and_eq_true, decide_eq_true_eq, Bool.not_eq_true', not_exists, not_and,
      Bool.not_eq_false]
    rintro e ⟨he, -⟩ rfl
    rcases hi e he rfl with h | h <;> rw [h] <;> rfl
  have hstatus (b : Nat) : t.dm c b = if h.at_ + 0x18 ≤ b ∧ b < h.at_ + 0x1C then nth (leBytes 4 (haulBits
      ((errs.filter fun e => e.1 < h.items).filter (·.2.ue)).length (items.any (·.2)) ||| 1)) (b - (h.at_ + 0x18)) 0 else v.dm c b := by
    rw [hdm']
    exact State.dm_dmWrite ..
  have hdata (i j : Nat) (hi : i < h.count) (hj : j < if h.format = 0 then 8 else 2) (hg : good i) :
      t.dm c (h.dest + (if h.format = 0 then 8 else 2) * i + j) = nth (s0.haulItem h i none).1 j 0 := by
    have hbound : (if h.format = 0 then 8 else 2) * i + j < h.count * (if h.format = 0 then 8 else 2) := by
      have := Nat.mul_le_mul_left (if h.format = 0 then 8 else 2) (Nat.succ_le_of_lt hi)
      rw [Nat.mul_succ, Nat.mul_comm _ h.count] at this
      omega
    rw [hstatus, if_neg (by omega), hdm, if_pos (by omega), show h.dest + (if h.format = 0 then 8 else 2) * i + j - h.dest
      = (if h.format = 0 then 8 else 2) * i + j by omega, hnth i j 0 hi hj, hgood i hg]
  have hbyte : t.dm c (h.at_ + 0x18) = BitVec.ofNat 8 ((haulBits ((errs.filter fun e => e.1 < h.items).filter (·.2.ue)).length
      (items.any (·.2)) ||| 1) / 256 ^ 0) := by
    rw [hstatus, if_pos (by omega), Nat.sub_self, nth_leBytes _ _ _ _ (by decide)]
  obtain ⟨hdone, hue, hclip⟩ := getLsbD_haulBits _ _ _ hbyte
  refine ⟨t, hexec, ?_, fun hf i j hi hj hg => ?_, fun hf i j hi hj hg => ?_, hdone, ?_, fun hf hall => ?_, fun b hb hb' => ?_, ?_,
    fun hch => ?_, ?_⟩
  · rw [hhaul', State.haulStatus, State.dmWrite_eq, State.setCore_same]
    exact (congrArg CoreRt.hauling hcore).trans (congrArg CoreRt.hauling (State.setCore_same ..))
  · have := hdata i j hi (by rwa [if_pos hf]) hg
    rw [if_pos hf, (s0.haulItem_bin hm i).1 hf, nth_leBytes _ _ _ _ hj] at this
    exact this
  · have := hdata i j hi (by rwa [if_neg hf]) hg
    rw [if_neg hf, (s0.haulItem_bin hm i).2 hf, nth_leBytes _ _ _ _ hj] at this
    exact this
  · rw [hue, decide_eq_decide, hitems]
    exact length_ue errs h.count
  · rw [hclip, hmap, hitems, List.any_map, Bool.eq_iff_iff, List.any_eq_true, decide_eq_true_eq]
    refine exists_congr fun i => ?_
    rw [List.mem_range]
    refine and_congr_right fun hi => ?_
    simp only [Function.comp_apply]
    rw [← hitems, hgood i (hall i hi), (s0.haulItem_bin hm i).2 hf]
    exact decide_eq_true_iff
  · rw [hstatus, if_neg (by omega), hdm, if_neg (by rw [htotal]; omega), hs0]
  · refine hpend'.trans (congrArg (fun w => BitVec.getLsbD w 1 || h.irq) ?_)
    exact hpend
  · have haddr : Reg.FOLD_HCONF_N.addr h.chan ≠ Reg.CORE_IPEND_DOOR.addr c := by
      simp only [Field.addr, Reg.FOLD_HCONF_N, Reg.CORE_IPEND_DOOR]
      omega
    have hrd : t.rd Reg.FOLD_HCONF_N h.chan = v.rd Reg.FOLD_HCONF_N h.chan := congrArg Reg.FOLD_HCONF_N.read (hreg' _ haddr)
    rw [hrd, hconf, hitems, Nat.min_comm]
    rfl
  · exact hbins'.trans hbins

/-! ### The beginning of a descriptor (R269, R270, R477) -/

/-- A descriptor's fields do not depend on the queue it left. -/
theorem State.haulRefused_of_regs {s t : State} (h : t.regs = s.regs) (x : Haul) : t.haulRefused x = s.haulRefused x := by
  simp only [State.haulRefused, State.own, State.rd, State.reg, h]

/-- The engine begins the oldest descriptor of a program or refuses it. -/
theorem haulBegin_program {s : State} {c : CoreId} {a : Nat} {rest : List Nat} (piece : Nat) (hq : (s.core c).hq = a :: rest)
    (hh : (s.core c).hauling = none) :
    let h := s.haulAt c a
    ∃ t, exec (.haulDescriptorBegin ⟨c, piece⟩) s = .next t ∧ (t.core c).hq = rest
      ∧ (s.haulRefused h = true → (t.core c).hauling = none
          ∧ (∀ b, t.dm c b = if b = a + 0x18 then 3 else if a + 0x19 ≤ b ∧ b < a + 0x1C then 0 else s.dm c b)
          ∧ (t.reg (Reg.CORE_IPEND_DOOR.addr c)).getLsbD 1 = ((s.reg (Reg.CORE_IPEND_DOOR.addr c)).getLsbD 1 || h.irq))
      ∧ (s.haulRefused h = false → (t.core c).hauling = some h ∧ (∀ b, t.dm c b = s.dm c b) ∧ t.regs = s.regs)
      ∧ t.bins = s.bins := by
  intro h
  let s0 := s.setCore c { s.core c with hq := rest }
  have hs0 (b : Nat) : s0.dm c b = s.dm c b :=
    State.dm_congr (s := s) (t := s0) (by rw [State.setCore_same]) (by rw [State.setCore_same]) rfl b
  have hcore0 : s0.core c = { s.core c with hq := rest } := State.setCore_same ..
  have hexec : exec (.haulDescriptorBegin ⟨c, piece⟩) s = .next (if s0.haulRefused h then (s0.haulStatus c a 2).pendIf c h.irq
      else s0.setCore c { s0.core c with hauling := some h }) := by
    rw [exec_haulDescriptorBegin, execHaulDescriptorBegin]
    dsimp only
    split
    · rename_i hq' hh'
      obtain ⟨rfl, rfl⟩ := List.cons.inj (hq.symm.trans hq')
      rfl
    · rename_i hq' _
      exact absurd (hq.symm.trans hq') (List.cons_ne_nil _ _)
    · rename_i hno _
      exact (hno a rest hq hh).elim
  refine ⟨_, hexec, ?_⟩
  rw [State.haulRefused_of_regs (s := s) (t := s0) rfl]
  cases hr : s.haulRefused h
  · rw [if_neg Bool.false_ne_true]
    have hcore : (s0.setCore c { s0.core c with hauling := some h }).core c = { s0.core c with hauling := some h } :=
      State.setCore_same ..
    refine ⟨?_, fun h => absurd h Bool.false_ne_true, fun _ => ⟨?_, fun b => ?_, rfl⟩, rfl⟩
    · exact (congrArg CoreRt.hq hcore).trans (congrArg CoreRt.hq hcore0)
    · exact (congrArg CoreRt.hauling hcore).trans rfl
    · rw [← hs0]
      exact State.dm_congr (s := s0) (t := s0.setCore c _) ((congrArg CoreRt.dm hcore).trans rfl)
        ((congrArg CoreRt.wiped hcore).trans rfl) rfl b
  · rw [if_pos rfl]
    obtain ⟨hdm, hhaul, hhq, hbins, hpend, -⟩ := (s0.haulStatus c a 2).pendIf_frame c h.irq
    have hcore : (s0.haulStatus c a 2).core c = { s0.core c with dm := ((s0.haulStatus c a 2).core c).dm } := by
      rw [State.haulStatus, State.dmWrite_eq, State.setCore_same]
    refine ⟨?_, fun _ => ⟨?_, fun b => ?_, hpend⟩, nofun, hbins⟩
    · exact hhq.trans ((congrArg CoreRt.hq hcore).trans (congrArg CoreRt.hq hcore0))
    · exact hhaul.trans ((congrArg CoreRt.hauling hcore).trans ((congrArg CoreRt.hauling hcore0).trans hh))
    · rw [hdm, State.haulStatus, State.dm_dmWrite, hs0, length_leBytes]
      by_cases hin : a + 0x18 ≤ b ∧ b < a + 0x18 + 4
      · rw [if_pos hin, nth_leBytes _ _ _ _ (by omega)]
        by_cases hb : b = a + 0x18
        · rw [if_pos hb, hb, Nat.sub_self]
          rfl
        · have hj : b - (a + 0x18) = 1 ∨ b - (a + 0x18) = 2 ∨ b - (a + 0x18) = 3 := by omega
          rw [if_neg hb, if_pos (by omega)]
          rcases hj with hj | hj | hj <;> rw [hj] <;> rfl
      · rw [if_neg hin, if_neg (by omega), if_neg (by omega)]

theorem haulBegin_lib {s : State} {c : CoreId} (piece : Nat) (hq : (s.core c).hq = []) (hh : (s.core c).hauling = none) :
    exec (.haulDescriptorBegin ⟨c, piece⟩) s = .next (s.libBegin c piece) := by
  rw [exec_haulDescriptorBegin, execHaulDescriptorBegin]
  dsimp only
  split
  · rename_i hq' _
    exact absurd (hq.symm.trans hq').symm (List.cons_ne_nil _ _)
  · rfl
  · rename_i _ hno
    exact (hno hq hh).elim

theorem haulBegin_busy {s : State} {c : CoreId} (piece : Nat) (hh : (s.core c).hauling ≠ none) :
    exec (.haulDescriptorBegin ⟨c, piece⟩) s = .next s := by
  rw [exec_haulDescriptorBegin, execHaulDescriptorBegin]
  dsimp only
  split
  · rename_i hh'
    exact absurd hh' hh
  · rename_i hh'
    exact absurd hh' hh
  · rfl

/-- A kernel whose work fails has released its planes and has one message to send. -/
theorem State.libFail_frame (s : State) (c : Nat) (r : LibRun) (cause detail : Nat) :
    (∃ msgs, (s.libFail c r cause detail).core c = { s.core c with binds := [], lib := some { r with todo := [], out := some msgs } })
    ∧ (s.libFail c r cause detail).mram = s.mram ∧ (s.libFail c r cause detail).bins = s.bins := by
  have hcore := (s.dropBinds_frame c).1
  refine ⟨⟨[s.libStatus c cause detail], ?_⟩, ?_, ?_⟩
  · rw [State.libFail, State.libDone, State.setLib, State.setCore_same, hcore]
  · obtain ⟨_, _, _, hform, -⟩ := s.onCore_libFail c r cause detail
    rw [hform]
  · obtain ⟨_, _, _, hform, -⟩ := s.onCore_libFail c r cause detail
    rw [hform]

/-- The engine begins a library kernel's next descriptor or refuses it. -/
theorem haulBegin_kernel {s : State} {c : CoreId} (piece : Nat) {r : LibRun} {h : Haul} {rest : List Haul} (hq : (s.core c).hq = [])
    (hh : (s.core c).hauling = none) (hr : (s.core c).lib = some r) (htodo : r.todo = h :: rest) :
    ∃ t, exec (.haulDescriptorBegin ⟨c, piece⟩) s = .next t ∧ (∀ b, t.dm c b = s.dm c b) ∧ t.bins = s.bins
      ∧ (s.haulRefused h = false → piece = 0 → t = s.setCore c { s.core c with hauling := some h, lib := some { r with todo := rest } })
      ∧ (s.haulRefused h = true → (t.core c).hauling = none ∧ (t.core c).binds = []
          ∧ ∃ u, (t.core c).lib = some u ∧ u.todo = [] ∧ u.out.isSome = true) := by
  refine ⟨_, haulBegin_lib piece hq hh, ?_⟩
  rw [State.libBegin, hr]
  dsimp only
  rw [htodo]
  dsimp only
  cases href : s.haulRefused h
  · rw [if_neg Bool.false_ne_true]
    refine ⟨fun b => ?_, rfl, fun _ hp => ?_, nofun⟩
    · exact State.dm_congr (s := s) (t := s.setCore c _) (by rw [State.setCore_same]) (by rw [State.setCore_same]) rfl b
    · subst hp
      simp only [decide_true, Bool.or_true, if_true, List.nil_append]
  · rw [if_pos rfl]
    obtain ⟨⟨msgs, hcore⟩, hmram, hbins⟩ :=
      s.libFail_frame c r 0x14 (h.chan + 256 * (h.plane + (if h.isMeta then 2 else 0) + 4 * h.format))
    generalize s.libFail c r 0x14 _ = t at *
    refine ⟨fun b => ?_, hbins, nofun, fun _ => ⟨?_, congrArg CoreRt.binds hcore, _, congrArg CoreRt.lib hcore, rfl, rfl⟩⟩
    · exact State.dm_congr (s := s) (t := t) ((congrArg CoreRt.dm hcore).trans rfl) ((congrArg CoreRt.wiped hcore).trans rfl) hmram b
    · exact (congrArg CoreRt.hauling hcore).trans hh

/-- Settles O26. -/
theorem haulTransfers : Obligations.HaulTransfers := by
  unfold Obligations.HaulTransfers
  refine ⟨⟨fun s c piece a rest hq hh => haulBegin_program piece hq hh,
    fun s c piece r h rest hq hh hr htodo => haulBegin_kernel piece hq hh hr htodo, fun s c piece h => ?_⟩,
    fun s c errs taken turns h hh hm hl hapart => haulEnd_bins hh hm hl hapart, fun s c errs taken turns hh => ?_⟩
  · by_cases hh : (s.core c).hauling = none
    · obtain ⟨hq, hlib⟩ := h.resolve_right (not_not_intro hh)
      rw [haulBegin_lib piece hq hh, State.libBegin, hlib]
    · exact haulBegin_busy piece hh
  · rw [exec_haulDescriptorEnd, execHaulDescriptorEnd, hh]

end Sys2Proof.Machine
end
-- ==== Sys2Proof/Proofs/CoreWindows.lean ====
section
/-! An access to a register outside a gated island, and the windows into a core's memories (R281, R451). -/

namespace Sys2Proof.Machine

/-! ### What an access to a register comes to -/

theorem State.writeReg_hit {s : State} {a : Nat} {h : Hit} (src : Source) (v : Word) (hm : 3 ≤ s.mode)
    (hl : lookup a = some h) (hg : s.gated h true = false) (hgrp : h.grp ≠ .gapcal) :
    s.writeReg src a v
      = (s.writeHit (srcNumber src) false h a v (s.acting (srcRank src) h a v)).noteWrite src a := by
  unfold State.writeReg
  rw [if_neg (by omega), hl]
  dsimp only
  rw [if_neg (by rw [hg]; exact Bool.false_ne_true), if_neg (by simp [hgrp])]

theorem State.readReg_hit {s : State} {a : Nat} {h : Hit} (src : Source) (hm : 3 ≤ s.mode) (hl : lookup a = some h)
    (hg : s.gated h false = false) (hrc : h.rcMask = 0) (hlow : h.isLow = false)
    (hhigh : Hit.isLow { h with off := h.off - 4 } = false) :
    ∃ hold, s.readReg src a
      = { State.readEffect h a { s with hold := hold } with acc := .ok, readVal := s.view h a } := by
  unfold State.readReg
  rw [if_neg (by omega), hl]
  dsimp only
  rw [if_neg (by rw [hg]; exact Bool.false_ne_true), if_pos hrc]
  simp only [State.capture, hlow, hhigh, Bool.false_eq_true, if_false, Bool.and_false]
  split <;> exact ⟨_, rfl⟩

/-- With the lock open a write stores its fields, is logged where it changes what the lock guards, and has its effect. -/
theorem State.writeHit_open (s : State) {h : Hit} (src : Nat) (a : Nat) (v act : Word)
    (hopen : s.classOpen h.lockClass = true) :
    ∃ u, State.Logged (({ s with acc := .ok } : State).setReg a (s.written true h a act)) u
      ∧ s.writeHit src false h a v act = u.writeEffect src false true h act (s.reg a) := by
  unfold State.writeHit
  have hfree : (false || ({ s with acc := .ok } : State).classOpen h.lockClass) = true := by
    rw [Bool.false_or]; exact hopen
  dsimp only at hfree ⊢
  simp only [hopen, Bool.false_or, Bool.not_true, Bool.and_false, Bool.false_and, Bool.false_eq_true, if_false]
  split
  · exact ⟨_, State.logged_logBy .., rfl⟩
  · exact ⟨_, .refl _, rfl⟩

/-- Where the access itself stores nothing, the registers are as they stood. -/
theorem State.reg_setReg_self (s : State) (a b : Nat) : (s.setReg a (s.reg a)).reg b = s.reg b := by
  by_cases h : b = a
  · subst h; exact s.reg_setReg_same ..
  · exact s.reg_setReg_other _ h

/-! ### The windows and the doorbell -/

/-- The window into IM, the window into DM and the doorbell of core `c` (Table 11.12). -/
def imWindow (c : Nat) : Hit := ⟨.core, c, 0x38, 0, .core, [⟨31, 0, .rwl, 0⟩]⟩
def dmWindow (c : Nat) : Hit := ⟨.core, c, 0x40, 0, .core, [⟨31, 0, .rwl, 0⟩]⟩
def doorbell (c : Nat) : Hit := ⟨.core, c, 0x24, 0, .core, [⟨31, 0, .rw, 0⟩]⟩

theorem lookup_imWindow : ∀ c : CoreId, lookup (Reg.CORE_IMD_D.addr c) = some (imWindow c) := by decide
theorem lookup_dmWindow : ∀ c : CoreId, lookup (Reg.CORE_DMDAT_D.addr c) = some (dmWindow c) := by decide
theorem lookup_doorbell : ∀ c : CoreId, lookup (Reg.CORE_DOOR_V.addr c) = some (doorbell c) := by decide

theorem State.gated_core {s : State} {h : Hit} (hi : h.island = .core) (hw : s.inWatch = false) (write : Bool) :
    s.gated h write = false := (s.gated_eq_inWatch (.inr (.inr hi)) write).trans hw

/-- A write of a window with the raw class open has its effect, every register outside the log as it stood. -/
theorem State.writeReg_window {s : State} {a : Nat} {h : Hit} (src : Source) (v : Word) (hm : 3 ≤ s.mode)
    (hw : s.inWatch = false) (hraw : s.classOpen .raw = true) (hl : lookup a = some h) (hcore : h.grp = .core)
    (hisl : h.island = .core) (hfields : h.fields = [⟨31, 0, .rwl, 0⟩]) (hkeeps : h.keeps = true)
    (hclass : h.lockClass = .raw) :
    ∃ u : State, u.acc = .ok ∧ u.cores = s.cores ∧ u.mram = s.mram ∧ (∀ b, outsideLog b → u.reg b = s.reg b)
      ∧ s.writeReg src a v = (u.wrCore true h.inst h.off v).noteWrite src a := by
  have hact : s.acting (srcRank src) h a v = v := by
    simp only [State.acting, Hit.oneEdge, hisl, hfields, List.foldl_cons, List.foldl_nil, Bool.false_and,
      Bool.false_eq_true, if_false]
  have hwritten : s.written true h a v = s.reg a := if_pos (by rw [hkeeps]; rfl)
  obtain ⟨u, hlog, heq⟩ := s.writeHit_open (srcNumber src) a v v (hclass ▸ hraw)
  rw [hwritten] at hlog
  have hreg (b : Nat) (hb : outsideLog b) : u.reg b = s.reg b := (hlog.reg hb).trans (State.reg_setReg_self ..)
  refine ⟨u, ?_, ?_, ?_, hreg, ?_⟩
  · obtain ⟨_, _, _, _, _, rfl, -⟩ := hlog; rfl
  · obtain ⟨_, _, _, _, _, rfl, -⟩ := hlog; rfl
  · obtain ⟨_, _, _, _, _, rfl, -⟩ := hlog; rfl
  · rw [State.writeReg_hit src v hm hl (s.gated_core hisl hw true) (by rw [hcore]; decide), hact, heq, State.writeEffect,
      hcore]

theorem Field.outsideLog_addr {f : Field} (hs : 0x30000 ≤ f.addr 0) (i : Nat) : outsideLog (f.addr i) := by
  refine .inr ?_
  simp only [Field.addr] at *
  omega

/-- CORE_IMA and CORE_DMADR stand outside the log, whatever the core. -/
theorem State.rd_outsideLog {s t : State} (hreg : ∀ b, outsideLog b → t.reg b = s.reg b) {f : Field}
    (hf : 0x30000 ≤ f.addr 0) (i : Nat) : t.rd f i = s.rd f i := congrArg f.read (hreg _ (f.outsideLog_addr hf i))

theorem State.rd_noteWrite (s : State) (src : Source) (a : Nat) (f : Field) (i : Nat) :
    (s.noteWrite src a).rd f i = s.rd f i := rfl

theorem State.reg_noteWrite (s : State) (src : Source) (a b : Nat) : (s.noteWrite src a).reg b = s.reg b := rfl

theorem State.dm_noteWrite (s : State) (src : Source) (a c b : Nat) : (s.noteWrite src a).dm c b = s.dm c b := rfl

theorem State.imWord_noteWrite (s : State) (src : Source) (a c b : Nat) :
    (s.noteWrite src a).imWord c b = s.imWord c b := rfl

theorem State.dm_count (s : State) (f : Field) (i n c b : Nat) : (s.count f i n).dm c b = s.dm c b := rfl

theorem State.imWord_count (s : State) (f : Field) (i n c b : Nat) : (s.count f i n).imWord c b = s.imWord c b := rfl

theorem State.wrCore_imWindow (s : State) (c : Nat) (v : Word) :
    s.wrCore true (imWindow c).inst (imWindow c).off v = (s.imWrite c (s.rd Reg.CORE_IMA_A c) v).count Reg.CORE_IMA_A c 1 := rfl

theorem State.wrCore_dmWindow (s : State) (c : Nat) (v : Word) :
    s.wrCore true (dmWindow c).inst (dmWindow c).off v = (s.dmWrite c (s.dmAdr c) (leBytes 4 v.toNat)).count Reg.CORE_DMADR_A c 4 := rfl

theorem State.readEffect_imWindow (s : State) (c a : Nat) :
    State.readEffect (imWindow c) a s = s.count Reg.CORE_IMA_A c 1 := rfl

theorem State.readEffect_dmWindow (s : State) (c a : Nat) :
    State.readEffect (dmWindow c) a s = s.count Reg.CORE_DMADR_A c 4 := rfl

/-! ### A number and its bytes -/

theorem leNat_lt (bs : List Byte) : leNat bs < 256 ^ bs.length := by
  induction bs with
  | nil => simp [leNat]
  | cons b bs ih =>
    have hb : b.toNat < 256 := b.isLt
    rw [leNat, List.length_cons, pow_succ]
    omega

/-- Byte `j` of the number a list of bytes spells is the list's. -/
theorem ofNat_leNat (bs : List Byte) (j : Nat) (d : Byte) (hj : j < bs.length) :
    BitVec.ofNat 8 (leNat bs / 256 ^ j) = nth bs j d := by
  induction bs generalizing j with
  | nil => simp at hj
  | cons b bs ih =>
    have hb : b.toNat < 256 := b.isLt
    cases j with
    | zero =>
      refine BitVec.eq_of_toNat_eq ?_
      rw [BitVec.toNat_ofNat, pow_zero, Nat.div_one, leNat]
      simp only [nth, List.getElem?_cons_zero, Option.getD_some]
      omega
    | succ j =>
      rw [leNat, pow_succ', ← Nat.div_div_eq_div_mul, show (b.toNat + 256 * leNat bs) / 256 = leNat bs by omega,
        ih j (by simpa using hj)]
      simp [nth]

/-! ### The obligation -/

/-- A write of CORE_IMD stores the word where CORE_IMA points, which moves on by one word. -/
theorem State.imWindow_write {s : State} (src : Source) (c : CoreId) (v : Word) (hm : 3 ≤ s.mode) (hw : s.inWatch = false)
    (hraw : s.classOpen .raw = true) :
    (s.writeReg src (Reg.CORE_IMD_D.addr c) v).acc = .ok
      ∧ (∀ b, (s.writeReg src (Reg.CORE_IMD_D.addr c) v).imWord c b
          = if b = s.rd Reg.CORE_IMA_A c then v else s.imWord c b)
      ∧ (s.writeReg src (Reg.CORE_IMD_D.addr c) v).rd Reg.CORE_IMA_A c = (s.rd Reg.CORE_IMA_A c + 1) % 16384 := by
  obtain ⟨u, hacc, hcores, hmram, hreg, heq⟩ :=
    s.writeReg_window src v hm hw hraw (lookup_imWindow c) rfl rfl rfl rfl rfl
  have hrd : u.rd Reg.CORE_IMA_A c = s.rd Reg.CORE_IMA_A c := State.rd_outsideLog hreg (by decide) c
  have hlt : s.rd Reg.CORE_IMA_A c < 0x4000 := Nat.mod_lt _ (by decide)
  rw [heq, State.wrCore_imWindow, hrd, State.rd_noteWrite, State.rd_count_same _ _ _ _ rfl]
  refine ⟨hacc, fun b => ?_, congrArg (fun n => (n + 1) % 16384) hrd⟩
  rw [State.imWord_noteWrite, State.imWord_count]
  simp only [State.imWord, State.imWrite, State.setCore_same, SMap.getD]
  by_cases hb : b = s.rd Reg.CORE_IMA_A c
  · rw [if_pos hb, hb, if_pos hlt, SMap.find_put_same]
    rfl
  · rw [if_neg hb, SMap.find_put_other _ _ hb]
    simp only [State.setCore, State.core, hcores, hmram]

/-- A write of CORE_DMDAT stores the word's bytes where CORE_DMADR points, which moves on by one word. -/
theorem State.dmWindow_write {s : State} (src : Source) (c : CoreId) (v : Word) (hm : 3 ≤ s.mode) (hw : s.inWatch = false)
    (hraw : s.classOpen .raw = true) :
    (s.writeReg src (Reg.CORE_DMDAT_D.addr c) v).acc = .ok
      ∧ (∀ b, (s.writeReg src (Reg.CORE_DMDAT_D.addr c) v).dm c b
          = if s.dmAdr c ≤ b ∧ b < s.dmAdr c + 4 then nth (leBytes 4 v.toNat) (b - s.dmAdr c) 0 else s.dm c b)
      ∧ (s.writeReg src (Reg.CORE_DMDAT_D.addr c) v).rd Reg.CORE_DMADR_A c
          = (s.rd Reg.CORE_DMADR_A c + 4) % 524288 := by
  obtain ⟨u, hacc, hcores, hmram, hreg, heq⟩ :=
    s.writeReg_window src v hm hw hraw (lookup_dmWindow c) rfl rfl rfl rfl rfl
  have hrd : u.rd Reg.CORE_DMADR_A c = s.rd Reg.CORE_DMADR_A c := State.rd_outsideLog hreg (by decide) c
  have hadr : u.dmAdr c = s.dmAdr c := congrArg (fun n => n / 4 * 4) hrd
  have hdm (b : Nat) : u.dm c b = s.dm c b :=
    State.dm_congr (by rw [State.core, State.core, hcores]) (by rw [State.core, State.core, hcores]) hmram b
  rw [heq, State.wrCore_dmWindow, hadr, State.rd_noteWrite, State.rd_count_same _ _ _ _ rfl]
  refine ⟨hacc, fun b => ?_, congrArg (fun n => (n + 4) % 524288) hrd⟩
  rw [State.dm_noteWrite, State.dm_count, State.dm_dmWrite, length_leBytes, hdm]

/-- What a write of CORE_DOOR leaves: the word is held and DOOR is pending. -/
theorem State.writeReg_doorbell {s : State} (src : Source) (c : CoreId) (v : Word) (hm : 3 ≤ s.mode)
    (hw : s.inWatch = false) :
    ∃ n, s.writeReg src (Reg.CORE_DOOR_V.addr c) v
      = (State.pendIn c 3 n (({ s with acc := .ok } : State).setReg (Reg.CORE_DOOR_V.addr c) v)).noteWrite src
          (Reg.CORE_DOOR_V.addr c) := by
  have hmask : FieldSpec.mask ⟨31, 0, .rw, 0⟩ = BitVec.allOnes 32 := by decide
  have hwritten (free : Bool) : State.written { s with acc := .ok } free (doorbell c) (Reg.CORE_DOOR_V.addr c) v = v := by
    simp only [State.written, Hit.keeps, doorbell, State.gainHeld, FieldSpec.write, hmask, List.foldl_cons, List.foldl_nil,
      BitVec.not_allOnes, BitVec.and_zero, BitVec.zero_or, BitVec.and_allOnes]
    rfl
  have hact : s.acting (srcRank src) (doorbell c) (Reg.CORE_DOOR_V.addr c) v = v := by
    simp [State.acting, Hit.oneEdge, doorbell]
  refine ⟨State.cycNow (({ s with acc := .ok } : State).setReg (Reg.CORE_DOOR_V.addr c) v) c, ?_⟩
  rw [State.writeReg_hit src v hm (lookup_doorbell c) (s.gated_core rfl hw true) (by simp [doorbell]), hact,
    State.writeHit_unlocked _ (by simp [doorbell])]
  dsimp only
  rw [hwritten]
  rfl

theorem doorAddr_ne_pendAddr (c : Nat) : Reg.CORE_DOOR_V.addr c ≠ Reg.CORE_IPEND_DOOR.addr c := by
  simp only [Field.addr, Reg.CORE_DOOR_V, Reg.CORE_IPEND_DOOR]
  omega

theorem State.reg_pendIn_other (s : State) (c k n : Nat) {a : Nat} (h : a ≠ Reg.CORE_IPEND_DOOR.addr c) :
    (s.pendIn c k n).reg a = s.reg a := s.reg_setReg_other _ h

/-- Settles O27. -/
theorem coreWindows : Obligations.CoreWindows := by
  unfold Obligations.CoreWindows
  refine ⟨fun src c v s hm hw hraw => ⟨_, exec_coreImdAccess .., s.imWindow_write src c v hm hw hraw⟩,
    fun src c s hm hw => ?_, fun src c v s hm hw hraw => ?_, fun src c s hm hw => ?_, fun src c v s hm hw => ?_⟩
  · obtain ⟨hold, heq⟩ := s.readReg_hit src hm (lookup_imWindow c) (s.gated_core rfl hw false) rfl rfl rfl
    rw [State.readEffect_imWindow] at heq
    refine ⟨_, (exec_coreImdAccess ..).trans (congrArg Host.Outcome.next heq), rfl, rfl, ?_, rfl⟩
    exact State.rd_count_same { s with hold := hold } _ _ _ rfl
  · obtain ⟨hacc, hdm, hadr⟩ := s.dmWindow_write src c v hm hw hraw
    refine ⟨_, exec_coreDmdatAccess .., hacc, fun j hj => ?_, fun b hb => ?_, hadr⟩
    · refine (hdm (s.dmAdr c + j)).trans ((if_pos ⟨by omega, by omega⟩).trans ?_)
      rw [Nat.add_sub_cancel_left, nth_leBytes _ _ _ _ hj]
    · exact (hdm b).trans (if_neg fun h => by simp only [State.dmAdr] at h; omega)
  · obtain ⟨hold, heq⟩ := s.readReg_hit src hm (lookup_dmWindow c) (s.gated_core rfl hw false) rfl rfl rfl
    rw [State.readEffect_dmWindow] at heq
    have hview : s.view (dmWindow c) (Reg.CORE_DMDAT_D.addr c) = BitVec.ofNat 32 (leNat (s.dmBytes c (s.dmAdr c) 4)) := rfl
    rw [hview] at heq
    refine ⟨_, (exec_coreDmdatAccess ..).trans (congrArg Host.Outcome.next heq), rfl, fun j hj => ?_, ?_, rfl⟩
    · have hlen : (s.dmBytes c (s.dmAdr c) 4).length = 4 := by simp [State.dmBytes]
      have hlt : leNat (s.dmBytes c (s.dmAdr c) 4) < 2 ^ 32 := (leNat_lt _).trans_eq (by rw [hlen]; rfl)
      dsimp only
      rw [BitVec.toNat_ofNat, Nat.mod_eq_of_lt hlt, ofNat_leNat _ j 0 (by omega)]
      simp [State.dmBytes, nth, hj, State.dmAdr]
    · exact State.rd_count_same { s with hold := hold } _ _ _ rfl
  · obtain ⟨n, heq⟩ := s.writeReg_doorbell src c v hm hw
    refine ⟨_, (exec_coreDoor ..).trans (congrArg Host.Outcome.next heq), rfl, ?_, fun j => ?_, fun a hd hi => ?_⟩
    · rw [State.reg_noteWrite, State.reg_pendIn_other _ _ _ _ (doorAddr_ne_pendAddr c)]
      exact State.reg_setReg_same ..
    · rw [State.reg_noteWrite, State.reg_pendIn, State.reg_setReg_other _ _ (doorAddr_ne_pendAddr c).symm,
        BitVec.getLsbD_or]
      congr 1
      rw [BitVec.getLsbD_ofNat, Nat.testBit_two_pow]
      by_cases hj : j = 3 <;> simp [hj, eq_comm]
    · rw [State.reg_noteWrite, State.reg_pendIn_other _ _ _ _ hi]
      exact State.reg_setReg_other _ _ hd

end Sys2Proof.Machine
end
-- ==== Sys2Proof/Proofs/FoldCommands.lean ====
section
/-! The fold commands SNAP, RESTART and FOLD_REL, and one commit of the fold engine (R86 to R90, R98). -/

namespace Sys2Proof.Machine

/-! ### A write that starts something and stores nothing -/

/-- The bits of a field that are not stored: it is write-only, or the lock guards it, its register keeps nothing and the write
leaves it 0. -/
def FieldSpec.storesNothing (h : Hit) (v : Word) (f : FieldSpec) : Bool :=
  decide (f.acc = .wo) || (decide (f.acc = .rwl) && h.keeps && h.mixed && v &&& f.mask == 0)

/-- The state in which what a command register starts begins. -/
def State.asked (s : State) (a : Nat) : State := ({ s with acc := .ok } : State).setReg a (s.reg a)

@[simp] theorem State.reg_asked (s : State) (a b : Nat) : (s.asked a).reg b = s.reg b := State.reg_setReg_self ..

theorem State.rd_asked (s : State) (a : Nat) (f : Field) (i : Nat) : (s.asked a).rd f i = s.rd f i :=
  congrArg f.read (s.reg_asked ..)

theorem State.on_asked (s : State) (a : Nat) (f : Field) (i : Nat) : (s.asked a).on f i = s.on f i :=
  State.on_of_reg (s.reg_asked ..)

theorem State.written_command (s : State) {h : Hit} (free : Bool) (a : Nat) (v : Word)
    (hf : h.keeps = true ∨ ∀ f ∈ h.fields, f.acc = .wo) (hrun : ¬ (h.grp = .strand ∧ h.off = 0)) :
    s.written free h a v = s.reg a := by
  unfold State.written
  dsimp only
  rcases hf with hk | hf
  · rw [hk]
    exact if_pos rfl
  · split
    · rfl
    · rw [if_neg (by simpa using hrun)]
      have hall (l : List FieldSpec) (hl : ∀ f ∈ l, f.acc = .wo) :
          l.foldl (fun w f => f.write free h.mixed (s.reg a) v w) (s.reg a) = s.reg a := by
        induction l with
        | nil => rfl
        | cons f l ih =>
          rw [List.foldl_cons, show f.write free h.mixed (s.reg a) v (s.reg a) = s.reg a by
            simp only [FieldSpec.write, hl f List.mem_cons_self]]
          exact ih fun g hg => hl g (List.mem_cons_of_mem _ hg)
      exact hall _ hf

/-- A write of a command register: nothing is stored, and what the command starts follows. -/
theorem State.writeReg_command {s : State} {a : Nat} {h : Hit} (src : Source) (v : Word) (hm : 3 ≤ s.mode)
    (hl : lookup a = some h) (hg : s.gated h true = false) (hgrp : ¬ (h.grp = .gapcal ∧ 0x44 ≤ h.off))
    (hrun : ¬ (h.grp = .strand ∧ h.off = 0)) (hf : h.fields.all (FieldSpec.storesNothing h v) = true) :
    s.writeReg src a v
      = ((s.asked a).writeEffect (srcNumber src) false (s.classOpen h.lockClass) h v (s.reg a)).noteWrite src a := by
  have hfield (f : FieldSpec) (hm : f ∈ h.fields) : f.acc = .wo ∨ f.acc = .rwl ∧ h.keeps = true ∧ h.mixed = true ∧
      v &&& f.mask = 0 := by
    have := List.all_eq_true.mp hf f hm
    simpa [FieldSpec.storesNothing, and_assoc] using this
  have hact : s.acting (srcRank src) h a v = v := by
    unfold State.acting
    dsimp only
    have hall (l : List FieldSpec) (hl : ∀ f ∈ l, f ∈ h.fields) (late : Bool) : l.foldl (fun v f => match f.acc with
        | .w1c => v &&& ~~~(s.raised.getD a 0 &&& f.mask)
        | .rw | .rwl | .img => if late && !h.keeps then (v &&& ~~~f.mask) ||| (s.reg a &&& f.mask) else v
        | .ro | .rc | .wo | .w1s => v) v = v := by
      induction l with
      | nil => rfl
      | cons f l ih =>
        rw [List.foldl_cons]
        have hf' := hfield f (hl f List.mem_cons_self)
        have := ih fun g hg => hl g (List.mem_cons_of_mem _ hg)
        rcases hf' with h' | ⟨h', hk, -⟩
        · simpa only [h'] using this
        · simpa only [h', hk, Bool.not_true, Bool.and_false, Bool.false_eq_true, if_false] using this
    exact hall _ (fun _ h => h) _
  have hcarries : h.fields.any (fun f => f.counts h.mixed (s.reg a) v) = false :=
    List.any_eq_false.mpr fun f hm => by
      rcases hfield f hm with h' | ⟨h', -, hx, hv⟩
      · simp [FieldSpec.counts, h']
      · simp [FieldSpec.counts, h', hx, hv]
  have hwritten (free : Bool) : State.written { s with acc := .ok } free h a v = s.reg a := by
    refine State.written_command _ free a v ?_ hrun
    by_cases hk : h.keeps = true
    · exact .inl hk
    · exact .inr fun f hm => (hfield f hm).resolve_right fun ⟨_, h', _⟩ => hk h'
  rw [State.writeReg, if_neg (by omega), hl]
  dsimp only
  rw [if_neg (by rw [hg]; exact Bool.false_ne_true), if_neg (by simp only [Bool.and_eq_true, decide_eq_true_eq]; tauto), hact]
  unfold State.writeHit
  simp only [hcarries, Bool.false_and, Bool.false_or, Bool.false_eq_true, if_false, hwritten]
  rfl

/-- Only WATCH gates islands (R30, R347). -/
theorem State.gated_of_mode {s : State} (hm : s.mode ≠ 7) (h : Hit) (write : Bool) : s.gated h write = false := by
  have : s.inWatch = false := by simp [State.inWatch, hm]
  rw [State.gated, this, Bool.false_and]

/-! ### SNAP, RESTART and FOLD_REL -/

/-- FOLD_CMD and FOLD_REL as Table 19.2 resolves them. -/
def foldCmdHit (i : Nat) : Hit := ⟨.foldS, i, 4, 0, .fold, [⟨1, 1, .wo, 0⟩, ⟨0, 0, .wo, 0⟩]⟩
def foldRelHit (ch : Nat) : Hit := ⟨.foldC, ch, 4, 0, .fold, [⟨1, 1, .wo, 0⟩, ⟨0, 0, .wo, 0⟩]⟩

theorem lookup_foldCmd : ∀ i : StrandId, lookup (Reg.FOLD_CMD_SNAP.addr i) = some (foldCmdHit i) := by decide +kernel
theorem lookup_foldRel : ∀ ch : ChanId, lookup (Reg.FOLD_REL_REL_A.addr ch) = some (foldRelHit ch) := by decide +kernel

theorem State.writeReg_foldCmd {s : State} (src : Source) (i : StrandId) (v : Word) (hm : 3 ≤ s.mode) (hw : s.mode ≠ 7) :
    s.writeReg src (Reg.FOLD_CMD_SNAP.addr i) v
      = ((s.asked (Reg.FOLD_CMD_SNAP.addr i)).wrFold i v).noteWrite src (Reg.FOLD_CMD_SNAP.addr i) :=
  State.writeReg_command src v hm (lookup_foldCmd i) (s.gated_of_mode hw _ _) (fun h => nomatch h.1) (fun h => nomatch h.1) rfl

theorem State.writeReg_foldRel {s : State} (src : Source) (ch : ChanId) (v : Word) (hm : 3 ≤ s.mode) (hw : s.mode ≠ 7) :
    s.writeReg src (Reg.FOLD_REL_REL_A.addr ch) v
      = ((s.asked (Reg.FOLD_REL_REL_A.addr ch)).relPlanes ch (v.getLsbD 0) (v.getLsbD 1)).noteWrite src
          (Reg.FOLD_REL_REL_A.addr ch) :=
  State.writeReg_command src v hm (lookup_foldRel ch) (s.gated_of_mode hw _ _) (fun h => nomatch h.1) (fun h => nomatch h.1) rfl

theorem RegsOnly.refl (s : State) : RegsOnly s s := by simp only [RegsOnly]

theorem RegsOnly.trans {s t u : State} (h : RegsOnly s t) (k : RegsOnly t u) : RegsOnly s u := by
  unfold RegsOnly at *
  rw [← k] at h
  exact h

theorem RegsOnly.noteWrite {s t : State} (h : RegsOnly s t) (src : Source) (a : Nat) : RegsOnly s (t.noteWrite src a) :=
  h.trans (by simp only [RegsOnly, State.noteWrite])

theorem State.regsOnly_asked (s : State) (a : Nat) : RegsOnly s (s.asked a) := by
  simp only [RegsOnly, State.asked, State.setReg]

/-- A command that changes registers and strands. -/
theorem RegsOnly.command_strands {s t : State} {src : Source} {a : Nat}
    (h : RegsOnly (s.asked a) { t with strands := (s.asked a).strands }) :
    RegsOnly s { t.noteWrite src a with strands := s.strands } :=
  ((s.regsOnly_asked a).trans h).noteWrite src a

theorem regsOnly_put_setStrand (s : State) (i : Nat) (x : StrandRt) (f : Field) (j : Nat) (b : Bool) :
    RegsOnly s { (s.setStrand i x).put f j b with strands := s.strands } := by
  simp only [RegsOnly, State.put, State.wr, State.setReg, State.setStrand]

theorem State.snap_on (s : State) (i : Nat) :
    (s.snap i).on Reg.FOLD_SSTAT_SNAP_PEND i = (s.on Reg.FOLD_SSTAT_SNAP_PEND i || (s.strand i).stack.isSome) := by
  unfold State.snap
  dsimp only
  split
  · rename_i h
    rw [State.on_put_same _ _ _ _ (by decide), h, Bool.or_true]
  · rename_i h
    rw [Bool.eq_false_iff.mpr h, Bool.or_false]

/-- SNAP changes one flag and the strand's own state. -/
theorem State.snap_frame (s : State) (i : Nat) :
    (∀ a, a ≠ Reg.FOLD_SSTAT_SNAP_PEND.addr i → (s.snap i).reg a = s.reg a) ∧ (∀ j, j ≠ i → (s.snap i).strand j = s.strand j)
      ∧ (s.snap i).acc = s.acc ∧ RegsOnly s { s.snap i with strands := s.strands } := by
  unfold State.snap
  dsimp only
  split
  · refine ⟨fun a ha => State.reg_put_other _ _ _ _ ha, fun j hj => State.setStrand_other _ _ hj, rfl, ?_⟩
    exact regsOnly_put_setStrand ..
  · exact ⟨fun _ _ => rfl, fun _ _ => rfl, rfl, .refl s⟩

/-- Releasing one plane of a bank leaves the other's owner alone. -/
theorem State.own_release (s : State) (ch : Nat) {pl pl' : Nat} (hpl : pl < 2) (hpl' : pl' < 2) :
    (s.release ch pl).own ch pl' = if pl' = pl ∧ s.own ch pl = 2 then 0 else s.own ch pl' := by
  by_cases h2 : s.own ch pl = 2
  · by_cases he : pl' = pl
    · rw [if_pos ⟨he, h2⟩, he, State.own_release_of_haul h2]
    · rw [if_neg fun h => he h.1, State.release, if_pos h2]
      unfold State.setOwn State.own
      split <;> split
      · omega
      · exact State.rd_wr_apart _ _ _ _ _ _ (by decide) (by decide)
      · exact State.rd_wr_apart _ _ _ _ _ _ (by decide) (by decide)
      · omega
  · rw [if_neg fun h => h2 h.2, State.release, if_neg h2]

theorem State.own_relPlanes (s : State) (ch : Nat) (a b : Bool) :
    (s.relPlanes ch a b).own ch 0 = (if a = true ∧ s.own ch 0 = 2 then 0 else s.own ch 0)
      ∧ (s.relPlanes ch a b).own ch 1 = (if b = true ∧ s.own ch 1 = 2 then 0 else s.own ch 1) := by
  unfold State.relPlanes
  cases a <;> cases b <;> simp [State.own_release]

theorem State.release_frame (s : State) (ch pl : Nat) :
    (∀ a, a ≠ Reg.FOLD_PSTAT_OWN_A.addr ch → (s.release ch pl).reg a = s.reg a) ∧ (s.release ch pl).acc = s.acc
      ∧ RegsOnly s (s.release ch pl) := by
  unfold State.release
  split
  · refine ⟨fun a ha => State.reg_setOwn_other _ _ _ ha, ?_⟩
    unfold State.setOwn
    split <;> exact ⟨rfl, by simp only [RegsOnly, State.wr, State.setReg]⟩
  · exact ⟨fun _ _ => rfl, rfl, .refl s⟩

theorem State.relPlanes_frame (s : State) (ch : Nat) (a b : Bool) :
    (∀ x, x ≠ Reg.FOLD_PSTAT_OWN_A.addr ch → (s.relPlanes ch a b).reg x = s.reg x) ∧ (s.relPlanes ch a b).acc = s.acc
      ∧ RegsOnly s (s.relPlanes ch a b) := by
  have one (t : State) (pl : Nat) (c : Bool) :
      (∀ x, x ≠ Reg.FOLD_PSTAT_OWN_A.addr ch → (if c then t.release ch pl else t).reg x = t.reg x)
        ∧ (if c then t.release ch pl else t).acc = t.acc ∧ RegsOnly t (if c then t.release ch pl else t) := by
    cases c
    · exact ⟨fun _ _ => rfl, rfl, .refl t⟩
    · exact t.release_frame ch pl
  obtain ⟨hreg, hacc, hrest⟩ := one s 0 a
  obtain ⟨hreg', hacc', hrest'⟩ := one (if a then s.release ch 0 else s) 1 b
  exact ⟨fun x hx => (hreg' x hx).trans (hreg x hx), hacc'.trans hacc, hrest.trans hrest'⟩

/-- RESTART changes one flag and the strand's own state. -/
theorem State.restart_frame (s : State) (i : Nat) :
    (∀ a, a ≠ Reg.FOLD_SSTAT_SNAP_PEND.addr i → (s.restart i).reg a = s.reg a)
      ∧ (∀ j, j ≠ i → (s.restart i).strand j = s.strand j)
      ∧ (s.restart i).acc = s.acc ∧ RegsOnly s { s.restart i with strands := s.strands } :=
  ⟨fun a ha => State.reg_put_other _ Reg.FOLD_SSTAT_RESTART_PEND i true ha, fun j hj => State.setStrand_other _ _ hj, rfl, regsOnly_put_setStrand ..⟩

/-! ### One commit of the fold engine (R86 to R88) -/

/-- `t` holds the bins of `s`, every quality mark `s` holds and every SAT_SEEN flag. -/
structure State.Marked (s t : State) : Prop where
  bins : t.bins = s.bins
  mram : t.mram = s.mram
  marks : ∀ ch pl blk k, blk < 400 → (s.qbyte ch pl blk).getLsbD k = true → (t.qbyte ch pl blk).getLsbD k = true
  seen : ∀ i, s.on Reg.FOLD_SSTAT_SAT_SEEN i = true → t.on Reg.FOLD_SSTAT_SAT_SEEN i = true

namespace State.Marked

theorem refl (s : State) : s.Marked s := ⟨rfl, rfl, fun _ _ _ _ _ h => h, fun _ h => h⟩

theorem trans {s t u : State} (h : s.Marked t) (k : t.Marked u) : s.Marked u :=
  ⟨k.bins.trans h.bins, k.mram.trans h.mram, fun _ _ _ _ l e => k.marks _ _ _ _ l (h.marks _ _ _ _ l e), fun _ e => k.seen _ (h.seen _ e)⟩

theorem bin {s t : State} (h : s.Marked t) (ch pl b : Nat) : t.bin ch pl b = s.bin ch pl b := by
  simp only [State.bin, h.bins, h.mram]

/-- What changes neither the fold memory nor SAT_SEEN. -/
theorem of_reg {s t : State} (hb : t.bins = s.bins) (hm : t.mram = s.mram) (hq : t.qmap = s.qmap)
    (hr : ∀ i, t.on Reg.FOLD_SSTAT_SAT_SEEN i = s.on Reg.FOLD_SSTAT_SAT_SEEN i) : s.Marked t :=
  ⟨hb, hm, fun _ _ _ _ _ h => by simpa only [State.qbyte, hq, hm] using h, fun i h => (hr i).trans h⟩

end State.Marked

theorem State.qbyte_setQbyte (s : State) (ch pl blk : Nat) (v : Byte) (ch' pl' blk' : Nat) :
    (s.setQbyte ch pl blk v).qbyte ch' pl' blk'
      = if planeKey ch' pl' * 400 + blk' = planeKey ch pl * 400 + blk then v else s.qbyte ch' pl' blk' := by
  unfold State.qbyte State.setQbyte SMap.getD
  split
  · rename_i h
    rw [h, SMap.find_put_same]
    rfl
  · rename_i h
    rw [SMap.find_put_other _ _ h]

theorem State.qbyte_mark (s : State) (ch pl blk k : Nat) (hk : k < 8) :
    ((s.mark ch pl blk k).qbyte ch pl blk).getLsbD k = true := by
  rw [State.mark, State.qbyte_setQbyte, if_pos rfl, BitVec.getLsbD_or, BitVec.getLsbD_ofNat, Nat.testBit_two_pow_self]
  simp [hk]

theorem State.marked_mark (s : State) (ch pl : Nat) {blk : Nat} (k : Nat) (hblk : blk < 400) : s.Marked (s.mark ch pl blk k) := by
  refine ⟨rfl, rfl, fun ch' pl' blk' j hblk' h => ?_, fun _ h => h⟩
  rw [State.mark, State.qbyte_setQbyte]
  split
  · rename_i he
    have hkey : planeKey ch pl = planeKey ch' pl' := by omega
    obtain rfl : blk = blk' := by omega
    have hsame : s.qbyte ch pl blk = s.qbyte ch' pl' blk := by simp only [State.qbyte, hkey]
    rw [BitVec.getLsbD_or, hsame, h, Bool.true_or]
  · exact h

theorem State.marked_eccMark (s : State) (ch pl : Nat) {blk : Nat} (e : Ecc) (hblk : blk < 400) : s.Marked (s.eccMark ch pl blk e) := by
  have both (k : Nat) : s.Marked (s.markBoth ch pl blk k) := by
    unfold State.markBoth
    dsimp only
    split
    · exact s.marked_mark ch pl k hblk
    · exact (s.marked_mark ch pl k hblk).trans (State.marked_mark _ _ _ _ hblk)
  unfold State.eccMark
  split
  · exact both 6
  · split
    · exact both 3
    · exact .refl s

/-- SAT_SEEN stands in the words at 8 of the FOLD instances' 16 bytes, from 0x24408 on (Table 19.2). -/
theorem satSeen_addr (i : Nat) : Reg.FOLD_SSTAT_SAT_SEEN.addr i % 16 = 8 ∧ 0x24408 ≤ Reg.FOLD_SSTAT_SAT_SEEN.addr i := by
  simp only [Field.addr, Reg.FOLD_SSTAT_SAT_SEEN]
  omega

/-- The counts of the banks' errors: their registers hold no SAT_SEEN. -/
theorem State.marked_wr (s : State) {f : Field} {j : Nat} (v : Nat) (hf : f.addr j % 16 ≠ 8 ∨ f.addr j < 0x24408) :
    s.Marked (s.wr f j v) := by
  refine .of_reg rfl rfl rfl fun i => State.on_of_reg (s.reg_wr_other f j v fun h => ?_)
  have := satSeen_addr i
  rw [h] at this
  omega

theorem State.marked_raise (s : State) {f : Field} (j : Nat) (hf : f.fits = true) (ha : f.apart Reg.FOLD_SSTAT_SAT_SEEN = true) :
    s.Marked (s.raise f j) :=
  .of_reg rfl rfl rfl fun i => s.on_raise_apart f _ j i hf ha

theorem State.marked_logged {s t : State} (h : s.Logged t) : s.Marked t := by
  have hr (i : Nat) : t.on Reg.FOLD_SSTAT_SAT_SEEN i = s.on Reg.FOLD_SSTAT_SAT_SEEN i :=
    State.on_of_reg (h.reg (.inr (by have := satSeen_addr i; omega)))
  obtain ⟨_, _, _, _, _, rfl, -⟩ := h
  exact .of_reg rfl rfl rfl hr

theorem State.marked_put (s : State) {f : Field} {j : Nat} (b : Bool) (hf : f.addr j % 16 ≠ 8 ∨ f.addr j < 0x24408) :
    s.Marked (s.put f j b) := s.marked_wr _ hf

theorem State.marked_bump (s : State) {f : Field} {j : Nat} (n : Nat) (hf : f.addr j % 16 ≠ 8 ∨ f.addr j < 0x24408) :
    s.Marked (s.bump f j n) := s.marked_wr _ hf

/-- An uncorrectable error is counted, and FOLD_ECC_LAST names it (R102). -/
def State.lastUe (ch pl blk : Nat) (isMeta : Bool) (s : State) : State :=
  let s := (s.bump Reg.FOLD_ECC_UE ch 1).bump Reg.FOLD_ECC_UE_N 0 1
  ((((s.raise Reg.FOLD_ECC_LAST_VALID 0).put Reg.FOLD_ECC_LAST_META 0 isMeta).wr
    Reg.FOLD_ECC_LAST_BLOCK 0 blk).wr Reg.FOLD_ECC_LAST_PLANE 0 pl).wr Reg.FOLD_ECC_LAST_CHAN 0 ch

theorem State.marked_lastUe (s : State) (ch pl blk : Nat) (isMeta : Bool) : s.Marked (s.lastUe ch pl blk isMeta) := by
  have count := s.marked_bump (f := Reg.FOLD_ECC_UE) (j := ch) 1 (.inl (by simp only [Field.addr, Reg.FOLD_ECC_UE]; omega))
  have total := count.trans (State.marked_bump _ (f := Reg.FOLD_ECC_UE_N) (j := 0) 1 (.inr (by decide)))
  have valid := total.trans (State.marked_raise _ (f := Reg.FOLD_ECC_LAST_VALID) 0 (by decide) (by decide))
  have isMeta := valid.trans (State.marked_put _ (f := Reg.FOLD_ECC_LAST_META) (j := 0) isMeta (.inr (by decide)))
  have block := isMeta.trans (State.marked_wr _ (f := Reg.FOLD_ECC_LAST_BLOCK) (j := 0) blk (.inr (by decide)))
  have plane := block.trans (State.marked_wr _ (f := Reg.FOLD_ECC_LAST_PLANE) (j := 0) pl (.inr (by decide)))
  have chan := plane.trans (State.marked_wr _ (f := Reg.FOLD_ECC_LAST_CHAN) (j := 0) ch (.inr (by decide)))
  unfold State.lastUe
  exact chan

theorem State.marked_foldUe (s : State) (ch pl blk : Nat) (isMeta : Bool) (kind : Nat) : s.Marked (s.foldUe ch pl blk isMeta kind) := by
  have chain {u v w : State} (hu : s.Marked u) (hv : u.Marked v) (hw : v.Marked w) (was : Bool) :
      s.Marked (if was then w else w.source 4) := by
    split
    · exact hu.trans (hv.trans hw)
    · exact hu.trans (hv.trans (hw.trans (.of_reg rfl rfl rfl fun _ => rfl)))
  have hlast := s.marked_lastUe ch pl blk isMeta
  unfold State.lastUe at hlast
  unfold State.foldUe
  refine chain hlast ?_ (State.marked_logged (State.logged_logBy ..)) _
  clear chain hlast
  generalize State.wr _ Reg.FOLD_ECC_LAST_CHAN _ _ = u
  split
  · exact State.marked_raise _ _ (by decide) (by decide)
  · exact .refl u

theorem State.marked_foldCe (s : State) (ch : Nat) : s.Marked (s.foldCe ch) := by
  have bank := s.marked_bump (f := Reg.FOLD_ECC_CE) (j := ch) 1 (.inl (by simp only [Field.addr, Reg.FOLD_ECC_CE]; omega))
  have total := bank.trans (State.marked_bump _ (f := Reg.FOLD_ECC_CE_N) (j := 0) 1 (.inr (by decide)))
  unfold State.foldCe
  exact total

theorem State.marked_eccCount (s : State) (ch pl blk : Nat) (isMeta : Bool) (e : Ecc) : s.Marked (s.eccCount ch pl blk isMeta e) := by
  unfold State.eccCount
  split
  · exact s.marked_foldCe ch
  · split
    · exact s.marked_foldUe ch pl blk isMeta 0
    · exact .refl s

/-- A read of a bin delivers the word stored where the check bits vouch for it. -/
theorem State.takeBin_fst (s : State) (ch pl from_ b : Nat) {e : Ecc} (h : e.intact = true) :
    (s.takeBin ch pl from_ b e).1 = s.bin ch from_ b := by
  simp only [State.takeBin, State.readBin, h, if_true]

theorem State.marked_takeBin (s : State) (ch pl from_ : Nat) {b : Nat} (e : Ecc) (hb : b < 102400) :
    s.Marked (s.takeBin ch pl from_ b e).2 := by
  have hread : s.Marked (s.readBin ch from_ b e).2 := by
    unfold State.readBin
    split
    · exact .refl s
    · exact .of_reg rfl rfl rfl fun _ => rfl
  exact hread.trans ((State.marked_eccMark _ _ _ _ (by omega)).trans (State.marked_eccCount ..))

/-- The old value a commit starts from, and the state its read leaves. -/
def State.oldBin (s : State) (ch pl b : Nat) (old : OldKind) (e : Ecc) : Int × State :=
  match old with
  | .zero => (0, s)
  | .carry => ((s.takeBin ch pl (1 - pl) b e).1.toInt, (s.takeBin ch pl (1 - pl) b e).2)
  | .self => ((s.takeBin ch pl pl b e).1.toInt, (s.takeBin ch pl pl b e).2)

/-- The old value less its leak. -/
def leaked (leak : Option Nat) (o : Int) : Int :=
  match leak with
  | some k => o - o / 2 ^ k
  | none => o

/-- The marks a commit of the sum `x` leaves: saturation, overload, a bad frame. -/
def State.commitMarks (s : State) (strand ch pl b : Nat) (x : Int) (ovl badFrame : Bool) : State :=
  let s := if x = clampInt (-(2 ^ 39 - 1)) (2 ^ 39 - 1) x then s else (s.mark ch pl (b / 256) 0).raise Reg.FOLD_SSTAT_SAT_SEEN strand
  let s := if ovl then s.mark ch pl (b / 256) 1 else s
  if badFrame then (s.mark ch pl (b / 256) 3).foldUe ch pl (b / 256) false 3 else s

theorem State.foldCommit_eq (s : State) (strand ch pl b : Nat) (x : Int) (old : OldKind) (leak : Option Nat)
    (ovl bad : Bool) (e : Ecc) :
    s.foldCommit strand ch pl b x old leak ovl bad e =
      ((s.oldBin ch pl b old e).2.commitMarks strand ch pl b (leaked leak (s.oldBin ch pl b old e).1 + x) ovl bad).setBin ch pl b
        (BitVec.ofInt 40 (clampInt (-(2 ^ 39 - 1)) (2 ^ 39 - 1) (leaked leak (s.oldBin ch pl b old e).1 + x))) := by
  cases old <;> cases leak <;> rfl

theorem State.marked_oldBin (s : State) (ch pl : Nat) {b : Nat} (old : OldKind) (e : Ecc) (hb : b < 102400) :
    s.Marked (s.oldBin ch pl b old e).2 := by
  cases old
  · exact .refl s
  · exact s.marked_takeBin ch pl _ e hb
  · exact s.marked_takeBin ch pl _ e hb

theorem State.marked_commitMarks (s : State) (strand ch pl : Nat) {b : Nat} (x : Int) (ovl bad : Bool) (hb : b < 102400) :
    s.Marked (s.commitMarks strand ch pl b x ovl bad) := by
  have hblk : b / 256 < 400 := by omega
  have sat : s.Marked (if x = clampInt (-(2 ^ 39 - 1)) (2 ^ 39 - 1) x then s
      else (s.mark ch pl (b / 256) 0).raise Reg.FOLD_SSTAT_SAT_SEEN strand) := by
    split
    · exact .refl s
    · refine (s.marked_mark ch pl 0 hblk).trans ⟨rfl, rfl, fun _ _ _ _ _ h => h, fun i h => ?_⟩
      by_cases hi : i = strand
      · subst hi
        exact State.on_raise_same _ _ _ (by decide)
      · refine (State.on_of_reg (State.reg_raise_other _ _ _ ?_)).trans h
        simp only [Field.addr, Reg.FOLD_SSTAT_SAT_SEEN]
        omega
  unfold State.commitMarks
  revert sat
  generalize (if x = clampInt (-(2 ^ 39 - 1)) (2 ^ 39 - 1) x then s
      else (s.mark ch pl (b / 256) 0).raise Reg.FOLD_SSTAT_SAT_SEEN strand) = t
  intro sat
  have hovl : s.Marked (if ovl then t.mark ch pl (b / 256) 1 else t) := by
    split
    · exact sat.trans (t.marked_mark ch pl 1 hblk)
    · exact sat
  dsimp only
  revert hovl
  generalize (if ovl then t.mark ch pl (b / 256) 1 else t) = u
  intro hovl
  split
  · exact hovl.trans ((u.marked_mark ch pl 3 hblk).trans (State.marked_foldUe ..))
  · exact hovl

/-- A commit that saturates marks its block and sets SAT_SEEN of its strand. -/
theorem State.commitMarks_sat (s : State) (strand ch pl : Nat) {b : Nat} {x : Int} (ovl bad : Bool) (hb : b < 102400)
    (hx : x ≠ clampInt (-(2 ^ 39 - 1)) (2 ^ 39 - 1) x) :
    ((s.commitMarks strand ch pl b x ovl bad).qbyte ch pl (b / 256)).getLsbD 0 = true
      ∧ (s.commitMarks strand ch pl b x ovl bad).on Reg.FOLD_SSTAT_SAT_SEEN strand = true := by
  have hblk : b / 256 < 400 := by omega
  have hin : clampInt (-(2 ^ 39 - 1)) (2 ^ 39 - 1) 0 = 0 := by decide
  have later (t : State) : State.Marked t (t.commitMarks strand ch pl b 0 ovl bad) := t.marked_commitMarks strand ch pl 0 ovl bad hb
  have heq : s.commitMarks strand ch pl b x ovl bad
      = ((s.mark ch pl (b / 256) 0).raise Reg.FOLD_SSTAT_SAT_SEEN strand).commitMarks strand ch pl b 0 ovl bad := by
    simp only [State.commitMarks, if_neg hx, hin, if_true]
  rw [heq]
  exact ⟨(later _).marks _ _ _ _ hblk (State.qbyte_mark _ _ _ _ _ (by decide)), (later _).seen _ (State.on_raise_same _ _ _ (by decide))⟩

theorem State.bin_setBin (s : State) (ch pl b : Nat) (v : Bin40) (ch' pl' b' : Nat) :
    (s.setBin ch pl b v).bin ch' pl' b'
      = if planeKey ch' pl' * 102400 + b' = planeKey ch pl * 102400 + b then v else s.bin ch' pl' b' := by
  unfold State.bin State.setBin SMap.getD
  split
  · rename_i h
    rw [h, SMap.find_put_same]
    rfl
  · rename_i h
    rw [SMap.find_put_other _ _ h]

theorem clampInt_eq {lo hi : Int} (h : lo ≤ hi) (x : Int) : clampInt lo hi x = max lo (min hi x) := by
  unfold clampInt
  split
  · omega
  · split <;> omega

/-- A value within ±(2³⁹ − 1) is its bin's. -/
theorem toInt_ofInt_bin {x : Int} (hlo : -(2 ^ 39 - 1) ≤ x) (hhi : x ≤ 2 ^ 39 - 1) : (BitVec.ofInt 40 x).toInt = x := by
  rw [BitVec.toInt_ofInt]
  exact Int.bmod_eq_of_le (by norm_num; omega) (by norm_num; omega)

theorem OldKind.oldBin_fst (s : State) (ch pl b : Nat) (old : OldKind) {e : Ecc} (h : e = .ok ∨ e = .corrected ∨ old = .zero) :
    (s.oldBin ch pl b old e).1 = match old with
      | .zero => 0
      | .carry => (s.bin ch (1 - pl) b).toInt
      | .self => (s.bin ch pl b).toInt := by
  have hintact (hne : old ≠ .zero) : e.intact = true := by
    rcases h with rfl | rfl | h
    · rfl
    · rfl
    · exact absurd h hne
  cases old
  · rfl
  · rw [State.oldBin, State.takeBin_fst _ _ _ _ _ (hintact nofun)]
  · rw [State.oldBin, State.takeBin_fst _ _ _ _ _ (hintact nofun)]

/-! ### The obligation -/

/-- The three clauses about one commit. -/
theorem State.foldCommit_clauses (s : State) (strand ch pl b : Nat) (x : Int) (old : OldKind) (leak : Option Nat)
    (ovl bad : Bool) (e : Ecc) (hpl : pl < 2) (hb : b < 102400) {o : Int}
    (ho : e = .ok ∨ e = .corrected ∨ old = .zero → leaked leak (s.oldBin ch pl b old e).1 = o) :
    (e = .ok ∨ e = .corrected ∨ old = .zero →
        ((s.foldCommit strand ch pl b x old leak ovl bad e).bin ch pl b).toInt = max (-(2 ^ 39 - 1)) (min (2 ^ 39 - 1) (o + x)))
      ∧ (e = .ok ∨ e = .corrected ∨ old = .zero → o + x < -(2 ^ 39 - 1) ∨ 2 ^ 39 - 1 < o + x →
        ((s.foldCommit strand ch pl b x old leak ovl bad e).qbyte ch pl (b / 256)).getLsbD 0 = true
          ∧ (s.foldCommit strand ch pl b x old leak ovl bad e).on Reg.FOLD_SSTAT_SAT_SEEN strand = true)
      ∧ ∀ ch' pl' b', pl' < 2 → b' < 102400 → (ch', pl', b') ≠ (ch, pl, b) →
        (s.foldCommit strand ch pl b x old leak ovl bad e).bin ch' pl' b' = s.bin ch' pl' b' := by
  rw [State.foldCommit_eq]
  refine ⟨fun h => ?_, fun h hout => ?_, fun ch' pl' b' hpl' hb' hne => ?_⟩
  · rw [ho h, State.bin_setBin, if_pos rfl, clampInt_eq (by norm_num)]
    exact toInt_ofInt_bin (le_max_left _ _) (max_le (by norm_num) (min_le_left _ _))
  · rw [ho h]
    refine State.commitMarks_sat _ strand ch pl ovl bad hb ?_
    rw [clampInt_eq (by norm_num)]
    omega
  · rw [State.bin_setBin, if_neg]
    · exact ((s.marked_oldBin ch pl old e hb).trans (State.marked_commitMarks _ _ _ _ _ _ _ hb)).bin ch' pl' b'
    · intro hk
      simp only [planeKey] at hk
      refine hne ?_
      simp only [Prod.mk.injEq]
      omega

theorem wrFold_snap (s : State) (i : Nat) : s.wrFold i 1 = s.snap i := rfl

theorem wrFold_restart (s : State) (i : Nat) : s.wrFold i 2 = s.restart i := rfl

/-- Settles O29. -/
theorem foldEngine : Obligations.FoldEngine := by
  unfold Obligations.FoldEngine
  refine ⟨⟨fun src i s hm hw => ?_, fun src i s hm hw => ?_, fun src ch a b s hm hw => ?_⟩,
    fun s strand ch pl b x old leak ovl bad e hpl hb => ?_⟩
  · have hexec := s.writeReg_foldCmd src i 1 hm hw
    rw [wrFold_snap] at hexec
    obtain ⟨hreg, hstrand, hacc, hrest⟩ := (s.asked (Reg.FOLD_CMD_SNAP.addr i)).snap_frame i
    refine ⟨_, (exec_foldCmdSnap ..).trans (congrArg Host.Outcome.next hexec), hacc, ?_, fun a ha => ?_, hstrand,
      hrest.command_strands⟩
    · exact (State.snap_on _ i).trans (congrArg (· || _) (s.on_asked _ _ i))
    · exact (hreg a ha).trans (s.reg_asked _ a)
  · have hexec := s.writeReg_foldCmd src i 2 hm hw
    rw [wrFold_restart] at hexec
    obtain ⟨hreg, hstrand, hacc, hrest⟩ := (s.asked (Reg.FOLD_CMD_SNAP.addr i)).restart_frame i
    refine ⟨_, (exec_foldCmdRestart ..).trans (congrArg Host.Outcome.next hexec), hacc, ?_, fun a ha => ?_, hstrand,
      hrest.command_strands⟩
    · exact State.on_put_same _ Reg.FOLD_SSTAT_RESTART_PEND i true (by decide)
    · exact (hreg a ha).trans (s.reg_asked _ a)
  · have hv : (BitVec.ofNat 32 ((if a then 1 else 0) + if b then 2 else 0)).getLsbD 0 = a
        ∧ (BitVec.ofNat 32 ((if a then 1 else 0) + if b then 2 else 0)).getLsbD 1 = b := by
      cases a <;> cases b <;> decide
    have hexec := s.writeReg_foldRel src ch (BitVec.ofNat 32 ((if a then 1 else 0) + if b then 2 else 0)) hm hw
    rw [hv.1, hv.2] at hexec
    obtain ⟨hreg, hacc, hrest⟩ := (s.asked (Reg.FOLD_REL_REL_A.addr ch)).relPlanes_frame ch a b
    obtain ⟨hA, hB⟩ := (s.asked (Reg.FOLD_REL_REL_A.addr ch)).own_relPlanes ch a b
    have hown (pl : Nat) : (s.asked (Reg.FOLD_REL_REL_A.addr ch)).own ch pl = s.own ch pl := State.own_of_reg (s.reg_asked ..) pl
    rw [hown] at hA hB
    exact ⟨_, (exec_foldRel ..).trans (congrArg Host.Outcome.next hexec), hacc, hA, hB,
      fun x hx => (hreg x hx).trans (s.reg_asked _ x), ((s.regsOnly_asked _).trans hrest).noteWrite ..⟩
  · refine s.foldCommit_clauses strand ch pl b x old leak ovl bad e hpl hb fun h => ?_
    rw [OldKind.oldBin_fst s ch pl b old h]
    cases old <;> cases leak <;> rfl

end Sys2Proof.Machine
end
-- ==== Sys2Proof/Proofs/BootCommands.lean ====
section
/-! BOOT_CMD: a write names one command (R392, R419). -/

namespace Sys2Proof.Machine

/-- BOOT_CMD as Table 19.2 resolves it. -/
def bootCmdHit : Hit :=
  ⟨.boot, 0, 4, 0, .housekeeping, [⟨15, 8, .wo, 0⟩, ⟨4, 4, .rwl, 0⟩, ⟨3, 3, .wo, 0⟩, ⟨2, 2, .wo, 0⟩, ⟨1, 1, .wo, 0⟩, ⟨0, 0, .wo, 0⟩]⟩

theorem lookup_bootCmd : lookup 0x3004 = some bootCmdHit := by decide

/-- A write of two or more commands counts two or more. -/
theorem two_le_commands {v : Word} (h : ∃ j k, j < k ∧ k < 5 ∧ v.getLsbD j = true ∧ v.getLsbD k = true) :
    1 < ((List.range 5).filter fun k => v.getLsbD k).length := by
  obtain ⟨j, k, hjk, hk, hvj, hvk⟩ := h
  have hnodup : [j, k].Nodup := by simp; omega
  have hsub : [j, k] ⊆ (List.range 5).filter fun k => v.getLsbD k := by
    intro x hx
    simp only [List.mem_cons, List.not_mem_nil, or_false] at hx
    rcases hx with rfl | rfl <;> simp only [List.mem_filter, List.mem_range] <;> exact ⟨by omega, by assumption⟩
  exact (hnodup.subperm hsub).length_le

/-- A log record stamped without the link island's clock changes registers of the log and the log alone. -/
theorem State.logBy_housekeeping (s : State) (who code a0 a1 a2 a3 : Nat) :
    (∀ a, outsideLog a → (s.logBy who code 0 a0 a1 a2 a3).reg a = s.reg a)
      ∧ RegsOnly s { s.logBy who code 0 a0 a1 a2 a3 with log := s.log } := by
  refine ⟨(s.calAgree_log_ code a0 a1 a2 a3 0 true s.lany).reg, ?_⟩
  change RegsOnly s { s.log_ code 0 true a0 a1 a2 a3 s.lany with log := s.log }
  unfold State.log_
  dsimp only
  split
  · simp only [RegsOnly, State.wr, State.setReg]
  · simp only [RegsOnly, State.wr, State.setReg, State.raise, State.noteRaised, State.put, State.bump]

/-- A write of a register that keeps its word, its guarded fields beside others: it is logged where the open lock lets a guarded
field through, has its effect, and answers LOCKED where the lock holds one back. -/
theorem State.writeHit_keeps (s : State) {h : Hit} (src a : Nat) (v act : Word) (hkeeps : h.keeps = true)
    (hmixed : h.mixed = true) :
    s.writeHit src false h a v act =
      let carries := h.fields.any fun f => f.counts h.mixed (s.reg a) v
      let free := s.classOpen h.lockClass
      let t := s.asked a
      let t := if carries && free then t.logBy h.inst 0x81 h.islandNo a v.toNat src 0 else t
      let t := t.writeEffect src false free h act (s.reg a)
      if carries && !free then t.answer .locked else t := by
  have hwritten (free : Bool) : State.written { s with acc := .ok } free h a act = s.reg a := if_pos (by rw [hkeeps]; rfl)
  unfold State.writeHit
  simp only [hmixed, hwritten, Bool.not_true, Bool.and_false, Bool.false_eq_true, if_false, Bool.and_true, Bool.false_or,
    Bool.not_false]
  rfl

theorem State.writeReg_keeps {s : State} {a : Nat} {h : Hit} (src : Source) (v : Word) (hm : 3 ≤ s.mode)
    (hl : lookup a = some h) (hg : s.gated h true = false) (hgrp : h.grp ≠ .gapcal) (hkeeps : h.keeps = true)
    (hmixed : h.mixed = true) (hf : h.fields.all (fun f => f.acc != .w1c) = true) :
    s.writeReg src a v =
      let carries := h.fields.any fun f => f.counts h.mixed (s.reg a) v
      let free := s.classOpen h.lockClass
      let t := s.asked a
      let t := if carries && free then t.logBy h.inst 0x81 h.islandNo a v.toNat (srcNumber src) 0 else t
      let t := t.writeEffect (srcNumber src) false free h v (s.reg a)
      (if carries && !free then t.answer .locked else t).noteWrite src a := by
  have hact : s.acting (srcRank src) h a v = v := by
    unfold State.acting
    dsimp only
    have hall (l : List FieldSpec) (hl : ∀ f ∈ l, f.acc ≠ .w1c) (late : Bool) : l.foldl (fun v f => match f.acc with
        | .w1c => v &&& ~~~(s.raised.getD a 0 &&& f.mask)
        | .rw | .rwl | .img => if late && !h.keeps then (v &&& ~~~f.mask) ||| (s.reg a &&& f.mask) else v
        | .ro | .rc | .wo | .w1s => v) v = v := by
      induction l with
      | nil => rfl
      | cons f l ih =>
        have := ih fun g hg => hl g (List.mem_cons_of_mem _ hg)
        have hne := hl f List.mem_cons_self
        rw [List.foldl_cons]
        cases hacc : f.acc
        case w1c => exact absurd hacc hne
        all_goals simpa only [hkeeps, Bool.not_true, Bool.and_false, Bool.false_eq_true, if_false] using this
    exact hall _ (fun f hf' => by simpa using List.all_eq_true.mp hf f hf') _
  rw [State.writeReg_hit src v hm hl hg hgrp, hact, State.writeHit_keeps s _ _ _ _ hkeeps hmixed]

/-- The answer of a write of which the lock may hold something back. -/
theorem State.answer_if (b : Bool) (t : State) : (if b = true then t.answer .locked else t) = t.answer (if b then .locked else t.acc) := by
  cases b <;> rfl

theorem State.regsOnly_raise (s : State) (f : Field) (i : Nat) : RegsOnly s (s.raise f i) := by
  simp only [RegsOnly, State.raise, State.noteRaised, State.put, State.wr, State.setReg]

theorem State.regsOnly_answer (s : State) (acc : AccCode) : RegsOnly s (s.answer acc) := by
  simp only [RegsOnly, State.answer]

/-- The answer and the note of a write change no register. -/
theorem State.reg_answered (s : State) (acc : AccCode) (src : Source) (a b : Nat) :
    ((s.answer acc).noteWrite src a).reg b = s.reg b := rfl

theorem State.on_answered (s : State) (acc : AccCode) (src : Source) (a : Nat) (f : Field) (i : Nat) :
    ((s.answer acc).noteWrite src a).on f i = s.on f i := rfl

theorem State.mode_answered (s : State) (acc : AccCode) (src : Source) (a : Nat) :
    ((s.answer acc).noteWrite src a).mode = s.mode := rfl

/-- More than one command: what BOOT_CMD does (R392, R419). -/
theorem State.bootCmd_two {s : State} {v : Word} (free : Bool) (h : 1 < ((List.range 5).filter fun k => v.getLsbD k).length) :
    s.bootCmd free v = if s.mode = 9 ∧ v.getLsbD 4 = false then s else s.reject := by
  unfold State.bootCmd State.inSafeStop
  by_cases h9 : s.mode = 9 ∧ v.getLsbD 4 = false
  · simp only [h9, decide_true, Bool.not_false, Bool.and_self, if_true, and_self]
  · rw [if_neg h9]
    dsimp only
    rw [if_neg (by simpa using h9), if_pos h]

/-- What BOOT_CMD starts begins where only the log of the write has changed. -/
theorem State.bootCmd_write {s : State} (src : Source) (v : Word) (hm : 3 ≤ s.mode) :
    ∃ (u : State) (acc : AccCode), (∀ a, outsideLog a → u.reg a = s.reg a) ∧ RegsOnly s { u with log := s.log }
      ∧ s.writeReg src 0x3004 v
        = ((u.bootCmd (s.classOpen .device) v).answer acc).noteWrite src 0x3004 := by
  have hw := s.writeReg_keeps (h := bootCmdHit) src v hm lookup_bootCmd (by simp [State.gated, bootCmdHit]) (by decide) rfl rfl rfl
  have heffect (t : State) : t.writeEffect (srcNumber src) false (s.classOpen bootCmdHit.lockClass) bootCmdHit v (s.reg 0x3004)
      = t.bootCmd (s.classOpen .device) v := rfl
  dsimp only at hw
  simp only [heffect] at hw
  obtain ⟨hreg, hrest⟩ := (s.asked 0x3004).logBy_housekeeping 0 0x81 0x3004 v.toNat (srcNumber src) 0
  have hrest : RegsOnly s { (s.asked 0x3004).logBy 0 0x81 0 0x3004 v.toNat (srcNumber src) 0 with log := s.log } :=
    (s.regsOnly_asked 0x3004).trans hrest
  rw [State.answer_if] at hw
  refine ⟨_, _, fun a ha => ?_, ?_, hw⟩
  · split
    · exact (hreg a ha).trans (s.reg_asked _ a)
    · exact s.reg_asked _ a
  · split
    · exact hrest
    · exact s.regsOnly_asked 0x3004

/-- A change of registers after one of registers and the log. -/
theorem RegsOnly.withLog {s t u : State} (h : RegsOnly s { u with log := s.log }) (k : RegsOnly u t) :
    RegsOnly s { t with log := s.log } := by
  unfold RegsOnly at *
  rw [← k] at h
  exact h

/-- Settles O60. -/
theorem oneBootCommand : Obligations.OneBootCommand := by
  unfold Obligations.OneBootCommand
  intro src v s hm htwo
  obtain ⟨u, acc, hreg, hrest, heq⟩ := s.bootCmd_write src v hm
  have hmode : u.mode = s.mode := congrArg Reg.BOOT_STATE_STATE.read (hreg _ (.inl (by decide)))
  rw [State.bootCmd_two _ (two_le_commands htwo), hmode] at heq
  refine ⟨_, (exec_registerWrite ..).trans (congrArg Host.Outcome.next heq), ?_⟩
  have hlog {a : Nat} (ha : a < 0x5000 ∨ 0x6000 ≤ a) : outsideLog a := ha.imp_right fun h => by omega
  rw [State.mode_answered, State.on_answered]
  simp only [State.reg_answered]
  by_cases hstop : s.mode = 9 ∧ v.getLsbD 4 = false
  · rw [if_pos hstop]
    refine ⟨hmode, fun h => ?_, fun _ _ => hreg _ (.inl (by decide)), fun a _ ha => hreg a (hlog ha), ?_⟩
    · rcases h with h | h
      · exact absurd hstop.1 h
      · rw [hstop.2] at h; exact Bool.noConfusion h
    · exact hrest.withLog ((State.regsOnly_answer _ acc).noteWrite ..)
  · rw [if_neg hstop]
    have hother (a : Nat) (ha : a ≠ 0x3008) : u.reject.reg a = u.reg a := State.reg_raise_other _ _ _ ha
    have hstate : u.reject.mode = u.mode := congrArg Reg.BOOT_STATE_STATE.read (hother (Reg.BOOT_STATE_STATE.addr 0) (by decide))
    refine ⟨hstate.trans hmode, fun _ => u.on_raise_same Reg.BOOT_STAT_CMD_REJ 0 (by decide),
      fun h9 h4 => absurd ⟨h9, h4⟩ hstop, fun a hne ha => (hother a hne).trans (hreg a (hlog ha)), ?_⟩
    exact hrest.withLog (((State.regsOnly_raise _ Reg.BOOT_STAT_CMD_REJ 0).trans (State.regsOnly_answer _ acc)).noteWrite ..)

end Sys2Proof.Machine
end
-- ==== Sys2Proof/Proofs/ProbePorts.lean ====
section
/-! Probe ports: launches, the setpoint and its ceiling, the light checks and the range evaluation (R43, R76, R77, R126 to
R134). -/

namespace Sys2Proof.Machine

/-! ### A launch of a strand whose latched SW value is none of the sixteen -/

/-- RUNNING, with port 0 due to launch strand 0, whose latched SW value is 16. -/
def wideSw : State :=
  let s := ((State.reset.wr Reg.BOOT_STATE_STATE 0 6).wr Reg.STRAND_STAT_STATE 0 2).put Reg.STRAND_CTRL_RUN 0 true
  let s := (s.setStrand 0 { StrandRt.idle with runSw := 16 }).setPort 0 { PortRt.idle with next := some 0 }
  { s with before := s.regs }

/-- Its rotation is strand 0 alone, and everything else that the launch asks for holds. -/
theorem wideSw_launches : wideSw.mode = 6 ∧ (wideSw.port 0).next = some 0 ∧ wideSw.rotation 0 wideSw.tick = [0]
    ∧ wideSw.on Reg.STRAND_CTRL_RUN 0 = true ∧ wideSw.old.on Reg.STRAND_CTRL_RUN 0 = true
    ∧ (wideSw.strand 0).sysStop = none ∧ (wideSw.strand 0).shot = none ∧ (wideSw.port 0).fixed = none := by decide +kernel

/-- The launch finds no SW value below 16 in the rotation and drives the value of the launch before. -/
theorem wideSw_sw : ((wideSw.launch 0 []).port 0).sw = 0 ∧ wideSw.sw 0 = 16 := by decide +kernel

/-- Refutes O32: the model looks for the launch's SW value among 0 to 15, so a strand whose latched value is 16, which the
statement's states allow, is not launched: `wideSw` fires its port with SW 0. -/
theorem not_launch : ¬ Obligations.Launch := by
  unfold Obligations.Launch
  rintro ⟨hlaunch, -⟩
  obtain ⟨hmode, hnext, hrot, hrun, hold, hsys, hshot, hfixed⟩ := wideSw_launches
  obtain ⟨t, hexec, -, -, -, hsw, -⟩ := hlaunch 0 [] 0 0 wideSw (.inl hmode) hnext (Nat.zero_le _) hrot hrun hold hsys
    (fun sh h => nomatch hshot.symm.trans h) (.inl hfixed)
  obtain rfl : wideSw.launch 0 [] = t := Host.Outcome.next.inj ((exec_launch ..).symm.trans hexec)
  obtain ⟨h0, h16⟩ := wideSw_sw
  rw [h16] at hsw
  exact absurd (h0.symm.trans hsw) (by decide)

/-! ### The setpoint (R126) -/

/-- One step from `now` toward `goal` by at most `r`, or to it at once with `r = 0`. -/
def stepToward (goal now r : Nat) : Nat :=
  if r = 0 then goal else if now + r ≤ goal then now + r else if goal + r ≤ now then now - r else goal

theorem stepToward_lt {goal now r n : Nat} (hg : goal < n) (hn : now < n) : stepToward goal now r < n := by
  unfold stepToward
  split_ifs <;> omega

/-- The model's step, in integers. -/
theorem stepToward_eq (goal now r : Nat) :
    (if (r : Int) = 0 then (goal : Int) else now + clampInt (-r) r (goal - now)).toNat = stepToward goal now r := by
  unfold stepToward clampInt
  split_ifs <;> omega

/-- The goal of a step, as its tick found it. -/
def State.setGoal (s : State) (p : Nat) : Nat := min (s.old.rd Reg.PRB_SET_TARGET p) (s.old.ceilingNow p)

theorem State.rd_lt (s : State) (f : Field) (i : Nat) : s.rd f i < f.span :=
  Nat.mod_lt _ (Nat.two_pow_pos _)

theorem State.setGoal_lt (s : State) (p : Nat) : s.setGoal p < 4096 :=
  lt_of_le_of_lt (min_le_left _ _) (s.old.rd_lt Reg.PRB_SET_TARGET p)

theorem State.setStep_eq {s : State} (p : Nat) (h7 : s.mode ≠ 7) (h9 : s.mode ≠ 9) :
    s.setStep p = s.wr Reg.PRB_SETNOW_SET p
      (stepToward (s.setGoal p) (s.rd Reg.PRB_SETNOW_SET p) (s.old.rd Reg.PRB_SET_RSTEP p)) := by
  have hcond : ¬ (decide (s.mode = 7) || s.inSafeStop) = true := by simp [State.inSafeStop, h7, h9]
  unfold State.setStep
  rw [if_neg hcond, ← stepToward_eq]
  simp only [State.setGoal, Nat.cast_min]

theorem State.rd_setStep {s : State} (p : Nat) (h7 : s.mode ≠ 7) (h9 : s.mode ≠ 9) :
    (s.setStep p).rd Reg.PRB_SETNOW_SET p
      = stepToward (s.setGoal p) (s.rd Reg.PRB_SETNOW_SET p) (s.old.rd Reg.PRB_SET_RSTEP p) := by
  rw [State.setStep_eq p h7 h9, State.rd_wr_same _ _ _ _ (by decide)]
  exact Nat.mod_eq_of_lt (stepToward_lt (s.setGoal_lt p) (s.rd_lt Reg.PRB_SETNOW_SET p))

theorem State.port_setStep (s : State) (p q : Nat) : (s.setStep p).port q = s.port q := by
  unfold State.setStep
  split <;> rfl

theorem State.reg_setStep_other (s : State) {p a : Nat} (ha : a ≠ Reg.PRB_SETNOW_SET.addr p) : (s.setStep p).reg a = s.reg a := by
  unfold State.setStep
  split
  · rfl
  · exact State.reg_wr_other _ _ _ _ ha

/-- `t` is `s` but for the run-time state of strands and channels. -/
def State.OnlyRuns (s t : State) : Prop := ∃ strands chans, t = { s with strands := strands, chans := chans }

theorem State.OnlyRuns.refl (s : State) : s.OnlyRuns s := ⟨_, _, rfl⟩

theorem State.OnlyRuns.trans {s t u : State} (h : s.OnlyRuns t) (k : t.OnlyRuns u) : s.OnlyRuns u := by
  obtain ⟨_, _, rfl⟩ := h
  obtain ⟨_, _, rfl⟩ := k
  exact ⟨_, _, rfl⟩

theorem State.onlyRuns_each {α : Type} {l : List α} {f : α → State → State} (hf : ∀ x ∈ l, ∀ t : State, t.OnlyRuns (f x t)) (s : State) :
    s.OnlyRuns (s.each l f) :=
  State.each_keeps (P := s.OnlyRuns) (fun x hx t h => h.trans (hf x hx t)) (.refl s)

theorem State.onlyRuns_gapStart (s : State) (i : Nat) (first : Bool) : s.OnlyRuns (s.gapStart i first) := by
  unfold State.gapStart
  split
  · exact (s.onlyRuns_each fun ch _ t => ⟨_, _, rfl⟩).trans ⟨_, _, rfl⟩
  · exact .refl s

theorem State.onlyRuns_gapFirst (s : State) (i : Nat) : s.OnlyRuns (s.gapFirst i) := by
  unfold State.gapFirst
  dsimp only
  split
  · exact .refl s
  · split
    · exact .refl s
    · exact State.OnlyRuns.trans ⟨_, _, rfl⟩ (State.onlyRuns_gapStart _ i true)

/-- Fixing the next SW value changes PRB_STAT and the port's own state. -/
theorem State.fixSw_frame (s : State) (p : Nat) :
    (∃ ports regs, s.fixSw p = { s with ports := ports, regs := regs })
      ∧ (∀ a, a ≠ Reg.PRB_STAT_SWNEXT.addr p → (s.fixSw p).reg a = s.reg a)
      ∧ ((s.fixSw p).port p).gapSeen = (s.port p).gapSeen := by
  unfold State.fixSw
  dsimp only
  split
  · exact ⟨⟨_, _, rfl⟩, fun _ _ => rfl, rfl⟩
  · split
    · exact ⟨⟨_, _, rfl⟩, fun _ _ => rfl, rfl⟩
    · refine ⟨⟨_, _, rfl⟩, fun a ha => State.reg_wr_other _ _ _ _ ha, ?_⟩
      generalize nextValue _ _ = v
      unfold State.driveSw
      dsimp only
      rw [State.port, State.wr_ports, ← State.port, State.setPort_same]

theorem setNow_ne_stat (p : Nat) : Reg.PRB_SETNOW_SET.addr p ≠ Reg.PRB_STAT_SWNEXT.addr p := by
  simp only [Field.addr, Reg.PRB_SETNOW_SET, Reg.PRB_STAT_SWNEXT]
  omega

theorem State.old_rd_of_before {s t : State} (h : t.before = s.before) (f : Field) (i : Nat) : t.old.rd f i = s.old.rd f i :=
  State.rd_of_regs (s := s.old) (t := t.old) h f i

theorem State.setGoal_of_before {s t : State} (h : t.before = s.before) (p : Nat) : t.setGoal p = s.setGoal p := by
  have hon : t.old.on Reg.PRB_DER_CTRL_EN p = s.old.on Reg.PRB_DER_CTRL_EN p := by simp only [State.on, State.old_rd_of_before h]
  simp only [State.setGoal, State.ceilingNow, hon, State.old_rd_of_before h]

/-- A step whose port, strands and channels have moved meanwhile. -/
theorem State.rd_setStep_of {s t : State} (p : Nat) (hb : t.before = s.before)
    (hmode : t.mode = s.mode) (hset : t.rd Reg.PRB_SETNOW_SET p = s.rd Reg.PRB_SETNOW_SET p) (h7 : s.mode ≠ 7) (h9 : s.mode ≠ 9) :
    (t.setStep p).rd Reg.PRB_SETNOW_SET p
      = stepToward (s.setGoal p) (s.rd Reg.PRB_SETNOW_SET p) (s.old.rd Reg.PRB_SET_RSTEP p) := by
  rw [State.rd_setStep p (hmode ▸ h7) (hmode ▸ h9), hset, State.setGoal_of_before hb, State.old_rd_of_before hb]

/-- The last two steps of a first gap tick. -/
theorem State.rd_setStep_fixSw {s t : State} (p : Nat) (hb : t.before = s.before) (hr : t.regs = s.regs)
    (h7 : s.mode ≠ 7) (h9 : s.mode ≠ 9) :
    ((t.fixSw p).setStep p).rd Reg.PRB_SETNOW_SET p
        = stepToward (s.setGoal p) (s.rd Reg.PRB_SETNOW_SET p) (s.old.rd Reg.PRB_SET_RSTEP p)
      ∧ (((t.fixSw p).setStep p).port p).gapSeen = (t.port p).gapSeen := by
  obtain ⟨⟨ports, regs, heq⟩, hreg, hseen⟩ := t.fixSw_frame p
  have hmode : (t.fixSw p).mode = s.mode := (congrArg Reg.BOOT_STATE_STATE.read (hreg (Reg.BOOT_STATE_STATE.addr 0)
    (by simp only [Field.addr, Reg.BOOT_STATE_STATE, Reg.PRB_STAT_SWNEXT]; omega))).trans (State.rd_of_regs hr _ _)
  have hset : (t.fixSw p).rd Reg.PRB_SETNOW_SET p = s.rd Reg.PRB_SETNOW_SET p :=
    (congrArg Reg.PRB_SETNOW_SET.read (hreg _ (setNow_ne_stat p))).trans (State.rd_of_regs hr _ _)
  have hbefore : (t.fixSw p).before = s.before := by rw [heq]; exact hb
  refine ⟨State.rd_setStep_of p hbefore hmode hset h7 h9, ?_⟩
  rw [State.setStep_eq p (hmode ▸ h7) (hmode ▸ h9)]
  exact hseen

theorem firstGapTick_step {s : State} {p : PortId} {x : Nat} (h7 : s.mode ≠ 7) (h9 : s.mode ≠ 9)
    (hx : (s.port p).lastLaunch = some x) (hg : (s.port p).gapSeen = false) (hdue : x + (s.port p).gapOff ≤ s.tick) :
    ∃ t, exec (.firstGapTick p) s = .next t
      ∧ t.rd Reg.PRB_SETNOW_SET p
          = stepToward (s.setGoal p) (s.rd Reg.PRB_SETNOW_SET p) (s.old.rd Reg.PRB_SET_RSTEP p)
      ∧ (t.port p).gapSeen = true := by
  obtain ⟨strands, chans, hruns⟩ :=
    s.onlyRuns_each (l := (List.range 64).filter fun i => (s.strand i).perPort = p) fun i _ t => t.onlyRuns_gapFirst i
  have hports : ({ s with strands := strands, chans := chans } : State).port p = s.port p := rfl
  have hexec : exec (.firstGapTick p) s = .next (State.setStep p (State.fixSw p
      (({ s with strands := strands, chans := chans } : State).setPort p { s.port p with gapSeen := true }))) := by
    rw [exec_firstGapTick, execFirstGapTick, hruns]
    dsimp only
    rw [hports, hx]
    exact congrArg Host.Outcome.next (if_neg (by simp [hg]; omega))
  obtain ⟨hrd, hseen⟩ := State.rd_setStep_fixSw (s := s)
    (t := ({ s with strands := strands, chans := chans } : State).setPort p { s.port p with gapSeen := true }) p rfl rfl h7 h9
  exact ⟨_, hexec, hrd, hseen.trans (congrArg PortRt.gapSeen (State.setPort_same ..))⟩

theorem State.portQuiet_iff (s : State) (p : Nat) : s.portQuiet p = true ↔ ∀ i ∈ s.portStrands p, s.sstate i = 1 := by
  simp [State.portQuiet]

theorem setpointIdleStep_step {s : State} {p : PortId} (h4 : 4 ≤ s.mode) (h7 : s.mode ≠ 7) (h9 : s.mode ≠ 9)
    (hq : ∀ i ∈ s.portStrands p, s.sstate i = 1) (hdue : (s.port p).idleBase + 4096 ≤ s.tick) :
    ∃ t, exec (.setpointIdleStep p) s = .next t
      ∧ t.rd Reg.PRB_SETNOW_SET p
          = stepToward (s.setGoal p) (s.rd Reg.PRB_SETNOW_SET p) (s.old.rd Reg.PRB_SET_RSTEP p)
      ∧ (t.port p).idleFrom = (s.port p).idleBase + 4096 ∧ ∀ a, a ≠ Reg.PRB_SETNOW_SET.addr p → t.reg a = s.reg a := by
  have hcond : ¬ (!s.portQuiet p || decide (s.mode < 4) || decide (s.mode = 7) || s.inSafeStop
      || decide (s.tick < (s.port p).idleBase + 4096)) = true := by
    simp [(s.portQuiet_iff p).mpr hq, State.inSafeStop, h7, h9]
    omega
  rw [exec_setpointIdleStep, execSetpointIdleStep]
  dsimp only
  rw [if_neg hcond]
  refine ⟨_, rfl, State.rd_setStep_of p rfl rfl rfl h7 h9, ?_, fun a ha => ?_⟩
  · rw [State.port_setStep, State.setPort_same]
  · exact State.reg_setStep_other _ ha

theorem setpointIdleStep_rest {s : State} {p : PortId} (h : ¬ (∀ i ∈ s.portStrands p, s.sstate i = 1) ∨ s.mode < 4 ∨ s.mode = 7
    ∨ s.mode = 9 ∨ s.tick < (s.port p).idleBase + 4096) : exec (.setpointIdleStep p) s = .next s := by
  rw [exec_setpointIdleStep, execSetpointIdleStep]
  refine congrArg Host.Outcome.next (if_pos ?_)
  rw [← State.portQuiet_iff] at h
  simp only [Bool.or_eq_true, decide_eq_true_eq, State.inSafeStop, Bool.not_eq_true', ← Bool.not_eq_true]
  tauto

/-! ### The ceiling (R128, R129) -/

/-- A sensor fault is flagged. -/
def State.derFault (p : Nat) (bad : Bool) (s : State) : State := if bad then s.raise Reg.PRB_STAT_DER_FAULT p else s

theorem State.derFault_frame (s : State) (p : Nat) (bad : Bool) : (s.derFault p bad).port p = s.port p
    ∧ (s.derFault p bad).rd Reg.PRB_SETNOW_CEIL p = s.rd Reg.PRB_SETNOW_CEIL p
    ∧ (bad = true → (s.derFault p bad).on Reg.PRB_STAT_DER_FAULT p = true)
    ∧ ∀ a, a ≠ Reg.PRB_STAT_DER_FAULT.addr p → (s.derFault p bad).reg a = s.reg a := by
  cases bad
  · exact ⟨rfl, rfl, nofun, fun _ _ => rfl⟩
  · simp only [State.derFault, if_true]
    have hne : Reg.PRB_SETNOW_CEIL.addr p ≠ Reg.PRB_STAT_DER_FAULT.addr p := by
      simp only [Field.addr, Reg.PRB_SETNOW_CEIL, Reg.PRB_STAT_DER_FAULT]
      omega
    exact ⟨congrArg (fun m => SMap.getD m p PortRt.idle) (s.raise_ports Reg.PRB_STAT_DER_FAULT p),
      congrArg Reg.PRB_SETNOW_CEIL.read (s.reg_raise_other _ p hne),
      fun _ => s.on_raise_same Reg.PRB_STAT_DER_FAULT p (by decide), fun a ha => s.reg_raise_other _ p ha⟩

/-- A ceiling computed is written, and a sensor fault flagged; nothing else changes. -/
theorem deratingUpdate_frame (s : State) (p : PortId) {v : Nat} {bad : Bool} (hc : s.ceilingOf p = (v, bad)) (hv : v < 4096) :
    ∃ t, exec (.deratingUpdate p) s = .next t ∧ (t.port p).derDue = false ∧ t.rd Reg.PRB_SETNOW_CEIL p = v
      ∧ (bad = true → t.on Reg.PRB_STAT_DER_FAULT p = true)
      ∧ ∀ a, a ≠ Reg.PRB_SETNOW_CEIL.addr p → a ≠ Reg.PRB_STAT_DER_FAULT.addr p → t.reg a = s.reg a := by
  have hexec : exec (.deratingUpdate p) s = .next (((s.wr Reg.PRB_SETNOW_CEIL p v).setPort p
      { s.port p with derDue := false }).derFault p bad) := by
    rw [exec_deratingUpdate, execDeratingUpdate, hc]
    rfl
  obtain ⟨hport, hceil, hbad, hreg⟩ :=
    ((s.wr Reg.PRB_SETNOW_CEIL p v).setPort p { s.port p with derDue := false }).derFault_frame p bad
  refine ⟨_, hexec, ?_, hceil.trans ?_, hbad, fun a ha hf => (hreg a hf).trans (s.reg_wr_other _ _ _ ha)⟩
  · rw [hport, State.setPort_same]
  · exact (s.rd_wr_same Reg.PRB_SETNOW_CEIL p v (by decide)).trans (Nat.mod_eq_of_lt hv)

/-- The ceiling between T1 and T2 falls linearly from 4,095 to DFLOOR. -/
theorem ceiling_bounds {y t1 t2 : Int} {fl : Nat} (h1 : t1 < y) (h2 : y < t2) (hfl : fl < 4096) :
    0 ≤ 4095 - (y - t1) * (4095 - fl) / (t2 - t1) ∧ 4095 - (y - t1) * (4095 - fl) / (t2 - t1) < 4096 := by
  have hpos : 0 < t2 - t1 := by omega
  have hfall : 0 ≤ (4095 - fl : Int) := by omega
  have hnum : 0 ≤ (y - t1) * (4095 - fl) := mul_nonneg (by omega) hfall
  have hle : (y - t1) * (4095 - fl) ≤ (4095 - fl) * (t2 - t1) := by
    rw [mul_comm]
    exact mul_le_mul_of_nonneg_left (by omega) hfall
  have hq : (y - t1) * (4095 - fl) / (t2 - t1) ≤ 4095 - fl := Int.ediv_le_of_le_mul hpos hle
  have hq0 : 0 ≤ (y - t1) * (4095 - fl) / (t2 - t1) := Int.ediv_nonneg hnum hpos.le
  omega

theorem State.ceilingOf_lt (s : State) (p : Nat) : (s.ceilingOf p).1 < 4096 := by
  have hfl : s.rd Reg.PRB_DER_CTRL_DFLOOR p < 4096 := s.rd_lt _ _
  have hceil : s.rd Reg.PRB_SETNOW_CEIL p < 4096 := s.rd_lt _ _
  unfold State.ceilingOf
  dsimp only
  split
  · decide
  · split
    · exact hfl
    · split
      · exact hceil
      · generalize (if s.on Reg.PRB_DER_CTRL_INV p = true then _ else _) = y
        split
        · decide
        · split
          · exact hfl
          · rename_i h1 h2
            have := ceiling_bounds (not_le.mp h1) (not_le.mp h2) hfl
            dsimp only
            omega

/-- Settles O33. -/
theorem setpoint : Obligations.Setpoint := by
  unfold Obligations.Setpoint
  refine ⟨fun p x s h7 h9 hx hg hdue => firstGapTick_step h7 h9 hx hg hdue,
    fun p s h4 h7 h9 hq hdue => setpointIdleStep_step h4 h7 h9 hq hdue, fun p s h => setpointIdleStep_rest h, fun p s => ?_⟩
  obtain ⟨t, hexec, hdue, hceil, hbad, hreg⟩ := deratingUpdate_frame s p (Prod.mk.eta (p := s.ceilingOf p)).symm (s.ceilingOf_lt p)
  refine ⟨t, hexec, hdue, fun hen => ?_, fun hen hpc hf => ?_, fun x hen hpc hf hx => ?_, hreg⟩
  · rw [hceil]
    simp only [State.ceilingOf, hen, Bool.not_false, if_true]
  · have hval : s.ceilingOf p = (s.rd Reg.PRB_DER_CTRL_DFLOOR p, true) := by
      simp only [State.ceilingOf, hen, hf, Bool.not_true, Bool.false_eq_true, if_false, Bool.or_true, if_true]
    rw [hval] at hceil hbad
    exact ⟨hceil, hbad rfl⟩
  · have hcond : ¬ (decide (24 ≤ s.rd Reg.PRB_DER_CTRL_PC p) || (s.pc (s.rd Reg.PRB_DER_CTRL_PC p)).sensFault) = true := by
      simp [hf]; omega
    have hval : (s.ceilingOf p).1 = let y := if s.on Reg.PRB_DER_CTRL_INV p then -x else x
        if y ≤ s.rdInt Reg.PRB_DER_T1_T p then 4095
        else if s.rdInt Reg.PRB_DER_T2_T p ≤ y then s.rd Reg.PRB_DER_CTRL_DFLOOR p
        else ((4095 : Int) - (y - s.rdInt Reg.PRB_DER_T1_T p) * (4095 - s.rd Reg.PRB_DER_CTRL_DFLOOR p)
          / (s.rdInt Reg.PRB_DER_T2_T p - s.rdInt Reg.PRB_DER_T1_T p)).toNat := by
      unfold State.ceilingOf
      dsimp only
      rw [hen, if_neg (by decide), if_neg hcond, hx]
      dsimp only
      generalize (if s.on Reg.PRB_DER_CTRL_INV p = true then -x else x) = y
      by_cases h1 : y ≤ s.rdInt Reg.PRB_DER_T1_T p
      · rw [if_pos h1, if_pos h1]
      · rw [if_neg h1, if_neg h1]
        by_cases h2 : s.rdInt Reg.PRB_DER_T2_T p ≤ y
        · rw [if_pos h2, if_pos h2]
        · rw [if_neg h2, if_neg h2]
    dsimp only at hval ⊢
    rw [hceil, hval]
    refine ⟨fun h => if_pos h, fun h1 h2 => ?_, fun h1 h2 => ?_⟩
    · rw [if_neg (not_le.mpr h1), if_pos h2]
    · rw [if_neg (not_le.mpr h1), if_neg (not_le.mpr h2)]
      exact Int.toNat_of_nonneg (ceiling_bounds h1 h2 (s.rd_lt Reg.PRB_DER_CTRL_DFLOOR p)).1

end Sys2Proof.Machine
end
-- ==== Sys2Proof/Proofs/LightChecks.lean ====
section
/-! The light checks: a shot's presence level and a launch's monitor energy are judged, and PROBE_LOST is raised (R130 to R134). -/

namespace Sys2Proof.Machine

/-! ### PROBE_LOST -/

/-- What PROBE_LOST changes besides PRB_STAT and the log: nothing of strands and bins, and of its port only when the loss was
told. -/
structure State.LostOf (p : Nat) (s t : State) : Prop where
  strands : t.strands = s.strands
  bins : t.bins = s.bins
  port : ∃ at_, t.port p = { s.port p with lostAt := at_ }
  reg : ∀ a, outsideLog a → a ≠ Reg.PRB_STAT_LOST.addr p → t.reg a = s.reg a

theorem State.port_of_ports {s t : State} (h : t.ports = s.ports) (p : Nat) : t.port p = s.port p :=
  congrArg (fun m => SMap.getD m p PortRt.idle) h

theorem State.strand_of_strands {s t : State} (h : t.strands = s.strands) (i : Nat) : t.strand i = s.strand i :=
  congrArg (fun m => SMap.getD m i StrandRt.idle) h

/-- What leaves strands, bins and ports alone, and of the registers all but PRB_STAT. -/
theorem State.LostOf.of_regs {p : Nat} {s t : State} (hs : t.strands = s.strands) (hb : t.bins = s.bins) (hp : t.ports = s.ports)
    (hr : ∀ a, a ≠ Reg.PRB_STAT_LOST.addr p → t.reg a = s.reg a) : s.LostOf p t :=
  ⟨hs, hb, ⟨(s.port p).lostAt, State.port_of_ports hp p⟩, fun a _ => hr a⟩

theorem prbStat_outsideLog (p : Nat) : outsideLog (Reg.PRB_STAT_LOST.addr p) := by
  refine .inr ?_
  simp only [Field.addr, Reg.PRB_STAT_LOST]
  omega

/-- The loss is flagged with its source and strand (R132, R134). -/
def State.lostFlag (p i src : Nat) (s : State) : State :=
  ((s.raise Reg.PRB_STAT_LOST p).wr Reg.PRB_STAT_LOST_SRC p src).wr Reg.PRB_STAT_LOST_STRAND p i

theorem State.lostFlag_frame (s : State) (p i src : Nat) : s.LostOf p (s.lostFlag p i src)
    ∧ (s.lostFlag p i src).on Reg.PRB_STAT_LOST p = true
    ∧ (s.lostFlag p i src).rd Reg.PRB_STAT_LOST_SRC p = src % 4 ∧ (s.lostFlag p i src).rd Reg.PRB_STAT_LOST_STRAND p = i % 64 := by
  unfold State.lostFlag
  generalize hr : s.raise Reg.PRB_STAT_LOST p = r
  have hon : r.on Reg.PRB_STAT_LOST p = true := hr ▸ s.on_raise_same Reg.PRB_STAT_LOST p (by decide)
  have hreg (a : Nat) (ha : a ≠ Reg.PRB_STAT_LOST.addr p) : r.reg a = s.reg a := hr ▸ s.reg_raise_other _ p ha
  have hports : r.ports = s.ports := by rw [← hr, State.raise_ports]
  have hstrands : r.strands = s.strands := by rw [← hr, State.raise_strands]
  have hbins : r.bins = s.bins := by rw [← hr, State.raise_bins]
  refine ⟨.of_regs ?_ ?_ ?_ fun a ha => ?_, ?_, ?_, ?_⟩
  · rw [State.wr_strands, State.wr_strands, hstrands]
  · rw [State.wr_bins, State.wr_bins, hbins]
  · rw [State.wr_ports, State.wr_ports, hports]
  · exact (State.reg_wr_other _ Reg.PRB_STAT_LOST_STRAND p i ha).trans
      ((State.reg_wr_other _ Reg.PRB_STAT_LOST_SRC p src ha).trans (hreg a ha))
  · simp only [State.on] at hon ⊢
    rwa [State.rd_wr_apart _ Reg.PRB_STAT_LOST_STRAND Reg.PRB_STAT_LOST _ _ _ (by decide) (by decide),
      State.rd_wr_apart _ Reg.PRB_STAT_LOST_SRC Reg.PRB_STAT_LOST _ _ _ (by decide) (by decide)]
  · rw [State.rd_wr_apart _ Reg.PRB_STAT_LOST_STRAND Reg.PRB_STAT_LOST_SRC _ _ _ (by decide) (by decide),
      State.rd_wr_same _ _ _ _ (by decide)]
    rfl
  · rw [State.rd_wr_same _ _ _ _ (by decide)]
    rfl

/-- The loss is told: noted in its port, in the log and, for a strand of the safety function, by its source. -/
def State.lostTold (p i src n num : Nat) (s : State) : State :=
  let s := (s.setPort p { s.port p with lostAt := if n = 4 then some num else none }).logNow 0x22 1 p i src 0
  if s.strandMasked i then s.source 10 else s

theorem State.lostTold_frame (s : State) (p i src n num : Nat) : s.LostOf p (s.lostTold p i src n num)
    ∧ ∀ a, outsideLog a → (s.lostTold p i src n num).reg a = s.reg a := by
  unfold State.lostTold
  generalize hu : s.setPort p { s.port p with lostAt := if n = 4 then some num else none } = u
  have hlog := u.logged_logBy 0 0x22 1 p i src 0
  have hport : u.port p = { s.port p with lostAt := if n = 4 then some num else none } := hu ▸ s.setPort_same ..
  have hregs : u.regs = s.regs := by rw [← hu, State.setPort_regs]
  have hstrands : u.strands = s.strands := by rw [← hu, State.setPort_strands]
  have hbins : u.bins = s.bins := by rw [← hu, State.setPort_bins]
  have hreg (a : Nat) (ha : outsideLog a) : (u.logNow 0x22 1 p i src 0).reg a = s.reg a :=
    (hlog.reg ha).trans (State.reg_of_regs hregs a)
  have hframe : s.LostOf p (u.logNow 0x22 1 p i src 0) := by
    obtain ⟨regs, raised, log, free, sub, heq, -⟩ := hlog
    have heq : u.logNow 0x22 1 p i src 0 = { u with regs := regs, raised := raised, log := log, free := free, sub := sub } := heq
    refine ⟨?_, ?_, ⟨if n = 4 then some num else none, ?_⟩, fun a ha _ => hreg a ha⟩
    · rw [heq]; exact hstrands
    · rw [heq]; exact hbins
    · rw [heq]; exact hport
  dsimp only
  revert hreg hframe
  generalize u.logNow 0x22 1 p i src 0 = v
  intro hreg hframe
  split
  · exact ⟨⟨hframe.strands, hframe.bins, hframe.port, hframe.reg⟩, hreg⟩
  · exact ⟨hframe, hreg⟩

theorem State.LostOf.trans {p : Nat} {s t u : State} (h : s.LostOf p t) (k : t.LostOf p u) : s.LostOf p u := by
  obtain ⟨x, hx⟩ := h.port
  obtain ⟨y, hy⟩ := k.port
  exact ⟨k.strands.trans h.strands, k.bins.trans h.bins, ⟨y, by rw [hy, hx]⟩,
    fun a ha hp => (k.reg a ha hp).trans (h.reg a ha hp)⟩

theorem State.probeLost_eq (s : State) (p i src n : Nat) : s.probeLost p i src n =
    if s.on Reg.PRB_STAT_LOST p then
      if n = 4 && (s.port p).lostAt = some (s.rd Reg.PRB_LAUNCHES_N p) && s.rd Reg.PRB_STAT_LOST_SRC p != src then
        s.wr Reg.PRB_STAT_LOST_SRC p 3 else s
    else (s.lostFlag p i src).lostTold p i src n (s.rd Reg.PRB_LAUNCHES_N p) := by
  unfold State.probeLost
  rfl

/-- PROBE_LOST is set, and where it was not, its source and strand are those given. -/
theorem State.probeLost_frame (s : State) (p i src n : Nat) : s.LostOf p (s.probeLost p i src n)
    ∧ (s.probeLost p i src n).on Reg.PRB_STAT_LOST p = true
    ∧ (s.on Reg.PRB_STAT_LOST p = false → (s.probeLost p i src n).rd Reg.PRB_STAT_LOST_SRC p = src % 4
        ∧ (s.probeLost p i src n).rd Reg.PRB_STAT_LOST_STRAND p = i % 64) := by
  rw [State.probeLost_eq]
  by_cases hlost : s.on Reg.PRB_STAT_LOST p = true
  · rw [if_pos hlost]
    refine ⟨?_, ?_, fun h => absurd (hlost.symm.trans h) (by decide)⟩
    · split
      · exact .of_regs (s.wr_strands ..) (s.wr_bins ..) (s.wr_ports ..) fun a ha => s.reg_wr_other Reg.PRB_STAT_LOST_SRC p 3 ha
      · exact .of_regs rfl rfl rfl fun _ _ => rfl
    · split
      · simp only [State.on] at hlost ⊢
        rwa [State.rd_wr_apart _ Reg.PRB_STAT_LOST_SRC Reg.PRB_STAT_LOST _ _ _ (by decide) (by decide)]
      · exact hlost
  · rw [if_neg hlost]
    obtain ⟨hflag, hon, hsrc, hstrand⟩ := s.lostFlag_frame p i src
    generalize s.lostFlag p i src = t at *
    obtain ⟨htold, hreg⟩ := t.lostTold_frame p i src n (s.rd Reg.PRB_LAUNCHES_N p)
    have hreg := hreg _ (prbStat_outsideLog p)
    exact ⟨hflag.trans htold, (State.on_of_reg hreg).trans hon,
      fun _ => ⟨(congrArg Reg.PRB_STAT_LOST_SRC.read hreg).trans hsrc, (congrArg Reg.PRB_STAT_LOST_STRAND.read hreg).trans hstrand⟩⟩

/-! ### The presence level (R130 to R132) -/

/-- The lower edge a level is judged by: the floor, or half the learned level when that is more. -/
def lowerEdge (floor : Rat) (learned : Option Rat) : Rat :=
  match learned with
  | some l => max floor (l / 2)
  | none => floor

/-- A shot's mean level. -/
def Shot.level (sh : Shot) : Rat := if sh.presCount = 0 then 0 else sh.presSum / (sh.presCount : Rat)

/-- The lower edge of strand `i` for a shot of type `ty`. -/
def State.presEdge (s : State) (i ty : Nat) : Rat :=
  lowerEdge (s.rd Reg.PRB_PRES_FLOOR_FLOOR (s.strand i).perPort : Rat) (nth (s.strand i).learned ty none)

/-- A judged shot is noted in its strand, a level above the band in PRB_STAT. -/
def State.presJudged (i : Nat) (sh : Shot) (s : State) : State :=
  let rt := s.strand i
  let high : Bool := match nth rt.learned sh.ty none with
    | some l => decide (2 * l < sh.level)
    | none => false
  let miss : Bool := decide (sh.level < s.presEdge i sh.ty)
  let stack := if !sh.folded || sh.ref then rt.stack else rt.stack.map fun k =>
    let l := nth k.levels sh.ty (0, 0)
    { k with levels := k.levels.set sh.ty (l.1 + sh.level, l.2 + 1), missed := k.missed || miss }
  (if high then s.raise Reg.PRB_STAT_HIGH rt.perPort else s).setStrand i
    { rt with shot := some { sh with presSeen := true }, stack := stack, miss := if miss then rt.miss + 1 else 0,
              lastLevel := rt.lastLevel.set sh.ty sh.level }

/-- A shot that is due is judged. -/
theorem State.presence_due {s : State} {i : Nat} {sh : Shot} (hsh : (s.strand i).shot = some sh) (hseen : sh.presSeen = false)
    (hrun : s.runs i = true) (hon : s.presOn (s.strand i).perPort = true)
    (hdue : sh.launch + s.strandL i + (s.rd Reg.PRB_PRES_PBIN (s.strand i).perPort + 256) * s.strandD i + 32 ≤ s.tick) :
    s.presence i =
      let n := if decide (sh.level < s.presEdge i sh.ty) = true then (s.strand i).miss + 1 else 0
      if 4 ≤ n then (s.presJudged i sh).probeLost (s.strand i).perPort i 1 n else s.presJudged i sh := by
  have hcond : ¬ (sh.presSeen || decide (s.tick < sh.launch + s.strandL i
      + (s.rd Reg.PRB_PRES_PBIN (s.strand i).perPort + 256) * s.strandD i + 32) || !s.presOn (s.strand i).perPort
      || !s.runs i) = true := by
    simp [hseen, hrun, hon]
    omega
  unfold State.presence
  dsimp only
  rw [hsh]
  dsimp only
  rw [if_neg hcond]
  rfl

theorem State.presJudged_frame (s : State) (i : Nat) (sh : Shot) :
    ((s.presJudged i sh).strand i).miss = (if sh.level < s.presEdge i sh.ty then (s.strand i).miss + 1 else 0)
      ∧ ((s.presJudged i sh).strand i).shot = some { sh with presSeen := true }
      ∧ (s.presJudged i sh).on Reg.PRB_STAT_LOST (s.strand i).perPort = s.on Reg.PRB_STAT_LOST (s.strand i).perPort
      ∧ (∀ a, a ≠ Reg.PRB_STAT_LOST.addr (s.strand i).perPort → (s.presJudged i sh).reg a = s.reg a)
      ∧ (s.presJudged i sh).bins = s.bins := by
  unfold State.presJudged
  dsimp only
  generalize (match nth (s.strand i).learned sh.ty none with
    | some l => decide (2 * l < sh.level)
    | none => false) = high
  rw [State.setStrand_same]
  refine ⟨by simp only [decide_eq_true_eq], rfl, ?_⟩
  cases high
  · exact ⟨State.on_of_reg rfl, fun _ _ => rfl, rfl⟩
  · rw [if_pos rfl]
    have hon := s.on_raise_apart Reg.PRB_STAT_HIGH Reg.PRB_STAT_LOST (s.strand i).perPort (s.strand i).perPort (by decide) (by decide)
    have hreg (a : Nat) (ha : a ≠ Reg.PRB_STAT_HIGH.addr (s.strand i).perPort) := s.reg_raise_other Reg.PRB_STAT_HIGH _ ha
    have hbins := s.raise_bins Reg.PRB_STAT_HIGH (s.strand i).perPort
    generalize s.raise Reg.PRB_STAT_HIGH (s.strand i).perPort = t at *
    exact ⟨(State.on_of_reg rfl).trans hon, hreg, hbins⟩

theorem strandStat_ne_prbStat (i p : Nat) : Reg.STRAND_STAT_STATE.addr i ≠ Reg.PRB_STAT_LOST.addr p := by
  simp only [Field.addr, Reg.STRAND_STAT_STATE, Reg.PRB_STAT_LOST]
  omega

theorem strandStat_outsideLog (i : Nat) : outsideLog (Reg.STRAND_STAT_STATE.addr i) := by
  refine .inr ?_
  simp only [Field.addr, Reg.STRAND_STAT_STATE]
  omega

theorem State.presence_clause {s : State} {i : StrandId} {sh : Shot} (hsh : (s.strand i).shot = some sh)
    (hseen : sh.presSeen = false) (hrun : s.runs i = true) (hon : s.presOn (s.strand i).perPort = true)
    (hdue : sh.launch + s.strandL i + (s.rd Reg.PRB_PRES_PBIN (s.strand i).perPort + 256) * s.strandD i + 32 ≤ s.tick) :
    let p := (s.strand i).perPort
    let t := s.presence i
    (t.strand i).miss = (if sh.level < s.presEdge i sh.ty then (s.strand i).miss + 1 else 0)
      ∧ (∃ sh', (t.strand i).shot = some sh' ∧ sh'.presSeen = true)
      ∧ (sh.level < s.presEdge i sh.ty → 3 ≤ (s.strand i).miss → t.on Reg.PRB_STAT_LOST p = true
          ∧ (s.on Reg.PRB_STAT_LOST p = false → t.rd Reg.PRB_STAT_LOST_SRC p = 1 ∧ t.rd Reg.PRB_STAT_LOST_STRAND p = i))
      ∧ (s.presEdge i sh.ty ≤ sh.level → t.on Reg.PRB_STAT_LOST p = s.on Reg.PRB_STAT_LOST p)
      ∧ t.sstate i = s.sstate i ∧ t.bins = s.bins := by
  dsimp only
  rw [State.presence_due hsh hseen hrun hon hdue]
  simp only [decide_eq_true_eq]
  obtain ⟨hmiss, hshot, hlost, hreg, hbins⟩ := s.presJudged_frame i sh
  generalize s.presJudged i sh = u at *
  have hstate : u.sstate i = s.sstate i := congrArg Reg.STRAND_STAT_STATE.read (hreg _ (strandStat_ne_prbStat _ _))
  by_cases hn : 4 ≤ (if sh.level < s.presEdge i sh.ty then (s.strand i).miss + 1 else 0)
  · rw [if_pos hn]
    have hlt : sh.level < s.presEdge i sh.ty := by
      by_contra h
      rw [if_neg h] at hn
      omega
    obtain ⟨hframe, hset, hwas⟩ := u.probeLost_frame (s.strand i).perPort i 1
      (if sh.level < s.presEdge i sh.ty then (s.strand i).miss + 1 else 0)
    generalize u.probeLost (s.strand i).perPort i 1 _ = t at *
    have hstrand := State.strand_of_strands hframe.strands i
    refine ⟨hstrand ▸ hmiss, ⟨_, hstrand ▸ hshot, rfl⟩, fun _ _ => ⟨hset, fun h => ?_⟩, fun h => absurd hlt (not_lt.mpr h), ?_,
      hframe.bins.trans hbins⟩
    · obtain ⟨hsrc, hstr⟩ := hwas (hlost.trans h)
      exact ⟨hsrc, hstr.trans (Nat.mod_eq_of_lt i.isLt)⟩
    · exact (congrArg Reg.STRAND_STAT_STATE.read (hframe.reg _ (strandStat_outsideLog i) (strandStat_ne_prbStat _ _))).trans hstate
  · rw [if_neg hn]
    refine ⟨hmiss, ⟨_, hshot, rfl⟩, fun hlt h3 => absurd (by rw [if_pos hlt]; omega) hn, fun _ => hlost, hstate, hbins⟩

/-! ### The monitor energy (R133, R134) -/

/-- The energy of a launch over its base. -/
def PortRt.energy (r : PortRt) : Rat :=
  let base : Rat := if r.monBaseCount = 0 then 0 else r.monBase / (r.monBaseCount : Rat)
  if r.monReady then max 0 (r.monSum - base * (r.monCount : Rat)) else 0

/-- The lower edge of port `p` for its shot. -/
def State.monEdge (s : State) (p : Nat) : Rat :=
  lowerEdge (s.rd Reg.PRB_MON_FLOOR_FLOOR p : Rat) (nth (s.port p).monLearned (s.port p).ty none)

/-- A port whose launch is judged. -/
def PortRt.monJudged (r : PortRt) (miss : Bool) : PortRt :=
  let b := nth r.monBlock r.ty (0, 0)
  let bad := nth r.monBlockMiss r.ty false || miss
  let full := b.1 + 1 = 1024
  { r with monSeen := true, monMiss := if miss then r.monMiss + 1 else 0,
           monBlock := r.monBlock.set r.ty (if full then (0, 0) else (b.1 + 1, b.2 + r.energy)),
           monBlockMiss := r.monBlockMiss.set r.ty (if full then false else bad),
           monLearned := if full && !bad then r.monLearned.set r.ty (some ((b.2 + r.energy) / 1024))
             else r.monLearned }

/-- A launch is judged: the port's own state, and PROBE_LOST at the fourth miss. -/
theorem monitorEnergyEval_due {s : State} {p : PortId} {e : Nat} (he : (s.port p).monEnd = some e)
    (hseen : (s.port p).monSeen = false) (hdue : e + 33 ≤ s.tick) (hon : s.monOn p = true) :
    ∃ r : PortRt, r.monSeen = true
      ∧ r.monMiss = (if decide ((s.port p).energy < s.monEdge p) = true then (s.port p).monMiss + 1 else 0)
      ∧ exec (.monitorEnergyEval p) s = .next
        (if 4 ≤ r.monMiss then (s.setPort p r).probeLost p ((least (s.port p).strands).getD 0) 2 r.monMiss
          else s.setPort p r) := by
  have hcond : ¬ ((s.port p).monSeen || decide (s.tick < e + 33) || !s.monOn p) = true := by
    simp [hseen, hon]
    omega
  rw [exec_monitorEnergyEval, execMonitorEnergyEval]
  dsimp only
  rw [he]
  dsimp only
  rw [if_neg hcond, ← he]
  exact ⟨(s.port p).monJudged (decide ((s.port p).energy < s.monEdge p)), rfl, rfl, rfl⟩

/-- Settles O34. -/
theorem lightChecks : Obligations.LightChecks := by
  unfold Obligations.LightChecks
  refine ⟨fun i s sh hsh hseen hrun hon hdue => ⟨_, exec_presenceEval .., State.presence_clause hsh hseen hrun hon hdue⟩,
    fun i s h => ?_, fun p s e he hseen hdue hon => ?_, fun p s h => ?_⟩
  · rw [exec_presenceEval, execPresenceEval]
    unfold State.presence
    dsimp only
    rcases h with h | ⟨sh, h, hseen⟩
    · rw [h]
    · rw [h]
      exact congrArg Host.Outcome.next (if_pos (by simp [hseen]))
  · obtain ⟨r, hrseen, hrmiss, hexec⟩ := monitorEnergyEval_due he hseen hdue hon
    simp only [decide_eq_true_eq] at hrmiss
    refine ⟨_, hexec, ?_⟩
    change _ ∧ _ = (if (s.port p).energy < s.monEdge p then _ else _) ∧ ((s.port p).energy < s.monEdge p → _)
      ∧ (s.monEdge p ≤ (s.port p).energy → _)
    have hport : (s.setPort p r).port p = r := s.setPort_same ..
    have hlost : (s.setPort p r).on Reg.PRB_STAT_LOST p = s.on Reg.PRB_STAT_LOST p := State.on_of_reg rfl
    by_cases hn : 4 ≤ r.monMiss
    · rw [if_pos hn]
      have hlt : (s.port p).energy < s.monEdge p := by
        by_contra h
        rw [if_neg h] at hrmiss
        omega
      obtain ⟨hframe, hset, hwas⟩ := (s.setPort p r).probeLost_frame p ((least (s.port p).strands).getD 0) 2 r.monMiss
      generalize (s.setPort p r).probeLost p _ 2 _ = t at *
      obtain ⟨at_, hat⟩ := hframe.port
      rw [hport] at hat
      refine ⟨?_, ?_, fun _ _ => ⟨hset, fun h => (hwas (hlost.trans h)).1⟩, fun h => absurd hlt (not_lt.mpr h)⟩
      · rw [hat]; exact hrseen
      · rw [hat]; exact hrmiss
    · rw [if_neg hn, hport]
      refine ⟨hrseen, hrmiss, fun hlt h3 => ?_, fun _ => rfl⟩
      rw [if_pos hlt] at hrmiss
      omega
  · rw [exec_monitorEnergyEval, execMonitorEnergyEval]
    dsimp only
    rcases h with h | h
    · rw [h]
    · split
      · rfl
      · exact congrArg Host.Outcome.next (if_pos (by simp [h]))

end Sys2Proof.Machine
end
-- ==== Sys2Proof/Proofs/RangeEvaluation.lean ====
section
/-! The range evaluation of a closed stack and the range tracker (R76, R77). -/

namespace Sys2Proof.Machine

/-! ### Flags of a word -/

theorem flagWord_append (l m : List (Bool × Nat)) : flagWord (l ++ m) = flagWord l + flagWord m := by
  induction l with
  | nil => simp [flagWord]
  | cons x l ih =>
    obtain ⟨b, k⟩ := x
    rw [List.cons_append, flagWord, flagWord, ih, Nat.add_assoc]

/-- The flags of the first `n` bights as a word. -/
def bightFlags (f : Nat → Bool) (n : Nat) : Nat := flagWord ((List.range n).map fun k => (f k, k))

theorem bightFlags_succ (f : Nat → Bool) (n : Nat) : bightFlags f (n + 1) = bightFlags f n + if f n then 2 ^ n else 0 := by
  simp [bightFlags, List.range_succ, flagWord_append, flagWord]

theorem bightFlags_lt (f : Nat → Bool) (n : Nat) : bightFlags f n < 2 ^ n := by
  induction n with
  | zero => simp [bightFlags, flagWord]
  | succ n ih =>
    rw [bightFlags_succ, pow_succ]
    split <;> omega

theorem testBit_bightFlags (f : Nat → Bool) {n k : Nat} (hk : k < n) : (bightFlags f n).testBit k = f k := by
  induction n with
  | zero => omega
  | succ n ih =>
    have hlt := bightFlags_lt f n
    rw [bightFlags_succ]
    by_cases hkn : k = n
    · subst hkn
      cases hf : f k
      · rw [if_neg Bool.false_ne_true, Nat.add_zero]
        exact Nat.testBit_lt_two_pow hlt
      · rw [if_pos rfl, Nat.add_comm, Nat.testBit_two_pow_add_eq, Nat.testBit_lt_two_pow hlt]
        rfl
    · have hlt' : k < n := by omega
      rw [← ih hlt']
      split
      · rw [Nat.add_comm, Nat.testBit_two_pow_add_gt hlt']
      · rw [Nat.add_zero]

theorem State.bit_eq_testBit (s : State) (f : Field) (i k : Nat) : s.bit f i k = (s.rd f i).testBit k := by
  rw [State.bit, Nat.testBit_eq_decide_div_mod_eq]

/-! ### The tracker (R77) -/

/-- The tracker moves one bight's gain under FC_PLAN_RT `w`. -/
def State.trackOne (ch : Nat) (w : Word) (ovl ur : Nat → Bool) (a : State × Bool) (k : Nat) : State × Bool :=
  let (s, chg) := a
  let c := s.chan ch
  let g := gainCode (s.rd (Reg.FC_GAIN_GAIN k) ch)
  let (g', u, lim) := trackBight (gainCode (Reg.FC_PLAN_RT_GMIN.read w)) (gainCode (Reg.FC_PLAN_RT_GMAX.read w))
    (Reg.FC_PLAN_RT_OV_STEP.read w) (Reg.FC_PLAN_RT_UR_M.read w) g (nth c.urRun k 0) (ovl k) (ur k)
  let s := s.setChan ch { c with urRun := c.urRun.set k u }
  let s := if g' = g then s else s.wr (Reg.FC_GAIN_GAIN k) ch g'
  (if lim then s.raise Reg.FC_STAT_RANGE_LIMIT ch else s, chg || g' != g)

/-- The gain a bight's code moves to, as it acts. -/
def State.tracked (s : State) (ch : Nat) (w : Word) (ovl ur : Nat → Bool) (k : Nat) : Nat :=
  (trackBight (gainCode (Reg.FC_PLAN_RT_GMIN.read w)) (gainCode (Reg.FC_PLAN_RT_GMAX.read w))
    (Reg.FC_PLAN_RT_OV_STEP.read w) (Reg.FC_PLAN_RT_UR_M.read w) (gainCode (s.rd (Reg.FC_GAIN_GAIN k) ch))
    (nth (s.chan ch).urRun k 0) (ovl k) (ur k)).1

theorem trackBight_le {gmin gmax step urm g ur : Nat} {ovl under : Bool} (hg : g ≤ 12) (hmax : gmax ≤ 12) :
    (trackBight gmin gmax step urm g ur ovl under).1 ≤ 12 := by
  unfold trackBight
  split_ifs <;> dsimp only <;> omega

/-- `t` is `s` after the tracker has moved the first `n` bights. -/
structure State.Tracked (ch : Nat) (w : Word) (ovl ur : Nat → Bool) (s t : State) (n : Nat) : Prop where
  moved : ∀ k, k < n → gainCode (t.rd (Reg.FC_GAIN_GAIN k) ch) = s.tracked ch w ovl ur k
  gain : ∀ k, n ≤ k → k < 8 → t.rd (Reg.FC_GAIN_GAIN k) ch = s.rd (Reg.FC_GAIN_GAIN k) ch
  run : ∀ k, n ≤ k → nth (t.chan ch).urRun k 0 = nth (s.chan ch).urRun k 0
  ovl : t.rd Reg.FC_STAT_OVL ch = s.rd Reg.FC_STAT_OVL ch
  ur : t.rd Reg.FC_STAT_UR ch = s.rd Reg.FC_STAT_UR ch
  due : (t.chan ch).evalDue = (s.chan ch).evalDue

theorem gainField_fits {k : Nat} (hk : k < 8) : (Reg.FC_GAIN_GAIN k).fits = true := by
  have h : 4 * k ≤ 4 * k + 3 ∧ 4 * k + 3 < 32 := by omega
  rw [Field.fits, Bool.and_eq_true, decide_eq_true_eq, decide_eq_true_eq]
  exact h

theorem gainField_apart {j k : Nat} (h : j ≠ k) : (Reg.FC_GAIN_GAIN j).apart (Reg.FC_GAIN_GAIN k) = true := by
  have h : 4 * j + 3 < 4 * k ∨ 4 * k + 3 < 4 * j := by omega
  rw [Field.apart, Bool.or_eq_true, decide_eq_true_eq, decide_eq_true_eq]
  exact h

theorem gainField_addr_ne (j k ch : Nat) : (Reg.FC_GAIN_GAIN j).addr ch ≠ Reg.FC_STAT_OVL.addr ch := by
  simp [Field.addr, Reg.FC_GAIN_GAIN, Reg.FC_STAT_OVL]

/-- What the tracker writes for one bight: its count of under-range stacks, its gain, the limit flag. -/
def State.setBight (ch k g u : Nat) (same lim : Bool) (s : State) : State :=
  let s := s.setChan ch { s.chan ch with urRun := (s.chan ch).urRun.set k u }
  let s := if same then s else s.wr (Reg.FC_GAIN_GAIN k) ch g
  if lim then s.raise Reg.FC_STAT_RANGE_LIMIT ch else s

theorem State.setBight_frame (s : State) (ch : Nat) {k : Nat} (g u : Nat) (same lim : Bool) (hk : k < 8) :
    (s.setBight ch k g u same lim).rd (Reg.FC_GAIN_GAIN k) ch = (if same then s.rd (Reg.FC_GAIN_GAIN k) ch else g % 16)
      ∧ (∀ j, j ≠ k → (s.setBight ch k g u same lim).rd (Reg.FC_GAIN_GAIN j) ch = s.rd (Reg.FC_GAIN_GAIN j) ch)
      ∧ (∀ j, j ≠ k → nth ((s.setBight ch k g u same lim).chan ch).urRun j 0 = nth (s.chan ch).urRun j 0)
      ∧ (s.setBight ch k g u same lim).rd Reg.FC_STAT_OVL ch = s.rd Reg.FC_STAT_OVL ch
      ∧ (s.setBight ch k g u same lim).rd Reg.FC_STAT_UR ch = s.rd Reg.FC_STAT_UR ch
      ∧ ((s.setBight ch k g u same lim).chan ch).evalDue = (s.chan ch).evalDue := by
  unfold State.setBight
  dsimp only
  generalize ht : s.setChan ch { s.chan ch with urRun := (s.chan ch).urRun.set k u } = t
  have hregs : t.regs = s.regs := by rw [← ht, State.setChan_regs]
  have hrun (j : Nat) (hj : j ≠ k) : nth (t.chan ch).urRun j 0 = nth (s.chan ch).urRun j 0 := by
    rw [← ht, State.setChan_same]
    simp [nth, List.getElem?_set_ne hj.symm]
  have hdue : (t.chan ch).evalDue = (s.chan ch).evalDue := by rw [← ht, State.setChan_same]
  have hv : (if same then t else t.wr (Reg.FC_GAIN_GAIN k) ch g).rd (Reg.FC_GAIN_GAIN k) ch
        = (if same then s.rd (Reg.FC_GAIN_GAIN k) ch else g % 16)
      ∧ (∀ j, j ≠ k → (if same then t else t.wr (Reg.FC_GAIN_GAIN k) ch g).rd (Reg.FC_GAIN_GAIN j) ch = s.rd (Reg.FC_GAIN_GAIN j) ch)
      ∧ (∀ f : Field, f.addr ch = Reg.FC_STAT_OVL.addr ch →
        (if same then t else t.wr (Reg.FC_GAIN_GAIN k) ch g).rd f ch = s.rd f ch)
      ∧ (if same then t else t.wr (Reg.FC_GAIN_GAIN k) ch g).chans = t.chans := by
    cases same
    · simp only [Bool.false_eq_true, if_false]
      refine ⟨?_, fun j hj => ?_, fun f hf => ?_, State.wr_chans ..⟩
      · rw [State.rd_wr_same _ _ _ _ (gainField_fits hk)]
        simp [Field.span, Reg.FC_GAIN_GAIN, show 4 * k + 3 + 1 - 4 * k = 4 by omega]
      · rw [State.rd_wr_apart _ _ _ _ _ _ (gainField_fits hk) (gainField_apart hj.symm), State.rd_of_regs hregs]
      · rw [State.rd_wr_addr _ _ _ _ _ _ (by rw [hf]; exact (gainField_addr_ne k 0 ch).symm), State.rd_of_regs hregs]
    · simp only [if_true]
      exact ⟨State.rd_of_regs hregs _ _, fun j _ => State.rd_of_regs hregs _ _, fun f _ => State.rd_of_regs hregs _ _, trivial⟩
  revert hv
  generalize (if same = true then t else t.wr (Reg.FC_GAIN_GAIN k) ch g) = v
  rintro ⟨hgain, hother, hflag, hchans⟩
  have hchan : v.chan ch = t.chan ch := congrArg (fun m => SMap.getD m ch ChanRt.idle) hchans
  have hlim (f : Field) (hf : Reg.FC_STAT_RANGE_LIMIT.apart f = true ∨ f.addr ch ≠ Reg.FC_STAT_RANGE_LIMIT.addr ch) :
      (if lim then v.raise Reg.FC_STAT_RANGE_LIMIT ch else v).rd f ch = v.rd f ch := by
    cases lim
    · rfl
    · rcases hf with hf | hf
      · exact v.rd_wr_apart Reg.FC_STAT_RANGE_LIMIT f ch ch 1 (by decide) hf
      · exact v.rd_wr_addr Reg.FC_STAT_RANGE_LIMIT f ch ch 1 hf
  have hchan' : (if lim then v.raise Reg.FC_STAT_RANGE_LIMIT ch else v).chan ch = t.chan ch := by
    refine Eq.trans ?_ hchan
    cases lim
    · rfl
    · exact congrArg (fun m => SMap.getD m ch ChanRt.idle) (v.raise_chans ..)
  have hne (j : Nat) : (Reg.FC_GAIN_GAIN j).addr ch ≠ Reg.FC_STAT_RANGE_LIMIT.addr ch := gainField_addr_ne j 0 ch
  rw [hlim _ (.inr (hne k)), hlim _ (.inl (by decide)), hlim _ (.inl (by decide)), hchan']
  exact ⟨hgain, fun j hj => (hlim _ (.inr (hne j))).trans (hother j hj), hrun, hflag _ rfl, hflag _ rfl, hdue⟩

theorem State.trackOne_fst (s : State) (chg : Bool) (ch : Nat) (w : Word) (ovl ur : Nat → Bool) (k : Nat) :
    ∃ u lim, (State.trackOne ch w ovl ur (s, chg) k).1 = s.setBight ch k (s.tracked ch w ovl ur k) u
      (decide (s.tracked ch w ovl ur k = gainCode (s.rd (Reg.FC_GAIN_GAIN k) ch))) lim := by
  unfold State.trackOne State.setBight State.tracked
  dsimp only
  generalize trackBight (gainCode (Reg.FC_PLAN_RT_GMIN.read w)) (gainCode (Reg.FC_PLAN_RT_GMAX.read w))
    (Reg.FC_PLAN_RT_OV_STEP.read w) (Reg.FC_PLAN_RT_UR_M.read w) (gainCode (s.rd (Reg.FC_GAIN_GAIN k) ch))
    (nth (s.chan ch).urRun k 0) (ovl k) (ur k) = r
  obtain ⟨g, u, lim⟩ := r
  refine ⟨u, lim, ?_⟩
  dsimp only
  by_cases hsame : g = gainCode (s.rd (Reg.FC_GAIN_GAIN k) ch)
  · rw [if_pos hsame, decide_eq_true hsame, if_pos rfl]
  · rw [if_neg hsame, decide_eq_false hsame, if_neg Bool.false_ne_true]

/-- Bight `n` moved after the bights before it. -/
theorem State.Tracked.succ {ch : Nat} {w : Word} {ovl ur : Nat → Bool} {s t : State} {n : Nat} (h : s.Tracked ch w ovl ur t n)
    (hn : n < 8) (chg : Bool) : s.Tracked ch w ovl ur (State.trackOne ch w ovl ur (t, chg) n).1 (n + 1) := by
  obtain ⟨u, lim, heq⟩ := t.trackOne_fst chg ch w ovl ur n
  have hrd := h.gain n (le_refl n) hn
  have hmoved : t.tracked ch w ovl ur n = s.tracked ch w ovl ur n := by
    simp only [State.tracked, hrd, h.run n (le_refl n)]
  have hle : s.tracked ch w ovl ur n ≤ 12 := trackBight_le (Nat.min_le_right _ _) (Nat.min_le_right _ _)
  rw [heq, hmoved, hrd]
  obtain ⟨hgain, hother, hrun, hovl, hur, hdue⟩ := t.setBight_frame ch (s.tracked ch w ovl ur n) u
    (decide (s.tracked ch w ovl ur n = gainCode (s.rd (Reg.FC_GAIN_GAIN n) ch))) lim hn
  refine ⟨fun k hk => ?_, fun k hk hk8 => (hother k (by omega)).trans (h.gain k (by omega) hk8),
    fun k hk => (hrun k (by omega)).trans (h.run k (by omega)), hovl.trans h.ovl, hur.trans h.ur, hdue.trans h.due⟩
  by_cases hkn : k = n
  · subst hkn
    rw [hgain, hrd]
    by_cases hsame : s.tracked ch w ovl ur k = gainCode (s.rd (Reg.FC_GAIN_GAIN k) ch)
    · rw [decide_eq_true hsame, if_pos rfl, hsame]
    · rw [decide_eq_false hsame, if_neg Bool.false_ne_true, gainCode]
      omega
  · rw [hother k hkn]
    exact h.moved k (by omega)

/-- The tracker moves the bights in turn. -/
theorem State.tracked_foldl (s : State) (ch : Nat) (w : Word) (ovl ur : Nat → Bool) {n : Nat} (hn : n ≤ 8) :
    s.Tracked ch w ovl ur ((List.range n).foldl (State.trackOne ch w ovl ur) (s, false)).1 n := by
  induction n with
  | zero => exact ⟨fun _ hk => absurd hk (by omega), fun _ _ _ => rfl, fun _ _ => rfl, rfl, rfl, rfl⟩
  | succ n ih =>
    rw [List.range_succ, List.foldl_append]
    exact (ih (by omega)).succ (by omega) _

/-- The gain a bight moves to, by the tracker's cases. -/
theorem State.tracked_cases (s : State) (ch : Nat) (w : Word) (ovl ur : Nat → Bool) (k : Nat) :
    let g := min 12 (s.rd (Reg.FC_GAIN_GAIN k) ch)
    let gmin := min 12 (Reg.FC_PLAN_RT_GMIN.read w)
    let gmax := min 12 (Reg.FC_PLAN_RT_GMAX.read w)
    (ovl k = true → s.tracked ch w ovl ur k = if gmin < g then max gmin (g - (Reg.FC_PLAN_RT_OV_STEP.read w + 1)) else g)
      ∧ (ovl k = false → ur k = true → s.tracked ch w ovl ur k
        = if max 1 (Reg.FC_PLAN_RT_UR_M.read w) ≤ nth (s.chan ch).urRun k 0 + 1 ∧ g < gmax then g + 1 else g)
      ∧ (ovl k = false → ur k = false → s.tracked ch w ovl ur k = g) := by
  dsimp only
  simp only [State.tracked, gainCode, Nat.min_comm _ 12]
  unfold trackBight
  refine ⟨fun ho => ?_, fun ho hu => ?_, fun ho hu => ?_⟩
  · rw [if_pos ho]
    split <;> rfl
  · rw [ho, hu, if_neg Bool.false_ne_true, if_pos rfl]
    by_cases hm : max 1 (Reg.FC_PLAN_RT_UR_M.read w) ≤ nth (s.chan ch).urRun k 0 + 1
    · by_cases hg : min 12 (s.rd (Reg.FC_GAIN_GAIN k) ch) < min 12 (Reg.FC_PLAN_RT_GMAX.read w)
      · rw [if_pos hm, if_pos hg, if_pos ⟨hm, hg⟩]
      · rw [if_pos hm, if_neg hg, if_neg fun h => hg h.2]
    · rw [if_neg hm, if_neg fun h => hm h.1]
  · rw [ho, hu, if_neg Bool.false_ne_true, if_neg Bool.false_ne_true]

/-! ### The obligation -/

/-- The figures of a closed stack are written, and nothing is due any more. -/
def State.figures (ch nb : Nat) (ovl ur : Nat → Bool) (s : State) : State :=
  let t := (s.wr Reg.FC_STAT_OVL ch (bightFlags ovl nb)).wr Reg.FC_STAT_UR ch (bightFlags ur nb)
  t.setChan ch { s.chan ch with evalDue := none }

theorem State.figures_frame (s : State) (ch : Nat) {nb : Nat} (ovl ur : Nat → Bool) (hnb : nb ≤ 8) :
    (s.figures ch nb ovl ur).rd Reg.FC_STAT_OVL ch = bightFlags ovl nb
      ∧ (s.figures ch nb ovl ur).rd Reg.FC_STAT_UR ch = bightFlags ur nb
      ∧ ((s.figures ch nb ovl ur).chan ch) = { s.chan ch with evalDue := none }
      ∧ ∀ a, a ≠ Reg.FC_STAT_OVL.addr ch → (s.figures ch nb ovl ur).reg a = s.reg a := by
  have hlt (f : Nat → Bool) : bightFlags f nb % 256 = bightFlags f nb :=
    Nat.mod_eq_of_lt ((bightFlags_lt f nb).trans_le (Nat.pow_le_pow_right (by decide) hnb))
  have hovl : ((s.wr Reg.FC_STAT_OVL ch (bightFlags ovl nb)).wr Reg.FC_STAT_UR ch (bightFlags ur nb)).rd Reg.FC_STAT_OVL ch
      = bightFlags ovl nb := by
    rw [State.rd_wr_apart _ Reg.FC_STAT_UR Reg.FC_STAT_OVL ch ch _ (by decide) (by decide), State.rd_wr_same _ _ _ _ (by decide)]
    exact hlt ovl
  have hur : ((s.wr Reg.FC_STAT_OVL ch (bightFlags ovl nb)).wr Reg.FC_STAT_UR ch (bightFlags ur nb)).rd Reg.FC_STAT_UR ch
      = bightFlags ur nb := by
    rw [State.rd_wr_same _ _ _ _ (by decide)]
    exact hlt ur
  have hreg (a : Nat) (ha : a ≠ Reg.FC_STAT_OVL.addr ch) :
      ((s.wr Reg.FC_STAT_OVL ch (bightFlags ovl nb)).wr Reg.FC_STAT_UR ch (bightFlags ur nb)).reg a = s.reg a := by
    rw [State.reg_wr_other _ Reg.FC_STAT_UR ch _ ha, State.reg_wr_other _ Reg.FC_STAT_OVL ch _ ha]
  unfold State.figures
  dsimp only
  generalize (s.wr Reg.FC_STAT_OVL ch (bightFlags ovl nb)).wr Reg.FC_STAT_UR ch (bightFlags ur nb) = t at *
  have hregs (x : ChanRt) : (t.setChan ch x).regs = t.regs := t.setChan_regs ch x
  exact ⟨(State.rd_of_regs (hregs _) _ _).trans hovl, (State.rd_of_regs (hregs _) _ _).trans hur, State.setChan_same ..,
    fun a ha => (State.reg_of_regs (hregs _) a).trans (hreg a ha)⟩

/-- The state before a count of tracker changes, and that count. -/
theorem State.rtChg_frame (s : State) (ch : Nat) (chg : Bool) :
    (∀ k, (if chg then s.count Reg.FC_STAT_RT_CHG ch 1 else s).rd (Reg.FC_GAIN_GAIN k) ch = s.rd (Reg.FC_GAIN_GAIN k) ch)
      ∧ (if chg then s.count Reg.FC_STAT_RT_CHG ch 1 else s).rd Reg.FC_STAT_OVL ch = s.rd Reg.FC_STAT_OVL ch
      ∧ (if chg then s.count Reg.FC_STAT_RT_CHG ch 1 else s).rd Reg.FC_STAT_UR ch = s.rd Reg.FC_STAT_UR ch
      ∧ (if chg then s.count Reg.FC_STAT_RT_CHG ch 1 else s).chan ch = s.chan ch := by
  cases chg
  · exact ⟨fun _ => rfl, rfl, rfl, rfl⟩
  · simp only [if_true]
    exact ⟨fun k => s.rd_wr_addr Reg.FC_STAT_RT_CHG _ ch ch _ (gainField_addr_ne k 0 ch),
      s.rd_wr_apart Reg.FC_STAT_RT_CHG Reg.FC_STAT_OVL ch ch _ (by decide) (by decide),
      s.rd_wr_apart Reg.FC_STAT_RT_CHG Reg.FC_STAT_UR ch ch _ (by decide) (by decide),
      congrArg (fun m => SMap.getD m ch ChanRt.idle) (s.wr_chans ..)⟩

/-- A bight overloaded in OV_N shots; a bight that peaked below the threshold (R76). -/
def ChanRt.ovl (c : ChanRt) (w : Word) (k : Nat) : Bool := decide (max 1 (Reg.FC_PLAN_RT_OV_N.read w) ≤ nth c.ovlShots k 0)
def ChanRt.under (c : ChanRt) (w : Word) (k : Nat) : Bool := decide (nth c.peak k 0 < Reg.FC_PLAN_RT_UR_THR.read w * 256)

theorem rangeEvaluation_eq {ch : ChanId} {s : State} {x i : Nat} {w : Word} {plan : Plan} (hdue : (s.chan ch).evalDue = some (x, w))
    (hi : s.strandOf ch = some i) (hp : (s.chan ch).plan = some plan) :
    exec (.rangeEvaluation ch) s = .next
      (let c := s.chan ch
      let t := s.figures ch plan.bights.length (c.ovl w) (c.under w)
      if Reg.FC_PLAN_RT_EN.read w != 1 || t.inSafeStop || (t.isPhase i && t.runs i) then t
      else
        let m := (List.range plan.bights.length).foldl (State.trackOne ch w (c.ovl w) (c.under w)) (t, false)
        if m.2 then m.1.count Reg.FC_STAT_RT_CHG ch 1 else m.1) := by
  rw [exec_rangeEvaluation, execRangeEvaluation]
  dsimp only
  rw [hdue, hi, hp]
  dsimp only
  rw [← hp]
  rfl

/-- Settles O31. -/
theorem rangeEvaluation : Obligations.RangeEvaluation := by
  unfold Obligations.RangeEvaluation
  refine ⟨fun ch s x i w plan hdue hi hp hnb => ?_, fun ch s hdue => ?_⟩
  · have hi64 : i < 64 := State.strandOf_lt hi
    have hexec := rangeEvaluation_eq hdue hi hp
    obtain ⟨hovl, hur, hchan, hreg⟩ := s.figures_frame ch ((s.chan ch).ovl w) ((s.chan ch).under w) hnb
    dsimp only at hexec
    generalize s.figures ch plan.bights.length ((s.chan ch).ovl w) ((s.chan ch).under w) = t at *
    have hgain (k : Nat) : t.rd (Reg.FC_GAIN_GAIN k) ch = s.rd (Reg.FC_GAIN_GAIN k) ch :=
      congrArg (Reg.FC_GAIN_GAIN k).read (hreg _ (gainField_addr_ne k 0 ch))
    have hmode : t.mode = s.mode := congrArg Reg.BOOT_STATE_STATE.read (hreg (Reg.BOOT_STATE_STATE.addr 0)
      (by simp only [Field.addr, Reg.BOOT_STATE_STATE, Reg.FC_STAT_OVL]; omega))
    have hstrand (f : Field) (hf : f.addr i < 0x10000) : t.rd f i = s.rd f i :=
      congrArg f.read (hreg _ (by simp only [Field.addr, Reg.FC_STAT_OVL] at *; omega))
    have hphase : t.isPhase i = s.isPhase i := by
      rw [State.isPhase, State.isPhase, hstrand _ (by simp only [Field.addr, Reg.STRAND_CTRL_MODE]; omega)]
    have hruns : t.runs i = s.runs i := by
      rw [State.runs, State.runs, State.sstate, State.sstate, hstrand _ (by simp only [Field.addr, Reg.STRAND_STAT_STATE]; omega)]
    have hflags (u : State) (ho : u.rd Reg.FC_STAT_OVL ch = t.rd Reg.FC_STAT_OVL ch) (hu : u.rd Reg.FC_STAT_UR ch = t.rd Reg.FC_STAT_UR ch) :
        ∀ k, k < plan.bights.length → (u.bit Reg.FC_STAT_OVL ch k = true ↔ max 1 (Reg.FC_PLAN_RT_OV_N.read w) ≤ nth (s.chan ch).ovlShots k 0)
          ∧ (u.bit Reg.FC_STAT_UR ch k = true ↔ nth (s.chan ch).peak k 0 < Reg.FC_PLAN_RT_UR_THR.read w * 256) := by
      intro k hk
      rw [State.bit_eq_testBit, State.bit_eq_testBit, ho, hu, hovl, hur, testBit_bightFlags _ hk, testBit_bightFlags _ hk,
        ChanRt.ovl, ChanRt.under, decide_eq_true_eq, decide_eq_true_eq]
      exact ⟨Iff.rfl, Iff.rfl⟩
    by_cases htracks : Reg.FC_PLAN_RT_EN.read w = 1 ∧ s.mode ≠ 9 ∧ ¬ (s.isPhase i = true ∧ s.runs i = true)
    · rw [if_neg (by
        simp only [State.inSafeStop, hmode, hphase, hruns, Bool.or_eq_true, bne_iff_ne, ne_eq, decide_eq_true_eq, Bool.and_eq_true]
        tauto)] at hexec
      have hmoved := t.tracked_foldl ch w ((s.chan ch).ovl w) ((s.chan ch).under w) hnb
      generalize (List.range plan.bights.length).foldl (State.trackOne ch w ((s.chan ch).ovl w) ((s.chan ch).under w)) (t, false)
        = m at *
      obtain ⟨hg, ho, hu, hc⟩ := m.1.rtChg_frame ch m.2
      refine ⟨_, hexec, ?_, hflags _ (ho.trans hmoved.ovl) (hu.trans hmoved.ur), fun h => absurd htracks h, fun _ k hk => ?_⟩
      · rw [hc, hmoved.due, hchan]
      · obtain ⟨hcov, hcur, hcsame⟩ := t.tracked_cases ch w ((s.chan ch).ovl w) ((s.chan ch).under w) k
        have hnow := hmoved.moved k hk
        rw [gainCode, ← hg, Nat.min_comm] at hnow
        have hrun : nth (t.chan ch).urRun k 0 = nth (s.chan ch).urRun k 0 := by rw [hchan]
        rw [hrun] at hcur
        dsimp only at hcov hcur hcsame ⊢
        rw [hgain k] at hcov hcur hcsame
        rw [hnow]
        exact ⟨fun h => hcov (decide_eq_true h), fun hn h => hcur (decide_eq_false hn) (decide_eq_true h),
          fun hn hn' => hcsame (decide_eq_false hn) (decide_eq_false hn')⟩
    · rw [if_pos (by
        simp only [State.inSafeStop, hmode, hphase, hruns, Bool.or_eq_true, bne_iff_ne, ne_eq, decide_eq_true_eq, Bool.and_eq_true]
        tauto)] at hexec
      exact ⟨t, hexec, congrArg ChanRt.evalDue hchan, hflags t rfl rfl, fun _ k _ => hgain k, fun h => absurd h htracks⟩
  · rw [exec_rangeEvaluation, execRangeEvaluation]
    dsimp only
    rw [hdue]

end Sys2Proof.Machine
end
-- ==== Sys2Proof/Proofs/WindowMonitors.lean ====
section
/-! Window monitors: start, first decision, strobes (R232 to R240), and the routes of an edge (R242 to R249). -/

namespace Sys2Proof.Machine

/-! ### One bit of a field -/

/-- A value with bit `k` put to `b`, bit by bit. -/
theorem testBit_putBit (v k : Nat) (b : Bool) (j : Nat) :
    (if b then v - v / 2 ^ k % 2 * 2 ^ k + 2 ^ k else v - v / 2 ^ k % 2 * 2 ^ k).testBit j
      = if j = k then b else v.testBit j := by
  have hl : v % 2 ^ k < 2 ^ k := Nat.mod_lt _ (Nat.two_pow_pos k)
  have hv : v = 2 ^ k * (2 * (v / 2 ^ k / 2) + v / 2 ^ k % 2) + v % 2 ^ k := by
    rw [Nat.div_add_mod, Nat.div_add_mod]
  have hclear : v - v / 2 ^ k % 2 * 2 ^ k = 2 ^ k * (2 * (v / 2 ^ k / 2)) + v % 2 ^ k := by
    conv_lhs => lhs; rw [hv]
    rw [Nat.mul_add, Nat.mul_comm (v / 2 ^ k % 2)]
    omega
  have hput : (if b then v - v / 2 ^ k % 2 * 2 ^ k + 2 ^ k else v - v / 2 ^ k % 2 * 2 ^ k)
      = 2 ^ k * (2 * (v / 2 ^ k / 2) + b.toNat) + v % 2 ^ k := by
    rw [hclear]
    cases b
    · rfl
    · rw [if_pos rfl, Nat.mul_add]
      change _ = 2 ^ k * (2 * (v / 2 ^ k / 2)) + 2 ^ k * 1 + v % 2 ^ k
      omega
  rw [hput, Nat.testBit_two_pow_mul_add _ hl]
  conv_rhs => rw [hv]
  rw [Nat.testBit_two_pow_mul_add _ hl]
  by_cases hj : j < k
  · rw [if_pos hj, if_neg (Nat.ne_of_lt hj), if_pos hj]
  · rw [if_neg hj, if_neg hj]
    by_cases he : j = k
    · rw [if_pos he, he, Nat.sub_self, Nat.testBit_zero]
      cases b <;> simp
    · rw [if_neg he]
      obtain ⟨d, hd⟩ : ∃ d, j - k = d + 1 := ⟨j - k - 1, by omega⟩
      have half (c : Nat) (h : c < 2) : (2 * (v / 2 ^ k / 2) + c) / 2 = v / 2 ^ k / 2 := by omega
      rw [hd, Nat.testBit_add_one, Nat.testBit_add_one, half _ (by cases b <;> decide), half _ (by omega)]

/-- A bit of the field that `putBit` puts. -/
theorem State.bit_putBit (s : State) (f : Field) (i k : Nat) (b : Bool) (j : Nat) (hf : f.fits = true)
    (hk : k < f.hi + 1 - f.lo) : (s.putBit f i k b).bit f i j = if j = k then b else s.bit f i j := by
  rw [State.bit_eq_testBit, State.bit_eq_testBit, State.putBit, State.rd_wr_same _ _ _ _ hf, Field.span, Nat.testBit_mod_two_pow]
  have hv := testBit_putBit (s.rd f i) k b j
  by_cases hj : j < f.hi + 1 - f.lo
  · rw [decide_eq_true hj, Bool.true_and]
    exact hv
  · have hlt : s.rd f i < 2 ^ j := lt_of_lt_of_le (s.rd_lt f i) (Nat.pow_le_pow_right (by decide) (by omega))
    rw [decide_eq_false hj, Bool.false_and, if_neg (by omega), Nat.testBit_lt_two_pow hlt]

theorem State.bit_raiseBit (s : State) (f : Field) (i k j : Nat) (hf : f.fits = true)
    (hk : k < f.hi + 1 - f.lo) : (s.raiseBit f i k).bit f i j = (s.bit f i j || decide (j = k)) := by
  refine (s.bit_putBit f i k true j hf hk).trans ?_
  by_cases h : j = k <;> simp [h]

theorem State.reg_putBit_other (s : State) (f : Field) (i k : Nat) (b : Bool) {a : Nat} (h : a ≠ f.addr i) :
    (s.putBit f i k b).reg a = s.reg a :=
  s.reg_wr_other f i _ h

theorem State.reg_raiseBit_other (s : State) (f : Field) (i k : Nat) {a : Nat} (h : a ≠ f.addr i) :
    (s.raiseBit f i k).reg a = s.reg a :=
  s.reg_wr_other f i _ h

theorem State.rd_raiseBit_apart (s : State) (f g : Field) (i j k : Nat) (hf : f.fits = true) (h : f.apart g = true) :
    (s.raiseBit f i k).rd g j = s.rd g j :=
  s.rd_wr_apart f g i j _ hf h

/-- Equal registers read equal fields. -/
theorem State.rd_of_reg {s t : State} {f : Field} {i : Nat} (h : t.reg (f.addr i) = s.reg (f.addr i)) : t.rd f i = s.rd f i :=
  congrArg f.read h

theorem State.bit_of_rd {s t : State} {f : Field} {i : Nat} (h : t.rd f i = s.rd f i) (k : Nat) : t.bit f i k = s.bit f i k := by
  rw [State.bit, State.bit, h]

theorem State.on_of_rd {s t : State} {f : Field} {i : Nat} (h : t.rd f i = s.rd f i) : t.on f i = s.on f i := by
  rw [State.on, State.on, h]

theorem State.mode_of_reg {s t : State} (h : t.reg (Reg.BOOT_STATE_STATE.addr 0) = s.reg (Reg.BOOT_STATE_STATE.addr 0)) :
    t.mode = s.mode :=
  State.rd_of_reg h

theorem State.rd_raise_apart (s : State) (f g : Field) (i j : Nat) (hf : f.fits = true) (h : f.apart g = true) :
    (s.raise f i).rd g j = s.rd g j :=
  s.rd_wr_apart f g i j _ hf h

/-! ### A monitor starts (R239) -/

/-- What a started monitor has in its channel. -/
def ChanRt.started (c : ChanRt) : ChanRt :=
  { c with mon := .first, upper := { c.upper with win := [] }, lower := { c.lower with win := [] }, strobe := none }

theorem monitorStart_starts (ch : ChanId) (s : State) (he : s.on Reg.WMON_CTRL_EN ch = true) (hw : (s.chan ch).mon = .wait)
    (hr : s.monPgaReady ch = true) : exec (.monitorStart ch) s = .next ((((s.setChan ch (s.chan ch).started).wr
      Reg.WMON_STAT_LATCH ch 0).put Reg.WMON_STAT_CAPV ch false).put Reg.WMON_STAT_INIT ch false) := by
  rw [exec_monitorStart, execMonitorStart]
  dsimp only
  rw [he, hw, hr]
  rfl

theorem monitorStart_frame (ch : ChanId) (s : State) : let t := (((s.setChan ch (s.chan ch).started).wr
      Reg.WMON_STAT_LATCH ch 0).put Reg.WMON_STAT_CAPV ch false).put Reg.WMON_STAT_INIT ch false
    (t.chan ch).mon = .first ∧ t.rd Reg.WMON_STAT_LATCH ch = 0
      ∧ t.on Reg.WMON_STAT_CAPV ch = false ∧ t.on Reg.WMON_STAT_INIT ch = false ∧ (∀ d : Nat, d ≠ ch → t.chan d = s.chan d)
      ∧ ∀ a, a ≠ Reg.WMON_STAT_LATCH.addr ch → t.reg a = s.reg a := by
  dsimp only
  generalize hc : s.setChan ch (s.chan ch).started = c
  have hreg (a : Nat) : c.reg a = s.reg a := by rw [← hc, State.setChan_reg]
  refine ⟨?_, ?_, ?_, State.on_put_same _ _ _ _ (by decide), fun d hd => ?_, fun a ha => ?_⟩
  · rw [State.put_chan, State.put_chan, State.wr_chan, ← hc, State.setChan_same]
    rfl
  · rw [State.put, State.put, State.rd_wr_apart _ _ _ _ _ _ (by decide) (by decide),
      State.rd_wr_apart _ _ _ _ _ _ (by decide) (by decide), State.rd_wr_same _ _ _ _ (by decide)]
    rfl
  · rw [State.on_put_apart _ _ _ _ _ _ (by decide) (by decide), State.on_put_same _ _ _ _ (by decide)]
  · rw [State.put_chan, State.put_chan, State.wr_chan, ← hc, State.setChan_other _ _ hd]
  · exact (State.reg_put_other _ Reg.WMON_STAT_INIT ch false ha).trans
      ((State.reg_put_other _ Reg.WMON_STAT_CAPV ch false ha).trans
        ((State.reg_wr_other _ Reg.WMON_STAT_LATCH ch 0 ha).trans (hreg a)))

theorem monitorStart_else (ch : ChanId) (s : State)
    (h : s.on Reg.WMON_CTRL_EN ch = false ∨ (s.chan ch).mon ≠ .wait ∨ s.monPgaReady ch = false) :
    exec (.monitorStart ch) s = .next s := by
  rw [exec_monitorStart, execMonitorStart]
  refine congrArg Host.Outcome.next (if_neg fun hc => ?_)
  simp only [Bool.and_eq_true, decide_eq_true_eq] at hc
  obtain ⟨⟨h1, h2⟩, h3⟩ := hc
  rcases h with h | h | h
  · exact Bool.noConfusion (h.symm.trans h1)
  · exact h h2
  · exact Bool.noConfusion (h.symm.trans h3)

/-! ### The first decision (R240) -/

/-- The decisions of a window that are `true`, counted. -/
theorem ones_eq_count (w : List (Nat × Bool)) : ones w = (w.map (·.2)).count true := by
  rw [ones, List.count_eq_countP, List.countP_map, List.countP_eq_length_filter]
  refine congrArg List.length (List.filter_congr fun x _ => ?_)
  cases hx : x.2 <;> simp [hx]

theorem zeros_eq_count (w : List (Nat × Bool)) : zeros w = (w.map (·.2)).count false := by
  rw [zeros, List.count_eq_countP, List.countP_map, List.countP_eq_length_filter]
  refine congrArg List.length (List.filter_congr fun x _ => ?_)
  cases hx : x.2 <;> simp [hx]

theorem Comparator.first_iff (c : Comparator) (m : Nat) : (c.first m).f = true ↔ m < 2 * (c.win.map (·.2)).count true := by
  rw [Comparator.first, decide_eq_true_eq, ones_eq_count]

theorem State.monFirst_frame (s : State) (ch : Nat) : let t := s.monFirst ch
    (t.chan ch).mon = .on ∧ t.on Reg.WMON_STAT_INIT ch = true
      ∧ (t.chan ch).upper = (s.chan ch).upper.first (s.monM ch) ∧ (t.chan ch).lower = (s.chan ch).lower.first (s.monM ch)
      ∧ (t.chan ch).edges = (s.chan ch).edges ∧ t.rd Reg.WMON_STAT_LATCH ch = s.rd Reg.WMON_STAT_LATCH ch := by
  dsimp only
  unfold State.monFirst
  dsimp only
  refine ⟨?_, State.on_put_same _ _ _ _ (by decide), ?_, ?_, ?_, ?_⟩
  · rw [State.put_chan, State.setChan_same]
  · rw [State.put_chan, State.setChan_same]
  · rw [State.put_chan, State.setChan_same]
  · rw [State.put_chan, State.setChan_same]
  · rw [State.put, State.rd_wr_apart _ _ _ _ _ _ (by decide) (by decide), State.setChan_rd]

theorem monitorFirstDecision_decides (ch : ChanId) (s : State) (he : s.on Reg.WMON_CTRL_EN ch = true)
    (hf : (s.chan ch).mon = .first) (hm : s.rd Reg.WMON_CTRL_MODE ch ≠ 3) (hw : s.monM ch ≤ (s.chan ch).upper.win.length) :
    exec (.monitorFirstDecision ch) s = .next (s.monFirst ch) := by
  rw [exec_monitorFirstDecision, execMonitorFirstDecision]
  dsimp only
  rw [if_neg hm, he, hf, decide_eq_true hw]
  rfl

theorem monitorFirstDecision_else (ch : ChanId) (s : State)
    (h : s.on Reg.WMON_CTRL_EN ch = false ∨ (s.chan ch).mon ≠ .first) : exec (.monitorFirstDecision ch) s = .next s := by
  rw [exec_monitorFirstDecision, execMonitorFirstDecision]
  refine congrArg Host.Outcome.next (if_neg fun hc => ?_)
  simp only [Bool.and_eq_true, decide_eq_true_eq] at hc
  obtain ⟨⟨h1, h2⟩, h3⟩ := hc
  rcases h with h | h
  · exact Bool.noConfusion (h.symm.trans h1)
  · exact h h2

/-! ### Strobes (R232, R236) -/

/-- A channel whose strobe begins at tick `e`. -/
def ChanRt.strobed (c : ChanRt) (e : Nat) : ChanRt :=
  { c with strobe := some e, lastStrobe := some e, upper := { c.upper with win := [] }, lower := { c.lower with win := [] } }

/-- A SAMPLED monitor that may strobe: its amplifier is on (R232). -/
def State.mayStrobe (s : State) (ch : Nat) : Prop :=
  (s.inWatch = true → s.rd Reg.FC_CTRL_PWR ch ≠ 2) ∧ (s.inWatch = false → 2 ≤ s.rd Reg.FC_STAT_PSTATE ch)

theorem State.mayStrobe_on {s : State} {ch : Nat} (h : s.mayStrobe ch) :
    (if s.inWatch then s.rd Reg.FC_CTRL_PWR ch != 2 else s.pgaOn ch) = true := by
  obtain ⟨hw, hn⟩ := h
  cases hi : s.inWatch
  · rw [if_neg Bool.false_ne_true, State.pgaOn, decide_eq_true (hn hi), Bool.true_or]
  · rw [if_pos rfl, bne_iff_ne]
    exact hw hi

theorem monitorStrobeStart_eq (ch : ChanId) (s : State) (t0 : Nat) (he : s.on Reg.WMON_CTRL_EN ch = true)
    (hm : s.rd Reg.WMON_CTRL_MODE ch = 3) (ho : (s.chan ch).mon = .on) (hp : s.mayStrobe ch)
    (hn : (s.chan ch).strobe = none) (hl : (s.chan ch).lastStrobe = some t0) :
    exec (.monitorStrobeStart ch) s
      = .next (if t0 + s.strobePeriod ch ≤ s.tick then s.setChan ch ((s.chan ch).strobed s.tick) else s) := by
  rw [exec_monitorStrobeStart, execMonitorStrobeStart]
  refine congrArg Host.Outcome.next ?_
  dsimp only [ChanRt.strobed]
  rw [State.mayStrobe_on hp, he, hm, ho, hn, hl]
  by_cases hd : t0 + s.strobePeriod ch ≤ s.tick
  · rw [if_pos hd, if_pos (by rw [Option.all_some, decide_eq_true hd]; rfl)]
  · rw [if_neg hd, if_neg (by rw [Option.all_some, decide_eq_false hd]; decide)]

/-- The filter tried on a window: the filtered state after. -/
theorem Comparator.settle_f (c : Comparator) (n : Nat) : (c.settle n).1.f
    = if c.f then !decide (n ≤ (c.win.map (·.2)).count false) else decide (n ≤ (c.win.map (·.2)).count true) := by
  unfold Comparator.settle
  rw [ones_eq_count, zeros_eq_count]
  cases hf : c.f
  · by_cases h : n ≤ (c.win.map (·.2)).count true <;> simp [h, hf]
  · by_cases h : n ≤ (c.win.map (·.2)).count false <;> simp [h, hf]

/-- The filter says that it changed only when it did. -/
theorem Comparator.settle_changed (c : Comparator) (n : Nat) (h : (c.settle n).1.f = c.f) : (c.settle n).2 = false := by
  revert h
  unfold Comparator.settle
  cases hf : c.f
  · by_cases h : n ≤ ones c.win <;> simp [h, hf]
  · by_cases h : n ≤ zeros c.win <;> simp [h, hf]

theorem State.monSettle_frame (s : State) (ch : Nat) (e : Option Nat) (route : Word) : let t := s.monSettle ch e route
    (t.chan ch).strobe = (s.chan ch).strobe ∧ t.regs = s.regs
      ∧ (t.chan ch).upper = ((s.chan ch).upper.settle (s.monN ch)).1 ∧ (t.chan ch).lower = ((s.chan ch).lower.settle (s.monN ch)).1
      ∧ ((t.chan ch).upper.f = (s.chan ch).upper.f → (t.chan ch).lower.f = (s.chan ch).lower.f →
          (t.chan ch).edges = (s.chan ch).edges) := by
  dsimp only
  unfold State.monSettle
  dsimp only
  rw [State.setChan_same]
  refine ⟨rfl, rfl, rfl, rfl, fun hu hl => ?_⟩
  dsimp only at hu hl ⊢
  rw [Comparator.settle_changed _ _ hu, Comparator.settle_changed _ _ hl]
  exact List.append_nil _

theorem State.strobeOver_of_strobe {s : State} {ch t0 : Nat} (h : (s.chan ch).strobe = some t0) :
    s.strobeOver ch = decide (t0 + 2000 + s.monM ch ≤ s.tick) := by
  rw [State.strobeOver, h, Option.any_some]

theorem monitorStrobeEnd_eq (ch : ChanId) (s : State) (t0 : Nat) (hs : (s.chan ch).strobe = some t0) (ho : (s.chan ch).mon = .on) :
    exec (.monitorStrobeEnd ch) s = .next (if t0 + 2000 + s.monM ch ≤ s.tick then
      (s.setChan ch { s.chan ch with strobe := none }).monSettle ch none (s.chan ch).strobeRoute else s) := by
  rw [exec_monitorStrobeEnd, execMonitorStrobeEnd]
  refine congrArg Host.Outcome.next ?_
  dsimp only
  split
  · rw [State.strobeOver_of_strobe hs, ho]
    by_cases hd : t0 + 2000 + s.monM ch ≤ s.tick
    · rw [if_pos hd, decide_eq_true hd]
      rfl
    · rw [if_neg hd, decide_eq_false hd]
      rfl
  · rename_i hn
    cases hn.symm.trans hs

/-- M and N as they act (R236). -/
theorem State.monN_bounds (s : State) (ch : Nat) :
    1 ≤ s.monN ch ∧ s.monN ch ≤ s.monM ch ∧ s.monM ch ≤ 16 ∧ s.monM ch < 2 * s.monN ch := by
  have hm : s.rd Reg.WMON_CTRL_MM1 ch < 16 := s.rd_lt Reg.WMON_CTRL_MM1 ch
  unfold State.monN State.monM
  dsimp only
  split
  · omega
  · split <;> omega

/-- Settles O41: each command's guard is met or not, and what a started, deciding or strobed monitor's channel then holds. -/
theorem windowMonitor : Obligations.WindowMonitor := by
  unfold Obligations.WindowMonitor
  refine ⟨fun ch s he hw hr => ⟨_, monitorStart_starts ch s he hw hr, monitorStart_frame ch s⟩, monitorStart_else,
    fun ch s he hf hm hw => ?_, monitorFirstDecision_else, fun ch s t0 he hm ho hw hn hs hl => ⟨fun hd => ?_, fun hd => ?_⟩,
    fun ch s t0 hs ho => ⟨fun hd => ?_, fun hd => ?_⟩, fun s ch => s.monN_bounds ch⟩
  · obtain ⟨hon, hinit, hup, hlo, hedges, hlatch⟩ := s.monFirst_frame ch
    exact ⟨_, monitorFirstDecision_decides ch s he hf hm hw, hon, hinit, by rw [hup, Comparator.first_iff],
      by rw [hlo, Comparator.first_iff], hedges, hlatch⟩
  · refine ⟨_, (monitorStrobeStart_eq ch s t0 he hm ho ⟨hw, hn⟩ hs hl).trans (congrArg Host.Outcome.next (if_pos hd)), ?_⟩
    rw [State.setChan_same]
    exact ⟨rfl, rfl, rfl, rfl, rfl⟩
  · exact (monitorStrobeStart_eq ch s t0 he hm ho ⟨hw, hn⟩ hs hl).trans (congrArg Host.Outcome.next (if_neg (Nat.not_le.2 hd)))
  · obtain ⟨hstr, hregs, hup, hlo, hedges⟩ :=
      (s.setChan ch { s.chan ch with strobe := none }).monSettle_frame ch none (s.chan ch).strobeRoute
    rw [State.setChan_same] at hstr hup hlo hedges
    exact ⟨_, (monitorStrobeEnd_eq ch s t0 hs ho).trans (congrArg Host.Outcome.next (if_pos hd)), hstr, hregs,
      by rw [hup]; exact Comparator.settle_f _ _, by rw [hlo]; exact Comparator.settle_f _ _, hedges⟩
  · exact (monitorStrobeEnd_eq ch s t0 hs ho).trans (congrArg Host.Outcome.next (if_neg (Nat.not_le.2 hd)))

/-! ### The routes of an edge (R242 to R249) -/

/-- Selected (Table 10.2). -/
def MonEdge.chosen (x : MonEdge) : Prop := Reg.WMON_ROUTE_EDGES.read x.route / 2 ^ x.kind % 2 = 1

/-- What an edge's latch and capture may change of the registers: WMON_STAT of its channel. -/
theorem State.captOf_congr {s t : State} {ch : Nat} (e : Nat) (h : t.reg (Reg.FC_HITCH_EN.addr ch) = s.reg (Reg.FC_HITCH_EN.addr ch))
    (hs : t.strands = s.strands) : t.captOf ch e = s.captOf ch e := by
  have ho : t.strandOf ch = s.strandOf ch := by
    rw [State.strandOf, State.strandOf, State.on_of_reg h, State.rd_of_reg (f := Reg.FC_HITCH_STRAND) (i := ch) h]
  rw [State.captOf, State.captOf, ho]
  simp only [State.strand_of_strands hs]

theorem State.captOf_le (s : State) (ch e : Nat) : s.captOf ch e ≤ 0xFFFFF := by
  unfold State.captOf
  split
  · exact Nat.le_refl _
  · dsimp only
    split
    · split
      · rename_i h
        simp only [Bool.and_eq_true, decide_eq_true_eq] at h
        omega
      · exact Nat.le_refl _
    · exact Nat.le_refl _

/-- The timer capture of an edge (R245): taken while CAPV is 0 and the route says so, and then only. -/
theorem State.monCapture_frame (s : State) (ch : Nat) (e : MonEdge) (hk : e.kind < 4) : let t := s.monCapture ch e
    (∀ a, a ≠ Reg.WMON_STAT_LATCH.addr ch → t.reg a = s.reg a) ∧ t.rd Reg.WMON_STAT_LATCH ch = s.rd Reg.WMON_STAT_LATCH ch
      ∧ (Reg.WMON_ROUTE_CAP.read e.route = 1 → s.on Reg.WMON_STAT_CAPV ch = false →
          t.on Reg.WMON_STAT_CAPV ch = true ∧ t.rd Reg.WMON_STAT_CEDGE ch = e.kind
            ∧ t.rd Reg.WMON_STAT_CAPT ch = s.captOf ch e.tick)
      ∧ (¬ Reg.WMON_ROUTE_CAP.read e.route = 1 ∨ s.on Reg.WMON_STAT_CAPV ch = true → t = s)
      ∧ t.chans = s.chans ∧ t.monq = s.monq ∧ t.strands = s.strands := by
  dsimp only
  unfold State.monCapture
  by_cases hc : Reg.WMON_ROUTE_CAP.read e.route = 1 ∧ s.on Reg.WMON_STAT_CAPV ch = false
  · obtain ⟨hr, hv⟩ := hc
    rw [if_pos (by rw [decide_eq_true hr, hv]; rfl)]
    have hcap := s.captOf_le ch e.tick
    generalize s.captOf ch e.tick = n at hcap ⊢
    generalize hu : (s.wr Reg.WMON_STAT_CAPT ch n).wr Reg.WMON_STAT_CEDGE ch e.kind = u
    refine ⟨fun a ha => ?_, ?_, fun _ _ => ⟨u.on_raise_same Reg.WMON_STAT_CAPV ch (by decide), ?_, ?_⟩, fun h => ?_,
      ?_, ?_, ?_⟩
    · rw [u.reg_raise_other Reg.WMON_STAT_CAPV ch ha, ← hu]
      exact (State.reg_wr_other _ Reg.WMON_STAT_CEDGE ch _ ha).trans (s.reg_wr_other Reg.WMON_STAT_CAPT ch _ ha)
    · rw [State.rd_raise_apart u Reg.WMON_STAT_CAPV Reg.WMON_STAT_LATCH ch ch (by decide) (by decide), ← hu,
        State.rd_wr_apart _ Reg.WMON_STAT_CEDGE Reg.WMON_STAT_LATCH _ _ _ (by decide) (by decide),
        State.rd_wr_apart _ Reg.WMON_STAT_CAPT Reg.WMON_STAT_LATCH _ _ _ (by decide) (by decide)]
    · rw [State.rd_raise_apart u Reg.WMON_STAT_CAPV Reg.WMON_STAT_CEDGE ch ch (by decide) (by decide), ← hu,
        State.rd_wr_same _ _ _ _ (by decide)]
      exact Nat.mod_eq_of_lt hk
    · rw [State.rd_raise_apart u Reg.WMON_STAT_CAPV Reg.WMON_STAT_CAPT ch ch (by decide) (by decide), ← hu,
        State.rd_wr_apart _ Reg.WMON_STAT_CEDGE Reg.WMON_STAT_CAPT _ _ _ (by decide) (by decide),
        State.rd_wr_same _ _ _ _ (by decide)]
      exact Nat.mod_eq_of_lt (Nat.lt_succ_of_le hcap)
    · rcases h with h | h
      · exact absurd hr h
      · exact Bool.noConfusion (hv.symm.trans h)
    · rw [State.raise_chans, ← hu, State.wr_chans, State.wr_chans]
    · rw [State.raise_monq, ← hu, State.wr_monq, State.wr_monq]
    · rw [State.raise_strands, ← hu, State.wr_strands, State.wr_strands]
  · rw [if_neg (by simpa using hc)]
    exact ⟨fun _ _ => rfl, rfl, fun h1 h2 => absurd ⟨h1, h2⟩ hc, fun _ => rfl, rfl, rfl, rfl⟩

/-- The registers an event record and a wake request may touch. -/
def outsideEvents (a : Nat) : Prop :=
  a ≠ Reg.WMON_EVLOST_N.addr 0 ∧ a ≠ Reg.HOSTLINK_EVT_PEND.addr 0 ∧ a ≠ Reg.WMON_WAKE_VALID.addr 0
    ∧ a ≠ Reg.BOOT_STAT_WCAUSE.addr 0

theorem outsideEvents_stat (ch : Nat) (h : ch < 192) : outsideEvents (Reg.WMON_STAT_LATCH.addr ch) := by
  simp only [outsideEvents, Field.addr, Reg.WMON_STAT_LATCH, Reg.WMON_EVLOST_N, Reg.HOSTLINK_EVT_PEND, Reg.WMON_WAKE_VALID,
    Reg.BOOT_STAT_WCAUSE]
  omega

theorem outsideEvents_ctrl (ch : Nat) (h : ch < 192) : outsideEvents (Reg.WMON_CTRL_MODE.addr ch) := by
  simp only [outsideEvents, Field.addr, Reg.WMON_CTRL_MODE, Reg.WMON_EVLOST_N, Reg.HOSTLINK_EVT_PEND, Reg.WMON_WAKE_VALID,
    Reg.BOOT_STAT_WCAUSE]
  omega

theorem outsideEvents_hitch (ch : Nat) (h : ch < 192) : outsideEvents (Reg.FC_HITCH_EN.addr ch) := by
  simp only [outsideEvents, Field.addr, Reg.FC_HITCH_EN, Reg.WMON_EVLOST_N, Reg.HOSTLINK_EVT_PEND, Reg.WMON_WAKE_VALID,
    Reg.BOOT_STAT_WCAUSE]
  omega

/-- An EVENT message takes the oldest 90 records and sets bit 0 of the events. -/
theorem State.formEvent_eq (s : State) (h : s.monq ≠ []) : ∃ m, s.formEvent
    = (({ s with monq := s.monq.drop 90 }).queueMsg m).event 0 := by
  unfold State.formEvent
  dsimp only
  rw [if_neg (by
    intro hn
    cases hq : s.monq with
    | nil => exact h hq
    | cons r rs => rw [hq] at hn; exact absurd hn (by simp))]
  exact ⟨_, rfl⟩

/-- What a queued event leaves. -/
structure State.EventOf (s t : State) : Prop where
  reg : ∀ a, a ≠ Reg.WMON_EVLOST_N.addr 0 → a ≠ Reg.HOSTLINK_EVT_PEND.addr 0 → t.reg a = s.reg a
  chans : t.chans = s.chans

theorem State.reg_event_other (s : State) (k : Nat) {a : Nat} (h : a ≠ Reg.HOSTLINK_EVT_PEND.addr 0) :
    (s.event k).reg a = s.reg a :=
  s.reg_putBit_other Reg.HOSTLINK_EVT_PEND 0 k true h

theorem State.chans_event (s : State) (k : Nat) : (s.event k).chans = s.chans := rfl

theorem State.eventOf_formEvent (s : State) : s.EventOf s.formEvent := by
  by_cases h : s.monq = []
  · rw [State.formEvent, h]
    exact ⟨fun _ _ _ => rfl, rfl⟩
  · obtain ⟨m, hm⟩ := s.formEvent_eq h
    rw [hm]
    generalize hq : State.queueMsg _ _ = q
    have hreg (a : Nat) : q.reg a = s.reg a := by rw [← hq]; rfl
    have hchans : q.chans = s.chans := by rw [← hq]; rfl
    exact ⟨fun a _ ha => (q.reg_event_other 0 ha).trans (hreg a), (q.chans_event 0).trans hchans⟩

theorem State.eventOf_queueMon (s : State) (r : MonRec) : s.EventOf (s.queueMon r) := by
  unfold State.queueMon
  split
  · generalize hb : s.bump Reg.WMON_EVLOST_N 0 1 = b
    have hreg (a : Nat) (ha : a ≠ Reg.WMON_EVLOST_N.addr 0) : b.reg a = s.reg a := hb ▸ s.reg_wr_other Reg.WMON_EVLOST_N 0 _ ha
    have hchans : b.chans = s.chans := by rw [← hb, State.bump_chans]
    exact ⟨fun a ha hp => (b.reg_event_other 5 hp).trans (hreg a ha), (b.chans_event 5).trans hchans⟩
  · unfold State.formEvents
    generalize hq : ({ s with monq := s.monq ++ [r] } : State) = q
    have hreg (a : Nat) : q.reg a = s.reg a := by rw [← hq]; rfl
    have hchans : q.chans = s.chans := by rw [← hq]
    split
    · obtain ⟨hr, hc⟩ := q.eventOf_formEvent
      exact ⟨fun a ha hp => (hr a ha hp).trans (hreg a), hc.trans hchans⟩
    · exact ⟨fun a _ _ => hreg a, hchans⟩

theorem State.monq_queueMon (s : State) (r : MonRec) (h : s.monq.length < 89) : (s.queueMon r).monq = s.monq ++ [r] := by
  unfold State.queueMon
  rw [if_neg (by omega), State.formEvents, if_neg]
  simp only [List.length_append, List.length_singleton, Bool.and_eq_true, decide_eq_true_eq, not_and]
  omega

/-- The ticks the rate limit asks for between two records (R246). -/
def MonEdge.gap (e : MonEdge) : Nat := 2 ^ Reg.WMON_ROUTE_EVRL.read e.route * 200

/-- The event record of an edge, under the rate limit (R246). -/
theorem State.monEvent_frame (s : State) (ch : Nat) (e : MonEdge) : let t := s.monEvent ch e
    (∀ a, a ≠ Reg.WMON_EVLOST_N.addr 0 → a ≠ Reg.HOSTLINK_EVT_PEND.addr 0 → t.reg a = s.reg a)
      ∧ (t.chan ch).edges = (s.chan ch).edges ∧ (¬ Reg.WMON_ROUTE_EVT.read e.route = 1 → t = s)
      ∧ (∀ y, Reg.WMON_ROUTE_EVT.read e.route = 1 → (s.chan ch).evTick = some y →
          (e.tick < y + e.gap → t.monq = s.monq ∧ (t.chan ch).supp = Min.min 255 ((s.chan ch).supp + 1))
          ∧ (y + e.gap ≤ e.tick → (t.chan ch).evTick = some e.tick ∧ (t.chan ch).supp = 0
              ∧ (s.monq.length < 89 → ∃ r : MonRec, t.monq = s.monq ++ [r] ∧ r.chan = ch ∧ r.supp = (s.chan ch).supp
                  ∧ r.capt = s.captOf ch e.tick))) := by
  dsimp only
  unfold State.monEvent
  by_cases hv : Reg.WMON_ROUTE_EVT.read e.route = 1
  · rw [if_neg (by rw [hv]; decide)]
    dsimp only
    by_cases hl : ((s.chan ch).evTick.any fun t => decide (e.tick < t + 2 ^ Reg.WMON_ROUTE_EVRL.read e.route * 200)) = true
    · rw [if_pos hl]
      refine ⟨fun _ _ _ => rfl, ?_, fun h => absurd hv h, fun y _ hy => ⟨fun _ => ⟨rfl, ?_⟩, fun hg => ?_⟩⟩
      · rw [State.setChan_same]
      · rw [State.setChan_same]
      · rw [hy, Option.any_some, decide_eq_true_eq] at hl
        exact absurd hl (Nat.not_lt.2 hg)
    · rw [if_neg hl]
      generalize hr : MonRec.mk _ _ _ _ _ _ = r
      generalize hu : s.setChan ch _ = u
      obtain ⟨hreg, hchans⟩ := u.eventOf_queueMon r
      have hchan : (u.queueMon r).chan ch = { s.chan ch with evTick := some e.tick, supp := 0 } := by
        rw [State.chan, hchans, ← hu]
        exact State.setChan_same s ch _
      refine ⟨fun a ha hb => ?_, ?_, fun h => absurd hv h, fun y _ hy => ⟨fun hg => ?_, fun _ => ⟨?_, ?_, fun hq => ?_⟩⟩⟩
      · rw [hreg a ha hb, ← hu, State.setChan_reg]
      · rw [hchan]
      · rw [hy, Option.any_some, decide_eq_true_eq] at hl
        exact absurd hg hl
      · rw [hchan]
      · rw [hchan]
      · have hmq : u.monq = s.monq := by rw [← hu, State.setChan_monq]
        refine ⟨r, ?_, ?_, ?_, ?_⟩
        · rw [State.monq_queueMon _ _ (by rw [hmq]; exact hq), hmq]
        · rw [← hr]
        · rw [← hr]
        · rw [← hr]
  · rw [if_pos (by rwa [bne_iff_ne])]
    exact ⟨fun _ _ _ => rfl, rfl, fun _ => rfl, fun _ h => absurd h hv⟩

theorem State.wakeBy_frame (s : State) (n : Nat) : (∀ a, a ≠ Reg.BOOT_STAT_WCAUSE.addr 0 → (s.wakeBy n).reg a = s.reg a)
    ∧ (s.wakeBy n).chans = s.chans ∧ (s.wakeBy n).monq = s.monq := by
  unfold State.wakeBy
  split
  · exact ⟨fun _ _ => rfl, rfl, rfl⟩
  · split
    · generalize hq : ({ s with boot := { s.boot with waking := true } } : State) = q
      have hreg (a : Nat) : q.reg a = s.reg a := by rw [← hq]; rfl
      exact ⟨fun a ha => (q.reg_wr_other Reg.BOOT_STAT_WCAUSE 0 n ha).trans (hreg a), by rw [State.wr_chans, ← hq],
        by rw [State.wr_monq, ← hq]⟩
    · split
      · exact ⟨fun a ha => s.reg_wr_other Reg.BOOT_STAT_WCAUSE 0 n ha, s.wr_chans _ _ _, s.wr_monq _ _ _⟩
      · exact ⟨fun _ _ => rfl, rfl, rfl⟩

/-- The wake request is noted in WMON_WAKE (R248). -/
def State.noteWake (s : State) (ch : Nat) (e : MonEdge) : State :=
  if s.on Reg.WMON_WAKE_VALID 0 then s
  else ((s.wr Reg.WMON_WAKE_CHAN 0 ch).wr Reg.WMON_WAKE_EDGE 0 e.kind).raise Reg.WMON_WAKE_VALID 0

theorem State.noteWake_frame (s : State) (ch : Nat) (e : MonEdge) : let t := s.noteWake ch e
    (∀ a, a ≠ Reg.WMON_WAKE_VALID.addr 0 → t.reg a = s.reg a) ∧ t.on Reg.WMON_WAKE_VALID 0 = true
      ∧ t.chans = s.chans ∧ t.monq = s.monq := by
  dsimp only
  unfold State.noteWake
  by_cases h : s.on Reg.WMON_WAKE_VALID 0 = true
  · rw [if_pos h]
    exact ⟨fun _ _ => rfl, h, rfl, rfl⟩
  · rw [if_neg h]
    generalize hu : (s.wr Reg.WMON_WAKE_CHAN 0 ch).wr Reg.WMON_WAKE_EDGE 0 e.kind = u
    refine ⟨fun a ha => ?_, u.on_raise_same Reg.WMON_WAKE_VALID 0 (by decide), ?_, ?_⟩
    · rw [u.reg_raise_other Reg.WMON_WAKE_VALID 0 ha, ← hu]
      exact (State.reg_wr_other _ Reg.WMON_WAKE_EDGE 0 _ ha).trans (s.reg_wr_other Reg.WMON_WAKE_CHAN 0 _ ha)
    · rw [State.raise_chans, ← hu, State.wr_chans, State.wr_chans]
    · rw [State.raise_monq, ← hu, State.wr_monq, State.wr_monq]

/-- The wake request of an edge (R248): in WATCH alone. -/
theorem State.monWake_frame (s : State) (ch : Nat) (e : MonEdge) : let t := s.monWake ch e
    (∀ a, a ≠ Reg.WMON_WAKE_VALID.addr 0 → a ≠ Reg.BOOT_STAT_WCAUSE.addr 0 → t.reg a = s.reg a)
      ∧ t.chans = s.chans ∧ t.monq = s.monq ∧ (s.mode ≠ 7 → t = s)
      ∧ (s.mode = 7 → Reg.WMON_ROUTE_WAKE.read e.route = 1 → s.rd Reg.WMON_CTRL_MODE ch = 3 →
          t.on Reg.WMON_WAKE_VALID 0 = true) := by
  dsimp only
  unfold State.monWake
  by_cases hc : s.mode = 7 ∧ Reg.WMON_ROUTE_WAKE.read e.route = 1 ∧ s.rd Reg.WMON_CTRL_MODE ch = 3
  · obtain ⟨hm, hw, hr⟩ := hc
    rw [if_pos (by simp only [hm, hw, hr, decide_true, Bool.and_true])]
    obtain ⟨hreg, hon, hchans, hmonq⟩ := s.noteWake_frame ch e
    obtain ⟨hreg', hchans', hmonq'⟩ := (s.noteWake ch e).wakeBy_frame 1
    exact ⟨fun a ha hb => (hreg' a hb).trans (hreg a ha), hchans'.trans hchans, hmonq'.trans hmonq, fun h => absurd hm h,
      fun _ _ _ => (State.on_of_reg (hreg' _ (by decide))).trans hon⟩
  · rw [if_neg (by simpa [and_assoc] using hc)]
    exact ⟨fun _ _ _ => rfl, rfl, rfl, fun _ => rfl, fun h1 h2 h3 => absurd ⟨h1, h2, h3⟩ hc⟩

/-- A selected edge: its latch bit, its capture, its record, its wake request. -/
theorem State.monRoute_chosen (s : State) (ch : Nat) (hch : ch < 192) (x : MonEdge) (hk : x.kind < 4) (hx : x.chosen) :
    let t := s.monRoute ch x
    let has (f : Field) : Prop := f.read x.route = 1
    (t.chan ch).edges = (s.chan ch).edges
      ∧ (∀ j, j < 4 → t.bit Reg.WMON_STAT_LATCH ch j = (s.bit Reg.WMON_STAT_LATCH ch j || decide (j = x.kind)))
      ∧ (has Reg.WMON_ROUTE_CAP → s.on Reg.WMON_STAT_CAPV ch = false →
          t.on Reg.WMON_STAT_CAPV ch = true ∧ t.rd Reg.WMON_STAT_CEDGE ch = x.kind ∧ t.rd Reg.WMON_STAT_CAPT ch = s.captOf ch x.tick)
      ∧ (¬ has Reg.WMON_ROUTE_CAP ∨ s.on Reg.WMON_STAT_CAPV ch = true →
          t.on Reg.WMON_STAT_CAPV ch = s.on Reg.WMON_STAT_CAPV ch ∧ t.rd Reg.WMON_STAT_CAPT ch = s.rd Reg.WMON_STAT_CAPT ch)
      ∧ (¬ has Reg.WMON_ROUTE_EVT → t.monq = s.monq)
      ∧ (∀ y, has Reg.WMON_ROUTE_EVT → (s.chan ch).evTick = some y →
          (x.tick < y + x.gap → t.monq = s.monq ∧ (t.chan ch).supp = Min.min 255 ((s.chan ch).supp + 1))
          ∧ (y + x.gap ≤ x.tick → (t.chan ch).evTick = some x.tick ∧ (t.chan ch).supp = 0
              ∧ (s.monq.length < 89 → ∃ r : MonRec, t.monq = s.monq ++ [r] ∧ r.chan = ch ∧ r.supp = (s.chan ch).supp
                  ∧ r.capt = s.captOf ch x.tick)))
      ∧ (s.mode ≠ 7 → t.on Reg.WMON_WAKE_VALID 0 = s.on Reg.WMON_WAKE_VALID 0)
      ∧ (s.mode = 7 → has Reg.WMON_ROUTE_WAKE → s.rd Reg.WMON_CTRL_MODE ch = 3 → t.on Reg.WMON_WAKE_VALID 0 = true) := by
  dsimp only
  unfold State.monRoute
  rw [if_neg (by rw [show _ = 1 from hx]; decide)]
  obtain ⟨_, hst1, hst2, hst3⟩ := outsideEvents_stat ch hch
  obtain ⟨hct0, hct1, _, _⟩ := outsideEvents_ctrl ch hch
  have hstat0 : Reg.WMON_STAT_LATCH.addr ch ≠ Reg.WMON_EVLOST_N.addr 0 := (outsideEvents_stat ch hch).1
  have hctS : Reg.WMON_CTRL_MODE.addr ch ≠ Reg.WMON_STAT_LATCH.addr ch := by
    simp only [Field.addr, Reg.WMON_CTRL_MODE, Reg.WMON_STAT_LATCH]; omega
  have hhiS : Reg.FC_HITCH_EN.addr ch ≠ Reg.WMON_STAT_LATCH.addr ch := by
    simp only [Field.addr, Reg.FC_HITCH_EN, Reg.WMON_STAT_LATCH]; omega
  have hwkS : Reg.WMON_WAKE_VALID.addr 0 ≠ Reg.WMON_STAT_LATCH.addr ch := by
    simp only [Field.addr, Reg.WMON_WAKE_VALID, Reg.WMON_STAT_LATCH]; omega
  generalize hu : s.raiseBit Reg.WMON_STAT_LATCH ch x.kind = u
  have ureg (a : Nat) (ha : a ≠ Reg.WMON_STAT_LATCH.addr ch) : u.reg a = s.reg a := hu ▸ s.reg_raiseBit_other _ ch x.kind ha
  have ustrands : u.strands = s.strands := by rw [← hu, State.raiseBit_strands]
  have uchan : u.chan ch = s.chan ch := by rw [← hu, State.raiseBit_chan]
  have umonq : u.monq = s.monq := by rw [← hu, State.raiseBit_monq]
  have ucapv : u.on Reg.WMON_STAT_CAPV ch = s.on Reg.WMON_STAT_CAPV ch := by
    rw [← hu, State.on, State.on, State.rd_raiseBit_apart _ _ _ _ _ _ (by decide) (by decide)]
  have ucapt : u.rd Reg.WMON_STAT_CAPT ch = s.rd Reg.WMON_STAT_CAPT ch := by
    rw [← hu, State.rd_raiseBit_apart _ _ _ _ _ _ (by decide) (by decide)]
  have ulatch (j : Nat) : u.bit Reg.WMON_STAT_LATCH ch j = (s.bit Reg.WMON_STAT_LATCH ch j || decide (j = x.kind)) := by
    rw [← hu, State.bit_raiseBit _ _ _ _ _ (by decide) hk]
  have ucap : u.captOf ch x.tick = s.captOf ch x.tick := State.captOf_congr _ (ureg _ hhiS) ustrands
  obtain ⟨vreg, vlatch, vcap, vsame, vchans, vmonq, vstrands⟩ := u.monCapture_frame ch x hk
  generalize u.monCapture ch x = v at vreg vlatch vcap vsame vchans vmonq vstrands ⊢
  have vchan : v.chan ch = s.chan ch := (congrArg (fun m => SMap.getD m ch ChanRt.idle) vchans).trans uchan
  have vcapOf : v.captOf ch x.tick = s.captOf ch x.tick :=
    (State.captOf_congr _ (vreg _ hhiS) vstrands).trans ucap
  obtain ⟨wreg, wedges, wsame, wevt⟩ := v.monEvent_frame ch x
  generalize v.monEvent ch x = w at wreg wedges wsame wevt ⊢
  rw [vcapOf, vchan, vmonq, umonq] at wevt
  obtain ⟨treg, tchans, tmonq, tsame, twake⟩ := w.monWake_frame ch x
  generalize w.monWake ch x = t at treg tchans tmonq tsame twake ⊢
  have tchan : t.chan ch = w.chan ch := congrArg (fun m => SMap.getD m ch ChanRt.idle) tchans
  have hstat : t.reg (Reg.WMON_STAT_LATCH.addr ch) = v.reg (Reg.WMON_STAT_LATCH.addr ch) :=
    (treg _ hst2 hst3).trans (wreg _ hstat0 hst1)
  have hvalid : v.on Reg.WMON_WAKE_VALID 0 = s.on Reg.WMON_WAKE_VALID 0 :=
    State.on_of_reg ((vreg _ hwkS).trans (ureg _ hwkS))
  have hmoS : Reg.BOOT_STATE_STATE.addr 0 ≠ Reg.WMON_STAT_LATCH.addr ch := by
    simp only [Field.addr, Reg.BOOT_STATE_STATE, Reg.WMON_STAT_LATCH]; omega
  have hmode : w.mode = s.mode :=
    State.mode_of_reg ((wreg _ (by decide) (by decide)).trans ((vreg _ hmoS).trans (ureg _ hmoS)))
  have hctrl : w.rd Reg.WMON_CTRL_MODE ch = s.rd Reg.WMON_CTRL_MODE ch :=
    State.rd_of_reg ((wreg _ hct0 hct1).trans ((vreg _ hctS).trans (ureg _ hctS)))
  refine ⟨?_, fun j _ => ?_, fun hc hv => ?_, fun hc => ?_, fun he => ?_, fun y he hy => ?_, fun hm => ?_, fun hm hw hc => ?_⟩
  · rw [tchan, wedges, vchan]
  · rw [State.bit_of_rd (State.rd_of_reg (f := Reg.WMON_STAT_LATCH) (i := ch) hstat), State.bit_of_rd vlatch, ulatch]
  · obtain ⟨h1, h2, h3⟩ := vcap hc (ucapv.trans hv)
    exact ⟨(State.on_of_reg (f := Reg.WMON_STAT_CAPV) (i := ch) hstat).trans h1,
      (State.rd_of_reg (f := Reg.WMON_STAT_CEDGE) (i := ch) hstat).trans h2,
      (State.rd_of_reg (f := Reg.WMON_STAT_CAPT) (i := ch) hstat).trans (h3.trans ucap)⟩
  · have hvu : v = u := vsame (by rwa [ucapv])
    rw [hvu] at hstat
    exact ⟨(State.on_of_reg (f := Reg.WMON_STAT_CAPV) (i := ch) hstat).trans ucapv,
      (State.rd_of_reg (f := Reg.WMON_STAT_CAPT) (i := ch) hstat).trans ucapt⟩
  · rw [tmonq, wsame he, vmonq, umonq]
  · rw [tmonq, tchan]
    exact wevt y he hy
  · rw [tsame (hmode ▸ hm), State.on_of_reg (wreg _ (by decide) (by decide)), hvalid]
  · exact twake (hmode.trans hm) hw (hctrl.trans hc)

theorem monitorEdge_due (ch : ChanId) (s : State) (x : MonEdge) (rest : List MonEdge) (he : (s.chan ch).edges = x :: rest)
    (hd : x.tick + 4 ≤ s.tick) :
    exec (.monitorEdge ch) s = .next ((s.setChan ch { s.chan ch with edges := rest }).monRoute ch x) := by
  rw [exec_monitorEdge, execMonitorEdge]
  refine congrArg Host.Outcome.next ?_
  dsimp only
  split
  · rename_i y ys hy
    obtain ⟨rfl, rfl⟩ := List.cons.inj (he.symm.trans hy)
    exact if_pos hd
  · rename_i hn
    cases hn.symm.trans he

theorem monitorEdge_waits (ch : ChanId) (s : State) (h : ∀ x ∈ (s.chan ch).edges.head?, s.tick < x.tick + 4) :
    exec (.monitorEdge ch) s = .next s := by
  rw [exec_monitorEdge, execMonitorEdge]
  refine congrArg Host.Outcome.next ?_
  dsimp only
  split
  · rename_i y ys hy
    exact if_neg (Nat.not_le.2 (h y (by rw [hy]; rfl)))
  · rfl

/-- Settles O42: the oldest edge is taken off its channel and then goes its routes one by one. -/
theorem monitorEdges : Obligations.MonitorEdges := by
  unfold Obligations.MonitorEdges
  refine ⟨fun ch s x rest he hd hk => ?_, monitorEdge_waits, fun s hq hw => ?_, fun s hq => ?_⟩
  · dsimp only
    refine ⟨_, monitorEdge_due ch s x rest he hd, ?_⟩
    generalize hv : s.setChan ch { s.chan ch with edges := rest } = v
    have hchan : v.chan ch = { s.chan ch with edges := rest } := by rw [← hv, State.setChan_same]
    have hregs : v.regs = s.regs := by rw [← hv, State.setChan_regs]
    have hmonq : v.monq = s.monq := by rw [← hv, State.setChan_monq]
    have hlink : v.link = s.link := by rw [← hv, State.setChan_link]
    have hboot : v.boot = s.boot := by rw [← hv, State.setChan_boot]
    have hstrands : v.strands = s.strands := by rw [← hv, State.setChan_strands]
    have hcapt : v.captOf ch x.tick = s.captOf ch x.tick := State.captOf_congr _ (State.reg_of_regs hregs _) hstrands
    by_cases hx : x.chosen
    · obtain ⟨hedges, hr⟩ := v.monRoute_chosen ch ch.isLt x hk hx
      simp only [State.bit, State.on, State.mode, State.rd_of_regs hregs, hcapt, hmonq, hchan] at hr hedges ⊢
      exact ⟨hedges, fun h => absurd hx h, fun _ => hr⟩
    · have hsame : v.monRoute ch x = v := if_pos (by rw [bne_iff_ne]; exact hx)
      rw [hsame, hchan]
      exact ⟨rfl, fun _ => ⟨hregs, hmonq, hlink, hboot⟩, fun h => absurd h hx⟩
  · obtain ⟨m, hm⟩ := s.formEvent_eq hq
    refine ⟨s.formEvent, ?_, ?_, ?_, ?_⟩
    · rw [exec_eventMessageTimeout, execEventMessageTimeout, hw]
      rfl
    · rw [hm]
      rfl
    · rw [hm]
      exact (State.bit_putBit _ Reg.HOSTLINK_EVT_PEND 0 0 true 0 (by decide) (by decide)).trans (if_pos rfl)
    · rw [hm]
      exact List.length_append
  · rw [exec_eventMessageTimeout, execEventMessageTimeout, State.formEvent, hq]
    exact congrArg Host.Outcome.next (ite_self _)

end Sys2Proof.Machine
end
-- ==== Sys2Proof/Proofs/PinMonitors.lean ====
section
/-! The monitors and clamps of a precision pin (R191 to R203). -/

namespace Sys2Proof.Machine

/-! ### Reporting a sensor fault -/

theorem State.pc_of_pcs {s t : State} (h : t.pcs = s.pcs) (d : Nat) : t.pc d = s.pc d :=
  congrArg (fun m => SMap.getD m d PcRt.reset) h

theorem State.Logged.pcs {s t : State} (h : s.Logged t) : t.pcs = s.pcs := by
  obtain ⟨_, _, _, _, _, rfl, -⟩ := h
  rfl

theorem State.setPc_on (s : State) (c : Nat) (r : PcRt) (f : Field) (i : Nat) : (s.setPc c r).on f i = s.on f i :=
  congrArg (fun n => decide (n = 1)) (s.setPc_rd c r f i)

theorem State.logged_pcFaultLog (s : State) (c : Nat) : s.Logged (s.pcFaultLog c) := by
  unfold State.pcFaultLog State.logNow
  exact s.logged_logBy ..

/-- Due ceilings are told to the ports alone. -/
theorem State.derNotify_frame (s : State) (c : Nat) : (s.derNotify c).pcs = s.pcs ∧ (s.derNotify c).regs = s.regs := by
  refine each_keeps (P := fun t : State => t.pcs = s.pcs ∧ t.regs = s.regs) (fun p _ t ht => ?_) ⟨rfl, rfl⟩
  dsimp only
  split
  · exact ⟨(t.setPort_pcs _ _).trans ht.1, (t.setPort_regs _ _).trans ht.2⟩
  · exact ht

theorem pcFstat_outsideLog (c : Nat) : outsideLog (0x20010 + 0x80 * c) := .inr (by omega)

/-- The report of a sensor fault whose flag was clear. -/
def State.reportFault (c : Nat) (f : Field) (s : State) : State :=
  (((s.raise f c).pcFaultLog c).setPc c { s.pc c with sensFault := true }).derNotify c

theorem State.sensorFault_eq (s : State) (c : Nat) (f : Field) : s.sensorFault c f
    = if s.on f c then s else if (s.reportFault c f).pcMasked c then (s.reportFault c f).source 11 else s.reportFault c f := by
  unfold State.sensorFault State.reportFault
  dsimp only

/-- What a fault's report leaves: its channel but for the mark of the fault, the other channels, and the other flags. -/
structure State.FaultOf (c : Nat) (f : Field) (s t : State) : Prop where
  on : t.on f c = true
  flags : ∀ g : Field, f.apart g = true → g.addr c = f.addr c → t.rd g c = s.rd g c
  pc : ∃ b, t.pc c = { s.pc c with sensFault := b }
  others : ∀ d, d ≠ c → t.pc d = s.pc d

theorem State.FaultOf.of_same {c : Nat} {f : Field} {s t u : State} (h : s.FaultOf c f t) (hr : u.regs = t.regs)
    (hp : u.pcs = t.pcs) : s.FaultOf c f u := by
  obtain ⟨hon, hflags, hpc, hothers⟩ := h
  refine ⟨?_, fun g hg ha => ?_, ?_, fun d hd => ?_⟩
  · rw [State.on, State.rd_of_regs hr]; exact hon
  · rw [State.rd_of_regs hr]; exact hflags g hg ha
  · rw [State.pc_of_pcs hp]; exact hpc
  · rw [State.pc_of_pcs hp]; exact hothers d hd

/-- The flag is raised and recorded. -/
theorem State.raiseFault_frame (s : State) (c : Nat) (f : Field) (hf : f.fits = true) (ha : f.addr c = 0x20010 + 0x80 * c) :
    let t := (s.raise f c).pcFaultLog c
    t.on f c = true ∧ (∀ g : Field, f.apart g = true → g.addr c = f.addr c → t.rd g c = s.rd g c) ∧ t.pcs = s.pcs := by
  dsimp only
  have hlog := (s.raise f c).logged_pcFaultLog c
  generalize hr : s.raise f c = r at hlog ⊢
  have hon : r.on f c = true := hr ▸ s.on_raise_same f c hf
  have hreg : (r.pcFaultLog c).reg (f.addr c) = r.reg (f.addr c) := hlog.reg (ha ▸ pcFstat_outsideLog c)
  refine ⟨(State.on_of_reg hreg).trans hon, fun g hg hga => ?_, ?_⟩
  · rw [State.rd_of_reg (hga ▸ hreg), ← hr, State.rd_raise_apart s f g c c hf hg]
  · rw [hlog.pcs, ← hr, State.raise_pcs]

theorem State.faultOf_reportFault (s : State) (c : Nat) (f : Field) (hf : f.fits = true) (ha : f.addr c = 0x20010 + 0x80 * c) :
    s.FaultOf c f (s.reportFault c f) := by
  obtain ⟨hon, hflags, hpcs⟩ := s.raiseFault_frame c f hf ha
  unfold State.reportFault
  generalize (s.raise f c).pcFaultLog c = u at *
  generalize hv : u.setPc c { s.pc c with sensFault := true } = v
  obtain ⟨hp, hr⟩ := v.derNotify_frame c
  refine State.FaultOf.of_same ⟨?_, fun g hg hga => ?_, ⟨true, ?_⟩, fun d hd => ?_⟩ hr hp
  · rw [← hv, State.setPc_on]; exact hon
  · rw [← hv, State.setPc_rd]; exact hflags g hg hga
  · rw [← hv, State.setPc_same]
  · rw [← hv, State.setPc_other _ _ hd, State.pc_of_pcs hpcs]

theorem State.faultOf_sensorFault (s : State) (c : Nat) (f : Field) (hf : f.fits = true) (ha : f.addr c = 0x20010 + 0x80 * c) :
    s.FaultOf c f (s.sensorFault c f) := by
  rw [s.sensorFault_eq]
  have h := s.faultOf_reportFault c f hf ha
  generalize s.reportFault c f = u at h ⊢
  split
  · rename_i ho
    exact ⟨ho, fun _ _ _ => rfl, ⟨_, rfl⟩, fun _ _ => rfl⟩
  · split
    · exact h.of_same rfl rfl
    · exact h

theorem State.faultOf_open (s : State) (c : Nat) : s.FaultOf c Reg.PC_FSTAT_OPEN (s.sensorFault c Reg.PC_FSTAT_OPEN) :=
  s.faultOf_sensorFault c Reg.PC_FSTAT_OPEN (by decide) rfl

theorem State.faultOf_short (s : State) (c : Nat) : s.FaultOf c Reg.PC_FSTAT_SHORT (s.sensorFault c Reg.PC_FSTAT_SHORT) :=
  s.faultOf_sensorFault c Reg.PC_FSTAT_SHORT (by decide) rfl

/-- The flags of PC_FSTAT a raised sense fault leaves. -/
def besideSense (g : Field) : Prop :=
  Reg.PC_FSTAT_SNS_FAULT.apart g = true ∧ Reg.PC_FSTAT_OPEN.apart g = true ∧ ∀ c : Nat, g.addr c = 0x20010 + 0x80 * c

/-- What a raised sense fault leaves of its channel and the others. -/
structure State.SenseOf (c : Nat) (s t : State) : Prop where
  on : t.on Reg.PC_FSTAT_SNS_FAULT c = true
  flags : ∀ g, besideSense g → t.rd g c = s.rd g c
  opened : s.on Reg.PC_FSTAT_SNS_FAULT c = false → (s.pc c).get 0 Reg.PC_EXC_FBEN = 0 → t.on Reg.PC_FSTAT_OPEN c = true
  pc : ∃ b due, t.pc c = { s.pc c with sensFault := b, snsDue := due }
  others : ∀ d, d ≠ c → t.pc d = s.pc d

theorem State.senseOf_snsRaise (s : State) (c : Nat) : s.SenseOf c (s.snsRaise c) := by
  unfold State.snsRaise
  by_cases ho : s.on Reg.PC_FSTAT_SNS_FAULT c = true
  · rw [if_pos ho]
    exact ⟨ho, fun _ _ => rfl, fun h => Bool.noConfusion (h.symm.trans ho), ⟨_, _, rfl⟩, fun _ _ => rfl⟩
  · rw [if_neg ho]
    dsimp only
    obtain ⟨hon, hflags, hpcs⟩ := s.raiseFault_frame c Reg.PC_FSTAT_SNS_FAULT (by decide) rfl
    generalize (s.raise Reg.PC_FSTAT_SNS_FAULT c).pcFaultLog c = u at *
    rw [State.pc_of_pcs hpcs]
    generalize hv : u.setPc c { s.pc c with snsDue := true } = v
    have von : v.on Reg.PC_FSTAT_SNS_FAULT c = true := by rw [← hv, State.setPc_on]; exact hon
    have vflags (g : Field) (hg : besideSense g) : v.rd g c = s.rd g c := by
      rw [← hv, State.setPc_rd]; exact hflags g hg.1 (hg.2.2 c)
    have vpc : v.pc c = { s.pc c with snsDue := true } := by rw [← hv, State.setPc_same]
    have vothers (d : Nat) (hd : d ≠ c) : v.pc d = s.pc d := by
      rw [← hv, State.setPc_other _ _ hd, State.pc_of_pcs hpcs]
    obtain ⟨won, wflags, ⟨b, wpc⟩, wothers⟩ := v.faultOf_open c
    generalize v.sensorFault c Reg.PC_FSTAT_OPEN = w at *
    split
    · refine ⟨?_, fun g hg => (wflags g hg.2.1 (hg.2.2 c)).trans (vflags g hg), fun _ _ => won, ⟨b, true, ?_⟩, fun d hd => ?_⟩
      · exact (State.on_of_rd (wflags Reg.PC_FSTAT_SNS_FAULT (by decide) rfl)).trans von
      · rw [wpc, vpc]
      · rw [wothers d hd, vothers d hd]
    · rename_i hc
      refine ⟨von, vflags, fun _ hb => absurd ?_ hc, ⟨_, true, vpc⟩, vothers⟩
      rw [Bool.or_eq_true, decide_eq_true_eq]
      exact .inl hb

/-! ### One sample of one channel -/

/-- The counts a sample leaves (R196, R201). -/
def PcRt.sampled (r : PcRt) (m : PcMon) : PcRt :=
  let sb : Bool := r.slim < leadDropP m.pins || r.slim < leadDropN m.pins
  let check := senseType r.type
  { r with snsBad := if check then badRun 8 r.snsBad sb else 0,
           snsGood := if sb then 0 else min 64 (r.snsGood + 1), snsNow := sb,
           convSns := r.convSns || (check && sb),
           openBad := badRun 64 r.openBad (r.openBadSample m),
           shortBad := badRun 64 r.shortBad (r.shortBadSample m) }

/-- A sample's lead drop is beyond the limit of a type with a sense check (R191). -/
def PcRt.senseBad (r : PcRt) (m : PcMon) : Bool :=
  senseType r.type && (decide (r.slim < leadDropP m.pins) || decide (r.slim < leadDropN m.pins))

theorem badRun_eq {lim n : Nat} (b : Bool) (hl : 0 < lim) : badRun lim n b = lim ↔ b = true ∧ lim ≤ n + 1 := by
  cases b
  · exact ⟨fun h => absurd h (by simp only [badRun, Bool.false_eq_true, if_false]; omega), fun h => Bool.noConfusion h.1⟩
  · simp only [badRun, if_true, true_and]
    omega

theorem PcRt.sampled_snsBad (r : PcRt) (m : PcMon) : (r.sampled m).snsBad = badRun 8 r.snsBad (r.senseBad m) := by
  unfold PcRt.sampled PcRt.senseBad
  cases senseType r.type
  · rfl
  · rw [Bool.true_and]
    rfl

/-- What a sample does once its settings stand: it shows the monitors, counts, and raises what has reached its limit. -/
def State.monShow (c : Nat) (m : PcMon) (r : PcRt) (s : State) : State :=
  ((s.put Reg.PC_FSTAT_ILIM c m.ilim).put Reg.PC_FSTAT_COMPL c (r.compl m.pins)).setPc c (r.sampled m)

theorem State.pcMonitor_live (s : State) (c : Nat) (m : PcMon) {r : PcRt} (hr : (s.monTake c).pc c = r) (ht : r.type ≠ 0)
    (hl : (s.monTake c).pcLive = true) : s.pcMonitor c m =
    (let u := (s.monTake c).monShow c m r
     let v := if (r.sampled m).snsBad = 8 then u.snsRaise c else u
     let w := if (r.sampled m).openBad = 64 then v.sensorFault c Reg.PC_FSTAT_OPEN else v
     if (r.sampled m).shortBad = 64 then w.sensorFault c Reg.PC_FSTAT_SHORT else w) := by
  unfold State.pcMonitor
  dsimp only
  rw [hr, hl, if_neg (by rw [Bool.not_true, Bool.or_false, decide_eq_true_eq]; exact ht)]
  rfl

/-- The flags after the sense check, and its channel but for the fault's marks. -/
structure State.SampleOf (c : Nat) (m : PcMon) (r : PcRt) (s t : State) : Prop where
  ilim : t.on Reg.PC_FSTAT_ILIM c = m.ilim
  compl : t.on Reg.PC_FSTAT_COMPL c = r.compl m.pins
  opens : ((r.sampled m).openBad = 64 → t.on Reg.PC_FSTAT_OPEN c = true)
    ∧ ((r.sampled m).openBad ≠ 64 → (r.sampled m).snsBad ≠ 8 → t.on Reg.PC_FSTAT_OPEN c = s.on Reg.PC_FSTAT_OPEN c)
  shorts : ((r.sampled m).shortBad = 64 → t.on Reg.PC_FSTAT_SHORT c = true)
    ∧ ((r.sampled m).shortBad ≠ 64 → t.on Reg.PC_FSTAT_SHORT c = s.on Reg.PC_FSTAT_SHORT c)
  sense : ((r.sampled m).snsBad = 8 → t.on Reg.PC_FSTAT_SNS_FAULT c = true
      ∧ (s.on Reg.PC_FSTAT_SNS_FAULT c = false → r.get 0 Reg.PC_EXC_FBEN = 0 → t.on Reg.PC_FSTAT_OPEN c = true))
    ∧ ((r.sampled m).snsBad ≠ 8 → t.on Reg.PC_FSTAT_SNS_FAULT c = s.on Reg.PC_FSTAT_SNS_FAULT c)
  pc : ∃ b due, t.pc c = { r.sampled m with sensFault := b, snsDue := due }
  others : ∀ d, d ≠ c → t.pc d = s.pc d

theorem State.monShow_frame (s : State) (c : Nat) (m : PcMon) (r : PcRt) : let u := s.monShow c m r
    u.on Reg.PC_FSTAT_ILIM c = m.ilim ∧ u.on Reg.PC_FSTAT_COMPL c = r.compl m.pins
      ∧ u.on Reg.PC_FSTAT_OPEN c = s.on Reg.PC_FSTAT_OPEN c ∧ u.on Reg.PC_FSTAT_SHORT c = s.on Reg.PC_FSTAT_SHORT c
      ∧ u.on Reg.PC_FSTAT_SNS_FAULT c = s.on Reg.PC_FSTAT_SNS_FAULT c ∧ u.pc c = r.sampled m
      ∧ ∀ d, d ≠ c → u.pc d = s.pc d := by
  dsimp only
  unfold State.monShow
  rw [State.setPc_on, State.setPc_on, State.setPc_on, State.setPc_on, State.setPc_on, State.setPc_same]
  refine ⟨?_, State.on_put_same _ _ _ _ (by decide), ?_, ?_, ?_, rfl, fun d hd => ?_⟩
  · rw [State.on_put_apart _ _ _ _ _ _ (by decide) (by decide), State.on_put_same _ _ _ _ (by decide)]
  · rw [State.on_put_apart _ _ _ _ _ _ (by decide) (by decide), State.on_put_apart _ _ _ _ _ _ (by decide) (by decide)]
  · rw [State.on_put_apart _ _ _ _ _ _ (by decide) (by decide), State.on_put_apart _ _ _ _ _ _ (by decide) (by decide)]
  · rw [State.on_put_apart _ _ _ _ _ _ (by decide) (by decide), State.on_put_apart _ _ _ _ _ _ (by decide) (by decide)]
  · rw [State.setPc_other _ _ hd, State.put_pc, State.put_pc]

/-- The sense check has been made. -/
theorem State.senseStage (s : State) (c : Nat) (m : PcMon) (r : PcRt) : let u := s.monShow c m r
    let v := if (r.sampled m).snsBad = 8 then u.snsRaise c else u
    v.on Reg.PC_FSTAT_ILIM c = m.ilim ∧ v.on Reg.PC_FSTAT_COMPL c = r.compl m.pins
      ∧ ((r.sampled m).snsBad ≠ 8 → v.on Reg.PC_FSTAT_OPEN c = s.on Reg.PC_FSTAT_OPEN c)
      ∧ v.on Reg.PC_FSTAT_SHORT c = s.on Reg.PC_FSTAT_SHORT c
      ∧ ((r.sampled m).snsBad = 8 → v.on Reg.PC_FSTAT_SNS_FAULT c = true
          ∧ (s.on Reg.PC_FSTAT_SNS_FAULT c = false → r.get 0 Reg.PC_EXC_FBEN = 0 → v.on Reg.PC_FSTAT_OPEN c = true))
      ∧ ((r.sampled m).snsBad ≠ 8 → v.on Reg.PC_FSTAT_SNS_FAULT c = s.on Reg.PC_FSTAT_SNS_FAULT c)
      ∧ (∃ b due, v.pc c = { r.sampled m with sensFault := b, snsDue := due }) ∧ ∀ d, d ≠ c → v.pc d = s.pc d := by
  dsimp only
  obtain ⟨uilim, ucompl, uopen, ushort, usns, upc, uothers⟩ := s.monShow_frame c m r
  generalize s.monShow c m r = u at *
  by_cases h8 : (r.sampled m).snsBad = 8
  · rw [if_pos h8]
    obtain ⟨von, vflags, vopened, ⟨b, due, vpc⟩, vothers⟩ := u.senseOf_snsRaise c
    generalize u.snsRaise c = v at *
    refine ⟨?_, ?_, fun h => absurd h8 h, ?_, fun _ => ⟨von, fun hs hb => vopened (usns.trans hs) ?_⟩, fun h => absurd h8 h,
      ⟨b, due, by rw [vpc, upc]⟩, fun d hd => (vothers d hd).trans (uothers d hd)⟩
    · exact (State.on_of_rd (vflags _ ⟨by decide, by decide, fun _ => rfl⟩)).trans uilim
    · exact (State.on_of_rd (vflags _ ⟨by decide, by decide, fun _ => rfl⟩)).trans ucompl
    · exact (State.on_of_rd (vflags _ ⟨by decide, by decide, fun _ => rfl⟩)).trans ushort
    · rw [upc]; exact hb
  · rw [if_neg h8]
    exact ⟨uilim, ucompl, fun _ => uopen, ushort, fun h => absurd h h8, fun _ => usns, ⟨_, _, upc⟩, uothers⟩

theorem State.sampleOf_pcMonitor (s : State) (c : Nat) (m : PcMon) {r : PcRt} (hr : (s.monTake c).pc c = r) (ht : r.type ≠ 0)
    (hl : (s.monTake c).pcLive = true) : (s.monTake c).SampleOf c m r (s.pcMonitor c m) := by
  rw [s.pcMonitor_live c m hr ht hl]
  dsimp only
  obtain ⟨vilim, vcompl, vopen, vshort, vsns, vsns', ⟨b, due, vpc⟩, vothers⟩ := (s.monTake c).senseStage c m r
  generalize (if (r.sampled m).snsBad = 8 then _ else _ : State) = v at *
  have wall : ∃ b, ∀ w, w = (if (r.sampled m).openBad = 64 then v.sensorFault c Reg.PC_FSTAT_OPEN else v) →
      w.on Reg.PC_FSTAT_ILIM c = m.ilim ∧ w.on Reg.PC_FSTAT_COMPL c = r.compl m.pins
        ∧ ((r.sampled m).openBad = 64 ∨ v.on Reg.PC_FSTAT_OPEN c = true → w.on Reg.PC_FSTAT_OPEN c = true)
        ∧ ((r.sampled m).openBad ≠ 64 → w.on Reg.PC_FSTAT_OPEN c = v.on Reg.PC_FSTAT_OPEN c)
        ∧ w.on Reg.PC_FSTAT_SHORT c = v.on Reg.PC_FSTAT_SHORT c ∧ w.on Reg.PC_FSTAT_SNS_FAULT c = v.on Reg.PC_FSTAT_SNS_FAULT c
        ∧ w.pc c = { r.sampled m with sensFault := b, snsDue := due } ∧ ∀ d, d ≠ c → w.pc d = v.pc d := by
    by_cases h64 : (r.sampled m).openBad = 64
    · obtain ⟨won, wflags, ⟨b, wpc⟩, wothers⟩ := v.faultOf_open c
      refine ⟨b, fun w hw => ?_⟩
      rw [if_pos h64] at hw
      subst hw
      exact ⟨(State.on_of_rd (wflags Reg.PC_FSTAT_ILIM (by decide) rfl)).trans vilim, (State.on_of_rd (wflags Reg.PC_FSTAT_COMPL (by decide) rfl)).trans vcompl,
        fun _ => won, fun h => absurd h64 h, State.on_of_rd (wflags _ (by decide) rfl),
        State.on_of_rd (wflags _ (by decide) rfl), by rw [wpc, vpc], wothers⟩
    · refine ⟨b, fun w hw => ?_⟩
      rw [if_neg h64] at hw
      subst hw
      exact ⟨vilim, vcompl, fun h => h.elim (fun h => absurd h h64) id, fun _ => rfl, rfl, rfl, vpc, fun _ _ => rfl⟩
  obtain ⟨b', hw⟩ := wall
  obtain ⟨wilim, wcompl, wopen, wopen', wshort, wsns, wpc, wothers⟩ := hw _ rfl
  generalize (if (r.sampled m).openBad = 64 then _ else _ : State) = w at *
  clear hw
  have wsense : (r.sampled m).snsBad = 8 → w.on Reg.PC_FSTAT_SNS_FAULT c = true
      ∧ ((s.monTake c).on Reg.PC_FSTAT_SNS_FAULT c = false → r.get 0 Reg.PC_EXC_FBEN = 0 → w.on Reg.PC_FSTAT_OPEN c = true) :=
    fun h => ⟨wsns.trans (vsns h).1, fun hs hb => wopen (.inr ((vsns h).2 hs hb))⟩
  by_cases h64 : (r.sampled m).shortBad = 64
  · rw [if_pos h64]
    obtain ⟨ton, tflags, ⟨b, tpc⟩, tothers⟩ := w.faultOf_short c
    generalize w.sensorFault c Reg.PC_FSTAT_SHORT = t at *
    have topen : t.on Reg.PC_FSTAT_OPEN c = w.on Reg.PC_FSTAT_OPEN c := State.on_of_rd (tflags _ (by decide) rfl)
    have tsns : t.on Reg.PC_FSTAT_SNS_FAULT c = w.on Reg.PC_FSTAT_SNS_FAULT c := State.on_of_rd (tflags _ (by decide) rfl)
    exact ⟨(State.on_of_rd (tflags Reg.PC_FSTAT_ILIM (by decide) rfl)).trans wilim, (State.on_of_rd (tflags Reg.PC_FSTAT_COMPL (by decide) rfl)).trans wcompl,
      ⟨fun h => topen.trans (wopen (.inl h)), fun h h8 => topen.trans ((wopen' h).trans (vopen h8))⟩,
      ⟨fun _ => ton, fun h => absurd h64 h⟩,
      ⟨fun h => ⟨tsns.trans (wsense h).1, fun hs hb => topen.trans ((wsense h).2 hs hb)⟩,
        fun h => tsns.trans (wsns.trans (vsns' h))⟩, ⟨b, due, by rw [tpc, wpc]⟩,
      fun d hd => (tothers d hd).trans ((wothers d hd).trans (vothers d hd))⟩
  · rw [if_neg h64]
    exact ⟨wilim, wcompl, ⟨fun h => wopen (.inl h), fun h h8 => (wopen' h).trans (vopen h8)⟩,
      ⟨fun h => absurd h h64, fun _ => wshort.trans vshort⟩, ⟨wsense, fun h => wsns.trans (vsns' h)⟩, ⟨_, _, wpc⟩,
      fun d hd => (wothers d hd).trans (vothers d hd)⟩

/-! ### The settings a sample brings into force (R28, R195) -/

/-- A channel once its monitor settings stand. -/
def PcRt.monTaken (r : PcRt) (new : List Word) : PcRt :=
  { r with force := monSettings r.force new, pair0 := if monSettings r.force new = r.force then r.pair0 else none }

theorem State.monTake_eq (s : State) (c : Nat) : s.monTake c = s.setPc c ((s.pc c).monTaken (s.old.pcWritten c)) := rfl

theorem monSettings_nth (old new : List Word) {k : Nat} (h0 : k ≠ 0) (h2 : k ≠ 2) : nth (monSettings old new) k 0 = nth old k 0 := by
  unfold monSettings nth
  rw [List.getElem?_set_ne (Ne.symm h2), List.getElem?_set_ne (Ne.symm h0)]

theorem monSettings_nth_zero (old new : List Word) (h : 0 < old.length) :
    nth (monSettings old new) 0 0 = (nth new 0 0 &&& 0x00300000) ||| (nth old 0 0 &&& ~~~0x00300000) := by
  unfold monSettings
  rw [nth, List.getElem?_set_ne (by decide), List.getElem?_set_self h]
  rfl

theorem monSettings_nth_two (old new : List Word) (h : 2 < old.length) :
    nth (monSettings old new) 2 0 = (nth new 2 0 &&& 0x00001000) ||| (nth old 2 0 &&& ~~~0x00001000) := by
  unfold monSettings
  rw [nth, List.getElem?_set_self (by rw [List.length_set]; exact h)]
  rfl

/-- A field a mask covers is read of the masked word. -/
theorem read_mixed_in (f : Field) (x y m : Word)
    (h : ∀ k, k < f.hi + 1 - f.lo → m.getLsbD (f.lo + k) = true) : f.read ((x &&& m) ||| (y &&& ~~~m)) = f.read x := by
  refine Nat.eq_of_testBit_eq fun k => ?_
  rw [Field.read_testBit, Field.read_testBit]
  by_cases hk : k < f.hi + 1 - f.lo
  · have hm := h k hk
    rw [← BitVec.testBit_toNat] at hm
    rw [← BitVec.getLsbD, ← BitVec.getLsbD, BitVec.getLsbD_or, BitVec.getLsbD_and, BitVec.getLsbD_and, BitVec.getLsbD_not, h k hk]
    simp
  · rw [decide_eq_false hk, Bool.false_and, Bool.false_and]

/-- A field a mask does not meet is read of the word that stood. -/
theorem read_mixed_out (f : Field) (x y m : Word) (hf : f.hi < 32)
    (h : ∀ k, k < f.hi + 1 - f.lo → m.getLsbD (f.lo + k) = false) : f.read ((x &&& m) ||| (y &&& ~~~m)) = f.read y := by
  refine Nat.eq_of_testBit_eq fun k => ?_
  rw [Field.read_testBit, Field.read_testBit]
  by_cases hk : k < f.hi + 1 - f.lo
  · rw [← BitVec.getLsbD, ← BitVec.getLsbD, BitVec.getLsbD_or, BitVec.getLsbD_and, BitVec.getLsbD_and, BitVec.getLsbD_not, h k hk,
      decide_eq_true (show f.lo + k < 32 by omega)]
    simp
  · rw [decide_eq_false hk, Bool.false_and, Bool.false_and]

theorem PcRt.type_monTaken (r : PcRt) (new : List Word) : (r.monTaken new).type = r.type := by
  have h : (r.monTaken new).get 2 Reg.PC_CONN_TYPE = r.get 2 Reg.PC_CONN_TYPE := by
    unfold PcRt.get PcRt.monTaken
    dsimp only
    by_cases hl : 2 < r.force.length
    · rw [monSettings_nth_two _ _ hl]
      exact read_mixed_out _ _ _ _ (by decide) (by decide)
    · have hn (l : List Word) (h : l.length = r.force.length) : nth l 2 0 = 0 := by
        unfold nth
        rw [List.getElem?_eq_none (by omega)]
        rfl
      rw [hn _ rfl, hn]
      unfold monSettings
      rw [List.length_set, List.length_set]
  unfold PcRt.type
  rw [h]

theorem PcRt.length_of_type {r : PcRt} (h : r.type ≠ 0) : 2 < r.force.length := by
  by_contra hl
  refine h ?_
  have hn : nth r.force 2 0 = 0 := by
    unfold nth
    rw [List.getElem?_eq_none (by omega)]
    rfl
  unfold PcRt.type PcRt.get
  rw [hn]
  rfl

theorem State.pcWritten_zero (s : State) (c : Nat) : nth (s.pcWritten c) 0 0 = s.reg (Reg.PC_EXC_SLIM.addr c) := rfl

theorem State.pcWritten_two (s : State) (c : Nat) : nth (s.pcWritten c) 2 0 = s.reg (Reg.PC_CONN_CLWIN.addr c) := by
  change s.reg (0x20000 + 0x80 * c + 0x08) = s.reg (0x20008 + 0x80 * c)
  rw [Nat.add_right_comm]

theorem PcRt.slim_monTaken (s : State) (c : Nat) {r : PcRt} (h : r.type ≠ 0) : (r.monTaken (s.pcWritten c)).slim
    = nth [50000000, 100000000, 200000000, 300000000] (s.rd Reg.PC_EXC_SLIM c) 300000000 := by
  have hl := PcRt.length_of_type h
  unfold PcRt.slim PcRt.get PcRt.monTaken
  dsimp only
  rw [monSettings_nth_zero _ _ (by omega), read_mixed_in _ _ _ _ (by decide), s.pcWritten_zero]
  rfl

theorem PcRt.clwin_monTaken (s : State) (c : Nat) {r : PcRt} (h : r.type ≠ 0) :
    (r.monTaken (s.pcWritten c)).get 2 Reg.PC_CONN_CLWIN = s.rd Reg.PC_CONN_CLWIN c := by
  unfold PcRt.get PcRt.monTaken
  dsimp only
  rw [monSettings_nth_two _ _ (PcRt.length_of_type h), read_mixed_in _ _ _ _ (by decide), s.pcWritten_two]
  rfl

/-! ### What a sample's checks say -/

/-- The limit of the lead drop as a whole number (R191). -/
theorem slimLimit_cast (k : Nat) : ((nth [50000000, 100000000, 200000000, 300000000] k 300000000 : Nat) : Int)
    = nth [50000000, 100000000, 200000000, 300000000] k 300000000 := by
  match k with
  | 0 => rfl
  | 1 => rfl
  | 2 => rfl
  | 3 => rfl
  | k + 4 => rfl

theorem lt_natAbs_iff (n : Nat) (v : Int) : n < v.natAbs ↔ (n : Int) < |v| := by
  rw [← Int.natCast_natAbs, Nat.cast_lt]

theorem PcRt.senseBad_iff (r : PcRt) (m : PcMon) : r.senseBad m = true
    ↔ senseType r.type = true ∧ ((r.slim : Int) < |m.pins.excP - m.pins.snsP| ∨ (r.slim : Int) < |m.pins.excN - m.pins.snsN|) := by
  unfold PcRt.senseBad leadDropP leadDropN
  rw [Bool.and_eq_true, Bool.or_eq_true, decide_eq_true_eq, decide_eq_true_eq, lt_natAbs_iff, lt_natAbs_iff]

theorem PcRt.outOfReach_iff (r : PcRt) (v : Int) : r.outOfReach v = true
    ↔ v < 200000000 ∨ (if r.get 2 Reg.PC_CONN_CLWIN = 1 then (3300000000 : Int) else 5000000000) < v := by
  unfold PcRt.outOfReach
  rw [Bool.or_eq_true, decide_eq_true_eq, decide_eq_true_eq]

theorem PcRt.compl_iff (r : PcRt) (v : PcPins) : r.compl v = true
    ↔ (r.fedCode false ≠ 0 ∧ r.outOfReach v.iexA = true) ∨ (r.fedCode true ≠ 0 ∧ r.outOfReach v.iexB = true) := by
  unfold PcRt.compl
  rw [Bool.or_eq_true, Bool.and_eq_true, Bool.and_eq_true, bne_iff_ne, bne_iff_ne]

/-! ### The sample as a command -/

theorem pcMonitorSample_one (c : PcId) (m : PcMon) (s : State) : exec (.pcMonitorSample [(c, m)]) s = .next (s.pcMonitor c m) := rfl

theorem State.pcLive_of_mode {s : State} (h4 : 4 ≤ s.mode) (h7 : s.mode ≠ 7) : s.pcLive = true := by
  rw [State.pcLive, decide_eq_true h4, Bool.true_and, bne_iff_ne]
  exact h7

theorem State.pcLive_monTake (s : State) (c : Nat) : (s.monTake c).pcLive = s.pcLive := rfl

/-- A channel that is not connected, or rests, counts nothing. -/
theorem State.pcMonitor_idle (s : State) (c : Nat) (m : PcMon) (h : (s.pc c).type = 0 ∨ s.pcLive = false) :
    s.pcMonitor c m = (((s.monTake c).setPc c { (s.pc c).monTaken (s.old.pcWritten c) with snsBad := 0, openBad := 0, shortBad := 0 }).put
      Reg.PC_FSTAT_ILIM c false).put Reg.PC_FSTAT_COMPL c false := by
  unfold State.pcMonitor
  dsimp only
  rw [show (s.monTake c).pc c = (s.pc c).monTaken (s.old.pcWritten c) by rw [s.monTake_eq, State.setPc_same],
    PcRt.type_monTaken, s.pcLive_monTake]
  refine if_pos ?_
  rw [Bool.or_eq_true, decide_eq_true_eq, Bool.not_eq_true']
  exact h

theorem pcMonitorSample_idle (c : PcId) (m : PcMon) (s : State) (h : s.mode < 4 ∨ s.mode = 7 ∨ (s.pc c).type = 0) :
    ∃ t, exec (.pcMonitorSample [(c, m)]) s = .next t ∧ t.on Reg.PC_FSTAT_ILIM c = false ∧ t.on Reg.PC_FSTAT_COMPL c = false
      ∧ (t.pc c).force = monSettings (s.pc c).force (s.old.pcWritten c) ∧ (t.pc c).openBad = 0 ∧ (t.pc c).shortBad = 0
      ∧ (t.pc c).snsBad = 0 ∧ (∀ d : Nat, d ≠ c → t.pc d = s.pc d)
      ∧ (∀ a, a ≠ Reg.PC_FSTAT_ILIM.addr c → t.reg a = s.reg a) ∧ { t with regs := s.regs, pcs := s.pcs } = s := by
  have hi : (s.pc c).type = 0 ∨ s.pcLive = false := by
    rcases h with h | h | h
    · exact .inr (by rw [State.pcLive, decide_eq_false (Nat.not_le.2 h), Bool.false_and])
    · exact .inr (by rw [State.pcLive, h]; rfl)
    · exact .inl h
  refine ⟨_, (pcMonitorSample_one c m s).trans (congrArg Host.Outcome.next (s.pcMonitor_idle c m hi)), ?_⟩
  generalize hu : (s.monTake c).setPc c _ = u
  have upc : u.pc c = { (s.pc c).monTaken (s.old.pcWritten c) with snsBad := 0, openBad := 0, shortBad := 0 } := by
    rw [← hu, State.setPc_same]
  have uothers (d : Nat) (hd : d ≠ c) : u.pc d = s.pc d := by
    rw [← hu, State.setPc_other _ _ hd, s.monTake_eq, State.setPc_other _ _ hd]
  have ureg (a : Nat) : u.reg a = s.reg a := by rw [← hu, State.setPc_reg, s.monTake_eq, State.setPc_reg]
  refine ⟨?_, State.on_put_same _ _ _ _ (by decide), ?_, ?_, ?_, ?_, fun d hd => ?_, fun a ha => ?_, ?_⟩
  · rw [State.on_put_apart _ _ _ _ _ _ (by decide) (by decide), State.on_put_same _ _ _ _ (by decide)]
  · rw [State.put_pc, State.put_pc, upc]; rfl
  · rw [State.put_pc, State.put_pc, upc]
  · rw [State.put_pc, State.put_pc, upc]
  · rw [State.put_pc, State.put_pc, upc]
  · rw [State.put_pc, State.put_pc, uothers d hd]
  · exact (State.reg_put_other _ Reg.PC_FSTAT_COMPL c false ha).trans
      ((State.reg_put_other _ Reg.PC_FSTAT_ILIM c false ha).trans (ureg a))
  · rw [← hu]
    simp only [State.put, State.wr, State.setReg, State.setPc, State.monTake]

theorem badRun_false (lim n : Nat) : badRun lim n false = 0 := rfl

/-- A live channel's sample: its flags and counts under the settings it brought into force. -/
theorem pcMonitorSample_live (c : PcId) (m : PcMon) (s : State) (h4 : 4 ≤ s.mode) (h7 : s.mode ≠ 7) (ht : (s.pc c).type ≠ 0) :
    ∃ t, exec (.pcMonitorSample [(c, m)]) s = .next t
      ∧ (s.monTake c).SampleOf c m ((s.pc c).monTaken (s.old.pcWritten c)) t :=
  ⟨_, pcMonitorSample_one c m s, s.sampleOf_pcMonitor c m (by rw [s.monTake_eq, State.setPc_same])
    (by rw [PcRt.type_monTaken]; exact ht) (by rw [s.pcLive_monTake]; exact State.pcLive_of_mode h4 h7)⟩

/-! ### Clamps (R202, R203) -/

theorem clampInt_bounds (v : Int) : -50000000 ≤ clampInt (-50000000) 50000000 v ∧ clampInt (-50000000) 50000000 v ≤ 50000000 := by
  unfold clampInt
  split
  · omega
  · split <;> omega

/-- Beyond the error of both thresholds the pin is outside, and inside by as much it is not (Table 8.6). -/
theorem State.clampOut_cases (s : State) (c pin : Nat) (v : Int) :
    let high : Int := if (s.pc c).get 2 Reg.PC_CONN_CLWIN = 1 then 3600000000 else 6300000000
    (v < -350000000 ∨ high + 50000000 < v → s.clampOut c pin v = true)
      ∧ (-250000000 ≤ v → v ≤ high - 50000000 → s.clampOut c pin v = false) := by
  dsimp only
  unfold State.clampOut
  dsimp only
  obtain ⟨hl, hl'⟩ := clampInt_bounds (Config.clampTrip c pin ((s.pc c).get 2 Reg.PC_CONN_CLWIN) false)
  obtain ⟨hh, hh'⟩ := clampInt_bounds (Config.clampTrip c pin ((s.pc c).get 2 Reg.PC_CONN_CLWIN) true)
  refine ⟨fun h => ?_, fun h1 h2 => ?_⟩
  · rw [Bool.or_eq_true, decide_eq_true_eq, decide_eq_true_eq]
    generalize (if (s.pc c).get 2 Reg.PC_CONN_CLWIN = 1 then (3600000000 : Int) else 6300000000) = high at *
    omega
  · rw [Bool.or_eq_false_iff, decide_eq_false_iff_not, decide_eq_false_iff_not]
    generalize (if (s.pc c).get 2 Reg.PC_CONN_CLWIN = 1 then (3600000000 : Int) else 6300000000) = high at *
    omega

/-- A clamp that conducts. -/
theorem State.clampOn_frame (s : State) (c : Nat) {k : Nat} (hk : k < 8) :
    let t := ((s.putBit Reg.PC_FSTAT_CLAMP_NOW c k true).raiseBit Reg.PC_FSTAT_CLAMP c k).setPc c { s.pc c with convClamp := true }
    t.bit Reg.PC_FSTAT_CLAMP_NOW c k = true ∧ t.bit Reg.PC_FSTAT_CLAMP c k = true ∧ (t.pc c).convClamp = true
      ∧ (∀ j, j < 8 → j ≠ k → t.bit Reg.PC_FSTAT_CLAMP_NOW c j = s.bit Reg.PC_FSTAT_CLAMP_NOW c j)
      ∧ ∀ a, a ≠ Reg.PC_FSTAT_CLAMP.addr c → t.reg a = s.reg a := by
  dsimp only
  generalize hu : s.putBit Reg.PC_FSTAT_CLAMP_NOW c k true = u
  have ubit (j : Nat) : u.bit Reg.PC_FSTAT_CLAMP_NOW c j = if j = k then true else s.bit Reg.PC_FSTAT_CLAMP_NOW c j :=
    hu ▸ s.bit_putBit Reg.PC_FSTAT_CLAMP_NOW c k true j (by decide) hk
  have ureg (a : Nat) (ha : a ≠ Reg.PC_FSTAT_CLAMP.addr c) : u.reg a = s.reg a := hu ▸ s.reg_putBit_other Reg.PC_FSTAT_CLAMP_NOW c k true ha
  have now (j : Nat) : ((u.raiseBit Reg.PC_FSTAT_CLAMP c k).setPc c { s.pc c with convClamp := true }).bit Reg.PC_FSTAT_CLAMP_NOW c j
      = u.bit Reg.PC_FSTAT_CLAMP_NOW c j := by
    refine State.bit_of_rd ?_ j
    rw [State.setPc_rd, State.rd_raiseBit_apart _ _ _ _ _ _ (by decide) (by decide)]
  refine ⟨(now k).trans ((ubit k).trans (if_pos rfl)), ?_, ?_, fun j _ hj => (now j).trans ((ubit j).trans (if_neg hj)), fun a ha => ?_⟩
  · rw [State.bit, State.setPc_rd]
    exact (u.bit_raiseBit Reg.PC_FSTAT_CLAMP c k k (by decide) hk).trans (by rw [decide_eq_true rfl, Bool.or_true])
  · rw [State.setPc_same]
  · rw [State.setPc_reg, State.reg_raiseBit_other _ _ _ _ ha, ureg a ha]

/-- Settles O39: a live channel's sample is taken apart into its checks; a clamp follows the pin's voltage. -/
theorem pinMonitors : Obligations.PinMonitors := by
  unfold Obligations.PinMonitors
  refine ⟨fun c m s h4 h7 ht => ?_, fun s => rfl, fun c m s h => pcMonitorSample_idle c m s h, fun c pin v s => ⟨fun h => ?_, fun h1 h2 => ?_⟩⟩
  · obtain ⟨t, hexec, hilim, hcompl, ⟨hopen, hopen'⟩, ⟨hshort, hshort'⟩, ⟨hsense, hsense'⟩, ⟨b, due, hpc⟩, hothers⟩ :=
      pcMonitorSample_live c m s h4 h7 ht
    have hslim := PcRt.slim_monTaken s.old c ht
    have hclwin := PcRt.clwin_monTaken s.old c ht
    have htype : ((s.pc c).monTaken (s.old.pcWritten c)).type = (s.pc c).type := PcRt.type_monTaken _ _
    have hforce : ((s.pc c).monTaken (s.old.pcWritten c)).force = monSettings (s.pc c).force (s.old.pcWritten c) := rfl
    have hsns : ((s.pc c).monTaken (s.old.pcWritten c)).senseBad m = true ↔ senseType ((s.pc c).monTaken (s.old.pcWritten c)).type = true
        ∧ (nth [50000000, 100000000, 200000000, 300000000] (s.old.rd Reg.PC_EXC_SLIM c) (300000000 : Int) < |m.pins.excP - m.pins.snsP|
          ∨ nth [50000000, 100000000, 200000000, 300000000] (s.old.rd Reg.PC_EXC_SLIM c) (300000000 : Int) < |m.pins.excN - m.pins.snsN|) := by
      rw [PcRt.senseBad_iff, hslim, slimLimit_cast]
    have hcases (v : PcPins) := PcRt.compl_iff ((s.pc c).monTaken (s.old.pcWritten c)) v
    simp only [PcRt.outOfReach_iff, hclwin] at hcases
    have h64o := (badRun_eq (n := ((s.pc c).monTaken (s.old.pcWritten c)).openBad)
      (((s.pc c).monTaken (s.old.pcWritten c)).openBadSample m) (show 0 < 64 by decide))
    have h64s := (badRun_eq (n := ((s.pc c).monTaken (s.old.pcWritten c)).shortBad)
      (((s.pc c).monTaken (s.old.pcWritten c)).shortBadSample m) (show 0 < 64 by decide))
    have h8 := (badRun_eq (n := ((s.pc c).monTaken (s.old.pcWritten c)).snsBad)
      (((s.pc c).monTaken (s.old.pcWritten c)).senseBad m) (show 0 < 8 by decide))
    rw [← PcRt.sampled_snsBad] at h8
    refine ⟨t, hexec, hilim, ?_, fun hb hn => hopen (h64o.2 ⟨hb, Nat.succ_le_succ hn⟩), fun hb => ⟨?_, fun hs => ?_⟩,
      fun hb hn => hshort (h64s.2 ⟨hb, Nat.succ_le_succ hn⟩), fun hb => hshort' fun h => ?_,
      fun hs hn => ⟨(hsense (h8.2 ⟨hsns.2 hs, Nat.succ_le_succ hn⟩)).1, fun _ => (hsense (h8.2 ⟨hsns.2 hs, Nat.succ_le_succ hn⟩)).2⟩,
      fun hs => ⟨?_, hsense' fun h => ?_⟩, by rw [hpc]; rfl, fun d hd => ?_⟩
    · rw [hcompl]
      exact hcases m.pins
    · rw [hpc]
      exact (congrArg (badRun 64 _) hb).trans (badRun_false 64 _)
    · exact hopen' (fun h => Bool.noConfusion (hb.symm.trans (h64o.1 h).1)) fun h => hs (hsns.1 (h8.1 h).1)
    · exact Bool.noConfusion (hb.symm.trans (h64s.1 h).1)
    · rw [hpc]
      have hf : ((s.pc c).monTaken (s.old.pcWritten c)).senseBad m = false := by
        rw [← Bool.not_eq_true]
        exact fun h => hs (hsns.1 h)
      exact (PcRt.sampled_snsBad _ m).trans ((congrArg (badRun 8 _) hf).trans (badRun_false 8 _))
    · exact hs (hsns.1 (h8.1 h).1)
    · rw [hothers d hd, s.monTake_eq, State.setPc_other _ _ hd]
  · obtain ⟨hnow, hclamp, hconv, hothers, hreg⟩ := s.clampOn_frame c pin.isLt
    have hout := (s.clampOut_cases c pin.toNat v).1 h
    exact ⟨⟨_, congrArg Host.Outcome.next (if_pos hout), hnow, hclamp, hconv, hothers, hreg⟩, congrArg Host.Outcome.next (if_pos hout)⟩
  · have hin := (s.clampOut_cases c pin.toNat v).2 h1 h2
    have hbit (j : Nat) := s.bit_putBit Reg.PC_FSTAT_CLAMP_NOW c pin.toNat false j (by decide) pin.isLt
    exact ⟨congrArg Host.Outcome.next (if_neg (by rw [hin]; decide)), s.putBit Reg.PC_FSTAT_CLAMP_NOW c pin.toNat false,
      congrArg Host.Outcome.next (if_neg (by rw [hin]; decide)), (hbit _).trans (if_pos rfl),
      s.rd_wr_apart Reg.PC_FSTAT_CLAMP_NOW Reg.PC_FSTAT_CLAMP c c _ (by decide) (by decide),
      ⟨fun j _ hj => (hbit j).trans (if_neg hj), fun a ha => s.reg_putBit_other Reg.PC_FSTAT_CLAMP_NOW c pin.toNat false ha⟩, rfl⟩

end Sys2Proof.Machine
end
-- ==== Sys2Proof/Proofs/FilterBoundaries.lean ====
section
/-! A filter boundary of a precision channel: its result, its conversion boundary (R206 to R218), and PCVAL (R228). -/

namespace Sys2Proof.Machine

/-! ### What a step of one precision channel leaves -/

/-- A step of channel `c` that touches, of the precision registers, only those at the offsets `offs` of its own, and leaves the
settings in force, the pending write and the latest result. -/
structure State.PcStep (c : Nat) (offs : List Nat) (s t : State) : Prop where
  others : ∀ d, d ≠ c → t.pc d = s.pc d
  reg : ∀ a, 0x20000 ≤ a → a < 0x20C00 → (∀ o ∈ offs, a ≠ 0x20000 + 0x80 * c + o) → t.reg a = s.reg a
  force : (t.pc c).force = (s.pc c).force
  wroteAt : (t.pc c).wroteAt = (s.pc c).wroteAt
  lastX : (t.pc c).lastX = (s.pc c).lastX
  time : t.before = s.before ∧ t.tick = s.tick ∧ t.lany = s.lany ∧ t.acc = s.acc

section
variable {c : Nat} {l l' : List Nat} {s t u : State}

theorem State.PcStep.refl (c : Nat) (l : List Nat) (s : State) : s.PcStep c l s :=
  ⟨fun _ _ => rfl, fun _ _ _ _ => rfl, rfl, rfl, rfl, rfl, rfl, rfl, rfl⟩

theorem State.PcStep.trans (h : s.PcStep c l t) (k : t.PcStep c l u) : s.PcStep c l u := by
  obtain ⟨ho, hr, hf, hw, hx, hb, ht, hl, ha⟩ := h
  obtain ⟨ko, kr, kf, kw, kx, kb, kt, kl, ka⟩ := k
  exact ⟨fun d hd => (ko d hd).trans (ho d hd), fun a h1 h2 h3 => (kr a h1 h2 h3).trans (hr a h1 h2 h3), kf.trans hf,
    kw.trans hw, kx.trans hx, kb.trans hb, kt.trans ht, kl.trans hl, ka.trans ha⟩

theorem State.PcStep.mono (h : s.PcStep c l t) (hl : ∀ o ∈ l, o ∈ l') : s.PcStep c l' t :=
  { h with reg := fun a h1 h2 h3 => h.reg a h1 h2 fun o ho => h3 o (hl o ho) }

theorem State.PcStep.reg_at (h : s.PcStep c l t) (hc : c < 24) {o : Nat} (ho : o < 0x80) (hn : ∀ x ∈ l, o ≠ x) :
    t.reg (0x20000 + 0x80 * c + o) = s.reg (0x20000 + 0x80 * c + o) :=
  h.reg _ (by omega) (by omega) fun x hx => by have := hn x hx; omega

/-- A step that leaves every channel, the precision registers and the clocks. -/
theorem State.PcStep.of_same (hp : t.pcs = s.pcs) (hr : ∀ a, 0x20000 ≤ a → a < 0x20C00 → t.reg a = s.reg a)
    (ht : t.before = s.before ∧ t.tick = s.tick ∧ t.lany = s.lany ∧ t.acc = s.acc) : s.PcStep c l t :=
  ⟨fun _ _ => State.pc_of_pcs hp _, fun a h1 h2 _ => hr a h1 h2, by rw [State.pc_of_pcs hp], by rw [State.pc_of_pcs hp],
    by rw [State.pc_of_pcs hp], ht⟩

theorem State.PcStep.setPc (s : State) {c : Nat} {r : PcRt} (hf : r.force = (s.pc c).force) (hw : r.wroteAt = (s.pc c).wroteAt)
    (hx : r.lastX = (s.pc c).lastX) : s.PcStep c l (s.setPc c r) :=
  ⟨fun _ hd => s.setPc_other r hd, fun a _ _ _ => s.setPc_reg c r a, by rw [State.setPc_same, hf], by rw [State.setPc_same, hw],
    by rw [State.setPc_same, hx], rfl, rfl, rfl, rfl⟩

/-- The register of channel `c` at offset `o`. -/
theorem Field.addr_pc (f : Field) (c o : Nat) (hs : f.stride = 0x80) (hb : f.base = 0x20000 + o) :
    f.addr c = 0x20000 + 0x80 * c + o := by
  rw [Field.addr, hs, hb]
  omega

theorem State.PcStep.wr (s : State) (c : Nat) (f : Field) (v o : Nat) (hs : f.stride = 0x80) (hb : f.base = 0x20000 + o)
    (ho : o ∈ l) : s.PcStep c l (s.wr f c v) :=
  ⟨fun _ _ => s.wr_pc f c v _, fun a _ _ h => s.reg_wr_other f c v (f.addr_pc c o hs hb ▸ h o ho), congrArg PcRt.force (s.wr_pc f c v c),
    congrArg PcRt.wroteAt (s.wr_pc f c v c), congrArg PcRt.lastX (s.wr_pc f c v c), s.wr_before f c v, s.wr_tick f c v, s.wr_lany f c v,
    s.wr_acc f c v⟩

theorem State.PcStep.put (s : State) (c : Nat) (f : Field) (b : Bool) (o : Nat) (hs : f.stride = 0x80) (hb : f.base = 0x20000 + o)
    (ho : o ∈ l) : s.PcStep c l (s.put f c b) := .wr s c f _ o hs hb ho

theorem State.PcStep.raise (s : State) (c : Nat) (f : Field) (o : Nat) (hs : f.stride = 0x80) (hb : f.base = 0x20000 + o)
    (ho : o ∈ l) : s.PcStep c l (s.raise f c) :=
  (State.PcStep.put s c f true o hs hb ho).trans (.of_same rfl (fun _ _ _ => rfl) ⟨rfl, rfl, rfl, rfl⟩)

theorem State.PcStep.logged (h : s.Logged t) : s.PcStep c l t := by
  refine .of_same h.pcs (fun a h1 _ => h.reg (.inr (by omega))) ?_
  obtain ⟨_, _, _, _, _, rfl, -⟩ := h
  exact ⟨rfl, rfl, rfl, rfl⟩

theorem State.PcStep.ite {p : Prop} [Decidable p] (h : p → s.PcStep c l t) (k : ¬ p → s.PcStep c l u) :
    s.PcStep c l (if p then t else u) := by
  split
  · exact h ‹_›
  · exact k ‹_›

end

/-! ### The parts of a delivered result -/

section
variable (s : State) (c : Nat)

theorem State.pcStep_source (l : List Nat) (k : Nat) : s.PcStep c l (s.source k) :=
  .of_same rfl (fun _ _ _ => rfl) ⟨rfl, rfl, rfl, rfl⟩

theorem State.pcStep_logNow (l : List Nat) (code island a0 a1 a2 a3 : Nat) :
    s.PcStep c l (s.logNow code island a0 a1 a2 a3) :=
  .logged (s.logged_logBy 0 code island a0 a1 a2 a3)

theorem State.pcStep_event (l : List Nat) (k : Nat) : s.PcStep c l (s.event k) := by
  refine .of_same rfl (fun a _ h => s.reg_event_other k ?_) ⟨rfl, rfl, rfl, rfl⟩
  simp only [Field.addr, Reg.HOSTLINK_EVT_PEND]
  omega

theorem State.pcStep_sendPcval (l : List Nat) : s.PcStep c l s.sendPcval := by
  unfold State.sendPcval
  exact .ite (fun _ => .refl ..) fun _ => .of_same rfl (fun _ _ _ => rfl) ⟨rfl, rfl, rfl, rfl⟩

theorem State.pcStep_gather (l : List Nat) (r : PcRec) : s.PcStep c l (s.gather r) := by
  unfold State.gather
  refine .ite (fun _ => ?_) fun _ => ?_
  · refine State.PcStep.trans (.of_same (s.bump_pcs ..) (fun a _ h => s.reg_wr_other Reg.HOSTLINK_PCLOST_N 0 _ ?_)
      ⟨s.bump_before .., s.bump_tick .., s.bump_lany .., s.bump_acc ..⟩) (State.pcStep_event ..)
    simp only [Field.addr, Reg.HOSTLINK_PCLOST_N]
    omega
  · have h : s.PcStep c l { s with pcq := s.pcq ++ [r] } := .of_same rfl (fun _ _ _ => rfl) ⟨rfl, rfl, rfl, rfl⟩
    dsimp only
    exact .ite (fun _ => h.trans (State.pcStep_sendPcval ..)) fun _ => h

theorem State.pcStep_pcRecord (l : List Nat) (x : PcResult) : s.PcStep c l (s.pcRecord c x) := by
  unfold State.pcRecord
  dsimp only
  refine .ite (fun _ => .refl ..) fun _ => ?_
  have h (n m : Nat) : s.PcStep c l (s.setPc c { s.pc c with seqNo := n, decCount := m }) := .setPc s rfl rfl rfl
  exact .ite (fun _ => (h _ _).trans (State.pcStep_gather ..)) fun _ => h _ _

theorem State.pcStep_showLoad (m n : Nat) : s.PcStep c [0x14, 0x18] ((s.wr Reg.PC_IMEAS_I c m).wr Reg.PC_RLOAD_R c n) :=
  (State.PcStep.wr (l := [0x14, 0x18]) s c Reg.PC_IMEAS_I m 0x14 rfl rfl (by decide)).trans
    (.wr _ c Reg.PC_RLOAD_R n 0x18 rfl rfl (by decide))

theorem State.pcStep_pcHold (x : PcIn) : s.PcStep c [0x14, 0x18] (s.pcHold c x) := by
  unfold State.pcHold
  dsimp only
  refine .ite (fun _ => ?_) fun _ => ?_
  · generalize hu : s.setPc c _ = u
    have h : s.PcStep c [0x14, 0x18] u := hu ▸ .setPc s rfl rfl rfl
    exact h.trans (u.pcStep_showLoad c 0 0)
  · generalize hu : s.setPc c _ = u
    have h : s.PcStep c [0x14, 0x18] u := hu ▸ .setPc s rfl rfl rfl
    exact h.trans (u.pcStep_showLoad c _ _)

theorem State.pcStep_rangeSeen : s.PcStep c [0x60] (s.rangeSeen c) := by
  unfold State.rangeSeen
  dsimp only
  refine .ite (fun _ => .refl ..) fun _ => ?_
  have h : s.PcStep c [0x60] (s.raise Reg.PC_CSTAT_RANGE_SEEN c) := .raise s c _ 0x60 rfl rfl (by decide)
  exact .ite (fun _ => h.trans (State.pcStep_source ..)) fun _ => h

theorem State.pcStep_refCheck (xe : Int) : s.PcStep c [0x60] (s.refCheck c xe) := by
  unfold State.refCheck
  dsimp only
  refine .ite (fun _ => .refl ..) fun _ => .ite (fun _ => ?_) fun _ => .refl ..
  have h : s.PcStep c [0x60] (s.raise Reg.PC_CSTAT_REF_DRIFT c) := .raise s c _ 0x60 rfl rfl (by decide)
  exact (h.trans (State.pcStep_logNow ..)).trans (State.pcStep_source ..)

theorem State.pcStep_raiseBit (l : List Nat) (f : Field) (i k : Nat) (h : f.addr i < 0x20000) : s.PcStep c l (s.raiseBit f i k) :=
  .of_same (s.raiseBit_pcs ..) (fun a h1 _ => s.reg_raiseBit_other f i k (by omega))
    ⟨s.raiseBit_before .., s.raiseBit_tick .., s.raiseBit_lany .., s.raiseBit_acc ..⟩

theorem State.pcStep_pcalReject (k : Nat) : s.PcStep c [0x60] (s.pcalReject c k) := by
  unfold State.pcalReject
  dsimp only
  have h0 (r : List Nat) : s.PcStep c [0x60] (s.setPc c { s.pc c with rejRun := r }) := .setPc s rfl rfl rfl
  have h (r : List Nat) : s.PcStep c [0x60] ((s.setPc c { s.pc c with rejRun := r }).raise Reg.PC_CSTAT_ICAL_REJ c) :=
    (h0 r).trans (.raise _ c _ 0x60 rfl rfl (by decide))
  refine .ite (fun _ => ?_) fun _ => h _
  have h2 := ((h ((s.pc c).rejRun.set k (min 3 (nth (s.pc c).rejRun k 0 + 1)))).trans
    (State.pcStep_raiseBit _ c _ Reg.SAFETY_PCALREJ_C 0 c (by decide))).trans (State.pcStep_logNow _ c _ 0x34 5 c 0 0 0)
  exact .ite (fun _ => h2.trans (State.pcStep_source ..)) fun _ => h2

theorem State.pcStep_judgeOff (g : Nat) (v : Int) : s.PcStep c [0x60] (s.judgeOff c g v) := by
  unfold State.judgeOff State.pcalAccept
  dsimp only
  exact .ite (fun _ => .setPc s rfl rfl rfl) fun _ => State.pcStep_pcalReject ..

theorem State.pcStep_sysCollect (xe : Int) : s.PcStep c [0x60] (s.sysCollect c xe) := by
  unfold State.sysCollect
  dsimp only
  split
  · exact .refl ..
  · have h : s.PcStep c [0x60] (s.put Reg.PC_CSTAT_SYS_BUSY c false) := .put s c _ _ 0x60 rfl rfl (by decide)
    have hp : (s.put Reg.PC_CSTAT_SYS_BUSY c false).pc c = s.pc c := s.put_pc ..
    refine .ite (fun _ => .setPc s rfl rfl rfl) fun _ => ?_
    split
    · exact h.trans (.setPc _ (by rw [hp]) (by rw [hp]) (by rw [hp]))
    · exact (h.trans (.setPc _ (by rw [hp]) (by rw [hp]) (by rw [hp]))).trans (.raise _ c _ 0x60 rfl rfl (by decide))

theorem State.pcStep_autoGain (xe : Nat) (ovr : Bool) : s.PcStep c [0x60] (s.autoGain c xe ovr) := by
  unfold State.autoGain
  dsimp only
  refine .ite (fun _ => .setPc s rfl rfl rfl) fun _ => ?_
  split
  · rename_i g lim _
    have h : s.PcStep c [0x60] (if lim = true then s.raise Reg.PC_CSTAT_AGAIN_LIMIT c else s) :=
      .ite (fun _ => .raise s c _ 0x60 rfl rfl (by decide)) fun _ => .refl ..
    have hp : (if lim = true then s.raise Reg.PC_CSTAT_AGAIN_LIMIT c else s).pc c = s.pc c := by
      split
      · exact s.raise_pc ..
      · rfl
    generalize (if lim = true then s.raise Reg.PC_CSTAT_AGAIN_LIMIT c else s) = u at h hp ⊢
    exact .ite (fun _ => h.trans (.setPc _ (by rw [hp]) (by rw [hp]) (by rw [hp])))
      fun _ => h.trans (.setPc _ (by rw [hp]) (by rw [hp]) (by rw [hp]))
  · exact .setPc s rfl rfl rfl

/-- The derating takes the result (R128). -/
theorem State.deratingResult_frame (xe : Int) : let t := s.deratingResult c xe
    (t.pc c).lastX = some (xOf xe) ∧ (t.pc c).force = (s.pc c).force ∧ (t.pc c).wroteAt = (s.pc c).wroteAt
      ∧ (∀ d, d ≠ c → t.pc d = s.pc d) ∧ t.regs = s.regs ∧ t.before = s.before ∧ t.tick = s.tick ∧ t.lany = s.lany
      ∧ t.acc = s.acc := by
  dsimp only
  unfold State.deratingResult
  dsimp only
  generalize hu : s.setPc c _ = u
  obtain ⟨hp, hr⟩ := u.derNotify_frame c
  have ht : (u.derNotify c).before = u.before ∧ (u.derNotify c).tick = u.tick ∧ (u.derNotify c).lany = u.lany
      ∧ (u.derNotify c).acc = u.acc := by
    refine State.each_keeps (P := fun t : State => t.before = u.before ∧ t.tick = u.tick ∧ t.lany = u.lany ∧ t.acc = u.acc)
      (fun p _ t h => ?_) ⟨rfl, rfl, rfl, rfl⟩
    dsimp only
    split
    · exact h
    · exact h
  obtain ⟨hb, ht, hl, ha⟩ := ht
  rw [State.pc_of_pcs hp, hr, hb, ht, hl, ha, ← hu, State.setPc_same]
  exact ⟨rfl, rfl, rfl, fun d hd => (State.pc_of_pcs (hu ▸ hp) d).trans (State.setPc_other _ _ hd), rfl, rfl, rfl, rfl, rfl⟩

/-- What a valid result shows (R214). -/
theorem State.validResult_frame (hc : c < 24) (raw : Int) (x : PcResult) : let t := s.validResult c raw x
    s.PcStep c [0x54, 0x58, 0x60] t ∧ t.rd Reg.PC_RES_X c = (BitVec.ofInt 24 (xOf x.xe)).toNat
      ∧ t.rd Reg.PC_RESE_XE c = (BitVec.ofInt 32 x.xe).toNat := by
  dsimp only
  unfold State.validResult
  dsimp only
  generalize hw : (s.wr Reg.PC_RES_X c (BitVec.ofInt 24 (xOf x.xe)).toNat).wr Reg.PC_RESE_XE c (BitVec.ofInt 32 x.xe).toNat = w
  have wstep : s.PcStep c [0x54, 0x58, 0x60] w := hw ▸ (State.PcStep.wr s c Reg.PC_RES_X _ 0x54 rfl rfl (by decide)).trans
    (.wr _ c Reg.PC_RESE_XE _ 0x58 rfl rfl (by decide))
  have wpc : w.pc c = s.pc c := by rw [← hw, State.wr_pc, State.wr_pc]
  have wres : w.rd Reg.PC_RES_X c = (BitVec.ofInt 24 (xOf x.xe)).toNat := by
    rw [← hw, State.rd_wr_addr _ _ _ _ _ _ (by simp only [Field.addr, Reg.PC_RES_X, Reg.PC_RESE_XE]; omega),
      State.rd_wr_same _ _ _ _ (by decide)]
    exact Nat.mod_eq_of_lt (BitVec.isLt _)
  have wrese : w.rd Reg.PC_RESE_XE c = (BitVec.ofInt 32 x.xe).toNat := by
    rw [← hw, State.rd_wr_same _ _ _ _ (by decide)]
    exact Nat.mod_eq_of_lt (BitVec.isLt _)
  generalize hv : w.setPc c _ = v
  have vstep : w.PcStep c [0x54, 0x58, 0x60] v := hv ▸ .setPc w (by rw [wpc]) (by rw [wpc]) (by rw [wpc])
  have vres (f : Field) : v.rd f c = w.rd f c := by rw [← hv, State.setPc_rd]
  have lat : v.PcStep c [0x60] (if (s.pc c).sel = 0 then v.sysCollect c ((s.pc c).xePlain raw) else v) :=
    .ite (fun _ => State.pcStep_sysCollect ..) fun _ => .refl ..
  generalize (if (s.pc c).sel = 0 then v.sysCollect c ((s.pc c).xePlain raw) else v) = t at lat ⊢
  have hres : t.rd Reg.PC_RES_X c = v.rd Reg.PC_RES_X c :=
    State.rd_of_reg (by
      have h := lat.reg_at hc (o := 0x54) (by decide) (by decide)
      rwa [Nat.add_right_comm] at h)
  have hrese : t.rd Reg.PC_RESE_XE c = v.rd Reg.PC_RESE_XE c :=
    State.rd_of_reg (by
      have h := lat.reg_at hc (o := 0x58) (by decide) (by decide)
      rwa [Nat.add_right_comm] at h)
  exact ⟨(wstep.trans vstep).trans (lat.mono (by decide)), hres.trans ((vres _).trans wres), hrese.trans ((vres _).trans wrese)⟩

end

/-! ### A result period ends -/

/-- No mark of the first group that is set makes a result invalid, nor does one of the second (R215). -/
theorem marks_valid : ∀ b2 b9 b11 b12 b13 b5 b6 b7 b10 : Bool,
    let base := flagWord [(false, 0), (false, 1), (b2, 2), (false, 4), (false, 8), (b9, 9), (b11, 11), (b12, 12), (b13, 13)]
    (base &&& invalidMarks != 0) = false
      ∧ (base + flagWord [(b5, 5), (b6, 6), (b7, 7), (b10, 10)]) &&& invalidMarks = 0 := by
  decide +kernel

/-- A conversion without a mark that makes it invalid. -/
theorem State.resultOf_valid (s : State) (c : Nat) (x : PcIn) (h0 : (s.pc c).convSns = false) (h1 : (s.pc c).convClamp = false)
    (h4 : x.ovr = false) (hd : (s.pc c).diagNow = false) (h8 : (s.pc c).sel ≠ 8) (h9 : (s.pc c).sel ≠ 9) :
    (s.resultOf c x).valid = true ∧ (s.resultOf c x).xe = s.xe c (s.pcRaw c x) := by
  unfold State.resultOf
  dsimp only
  rw [h0, h1, h4, hd, decide_eq_false h8, decide_eq_false h9, Bool.or_self, Bool.or_self]
  obtain ⟨hb, -⟩ := marks_valid (s.on Reg.PC_FSTAT_FALLBACK c) (decide ((s.pc c).phase = 1)) (s.on Reg.PC_FSTAT_OPEN c)
    (s.on Reg.PC_FSTAT_SHORT c) (decide ((s.pc c).sel = 0) && (s.rd Reg.PC_SYSOFF_X c != 0 || s.rd Reg.PC_SYSGAIN_G c != 0))
    false false false false
  rw [if_neg fun h => Bool.noConfusion (hb.symm.trans h)]
  exact ⟨decide_eq_true (marks_valid _ _ _ _ _ _ _ _ _).2, rfl⟩

/-- What delivering a result leaves before its values are shown, and after: `y` the result. -/
def State.deliverFirst (c : Nat) (x : PcIn) (y : PcResult) (s : State) : State :=
  let r := s.pc c
  let s := (s.pcRecord c y).deratingResult c y.xe
  let s := if x.ovr then s.raise Reg.PC_CSTAT_OVR_SEEN c else s
  let s := if voltType r.type && !y.flags.testBit 0 && !y.flags.testBit 1 then s.pcHold c x else s
  if y.flags.testBit 5 then s.rangeSeen c else s

def State.deliverLast (c : Nat) (x : PcIn) (y : PcResult) (raw : Int) (r : PcRt) (s : State) : State :=
  let s := if r.sel = 2 then s.refCheck c y.xe else s
  let s := if r.diagNow && r.sel = 1 then s.judgeOff c r.gain raw else s
  if r.sel != 0 || r.diagNow then s
  else if y.valid || x.ovr then s.autoGain c y.xe.natAbs x.ovr
  else s.setPc c { s.pc c with upPrev := none }

theorem State.deliver_eq (s : State) (c : Nat) (x : PcIn) : s.deliver c x =
    (let y := s.resultOf c x
     let u := s.deliverFirst c x y
     let v := if y.valid then u.validResult c (s.pcRaw c x) y else u.setPc c { u.pc c with pair0 := none }
     v.deliverLast c x y (s.pcRaw c x) (s.pc c)) := rfl

theorem State.pcStep_deliverLast (s : State) (c : Nat) (x : PcIn) (y : PcResult) (raw : Int) (r : PcRt) :
    s.PcStep c [0x60] (s.deliverLast c x y raw r) := by
  unfold State.deliverLast
  dsimp only
  have h1 : s.PcStep c [0x60] (if r.sel = 2 then s.refCheck c y.xe else s) :=
    .ite (fun _ => State.pcStep_refCheck ..) fun _ => .refl ..
  generalize (if r.sel = 2 then s.refCheck c y.xe else s) = u at h1 ⊢
  have h2 : u.PcStep c [0x60] (if (r.diagNow && decide (r.sel = 1)) = true then u.judgeOff c r.gain raw else u) :=
    .ite (fun _ => State.pcStep_judgeOff ..) fun _ => .refl ..
  generalize (if (r.diagNow && decide (r.sel = 1)) = true then u.judgeOff c r.gain raw else u) = v at h2 ⊢
  exact (h1.trans h2).trans (.ite (fun _ => .refl ..) fun _ => .ite (fun _ => State.pcStep_autoGain ..)
    fun _ => .setPc v rfl rfl rfl)

/-- A step that leaves of its channel the settings and the pending write, the latest result being `x`. -/
structure State.Delivered (c : Nat) (offs : List Nat) (lastX : Option Int) (s t : State) : Prop where
  others : ∀ d, d ≠ c → t.pc d = s.pc d
  reg : ∀ a, 0x20000 ≤ a → a < 0x20C00 → (∀ o ∈ offs, a ≠ 0x20000 + 0x80 * c + o) → t.reg a = s.reg a
  force : (t.pc c).force = (s.pc c).force
  wroteAt : (t.pc c).wroteAt = (s.pc c).wroteAt
  lastX : (t.pc c).lastX = lastX
  time : t.before = s.before ∧ t.tick = s.tick ∧ t.lany = s.lany ∧ t.acc = s.acc

theorem State.Delivered.then {c : Nat} {l : List Nat} {v : Option Int} {s t u : State} (h : s.Delivered c l v t)
    (k : t.PcStep c l u) : s.Delivered c l v u := by
  obtain ⟨ho, hr, hf, hw, hx, hb, ht, hl, ha⟩ := h
  obtain ⟨ko, kr, kf, kw, kx, kb, kt, kl, ka⟩ := k
  exact ⟨fun d hd => (ko d hd).trans (ho d hd), fun a h1 h2 h3 => (kr a h1 h2 h3).trans (hr a h1 h2 h3), kf.trans hf,
    kw.trans hw, kx.trans hx, kb.trans hb, kt.trans ht, kl.trans hl, ka.trans ha⟩

/-- The registers a delivered result may touch: PC_IMEAS, PC_RLOAD, PC_RES, PC_RESE, PC_CSTAT. -/
def resultOffs : List Nat := [0x14, 0x18, 0x54, 0x58, 0x60]

theorem State.delivered_first (s : State) (c : Nat) (x : PcIn) (y : PcResult) :
    s.Delivered c resultOffs (some (xOf y.xe)) (s.deliverFirst c x y) := by
  unfold State.deliverFirst
  dsimp only
  have h0 := s.pcStep_pcRecord c resultOffs y
  generalize s.pcRecord c y = u0 at h0 ⊢
  obtain ⟨hx, hf, hw, ho, hr, hb, ht, hl, ha⟩ := u0.deratingResult_frame c y.xe
  generalize u0.deratingResult c y.xe = u1 at *
  have h1 : s.Delivered c resultOffs (some (xOf y.xe)) u1 :=
    ⟨fun d hd => (ho d hd).trans (h0.others d hd), fun a h1 h2 h3 => (State.reg_of_regs hr a).trans (h0.reg a h1 h2 h3),
      hf.trans h0.force, hw.trans h0.wroteAt, hx, hb.trans h0.time.1, ht.trans h0.time.2.1, hl.trans h0.time.2.2.1, ha.trans h0.time.2.2.2⟩
  have h2 : u1.PcStep c resultOffs (if x.ovr = true then u1.raise Reg.PC_CSTAT_OVR_SEEN c else u1) :=
    .ite (fun _ => .raise u1 c _ 0x60 rfl rfl (by decide)) fun _ => .refl ..
  generalize (if x.ovr = true then u1.raise Reg.PC_CSTAT_OVR_SEEN c else u1) = u2 at h2 ⊢
  generalize hv : (if (voltType (s.pc c).type && !y.flags.testBit 0 && !y.flags.testBit 1) = true then u2.pcHold c x else u2) = u3
  have h3 : u2.PcStep c resultOffs u3 :=
    hv ▸ .ite (fun _ => (State.pcStep_pcHold ..).mono (by decide)) fun _ => .refl ..
  exact ((h1.then h2).then h3).then (.ite (fun _ => (State.pcStep_rangeSeen ..).mono (by decide)) fun _ => .refl ..)

/-- A result period ends: what it leaves, and what a valid result shows (R214). -/
theorem State.deliver_frame (s : State) (c : Nat) (hc : c < 24) (x : PcIn) : let t := s.deliver c x
    s.Delivered c resultOffs (some (xOf (s.resultOf c x).xe)) t
      ∧ ((s.resultOf c x).valid = true → t.rd Reg.PC_RES_X c = (BitVec.ofInt 24 (xOf (s.resultOf c x).xe)).toNat
          ∧ t.rd Reg.PC_RESE_XE c = (BitVec.ofInt 32 (s.resultOf c x).xe).toNat) := by
  dsimp only
  rw [s.deliver_eq]
  dsimp only
  generalize s.resultOf c x = y
  generalize s.pcRaw c x = raw
  have h1 := s.delivered_first c x y
  generalize s.deliverFirst c x y = u at h1 ⊢
  have hlast (v : State) := v.pcStep_deliverLast c x y raw (s.pc c)
  by_cases hy : y.valid = true
  · rw [if_pos hy]
    obtain ⟨h2, hres, hrese⟩ := u.validResult_frame c hc raw y
    generalize u.validResult c raw y = v at *
    refine ⟨(h1.then (h2.mono (by decide))).then ((hlast v).mono (by decide)), fun _ => ⟨?_, ?_⟩⟩
    · refine (State.rd_of_reg ?_).trans hres
      have h := (hlast v).reg_at hc (o := 0x54) (by decide) (by decide)
      rwa [Nat.add_right_comm] at h
    · refine (State.rd_of_reg ?_).trans hrese
      have h := (hlast v).reg_at hc (o := 0x58) (by decide) (by decide)
      rwa [Nat.add_right_comm] at h
  · rw [if_neg hy]
    generalize hv : u.setPc c _ = v
    have h2 : u.PcStep c resultOffs v := hv ▸ .setPc u rfl rfl rfl
    exact ⟨(h1.then h2).then ((hlast v).mono (by decide)), fun h => absurd h hy⟩

/-! ### A conversion boundary (R207, R208, R218) -/

theorem PcRt.stepSlot_keeps (r : PcRt) : r.stepSlot.force = r.force ∧ r.stepSlot.lastX = r.lastX := by
  unfold PcRt.stepSlot
  split
  · exact ⟨rfl, rfl⟩
  · split
    · exact ⟨rfl, rfl⟩
    · exact ⟨rfl, rfl⟩

/-- The settings a change brings into force, and the latest result it leaves. -/
theorem State.pcChange_keeps (s : State) (c : Nat) (w : List Word) (alt host : Bool) :
    (s.pcChange c w alt host).1.force = (if alt then monSettings w (s.pc c).force else w)
      ∧ (s.pcChange c w alt host).1.lastX = (s.pc c).lastX := by
  unfold State.pcChange
  dsimp only
  simp only [apply_ite PcRt.force, apply_ite PcRt.lastX, (PcRt.stepSlot_keeps _).1, (PcRt.stepSlot_keeps _).2, ite_self, and_self]

/-- The registers a change may touch: PC_FSTAT, PC_IMEAS, PC_RLOAD, PC_SYSOFF, PC_SYSGAIN, PC_BSTAT. -/
def takeOffs : List Nat := [0x10, 0x14, 0x18, 0x4C, 0x50, 0x5C]

/-- What PC_BSTAT shows of a channel: the end of a change's taking. -/
def State.showChange (c : Nat) (r : PcRt) (pend : Bool) (s : State) : State :=
  ((((s.put Reg.PC_BSTAT_PHASE c (r.phase = 1)).wr Reg.PC_BSTAT_SEL_NOW c r.sel).wr Reg.PC_BSTAT_GAIN_NOW c r.gain).put
    Reg.PC_BSTAT_EXC_PEND c pend).put Reg.PC_BSTAT_DISCARD c (r.type != 0 && 0 < r.discard)

theorem State.showChange_frame (s : State) (c : Nat) (r : PcRt) (pend : Bool) : let t := s.showChange c r pend
    s.PcStep c takeOffs t ∧ t.pcs = s.pcs ∧ t.on Reg.PC_BSTAT_EXC_PEND c = pend
      ∧ t.rd Reg.PC_BSTAT_BCNT c = s.rd Reg.PC_BSTAT_BCNT c := by
  dsimp only
  unfold State.showChange
  generalize h1 : s.put Reg.PC_BSTAT_PHASE c (r.phase = 1) = u1
  generalize h2 : u1.wr Reg.PC_BSTAT_SEL_NOW c r.sel = u2
  generalize h3 : u2.wr Reg.PC_BSTAT_GAIN_NOW c r.gain = u3
  generalize h4 : u3.put Reg.PC_BSTAT_EXC_PEND c pend = u4
  have s1 : s.PcStep c takeOffs u1 := h1 ▸ .put s c _ _ 0x5C rfl rfl (by decide)
  have s2 : u1.PcStep c takeOffs u2 := h2 ▸ .wr u1 c _ _ 0x5C rfl rfl (by decide)
  have s3 : u2.PcStep c takeOffs u3 := h3 ▸ .wr u2 c _ _ 0x5C rfl rfl (by decide)
  have s4 : u3.PcStep c takeOffs u4 := h4 ▸ .put u3 c _ _ 0x5C rfl rfl (by decide)
  refine ⟨(((s1.trans s2).trans s3).trans s4).trans (.put u4 c _ _ 0x5C rfl rfl (by decide)), ?_, ?_, ?_⟩
  · rw [State.put_pcs, ← h4, State.put_pcs, ← h3, State.wr_pcs, ← h2, State.wr_pcs, ← h1, State.put_pcs]
  · rw [State.on_put_apart _ _ _ _ _ _ (by decide) (by decide), ← h4, State.on_put_same _ _ _ _ (by decide)]
  · rw [State.put, State.rd_wr_apart _ _ _ _ _ _ (by decide) (by decide), ← h4, State.put,
      State.rd_wr_apart _ _ _ _ _ _ (by decide) (by decide), ← h3, State.rd_wr_apart _ _ _ _ _ _ (by decide) (by decide),
      ← h2, State.rd_wr_apart _ _ _ _ _ _ (by decide) (by decide), ← h1, State.put,
      State.rd_wr_apart _ _ _ _ _ _ (by decide) (by decide)]

/-- The channel as a change puts it in place. -/
def PcRt.taken (r : PcRt) (restart clamped : Bool) : PcRt :=
  { r with discard := if restart then discards r.fmode else r.discard, convSns := false, convClamp := clamped }

/-- The registers that follow a change before PC_BSTAT does. -/
def State.followChange (c : Nat) (r : PcRt) (fb was : Bool) (s : State) : State :=
  let s := match r.sysNew with
    | some (o, g) => (s.wr Reg.PC_SYSOFF_X c (BitVec.ofInt 24 o).toNat).wr Reg.PC_SYSGAIN_G c (BitVec.ofInt 24 g).toNat
    | none => s
  let s := (s.put Reg.PC_FSTAT_FALLBACK c fb).put Reg.PC_FSTAT_EXC_ON c (s.pcLive && (r.drive fb).driven)
  let s := if fb && !was then
      if s.on Reg.PC_FSTAT_FB_SEEN c then s else (s.raise Reg.PC_FSTAT_FB_SEEN c).pcFaultLog c
    else s
  if r.iHeld.isNone then (s.wr Reg.PC_IMEAS_I c 0).wr Reg.PC_RLOAD_R c 0 else s

theorem State.pcTake_eq (s : State) (c : Nat) (r : PcRt) (fb restart pend : Bool) :
    s.pcTake c (r, fb, restart) pend =
      (let r := r.taken restart (s.rd Reg.PC_FSTAT_CLAMP_NOW c != 0)
       ((s.setPc c { r with sysNew := none }).followChange c r fb (s.on Reg.PC_FSTAT_FALLBACK c)).showChange c r pend) := rfl

/-- Of the registers a change may touch, PC_BSTAT follows last. -/
def followOffs : List Nat := [0x10, 0x14, 0x18, 0x4C, 0x50]

theorem State.pcStep_followChange (s : State) (c : Nat) (r : PcRt) (fb was : Bool) :
    s.PcStep c followOffs (s.followChange c r fb was) := by
  unfold State.followChange
  dsimp only
  have h1 : s.PcStep c followOffs (match r.sysNew with
      | some (o, g) => (s.wr Reg.PC_SYSOFF_X c (BitVec.ofInt 24 o).toNat).wr Reg.PC_SYSGAIN_G c (BitVec.ofInt 24 g).toNat
      | none => s) := by
    split
    · rename_i o g _
      exact (State.PcStep.wr (l := followOffs) s c Reg.PC_SYSOFF_X _ 0x4C rfl rfl (by decide)).trans
        (.wr _ c Reg.PC_SYSGAIN_G _ 0x50 rfl rfl (by decide))
    · exact .refl ..
  generalize (match r.sysNew with
      | some (o, g) => (s.wr Reg.PC_SYSOFF_X c (BitVec.ofInt 24 o).toNat).wr Reg.PC_SYSGAIN_G c (BitVec.ofInt 24 g).toNat
      | none => s) = u1 at h1 ⊢
  generalize h2 : u1.put Reg.PC_FSTAT_FALLBACK c fb = u2
  have s2 : u1.PcStep c followOffs u2 := h2 ▸ .put u1 c _ _ 0x10 rfl rfl (by decide)
  generalize h3 : u2.put Reg.PC_FSTAT_EXC_ON c (u1.pcLive && (r.drive fb).driven) = u3
  have s3 : u2.PcStep c followOffs u3 := h3 ▸ .put u2 c _ _ 0x10 rfl rfl (by decide)
  have h4 : u3.PcStep c followOffs (u3.raise Reg.PC_FSTAT_FB_SEEN c) := .raise u3 c _ 0x10 rfl rfl (by decide)
  have s4 : u3.PcStep c followOffs (if (fb && !was) = true then
      if u3.on Reg.PC_FSTAT_FB_SEEN c then u3 else (u3.raise Reg.PC_FSTAT_FB_SEEN c).pcFaultLog c else u3) :=
    .ite (fun _ => .ite (fun _ => .refl ..) fun _ => h4.trans (.logged (State.logged_pcFaultLog ..))) fun _ => .refl ..
  generalize (if (fb && !was) = true then
      if u3.on Reg.PC_FSTAT_FB_SEEN c then u3 else (u3.raise Reg.PC_FSTAT_FB_SEEN c).pcFaultLog c else u3) = u4 at s4 ⊢
  exact (((h1.trans s2).trans s3).trans s4).trans (.ite (fun _ => (State.pcStep_showLoad ..).mono (by decide)) fun _ => .refl ..)

theorem State.pcTake_frame (s : State) (c : Nat) (hc : c < 24) (r : PcRt) (fb restart pend : Bool) :
    let t := s.pcTake c (r, fb, restart) pend
    (t.pc c).force = r.force ∧ (t.pc c).lastX = r.lastX ∧ (∀ d, d ≠ c → t.pc d = s.pc d)
      ∧ t.on Reg.PC_BSTAT_EXC_PEND c = pend ∧ t.rd Reg.PC_BSTAT_BCNT c = s.rd Reg.PC_BSTAT_BCNT c
      ∧ ∀ a, 0x20000 ≤ a → a < 0x20C00 → (∀ o ∈ takeOffs, a ≠ 0x20000 + 0x80 * c + o) → t.reg a = s.reg a := by
  dsimp only
  rw [s.pcTake_eq]
  dsimp only
  generalize (s.rd Reg.PC_FSTAT_CLAMP_NOW c != 0) = cl
  generalize hv : s.setPc c _ = v
  have vpc : v.pc c = { r.taken restart cl with sysNew := none } := by rw [← hv, State.setPc_same]
  have h1 := v.pcStep_followChange c (r.taken restart cl) fb (s.on Reg.PC_FSTAT_FALLBACK c)
  generalize v.followChange c (r.taken restart cl) fb (s.on Reg.PC_FSTAT_FALLBACK c) = w at h1 ⊢
  obtain ⟨h2, -, hpend, hbcnt⟩ := w.showChange_frame c (r.taken restart cl) pend
  generalize w.showChange c (r.taken restart cl) pend = t at *
  have h := (h1.mono (l' := takeOffs) (by decide)).trans h2
  have hb : w.rd Reg.PC_BSTAT_BCNT c = v.rd Reg.PC_BSTAT_BCNT c := State.rd_of_reg (by
    have h := h1.reg_at hc (o := 0x5C) (by decide) (by decide)
    rwa [Nat.add_right_comm] at h)
  refine ⟨?_, ?_, fun d hd => ?_, hpend, ?_, fun a ha hb ho => ?_⟩
  · rw [h.force, vpc]; rfl
  · rw [h.lastX, vpc]; rfl
  · rw [h.others d hd, ← hv, State.setPc_other _ _ hd]
  · rw [hbcnt, hb, ← hv, State.setPc_rd]
  · rw [h.reg a ha hb ho, ← hv, State.setPc_reg]

theorem State.pair_setPair (s : State) (f : Field) (i : Nat) (t : Time) : (s.setPair f i t).pair f i = t := by
  unfold State.pair State.setPair
  rw [State.reg_setReg_same, State.reg_setReg_other _ _ (by omega), State.reg_setReg_same]
  refine BitVec.eq_of_getLsbD_eq fun i hi => ?_
  rw [BitVec.getLsbD_append, BitVec.getLsbD_setWidth, BitVec.getLsbD_setWidth, BitVec.getLsbD_ushiftRight]
  by_cases h : i < 32
  · rw [if_pos h, decide_eq_true h, Bool.true_and]
  · rw [if_neg h, decide_eq_true (show i - 32 < 32 by omega), Bool.true_and, Nat.add_sub_cancel' (Nat.not_lt.1 h)]

theorem State.pair_of_reg {s t : State} {f : Field} {i : Nat} (h : t.reg (f.addr i) = s.reg (f.addr i))
    (h4 : t.reg (f.addr i + 4) = s.reg (f.addr i + 4)) : t.pair f i = s.pair f i := by
  rw [State.pair, State.pair, h, h4]

/-- The boundary is counted and stamped. -/
def State.stampBoundary (s : State) (c : Nat) : State :=
  (s.count Reg.PC_BSTAT_BCNT c 1).setPair Reg.PC_BTIME_LO_T c s.lany

theorem State.stampBoundary_frame (s : State) (c : Nat) : let t := s.stampBoundary c
    t.pcs = s.pcs ∧ t.before = s.before ∧ t.tick = s.tick ∧ t.pair Reg.PC_BTIME_LO_T c = s.lany
      ∧ t.rd Reg.PC_BSTAT_BCNT c = (s.rd Reg.PC_BSTAT_BCNT c + 1) % 65536
      ∧ ∀ a, (∀ o ∈ [0x5C, 0x64, 0x68], a ≠ 0x20000 + 0x80 * c + o) → t.reg a = s.reg a := by
  dsimp only
  unfold State.stampBoundary
  generalize hu : s.count Reg.PC_BSTAT_BCNT c 1 = u
  have ubcnt : u.rd Reg.PC_BSTAT_BCNT c = (s.rd Reg.PC_BSTAT_BCNT c + 1) % 65536 := hu ▸ s.rd_count_same Reg.PC_BSTAT_BCNT c 1 (by decide)
  refine ⟨?_, ?_, ?_, u.pair_setPair Reg.PC_BTIME_LO_T c s.lany, ?_, fun a ha => ?_⟩
  · rw [State.setPair_pcs, ← hu, State.count_pcs]
  · rw [State.setPair_before, ← hu, State.count_before]
  · rw [State.setPair_tick, ← hu, State.count_tick]
  · refine (State.rd_of_reg (u.reg_setPair_other Reg.PC_BTIME_LO_T c s.lany ?_ ?_)).trans ubcnt
    · simp only [Field.addr, Reg.PC_BSTAT_BCNT, Reg.PC_BTIME_LO_T]; omega
    · simp only [Field.addr, Reg.PC_BSTAT_BCNT, Reg.PC_BTIME_LO_T]; omega
  · have h1 := ha 0x5C (by decide)
    have h2 := ha 0x64 (by decide)
    have h3 := ha 0x68 (by decide)
    refine (u.reg_setPair_other Reg.PC_BTIME_LO_T c s.lany ?_ ?_).trans (hu ▸ s.reg_wr_other Reg.PC_BSTAT_BCNT c _ ?_)
    · simp only [Field.addr, Reg.PC_BTIME_LO_T]; omega
    · simp only [Field.addr, Reg.PC_BTIME_LO_T]; omega
    · simp only [Field.addr, Reg.PC_BSTAT_BCNT]; omega

/-- The channel is kept as its boundary found it (R220). -/
def State.noteWas (s : State) (c : Nat) : State :=
  { s with pcWas := s.pcWas.put c ⟨s.pc c, s.reg (Reg.PC_FSTAT_FALLBACK.addr c)⟩ }

theorem State.conversionBoundary_eq (s : State) (c : Nat) : s.conversionBoundary c =
    (let v := (s.stampBoundary c).noteWas c
     v.pcTake c (v.pcChange c (v.old.pcWritten c) true (v.old.on Reg.PC_BSTAT_EXC_PEND c))
       (decide ((v.pc c).wroteAt = some v.tick))) := rfl

theorem State.old_pcWritten {s t : State} (h : t.before = s.before) (c : Nat) : t.old.pcWritten c = s.old.pcWritten c := by
  simp only [State.pcWritten, State.reg, State.old, h]

/-- A conversion boundary (R207, R208): its count, its stamp, the settings it brings into force. -/
theorem State.conversionBoundary_frame (s : State) (c : Nat) (hc : c < 24) : let t := s.conversionBoundary c
    t.rd Reg.PC_BSTAT_BCNT c = (s.rd Reg.PC_BSTAT_BCNT c + 1) % 65536 ∧ t.pair Reg.PC_BTIME_LO_T c = s.lany
      ∧ (t.pc c).force = monSettings (s.old.pcWritten c) (s.pc c).force ∧ (t.pc c).lastX = (s.pc c).lastX
      ∧ t.on Reg.PC_BSTAT_EXC_PEND c = decide ((s.pc c).wroteAt = some s.tick) ∧ (∀ d, d ≠ c → t.pc d = s.pc d)
      ∧ t.rd Reg.PC_RES_X c = s.rd Reg.PC_RES_X c ∧ t.rd Reg.PC_RESE_XE c = s.rd Reg.PC_RESE_XE c := by
  dsimp only
  rw [s.conversionBoundary_eq]
  obtain ⟨upcs, ubefore, utick, upair, ubcnt, ureg⟩ := s.stampBoundary_frame c
  generalize s.stampBoundary c = u at *
  have vpc (d : Nat) : (u.noteWas c).pc d = s.pc d := State.pc_of_pcs upcs d
  have vold : (u.noteWas c).old.pcWritten c = s.old.pcWritten c := State.old_pcWritten (ubefore : (u.noteWas c).before = _) c
  have vtick : (u.noteWas c).tick = s.tick := utick
  have vregs : (u.noteWas c).regs = u.regs := rfl
  generalize u.noteWas c = v at *
  dsimp only
  obtain ⟨cforce, clast⟩ := v.pcChange_keeps c (v.old.pcWritten c) true (v.old.on Reg.PC_BSTAT_EXC_PEND c)
  generalize v.pcChange c (v.old.pcWritten c) true (v.old.on Reg.PC_BSTAT_EXC_PEND c) = change at cforce clast ⊢
  obtain ⟨r, fb, restart⟩ := change
  obtain ⟨tforce, tlast, tothers, tpend, tbcnt, treg⟩ :=
    v.pcTake_frame c hc r fb restart (decide ((v.pc c).wroteAt = some v.tick))
  generalize v.pcTake c (r, fb, restart) (decide ((v.pc c).wroteAt = some v.tick)) = t at *
  have same (o : Nat) (ho : o < 0x80) (h : ∀ x ∈ takeOffs, o ≠ x) : t.reg (0x20000 + 0x80 * c + o) = u.reg (0x20000 + 0x80 * c + o) :=
    (treg _ (by omega) (by omega) fun x hx => by have := h x hx; omega).trans (State.reg_of_regs vregs _)
  have kept (o : Nat) (ho : o < 0x80) (h : ∀ x ∈ takeOffs, o ≠ x) (h' : ∀ x ∈ [0x5C, 0x64, 0x68], o ≠ x) :
      t.reg (0x20000 + 0x80 * c + o) = s.reg (0x20000 + 0x80 * c + o) :=
    (same o ho h).trans (ureg _ fun x hx => by have := h' x hx; omega)
  refine ⟨?_, ?_, ?_, ?_, ?_, fun d hd => ?_, ?_, ?_⟩
  · rw [tbcnt, State.rd_of_regs vregs, ubcnt]
  · refine (State.pair_of_reg ?_ ?_).trans upair
    · have h := same 0x64 (by decide) (by decide)
      rwa [Nat.add_right_comm] at h
    · have h := same 0x68 (by decide) (by decide)
      rwa [show 0x20000 + 0x80 * (c : Nat) + 0x68 = Reg.PC_BTIME_LO_T.addr c + 4 by
        simp only [Field.addr, Reg.PC_BTIME_LO_T]; omega] at h
  · rw [tforce, cforce, if_pos rfl, vold, vpc]
  · rw [tlast, clast, vpc]
  · rw [tpend, vpc, vtick]
  · rw [tothers d hd, vpc]
  · refine State.rd_of_reg ?_
    have h := kept 0x54 (by decide) (by decide) (by decide)
    rwa [Nat.add_right_comm] at h
  · refine State.rd_of_reg ?_
    have h := kept 0x58 (by decide) (by decide) (by decide)
    rwa [Nat.add_right_comm] at h

/-! ### The filter boundary as a command -/

/-- The filter period that ends is counted towards the next diagnostic insertion. -/
def State.endPeriod (s : State) (c : Nat) : State :=
  s.setPc c { s.pc c with diagClk := (s.pc c).diagClk + ratioOf (s.pc c).fmode, edge := s.tick }

theorem filterBoundary_eq (c : PcId) (x : PcIn) (s : State) : exec (.filterBoundary c x) s = .next
    (if !s.pcLive then s
     else if (s.pc c).type = 0 then (s.endPeriod c).conversionBoundary c
     else if s.on Reg.PC_CSTAT_ICAL_BUSY c then s.endPeriod c
     else if 0 < (s.pc c).discard then
       ((s.endPeriod c).setPc c
         { s.pc c with diagClk := (s.pc c).diagClk + ratioOf (s.pc c).fmode, edge := s.tick, discard := (s.pc c).discard - 1 }).put Reg.PC_BSTAT_DISCARD c (1 < (s.pc c).discard)
     else ((s.endPeriod c).deliver c x).conversionBoundary c) := rfl

theorem State.endPeriod_frame (s : State) (c : Nat) (x : PcIn) : let t := s.endPeriod c
    (∀ d, d ≠ c → t.pc d = s.pc d) ∧ (t.pc c).force = (s.pc c).force ∧ (t.pc c).wroteAt = (s.pc c).wroteAt
      ∧ t.xe c (t.pcRaw c x) = s.xe c (s.pcRaw c x) ∧ (t.pc c).convSns = (s.pc c).convSns
      ∧ (t.pc c).convClamp = (s.pc c).convClamp ∧ (t.pc c).diagNow = (s.pc c).diagNow ∧ (t.pc c).sel = (s.pc c).sel := by
  dsimp only
  unfold State.endPeriod
  refine ⟨fun d hd => s.setPc_other _ hd, ?_, ?_, ?_, ?_, ?_, ?_, ?_⟩
  · rw [State.setPc_same]
  · rw [State.setPc_same]
  · unfold State.xe State.pcRaw State.rdInt
    rw [State.setPc_same, State.setPc_on, State.setPc_rd, State.setPc_rd]
    rfl
  · rw [State.setPc_same]
  · rw [State.setPc_same]
  · rw [State.setPc_same]
  · rw [State.setPc_same]

/-- A conversion boundary of a channel without a type, or of one whose result is due. -/
theorem filterBoundary_converts (c : PcId) (x : PcIn) (s : State) (hl : s.pcLive = true)
    (h : (s.pc c).type = 0 ∨ (s.on Reg.PC_CSTAT_ICAL_BUSY c = false ∧ (s.pc c).discard = 0)) :
    exec (.filterBoundary c x) s = .next ((if (s.pc c).type = 0 then s.endPeriod c else (s.endPeriod c).deliver c x).conversionBoundary c) := by
  rw [filterBoundary_eq, hl]
  refine congrArg Host.Outcome.next ?_
  rw [if_neg (by decide)]
  by_cases ht : (s.pc c).type = 0
  · rw [if_pos ht, if_pos ht]
  · obtain ⟨hb, hd⟩ := h.resolve_left ht
    rw [if_neg ht, if_neg ht, hb, hd, if_neg (by decide), if_neg (by decide)]

/-- What stands when the boundary comes: the channel's settings as they were, and the result of a period that ended. -/
theorem State.beforeBoundary (s : State) (c : Nat) (hc : c < 24) (x : PcIn) :
    let u := if (s.pc c).type = 0 then s.endPeriod c else (s.endPeriod c).deliver c x
    (∀ d, d ≠ c → u.pc d = s.pc d) ∧ (u.pc c).force = (s.pc c).force ∧ (u.pc c).wroteAt = (s.pc c).wroteAt
      ∧ u.before = s.before ∧ u.tick = s.tick ∧ u.lany = s.lany ∧ u.rd Reg.PC_BSTAT_BCNT c = s.rd Reg.PC_BSTAT_BCNT c
      ∧ ((s.pc c).type ≠ 0 → (s.pc c).convSns = false → (s.pc c).convClamp = false → x.ovr = false → (s.pc c).diagNow = false →
          (s.pc c).sel ≠ 8 → (s.pc c).sel ≠ 9 →
          u.rd Reg.PC_RES_X c = (BitVec.ofInt 24 (xOf (s.xe c (s.pcRaw c x)))).toNat
            ∧ u.rd Reg.PC_RESE_XE c = (BitVec.ofInt 32 (s.xe c (s.pcRaw c x))).toNat
            ∧ (u.pc c).lastX = some (xOf (s.xe c (s.pcRaw c x)))) := by
  dsimp only
  obtain ⟨eothers, eforce, ewrote, exe, esns, eclamp, ediag, esel⟩ := s.endPeriod_frame c x
  have etime : (s.endPeriod c).before = s.before ∧ (s.endPeriod c).tick = s.tick ∧ (s.endPeriod c).lany = s.lany := ⟨rfl, rfl, rfl⟩
  have ereg (a : Nat) : (s.endPeriod c).reg a = s.reg a := s.setPc_reg c _ a
  generalize s.endPeriod c = e at *
  obtain ⟨ebefore, etick, elany⟩ := etime
  by_cases ht : (s.pc c).type = 0
  · rw [if_pos ht]
    exact ⟨eothers, eforce, ewrote, ebefore, etick, elany, State.rd_of_reg (ereg _), fun h => absurd ht h⟩
  · rw [if_neg ht]
    obtain ⟨⟨dothers, dreg, dforce, dwrote, dlast, dbefore, dtick, dlany, -⟩, dvalid⟩ := e.deliver_frame c hc x
    refine ⟨fun d hd => (dothers d hd).trans (eothers d hd), dforce.trans eforce, dwrote.trans ewrote, dbefore.trans ebefore,
      dtick.trans etick, dlany.trans elany, State.rd_of_reg ((dreg _ ?_ ?_ fun o ho => ?_).trans (ereg _)),
      fun _ h0 h1 h4 hd h8 h9 => ?_⟩
    · simp only [Field.addr, Reg.PC_BSTAT_BCNT]; omega
    · simp only [Field.addr, Reg.PC_BSTAT_BCNT]; omega
    · have hne : ∀ o ∈ resultOffs, 0x5C ≠ o := by decide
      have := hne o ho
      simp only [Field.addr, Reg.PC_BSTAT_BCNT]; omega
    · obtain ⟨hv, hy⟩ := e.resultOf_valid c x (esns.trans h0) (eclamp.trans h1) h4 (ediag.trans hd) (esel ▸ h8) (esel ▸ h9)
      have hx := hy.trans exe
      obtain ⟨hres, hrese⟩ := dvalid hv
      rw [hx] at hres hrese dlast
      exact ⟨hres, hrese, dlast⟩

/-! ### PCVAL (R228) and the chain of corrections (R214) -/

theorem PcRec.length_bytes (r : PcRec) : r.bytes.length = 24 := by
  unfold PcRec.bytes leInt
  simp only [List.length_append, length_leBytes]

theorem length_pcvalBody (l : List PcRec) : (l.flatMap PcRec.bytes).length = 24 * l.length := by
  induction l with
  | nil => rfl
  | cons r l ih =>
    rw [List.flatMap_cons, List.length_append, ih, PcRec.length_bytes, List.length_cons]
    omega

theorem pcvalTimeout_sends (s : State) (h : s.pcq ≠ []) : ∃ t m, exec .pcvalTimeout s = .next t ∧ t.pcq = []
    ∧ t.link.txq = s.link.txq ++ [m] ∧ m.ty = 6 ∧ m.size = 8 + 24 * s.pcq.length ∧ t.regs = s.regs := by
  have hs : s.sendPcval = ({ s with pcq := [] }).queueMsg
      ⟨6, leBytes 2 1 ++ leBytes 2 s.pcq.length ++ leBytes 4 0 ++ s.pcq.flatMap PcRec.bytes⟩ := if_neg h
  refine ⟨_, ⟨6, s.rd Reg.HAWSER_POS_POS 0, .own (leBytes 2 1 ++ leBytes 2 s.pcq.length ++ leBytes 4 0 ++ s.pcq.flatMap PcRec.bytes), 0, none⟩,
    congrArg Host.Outcome.next hs, rfl, rfl, rfl, ?_, rfl⟩
  change (leBytes 2 1 ++ leBytes 2 s.pcq.length ++ leBytes 4 0 ++ s.pcq.flatMap PcRec.bytes).length = _
  simp only [List.length_append, length_leBytes, length_pcvalBody]

theorem clampInt_eq_self {lo hi x : Int} (h1 : lo < clampInt lo hi x) (h2 : clampInt lo hi x < hi) : clampInt lo hi x = x := by
  unfold clampInt at *
  split_ifs at * <;> omega

theorem clampInt_range {lo hi : Int} (h : lo ≤ hi) (x : Int) : clampInt lo hi x ≤ hi ∧ lo ≤ clampInt lo hi x := by
  unfold clampInt
  split_ifs <;> omega

theorem roundDiv_near (v : Int) (n : Nat) (hn : 0 < n) : |roundDiv v n * n - v| * 2 ≤ n := by
  have he := (roundDiv_error v n hn).1
  rw [abs_mul] at he
  rw [mul_comm]
  exact he

/-- X is the nearest code unless it is held at the highest (R214). -/
theorem xOf_near {y : Int} (hy : -(2 ^ 31 - 1) ≤ y) (h : xOf y < 2 ^ 23 - 1) : |256 * xOf y - y| * 2 ≤ 256 := by
  have he : |roundDiv y 256 * 256 - y| * 2 ≤ 256 := roundDiv_near y 256 (by decide)
  obtain ⟨he1, he2⟩ := abs_le.1 (show |roundDiv y 256 * 256 - y| ≤ 128 by omega)
  have hx : xOf y = roundDiv y 256 := by
    unfold xOf clampInt at *
    split_ifs at h ⊢ <;> omega
  rwa [hx, mul_comm 256]

theorem State.xe_unheld (s : State) (c : Nat) (raw : Int) (h1 : -xeMax < s.xe c raw) (h2 : s.xe c raw < xeMax) :
    s.xe c raw = if (s.pc c).sel = 0 then
      roundDiv (((s.pc c).inner raw - s.rdInt Reg.PC_SYSOFF_X c * 256 * 2 ^ 24) * (2 ^ 24 + s.rdInt Reg.PC_SYSGAIN_G c)) (2 ^ 48)
    else (s.pc c).xePlain raw :=
  clampInt_eq_self h1 h2

/-- Settles O38: a filter boundary is what it ends; the values are nearest ones of their chain. -/
theorem filterBoundaries : Obligations.FilterBoundaries := by
  unfold Obligations.FilterBoundaries
  dsimp only
  refine ⟨fun c x s h => ?_, fun c x s ⟨h4, h7⟩ ht hb hd => ?_, fun c x s ⟨h4, h7⟩ h => ?_, pcvalTimeout_sends, fun s h => ?_,
    fun s c raw => ?_⟩
  · rw [filterBoundary_eq]
    refine congrArg Host.Outcome.next (if_pos ?_)
    rw [Bool.not_eq_true', ← Bool.not_eq_true]
    intro hl
    rw [State.pcLive, Bool.and_eq_true, decide_eq_true_eq, bne_iff_ne] at hl
    exact h hl
  · rw [filterBoundary_eq, State.pcLive_of_mode h4 h7, if_neg (by decide), if_neg ht, hb, if_neg (by decide), if_pos hd]
    refine ⟨_, rfl, ?_, State.on_put_same _ _ _ _ (by decide), rfl, fun a ha => ?_⟩
    · rw [State.put_pc, State.setPc_same]
    · exact (State.reg_put_other _ Reg.PC_BSTAT_DISCARD c _ ha).trans ((State.setPc_reg ..).trans (s.setPc_reg ..))
  · obtain ⟨uothers, uforce, uwrote, ubefore, utick, ulany, ubcnt, ures⟩ := s.beforeBoundary c c.isLt x
    refine ⟨_, filterBoundary_converts c x s (State.pcLive_of_mode h4 h7) h, ?_⟩
    generalize (if (s.pc c).type = 0 then s.endPeriod c else (s.endPeriod c).deliver c x) = u at *
    obtain ⟨tbcnt, tpair, tforce, tlast, tpend, tothers, tres, trese⟩ := u.conversionBoundary_frame c c.isLt
    refine ⟨by rw [tbcnt, ubcnt], tpair.trans ulany, ?_, by rw [tpend, uwrote, utick], fun d hd => (tothers d hd).trans (uothers d hd),
      fun ht h0 h1 h4 hd h8 h9 => ?_⟩
    · rw [tforce, uforce, State.old_pcWritten ubefore]
    · obtain ⟨hres, hrese, hlast⟩ := ures ht h0 h1 h4 hd h8 h9
      exact ⟨tres.trans hres, trese.trans hrese, tlast.trans hlast⟩
  · exact congrArg Host.Outcome.next (if_pos h)
  · have hxe : s.xe c raw ≤ xeMax ∧ -xeMax ≤ s.xe c raw := clampInt_range (by decide) _
    have hx := clampInt_range (lo := -(2 ^ 23)) (hi := 2 ^ 23 - 1) (by decide) (roundDiv (s.xe c raw) 256)
    refine ⟨hxe.1, hxe.2, hx.2, hx.1, xOf_near hxe.2, fun hs h1 h2 => ?_, fun hs h1 h2 => ?_⟩
    · rw [s.xe_unheld c raw h1 h2, if_neg hs]
      exact roundDiv_near _ (2 ^ 24) (by decide)
    · rw [s.xe_unheld c raw h1 h2, if_pos hs, show s.rdInt Reg.PC_SYSOFF_X c * 2 ^ 32 = s.rdInt Reg.PC_SYSOFF_X c * 256 * 2 ^ 24 by ring]
      exact roundDiv_near _ (2 ^ 48) (by decide)

end Sys2Proof.Machine
end
-- ==== Sys2Proof/Proofs/PrecisionCommands.lean ====
section
/-! The commands of a precision channel: PC_EXC with IMM, internal and system calibration (R219, R220, R224 to R226). -/

namespace Sys2Proof.Machine

/-! ### PC_CMD -/

/-- PC_CMD as Table 19.2 resolves it. -/
def pcCmdHit (c : Nat) : Hit :=
  ⟨.pc, c, 0x44, 0, .precision, [⟨3, 3, .rwl, 0⟩, ⟨2, 2, .rwl, 0⟩, ⟨1, 1, .rwl, 0⟩, ⟨0, 0, .wo, 0⟩]⟩

theorem lookup_pcCmd : ∀ c : PcId, lookup (Reg.PC_CMD_ICAL.addr c) = some (pcCmdHit c) := by decide +kernel

/-- A write of PC_CMD: its effect on a state that differs from the one before by its log, the pair of the channel broken. -/
theorem State.writeReg_pcCmd {s : State} (src : Source) (c : PcId) (v : Word) (hm : 3 ≤ s.mode)
    {carries : Bool} (hcarries : ((pcCmdHit c).fields.any fun f => f.counts (pcCmdHit c).mixed (s.reg (Reg.PC_CMD_ICAL.addr c)) v) = carries) :
    ∃ u : State, (s.asked (Reg.PC_CMD_ICAL.addr c)).Logged u
      ∧ (¬ (carries = true ∧ s.classOpen .calibration = true) → u = s.asked (Reg.PC_CMD_ICAL.addr c))
      ∧ s.writeReg src (Reg.PC_CMD_ICAL.addr c) v =
        (let t := u.wrPc (s.classOpen .calibration) c 0x44 v (s.reg (Reg.PC_CMD_ICAL.addr c))
         (if carries && !s.classOpen .calibration then t.answer .locked else t).noteWrite src (Reg.PC_CMD_ICAL.addr c)) := by
  have hw := s.writeReg_keeps src v hm (lookup_pcCmd c) (by simp [State.gated, pcCmdHit]) (fun h => nomatch h) rfl rfl rfl
  dsimp only at hw
  rw [hcarries] at hw
  refine ⟨_, ?_, fun h => ?_, hw⟩
  · split
    · exact State.logged_logBy ..
    · exact .refl _
  · refine if_neg fun h' => h ?_
    rw [Bool.and_eq_true] at h'
    exact h'

/-- The channel whose pair a write breaks (R216). -/
def PcRt.unpaired (r : PcRt) : PcRt := { r with pair0 := none }

theorem State.pcs_asked (s : State) (a : Nat) : (s.asked a).pcs = s.pcs := rfl

/-- A write of a command bit that no lock class holds. -/
theorem State.writeReg_pcIcal {s : State} (src : Source) (c : PcId) (hm : 3 ≤ s.mode) :
    s.writeReg src (Reg.PC_CMD_ICAL.addr c) 1
      = (((s.asked (Reg.PC_CMD_ICAL.addr c)).setPc c (s.pc c).unpaired).icalStart c).noteWrite src (Reg.PC_CMD_ICAL.addr c) := by
  obtain ⟨u, -, hu, hw⟩ := s.writeReg_pcCmd src c 1 hm (carries := false) rfl
  rw [hu (fun h => nomatch h.1)] at hw
  exact hw

/-- What a state shows once its access is answered and noted. -/
theorem State.on_noteWrite (s : State) (src : Source) (a : Nat) (f : Field) (i : Nat) : (s.noteWrite src a).on f i = s.on f i := rfl

theorem State.pc_noteWrite (s : State) (src : Source) (a d : Nat) : (s.noteWrite src a).pc d = s.pc d := rfl

theorem State.acc_noteWrite (s : State) (src : Source) (a : Nat) : (s.noteWrite src a).acc = s.acc := rfl

theorem pcCmdIcal_starts (src : Source) (c : PcId) (s : State) (hm : 3 ≤ s.mode) :
    ∃ t, exec (.pcCmdIcal src c) s = .next t ∧ t.acc = .ok ∧ t.on Reg.PC_CSTAT_ICAL_BUSY c = true ∧ t.pc c = { s.pc c with pair0 := none }
      ∧ (∀ d : Nat, d ≠ c → t.pc d = s.pc d) ∧ ∀ a, a ≠ Reg.PC_CSTAT_ICAL_BUSY.addr c → t.reg a = s.reg a := by
  refine ⟨_, congrArg Host.Outcome.next (s.writeReg_pcIcal src c hm), ?_⟩
  rw [State.acc_noteWrite, State.on_noteWrite, State.pc_noteWrite]
  generalize hu : (s.asked (Reg.PC_CMD_ICAL.addr c)).setPc c (s.pc c).unpaired = u
  have uacc : u.acc = .ok := by rw [← hu]; rfl
  have upc : u.pc c = (s.pc c).unpaired := by rw [← hu, State.setPc_same]
  have uothers (d : Nat) (hd : d ≠ c) : u.pc d = s.pc d := by
    rw [← hu, State.setPc_other _ _ hd, State.pc_of_pcs (s.pcs_asked _)]
  have ureg (a : Nat) : u.reg a = s.reg a := by rw [← hu, State.setPc_reg, State.reg_asked]
  unfold State.icalStart
  refine ⟨(u.put_acc ..).trans uacc, u.on_put_same Reg.PC_CSTAT_ICAL_BUSY c true (by decide), (u.put_pc ..).trans upc,
    fun d hd => ?_, fun a ha => ?_⟩
  · rw [State.pc_noteWrite, State.put_pc, uothers d hd]
  · rw [State.reg_noteWrite, State.reg_put_other _ _ _ _ ha, ureg]

/-! ### System calibration (R226) -/

/-- The effect of PC_CMD with the lock open, of a command bit of the calibration class. -/
theorem State.writeReg_pcOpen {s : State} (src : Source) (c : PcId) (v : Word) (hm : 3 ≤ s.mode) (ho : s.classOpen .calibration = true)
    (hc : ((pcCmdHit c).fields.any fun f => f.counts (pcCmdHit c).mixed (s.reg (Reg.PC_CMD_ICAL.addr c)) v) = true) :
    ∃ u : State, u.acc = .ok ∧ u.pc c = s.pc c ∧ s.writeReg src (Reg.PC_CMD_ICAL.addr c) v
      = (u.wrPc true c 0x44 v (s.reg (Reg.PC_CMD_ICAL.addr c))).noteWrite src (Reg.PC_CMD_ICAL.addr c) := by
  obtain ⟨u, hlog, -, hw⟩ := s.writeReg_pcCmd src c v hm hc
  rw [ho] at hw
  refine ⟨u, ?_, ?_, hw⟩
  · obtain ⟨_, _, _, _, _, rfl, -⟩ := hlog
    rfl
  · rw [State.pc_of_pcs hlog.pcs, State.pc_of_pcs (s.pcs_asked _)]

/-- The effect of PC_CMD with the lock closed: the command bit does nothing and is answered. -/
theorem State.writeReg_pcLocked {s : State} (src : Source) (c : PcId) (v : Word) (hm : 3 ≤ s.mode) (ho : s.classOpen .calibration = false)
    (hc : ((pcCmdHit c).fields.any fun f => f.counts (pcCmdHit c).mixed (s.reg (Reg.PC_CMD_ICAL.addr c)) v) = true)
    (hv : ∀ u : State, u.wrPc false c 0x44 v (s.reg (Reg.PC_CMD_ICAL.addr c)) = u.setPc c (u.pc c).unpaired) :
    ∃ t, s.writeReg src (Reg.PC_CMD_ICAL.addr c) v = t ∧ (t.pc c).sys = (s.pc c).sys ∧ (t.pc c).sysNew = (s.pc c).sysNew
      ∧ (∀ d : Nat, d ≠ c → t.pc d = s.pc d) ∧ t.acc = .locked ∧ ∀ a, t.reg a = s.reg a := by
  obtain ⟨u, -, hu, hw⟩ := s.writeReg_pcCmd src c v hm hc
  rw [ho, hu (fun h => Bool.noConfusion (ho.symm.trans h.2)), hv] at hw
  refine ⟨_, hw, ?_⟩
  have upc : (s.asked (Reg.PC_CMD_ICAL.addr c)).pc c = s.pc c := State.pc_of_pcs (s.pcs_asked _) c
  rw [upc]
  dsimp only
  rw [if_pos (show (true && !false) = true from rfl), State.pc_noteWrite]
  generalize hz : (s.asked (Reg.PC_CMD_ICAL.addr c)).setPc c (s.pc c).unpaired = z
  have zpc : z.pc c = (s.pc c).unpaired := by rw [← hz, State.setPc_same]
  have zothers (d : Nat) (hd : d ≠ c) : z.pc d = s.pc d := by
    rw [← hz, State.setPc_other _ _ hd, State.pc_of_pcs (s.pcs_asked _)]
  have zreg (a : Nat) : z.reg a = s.reg a := by rw [← hz, State.setPc_reg, State.reg_asked]
  have hpc (d : Nat) : (z.answer .locked).pc d = z.pc d := rfl
  refine ⟨?_, ?_, fun d hd => ?_, rfl, fun a => ?_⟩
  · rw [hpc, zpc]; rfl
  · rw [hpc, zpc]; rfl
  · rw [State.pc_noteWrite, hpc, zothers d hd]
  · rw [State.reg_answered, zreg]

/-- A collection has been asked for. -/
theorem State.sysStart_frame (s : State) (c : Nat) (span : Bool) : (s.sysStart c span).on Reg.PC_CSTAT_SYS_BUSY c = true
    ∧ ((s.sysStart c span).pc c).sys = some (span, 0, 0) ∧ (s.sysStart c span).acc = s.acc := by
  unfold State.sysStart
  refine ⟨State.on_put_same _ Reg.PC_CSTAT_SYS_BUSY c true (by decide), ?_, ?_⟩
  · rw [State.put_pc, State.setPc_same]
  · rw [State.put_acc, State.setPc_acc]

theorem pcCmdSys_open (src : Source) (c : PcId) (s : State) (hm : 3 ≤ s.mode) (ho : s.classOpen .calibration = true) (span : Bool)
    {v : Word} (hc : ((pcCmdHit c).fields.any fun f => f.counts (pcCmdHit c).mixed (s.reg (Reg.PC_CMD_ICAL.addr c)) v) = true)
    (hv : ∀ u : State, u.wrPc true c 0x44 v (s.reg (Reg.PC_CMD_ICAL.addr c)) = (u.setPc c (u.pc c).unpaired).sysStart c span) :
    ∃ t, s.writeReg src (Reg.PC_CMD_ICAL.addr c) v = t ∧ t.acc = .ok ∧ t.on Reg.PC_CSTAT_SYS_BUSY c = true
      ∧ (t.pc c).sys = some (span, 0, 0) := by
  obtain ⟨u, hacc, -, hw⟩ := s.writeReg_pcOpen src c v hm ho hc
  rw [hv] at hw
  obtain ⟨hon, hsys, ha⟩ := (u.setPc c (u.pc c).unpaired).sysStart_frame c span
  refine ⟨_, hw, ?_, ?_, ?_⟩
  · rw [State.acc_noteWrite, ha, State.setPc_acc, hacc]
  · rw [State.on_noteWrite, hon]
  · rw [State.pc_noteWrite, hsys]

theorem pcCmdSysclr_open (src : Source) (c : PcId) (s : State) (hm : 3 ≤ s.mode) (ho : s.classOpen .calibration = true) :
    ∃ t, exec (.pcCmdSysclr src c) s = .next t ∧ t.acc = .ok ∧ (t.pc c).sysNew = some (0, 0) := by
  obtain ⟨u, hacc, -, hw⟩ := s.writeReg_pcOpen src c 8 hm ho rfl
  have hv : u.wrPc true c 0x44 8 (s.reg (Reg.PC_CMD_ICAL.addr c)) = (u.setPc c (u.pc c).unpaired).sysClear c := rfl
  rw [hv] at hw
  refine ⟨_, congrArg Host.Outcome.next hw, ?_, ?_⟩
  · rw [State.acc_noteWrite, State.sysClear, State.setPc_acc, State.setPc_acc, hacc]
  · rw [State.pc_noteWrite, State.sysClear, State.setPc_same]

/-! ### The end of an internal calibration (R225) -/

/-- A judged value leaves the settings, and a rejection once shown stays shown. -/
structure State.JudgedBy (c : Nat) (s t : State) : Prop where
  force : (t.pc c).force = (s.pc c).force
  rej : s.on Reg.PC_CSTAT_ICAL_REJ c = true → t.on Reg.PC_CSTAT_ICAL_REJ c = true

theorem State.JudgedBy.trans {c : Nat} {s t u : State} (h : s.JudgedBy c t) (k : t.JudgedBy c u) : s.JudgedBy c u :=
  ⟨k.force.trans h.force, fun hr => k.rej (h.rej hr)⟩

/-- A rejected value is shown and leaves every calibration value (R225). -/
theorem State.pcalReject_frame (s : State) (c k : Nat) (hc : c < 24) : (s.pcalReject c k).on Reg.PC_CSTAT_ICAL_REJ c = true
    ∧ ∃ l, (s.pcalReject c k).pc c = { s.pc c with rejRun := l } := by
  unfold State.pcalReject
  dsimp only
  generalize (s.pc c).rejRun.set k (min 3 (nth (s.pc c).rejRun k 0 + 1)) = l
  generalize hu : (s.setPc c { s.pc c with rejRun := l }).raise Reg.PC_CSTAT_ICAL_REJ c = u
  have uon : u.on Reg.PC_CSTAT_ICAL_REJ c = true := hu ▸ State.on_raise_same _ Reg.PC_CSTAT_ICAL_REJ c (by decide)
  have upc : u.pc c = { s.pc c with rejRun := l } := by rw [← hu, State.raise_pc, State.setPc_same]
  split
  · have hlog := (u.raiseBit Reg.SAFETY_PCALREJ_C 0 c).logged_logBy 0 0x34 5 c 0 0 0
    have vpc : ((u.raiseBit Reg.SAFETY_PCALREJ_C 0 c).logNow 0x34 5 c 0 0 0).pc c = u.pc c :=
      (State.pc_of_pcs hlog.pcs c).trans (State.pc_of_pcs (u.raiseBit_pcs ..) c)
    have von : ((u.raiseBit Reg.SAFETY_PCALREJ_C 0 c).logNow 0x34 5 c 0 0 0).on Reg.PC_CSTAT_ICAL_REJ c = u.on Reg.PC_CSTAT_ICAL_REJ c := by
      refine State.on_of_reg ((hlog.reg (.inr ?_)).trans (u.reg_raiseBit_other _ _ _ ?_))
      · simp only [Field.addr, Reg.PC_CSTAT_ICAL_REJ]; omega
      · simp only [Field.addr, Reg.PC_CSTAT_ICAL_REJ, Reg.SAFETY_PCALREJ_C]; omega
    generalize (u.raiseBit Reg.SAFETY_PCALREJ_C 0 c).logNow 0x34 5 c 0 0 0 = v at vpc von ⊢
    have hsame : ∀ w, w = (if v.pcMasked c = true then v.source 13 else v) → w.on Reg.PC_CSTAT_ICAL_REJ c = v.on Reg.PC_CSTAT_ICAL_REJ c
        ∧ w.pc c = v.pc c := by
      rintro w rfl
      split
      · exact ⟨rfl, rfl⟩
      · exact ⟨rfl, rfl⟩
    obtain ⟨h1, h2⟩ := hsame _ rfl
    exact ⟨h1.trans (von.trans uon), l, h2.trans (vpc.trans upc)⟩
  · exact ⟨uon, l, upc⟩

/-- One list of a channel's values is judged value by value: `get` reads it, `ok` is its bound of Table 9.5. -/
def State.Judges (c : Nat) (get : PcCal → List Int) (ok : Nat → Int → Int → Bool) (f : Nat × Int → State → State) : Prop :=
  ∀ (g : Nat) (v : Int) (s : State), s.JudgedBy c (f (g, v) s)
    ∧ (ok g (nth (get (s.pc c).cal) g 0) v = true → get ((f (g, v) s).pc c).cal = (get (s.pc c).cal).set g v)
    ∧ (ok g (nth (get (s.pc c).cal) g 0) v = false → get ((f (g, v) s).pc c).cal = get (s.pc c).cal
        ∧ (f (g, v) s).on Reg.PC_CSTAT_ICAL_REJ c = true)

/-- A step that leaves a list of values. -/
def State.Leaves (c : Nat) (get : PcCal → List Int) (s t : State) : Prop :=
  s.JudgedBy c t ∧ get (t.pc c).cal = get (s.pc c).cal

theorem State.Judges.nth {c : Nat} {get : PcCal → List Int} {ok : Nat → Int → Int → Bool} {f : Nat × Int → State → State}
    (hf : State.Judges c get ok f) (g : Nat) (v : Int) (s : State) {j : Nat} (hj : j ≠ g) :
    Machine.nth (get ((f (g, v) s).pc c).cal) j 0 = Machine.nth (get (s.pc c).cal) j 0
      ∧ (get ((f (g, v) s).pc c).cal).length = (get (s.pc c).cal).length := by
  obtain ⟨-, h1, h2⟩ := hf g v s
  cases h : ok g (Machine.nth (get (s.pc c).cal) g 0) v
  · rw [(h2 h).1]
    exact ⟨rfl, rfl⟩
  · rw [h1 h, List.length_set]
    refine ⟨?_, rfl⟩
    unfold Machine.nth
    rw [List.getElem?_set_ne (Ne.symm hj)]

/-- Every value of a numbered list is taken or kept as Table 9.5 says. -/
theorem State.Judges.all {c : Nat} {get : PcCal → List Int} {ok : Nat → Int → Int → Bool} {f : Nat × Int → State → State}
    (hf : State.Judges c get ok f) (l : List (Nat × Int)) (hd : (l.map Prod.fst).Nodup) (s : State)
    (hl : ∀ p ∈ l, p.1 < (get (s.pc c).cal).length) : let t := s.each l f
    s.JudgedBy c t ∧ (∀ j, j ∉ l.map Prod.fst → Machine.nth (get (t.pc c).cal) j 0 = Machine.nth (get (s.pc c).cal) j 0)
      ∧ ∀ p ∈ l, (ok p.1 (Machine.nth (get (s.pc c).cal) p.1 0) p.2 = true → Machine.nth (get (t.pc c).cal) p.1 0 = p.2)
          ∧ (ok p.1 (Machine.nth (get (s.pc c).cal) p.1 0) p.2 = false →
              Machine.nth (get (t.pc c).cal) p.1 0 = Machine.nth (get (s.pc c).cal) p.1 0 ∧ t.on Reg.PC_CSTAT_ICAL_REJ c = true) := by
  induction l generalizing s with
  | nil => exact ⟨⟨rfl, id⟩, fun _ _ => rfl, fun p hp => absurd hp List.not_mem_nil⟩
  | cons q l ih =>
    obtain ⟨g, v⟩ := q
    rw [List.map_cons, List.nodup_cons] at hd
    obtain ⟨hg, hd⟩ := hd
    obtain ⟨hby, hok, hno⟩ := hf g v s
    have hgl : g < (get (s.pc c).cal).length := hl (g, v) List.mem_cons_self
    have hlen : (get ((f (g, v) s).pc c).cal).length = (get (s.pc c).cal).length :=
      (hf.nth g v s (Nat.ne_of_gt (Nat.lt_succ_self g))).2
    obtain ⟨kby, kother, kin⟩ := ih hd (f (g, v) s) fun p hp => hlen ▸ hl p (List.mem_cons_of_mem _ hp)
    have heach : s.each ((g, v) :: l) f = (f (g, v) s).each l f := rfl
    dsimp only
    rw [heach]
    refine ⟨hby.trans kby, fun j hj => ?_, fun p hp => ?_⟩
    · rw [List.map_cons, List.mem_cons, not_or] at hj
      rw [kother j hj.2, (hf.nth g v s hj.1).1]
    · rcases List.mem_cons.1 hp with rfl | hp
      · dsimp only
        rw [kother g hg]
        refine ⟨fun h => ?_, fun h => ?_⟩
        · rw [hok h]
          unfold Machine.nth
          rw [List.getElem?_set_self hgl]
          rfl
        · rw [(hno h).1]
          exact ⟨rfl, kby.rej (hno h).2⟩
      · have hne : p.1 ≠ g := fun he => hg (he ▸ (List.mem_map_of_mem hp : p.1 ∈ l.map Prod.fst))
        have h := kin p hp
        rw [(hf.nth g v s hne).1] at h
        exact h

theorem State.judges_off (c : Nat) (hc : c < 24) : State.Judges c PcCal.off offOk (fun a s => s.judgeOff c a.1 a.2) := by
  intro g v s
  obtain ⟨hrej, l, hpc⟩ := s.pcalReject_frame c g hc
  dsimp only
  unfold State.judgeOff State.pcalAccept
  dsimp only
  cases h : offOk g (nth (s.pc c).cal.off g 0) v
  · rw [if_neg Bool.false_ne_true]
    exact ⟨⟨by rw [hpc], fun _ => hrej⟩, fun h => Bool.noConfusion h, fun _ => ⟨by rw [hpc], hrej⟩⟩
  · rw [if_pos rfl, State.setPc_same, State.setPc_on]
    exact ⟨⟨by rw [State.setPc_same], fun h => by rw [State.setPc_on]; exact h⟩, fun _ => rfl, fun h => Bool.noConfusion h⟩

theorem State.judges_gain (c : Nat) (hc : c < 24) :
    State.Judges c PcCal.gain (fun _ => gainOk) (fun a s => s.judgeGain c a.1 a.2) := by
  intro g v s
  obtain ⟨hrej, l, hpc⟩ := s.pcalReject_frame c (8 + g) hc
  dsimp only
  unfold State.judgeGain State.pcalAccept
  dsimp only
  cases h : gainOk (nth (s.pc c).cal.gain g 0) v
  · rw [if_neg Bool.false_ne_true]
    exact ⟨⟨by rw [hpc], fun _ => hrej⟩, fun h => Bool.noConfusion h, fun _ => ⟨by rw [hpc], hrej⟩⟩
  · rw [if_pos rfl, State.setPc_same, State.setPc_on]
    exact ⟨⟨by rw [State.setPc_same], fun h => by rw [State.setPc_on]; exact h⟩, fun _ => rfl, fun h => Bool.noConfusion h⟩

/-- Judging a value leaves the lists it does not name. -/
theorem State.leaves_accept (s : State) (c k : Nat) (get : PcCal → List Int) (cal : PcCal) (h : get cal = get (s.pc c).cal) :
    State.Leaves c get s (s.pcalAccept c k cal) := by
  unfold State.pcalAccept
  dsimp only
  exact ⟨⟨by rw [State.setPc_same], fun h => by rw [State.setPc_on]; exact h⟩, by rw [State.setPc_same]; exact h⟩

theorem State.leaves_reject (s : State) (c k : Nat) (hc : c < 24) (get : PcCal → List Int) :
    State.Leaves c get s (s.pcalReject c k) := by
  obtain ⟨hrej, l, hpc⟩ := s.pcalReject_frame c k hc
  exact ⟨⟨by rw [hpc], fun _ => hrej⟩, by rw [hpc]⟩

theorem State.Leaves.trans {c : Nat} {get : PcCal → List Int} {s t u : State} (h : State.Leaves c get s t) (k : State.Leaves c get t u) :
    State.Leaves c get s u :=
  ⟨h.1.trans k.1, k.2.trans h.2⟩

theorem State.Leaves.refl (c : Nat) (get : PcCal → List Int) (s : State) : State.Leaves c get s s := ⟨⟨rfl, id⟩, rfl⟩

theorem State.Leaves.each {α : Type} {c : Nat} {get : PcCal → List Int} {f : α → State → State}
    (hf : ∀ a s, State.Leaves c get s (f a s)) (l : List α) (s : State) : State.Leaves c get s (s.each l f) :=
  State.each_keeps (P := fun t => State.Leaves c get s t) (fun a _ t ht => ht.trans (hf a t)) (.refl c get s)

theorem State.leaves_off_judgeGain (c : Nat) (hc : c < 24) (a : Nat × Int) (s : State) :
    State.Leaves c PcCal.off s (s.judgeGain c a.1 a.2) := by
  unfold State.judgeGain
  dsimp only
  split
  · exact s.leaves_accept c _ PcCal.off _ rfl
  · exact s.leaves_reject c _ hc PcCal.off

theorem State.leaves_gain_judgeOff (c : Nat) (hc : c < 24) (a : Nat × Int) (s : State) :
    State.Leaves c PcCal.gain s (s.judgeOff c a.1 a.2) := by
  unfold State.judgeOff
  dsimp only
  split
  · exact s.leaves_accept c _ PcCal.gain _ rfl
  · exact s.leaves_reject c _ hc PcCal.gain

/-- The currents and the attenuator are judged, of a CURR type. -/
def State.judgeCurrents (c : Nat) (x : IcalIn) (s : State) : State :=
  let s := if currType (s.pc c).type then s.each (numbered 14 x.cur) fun a s => s.judgeCur c a.1 a.2 else s
  match x.att with
  | some v => if currType (s.pc c).type then s.judgeAtt c v else s
  | none => s

theorem State.leaves_judgeCurrents (c : Nat) (hc : c < 24) (x : IcalIn) (s : State) (get : PcCal → List Int)
    (hcur : ∀ (cal : PcCal) l, get { cal with cur := l } = get cal) (hatt : ∀ (cal : PcCal) v, get { cal with att := v } = get cal) :
    State.Leaves c get s (s.judgeCurrents c x) := by
  have hone (a : Nat × Int) (t : State) : State.Leaves c get t (t.judgeCur c a.1 a.2) := by
    unfold State.judgeCur
    dsimp only
    split
    · exact t.leaves_accept c _ get _ (hcur ..)
    · exact t.leaves_reject c _ hc get
  have hat (v : Int) (t : State) : State.Leaves c get t (t.judgeAtt c v) := by
    unfold State.judgeAtt
    dsimp only
    split
    · exact t.leaves_accept c _ get _ (hatt ..)
    · exact t.leaves_reject c _ hc get
  unfold State.judgeCurrents
  have h1 : State.Leaves c get s (if currType (s.pc c).type = true then s.each (numbered 14 x.cur) fun a s => s.judgeCur c a.1 a.2 else s) := by
    split
    · exact .each hone _ s
    · exact .refl ..
  dsimp only
  generalize (if currType (s.pc c).type = true then s.each (numbered 14 x.cur) fun a s => s.judgeCur c a.1 a.2 else s) = u at h1 ⊢
  split
  · split
    · exact h1.trans (hat ..)
    · exact h1
  · exact h1

/-- The values of a run, judged (R225). -/
def State.judgeAll (c : Nat) (x : IcalIn) (s : State) : State :=
  ((s.each (numbered 8 x.off) fun a s => s.judgeOff c a.1 a.2).each (numbered 8 x.gain) fun a s => s.judgeGain c a.1 a.2).judgeCurrents c x

theorem icalEnd_eq (c : PcId) (x : IcalIn) (s : State) : exec (.icalEnd c x) s = .next
    (if !s.on Reg.PC_CSTAT_ICAL_BUSY c then s
     else
       let t := (s.judgeAll c x).put Reg.PC_CSTAT_ICAL_BUSY c false
       (t.setPc c { t.pc c with discard := discards (t.pc c).fmode, convSns := false,
                                convClamp := t.rd Reg.PC_FSTAT_CLAMP_NOW c != 0, pair0 := none }).put
         Reg.PC_BSTAT_DISCARD c ((t.pc c).type != 0)) := rfl

theorem numbered_keys {l : List Int} {n : Nat} (h : l.length = n) : (numbered n l).map Prod.fst = List.range n := by
  unfold numbered
  rw [List.map_fst_zip]
  rw [List.length_range, h]

theorem mem_numbered {l : List Int} {n g : Nat} (h : l.length = n) (hg : g < n) : (g, nth l g 0) ∈ numbered n l := by
  refine List.mem_iff_getElem?.2 ⟨g, List.getElem?_zip_eq_some.2 ⟨List.getElem?_range hg, ?_⟩⟩
  rw [nth, List.getElem?_eq_getElem (by omega)]
  rfl

theorem offOk_iff (g : Nat) (old new : Int) :
    offOk g old new = true ↔ |new| * 2 ^ g * 1000 ≤ 2 ^ 31 ∧ |new - old| * 2 ^ g * 5000 ≤ 2 ^ 31 := by
  unfold offOk
  rw [Bool.and_eq_true, decide_eq_true_eq, decide_eq_true_eq, ← Int.natCast_natAbs, ← Int.natCast_natAbs]
  norm_cast

theorem gainOk_iff (old new : Int) : gainOk old new = true ↔ |new| * 200 ≤ 2 ^ 24 ∧ |new - old| * 2000 ≤ 2 ^ 24 := by
  unfold gainOk
  rw [Bool.and_eq_true, decide_eq_true_eq, decide_eq_true_eq, ← Int.natCast_natAbs, ← Int.natCast_natAbs]
  norm_cast

/-- What the judged values are after a run (R225, Table 9.5). -/
theorem State.judgeAll_frame (s : State) (c : Nat) (hc : c < 24) (x : IcalIn) (ho : (s.pc c).cal.off.length = 8)
    (hg : (s.pc c).cal.gain.length = 8) (hxo : x.off.length = 8) (hxg : x.gain.length = 8) : let t := s.judgeAll c x
    (t.pc c).force = (s.pc c).force
      ∧ (∀ g, g < 8 →
          (offOk g (nth (s.pc c).cal.off g 0) (nth x.off g 0) = true → nth (t.pc c).cal.off g 0 = nth x.off g 0)
            ∧ (offOk g (nth (s.pc c).cal.off g 0) (nth x.off g 0) = false →
                nth (t.pc c).cal.off g 0 = nth (s.pc c).cal.off g 0 ∧ t.on Reg.PC_CSTAT_ICAL_REJ c = true))
      ∧ ∀ g, g < 8 →
          (gainOk (nth (s.pc c).cal.gain g 0) (nth x.gain g 0) = true → nth (t.pc c).cal.gain g 0 = nth x.gain g 0)
            ∧ (gainOk (nth (s.pc c).cal.gain g 0) (nth x.gain g 0) = false →
                nth (t.pc c).cal.gain g 0 = nth (s.pc c).cal.gain g 0 ∧ t.on Reg.PC_CSTAT_ICAL_REJ c = true) := by
  dsimp only
  unfold State.judgeAll
  have keys {l : List Int} (h : l.length = 8) {p : Nat × Int} (hp : p ∈ numbered 8 l) : p.1 < 8 :=
    List.mem_range.1 (numbered_keys h ▸ List.mem_map_of_mem hp)
  obtain ⟨uby, -, uin⟩ := (State.judges_off c hc).all (numbered 8 x.off) (by rw [numbered_keys hxo]; exact List.nodup_range) s
    fun p hp => ho ▸ keys hxo hp
  have ugain := State.Leaves.each (State.leaves_gain_judgeOff c hc) (numbered 8 x.off) s
  generalize (s.each (numbered 8 x.off) fun a s => s.judgeOff c a.1 a.2) = u at uby uin ugain ⊢
  obtain ⟨vby, -, vin⟩ := (State.judges_gain c hc).all (numbered 8 x.gain) (by rw [numbered_keys hxg]; exact List.nodup_range) u
    fun p hp => by rw [ugain.2, hg]; exact keys hxg hp
  have voff := State.Leaves.each (State.leaves_off_judgeGain c hc) (numbered 8 x.gain) u
  generalize (u.each (numbered 8 x.gain) fun a s => s.judgeGain c a.1 a.2) = v at vby vin voff ⊢
  obtain ⟨tby, toff⟩ := State.leaves_judgeCurrents c hc x v PcCal.off (fun _ _ => rfl) fun _ _ => rfl
  obtain ⟨-, tgain⟩ := State.leaves_judgeCurrents c hc x v PcCal.gain (fun _ _ => rfl) fun _ _ => rfl
  generalize v.judgeCurrents c x = t at tby toff tgain ⊢
  refine ⟨tby.force.trans (vby.force.trans uby.force), fun g hlt => ?_, fun g hlt => ?_⟩
  · obtain ⟨h1, h2⟩ := uin _ (mem_numbered hxo hlt)
    rw [toff, voff.2]
    exact ⟨h1, fun h => ⟨(h2 h).1, tby.rej (vby.rej (h2 h).2)⟩⟩
  · obtain ⟨h1, h2⟩ := vin _ (mem_numbered hxg hlt)
    rw [tgain]
    rw [ugain.2] at h1 h2
    exact ⟨h1, fun h => ⟨(h2 h).1, tby.rej (h2 h).2⟩⟩

/-- The end of a run: its values judged, the filter restarted (R224, R225). -/
theorem icalEnd_frame (c : PcId) (x : IcalIn) (s : State) (hb : s.on Reg.PC_CSTAT_ICAL_BUSY c = true)
    (ho : (s.pc c).cal.off.length = 8) (hg : (s.pc c).cal.gain.length = 8) (hxo : x.off.length = 8) (hxg : x.gain.length = 8) :
    ∃ t u, exec (.icalEnd c x) s = .next t ∧ u = s.judgeAll c x ∧ t.on Reg.PC_CSTAT_ICAL_BUSY c = false
      ∧ (t.pc c).discard = discards (s.pc c).fmode ∧ (t.pc c).cal = (u.pc c).cal
      ∧ t.on Reg.PC_CSTAT_ICAL_REJ c = u.on Reg.PC_CSTAT_ICAL_REJ c := by
  refine ⟨_, _, (icalEnd_eq c x s).trans (congrArg Host.Outcome.next (if_neg (by rw [hb]; decide))), rfl, ?_⟩
  have hforce := (s.judgeAll_frame c c.isLt x ho hg hxo hxg).1
  generalize s.judgeAll c x = u at hforce ⊢
  dsimp only
  rw [State.put_pc]
  generalize hv : u.put Reg.PC_CSTAT_ICAL_BUSY c false = v
  have von : v.on Reg.PC_CSTAT_ICAL_BUSY c = false := hv ▸ u.on_put_same Reg.PC_CSTAT_ICAL_BUSY c false (by decide)
  have vrej : v.on Reg.PC_CSTAT_ICAL_REJ c = u.on Reg.PC_CSTAT_ICAL_REJ c :=
    hv ▸ u.on_put_apart Reg.PC_CSTAT_ICAL_BUSY Reg.PC_CSTAT_ICAL_REJ c c false (by decide) (by decide)
  generalize hw : v.setPc c _ = w
  have won (f : Field) : w.on f c = v.on f c := hw ▸ v.setPc_on c _ f c
  have wpc : w.pc c = _ := hw ▸ v.setPc_same c _
  have hother (f : Field) (hne : f.addr c ≠ Reg.PC_BSTAT_DISCARD.addr c) (b : Bool) :
      (w.put Reg.PC_BSTAT_DISCARD c b).on f c = v.on f c :=
    (State.on_of_reg (w.reg_put_other Reg.PC_BSTAT_DISCARD c b hne)).trans (won f)
  refine ⟨(hother _ ?_ _).trans von, ?_, ?_, (hother _ ?_ _).trans vrej⟩
  · simp only [Field.addr, Reg.PC_CSTAT_ICAL_BUSY, Reg.PC_BSTAT_DISCARD]; omega
  · rw [State.put_pc, wpc]
    change discards (u.pc c).fmode = _
    unfold PcRt.fmode PcRt.get
    rw [hforce]
  · rw [State.put_pc, wpc]
  · simp only [Field.addr, Reg.PC_CSTAT_ICAL_REJ, Reg.PC_BSTAT_DISCARD]; omega

/-! ### PC_EXC with IMM (R219, R220) -/

/-- PC_EXC as Table 19.2 resolves it. -/
def pcExcHit (c : Nat) : Hit :=
  ⟨.pc, c, 0x00, 0, .precision, [⟨31, 31, .wo, 0⟩, ⟨23, 23, .rw, 0⟩, ⟨22, 22, .rw, 1⟩, ⟨21, 20, .rw, 1⟩, ⟨16, 16, .rw, 0⟩, ⟨10, 8, .rw, 0⟩]⟩

theorem lookup_pcExc : ∀ c : PcId, lookup (Reg.PC_EXC_IMM.addr c) = some (pcExcHit c) := by decide +kernel

/-- The IMM bit acts whatever another source has written in the clock. -/
theorem State.acting_imm (s : State) (rank c a : Nat) (v : Word) (hv : v.getLsbD 31 = true) :
    (s.acting rank (pcExcHit c) a v).getLsbD 31 = true := by
  have hkeep (b : Bool) (f : FieldSpec) (w : Word) (hf : f.mask.getLsbD 31 = false) (hw : w.getLsbD 31 = true) :
      (if b then (w &&& ~~~f.mask) ||| (s.reg a &&& f.mask) else w).getLsbD 31 = true := by
    cases b
    · exact hw
    · rw [if_pos rfl, BitVec.getLsbD_or, BitVec.getLsbD_and, BitVec.getLsbD_not, hw, hf]
      rfl
  unfold State.acting
  dsimp only [pcExcHit, List.foldl]
  exact hkeep _ _ _ rfl (hkeep _ _ _ rfl (hkeep _ _ _ rfl (hkeep _ _ _ rfl (hkeep _ _ _ rfl hv))))

/-- The state in which IMM acts: PC_EXC written, the pair of the channel broken. -/
def State.excWritten (s : State) (c : Nat) (w : Word) : State :=
  (({ s with acc := .ok } : State).setReg (Reg.PC_EXC_IMM.addr c) w).setPc c (s.pc c).unpaired

theorem pcExcImm_write (src : Source) (c : PcId) (v : Word) (s : State) (hm : 3 ≤ s.mode) :
    ∃ w, exec (.pcExcImm src c v) s = .next (((s.excWritten c w).excImm c).noteWrite src (Reg.PC_EXC_IMM.addr c)) := by
  have hv : (v ||| 0x80000000).getLsbD 31 = true := by
    rw [BitVec.getLsbD_or, show (0x80000000 : Word).getLsbD 31 = true from rfl, Bool.or_true]
  have hw := State.writeReg_hit src (v ||| 0x80000000) hm (lookup_pcExc c) (by simp [State.gated, pcExcHit]) (fun h => nomatch h)
  have himm := s.acting_imm (srcRank src) c (Reg.PC_EXC_IMM.addr c) _ hv
  generalize s.acting (srcRank src) (pcExcHit c) (Reg.PC_EXC_IMM.addr c) (v ||| 0x80000000) = act at hw himm
  generalize hword : State.written { s with acc := .ok } (s.classOpen .config) (pcExcHit c) (Reg.PC_EXC_IMM.addr c) act = word
  refine ⟨word, congrArg Host.Outcome.next (hw.trans (congrArg (State.noteWrite src _) ?_))⟩
  have heffect (u : State) (free : Bool) (was : Word) :
      u.writeEffect (srcNumber src) false free (pcExcHit c) act was = (u.setPc c (u.pc c).unpaired).excImm c := by
    change (if decide (0 = 0) && act.getLsbD 31 then (u.setPc c (u.pc c).unpaired).excImm c else _) = _
    rw [himm]
    rfl
  unfold State.writeHit
  dsimp only
  rw [show ((pcExcHit c).fields.any fun f => f.counts (pcExcHit c).mixed (s.reg (Reg.PC_EXC_IMM.addr c)) (v ||| 0x80000000)) = false from rfl]
  simp only [Bool.false_and, Bool.false_eq_true, if_false, heffect]
  rw [State.excWritten, ← hword]
  rfl

theorem State.excWritten_frame (s : State) (c : Nat) (w : Word) : let u := s.excWritten c w
    u.acc = .ok ∧ u.pc c = (s.pc c).unpaired ∧ (∀ a, a ≠ Reg.PC_EXC_IMM.addr c → u.reg a = s.reg a) ∧ u.pcWas = s.pcWas
      ∧ u.pcq = s.pcq ∧ u.before = s.before := by
  dsimp only
  unfold State.excWritten
  refine ⟨?_, State.setPc_same .., fun a ha => ?_, ?_, ?_, ?_⟩
  · rw [State.setPc_acc, State.setReg_acc]
  · rw [State.setPc_reg, State.reg_setReg_other _ _ ha]
    rfl
  · rw [State.setPc_pcWas, State.setReg_pcWas]
  · rw [State.setPc_pcq, State.setReg_pcq]
  · rw [State.setPc_before, State.setReg_before]

/-- The write waits (R218). -/
theorem State.pcPend_frame (s : State) (c : Nat) : let t := s.pcPend c
    (t.pc c).force = (s.pc c).force ∧ t.on Reg.PC_BSTAT_EXC_PEND c = true ∧ t.acc = s.acc ∧ t.pcq = s.pcq
      ∧ ∀ a, a ≠ Reg.PC_BSTAT_EXC_PEND.addr c → t.reg a = s.reg a := by
  dsimp only
  unfold State.pcPend
  refine ⟨?_, ?_, ?_, ?_, fun a ha => ?_⟩
  · rw [State.setPc_same]
  · rw [State.setPc_on, State.on_put_same _ _ _ _ (by decide)]
  · rw [State.setPc_acc, State.put_acc]
  · rw [State.setPc_pcq, State.put_pcq]
  · rw [State.setPc_reg, s.reg_put_other _ _ _ ha]

/-- The running conversion is delivered as a result marked ABORTED_EXC (R219). -/
def State.cutConversion (s : State) (c : Nat) : State :=
  let r := s.pc c
  let running := r.type != 0 && s.pcLive && !s.on Reg.PC_CSTAT_ICAL_BUSY c
  let s := if running then
      let fl := flagWord [(r.convSns, 0), (r.convClamp, 1), (s.on Reg.PC_FSTAT_FALLBACK c, 2), (true, 3),
        (r.diagNow || r.sel = 8 || r.sel = 9, 8), (r.phase = 1, 9), (s.on Reg.PC_FSTAT_OPEN c, 11),
        (s.on Reg.PC_FSTAT_SHORT c, 12)]
      (s.pcRecord c ⟨fl, 0, 0⟩).raise Reg.PC_CSTAT_ABX_SEEN c
    else s
  let r := s.pc c
  s.setPc c { r with diagClk := if running then r.diagClk + s.clocksCut r else r.diagClk, edge := s.tick }

theorem State.excImm_manual (s : State) (c : Nat) (hn : s.pcWas.find c = none) (hm : (s.pc c).get 5 Reg.PC_SEQ_MODE = 0) :
    s.excImm c =
      (let u := s.cutConversion c
       let ch := u.pcChange c (u.pcWritten c) false true
       u.pcTake c ({ ch.1 with wroteAt := none }, ch.2.1, true) false) := by
  unfold State.excImm
  dsimp only
  split
  · rename_i w hw
    cases hn.symm.trans hw
  · rw [if_neg (by rw [hm]; decide)]
    rfl

theorem State.cutConversion_frame (s : State) (c : Nat) (hc : c < 24) : let t := s.cutConversion c
    s.PcStep c [0x60] t
      ∧ ((s.pc c).type ≠ 0 → s.pcLive = true → s.on Reg.PC_CSTAT_ICAL_BUSY c = false → t.on Reg.PC_CSTAT_ABX_SEEN c = true) := by
  dsimp only
  unfold State.cutConversion
  dsimp only
  generalize flagWord _ = fl
  by_cases hr : ((s.pc c).type != 0 && s.pcLive && !s.on Reg.PC_CSTAT_ICAL_BUSY c) = true
  · simp only [if_pos hr]
    generalize hv : (s.pcRecord c ⟨fl, 0, 0⟩).raise Reg.PC_CSTAT_ABX_SEEN c = v
    have hstep : s.PcStep c [0x60] v := hv ▸ (s.pcStep_pcRecord c [0x60] ⟨fl, 0, 0⟩).trans (.raise _ c _ 0x60 rfl rfl (by decide))
    have hon : v.on Reg.PC_CSTAT_ABX_SEEN c = true := hv ▸ State.on_raise_same _ _ _ (by decide)
    exact ⟨hstep.trans (.setPc v rfl rfl rfl), fun _ _ _ => (v.setPc_on ..).trans hon⟩
  · simp only [if_neg hr]
    refine ⟨.setPc s rfl rfl rfl, fun ht hl hb => absurd ?_ hr⟩
    rw [hl, hb, Bool.and_true, Bool.not_false, Bool.and_true, bne_iff_ne]
    exact ht

/-- A change gathers no record and leaves the answer of the access. -/
theorem State.pcTake_rest (s : State) (c : Nat) (x : PcRt × Bool × Bool) (pend : Bool) :
    (s.pcTake c x pend).acc = s.acc ∧ (s.pcTake c x pend).pcq = s.pcq := by
  obtain ⟨r, fb, restart⟩ := x
  rw [s.pcTake_eq]
  dsimp only
  generalize r.taken restart _ = r
  generalize hv : s.setPc c _ = v
  have hva : v.acc = s.acc ∧ v.pcq = s.pcq := by rw [← hv]; exact ⟨rfl, rfl⟩
  generalize s.on Reg.PC_FSTAT_FALLBACK c = was
  have hw : (v.followChange c r fb was).acc = v.acc ∧ (v.followChange c r fb was).pcq = v.pcq := by
    refine ⟨(v.pcStep_followChange c r fb was).time.2.2.2, ?_⟩
    have hlog (u : State) : (u.pcFaultLog c).pcq = u.pcq := by
      obtain ⟨_, _, _, _, _, h, -⟩ := u.logged_pcFaultLog c
      rw [h]
    unfold State.followChange
    dsimp only
    simp only [apply_ite State.pcq, State.wr_pcq, State.put_pcq, State.raise_pcq, hlog, ite_self]
    split
    · rw [State.wr_pcq, State.wr_pcq]
    · rfl
  generalize v.followChange c r fb was = w at hw ⊢
  refine ⟨((w.showChange_frame c r pend).1.time.2.2.2).trans (hw.1.trans hva.1), ?_⟩
  unfold State.showChange
  rw [State.put_pcq, State.put_pcq, State.wr_pcq, State.wr_pcq, State.put_pcq, hw.2, hva.2]

/-- Registers of the settings agree, so do the settings written. -/
theorem State.pcWritten_of_reg {s t : State} {c : Nat}
    (h : ∀ o ∈ [0x00, 0x04, 0x08, 0x0C, 0x20, 0x24, 0x28, 0x2C, 0x30, 0x34], t.reg (0x20000 + 0x80 * c + o) = s.reg (0x20000 + 0x80 * c + o)) :
    t.pcWritten c = s.pcWritten c :=
  List.map_congr_left h

/-- IMM in manual mode, no boundary in its clock (R219). -/
theorem State.excImm_manual_frame (s : State) (c : Nat) (hc : c < 24) (hn : s.pcWas.find c = none)
    (hm : (s.pc c).get 5 Reg.PC_SEQ_MODE = 0) : let t := s.excImm c
    t.acc = s.acc ∧ (t.pc c).force = t.pcWritten c ∧ t.on Reg.PC_BSTAT_EXC_PEND c = false
      ∧ ((s.pc c).type ≠ 0 → s.pcLive = true → s.on Reg.PC_CSTAT_ICAL_BUSY c = false → t.on Reg.PC_CSTAT_ABX_SEEN c = true) := by
  dsimp only
  rw [s.excImm_manual c hn hm]
  dsimp only
  obtain ⟨hstep, habx⟩ := s.cutConversion_frame c hc
  generalize s.cutConversion c = u at hstep habx ⊢
  obtain ⟨cforce, -⟩ := u.pcChange_keeps c (u.pcWritten c) false true
  obtain ⟨tacc, -⟩ := u.pcTake_rest c ({ (u.pcChange c (u.pcWritten c) false true).1 with wroteAt := none },
    (u.pcChange c (u.pcWritten c) false true).2.1, true) false
  obtain ⟨tforce, -, -, tpend, -, treg⟩ := u.pcTake_frame c hc { (u.pcChange c (u.pcWritten c) false true).1 with wroteAt := none }
    (u.pcChange c (u.pcWritten c) false true).2.1 true false
  generalize u.pcTake c _ false = t at *
  have same (o : Nat) (ho : o < 0x80) (h : ∀ x ∈ takeOffs, o ≠ x) : t.reg (0x20000 + 0x80 * c + o) = u.reg (0x20000 + 0x80 * c + o) :=
    treg _ (by omega) (by omega) fun x hx => by have := h x hx; omega
  refine ⟨tacc.trans hstep.time.2.2.2, ?_, tpend, fun h1 h2 h3 => ?_⟩
  · rw [tforce]
    refine cforce.trans (State.pcWritten_of_reg fun o ho => (same o ?_ ?_).symm)
    · exact (by decide : ∀ o ∈ [0x00, 0x04, 0x08, 0x0C, 0x20, 0x24, 0x28, 0x2C, 0x30, 0x34], o < 0x80) o ho
    · exact (by decide : ∀ o ∈ [0x00, 0x04, 0x08, 0x0C, 0x20, 0x24, 0x28, 0x2C, 0x30, 0x34], ∀ x ∈ takeOffs, o ≠ x) o ho
  · refine (State.on_of_reg ?_).trans (habx h1 h2 h3)
    have h := same 0x60 (by decide) (by decide)
    rwa [Nat.add_right_comm] at h

/-- The state an IMM write in the clock of its boundary finds again (R220). -/
def State.backAtBoundary (s : State) (c : Nat) (w : PcWas) : State :=
  ((s.wr Reg.PC_FSTAT_FALLBACK c (Reg.PC_FSTAT_FALLBACK.read w.fstat)).wr Reg.PC_FSTAT_FB_SEEN c
    (Reg.PC_FSTAT_FB_SEEN.read w.fstat)).setPc c { w.rt with wroteAt := (s.pc c).wroteAt }

theorem State.immLate_eq (s : State) (c : Nat) (w : PcWas) : s.immLate c w =
    (let u := s.backAtBoundary c w
     u.pcTake c (u.pcChange c ((s.old.pcWritten c).set 0 (s.reg (Reg.PC_EXC_VEXC.addr c))) true true) (s.on Reg.PC_BSTAT_EXC_PEND c)) := by
  unfold State.immLate State.backAtBoundary
  dsimp only

theorem State.immLate_frame (s : State) (c : Nat) (hc : c < 24) (w : PcWas) : let t := s.immLate c w
    t.acc = s.acc ∧ t.pcq = s.pcq ∧ t.on Reg.PC_CSTAT_ABX_SEEN c = s.on Reg.PC_CSTAT_ABX_SEEN c
      ∧ t.reg (Reg.PC_EXC_VEXC.addr c) = s.reg (Reg.PC_EXC_VEXC.addr c)
      ∧ (t.pc c).force = monSettings ((s.old.pcWritten c).set 0 (s.reg (Reg.PC_EXC_VEXC.addr c))) w.rt.force := by
  dsimp only
  rw [s.immLate_eq]
  dsimp only
  generalize (s.old.pcWritten c).set 0 (s.reg (Reg.PC_EXC_VEXC.addr c)) = new
  generalize hu : s.backAtBoundary c w = u
  have uacc : u.acc = s.acc ∧ u.pcq = s.pcq := by
    rw [← hu, State.backAtBoundary, State.setPc_acc, State.wr_acc, State.wr_acc, State.setPc_pcq, State.wr_pcq, State.wr_pcq]
    exact ⟨rfl, rfl⟩
  have upc : u.pc c = { w.rt with wroteAt := (s.pc c).wroteAt } := by rw [← hu, State.backAtBoundary, State.setPc_same]
  have ureg (a : Nat) (ha : a ≠ Reg.PC_FSTAT_FALLBACK.addr c) : u.reg a = s.reg a := by
    rw [← hu, State.backAtBoundary, State.setPc_reg, State.reg_wr_other _ Reg.PC_FSTAT_FB_SEEN c _ ha,
      State.reg_wr_other _ Reg.PC_FSTAT_FALLBACK c _ ha]
  obtain ⟨tacc, tpcq⟩ := u.pcTake_rest c (u.pcChange c new true true) (s.on Reg.PC_BSTAT_EXC_PEND c)
  obtain ⟨cforce, -⟩ := u.pcChange_keeps c new true true
  generalize u.pcChange c new true true = ch at *
  obtain ⟨r, fb, restart⟩ := ch
  obtain ⟨tforce, -, -, -, -, treg⟩ := u.pcTake_frame c hc r fb restart (s.on Reg.PC_BSTAT_EXC_PEND c)
  generalize u.pcTake c (r, fb, restart) (s.on Reg.PC_BSTAT_EXC_PEND c) = t at *
  have same (o : Nat) (ho : o < 0x80) (h : ∀ x ∈ takeOffs, o ≠ x) : t.reg (0x20000 + 0x80 * c + o) = s.reg (0x20000 + 0x80 * c + o) :=
    (treg _ (by omega) (by omega) fun x hx => by have := h x hx; omega).trans (ureg _ (by
      have := h 0x10 (by decide)
      simp only [Field.addr, Reg.PC_FSTAT_FALLBACK]; omega))
  refine ⟨tacc.trans uacc.1, tpcq.trans uacc.2, State.on_of_reg ?_, ?_, ?_⟩
  · have h := same 0x60 (by decide) (by decide)
    rwa [Nat.add_right_comm] at h
  · have h := same 0 (by decide) (by decide)
    exact h
  · rw [tforce, cforce, upc, if_pos rfl]

/-- IMM, by the clock it came in (R219, R220). -/
theorem pcExcImm_frame (src : Source) (c : PcId) (v : Word) (s : State) (hm : 3 ≤ s.mode) (h7 : s.mode ≠ 7) :
    ∃ t, exec (.pcExcImm src c v) s = .next t ∧ t.acc = .ok
      ∧ (s.pcWas.find c = none → (s.pc c).get 5 Reg.PC_SEQ_MODE = 1 → (t.pc c).force = (s.pc c).force ∧ t.on Reg.PC_BSTAT_EXC_PEND c = true)
      ∧ (s.pcWas.find c = none → (s.pc c).get 5 Reg.PC_SEQ_MODE = 0 → (t.pc c).force = t.pcWritten c ∧ t.on Reg.PC_BSTAT_EXC_PEND c = false
          ∧ (4 ≤ s.mode → (s.pc c).type ≠ 0 → s.on Reg.PC_CSTAT_ICAL_BUSY c = false → t.on Reg.PC_CSTAT_ABX_SEEN c = true))
      ∧ ∀ w, s.pcWas.find c = some w → t.on Reg.PC_CSTAT_ABX_SEEN c = s.on Reg.PC_CSTAT_ABX_SEEN c ∧ t.pcq = s.pcq
          ∧ (w.rt.get 5 Reg.PC_SEQ_MODE = 0 →
              (t.pc c).force = monSettings ((s.old.pcWritten c).set 0 (t.reg (Reg.PC_EXC_VEXC.addr c))) w.rt.force) := by
  obtain ⟨w, hw⟩ := pcExcImm_write src c v s hm
  refine ⟨_, hw, ?_⟩
  obtain ⟨uacc, upc, ureg, uwas, upcq, ubefore⟩ := s.excWritten_frame c w
  generalize s.excWritten c w = u at *
  have uon (f : Field) (hf : f.addr c ≠ Reg.PC_EXC_IMM.addr c) : u.on f c = s.on f c := State.on_of_reg (ureg _ hf)
  have uabx : u.on Reg.PC_CSTAT_ABX_SEEN c = s.on Reg.PC_CSTAT_ABX_SEEN c :=
    uon _ (by simp only [Field.addr, Reg.PC_CSTAT_ABX_SEEN, Reg.PC_EXC_IMM]; omega)
  have ubusy : u.on Reg.PC_CSTAT_ICAL_BUSY c = s.on Reg.PC_CSTAT_ICAL_BUSY c :=
    uon _ (by simp only [Field.addr, Reg.PC_CSTAT_ICAL_BUSY, Reg.PC_EXC_IMM]; omega)
  have umode : u.mode = s.mode := State.mode_of_reg (ureg _ (by simp only [Field.addr, Reg.BOOT_STATE_STATE, Reg.PC_EXC_IMM]; omega))
  have useq : (u.pc c).get 5 Reg.PC_SEQ_MODE = (s.pc c).get 5 Reg.PC_SEQ_MODE := by rw [upc]; rfl
  have utype : (u.pc c).type = (s.pc c).type := by rw [upc]; rfl
  have uforce : (u.pc c).force = (s.pc c).force := by rw [upc]; rfl
  have hnote (t : State) : (t.noteWrite src (Reg.PC_EXC_IMM.addr c)).pcWritten c = t.pcWritten c := rfl
  have hq (t : State) : (t.noteWrite src (Reg.PC_EXC_IMM.addr c)).pcq = t.pcq := rfl
  rw [State.acc_noteWrite, State.pc_noteWrite, State.on_noteWrite, State.on_noteWrite, hnote, hq, State.reg_noteWrite]
  cases hn : s.pcWas.find c with
  | none =>
    have hun : u.pcWas.find c = none := uwas ▸ hn
    by_cases h1 : (s.pc c).get 5 Reg.PC_SEQ_MODE = 1
    · have hpend : u.excImm c = u.pcPend c := by
        unfold State.excImm
        rw [hun]
        exact if_pos (useq.trans h1)
      obtain ⟨pforce, pon, pacc, -, -⟩ := u.pcPend_frame c
      rw [hpend]
      exact ⟨pacc.trans uacc, fun _ _ => ⟨pforce.trans uforce, pon⟩, fun _ h0 => absurd (h0.symm.trans h1) (by decide),
        fun w h => nomatch h⟩
    · have h0 : (s.pc c).get 5 Reg.PC_SEQ_MODE = 0 := by
        have h2 : (s.pc c).get 5 Reg.PC_SEQ_MODE < 2 := Nat.mod_lt _ (by decide)
        omega
      obtain ⟨tacc, tforce, tpend, tabx⟩ := u.excImm_manual_frame c c.isLt hun (useq.trans h0)
      exact ⟨tacc.trans uacc, fun _ h => absurd h h1, fun _ _ => ⟨tforce, tpend, fun h4 ht hb =>
        tabx (utype ▸ ht) (State.pcLive_of_mode (umode ▸ h4) (umode ▸ h7)) (ubusy.trans hb)⟩, fun w h => nomatch h⟩
  | some w =>
    have hun : u.pcWas.find c = some w := uwas ▸ hn
    by_cases h1 : w.rt.get 5 Reg.PC_SEQ_MODE = 1
    · have hpend : u.excImm c = u.pcPend c := by
        unfold State.excImm
        rw [hun]
        exact if_pos h1
      obtain ⟨-, -, pacc, ppcq, preg⟩ := u.pcPend_frame c
      rw [hpend]
      refine ⟨pacc.trans uacc, (fun h => nomatch h), (fun h => nomatch h), fun w' h => ?_⟩
      cases h
      refine ⟨(State.on_of_reg (preg _ ?_)).trans uabx, ppcq.trans upcq, fun h0 => absurd (h0.symm.trans h1) (by decide)⟩
      simp only [Field.addr, Reg.PC_CSTAT_ABX_SEEN, Reg.PC_BSTAT_EXC_PEND]; omega
    · have hlate : u.excImm c = u.immLate c w := by
        unfold State.excImm
        rw [hun]
        exact if_neg h1
      obtain ⟨tacc, tpcq, tabx, treg, tforce⟩ := u.immLate_frame c c.isLt w
      rw [hlate]
      refine ⟨tacc.trans uacc, (fun h => nomatch h), (fun h => nomatch h), fun w' h => ?_⟩
      cases h
      refine ⟨tabx.trans uabx, tpcq.trans upcq, fun _ => ?_⟩
      rw [treg, tforce, State.old_pcWritten ubefore]

/-- Settles O40: each command is its write of PC_EXC or PC_CMD; a run's end judges value by value. -/
theorem precisionCommands : Obligations.PrecisionCommands := by
  unfold Obligations.PrecisionCommands
  dsimp only
  refine ⟨fun src c v s ⟨h3, h7⟩ => pcExcImm_frame src c v s h3 h7, fun src c s ⟨h3, _⟩ => pcCmdIcal_starts src c s h3, fun c x s hb => ?_,
    fun c x s hb ho hg hxo hxg => ?_, fun src c s ⟨h3, _⟩ hopen => ⟨?_, ?_, pcCmdSysclr_open src c s h3 hopen⟩,
    fun src c s ⟨h3, _⟩ hclosed => ⟨?_, ?_, ?_⟩⟩
  · rw [icalEnd_eq, hb]
    rfl
  · obtain ⟨t, u, hexec, hu, hbusy, hdisc, hcal, hrej⟩ := icalEnd_frame c x s hb ho hg hxo hxg
    obtain ⟨-, hoff, hgain⟩ := s.judgeAll_frame c c.isLt x ho hg hxo hxg
    rw [← hu] at hoff hgain
    refine ⟨t, hexec, hbusy, hdisc, fun g hlt => ?_, fun g hlt => ?_⟩
    · rw [← offOk_iff, hcal, hrej]
      exact ⟨(hoff g hlt).1, fun h => (hoff g hlt).2 (Bool.eq_false_iff.2 h)⟩
    · rw [← gainOk_iff, hcal, hrej]
      exact ⟨(hgain g hlt).1, fun h => (hgain g hlt).2 (Bool.eq_false_iff.2 h)⟩
  · obtain ⟨t, ht, h⟩ := pcCmdSys_open src c s h3 hopen false (v := 2) rfl fun _ => rfl
    exact ⟨t, congrArg Host.Outcome.next ht, h⟩
  · obtain ⟨t, ht, h⟩ := pcCmdSys_open src c s h3 hopen true (v := 4) rfl fun _ => rfl
    exact ⟨t, congrArg Host.Outcome.next ht, h⟩
  · obtain ⟨t, ht, h⟩ := s.writeReg_pcLocked src c 2 h3 hclosed rfl fun _ => rfl
    exact ⟨t, congrArg Host.Outcome.next ht, h⟩
  · obtain ⟨t, ht, h⟩ := s.writeReg_pcLocked src c 4 h3 hclosed rfl fun _ => rfl
    exact ⟨t, congrArg Host.Outcome.next ht, h⟩
  · obtain ⟨t, ht, h⟩ := s.writeReg_pcLocked src c 8 h3 hclosed rfl fun _ => rfl
    exact ⟨t, congrArg Host.Outcome.next ht, h⟩

end Sys2Proof.Machine
end
-- ==== Sys2Proof/Proofs/LinkFrames.lean ====
section
/-! A datagram boundary at which the answer that ends the session leaves while PAUSE frames are being sent (R335, R338, R341). -/

namespace Sys2Proof.Machine

/-- RUNNING with the link up and session 1 open; the answer to a DISCONNECT waits, and the device has asked for a pause. -/
def endsWhilePausing : State :=
  let s := ((State.reset.wr Reg.BOOT_STATE_STATE 0 6).put Reg.HOSTLINK_STAT_LINK_UP 0 true).wr Reg.HOSTLINK_STAT_SESSION 0 1
  { s with link := { s.link with replies := [⟨.hawser, 0, 1, 0, [], false, none, true, false⟩], pausing := true } }

def Line.isPause : Line → Bool
  | .pause _ => true
  | _ => false

theorem endsWhilePausing_waits : 3 ≤ endsWhilePausing.mode ∧ endsWhilePausing.on Reg.HOSTLINK_STAT_LINK_UP 0 = true
    ∧ endsWhilePausing.on Reg.HOSTLINK_STAT_PAUSED 0 = false
    ∧ endsWhilePausing.link.replies = [⟨.hawser, 0, 1, 0, [], false, none, true, false⟩] := by decide +kernel

/-- The last line after a command is a PAUSE frame. -/
def pausesLast : Host.Outcome State Fault Refusal → Bool
  | .next t => t.link.wire.head?.any Line.isPause
  | _ => false

/-- The last line of the boundary is the PAUSE frame that ends the pause: the buffer has been emptied with the session. -/
theorem endsWhilePausing_sends : pausesLast (exec .datagramSend endsWhilePausing) = true := by decide +kernel

/-- Refutes O48: where a response that ends the session leaves while `pausing` is set, the emptied receive buffer sends a PAUSE
frame of its own after it, so the response is not the boundary's last line: `endsWhilePausing`. -/
theorem not_linkFrames : ¬ Obligations.LinkFrames := by
  unfold Obligations.LinkFrames
  dsimp only
  rintro ⟨-, -, -, -, -, hreply, -⟩
  obtain ⟨h3, hup, hpaused, hwaits⟩ := endsWhilePausing_waits
  obtain ⟨t, d, hexec, -, hwire, -⟩ := hreply endsWhilePausing _ [] ⟨h3, hup, hpaused⟩ hwaits rfl
  have hlast := endsWhilePausing_sends
  rw [hexec, pausesLast, hwire] at hlast
  exact Bool.noConfusion hlast

end Sys2Proof.Machine
end
-- ==== Sys2Proof/Proofs/CommandEffects.lean ====
section
/-! What each Tilvar command does and answers (R327 to R335, R386, R437). -/

namespace Sys2Proof.Machine

/-! ### Numbers in payloads -/

theorem leBytes_succ (n v : Nat) : leBytes (n + 1) v = BitVec.ofNat 8 v :: leBytes n (v / 256) := by
  unfold leBytes
  rw [List.range_succ_eq_map, List.map_cons, List.map_map, Nat.pow_zero, Nat.div_one]
  refine congrArg (_ :: ·) (List.map_congr_left fun i _ => ?_)
  rw [Function.comp_apply, Nat.div_div_eq_div_mul, ← Nat.pow_succ']

theorem leNat_leBytes (n v : Nat) : leNat (leBytes n v) = v % 256 ^ n := by
  induction n generalizing v with
  | zero => rw [Nat.pow_zero, Nat.mod_one]; rfl
  | succ n ih =>
    rw [leBytes_succ, leNat, ih, Nat.pow_succ', Nat.mod_mul, BitVec.toNat_ofNat]

/-- A number at the start of a payload. -/
theorem field_leBytes (n v : Nat) (rest : List Byte) (h : v < 256 ^ n) : field (leBytes n v ++ rest) 0 n = v := by
  rw [field, List.drop_zero, List.take_left' (length_leBytes n v), leNat_leBytes, Nat.mod_eq_of_lt h]

/-- A number behind another part of the payload. -/
theorem field_append {a : List Byte} {k o : Nat} (b : List Byte) (n : Nat) (ha : a.length = k) (hk : k ≤ o) :
    field (a ++ b) o n = field b (o - k) n := by
  rw [field, field, List.drop_append, ha, List.drop_eq_nil_of_le (by omega), List.nil_append]

/-! ### READ and WRITE (R332) -/

/-- The payload of a READ or WRITE: address, count, mode, a reserved byte, and the words of a WRITE. -/
def burstBytes (a cnt mode r : Nat) (ws : List Byte) : List Byte := leBytes 4 a ++ leBytes 2 cnt ++ leBytes 1 mode ++ leBytes 1 r ++ ws

section
variable {a cnt mode r : Nat} {ws : List Byte}

theorem length_burstBytes : (burstBytes a cnt mode r ws).length = 8 + ws.length := by
  simp only [burstBytes, List.length_append, length_leBytes]

theorem field_burst_addr (ha : a < 2 ^ 32) : field (burstBytes a cnt mode r ws) 0 4 = a := by
  unfold burstBytes
  rw [List.append_assoc, List.append_assoc, List.append_assoc, field_leBytes 4 a _ (by omega)]

theorem field_burst_count (hc : cnt < 2 ^ 16) : field (burstBytes a cnt mode r ws) 4 2 = cnt := by
  unfold burstBytes
  rw [List.append_assoc, List.append_assoc, List.append_assoc, field_append _ _ (length_leBytes 4 a) (by decide),
    field_leBytes 2 cnt _ (by omega)]

theorem field_burst_mode (hm : mode < 2 ^ 8) : field (burstBytes a cnt mode r ws) 6 1 = mode := by
  unfold burstBytes
  rw [List.append_assoc, List.append_assoc, List.append_assoc, field_append _ _ (length_leBytes 4 a) (by decide),
    field_append _ _ (length_leBytes 2 cnt) (by decide), field_leBytes 1 mode _ (by omega)]

theorem field_burst_word (w : Word) : field (burstBytes a cnt mode r (leBytes 4 w.toNat)) 8 4 = w.toNat := by
  unfold burstBytes
  have hl : (leBytes 4 a ++ leBytes 2 cnt ++ leBytes 1 mode ++ leBytes 1 r).length = 8 := by
    simp only [List.length_append, length_leBytes]
  rw [field_append _ _ hl (Nat.le_refl 8), ← List.append_nil (leBytes 4 w.toNat), field_leBytes 4 _ _ (by omega)]

/-- What a burst is: malformed, or outside the register space, or its addresses (R332). -/
theorem burst_eq (write : Bool) (ha : a < 2 ^ 32) (hc : cnt < 2 ^ 16) (hm : mode < 2 ^ 8) :
    burst write (burstBytes a cnt mode r ws)
      = if cnt = 0 ∨ (if write then 360 else 288) < cnt ∨ 1 < mode ∨ ws.length ≠ (if write then 4 * cnt else 0) then (badMsg, [])
        else if a % 4 ≠ 0 ∨ 0x48000 < (if mode = 0 then a + 4 * (cnt - 1) else a) + 4 then (badAddr, [])
        else (okCode, (List.range cnt).map fun i => if mode = 0 then a + 4 * i else a) := by
  unfold burst
  dsimp only
  rw [field_burst_addr ha, field_burst_count hc, field_burst_mode hm, length_burstBytes]
  have hlen : (8 + ws.length != if write = true then 8 + 4 * cnt else 8) = decide (ws.length ≠ if write = true then 4 * cnt else 0) := by
    refine Bool.eq_iff_iff.2 (bne_iff_ne.trans (Iff.trans ?_ decide_eq_true_iff.symm))
    split <;> omega
  rw [hlen]
  by_cases h : cnt = 0 ∨ (if write then 360 else 288) < cnt ∨ 1 < mode ∨ ws.length ≠ (if write then 4 * cnt else 0)
  · rw [if_pos h, if_pos]
    simpa [or_assoc] using h
  · rw [if_neg h, if_neg]
    · by_cases h' : a % 4 ≠ 0 ∨ 0x48000 < (if mode = 0 then a + 4 * (cnt - 1) else a) + 4
      · rw [if_pos h', if_pos]
        simpa using h'
      · rw [if_neg h', if_neg]
        simpa using h'
    · simpa [or_assoc] using h

variable (src : Source) (n : Nat) (s : State)

theorem command_read (p : List Byte) : s.command src n 0x42 p = s.cmdRead src p := rfl

theorem command_write (p : List Byte) : s.command src n 0x43 p = s.cmdWrite src p := rfl

theorem cmdRead_refused {p : List Byte} {code : Nat} (h : burst false p = (code, [])) (hc : code ≠ okCode) :
    s.cmdRead src p = (respCode code 0x42 [], s) := by
  unfold State.cmdRead
  rw [h]
  exact if_pos (bne_iff_ne.2 hc)

theorem cmdWrite_refused {p : List Byte} {code : Nat} (h : burst true p = (code, [])) (hc : code ≠ okCode) :
    s.cmdWrite src p = (respCode code 0x43 [], s) := by
  unfold State.cmdWrite
  rw [h]
  exact if_pos (bne_iff_ne.2 hc)

/-- A burst of one access is that access. -/
theorem accesses_one (x : Nat × Option Word) : s.accesses src s.mram.incarn [x] [] []
    = (let u := match x.2 with
        | none => s.readReg src x.1
        | some v => s.writeReg src x.1 v
       ([u.readVal], [accNumber u.acc], u)) := by
  obtain ⟨a, w⟩ := x
  unfold State.accesses
  rw [if_neg (by rw [bne_self_eq_false]; decide)]
  rfl

theorem cmdRead_one {p : List Byte} {a : Nat} (h : burst false p = (okCode, [a])) :
    s.cmdRead src p = (respPayload 0 0x42 1 [(s.readReg src a).readVal] [accNumber (s.readReg src a).acc] [], s.readReg src a) := by
  unfold State.cmdRead
  rw [h]
  dsimp only
  rw [if_neg (by decide), List.map_singleton, accesses_one src s (a, _)]
  rfl

theorem cmdWrite_one {p : List Byte} {a : Nat} (h : burst true p = (okCode, [a])) : let u := s.writeReg src a (BitVec.ofNat 32 (field p 8 4))
    s.cmdWrite src p = (respPayload 0 0x43 1 [] [accNumber u.acc] [], u) := by
  unfold State.cmdWrite
  rw [h]
  dsimp only
  have hw : ((List.range [a].length).map fun i => (nth [a] i 0, some (BitVec.ofNat 32 (field p (8 + 4 * i) 4))))
      = [(a, some (BitVec.ofNat 32 (field p 8 4)))] := rfl
  rw [if_neg (by decide), hw, accesses_one src s (a, _)]
  rfl

/-- READ and WRITE: what they refuse, and one access (R332). -/
theorem command_burst (ha : a < 2 ^ 32) (hc : cnt < 2 ^ 16) (hm : mode < 2 ^ 8) :
    let last := if mode = 0 then a + 4 * (cnt - 1) else a
    (cnt = 0 ∨ 288 < cnt ∨ 1 < mode ∨ ws ≠ [] → s.command src n 0x42 (burstBytes a cnt mode r ws) = (respCode 6 0x42 [], s))
    ∧ (cnt = 0 ∨ 360 < cnt ∨ 1 < mode ∨ ws.length ≠ 4 * cnt → s.command src n 0x43 (burstBytes a cnt mode r ws) = (respCode 6 0x43 [], s))
    ∧ (1 ≤ cnt → cnt ≤ 288 → mode ≤ 1 → a % 4 ≠ 0 ∨ 0x48000 ≤ last →
        s.command src n 0x42 (burstBytes a cnt mode r []) = (respCode 5 0x42 [], s))
    ∧ (1 ≤ cnt → cnt ≤ 360 → mode ≤ 1 → ws.length = 4 * cnt → a % 4 ≠ 0 ∨ 0x48000 ≤ last →
        s.command src n 0x43 (burstBytes a cnt mode r ws) = (respCode 5 0x43 [], s))
    ∧ (cnt = 1 → mode ≤ 1 → a % 4 = 0 → a < 0x48000 →
        let u := s.readReg src a
        s.command src n 0x42 (burstBytes a cnt mode r []) = (respPayload 0 0x42 1 [u.readVal] [accNumber u.acc] [], u))
    ∧ ∀ w : Word, cnt = 1 → mode ≤ 1 → a % 4 = 0 → a < 0x48000 → ws = leBytes 4 w.toNat →
        let u := s.writeReg src a w
        s.command src n 0x43 (burstBytes a cnt mode r ws) = (respPayload 0 0x43 1 [] [accNumber u.acc] [], u) := by
  dsimp only
  have outside (last : Nat) (hlast : last % 4 = a % 4) (h : a % 4 ≠ 0 ∨ 0x48000 ≤ last) : a % 4 ≠ 0 ∨ 0x48000 < last + 4 := by omega
  have hmod : (if mode = 0 then a + 4 * (cnt - 1) else a) % 4 = a % 4 := by split <;> omega
  refine ⟨fun h => ?_, fun h => ?_, fun h1 h2 h3 h => ?_, fun h1 h2 h3 hl h => ?_, fun h1 h3 h4 h5 => ?_, fun w h1 h3 h4 h5 hw => ?_⟩
  · refine cmdRead_refused src s ((burst_eq false ha hc hm).trans (if_pos ?_)) (by decide)
    rcases h with h | h | h | h
    · exact .inl h
    · exact .inr (.inl h)
    · exact .inr (.inr (.inl h))
    · exact .inr (.inr (.inr fun hl => h (List.eq_nil_of_length_eq_zero hl)))
  · exact cmdWrite_refused src s ((burst_eq true ha hc hm).trans (if_pos h)) (by decide)
  · refine cmdRead_refused src s ((burst_eq false ha hc hm).trans ((if_neg ?_).trans (if_pos (outside _ hmod h)))) (by decide)
    simp only [Bool.false_eq_true, if_false, List.length_nil, ne_eq, not_true_eq_false, or_false]
    omega
  · refine cmdWrite_refused src s ((burst_eq true ha hc hm).trans ((if_neg ?_).trans (if_pos (outside _ hmod h)))) (by decide)
    simp only [if_true]
    omega
  · subst h1
    refine cmdRead_one src s ((burst_eq false ha hc hm).trans ((if_neg ?_).trans ((if_neg ?_).trans ?_)))
    · simp only [Bool.false_eq_true, if_false, List.length_nil, ne_eq, not_true_eq_false, or_false]
      omega
    · split <;> omega
    · rw [List.range_one, List.map_singleton]
      by_cases h0 : mode = 0 <;> simp [h0]
  · subst h1 hw
    have hb : burst true (burstBytes a 1 mode r (leBytes 4 w.toNat)) = (okCode, [a]) := by
      refine (burst_eq true ha hc hm).trans ((if_neg ?_).trans ((if_neg ?_).trans ?_))
      · simp only [if_true, length_leBytes]
        omega
      · split <;> omega
      · rw [List.range_one, List.map_singleton]
        by_cases h0 : mode = 0 <;> simp [h0]
    have h := cmdWrite_one src s hb
    dsimp only at h
    rw [field_burst_word, BitVec.ofNat_toNat, BitVec.setWidth_eq] at h
    exact h

end

/-! ### NAK (R334, R339) -/

/-- The datagrams a NAK asks for. -/
def nakSeqs (first cnt : Nat) : List Nat := (List.range cnt).map fun i => (first + i) % 2 ^ 32

/-- The datagrams of a NAK that are still held. -/
def State.nakHeld (first cnt : Nat) (s : State) : List Datagram := (nakSeqs first cnt).filterMap fun q => s.link.held.find q

/-- The datagrams of a NAK that are gone. -/
def State.nakLost (first cnt : Nat) (s : State) : List Nat := (nakSeqs first cnt).filter fun q => (s.link.held.find q).isNone

/-- The datagrams held join those to be sent again, with RETX set. -/
def State.resend (ds : List Datagram) (s : State) : State :=
  { s with link := { s.link with retx := s.link.retx ++ ds.map fun d => { d with flags := d.flags ||| 8 } } }

section
variable {first cnt : Nat} (s : State)

theorem cmdNak_eq (hf : first < 2 ^ 32) (hc : cnt < 2 ^ 16) : s.cmdNak (leBytes 4 first ++ leBytes 2 cnt ++ leBytes 2 0)
    = if cnt = 0 ∨ 256 < cnt ∨ (nakSeqs first cnt).any (fun q => !s.seqSent q) = true then (respCode badMsg 0x45 [], s)
      else if s.nakLost first cnt = [] then (respCode okCode 0x45 [], s.resend (s.nakHeld first cnt))
      else (respCode gone 0x45 (leBytes 4 (nth (s.nakLost first cnt) 0 0) ++ leBytes 2 (s.nakLost first cnt).length),
        (s.resend (s.nakHeld first cnt)).bump Reg.HOSTLINK_GONE_N 0 (s.nakLost first cnt).length) := by
  have hfirst : field (leBytes 4 first ++ leBytes 2 cnt ++ leBytes 2 0) 0 4 = first := by
    rw [List.append_assoc, field_leBytes 4 first _ (by omega)]
  have hcnt : field (leBytes 4 first ++ leBytes 2 cnt ++ leBytes 2 0) 4 2 = cnt := by
    rw [List.append_assoc, field_append _ _ (length_leBytes 4 first) (by decide), field_leBytes 2 cnt _ (by omega)]
  unfold State.cmdNak
  dsimp only
  rw [hfirst, hcnt]
  refine if_congr ?_ rfl rfl
  simp only [List.length_append, length_leBytes, Bool.or_eq_true, decide_eq_true_eq, or_assoc]
  exact or_iff_right (by decide)

theorem mem_nakSeqs {q : Nat} (h : first + cnt ≤ 2 ^ 32) : q ∈ nakSeqs first cnt ↔ first ≤ q ∧ q < first + cnt := by
  unfold nakSeqs
  rw [List.mem_map]
  constructor
  · rintro ⟨i, hi, rfl⟩
    have := List.mem_range.1 hi
    rw [Nat.mod_eq_of_lt (by omega)]
    omega
  · intro hq
    refine ⟨q - first, List.mem_range.2 (by omega), ?_⟩
    rw [Nat.mod_eq_of_lt (by omega)]
    omega

theorem seqSent_of_lt {q : Nat} (h : q < s.rd Reg.HOSTLINK_TXSEQ_SEQ 0) : s.seqSent q = true := by
  unfold State.seqSent
  dsimp only
  rw [decide_eq_true h, Bool.true_or]

/-- With no datagram of the greatest SEQ held, none at or beyond the next SEQ has been sent. -/
theorem seqSent_of_ge {q : Nat} (h : s.rd Reg.HOSTLINK_TXSEQ_SEQ 0 ≤ q) (hw : s.link.held.find (2 ^ 32 - 1) = none) :
    s.seqSent q = false := by
  unfold State.seqSent
  dsimp only
  rw [decide_eq_false (Nat.not_lt.2 h), hw]
  simp

/-- A NAK of datagrams that have all been sent. -/
theorem nak_all_sent (h : first + cnt ≤ s.rd Reg.HOSTLINK_TXSEQ_SEQ 0) :
    (nakSeqs first cnt).any (fun q => !s.seqSent q) = false := by
  have hn : s.rd Reg.HOSTLINK_TXSEQ_SEQ 0 < 2 ^ 32 := s.rd_lt Reg.HOSTLINK_TXSEQ_SEQ 0
  refine List.any_eq_false.2 fun q hq => ?_
  obtain ⟨_, hlt⟩ := (mem_nakSeqs (by omega)).1 hq
  rw [seqSent_of_lt s (by omega)]
  decide

/-- A NAK that reaches beyond what has been sent. -/
theorem nak_not_sent (hf : first < 2 ^ 32) (hc : 1 ≤ cnt) (h : s.rd Reg.HOSTLINK_TXSEQ_SEQ 0 < first + cnt)
    (hw : s.link.held.find (2 ^ 32 - 1) = none) : (nakSeqs first cnt).any (fun q => !s.seqSent q) = true := by
  have hn : s.rd Reg.HOSTLINK_TXSEQ_SEQ 0 < 2 ^ 32 := s.rd_lt Reg.HOSTLINK_TXSEQ_SEQ 0
  obtain ⟨q, hq, hle, hnext, hlt⟩ : ∃ q, first ≤ q ∧ q < first + cnt ∧ s.rd Reg.HOSTLINK_TXSEQ_SEQ 0 ≤ q ∧ q < 2 ^ 32 := by
    by_cases hfirst : first ≤ s.rd Reg.HOSTLINK_TXSEQ_SEQ 0
    · exact ⟨_, hfirst, h, Nat.le_refl _, hn⟩
    · exact ⟨first, Nat.le_refl _, by omega, by omega, hf⟩
  refine List.any_eq_true.2 ⟨q, List.mem_map.2 ⟨q - first, List.mem_range.2 (by omega), ?_⟩, ?_⟩
  · rw [Nat.add_sub_cancel' hq, Nat.mod_eq_of_lt hlt]
  · rw [seqSent_of_ge s hnext hw]
    rfl

theorem length_filterMap_of_all {α β : Type} {f : α → Option β} {l : List α} (h : ∀ a ∈ l, (f a).isSome = true) :
    (l.filterMap f).length = l.length := by
  induction l with
  | nil => rfl
  | cons a l ih =>
    obtain ⟨b, hb⟩ := Option.isSome_iff_exists.1 (h a List.mem_cons_self)
    rw [List.filterMap_cons_some hb, List.length_cons, List.length_cons, ih fun x hx => h x (List.mem_cons_of_mem a hx)]

theorem nakLost_of_held (hb : first + cnt ≤ 2 ^ 32) (h : ∀ q, first ≤ q → q < first + cnt → (s.link.held.find q).isSome = true) :
    s.nakLost first cnt = [] := by
  refine List.filter_eq_nil_iff.2 fun q hq => ?_
  obtain ⟨hle, hlt⟩ := (mem_nakSeqs hb).1 hq
  rw [Option.isNone_iff_eq_none]
  intro hnone
  have := h q hle hlt
  rw [hnone] at this
  exact absurd this (by decide)

theorem nakHeld_length (hb : first + cnt ≤ 2 ^ 32)
    (h : ∀ q, first ≤ q → q < first + cnt → (s.link.held.find q).isSome = true) : (s.nakHeld first cnt).length = cnt := by
  refine (length_filterMap_of_all fun q hq => ?_).trans (by rw [nakSeqs, List.length_map, List.length_range])
  obtain ⟨hle, hlt⟩ := (mem_nakSeqs hb).1 hq
  exact h q hle hlt

theorem nakLost_of_gone (hb : first + cnt ≤ 2 ^ 32) (h : ∀ q, first ≤ q → q < first + cnt → s.link.held.find q = none) :
    s.nakLost first cnt = nakSeqs first cnt ∧ s.nakHeld first cnt = [] := by
  have gone (q : Nat) (hq : q ∈ nakSeqs first cnt) : s.link.held.find q = none := by
    obtain ⟨hle, hlt⟩ := (mem_nakSeqs hb).1 hq
    exact h q hle hlt
  refine ⟨List.filter_eq_self.2 fun q hq => ?_, List.filterMap_eq_nil_iff.2 gone⟩
  rw [gone q hq]
  rfl

theorem nakSeqs_head (hf : first < 2 ^ 32) (hc : 1 ≤ cnt) : nth (nakSeqs first cnt) 0 0 = first := by
  obtain ⟨m, rfl⟩ : ∃ m, cnt = m + 1 := ⟨cnt - 1, by omega⟩
  unfold nakSeqs
  rw [List.range_succ_eq_map, List.map_cons]
  exact (congrArg (· % 2 ^ 32) (Nat.add_zero first)).trans (Nat.mod_eq_of_lt hf)

/-- NAK sends again what is held and names what is gone. -/
theorem command_nak (src : Source) (n : Nat) (hf : first < 2 ^ 32) (hc : cnt < 2 ^ 16) :
    let p := leBytes 4 first ++ leBytes 2 cnt ++ leBytes 2 0
    let next := s.rd Reg.HOSTLINK_TXSEQ_SEQ 0
    (cnt = 0 ∨ 256 < cnt ∨ (next < first + cnt ∧ s.link.held.find (2 ^ 32 - 1) = none) → s.command src n 0x45 p = (respCode 6 0x45 [], s))
    ∧ (1 ≤ cnt → cnt ≤ 256 → first + cnt ≤ next → (∀ q, first ≤ q → q < first + cnt → (s.link.held.find q).isSome) →
        ∃ u, s.command src n 0x45 p = (respCode 0 0x45 [], u) ∧ u.regs = s.regs ∧ u.link.retx.length = s.link.retx.length + cnt
          ∧ ∀ q d, first ≤ q → q < first + cnt → s.link.held.find q = some d → { d with flags := d.flags ||| 8 } ∈ u.link.retx)
    ∧ (1 ≤ cnt → cnt ≤ 256 → first + cnt ≤ next → (∀ q, first ≤ q → q < first + cnt → s.link.held.find q = none) →
        ∃ u, s.command src n 0x45 p = (respCode 8 0x45 (leBytes 4 first ++ leBytes 2 cnt), u) ∧ u.link = s.link
          ∧ u.rd Reg.HOSTLINK_GONE_N 0 = Min.min (s.rd Reg.HOSTLINK_GONE_N 0 + cnt) (2 ^ 32 - 1)) := by
  have hn : s.rd Reg.HOSTLINK_TXSEQ_SEQ 0 < 2 ^ 32 := s.rd_lt Reg.HOSTLINK_TXSEQ_SEQ 0
  dsimp only
  rw [show s.command src n 0x45 (leBytes 4 first ++ leBytes 2 cnt ++ leBytes 2 0) = _ from cmdNak_eq s hf hc]
  refine ⟨fun h => if_pos ?_, fun h1 h2 h3 h => ?_, fun h1 h2 h3 h => ?_⟩
  · rcases h with h | h | ⟨h, hw⟩
    · exact .inl h
    · exact .inr (.inl h)
    · by_cases hc0 : cnt = 0
      · exact .inl hc0
      · exact .inr (.inr (nak_not_sent s hf (by omega) h hw))
  · rw [if_neg (by rw [nak_all_sent s h3]; simp only [Bool.false_eq_true, or_false]; omega), if_pos (nakLost_of_held s (by omega) h)]
    refine ⟨_, rfl, rfl, ?_, fun q d hle hlt hd => ?_⟩
    · change (s.link.retx ++ _).length = _
      rw [List.length_append, List.length_map, nakHeld_length s (by omega) h]
    · refine List.mem_append_right _ (List.mem_map.2 ⟨d, List.mem_filterMap.2 ⟨q, ?_, hd⟩, rfl⟩)
      exact (mem_nakSeqs (by omega)).2 ⟨hle, hlt⟩
  · obtain ⟨hlost, hheld⟩ := nakLost_of_gone s (by omega) h
    have hlen : (nakSeqs first cnt).length = cnt := by rw [nakSeqs, List.length_map, List.length_range]
    have hne : nakSeqs first cnt ≠ [] := fun hnil => by rw [hnil] at hlen; exact absurd hlen.symm (by change cnt ≠ 0; omega)
    rw [if_neg (by rw [nak_all_sent s h3]; simp only [Bool.false_eq_true, or_false]; omega), hlost, hheld, if_neg hne, hlen,
      nakSeqs_head hf h1]
    refine ⟨_, rfl, ?_, ?_⟩
    · rw [State.bump_link]
      unfold State.resend
      dsimp only
      rw [List.map_nil, List.append_nil]
    · exact State.rd_bump_same _ Reg.HOSTLINK_GONE_N 0 cnt (by decide)

end

/-! ### WAKE (R400) and ACK_DIVERGED (R386) -/

theorem cmdWake_watch {s : State} (hm : s.mode = 7) (hw : s.boot.waking = false) (ho : s.overruled 14 = false) :
    s.cmdWake = ({ s with boot := { s.boot with waking := true } }).wr Reg.BOOT_STAT_WCAUSE 0 2 := by
  unfold State.cmdWake
  rw [if_neg (by rw [ho]; decide), if_pos hm]
  unfold State.wakeBy
  rw [if_neg (by rw [hm]; decide), if_pos (by rw [hw]; rfl)]

theorem cmdWake_elsewhere {s : State} (h6 : s.mode ≠ 6) (h7 : s.mode ≠ 7) (h8 : s.mode ≠ 8) : s.cmdWake = s := by
  unfold State.cmdWake
  have hno : ¬ ((decide (s.mode = 6) || decide (s.mode = 8)) && s.on Reg.BOOT_STAT_WATCH_PEND 0) = true := by simp [h6, h8]
  rw [if_neg h7, if_neg hno, ite_self]

theorem cmdAckDiverged_eq (s : State) {g : Nat} (hg : g < 2 ^ 32) : s.cmdAckDiverged (leBytes 4 g ++ leBytes 4 0)
    = if s.on Reg.BOOT_STAT_DIVERGED 0 = true ∧ s.rd Reg.BOOT_GEN_GEN 0 = g then
        (respCode okCode 0x48 [], s.put Reg.BOOT_STAT_DIV_ACK 0 true) else (respCode badMsg 0x48 [], s) := by
  unfold State.cmdAckDiverged
  rw [field_leBytes 4 g _ (by omega)]
  refine if_congr ?_ rfl rfl
  simp only [List.length_append, length_leBytes, Bool.and_eq_true, decide_eq_true_eq]
  exact ⟨fun ⟨⟨_, hd⟩, he⟩ => ⟨hd, he.symm⟩, fun ⟨hd, he⟩ => ⟨⟨trivial, hd⟩, he.symm⟩⟩

theorem put_but_regs (s : State) (f : Field) (i : Nat) (b : Bool) : { s.put f i b with regs := s.regs } = s := by
  simp only [State.put, State.wr, State.setReg]

/-! ### LOGREQ (R437) -/

section
variable {k cnt first : Nat} (s : State)

theorem logDump_eq (hk : k < 2 ^ 8) (hc : cnt < 2 ^ 16) (hf : first < 2 ^ 32) :
    let p := leBytes 1 k ++ leBytes 1 0 ++ leBytes 2 cnt ++ leBytes 4 first
    (4 < k ∨ cnt = 0 ∨ 4096 < cnt → s.logDump p = (none, s))
    ∧ (k = 0 → 1 ≤ cnt → cnt ≤ 4096 → let rs := wantedRecs s.log.ring cnt first
        s.logDump p = (some (leBytes 2 1 ++ leBytes 1 0 ++ leBytes 1 1 ++ leBytes 2 rs.length
          ++ leBytes 2 (if rs.length < cnt then 1 else 0) ++ leBytes 32 0 ++ rs.flatMap LogRec.bytes), s)) := by
  dsimp only
  generalize hp : leBytes 1 k ++ leBytes 1 0 ++ leBytes 2 cnt ++ leBytes 4 first = p
  have hlen : p.length = 8 := by rw [← hp]; simp only [List.length_append, length_leBytes]
  have hsrc : leNat (p.take 1) = k := by
    have := field_leBytes 1 k (leBytes 1 0 ++ (leBytes 2 cnt ++ leBytes 4 first)) (by omega)
    rwa [← List.append_assoc, ← List.append_assoc, hp, field, List.drop_zero] at this
  have hcnt : leNat ((p.drop 2).take 2) = cnt := by
    have := field_append (a := leBytes 1 k ++ leBytes 1 0) (k := 2) (o := 2) (leBytes 2 cnt ++ leBytes 4 first) 2
      (by simp only [List.length_append, length_leBytes]) (Nat.le_refl 2)
    rwa [field_leBytes 2 cnt _ (by omega), ← List.append_assoc, hp, field] at this
  have hfirst : leNat ((p.drop 4).take 4) = first := by
    have := field_append (a := leBytes 1 k ++ leBytes 1 0 ++ leBytes 2 cnt) (k := 4) (o := 4) (leBytes 4 first ++ []) 4
      (by simp only [List.length_append, length_leBytes]) (Nat.le_refl 4)
    rwa [field_leBytes 4 first _ (by omega), List.append_nil, hp, field] at this
  unfold State.logDump
  dsimp only
  rw [hsrc, hcnt, hfirst, hlen]
  constructor
  · intro h
    rw [if_pos (by simpa [or_assoc] using h)]
  · intro h0 h1 h2
    rw [if_neg (by simp [h0]; omega), if_pos h0, h0]

/-- With nothing queued there is no earlier dump. -/
theorem dropDump_of_nil (h : s.link.txq = []) : s.dropDump = s := by
  unfold State.dropDump
  dsimp only
  rw [h, List.filter_nil, List.filter_nil]
  change ({ s with link := { s.link with txq := [] } } : State) = s
  rw [← h]

end

/-! ### The statement -/

theorem command_reserved (src : Source) (n ty : Nat) (p : List Byte) (s : State)
    (h : ∀ k, 0x41 ≤ k → k ≤ 0x4A → k ≠ 0x44 → ty ≠ k) : s.command src n ty p = (respCode 6 ty [], s) := by
  have apart (k : Nat) (hk : 0x41 ≤ k ∧ k ≤ 0x4A ∧ k ≠ 0x44) : ty ≠ k := h k hk.1 hk.2.1 hk.2.2
  unfold State.command
  split
  case h_10 => rfl
  all_goals exact absurd rfl (apart _ (by decide))

/-- Settles O45: the malformed ones and each command by its own lemma. -/
theorem commandEffects : Obligations.CommandEffects := by
  refine ⟨fun src n p s hp ty hty => ?_, command_reserved, fun s => ⟨fun hm hw ho => ?_, cmdWake_elsewhere⟩,
    fun src n a cnt mode r ws s ha hc hm _ => command_burst src n s ha hc hm,
    fun src n first cnt s hf hc => command_nak s src n hf hc, fun src n g s hg => ⟨fun hd hgen => ?_, fun h => ?_⟩,
    fun src n k cnt first s hk hc hf => ⟨fun h => ?_, fun h0 h1 h2 htxq => ?_⟩⟩
  · have hne : (if p = [] then okCode else badMsg) = 6 := if_neg hp
    rcases List.mem_cons.1 hty with rfl | hty
    · exact ⟨rfl, by rw [← hne]; rfl⟩
    · rcases List.mem_cons.1 hty with rfl | hty
      · exact ⟨rfl, if_neg hp⟩
      · rcases List.mem_singleton.1 hty with rfl
        exact ⟨rfl, by rw [← hne]; rfl⟩
  · rw [cmdWake_watch hm hw ho]
    exact ⟨by rw [State.wr_boot], State.rd_wr_same _ Reg.BOOT_STAT_WCAUSE 0 2 (by decide)⟩
  · exact ⟨_, (cmdAckDiverged_eq s hg).trans (if_pos ⟨hd, hgen⟩), s.on_put_same Reg.BOOT_STAT_DIV_ACK 0 true (by decide),
      fun a ha => s.reg_put_other Reg.BOOT_STAT_DIV_ACK 0 true ha, put_but_regs s _ _ _⟩
  · refine (cmdAckDiverged_eq s hg).trans (if_neg fun ⟨hd, hgen⟩ => ?_)
    rcases h with h | h
    · rw [h] at hd
      exact absurd hd (by decide)
    · exact h hgen
  · change s.cmdLogreq _ = _
    unfold State.cmdLogreq
    rw [(logDump_eq s hk hc hf).1 h]
    rfl
  · have hdump := (logDump_eq s hk hc hf).2 h0 h1 h2
    dsimp only at hdump ⊢
    refine ⟨s.queueMsg ⟨8, leBytes 2 1 ++ leBytes 1 0 ++ leBytes 1 1 ++ leBytes 2 (wantedRecs s.log.ring cnt first).length
      ++ leBytes 2 (if (wantedRecs s.log.ring cnt first).length < cnt then 1 else 0) ++ leBytes 32 0
      ++ (wantedRecs s.log.ring cnt first).flatMap LogRec.bytes⟩, ?_, rfl, ?_⟩
    · change s.cmdLogreq _ = _
      unfold State.cmdLogreq
      rw [hdump]
      dsimp only
      rw [dropDump_of_nil s htxq]
      rfl
    · change s.link.txq ++ _ = _
      rw [htxq]
      rfl

end Sys2Proof.Machine
end
-- ==== Sys2Proof/Proofs/SingleFields.lean ====
section
/-! Which fields of single registers an operation may change: a relation of the state before and after, closed under what operations are made of. -/

namespace Sys2Proof.Machine

/-- Two fields of single registers share no bit of one register. -/
def Field.clear (f g : Field) : Bool := f.apart g || decide (g.addr 0 ≠ f.addr 0)

/-- Outside the log line, `t` reads as `s` in every field clear of those in `fs`. -/
def State.Fields (fs : List Field) (s t : State) : Prop :=
  ∀ g : Field, (fs.all fun f => f.clear g) = true → outsideLog (g.addr 0) → t.rd g 0 = s.rd g 0

section
variable {fs : List Field} {s t u : State}

theorem State.Fields.refl (fs : List Field) (s : State) : s.Fields fs s := fun _ _ _ => rfl

theorem State.Fields.trans (h : s.Fields fs t) (k : t.Fields fs u) : s.Fields fs u :=
  fun g hg hl => (k g hg hl).trans (h g hg hl)

theorem State.Fields.of_regs (h : t.regs = s.regs) : s.Fields fs t := fun g _ _ => State.rd_of_regs h g 0

theorem State.Fields.logged (h : s.Logged t) : s.Fields fs t := fun _ _ hl => State.rd_of_reg (h.reg hl)

theorem State.Fields.wr (s : State) (f : Field) (v : Nat) (hf : f.fits = true) (hm : f ∈ fs) : s.Fields fs (s.wr f 0 v) := by
  intro g hg _
  rcases Bool.or_eq_true .. |>.mp (List.all_eq_true.1 hg f hm) with h | h
  · exact s.rd_wr_apart f g 0 0 v hf h
  · exact s.rd_wr_addr f g 0 0 v (of_decide_eq_true h)

theorem State.Fields.put (s : State) (f : Field) (b : Bool) (hf : f.fits = true) (hm : f ∈ fs) : s.Fields fs (s.put f 0 b) :=
  State.Fields.wr s f _ hf hm

theorem State.Fields.rd (h : s.Fields fs t) (g : Field) (hg : (fs.all fun f => f.clear g) = true) (hl : outsideLog (g.addr 0)) :
    t.rd g 0 = s.rd g 0 := h g hg hl

theorem State.Fields.on (h : s.Fields fs t) (g : Field) (hg : (fs.all fun f => f.clear g) = true) (hl : outsideLog (g.addr 0)) :
    t.on g 0 = s.on g 0 := State.on_of_rd (h g hg hl)

/-- A register none of the fields lies in is unchanged. -/
theorem State.Fields.reg (h : s.Fields fs t) {a : Nat} (ha : ∀ f ∈ fs, a ≠ f.addr 0) (hl : outsideLog a) : t.reg a = s.reg a := by
  have hw := h ⟨a, 0, 31, 0⟩ (List.all_eq_true.2 fun f hf => by
    rw [Field.clear, decide_eq_true (show (⟨a, 0, 31, 0⟩ : Field).addr 0 ≠ f.addr 0 from ha f hf), Bool.or_true]) hl
  have read (w : Word) : (⟨a, 0, 31, 0⟩ : Field).read w = w.toNat := by
    unfold Field.read Field.span
    rw [Nat.pow_zero, Nat.div_one]
    exact Nat.mod_eq_of_lt w.isLt
  refine BitVec.eq_of_toNat_eq ?_
  rw [← read (t.reg a), ← read (s.reg a)]
  exact hw

end

end Sys2Proof.Machine
end
-- ==== Sys2Proof/Proofs/LanyardTime.lean ====
section
/-! Lanyard time: its start at the head, edges of LY_PPS, loss and return of LY_REF, exchanges, holdover (R365 to R372). -/

namespace Sys2Proof.Machine

/-! ### Flags of LANYARD_STAT and their records -/

/-- `t` is `s` but for fields `fs` and the log. -/
structure State.LanyStep (fs : List Field) (s t : State) : Prop where
  fields : s.Fields fs t
  lany : t.lany = s.lany
  safety : t.safety = s.safety
  hawser : t.hawser = s.hawser

section
variable {fs : List Field} {s t u : State}

theorem State.LanyStep.refl (fs : List Field) (s : State) : s.LanyStep fs s := ⟨.refl fs s, rfl, rfl, rfl⟩

theorem State.LanyStep.trans (h : s.LanyStep fs t) (k : t.LanyStep fs u) : s.LanyStep fs u :=
  ⟨h.fields.trans k.fields, k.lany.trans h.lany, k.safety.trans h.safety, k.hawser.trans h.hawser⟩

theorem State.LanyStep.wr (s : State) (f : Field) (v : Nat) (hf : f.fits = true) (hm : f ∈ fs) : s.LanyStep fs (s.wr f 0 v) :=
  ⟨.wr s f v hf hm, rfl, rfl, rfl⟩

theorem State.LanyStep.put (s : State) (f : Field) (b : Bool) (hf : f.fits = true) (hm : f ∈ fs) : s.LanyStep fs (s.put f 0 b) :=
  ⟨.put s f b hf hm, rfl, rfl, rfl⟩

theorem State.LanyStep.raise (s : State) (f : Field) (hf : f.fits = true) (hm : f ∈ fs) : s.LanyStep fs (s.raise f 0) :=
  ⟨.put s f true hf hm, rfl, rfl, rfl⟩

theorem State.LanyStep.logged (h : s.Logged t) : s.LanyStep fs t := by
  refine ⟨.logged h, ?_, ?_, ?_⟩ <;> obtain ⟨_, _, _, _, _, rfl, _⟩ := h <;> rfl

theorem State.logged_lanyardLog (s : State) (b : Bool) : s.Logged (s.lanyardLog b) := State.logged_log_ ..

/-- A flag of LANYARD_STAT takes its value, and nothing else changes but the log. -/
theorem State.lanyardFlag_step (s : State) {f : Field} (b : Bool) (hf : f.fits = true) (ha : f.addr 0 = 0x1004) :
    (s.lanyardFlag f b).on f 0 = b ∧ s.LanyStep [f] (s.lanyardFlag f b) := by
  unfold State.lanyardFlag
  by_cases h : s.on f 0 = b
  · rw [if_pos h]
    exact ⟨h, .refl _ s⟩
  · rw [if_neg h]
    have hlog := (s.put f 0 b).logged_lanyardLog b
    exact ⟨(State.on_of_reg (hlog.reg (ha ▸ .inl (by decide)))).trans (s.on_put_same f 0 b hf),
      (State.LanyStep.put s f b hf (List.mem_singleton_self f)).trans (.logged hlog)⟩

theorem State.LanyStep.on (h : s.LanyStep fs t) (g : Field) (hg : (fs.all fun f => f.clear g) = true) (hl : outsideLog (g.addr 0)) :
    t.on g 0 = s.on g 0 := h.fields.on g hg hl

end

theorem State.isHead_of_ctrl {s t : State} (h : t.reg (Reg.HAWSER_CTRL_HEAD.addr 0) = s.reg (Reg.HAWSER_CTRL_HEAD.addr 0)) :
    t.isHead = s.isHead := by
  unfold State.isHead
  rw [State.on_of_reg (f := Reg.HAWSER_CTRL_HEAD) (i := 0) h, State.on_of_reg (f := Reg.HAWSER_CTRL_EN) (i := 0) h]

/-! ### At the head (R365, R366) -/

theorem State.startLanyard_starts (s : State) : let t := s.startLanyard
    t.lany = 0 ∧ t.on Reg.LANYARD_STAT_RUNNING 0 = true ∧ t.on Reg.LANYARD_STAT_LOCKED 0 = true
      ∧ t.on Reg.LANYARD_STAT_REF_LOCK 0 = s.on Reg.LANYARD_STAT_REF_LOCK 0 := by
  unfold State.startLanyard
  generalize hu : ({ s with lany := 0 } : State).put Reg.LANYARD_STAT_RUNNING 0 true = u
  have hlany : u.lany = 0 := by rw [← hu, State.put_lany]
  have hrun : u.on Reg.LANYARD_STAT_RUNNING 0 = true := hu ▸ State.on_put_same _ Reg.LANYARD_STAT_RUNNING 0 true (by decide)
  have href : u.on Reg.LANYARD_STAT_REF_LOCK 0 = s.on Reg.LANYARD_STAT_REF_LOCK 0 :=
    hu ▸ State.on_put_apart _ Reg.LANYARD_STAT_RUNNING Reg.LANYARD_STAT_REF_LOCK 0 0 true (by decide) (by decide)
  obtain ⟨hon, hstep⟩ := u.lanyardFlag_step (f := Reg.LANYARD_STAT_LOCKED) true (by decide) rfl
  exact ⟨hstep.lany.trans hlany, (hstep.on Reg.LANYARD_STAT_RUNNING (by decide) (by decide)).trans hrun, hon,
    (hstep.on Reg.LANYARD_STAT_REF_LOCK (by decide) (by decide)).trans href⟩

/-- The clock locks to the reference: what runs is locked, and what does not starts unless an edge of LY_PPS starts it. -/
theorem State.refLocked_step (s : State) : let t := s.refLocked
    t.on Reg.LANYARD_STAT_REF_LOCK 0 = true
      ∧ (s.on Reg.LANYARD_STAT_RUNNING 0 = true → t.lany = s.lany ∧ t.on Reg.LANYARD_STAT_LOCKED 0 = true ∧ t.safety = s.safety)
      ∧ (s.on Reg.LANYARD_STAT_RUNNING 0 = false → s.on Reg.LANYARD_CTRL_PPSSTART 0 = false →
          t.lany = 0 ∧ t.on Reg.LANYARD_STAT_RUNNING 0 = true ∧ t.on Reg.LANYARD_STAT_LOCKED 0 = true)
      ∧ (s.on Reg.LANYARD_STAT_RUNNING 0 = false → s.on Reg.LANYARD_CTRL_PPSSTART 0 = true →
          t.lany = s.lany ∧ t.on Reg.LANYARD_STAT_RUNNING 0 = false) := by
  unfold State.refLocked
  dsimp only
  generalize hu : s.put Reg.LANYARD_STAT_REF_LOCK 0 true = u
  have hstep : s.LanyStep [Reg.LANYARD_STAT_REF_LOCK] u := hu ▸ .put s _ true (by decide) (List.mem_singleton_self _)
  have href : u.on Reg.LANYARD_STAT_REF_LOCK 0 = true := hu ▸ s.on_put_same Reg.LANYARD_STAT_REF_LOCK 0 true (by decide)
  have hrun := hstep.on Reg.LANYARD_STAT_RUNNING (by decide) (by decide)
  have hpps := hstep.on Reg.LANYARD_CTRL_PPSSTART (by decide) (by decide)
  rw [← hrun, ← hpps]
  cases hr : u.on Reg.LANYARD_STAT_RUNNING 0 with
  | true =>
    rw [if_pos rfl]
    obtain ⟨hon, hflag⟩ := u.lanyardFlag_step (f := Reg.LANYARD_STAT_LOCKED) true (by decide) rfl
    exact ⟨(hflag.on Reg.LANYARD_STAT_REF_LOCK (by decide) (by decide)).trans href,
      fun _ => ⟨hflag.lany.trans hstep.lany, hon, hflag.safety.trans hstep.safety⟩,
      fun h => absurd h (by decide), fun h => absurd h (by decide)⟩
  | false =>
    rw [if_neg (by decide)]
    cases hp : u.on Reg.LANYARD_CTRL_PPSSTART 0 with
    | true =>
      rw [if_pos rfl]
      exact ⟨href, fun h => absurd h (by decide), fun _ h => absurd h (by decide), fun _ _ => ⟨hstep.lany, hr⟩⟩
    | false =>
      rw [if_neg (by decide)]
      obtain ⟨hl, hru, hlo, hre⟩ := u.startLanyard_starts
      exact ⟨hre.trans href, fun h => absurd h (by decide), fun _ _ => ⟨hl, hru, hlo⟩, fun _ h => absurd h (by decide)⟩

theorem State.refLocked_safety (s : State) : s.refLocked.safety = s.safety := by
  unfold State.refLocked
  dsimp only
  rw [apply_ite State.safety, apply_ite State.safety]
  unfold State.startLanyard
  rw [((s.put Reg.LANYARD_STAT_REF_LOCK 0 true).lanyardFlag_step (f := Reg.LANYARD_STAT_LOCKED) true (by decide) rfl).2.safety,
    (State.lanyardFlag_step _ (f := Reg.LANYARD_STAT_LOCKED) true (by decide) rfl).2.safety]
  simp only [State.put_safety, ite_self]

theorem lyRefLoss_head {s : State} (hm : 3 ≤ s.mode) (hh : s.isHead = true) (hl : s.on Reg.LANYARD_CTRL_LOCALREF 0 = false) :
    ∃ t, exec .lyRefLoss s = .next t ∧ t.on Reg.LANYARD_STAT_REF_LOCK 0 = false ∧ t.on Reg.LANYARD_STAT_LOCKED 0 = false ∧ t.lany = s.lany
        ∧ t.on Reg.LANYARD_STAT_RUNNING 0 = s.on Reg.LANYARD_STAT_RUNNING 0 ∧ t.on Reg.LANYARD_STAT_LOST 0 = s.on Reg.LANYARD_STAT_LOST 0
        ∧ (s.mode ≠ 3 → t.safety.due = s.safety.due ++ [(1, s.lany)]) := by
  have hneeds : s.needsRef = true := by rw [State.needsRef, hh, hl]; rfl
  have hex : exec .lyRefLoss s = .next (
      let r := ({ s with safety := { s.safety with refBad := true } } : State)
      let u := (r.put Reg.LANYARD_STAT_REF_LOCK 0 false).lanyardFlag Reg.LANYARD_STAT_LOCKED false
      if u.mode = 3 then u else u.source 1) := by
    have h3 : ¬ s.mode < 3 := by omega
    rw [exec_lyRefLoss, execLyRefLoss, if_neg h3]
    dsimp only
    refine congrArg Host.Outcome.next (if_neg ?_)
    change ¬ (decide (s.mode < 3) || !s.needsRef) = true
    rw [hneeds, decide_eq_false (by omega)]
    decide
  refine ⟨_, hex, ?_⟩
  dsimp only
  generalize hr : ({ s with safety := { s.safety with refBad := true } } : State) = r
  have hregs : r.regs = s.regs := by rw [← hr]
  have hlany : r.lany = s.lany := by rw [← hr]
  have hdue : r.safety.due = s.safety.due := by rw [← hr]
  generalize hp : r.put Reg.LANYARD_STAT_REF_LOCK 0 false = p
  have hp1 : r.LanyStep [Reg.LANYARD_STAT_REF_LOCK] p := hp ▸ .put r _ false (by decide) (List.mem_singleton_self _)
  have href : p.on Reg.LANYARD_STAT_REF_LOCK 0 = false := hp ▸ r.on_put_same Reg.LANYARD_STAT_REF_LOCK 0 false (by decide)
  obtain ⟨hlocked, hflag⟩ := p.lanyardFlag_step (f := Reg.LANYARD_STAT_LOCKED) false (by decide) rfl
  generalize p.lanyardFlag Reg.LANYARD_STAT_LOCKED false = u at hlocked hflag ⊢
  have hmode : u.mode = s.mode := (hflag.fields.rd Reg.BOOT_STATE_STATE (by decide) (by decide)).trans
    ((hp1.fields.rd Reg.BOOT_STATE_STATE (by decide) (by decide)).trans (State.rd_of_regs hregs _ _))
  have hstay (g : Field) (h1 : Reg.LANYARD_STAT_REF_LOCK.clear g = true) (h2 : Reg.LANYARD_STAT_LOCKED.clear g = true)
      (hl : outsideLog (g.addr 0)) : u.on g 0 = s.on g 0 :=
    (hflag.on g (by simpa using h2) hl).trans ((hp1.on g (by simpa using h1) hl).trans (State.on_of_rd (State.rd_of_regs hregs _ _)))
  have hulany : u.lany = s.lany := hflag.lany.trans (hp1.lany.trans hlany)
  have hudue : u.safety.due = s.safety.due := by rw [hflag.safety, hp1.safety, hdue]
  have href' := (hflag.on Reg.LANYARD_STAT_REF_LOCK (by decide) (by decide)).trans href
  have hrun := hstay Reg.LANYARD_STAT_RUNNING (by decide) (by decide) (by decide)
  have hlost := hstay Reg.LANYARD_STAT_LOST (by decide) (by decide) (by decide)
  by_cases h3 : u.mode = 3
  · rw [if_pos h3]
    exact ⟨href', hlocked, hulany, hrun, hlost, fun h => absurd (hmode.symm.trans h3) h⟩
  · rw [if_neg h3]
    refine ⟨href', hlocked, hulany, hrun, hlost, fun _ => ?_⟩
    change u.safety.due ++ [(1, u.lany)] = _
    rw [hudue, hulany]

theorem lyRefReturn_head {s : State} (hm : 3 ≤ s.mode) (hh : s.isHead = true) (hl : s.on Reg.LANYARD_CTRL_LOCALREF 0 = false) :
    ∃ t, exec .lyRefReturn s = .next t ∧ t.safety.refBad = false ∧ t.on Reg.LANYARD_STAT_REF_LOCK 0 = true
        ∧ (s.on Reg.LANYARD_STAT_RUNNING 0 = true → t.lany = s.lany ∧ t.on Reg.LANYARD_STAT_LOCKED 0 = true) := by
  have hneeds : s.needsRef = true := by rw [State.needsRef, hh, hl]; rfl
  have hex : exec .lyRefReturn s = .next ({ s with safety := { s.safety with refBad := false } } : State).refLocked := by
    rw [exec_lyRefReturn, execLyRefReturn]
    dsimp only
    refine congrArg Host.Outcome.next (if_neg ?_)
    change ¬ (decide (s.mode < 3) || !s.needsRef) = true
    rw [hneeds, decide_eq_false (by omega)]
    decide
  obtain ⟨href, hrun, _, _⟩ := ({ s with safety := { s.safety with refBad := false } } : State).refLocked_step
  exact ⟨_, hex, by rw [State.refLocked_safety], href, fun h => ⟨(hrun h).1, (hrun h).2.1⟩⟩

/-! ### Exchanges (R368, R369, R372) -/

/-- LANYARD_LOST: LOST is set and LOCKED clears. -/
theorem State.lanyardLost_step (s : State) : let t := s.lanyardLost
    t.on Reg.LANYARD_STAT_LOST 0 = true ∧ t.on Reg.LANYARD_STAT_LOCKED 0 = false ∧ t.lany = s.lany
      ∧ s.Fields [Reg.LANYARD_STAT_LOST, Reg.LANYARD_STAT_LOCKED] t := by
  unfold State.lanyardLost
  dsimp only
  generalize hv : (if s.on Reg.LANYARD_STAT_LOST 0 = true then s.raise Reg.LANYARD_STAT_LOST 0
    else (s.raise Reg.LANYARD_STAT_LOST 0).lanyardLog true) = v
  have hraise := State.LanyStep.raise s (fs := [Reg.LANYARD_STAT_LOST]) Reg.LANYARD_STAT_LOST (by decide) (List.mem_singleton_self _)
  have hset := s.on_put_same Reg.LANYARD_STAT_LOST 0 true (by decide)
  have hv' : v.on Reg.LANYARD_STAT_LOST 0 = true ∧ s.LanyStep [Reg.LANYARD_STAT_LOST] v := by
    rw [← hv]
    split
    · exact ⟨hset, hraise⟩
    · have hlog := (s.raise Reg.LANYARD_STAT_LOST 0).logged_lanyardLog true
      exact ⟨(State.on_of_reg (hlog.reg (by decide))).trans hset, hraise.trans (.logged hlog)⟩
  obtain ⟨hlost, hstep⟩ := hv'
  obtain ⟨hoff, hflag⟩ := v.lanyardFlag_step (f := Reg.LANYARD_STAT_LOCKED) false (by decide) rfl
  generalize v.lanyardFlag Reg.LANYARD_STAT_LOCKED false = w at hoff hflag ⊢
  have hfields : s.Fields [Reg.LANYARD_STAT_LOST, Reg.LANYARD_STAT_LOCKED] w := fun g hg hl => by
    obtain ⟨h1, h2⟩ := Bool.and_eq_true_iff.1 hg
    exact (hflag.fields g h2 hl).trans (hstep.fields g (Bool.and_eq_true_iff.2 ⟨h1, rfl⟩) hl)
  have hlost' : w.on Reg.LANYARD_STAT_LOST 0 = true := (hflag.on Reg.LANYARD_STAT_LOST (by decide) (by decide)).trans hlost
  have hlany : w.lany = s.lany := hflag.lany.trans hstep.lany
  split
  · exact ⟨hlost', hoff, hlany, hfields⟩
  · exact ⟨hlost', hoff, hlany, hfields⟩

theorem State.timingPort_only {s : State} {p : HwPort} {h : Nat} (hp : s.nbHops p = some h) (ho : s.nbHops (otherPort p) = none) :
    s.timingPort = some p := by
  unfold State.timingPort
  cases p <;> simp only [otherPort] at ho <;> rw [hp, ho]

/-- The code of a timing port in TPORT. -/
def portCode (p : HwPort) : Nat :=
  match p with
  | .a => 2
  | .b => 1

/-- With one port up and its neighbour's count known, that port is the timing port. -/
theorem State.retime_only {s : State} {p : HwPort} {h : Nat} (hh : s.isHead = false) (hp : s.nbHops p = some h)
    (ho : s.nbHops (otherPort p) = none) :
    s.retime = ((s.wr Reg.LANYARD_STAT_TPORT 0 (portCode p)).wr Reg.LANYARD_HOPS_N 0 (h + 1)).lanyardFlag Reg.LANYARD_STAT_HOLDOVER false := by
  have ht := State.timingPort_only hp ho
  have stay (f : Field) (v : Nat) (hf : f.addr 0 = 0x1004 ∨ f.addr 0 = 0x1024) (q : HwPort) : (s.wr f 0 v).nbHops q = s.nbHops q := by
    have hup : (s.wr f 0 v).hwUp q = s.hwUp q := by
      refine State.on_of_reg (s.reg_wr_other f 0 v ?_)
      rcases hf with hf | hf <;> rw [hf] <;> cases q <;> decide
    unfold State.nbHops
    rw [hup]
    cases q <;> rfl
  unfold State.retime
  rw [if_neg (by rw [hh]; decide)]
  dsimp only
  rw [ht, stay _ _ (.inl rfl), stay _ _ (.inl rfl)]
  cases p <;> simp only [otherPort] at ho <;> rw [hp, ho] <;> simp [portCode]

theorem natAbs_over {n : Nat} {k : Int} (hk : (n : Int) = k) (v : Int) : n < v.natAbs ↔ k < |v| := hk ▸ lt_natAbs_iff n v

/-- The timing port's delay has jumped. -/
def delayJump (old : Option Int) (delay : Int) : Bool :=
  match old with
  | some d => decide (200 * 8192 < (delay - d).natAbs)
  | none => false

theorem delayJump_iff (old : Option Int) (delay : Int) :
    delayJump old delay = true ↔ ∃ d, old = some d ∧ 200 * 8192 < |delay - d| := by
  unfold delayJump
  cases old with
  | none => simp
  | some d => simp only [decide_eq_true_eq, Option.some.injEq, exists_eq_left', natAbs_over (n := 200 * 8192) (k := 200 * 8192) (by norm_num)]

/-- The registers an exchange shows. -/
def State.showExchange (delay offset : Int) (s : State) : State :=
  (s.wr Reg.LANYARD_OFFS_PS 0 (BitVec.ofInt 16 (roundDiv offset 8192)).toNat).wr Reg.LANYARD_DLY_PS 0
    (BitVec.ofInt 24 (roundDiv delay 8192)).toNat

theorem State.showExchange_shows (s : State) (delay offset : Int) : let t := s.showExchange delay offset
    t.rd Reg.LANYARD_OFFS_PS 0 = (BitVec.ofInt 16 (roundDiv offset 8192)).toNat
      ∧ t.rd Reg.LANYARD_DLY_PS 0 = (BitVec.ofInt 24 (roundDiv delay 8192)).toNat
      ∧ s.LanyStep [Reg.LANYARD_OFFS_PS, Reg.LANYARD_DLY_PS] t := by
  dsimp only
  unfold State.showExchange
  refine ⟨?_, ?_, (State.LanyStep.wr s Reg.LANYARD_OFFS_PS _ (by decide) List.mem_cons_self).trans
    (.wr _ Reg.LANYARD_DLY_PS _ (by decide) (List.mem_cons_of_mem _ (List.mem_singleton_self _)))⟩
  · rw [State.rd_wr_addr _ Reg.LANYARD_DLY_PS Reg.LANYARD_OFFS_PS 0 0 _ (by decide), State.rd_wr_same _ _ _ _ (by decide)]
    exact Nat.mod_eq_of_lt (BitVec.isLt _)
  · rw [State.rd_wr_same _ _ _ _ (by decide)]
    exact Nat.mod_eq_of_lt (BitVec.isLt _)

/-- A locked device judges the exchange. -/
def State.holdLock (delay offset : Int) (old : Option Int) (apart : Int) (s : State) : State :=
  let bad := if 30 * 8192 < offset.natAbs then s.hawser.bad + 1 else 0
  let s := { s with hawser := { s.hawser with bad := bad } }
  if 2 ≤ bad || delayJump old delay || 4096 < apart.natAbs then s.lanyardLost else s

/-- A device that is not locked steps its time, and locks at the sixteenth exchange in a row within 10 ps. -/
def State.seekLock (offset : Int) (s : State) : State :=
  let good := if offset.natAbs ≤ 10 * 8192 then s.hawser.good + 1 else 0
  let s := ({ s with lany := s.lany + BitVec.ofInt 64 (256 * roundDiv offset (5000 * 8192)) }).put Reg.LANYARD_STAT_RUNNING 0 true
  let s := { s with hawser := { s.hawser with good := good, bad := 0 } }
  if 16 ≤ good then s.lanyardFlag Reg.LANYARD_STAT_LOCKED true else s

theorem State.steer_eq (s : State) (delay offset : Int) (old : Option Int) (apart : Int) : s.steer delay offset old apart
    = if (s.showExchange delay offset).on Reg.LANYARD_STAT_LOCKED 0 = true then (s.showExchange delay offset).holdLock delay offset old apart
      else (s.showExchange delay offset).seekLock offset := by
  unfold State.steer State.holdLock State.seekLock State.showExchange delayJump
  dsimp only
  refine if_congr Iff.rfl ?_ rfl
  simp only [decide_eq_true_eq] <;> rfl

theorem State.holdLock_step {s : State} (delay offset : Int) (old : Option Int) (apart : Int) (hl : s.on Reg.LANYARD_STAT_LOCKED 0 = true) :
    let t := s.holdLock delay offset old apart
    t.lany = s.lany ∧ s.Fields [Reg.LANYARD_STAT_LOST, Reg.LANYARD_STAT_LOCKED] t
      ∧ (t.on Reg.LANYARD_STAT_LOCKED 0 = false ↔ (30 * 8192 < |offset| ∧ 1 ≤ s.hawser.bad)
          ∨ (∃ d, old = some d ∧ 200 * 8192 < |delay - d|) ∨ 4096 < |apart|)
      ∧ (t.on Reg.LANYARD_STAT_LOCKED 0 = false → t.on Reg.LANYARD_STAT_LOST 0 = true) := by
  dsimp only
  have hcond : (decide (2 ≤ if 30 * 8192 < offset.natAbs then s.hawser.bad + 1 else 0) || delayJump old delay || decide (4096 < apart.natAbs)) = true
      ↔ (30 * 8192 < |offset| ∧ 1 ≤ s.hawser.bad) ∨ (∃ d, old = some d ∧ 200 * 8192 < |delay - d|) ∨ 4096 < |apart| := by
    rw [Bool.or_eq_true, Bool.or_eq_true, decide_eq_true_eq, decide_eq_true_eq, delayJump_iff, or_assoc]
    refine or_congr ?_ (or_congr Iff.rfl (natAbs_over (by norm_num) _))
    rw [← natAbs_over (n := 30 * 8192) (by norm_num)]
    split <;> omega
  unfold State.holdLock
  dsimp only
  rw [← hcond]
  generalize (if 30 * 8192 < offset.natAbs then s.hawser.bad + 1 else 0) = bad
  generalize hr : ({ s with hawser := { s.hawser with bad := bad } } : State) = r
  have hregs : r.regs = s.regs := by rw [← hr]
  have hlany : r.lany = s.lany := by rw [← hr]
  split
  case isTrue h =>
    obtain ⟨hlost, hoff, hl', hf⟩ := r.lanyardLost_step
    exact ⟨hl'.trans hlany, (State.Fields.of_regs hregs).trans hf, ⟨fun _ => h, fun _ => hoff⟩, fun _ => hlost⟩
  case isFalse h =>
    have hon : r.on Reg.LANYARD_STAT_LOCKED 0 = true := (State.on_of_rd (State.rd_of_regs hregs _ _)).trans hl
    exact ⟨hlany, .of_regs hregs, ⟨fun hf => absurd (hon.symm.trans hf) (by decide), fun hf => absurd hf h⟩,
      fun hf => absurd (hon.symm.trans hf) (by decide)⟩

theorem State.seekLock_step {s : State} (offset : Int) (hl : s.on Reg.LANYARD_STAT_LOCKED 0 = false) : let t := s.seekLock offset
    t.lany = s.lany + BitVec.ofInt 64 (256 * roundDiv offset (5000 * 8192)) ∧ t.on Reg.LANYARD_STAT_RUNNING 0 = true
      ∧ s.Fields [Reg.LANYARD_STAT_RUNNING, Reg.LANYARD_STAT_LOCKED] t
      ∧ (t.on Reg.LANYARD_STAT_LOCKED 0 = true ↔ |offset| ≤ 10 * 8192 ∧ 15 ≤ s.hawser.good) := by
  dsimp only
  have hcond : (16 ≤ if offset.natAbs ≤ 10 * 8192 then s.hawser.good + 1 else 0) ↔ |offset| ≤ 10 * 8192 ∧ 15 ≤ s.hawser.good := by
    rw [Int.abs_eq_natAbs]
    split <;> omega
  unfold State.seekLock
  dsimp only
  rw [← hcond]
  generalize (if offset.natAbs ≤ 10 * 8192 then s.hawser.good + 1 else 0) = good
  generalize hv : ({ s with lany := s.lany + BitVec.ofInt 64 (256 * roundDiv offset (5000 * 8192)) } : State) = v
  have hvlany : v.lany = s.lany + BitVec.ofInt 64 (256 * roundDiv offset (5000 * 8192)) := by rw [← hv]
  have hvregs : v.regs = s.regs := by rw [← hv]
  have hput := State.LanyStep.put v (fs := [Reg.LANYARD_STAT_RUNNING, Reg.LANYARD_STAT_LOCKED]) Reg.LANYARD_STAT_RUNNING true (by decide)
    List.mem_cons_self
  have hrun := v.on_put_same Reg.LANYARD_STAT_RUNNING 0 true (by decide)
  have hlocked := v.on_put_apart Reg.LANYARD_STAT_RUNNING Reg.LANYARD_STAT_LOCKED 0 0 true (by decide) (by decide)
  generalize v.put Reg.LANYARD_STAT_RUNNING 0 true = p at hput hrun hlocked ⊢
  generalize hr : ({ p with hawser := _ } : State) = r
  have hregs : r.regs = p.regs := by rw [← hr]
  have hlany : r.lany = p.lany := by rw [← hr]
  have hfields : s.Fields [Reg.LANYARD_STAT_RUNNING, Reg.LANYARD_STAT_LOCKED] r :=
    ((State.Fields.of_regs hvregs).trans hput.fields).trans (.of_regs hregs)
  have hron : r.on Reg.LANYARD_STAT_RUNNING 0 = true := (State.on_of_rd (State.rd_of_regs hregs _ _)).trans hrun
  have hroff : r.on Reg.LANYARD_STAT_LOCKED 0 = false := (State.on_of_rd (State.rd_of_regs hregs _ _)).trans
    (hlocked.trans ((State.on_of_rd (State.rd_of_regs hvregs _ _)).trans hl))
  have hrlany := hlany.trans (hput.lany.trans hvlany)
  split
  case isTrue h =>
    obtain ⟨hon, hflag⟩ := r.lanyardFlag_step (f := Reg.LANYARD_STAT_LOCKED) true (by decide) rfl
    refine ⟨hflag.lany.trans hrlany, (hflag.on Reg.LANYARD_STAT_RUNNING (by decide) (by decide)).trans hron,
      hfields.trans fun g hg hl => hflag.fields g ?_ hl, ⟨fun _ => h, fun _ => hon⟩⟩
    exact Bool.and_eq_true_iff.2 ⟨(Bool.and_eq_true_iff.1 (Bool.and_eq_true_iff.1 hg).2).1, rfl⟩
  case isFalse h =>
    exact ⟨hrlany, hron, hfields, ⟨fun hf => absurd (hroff.symm.trans hf) (by decide), fun hf => absurd hf h⟩⟩

/-- An exchange at the one port that is up. -/
theorem lny_answer (p : HwPort) (t1 t2 t3 t4 : Int) (hops : Nat) (asym apart : Int) (s : State) (hup : s.hwUp p = true)
    (hdown : s.hwUp (otherPort p) = false) (hh : s.isHead = false) :
    let delay := ((t4 - t1) - (t3 - t2)) * 5000
    let offset := ((t2 - t1) - (t4 - t3)) * 5000 - (s.rdInt (asymField p) 0 - asym) * 4096
    let jump : Prop := ∃ d, (s.hw p).delay = some d ∧ 200 * 8192 < |delay - d|
    ∃ t, exec (.lny p (.answer t1 t2 t3 t4 hops asym apart)) s = .next t
      ∧ t.rd Reg.LANYARD_OFFS_PS 0 = (BitVec.ofInt 16 (roundDiv offset 8192)).toNat
      ∧ t.rd Reg.LANYARD_DLY_PS 0 = (BitVec.ofInt 24 (roundDiv delay 8192)).toNat
      ∧ t.rd Reg.LANYARD_HOPS_N 0 = (hops + 1) % 64 ∧ t.on Reg.LANYARD_STAT_HOLDOVER 0 = false
      ∧ (s.on Reg.LANYARD_STAT_LOCKED 0 = true → t.lany = s.lany
          ∧ (t.on Reg.LANYARD_STAT_LOCKED 0 = false ↔ (30 * 8192 < |offset| ∧ 1 ≤ s.hawser.bad) ∨ jump ∨ 4096 < |apart|)
          ∧ (t.on Reg.LANYARD_STAT_LOCKED 0 = false → t.on Reg.LANYARD_STAT_LOST 0 = true))
      ∧ (s.on Reg.LANYARD_STAT_LOCKED 0 = false → t.lany = s.lany + BitVec.ofInt 64 (256 * roundDiv offset (5000 * 8192))
          ∧ t.on Reg.LANYARD_STAT_RUNNING 0 = true
          ∧ (t.on Reg.LANYARD_STAT_LOCKED 0 = true ↔ |offset| ≤ 10 * 8192 ∧ 15 ≤ s.hawser.good)) := by
  intro delay offset jump
  obtain ⟨r, hr⟩ : ∃ r, r = s.setHw p { s.hw p with hops := some hops, delay := some delay } := ⟨_, rfl⟩
  have hregs : r.regs = s.regs := by rw [hr]; cases p <;> rfl
  have hlany : r.lany = s.lany := by rw [hr]; cases p <;> rfl
  have hbad : r.hawser.bad = s.hawser.bad := by rw [hr]; cases p <;> rfl
  have hgood : r.hawser.good = s.hawser.good := by rw [hr]; cases p <;> rfl
  have hrup (q : HwPort) : r.hwUp q = s.hwUp q := State.on_of_rd (State.rd_of_regs hregs _ _)
  have hrhead : r.isHead = false := (State.isHead_of_ctrl (State.reg_of_regs hregs _)).trans hh
  have hhops : r.nbHops p = some hops := by
    unfold State.nbHops
    rw [hrup, hup, if_pos rfl, hr]
    cases p <;> rfl
  have hother : r.nbHops (otherPort p) = none := by
    unfold State.nbHops
    rw [hrup, hdown]
    rfl
  generalize hu : r.retime = u
  have hu' := hu
  rw [State.retime_only hrhead hhops hother] at hu'
  generalize hw : (r.wr Reg.LANYARD_STAT_TPORT 0 (portCode p)).wr Reg.LANYARD_HOPS_N 0 (hops + 1) = w at hu'
  have hwstep : r.LanyStep [Reg.LANYARD_STAT_TPORT, Reg.LANYARD_HOPS_N] w := hw ▸
    (State.LanyStep.wr r Reg.LANYARD_STAT_TPORT _ (by decide) List.mem_cons_self).trans
      (.wr _ Reg.LANYARD_HOPS_N _ (by decide) (List.mem_cons_of_mem _ (List.mem_singleton_self _)))
  have hwhops : w.rd Reg.LANYARD_HOPS_N 0 = (hops + 1) % 64 := hw ▸ State.rd_wr_same _ Reg.LANYARD_HOPS_N 0 _ (by decide)
  obtain ⟨hhold, hflag⟩ := w.lanyardFlag_step (f := Reg.LANYARD_STAT_HOLDOVER) false (by decide) rfl
  rw [hu'] at hhold hflag
  have huhops := (hflag.fields.rd Reg.LANYARD_HOPS_N (by decide) (by decide)).trans hwhops
  have hulocked : u.on Reg.LANYARD_STAT_LOCKED 0 = s.on Reg.LANYARD_STAT_LOCKED 0 :=
    (hflag.on Reg.LANYARD_STAT_LOCKED (by decide) (by decide)).trans ((hwstep.on Reg.LANYARD_STAT_LOCKED (by decide) (by decide)).trans
      (State.on_of_rd (State.rd_of_regs hregs _ _)))
  have hulany : u.lany = s.lany := hflag.lany.trans (hwstep.lany.trans hlany)
  have huhawser : u.hawser = r.hawser := hflag.hawser.trans hwstep.hawser
  have hutime : u.timingPort = some p := by
    have hlink (q : HwPort) : u.hwUp q = r.hwUp q :=
      (hflag.fields.on (linkField q) (by cases q <;> decide) (by cases q <;> decide)).trans
        (hwstep.fields.on (linkField q) (by cases q <;> decide) (by cases q <;> decide))
    have hhw (q : HwPort) : u.hw q = r.hw q := by cases q <;> simp only [State.hw, huhawser]
    refine State.timingPort_only (h := hops) ?_ ?_
    · unfold State.nbHops at hhops ⊢; rwa [hlink, hhw]
    · unfold State.nbHops at hother ⊢; rwa [hlink, hhw]
  have huhead : u.isHead = false := by
    refine (State.isHead_of_ctrl ?_).trans hrhead
    exact (hflag.fields.reg (by decide) (by decide)).trans (hwstep.fields.reg (by decide) (by decide))
  have hex : exec (.lny p (.answer t1 t2 t3 t4 hops asym apart)) s = .next (u.steer delay offset (s.hw p).delay apart) := by
    rw [exec_lny, execLny, if_neg (by rw [hup]; decide)]
    refine congrArg Host.Outcome.next ?_
    unfold State.lnyDone exchange
    dsimp only
    change (if (!(State.retime (s.setHw p { s.hw p with hops := some hops, delay := some delay })).isHead
      && decide ((State.retime (s.setHw p { s.hw p with hops := some hops, delay := some delay })).timingPort = some p)) = true
      then _ else _) = _
    rw [← hr, hu, huhead, hutime]
    exact if_pos (by simp)
  refine ⟨_, hex, ?_⟩
  rw [State.steer_eq]
  obtain ⟨hoffs, hdly, hshow⟩ := u.showExchange_shows delay offset
  generalize u.showExchange delay offset = x at hoffs hdly hshow ⊢
  have hxlocked := (hshow.on Reg.LANYARD_STAT_LOCKED (by decide) (by decide)).trans hulocked
  have hxhops := (hshow.fields.rd Reg.LANYARD_HOPS_N (by decide) (by decide)).trans huhops
  have hxhold := (hshow.on Reg.LANYARD_STAT_HOLDOVER (by decide) (by decide)).trans hhold
  have hxlany := hshow.lany.trans hulany
  have hxhawser : x.hawser = r.hawser := hshow.hawser.trans huhawser
  by_cases hl : x.on Reg.LANYARD_STAT_LOCKED 0 = true
  · rw [if_pos hl]
    obtain ⟨h1, hf, h2, h3⟩ := State.holdLock_step delay offset (s.hw p).delay apart hl
    refine ⟨(hf.rd Reg.LANYARD_OFFS_PS (by decide) (by decide)).trans hoffs, (hf.rd Reg.LANYARD_DLY_PS (by decide) (by decide)).trans hdly,
      (hf.rd Reg.LANYARD_HOPS_N (by decide) (by decide)).trans hxhops, (hf.on Reg.LANYARD_STAT_HOLDOVER (by decide) (by decide)).trans hxhold,
      fun _ => ⟨h1.trans hxlany, ?_, h3⟩, fun h => absurd (hxlocked.symm.trans hl) (by rw [h]; decide)⟩
    rw [hxhawser, hbad] at h2
    exact h2
  · rw [if_neg hl]
    obtain ⟨h1, h2, hf, h3⟩ := State.seekLock_step offset (Bool.eq_false_iff.2 hl)
    refine ⟨(hf.rd Reg.LANYARD_OFFS_PS (by decide) (by decide)).trans hoffs, (hf.rd Reg.LANYARD_DLY_PS (by decide) (by decide)).trans hdly,
      (hf.rd Reg.LANYARD_HOPS_N (by decide) (by decide)).trans hxhops, (hf.on Reg.LANYARD_STAT_HOLDOVER (by decide) (by decide)).trans hxhold,
      fun h => absurd (hxlocked.trans h) hl, fun _ => ⟨h1.trans (by rw [hxlany]), h2, ?_⟩⟩
    rw [hxhawser, hgood] at h3
    exact h3

/-! ### The statement -/

theorem lnySend_both {s : State} (hc : s.on Reg.HAWSER_STAT_POS_CONFLICT 0 = false) (ha : s.hwUp .a = true) (hb : s.hwUp .b = true) :
    exec .lnySend s = .next ((s.emit (.lny .a)).emit (.lny .b)) := by
  have hs : s.sendsLny = true := by rw [State.sendsLny, hc]; exact Bool.or_true _
  have h1 : (if (s.hwUp .a && s.sendsLny) = true then s.emit (.lny .a) else s) = s.emit (.lny .a) := if_pos (by rw [ha, hs]; rfl)
  have h2 : (if ((s.emit (.lny .a)).hwUp .b && (s.emit (.lny .a)).sendsLny) = true then (s.emit (.lny .a)).emit (.lny .b) else s.emit (.lny .a))
      = (s.emit (.lny .a)).emit (.lny .b) := if_pos (show (s.hwUp .b && s.sendsLny) = true by rw [hb, hs]; rfl)
  rw [exec_lnySend, execLnySend]
  refine congrArg Host.Outcome.next ?_
  unfold State.each
  rw [List.foldl_cons, List.foldl_cons, List.foldl_nil]
  dsimp only
  rw [h1]
  exact h2

/-- Settles O51: each command by its own lemma. -/
theorem lanyardTime : Obligations.LanyardTime := by
  refine ⟨fun s ⟨hm, hh⟩ hb => ?_, fun s h => ?_, fun sub s ⟨hm, hh⟩ => ⟨fun hr => ?_, fun hr hl hp => ?_, fun hr h => ?_⟩, fun sub s h => ?_,
    fun s => ⟨fun hh hr => ?_, fun h => ?_⟩, fun s ⟨hm, hh⟩ hl => ⟨lyRefLoss_head hm hh hl, lyRefReturn_head hm hh hl⟩,
    fun s => ⟨fun h => ?_, fun hm h => ?_⟩, fun s hc ha hb => ?_, fun p x s h => ?_, fun p t1 t2 t3 s hup hc => ?_, lny_answer,
    fun s => ⟨fun h1 h2 => ?_, fun h => ?_⟩⟩
  · obtain ⟨href, h1, h2, h3⟩ := s.refLocked_step
    refine ⟨s.refLocked, ?_, href, fun h => ⟨(h1 h).1, (h1 h).2.1⟩, h2, h3⟩
    rw [exec_lanyardStart, execLanyardStart, hh, hb, decide_eq_false (show ¬ s.mode < 3 by omega)]
    rfl
  · rw [exec_lanyardStart, execLanyardStart]
    refine congrArg Host.Outcome.next (if_pos ?_)
    rcases h with h | ⟨hb, hl⟩
    · by_cases hm : s.mode < 3
      · rw [decide_eq_true hm]; rfl
      · rw [Bool.eq_false_iff.2 fun hh => h ⟨by omega, hh⟩]
        simp
    · cases hh : s.isHead <;> simp [State.needsRef, hb, hl, hh]
  · refine ⟨s.setPair Reg.LANYARD_PPS_LO_T 0 (s.lany + sub.setWidth 64), ?_, s.pair_setPair Reg.LANYARD_PPS_LO_T 0 _, rfl,
      fun a h1 h2 => s.reg_setPair_other Reg.LANYARD_PPS_LO_T 0 _ h1 h2⟩
    rw [exec_ppsEdge, execPpsEdge, hh, hr, decide_eq_false (show ¬ s.mode < 3 by omega)]
    rfl
  · obtain ⟨h0, hrun, _, _⟩ := s.startLanyard_starts
    refine ⟨s.startLanyard.setPair Reg.LANYARD_PPS_LO_T 0 0, ?_, h0, ?_, s.startLanyard.pair_setPair Reg.LANYARD_PPS_LO_T 0 0⟩
    · rw [exec_ppsEdge, execPpsEdge, hh, hr, hl, hp, decide_eq_false (show ¬ s.mode < 3 by omega)]
      rfl
    · exact (State.on_of_reg (s.startLanyard.reg_setPair_other Reg.LANYARD_PPS_LO_T 0 0 (by decide) (by decide))).trans hrun
  · rw [exec_ppsEdge, execPpsEdge, hh, hr, decide_eq_false (show ¬ s.mode < 3 by omega)]
    refine congrArg Host.Outcome.next ?_
    rw [if_neg (by decide), if_neg (by decide), if_neg]
    rcases h with h | h <;> rw [h] <;> simp
  · rw [exec_ppsEdge, execPpsEdge]
    refine congrArg Host.Outcome.next (if_pos ?_)
    by_cases hm : s.mode < 3
    · rw [decide_eq_true hm]; rfl
    · rw [Bool.eq_false_iff.2 fun hh => h ⟨by omega, hh⟩]
      simp
  · refine ⟨s.raise Reg.LANYARD_STAT_PPS_MISS 0, ?_, s.on_put_same Reg.LANYARD_STAT_PPS_MISS 0 true (by decide), s.raise_safety _ _,
      fun a ha => s.reg_raise_other Reg.LANYARD_STAT_PPS_MISS 0 ha⟩
    rw [exec_ppsMiss, execPpsMiss, hh, hr]
    rfl
  · rw [exec_ppsMiss, execPpsMiss]
    refine congrArg Host.Outcome.next (if_neg ?_)
    rcases h with h | h <;> rw [h] <;> simp
  · have h' : (decide (s.mode < 3) || !s.needsRef) = true := by rw [decide_eq_true h]; rfl
    rw [exec_lyRefLoss, execLyRefLoss, if_pos h]
    exact congrArg Host.Outcome.next (if_pos h')
  · have h3 : ¬ s.mode < 3 := by omega
    have hn : s.needsRef = false := by unfold State.needsRef; rcases h with h | h <;> rw [h] <;> simp
    refine ⟨{ s with safety := { s.safety with refBad := true } }, ?_, rfl, rfl⟩
    rw [exec_lyRefLoss, execLyRefLoss, if_neg h3]
    dsimp only
    refine congrArg Host.Outcome.next (if_pos ?_)
    change (decide (s.mode < 3) || !s.needsRef) = true
    rw [hn]
    exact Bool.or_true _
  · exact ⟨_, lnySend_both hc ha hb, rfl, rfl⟩
  · rw [exec_lny]
    exact congrArg Host.Outcome.next (if_pos (by rw [h]; rfl))
  · have hs : s.sendsLny = true := by rw [State.sendsLny, hc]; exact Bool.or_true _
    refine ⟨s.emit (.lnyAnswer p t2 t3 (if s.isHead then 0 else s.rd Reg.LANYARD_HOPS_N 0) (s.rdInt (asymField p) 0)), ?_, rfl, rfl⟩
    rw [exec_lny, execLny, if_neg (by rw [hup]; decide)]
    exact congrArg Host.Outcome.next (if_neg (by rw [hs]; decide))
  · obtain ⟨hlost, hoff, hlany, _⟩ := s.lanyardLost_step
    exact ⟨s.lanyardLost, by rw [exec_holdoverExpiry, execHoldoverExpiry, h1, h2]; rfl, hlost, hoff, hlany⟩
  · rw [exec_holdoverExpiry, execHoldoverExpiry]
    refine congrArg Host.Outcome.next (if_neg ?_)
    rcases h with h | h <;> rw [h] <;> simp

end Sys2Proof.Machine
end
-- ==== Sys2Proof/Proofs/ResetValues.lean ====
section
/-! Reset: what a commit or a flash operation cut off leaves, entry to BOOT, RST_N and SWRST (R382, R450, Table 19.4). -/

namespace Sys2Proof.Machine

/-! ### Registers changed at given addresses -/

/-- `t` is `s` but for registers at the addresses of `l`. -/
def State.RegsAt (l : List Nat) (s t : State) : Prop := (∀ a, a ∉ l → t.reg a = s.reg a) ∧ ∃ regs, t = { s with regs := regs }

section
variable {l : List Nat} {s t u : State}

theorem State.RegsAt.refl (l : List Nat) (s : State) : s.RegsAt l s := ⟨fun _ _ => rfl, _, rfl⟩

theorem State.RegsAt.trans (h : s.RegsAt l t) (k : t.RegsAt l u) : s.RegsAt l u := by
  obtain ⟨hreg, _, rfl⟩ := h
  obtain ⟨kreg, _, rfl⟩ := k
  exact ⟨fun a ha => (kreg a ha).trans (hreg a ha), _, rfl⟩

theorem State.RegsAt.setReg (s : State) {a : Nat} (w : Word) (h : a ∈ l) : s.RegsAt l (s.setReg a w) :=
  ⟨fun _ hb => s.reg_setReg_other w fun he => hb (he ▸ h), _, rfl⟩

theorem State.RegsAt.wr (s : State) {f : Field} {i : Nat} (v : Nat) (h : f.addr i ∈ l) : s.RegsAt l (s.wr f i v) := .setReg s _ h

theorem State.RegsAt.put (s : State) {f : Field} {i : Nat} (b : Bool) (h : f.addr i ∈ l) : s.RegsAt l (s.put f i b) := .wr s _ h

theorem State.RegsAt.setPair (s : State) {f : Field} {i : Nat} (x : Time) (h : f.addr i ∈ l) (h4 : f.addr i + 4 ∈ l) :
    s.RegsAt l (s.setPair f i x) := (State.RegsAt.setReg s _ h).trans (.setReg _ _ h4)

theorem State.RegsAt.mono {l' : List Nat} (h : s.RegsAt l t) (hl : l ⊆ l') : s.RegsAt l' t :=
  ⟨fun a ha => h.1 a fun hm => ha (hl hm), h.2⟩

theorem State.RegsAt.rd (h : s.RegsAt l t) (f : Field) (i : Nat) (hf : f.addr i ∉ l) : t.rd f i = s.rd f i := State.rd_of_reg (h.1 _ hf)

end

/-! ### What is cut off (R182, R402) -/

/-- A commit that a reset or a power loss cuts leaves everything but the calibration copies. -/
structure State.CutOf (s t : State) : Prop where
  form : ∃ free regs commit mram boot, t = { s with free := free, regs := regs, commit := commit, mram := mram, boot := boot }
  reg : ∀ a, a ≠ Reg.GAPCAL_STAT_COMMIT_BUSY.addr 0 → t.reg a = s.reg a
  ctr : t.mram.ctr = s.mram.ctr
  slots : t.mram.slots = s.mram.slots
  boot : ∃ flash, t.boot = { s.boot with flash := flash }
  flash : s.boot.flashOp = none → t.boot = s.boot

theorem State.cutOf_cutCommit (s : State) : s.CutOf s.cutCommit ∧ s.cutCommit.boot = s.boot := by
  unfold State.cutCommit
  cases s.commit with
  | none => exact ⟨⟨⟨_, _, _, _, _, rfl⟩, fun _ _ => rfl, rfl, rfl, ⟨_, rfl⟩, fun _ => rfl⟩, rfl⟩
  | some c =>
    dsimp only
    obtain ⟨n1, h1⟩ := s.fresh.2.wroteCal_snd false c.cal
    obtain ⟨n2, h2⟩ := (s.fresh.2.drawn n1).wrotePc_snd false (c.pc s.fresh.2)
    rw [h1, h2]
    refine ⟨⟨⟨_, _, _, _, _, rfl⟩, fun a ha => ?_, rfl, rfl, ⟨_, rfl⟩, fun _ => rfl⟩, rfl⟩
    exact State.reg_put_other _ Reg.GAPCAL_STAT_COMMIT_BUSY 0 false ha

theorem State.CutOf.flashed {s t : State} (h : s.CutOf t) (hb : t.boot = s.boot) : s.CutOf t.cutFlash := by
  obtain ⟨⟨free, regs, commit, mram, boot, hform⟩, hreg, hctr, hslots, _, _⟩ := h
  unfold State.cutFlash
  cases hop : t.boot.flashOp with
  | none => exact ⟨⟨_, _, _, _, _, hform⟩, hreg, hctr, hslots, ⟨s.boot.flash, hb⟩, fun _ => hb⟩
  | some x =>
    dsimp only
    have hsome : s.boot.flashOp ≠ none := fun h => by rw [hb, h] at hop; cases hop
    split
    · exact ⟨⟨_, _, _, _, _, hform⟩, hreg, hctr, hslots, ⟨s.boot.flash, hb⟩, fun _ => hb⟩
    · generalize ht : State.flashWrite _ _ _ = u
      have hu : ∃ flash, u = { t with free := t.free + 1, boot := { t.boot with flash := flash } } := ⟨u.boot.flash, by rw [← ht]; rfl⟩
      obtain ⟨flash, hu⟩ := hu
      refine ⟨⟨t.free + 1, t.regs, t.commit, t.mram, u.boot, ?_⟩, ?_, ?_, ?_, ⟨flash, ?_⟩, fun h => absurd h hsome⟩
      · rw [hu, hform]
      · rw [hu]; exact hreg
      · rw [hu]; exact hctr
      · rw [hu]; exact hslots
      · rw [hu, ← hb]

/-- What a reset or a loss of power finds. -/
def State.cut (s : State) : State := s.cutCommit.cutFlash

theorem State.cutOf_cut (s : State) : s.CutOf s.cut := s.cutOf_cutCommit.1.flashed s.cutOf_cutCommit.2

theorem State.CutOf.rd {s t : State} (h : s.CutOf t) (f : Field) (i : Nat) (hf : f.addr i ≠ Reg.GAPCAL_STAT_COMMIT_BUSY.addr 0) :
    t.rd f i = s.rd f i := State.rd_of_reg (h.reg _ hf)

/-! ### Entry to BOOT (R382, R450) -/

/-- A log record where the ring has room. -/
theorem State.log_kept (s : State) (code island : Nat) (set : Bool) (a0 a1 a2 a3 : Nat) (t : Time) (h : s.log.ring.length < 4096) :
    s.log_ code island set a0 a1 a2 a3 t
      = ({ s with log := { s.log with ring := ⟨t, s.log.next, code, island, set, a0, a1, a2, a3⟩ :: s.log.ring, next := s.log.next + 1 } }).wr
          Reg.LOG_SEQ_N 0 s.log.next := by
  unfold State.log_ LogSt.add
  rw [if_pos h]
  rfl

/-- Registers loaded or kept at entry to BOOT (Table 19.4). -/
def loadedRegs : List Nat := [0x3020, 0x3024, 0x5100, 0x5104, 0x5108, 0x510C, 0x5110, 0x5008, 0x500C, 0x5014, 0x2000, 0xC]

theorem State.showSlots_at (s : State) : s.RegsAt [0x5008, 0x5014] s.showSlots := by
  unfold State.showSlots
  dsimp only
  have hslotv := State.RegsAt.wr s (l := [0x5008, 0x5014]) (f := Reg.LOG_STAT_SLOTV) (i := 0)
  split
  · exact hslotv _ (by decide)
  · exact (hslotv _ (by decide)).trans ((State.RegsAt.wr _ (f := Reg.LOG_STAT_NEWSLOT) (i := 0) _ (by decide)).trans
      (.wr _ (f := Reg.LOG_FSEQ_N) (i := 0) _ (by decide)))

/-- The state entered, before anything is loaded: all at reset but what a reset keeps. -/
def State.restarted (cause : Nat) (s : State) : State :=
  { State.reset with
    pending := s.pending, free := s.free, otp := s.otp, power := s.power, link := s.link.restart,
    lastCommit := s.lastCommit.map (· - (s.tick : Int)),
    mram := s.mram.setCtr { s.mram.ctr with incarn := (s.mram.incarn + 1) % 2 ^ 32 },
    boot := { State.reset.boot with
      flash := s.boot.flash, hadHoldup := s.boot.hadHoldup, hadTimeout := s.boot.hadTimeout && cause ≤ 2, holdup := s.boot.holdup } }

/-- The end of the entry: a POWERING timeout has been told. -/
def State.timeoutTold (s : State) : State := { s with boot := { s.boot with hadTimeout := false } }

theorem State.enterBoot_eq (s : State) (cause : Nat) : s.enterBoot cause
    = (((s.cut.keptRegs (s.cut.restarted cause)).loadEntry cause).logNow 2 0 s.cut.mode 3 0 0).timeoutTold := rfl

theorem State.keptRegs_at (s t : State) : t.RegsAt [0x2000, 0xC] (s.keptRegs t) :=
  (State.RegsAt.setReg t _ (by decide)).trans (.setReg _ _ (by decide))

/-- BOOT_RSTCAUSE as it is loaded. -/
def State.loadCause (cause : Nat) (s : State) : State :=
  ((s.wr Reg.BOOT_RSTCAUSE_CAUSE 0 cause).put Reg.BOOT_RSTCAUSE_HOLDUP 0 s.boot.hadHoldup).put Reg.BOOT_RSTCAUSE_PG_TMO 0 s.boot.hadTimeout

/-- The lock and the log slots as they are loaded from OTP `o` and MRAM `m`. -/
def State.loadLock (o : Otp) (m : Mram) (s : State) : State :=
  ((((((s.wr Reg.LOCK_CFG_FLOOR 0 o.floor).setPair Reg.LOCK_SERIAL_LO_S 0 o.serial).wr Reg.LOCK_STAT_FAILS 0 m.fails).wr
    Reg.LOCK_LOUT_SEC 0 m.lockout).put Reg.LOCK_STAT_LOCKOUT 0 (m.lockout != 0))).showSlots

theorem State.loadEntry_eq (s : State) (cause : Nat) :
    s.loadEntry cause = ((s.loadCause cause).wr Reg.BOOT_INCARN_N 0 s.mram.incarn).loadLock s.otp s.mram := by
  unfold State.loadEntry State.loadLock State.loadCause
  simp only [State.wr_mram, State.put_mram, State.wr_otp, State.put_otp, State.setPair_mram]

theorem State.loadCause_loads (s : State) {cause : Nat} (hc : cause < 8) : let t := s.loadCause cause
    s.RegsAt [0x3020] t ∧ t.rd Reg.BOOT_RSTCAUSE_CAUSE 0 = cause ∧ t.on Reg.BOOT_RSTCAUSE_HOLDUP 0 = s.boot.hadHoldup
      ∧ t.on Reg.BOOT_RSTCAUSE_PG_TMO 0 = s.boot.hadTimeout := by
  dsimp only
  unfold State.loadCause
  refine ⟨(State.RegsAt.wr s (f := Reg.BOOT_RSTCAUSE_CAUSE) (i := 0) _ (by decide)).trans ((State.RegsAt.put _ (f := Reg.BOOT_RSTCAUSE_HOLDUP) (i := 0) _ (by decide)).trans
    (.put _ (f := Reg.BOOT_RSTCAUSE_PG_TMO) (i := 0) _ (by decide))), ?_, ?_,
    State.on_put_same _ Reg.BOOT_RSTCAUSE_PG_TMO 0 _ (by decide)⟩
  · rw [State.put, State.rd_wr_apart _ Reg.BOOT_RSTCAUSE_PG_TMO Reg.BOOT_RSTCAUSE_CAUSE 0 0 _ (by decide) (by decide), State.put,
      State.rd_wr_apart _ Reg.BOOT_RSTCAUSE_HOLDUP Reg.BOOT_RSTCAUSE_CAUSE 0 0 _ (by decide) (by decide),
      State.rd_wr_same _ _ _ _ (by decide)]
    exact Nat.mod_eq_of_lt hc
  · rw [State.on_put_apart _ Reg.BOOT_RSTCAUSE_PG_TMO Reg.BOOT_RSTCAUSE_HOLDUP 0 0 _ (by decide) (by decide)]
    exact State.on_put_same _ Reg.BOOT_RSTCAUSE_HOLDUP 0 _ (by decide)

theorem State.loadLock_at (s : State) (o : Otp) (m : Mram) :
    s.RegsAt [0x5100, 0x5104, 0x5108, 0x510C, 0x5110, 0x5008, 0x5014] (s.loadLock o m) :=
  (State.RegsAt.wr s (f := Reg.LOCK_CFG_FLOOR) (i := 0) _ (by decide)).trans
    ((State.RegsAt.setPair _ (f := Reg.LOCK_SERIAL_LO_S) (i := 0) _ (by decide) (by decide)).trans
    ((State.RegsAt.wr _ (f := Reg.LOCK_STAT_FAILS) (i := 0) _ (by decide)).trans
    ((State.RegsAt.wr _ (f := Reg.LOCK_LOUT_SEC) (i := 0) _ (by decide)).trans
    ((State.RegsAt.put _ (f := Reg.LOCK_STAT_LOCKOUT) (i := 0) _ (by decide)).trans ((State.showSlots_at _).mono (by decide))))))

/-- What is loaded at entry stands in its registers. -/
theorem State.loadEntry_loads (s : State) {cause : Nat} (hc : cause < 8) : let t := s.loadEntry cause
    s.RegsAt (loadedRegs.erase 0x2000) t ∧ t.rd Reg.BOOT_RSTCAUSE_CAUSE 0 = cause
      ∧ t.on Reg.BOOT_RSTCAUSE_HOLDUP 0 = s.boot.hadHoldup ∧ t.on Reg.BOOT_RSTCAUSE_PG_TMO 0 = s.boot.hadTimeout
      ∧ t.rd Reg.BOOT_INCARN_N 0 = s.mram.incarn % 2 ^ 32 := by
  dsimp only
  rw [State.loadEntry_eq]
  obtain ⟨hat, hcause, hhold, htmo⟩ := s.loadCause_loads hc
  generalize s.loadCause cause = c at hat hcause hhold htmo ⊢
  have hinc := c.rd_wr_same Reg.BOOT_INCARN_N 0 s.mram.incarn (by decide)
  have hcinc := c.reg_wr_other Reg.BOOT_INCARN_N 0 s.mram.incarn (a := 0x3020) (by decide)
  have hatinc := State.RegsAt.wr c (l := [0x3024]) (f := Reg.BOOT_INCARN_N) (i := 0) s.mram.incarn (by decide)
  generalize c.wr Reg.BOOT_INCARN_N 0 s.mram.incarn = d at hinc hcinc hatinc ⊢
  have hlock := d.loadLock_at s.otp s.mram
  have hsame := (hlock.1 0x3020 (by decide)).trans hcinc
  exact ⟨(hat.mono (by decide)).trans ((hatinc.mono (by decide)).trans (hlock.mono (by decide))),
    (State.rd_of_reg (f := Reg.BOOT_RSTCAUSE_CAUSE) (i := 0) hsame).trans hcause,
    (State.on_of_reg (f := Reg.BOOT_RSTCAUSE_HOLDUP) (i := 0) hsame).trans hhold,
    (State.on_of_reg (f := Reg.BOOT_RSTCAUSE_PG_TMO) (i := 0) hsame).trans htmo, (hlock.rd Reg.BOOT_INCARN_N 0 (by decide)).trans hinc⟩

theorem Mram.ctr_setCtr (c : Counters) (m : Mram) : (m.setCtr c).ctr = c := ite_self c

/-- Entry to BOOT. -/
structure State.Restart (cause : Nat) (s t : State) : Prop where
  mode : t.mode = 3
  reset : ∀ a, a ∉ loadedRegs → t.reg a = regReset a
  told : t.rd Reg.BOOT_RSTCAUSE_CAUSE 0 = cause
  holdup : t.on Reg.BOOT_RSTCAUSE_HOLDUP 0 = s.boot.hadHoldup
  timeout : t.on Reg.BOOT_RSTCAUSE_PG_TMO 0 = (s.boot.hadTimeout && decide (cause ≤ 2))
  incarn : t.rd Reg.BOOT_INCARN_N 0 = (s.mram.incarn + 1) % 2 ^ 32
  power : t.reg 0x2000 = s.reg 0x2000
  idle : t.strands = [] ∧ t.cores = [] ∧ t.chans = [] ∧ t.pcs = [] ∧ t.bins = [] ∧ t.metas = [] ∧ t.lany = 0
  slots : t.mram.slots = s.mram.slots
  flash : s.boot.flashOp = none → t.boot.flash = s.boot.flash
  otp : t.otp = s.otp
  pending : t.pending = s.pending

theorem State.reg_restarted (s : State) (cause a : Nat) : (s.restarted cause).reg a = regReset a := rfl

theorem State.enterBoot_restarts (s : State) {cause : Nat} (hc : cause < 8) : s.Restart cause (s.enterBoot cause) := by
  rw [State.enterBoot_eq]
  have hcut := s.cutOf_cut
  generalize s.cut = u at hcut ⊢
  have hkept := u.keptRegs_at (u.restarted cause)
  have hkept2000 : (u.keptRegs (u.restarted cause)).reg 0x2000 = u.reg 0x2000 :=
    (State.reg_setReg_other _ _ (by decide)).trans (State.reg_setReg_same _ _ _)
  generalize u.keptRegs (u.restarted cause) = k at hkept hkept2000 ⊢
  obtain ⟨hload, hcause, hhold, htmo, hinc⟩ := k.loadEntry_loads hc
  have h2000 := hload.1 0x2000 (by decide)
  generalize k.loadEntry cause = e at hload h2000 hcause hhold htmo hinc ⊢
  obtain ⟨hkreg, kregs, hk⟩ := hkept
  obtain ⟨hereg, eregs, he⟩ := hload
  have hring : e.log.ring.length < 4096 := by rw [he, hk]; exact Nat.zero_lt_succ _
  have hlog : e.logNow 2 0 u.mode 3 0 0 = _ := e.log_kept 2 0 true u.mode 3 0 0 e.lany hring
  rw [hlog]
  generalize hx : State.timeoutTold _ = x
  have hxreg (a : Nat) (ha : a ≠ 0x500C) : x.reg a = e.reg a := by
    rw [← hx]
    exact State.reg_wr_other _ Reg.LOG_SEQ_N 0 _ ha
  have hall (a : Nat) (ha : a ∉ loadedRegs) : x.reg a = regReset a := by
    have h1 : a ≠ 0x500C := fun h => ha (h ▸ by decide)
    have h2 : a ∉ [0x2000, 0xC] := fun h => ha (by
      rcases List.mem_cons.1 h with rfl | h
      · decide
      · rw [List.mem_singleton.1 h]; decide)
    exact (hxreg a h1).trans ((hereg a fun hm => ha (List.mem_of_mem_erase hm)).trans (hkreg a h2))
  have hincarn : k.mram.incarn = (s.mram.incarn + 1) % 2 ^ 32 := by
    rw [hk]
    change (u.mram.setCtr { u.mram.ctr with incarn := (u.mram.ctr.incarn + 1) % 2 ^ 32 }).ctr.incarn = (s.mram.ctr.incarn + 1) % 2 ^ 32
    rw [Mram.ctr_setCtr, hcut.ctr]
  obtain ⟨flash, hflash⟩ := hcut.boot
  obtain ⟨free, regs, commit, mram, boot, hform⟩ := hcut.form
  refine ⟨?_, hall, ?_, ?_, ?_, ?_, ?_, ?_, ?_, fun hop => ?_, ?_, ?_⟩
  · exact (congrArg Reg.BOOT_STATE_STATE.read (hall _ (by decide))).trans (by decide)
  · exact (State.rd_of_reg (hxreg _ (by decide))).trans hcause
  · refine (State.on_of_reg (hxreg _ (by decide))).trans (hhold.trans ?_)
    rw [hk]
    change u.boot.hadHoldup = _
    rw [hflash]
  · refine (State.on_of_reg (hxreg _ (by decide))).trans (htmo.trans ?_)
    rw [hk]
    change (u.boot.hadTimeout && decide (cause ≤ 2)) = _
    rw [hflash]
  · refine (State.rd_of_reg (hxreg _ (by decide))).trans (hinc.trans ?_)
    rw [hincarn, Nat.mod_mod]
  · exact (hxreg _ (by decide)).trans (h2000.trans (hkept2000.trans (hcut.reg _ (by decide))))
  · rw [← hx, he, hk]
    exact ⟨rfl, rfl, rfl, rfl, rfl, rfl, rfl⟩
  · rw [← hx, he, hk]
    exact hcut.slots
  · rw [← hx, he, hk]
    change u.boot.flash = _
    rw [hcut.flash hop]
  · rw [← hx, he, hk]
    change u.otp = _
    rw [hform]
  · rw [← hx, he, hk]
    change u.pending = _
    rw [hform]

/-! ### The statement -/

theorem State.reg_reset (a : Nat) : State.reset.reg a = regReset a := rfl

theorem rstNReset_restarts {s : State} (hm : 3 ≤ s.mode) (ho : s.overruled 2 = false) :
    exec .rstNReset s = .next ((s.enterBoot 3).governed 2) := by
  have hc : ¬ (decide (s.mode < 3) || s.overruled 2) = true := by rw [ho, decide_eq_false (by omega)]; decide
  rw [exec_rstNReset, execRstNReset, if_neg hc]

/-- The word that SWRST writes with its key. -/
def swrstWord (key : Byte) : Word := BitVec.ofNat 32 (256 * key.toNat + 16)

/-- A write of SWRST with a key names SWRST alone. -/
theorem swrstWord_bits (key : Byte) : (swrstWord key).getLsbD 4 = true
    ∧ ((List.range 5).filter fun k => (swrstWord key).getLsbD k).length = 1 ∧ (swrstWord key).toNat / 256 % 256 = key.toNat := by
  have h : ∀ n, n < 256 → (BitVec.ofNat 32 (256 * n + 16)).getLsbD 4 = true
      ∧ ((List.range 5).filter fun k => (BitVec.ofNat 32 (256 * n + 16)).getLsbD k).length = 1
      ∧ (BitVec.ofNat 32 (256 * n + 16)).toNat / 256 % 256 = n := by decide +kernel
  exact h key.toNat key.isLt

theorem bootCmd_swrst (s : State) (free : Bool) (key : Byte) : s.bootCmd free (swrstWord key)
    = if (free && decide (key = 0xA5) && !s.overruled 2) = true then (s.enterBoot 4).governed 2 else s := by
  obtain ⟨h4, hone, hkey⟩ := swrstWord_bits key
  have hkeq : decide ((swrstWord key).toNat / 256 % 256 = 0xA5) = decide (key = 0xA5) := by
    rw [hkey]
    refine decide_eq_decide.2 ⟨fun h => BitVec.eq_of_toNat_eq h, fun h => by rw [h]; rfl⟩
  unfold State.bootCmd
  dsimp only
  rw [h4, hone, if_neg (by simp), if_neg (by decide), if_pos rfl, hkeq]

/-- BOOT_CMD.SWRST written: logged when the lock lets it through, else answered LOCKED (R382). -/
theorem exec_swrst {s : State} (src : Source) (key : Byte) (hm : 3 ≤ s.mode) : exec (.bootCmdSwrst src key) s
    = .next (if s.classOpen .device = true then
        (((s.asked 0x3004).logBy 0 0x81 0 0x3004 (swrstWord key).toNat (srcNumber src) 0).bootCmd true (swrstWord key)).noteWrite src 0x3004
      else (((s.asked 0x3004).bootCmd false (swrstWord key)).answer .locked).noteWrite src 0x3004) := by
  have hcarry : (bootCmdHit.fields.any fun f => f.counts bootCmdHit.mixed (s.reg 0x3004) (swrstWord key)) = true := by
    have hmask : ∀ n, n < 256 → (BitVec.ofNat 32 (256 * n + 16) &&& (⟨4, 4, .rwl, 0⟩ : FieldSpec).mask != 0) = true := by decide +kernel
    refine List.any_eq_true.2 ⟨⟨4, 4, .rwl, 0⟩, by decide, ?_⟩
    exact hmask key.toNat key.isLt
  have hw := s.writeReg_keeps (h := bootCmdHit) src (swrstWord key) hm lookup_bootCmd (by simp [State.gated, bootCmdHit]) (by decide) rfl rfl rfl
  dsimp only at hw
  rw [exec_bootCmdSwrst, execBootCmdSwrst]
  refine congrArg Host.Outcome.next (hw.trans ?_)
  have hclass : bootCmdHit.lockClass = .device := by decide
  rw [hcarry, hclass]
  cases s.classOpen .device <;> rfl

/-- The state a reset comes to, as the statement has it. -/
def State.Again (cause : Nat) (s t : State) : Prop :=
  t.mode = 3 ∧ (∀ a, a ∉ loadedRegs → t.reg a = regReset a)
    ∧ t.rd Reg.BOOT_RSTCAUSE_CAUSE 0 = cause ∧ t.rd Reg.BOOT_INCARN_N 0 = (s.mram.incarn + 1) % 2 ^ 32 ∧ t.reg 0x2000 = s.reg 0x2000
    ∧ t.strands = [] ∧ t.cores = [] ∧ t.chans = [] ∧ t.pcs = [] ∧ t.bins = [] ∧ t.metas = [] ∧ t.lany = 0
    ∧ t.mram.slots = s.mram.slots ∧ (s.boot.flashOp = none → t.boot.flash = s.boot.flash) ∧ t.otp = s.otp ∧ t.pending = s.pending

theorem State.Restart.again {cause : Nat} {s t : State} (h : s.Restart cause t) : s.Again cause t := by
  obtain ⟨i1, i2, i3, i4, i5, i6, i7⟩ := h.idle
  exact ⟨h.mode, h.reset, h.told, h.incarn, h.power, i1, i2, i3, i4, i5, i6, i7, h.slots, h.flash, h.otp, h.pending⟩

theorem State.Again.governed {cause : Nat} {s t : State} (h : s.Again cause t) (n : Nat) : s.Again cause (t.governed n) := h

theorem State.Again.noteWrite {cause : Nat} {s t : State} (h : s.Again cause t) (src : Source) (a : Nat) : s.Again cause (t.noteWrite src a) := h

/-- What a reset comes to after the record of the write that asked for it. -/
theorem State.Again.of_logged {cause : Nat} {s u t : State} (hl : (s.asked 0x3004).Logged u) (h : u.Again cause t) : s.Again cause t := by
  have hmram : u.mram = s.mram := by obtain ⟨_, _, _, _, _, hu, _⟩ := hl; rw [hu]; rfl
  have hboot : u.boot = s.boot := by obtain ⟨_, _, _, _, _, hu, _⟩ := hl; rw [hu]; rfl
  have hotp : u.otp = s.otp := by obtain ⟨_, _, _, _, _, hu, _⟩ := hl; rw [hu]; rfl
  have hpend : u.pending = s.pending := by obtain ⟨_, _, _, _, _, hu, _⟩ := hl; rw [hu]; rfl
  have hpower : u.reg 0x2000 = s.reg 0x2000 := (hl.reg (by decide)).trans (s.reg_asked _ _)
  unfold State.Again at h ⊢
  rwa [hmram, hboot, hotp, hpend, hpower] at h

theorem State.overruled_of_cause {s t : State} (h : t.cause = s.cause) (n : Nat) : t.overruled n = s.overruled n := by
  unfold State.overruled
  rw [h]

/-- SWRST with its lock open. -/
theorem bootCmdSwrst_open {s : State} (src : Source) (key : Byte) (hm : 3 ≤ s.mode) (hopen : s.classOpen .device = true) :
    ∃ u, (s.asked 0x3004).Logged u ∧ exec (.bootCmdSwrst src key) s
      = .next ((if key = 0xA5 ∧ s.overruled 2 = false then (u.enterBoot 4).governed 2 else u).noteWrite src 0x3004) := by
  have hl := (s.asked 0x3004).logged_logBy 0 0x81 0 0x3004 (swrstWord key).toNat (srcNumber src) 0
  refine ⟨_, hl, ?_⟩
  rw [exec_swrst src key hm, if_pos hopen, bootCmd_swrst]
  generalize (s.asked 0x3004).logBy 0 0x81 0 0x3004 (swrstWord key).toNat (srcNumber src) 0 = u at hl ⊢
  have hcause : u.cause = s.cause := by obtain ⟨_, _, _, _, _, hu, _⟩ := hl; rw [hu]; rfl
  rw [State.overruled_of_cause hcause]
  refine congrArg (fun x => Host.Outcome.next (State.noteWrite src 0x3004 x)) (if_congr ?_ rfl rfl)
  simp

/-- Settles O54. -/
theorem resetValues : Obligations.ResetValues := by
  refine ⟨State.reg_reset, by decide, by decide, by decide, by decide, by decide, by decide, by decide, rfl, rfl, by decide,
    fun s => ⟨fun hm ho => ⟨_, rstNReset_restarts hm ho, (s.enterBoot_restarts (by decide)).again.governed 2⟩, fun h => ?_⟩,
    fun src key s hm => ⟨fun hopen hkey ho => ?_, fun hopen h => ?_, fun hshut => ?_⟩⟩
  · rw [exec_rstNReset, execRstNReset]
    refine congrArg Host.Outcome.next (if_pos ?_)
    rcases h with h | h
    · rw [decide_eq_true h]; rfl
    · rw [h, Bool.or_true]
  · obtain ⟨u, hl, hex⟩ := bootCmdSwrst_open src key hm hopen
    rw [if_pos ⟨hkey, ho⟩] at hex
    exact ⟨_, hex, (((u.enterBoot_restarts (by decide)).again.of_logged hl).governed 2).noteWrite src 0x3004⟩
  · obtain ⟨u, hl, hex⟩ := bootCmdSwrst_open src key hm hopen
    rw [if_neg fun ⟨hk, ho⟩ => h.elim (fun hn => hn hk) fun h => absurd (ho.symm.trans h) (by decide)] at hex
    refine ⟨_, hex, ?_, ?_, ?_⟩
    · exact (State.mode_of_reg (hl.reg (by decide))).trans (State.mode_of_reg (s.reg_asked _ _))
    · obtain ⟨_, _, _, _, _, hu, _⟩ := hl; rw [hu]; rfl
    · obtain ⟨_, _, _, _, _, hu, _⟩ := hl; rw [hu]; rfl
  · have hex := exec_swrst src key hm
    rw [hshut, if_neg (by decide), bootCmd_swrst] at hex
    exact ⟨_, hex, rfl, fun a => s.reg_asked 0x3004 a, ((s.regsOnly_asked _).trans (State.regsOnly_answer _ _)).noteWrite src _⟩

end Sys2Proof.Machine
end
-- ==== Sys2Proof/Proofs/PowerStates.lean ====
section
/-! The line front end: detection, the class handshake, POWERING, loss of input and hold-up (R377 to R380, R458 to R462). -/

namespace Sys2Proof.Machine

/-! ### The front end before BOOT -/

theorem State.frontState_at (s : State) (n : Nat) : s.RegsAt [0x3000] (s.frontState n) := .wr s (f := Reg.BOOT_STATE_STATE) (i := 0) _ (by decide)

theorem State.frontState_mode (s : State) {n : Nat} (hn : n < 16) : (s.frontState n).mode = n :=
  (s.rd_wr_same Reg.BOOT_STATE_STATE 0 n (by decide)).trans (Nat.mod_eq_of_lt hn)

/-- What changes registers alone changes nothing else. -/
theorem State.RegsAt.rest {l : List Nat} {s t : State} (h : s.RegsAt l t) : { t with regs := s.regs } = s := by
  obtain ⟨_, regs, rfl⟩ := h
  rfl

/-- The straps as POWER_STAT takes them. -/
theorem State.takeStraps_takes (s : State) : let t := s.takeStraps
    s.RegsAt [0x2000] t ∧ t.on Reg.POWER_STAT_MODE 0 = s.on Reg.GLOBAL_STRAP_PWR 0
      ∧ t.rd Reg.POWER_STAT_CLS_REQ 0 = s.rd Reg.GLOBAL_STRAP_CLS 0 := by
  dsimp only
  unfold State.takeStraps
  have hcls : s.rd Reg.GLOBAL_STRAP_CLS 0 < 4 := s.rd_lt Reg.GLOBAL_STRAP_CLS 0
  have hpwr : s.rd Reg.GLOBAL_STRAP_PWR 0 < 2 := s.rd_lt Reg.GLOBAL_STRAP_PWR 0
  refine ⟨(State.RegsAt.wr s (f := Reg.POWER_STAT_MODE) (i := 0) _ (by decide)).trans (.wr _ (f := Reg.POWER_STAT_CLS_REQ) (i := 0) _ (by decide)),
    ?_, ?_⟩
  · unfold State.on
    rw [State.rd_wr_apart _ Reg.POWER_STAT_CLS_REQ Reg.POWER_STAT_MODE 0 0 _ (by decide) (by decide), State.rd_wr_same _ _ _ _ (by decide)]
    exact congrArg (fun n => decide (n = 1)) (Nat.mod_eq_of_lt hpwr)
  · rw [State.rd_wr_same _ _ _ _ (by decide)]
    exact Nat.mod_eq_of_lt hcls

/-- POWERING begins. -/
theorem State.beginPowering_begins (s : State) : let t := s.beginPowering
    t.mode = 2 ∧ t.power.gate = true ∧ t.on Reg.POWER_STAT_MODE 0 = s.on Reg.GLOBAL_STRAP_PWR 0 := by
  obtain ⟨_, hmode, _⟩ := s.takeStraps_takes
  have hfront := s.takeStraps.frontState_at 2
  have hstate := s.takeStraps.frontState_mode (n := 2) (by decide)
  refine ⟨hstate, rfl, ?_⟩
  exact (State.on_of_rd (hfront.rd Reg.POWER_STAT_MODE 0 (by decide))).trans hmode

/-- The line front end's answer to a QUERY (R461). -/
theorem classRequest_answers {s : State} (hm : s.mode = 1) (hq : s.power.queried = true) : let c := s.rd Reg.GLOBAL_STRAP_CLS 0
    ∃ t, exec .classRequest s = .next t ∧ t.power.requested = some c ∧ t.power.queried = false
      ∧ t.link.wire = .request c [0xAA, BitVec.ofNat 8 (0xC0 + c), ~~~BitVec.ofNat 8 (0xC0 + c)] :: s.link.wire
      ∧ t.rd Reg.POWER_STAT_CLS_REQ 0 = c ∧ t.mode = 1 := by
  intro c
  obtain ⟨hat, _, hreq⟩ := s.takeStraps_takes
  have hex : exec .classRequest s = .next (let u := s.takeStraps
      let c := u.rd Reg.POWER_STAT_CLS_REQ 0
      ({ u with power := { u.power with queried := false, requested := some c } } : State).emit
        (.request c (classFrame (BitVec.ofNat 8 (0xC0 + c))))) := by
    rw [exec_classRequest, execClassRequest, hm, hq]
    rfl
  refine ⟨_, hex, ?_⟩
  dsimp only
  rw [hreq]
  have hmode : s.takeStraps.mode = 1 := (hat.rd Reg.BOOT_STATE_STATE 0 (by decide)).trans hm
  have hwire : s.takeStraps.link = s.link := by obtain ⟨_, _, h⟩ := hat; rw [h]
  refine ⟨rfl, rfl, ?_, hreq, hmode⟩
  change _ :: s.takeStraps.link.wire = _
  rw [hwire]
  rfl

/-! ### POWERING and OFF -/

/-- The state at OFF before its registers are set. -/
def State.unpowered (s : State) : State :=
  { State.reset with
    pending := s.pending, free := s.free, otp := s.otp, mram := s.mram, link := s.link.restart,
    power := { s.power with gate := false, queried := false, requested := none },
    boot := { State.reset.boot with flash := s.boot.flash, hadHoldup := s.boot.hadHoldup, hadTimeout := s.boot.hadTimeout } }

theorem State.powerOff_eq (s : State) : s.powerOff
    = ((((s.cut.keptRegs s.cut.unpowered).wr Reg.POWER_STAT_PG 0 0).put Reg.POWER_STAT_HOLDUP 0 false).wr Reg.BOOT_STATE_STATE 0 0).driveSafe := rfl

theorem State.driveSafe_early {s : State} (h : s.mode < 3) :
    s.driveSafe = { s with safety := { s.safety with safeN := .hiZ, safeHb := .hiZ } } := by
  unfold State.driveSafe
  exact if_pos h

/-- Every rail off (R379, R380): MRAM, OTP and what the supply holds stay. -/
theorem State.powerOff_off (s : State) : let t := s.powerOff
    t.mode = 0 ∧ t.rd Reg.POWER_STAT_PG 0 = 0 ∧ t.power.gate = false ∧ t.boot.holdup = false ∧ t.bins = [] ∧ t.strands = []
      ∧ t.mram.slots = s.mram.slots ∧ t.otp = s.otp := by
  dsimp only
  rw [State.powerOff_eq]
  have hcut := s.cutOf_cut
  generalize s.cut = u at hcut ⊢
  have hkept := u.keptRegs_at u.unpowered
  generalize u.keptRegs u.unpowered = k at hkept ⊢
  obtain ⟨_, kregs, hk⟩ := hkept
  have hpg := k.rd_wr_same Reg.POWER_STAT_PG 0 0 (by decide)
  have h1 := State.RegsAt.wr k (l := [0x2000]) (f := Reg.POWER_STAT_PG) (i := 0) 0 (by decide)
  generalize k.wr Reg.POWER_STAT_PG 0 0 = p at hpg h1 ⊢
  have hpg2 := (p.rd_wr_apart Reg.POWER_STAT_HOLDUP Reg.POWER_STAT_PG 0 0 0 (by decide) (by decide)).trans hpg
  have h2 : p.RegsAt [0x2000] (p.put Reg.POWER_STAT_HOLDUP 0 false) := .put p (f := Reg.POWER_STAT_HOLDUP) (i := 0) false (by decide)
  change (p.put Reg.POWER_STAT_HOLDUP 0 false).rd _ _ = _ at hpg2
  generalize p.put Reg.POWER_STAT_HOLDUP 0 false = q at hpg2 h2 ⊢
  have hmode : (q.wr Reg.BOOT_STATE_STATE 0 0).mode = 0 := q.rd_wr_same Reg.BOOT_STATE_STATE 0 0 (by decide)
  have h3 := State.RegsAt.wr q (l := [0x3000]) (f := Reg.BOOT_STATE_STATE) (i := 0) 0 (by decide)
  generalize q.wr Reg.BOOT_STATE_STATE 0 0 = r at hmode h3 ⊢
  rw [State.driveSafe_early (by omega)]
  obtain ⟨_, rregs, hr⟩ := (h1.trans h2).mono (l' := [0x2000, 0x3000]) (by decide) |>.trans (h3.mono (by decide))
  have hpg3 := (h3.rd Reg.POWER_STAT_PG 0 (by decide)).trans hpg2
  refine ⟨hmode, hpg3, ?_, ?_, ?_, ?_, ?_, ?_⟩
  · rw [hr, hk]; rfl
  · rw [hr, hk]; rfl
  · rw [hr, hk]; rfl
  · rw [hr, hk]; rfl
  · rw [hr, hk]; exact hcut.slots
  · obtain ⟨_, _, _, _, _, hform⟩ := hcut.form
    rw [hr, hk]
    change u.otp = _
    rw [hform]

/-! ### Loss of input (R380, R431, R433) -/

/-- A log record leaves the freezes. -/
theorem State.freezes_log_ (s : State) (code island : Nat) (set : Bool) (a0 a1 a2 a3 : Nat) (t : Time) :
    let u := s.log_ code island set a0 a1 a2 a3 t
    u.log.cur = s.log.cur ∧ u.log.queued = s.log.queued := by
  dsimp only
  unfold State.log_ LogSt.add
  dsimp only
  split
  · exact ⟨rfl, rfl⟩
  · split <;> exact ⟨rfl, rfl⟩

/-- `t` is `s` but for what a freeze of the log changes: registers of the log line, and its records. -/
structure State.LogLine (s t : State) : Prop where
  reg : ∀ a, outsideLog a → t.reg a = s.reg a
  boot : t.boot = s.boot

theorem State.LogLine.trans {s t u : State} (h : s.LogLine t) (k : t.LogLine u) : s.LogLine u :=
  ⟨fun a ha => (k.reg a ha).trans (h.reg a ha), k.boot.trans h.boot⟩

theorem State.LogLine.logged {s t : State} (h : s.Logged t) : s.LogLine t :=
  ⟨fun _ ha => h.reg ha, by obtain ⟨_, _, _, _, _, h, _⟩ := h; rw [h]⟩

theorem State.logLine_freezeFlags (s : State) (l : LogSt) : s.LogLine (State.freezeFlags { s with log := l }) := by
  unfold State.freezeFlags
  refine ⟨fun a ha => ?_, rfl⟩
  have h (f : Field) (hf : f.addr 0 = 0x5008) : a ≠ f.addr 0 := by rintro rfl; rw [hf] at ha; exact absurd ha (by decide)
  exact (State.reg_put_other _ Reg.LOG_STAT_QUEUED 0 _ (h _ rfl)).trans (State.reg_put_other _ Reg.LOG_STAT_FBUSY 0 _ (h _ rfl))

theorem testBit_foldl_or (l : List Freeze) (n i : Nat) (h : n.testBit i = true) : (l.foldl (fun c f => c ||| f.cause) n).testBit i = true := by
  induction l generalizing n with
  | nil => exact h
  | cons f l ih => exact ih _ (by rw [Nat.testBit_or, h, Bool.true_or])

theorem State.freezeRecord_step (s : State) (f : Freeze) (b : Bool) : s.LogLine (s.freezeRecord f b) ∧ (s.freezeRecord f b).log.cur = s.log.cur := by
  unfold State.freezeRecord
  exact ⟨.logged (s.logged_logBy ..), (s.freezes_log_ ..).1⟩

/-- A brown-out is the freeze in progress. -/
theorem State.brownOut_freezes (s : State) : let t := s.brownOut
    s.LogLine t ∧ ∃ f, t.log.cur = some f ∧ f.cause.testBit 1 = true ∧ f.count = 512 ∧ f.begun = none := by
  dsimp only
  unfold State.brownOut
  dsimp only
  have hlog : s.LogLine (s.logNow 5 0 (s.reg (Reg.POWER_STAT_HOLDUP.addr 0)).toNat 0 0 0) := .logged (s.logged_logBy ..)
  generalize s.logNow 5 0 (s.reg (Reg.POWER_STAT_HOLDUP.addr 0)).toNat 0 0 0 = u at hlog ⊢
  have hcause := testBit_foldl_or (u.log.cur.toList ++ u.log.queued.toList) 2 1 (by decide)
  generalize List.foldl _ 2 (u.log.cur.toList ++ u.log.queued.toList) = cause at hcause ⊢
  generalize (u.log.cur.bind fun f => f.begun.map (·.1)) = slot
  generalize hl : ({ u.log with cur := some ⟨u.log.next - 1, cause, 512, none, slot⟩, queued := none } : LogSt) = l
  have hcur : l.cur = some ⟨u.log.next - 1, cause, 512, none, slot⟩ := by rw [← hl]
  have hflags := u.logLine_freezeFlags l
  have hfcur : (State.freezeFlags { u with log := l }).log.cur = l.cur := rfl
  generalize State.freezeFlags { u with log := l } = v at hflags hfcur ⊢
  have hkeep : v.LogLine (v.each (u.log.cur.toList ++ u.log.queued.toList) fun f s => s.freezeRecord f true)
      ∧ (v.each (u.log.cur.toList ++ u.log.queued.toList) fun f s => s.freezeRecord f true).log.cur = v.log.cur := by
    refine State.each_keeps (P := fun t => v.LogLine t ∧ t.log.cur = v.log.cur) (fun f _ t ⟨ht, htcur⟩ => ?_) ⟨⟨fun _ _ => rfl, rfl⟩, rfl⟩
    obtain ⟨hrec, hreccur⟩ := t.freezeRecord_step f true
    exact ⟨ht.trans hrec, hreccur.trans htcur⟩
  exact ⟨hlog.trans (hflags.trans hkeep.1), _, hkeep.2.trans (hfcur.trans hcur), hcause, rfl, rfl⟩

theorem lossOfInput_freezes {s : State} (hm : 3 ≤ s.mode) (hh : s.boot.holdup = false) :
    ∃ t, exec .lossOfInput s = .next t ∧ t.on Reg.POWER_STAT_HOLDUP 0 = true
        ∧ t.boot.holdup = true ∧ t.mode = s.mode ∧ ∃ f, t.log.cur = some f ∧ f.cause.testBit 1 = true ∧ f.count = 512 ∧ f.begun = none := by
  have hex : exec .lossOfInput s = .next (
      let u := s.fresh.2.wr Reg.POWER_STAT_PG 0 ((Config.open_ 20 s.fresh.1).toNat % 16)
      let v := ((u.cutCommit.put Reg.POWER_STAT_HOLDUP 0 true).brownOut).governed 1
      { v with boot := { v.boot with holdup := true, hadHoldup := true } }) := by
    have hb : ¬ (s.fresh.2.wr Reg.POWER_STAT_PG 0 ((Config.open_ 20 s.fresh.1).toNat % 16)).boot.holdup = true := by
      rw [State.wr_boot]
      change ¬ s.boot.holdup = true
      rw [hh]
      decide
    have h3 : ¬ s.mode < 3 := by omega
    rw [exec_lossOfInput, execLossOfInput, if_neg h3]
    exact congrArg Host.Outcome.next (if_neg hb)
  refine ⟨_, hex, ?_⟩
  dsimp only
  have hpg := State.RegsAt.wr s.fresh.2 (l := [0x2000]) (f := Reg.POWER_STAT_PG) (i := 0) ((Config.open_ 20 s.fresh.1).toNat % 16) (by decide)
  generalize s.fresh.2.wr Reg.POWER_STAT_PG 0 ((Config.open_ 20 s.fresh.1).toNat % 16) = u at hpg ⊢
  have hcut := u.cutOf_cutCommit.1
  generalize u.cutCommit = c at hcut ⊢
  have hhold := c.on_put_same Reg.POWER_STAT_HOLDUP 0 true (by decide)
  have hput : c.RegsAt [0x2000] (c.put Reg.POWER_STAT_HOLDUP 0 true) := .put c (f := Reg.POWER_STAT_HOLDUP) (i := 0) true (by decide)
  generalize c.put Reg.POWER_STAT_HOLDUP 0 true = p at hhold hput ⊢
  obtain ⟨hline, hfreeze⟩ := p.brownOut_freezes
  generalize p.brownOut = b at hline hfreeze ⊢
  have hmode : b.mode = s.mode := State.mode_of_reg (((hline.reg _ (by decide)).trans (hput.1 _ (by decide))).trans
    ((hcut.reg _ (by decide)).trans (hpg.1 _ (by decide))))
  exact ⟨(State.on_of_reg (hline.reg (Reg.POWER_STAT_HOLDUP.addr 0) (by decide))).trans hhold, rfl, hmode, hfreeze⟩

theorem lineRemoved_ends (s : State) : ∃ t, exec .lineRemoved s = .next t ∧ t.mode = (if s.mode = 1 then 0 else s.mode) ∧ t.power.granted = false
      ∧ t.rd Reg.POWER_STAT_CLS_GRANT 0 = 0 ∧ ∀ a, a ≠ 0x3000 → a ≠ 0x2000 → t.reg a = s.reg a := by
  obtain ⟨p, hp⟩ : ∃ p : State, p = { s with power := { s.power with granted := false, requested := none, queried := false } } := ⟨_, rfl⟩
  have hex : exec .lineRemoved s = .next (if s.mode = 1 then (p.wr Reg.POWER_STAT_CLS_GRANT 0 0).frontState 0
      else p.wr Reg.POWER_STAT_CLS_GRANT 0 0) := by rw [hp]; rfl
  refine ⟨_, hex, ?_⟩
  have hgrant := p.rd_wr_same Reg.POWER_STAT_CLS_GRANT 0 0 (by decide)
  have hat := State.RegsAt.wr p (l := [0x2000]) (f := Reg.POWER_STAT_CLS_GRANT) (i := 0) 0 (by decide)
  have hpower : (p.wr Reg.POWER_STAT_CLS_GRANT 0 0).power.granted = false := by rw [State.wr_power, hp]
  have hreg (a : Nat) : p.reg a = s.reg a := by rw [hp]; rfl
  generalize p.wr Reg.POWER_STAT_CLS_GRANT 0 0 = q at hgrant hat hpower ⊢
  have hfront := q.frontState_at 0
  by_cases hm : s.mode = 1
  · rw [if_pos hm, if_pos hm]
    refine ⟨q.frontState_mode (by decide), ?_, (hfront.rd Reg.POWER_STAT_CLS_GRANT 0 (by decide)).trans hgrant,
      fun a h1 h2 => (hfront.1 a (by simpa using h1)).trans ((hat.1 a (by simpa using h2)).trans (hreg a))⟩
    obtain ⟨_, _, hq⟩ := hfront
    rw [hq]
    exact hpower
  · rw [if_neg hm, if_neg hm]
    exact ⟨(State.mode_of_reg (hat.1 _ (by decide))).trans (State.mode_of_reg (hreg _)), hpower, hgrant,
      fun a _ h2 => (hat.1 a (by simpa using h2)).trans (hreg a)⟩

theorem powerGood_boots {s : State} (hm : s.mode = 2) : ∃ t, exec .powerGood s = .next t ∧ t.mode = 3 ∧ t.rd Reg.POWER_STAT_PG 0 = 15
        ∧ t.rd Reg.BOOT_RSTCAUSE_CAUSE 0 = (if s.on Reg.POWER_STAT_MODE 0 then 2 else 1)
        ∧ t.on Reg.BOOT_RSTCAUSE_HOLDUP 0 = s.boot.hadHoldup ∧ t.on Reg.BOOT_RSTCAUSE_PG_TMO 0 = s.boot.hadTimeout
        ∧ t.rd Reg.BOOT_INCARN_N 0 = (s.mram.incarn + 1) % 2 ^ 32 := by
  have hex : exec .powerGood s = .next ((s.wr Reg.POWER_STAT_PG 0 0xF).enterBoot (if s.on Reg.POWER_STAT_MODE 0 then 2 else 1)) := by
    rw [exec_powerGood, execPowerGood, if_pos hm]
  refine ⟨_, hex, ?_⟩
  have hpg := s.rd_wr_same Reg.POWER_STAT_PG 0 0xF (by decide)
  have hboot := s.wr_boot Reg.POWER_STAT_PG 0 0xF
  have hmram := s.wr_mram Reg.POWER_STAT_PG 0 0xF
  generalize s.wr Reg.POWER_STAT_PG 0 0xF = p at hpg hboot hmram ⊢
  have hle : (if s.on Reg.POWER_STAT_MODE 0 = true then 2 else 1) ≤ 2 := by split <;> decide
  have hr := p.enterBoot_restarts (cause := if s.on Reg.POWER_STAT_MODE 0 then 2 else 1) (by omega)
  refine ⟨hr.mode, (State.rd_of_reg (f := Reg.POWER_STAT_PG) (i := 0) hr.power).trans hpg, hr.told, hboot ▸ hr.holdup, ?_, hmram ▸ hr.incarn⟩
  rw [hr.timeout, hboot, decide_eq_true hle, Bool.and_true]

/-- Settles O52: each command by its own lemma. -/
theorem powerStates : Obligations.PowerStates := by
  refine ⟨fun s => ⟨fun hm hp => ?_, fun h => ?_⟩, fun s => ?_, fun s => ⟨fun hm => ?_, fun h => ?_⟩,
    fun s => ⟨fun hm hq => classRequest_answers hm hq, fun h => ?_⟩, fun k after s => ⟨fun hm hr ha => ?_, fun h => ?_⟩,
    fun s => ⟨fun hw h => ?_, fun hw hm hg hlow => ?_, fun h => ?_⟩, fun s => ⟨fun hm => ?_, fun h => ?_⟩,
    fun s => ⟨fun hm => ?_, fun h => ?_⟩, fun s => ⟨_, rfl, rfl, rfl⟩,
    fun s => ⟨lossOfInput_freezes, fun hm hh => ?_, fun hm => ?_⟩, fun s => ⟨fun h => ?_, fun h => ?_⟩⟩
  · have hat := s.frontState_at 1
    refine ⟨s.frontState 1, ?_, s.frontState_mode (by decide), fun a ha => hat.1 a (by simpa using ha), hat.rest⟩
    rw [exec_lineDetect, execLineDetect, hm, hp]
    rfl
  · rw [exec_lineDetect, execLineDetect]
    refine congrArg Host.Outcome.next (if_neg ?_)
    rcases h with h | h
    · rw [decide_eq_false h]; simp
    · rw [h]; simp
  · obtain ⟨t, hex, ht⟩ := lineRemoved_ends s
    exact ⟨t, hex, ht⟩
  · exact ⟨{ s with power := { s.power with queried := true } }, by rw [exec_classQuery, execClassQuery, if_pos hm], rfl, rfl⟩
  · rw [exec_classQuery, execClassQuery, if_neg h]
  · rw [exec_classRequest, execClassRequest]
    refine congrArg Host.Outcome.next (if_neg ?_)
    rcases h with h | h
    · rw [decide_eq_false h]; simp
    · rw [h]; simp
  · refine ⟨({ s with power := { s.power with granted := true } } : State).wr Reg.POWER_STAT_CLS_GRANT 0 k.toNat, ?_, ?_, ?_,
      fun a ha => State.reg_wr_other _ Reg.POWER_STAT_CLS_GRANT 0 _ ha⟩
    · rw [exec_grant]
      exact congrArg Host.Outcome.next (if_pos (by rw [decide_eq_true hm, hr]; simpa using ha))
    · rw [State.wr_power]
    · exact (State.rd_wr_same _ Reg.POWER_STAT_CLS_GRANT 0 _ (by decide)).trans (Nat.mod_eq_of_lt k.isLt)
  · rw [exec_grant]
    refine congrArg Host.Outcome.next (if_neg ?_)
    rcases h with h | h | h
    · rw [decide_eq_false h]; simp
    · rw [h]; simp
    · simp; omega
  · obtain ⟨hmode, hgate, hpwr⟩ := s.beginPowering_begins
    refine ⟨s.beginPowering, ?_, hmode, hgate, hpwr⟩
    have hwait : ¬ s.power.wait = true := by rw [hw]; decide
    rw [exec_startThreshold, execStartThreshold, if_neg hwait]
    rcases h with ⟨hm, hp⟩ | ⟨hm, hg, hlow⟩
    · exact congrArg Host.Outcome.next (if_pos (by rw [hm, hp]; rfl))
    · refine congrArg Host.Outcome.next ((if_neg (by rw [hm]; simp)).trans ((if_pos (by rw [hm, hg]; rfl)).trans (if_pos ?_)))
      exact Nat.le_of_not_lt hlow
  · refine ⟨s.raise Reg.POWER_STAT_CLASS_LOW 0, ?_, ?_, s.on_put_same Reg.POWER_STAT_CLASS_LOW 0 true (by decide), s.raise_power _ _⟩
    · have hwait : ¬ s.power.wait = true := by rw [hw]; decide
      rw [exec_startThreshold, execStartThreshold, if_neg hwait]
      refine congrArg Host.Outcome.next ((if_neg (by rw [hm]; simp)).trans ((if_pos (by rw [hm, hg]; rfl)).trans (if_neg ?_)))
      exact Nat.not_le_of_lt hlow
    · exact (State.mode_of_reg (s.reg_raise_other Reg.POWER_STAT_CLASS_LOW 0 (by decide))).trans hm
  · rw [exec_startThreshold, execStartThreshold]
    refine congrArg Host.Outcome.next ?_
    by_cases hw : s.power.wait = true
    · exact if_pos hw
    · refine (if_neg hw).trans ((if_neg ?_).trans (if_neg ?_))
      · rcases h with h | ⟨_, h⟩ | ⟨h, _⟩ | h
        · exact absurd h hw
        · rw [h]; simp
        · rw [h]; simp
        · rw [decide_eq_false (by omega)]; simp
      · rcases h with h | ⟨h, _⟩ | ⟨_, h⟩ | h
        · exact absurd h hw
        · rw [h]; simp
        · rw [h]; simp
        · rw [decide_eq_false (by omega)]; simp
  · obtain ⟨t, hex, ht⟩ := powerGood_boots hm
    exact ⟨t, hex, ht⟩
  · rw [exec_powerGood, execPowerGood, if_neg h]
  · obtain ⟨hmode, hpg, hgate, _, _, _, hslots, _⟩ := s.powerOff_off
    have hex : exec .poweringTimeout s = .next ({ s.powerOff with
        boot := { s.powerOff.boot with hadTimeout := true }, power := { s.powerOff.power with wait := true } }) := by
      rw [exec_poweringTimeout, execPoweringTimeout, if_pos hm]
    exact ⟨_, hex, hmode, rfl, hgate, hpg, rfl, hslots⟩
  · rw [exec_poweringTimeout, execPoweringTimeout, if_neg h]
  · have h3 : ¬ s.mode < 3 := by omega
    have hex : exec .lossOfInput s = .next (s.fresh.2.wr Reg.POWER_STAT_PG 0 ((Config.open_ 20 s.fresh.1).toNat % 16)) := by
      rw [exec_lossOfInput, execLossOfInput, if_neg h3]
      exact congrArg Host.Outcome.next (if_pos ((State.wr_boot ..).symm ▸ hh))
    refine ⟨_, hex, ?_, fun a ha => State.reg_wr_other _ Reg.POWER_STAT_PG 0 _ ha, ?_⟩
    · exact State.on_of_rd (s.fresh.2.rd_wr_apart Reg.POWER_STAT_PG Reg.POWER_STAT_HOLDUP 0 0 _ (by decide) (by decide))
    · simp only [State.wr, State.setReg, State.fresh]
  · rw [exec_lossOfInput, execLossOfInput, if_pos hm]
  · obtain ⟨hmode, _, _, hhold, hbins, hstrands, hslots, hotp⟩ := s.powerOff_off
    exact ⟨s.powerOff, by rw [exec_holdupExpiry, execHoldupExpiry, if_pos h], hmode, hhold, hbins, hstrands, hslots, hotp⟩
  · rw [exec_holdupExpiry, execHoldupExpiry, h]
    rfl

end Sys2Proof.Machine
end
-- ==== Sys2Proof/Proofs/FlashAndLog.lean ====
section
/-! The boot flash, marks and freezes of the log line, and the die temperatures (R402, R428 to R434, R449). -/

namespace Sys2Proof.Machine

/-! ### Writes of registers that one lock guards whole -/

/-- A register whose one field is RWL. -/
def Hit.guarded (h : Hit) : Bool :=
  match h.fields with
  | [f] => decide (f.acc = .rwl)
  | _ => false

theorem Hit.guarded_iff {h : Hit} : h.guarded = true ↔ ∃ f, h.fields = [f] ∧ f.acc = .rwl := by
  unfold Hit.guarded
  split
  case h_1 f hf =>
    rw [hf]
    exact decide_eq_true_iff.trans ⟨fun h => ⟨f, rfl, h⟩, fun ⟨g, hg, h⟩ => by cases hg; exact h⟩
  case h_2 hne =>
    exact ⟨(fun h => nomatch h), fun ⟨f, hf, _⟩ => absurd hf (hne f)⟩

section
variable {s : State} {a : Nat} {h : Hit} (src : Source) (v : Word) (hm : 3 ≤ s.mode) (hl : lookup a = some h)
  (hisl : h.island = .housekeeping) (hgrp : h.grp ≠ .gapcal) (hf : h.guarded = true)
include hm hl hisl hgrp hf

/-- The lock closes its class: nothing is written (R438). -/
theorem State.writeReg_guarded_shut (hshut : s.classOpen h.lockClass = false) :
    s.writeReg src a v = (s.answer .locked).noteWrite src a := by
  obtain ⟨f, hfields, hacc⟩ := Hit.guarded_iff.1 hf
  have hg : s.gated h true = false := by unfold State.gated; rw [hisl]; exact Bool.and_false _
  have hmixed : h.mixed = false := by unfold Hit.mixed; rw [hfields]; simp [hacc]
  have hcarry : (h.fields.any fun f => f.counts h.mixed (s.reg a) v) = true := by
    rw [hfields, hmixed]
    simp [FieldSpec.counts, hacc]
  have hshut' : ({ s with acc := .ok } : State).classOpen h.lockClass = false := hshut
  rw [State.writeReg_hit src v hm hl hg hgrp]
  unfold State.writeHit
  dsimp only
  rw [hcarry, hmixed, hshut]
  rfl

/-- The lock lets it through: the word is stored where the register keeps one, logged, and acts. -/
theorem State.writeReg_guarded_open (hopen : s.classOpen h.lockClass = true) (hlate : h.keeps = true ∨ s.notLate src a) :
    s.writeReg src a v = ((((s.answer .ok).setReg a (s.written true h a v)).logBy h.inst 0x81 h.islandNo a v.toNat (srcNumber src) 0).writeEffect
      (srcNumber src) false true h v (s.reg a)).noteWrite src a := by
  obtain ⟨f, hfields, hacc⟩ := Hit.guarded_iff.1 hf
  have hg : s.gated h true = false := by unfold State.gated; rw [hisl]; exact Bool.and_false _
  have hmixed : h.mixed = false := by unfold Hit.mixed; rw [hfields]; simp [hacc]
  have hcarry : (h.fields.any fun f => f.counts h.mixed (s.reg a) v) = true := by
    rw [hfields, hmixed]
    simp [FieldSpec.counts, hacc]
  have hact : s.acting (srcRank src) h a v = v := by
    unfold State.acting
    dsimp only
    rw [hfields, List.foldl_cons, List.foldl_nil, hacc]
    refine if_neg ?_
    rcases hlate with hk | hn
    · rw [hk]; simp
    · rw [decide_eq_false (Nat.not_lt.2 hn)]; simp
  rw [State.writeReg_hit src v hm hl hg hgrp, hact]
  unfold State.writeHit
  dsimp only
  rw [hcarry, hmixed, hopen]
  rfl

end

/-- The state in which what a write of a guarded register starts begins. -/
def State.recorded (src : Source) (h : Hit) (a : Nat) (v : Word) (s : State) : State :=
  ((s.answer .ok).setReg a (s.written true h a v)).logBy h.inst 0x81 h.islandNo a v.toNat (srcNumber src) 0

/-- What the record of a write leaves. -/
structure State.Recorded (a : Nat) (s t : State) : Prop where
  reg : ∀ b, outsideLog b → b ≠ a → t.reg b = s.reg b
  boot : t.boot = s.boot
  safety : t.safety = s.safety
  lany : t.lany = s.lany
  acc : t.acc = .ok

theorem State.recorded_spec (src : Source) (h : Hit) (a : Nat) (v : Word) (s : State) : s.Recorded a (s.recorded src h a v) := by
  have hl := ((s.answer .ok).setReg a (s.written true h a v)).logged_logBy h.inst 0x81 h.islandNo a v.toNat (srcNumber src) 0
  unfold State.recorded
  generalize State.logBy _ _ _ _ _ _ _ _ = u at hl ⊢
  have hreg (b : Nat) (hb : outsideLog b) (hne : b ≠ a) : u.reg b = s.reg b := (hl.reg hb).trans (State.reg_setReg_other _ _ hne)
  obtain ⟨_, _, _, _, _, hu, _⟩ := hl
  refine ⟨hreg, ?_, ?_, ?_, ?_⟩ <;> rw [hu] <;> rfl

theorem State.Recorded.rd {a : Nat} {s t : State} (h : s.Recorded a t) (f : Field) (hl : outsideLog (f.addr 0)) (hne : f.addr 0 ≠ a) :
    t.rd f 0 = s.rd f 0 := State.rd_of_reg (h.reg _ hl hne)

theorem State.Recorded.on {a : Nat} {s t : State} (h : s.Recorded a t) (f : Field) (hl : outsideLog (f.addr 0)) (hne : f.addr 0 ≠ a) :
    t.on f 0 = s.on f 0 := State.on_of_reg (h.reg _ hl hne)

/-! ### BOOT_FCMD and BOOT_FDATA (R402) -/

def fcmdHit : Hit := ⟨.boot, 0, 0x40, 0, .housekeeping, [⟨1, 0, .rwl, 0⟩]⟩
def fdataHit : Hit := ⟨.boot, 0, 0x3C, 0, .housekeeping, [⟨31, 0, .rwl, 0⟩]⟩
def logCmdHit : Hit := ⟨.log, 0, 0, 0, .housekeeping, [⟨0, 0, .rwl, 0⟩]⟩
def logMarkHit : Hit := ⟨.log, 0, 4, 0, .housekeeping, [⟨31, 0, .rwl, 0⟩]⟩
def testInjHit : Hit := ⟨.safety, 0, 0x28, 0, .housekeeping, [⟨0, 0, .rwl, 0⟩]⟩

theorem lookup_fcmd : lookup 0x3040 = some fcmdHit := by decide
theorem lookup_fdata : lookup 0x303C = some fdataHit := by decide
theorem lookup_logCmd : lookup 0x5000 = some logCmdHit := by decide
theorem lookup_logMark : lookup 0x5004 = some logMarkHit := by decide
theorem lookup_testInj : lookup 0x4028 = some testInjHit := by decide

/-- BOOT_FCMD with operation `op`, as the statement names it. -/
def fcmdInstr (op : Nat) (src : Source) : Instr := if op = 1 then .bootFcmdErase src else if op = 2 then .bootFcmdProgram src else .bootFcmdRead src

theorem exec_fcmd {op : Nat} (h1 : 1 ≤ op) (h3 : op ≤ 3) (src : Source) (s : State) :
    exec (fcmdInstr op src) s = .next (s.writeReg src 0x3040 (BitVec.ofNat 32 op)) := by
  interval_cases op <;> rfl

/-- A flash operation may not touch the half of the image area in use. -/
theorem State.halfInUse_iff (s : State) : s.halfInUse (s.rd Reg.BOOT_FADDR_A 0) = true
    ↔ s.on Reg.BOOT_STAT_NOIMAGE 0 = false ∧ s.rd Reg.BOOT_FADDR_A 0 / 0x2000000 = s.rd Reg.BOOT_STAT_COPY 0 := by
  have hc : s.rd Reg.BOOT_STAT_COPY 0 < 2 := s.rd_lt Reg.BOOT_STAT_COPY 0
  unfold State.halfInUse
  simp only [Bool.and_eq_true, Bool.not_eq_true', decide_eq_true_eq]
  constructor
  · rintro ⟨⟨hn, _⟩, hq⟩
    exact ⟨hn, hq⟩
  · rintro ⟨hn, hq⟩
    exact ⟨⟨hn, by omega⟩, hq⟩

theorem State.flashCmd_refused {s : State} (op : Nat) (h : (s.mode ≠ 5 ∧ s.mode ≠ 8) ∨ s.on Reg.BOOT_FSTAT_BUSY 0 = true
    ∨ s.halfInUse (s.rd Reg.BOOT_FADDR_A 0) = true) : s.flashCmd op = s.raise Reg.BOOT_FSTAT_REFUSED 0 := by
  unfold State.flashCmd
  refine if_pos ?_
  rcases h with ⟨h5, h8⟩ | h | h
  · rw [decide_eq_false h5, decide_eq_false h8]; rfl
  · rw [h]; simp
  · rw [h]; simp

theorem State.flashCmd_taken {s : State} (op : Nat) (hm : s.mode = 5 ∨ s.mode = 8) (hb : s.on Reg.BOOT_FSTAT_BUSY 0 = false)
    (hh : s.halfInUse (s.rd Reg.BOOT_FADDR_A 0) = false) : s.flashCmd op
      = ({ s with boot := { s.boot with flashOp := some (op, s.rd Reg.BOOT_FADDR_A 0), pagePos := if op = 2 then 0 else s.boot.pagePos } } : State).put
          Reg.BOOT_FSTAT_BUSY 0 true := by
  unfold State.flashCmd
  refine if_neg ?_
  rw [hb, hh]
  rcases hm with h | h <;> rw [h] <;> decide

theorem flashOp_starts (src : Source) (op : Nat) (s : State) (h1 : 1 ≤ op) (h3 : op ≤ 3) (hm : 3 ≤ s.mode) (ho : s.classOpen .device = true)
    (hl : s.notLate src 0x3040) :
    let inUse : Prop := s.on Reg.BOOT_STAT_NOIMAGE 0 = false ∧ s.rd Reg.BOOT_FADDR_A 0 / 0x2000000 = s.rd Reg.BOOT_STAT_COPY 0
    (s.mode = 5 ∨ s.mode = 8 → s.on Reg.BOOT_FSTAT_BUSY 0 = false → ¬ inUse → ∃ t, exec (fcmdInstr op src) s = .next t ∧ t.acc = .ok
        ∧ t.on Reg.BOOT_FSTAT_BUSY 0 = true ∧ t.boot.flashOp = some (op, s.rd Reg.BOOT_FADDR_A 0) ∧ t.boot.flash = s.boot.flash)
    ∧ ((s.mode ≠ 5 ∧ s.mode ≠ 8) ∨ s.on Reg.BOOT_FSTAT_BUSY 0 = true ∨ inUse → ∃ t, exec (fcmdInstr op src) s = .next t ∧ t.acc = .ok
        ∧ t.on Reg.BOOT_FSTAT_REFUSED 0 = true ∧ t.boot = s.boot) := by
  intro inUse
  have hex : exec (fcmdInstr op src) s = .next (((s.recorded src fcmdHit 0x3040 (BitVec.ofNat 32 op)).flashCmd op).noteWrite src 0x3040) := by
    rw [exec_fcmd h1 h3, State.writeReg_guarded_open src _ hm lookup_fcmd rfl (by decide) rfl ho (.inr hl)]
    interval_cases op <;> rfl
  have hu := s.recorded_spec src fcmdHit 0x3040 (BitVec.ofNat 32 op)
  generalize s.recorded src fcmdHit 0x3040 (BitVec.ofNat 32 op) = u at hu hex
  have hmode : u.mode = s.mode := hu.rd Reg.BOOT_STATE_STATE (by decide) (by decide)
  have hbusy := hu.on Reg.BOOT_FSTAT_BUSY (by decide) (by decide)
  have haddr := hu.rd Reg.BOOT_FADDR_A (by decide) (by decide)
  have hhalf : u.halfInUse (u.rd Reg.BOOT_FADDR_A 0) = true ↔ inUse := by
    rw [State.halfInUse_iff, hu.on Reg.BOOT_STAT_NOIMAGE (by decide) (by decide), haddr, hu.rd Reg.BOOT_STAT_COPY (by decide) (by decide)]
  constructor
  · intro h5 hb hi
    rw [State.flashCmd_taken op (hmode ▸ h5) (hbusy.trans hb) (Bool.eq_false_iff.2 fun h => hi (hhalf.1 h))] at hex
    refine ⟨_, hex, hu.acc, State.on_put_same _ Reg.BOOT_FSTAT_BUSY 0 true (by decide), ?_, ?_⟩
    · change some (op, u.rd Reg.BOOT_FADDR_A 0) = _
      rw [haddr]
    · change u.boot.flash = _
      rw [hu.boot]
  · intro h
    rw [State.flashCmd_refused op (by rw [hmode, hbusy, hhalf]; exact h)] at hex
    refine ⟨_, hex, ?_, u.on_put_same Reg.BOOT_FSTAT_REFUSED 0 true (by decide), ?_⟩
    · change (u.raise Reg.BOOT_FSTAT_REFUSED 0).acc = _
      rw [State.raise_acc, hu.acc]
    · change (u.raise Reg.BOOT_FSTAT_REFUSED 0).boot = _
      rw [State.raise_boot, hu.boot]

/-- With its lock closed a command does nothing but answer LOCKED. -/
theorem guarded_locked (src : Source) (op : Nat) (v : Word) (s : State) (h1 : 1 ≤ op) (h3 : op ≤ 3) (hm : 3 ≤ s.mode)
    (ho : s.classOpen .device = false) : ∀ i ∈ [fcmdInstr op src, .bootFdataWrite src v, .safetyTestInj src, .logCmdFreeze src, .logMark src v],
      ∃ t, exec i s = .next t ∧ t.acc = .locked ∧ t.regs = s.regs ∧ RegsOnly s t := by
  have shut {i : Instr} {a : Nat} {h : Hit} {w : Word} (hex : exec i s = .next (s.writeReg src a w)) (hl : lookup a = some h)
      (hisl : h.island = .housekeeping) (hgrp : h.grp ≠ .gapcal) (hf : h.guarded = true) (hc : h.lockClass = .device) :
      ∃ t, exec i s = .next t ∧ t.acc = .locked ∧ t.regs = s.regs ∧ RegsOnly s t := by
    rw [State.writeReg_guarded_shut src w hm hl hisl hgrp hf (hc ▸ ho)] at hex
    exact ⟨_, hex, rfl, rfl, (State.regsOnly_answer s .locked).noteWrite src a⟩
  intro i hi
  simp only [List.mem_cons, List.not_mem_nil, or_false] at hi
  rcases hi with rfl | rfl | rfl | rfl | rfl
  · exact shut (exec_fcmd h1 h3 src s) lookup_fcmd rfl (by decide) rfl (by decide)
  · exact shut rfl lookup_fdata rfl (by decide) rfl (by decide)
  · exact shut rfl lookup_testInj rfl (by decide) rfl (by decide)
  · exact shut rfl lookup_logCmd rfl (by decide) rfl (by decide)
  · exact shut rfl lookup_logMark rfl (by decide) rfl (by decide)

theorem fdataWrite_fills (src : Source) (v : Word) (s : State) (hm : 3 ≤ s.mode) (ho : s.classOpen .device = true) :
    ∃ t, exec (.bootFdataWrite src v) s = .next t ∧ t.acc = .ok ∧ t.boot.pagePos = (s.boot.pagePos + 4) % 256 ∧ t.boot.flash = s.boot.flash
      ∧ ∀ k, k < 4 → t.pageByte (s.boot.pagePos + k) = BitVec.ofNat 8 (v.toNat / 256 ^ k) := by
  have hex : exec (.bootFdataWrite src v) s = .next (((s.recorded src fdataHit 0x303C v).fdataWrite v).noteWrite src 0x303C) :=
    congrArg Host.Outcome.next (State.writeReg_guarded_open src v hm lookup_fdata rfl (by decide) rfl ho (.inl rfl))
  have hu := s.recorded_spec src fdataHit 0x303C v
  generalize s.recorded src fdataHit 0x303C v = u at hu hex
  refine ⟨_, hex, hu.acc, ?_, ?_, fun k hk => ?_⟩
  · change (u.boot.pagePos + 4) % 256 = _
    rw [hu.boot]
  · change u.boot.flash = _
    rw [hu.boot]
  · change SMap.getD (((List.range (leBytes 4 v.toNat).length).zip (leBytes 4 v.toNat)).foldl (fun m b => m.put (u.boot.pagePos + b.1) b.2)
      u.boot.page) (s.boot.pagePos + k) _ = _
    rw [hu.boot, SMap.getD, SMap.find_foldl_put, length_leBytes, if_pos (by omega), Nat.add_sub_cancel_left, nth_leBytes _ _ _ _ hk]
    rfl

/-! ### The end of a flash operation (R402) -/

theorem State.flash_flashWrite (s : State) (a : Nat) (bs : List Byte) (b : Nat) :
    (s.flashWrite a bs).flash b = if a ≤ b ∧ b < a + bs.length then nth bs (b - a) 0 else s.flash b := by
  unfold State.flash State.flashWrite SMap.getD
  rw [SMap.find_foldl_put]
  split <;> rfl

theorem State.flash_of_boot {s t : State} (h : t.boot = s.boot) (b : Nat) : t.flash b = s.flash b := by
  unfold State.flash
  rw [h]

theorem State.on_flashWrite (s : State) (a : Nat) (bs : List Byte) (f : Field) (i : Nat) : (s.flashWrite a bs).on f i = s.on f i := rfl

theorem State.flashOp_flashWrite (s : State) (a : Nat) (bs : List Byte) : (s.flashWrite a bs).boot.flashOp = s.boot.flashOp := rfl

/-- The bytes of the block of size `n` that holds `a`. -/
theorem in_block_iff {n a b : Nat} (hn : 0 < n) : (a / n * n ≤ b ∧ b < a / n * n + n) ↔ b / n = a / n := by
  rw [Nat.div_eq_iff hn, Nat.mul_comm]
  constructor
  · rintro ⟨h1, h2⟩; constructor <;> omega
  · rintro ⟨h1, h2⟩; constructor <;> omega

theorem State.flash_block (s : State) {n : Nat} (hn : 0 < n) (a : Nat) (bs : List Byte) (hl : bs.length = n) (b : Nat) :
    (s.flashWrite (a / n * n) bs).flash b = if b / n = a / n then nth bs (b % n) 0 else s.flash b := by
  rw [State.flash_flashWrite, hl]
  by_cases h : b / n = a / n
  · have hb := (in_block_iff hn).2 h
    rw [if_pos hb, if_pos h, ← h]
    have hsub : b - b / n * n = b % n := by rw [Nat.mul_comm, Nat.mod_eq_sub]
    rw [hsub]
  · rw [if_neg h, if_neg fun hb => h ((in_block_iff hn).1 hb)]

/-- The flash has told that its operation is over. -/
def State.flashDone (s : State) : State := ({ s with boot := { s.boot with flashOp := none } } : State).put Reg.BOOT_FSTAT_BUSY 0 false

theorem State.flashDone_spec (s : State) : let t := s.flashDone
    t.on Reg.BOOT_FSTAT_BUSY 0 = false ∧ t.boot.flashOp = none ∧ t.boot.flash = s.boot.flash ∧ (∀ i, t.pageByte i = s.pageByte i)
      ∧ ∀ b, t.flash b = s.flash b :=
  ⟨State.on_put_same _ Reg.BOOT_FSTAT_BUSY 0 false (by decide), rfl, rfl, fun _ => rfl, fun _ => rfl⟩

theorem flashEnd_ok {s : State} {op a : Nat} (h : s.boot.flashOp = some (op, a)) (h1 : 1 ≤ op) (h3 : op ≤ 3) :
    ∃ t, exec (.flashOperationEnd true) s = .next t ∧ t.on Reg.BOOT_FSTAT_BUSY 0 = false ∧ t.boot.flashOp = none
      ∧ (op = 1 → ∀ b, t.flash b = (if b / 65536 = a / 65536 then 0xFF else s.flash b))
      ∧ (op = 2 → ∀ b, t.flash b = (if b / 256 = a / 256 then s.pageByte (b % 256) else s.flash b))
      ∧ (op = 3 → t.boot.flash = s.boot.flash ∧ t.rd Reg.BOOT_FDATA_D 0
          = (s.flash a).toNat + 256 * (s.flash (a + 1)).toNat + 65536 * (s.flash (a + 2)).toNat + 16777216 * (s.flash (a + 3)).toNat) := by
  obtain ⟨hbusy, hop, hflash, hpage, hbytes⟩ := s.flashDone_spec
  have hcases : op = 1 ∨ op = 2 ∨ op = 3 := by omega
  rcases hcases with rfl | rfl | rfl
  · have hex : exec (.flashOperationEnd true) s = .next (s.flashDone.flashWrite (a / 65536 * 65536) (List.replicate 65536 (0xFF#8 : Byte))) := by
      rw [exec_flashOperationEnd, execFlashOperationEnd, h]
      rfl
    refine ⟨_, hex, (State.on_flashWrite ..).trans hbusy, (State.flashOp_flashWrite ..).trans hop, fun _ b => ?_, fun h => absurd h (by decide), fun h => absurd h (by decide)⟩
    rw [State.flash_block _ (by decide) a _ List.length_replicate, hbytes]
    refine if_congr Iff.rfl ?_ rfl
    rw [nth, List.getElem?_replicate, if_pos (Nat.mod_lt _ (by decide))]
    rfl
  · have hex : exec (.flashOperationEnd true) s = .next (s.flashDone.flashWrite (a / 256 * 256) ((List.range 256).map s.flashDone.pageByte)) := by
      rw [exec_flashOperationEnd, execFlashOperationEnd, h]
      rfl
    refine ⟨_, hex, (State.on_flashWrite ..).trans hbusy, (State.flashOp_flashWrite ..).trans hop, fun h => absurd h (by decide), fun _ b => ?_, fun h => absurd h (by decide)⟩
    rw [State.flash_block _ (by decide) a _ (by rw [List.length_map, List.length_range]), hbytes, nth_map_range _ _ (Nat.mod_lt _ (by decide)),
      hpage]
  · have hex : exec (.flashOperationEnd true) s = .next (s.flashDone.wr Reg.BOOT_FDATA_D 0
        (leNat [s.flashDone.flash (a + 0), s.flashDone.flash (a + 1), s.flashDone.flash (a + 2), s.flashDone.flash (a + 3)])) := by
      rw [exec_flashOperationEnd, execFlashOperationEnd, h]
      rfl
    refine ⟨_, hex, (State.on_of_reg (State.reg_wr_other _ Reg.BOOT_FDATA_D 0 _ (by decide))).trans hbusy, ?_,
      fun h => absurd h (by decide), fun h => absurd h (by decide), fun _ => ⟨?_, ?_⟩⟩
    · rw [State.wr_boot, hop]
    · rw [State.wr_boot, hflash]
    · rw [State.rd_wr_same _ Reg.BOOT_FDATA_D 0 _ (by decide)]
      simp only [hbytes, leNat, Nat.add_zero]
      have h0 := (s.flash a).isLt
      have h1 := (s.flash (a + 1)).isLt
      have h2 := (s.flash (a + 2)).isLt
      have h3 := (s.flash (a + 3)).isLt
      rw [show Reg.BOOT_FDATA_D.span = 4294967296 from rfl, Nat.mod_eq_of_lt (by omega)]
      omega

theorem State.lostBytes_eq (s : State) (n : Nat) : ∃ bs : List Byte, bs.length = n ∧ s.lostBytes n = (bs, { s with free := s.free + 1 }) :=
  ⟨_, by rw [List.length_map, List.length_range], rfl⟩

theorem flashEnd_failed {s : State} {op a : Nat} (h : s.boot.flashOp = some (op, a)) (h1 : 1 ≤ op) (h3 : op ≤ 3) :
    ∃ t, exec (.flashOperationEnd false) s = .next t ∧ t.on Reg.BOOT_FSTAT_BUSY 0 = false ∧ t.on Reg.BOOT_FSTAT_ERR 0 = true
      ∧ t.boot.flashOp = none ∧ ∀ b, b / 65536 ≠ a / 65536 → t.flash b = s.flash b := by
  obtain ⟨hbusy, hop, _, _, hbytes⟩ := s.flashDone_spec
  have herr := s.flashDone.on_put_same Reg.BOOT_FSTAT_ERR 0 true (by decide)
  have hbusy' := (s.flashDone.on_raise_apart Reg.BOOT_FSTAT_ERR Reg.BOOT_FSTAT_BUSY 0 0 (by decide) (by decide)).trans hbusy
  have hboot : (s.flashDone.raise Reg.BOOT_FSTAT_ERR 0).boot = s.flashDone.boot := State.raise_boot ..
  change (s.flashDone.raise Reg.BOOT_FSTAT_ERR 0).on _ _ = true at herr
  obtain ⟨x, hx⟩ : ∃ x, x = s.flashDone.raise Reg.BOOT_FSTAT_ERR 0 := ⟨_, rfl⟩
  rw [← hx] at herr hbusy' hboot
  have hxbytes (b : Nat) : x.flash b = s.flash b := (State.flash_of_boot hboot b).trans (hbytes b)
  have hxop : x.boot.flashOp = none := hboot ▸ hop
  have block {n : Nat} (hn : 0 < n) (hd : n ∣ 65536)
      (hex : exec (.flashOperationEnd false) s = .next ((x.lostBytes n).2.flashWrite (a / n * n) (x.lostBytes n).1)) :
      ∃ t, exec (.flashOperationEnd false) s = .next t ∧ t.on Reg.BOOT_FSTAT_BUSY 0 = false ∧ t.on Reg.BOOT_FSTAT_ERR 0 = true
        ∧ t.boot.flashOp = none ∧ ∀ b, b / 65536 ≠ a / 65536 → t.flash b = s.flash b := by
    obtain ⟨bs, hlen, hlost⟩ := x.lostBytes_eq n
    rw [hlost] at hex
    refine ⟨_, hex, (State.on_flashWrite ..).trans hbusy', (State.on_flashWrite ..).trans herr, (State.flashOp_flashWrite ..).trans hxop,
      fun b hne => ?_⟩
    rw [State.flash_block _ hn a bs hlen, if_neg]
    · exact hxbytes b
    · intro he
      obtain ⟨k, hk⟩ := hd
      refine hne ?_
      rw [hk, ← Nat.div_div_eq_div_mul, ← Nat.div_div_eq_div_mul, he]
  have hcases : op = 1 ∨ op = 2 ∨ op = 3 := by omega
  rcases hcases with rfl | rfl | rfl
  · exact block (n := 65536) (by decide) (by decide) (by
      rw [hx, exec_flashOperationEnd, execFlashOperationEnd, h]
      simp only [Bool.false_eq_true, if_false]
      rfl)
  · exact block (n := 256) (by decide) (by decide) (by
      rw [hx, exec_flashOperationEnd, execFlashOperationEnd, h]
      simp only [Bool.false_eq_true, if_false]
      rfl)
  · have hex : exec (.flashOperationEnd false) s = .next ((x.lostBytes 4).2.wr Reg.BOOT_FDATA_D 0 (leNat (x.lostBytes 4).1)) := by
      rw [hx, exec_flashOperationEnd, execFlashOperationEnd, h]
      rfl
    obtain ⟨bs, _, hlost⟩ := x.lostBytes_eq 4
    rw [hlost] at hex
    obtain ⟨y, hy⟩ : ∃ y : State, y = { x with free := x.free + 1 } := ⟨_, rfl⟩
    have hyreg (a : Nat) : y.reg a = x.reg a := by rw [hy]; rfl
    have hyboot : y.boot = x.boot := by rw [hy]
    rw [← hy] at hex
    have hreg := y.reg_wr_other Reg.BOOT_FDATA_D 0 (leNat bs) (a := 0x3044) (by decide)
    have hboot' := (y.wr_boot Reg.BOOT_FDATA_D 0 (leNat bs)).trans hyboot
    generalize y.wr Reg.BOOT_FDATA_D 0 (leNat bs) = w at hex hreg hboot'
    have hreg' := hreg.trans (hyreg 0x3044)
    exact ⟨w, hex, (State.on_of_reg (f := Reg.BOOT_FSTAT_BUSY) (i := 0) hreg').trans hbusy',
      (State.on_of_reg (f := Reg.BOOT_FSTAT_ERR) (i := 0) hreg').trans herr, by rw [hboot', hxop],
      fun b _ => (State.flash_of_boot hboot' b).trans (hxbytes b)⟩

/-! ### Marks and freezes (R428, R431 to R434) -/

/-- The record of a write of a housekeeping register: the ring gains a record, and freezes stay. -/
theorem State.recorded_log (src : Source) {h : Hit} (a : Nat) (v : Word) (s : State) (hi : h.islandNo = 0) (hr : s.log.ring.length < 4096) :
    let t := s.recorded src h a v
    t.log.ring.length = s.log.ring.length + 1 ∧ t.log.cur = s.log.cur ∧ t.log.queued = s.log.queued := by
  dsimp only
  unfold State.recorded
  rw [hi]
  have hk := State.log_kept ((s.answer .ok).setReg a (s.written true h a v)) 0x81 0 true a v.toNat (srcNumber src) 0 s.lany hr
  rw [show State.logBy h.inst 0x81 0 a v.toNat (srcNumber src) 0 ((s.answer .ok).setReg a (s.written true h a v)) = _ from hk]
  exact ⟨rfl, rfl, rfl⟩

/-- LOG_MARK makes a record of its word. -/
theorem logMark_marks (src : Source) (v : Word) (s : State) (hm : 3 ≤ s.mode) (ho : s.classOpen .device = true)
    (hr : s.log.ring.length < 4094) (hl : s.notLate src 0x5004) :
    ∃ t r, exec (.logMark src v) s = .next t ∧ t.acc = .ok ∧ t.log.ring.head? = some r ∧ r.code = 0xF0 ∧ r.a0 = v.toNat ∧ r.t = s.lany
      ∧ t.rd Reg.LOG_SEQ_N 0 = r.lseq % 2 ^ 32 := by
  have hex : exec (.logMark src v) s = .next (((s.recorded src logMarkHit 0x5004 v).markLog v.toNat (srcNumber src)).noteWrite src 0x5004) :=
    congrArg Host.Outcome.next (State.writeReg_guarded_open src v hm lookup_logMark rfl (by decide) rfl ho (.inr hl))
  obtain ⟨hlen, _, _⟩ := s.recorded_log src (h := logMarkHit) 0x5004 v rfl (by omega)
  have hu := s.recorded_spec src logMarkHit 0x5004 v
  generalize s.recorded src logMarkHit 0x5004 v = u at hu hex hlen
  have hk : u.markLog v.toNat (srcNumber src) = _ := u.log_kept 0xF0 0 true v.toNat (srcNumber src) 0 0 u.lany (by omega)
  rw [hk] at hex
  generalize hx : ({ u with log := _ } : State) = x at hex
  have hxacc : x.acc = .ok := by rw [← hx]; exact hu.acc
  have hring : x.log.ring.head? = some ⟨u.lany, u.log.next, 0xF0, 0, true, v.toNat, srcNumber src, 0, 0⟩ := by rw [← hx]; rfl
  have hseq := x.rd_wr_same Reg.LOG_SEQ_N 0 u.log.next (by decide)
  have hacc := x.wr_acc Reg.LOG_SEQ_N 0 u.log.next
  have hlog := x.wr_log Reg.LOG_SEQ_N 0 u.log.next
  generalize x.wr Reg.LOG_SEQ_N 0 u.log.next = w at hex hseq hacc hlog
  exact ⟨_, _, hex, hacc.trans hxacc, (congrArg (fun l => List.head? (LogSt.ring l)) hlog).trans hring, rfl, rfl, hu.lany, hseq⟩

theorem State.on_freezeFlags (s : State) : s.freezeFlags.on Reg.LOG_STAT_FBUSY 0 = s.log.cur.isSome := by
  unfold State.freezeFlags
  rw [State.on_put_apart _ Reg.LOG_STAT_QUEUED Reg.LOG_STAT_FBUSY 0 0 _ (by decide) (by decide)]
  exact s.on_put_same Reg.LOG_STAT_FBUSY 0 _ (by decide)

/-- LOG_CMD.FREEZE asks for a freeze at the record it makes. -/
theorem logCmdFreeze_asks (src : Source) (s : State) (hm : 3 ≤ s.mode) (ho : s.classOpen .device = true)
    (hr : s.log.ring.length < 4094) (hc : s.log.cur = none) :
    ∃ t f, exec (.logCmdFreeze src) s = .next t ∧ t.acc = .ok ∧ t.log.cur = some f ∧ f.cause = 4 ∧ f.begun = none
        ∧ f.point + 1 = t.log.next ∧ t.on Reg.LOG_STAT_FBUSY 0 = true := by
  have hex : exec (.logCmdFreeze src) s = .next ((s.recorded src logCmdHit 0x5000 1).freezeCmd.noteWrite src 0x5000) :=
    congrArg Host.Outcome.next (State.writeReg_guarded_open src 1 hm lookup_logCmd rfl (by decide) rfl ho (.inl rfl))
  obtain ⟨hlen, hcur, _⟩ := s.recorded_log src (h := logCmdHit) 0x5000 1 rfl (by omega)
  have hu := s.recorded_spec src logCmdHit 0x5000 1
  generalize s.recorded src logCmdHit 0x5000 1 = u at hu hex hlen hcur
  have hfreeze : u.freezeCmd = (u.log_ 0x90 0 true 4 0 0 2 u.lany).askFreeze 4 := rfl
  have hk := u.log_kept 0x90 0 true 4 0 0 2 u.lany (by omega)
  rw [hfreeze, hk] at hex
  generalize hw : State.wr _ Reg.LOG_SEQ_N 0 u.log.next = w at hex
  have hwcur : w.log.cur = none := by rw [← hw, State.wr_log]; exact hcur.trans hc
  have hwnext : w.log.next = u.log.next + 1 := by rw [← hw, State.wr_log]
  have hwacc : w.acc = .ok := by rw [← hw, State.wr_acc]; exact hu.acc
  have hask : w.askFreeze 4 = State.freezeFlags { w with log := { w.log with cur := some ⟨w.log.next - 1, 4, 1024, none, none⟩ } } := by
    unfold State.askFreeze
    dsimp only
    rw [hwcur]
  rw [hask] at hex
  refine ⟨_, _, hex, hwacc, rfl, rfl, rfl, ?_, ?_⟩
  · change w.log.next - 1 + 1 = w.log.next
    omega
  · exact (State.on_noteWrite ..).trans (State.on_freezeFlags _)

/-! ### Slots (R434) -/

/-- How a slot ranks: an invalid one first, then by FSEQ. -/
def slotKey (slots : List (Option Slot)) (k : Nat) : Nat :=
  match nth slots k none with
  | none => 0
  | some x => x.fseq + 1

theorem pickSlot_least (slots : List (Option Slot)) : pickSlot slots < 4 ∧ ∀ j, j < 4 → slotKey slots (pickSlot slots) ≤ slotKey slots j := by
  have fold (n b : Nat) : let m := (List.range n).foldl (fun b k => if slotKey slots k < slotKey slots b then k else b) b
      (m < n ∨ m = b) ∧ slotKey slots m ≤ slotKey slots b ∧ ∀ j, j < n → slotKey slots m ≤ slotKey slots j := by
    induction n with
    | zero => exact ⟨.inr rfl, Nat.le_refl _, fun j h => absurd h (Nat.not_lt_zero j)⟩
    | succ n ih =>
      obtain ⟨h1, h2, h3⟩ := ih
      rw [List.range_succ, List.foldl_append, List.foldl_cons, List.foldl_nil]
      generalize (List.range n).foldl _ b = m at h1 h2 h3 ⊢
      dsimp only
      split
      case isTrue h =>
        exact ⟨.inl (Nat.lt_succ_self n), by omega, fun j hj => (Nat.lt_succ_iff_lt_or_eq.1 hj).elim (fun hj => by have := h3 j hj; omega)
          fun hj => hj ▸ Nat.le_refl _⟩
      case isFalse h =>
        exact ⟨h1.imp_left Nat.lt_succ_of_lt, h2, fun j hj => (Nat.lt_succ_iff_lt_or_eq.1 hj).elim (h3 j) fun hj => hj ▸ Nat.not_lt.1 h⟩
  obtain ⟨h1, _, h3⟩ := fold 4 0
  exact ⟨h1.elim id fun h => lt_of_eq_of_lt h (by decide), h3⟩

theorem State.mram_showSlots (s : State) : s.showSlots.mram = s.mram ∧ s.showSlots.log = s.log := by
  obtain ⟨_, _, h⟩ := s.showSlots_at
  rw [h]
  exact ⟨rfl, rfl⟩

theorem freezeBegin_begins {s : State} {f : Freeze} (hc : s.log.cur = some f) (hb : f.begun = none) (hu : f.useSlot = none)
    (hcommit : s.commit = none) (hl : s.mram.slots.length = 4) :
    ∃ t k, exec .freezeBegin s = .next t ∧ k < 4 ∧ t.log.cur = some { f with begun := some (k, s.mram.fseq + 1) } ∧ t.mram.fseq = s.mram.fseq + 1
      ∧ nth t.mram.slots k none = none ∧ (∀ j, j ≠ k → nth t.mram.slots j none = nth s.mram.slots j none)
      ∧ ∀ j x, j < 4 → nth s.mram.slots k none = some x → ∃ y, nth s.mram.slots j none = some y ∧ x.fseq ≤ y.fseq := by
  obtain ⟨hlt, hleast⟩ := pickSlot_least s.mram.slots
  generalize hk : pickSlot s.mram.slots = k at hlt hleast
  have hex : exec .freezeBegin s = .next (let n := s.mram.fseq + 1
      let u : State := { s with mram := s.mram.setCtr { s.mram.ctr with fseq := n }, log := { s.log with cur := some { f with begun := some (k, n) } } }
      u.setSlot k none) := by
    rw [exec_freezeBegin, execFreezeBegin, hc]
    refine congrArg Host.Outcome.next ((if_neg ?_).trans ?_)
    · rw [hb, hcommit]
      simp
    · rw [hu, Option.getD_none, hk]
  refine ⟨_, k, hex, hlt, ?_, ?_, ?_, fun j hj => ?_, fun j x hj hx => ?_⟩
  · dsimp only
    unfold State.setSlot
    rw [(State.mram_showSlots _).2]
  · dsimp only
    unfold State.setSlot
    rw [(State.mram_showSlots _).1]
    change (Mram.ctr _).fseq = _
    exact congrArg Counters.fseq (Mram.ctr_setCtr _ s.mram)
  · dsimp only
    unfold State.setSlot
    rw [(State.mram_showSlots _).1]
    exact nth_set_self (hl ▸ hlt)
  · dsimp only
    unfold State.setSlot
    rw [(State.mram_showSlots _).1]
    change nth (s.mram.slots.set k none) j none = _
    rw [nth, nth, List.getElem?_set_ne (Ne.symm hj)]
  · have hle := hleast j hj
    unfold slotKey at hle
    rw [hx] at hle
    cases hy : nth s.mram.slots j none with
    | none => rw [hy] at hle; dsimp only at hle; omega
    | some y => rw [hy] at hle; dsimp only at hle; exact ⟨y, rfl, by omega⟩

theorem State.Logged.mram {s t : State} (h : s.Logged t) : t.mram = s.mram := by
  obtain ⟨_, _, _, _, _, h, _⟩ := h
  rw [h]

theorem State.endProtection_next (s : State) : let t := s.endProtection
    t.mram = s.mram ∧ t.log.cur = s.log.queued ∧ t.log.queued = none := by
  dsimp only
  unfold State.endProtection
  dsimp only
  obtain ⟨u, hu⟩ : ∃ u, u = State.freezeFlags { s with log := { s.log with cur := s.log.queued, queued := none, dropped := 0 } } := ⟨_, rfl⟩
  have hmram : u.mram = s.mram := by rw [hu]; rfl
  have hcur : u.log.cur = s.log.queued := by rw [hu]; rfl
  have hqueued : u.log.queued = none := by rw [hu]; rfl
  rw [← hu]
  split
  · exact ⟨hmram, hcur, hqueued⟩
  · obtain ⟨h1, h2⟩ := u.freezes_log_ 0x91 0 true s.log.dropped 0 0 0 u.lany
    exact ⟨(u.logged_logBy 0 0x91 0 s.log.dropped 0 0 0).mram.trans hmram, h1.trans hcur, h2.trans hqueued⟩

theorem State.freezeRecord_rest (s : State) (f : Freeze) (b : Bool) : let t := s.freezeRecord f b
    t.mram = s.mram ∧ t.log.cur = s.log.cur ∧ t.log.queued = s.log.queued := by
  dsimp only
  unfold State.freezeRecord
  exact ⟨(s.logged_logBy ..).mram, s.freezes_log_ ..⟩

theorem freezeEnd_ends {s : State} {f : Freeze} {k n : Nat} (hc : s.log.cur = some f) (hb : f.begun = some (k, n)) (hk : k < 4)
    (hl : s.mram.slots.length = 4) :
    ∃ t x, exec .freezeEnd s = .next t ∧ nth t.mram.slots k none = some x ∧ x.fseq = n ∧ x.cause = f.cause ∧ x.lseq = f.point
      ∧ x.recs = s.log.ring.filter (fun r => decide (f.point < r.lseq + f.count ∧ r.lseq ≤ f.point)) ∧ t.log.cur = s.log.queued ∧ t.log.queued = none := by
  obtain ⟨recs, hrecs⟩ : ∃ recs, recs = s.log.ring.filter fun r => f.covers r.lseq := ⟨_, rfl⟩
  obtain ⟨x, hx⟩ : ∃ x : Slot, x = ⟨n, s.mram.incarn, f.cause, ((recs.find? fun r => r.lseq = f.point).map (·.t)).getD 0, f.point, recs⟩ := ⟨_, rfl⟩
  have hex : exec .freezeEnd s = .next (((s.setSlot k (some x)).endProtection).freezeRecord f false) := by
    rw [exec_freezeEnd, execFreezeEnd, hc]
    dsimp only
    rw [hb, hx, hrecs]
  obtain ⟨hmram, hcur, hqueued⟩ := (s.setSlot k (some x)).endProtection.freezeRecord_rest f false
  obtain ⟨hpmram, hpcur, hpqueued⟩ := (s.setSlot k (some x)).endProtection_next
  have hslots : (s.setSlot k (some x)).mram.slots = s.mram.slots.set k (some x) := by
    unfold State.setSlot
    rw [(State.mram_showSlots _).1]
  have hlog : (s.setSlot k (some x)).log = s.log := by
    unfold State.setSlot
    rw [(State.mram_showSlots _).2]
  refine ⟨_, x, hex, ?_, by rw [hx], by rw [hx], by rw [hx], ?_, by rw [hcur, hpcur, hlog], by rw [hqueued, hpqueued]⟩
  · rw [hmram, hpmram, hslots]
    exact nth_set_self (hl ▸ hk)
  · rw [hx, hrecs]
    refine List.filter_congr fun r _ => ?_
    unfold Freeze.covers
    rw [Bool.decide_and]

theorem freezeBegin_waits {s : State} (h : ∀ f, s.log.cur = some f → f.begun.isSome = true) : exec .freezeBegin s = .next s := by
  rw [exec_freezeBegin, execFreezeBegin]
  refine congrArg Host.Outcome.next ?_
  cases hc : s.log.cur with
  | none => rfl
  | some f => exact if_pos (by rw [h f hc]; rfl)

theorem freezeEnd_waits {s : State} (h : ∀ f, s.log.cur = some f → f.begun = none) : exec .freezeEnd s = .next s := by
  rw [exec_freezeEnd, execFreezeEnd]
  refine congrArg Host.Outcome.next ?_
  cases hc : s.log.cur with
  | none => rfl
  | some f => dsimp only; rw [h f hc]

/-! ### Die temperatures (R449) -/

/-- One die's temperature is shown, and its HOT bit. -/
def State.dieTemp (t : List Half) (k : Nat) (s : State) : State :=
  let x := nth t k 0
  let u := s.wr (Reg.GLOBAL_TEMP_T k) 0 x.toNat
  if wrapInt 16 (u.rd Reg.GLOBAL_TLIM_LIM 0) ≤ x.toInt then u.raiseBit Reg.GLOBAL_TSTAT_HOT 0 k else u

theorem execTempMeasure_eq {s : State} (t : List Half) (hm : 3 ≤ s.mode) :
    exec (.tempMeasure t) s = .next ((s.put Reg.GLOBAL_TSTAT_VALID 0 true).each (List.range 6) fun k s => s.dieTemp t k) := by
  have h3 : ¬ s.mode < 3 := by omega
  rw [exec_tempMeasure, execTempMeasure, if_neg h3]
  rfl

/-- What one die's temperature changes. -/
theorem State.dieTemp_step (s : State) (t : List Half) {k : Nat} (hk : k < 6) : let u := s.dieTemp t k
    u.rd (Reg.GLOBAL_TEMP_T k) 0 = (nth t k 0).toNat
      ∧ (∀ j, j ≠ k → u.rd (Reg.GLOBAL_TEMP_T j) 0 = s.rd (Reg.GLOBAL_TEMP_T j) 0)
      ∧ u.rd Reg.GLOBAL_TLIM_LIM 0 = s.rd Reg.GLOBAL_TLIM_LIM 0 ∧ u.on Reg.GLOBAL_TSTAT_VALID 0 = s.on Reg.GLOBAL_TSTAT_VALID 0
      ∧ (∀ j, u.bit Reg.GLOBAL_TSTAT_HOT 0 j = (s.bit Reg.GLOBAL_TSTAT_HOT 0 j
          || decide (j = k ∧ s.rdInt Reg.GLOBAL_TLIM_LIM 0 ≤ (nth t k 0).toInt)))
      ∧ { u with regs := s.regs, raised := s.raised } = s := by
  dsimp only
  unfold State.dieTemp
  dsimp only
  have haddr (f : Field) (j : Nat) (hf : f.addr 0 < 0x20) : f.addr 0 ≠ (Reg.GLOBAL_TEMP_T j).addr 0 := by
    change f.addr 0 ≠ 0x20 + 4 * j + 0 * 0
    omega
  have hx : (nth t k 0).toNat < 65536 := (nth t k 0).isLt
  have hsame := s.rd_wr_same (Reg.GLOBAL_TEMP_T k) 0 (nth t k 0).toNat rfl
  have hother (j : Nat) (hj : j ≠ k) := s.rd_wr_addr (Reg.GLOBAL_TEMP_T k) (Reg.GLOBAL_TEMP_T j) 0 0 (nth t k 0).toNat (by
    change 0x20 + 4 * j + 0 * 0 ≠ 0x20 + 4 * k + 0 * 0
    omega)
  have hreg (f : Field) (hf : f.addr 0 < 0x20) := s.reg_wr_other (Reg.GLOBAL_TEMP_T k) 0 (nth t k 0).toNat (haddr f k hf)
  have hform : { s.wr (Reg.GLOBAL_TEMP_T k) 0 (nth t k 0).toNat with regs := s.regs, raised := s.raised } = s := by
    simp only [State.wr, State.setReg]
  generalize s.wr (Reg.GLOBAL_TEMP_T k) 0 (nth t k 0).toNat = u at hsame hother hreg hform ⊢
  have hsame := hsame.trans (Nat.mod_eq_of_lt hx)
  have hlim : u.rd Reg.GLOBAL_TLIM_LIM 0 = s.rd Reg.GLOBAL_TLIM_LIM 0 := State.rd_of_reg (hreg Reg.GLOBAL_TLIM_LIM (by decide))
  have hstat := hreg Reg.GLOBAL_TSTAT_VALID (by decide)
  have hbit (j : Nat) : u.bit Reg.GLOBAL_TSTAT_HOT 0 j = s.bit Reg.GLOBAL_TSTAT_HOT 0 j :=
    State.bit_of_rd (State.rd_of_reg (f := Reg.GLOBAL_TSTAT_HOT) (i := 0) hstat) j
  have hcond : wrapInt 16 (u.rd Reg.GLOBAL_TLIM_LIM 0) ≤ (nth t k 0).toInt ↔ s.rdInt Reg.GLOBAL_TLIM_LIM 0 ≤ (nth t k 0).toInt := by
    rw [hlim]
    rfl
  by_cases hc : wrapInt 16 (u.rd Reg.GLOBAL_TLIM_LIM 0) ≤ (nth t k 0).toInt
  · rw [if_pos hc]
    have htemp (j : Nat) : (u.raiseBit Reg.GLOBAL_TSTAT_HOT 0 k).rd (Reg.GLOBAL_TEMP_T j) 0 = u.rd (Reg.GLOBAL_TEMP_T j) 0 :=
      State.rd_of_reg (u.reg_raiseBit_other Reg.GLOBAL_TSTAT_HOT 0 k (haddr Reg.GLOBAL_TSTAT_HOT j (by decide)).symm)
    refine ⟨(htemp k).trans hsame, fun j hj => (htemp j).trans (hother j hj),
      (State.rd_of_reg (u.reg_raiseBit_other Reg.GLOBAL_TSTAT_HOT 0 k (by decide))).trans hlim,
      (State.on_of_rd (u.rd_raiseBit_apart Reg.GLOBAL_TSTAT_HOT Reg.GLOBAL_TSTAT_VALID 0 0 k (by decide) (by decide))).trans
        (State.on_of_reg (f := Reg.GLOBAL_TSTAT_VALID) (i := 0) hstat), fun j => ?_, ?_⟩
    · rw [u.bit_raiseBit Reg.GLOBAL_TSTAT_HOT 0 k j (by decide) hk, hbit]
      congr 1
      exact decide_eq_decide.2 ⟨fun h => ⟨h, hcond.1 hc⟩, And.left⟩
    · rw [← hform]
      simp only [State.raiseBit, State.putBit, State.noteRaised, State.wr, State.setReg]
  · rw [if_neg hc]
    refine ⟨hsame, hother, hlim, State.on_of_reg (f := Reg.GLOBAL_TSTAT_VALID) (i := 0) hstat, fun j => ?_, hform⟩
    rw [hbit, decide_eq_false fun h => hc (hcond.2 h.2), Bool.or_false]

/-- What the temperatures of the first `n` dies bring about. -/
structure State.TempsOf (t : List Half) (n : Nat) (s u : State) : Prop where
  temp : ∀ k, k < n → u.rd (Reg.GLOBAL_TEMP_T k) 0 = (nth t k 0).toNat
  lim : u.rd Reg.GLOBAL_TLIM_LIM 0 = s.rd Reg.GLOBAL_TLIM_LIM 0
  valid : u.on Reg.GLOBAL_TSTAT_VALID 0 = s.on Reg.GLOBAL_TSTAT_VALID 0
  hot : ∀ k, u.bit Reg.GLOBAL_TSTAT_HOT 0 k = (s.bit Reg.GLOBAL_TSTAT_HOT 0 k
    || decide (k < n ∧ s.rdInt Reg.GLOBAL_TLIM_LIM 0 ≤ (nth t k 0).toInt))
  form : { u with regs := s.regs, raised := s.raised } = s

theorem State.tempsOf_each (s : State) (t : List Half) {n : Nat} (hn : n ≤ 6) :
    s.TempsOf t n (s.each (List.range n) fun k s => s.dieTemp t k) := by
  induction n with
  | zero => exact ⟨fun k hk => absurd hk (Nat.not_lt_zero k), rfl, rfl, fun k => by simp [State.each], by simp [State.each]⟩
  | succ n ih =>
    have hsplit : s.each (List.range (n + 1)) (fun k s => s.dieTemp t k) = (s.each (List.range n) fun k s => s.dieTemp t k).dieTemp t n := by
      unfold State.each
      rw [List.range_succ, List.foldl_append, List.foldl_cons, List.foldl_nil]
    rw [hsplit]
    obtain ⟨htemp, hlim, hvalid, hhot, hform⟩ := ih (by omega)
    generalize s.each (List.range n) (fun k s => s.dieTemp t k) = u at htemp hlim hvalid hhot hform ⊢
    obtain ⟨h1, h2, h3, h4, h5, h6⟩ := u.dieTemp_step t (show n < 6 by omega)
    have hint : u.rdInt Reg.GLOBAL_TLIM_LIM 0 = s.rdInt Reg.GLOBAL_TLIM_LIM 0 := congrArg (fun n : Nat => wrapInt 16 n) hlim
    refine ⟨fun k hk => ?_, h3.trans hlim, h4.trans hvalid, fun k => ?_, ?_⟩
    · by_cases hkn : k = n
      · rw [hkn]; exact h1
      · exact (h2 k hkn).trans (htemp k (by omega))
    · rw [h5, hhot, hint, Bool.or_assoc, ← Bool.decide_or]
      congr 1
      refine decide_eq_decide.2 ⟨?_, fun ⟨hk, hle⟩ => ?_⟩
      · rintro (⟨hk, hle⟩ | ⟨rfl, hle⟩)
        · exact ⟨by omega, hle⟩
        · exact ⟨Nat.lt_succ_self _, hle⟩
      · by_cases hkn : k = n
        · exact .inr ⟨hkn, hkn ▸ hle⟩
        · exact .inl ⟨by omega, hle⟩
    · rw [← h6] at hform
      exact hform

theorem tempMeasure_shows (x : List Half) (s : State) (hm : 3 ≤ s.mode) : ∃ t, exec (.tempMeasure x) s = .next t
      ∧ t.on Reg.GLOBAL_TSTAT_VALID 0 = true
      ∧ { t with regs := s.regs, raised := s.raised } = s ∧ ∀ k, k < 6 → t.rd (Reg.GLOBAL_TEMP_T k) 0 = (nth x k 0).toNat
          ∧ t.bit Reg.GLOBAL_TSTAT_HOT 0 k = (s.bit Reg.GLOBAL_TSTAT_HOT 0 k || decide (s.rdInt Reg.GLOBAL_TLIM_LIM 0 ≤ (nth x k 0).toInt)) := by
  refine ⟨_, execTempMeasure_eq x hm, ?_⟩
  have hvalid := s.on_put_same Reg.GLOBAL_TSTAT_VALID 0 true (by decide)
  have hlim : (s.put Reg.GLOBAL_TSTAT_VALID 0 true).rdInt Reg.GLOBAL_TLIM_LIM 0 = s.rdInt Reg.GLOBAL_TLIM_LIM 0 :=
    congrArg (fun n : Nat => wrapInt 16 n) (s.rd_wr_addr Reg.GLOBAL_TSTAT_VALID Reg.GLOBAL_TLIM_LIM 0 0 _ (by decide))
  have hbit (k : Nat) : (s.put Reg.GLOBAL_TSTAT_VALID 0 true).bit Reg.GLOBAL_TSTAT_HOT 0 k = s.bit Reg.GLOBAL_TSTAT_HOT 0 k :=
    State.bit_of_rd (s.rd_wr_apart Reg.GLOBAL_TSTAT_VALID Reg.GLOBAL_TSTAT_HOT 0 0 _ (by decide) (by decide)) k
  have hform : { s.put Reg.GLOBAL_TSTAT_VALID 0 true with regs := s.regs, raised := s.raised } = s := by
    simp only [State.put, State.wr, State.setReg]
  generalize s.put Reg.GLOBAL_TSTAT_VALID 0 true = p at hvalid hlim hbit hform ⊢
  obtain ⟨htemp, _, hv, hhot, hf⟩ := p.tempsOf_each x (Nat.le_refl 6)
  refine ⟨hv.trans hvalid, ?_, fun k hk => ⟨htemp k hk, ?_⟩⟩
  · rw [← hf] at hform
    exact hform
  · rw [hhot, hbit, hlim]
    congr 1
    exact decide_eq_decide.2 ⟨And.right, fun h => ⟨hk, h⟩⟩

/-! ### The statement -/

/-- Settles O55: each command by its own lemma. -/
theorem flashAndLog : Obligations.FlashAndLog :=
  ⟨fun src op s h1 h3 hm ho hl => flashOp_starts src op s h1 h3 hm ho hl,
    fun src op v s h1 h3 hm ho => guarded_locked src op v s h1 h3 hm ho, fun src v s hm ho _ => fdataWrite_fills src v s hm ho,
    fun ok s h => by rw [exec_flashOperationEnd, execFlashOperationEnd, h],
    fun s op a h h1 h3 => ⟨flashEnd_ok h h1 h3, flashEnd_failed h h1 h3⟩,
    fun src v s hm ho hr => ⟨logMark_marks src v s hm ho hr, logCmdFreeze_asks src s hm ho hr⟩,
    fun s f hc hb hu hcommit hl => freezeBegin_begins hc hb hu hcommit hl, fun s => freezeBegin_waits,
    fun s f k n hc hb hk hl => freezeEnd_ends hc hb hk hl, fun s => freezeEnd_waits, fun x s _ hm => tempMeasure_shows x s hm⟩

end Sys2Proof.Machine
end
-- ==== Sys2Proof/Proofs/MaintenanceLock.lean ====
section
/-! The maintenance lock: its operations, failures and lockout, the opening timeout and the nonce (R439 to R442, Table 18.8). -/

namespace Sys2Proof.Machine

/-! ### Closing and opening -/

theorem State.Logged.rd {s t : State} (h : s.Logged t) (f : Field) (hl : outsideLog (f.addr 0)) : t.rd f 0 = s.rd f 0 :=
  State.rd_of_reg (h.reg hl)

theorem State.Logged.on {s t : State} (h : s.Logged t) (f : Field) (hl : outsideLog (f.addr 0)) : t.on f 0 = s.on f 0 :=
  State.on_of_reg (h.reg hl)

theorem State.Logged.lock {s t : State} (h : s.Logged t) : t.lock = s.lock := by
  obtain ⟨_, _, _, _, _, h, _⟩ := h
  rw [h]

theorem State.logged_lockLog (s : State) (what src means : Nat) : s.Logged (s.lockLog what src means) := by
  unfold State.lockLog
  exact s.logged_logBy ..

/-- The registers of the lock's level follow the opener. -/
theorem State.lockFlags_step (s : State) : let t := s.lockFlags
    t.on Reg.LOCK_STAT_OPEN 0 = (s.rd Reg.LOCK_STAT_SRC 0 != 0 || decide (s.rd Reg.LOCK_CFG_LEVEL 0 = 0 ∧ s.rd Reg.LOCK_CFG_FLOOR 0 = 0))
      ∧ s.Fields [Reg.LOCK_STAT_LEVEL, Reg.LOCK_STAT_OPEN] t ∧ t.mram = s.mram ∧ t.lock = s.lock := by
  dsimp only
  unfold State.lockFlags
  dsimp only
  refine ⟨?_, (State.Fields.wr s Reg.LOCK_STAT_LEVEL _ (by decide) List.mem_cons_self).trans
    (.put _ Reg.LOCK_STAT_OPEN _ (by decide) (List.mem_cons_of_mem _ (List.mem_singleton_self _))),
    by rw [State.put_mram, State.wr_mram], by rw [State.put_lock, State.wr_lock]⟩
  rw [State.on_put_same _ Reg.LOCK_STAT_OPEN 0 _ (by decide)]
  congr 1
  exact decide_eq_decide.2 ⟨fun h => by omega, fun h => by omega⟩

/-- The lock has closed, as far as the levels let it. -/
def State.lockShut (t : State) : Prop :=
  t.rd Reg.LOCK_STAT_SRC 0 = 0
    ∧ t.on Reg.LOCK_STAT_OPEN 0 = decide (t.rd Reg.LOCK_CFG_LEVEL 0 = 0 ∧ t.rd Reg.LOCK_CFG_FLOOR 0 = 0)

/-- Fields of LOCK_STAT that opening and closing change. -/
def openFields : List Field := [Reg.LOCK_STAT_SRC, Reg.LOCK_STAT_LEVEL, Reg.LOCK_STAT_OPEN]

theorem State.Fields.mono {fs gs : List Field} {s t : State} (h : s.Fields fs t) (hs : fs ⊆ gs) : s.Fields gs t :=
  fun g hg hl => h g (List.all_eq_true.2 fun f hf => List.all_eq_true.1 hg f (hs hf)) hl

theorem State.lockClose_shuts {s : State} (src : Nat) (h : s.rd Reg.LOCK_STAT_SRC 0 ≠ 0) : (s.lockClose src).lockShut
    ∧ s.Fields openFields (s.lockClose src) := by
  unfold State.lockClose
  rw [if_neg h]
  have hsrc := s.rd_wr_same Reg.LOCK_STAT_SRC 0 0 (by decide)
  have hwr : s.Fields openFields (s.wr Reg.LOCK_STAT_SRC 0 0) := .wr s Reg.LOCK_STAT_SRC 0 (by decide) List.mem_cons_self
  generalize s.wr Reg.LOCK_STAT_SRC 0 0 = u at hsrc hwr ⊢
  obtain ⟨hopen, hf, _, _⟩ := u.lockFlags_step
  generalize u.lockFlags = v at hopen hf ⊢
  have hlog := v.logged_lockLog 1 src 2
  have hsrc' : u.rd Reg.LOCK_STAT_SRC 0 = 0 := hsrc
  rw [hsrc', ← hf.rd Reg.LOCK_CFG_LEVEL (by decide) (by decide), ← hf.rd Reg.LOCK_CFG_FLOOR (by decide) (by decide)] at hopen
  refine ⟨⟨(hlog.rd Reg.LOCK_STAT_SRC (by decide)).trans ((hf.rd Reg.LOCK_STAT_SRC (by decide) (by decide)).trans hsrc'), ?_⟩,
    hwr.trans ((hf.mono (by decide)).trans (.logged hlog))⟩
  rw [hlog.on Reg.LOCK_STAT_OPEN (by decide), hlog.rd Reg.LOCK_CFG_LEVEL (by decide), hlog.rd Reg.LOCK_CFG_FLOOR (by decide)]
  exact hopen

theorem Mram.fails_setCtr (c : Counters) (m : Mram) : (m.setCtr c).fails = c.fails := congrArg Counters.fails (Mram.ctr_setCtr c m)

theorem Mram.lockout_setCtr (c : Counters) (m : Mram) : (m.setCtr c).lockout = c.lockout := congrArg Counters.lockout (Mram.ctr_setCtr c m)

/-- The count of failures, in its register and in MRAM. -/
theorem State.setFails_step (s : State) {n : Nat} (hn : n < 8) : let t := s.setFails n
    t.rd Reg.LOCK_STAT_FAILS 0 = n ∧ t.mram.fails = n ∧ t.mram.lockout = s.mram.lockout ∧ t.lock = s.lock ∧ s.Fields [Reg.LOCK_STAT_FAILS] t := by
  dsimp only
  unfold State.setFails
  refine ⟨(State.rd_wr_same _ Reg.LOCK_STAT_FAILS 0 n (by decide)).trans (Nat.mod_eq_of_lt hn), ?_, ?_, State.wr_lock ..,
    .trans (.of_regs rfl) (.wr _ Reg.LOCK_STAT_FAILS n (by decide) (List.mem_singleton_self _))⟩
  · rw [State.wr_mram]
    exact Mram.fails_setCtr _ s.mram
  · rw [State.wr_mram]
    exact Mram.lockout_setCtr _ s.mram

/-- The remaining lockout time, in its register and in MRAM. -/
theorem State.setLout_step (s : State) {n : Nat} (hn : n < 1024) : let t := s.setLout n
    t.rd Reg.LOCK_LOUT_SEC 0 = n ∧ t.mram.lockout = n ∧ t.mram.fails = s.mram.fails ∧ s.Fields [Reg.LOCK_LOUT_SEC] t
      ∧ ∀ a, a ≠ Reg.LOCK_LOUT_SEC.addr 0 → t.reg a = s.reg a := by
  dsimp only
  unfold State.setLout
  refine ⟨(State.rd_wr_same _ Reg.LOCK_LOUT_SEC 0 n (by decide)).trans (Nat.mod_eq_of_lt hn), ?_, ?_,
    .trans (.of_regs rfl) (.wr _ Reg.LOCK_LOUT_SEC n (by decide) (List.mem_singleton_self _)),
    fun a ha => State.reg_wr_other _ Reg.LOCK_LOUT_SEC 0 n ha⟩
  · rw [State.wr_mram]
    exact Mram.lockout_setCtr _ s.mram
  · rw [State.wr_mram]
    exact Mram.fails_setCtr _ s.mram

/-- Opened by `src` in session `n`. -/
def State.lockOpened (src : Source) (n : Nat) (s t : State) : Prop :=
  t.on Reg.LOCK_STAT_OPEN 0 = true ∧ t.rd Reg.LOCK_STAT_SRC 0 = srcNumber src
    ∧ t.rd Reg.LOCK_STAT_FAILS 0 = 0 ∧ t.mram.fails = 0 ∧ t.lock.session = n ∧ t.rd Reg.LOCK_LOUT_SEC 0 = s.rd Reg.LOCK_LOUT_SEC 0

theorem State.lockOpen_opens (s : State) {src : Source} (n means : Nat) (hs : src = .host ∨ src = .hawser ∨ src = .uart) :
    s.lockOpened src n (s.lockOpen src n means) ∧ (s.lockOpen src n means).lock.nonce = s.lock.nonce := by
  have hnum : srcNumber src ≠ 0 ∧ srcNumber src < 4 := by rcases hs with rfl | rfl | rfl <;> decide
  obtain ⟨p, hp⟩ : ∃ p : State, p = { s with lock := { s.lock with session := n } } := ⟨_, rfl⟩
  have hpregs : p.regs = s.regs := by rw [hp]
  have heq : s.lockOpen src n means = (((p.wr Reg.LOCK_STAT_SRC 0 (srcNumber src)).lockFlags).setFails 0).lockLog 0 (srcNumber src) means := by
    rw [hp]; rfl
  rw [heq]
  have hsrc := (p.rd_wr_same Reg.LOCK_STAT_SRC 0 (srcNumber src) (by decide)).trans (Nat.mod_eq_of_lt hnum.2)
  have hwr : p.Fields [Reg.LOCK_STAT_SRC] (p.wr Reg.LOCK_STAT_SRC 0 (srcNumber src)) := .wr p _ _ (by decide) (List.mem_singleton_self _)
  have hlock := p.wr_lock Reg.LOCK_STAT_SRC 0 (srcNumber src)
  generalize p.wr Reg.LOCK_STAT_SRC 0 (srcNumber src) = u at hsrc hwr hlock ⊢
  obtain ⟨hopen, hf, _, hflock⟩ := u.lockFlags_step
  rw [hsrc, bne_iff_ne.2 hnum.1, Bool.true_or] at hopen
  generalize u.lockFlags = v at hopen hf hflock ⊢
  obtain ⟨hfails, hmram, _, hslock, hsf⟩ := v.setFails_step (n := 0) (by decide)
  generalize v.setFails 0 = w at hfails hmram hslock hsf ⊢
  have hlog := w.logged_lockLog 0 (srcNumber src) means
  generalize w.lockLog 0 (srcNumber src) means = x at hlog ⊢
  have hlock' : x.lock = p.lock := by rw [hlog.lock, hslock, hflock, hlock]
  refine ⟨⟨?_, ?_, (hlog.rd Reg.LOCK_STAT_FAILS (by decide)).trans hfails, by rw [hlog.mram, hmram], by rw [hlock', hp], ?_⟩, by rw [hlock', hp]⟩
  · exact (hlog.on Reg.LOCK_STAT_OPEN (by decide)).trans ((hsf.on Reg.LOCK_STAT_OPEN (by decide) (by decide)).trans hopen)
  · exact (hlog.rd Reg.LOCK_STAT_SRC (by decide)).trans ((hsf.rd Reg.LOCK_STAT_SRC (by decide) (by decide)).trans
      ((hf.rd Reg.LOCK_STAT_SRC (by decide) (by decide)).trans hsrc))
  · exact (hlog.rd Reg.LOCK_LOUT_SEC (by decide)).trans ((hsf.rd Reg.LOCK_LOUT_SEC (by decide) (by decide)).trans
      ((hf.rd Reg.LOCK_LOUT_SEC (by decide) (by decide)).trans ((hwr.rd Reg.LOCK_LOUT_SEC (by decide) (by decide)).trans
        (State.rd_of_regs hpregs _ _))))

/-- A wrong attempt has counted. -/
def State.lockFailed (s t : State) : Prop :=
  let k := s.rd Reg.LOCK_STAT_FAILS 0 + 1
  t.on Reg.LOCK_STAT_OPEN 0 = s.on Reg.LOCK_STAT_OPEN 0 ∧ t.mram.fails = k ∧ t.rd Reg.LOCK_STAT_FAILS 0 = k
    ∧ (5 ≤ k → t.on Reg.LOCK_STAT_LOCKOUT 0 = true ∧ t.rd Reg.LOCK_LOUT_SEC 0 = 600 ∧ t.mram.lockout = 600)
    ∧ (k < 5 → t.on Reg.LOCK_STAT_LOCKOUT 0 = false ∧ t.rd Reg.LOCK_LOUT_SEC 0 = s.rd Reg.LOCK_LOUT_SEC 0)

theorem State.lockFail_fails {s : State} (src : Source) (means : Nat) (hk : s.rd Reg.LOCK_STAT_FAILS 0 < 5)
    (hout : s.on Reg.LOCK_STAT_LOCKOUT 0 = false) : s.lockFailed (s.lockFail src means) ∧ (s.lockFail src means).lock = s.lock := by
  unfold State.lockFail State.lockFailed
  dsimp only
  obtain ⟨hfails, hmram, _, hslock, hsf⟩ := s.setFails_step (n := s.rd Reg.LOCK_STAT_FAILS 0 + 1) (by omega)
  generalize s.setFails (s.rd Reg.LOCK_STAT_FAILS 0 + 1) = u at hfails hmram hslock hsf ⊢
  have hlog := u.logged_lockLog 2 (srcNumber src) means
  generalize u.lockLog 2 (srcNumber src) means = v at hlog ⊢
  have hvopen := (hlog.on Reg.LOCK_STAT_OPEN (by decide)).trans (hsf.on Reg.LOCK_STAT_OPEN (by decide) (by decide))
  have hvfails := (hlog.rd Reg.LOCK_STAT_FAILS (by decide)).trans hfails
  have hvout := (hlog.on Reg.LOCK_STAT_LOCKOUT (by decide)).trans ((hsf.on Reg.LOCK_STAT_LOCKOUT (by decide) (by decide)).trans hout)
  have hvsec := (hlog.rd Reg.LOCK_LOUT_SEC (by decide)).trans (hsf.rd Reg.LOCK_LOUT_SEC (by decide) (by decide))
  have hvmram : v.mram.fails = s.rd Reg.LOCK_STAT_FAILS 0 + 1 := by rw [hlog.mram, hmram]
  have hvlock : v.lock = s.lock := by rw [hlog.lock, hslock]
  by_cases h5 : s.rd Reg.LOCK_STAT_FAILS 0 + 1 < 5
  · rw [if_pos h5]
    exact ⟨⟨hvopen, hvmram, hvfails, fun h => absurd h5 (by omega), fun _ => ⟨hvout, hvsec⟩⟩, hvlock⟩
  · rw [if_neg h5]
    have hset := v.on_put_same Reg.LOCK_STAT_LOCKOUT 0 true (by decide)
    have hput := State.Fields.put v (fs := [Reg.LOCK_STAT_LOCKOUT]) Reg.LOCK_STAT_LOCKOUT true (by decide) (List.mem_singleton_self _)
    have hpmram := v.put_mram Reg.LOCK_STAT_LOCKOUT 0 true
    have hplock := v.put_lock Reg.LOCK_STAT_LOCKOUT 0 true
    generalize v.put Reg.LOCK_STAT_LOCKOUT 0 true = p at hset hput hpmram hplock ⊢
    obtain ⟨hsec, hlout, hpf, hpfields, _⟩ := p.setLout_step (n := 600) (by decide)
    have hlock' : (p.setLout 600).lock = p.lock := State.wr_lock ..
    generalize p.setLout 600 = q at hsec hlout hpf hpfields hlock' ⊢
    have hl3 := q.logged_lockLog 3 (srcNumber src) means
    generalize q.lockLog 3 (srcNumber src) means = r at hl3 ⊢
    have on' (f : Field) (h1 : ([Reg.LOCK_LOUT_SEC].all fun g => g.clear f) = true) (hl : outsideLog (f.addr 0)) : r.on f 0 = p.on f 0 :=
      (hl3.on f hl).trans (hpfields.on f h1 hl)
    refine ⟨⟨?_, ?_, ?_, fun _ => ⟨?_, (hl3.rd Reg.LOCK_LOUT_SEC (by decide)).trans hsec, by rw [hl3.mram, hlout]⟩, fun h => absurd h h5⟩,
      by rw [hl3.lock, hlock', hplock, hvlock]⟩
    · exact (on' Reg.LOCK_STAT_OPEN (by decide) (by decide)).trans ((hput.on Reg.LOCK_STAT_OPEN (by decide) (by decide)).trans hvopen)
    · rw [hl3.mram, hpf, hpmram, hvmram]
    · exact (hl3.rd Reg.LOCK_STAT_FAILS (by decide)).trans ((hpfields.rd Reg.LOCK_STAT_FAILS (by decide) (by decide)).trans
        ((hput.rd Reg.LOCK_STAT_FAILS (by decide) (by decide)).trans hvfails))
    · exact (on' Reg.LOCK_STAT_LOCKOUT (by decide) (by decide)).trans hset

/-! ### LOCK payloads (R440) -/

section
variable {s : State} (src : Source) (n : Nat) {op : Nat} {len : Half} {data : List Byte}

theorem length_lockBytes : (lockBytes op len data).length = 4 + data.length := by
  simp only [lockBytes, List.length_append, length_leBytes]

/-- A LEN that is not the data's. -/
theorem command_lock_bad (h : len.toNat ≠ data.length) : s.command src n 0x49 (lockBytes op len data) = (respCode 6 0x49 [], s) := by
  have hlen : leNat (((lockBytes op len data).drop 2).take 2) = len.toNat := by
    have hb : field (lockBytes op len data) 2 2 = len.toNat := by
      have hl := len.isLt
      unfold lockBytes
      rw [List.append_assoc, field_append (k := 2) _ _ (by simp only [List.length_append, length_leBytes]) (Nat.le_refl 2),
        field_leBytes 2 _ _ (by omega)]
    exact hb
  have hp : s.lockPayload src n (lockBytes op len data) = (none, s) := by
    unfold State.lockPayload
    refine if_pos ?_
    rw [hlen, length_lockBytes, Bool.or_eq_true, bne_iff_ne]
    exact .inr fun he => h (by omega)
  change s.cmdLock src n _ = _
  unfold State.cmdLock
  rw [hp]
  rfl

/-- A LOCK command whose LEN is its data's carries its operation out. -/
theorem command_lock (hop : op < 256) (hd : data.length ≤ 32) :
    s.command src n 0x49 (lockBytes op (BitVec.ofNat 16 data.length) data)
      = match s.lockOp src n op data with
        | (none, t) => (respCode 6 0x49 [], t)
        | (some x, t) => (respCode 0 0x49 x, t) := by
  have hto : (BitVec.ofNat 16 data.length).toNat = data.length := by
    rw [BitVec.toNat_ofNat]
    exact Nat.mod_eq_of_lt (by omega)
  have hlen : leNat (((lockBytes op (BitVec.ofNat 16 data.length) data).drop 2).take 2) = data.length := by
    have hb : field (lockBytes op (BitVec.ofNat 16 data.length) data) 2 2 = data.length := by
      unfold lockBytes
      rw [List.append_assoc, field_append (k := 2) _ _ (by simp only [List.length_append, length_leBytes]) (Nat.le_refl 2), hto,
        field_leBytes 2 _ _ (by omega)]
    exact hb
  have hopn : leNat ((lockBytes op (BitVec.ofNat 16 data.length) data).take 1) = op := by
    have hb : field (lockBytes op (BitVec.ofNat 16 data.length) data) 0 1 = op := by
      unfold lockBytes
      rw [List.append_assoc, List.append_assoc, field_leBytes 1 _ _ (by omega)]
    rwa [field, List.drop_zero] at hb
  have hdrop : (lockBytes op (BitVec.ofNat 16 data.length) data).drop 4 = data := by
    unfold lockBytes
    exact List.drop_left' (by simp only [List.length_append, length_leBytes])
  have hp : s.lockPayload src n (lockBytes op (BitVec.ofNat 16 data.length) data) = s.lockOp src n op data := by
    unfold State.lockPayload
    rw [hopn, hdrop, hlen, length_lockBytes]
    refine if_neg ?_
    rw [Bool.or_eq_true, bne_iff_ne, decide_eq_true_eq]
    omega
  change s.cmdLock src n _ = _
  unfold State.cmdLock
  rw [hp]
  rcases s.lockOp src n op data with ⟨_ | x, t⟩ <;> rfl

end

/-! ### CHALLENGE, PASSWORD, RESPOND -/

theorem State.lockedOut_off {s : State} (h : s.lockedOut = false) : s.on Reg.LOCK_STAT_LOCKOUT 0 = false :=
  (Bool.or_eq_false_iff.1 h).1

theorem lock_challenge (src : Source) (n : Nat) (s : State) : let cmd := s.command src n 0x49 (lockBytes 1 (BitVec.ofNat 16 ([] : List Byte).length) [])
    (s.lockedOut = true → cmd = (respCode 0 0x49 (s.lockPart 3 0), s))
    ∧ (s.lockedOut = false → s.otp.key = none → cmd = (respCode 0 0x49 (s.lockPart 5 0), s))
    ∧ (s.lockedOut = false → s.otp.key ≠ none → ∃ (x : BitVec 128) (t : State), cmd = (respCode 0 0x49 (t.lockPart 6 x.toNat), t)
        ∧ t.lock.nonce = some (x, src) ∧ t.on Reg.LOCK_STAT_CHAL 0 = true) := by
  intro cmd
  have hcmd : cmd = (respCode 0 0x49 ((s.challenge src).2.2.lockPart (s.challenge src).1 (s.challenge src).2.1), (s.challenge src).2.2) :=
    command_lock src n (by decide) (by decide)
  refine ⟨fun h => ?_, fun h hk => ?_, fun h hk => ?_⟩
  · have hc : s.challenge src = (3, 0, s) := if_pos h
    rw [hcmd, hc]
  · have hc : s.challenge src = (5, 0, s) := (if_neg (by rw [h]; decide)).trans (if_pos hk)
    rw [hcmd, hc]
  · have hc : s.challenge src = (6, (Config.nonce s.free).toNat, ({ s with free := s.free + 1, lock := { s.lock with nonce := some (Config.nonce s.free, src) } } : State).put
        Reg.LOCK_STAT_CHAL 0 true) := (if_neg (by rw [h]; decide)).trans (if_neg hk)
    rw [hcmd, hc]
    exact ⟨Config.nonce s.free, _, rfl, by rw [State.put_lock], State.on_put_same _ Reg.LOCK_STAT_CHAL 0 true (by decide)⟩

theorem lock_password (src : Source) (n : Nat) (data : List Byte) (s : State) (h8 : 8 ≤ data.length) (h32 : data.length ≤ 32) :
    s.command src n 0x49 (lockBytes 3 (BitVec.ofNat 16 data.length) data)
      = (respCode 0 0x49 ((s.password src n data).2.lockPart (s.password src n data).1 0), (s.password src n data).2) := by
  have hop : s.lockOp src n 3 data = (some ((s.password src n data).2.lockPart (s.password src n data).1 0), (s.password src n data).2) :=
    if_neg (by simp; omega)
  rw [command_lock src n (by decide) h32, hop]

/-- PASSWORD at a level that takes one (R441). -/
theorem State.password_eq {src : Source} {n : Nat} {data : List Byte} {s : State} (ho : s.lockedOut = false)
    (hl : s.rd Reg.LOCK_STAT_LEVEL 0 = 1 ∨ s.rd Reg.LOCK_STAT_LEVEL 0 = 2) (hp : s.lock.pwhash ≠ 0) : s.password src n data
      = if sha256 (s.serialBytes ++ data) = leBytes 32 s.lock.pwhash.toNat then (0, s.lockOpen src n 0) else (2, s.lockFail src 0) := by
  unfold State.password
  dsimp only
  have hgo : ¬ (s.rd Reg.LOCK_STAT_LEVEL 0 = 3 || decide (s.lock.pwhash = 0)) = true := by
    rw [Bool.or_eq_true, decide_eq_true_eq, decide_eq_true_eq]
    rintro (h3 | h0)
    · omega
    · exact hp h0
  rw [if_neg (by omega), if_neg (by rw [ho]; decide), if_neg hgo]

theorem lock_respond (src : Source) (n : Nat) (data : List Byte) (s : State) (h32 : data.length = 32) :
    s.command src n 0x49 (lockBytes 2 (BitVec.ofNat 16 data.length) data)
      = (respCode 0 0x49 ((s.respond src n data).2.lockPart (s.respond src n data).1 0), (s.respond src n data).2) := by
  have hop : s.lockOp src n 2 data = (some ((s.respond src n data).2.lockPart (s.respond src n data).1 0), (s.respond src n data).2) :=
    if_neg (by simp [h32])
  rw [command_lock src n (by decide) (by omega), hop]

/-- The nonce is gone, and nothing else of the lock's registers has changed. -/
theorem State.dropNonce_step (s : State) : let t := s.dropNonce
    t.on Reg.LOCK_STAT_CHAL 0 = false ∧ t.lock.nonce = none ∧ t.lock.session = s.lock.session ∧ t.otp = s.otp ∧ t.mram = s.mram
      ∧ t.before = s.before ∧ s.Fields [Reg.LOCK_STAT_CHAL] t ∧ ∀ a, a ≠ Reg.LOCK_STAT_CHAL.addr 0 → t.reg a = s.reg a := by
  dsimp only
  unfold State.dropNonce
  exact ⟨State.on_put_same _ Reg.LOCK_STAT_CHAL 0 false (by decide), by rw [State.put_lock], by rw [State.put_lock], State.put_otp ..,
    State.put_mram .., State.put_before .., .trans (.of_regs rfl) (.put _ Reg.LOCK_STAT_CHAL false (by decide) (List.mem_singleton_self _)),
    fun a ha => State.reg_put_other _ Reg.LOCK_STAT_CHAL 0 false ha⟩

/-- RESPOND to its own source's nonce at a level that asks for it (R441). -/
theorem State.respond_eq {src : Source} {n : Nat} {data : List Byte} {s : State} {x : BitVec 128} {key : BitVec 256} (ho : s.lockedOut = false)
    (hl : s.rd Reg.LOCK_STAT_LEVEL 0 ≠ 0) (hx : s.lock.nonce = some (x, src)) (hk : s.otp.key = some key) : s.respond src n data
      = if hmac (leBytes 32 key.toNat) (leBytes 16 x.toNat ++ leBytes 8 s.otp.serial.toNat) = data then (0, s.dropNonce.lockOpen src n 1)
        else (2, s.dropNonce.lockFail src 1) := by
  obtain ⟨_, _, _, hotp, _, hbefore, hf, _⟩ := s.dropNonce_step
  unfold State.respond
  have hmine : (s.lock.nonce.filter fun x => decide (x.2 = src)).map (·.1) = some x := by
    rw [hx, Option.filter_some, if_pos (decide_eq_true rfl)]
    rfl
  rw [hmine]
  simp only [Option.isSome_some, if_true]
  have hout : s.dropNonce.lockedOut = false := by
    unfold State.lockedOut at ho ⊢
    rw [hf.on Reg.LOCK_STAT_LOCKOUT (by decide) (by decide)]
    have hold : s.dropNonce.old.on Reg.LOCK_STAT_LOCKOUT 0 = s.old.on Reg.LOCK_STAT_LOCKOUT 0 :=
      State.on_of_rd (State.old_rd_of_before hbefore _ _)
    rw [hold]
    exact ho
  rw [if_neg (by rw [hf.rd Reg.LOCK_STAT_LEVEL (by decide) (by decide)]; exact hl), if_neg (by rw [hout]; decide), hotp, hk]
  dsimp only
  unfold State.serialBytes
  rw [hotp]

/-! ### The statement -/

/-- Settles O46: each operation and timer by its own lemma. -/
theorem maintenanceLock : Obligations.MaintenanceLock := by
  refine ⟨fun src n op len data s _ h => command_lock_bad src n h, fun src n s => command_lock src n (by decide) (by decide),
    lock_challenge, fun src n data s h8 h32 => ⟨fun hl ho => ?_, fun ho hl => ?_, fun ho hl hp hs hk => ⟨fun hr => ?_, fun hw => ?_⟩⟩,
    fun src n data s x key h32 ho hl hx hkey hs hk => ⟨fun hr => ?_, fun hw => ?_⟩, fun src n s => ?_, fun s => ⟨fun h => ?_, fun h => ?_⟩,
    fun s => ⟨fun h => ?_, fun h => ?_⟩, fun s => ⟨fun h h0 => ?_, fun h => ?_⟩, fun s => ?_⟩
  · have hp : s.password src n data = (3, s) := (if_neg hl).trans (if_pos ho)
    exact (lock_password src n data s h8 h32).trans (by rw [hp])
  · have hp : s.password src n data = (5, s) := by
      unfold State.password
      dsimp only
      rw [if_neg (by omega), if_neg (by rw [ho]; decide), if_pos]
      rcases hl with hl | ⟨_, hl⟩ <;> rw [hl] <;> simp
    exact (lock_password src n data s h8 h32).trans (by rw [hp])
  · have hp := (s.password_eq (src := src) (n := n) ho hl hp).trans (if_pos hr)
    exact ⟨_, (lock_password src n data s h8 h32).trans (by rw [hp]), (s.lockOpen_opens n 0 hs).1⟩
  · have hp := (s.password_eq (src := src) (n := n) ho hl hp).trans (if_neg hw)
    exact ⟨_, (lock_password src n data s h8 h32).trans (by rw [hp]), (State.lockFail_fails src 0 hk (State.lockedOut_off ho)).1⟩
  · have hp := (s.respond_eq (src := src) (n := n) ho hl hx hkey).trans (if_pos hr)
    obtain ⟨_, hnonce, _, _, _, _, hf, _⟩ := s.dropNonce_step
    obtain ⟨⟨h1, h2, h3, h4, h5, h6⟩, hn⟩ := s.dropNonce.lockOpen_opens n 1 hs
    exact ⟨_, (lock_respond src n data s h32).trans (by rw [hp]),
      ⟨h1, h2, h3, h4, h5, h6.trans (hf.rd Reg.LOCK_LOUT_SEC (by decide) (by decide))⟩, hn.trans hnonce⟩
  · have hp := (s.respond_eq (src := src) (n := n) ho hl hx hkey).trans (if_neg hw)
    obtain ⟨_, hnonce, _, _, _, _, hf, _⟩ := s.dropNonce_step
    have hfails := hf.rd Reg.LOCK_STAT_FAILS (by decide) (by decide)
    have hout := (hf.on Reg.LOCK_STAT_LOCKOUT (by decide) (by decide)).trans (State.lockedOut_off ho)
    obtain ⟨hfail, hlock⟩ := State.lockFail_fails (s := s.dropNonce) src 1 (hfails ▸ hk) hout
    unfold State.lockFailed at hfail
    rw [hfails, hf.on Reg.LOCK_STAT_OPEN (by decide) (by decide), hf.rd Reg.LOCK_LOUT_SEC (by decide) (by decide)] at hfail
    exact ⟨_, (lock_respond src n data s h32).trans (by rw [hp]), hfail, by rw [hlock, hnonce]⟩
  · refine ⟨s.lockClose (srcNumber src), command_lock src n (by decide) (by decide), fun h => (State.lockClose_shuts _ h).1, fun h => ?_⟩
    unfold State.lockClose
    rw [if_pos h]
  · exact ⟨s.lockClose 0, rfl, (State.lockClose_shuts 0 h).1⟩
  · rw [exec_lockOpenTimeout, execLockOpenTimeout, State.lockClose, if_pos h]
  · have hlt : s.rd Reg.LOCK_LOUT_SEC 0 < 1024 := s.rd_lt Reg.LOCK_LOUT_SEC 0
    obtain ⟨h1, h2, _, _, h3⟩ := s.setLout_step (n := s.rd Reg.LOCK_LOUT_SEC 0 - 1) (by omega)
    exact ⟨_, by rw [exec_lockoutSecond, execLockoutSecond, if_pos h], h1, h2, h3⟩
  · rw [exec_lockoutSecond, execLockoutSecond, h]
    rfl
  · have hex : exec .lockoutEnd s = .next (((s.put Reg.LOCK_STAT_LOCKOUT 0 false).setFails 0).lockLog 4 0 2) := by
      rw [exec_lockoutEnd, execLockoutEnd, h, h0]
      rfl
    have hput := s.on_put_same Reg.LOCK_STAT_LOCKOUT 0 false (by decide)
    obtain ⟨hfails, hmram, _, _, hsf⟩ := (s.put Reg.LOCK_STAT_LOCKOUT 0 false).setFails_step (n := 0) (by decide)
    have hlog := ((s.put Reg.LOCK_STAT_LOCKOUT 0 false).setFails 0).logged_lockLog 4 0 2
    exact ⟨_, hex, (hlog.on Reg.LOCK_STAT_LOCKOUT (by decide)).trans ((hsf.on Reg.LOCK_STAT_LOCKOUT (by decide) (by decide)).trans hput),
      (hlog.rd Reg.LOCK_STAT_FAILS (by decide)).trans hfails, by rw [hlog.mram, hmram]⟩
  · rw [exec_lockoutEnd, execLockoutEnd]
    refine congrArg Host.Outcome.next (if_neg ?_)
    rcases h with h | h
    · rw [h]; simp
    · simp [h]
  · obtain ⟨hchal, hnonce, _, _, hmram, _, _, hreg⟩ := s.dropNonce_step
    exact ⟨s.dropNonce, rfl, hnonce, hchal, hreg, hmram⟩

end Sys2Proof.Machine
end
-- ==== Sys2Proof/Proofs/HostSessions.lean ====
section
/-! Sessions of the host port: how one opens, is refused and ends, and the link beneath them (R322, R328, R329, R335). -/

namespace Sys2Proof.Machine

/-! ### What the ends of a session change -/

theorem State.Logged.link {s t : State} (h : s.Logged t) : t.link = s.link := by
  obtain ⟨_, _, _, _, _, h, _⟩ := h
  rw [h]

/-- What the host port's own reports leave: of single fields only those of `fs`, of the port only EVT_N, its lines and PAUSE, and the lock's opener. -/
def State.PortStep (fs : List Field) (s t : State) : Prop :=
  s.Fields fs t ∧ (∃ e w p, t.link = { s.link with evtN := e, wire := w, pausing := p }) ∧ t.lock = s.lock

section
variable {fs : List Field} {s t u : State}

theorem State.PortStep.refl (fs : List Field) (s : State) : s.PortStep fs s := ⟨.refl fs s, ⟨_, _, _, rfl⟩, rfl⟩

theorem State.PortStep.trans (h : s.PortStep fs t) (k : t.PortStep fs u) : s.PortStep fs u := by
  obtain ⟨hf, ⟨e, w, p, hl⟩, hk⟩ := h
  obtain ⟨kf, ⟨e', w', p', kl⟩, kk⟩ := k
  exact ⟨hf.trans kf, ⟨e', w', p', by rw [kl, hl]⟩, kk.trans hk⟩

theorem State.PortStep.of_same (hr : t.regs = s.regs) (hl : t.link = s.link) (hk : t.lock = s.lock) : s.PortStep fs t :=
  ⟨.of_regs hr, ⟨_, _, _, hl⟩, hk⟩

theorem State.PortStep.wr (s : State) (f : Field) (v : Nat) (hf : f.fits = true) (hm : f ∈ fs) : s.PortStep fs (s.wr f 0 v) :=
  ⟨.wr s f v hf hm, ⟨_, _, _, State.wr_link ..⟩, State.wr_lock ..⟩

theorem State.PortStep.put (s : State) (f : Field) (b : Bool) (hf : f.fits = true) (hm : f ∈ fs) : s.PortStep fs (s.put f 0 b) :=
  .wr s f _ hf hm

theorem State.PortStep.logged (h : s.Logged t) : s.PortStep fs t :=
  ⟨.logged h, ⟨_, _, _, h.link⟩, h.lock⟩

theorem State.PortStep.emit (l : Line) (s : State) : s.PortStep fs (s.emit l) := ⟨.of_regs rfl, ⟨_, _, _, rfl⟩, rfl⟩

theorem State.PortStep.mono {gs : List Field} (h : s.PortStep fs t) (hs : fs ⊆ gs) : s.PortStep gs t := ⟨h.1.mono hs, h.2⟩

end

/-- Bit `k` of EVT_PEND is set. -/
theorem State.event_step (s : State) (k : Nat) : s.PortStep [Reg.HOSTLINK_EVT_PEND] (s.event k) := by
  unfold State.event State.driveEvt State.putBit
  exact (State.PortStep.wr s Reg.HOSTLINK_EVT_PEND _ (by decide) (List.mem_singleton_self _)).trans ⟨.of_regs rfl, ⟨_, _, _, rfl⟩, rfl⟩

theorem State.bit_event (s : State) {k : Nat} (hk : k ≤ 5) : (s.event k).bit Reg.HOSTLINK_EVT_PEND 0 k = true := by
  have h := s.bit_putBit Reg.HOSTLINK_EVT_PEND 0 k true k (by decide) (Nat.lt_of_le_of_lt hk (by decide))
  rw [if_pos rfl] at h
  exact h

/-- RXFULL follows the buffer, with PAUSE (R341). -/
theorem State.rxPause_step (s : State) : s.PortStep [Reg.HOSTLINK_STAT_RXFULL] s.rxPause := by
  unfold State.rxPause
  dsimp only
  refine (State.PortStep.put s Reg.HOSTLINK_STAT_RXFULL (decide (49152 ≤ s.rxFill)) (by decide) (List.mem_singleton_self _)).trans ?_
  generalize s.put Reg.HOSTLINK_STAT_RXFULL 0 (decide (49152 ≤ s.rxFill)) = t
  split
  · exact ⟨.of_regs rfl, ⟨_, _, _, rfl⟩, rfl⟩
  · split
    · exact ⟨.of_regs rfl, ⟨_, _, _, rfl⟩, rfl⟩
    · exact .refl _ t

theorem State.lockFlags_port (s : State) : s.PortStep openFields s.lockFlags := by
  unfold State.lockFlags
  exact (State.PortStep.wr s Reg.LOCK_STAT_LEVEL _ (by decide) (by decide)).trans (.put _ Reg.LOCK_STAT_OPEN _ (by decide) (by decide))

theorem State.lockClose_step (s : State) (src : Nat) : s.PortStep openFields (s.lockClose src) := by
  unfold State.lockClose
  split
  · exact .refl _ s
  · exact (State.PortStep.wr s Reg.LOCK_STAT_SRC 0 (by decide) List.mem_cons_self).trans
      ((State.lockFlags_port _).trans (.logged (State.logged_lockLog ..)))

/-- The end of the session that opened the lock closes it (R442). -/
theorem State.lockSessionEnd_step (s : State) (src : Source) (n : Nat) : let t := s.lockSessionEnd src n
    s.PortStep openFields t ∧ (s.rd Reg.LOCK_STAT_SRC 0 = srcNumber src → s.lock.session = n → t.rd Reg.LOCK_STAT_SRC 0 = 0) := by
  dsimp only
  unfold State.lockSessionEnd
  split
  · refine ⟨s.lockClose_step 0, fun h _ => ?_⟩
    by_cases h0 : s.rd Reg.LOCK_STAT_SRC 0 = 0
    · unfold State.lockClose
      rw [if_pos h0]
      exact h0
    · exact (State.lockClose_shuts 0 h0).1.1
  · next hn => exact ⟨.refl _ s, fun h hs => absurd (by simp [h, hs]) hn⟩

/-! ### The end of a session (R329) -/

/-- How the end of a session shows in HOSTLINK_STAT, the log and HOSTLINK_EVT. -/
def State.endShown (cause : Nat) (s : State) : State :=
  let n := s.session
  let s := s.wr Reg.HOSTLINK_STAT_SESSION 0 0
  let s := if cause = 2 then s.put Reg.HOSTLINK_STAT_TMO_END 0 true
    else if cause = 3 then s.put Reg.HOSTLINK_STAT_LINK_LOST 0 true else s
  let s := s.logNow 0x70 4 n cause (s.rd Reg.HOSTLINK_HOSTIP_IP 0) 0
  if cause = 1 then s else s.event 4

theorem State.endSession_eq {s : State} (cause : Nat) (h : s.session ≠ 0) :
    s.endSession cause = (({ s.endShown cause with link := { (s.endShown cause).link with slots := [], inq := [], fence := false } }).rxPause.lockSessionEnd
      .host s.session) := if_neg h

/-- Fields in which the end of a session shows. -/
def shownFields : List Field :=
  [Reg.HOSTLINK_STAT_SESSION, Reg.HOSTLINK_STAT_TMO_END, Reg.HOSTLINK_STAT_LINK_LOST, Reg.HOSTLINK_EVT_PEND]

/-- Fields that the end of a session changes. -/
def sessionFields : List Field := Reg.HOSTLINK_STAT_RXFULL :: shownFields ++ openFields

theorem State.endShown_step (s : State) (cause : Nat) : let t := s.endShown cause
    s.PortStep shownFields t ∧ t.session = 0 ∧ (cause = 2 → t.on Reg.HOSTLINK_STAT_TMO_END 0 = true)
      ∧ (cause = 3 → t.on Reg.HOSTLINK_STAT_LINK_LOST 0 = true) ∧ (cause ≠ 1 → t.bit Reg.HOSTLINK_EVT_PEND 0 4 = true) := by
  dsimp only
  unfold State.endShown
  dsimp only
  have h0 : s.PortStep shownFields (s.wr Reg.HOSTLINK_STAT_SESSION 0 0) := .wr s _ _ (by decide) (by decide)
  have z0 : (s.wr Reg.HOSTLINK_STAT_SESSION 0 0).rd Reg.HOSTLINK_STAT_SESSION 0 = 0 := s.rd_wr_same Reg.HOSTLINK_STAT_SESSION 0 0 (by decide)
  generalize s.wr Reg.HOSTLINK_STAT_SESSION 0 0 = a at h0 z0 ⊢
  obtain ⟨b, hb⟩ : ∃ b, b = (if cause = 2 then a.put Reg.HOSTLINK_STAT_TMO_END 0 true
      else if cause = 3 then a.put Reg.HOSTLINK_STAT_LINK_LOST 0 true else a) := ⟨_, rfl⟩
  have hab : a.PortStep [Reg.HOSTLINK_STAT_TMO_END, Reg.HOSTLINK_STAT_LINK_LOST] b := by
    rw [hb]
    split
    · exact .put a _ _ (by decide) (by decide)
    · split
      · exact .put a _ _ (by decide) (by decide)
      · exact .refl _ a
  have h2 (h : cause = 2) : b.on Reg.HOSTLINK_STAT_TMO_END 0 = true := by
    rw [hb, if_pos h]
    exact State.on_put_same a Reg.HOSTLINK_STAT_TMO_END 0 true (by decide)
  have h3 (h : cause = 3) : b.on Reg.HOSTLINK_STAT_LINK_LOST 0 = true := by
    rw [hb, if_neg (by omega), if_pos h]
    exact State.on_put_same a Reg.HOSTLINK_STAT_LINK_LOST 0 true (by decide)
  rw [← hb]
  have hlog := b.logged_logBy 0 0x70 4 s.session cause (b.rd Reg.HOSTLINK_HOSTIP_IP 0) 0
  unfold State.logNow
  generalize b.logBy 0 0x70 4 s.session cause (b.rd Reg.HOSTLINK_HOSTIP_IP 0) 0 = c at hlog ⊢
  obtain ⟨d, hd⟩ : ∃ d, d = (if cause = 1 then c else c.event 4) := ⟨_, rfl⟩
  have hcd : c.PortStep [Reg.HOSTLINK_EVT_PEND] d := by
    rw [hd]
    split
    · exact .refl _ c
    · exact c.event_step 4
  rw [← hd]
  refine ⟨h0.trans ((hab.mono (by decide)).trans ((State.PortStep.logged hlog).trans (hcd.mono (by decide)))), ?_, fun h => ?_, fun h => ?_, fun h => ?_⟩
  · exact (hcd.1.rd Reg.HOSTLINK_STAT_SESSION (by decide) (by decide)).trans ((hlog.rd Reg.HOSTLINK_STAT_SESSION (by decide)).trans
      ((hab.1.rd Reg.HOSTLINK_STAT_SESSION (by decide) (by decide)).trans z0))
  · exact (hcd.1.on Reg.HOSTLINK_STAT_TMO_END (by decide) (by decide)).trans ((hlog.on Reg.HOSTLINK_STAT_TMO_END (by decide)).trans (h2 h))
  · exact (hcd.1.on Reg.HOSTLINK_STAT_LINK_LOST (by decide) (by decide)).trans ((hlog.on Reg.HOSTLINK_STAT_LINK_LOST (by decide)).trans (h3 h))
  · rw [hd, if_neg h]
    exact c.bit_event (by decide)

/-- What the end of a session leaves of the port. -/
structure State.Ended (cause : Nat) (s t : State) : Prop where
  fields : s.Fields sessionFields t
  link : ∃ e w p q i f, t.link = { s.link with evtN := e, wire := w, pausing := p, slots := q, inq := i, fence := f }
  session : t.session = 0
  timeout : s.session ≠ 0 → cause = 2 → t.on Reg.HOSTLINK_STAT_TMO_END 0 = true
  lost : s.session ≠ 0 → cause = 3 → t.on Reg.HOSTLINK_STAT_LINK_LOST 0 = true
  event : s.session ≠ 0 → cause ≠ 1 → t.bit Reg.HOSTLINK_EVT_PEND 0 4 = true
  lock : s.session ≠ 0 → s.rd Reg.LOCK_STAT_SRC 0 = 2 → s.lock.session = s.session → t.rd Reg.LOCK_STAT_SRC 0 = 0

theorem State.endSession_ends (s : State) (cause : Nat) : s.Ended cause (s.endSession cause) := by
  by_cases h : s.session = 0
  · have hs : s.endSession cause = s := if_pos h
    rw [hs]
    exact ⟨.refl _ s, ⟨_, _, _, _, _, _, rfl⟩, h, (absurd h ·), (absurd h ·), (absurd h ·), (absurd h ·)⟩
  rw [State.endSession_eq cause h]
  obtain ⟨⟨hf, ⟨e, w, p, hl⟩, hk⟩, hs, h2, h3, he⟩ := s.endShown_step cause
  generalize hu : ({ s.endShown cause with link := { (s.endShown cause).link with slots := [], inq := [], fence := false } } : State) = u
  have huf : (s.endShown cause).Fields sessionFields u := .of_regs (by rw [← hu])
  have hul : u.link = { (s.endShown cause).link with slots := [], inq := [], fence := false } := by rw [← hu]
  have huk : u.lock = (s.endShown cause).lock := by rw [← hu]
  have hur (f : Field) : u.rd f 0 = (s.endShown cause).rd f 0 := State.rd_of_regs (by rw [← hu]) f 0
  clear hu
  have hv := u.rxPause_step
  generalize u.rxPause = v at hv ⊢
  obtain ⟨⟨hwf, ⟨e', w', p', hwl⟩, -⟩, hsrc⟩ := v.lockSessionEnd_step .host s.session
  generalize v.lockSessionEnd .host s.session = x at hwf hwl hsrc ⊢
  obtain ⟨hvf, ⟨e'', w'', p'', hvl⟩, hvk⟩ := hv
  have keep (f : Field) (h1 : ([Reg.HOSTLINK_STAT_RXFULL].all fun g => g.clear f) = true) (h2 : (openFields.all fun g => g.clear f) = true)
      (hl : outsideLog (f.addr 0)) : x.rd f 0 = (s.endShown cause).rd f 0 :=
    (hwf.rd f h2 hl).trans ((hvf.rd f h1 hl).trans (hur f))
  refine ⟨(hf.mono (by decide)).trans (huf.trans ((hvf.mono (by decide)).trans (hwf.mono (by decide)))), ⟨e', w', p', [], [], false, by rw [hwl, hvl, hul, hl]⟩,
    (keep Reg.HOSTLINK_STAT_SESSION (by decide) (by decide) (by decide)).trans hs,
    fun _ hc => (State.on_of_rd (keep Reg.HOSTLINK_STAT_TMO_END (by decide) (by decide) (by decide))).trans (h2 hc),
    fun _ hc => (State.on_of_rd (keep Reg.HOSTLINK_STAT_LINK_LOST (by decide) (by decide) (by decide))).trans (h3 hc),
    fun _ hc => (State.bit_of_rd (keep Reg.HOSTLINK_EVT_PEND (by decide) (by decide) (by decide)) 4).trans (he hc), fun _ h2 hn => hsrc ?_ ?_⟩
  · exact (hvf.rd Reg.LOCK_STAT_SRC (by decide) (by decide)).trans ((hur _).trans ((hf.rd Reg.LOCK_STAT_SRC (by decide) (by decide)).trans h2))
  · rw [hvk, huk, hk]
    exact hn

/-! ### The arrival of a datagram (R324, R326, R348) -/

theorem State.fecCount_step (s : State) (ce ue : Nat) : s.PortStep [Reg.HOSTLINK_FECCE_N, Reg.HOSTLINK_FECUE_N] (s.fecCount ce ue) := by
  unfold State.fecCount State.bump
  exact (State.PortStep.wr s Reg.HOSTLINK_FECCE_N _ (by decide) (by decide)).trans (.wr _ Reg.HOSTLINK_FECUE_N _ (by decide) (by decide))

theorem State.link_fecCount (s : State) (ce ue : Nat) : (s.fecCount ce ue).link = s.link := by
  unfold State.fecCount
  rw [State.bump_link, State.bump_link]

theorem State.fecCount_rd (s : State) (ce ue : Nat) (f : Field)
    (h : ([Reg.HOSTLINK_FECCE_N, Reg.HOSTLINK_FECUE_N].all fun g => g.clear f) = true) (hl : outsideLog (f.addr 0)) :
    (s.fecCount ce ue).rd f 0 = s.rd f 0 := (s.fecCount_step ce ue).1.rd f h hl

theorem State.fecCount_reg (s : State) (ce ue : Nat) {a : Nat} (hc : a ≠ Reg.HOSTLINK_FECCE_N.addr 0) (hu : a ≠ Reg.HOSTLINK_FECUE_N.addr 0) :
    (s.fecCount ce ue).reg a = s.reg a := by
  unfold State.fecCount State.bump
  rw [State.reg_wr_other _ Reg.HOSTLINK_FECUE_N 0 _ hu, State.reg_wr_other _ Reg.HOSTLINK_FECCE_N 0 _ hc]

theorem State.fecCount_session (s : State) (ce ue : Nat) : (s.fecCount ce ue).session = s.session :=
  s.fecCount_rd ce ue Reg.HOSTLINK_STAT_SESSION (by decide) (by decide)

/-- The address of the session's host is read from four registers. -/
theorem State.sessionHost_of_regs {s t : State} (hi : t.rd Reg.HOSTLINK_HMAC_HI_MAC 0 = s.rd Reg.HOSTLINK_HMAC_HI_MAC 0)
    (lo : t.rd Reg.HOSTLINK_HMAC_LO_MAC 0 = s.rd Reg.HOSTLINK_HMAC_LO_MAC 0)
    (ip : t.reg (Reg.HOSTLINK_HOSTIP_IP.addr 0) = s.reg (Reg.HOSTLINK_HOSTIP_IP.addr 0))
    (port : t.rd Reg.HOSTLINK_HOSTPORT_PORT 0 = s.rd Reg.HOSTLINK_HOSTPORT_PORT 0) : t.sessionHost = s.sessionHost := by
  unfold State.sessionHost
  rw [hi, lo, ip, port]

theorem State.fecCount_host (s : State) (ce ue : Nat) : (s.fecCount ce ue).sessionHost = s.sessionHost :=
  State.sessionHost_of_regs (s.fecCount_rd ce ue _ (by decide) (by decide)) (s.fecCount_rd ce ue _ (by decide) (by decide))
    (s.fecCount_reg ce ue (by decide) (by decide)) (s.fecCount_rd ce ue _ (by decide) (by decide))

theorem State.accepts_iff (s : State) (h : RxHead) : s.accepts h = true ↔ s.admits h := by
  have hflags : h.flags.toNat < 32 ↔ h.flags.toNat / 32 = 0 := by omega
  simp only [State.accepts, State.admits, Bool.and_eq_true, decide_eq_true_eq, Bool.not_eq_true', hflags]
  constructor <;> (intro x; simp_all)

theorem State.fecCount_accepts (s : State) (ce ue : Nat) (h : RxHead) : (s.fecCount ce ue).accepts h = s.accepts h := by
  unfold State.accepts
  rw [s.fecCount_rd ce ue Reg.HOSTLINK_MAC_HI_MAC (by decide) (by decide), s.fecCount_rd ce ue Reg.HOSTLINK_MAC_LO_MAC (by decide) (by decide),
    s.fecCount_rd ce ue Reg.HOSTLINK_PORT_PORT (by decide) (by decide), s.fecCount_reg ce ue (by decide) (by decide)]

section
variable {s : State} {h : RxHead} {ip : Word} {mac : BitVec 48} {port : Half} {session origin : Byte} {seq : Word} {ty : Nat} {p : List Byte}

/-- A datagram that is admitted and finds room is a CONNECT or a command of a session. -/
theorem State.arrive_host (hm : 3 ≤ s.mode) (hup : s.on Reg.HOSTLINK_STAT_LINK_UP 0 = true) (ha : s.admits h)
    (hfill : s.rxFill + 24 + p.length ≤ 65536) : s.arrive (.host h mac ip port session origin seq) ty p
      = if ty = 0x40 then (s.fecCount h.fecCe h.fecUe).hostConnect mac ip port seq.toNat p
        else (s.fecCount h.fecCe h.fecUe).hostCmd (.host mac ip port) session.toNat origin.toNat seq.toNat ty p := by
  unfold State.arrive
  have hgo : ¬ (!(s.fecCount h.fecCe h.fecUe).accepts h || decide (65536 < (s.fecCount h.fecCe h.fecUe).rxFill + 24 + p.length)) = true := by
    rw [s.fecCount_accepts, (s.accepts_iff h).2 ha]
    unfold State.rxFill
    rw [s.link_fecCount]
    unfold State.rxFill at hfill
    simp only [Bool.not_true, Bool.false_or, decide_eq_true_eq, not_lt]
    exact hfill
  rw [if_neg (by omega)]
  dsimp only
  rw [if_neg (by rw [hup]; decide), if_neg hgo]

end

/-! ### CONNECT (R328, R329) -/

theorem State.txDrop_step (s : State) : s.PortStep [Reg.HOSTLINK_TXDROP_N, Reg.HOSTLINK_EVT_PEND] s.txDrop := by
  unfold State.txDrop State.bump
  exact (State.PortStep.wr s Reg.HOSTLINK_TXDROP_N _ (by decide) (by decide)).trans ((State.event_step _ 5).mono (by decide))

theorem State.sendRead_step (m : TxItem) (s : State) : s.PortStep [Reg.HOSTLINK_TXDROP_N, Reg.HOSTLINK_EVT_PEND] (s.sendRead m) := by
  unfold State.sendRead
  split
  · exact .of_same rfl rfl rfl
  · exact .of_same rfl rfl rfl
  · exact .refl _ s

/-- Messages that had begun are gone; of the port's registers only TXDROP and EVT_PEND may change. -/
theorem State.dropBegun_step (s : State) : s.Fields [Reg.HOSTLINK_TXDROP_N, Reg.HOSTLINK_EVT_PEND] s.dropBegun
    ∧ s.dropBegun.link.lastSession = s.link.lastSession := by
  unfold State.dropBegun
  dsimp only
  generalize hu : ({ s with link := { s.link with txq := dropSegs (s.link.begun.map fun b => (b.1, b.2.1)) (s.link.txq.filter fun m => decide (m.off = 0)), begun := [] } } : State) = u
  have huf : s.Fields [Reg.HOSTLINK_TXDROP_N, Reg.HOSTLINK_EVT_PEND] u := .of_regs (by rw [← hu])
  have hul : u.link.lastSession = s.link.lastSession := by rw [← hu]
  have hread := State.each_keeps (P := fun t => u.PortStep [Reg.HOSTLINK_TXDROP_N, Reg.HOSTLINK_EVT_PEND] t)
    (f := fun m t => State.sendRead m t) (l := s.link.txq.filter fun m => decide (0 < m.off)) (fun m _ t ht => ht.trans (t.sendRead_step m)) (.refl _ u)
  obtain ⟨hf, ⟨_, _, _, hl⟩, -⟩ := State.each_keeps (P := fun t => u.PortStep [Reg.HOSTLINK_TXDROP_N, Reg.HOSTLINK_EVT_PEND] t)
    (f := fun (_ : Nat) t => State.txDrop t)
    (l := List.range ((s.link.txq.filter fun m => decide (0 < m.off)).length + s.link.begun.length)) (fun _ _ t ht => ht.trans t.txDrop_step) hread
  exact ⟨huf.trans hf, by rw [hl]; exact hul⟩

/-- The registers that name the session, its host and its counts. -/
def State.named (mac : BitVec 48) (ip : Word) (port : Half) (n seq : Nat) (s : State) : State :=
  let s := (s.wr Reg.HOSTLINK_STAT_SESSION 0 n).wr Reg.HOSTLINK_TXSEQ_SEQ 0 0
  let s := (s.wr Reg.HOSTLINK_CMDSEQ_SEQ 0 (seq + 1)).setReg (Reg.HOSTLINK_HOSTIP_IP.addr 0) ip
  let s := (s.wr Reg.HOSTLINK_HOSTPORT_PORT 0 port.toNat).wr Reg.HOSTLINK_HMAC_LO_MAC 0 mac.toNat
  s.wr Reg.HOSTLINK_HMAC_HI_MAC 0 (mac.toNat / 2 ^ 32)

theorem State.named_names (mac : BitVec 48) (ip : Word) (port : Half) {n : Nat} (seq : Nat) (s : State) (hn : n ≤ 255) :
    let t := s.named mac ip port n seq
    t.session = n ∧ t.rd Reg.HOSTLINK_TXSEQ_SEQ 0 = 0 ∧ t.rd Reg.HOSTLINK_CMDSEQ_SEQ 0 = (seq + 1) % 2 ^ 32
      ∧ t.sessionHost = .host mac ip port ∧ t.on Reg.HOSTLINK_STAT_TAKEOVER 0 = s.on Reg.HOSTLINK_STAT_TAKEOVER 0 ∧ t.link = s.link := by
  dsimp only
  unfold State.named
  dsimp only
  generalize h1 : s.wr Reg.HOSTLINK_STAT_SESSION 0 n = a
  generalize h2 : a.wr Reg.HOSTLINK_TXSEQ_SEQ 0 0 = b
  generalize h3 : b.wr Reg.HOSTLINK_CMDSEQ_SEQ 0 (seq + 1) = c
  generalize h4 : c.setReg (Reg.HOSTLINK_HOSTIP_IP.addr 0) ip = d
  generalize h5 : d.wr Reg.HOSTLINK_HOSTPORT_PORT 0 port.toNat = e
  generalize h6 : e.wr Reg.HOSTLINK_HMAC_LO_MAC 0 mac.toNat = f
  have fromD (g : Field) (hg : g.addr 0 ≠ Reg.HOSTLINK_HOSTPORT_PORT.addr 0 ∧ g.addr 0 ≠ Reg.HOSTLINK_HMAC_LO_MAC.addr 0
      ∧ g.addr 0 ≠ Reg.HOSTLINK_HMAC_HI_MAC.addr 0) :
      (f.wr Reg.HOSTLINK_HMAC_HI_MAC 0 (mac.toNat / 2 ^ 32)).rd g 0 = d.rd g 0 := by
    rw [State.rd_wr_addr _ _ g 0 0 _ hg.2.2, ← h6, State.rd_wr_addr _ _ g 0 0 _ hg.2.1, ← h5, State.rd_wr_addr _ _ g 0 0 _ hg.1]
  have fromC (g : Field) (hg : g.addr 0 ≠ Reg.HOSTLINK_HOSTPORT_PORT.addr 0 ∧ g.addr 0 ≠ Reg.HOSTLINK_HMAC_LO_MAC.addr 0
      ∧ g.addr 0 ≠ Reg.HOSTLINK_HMAC_HI_MAC.addr 0) (h : g.addr 0 ≠ Reg.HOSTLINK_HOSTIP_IP.addr 0) :
      (f.wr Reg.HOSTLINK_HMAC_HI_MAC 0 (mac.toNat / 2 ^ 32)).rd g 0 = c.rd g 0 := by
    rw [fromD g hg, ← h4, State.rd_of_reg (State.reg_setReg_other _ _ h)]
  have fromA (g : Field) (hg : g.addr 0 = 0x40024) : (f.wr Reg.HOSTLINK_HMAC_HI_MAC 0 (mac.toNat / 2 ^ 32)).rd g 0 = a.rd g 0 := by
    rw [fromC g (by rw [hg]; decide) (by rw [hg]; decide), ← h3, State.rd_wr_addr _ _ g 0 0 _ (by rw [hg]; decide), ← h2,
      State.rd_wr_addr _ _ g 0 0 _ (by rw [hg]; decide)]
  have hmac := mac.isLt
  refine ⟨?_, ?_, ?_, ?_, ?_, ?_⟩
  · refine (fromA Reg.HOSTLINK_STAT_SESSION (by decide)).trans ?_
    rw [← h1, State.rd_wr_same _ _ _ _ (by decide)]
    exact Nat.mod_eq_of_lt (Nat.lt_of_le_of_lt hn (by decide))
  · rw [fromC Reg.HOSTLINK_TXSEQ_SEQ (by decide) (by decide), ← h3, State.rd_wr_addr _ _ Reg.HOSTLINK_TXSEQ_SEQ 0 0 _ (by decide), ← h2,
      State.rd_wr_same _ _ _ _ (by decide)]
    exact Nat.zero_mod _
  · rw [fromC Reg.HOSTLINK_CMDSEQ_SEQ (by decide) (by decide), ← h3, State.rd_wr_same _ _ _ _ (by decide)]
    rfl
  · have hhi : (f.wr Reg.HOSTLINK_HMAC_HI_MAC 0 (mac.toNat / 2 ^ 32)).rd Reg.HOSTLINK_HMAC_HI_MAC 0 = mac.toNat / 2 ^ 32 := by
      rw [State.rd_wr_same _ _ _ _ (by decide)]
      exact Nat.mod_eq_of_lt (show mac.toNat / 2 ^ 32 < 2 ^ 16 by omega)
    have hlo : (f.wr Reg.HOSTLINK_HMAC_HI_MAC 0 (mac.toNat / 2 ^ 32)).rd Reg.HOSTLINK_HMAC_LO_MAC 0 = mac.toNat % 2 ^ 32 := by
      rw [State.rd_wr_addr _ _ Reg.HOSTLINK_HMAC_LO_MAC 0 0 _ (by decide), ← h6, State.rd_wr_same _ _ _ _ (by decide)]
      rfl
    have hport : (f.wr Reg.HOSTLINK_HMAC_HI_MAC 0 (mac.toNat / 2 ^ 32)).rd Reg.HOSTLINK_HOSTPORT_PORT 0 = port.toNat := by
      rw [State.rd_wr_addr _ _ Reg.HOSTLINK_HOSTPORT_PORT 0 0 _ (by decide), ← h6, State.rd_wr_addr _ _ Reg.HOSTLINK_HOSTPORT_PORT 0 0 _ (by decide),
        ← h5, State.rd_wr_same _ _ _ _ (by decide)]
      exact Nat.mod_eq_of_lt port.isLt
    have hip : (f.wr Reg.HOSTLINK_HMAC_HI_MAC 0 (mac.toNat / 2 ^ 32)).reg (Reg.HOSTLINK_HOSTIP_IP.addr 0) = ip := by
      rw [State.reg_wr_other _ _ _ _ (by decide), ← h6, State.reg_wr_other _ _ _ _ (by decide), ← h5, State.reg_wr_other _ _ _ _ (by decide),
        ← h4, State.reg_setReg_same]
    unfold State.sessionHost
    rw [hhi, hlo, hport, hip, show mac.toNat / 2 ^ 32 * 2 ^ 32 + mac.toNat % 2 ^ 32 = mac.toNat by omega]
    exact congrArg₂ (fun m p => To.host m ip p) (BitVec.ofNat_toNat ..) (BitVec.ofNat_toNat ..)
  · refine State.on_of_rd ((fromA Reg.HOSTLINK_STAT_TAKEOVER (by decide)).trans ?_)
    rw [← h1, State.rd_wr_apart _ _ Reg.HOSTLINK_STAT_TAKEOVER 0 0 _ (by decide) (by decide)]
  · rw [State.wr_link, ← h6, State.wr_link, ← h5, State.wr_link, ← h4, State.setReg_link, ← h3, State.wr_link, ← h2, State.wr_link, ← h1,
      State.wr_link]

/-- The port with nothing of a session before. -/
def LinkSt.renewed (l : LinkSt) (n tmo : Nat) : LinkSt :=
  { l with lastSession := n, tmo := tmo, held := [], retx := [], cache := [], replies := [], slots := [], inq := [], fence := false, msgno := 1 }

/-- The log and the STATUS record of a new session's start, and the answer to its CONNECT. -/
def State.welcome (dest : To) (ip n seq : Nat) (x : Time × State) : State :=
  let s := x.2.log_ 0x70 4 true n 0 ip 0 x.1
  let first : StatusRec := ⟨x.1, 4, 0, 0, 0xFF, 0, 0xFF, 0, 0, 0⟩
  let item : TxItem := ⟨7, s.rd Reg.HAWSER_POS_POS 0, .own first.payload, 0, some 0⟩
  let part := leBytes 1 n ++ leBytes 3 0 ++ leBytes 4 4096 ++ leBytes 2 288 ++ leBytes 2 360
  let r : Reply := ⟨dest, 0, n, seq, respCode okCode 0x40 part, false, none, false, true⟩
  ({ s with link := { s.link with txq := item :: s.link.txq, replies := [r] } }).event 2

/-- The number of the session that opens after one of number `n`. -/
def nextSession (n : Nat) : Nat := if n = 255 then 1 else n + 1

/-- The device as the session before has ended. -/
def State.displaced (other : Bool) (s : State) : State :=
  ((if s.session != 0 && other then s.put Reg.HOSTLINK_STAT_TAKEOVER 0 true else s).endSession 4).dropBegun

theorem State.openSession_eq (mac : BitVec 48) (ip : Word) (port : Half) (tmo seq : Nat) (other : Bool) (s : State) :
    s.openSession mac ip port tmo seq other
      = State.welcome (.host mac ip port) ip.toNat (nextSession (s.displaced other).link.lastSession) seq
        (State.linkTime ((State.rxPause { s.displaced other with link := (s.displaced other).link.renewed (nextSession (s.displaced other).link.lastSession) tmo }).named mac ip port
          (nextSession (s.displaced other).link.lastSession) seq)) := rfl

theorem State.displaced_step (other : Bool) (s : State) : (s.displaced other).link.lastSession = s.link.lastSession
    ∧ (s.displaced other).on Reg.HOSTLINK_STAT_TAKEOVER 0 = (s.on Reg.HOSTLINK_STAT_TAKEOVER 0 || (s.session != 0 && other)) := by
  unfold State.displaced
  obtain ⟨a, ha⟩ : ∃ a, a = (if s.session != 0 && other then s.put Reg.HOSTLINK_STAT_TAKEOVER 0 true else s) := ⟨_, rfl⟩
  have hl : a.link = s.link := by
    rw [ha]
    split
    · exact State.put_link ..
    · rfl
  have ht : a.on Reg.HOSTLINK_STAT_TAKEOVER 0 = (s.on Reg.HOSTLINK_STAT_TAKEOVER 0 || (s.session != 0 && other)) := by
    rw [ha]
    split
    · next h => rw [State.on_put_same _ Reg.HOSTLINK_STAT_TAKEOVER 0 true (by decide), h, Bool.or_true]
    · next h => rw [Bool.eq_false_iff.2 h, Bool.or_false]
  rw [← ha]
  have hend := a.endSession_ends 4
  obtain ⟨_, _, _, _, _, _, hel⟩ := hend.link
  obtain ⟨hdf, hdl⟩ := (a.endSession 4).dropBegun_step
  refine ⟨hdl.trans (by rw [hel, hl]), ?_⟩
  rw [hdf.on Reg.HOSTLINK_STAT_TAKEOVER (by decide) (by decide), hend.fields.on Reg.HOSTLINK_STAT_TAKEOVER (by decide) (by decide), ht]

/-- The answer that a new session's host gets (R328). -/
def welcomePart (n : Nat) : List Byte := leBytes 1 n ++ leBytes 3 0 ++ leBytes 4 4096 ++ leBytes 2 288 ++ leBytes 2 360

theorem State.linkTime_logged (s : State) : s.Logged s.linkTime.2 := s.logged_eventTime 4 0

theorem State.welcome_step (dest : To) (ip n seq : Nat) (s : State) : let t := State.welcome dest ip n seq s.linkTime
    s.Fields [Reg.HOSTLINK_EVT_PEND] t ∧ ∃ e q, t.link = { s.link with evtN := e, txq := q, replies :=
      [⟨dest, 0, n, seq, respCode okCode 0x40 (welcomePart n), false, none, false, true⟩] } := by
  dsimp only
  unfold State.welcome
  dsimp only
  have hlog := s.linkTime_logged.trans (State.logged_log_ s.linkTime.2 0x70 4 true n 0 ip 0 s.linkTime.1)
  generalize s.linkTime.2.log_ 0x70 4 true n 0 ip 0 s.linkTime.1 = a at hlog ⊢
  exact ⟨(State.Fields.logged hlog).trans ((State.Fields.wr a Reg.HOSTLINK_EVT_PEND _ (by decide) List.mem_cons_self).trans (.of_regs rfl)), _, _, by
    rw [← hlog.link]; rfl⟩

theorem State.openSession_opens (mac : BitVec 48) (ip : Word) (port : Half) (tmo seq : Nat) (other : Bool) (s : State) (hn : s.link.lastSession ≤ 255) :
    let t := s.openSession mac ip port tmo seq other
    let n := nextSession s.link.lastSession
    t.session = n ∧ t.sessionHost = .host mac ip port ∧ t.rd Reg.HOSTLINK_TXSEQ_SEQ 0 = 0 ∧ t.rd Reg.HOSTLINK_CMDSEQ_SEQ 0 = (seq + 1) % 2 ^ 32
      ∧ t.on Reg.HOSTLINK_STAT_TAKEOVER 0 = (s.on Reg.HOSTLINK_STAT_TAKEOVER 0 || (s.session != 0 && other))
      ∧ ∃ e w p q, t.link = { (s.displaced other).link.renewed n tmo with evtN := e, wire := w, pausing := p, txq := q, replies :=
          [⟨.host mac ip port, 0, n, seq, respCode okCode 0x40 (welcomePart n), false, none, false, true⟩] } := by
  dsimp only
  rw [State.openSession_eq]
  obtain ⟨hlast, htake⟩ := s.displaced_step other
  rw [hlast]
  have h255 : nextSession s.link.lastSession ≤ 255 := by
    unfold nextSession
    split <;> omega
  generalize nextSession s.link.lastSession = n at h255 ⊢
  obtain ⟨u, hu⟩ : ∃ u, u = ({ s.displaced other with link := (s.displaced other).link.renewed n tmo } : State) := ⟨_, rfl⟩
  have hul : u.link = (s.displaced other).link.renewed n tmo := by rw [hu]
  have hut : u.on Reg.HOSTLINK_STAT_TAKEOVER 0 = (s.displaced other).on Reg.HOSTLINK_STAT_TAKEOVER 0 :=
    State.on_of_rd (State.rd_of_regs (by rw [hu]) _ 0)
  rw [← hu]
  obtain ⟨hvf, ⟨e, w, p, hvl⟩, -⟩ := u.rxPause_step
  generalize u.rxPause = v at hvf hvl ⊢
  obtain ⟨hs, htx, hcmd, hhost, htk, hxl⟩ := v.named_names mac ip port seq h255
  generalize v.named mac ip port n seq = x at hs htx hcmd hhost htk hxl ⊢
  obtain ⟨hf, e', q, hl⟩ := x.welcome_step (.host mac ip port) ip.toNat n seq
  generalize State.welcome (.host mac ip port) ip.toNat n seq x.linkTime = y at hf hl ⊢
  refine ⟨(hf.rd Reg.HOSTLINK_STAT_SESSION (by decide) (by decide)).trans hs, (State.sessionHost_of_regs (hf.rd _ (by decide) (by decide))
    (hf.rd _ (by decide) (by decide)) (hf.reg (by decide) (by decide)) (hf.rd _ (by decide) (by decide))).trans hhost,
    (hf.rd Reg.HOSTLINK_TXSEQ_SEQ (by decide) (by decide)).trans htx, (hf.rd Reg.HOSTLINK_CMDSEQ_SEQ (by decide) (by decide)).trans hcmd, ?_,
    e', w, p, q, by rw [hl, hxl, hvl, hul]⟩
  rw [hf.on Reg.HOSTLINK_STAT_TAKEOVER (by decide) (by decide), htk, hvf.on Reg.HOSTLINK_STAT_TAKEOVER (by decide) (by decide), hut, htake]

/-- An answer to a sender without a session is only queued. -/
theorem State.answerStranger_queues (dest : To) (seq code : Nat) (s : State) : let t := s.answerStranger dest seq code
    t.regs = s.regs ∧ ∃ r, t.link.replies = s.link.replies ++ [r] ∧ r.seq = seq ∧ r.payload = respCode code 0x40 [] := by
  refine ⟨rfl, _, rfl, rfl, rfl⟩

/-- The payload of a CONNECT. -/
def connectBytes (force : Bool) (tmo : Nat) : List Byte := leBytes 2 (if force then 1 else 0) ++ leBytes 2 tmo ++ leBytes 4 0

theorem length_connectBytes (force : Bool) (tmo : Nat) : (connectBytes force tmo).length = 8 := by
  simp only [connectBytes, List.length_append, length_leBytes]

theorem field_connect_force (force : Bool) (tmo : Nat) : field (connectBytes force tmo) 0 2 = if force then 1 else 0 := by
  unfold connectBytes
  rw [List.append_assoc]
  exact field_leBytes 2 _ _ (by split <;> decide)

theorem field_connect_tmo (force : Bool) {tmo : Nat} (h : tmo < 2 ^ 16) : field (connectBytes force tmo) 2 2 = tmo := by
  unfold connectBytes
  rw [List.append_assoc, field_append (k := 2) _ 2 (length_leBytes ..) (le_refl 2)]
  exact field_leBytes 2 tmo _ h

theorem State.hostConnect_eq (mac : BitVec 48) (ip : Word) (port : Half) (seq : Nat) (force : Bool) {tmo : Nat} (h : tmo < 2 ^ 16) (s : State) :
    s.hostConnect mac ip port seq (connectBytes force tmo)
      = if s.session = 0 || (s.session != 0 && decide (To.host mac ip port = s.sessionHost)) || force then
          s.openSession mac ip port tmo seq (!(s.session != 0 && decide (To.host mac ip port = s.sessionHost)))
        else s.answerStranger (.host mac ip port) seq busy := by
  unfold State.hostConnect
  dsimp only
  rw [length_connectBytes, field_connect_force, field_connect_tmo force h]
  cases force
  · rw [if_neg (by decide)]
    simp
  · rw [if_neg (by decide)]
    simp

/-! ### The link beneath the session (R321, R322, R329) -/

/-- LINK_UP, AN_DONE and FEC_LOCK. -/
def State.linkFlags (b : Bool) (s : State) : State :=
  ((s.put Reg.HOSTLINK_STAT_LINK_UP 0 b).put Reg.HOSTLINK_STAT_AN_DONE 0 b).put Reg.HOSTLINK_STAT_FEC_LOCK 0 b

theorem State.linkFlags_step (b : Bool) (s : State) : let t := s.linkFlags b
    s.PortStep [Reg.HOSTLINK_STAT_LINK_UP, Reg.HOSTLINK_STAT_AN_DONE, Reg.HOSTLINK_STAT_FEC_LOCK] t
      ∧ t.on Reg.HOSTLINK_STAT_LINK_UP 0 = b ∧ t.on Reg.HOSTLINK_STAT_AN_DONE 0 = b ∧ t.on Reg.HOSTLINK_STAT_FEC_LOCK 0 = b
      ∧ (∀ a, a ≠ Reg.HOSTLINK_STAT_LINK_UP.addr 0 → t.reg a = s.reg a) ∧ { t with regs := s.regs } = s := by
  dsimp only
  unfold State.linkFlags
  refine ⟨(State.PortStep.put s Reg.HOSTLINK_STAT_LINK_UP b (by decide) (by decide)).trans ((State.PortStep.put _ Reg.HOSTLINK_STAT_AN_DONE b (by decide)
    (by decide)).trans (.put _ Reg.HOSTLINK_STAT_FEC_LOCK b (by decide) (by decide))), ?_, ?_, State.on_put_same _ Reg.HOSTLINK_STAT_FEC_LOCK 0 b (by decide),
    fun a ha => ?_, ?_⟩
  · rw [State.on_put_apart _ Reg.HOSTLINK_STAT_FEC_LOCK Reg.HOSTLINK_STAT_LINK_UP 0 0 b (by decide) (by decide),
      State.on_put_apart _ Reg.HOSTLINK_STAT_AN_DONE Reg.HOSTLINK_STAT_LINK_UP 0 0 b (by decide) (by decide)]
    exact State.on_put_same s Reg.HOSTLINK_STAT_LINK_UP 0 b (by decide)
  · rw [State.on_put_apart _ Reg.HOSTLINK_STAT_FEC_LOCK Reg.HOSTLINK_STAT_AN_DONE 0 0 b (by decide) (by decide)]
    exact State.on_put_same _ Reg.HOSTLINK_STAT_AN_DONE 0 b (by decide)
  · rw [State.reg_put_other _ Reg.HOSTLINK_STAT_FEC_LOCK 0 b ha, State.reg_put_other _ Reg.HOSTLINK_STAT_AN_DONE 0 b ha,
      State.reg_put_other _ Reg.HOSTLINK_STAT_LINK_UP 0 b ha]
  · simp only [State.put, State.wr, State.setReg]

/-- The host link comes up, with what auto-negotiation advertises (R321). -/
theorem State.trained_step (s : State) : let t := (s.emit s.advert).linkFlags true
    t.on Reg.HOSTLINK_STAT_LINK_UP 0 = true ∧ t.on Reg.HOSTLINK_STAT_AN_DONE 0 = true ∧ t.on Reg.HOSTLINK_STAT_FEC_LOCK 0 = true
      ∧ (∀ a, a ≠ Reg.HOSTLINK_STAT_LINK_UP.addr 0 → t.reg a = s.reg a) ∧ { t with regs := s.regs, link := s.link } = s
      ∧ t.link = { s.link with wire := .advert true true (s.on Reg.HOSTLINK_CTRL_PRX 0) :: s.link.wire } := by
  obtain ⟨-, hup, han, hfec, hreg, hrest⟩ := (s.emit s.advert).linkFlags_step true
  generalize (s.emit s.advert).linkFlags true = t at hup han hfec hreg hrest ⊢
  have hs (u : State) (h : { u with regs := s.regs } = s.emit s.advert) : { u with link := s.link, regs := s.regs } = s ∧ u.link = (s.emit s.advert).link :=
    have h1 := congrArg (fun x : State => { x with link := s.link }) h
    have h2 := congrArg State.link h
    ⟨h1, h2⟩
  exact ⟨hup, han, hfec, hreg, (hs t hrest).1, (hs t hrest).2⟩

/-- The host link goes down, and its session with it (R329). -/
theorem State.hostDown_step (s : State) : let t := s.hostDown
    t.on Reg.HOSTLINK_STAT_LINK_UP 0 = false ∧ t.on Reg.HOSTLINK_STAT_PAUSED 0 = false ∧ t.session = 0 ∧ t.link.retx = [] ∧ t.link.txq = s.link.txq
      ∧ (s.session ≠ 0 → t.on Reg.HOSTLINK_STAT_LINK_LOST 0 = true ∧ t.bit Reg.HOSTLINK_EVT_PEND 0 4 = true
        ∧ (s.rd Reg.LOCK_STAT_SRC 0 = 2 → s.lock.session = s.session → t.rd Reg.LOCK_STAT_SRC 0 = 0)) := by
  have heq : s.hostDown = State.endSession 3 (State.put { s.linkFlags false with link := { (s.linkFlags false).link with
      replies := (s.linkFlags false).link.replies.filter (fun r => decide (r.dest = To.hawser)), retx := [], pausing := false } }
      Reg.HOSTLINK_STAT_PAUSED 0 false) := rfl
  dsimp only
  rw [heq]
  obtain ⟨⟨hf, ⟨_, _, _, hl⟩, hk⟩, hup, -⟩ := s.linkFlags_step false
  generalize s.linkFlags false = a at hf hl hk hup ⊢
  obtain ⟨b, hb⟩ : ∃ b, b = ({ a with link := { a.link with replies := a.link.replies.filter (fun r => decide (r.dest = To.hawser)), retx := [], pausing := false } } : State) := ⟨_, rfl⟩
  have hbr (f : Field) : b.rd f 0 = a.rd f 0 := State.rd_of_regs (by rw [hb]) f 0
  have hbx : b.link.retx = [] ∧ b.link.txq = a.link.txq ∧ b.lock = a.lock := by rw [hb]; exact ⟨rfl, rfl, rfl⟩
  rw [← hb]
  clear hb
  obtain ⟨hcf, ⟨_, _, _, hcl⟩, hck⟩ := State.PortStep.put b Reg.HOSTLINK_STAT_PAUSED false (by decide) (List.mem_singleton_self _)
  have hcp := b.on_put_same Reg.HOSTLINK_STAT_PAUSED 0 false (by decide)
  generalize b.put Reg.HOSTLINK_STAT_PAUSED 0 false = c at hcf hcl hck hcp ⊢
  have keep (f : Field) (h1 : ([Reg.HOSTLINK_STAT_PAUSED].all fun g => g.clear f) = true) (hl : outsideLog (f.addr 0)) : c.rd f 0 = a.rd f 0 :=
    (hcf.rd f h1 hl).trans (hbr f)
  have hend := c.endSession_ends 3
  obtain ⟨_, _, _, _, _, _, hel⟩ := hend.link
  have hses : c.session = s.session := (keep Reg.HOSTLINK_STAT_SESSION (by decide) (by decide)).trans (hf.rd _ (by decide) (by decide))
  refine ⟨?_, ?_, hend.session, by rw [hel, hcl]; exact hbx.1, by rw [hel, hcl]; exact hbx.2.1.trans (by rw [hl]), fun h => ?_⟩
  · exact (hend.fields.on Reg.HOSTLINK_STAT_LINK_UP (by decide) (by decide)).trans ((State.on_of_rd (keep _ (by decide) (by decide))).trans hup)
  · exact (hend.fields.on Reg.HOSTLINK_STAT_PAUSED (by decide) (by decide)).trans hcp
  · rw [← hses] at h
    refine ⟨hend.lost h rfl, hend.event h (by decide), fun h2 hn => hend.lock h ?_ ?_⟩
    · exact (keep Reg.LOCK_STAT_SRC (by decide) (by decide)).trans ((hf.rd _ (by decide) (by decide)).trans h2)
    · rw [hck, hbx.2.2, hk, hn, hses]

/-! ### The statement -/

/-- Settles O47: openings by `openSession_opens`, ends by `endSession_ends`. -/
theorem sessions : Obligations.Sessions := by
  refine ⟨fun h mac ip port session origin seq force tmo s htmo => ?_, fun s hs ht => ?_, fun s h => ?_, fun s h => ?_, fun s h => ?_,
    fun s hm he => ?_, fun s h => ?_⟩
  · intro p mine hm hup ha hfill
    obtain ⟨u, hu⟩ : ∃ u, u = s.fecCount h.fecCe h.fecUe := ⟨_, rfl⟩
    have hlink : u.link = s.link := by rw [hu, s.link_fecCount]
    have hses : u.session = s.session := by rw [hu, s.fecCount_session]
    have hhost : u.sessionHost = s.sessionHost := by rw [hu, s.fecCount_host]
    have htk : u.on Reg.HOSTLINK_STAT_TAKEOVER 0 = s.on Reg.HOSTLINK_STAT_TAKEOVER 0 := by
      rw [hu]
      exact State.on_of_rd (s.fecCount_rd _ _ _ (by decide) (by decide))
    have hmine : (u.session != 0 && decide (To.host mac ip port = u.sessionHost)) = decide mine := by
      rw [hses, hhost, Bool.eq_iff_iff, Bool.and_eq_true, bne_iff_ne, decide_eq_true_eq, decide_eq_true_eq]
      exact and_congr_right fun _ => eq_comm
    have hp : p = connectBytes force tmo := rfl
    have hex : exec (.connect (.host h mac ip port session origin seq) p) s = .next (u.hostConnect mac ip port seq.toNat p) := by
      rw [exec_connect, execConnect, State.arrive_host hm hup ha (by rw [hp, length_connectBytes]; omega), if_pos rfl, hu]
    rw [hex, hp, State.hostConnect_eq _ _ _ _ _ htmo, hmine, ← hu]
    refine ⟨fun hopen hlast => ?_, fun h0 hm' hf => ?_⟩
    · intro n
      have hgo : (decide (u.session = 0) || decide mine || force) = true := by
        rw [hses, Bool.or_eq_true, Bool.or_eq_true, decide_eq_true_eq, decide_eq_true_eq, or_assoc]
        exact hopen
      rw [if_pos hgo]
      obtain ⟨h1, h2, h3, h4, h5, e, w, pa, q, hl⟩ := u.openSession_opens mac ip port tmo seq.toNat (!decide mine) (by rw [hlink]; exact hlast)
      rw [hlink] at h1 hl
      refine ⟨_, rfl, h1, h2, h3, h4, by rw [hl]; rfl, ?_, by rw [hl]; rfl, by rw [hl]; rfl, by rw [hl]; rfl, by rw [hl]; rfl, by rw [hl]; rfl,
        _, by rw [hl], rfl, rfl, rfl⟩
      rw [h5, htk, hses]
      refine congrArg (s.on Reg.HOSTLINK_STAT_TAKEOVER 0 || ·) ?_
      rw [Bool.eq_iff_iff, Bool.and_eq_true, bne_iff_ne, Bool.not_eq_true', decide_eq_false_iff_not, decide_eq_true_eq]
    · rw [if_neg (by rw [hses]; simp [h0, hm', hf])]
      obtain ⟨hr, r, hq, hrs, hrp⟩ := u.answerStranger_queues (.host mac ip port) seq.toNat busy
      exact ⟨_, rfl, hr, r, by rw [hq, hlink], hrs, hrp⟩
  · have hend := s.endSession_ends 2
    exact ⟨_, congrArg Host.Outcome.next (if_neg (by simp [hs, ht])), hend.session, hend.timeout hs rfl, hend.event hs (by decide), hend.lock hs⟩
  · exact congrArg Host.Outcome.next (if_pos (by simpa using h))
  · have hex : exec .linkDown s = .next s.hostDown := congrArg Host.Outcome.next (if_pos h)
    obtain ⟨hup, hpa, h0, hx, hq, hrest⟩ := s.hostDown_step
    exact ⟨_, hex, hup, hpa, h0, hx, hq, hrest⟩
  · exact congrArg Host.Outcome.next (if_neg (by rw [h]; decide))
  · obtain ⟨hup, han, hfec, hreg, hrest, hl⟩ := s.trained_step
    exact ⟨_, congrArg Host.Outcome.next (if_neg (by rw [he]; simp; omega)), hup, han, hfec, hreg, hrest, hl⟩
  · exact congrArg Host.Outcome.next (if_pos (by simpa using h))

end Sys2Proof.Machine
end
-- ==== Sys2Proof/Proofs/CommandIntake.lean ====
section
/-! Tilvar commands as they arrive, are taken in order and are answered, on the host port and on the UART (R326, R330, R331, R333, R341, R443). -/

namespace Sys2Proof.Machine

/-! ### Commands are arrivals -/

/-- The device runs a plain command as the arrival of its TYPE and payload; the reserved one names no TYPE of Table 14.6. -/
theorem exec_plain (v : Via) (p : List Byte) (len : Half) (data : List Byte) (ty : Byte) (s : State) : ∀ x ∈ plainCommands v p len data ty,
    (0x40 ≤ ty.toNat ∧ ty.toNat ≤ 0x4A ∧ x.2.1 = 0x7F) ∨ (exec x.1 s = .next (s.arrive v x.2.1 x.2.2) ∧ x.2.1 ≠ 0x40 ∧ x.2.1 ≠ 0x44) := by
  unfold plainCommands
  have run {i : Instr} {n : Nat} {q : List Byte} (h : exec i s = .next (s.arrive v n q)) (h1 : n ≠ 0x40) (h2 : n ≠ 0x44) :
      (0x40 ≤ ty.toNat ∧ ty.toNat ≤ 0x4A ∧ n = 0x7F) ∨ (exec i s = .next (s.arrive v n q) ∧ n ≠ 0x40 ∧ n ≠ 0x44) := .inr ⟨h, h1, h2⟩
  refine List.forall_mem_cons.2 ⟨run (n := 0x41) rfl (by decide) (by decide), List.forall_mem_cons.2 ⟨run (n := 0x42) rfl (by decide) (by decide),
    List.forall_mem_cons.2 ⟨run (n := 0x43) rfl (by decide) (by decide), List.forall_mem_cons.2 ⟨run (n := 0x45) rfl (by decide) (by decide),
    List.forall_mem_cons.2 ⟨run (n := 0x46) rfl (by decide) (by decide), List.forall_mem_cons.2 ⟨run (n := 0x47) rfl (by decide) (by decide),
    List.forall_mem_cons.2 ⟨run (n := 0x48) rfl (by decide) (by decide), List.forall_mem_cons.2 ⟨run (n := 0x4A) rfl (by decide) (by decide),
    List.forall_mem_cons.2 ⟨run (n := 0x49) rfl (by decide) (by decide), List.forall_mem_cons.2 ⟨run (n := 0x49) rfl (by decide) (by decide),
    List.forall_mem_cons.2 ⟨run (n := 0x49) rfl (by decide) (by decide), List.forall_mem_cons.2 ⟨run (n := 0x49) rfl (by decide) (by decide),
    List.forall_mem_cons.2 ⟨run (n := 0x49) rfl (by decide) (by decide), List.forall_mem_singleton.2 ?_⟩⟩⟩⟩⟩⟩⟩⟩⟩⟩⟩⟩⟩
  by_cases h : 0x40 ≤ ty.toNat ∧ ty.toNat ≤ 0x4A
  · exact .inl ⟨h.1, h.2, if_pos h⟩
  · refine .inr ?_
    dsimp only
    rw [if_neg h]
    exact ⟨rfl, by omega, by omega⟩

section
variable {s : State} {h : RxHead} {ip : Word} {mac : BitVec 48} {port : Half} {session origin : Byte} {seq : Word} {ty : Nat} {p : List Byte}

/-! ### Commands that are not taken (R324, R326, R330, R341) -/

theorem State.arrive_unheard (h0 : s.mode < 3 ∨ s.on Reg.HOSTLINK_STAT_LINK_UP 0 = false) :
    s.arrive (.host h mac ip port session origin seq) ty p = s := by
  unfold State.arrive
  by_cases hm : s.mode < 3
  · exact if_pos hm
  · have hd : s.on Reg.HOSTLINK_STAT_LINK_UP 0 = false := h0.resolve_left hm
    rw [if_neg hm]
    dsimp only
    rw [if_pos (by rw [hd]; rfl)]

/-- A frame that its headers or the buffer shut out is discarded. -/
theorem State.arrive_bad (hm : 3 ≤ s.mode) (hup : s.on Reg.HOSTLINK_STAT_LINK_UP 0 = true)
    (hb : 65536 < s.rxFill + 24 + p.length ∨ ¬ s.admits h) : s.arrive (.host h mac ip port session origin seq) ty p
      = (s.fecCount h.fecCe h.fecUe).rxDrop := by
  unfold State.arrive
  have hgo : (!(s.fecCount h.fecCe h.fecUe).accepts h || decide (65536 < (s.fecCount h.fecCe h.fecUe).rxFill + 24 + p.length)) = true := by
    rw [s.fecCount_accepts, Bool.or_eq_true, Bool.not_eq_true', decide_eq_true_eq]
    unfold State.rxFill at hb ⊢
    rw [s.link_fecCount]
    rcases hb with hf | ha
    · exact .inr hf
    · exact .inl (Bool.eq_false_iff.2 fun hx => ha ((s.accepts_iff h).1 hx))
  rw [if_neg (by omega)]
  dsimp only
  rw [if_neg (by rw [hup]; decide), if_pos hgo]

theorem State.hostCmd_eq (dest : To) (n origin seq ty : Nat) (p : List Byte) (s : State) : s.hostCmd dest n origin seq ty p
    = if s.session ≠ 0 ∧ n = s.session ∧ s.sessionHost = dest then s.bySeq dest origin seq ty p else s.rxDrop := by
  unfold State.hostCmd
  by_cases hc : s.session ≠ 0 ∧ n = s.session ∧ s.sessionHost = dest
  · obtain ⟨h0, hn, hd⟩ := hc
    have hgo : ¬ (decide (s.session = 0) || n != s.session || dest != s.sessionHost) = true := by simp [h0, hn, hd]
    exact (if_neg hgo).trans (if_pos ⟨h0, hn, hd⟩).symm
  · rw [if_neg hc, if_pos]
    simp only [Bool.or_eq_true, decide_eq_true_eq, bne_iff_ne]
    by_cases h0 : s.session = 0
    · exact .inl (.inl h0)
    · by_cases hn : n = s.session
      · exact .inr fun hd => hc ⟨h0, hn, hd.symm⟩
      · exact .inl (.inr hn)

/-- The discard of a frame is counted in RXDROP (R324). -/
theorem State.fecCount_rxDrop (s : State) (ce ue : Nat) : let t := (s.fecCount ce ue).rxDrop
    t.rd Reg.HOSTLINK_RXDROP_N 0 = Min.min (s.rd Reg.HOSTLINK_RXDROP_N 0 + 1) (2 ^ 32 - 1)
      ∧ (∀ a, a ≠ Reg.HOSTLINK_RXDROP_N.addr 0 → t.reg a = (s.fecCount ce ue).reg a) ∧ { t with regs := s.regs } = s := by
  dsimp only
  unfold State.rxDrop
  refine ⟨?_, fun a ha => by unfold State.bump; exact State.reg_wr_other _ _ 0 _ ha,
    by simp only [State.fecCount, State.bump, State.wr, State.setReg]⟩
  rw [State.rd_bump_same _ _ _ _ (by decide), s.fecCount_rd ce ue Reg.HOSTLINK_RXDROP_N (by decide) (by decide)]
  rfl

end

/-- Settles O43: the tests of a frame in their order, then the session's and the SEQ's. -/
theorem commandIntake : Obligations.CommandIntake := by
  intro h mac ip port session origin seq p data len ty s v dest counted next back mine dropped hty x hx
  have hrun : exec x.1 s = .next (s.arrive v x.2.1 x.2.2) ∧ x.2.1 ≠ 0x40 := by
    rcases List.mem_cons.1 hx with rfl | hx
    · exact ⟨rfl, show (0x44 : Nat) ≠ 0x40 by decide⟩
    · rcases exec_plain v p len data ty s x hx with ⟨h1, h2, -⟩ | ⟨hr, h1, -⟩
      · omega
      · exact ⟨hr, h1⟩
  obtain ⟨hex, h40⟩ := hrun
  rw [hex]
  have hdrop : dropped counted.rxDrop := s.fecCount_rxDrop ..
  have hlink : counted.link = s.link := s.link_fecCount ..
  have hnext : counted.rd Reg.HOSTLINK_CMDSEQ_SEQ 0 = next := s.fecCount_rd _ _ _ (by decide) (by decide)
  have hmine : (counted.session ≠ 0 ∧ session.toNat = counted.session ∧ counted.sessionHost = dest) ↔ mine := by
    rw [s.fecCount_session, s.fecCount_host]
  have hlt : next < 2 ^ 32 := State.rd_lt ..
  have hself : next = seq.toNat → back = 0 := by
    intro heq
    show (next + 2 ^ 32 - seq.toNat) % 2 ^ 32 = 0
    rw [← heq]
    omega
  have hseq : counted.bySeq dest origin.toNat seq.toNat x.2.1 x.2.2 = if seq.toNat = next then counted.takeCmd dest origin.toNat seq.toNat x.2.1 x.2.2
      else if (decide (1 ≤ back) && decide (back ≤ 256)) = true then counted.repeatCmd seq.toNat else counted.rxDrop := by
    unfold State.bySeq
    rw [hnext]
  refine ⟨fun h0 => congrArg Host.Outcome.next (State.arrive_unheard h0), fun hm hup => ⟨fun hbad => ?_, fun hfill ha hm' h1 h2 => ?_⟩⟩
  · refine ⟨counted.rxDrop, congrArg Host.Outcome.next ?_, hdrop⟩
    by_cases hb : 65536 < s.rxFill + 24 + x.2.2.length ∨ ¬ s.admits h
    · exact State.arrive_bad hm hup hb
    · rw [not_or, not_not] at hb
      refine (State.arrive_host hm hup hb.2 (not_lt.1 hb.1)).trans ?_
      rw [if_neg h40, State.hostCmd_eq]
      by_cases hmi : mine
      · have hback : 256 < back := ((hbad.resolve_left hb.1).resolve_left fun h => h hb.2).resolve_left fun h => h hmi
        rw [if_pos (hmine.2 hmi), hseq, if_neg fun he => by rw [hself he.symm] at hback; omega, if_neg]
        rw [Bool.and_eq_true, decide_eq_true_eq, decide_eq_true_eq]
        omega
      · exact if_neg fun hx => hmi (hmine.1 hx)
  · have hgo : s.arrive v x.2.1 x.2.2 = counted.repeatCmd seq.toNat := by
      refine (State.arrive_host hm hup ha hfill).trans ?_
      rw [if_neg h40, State.hostCmd_eq, if_pos (hmine.2 hm'), hseq, if_neg fun he => by rw [hself he.symm] at h1; omega,
        if_pos (by rw [decide_eq_true h1, decide_eq_true h2]; rfl)]
    rw [hgo]
    unfold State.repeatCmd
    rw [hlink]
    refine ⟨fun hn => ?_, fun r hr => ?_⟩
    · rw [hn]
    · rw [hr]
      exact ⟨_, rfl, rfl, rfl⟩

/-! ### Commands carried out in order (R330, R331, R333) -/

section
variable {s : State} {h : RxHead} {ip : Word} {mac : BitVec 48} {port : Half} {session origin : Byte} {seq : Word}

/-- What awaits its answer when a command is taken in order. -/
def State.taken (dest : To) (origin seq ty : Nat) (p : List Byte) (s : State) : State :=
  let s := s.wr Reg.HOSTLINK_CMDSEQ_SEQ 0 (seq + 1)
  { s with link := { s.link with slots := s.link.slots ++ [⟨seq, ty, origin, dest, accessCount ty p, none, ty = 0x41⟩], inq := s.link.inq ++ [⟨seq, ty, origin, p⟩] } }

theorem State.takeCmd_eq (dest : To) (origin seq ty : Nat) (p : List Byte) (s : State) :
    s.takeCmd dest origin seq ty p = (s.taken dest origin seq ty p).serveCmds := rfl

theorem State.serveCmd_own {s t : State} {w : Waiting} {rest : List Waiting} (hq : s.link.inq = w :: rest) (hf : s.link.fence = false)
    (ht : { s with link := { s.link with inq := rest } } = t) (ho : w.origin = 0 ∨ t.isHead = false) : s.serveCmd = t.runCmd w := by
  subst ht
  unfold State.serveCmd
  rw [hq]
  dsimp only
  rw [hf, if_neg (by decide)]
  refine if_neg ?_
  rw [Bool.and_eq_true, bne_iff_ne, not_and_or, not_not, Bool.not_eq_true]
  exact ho

/-- With nothing before it, a command taken in order is run at once, or for another device forwarded. -/
theorem State.takeCmd_alone {s : State} {origin : Nat} (dest : To) (seq ty : Nat) (p : List Byte) (hq : s.link.inq = []) (hs : s.link.slots = [])
    (hf : s.link.fence = false) (ho : origin = 0 ∨ s.isHead = false) : s.takeCmd dest origin seq ty p
      = ((s.taking dest origin seq ty p).runCmd ⟨seq, ty, origin, p⟩).rxPause := by
  rw [State.takeCmd_eq]
  have hinq : (s.taken dest origin seq ty p).link.inq = [⟨seq, ty, origin, p⟩] := by
    unfold State.taken
    dsimp only
    rw [State.wr_link, hq]
    rfl
  have hfence : (s.taken dest origin seq ty p).link.fence = false := by
    unfold State.taken
    dsimp only
    rw [State.wr_link]
    exact hf
  have htaking : ({ s.taken dest origin seq ty p with link := { (s.taken dest origin seq ty p).link with inq := [] } } : State) = s.taking dest origin seq ty p := by
    unfold State.taken State.taking
    dsimp only
    rw [State.wr_link, hs]
    rfl
  have hhead : (s.taking dest origin seq ty p).isHead = s.isHead :=
    State.isHead_of_ctrl (State.reg_wr_other s Reg.HOSTLINK_CMDSEQ_SEQ 0 _ (by decide))
  unfold State.serveCmds State.each
  rw [hinq, List.foldl_cons, List.foldl_nil]
  dsimp only
  rw [State.serveCmd_own hinq hfence htaking (by rw [hhead]; exact ho)]

/-- A command that is next in order on the host port. -/
theorem State.arrive_next {ty : Nat} {p : List Byte} (hty : ty ≠ 0x40) (hn : s.nextInOrder h mac ip port session origin seq p.length) :
    s.arrive (.host h mac ip port session origin seq) ty p
      = (((s.fecCount h.fecCe h.fecUe).taking (.host mac ip port) origin.toNat seq.toNat ty p).runCmd ⟨seq.toNat, ty, origin.toNat, p⟩).rxPause := by
  obtain ⟨hm, hup, ha, h0, hses, hhost, hseq, ho, hq, hsl, hf, hlen⟩ := hn
  have hfill : s.rxFill = 0 := by
    unfold State.rxFill
    rw [hq]
    rfl
  have hhead : (s.fecCount h.fecCe h.fecUe).isHead = s.isHead := State.isHead_of_ctrl (s.fecCount_reg _ _ (by decide) (by decide))
  have ho' : origin.toNat = 0 ∨ (s.fecCount h.fecCe h.fecUe).isHead = false := by
    rcases ho with h0 | h0
    · exact .inl (by rw [h0]; rfl)
    · exact .inr (hhead.trans h0)
  rw [State.arrive_host hm hup ha (by omega), if_neg hty, State.hostCmd_eq, if_pos (by rw [s.fecCount_session, s.fecCount_host]; exact ⟨h0, hses, hhost⟩)]
  unfold State.bySeq
  rw [if_pos (hseq.trans (s.fecCount_rd _ _ Reg.HOSTLINK_CMDSEQ_SEQ (by decide) (by decide)).symm)]
  exact State.takeCmd_alone _ _ _ _ (by rw [s.link_fecCount]; exact hq) (by rw [s.link_fecCount]; exact hsl) (by rw [s.link_fecCount]; exact hf) ho'

end

theorem State.runCmd_plain {w : Waiting} {s : State} (h : w.ty ≠ 0x44) : s.runCmd w
    = (s.command .host s.session w.ty w.payload).2.formResp w.seq (s.command .host s.session w.ty w.payload).1 :=
  if_neg (by simp [h])

/-- The one command that waits for its response gets it, and its response joins class 1. -/
theorem State.formResp_one {s : State} {x : CmdSlot} (b : List Byte) (h : s.link.slots = [x]) (hx : x.resp = none) :
    (s.formResp x.seq b).link.slots = [] ∧ (s.formResp x.seq b).link.replies = s.link.replies
      ++ [⟨x.dest, x.origin, s.session, x.seq, b, false, none, x.ends && b.head? = some 0, true⟩] := by
  have hfill : (if (x.seq = x.seq && x.resp = none) = true then { x with resp := some b } else x) = { x with resp := some b } :=
    if_pos (by rw [hx]; simp)
  have hslots : s.link.slots.map (fun y => if (y.seq = x.seq && y.resp = none) = true then { y with resp := some b } else y) = [{ x with resp := some b }] := by
    rw [h, List.map_singleton, hfill]
  unfold State.formResp State.releaseSlots
  dsimp only
  rw [hslots]
  exact ⟨rfl, rfl⟩

/-- A response formed changes nothing but the response slots and class 1. -/
theorem State.formResp_rest (s : State) (seq : Nat) (b : List Byte) : let t := s.formResp seq b
    ∃ q r, t = { s with link := { s.link with slots := q, replies := r } } := ⟨_, _, rfl⟩

/-- RXFULL and PAUSE follow the buffer, and nothing else changes. -/
theorem State.rxPause_rest (s : State) : let t := s.rxPause
    (∃ regs w p, t = { s with regs := regs, link := { s.link with wire := w, pausing := p } })
      ∧ ∀ a, a ≠ Reg.HOSTLINK_STAT_RXFULL.addr 0 → t.reg a = s.reg a := by
  dsimp only
  unfold State.rxPause
  dsimp only
  have hr (a : Nat) (ha : a ≠ Reg.HOSTLINK_STAT_RXFULL.addr 0) := State.reg_put_other s Reg.HOSTLINK_STAT_RXFULL 0 (decide (49152 ≤ s.rxFill)) ha
  have hx : ∃ regs, s.put Reg.HOSTLINK_STAT_RXFULL 0 (decide (49152 ≤ s.rxFill)) = { s with regs := regs } := ⟨_, rfl⟩
  generalize s.put Reg.HOSTLINK_STAT_RXFULL 0 (decide (49152 ≤ s.rxFill)) = t at hr hx ⊢
  obtain ⟨regs, rfl⟩ := hx
  split
  · exact ⟨⟨regs, _, _, rfl⟩, hr⟩
  · split
    · exact ⟨⟨regs, _, _, rfl⟩, hr⟩
    · exact ⟨⟨regs, _, _, rfl⟩, hr⟩

/-! ### FENCE (R26, R333) -/

theorem State.runCmd_fence {w : Waiting} {s : State} (h : w.ty = 0x44) (hp : w.payload = []) :
    s.runCmd w = { s with link := { s.link with fence := true } } := if_pos (by simp [h, hp])

/-- The answer of the FENCE that holds the commands behind it: its response joins class 1. -/
theorem State.hostFence_answers {s : State} {x : CmdSlot} (hf : s.link.fence = true) (hs : s.link.slots = [x]) (hq : s.link.inq = [])
    (hty : x.ty = 0x44) (hx : x.resp = none) (ho : x.origin = 0 ∨ s.isHead = false) (he : x.ends = false) : let u := s.hostFence
    u.link.fence = false ∧ u.link.replies = s.link.replies ++ [⟨x.dest, x.origin, s.session, x.seq, respCode 0 0x44 [], false, none, false, true⟩]
      ∧ ∀ a, a ≠ Reg.HOSTLINK_STAT_RXFULL.addr 0 → u.reg a = s.reg a := by
  obtain ⟨v, hv⟩ : ∃ v, v = ({ s with link := { s.link with fence := false } } : State) := ⟨_, rfl⟩
  have hvr : v.regs = s.regs := by rw [hv]
  have hvl : v.link.fence = false ∧ v.link.slots = [x] ∧ v.link.inq = [] ∧ v.link.replies = s.link.replies := by
    rw [hv]
    exact ⟨rfl, hs, hq, rfl⟩
  obtain ⟨vf, vs, vq, vr⟩ := hvl
  have hhead : v.isHead = s.isHead := State.isHead_of_ctrl (State.reg_of_regs hvr _)
  have hfind : s.link.slots.find? (fun y => y.ty = 0x44 && decide (y.resp = none) && (y.origin = 0 || !v.isHead)) = some x := by
    rw [hs, List.find?_cons_of_pos]
    rcases ho with h0 | h0 <;> simp [hty, hx, h0, hhead]
  have hfence : s.hostFence = (v.formResp x.seq (respCode okCode 0x44 [])).serveCmds := by
    unfold State.hostFence
    rw [if_neg (by rw [hf]; decide)]
    dsimp only
    rw [← hv, hfind]
  obtain ⟨-, hrep⟩ := State.formResp_one (respCode okCode 0x44 []) vs hx
  obtain ⟨q, r, hform⟩ := v.formResp_rest x.seq (respCode okCode 0x44 [])
  have hses : v.session = s.session := State.rd_of_regs hvr _ 0
  dsimp only
  rw [hfence]
  generalize v.formResp x.seq (respCode okCode 0x44 []) = y at hrep hform ⊢
  have hyq : y.link.inq = [] := by rw [hform]; exact vq
  have hserve : y.serveCmds = y.rxPause := by
    unfold State.serveCmds State.each
    rw [hyq]
    rfl
  obtain ⟨⟨regs, w, p, ht⟩, hreg⟩ := y.rxPause_rest
  rw [hserve]
  refine ⟨?_, ?_, fun a ha => (hreg a ha).trans ?_⟩
  · rw [ht, hform]
    exact vf
  · rw [ht]
    refine hrep.trans ?_
    rw [vr, hses, he]
    rfl
  · rw [hform]
    exact State.reg_of_regs hvr a

/-! ### Frames on the UART (R443) -/

theorem State.arrive_uart {s : State} {tag : Byte} {ty : Nat} {p : List Byte} (hm : 3 ≤ s.mode) (hq : s.link.uartq = []) (hf : s.link.uartFence = none)
    (hl : p.length ≤ 1448) : s.arrive (.uart tag) ty p = s.uartRun (tag.toNat, ty, p) := by
  have harr : s.arrive (.uart tag) ty p = s.uartCmd tag.toNat ty p := if_neg (by omega)
  have hwait : s.uartCmd tag.toNat ty p = State.uartServe { s with link := { s.link with uartq := s.link.uartq ++ [(tag.toNat, ty, p)] } } :=
    if_neg (by rw [hq]; simp; omega)
  have hs (l : List (Nat × Nat × List Byte)) (f : Option Nat) (h : s.link.uartq = l) (hf : s.link.uartFence = f) :
      ({ s with link := { s.link with uartq := l, uartFence := f } } : State) = s := by
    subst h hf
    rfl
  rw [harr, hwait, hq, List.nil_append]
  unfold State.uartServe State.each
  dsimp only
  rw [List.foldl_cons, List.foldl_nil]
  dsimp only
  rw [hf]
  dsimp only
  exact congrArg (State.uartRun (tag.toNat, ty, p)) (hs [] none hq hf)

theorem State.uartRun_locked {s : State} {tag ty : Nat} {p : List Byte} (h : ty ≠ 0x49) (hc : s.classOpen .uart = false) :
    s.uartRun (tag, ty, p) = s.uartAnswer tag (respCode 1 ty []) := if_pos (by simp [h, hc])

theorem State.uartRun_carried {s : State} {tag ty : Nat} {p : List Byte} (h : ty = 0x49 ∨ (s.classOpen .uart = true ∧ (ty = 0x42 ∨ ty = 0x43 ∨ ty = 0x47))) :
    s.uartRun (tag, ty, p) = (s.command .uart 0 ty p).2.uartAnswer tag (s.command .uart 0 ty p).1 := by
  have hgo : ¬ (ty != 0x49 && !s.classOpen .uart) = true := by
    rcases h with h | ⟨h, -⟩ <;> simp [h]
  have hty : ty = 0x49 ∨ ty = 0x42 ∨ ty = 0x43 ∨ ty = 0x47 := h.imp_right (·.2)
  unfold State.uartRun
  dsimp only
  rw [if_neg hgo]
  rcases hty with rfl | rfl | rfl | rfl <;> rfl

/-- What a command taken in order finds: its own slot, and the registers but CMDSEQ as they were. -/
theorem State.taking_step (dest : To) (origin seq ty : Nat) (p : List Byte) (s : State) : let w := s.taking dest origin seq ty p
    w.link.slots = [⟨seq, ty, origin, dest, accessCount ty p, none, ty = 0x41⟩] ∧ w.link.inq = [] ∧ w.link.replies = s.link.replies
      ∧ w.session = s.session ∧ w.rd Reg.HOSTLINK_CMDSEQ_SEQ 0 = (seq + 1) % 2 ^ 32
      ∧ ∀ a, a ≠ Reg.HOSTLINK_CMDSEQ_SEQ.addr 0 → w.reg a = s.reg a := by
  dsimp only
  unfold State.taking
  dsimp only
  have hl := State.wr_link s Reg.HOSTLINK_CMDSEQ_SEQ 0 (seq + 1)
  have hr (a : Nat) (ha : a ≠ Reg.HOSTLINK_CMDSEQ_SEQ.addr 0) := State.reg_wr_other s Reg.HOSTLINK_CMDSEQ_SEQ 0 (seq + 1) ha
  have hc := s.rd_wr_same Reg.HOSTLINK_CMDSEQ_SEQ 0 (seq + 1) (by decide)
  generalize s.wr Reg.HOSTLINK_CMDSEQ_SEQ 0 (seq + 1) = x at hl hr hc ⊢
  exact ⟨rfl, rfl, congrArg LinkSt.replies hl, State.rd_of_reg (hr _ (by decide)), hc, hr⟩

/-! ### The statement -/

/-- Settles O44: the command runs in the state that `taking` names; FENCE and the UART by their own lemmas. -/
theorem commandExecution : Obligations.CommandExecution := by
  refine ⟨fun h mac ip port session origin seq p data len ty s u b => ?_, fun h mac ip port session origin seq s hn => ?_,
    fun s hf => congrArg Host.Outcome.next (if_pos (by rw [hf]; rfl)), fun tag p data len ty s hm hq hf x hx hlen => ⟨fun hc b u hbu => ?_, fun h1 h2 hc => ?_⟩⟩
  · intro v dest hty x hx hn w hw
    obtain ⟨hex, h40, h44⟩ := (exec_plain v p len data ty s x hx).resolve_left fun h => by omega
    obtain ⟨hslots, -, -, hses, -, -⟩ := (s.fecCount h.fecCe h.fecUe).taking_step dest origin.toNat seq.toNat x.2.1 x.2.2
    rw [s.fecCount_session] at hses
    have hrun : s.arrive v x.2.1 x.2.2 = (u.formResp seq.toNat b).rxPause := by
      refine (State.arrive_next h40 hn).trans (congrArg State.rxPause ?_)
      rw [State.runCmd_plain h44, hses, hw]
    rw [hex, hrun]
    obtain ⟨q, r, hform⟩ := u.formResp_rest seq.toNat b
    have hone (hs : u.link.slots = ((s.fecCount h.fecCe h.fecUe).taking dest origin.toNat seq.toNat x.2.1 x.2.2).link.slots) :=
      State.formResp_one b (hs.trans hslots) rfl
    dsimp only at hone
    generalize u.formResp seq.toNat b = y at hform hone ⊢
    obtain ⟨⟨regs, wi, pa, ht⟩, hreg⟩ := y.rxPause_rest
    refine ⟨_, rfl, fun a ha => (hreg a ha).trans (by rw [hform]; rfl), by rw [ht, hform], by rw [ht, hform], fun hs => ?_⟩
    obtain ⟨h1, h2⟩ := hone hs
    rw [ht]
    refine ⟨h1, h2.trans ?_⟩
    rw [Bool.decide_and]
  · obtain ⟨-, -, -, -, -, -, -, ho, -⟩ := id hn
    obtain ⟨hslots, hinq, hrep, hses, hcmd, hreg⟩ := (s.fecCount h.fecCe h.fecUe).taking_step (.host mac ip port) origin.toNat seq.toNat 0x44 []
    rw [s.link_fecCount] at hrep
    rw [s.fecCount_session] at hses
    have hhead : ((s.fecCount h.fecCe h.fecUe).taking (.host mac ip port) origin.toNat seq.toNat 0x44 []).isHead = s.isHead :=
      State.isHead_of_ctrl ((hreg _ (by decide)).trans (s.fecCount_reg _ _ (by decide) (by decide)))
    have hrun := State.arrive_next (ty := 0x44) (p := []) (by decide) hn
    rw [State.runCmd_fence rfl rfl] at hrun
    generalize (s.fecCount h.fecCe h.fecUe).taking (.host mac ip port) origin.toNat seq.toNat 0x44 [] = w at hslots hinq hrep hses hcmd hhead hrun
    obtain ⟨v, hv⟩ : ∃ v, v = ({ w with link := { w.link with fence := true } } : State) := ⟨_, rfl⟩
    have hvr (a : Nat) : v.reg a = w.reg a := State.reg_of_regs (by rw [hv]) a
    have hvl : v.link.fence = true ∧ v.link.slots = w.link.slots ∧ v.link.inq = w.link.inq ∧ v.link.replies = w.link.replies := by
      rw [hv]
      exact ⟨rfl, rfl, rfl, rfl⟩
    obtain ⟨vf, vs, vq, vrep⟩ := hvl
    rw [← hv] at hrun
    obtain ⟨⟨regs, wi, pa, ht⟩, htreg⟩ := v.rxPause_rest
    have hpause := v.rxPause_step
    have hex : exec (.fence (.host h mac ip port session origin seq) []) s = .next v.rxPause := congrArg Host.Outcome.next hrun
    generalize v.rxPause = t at ht htreg hex hpause
    have htl : t.link.fence = true ∧ t.link.slots = v.link.slots ∧ t.link.inq = v.link.inq ∧ t.link.replies = v.link.replies := by
      rw [ht]
      exact ⟨vf, rfl, rfl, rfl⟩
    obtain ⟨tf, ts, tq, trep⟩ := htl
    have htses : t.session = s.session := (hpause.1.rd Reg.HOSTLINK_STAT_SESSION (by decide) (by decide)).trans ((State.rd_of_reg (hvr _)).trans hses)
    have hthead : t.isHead = s.isHead := (State.isHead_of_ctrl ((htreg _ (by decide)).trans (hvr _))).trans hhead
    have ho' : origin.toNat = 0 ∨ t.isHead = false := by
      rw [hthead]
      exact ho.imp_left fun h0 => by rw [h0]; rfl
    obtain ⟨uf, urep, ureg⟩ := State.hostFence_answers tf (ts.trans (vs.trans hslots)) (tq.trans (vq.trans hinq)) rfl rfl ho' (decide_eq_false (show ¬ (0x44 : Nat) = 0x41 by decide))
    refine ⟨t, _, hex, tf, trep.trans (vrep.trans hrep), rfl, uf, urep.trans ?_, ?_⟩
    · rw [trep, vrep, hrep, htses]
    · exact (State.rd_of_reg ((ureg _ (by decide)).trans ((htreg _ (by decide)).trans (hvr _)))).trans hcmd
  · obtain ⟨hex, -⟩ := (exec_plain (.uart tag) p len data ty s x hx).resolve_left fun ⟨_, _, h⟩ => by rw [h] at hc; omega
    refine ⟨_, hex.trans (congrArg Host.Outcome.next ((State.arrive_uart hm hq hf hlen).trans (State.uartRun_carried hc))), ?_, ?_⟩
    · rw [hbu]
      rfl
    · rw [hbu]
      rfl
  · obtain ⟨hex, -⟩ := (exec_plain (.uart tag) p len data ty s x hx).resolve_left fun ⟨_, _, h⟩ => h2 h
    exact ⟨_, hex.trans (congrArg Host.Outcome.next ((State.arrive_uart hm hq hf hlen).trans (State.uartRun_locked h1 hc))), rfl, rfl⟩

end Sys2Proof.Machine
end
-- ==== Sys2Proof/Proofs/RingPorts.lean ====
section
/-! Hawser ports: up and down, acknowledgement, replay and credit (R353, R355, R356, R362). -/

namespace Sys2Proof.Machine

/-! ### Reading a port after an update -/

section
variable (p : HwPort) (x : HwPortSt) (s : State)

theorem State.hw_setHw_same : (s.setHw p x).hw p = x := by cases p <;> rfl

theorem State.hw_setHw_other : (s.setHw p x).hw (otherPort p) = s.hw (otherPort p) := by cases p <;> rfl

theorem State.regs_setHw : (s.setHw p x).regs = s.regs := by cases p <;> rfl

theorem State.link_setHw : (s.setHw p x).link = s.link := by cases p <;> rfl

theorem State.broken_setHw : (s.setHw p x).hawser.broken = s.hawser.broken := by cases p <;> rfl

end

theorem State.hw_of_hawser {s t : State} (ha : t.hawser.portA = s.hawser.portA) (hb : t.hawser.portB = s.hawser.portB) (p : HwPort) : t.hw p = s.hw p := by
  cases p
  · exact ha
  · exact hb

theorem State.hwUp_of_reg {s t : State} (h : t.reg (Reg.HAWSER_STAT_LINK_A.addr 0) = s.reg (Reg.HAWSER_STAT_LINK_A.addr 0)) (p : HwPort) :
    t.hwUp p = s.hwUp p := by
  cases p <;> exact State.on_of_reg h

theorem State.isHead_of_fields {fs : List Field} {s t : State} (h : s.Fields fs t) (hn : ∀ f ∈ fs, (0x44000 : Nat) ≠ f.addr 0) : t.isHead = s.isHead :=
  State.isHead_of_ctrl (h.reg hn (by decide))

theorem otherPort_ne (p : HwPort) : otherPort p ≠ p := by cases p <;> decide

/-- A port without frames that wait sends none. -/
theorem State.hwPump_idle {p : HwPort} {s : State} (h : (s.hw p).wait = []) : s.hwPump p = s := by
  unfold State.hwPump State.each
  rw [h]
  rfl

/-! ### Sending changes no register -/

theorem State.regs_hwServe (p : HwPort) (s : State) : (s.hwServe p).regs = s.regs := by
  unfold State.hwServe
  dsimp only
  split
  · rfl
  · split
    · rfl
    · exact State.regs_setHw ..

theorem State.regs_hwSend (p : HwPort) (own : Bool) (f : HwFrame) (s : State) : (s.hwSend p own f).regs = s.regs := by
  unfold State.hwSend
  split
  · rfl
  · unfold State.hwPump
    exact State.each_keeps (P := fun t => t.regs = s.regs) (f := fun (_ : Nat) t => State.hwServe p t)
      (fun _ _ t ht => (t.regs_hwServe p).trans ht) (State.regs_setHw ..)

theorem State.regs_topoAckOut (p : HwPort) (brk : Option Nat) (s : State) : (s.topoAckOut p brk).regs = s.regs := State.regs_hwSend ..

/-- A port that is down takes nothing. -/
theorem State.topoAckOut_down {p : HwPort} {s : State} (brk : Option Nat) (h : s.hwUp p = false) : s.topoAckOut p brk = s :=
  if_pos (by rw [h]; rfl)

/-! ### The head learns of a break (R362) -/

/-- What forwarding copies leaves of the registers and of the ring. -/
def State.CopyStep (s t : State) : Prop := t.regs = s.regs ∧ ∃ w, t.hawser = { s.hawser with wins := w }

theorem State.CopyStep.trans {s t u : State} (h : s.CopyStep t) (k : t.CopyStep u) : s.CopyStep u := by
  obtain ⟨hr, w, hw⟩ := h
  obtain ⟨kr, w', kw⟩ := k
  exact ⟨kr.trans hr, w', by rw [kw, hw]⟩

theorem State.copyStep_enterHost (src : Nat) (d : Datagram) (s : State) : s.CopyStep (s.enterHost src d) := by
  unfold State.enterHost
  split
  · split
    · exact ⟨rfl, _, rfl⟩
    · exact ⟨rfl, _, rfl⟩
  · exact ⟨rfl, _, rfl⟩

theorem State.copyStep_releaseHeld (src rseq : Nat) (s : State) : s.CopyStep (s.releaseHeld src rseq) := by
  unfold State.releaseHeld
  dsimp only
  split
  · next h _ _ =>
    unfold State.forwardCopy State.forwardUp
    refine State.CopyStep.trans (t := s.setCopy h.src h.rseq ⟨some ((frameMark h).1, (frameMark h).2, h.pathB), none⟩) ⟨rfl, _, rfl⟩ ?_
    generalize s.setCopy h.src h.rseq ⟨some ((frameMark h).1, (frameMark h).2, h.pathB), none⟩ = t
    split
    · exact t.copyStep_enterHost ..
    · exact ⟨rfl, _, rfl⟩
  · exact ⟨rfl, _, rfl⟩

/-- Fields in which the head shows a break. -/
def breakFields : List Field := [Reg.HAWSER_STAT_BREAK, Reg.HAWSER_BREAK_VALID, Reg.HAWSER_BREAK_SEG]

theorem State.logged_ringLog (s : State) (src rseq : Nat) (b : Bool) : s.Logged (s.ringLog src rseq b) := by
  unfold State.ringLog
  exact (s.logged_eventTime 4 0).trans (State.logged_log_ ..)

/-- The registers of a break, and its record when BREAK was not set. -/
def State.showBreak (low : Nat) (s : State) : State :=
  let t := ((s.put Reg.HAWSER_STAT_BREAK 0 true).put Reg.HAWSER_BREAK_VALID 0 true).wr Reg.HAWSER_BREAK_SEG 0 low
  if s.on Reg.HAWSER_STAT_BREAK 0 then t else t.ringLog 0 0 true

theorem State.showBreak_shows (low : Nat) (s : State) : let t := s.showBreak low
    s.Fields breakFields t ∧ t.hawser = s.hawser ∧ t.on Reg.HAWSER_STAT_BREAK 0 = true ∧ t.on Reg.HAWSER_BREAK_VALID 0 = true
      ∧ t.rd Reg.HAWSER_BREAK_SEG 0 = low % 64 := by
  dsimp only
  unfold State.showBreak
  dsimp only
  have hb := s.on_put_same Reg.HAWSER_STAT_BREAK 0 true (by decide)
  have ha : s.Fields breakFields (s.put Reg.HAWSER_STAT_BREAK 0 true) := .put s _ _ (by decide) (by decide)
  have hax := State.put_hawser s Reg.HAWSER_STAT_BREAK 0 true
  generalize s.put Reg.HAWSER_STAT_BREAK 0 true = a at hb ha hax ⊢
  have hv := a.on_put_same Reg.HAWSER_BREAK_VALID 0 true (by decide)
  have hc : a.Fields [Reg.HAWSER_BREAK_VALID] (a.put Reg.HAWSER_BREAK_VALID 0 true) := .put a _ _ (by decide) (by decide)
  have hcx := State.put_hawser a Reg.HAWSER_BREAK_VALID 0 true
  generalize a.put Reg.HAWSER_BREAK_VALID 0 true = c at hv hc hcx ⊢
  have hs : (c.wr Reg.HAWSER_BREAK_SEG 0 low).rd Reg.HAWSER_BREAK_SEG 0 = low % 64 :=
    c.rd_wr_same Reg.HAWSER_BREAK_SEG 0 low (by decide)
  have hd : c.Fields [Reg.HAWSER_BREAK_SEG] (c.wr Reg.HAWSER_BREAK_SEG 0 low) := .wr c _ _ (by decide) (by decide)
  have hdx := State.wr_hawser c Reg.HAWSER_BREAK_SEG 0 low
  generalize c.wr Reg.HAWSER_BREAK_SEG 0 low = d at hs hd hdx ⊢
  have hlog : d.Logged (if s.on Reg.HAWSER_STAT_BREAK 0 = true then d else d.ringLog 0 0 true) := by
    split
    · exact .refl d
    · exact d.logged_ringLog 0 0 true
  generalize (if s.on Reg.HAWSER_STAT_BREAK 0 = true then d else d.ringLog 0 0 true) = e at hlog ⊢
  refine ⟨ha.trans ((hc.mono (by decide)).trans ((hd.mono (by decide)).trans (.logged hlog))), ?_, ?_, ?_, (hlog.rd Reg.HAWSER_BREAK_SEG (by decide)).trans hs⟩
  · obtain ⟨_, _, _, _, _, he, _⟩ := hlog
    rw [he]
    exact hdx.trans (hcx.trans hax)
  · exact (hlog.on Reg.HAWSER_STAT_BREAK (by decide)).trans ((hd.on Reg.HAWSER_STAT_BREAK (by decide) (by decide)).trans
      ((hc.on Reg.HAWSER_STAT_BREAK (by decide) (by decide)).trans hb))
  · exact (hlog.on Reg.HAWSER_BREAK_VALID (by decide)).trans ((hd.on Reg.HAWSER_BREAK_VALID (by decide) (by decide)).trans hv)

/-- Copies held for the sources behind a break are forwarded. -/
def State.releaseBehind (s : State) : State :=
  s.each s.hawser.wins fun w s => if s.pathABroken w.1 then s.each w.2.copies fun c s => s.releaseHeld w.1 c.1 else s

theorem State.copyStep_releaseBehind (s : State) : s.CopyStep s.releaseBehind := by
  unfold State.releaseBehind
  refine State.each_keeps (P := s.CopyStep) (fun w _ t ht => ?_) ⟨rfl, _, rfl⟩
  split
  · exact State.each_keeps (P := s.CopyStep) (f := fun (c : Nat × Copy) t => State.releaseHeld w.1 c.1 t)
      (fun c _ u hu => hu.trans (u.copyStep_releaseHeld w.1 c.1)) ht
  · exact ht

theorem State.addBreak_eq {seg : Nat} {s : State} (h : s.hawser.broken.contains seg = false) : s.addBreak seg
    = State.releaseBehind (State.showBreak ((seg :: s.hawser.broken).foldl min seg)
        { s with hawser := { s.hawser with broken := seg :: s.hawser.broken, backA := false, backB := false } }) := if_neg (by rw [h]; decide)

/-- A break new to the head is listed and shown; the ports stay. -/
theorem State.addBreak_adds {seg : Nat} {s : State} (h : s.hawser.broken.contains seg = false) : let t := s.addBreak seg
    s.Fields breakFields t ∧ t.hawser.portA = s.hawser.portA ∧ t.hawser.portB = s.hawser.portB ∧ t.hawser.broken = seg :: s.hawser.broken
      ∧ t.on Reg.HAWSER_STAT_BREAK 0 = true ∧ t.on Reg.HAWSER_BREAK_VALID 0 = true
      ∧ t.rd Reg.HAWSER_BREAK_SEG 0 = (seg :: s.hawser.broken).foldl min seg % 64 := by
  dsimp only
  rw [State.addBreak_eq h]
  obtain ⟨u, hu⟩ : ∃ u, u = ({ s with hawser := { s.hawser with broken := seg :: s.hawser.broken, backA := false, backB := false } } : State) := ⟨_, rfl⟩
  have hur : u.regs = s.regs := by rw [hu]
  have huh : u.hawser = { s.hawser with broken := seg :: s.hawser.broken, backA := false, backB := false } := by rw [hu]
  rw [← hu]
  obtain ⟨hf, hh, h1, h2, h3⟩ := u.showBreak_shows ((seg :: s.hawser.broken).foldl min seg)
  generalize u.showBreak ((seg :: s.hawser.broken).foldl min seg) = v at hf hh h1 h2 h3 ⊢
  obtain ⟨hr, w, hw⟩ := v.copyStep_releaseBehind
  generalize v.releaseBehind = x at hr hw ⊢
  rw [hh, huh] at hw
  exact ⟨(State.Fields.of_regs hur).trans (hf.trans (.of_regs hr)), by rw [hw], by rw [hw], by rw [hw],
    (State.on_of_rd (State.rd_of_regs hr _ 0)).trans h1, (State.on_of_rd (State.rd_of_regs hr _ 0)).trans h2, (State.rd_of_regs hr _ 0).trans h3⟩

/-- A break noted changes single fields of a break alone. -/
theorem State.noteBreak_fields (seg : Nat) (s : State) : s.Fields breakFields (s.noteBreak seg) := by
  unfold State.noteBreak
  split
  · by_cases h : s.hawser.broken.contains seg = true
    · have hs : s.addBreak seg = s := if_pos h
      rw [hs]
      exact .refl _ s
    · exact (State.addBreak_adds (Bool.eq_false_iff.2 h)).1
  · exact .of_regs rfl

/-! ### The timing port follows (R367, R371) -/

/-- Fields that the choice of the timing port changes. -/
def timingFields : List Field := [Reg.LANYARD_STAT_TPORT, Reg.LANYARD_HOPS_N, Reg.LANYARD_STAT_HOLDOVER]

theorem State.link_lanyardFlag (f : Field) (b : Bool) (s : State) : (s.lanyardFlag f b).link = s.link := by
  unfold State.lanyardFlag
  split
  · rfl
  · exact (State.logged_lanyardLog _ b).link.trans (State.put_link ..)

/-- TPORT of a timing port. -/
def timingCode (t : Option HwPort) : Nat :=
  match t with
  | none => 0
  | some .b => 1
  | some .a => 2

/-- HOPS as the neighbours' counts give it. -/
def hopCount (now : Nat) (a b : Option Nat) : Nat :=
  match a, b with
  | none, none => now
  | some a, none => a + 1
  | none, some b => b + 1
  | some a, some b => min a b + 1

/-- A timing port lost ends the count of bad exchanges. -/
def State.portLost (lost : Bool) (s : State) : State := if lost then { s with hawser := { s.hawser with bad := 0 } } else s

theorem State.retime_eq {s : State} (h : s.isHead = false) : s.retime
    = let a := s.wr Reg.LANYARD_STAT_TPORT 0 (timingCode s.timingPort)
      let b := a.wr Reg.LANYARD_HOPS_N 0 (hopCount (a.rd Reg.LANYARD_HOPS_N 0) (a.nbHops .a) (a.nbHops .b))
      (b.portLost (s.rd Reg.LANYARD_STAT_TPORT 0 != 0 && decide (s.timingPort = none))).lanyardFlag Reg.LANYARD_STAT_HOLDOVER
        (decide (s.timingPort = none)) := if_neg (by rw [h]; decide)

/-- What the choice of the timing port leaves of the state; with no port left, TPORT is 0 and the device holds over. -/
theorem State.retime_follows {s : State} (h : s.isHead = false) : let t := s.retime
    s.Fields timingFields t ∧ t.link = s.link ∧ t.hawser.portA = s.hawser.portA ∧ t.hawser.portB = s.hawser.portB
      ∧ (s.timingPort = none → t.rd Reg.LANYARD_STAT_TPORT 0 = 0 ∧ t.on Reg.LANYARD_STAT_HOLDOVER 0 = true) := by
  dsimp only
  rw [State.retime_eq h]
  dsimp only
  obtain ⟨code, hcode⟩ : ∃ code, code = timingCode s.timingPort := ⟨_, rfl⟩
  have hz (hn : s.timingPort = none) : code = 0 := by rw [hcode, hn]; rfl
  rw [← hcode]
  have ha : s.Fields timingFields (s.wr Reg.LANYARD_STAT_TPORT 0 code) := .wr s _ _ (by decide) (by decide)
  have hac : (s.wr Reg.LANYARD_STAT_TPORT 0 code).rd Reg.LANYARD_STAT_TPORT 0 = code % 4 := s.rd_wr_same _ _ _ (by decide)
  have hal : (s.wr Reg.LANYARD_STAT_TPORT 0 code).link = s.link := State.wr_link ..
  have hah : (s.wr Reg.LANYARD_STAT_TPORT 0 code).hawser = s.hawser := State.wr_hawser ..
  generalize s.wr Reg.LANYARD_STAT_TPORT 0 code = a at ha hac hal hah ⊢
  generalize hopCount (a.rd Reg.LANYARD_HOPS_N 0) (a.nbHops .a) (a.nbHops .b) = hops
  have hb : a.Fields [Reg.LANYARD_HOPS_N] (a.wr Reg.LANYARD_HOPS_N 0 hops) := .wr a _ _ (by decide) (by decide)
  have hbl : (a.wr Reg.LANYARD_HOPS_N 0 hops).link = a.link := State.wr_link ..
  have hbh : (a.wr Reg.LANYARD_HOPS_N 0 hops).hawser = a.hawser := State.wr_hawser ..
  generalize a.wr Reg.LANYARD_HOPS_N 0 hops = b at hb hbl hbh ⊢
  obtain ⟨c, hc⟩ : ∃ c, c = b.portLost (s.rd Reg.LANYARD_STAT_TPORT 0 != 0 && decide (s.timingPort = none)) := ⟨_, rfl⟩
  have hcs : c.regs = b.regs ∧ c.link = b.link ∧ c.hawser.portA = b.hawser.portA ∧ c.hawser.portB = b.hawser.portB := by
    rw [hc]
    unfold State.portLost
    split <;> exact ⟨rfl, rfl, rfl, rfl⟩
  rw [← hc]
  obtain ⟨hcr, hcl, hca, hcb⟩ := hcs
  obtain ⟨hon, hf⟩ := c.lanyardFlag_step (f := Reg.LANYARD_STAT_HOLDOVER) (decide (s.timingPort = none)) (by decide) rfl
  have hhold : c.Fields timingFields _ := hf.fields.mono (by decide)
  refine ⟨ha.trans ((hb.mono (by decide)).trans ((State.Fields.of_regs hcr).trans hhold)), ?_, ?_, ?_, fun hn => ⟨?_, ?_⟩⟩
  · rw [State.link_lanyardFlag, hcl, hbl, hal]
  · rw [hf.hawser, hca, hbh, hah]
  · rw [hf.hawser, hcb, hbh, hah]
  · rw [hf.fields.rd Reg.LANYARD_STAT_TPORT (by decide) (by decide), State.rd_of_regs hcr, hb.rd Reg.LANYARD_STAT_TPORT (by decide) (by decide), hac, hz hn]
  · rw [hon, hn]
    rfl

/-! ### A port goes down (R362) -/

/-- Fields that a port's fall changes. -/
def downFields : List Field := Reg.HAWSER_STAT_LINK_A :: Reg.HAWSER_STAT_LINK_B :: breakFields ++ timingFields

/-- A port that has lost what it held. -/
def State.unlinked (p : HwPort) (s : State) : State := (s.put (linkField p) 0 false).setHw p HwPortSt.up

theorem State.unlinked_step (p : HwPort) (s : State) : let t := s.unlinked p
    t.hwUp p = false ∧ t.hw p = HwPortSt.up ∧ s.Fields [Reg.HAWSER_STAT_LINK_A, Reg.HAWSER_STAT_LINK_B] t ∧ t.link = s.link
      ∧ t.hawser.broken = s.hawser.broken ∧ t.hwUp (otherPort p) = s.hwUp (otherPort p) := by
  dsimp only
  unfold State.unlinked
  have hr := (s.put (linkField p) 0 false).regs_setHw p HwPortSt.up
  have hon (q : HwPort) : ((s.put (linkField p) 0 false).setHw p HwPortSt.up).hwUp q = (s.put (linkField p) 0 false).hwUp q :=
    State.on_of_rd (State.rd_of_regs hr _ 0)
  refine ⟨(hon p).trans (s.on_put_same _ 0 false (by cases p <;> decide)), State.hw_setHw_same ..,
    (State.Fields.put s (linkField p) false (by cases p <;> decide) (by cases p <;> decide)).trans (.of_regs hr), ?_, ?_, (hon _).trans ?_⟩
  · rw [State.link_setHw, State.put_link]
  · rw [State.broken_setHw, State.put_hawser]
  · exact s.on_put_apart (linkField p) (linkField (otherPort p)) 0 0 false (by cases p <;> decide) (by cases p <;> decide)

theorem State.hwDown_eq {p : HwPort} {s : State} (h : s.hwUp p = true) : s.hwDown p
    = State.retime (if (((s.unlinked p).noteBreak ((s.unlinked p).segment p)).isHead) = true then (s.unlinked p).noteBreak ((s.unlinked p).segment p)
        else ((s.unlinked p).noteBreak ((s.unlinked p).segment p)).topoAckOut (otherPort p)
          (some (((s.unlinked p).noteBreak ((s.unlinked p).segment p)).segment p))) := if_neg (by rw [h]; decide)

theorem State.retime_fields (s : State) : s.Fields timingFields s.retime := by
  by_cases h : s.isHead = true
  · have hs : s.retime = s := if_pos h
    rw [hs]
    exact .refl _ s
  · exact (State.retime_follows (Bool.eq_false_iff.2 h)).1

/-- Whatever else it reports, a port that goes down is down. -/
theorem State.hwDown_down {p : HwPort} {s : State} (h : s.hwUp p = true) : (s.hwDown p).hwUp p = false ∧ s.Fields downFields (s.hwDown p) := by
  rw [State.hwDown_eq h]
  obtain ⟨hdown, -, hf, -⟩ := s.unlinked_step p
  generalize s.unlinked p = a at hdown hf ⊢
  have hb := a.noteBreak_fields (a.segment p)
  generalize a.noteBreak (a.segment p) = b at hb ⊢
  have hc : (if b.isHead = true then b else b.topoAckOut (otherPort p) (some (b.segment p))).regs = b.regs := by
    split
    · rfl
    · exact b.regs_topoAckOut ..
  generalize (if b.isHead = true then b else b.topoAckOut (otherPort p) (some (b.segment p))) = c at hc ⊢
  have hd := c.retime_fields
  refine ⟨?_, (hf.mono (by decide)).trans ((hb.mono (by decide)).trans ((State.Fields.of_regs hc).trans (hd.mono (by decide))))⟩
  have hkeep (q : HwPort) : c.retime.hwUp q = a.hwUp q :=
    (State.hwUp_of_reg (hd.reg (by decide) (by decide)) q).trans ((State.on_of_rd (State.rd_of_regs hc _ 0)).trans
      (by cases q <;> exact hb.on _ (by decide) (by decide)))
  exact (hkeep p).trans hdown

/-- The segment at a port of the head (Table 15.1). -/
def State.headSegment (s : State) (p : HwPort) : Nat :=
  match p with
  | .a => 0
  | .b => s.rd Reg.HAWSER_CTRL_NDEV 0

/-- At the head the fall of a port is the first break. -/
theorem State.hwDown_head {p : HwPort} {s : State} (h : s.hwUp p = true) (hh : s.isHead = true) (hb : s.hawser.broken = []) : let t := s.hwDown p
    t.hwUp p = false ∧ t.hw p = HwPortSt.up ∧ t.hawser.broken = [s.headSegment p] ∧ t.on Reg.HAWSER_STAT_BREAK 0 = true
      ∧ t.on Reg.HAWSER_BREAK_VALID 0 = true ∧ t.rd Reg.HAWSER_BREAK_SEG 0 = s.headSegment p := by
  dsimp only
  have hdown := (State.hwDown_down h).1
  rw [State.hwDown_eq h] at hdown ⊢
  obtain ⟨-, hup, hf, -, hbr, -⟩ := s.unlinked_step p
  generalize s.unlinked p = a at hup hf hbr hdown ⊢
  have hah : a.isHead = true := (State.isHead_of_fields hf (by decide)).trans hh
  have hseg : a.segment p = s.headSegment p := by
    have hpos : a.pos = 0 := if_pos hah
    cases p
    · exact hpos
    · have hn : a.ringSize = s.rd Reg.HAWSER_CTRL_NDEV 0 + 1 := congrArg (· + 1) (hf.rd _ (by decide) (by decide))
      unfold State.segment
      dsimp only
      rw [hpos, hn]
      exact (Nat.mod_eq_of_lt (show 0 + (s.rd Reg.HAWSER_CTRL_NDEV 0 + 1) - 1 < s.rd Reg.HAWSER_CTRL_NDEV 0 + 1 by omega)).trans (Nat.zero_add _)
  have hnote : a.noteBreak (a.segment p) = a.addBreak (a.segment p) := if_pos hah
  rw [hnote] at hdown ⊢
  obtain ⟨hg, hpa, hpb, hlist, h1, h2, h3⟩ := State.addBreak_adds (seg := a.segment p) (s := a) (by rw [hbr, hb]; rfl)
  generalize a.addBreak (a.segment p) = b at hg hpa hpb hlist h1 h2 h3 hdown ⊢
  have hbh : b.isHead = true := (State.isHead_of_fields hg (by decide)).trans hah
  have hlast : State.retime (if b.isHead = true then b else b.topoAckOut (otherPort p) (some (b.segment p))) = b := by
    rw [if_pos hbh]
    exact if_pos hbh
  rw [hlast] at hdown ⊢
  rw [hseg, hbr, hb] at hlist h3
  refine ⟨hdown, (State.hw_of_hawser hpa hpb p).trans hup, hlist, h1, h2, h3.trans ?_⟩
  rw [List.foldl_cons, List.foldl_nil, min_self]
  refine Nat.mod_eq_of_lt ?_
  cases p
  · exact Nat.zero_lt_succ _
  · exact State.rd_lt ..

/-- A device whose last port falls holds over. -/
theorem State.hwDown_alone {p : HwPort} {s : State} (h : s.hwUp p = true) (hh : s.isHead = false) (ho : s.hwUp (otherPort p) = false) :
    let t := s.hwDown p
    t.hwUp p = false ∧ t.hw p = HwPortSt.up ∧ t.link = s.link ∧ t.rd Reg.LANYARD_STAT_TPORT 0 = 0 ∧ t.on Reg.LANYARD_STAT_HOLDOVER 0 = true := by
  dsimp only
  have hdown := (State.hwDown_down h).1
  rw [State.hwDown_eq h] at hdown ⊢
  obtain ⟨hpd, hup, hf, hl, hbr, hother⟩ := s.unlinked_step p
  generalize s.unlinked p = a at hpd hup hf hl hbr hother hdown ⊢
  have hah : a.isHead = false := (State.isHead_of_fields hf (by decide)).trans hh
  obtain ⟨b, hb⟩ : ∃ b, b = a.noteBreak (a.segment p) := ⟨_, rfl⟩
  have hbe : b = { a with hawser := { a.hawser with broken := a.segment p :: a.hawser.broken.filter (· != a.segment p) } } :=
    hb.trans (if_neg (by rw [hah]; decide))
  have hbs : b.regs = a.regs ∧ b.link = a.link ∧ b.hawser.portA = a.hawser.portA ∧ b.hawser.portB = a.hawser.portB := by
    rw [hbe]
    exact ⟨rfl, rfl, rfl, rfl⟩
  rw [← hb] at hdown ⊢
  obtain ⟨hbr', hbl, hba, hbb⟩ := hbs
  clear hb hbe
  have hbh : b.isHead = false := (State.isHead_of_ctrl (State.reg_of_regs hbr' _)).trans hah
  have hbu (q : HwPort) : b.hwUp q = a.hwUp q := State.on_of_rd (State.rd_of_regs hbr' _ 0)
  have hquiet : (if b.isHead = true then b else b.topoAckOut (otherPort p) (some (b.segment p))) = b := by
    rw [if_neg (by rw [hbh]; decide)]
    exact State.topoAckOut_down _ ((hbu _).trans (hother.trans ho))
  rw [hquiet] at hdown ⊢
  have hnone (q : HwPort) : b.nbHops q = none := by
    have hq : b.hwUp q = false := by
      have h1 := (hbu p).trans hpd
      have h2 := (hbu (otherPort p)).trans (hother.trans ho)
      cases p <;> cases q <;> assumption
    exact if_neg (by rw [hq]; decide)
  have ht : b.timingPort = none := by
    unfold State.timingPort
    rw [hnone, hnone]
  obtain ⟨-, hrl, hra, hrb, hlast⟩ := State.retime_follows hbh
  exact ⟨hdown, (State.hw_of_hawser (hra.trans hba) (hrb.trans hbb) p).trans hup, hrl.trans (hbl.trans hl), hlast ht⟩

/-! ### Acknowledgement and replay (R355) -/

theorem State.each_emit {α : Type} (g : α → Line) (l : List α) (s : State) : (s.each l fun f s => s.emit (g f))
    = { s with link := { s.link with wire := (l.map g).reverse ++ s.link.wire } } := by
  unfold State.each
  induction l generalizing s with
  | nil => rfl
  | cons x l ih =>
    rw [List.foldl_cons, ih, List.map_cons, List.reverse_cons, List.append_assoc]
    rfl

/-- Frames that an acknowledgement below `next` leaves. -/
def HwPortSt.freed (x : HwPortSt) (next : Nat) : List HwFrame := x.unacked.filter fun f => decide ((f.lseq + 2 ^ 32 - next) % 2 ^ 32 < 2 ^ 31)

/-- A port behind an acknowledgement. -/
def HwPortSt.acked (x : HwPortSt) (next credit : Nat) : HwPortSt := { (x.advance next).2 with credit := min 64 credit }

theorem HwPortSt.acked_eq (x : HwPortSt) (next credit : Nat) : (x.acked next credit).unacked = x.freed next ∧ (x.acked next credit).credit = min 64 credit
    ∧ (x.acked next credit).wait = x.wait ∧ (x.acked next credit).replays ≤ x.replays := by
  refine ⟨rfl, rfl, rfl, ?_⟩
  unfold HwPortSt.acked HwPortSt.advance
  dsimp only
  split
  · exact Nat.zero_le _
  · exact le_refl _

/-- The frames held, marked for replay. -/
def HwPortSt.again (x : HwPortSt) : List HwFrame := x.unacked.map fun f => { f with replay := true }

/-- A port that replays, and its count. -/
def State.retried (p : HwPort) (s : State) : State :=
  (s.setHw p { s.hw p with unacked := (s.hw p).again, replays := (s.hw p).replays + 1 }).bump (retryField p) 0 1

/-- The frames that leave, in the order of the lines' record. -/
def State.leaving (p : HwPort) (s : State) (l : List HwFrame) : List Line :=
  ((l.filter fun f => s.mayLeave (decide (f.src = s.pos)) f).map fun f => Line.hawser p f).reverse

theorem State.hwReplay_eq {p : HwPort} {s : State} (h : (s.hw p).unacked ≠ []) : s.hwReplay p
    = let u := { s.retried p with link := { (s.retried p).link with wire := (s.retried p).leaving p (s.hw p).again ++ (s.retried p).link.wire } }
      if 8 ≤ (s.hw p).replays + 1 then u.hwDown p else u := by
  unfold State.hwReplay
  rw [if_neg h]
  dsimp only
  rw [State.each_emit]
  rfl

/-- What may leave depends on the device's registers alone. -/
theorem State.leaving_of_regs {p : HwPort} {s t : State} (h : ∀ a, a ≠ (retryField p).addr 0 → t.reg a = s.reg a) (l : List HwFrame) :
    t.leaving p l = s.leaving p l := by
  have hh : t.isHead = s.isHead := State.isHead_of_ctrl (h _ (by cases p <;> decide))
  have hpos : t.pos = s.pos := by
    unfold State.pos
    rw [hh, State.rd_of_reg (f := Reg.HAWSER_POS_POS) (i := 0) (h _ (by cases p <;> decide))]
  have hmute : t.mute = s.mute := by
    unfold State.mute
    rw [hh, State.on_of_reg (f := Reg.HAWSER_STAT_HEAD_CONFLICT) (i := 0) (h _ (by cases p <;> decide)),
      State.on_of_reg (f := Reg.HAWSER_STAT_POS_CONFLICT) (i := 0) (h _ (by cases p <;> decide))]
  unfold State.leaving State.mayLeave
  rw [hpos, hmute, hh]

/-- A port that replays keeps its frames, marked, and counts the replay. -/
theorem State.retried_step (p : HwPort) (s : State) : let t := s.retried p
    t.hw p = { s.hw p with unacked := (s.hw p).again, replays := (s.hw p).replays + 1 } ∧ t.link = s.link
      ∧ t.rd (retryField p) 0 = min (s.rd (retryField p) 0 + 1) (2 ^ 32 - 1) ∧ ∀ a, a ≠ (retryField p).addr 0 → t.reg a = s.reg a := by
  dsimp only
  unfold State.retried
  have hx := State.hw_setHw_same p { s.hw p with unacked := (s.hw p).again, replays := (s.hw p).replays + 1 } s
  have hl := State.link_setHw p { s.hw p with unacked := (s.hw p).again, replays := (s.hw p).replays + 1 } s
  have hr := State.regs_setHw p { s.hw p with unacked := (s.hw p).again, replays := (s.hw p).replays + 1 } s
  generalize s.setHw p { s.hw p with unacked := (s.hw p).again, replays := (s.hw p).replays + 1 } = u at hx hl hr ⊢
  refine ⟨(State.hw_of_hawser (by rw [State.bump_hawser]) (by rw [State.bump_hawser]) p).trans hx, (State.bump_link ..).trans hl, ?_, fun a ha => ?_⟩
  · rw [State.rd_bump_same _ _ _ _ (by cases p <;> decide), State.rd_of_regs hr]
    cases p <;> rfl
  · unfold State.bump
    rw [State.reg_wr_other _ _ 0 _ ha]
    exact State.reg_of_regs hr a

/-- Fewer than 8 replays in a row leave the port up, and every frame held that may leave goes again. -/
theorem State.hwReplay_goes {p : HwPort} {s : State} (hne : (s.hw p).unacked ≠ []) (h : (s.hw p).replays < 7) : let t := s.hwReplay p
    t.hw p = { s.hw p with unacked := (s.hw p).again, replays := (s.hw p).replays + 1 }
      ∧ t.link.wire = s.leaving p (s.hw p).again ++ s.link.wire
      ∧ t.rd (retryField p) 0 = min (s.rd (retryField p) 0 + 1) (2 ^ 32 - 1) ∧ ∀ a, a ≠ (retryField p).addr 0 → t.reg a = s.reg a := by
  dsimp only
  rw [State.hwReplay_eq hne]
  dsimp only
  rw [if_neg (by omega)]
  obtain ⟨hx, hl, hr, hreg⟩ := s.retried_step p
  rw [State.leaving_of_regs hreg, hl]
  generalize s.retried p = u at hx hl hr hreg ⊢
  exact ⟨(State.hw_of_hawser rfl rfl p).trans hx, rfl, hr, hreg⟩

/-- The eighth replay in a row takes the port down. -/
theorem State.hwReplay_falls {p : HwPort} {s : State} (hne : (s.hw p).unacked ≠ []) (hup : s.hwUp p = true) (h : 7 ≤ (s.hw p).replays) : let t := s.hwReplay p
    t.hwUp p = false ∧ t.rd (retryField p) 0 = min (s.rd (retryField p) 0 + 1) (2 ^ 32 - 1) := by
  dsimp only
  rw [State.hwReplay_eq hne]
  dsimp only
  rw [if_pos (by omega)]
  obtain ⟨-, -, hr, hreg⟩ := s.retried_step p
  generalize s.retried p = a at hr hreg ⊢
  obtain ⟨u, hu⟩ : ∃ u, u = ({ a with link := { a.link with wire := a.leaving p (s.hw p).again ++ a.link.wire } } : State) := ⟨_, rfl⟩
  have hur : u.regs = a.regs := by rw [hu]
  rw [← hu]
  have huup : u.hwUp p = true := (State.on_of_rd (State.rd_of_regs hur _ 0)).trans
    ((State.hwUp_of_reg (hreg _ (by cases p <;> decide)) p).trans hup)
  obtain ⟨hd, hf⟩ := State.hwDown_down huup
  exact ⟨hd, (by cases p <;> exact hf.rd _ (by decide) (by decide) : _ = u.rd (retryField p) 0).trans ((State.rd_of_regs hur _ 0).trans hr)⟩

/-! ### What may leave (R349, R351) -/

theorem State.mayLeave_false (own : Bool) (f : HwFrame) (s : State) : s.mayLeave own f = false
    ↔ (s.isHead = true ∧ s.on Reg.HAWSER_STAT_HEAD_CONFLICT 0 = true ∧ (f.ty = 1 ∨ f.ty = 2))
      ∨ (s.isHead = false ∧ s.on Reg.HAWSER_STAT_POS_CONFLICT 0 = true ∧ own = true ∧ f.ty ≠ 6) := by
  unfold State.mayLeave State.mute
  cases h : s.isHead
  · simp
  · simp [or_iff_not_imp_left]

/-! ### The statement -/

/-- Settles O49: each event of a port by its own lemma. -/
theorem ringPorts : Obligations.RingPorts := by
  unfold Obligations.RingPorts
  intro freed leaving room
  refine ⟨fun p s hm he hup => ⟨?_, ?_⟩, fun p k s h => ?_, fun p s hup hh hb => ?_, fun p s hup hh ho => ?_, fun p next credit s hup hw => ?_,
    fun p next credit s hup hne hr hw => ?_, fun p s hup hne => ?_, fun p s hup => ?_, State.mayLeave_false, fun p next credit s hup => ?_⟩
  · have hex : exec (.hawserPortUp p false) s = .next ((s.put (linkField p) 0 true).setHw p HwPortSt.up) :=
      congrArg Host.Outcome.next ((if_neg (by rw [he, hup]; simp; omega)).trans (if_neg (by decide)))
    have hr := (s.put (linkField p) 0 true).regs_setHw p HwPortSt.up
    refine ⟨_, hex, (State.on_of_rd (State.rd_of_regs hr _ 0)).trans (s.on_put_same _ 0 true (by cases p <;> decide)), State.hw_setHw_same ..,
      (State.hw_setHw_other ..).trans (by cases p <;> rfl), fun a ha => (State.reg_of_regs hr a).trans (State.reg_put_other _ _ 0 true (by cases p <;> exact ha))⟩
  · have hex : exec (.hawserPortUp p true) s = .next (s.put Reg.HAWSER_STAT_DESKEW_ERR 0 true) :=
      congrArg Host.Outcome.next ((if_neg (by rw [he, hup]; simp; omega)).trans (if_pos rfl))
    refine ⟨_, hex, ?_, s.on_put_same _ 0 true (by decide), fun a ha => State.reg_put_other _ _ 0 true ha, put_but_regs ..⟩
    exact (State.on_of_rd (by cases p <;> exact s.rd_wr_apart _ _ 0 0 _ (by decide) (by decide))).trans hup
  · exact congrArg Host.Outcome.next (if_pos (by simpa [or_assoc] using h))
  · have hex : exec (.hawserPortDown p) s = .next (s.hwDown p) := rfl
    obtain ⟨h1, h2, h3, h4, h5, h6⟩ := State.hwDown_head hup hh hb
    cases p
    · exact ⟨_, hex, h1, h2, h3, h4, h5, h6⟩
    · exact ⟨_, hex, h1, h2, h3, h4, h5, h6⟩
  · have hex : exec (.hawserPortDown p) s = .next (s.hwDown p) := rfl
    exact ⟨_, hex, State.hwDown_alone hup hh ho⟩
  · obtain ⟨u, hu⟩ : ∃ u, u = s.setHw p ((s.hw p).acked next.toNat credit.toNat) := ⟨_, rfl⟩
    have hux : u.hw p = (s.hw p).acked next.toNat credit.toNat := by rw [hu, State.hw_setHw_same]
    have hex : exec (.hawserAck p next credit) s = .next (u.hwPump p) := by
      rw [hu]
      exact congrArg Host.Outcome.next (if_neg (by rw [hup]; decide))
    obtain ⟨h1, h2, h3, -⟩ := (s.hw p).acked_eq next.toNat credit.toNat
    rw [State.hwPump_idle (by rw [hux, h3, hw])] at hex
    exact ⟨u, hex, by rw [hux]; exact h1, by rw [hux]; exact h2, by rw [hu, State.hw_setHw_other], by rw [hu, State.regs_setHw],
      by rw [hu, State.link_setHw]⟩
  · obtain ⟨u, hu⟩ : ∃ u, u = s.setHw p ((s.hw p).acked next.toNat credit.toNat) := ⟨_, rfl⟩
    have hux : u.hw p = (s.hw p).acked next.toNat credit.toNat := by rw [hu, State.hw_setHw_same]
    have hur : u.regs = s.regs := by rw [hu, State.regs_setHw]
    have hul : u.link = s.link := by rw [hu, State.link_setHw]
    have hex : exec (.hawserRetry p next credit) s = .next ((u.hwReplay p).hwPump p) := by
      rw [hu]
      exact congrArg Host.Outcome.next (if_neg (by rw [hup]; decide))
    obtain ⟨h1, -, h3, h4⟩ := (s.hw p).acked_eq next.toNat credit.toNat
    have hagain : (u.hw p).again = (freed (s.hw p) next.toNat).map fun f => { f with replay := true } := by
      rw [hux]
      unfold HwPortSt.again
      rw [h1]
      rfl
    obtain ⟨gx, gw, gr, greg⟩ := State.hwReplay_goes (p := p) (s := u) (by rw [hux, h1]; exact hne) (by rw [hux]; omega)
    rw [State.hwPump_idle (by rw [gx, hux]; exact h3.trans hw)] at hex
    have hsame (a : Nat) : u.reg a = s.reg a := State.reg_of_regs hur a
    refine ⟨_, hex, (congrArg HwPortSt.unacked gx).trans hagain, ?_, ?_, gr.trans (by rw [State.rd_of_regs hur]), fun a ha => (greg a ha).trans (hsame a)⟩
    · exact (State.hwUp_of_reg ((greg _ (by cases p <;> decide)).trans (hsame _)) p).trans hup
    · rw [gw, hagain, State.leaving_of_regs (fun a _ => hsame a), hul]
      rfl
  · have hex : exec (.replayTimeout p) s = .next (s.hwReplay p) := congrArg Host.Outcome.next (if_pos hup)
    have hcount : (s.hwReplay p).rd (retryField p) 0 = min (s.rd (retryField p) 0 + 1) (2 ^ 32 - 1) := by
      by_cases h : (s.hw p).replays < 7
      · exact (State.hwReplay_goes hne h).2.2.1
      · exact (State.hwReplay_falls hne hup (not_lt.1 h)).2
    refine ⟨_, hex, hcount, fun h => ?_, fun h => (State.hwReplay_falls hne hup h).1⟩
    obtain ⟨gx, gw, -, greg⟩ := State.hwReplay_goes hne h
    exact ⟨(State.hwUp_of_reg (greg _ (by cases p <;> decide)) p).trans hup, congrArg HwPortSt.unacked gx, congrArg HwPortSt.replays gx, gw⟩
  · exact ⟨_, congrArg Host.Outcome.next (if_pos hup), rfl, rfl⟩
  · have hno : ¬ s.hwUp p = true := by rw [hup]; decide
    have hd : (!s.hwUp p) = true := by rw [hup]; rfl
    exact ⟨congrArg Host.Outcome.next (if_pos hd), congrArg Host.Outcome.next (if_pos hd), congrArg Host.Outcome.next (if_pos hd),
      congrArg Host.Outcome.next (if_neg hno), congrArg Host.Outcome.next (if_neg hno)⟩

end Sys2Proof.Machine
end
-- ==== Sys2Proof/Proofs/MeasuringIslands.lean ====
section
/-! What the measuring islands leave alone: the registers below theirs, time, the cores and SAFE_N. -/

namespace Sys2Proof.Machine

/-- `t` is what the measuring islands make of `s` when they write no register below address `B` but BOOT_STAT and the log line's. -/
structure State.Measures (B : Nat) (s t : State) : Prop where
  reg : ∀ a, a < B → outsideLog a → a ≠ 0x3008 → t.reg a = s.reg a
  tick : t.tick = s.tick
  lany : t.lany = s.lany
  cores : t.cores = s.cores
  cause : t.cause = s.cause
  safeN : t.safety.safeN = s.safety.safeN
  due : ∀ x ∈ s.safety.due, x ∈ t.safety.due

section
variable {B : Nat} {s t u : State}

theorem State.Measures.refl (B : Nat) (s : State) : s.Measures B s := ⟨fun _ _ _ _ => rfl, rfl, rfl, rfl, rfl, rfl, fun _ => id⟩

theorem State.Measures.trans (h : s.Measures B t) (k : t.Measures B u) : s.Measures B u :=
  ⟨fun a h1 h2 h3 => (k.reg a h1 h2 h3).trans (h.reg a h1 h2 h3), k.tick.trans h.tick, k.lany.trans h.lany, k.cores.trans h.cores,
    k.cause.trans h.cause, k.safeN.trans h.safeN, fun x hx => k.due x (h.due x hx)⟩

theorem State.Measures.mono {C : Nat} (h : s.Measures B t) (hc : C ≤ B) : s.Measures C t :=
  ⟨fun a h1 => h.reg a (Nat.lt_of_lt_of_le h1 hc), h.tick, h.lany, h.cores, h.cause, h.safeN, h.due⟩

/-- A state that differs in no register and in none of the fields. -/
theorem State.Measures.of_same (hr : t.regs = s.regs) (h1 : t.tick = s.tick) (h2 : t.lany = s.lany) (h3 : t.cores = s.cores) (h4 : t.cause = s.cause)
    (h5 : t.safety = s.safety) : s.Measures B t :=
  ⟨fun a _ _ _ => State.reg_of_regs hr a, h1, h2, h3, h4, congrArg _ h5, fun _ hx => h5 ▸ hx⟩

theorem State.Measures.same (h : s.Measures B t) (hr : u.regs = t.regs) (h1 : u.tick = t.tick) (h2 : u.lany = t.lany) (h3 : u.cores = t.cores)
    (h4 : u.cause = t.cause) (h5 : u.safety = t.safety) : s.Measures B u := h.trans (.of_same hr h1 h2 h3 h4 h5)

theorem State.Measures.wr {f : Field} {i v : Nat} (h : s.Measures B t) (hf : B ≤ f.base) : s.Measures B (t.wr f i v) :=
  h.trans ⟨fun a ha _ _ => State.reg_wr_other t f i v (by unfold Field.addr; omega), rfl, rfl, rfl, rfl, rfl, fun _ => id⟩

theorem State.Measures.put {f : Field} {i : Nat} {b : Bool} (h : s.Measures B t) (hf : B ≤ f.base) : s.Measures B (t.put f i b) := h.wr hf

theorem State.Measures.bump {f : Field} {i n : Nat} (h : s.Measures B t) (hf : B ≤ f.base) : s.Measures B (t.bump f i n) := h.wr hf

theorem State.Measures.count {f : Field} {i n : Nat} (h : s.Measures B t) (hf : B ≤ f.base) : s.Measures B (t.count f i n) := h.wr hf

theorem State.Measures.raise {f : Field} {i : Nat} (h : s.Measures B t) (hf : B ≤ f.base) : s.Measures B (t.raise f i) :=
  h.trans ⟨fun a ha _ _ => State.reg_raise_other t f i (by unfold Field.addr; omega), rfl, rfl, rfl, rfl, rfl, fun _ => id⟩

theorem State.Measures.bootStat {f : Field} {b : Bool} (h : s.Measures B t) (hf : f.addr 0 = 0x3008) : s.Measures B (t.put f 0 b) :=
  h.trans ⟨fun _ _ _ ha => State.reg_put_other t f 0 b (hf ▸ ha), rfl, rfl, rfl, rfl, rfl, fun _ => id⟩

theorem State.Measures.logged (h : s.Measures B t) (hl : t.Logged u) : s.Measures B u := by
  refine h.trans ⟨fun a _ ho _ => hl.reg ho, ?_, ?_, ?_, ?_, ?_, ?_⟩ <;> obtain ⟨_, _, _, _, _, rfl, _⟩ := hl
  case refine_6 => exact fun _ => id
  all_goals rfl

theorem State.Measures.each {α : Type} {f : α → State → State} {l : List α} (h : s.Measures B t)
    (hf : ∀ x ∈ l, ∀ v, State.Measures B v (f x v)) : s.Measures B (t.each l f) :=
  State.each_keeps (P := s.Measures B) (fun x hx _ hv => hv.trans (hf x hx _)) h

theorem State.Measures.ite {c : Prop} [Decidable c] (ht : s.Measures B t) (hu : s.Measures B u) : s.Measures B (if c then t else u) := by
  split
  · exact ht
  · exact hu

theorem State.Measures.logNow {code island a0 a1 a2 a3 : Nat} (h : s.Measures B t) : s.Measures B (t.logNow code island a0 a1 a2 a3) :=
  h.logged (t.logged_logBy ..)

theorem State.Measures.setStrand {i : Nat} {x : StrandRt} (h : s.Measures B t) : s.Measures B (t.setStrand i x) := h.same rfl rfl rfl rfl rfl rfl
theorem State.Measures.setPort {p : Nat} {x : PortRt} (h : s.Measures B t) : s.Measures B (t.setPort p x) := h.same rfl rfl rfl rfl rfl rfl
theorem State.Measures.setChan {c : Nat} {x : ChanRt} (h : s.Measures B t) : s.Measures B (t.setChan c x) := h.same rfl rfl rfl rfl rfl rfl
theorem State.Measures.setQuad {q : Nat} {x : QuadRt} (h : s.Measures B t) : s.Measures B (t.setQuad q x) := h.same rfl rfl rfl rfl rfl rfl
theorem State.Measures.setPc {c : Nat} {x : PcRt} (h : s.Measures B t) : s.Measures B (t.setPc c x) := h.same rfl rfl rfl rfl rfl rfl
theorem State.Measures.setBin {ch pl b : Nat} {v : Bin40} (h : s.Measures B t) : s.Measures B (t.setBin ch pl b v) := h.same rfl rfl rfl rfl rfl rfl
theorem State.Measures.mark {ch pl blk k : Nat} (h : s.Measures B t) : s.Measures B (t.mark ch pl blk k) := h.same rfl rfl rfl rfl rfl rfl
theorem State.Measures.source {k : Nat} (h : s.Measures B t) : s.Measures B (t.source k) :=
  h.trans ⟨fun _ _ _ _ => rfl, rfl, rfl, rfl, rfl, rfl, fun _ hx => List.mem_append_left _ hx⟩

theorem State.Measures.fresh (h : s.Measures B t) : s.Measures B t.fresh.2 := h.same rfl rfl rfl rfl rfl rfl

theorem State.Measures.setSstate {i new : Nat} (h : s.Measures 0x8000 t) : s.Measures 0x8000 (t.setSstate i new) :=
  .ite h (h.wr (by decide)).logNow

end

/-! ### Commits in flight (R21, R87, R144) -/

/-- `t` is what the fold engines and the pipelines make of `s`: a chain of the operations a commit is made of. -/
inductive State.Folds (s : State) : State → Prop
  | refl : s.Folds s
  | wr {t : State} {f : Field} {i v : Nat} (h : s.Folds t) (hf : 0x8000 ≤ f.base) : s.Folds (t.wr f i v)
  | noteRaised {t : State} {a : Nat} {m : Word} (h : s.Folds t) : s.Folds (t.noteRaised a m)
  | logNow {t : State} {code island a0 a1 a2 a3 : Nat} (h : s.Folds t) : s.Folds (t.logNow code island a0 a1 a2 a3)
  | source {t : State} {k : Nat} (h : s.Folds t) : s.Folds (t.source k)
  | fresh {t : State} (h : s.Folds t) : s.Folds t.fresh.2
  | setChan {t : State} {c : Nat} {x : ChanRt} (h : s.Folds t) : s.Folds (t.setChan c x)
  | setQuad {t : State} {q : Nat} {x : QuadRt} (h : s.Folds t) : s.Folds (t.setQuad q x)
  | setBin {t : State} {ch pl b : Nat} {v : Bin40} (h : s.Folds t) : s.Folds (t.setBin ch pl b v)
  | setQbyte {t : State} {ch pl blk : Nat} {v : Byte} (h : s.Folds t) : s.Folds (t.setQbyte ch pl blk v)
  | queue {t : State} {l : List Commit} (h : s.Folds t) : s.Folds { t with pipe := l }

section
variable {s t u : State}

theorem State.Folds.trans (h : s.Folds t) (k : t.Folds u) : s.Folds u := by
  induction k with
  | refl => exact h
  | wr _ hf ih => exact ih.wr hf
  | noteRaised _ ih => exact ih.noteRaised
  | logNow _ ih => exact ih.logNow
  | source _ ih => exact ih.source
  | fresh _ ih => exact ih.fresh
  | setChan _ ih => exact ih.setChan
  | setQuad _ ih => exact ih.setQuad
  | setBin _ ih => exact ih.setBin
  | setQbyte _ ih => exact ih.setQbyte
  | queue _ ih => exact ih.queue

theorem State.Folds.measures (h : s.Folds t) : s.Measures 0x8000 t := by
  induction h with
  | refl => exact .refl _ s
  | wr _ hf ih => exact ih.wr hf
  | logNow _ ih => exact ih.logNow
  | source _ ih => exact ih.source
  | fresh _ ih => exact ih.fresh
  | setChan _ ih => exact ih.setChan
  | setQuad _ ih => exact ih.setQuad
  | setBin _ ih => exact ih.setBin
  | noteRaised _ ih => exact ih.same rfl rfl rfl rfl rfl rfl
  | setQbyte _ ih => exact ih.same rfl rfl rfl rfl rfl rfl
  | queue _ ih => exact ih.same rfl rfl rfl rfl rfl rfl

theorem State.Folds.put {f : Field} {i : Nat} {b : Bool} (h : s.Folds t) (hf : 0x8000 ≤ f.base) : s.Folds (t.put f i b) := h.wr hf
theorem State.Folds.bump {f : Field} {i n : Nat} (h : s.Folds t) (hf : 0x8000 ≤ f.base) : s.Folds (t.bump f i n) := h.wr hf
theorem State.Folds.count {f : Field} {i n : Nat} (h : s.Folds t) (hf : 0x8000 ≤ f.base) : s.Folds (t.count f i n) := h.wr hf
theorem State.Folds.raise {f : Field} {i : Nat} (h : s.Folds t) (hf : 0x8000 ≤ f.base) : s.Folds (t.raise f i) := (h.wr hf).noteRaised
theorem State.Folds.mark {ch pl blk k : Nat} (h : s.Folds t) : s.Folds (t.mark ch pl blk k) := h.setQbyte

theorem State.Folds.ite {c : Prop} [Decidable c] (ht : s.Folds t) (hu : s.Folds u) : s.Folds (if c then t else u) := by
  split
  · exact ht
  · exact hu

theorem State.Folds.each {α : Type} {f : α → State → State} {l : List α} (h : s.Folds t) (hf : ∀ x ∈ l, ∀ v : State, v.Folds (f x v)) :
    s.Folds (t.each l f) :=
  State.each_keeps (P := s.Folds) (fun x hx _ hv => hv.trans (hf x hx _)) h

theorem State.Folds.markBoth {ch pl blk k : Nat} (h : s.Folds t) : s.Folds (t.markBoth ch pl blk k) := by
  unfold State.markBoth
  dsimp only
  split
  · exact h.mark
  · exact h.mark.mark

theorem State.Folds.foldUe {ch pl blk kind : Nat} {isMeta : Bool} (h : s.Folds t) : s.Folds (t.foldUe ch pl blk isMeta kind) := by
  have chain {u v : State} (hu : s.Folds u) (hv : u.Folds v) (was : Bool) :
      s.Folds (if was then v.logNow 0x41 1 kind ch blk 0 else (v.logNow 0x41 1 kind ch blk 0).source 4) :=
    .ite (hu.trans hv).logNow (hu.trans hv).logNow.source
  have hlast : s.Folds (t.lastUe ch pl blk isMeta) := by
    unfold State.lastUe
    exact ((((((h.bump (by decide)).bump (by decide)).raise (by decide)).put (by decide)).wr (by decide)).wr (by decide)).wr (by decide)
  unfold State.lastUe at hlast
  unfold State.foldUe
  refine chain hlast ?_ _
  clear chain hlast
  generalize State.wr _ Reg.FOLD_ECC_LAST_CHAN _ _ = u
  split
  · exact State.Folds.refl.raise (by decide)
  · exact .refl

theorem State.Folds.eccMark {ch pl blk : Nat} {e : Ecc} (h : s.Folds t) : s.Folds (t.eccMark ch pl blk e) :=
  .ite h.markBoth (.ite h.markBoth h)

theorem State.Folds.eccCount {ch pl blk : Nat} {m : Bool} {e : Ecc} (h : s.Folds t) : s.Folds (t.eccCount ch pl blk m e) :=
  .ite ((h.bump (by decide)).bump (by decide)) (.ite h.foldUe h)

theorem State.Folds.readBin {ch pl b : Nat} {e : Ecc} (h : s.Folds t) : s.Folds (t.readBin ch pl b e).2 := by
  unfold State.readBin
  split
  · exact h
  · exact h.fresh

theorem State.Folds.takeBin {ch pl p b : Nat} {e : Ecc} (h : s.Folds t) : s.Folds (t.takeBin ch pl p b e).2 := by
  unfold State.takeBin
  exact h.readBin.eccMark.eccCount

theorem State.Folds.rangeCommit {ch : Nat} {fig : Option (Nat × Nat)} {ovl : Bool} (h : s.Folds t) : s.Folds (t.rangeCommit ch fig ovl) := by
  unfold State.rangeCommit
  split
  · exact h
  · exact h.setChan

theorem State.Folds.oldBin {ch pl b : Nat} {old : OldKind} {e : Ecc} (h : s.Folds t) : s.Folds (t.oldBin ch pl b old e).2 := by
  cases old with
  | zero => exact h
  | carry => exact h.takeBin
  | self => exact h.takeBin

theorem State.Folds.commitMarks {i ch pl b : Nat} {x : Int} {ovl bad : Bool} (h : s.Folds t) :
    s.Folds (t.commitMarks i ch pl b x ovl bad) := by
  have sat {c : Prop} [Decidable c] : s.Folds (if c then t else (t.mark ch pl (b / 256) 0).raise Reg.FOLD_SSTAT_SAT_SEEN i) :=
    .ite h (h.mark.raise (by decide))
  unfold State.commitMarks
  exact .ite (.foldUe (.mark (.ite sat.mark sat))) (.ite sat.mark sat)

theorem State.Folds.foldCommit {i ch pl b : Nat} {x : Int} {old : OldKind} {leak : Option Nat} {ovl bad : Bool} {e : Ecc} (h : s.Folds t) :
    s.Folds (t.foldCommit i ch pl b x old leak ovl bad e) := by
  rw [State.foldCommit_eq]
  exact h.oldBin.commitMarks.setBin

/-- What a row word leaves to its difference: PSUM of H rows before, with the marks of its read. -/
def State.oldRow (q pl pos nPos sBins : Nat) (eccX eccY : Ecc) (s : State) : Nat × State :=
  let qr := s.quad q
  let k := qr.rowK
  let i := k - qr.row0
  let hf := k < qr.heff
  let (oldPl, oldRow) := if qr.heff ≤ i then (pl, i - qr.heff) else (1 - pl, i + qr.rows - qr.heff)
  let (bank, w) := rowPlace q (oldRow * nPos + pos)
  let ecc := if bank % 4 = 1 then eccX else eccY
  if hf then (0, s)
  else
    let (v, s) := s.readBin bank oldPl w ecc
    let s := if ecc.ce then s.mark bank pl (w / 256) 6 else if ecc.ue then s.mark bank pl (w / 256) 3 else s
    let s := (s.eccMark (4 * q) pl (pos * sBins / 256) ecc).eccCount bank oldPl (w / 256) false ecc
    (v.toNat / 2 ^ 20, s)

theorem State.Folds.oldRow {q pl pos n m : Nat} {x y : Ecc} (h : s.Folds t) : s.Folds (t.oldRow q pl pos n m x y).2 := by
  unfold State.oldRow
  dsimp only
  split
  · exact h
  · exact .eccCount (.eccMark (.ite h.readBin.mark (.ite h.readBin.mark h.readBin)))

/-- The row word written, and the pipeline's place in its row. -/
def State.rowStore (q pl pos nPos sBins : Nat) (qr : QuadRt) (x : Nat × State) : State :=
  let k := qr.rowK
  let i := k - qr.row0
  let psum : Nat := qr.accPhib % 2 ^ 23 / 8
  let hf := k < qr.heff
  let e := wrapInt 20 ((psum : Int) - x.1)
  let y := roundDiv e sBins
  let dphi := clampInt (-32767) 32767 y
  let sat := dphi != y
  let s := if sat then x.2.raise Reg.PHASE_QSTAT_SAT_SEEN q else x.2
  let (bank, w) := rowPlace q (i * nPos + pos)
  let s := s.setBin bank pl w (rowWord psum dphi sat qr.accFade hf qr.accNg)
  let s := s.setQuad q { s.quad q with accPhib := 0, accFade := false, accNg := false }
  if pos + 1 = nPos then
    ((s.setQuad q { s.quad q with rowK := k + 1 }).count Reg.PHASE_QROW_ROWNO q 1).put Reg.PHASE_QSTAT_HFILL q
      (k + 1 < qr.heff)
  else s

theorem State.writeRow_eq (q pl pos n m : Nat) (x y : Ecc) (s : State) :
    s.writeRow q pl pos n m x y = State.rowStore q pl pos n m (s.quad q) (s.oldRow q pl pos n m x y) := rfl

theorem State.Folds.rowStore {q pl pos n m : Nat} {qr : QuadRt} {x : Nat × State} (h : s.Folds x.2) :
    s.Folds (State.rowStore q pl pos n m qr x) := by
  have sat {c : Prop} [Decidable c] : s.Folds (if c then x.2.raise Reg.PHASE_QSTAT_SAT_SEEN q else x.2) := .ite (h.raise (by decide)) h
  unfold State.rowStore
  dsimp only
  exact .ite (.put (.count (.setQuad (.setQuad (.setBin sat))) (by decide)) (by decide)) (.setQuad (.setBin sat))

theorem State.Folds.writeRow {q pl pos n m : Nat} {x y : Ecc} (h : s.Folds t) : s.Folds (t.writeRow q pl pos n m x y) := by
  rw [State.writeRow_eq]
  exact h.oldRow.rowStore

theorem State.Folds.angle16 {re im : Int} (h : s.Folds t) : s.Folds (t.angle16 re im).2 := by
  unfold State.angle16
  dsimp only
  split <;> exact h.fresh

/-- The gauge product's angle and what it adds, of a state word `st` (R142, R143). -/
def State.phaseAngle (st : Bin40) (pp : Option (Int × Int)) (ref fade : Bool) (s : State) : Int × Int × State :=
  match pp with
  | some (re, im) =>
    if !ref && fade then (wordPg st, (0 : Int), s)
    else
      let (a, s) := s.angle16 re im
      (a, if ref then 0 else wrapInt 16 (a - wordPg st), s)
  | none => (if ref then 0 else wordPg st, 0, s)

theorem State.Folds.phaseAngle {st : Bin40} {pp : Option (Int × Int)} {ref fade : Bool} (h : s.Folds t) :
    s.Folds (t.phaseAngle st pp ref fade).2.2 := by
  unfold State.phaseAngle
  cases pp with
  | none => exact h
  | some p =>
    dsimp only
    split
    · exact h
    · exact h.angle16

/-- A state word stored, and its row's when the shot closes one. -/
def State.phaseStore (strand q pl b shots sBins : Nat) (ref fade none_ : Bool) (st : Bin40) (eccX eccY : Ecc) (x : Int × Int × State) : State :=
  let ch := 4 * q
  let phib := if ref then 0 else (((wordPhib st : Int) + x.2.1) % 2 ^ 23).toNat
  let fstk := !ref && (wordFstk st || fade)
  let s := if fade then x.2.2.raise Reg.PHASE_QSTAT_FADE_SEEN q else x.2.2
  let closes := !ref && shots % s.shotsPerRow q = 0
  let s := s.setBin ch pl b (stateWord phib (fstk && !closes) x.1)
  if closes then
    let qr := s.quad q
    let s := s.setQuad q { qr with accPhib := qr.accPhib + phib, accFade := qr.accFade || fstk, accNg := qr.accNg || none_ }
    if b % sBins + 1 = sBins then s.writeRow q pl (b / sBins) (s.strandN strand / sBins) sBins eccX eccY else s
  else s

theorem State.Folds.phaseStore {i q pl b n m : Nat} {ref fade none_ : Bool} {st : Bin40} {ex ey : Ecc} {x : Int × Int × State} (h : s.Folds x.2.2) :
    s.Folds (State.phaseStore i q pl b n m ref fade none_ st ex ey x) := by
  have hf {c : Prop} [Decidable c] : s.Folds (if c then x.2.2.raise Reg.PHASE_QSTAT_FADE_SEEN q else x.2.2) := .ite (h.raise (by decide)) h
  unfold State.phaseStore
  dsimp only
  exact .ite (.ite (.writeRow (.setQuad (.setBin hf))) (.setQuad (.setBin hf))) (.setBin hf)

/-- Light too weak for a phase (R141). -/
def phaseFade (fade d : Nat) (pp : Option (Int × Int)) : Bool :=
  match pp with
  | some (re, im) => decide (magEst (d * d) re im < fade * 65536 * (d * d))
  | none => false

theorem State.phaseCommit_eq (i q pl b : Nat) (pp : Option (Int × Int)) (ref first : Bool) (e x y : Ecc) (s : State) :
    s.phaseCommit i q pl b pp ref first e x y
      = let r := s.takeBin (4 * q) pl (if first && !ref then 1 - pl else pl) b e
        let fade := phaseFade (s.quad q).fade (s.strandD i) pp
        State.phaseStore i q pl b (s.quad q).shots (s.spatial q) ref fade pp.isNone r.1 x y (r.2.phaseAngle r.1 pp ref fade) := by
  cases pp <;> rfl

theorem State.Folds.phaseCommit {i q pl b : Nat} {pp : Option (Int × Int)} {ref first : Bool} {e x y : Ecc} (h : s.Folds t) :
    s.Folds (t.phaseCommit i q pl b pp ref first e x y) := by
  rw [State.phaseCommit_eq]
  exact h.takeBin.phaseAngle.phaseStore

/-- The power word before the commit. -/
def State.oldPower (ch pl b : Nat) (first : Bool) (ecc : Ecc) (s : State) : Int × State :=
  if first then (0, s)
  else
    let (v, s) := s.takeBin ch pl pl b ecc
    (v.toInt, s)

theorem State.Folds.oldPower {ch pl b : Nat} {first : Bool} {e : Ecc} (h : s.Folds t) : s.Folds (t.oldPower ch pl b first e).2 := by
  unfold State.oldPower
  split
  · exact h
  · exact h.takeBin

/-- A power word stored. -/
def State.powerStore (strand ch pl b add : Nat) (x : Int × State) : State :=
  let v := clampInt (-(2 ^ 39 - 1)) (2 ^ 39 - 1) (x.1 + add)
  let s := if v = x.1 + add then x.2
    else (x.2.mark ch pl (b / 256) 0).raise Reg.FOLD_SSTAT_SAT_SEEN strand
  s.setBin ch pl b (BitVec.ofInt 40 v)

theorem State.powerCommit_eq (i q pl b add : Nat) (first : Bool) (e : Ecc) (s : State) :
    s.powerCommit i q pl b add first e = State.powerStore i (4 * q + 3) pl b add (s.oldPower (4 * q + 3) pl b first e) := rfl

theorem State.Folds.powerCommit {i q pl b add : Nat} {first : Bool} {e : Ecc} (h : s.Folds t) :
    s.Folds (t.powerCommit i q pl b add first e) := by
  rw [State.powerCommit_eq]
  have hx : s.Folds (t.oldPower (4 * q + 3) pl b first e).2 := h.oldPower
  unfold State.powerStore
  exact .setBin (.ite hx (hx.mark.raise (by decide)))

theorem State.Folds.noteCommit {ch pl b : Nat} {ovl bad : Bool} {fig : Option (Nat × Nat)} (h : s.Folds t) :
    s.Folds (t.noteCommit ch pl b ovl bad fig) := by
  have hs {c : Prop} [Decidable c] : s.Folds (if c then State.markBoth ch pl (b / 256) 1 (t.rangeCommit ch fig ovl) else t.rangeCommit ch fig ovl) :=
    .ite h.rangeCommit.markBoth h.rangeCommit
  unfold State.noteCommit
  exact .ite (.foldUe (.markBoth hs)) hs

theorem State.Folds.commitWork {w : Work} {i : Nat} (h : s.Folds t) : s.Folds (commitWork w i t) := by
  unfold Machine.commitWork
  cases w with
  | fold => exact h.foldCommit.rangeCommit
  | phase => exact h.phaseCommit
  | power => exact h.powerCommit
  | note => exact h.noteCommit

theorem State.Folds.runPipe {pick : Commit → Bool} (h : s.Folds t) : s.Folds (t.runPipe Machine.commitWork pick) := by
  unfold State.runPipe
  dsimp only
  have hs : s.Folds { t with pipe := t.pipe.filter fun c => !pick c } := h.queue
  generalize ({ t with pipe := t.pipe.filter fun c => !pick c } : State) = u at hs ⊢
  induction t.pipe.filter pick generalizing u with
  | nil => exact hs
  | cons c l ih => exact ih _ hs.commitWork

theorem State.Folds.flush {i : Nat} (h : s.Folds t) : s.Folds (t.flush i) := h.runPipe

theorem State.Folds.cutMarks {i : Nat} {k : Stack} {cut : Bool} {p pb got w : Nat} (h : s.Folds t) : s.Folds (t.cutMarks i k cut p pb got w) := by
  unfold State.cutMarks
  refine h.each fun ch _ v => State.Folds.each .refl fun pl _ u => ?_
  dsimp only
  have hm {c : Prop} [Decidable c] {b n : Nat} : u.Folds (if c then u.markBoth ch pl b n else u) := .ite State.Folds.refl.markBoth .refl
  exact .ite (hm.each fun b _ x => .ite .refl State.Folds.refl.markBoth) hm

end

section
variable {B : Nat} {s t u : State}

theorem State.Measures.flush {i : Nat} (h : s.Measures 0x8000 t) : s.Measures 0x8000 (t.flush i) := h.trans State.Folds.refl.flush.measures

theorem State.Measures.commitsDue {n : Nat} (h : s.Measures 0x8000 t) : s.Measures 0x8000 (t.commitsDue n) :=
  h.trans (State.Folds.runPipe .refl).measures

/-! ### Strands stop (R53 to R58) -/

theorem State.Measures.probeLost {p i src n : Nat} (h : s.Measures 0x8000 t) : s.Measures 0x8000 (t.probeLost p i src n) := by
  unfold State.probeLost
  dsimp only
  exact .ite (.ite (h.wr (by decide)) h) (.ite (.source (.logNow (.setPort (.wr (.wr (h.raise (by decide)) (by decide)) (by decide)))))
    (.logNow (.setPort (.wr (.wr (h.raise (by decide)) (by decide)) (by decide)))))

theorem State.Measures.presJudged {i : Nat} {sh : Shot} (h : s.Measures 0x8000 t) : s.Measures 0x8000 (t.presJudged i sh) := by
  unfold State.presJudged
  exact .setStrand (.ite (h.raise (by decide)) h)

theorem State.Measures.presence {i : Nat} (h : s.Measures 0x8000 t) : s.Measures 0x8000 (t.presence i) := by
  unfold State.presence
  dsimp only
  split
  · exact h
  · next sh _ =>
    have hj : s.Measures 0x8000 (t.presJudged i sh) := h.presJudged
    exact .ite h (.ite hj.probeLost hj)

theorem State.Measures.writeHeaders {i : Nat} {k : Stack} {w pb : Nat} {a : Bool} (h : s.Measures B t) : s.Measures B (t.writeHeaders i k w pb a) := by
  unfold State.writeHeaders
  exact h.each fun ch _ v => (State.Measures.refl B v).each fun pl _ u => .of_same rfl rfl rfl rfl rfl rfl

theorem State.Measures.learn {i : Nat} {k : Stack} (h : s.Measures B t) : s.Measures B (t.learn i k) := .ite h h.setStrand

theorem State.Measures.endStack {i : Nat} {k : Stack} {w : Nat} (h : s.Measures 0x8000 t) : s.Measures 0x8000 (t.endStack i k w) := by
  unfold State.endStack
  dsimp only
  apply_rules [State.Measures.wr, State.Measures.count, State.Measures.setStrand] <;> decide

theorem State.Measures.closeStack {i : Nat} {k : Stack} (h : s.Measures 0x8000 t) : s.Measures 0x8000 (t.closeStack i k) := by
  unfold State.closeStack
  dsimp only
  refine State.Measures.endStack (State.Measures.each h.writeHeaders.learn fun ch _ v => ?_)
  exact (State.Measures.refl _ v).setChan

theorem State.Measures.cutStack {i : Nat} {k : Stack} (h : s.Measures 0x8000 t) : s.Measures 0x8000 (t.cutStack i k) := by
  unfold State.cutStack
  dsimp only
  have hs : s.Measures 0x8000 { t with pipe := t.pipe.filter fun c => c.strand != i } := h.same rfl rfl rfl rfl rfl rfl
  split
  · exact hs.writeHeaders.endStack
  · exact (hs.trans State.Folds.refl.cutMarks.measures).writeHeaders.endStack

theorem State.Measures.applyDeferred {ch : Nat} (h : s.Measures B t) : s.Measures B (t.applyDeferred ch) := h.setChan

theorem State.Measures.phaseRate (h : s.Measures 0x8000 t) : s.Measures 0x8000 t.phaseRate := by
  unfold State.phaseRate
  dsimp only
  apply_rules [State.Measures.ite, State.Measures.raise, State.Measures.wr] <;> decide

theorem State.Measures.portIdle {p : Nat} (h : s.Measures B t) : s.Measures B (t.portIdle p) := h.setPort

theorem State.Measures.portRelease {p : Nat} (h : s.Measures B t) : s.Measures B (t.portRelease p) := .ite h.portIdle (.ite h h.setPort)

/-- A strand reads STOPPED, and its channels take what waited. -/
def State.unstrung (i : Nat) (s : State) : State :=
  let hs := s.hitched i
  let s := s.setStrand i { s.strand i with start := none, stack := none, sysStop := none, restartRun := false }
  let s := (s.put Reg.FOLD_SSTAT_HELD i false).setSstate i 0
  s.each hs fun ch s => s.applyDeferred ch

/-- A strand that has stopped, before a restart that waited. -/
def State.atRest (i : Nat) (s : State) : State :=
  let rt := s.strand i
  let s := s.unstrung i
  let s := if s.isPhase i then
      ((s.put Reg.PHASE_QSTAT_ACTIVE (s.quadOf i) false).put Reg.PHASE_QSTAT_HFILL (s.quadOf i) false).phaseRate else s
  let s := s.portRelease rt.runPort
  if (List.range 64).all (fun j => !s.runs j) then s.put Reg.BOOT_STAT_STOPPING 0 false else s

theorem State.stopped_eq {i : Nat} {s : State} (h : (s.strand i).restartRun = false) : s.stopped i = s.atRest i := if_neg (by rw [h]; decide)

theorem State.Measures.unstrung {i : Nat} (h : s.Measures 0x8000 t) : s.Measures 0x8000 (t.unstrung i) := by
  unfold State.unstrung
  exact .each (.setSstate (.put h.setStrand (by decide))) fun ch _ v => (State.Measures.refl _ v).applyDeferred

theorem State.Measures.atRest {i : Nat} (h : s.Measures 0x8000 t) : s.Measures 0x8000 (t.atRest i) := by
  have hu : s.Measures 0x8000 (t.unstrung i) := h.unstrung
  unfold State.atRest
  dsimp only
  generalize t.unstrung i = u at hu ⊢
  have hp {c : Prop} [Decidable c] : s.Measures 0x8000 (State.portRelease (t.strand i).runPort (if c then
      ((u.put Reg.PHASE_QSTAT_ACTIVE (u.quadOf i) false).put Reg.PHASE_QSTAT_HFILL (u.quadOf i) false).phaseRate else u)) :=
    .portRelease (.ite (.phaseRate ((hu.put (by decide)).put (by decide))) hu)
  exact .ite (hp.bootStat rfl) hp

/-! ### Channels change their power (R80, R207) -/

theorem State.Measures.monWait {ch : Nat} (h : s.Measures 0x10000 t) : s.Measures 0x10000 (t.monWait ch) := h.setChan.put (by decide)

theorem State.Measures.repower {ch : Nat} (h : s.Measures 0x10000 t) : s.Measures 0x10000 (t.repower ch) := by
  unfold State.repower
  refine .ite h (.ite (.monWait (.setChan ?_)) (.setChan ?_)) <;> exact (h.wr (by decide)).put (by decide)

theorem State.Measures.pcResumeAll (h : s.Measures 0x10000 t) : s.Measures 0x10000 t.pcResumeAll := by
  unfold State.pcResumeAll
  refine h.each fun c _ v => ?_
  dsimp only
  exact ((State.Measures.refl _ v).setPc.put (by decide)).put (by decide)

theorem State.Measures.dropInj {ch : Nat} (h : s.Measures 0x10000 t) : s.Measures 0x10000 (t.dropInj ch) := .ite h (h.setChan.put (by decide))

end

end Sys2Proof.Machine
end
-- ==== Sys2Proof/Proofs/SafetyMonitor.lean ====
section
/-! The safety monitor: faults set, reported and cleared, and the entry to SAFE_STOP (R407, R411 to R419, R425). -/

namespace Sys2Proof.Machine

/-! ### The pins (R415, R416) -/

/-- SAFE_N follows the state; of the registers only SAFE, HB and EVT_PEND may change. -/
theorem State.driveSafe_drives {s : State} (h : 3 ≤ s.mode) : let t := s.driveSafe
    s.Fields [Reg.SAFETY_STAT_SAFE, Reg.SAFETY_STAT_HB, Reg.HOSTLINK_EVT_PEND] t ∧ t.on Reg.SAFETY_STAT_SAFE 0 = !s.safeHigh
      ∧ t.safety.safeN = (if s.safeHigh = true then .high else .low) ∧ t.cause = s.cause ∧ t.ports = s.ports := by
  dsimp only
  unfold State.driveSafe
  rw [if_neg (by omega)]
  dsimp only
  generalize hhi : s.safeHigh = hi
  obtain ⟨u, hu⟩ : ∃ u, u = ({ s with safety := { s.safety with safeN := if hi = true then .high else .low, safeHb :=
    if (decide (s.mode ≤ 4) || decide (s.safety.safeHb = Drive.hiZ)) = true then Drive.low else s.safety.safeHb } } : State) := ⟨_, rfl⟩
  rw [← hu]
  have hus : u.regs = s.regs ∧ u.safety.safeN = (if hi = true then .high else .low) ∧ u.cause = s.cause ∧ u.ports = s.ports := by
    rw [hu]
    exact ⟨rfl, rfl, rfl, rfl⟩
  obtain ⟨hr, hn, hc, hp⟩ := hus
  clear hu
  have ha := u.on_put_same Reg.SAFETY_STAT_SAFE 0 (!hi) (by decide)
  have hf : u.Fields [Reg.SAFETY_STAT_SAFE] (u.put Reg.SAFETY_STAT_SAFE 0 (!hi)) := .put u _ _ (by decide) (List.mem_singleton_self _)
  have hx : (u.put Reg.SAFETY_STAT_SAFE 0 (!hi)).safety = u.safety ∧ (u.put Reg.SAFETY_STAT_SAFE 0 (!hi)).cause = u.cause
      ∧ (u.put Reg.SAFETY_STAT_SAFE 0 (!hi)).ports = u.ports := ⟨State.put_safety .., State.put_cause .., State.put_ports ..⟩
  generalize u.put Reg.SAFETY_STAT_SAFE 0 (!hi) = v at ha hf hx ⊢
  have hg : v.Fields [Reg.SAFETY_STAT_HB] (v.put Reg.SAFETY_STAT_HB 0 hi) := .put v _ _ (by decide) (List.mem_singleton_self _)
  have hy : (v.put Reg.SAFETY_STAT_HB 0 hi).safety = v.safety ∧ (v.put Reg.SAFETY_STAT_HB 0 hi).cause = v.cause
      ∧ (v.put Reg.SAFETY_STAT_HB 0 hi).ports = v.ports := ⟨State.put_safety .., State.put_cause .., State.put_ports ..⟩
  generalize v.put Reg.SAFETY_STAT_HB 0 hi = w at hg hy ⊢
  have he : ∀ x, x = (if (decide (s.safety.safeN = Drive.high) && !hi) = true then w.event 3 else w) →
      w.Fields [Reg.HOSTLINK_EVT_PEND] x ∧ x.safety = w.safety ∧ x.cause = w.cause ∧ x.ports = w.ports := by
    intro x hx
    rw [hx]
    split
    · exact ⟨(w.event_step 3).1, rfl, rfl, rfl⟩
    · exact ⟨.refl _ w, rfl, rfl, rfl⟩
  obtain ⟨hef, hes, hec, hep⟩ := he _ rfl
  generalize (if (decide (s.safety.safeN = Drive.high) && !hi) = true then w.event 3 else w) = x at hef hes hec hep ⊢
  exact ⟨(State.Fields.of_regs hr).trans ((hf.mono (by decide)).trans ((hg.mono (by decide)).trans (hef.mono (by decide)))),
    (hef.on _ (by decide) (by decide)).trans ((hg.on _ (by decide) (by decide)).trans ha), by rw [hes, hy.1, hx.1, hn],
    by rw [hec, hy.2.1, hx.2.1, hc], by rw [hep, hy.2.2, hx.2.2, hp]⟩

theorem State.driveSafe_due (s : State) : s.driveSafe.safety.due = s.safety.due := by
  unfold State.driveSafe
  split
  · rfl
  · dsimp only
    split <;> rfl

theorem State.driveSafe_acc (s : State) : s.driveSafe.acc = s.acc := by
  unfold State.driveSafe
  split
  · rfl
  · dsimp only
    split <;> rfl

/-! ### Clearing (R417, R418) -/

/-- What a fault's clearing leaves: only the fault register and the log line's, and no pin. -/
structure State.Clears (s t : State) : Prop where
  reg : ∀ a, outsideLog a → a ≠ 0x4000 → t.reg a = s.reg a
  raised : t.raised.getD 0x4000 0 = s.raised.getD 0x4000 0
  safety : t.safety = s.safety
  acc : s.acc = .ok → t.acc = .ok

theorem State.Clears.refl (s : State) : s.Clears s := ⟨fun _ _ _ => rfl, rfl, rfl, id⟩

theorem State.Clears.trans {s t u : State} (h : s.Clears t) (k : t.Clears u) : s.Clears u :=
  ⟨fun a h1 h2 => (k.reg a h1 h2).trans (h.reg a h1 h2), k.raised.trans h.raised, k.safety.trans h.safety, fun ha => k.acc (h.acc ha)⟩

section
variable {s t : State} (h : s.Clears t)
include h

theorem State.Clears.rd (f : Field) (i : Nat) (hl : outsideLog (f.addr i)) (hn : f.addr i ≠ 0x4000) : t.rd f i = s.rd f i :=
  State.rd_of_reg (h.reg _ hl hn)

theorem State.Clears.bit (f : Field) (i k : Nat) (hl : outsideLog (f.addr i)) (hn : f.addr i ≠ 0x4000) : t.bit f i k = s.bit f i k :=
  State.bit_of_rd (h.rd f i hl hn) k

theorem State.Clears.on (f : Field) (i : Nat) (hl : outsideLog (f.addr i)) (hn : f.addr i ≠ 0x4000) : t.on f i = s.on f i :=
  State.on_of_rd (h.rd f i hl hn)

/-- Fields beyond the housekeeping registers. -/
theorem State.Clears.far (f : Field) (i : Nat) (hf : 0x8000 ≤ f.base) : t.rd f i = s.rd f i :=
  h.rd f i (.inr (by unfold Field.addr; omega)) (by unfold Field.addr; omega)

theorem State.Clears.farOn (f : Field) (i : Nat) (hf : 0x8000 ≤ f.base) : t.on f i = s.on f i := State.on_of_rd (h.far f i hf)

theorem State.Clears.strandMasked (i : Nat) : t.strandMasked i = s.strandMasked i := by
  unfold State.strandMasked
  rw [h.bit Reg.SAFETY_SMASK_LO_S 0 _ (by decide) (by decide), h.bit Reg.SAFETY_SMASK_HI_S 0 _ (by decide) (by decide)]

theorem State.Clears.pcMasked (c : Nat) : t.pcMasked c = s.pcMasked c := h.bit Reg.SAFETY_PCMASK_C 0 c (by decide) (by decide)

theorem State.Clears.gnq (i : Nat) : t.gnq i = s.gnq i := by
  unfold State.gnq
  rw [State.bit_of_rd (h.far Reg.GAPCAL_GNQ_LO_S 0 (by decide)), State.bit_of_rd (h.far Reg.GAPCAL_GNQ_HI_S 0 (by decide))]

theorem State.Clears.strandOf (ch : Nat) : t.strandOf ch = s.strandOf ch := by
  unfold State.strandOf
  rw [h.farOn Reg.FC_HITCH_EN ch (by decide), h.far Reg.FC_HITCH_STRAND ch (by decide)]

theorem State.Clears.needsRef : t.needsRef = s.needsRef := by
  unfold State.needsRef State.isHead
  rw [h.farOn Reg.HAWSER_CTRL_HEAD 0 (by decide), h.farOn Reg.HAWSER_CTRL_EN 0 (by decide), h.on Reg.LANYARD_CTRL_LOCALREF 0 (by decide) (by decide)]

/-- The sources of the faults read as they did: none is a fault bit. -/
theorem State.Clears.sourceSet (k : Nat) : t.sourceSet k = s.sourceSet k := by
  unfold State.sourceSet
  split
  case h_1 => rw [h.safety, h.needsRef]
  case h_2 => rw [h.safety]
  case h_3 => exact h.farOn _ _ (by decide)
  case h_4 =>
    simp only [h.farOn Reg.CORE_STAT_UE _ (by decide), h.farOn Reg.CORE_STAT_FAULT _ (by decide), h.far Reg.CORE_STAT_FCODE _ (by decide)]
  case h_5 => simp only [h.farOn Reg.CORE_STAT_WDOG _ (by decide)]
  case h_6 => simp only [h.gnq, h.strandMasked]
  case h_7 =>
    have hm : t.strandMasked = s.strandMasked := funext h.strandMasked
    simp only [h.farOn Reg.GAPCAL_CHSTAT_CAL_REJECTED _ (by decide), h.strandOf, hm]
  case h_8 => exact h.on _ _ (by decide) (by decide)
  case h_9 => simp only [h.farOn Reg.PRB_STAT_LOST _ (by decide), h.far Reg.PRB_STAT_LOST_STRAND _ (by decide), h.strandMasked]
  case h_10 =>
    simp only [h.farOn Reg.PC_FSTAT_OPEN _ (by decide), h.farOn Reg.PC_FSTAT_SHORT _ (by decide),
      h.farOn Reg.PC_CSTAT_RANGE_SEEN _ (by decide), h.pcMasked]
  case h_11 => simp only [h.farOn Reg.PC_CSTAT_REF_DRIFT _ (by decide)]
  case h_12 => simp only [h.bit Reg.SAFETY_PCALREJ_C 0 _ (by decide) (by decide), h.pcMasked]
  case h_13 => rw [h.on Reg.LANYARD_STAT_LOST 0 (by decide) (by decide), h.farOn Reg.HAWSER_CTRL_EN 0 (by decide)]
  case h_14 => rfl
  case h_15 => rfl

end

/-- The log of a fault raises no flag of SAFETY_FAULT. -/
theorem State.raised_log_ (s : State) (code island : Nat) (set : Bool) (a0 a1 a2 a3 : Nat) (t : Time) :
    (s.log_ code island set a0 a1 a2 a3 t).raised.getD 0x4000 0 = s.raised.getD 0x4000 0 := by
  unfold State.log_
  dsimp only
  split
  · rw [State.wr_raised]
  · unfold State.raise State.noteRaised
    dsimp only
    rw [SMap.getD_put_other _ _ _ (by decide), State.put_raised, State.bump_raised]

theorem State.clears_log_ (s : State) (code island : Nat) (set : Bool) (a0 a1 a2 a3 : Nat) (t : Time) :
    s.Clears (s.log_ code island set a0 a1 a2 a3 t) := by
  have hl := s.logged_log_ code island set a0 a1 a2 a3 t
  have hr := s.raised_log_ code island set a0 a1 a2 a3 t
  generalize s.log_ code island set a0 a1 a2 a3 t = u at hl hr
  refine ⟨fun a ha _ => hl.reg ha, hr, ?_, fun ha => ?_⟩ <;> obtain ⟨_, _, _, _, _, hu, _⟩ := hl
  · rw [hu]
  · rw [hu]
    exact ha

theorem State.clears_putBit (s : State) (k : Nat) (b : Bool) : s.Clears (s.putBit Reg.SAFETY_FAULT_F 0 k b) :=
  ⟨fun _ _ hn => s.reg_putBit_other _ _ _ _ hn, rfl, rfl, id⟩

/-- Of the faults set, whether the present clock set this one too. -/
theorem State.raisedIn_fault (s : State) (k : Nat) (hk : k < 16) (hb : s.bit Reg.SAFETY_FAULT_F 0 k = true) :
    (s.raisedIn Reg.SAFETY_FAULT_F 0 / 2 ^ k % 2 = 0) ↔ (s.raised.getD (Reg.SAFETY_FAULT_F.addr 0) 0).getLsbD k = false := by
  have hr : (s.raisedIn Reg.SAFETY_FAULT_F 0).testBit k = (s.raised.getD (Reg.SAFETY_FAULT_F.addr 0) 0).getLsbD k := by
    have hb' : (s.reg (Reg.SAFETY_FAULT_F.addr 0)).toNat.testBit (Reg.SAFETY_FAULT_F.lo + k) = true := by
      rw [State.bit_eq_testBit, State.rd, Field.read_testBit, Bool.and_eq_true] at hb
      exact hb.2
    rw [State.raisedIn, Field.read_testBit, BitVec.toNat_and, Nat.testBit_and, hb', Bool.and_true,
      decide_eq_true (show k < Reg.SAFETY_FAULT_F.hi + 1 - Reg.SAFETY_FAULT_F.lo from hk), Bool.true_and]
    exact congrArg _ (Nat.zero_add k)
  rw [← hr, Nat.testBit_eq_decide_div_mod_eq, decide_eq_false_iff_not]
  omega

/-- Fault `k` may clear: neither its source nor the present clock sets it. -/
def State.mayClear (s : State) (k : Nat) : Bool := !s.sourceSet k && !(s.raised.getD (Reg.SAFETY_FAULT_F.addr 0) 0).getLsbD k

theorem State.clearFault_clears (s : State) {k : Nat} (hk : k < 16) : let t := s.clearFault k
    s.Clears t ∧ ∀ j, t.bit Reg.SAFETY_FAULT_F 0 j = (s.bit Reg.SAFETY_FAULT_F 0 j && !(decide (j = k) && s.mayClear k)) := by
  dsimp only
  have keeps : (s.bit Reg.SAFETY_FAULT_F 0 k && s.mayClear k) = false → ∀ j,
      s.bit Reg.SAFETY_FAULT_F 0 j = (s.bit Reg.SAFETY_FAULT_F 0 j && !(decide (j = k) && s.mayClear k)) := by
    intro h j
    by_cases hj : j = k
    · rw [hj, decide_eq_true rfl, Bool.true_and]
      revert h
      cases s.bit Reg.SAFETY_FAULT_F 0 k <;> cases s.mayClear k <;> decide
    · rw [decide_eq_false hj, Bool.false_and, Bool.not_false, Bool.and_true]
  have hiff : (s.bit Reg.SAFETY_FAULT_F 0 k && decide (s.raisedIn Reg.SAFETY_FAULT_F 0 / 2 ^ k % 2 = 0) && !s.sourceSet k)
      = (s.bit Reg.SAFETY_FAULT_F 0 k && s.mayClear k) := by
    cases hb : s.bit Reg.SAFETY_FAULT_F 0 k
    · rfl
    · simp only [s.raisedIn_fault k hk hb, Bool.decide_eq_false, Bool.true_and, State.mayClear]
      exact Bool.and_comm ..
  unfold State.clearFault
  rw [hiff]
  split
  case isTrue h =>
    have hc := s.clears_putBit k false
    have hb := fun j => s.bit_putBit Reg.SAFETY_FAULT_F 0 k false j (by decide) hk
    generalize s.putBit Reg.SAFETY_FAULT_F 0 k false = u at hc hb ⊢
    dsimp only
    refine ⟨hc.trans (u.clears_log_ ..), fun j => ?_⟩
    rw [State.bit_of_rd ((u.logged_log_ ..).rd Reg.SAFETY_FAULT_F (by decide)), hb]
    rw [Bool.and_eq_true] at h
    by_cases hj : j = k
    · rw [if_pos hj, decide_eq_true hj, h.2, Bool.true_and, Bool.not_true, Bool.and_false]
    · rw [if_neg hj, decide_eq_false hj, Bool.false_and, Bool.not_false, Bool.and_true]
  case isFalse h => exact ⟨.refl s, keeps (by simpa using h)⟩

theorem State.Clears.mayClear {s t : State} (h : s.Clears t) (k : Nat) : t.mayClear k = s.mayClear k := by
  unfold State.mayClear
  rw [h.sourceSet k, show t.raised.getD (Reg.SAFETY_FAULT_F.addr 0) 0 = s.raised.getD (Reg.SAFETY_FAULT_F.addr 0) 0 from h.raised]

theorem State.each_clearFault (l : List Nat) (hl : ∀ k ∈ l, k < 16) (s : State) : let t := s.each l fun k s => s.clearFault k
    s.Clears t ∧ ∀ j, t.bit Reg.SAFETY_FAULT_F 0 j = (s.bit Reg.SAFETY_FAULT_F 0 j && !(decide (j ∈ l) && s.mayClear j)) := by
  induction l generalizing s with
  | nil => exact ⟨.refl s, fun j => by simp [State.each]⟩
  | cons k l ih =>
    obtain ⟨hc, hb⟩ := s.clearFault_clears (hl k List.mem_cons_self)
    obtain ⟨hc', hb'⟩ := ih (fun x hx => hl x (List.mem_cons_of_mem _ hx)) (s.clearFault k)
    refine ⟨hc.trans hc', fun j => (hb' j).trans ?_⟩
    rw [hb j, hc.mayClear]
    by_cases hj : j = k
    · subst hj
      cases s.bit Reg.SAFETY_FAULT_F 0 j <;> cases s.mayClear j <;> simp
    · simp [hj]

/-- What a write of SAFETY_FAULT acts on. -/
def faultHit : Hit := ⟨.safety, 0, 0, 0, .housekeeping, [⟨15, 0, .w1c, 0⟩]⟩

theorem lookup_fault : lookup 0x4000 = some faultHit := by decide

theorem faultHit_acting (s : State) (rank : Nat) (w : Word) :
    s.acting rank faultHit 0x4000 w = w &&& ~~~(s.raised.getD 0x4000 0 &&& FieldSpec.mask ⟨15, 0, .w1c, 0⟩) := rfl

theorem faultHit_bit (s : State) (rank : Nat) (w : Word) {k : Nat} (hk : k < 16) : (s.acting rank faultHit 0x4000 w).getLsbD k
    = (w.getLsbD k && !(s.raised.getD 0x4000 0).getLsbD k) := by
  have hm : ∀ j < 16, (FieldSpec.mask ⟨15, 0, .w1c, 0⟩).getLsbD j = true := by decide
  rw [faultHit_acting, BitVec.getLsbD_and, BitVec.getLsbD_not, BitVec.getLsbD_and, hm k hk, Bool.and_true, decide_eq_true (by omega), Bool.true_and]

theorem safetyFaultClear_eq (src : Source) (w : Word) {s : State} (hm : 3 ≤ s.mode) : exec (.safetyFaultClear src w) s
    = .next (((s.asked 0x4000).clearFaults (s.acting (srcRank src) faultHit 0x4000 w)).noteWrite src 0x4000) := by
  have hg : s.gated faultHit true = false := Bool.and_false _
  have hw (free : Bool) (act : Word) : State.written { s with acc := .ok } free faultHit 0x4000 act = s.reg 0x4000 := by
    unfold State.written
    exact if_pos (by rw [show faultHit.keeps = true from rfl]; rfl)
  rw [exec_safetyFaultClear, execSafetyFaultClear, show Reg.SAFETY_FAULT_F.addr 0 = 0x4000 from rfl,
    State.writeReg_hit src w hm lookup_fault hg (by decide), State.writeHit_unlocked _ (by decide)]
  dsimp only
  rw [hw]
  rfl

theorem State.clears_asked (s : State) : s.Clears (s.asked 0x4000) := ⟨fun a _ _ => s.reg_asked _ a, rfl, rfl, fun _ => rfl⟩

/-- Fields of SAFETY_STAT and the event register change no fault. -/
theorem safetyFaultClear_clears (src : Source) (w : Word) {s : State} (hm : 3 ≤ s.mode) :
    ∃ t, exec (.safetyFaultClear src w) s = .next t ∧ t.acc = .ok ∧ t.mode = s.mode
      ∧ (∀ k, k < 16 → t.bit Reg.SAFETY_FAULT_F 0 k = (s.bit Reg.SAFETY_FAULT_F 0 k
          && !(w.getLsbD k && !s.sourceSet k && !((s.raised.getD (Reg.SAFETY_FAULT_F.addr 0) 0).getLsbD k))))
      ∧ (s.rd Reg.SAFETY_FAULT_F 0 ≠ 0 → t.rd Reg.SAFETY_FAULT_F 0 = 0 → t.rd Reg.SAFETY_STAT_FIRST 0 = 0
          ∧ t.safety.safeN = (if 5 ≤ s.mode ∧ s.mode ≤ 8 then .high else .low))
      ∧ (t.rd Reg.SAFETY_FAULT_F 0 ≠ 0 → t.safety = s.safety ∧ t.rd Reg.SAFETY_STAT_FIRST 0 = s.rd Reg.SAFETY_STAT_FIRST 0) := by
  have ha := s.clears_asked
  have hac : (s.asked 0x4000).acc = .ok := rfl
  have hr := s.rd_asked 0x4000
  have hbit (k : Nat) (hk : k < 16) := faultHit_bit s (srcRank src) w hk
  rw [safetyFaultClear_eq src w hm]
  refine ⟨_, rfl, ?_⟩
  rw [State.acc_noteWrite]
  simp only [State.mode, State.rd_noteWrite, State.bit]
  rw [show (((s.asked 0x4000).clearFaults (s.acting (srcRank src) faultHit 0x4000 w)).noteWrite src 0x4000).safety
    = ((s.asked 0x4000).clearFaults (s.acting (srcRank src) faultHit 0x4000 w)).safety from rfl]
  generalize s.acting (srcRank src) faultHit 0x4000 w = act at hbit ⊢
  generalize s.asked 0x4000 = u at ha hac hr ⊢
  unfold State.clearFaults
  dsimp only
  obtain ⟨hc, hb⟩ := u.each_clearFault ((List.range 16).filter fun k => act.getLsbD k)
    (fun k hk => List.mem_range.1 (List.mem_filter.1 hk).1)
  generalize (u.each ((List.range 16).filter fun k => act.getLsbD k) fun k s => s.clearFault k) = v at hc hb ⊢
  have hv := ha.trans hc
  have hstate : v.mode = s.mode := hv.rd _ _ (by decide) (by decide)
  have hclear : ∀ k, k < 16 → v.bit Reg.SAFETY_FAULT_F 0 k = (s.bit Reg.SAFETY_FAULT_F 0 k
      && !(w.getLsbD k && !s.sourceSet k && !((s.raised.getD (Reg.SAFETY_FAULT_F.addr 0) 0).getLsbD k))) := by
    intro k hk
    have hmem : decide (k ∈ (List.range 16).filter fun k => act.getLsbD k) = act.getLsbD k := by simp [hk]
    rw [hb, hmem, hbit k hk, ha.mayClear, State.bit_of_rd (hr _ _), State.mayClear, show Reg.SAFETY_FAULT_F.addr 0 = 0x4000 from rfl]
    cases w.getLsbD k <;> cases s.sourceSet k <;> cases (s.raised.getD 0x4000 0).getLsbD k <;> rfl
  split
  case isTrue hz =>
    have hz0 : v.rd Reg.SAFETY_FAULT_F 0 = 0 := of_decide_eq_true (Bool.and_eq_true .. ▸ hz).2
    have hf : v.Fields [Reg.SAFETY_STAT_FIRST] (v.wr Reg.SAFETY_STAT_FIRST 0 0) := .wr v _ _ (by decide) (List.mem_singleton_self _)
    have h0 : (v.wr Reg.SAFETY_STAT_FIRST 0 0).rd Reg.SAFETY_STAT_FIRST 0 = 0 := v.rd_wr_same Reg.SAFETY_STAT_FIRST 0 0 (by decide)
    have hx : (v.wr Reg.SAFETY_STAT_FIRST 0 0).acc = v.acc := v.wr_acc ..
    generalize v.wr Reg.SAFETY_STAT_FIRST 0 0 = x at hf h0 hx ⊢
    have hm' : x.mode = s.mode := (hf.rd Reg.BOOT_STATE_STATE (by decide) (by decide)).trans hstate
    obtain ⟨hg, _, hn, _, _⟩ := x.driveSafe_drives (by omega)
    have hacc := x.driveSafe_acc
    have hfault : x.driveSafe.rd Reg.SAFETY_FAULT_F 0 = v.rd Reg.SAFETY_FAULT_F 0 :=
      (hg.rd Reg.SAFETY_FAULT_F (by decide) (by decide)).trans (hf.rd Reg.SAFETY_FAULT_F (by decide) (by decide))
    have hhigh : x.safeHigh = true ↔ 5 ≤ s.mode ∧ s.mode ≤ 8 := by
      unfold State.safeHigh
      rw [hm', hf.rd Reg.SAFETY_FAULT_F (by decide) (by decide), hz0]
      simp
    refine ⟨hacc.trans (hx.trans (hc.acc hac)), (hg.rd Reg.BOOT_STATE_STATE (by decide) (by decide)).trans hm', fun k hk => ?_,
      fun _ _ => ⟨(hg.rd Reg.SAFETY_STAT_FIRST (by decide) (by decide)).trans h0, hn.trans (if_congr hhigh rfl rfl)⟩, fun h => absurd (hfault.trans hz0) h⟩
    rw [hfault]
    exact hclear k hk
  case isFalse hz =>
    refine ⟨hc.acc hac, hstate, hclear, fun h1 h2 => absurd ?_ hz, fun _ => ⟨hv.safety, hv.rd Reg.SAFETY_STAT_FIRST 0 (by decide) (by decide)⟩⟩
    rw [hr, h2, Bool.and_eq_true]
    exact ⟨bne_iff_ne.2 h1, decide_eq_true rfl⟩

/-! ### TEST_INJ, the heartbeat, the sweep, clocks and rails (R411 to R413, R416, R425) -/

theorem safetyTestInj_raises (src : Source) {s : State} (hm : 3 ≤ s.mode) (ho : s.classOpen .device = true) :
    ∃ t, exec (.safetyTestInj src) s = .next t ∧ t.acc = .ok ∧ t.safety.due = s.safety.due ++ [(15, s.lany)] ∧ t.mode = s.mode := by
  have hex : exec (.safetyTestInj src) s = .next (((s.recorded src testInjHit 0x4028 1).source 15).noteWrite src 0x4028) :=
    congrArg Host.Outcome.next (State.writeReg_guarded_open src 1 hm lookup_testInj rfl (by decide) rfl ho (.inl rfl))
  have hu := s.recorded_spec src testInjHit 0x4028 1
  generalize s.recorded src testInjHit 0x4028 1 = u at hu hex
  refine ⟨_, hex, hu.acc, ?_, hu.rd Reg.BOOT_STATE_STATE (by decide) (by decide)⟩
  change u.safety.due ++ [(15, u.lany)] = _
  rw [hu.safety, hu.lany]

theorem safeHbToggle_toggles (s : State) : ∃ t, exec .safeHbToggle s = .next t ∧ { t with safety := s.safety } = s
    ∧ t.safety.safeN = s.safety.safeN ∧ (s.safety.safeN = .high → (t.safety.safeHb = .high ↔ s.safety.safeHb ≠ .high))
    ∧ (s.safety.safeN ≠ .high → t = s) := by
  rw [exec_safeHbToggle, execSafeHbToggle]
  refine ⟨_, rfl, ?_⟩
  split
  case isTrue h =>
    refine ⟨rfl, rfl, fun _ => ?_, fun hn => absurd h hn⟩
    dsimp only
    cases s.safety.safeHb <;> decide
  case isFalse h => exact ⟨rfl, rfl, fun hn => absurd hn h, fun _ => rfl⟩

theorem configSweepPass_counts (bad : Bool) {s : State} (hm : 3 ≤ s.mode) : ∃ t, exec (.configSweepPass bad) s = .next t
    ∧ t.rd Reg.SAFETY_SWEEP_PASS 0 = (s.rd Reg.SAFETY_SWEEP_PASS 0 + 1) % 2 ^ 32
    ∧ (∀ a, a ≠ Reg.SAFETY_SWEEP_PASS.addr 0 → t.reg a = s.reg a)
    ∧ t.safety.due = s.safety.due ++ (if bad then [(3, s.lany)] else []) := by
  have hr := s.rd_count_same Reg.SAFETY_SWEEP_PASS 0 1 (by decide)
  have ho (a : Nat) (ha : a ≠ Reg.SAFETY_SWEEP_PASS.addr 0) : (s.count Reg.SAFETY_SWEEP_PASS 0 1).reg a = s.reg a :=
    s.reg_wr_other Reg.SAFETY_SWEEP_PASS 0 _ ha
  rw [exec_configSweepPass, execConfigSweepPass, if_neg (by omega)]
  refine ⟨_, rfl, ?_⟩
  dsimp only
  cases bad
  · exact ⟨hr, ho, (List.append_nil _).symm⟩
  · exact ⟨hr, ho, rfl⟩

/-! ### The reaction to a fault (R407) -/

/-- The first fault is recorded with its time. -/
def State.firstFault (k : Nat) (x : Time) (s : State) : State :=
  ((s.wr Reg.SAFETY_STAT_FIRST 0 (k + 1)).setPair Reg.SAFETY_FTIME_LO_T 0 x).askFreeze 1

theorem State.regs_askFreeze (s : State) (n a : Nat) (ha : outsideLog a) : (s.askFreeze n).reg a = s.reg a := by
  unfold State.askFreeze State.freezeFlags
  dsimp only
  have hne : a ≠ 0x5008 := by rintro rfl; exact absurd ha (by decide)
  rw [State.reg_put_other _ _ _ _ hne, State.reg_put_other _ _ _ _ hne]
  rfl

theorem State.firstFault_records (s : State) {k : Nat} (hk : k < 16) (x : Time) : let t := s.firstFault k x
    t.rd Reg.SAFETY_STAT_FIRST 0 = k + 1 ∧ t.pair Reg.SAFETY_FTIME_LO_T 0 = x ∧ t.cause = s.cause
      ∧ ∀ a, outsideLog a → a ≠ 0x4008 → a ≠ 0x400C → a ≠ 0x4010 → t.reg a = s.reg a := by
  dsimp only
  unfold State.firstFault
  have hw : (s.wr Reg.SAFETY_STAT_FIRST 0 (k + 1)).rd Reg.SAFETY_STAT_FIRST 0 = k + 1 :=
    (s.rd_wr_same Reg.SAFETY_STAT_FIRST 0 (k + 1) (by decide)).trans (Nat.mod_eq_of_lt (by show k + 1 < 2 ^ 8; omega))
  have hwo (a : Nat) (ha : a ≠ 0x4008) : (s.wr Reg.SAFETY_STAT_FIRST 0 (k + 1)).reg a = s.reg a := s.reg_wr_other Reg.SAFETY_STAT_FIRST 0 _ ha
  have hwc : (s.wr Reg.SAFETY_STAT_FIRST 0 (k + 1)).cause = s.cause := s.wr_cause ..
  generalize s.wr Reg.SAFETY_STAT_FIRST 0 (k + 1) = u at hw hwo hwc ⊢
  have hp := u.pair_setPair Reg.SAFETY_FTIME_LO_T 0 x
  have hpo (a : Nat) (h1 : a ≠ 0x400C) (h2 : a ≠ 0x4010) : (u.setPair Reg.SAFETY_FTIME_LO_T 0 x).reg a = u.reg a :=
    u.reg_setPair_other Reg.SAFETY_FTIME_LO_T 0 x h1 h2
  have hpc : (u.setPair Reg.SAFETY_FTIME_LO_T 0 x).cause = u.cause := rfl
  generalize u.setPair Reg.SAFETY_FTIME_LO_T 0 x = v at hp hpo hpc ⊢
  have hf (a : Nat) (ha : outsideLog a) := v.regs_askFreeze 1 a ha
  have hfc : (v.askFreeze 1).cause = v.cause := rfl
  generalize v.askFreeze 1 = w at hf hfc ⊢
  exact ⟨(State.rd_of_reg ((hf _ (by decide)).trans (hpo _ (by decide) (by decide)))).trans hw,
    (State.pair_of_reg (hf _ (by decide)) (hf _ (by decide))).trans hp, hfc.trans (hpc.trans hwc),
    fun a h0 h1 h2 h3 => (hf a h0).trans ((hpo a h2 h3).trans (hwo a h1))⟩

/-- What the monitor shows of fault `k` before any stop. -/
def State.faultShown (k : Nat) (x : Time) (s : State) : State :=
  let f := s.rd Reg.SAFETY_FAULT_F 0
  let s := s.raiseBit Reg.SAFETY_FAULT_F 0 k
  let s := s.log_ 0x10 18 true (k + 1) (s.rd Reg.SAFETY_FAULT_F 0) 0 0 x
  let s := if f = 0 then s.firstFault k x else s
  s.driveSafe.plainStatus x 5 0xFF (k + 1)

theorem State.react_eq {s : State} {k : Nat} (hm : 3 ≤ s.mode) (hb : s.bit Reg.SAFETY_FAULT_F 0 k = false) (x : Time) : s.react k x =
    let t := s.faultShown k x
    if t.stops k && 5 ≤ t.mode && !t.overruled 3 then t.enterSafeStop.governed 3 else t :=
  if_neg (by rw [hb, decide_eq_false (by omega)]; decide)

theorem State.plainStatus_step (s : State) (x : Time) (c i d : Nat) : let t := s.plainStatus x c i d
    s.Fields [Reg.HOSTLINK_EVT_PEND] t ∧ t.safety = s.safety ∧ t.cause = s.cause := by
  dsimp only
  unfold State.plainStatus State.status
  exact ⟨(State.Fields.of_regs rfl).trans (State.event_step _ 2).1, rfl, rfl⟩

/-- The fault bit is set, the first fault recorded, SAFE_N low. -/
theorem State.faultShown_shows (s : State) {k : Nat} (hk : k < 16) (x : Time) (hm : 3 ≤ s.mode) (hb : s.bit Reg.SAFETY_FAULT_F 0 k = false) :
    let t := s.faultShown k x
    (∀ j, t.bit Reg.SAFETY_FAULT_F 0 j = (s.bit Reg.SAFETY_FAULT_F 0 j || decide (j = k)))
      ∧ t.safety.safeN = .low ∧ t.on Reg.SAFETY_STAT_SAFE 0 = true
      ∧ (s.rd Reg.SAFETY_FAULT_F 0 = 0 → t.rd Reg.SAFETY_STAT_FIRST 0 = k + 1 ∧ t.pair Reg.SAFETY_FTIME_LO_T 0 = x)
      ∧ (s.rd Reg.SAFETY_FAULT_F 0 ≠ 0 → t.rd Reg.SAFETY_STAT_FIRST 0 = s.rd Reg.SAFETY_STAT_FIRST 0)
      ∧ t.mode = s.mode ∧ t.cause = s.cause ∧ t.rd Reg.SAFETY_STOPEN_EN 0 = s.rd Reg.SAFETY_STOPEN_EN 0 := by
  dsimp only
  unfold State.faultShown
  dsimp only
  have h1 (j : Nat) := s.bit_raiseBit Reg.SAFETY_FAULT_F 0 k j (by decide) hk
  have h1o (a : Nat) (ha : a ≠ 0x4000) : (s.raiseBit Reg.SAFETY_FAULT_F 0 k).reg a = s.reg a := s.reg_raiseBit_other Reg.SAFETY_FAULT_F 0 k ha
  have h1c : (s.raiseBit Reg.SAFETY_FAULT_F 0 k).cause = s.cause := rfl
  generalize s.raiseBit Reg.SAFETY_FAULT_F 0 k = u at h1 h1o h1c ⊢
  have h2 := u.logged_log_ 0x10 18 true (k + 1) (u.rd Reg.SAFETY_FAULT_F 0) 0 0 x
  generalize u.log_ 0x10 18 true (k + 1) (u.rd Reg.SAFETY_FAULT_F 0) 0 0 x = v at h2 ⊢
  have h2c : v.cause = u.cause := by obtain ⟨_, _, _, _, _, hv, _⟩ := h2; rw [hv]
  have h3 : ∀ w, w = (if s.rd Reg.SAFETY_FAULT_F 0 = 0 then v.firstFault k x else v) → w.cause = v.cause
      ∧ (∀ a, outsideLog a → a ≠ 0x4008 → a ≠ 0x400C → a ≠ 0x4010 → w.reg a = v.reg a)
      ∧ (s.rd Reg.SAFETY_FAULT_F 0 = 0 → w.rd Reg.SAFETY_STAT_FIRST 0 = k + 1 ∧ w.pair Reg.SAFETY_FTIME_LO_T 0 = x)
      ∧ (s.rd Reg.SAFETY_FAULT_F 0 ≠ 0 → w = v) := by
    intro w hw
    rw [hw]
    split
    case isTrue h0 =>
      obtain ⟨ha, hb, hc, hd⟩ := v.firstFault_records hk x
      exact ⟨hc, hd, fun _ => ⟨ha, hb⟩, fun h => absurd h0 h⟩
    case isFalse h0 => exact ⟨rfl, fun _ _ _ _ _ => rfl, fun h => absurd h h0, fun _ => rfl⟩
  obtain ⟨h3c, h3o, h3f, h3n⟩ := h3 _ rfl
  generalize (if s.rd Reg.SAFETY_FAULT_F 0 = 0 then v.firstFault k x else v) = w at h3c h3o h3f h3n ⊢
  have hkeep (f : Field) (ho : outsideLog (f.addr 0)) (ha : f.addr 0 ≠ 0x4008) (hb : f.addr 0 ≠ 0x400C) (hc : f.addr 0 ≠ 0x4010) :
      w.rd f 0 = u.rd f 0 := State.rd_of_reg ((h3o _ ho ha hb hc).trans (h2.reg ho))
  have hmode : w.mode = s.mode := (hkeep Reg.BOOT_STATE_STATE (by decide) (by decide) (by decide) (by decide)).trans (State.rd_of_reg (h1o _ (by decide)))
  have hfault := hkeep Reg.SAFETY_FAULT_F (by decide) (by decide) (by decide) (by decide)
  have hbits (j : Nat) : w.bit Reg.SAFETY_FAULT_F 0 j = (s.bit Reg.SAFETY_FAULT_F 0 j || decide (j = k)) := (State.bit_of_rd hfault j).trans (h1 j)
  have hne : w.rd Reg.SAFETY_FAULT_F 0 ≠ 0 := by
    intro h0
    have := hbits k
    rw [decide_eq_true rfl, Bool.or_true, State.bit, h0, Nat.zero_div] at this
    exact absurd this (by decide)
  have hhigh : w.safeHigh = false := by
    unfold State.safeHigh
    rw [decide_eq_false hne, Bool.and_false]
  obtain ⟨hd, hon, hn, hdc, -⟩ := w.driveSafe_drives (by omega)
  generalize w.driveSafe = y at hd hon hn hdc ⊢
  obtain ⟨hp, hps, hpc⟩ := y.plainStatus_step x 5 0xFF (k + 1)
  generalize y.plainStatus x 5 0xFF (k + 1) = z at hp hps hpc ⊢
  have hz : w.Fields [Reg.SAFETY_STAT_SAFE, Reg.SAFETY_STAT_HB, Reg.HOSTLINK_EVT_PEND] z := hd.trans (hp.mono (by decide))
  refine ⟨fun j => (State.bit_of_rd (hz.rd _ (by decide) (by decide)) j).trans (hbits j), ?_, ?_, fun h0 => ?_, fun h0 => ?_,
    (hz.rd Reg.BOOT_STATE_STATE (by decide) (by decide)).trans hmode, hpc.trans (hdc.trans (h3c.trans (h2c.trans h1c))),
    (hz.rd Reg.SAFETY_STOPEN_EN (by decide) (by decide)).trans ((hkeep Reg.SAFETY_STOPEN_EN (by decide) (by decide) (by decide) (by decide)).trans
      (State.rd_of_reg (h1o _ (by decide))))⟩
  · rw [hps, hn, hhigh]
    rfl
  · rw [hp.on Reg.SAFETY_STAT_SAFE (by decide) (by decide), hon, hhigh]
    rfl
  · obtain ⟨ha, hb⟩ := h3f h0
    exact ⟨(hz.rd Reg.SAFETY_STAT_FIRST (by decide) (by decide)).trans ha,
      (State.pair_of_reg (hz.reg (by decide) (by decide)) (hz.reg (by decide) (by decide))).trans hb⟩
  · rw [hz.rd Reg.SAFETY_STAT_FIRST (by decide) (by decide), h3n h0]
    exact State.rd_of_reg ((h2.reg (by decide)).trans (h1o _ (by decide)))

/-! ### SAFE_STOP (R419) -/

section
variable {s t : State}

theorem State.Measures.answer {B : Nat} {a : AccCode} (h : s.Measures B t) : s.Measures B (t.answer a) := h.same rfl rfl rfl rfl rfl rfl

theorem State.Measures.logAbort {B kind who tag island : Nat} {acted : Bool} (h : s.Measures B t) : s.Measures B (t.logAbort kind who tag acted island) :=
  h.logged (State.logged_logBy ..)

/-- The stack in progress is cut short. -/
def State.cutNow (i : Nat) (s : State) : State :=
  match (s.strand i).stack with
  | some k => s.cutStack i k
  | none => s

/-- The stack in progress closes. -/
def State.closeNow (i : Nat) (s : State) : State :=
  match (s.strand i).stack with
  | some k => s.closeStack i k
  | none => s

/-- RUN reads 0 and the strand stops, whatever restart waited. -/
def State.stopNow (i : Nat) (s : State) : State :=
  ((s.put Reg.STRAND_CTRL_RUN i false).setStrand i { s.strand i with restartRun := false }).stopped i

theorem State.strandAbortNow_eq (s : State) (i tag : Nat) : s.strandAbortNow i tag =
    ((((((s.flush i).cutNow i).stopNow i).raise Reg.STRAND_STAT_ABORTED i).logAbort 0 i tag true 1).answer .aborted) := rfl

theorem State.safeStopStrand_eq (s : State) (i : Nat) : s.safeStopStrand i =
    if s.sstate i = 0 then s
    else if s.stackComplete i then (((s.flush i).presence i).closeNow i).stopNow i
    else s.strandAbortNow i 0 := rfl

theorem State.Measures.cutNow {i : Nat} (h : s.Measures 0x8000 t) : s.Measures 0x8000 (t.cutNow i) := by
  unfold State.cutNow
  split
  · exact h.cutStack
  · exact h

theorem State.Measures.closeNow {i : Nat} (h : s.Measures 0x8000 t) : s.Measures 0x8000 (t.closeNow i) := by
  unfold State.closeNow
  split
  · exact h.closeStack
  · exact h

theorem State.Measures.stopNow {i : Nat} (h : s.Measures 0x8000 t) : s.Measures 0x8000 (t.stopNow i) := by
  unfold State.stopNow
  rw [State.stopped_eq (by rw [State.setStrand_same])]
  exact (h.put (by decide)).setStrand.atRest

theorem State.Measures.strandAbortNow {i tag : Nat} (h : s.Measures 0x8000 t) : s.Measures 0x8000 (t.strandAbortNow i tag) := by
  rw [State.strandAbortNow_eq]
  exact .answer (.logAbort (.raise h.flush.cutNow.stopNow (by decide)))

theorem State.Measures.safeStopStrand {i : Nat} (h : s.Measures 0x8000 t) : s.Measures 0x8000 (t.safeStopStrand i) := by
  rw [State.safeStopStrand_eq]
  exact .ite h (.ite h.flush.presence.closeNow.stopNow h.strandAbortNow)

theorem State.Measures.gapAbort {i : Nat} (h : s.Measures 0x10000 t) : s.Measures 0x10000 (t.gapAbort i) := by
  unfold State.gapAbort
  refine State.Measures.setStrand (h.each fun ch _ v => ?_)
  split
  · exact .wr (.wr (.dropInj (State.Measures.refl _ v).setChan) (by decide)) (by decide)
  · exact .refl _ v

theorem State.Measures.portHalt {p : Nat} (h : s.Measures 0x8000 t) : s.Measures 0x8000 (t.portHalt p) := h.setPort.portIdle.wr (by decide)

theorem State.Measures.dropStartCal (h : s.Measures 0x10000 t) : s.Measures 0x10000 t.dropStartCal := by
  unfold State.dropStartCal
  split
  · exact h
  · exact State.Measures.each (h.same rfl rfl rfl rfl rfl rfl) fun ch _ v => .repower (.dropInj (State.Measures.refl _ v).setChan)

end

/-- A port makes no launch and shows setpoint 0. -/
def State.portStill (p : Nat) (s : State) : Prop :=
  (s.port p).gate = [] ∧ (s.port p).next = none ∧ s.rd Reg.PRB_SETNOW_SET p = 0

theorem State.portHalt_halts (s : State) (p : Nat) : (s.portHalt p).portStill p := by
  have hp : ((s.setPort p { s.port p with gate := [] }).portIdle p).port p = { s.port p with
      gate := [], next := none, launching := false, fixed := none, fixTick := none, cycles := [], sw := (s.port p).lastSw } := by
    rw [State.portIdle, State.setPort_same, State.setPort_same]
  unfold State.portHalt State.portStill
  generalize (s.setPort p { s.port p with gate := [] }).portIdle p = u at hp ⊢
  rw [show (u.wr Reg.PRB_SETNOW_SET p 0).port p = u.port p from rfl, hp]
  exact ⟨rfl, rfl, u.rd_wr_same Reg.PRB_SETNOW_SET p 0 (by decide)⟩

theorem State.portHalt_other (s : State) {p q : Nat} (h : s.portStill p) (hne : q ≠ p) : (s.portHalt q).portStill p := by
  obtain ⟨hg, hn, hr⟩ := h
  have hp : ((s.setPort q { s.port q with gate := [] }).portIdle q).port p = s.port p := by
    rw [State.portIdle, State.setPort_other _ _ (Ne.symm hne), State.setPort_other _ _ (Ne.symm hne)]
  have ha : Reg.PRB_SETNOW_SET.addr p ≠ Reg.PRB_SETNOW_SET.addr q := by simp only [Field.addr, Reg.PRB_SETNOW_SET]; omega
  unfold State.portHalt State.portStill
  have hrd : ((s.setPort q { s.port q with gate := [] }).portIdle q).rd Reg.PRB_SETNOW_SET p = s.rd Reg.PRB_SETNOW_SET p := rfl
  generalize (s.setPort q { s.port q with gate := [] }).portIdle q = u at hp hrd ⊢
  rw [show (u.wr Reg.PRB_SETNOW_SET q 0).port p = u.port p from rfl, hp]
  exact ⟨hg, hn, (u.rd_wr_addr _ _ _ _ _ ha).trans (hrd.trans hr)⟩

theorem State.each_portHalt (s : State) (p : PortId) : (s.each (List.range 16) fun p s => s.portHalt p).portStill p := by
  refine State.each_brings (P := fun t => t.portStill p) (Q := fun _ => True) (List.mem_range.2 p.isLt) (fun _ _ _ _ => trivial) (fun q _ t ht => ?_)
    (fun t _ => t.portHalt_halts p) trivial
  by_cases hq : q = p
  · rw [hq]
    exact t.portHalt_halts p
  · exact t.portHalt_other ht hq

theorem State.ports_ite {s t u : State} {c : Prop} [Decidable c] (h : t.ports = s.ports) (k : u.ports = s.ports) :
    (if c then t else u).ports = s.ports := by
  split
  · exact h
  · exact k

theorem State.ports_repower (s : State) (ch : Nat) : (s.repower ch).ports = s.ports := by
  have hw (v : Nat) (b : Bool) : ((s.wr Reg.FC_STAT_PSTATE ch v).put Reg.FC_STAT_READY ch b).ports = s.ports := (State.put_ports ..).trans (State.wr_ports ..)
  have hm (t : State) : (t.monWait ch).ports = t.ports := rfl
  unfold State.repower
  dsimp only
  refine State.ports_ite rfl (State.ports_ite ?_ ?_)
  · rw [hm, State.setChan_ports, hw]
  · rw [State.setChan_ports, hw]

theorem State.ports_each {α : Type} {f : α → State → State} (hf : ∀ x (t : State), (f x t).ports = t.ports) (l : List α) (s : State) :
    (s.each l f).ports = s.ports :=
  State.each_keeps (P := fun t => t.ports = s.ports) (fun x _ t ht => (hf x t).trans ht) rfl

theorem State.ports_dropInj (s : State) (ch : Nat) : (s.dropInj ch).ports = s.ports := State.ports_ite rfl rfl

theorem State.ports_dropStartCal (s : State) : s.dropStartCal.ports = s.ports := by
  unfold State.dropStartCal
  split
  · rfl
  · dsimp only
    refine (State.ports_each (fun ch t => ?_) _ _).trans rfl
    exact (State.ports_repower _ ch).trans (State.ports_dropInj _ ch)

theorem State.ports_pcResumeAll (s : State) : s.pcResumeAll.ports = s.ports := by
  unfold State.pcResumeAll
  refine State.ports_each (fun c t => ?_) _ _
  dsimp only
  rw [State.put_ports, State.put_ports]
  rfl

/-- The strands, the ports and the start calibration stop. -/
def State.halted (acc : AccCode) (s : State) : State :=
  let s := s.each (List.range 64) fun i s => (if (s.strand i).gapRun.isSome then s.gapAbort i else s).safeStopStrand i
  let s := s.each (List.range 16) fun p s => s.portHalt p
  let s := s.dropStartCal
  let s := { s with acc := acc, boot := { s.boot with waking := false } }
  (s.put Reg.BOOT_STAT_WATCH_PEND 0 false).put Reg.BOOT_STAT_WAKE_PEND 0 false

/-- The channels a WATCH had powered down are powered again. -/
def State.powered (s : State) : State := (s.each (List.range 192) fun ch s => s.repower ch).pcResumeAll

theorem State.enterSafeStop_eq {s : State} (h : s.mode ≠ 9) : s.enterSafeStop =
    let t := ((s.enter 9).put Reg.SAFETY_STAT_STOP 0 true).halted s.acc
    if s.inWatch then t.powered else t := if_neg h

theorem State.Measures.halted {s t : State} {acc : AccCode} (h : s.Measures 0x8000 t) : s.Measures 0x8000 (t.halted acc) := by
  unfold State.halted
  dsimp only
  have h1 : s.Measures 0x8000 (t.each (List.range 64) fun i s => (if (s.strand i).gapRun.isSome then s.gapAbort i else s).safeStopStrand i) :=
    h.each fun i _ v => .safeStopStrand (.ite (.mono (.gapAbort (.refl _ v)) (by decide)) (.refl _ v))
  generalize (t.each (List.range 64) fun i s => (if (s.strand i).gapRun.isSome then s.gapAbort i else s).safeStopStrand i) = u at h1 ⊢
  have h2 : s.Measures 0x8000 (u.each (List.range 16) fun p s => s.portHalt p) := h1.each fun p _ v => (State.Measures.refl _ v).portHalt
  generalize (u.each (List.range 16) fun p s => s.portHalt p) = v at h2 ⊢
  have h3 : s.Measures 0x8000 v.dropStartCal := h2.trans ((State.Measures.dropStartCal (.refl _ v)).mono (by decide))
  generalize v.dropStartCal = w at h3 ⊢
  exact .bootStat (.bootStat (h3.same rfl rfl rfl rfl rfl rfl) rfl) rfl

/-- What the registers of the ports show stays as they halt. -/
theorem State.portStill.of_measures {s t : State} {p : PortId} (h : s.portStill p) (hm : s.Measures 0x10000 t) (hp : t.ports = s.ports) :
    t.portStill p := by
  obtain ⟨hg, hn, hr⟩ := h
  have ha : Reg.PRB_SETNOW_SET.addr p.val < 0x10000 ∧ 0x8000 ≤ Reg.PRB_SETNOW_SET.addr p.val := by
    have := p.isLt
    simp only [Field.addr, Reg.PRB_SETNOW_SET]
    omega
  unfold State.portStill State.port
  rw [hp, State.rd_of_reg (hm.reg _ ha.1 (.inr (by omega)) (by omega))]
  exact ⟨hg, hn, hr⟩

theorem State.halted_still (s : State) (acc : AccCode) (p : PortId) : (s.halted acc).portStill p := by
  unfold State.halted
  dsimp only
  generalize (s.each (List.range 64) fun i s => (if (s.strand i).gapRun.isSome then s.gapAbort i else s).safeStopStrand i) = u
  have h := u.each_portHalt p
  generalize (u.each (List.range 16) fun p s => s.portHalt p) = v at h ⊢
  have hm : v.Measures 0x10000 v.dropStartCal := State.Measures.dropStartCal (.refl _ v)
  have hw := v.ports_dropStartCal
  generalize v.dropStartCal = w at hm hw ⊢
  exact h.of_measures (.bootStat (.bootStat (hm.same rfl rfl rfl rfl rfl rfl) rfl) rfl) hw

theorem State.Measures.powered {s t : State} (h : s.Measures 0x10000 t) : s.Measures 0x10000 t.powered :=
  .pcResumeAll (h.each fun ch _ v => (State.Measures.refl _ v).repower)

theorem State.ports_powered (s : State) : s.powered.ports = s.ports :=
  (State.ports_pcResumeAll _).trans (State.ports_each (fun ch t => t.ports_repower ch) _ _)

/-- Entry to SAFE_STOP: the state, the pins and STOP; of the registers below the measuring islands' nothing else. -/
theorem State.enterSafeStop_stops {s : State} (hm : 3 ≤ s.mode) (h9 : s.mode ≠ 9) : let t := s.enterSafeStop
    t.mode = 9 ∧ t.safety.safeN = .low ∧ t.on Reg.SAFETY_STAT_SAFE 0 = true ∧ t.on Reg.SAFETY_STAT_STOP 0 = true ∧ (∀ p : PortId, t.portStill p)
      ∧ t.rd Reg.SAFETY_STAT_FIRST 0 = s.rd Reg.SAFETY_STAT_FIRST 0
      ∧ (∀ a, 0x300C ≤ a → a < 0x5000 → a ≠ 0x4008 → t.reg a = s.reg a) ∧ ∀ x ∈ s.safety.due, x ∈ t.safety.due := by
  dsimp only
  rw [State.enterSafeStop_eq h9]
  have hg : (s.goto 9).mode = 9 ∧ (∀ a, outsideLog a → a ≠ 0x3000 → (s.goto 9).reg a = s.reg a) ∧ (s.goto 9).safety = s.safety := by
    have hw : (s.wr Reg.BOOT_STATE_STATE 0 9).mode = 9 := s.rd_wr_same Reg.BOOT_STATE_STATE 0 9 (by decide)
    have hwo (a : Nat) (ha : a ≠ 0x3000) : (s.wr Reg.BOOT_STATE_STATE 0 9).reg a = s.reg a := s.reg_wr_other Reg.BOOT_STATE_STATE 0 9 ha
    unfold State.goto
    dsimp only
    rw [if_neg h9]
    have hws : (s.wr Reg.BOOT_STATE_STATE 0 9).safety = s.safety := State.wr_safety ..
    generalize s.wr Reg.BOOT_STATE_STATE 0 9 = u at hw hwo hws ⊢
    have hl := u.logged_logBy 0 2 0 s.mode 9 (u.rd Reg.BOOT_STAT_WCAUSE 0) 0
    unfold State.logNow
    refine ⟨(hl.rd Reg.BOOT_STATE_STATE (by decide)).trans hw, fun a ho ha => (hl.reg ho).trans (hwo a ha), ?_⟩
    obtain ⟨_, _, _, _, _, hv, -⟩ := hl
    rw [hv]
    exact hws
  unfold State.enter
  obtain ⟨hmode, hreg, hsafe⟩ := hg
  generalize s.goto 9 = u at hmode hreg hsafe ⊢
  have hhigh : u.safeHigh = false := by
    unfold State.safeHigh
    rw [hmode]
    rfl
  obtain ⟨hd, hon, hn, -, -⟩ := u.driveSafe_drives (by omega)
  rw [hhigh] at hon hn
  have hdue := u.driveSafe_due
  generalize u.driveSafe = v at hd hon hn hdue ⊢
  have hf : v.Fields [Reg.SAFETY_STAT_STOP] (v.put Reg.SAFETY_STAT_STOP 0 true) := .put v _ _ (by decide) (List.mem_singleton_self _)
  have hst := v.on_put_same Reg.SAFETY_STAT_STOP 0 true (by decide)
  have hsn : (v.put Reg.SAFETY_STAT_STOP 0 true).safety = v.safety := v.put_safety ..
  generalize v.put Reg.SAFETY_STAT_STOP 0 true = w at hf hst hsn ⊢
  have hh : w.Measures 0x8000 (w.halted s.acc) := (State.Measures.refl _ w).halted
  have hp := w.halted_still s.acc
  have hx : ∀ x, x = (if s.inWatch = true then (w.halted s.acc).powered else w.halted s.acc) → w.Measures 0x8000 x ∧ ∀ p : PortId, x.portStill p := by
    rintro _ rfl
    have hq : (w.halted s.acc).Measures 0x10000 (w.halted s.acc).powered := (State.Measures.refl _ _).powered
    split
    · exact ⟨hh.trans (hq.mono (by decide)), fun p => (hp p).of_measures hq (State.ports_powered _)⟩
    · exact ⟨hh, hp⟩
  obtain ⟨hxm, hxp⟩ := hx _ rfl
  generalize (if s.inWatch = true then (w.halted s.acc).powered else w.halted s.acc) = x at hxm hxp ⊢
  have hlow (f : Field) (h1 : f.addr 0 < 0x8000) (h2 : outsideLog (f.addr 0)) (h3 : f.addr 0 ≠ 0x3008) : x.rd f 0 = w.rd f 0 :=
    State.rd_of_reg (hxm.reg _ h1 h2 h3)
  have huw : u.Fields [Reg.SAFETY_STAT_SAFE, Reg.SAFETY_STAT_HB, Reg.HOSTLINK_EVT_PEND, Reg.SAFETY_STAT_STOP] w := (hd.mono (by decide)).trans (hf.mono (by decide))
  refine ⟨?_, ?_, ?_, ?_, hxp, ?_, fun a h1 h2 h3 => ?_, fun x hx => ?_⟩
  · exact (hlow Reg.BOOT_STATE_STATE (by decide) (by decide) (by decide)).trans ((huw.rd _ (by decide) (by decide)).trans hmode)
  · rw [hxm.safeN, hsn, hn]
    rfl
  · rw [State.on_of_rd (hlow Reg.SAFETY_STAT_SAFE (by decide) (by decide) (by decide)), hf.on Reg.SAFETY_STAT_SAFE (by decide) (by decide), hon]
    rfl
  · rw [State.on_of_rd (hlow Reg.SAFETY_STAT_STOP (by decide) (by decide) (by decide)), hst]
  · exact (hlow Reg.SAFETY_STAT_FIRST (by decide) (by decide) (by decide)).trans ((huw.rd _ (by decide) (by decide)).trans (State.rd_of_reg (hreg _ (by decide) (by decide))))
  · have ho : outsideLog a := .inl h2
    have hne : ∀ f ∈ [Reg.SAFETY_STAT_SAFE, Reg.SAFETY_STAT_HB, Reg.HOSTLINK_EVT_PEND, Reg.SAFETY_STAT_STOP], a ≠ f.addr 0 := by
      intro f hf'
      simp only [List.mem_cons, List.not_mem_nil, or_false] at hf'
      rcases hf' with rfl | rfl | rfl | rfl <;> simp only [Field.addr, Reg.SAFETY_STAT_SAFE, Reg.SAFETY_STAT_HB, Reg.HOSTLINK_EVT_PEND, Reg.SAFETY_STAT_STOP] <;> omega
    exact (hxm.reg a (by omega) ho (by omega)).trans ((huw.reg hne ho).trans (hreg a ho (by omega)))
  · refine hxm.due x ?_
    rw [hsn, hdue, hsafe]
    exact hx

theorem State.stops_iff (s : State) (k : Nat) : s.stops k = true ↔ (k < 4 ∨ s.bit Reg.SAFETY_STOPEN_EN 0 (k - 4) = true) := by
  unfold State.stops
  rw [Bool.or_eq_true, decide_eq_true_iff]

/-- The reaction to a fault that becomes set. -/
theorem State.react_reacts {s : State} {k : Nat} (x : Time) (hk : k < 16) (hm : 3 ≤ s.mode) (hb : s.bit Reg.SAFETY_FAULT_F 0 k = false) :
    let t := s.react k x
    (∀ j, t.bit Reg.SAFETY_FAULT_F 0 j = (s.bit Reg.SAFETY_FAULT_F 0 j || decide (j = k)))
      ∧ t.safety.safeN = .low ∧ t.on Reg.SAFETY_STAT_SAFE 0 = true
      ∧ (s.rd Reg.SAFETY_FAULT_F 0 = 0 → t.rd Reg.SAFETY_STAT_FIRST 0 = k + 1 ∧ t.pair Reg.SAFETY_FTIME_LO_T 0 = x)
      ∧ (s.rd Reg.SAFETY_FAULT_F 0 ≠ 0 → t.rd Reg.SAFETY_STAT_FIRST 0 = s.rd Reg.SAFETY_STAT_FIRST 0)
      ∧ t.mode = (if (k < 4 ∨ s.bit Reg.SAFETY_STOPEN_EN 0 (k - 4) = true) ∧ 5 ≤ s.mode ∧ s.overruled 3 = false then 9 else s.mode)
      ∧ ((k < 4 ∨ s.bit Reg.SAFETY_STOPEN_EN 0 (k - 4) = true) → s.overruled 3 = false → 5 ≤ s.mode → s.mode ≤ 8 →
          t.on Reg.SAFETY_STAT_STOP 0 = true ∧ ∀ p : PortId, t.portStill p) := by
  dsimp only
  rw [State.react_eq hm hb x]
  obtain ⟨h1, h2, h3, h4, h5, h6, h7, h8⟩ := s.faultShown_shows hk x hm hb
  generalize s.faultShown k x = u at h1 h2 h3 h4 h5 h6 h7 h8 ⊢
  dsimp only
  have hov : u.overruled 3 = s.overruled 3 := by rw [State.overruled, State.overruled, h7]
  have hiff : (u.stops k && decide (5 ≤ u.mode) && !u.overruled 3) = true ↔
      (k < 4 ∨ s.bit Reg.SAFETY_STOPEN_EN 0 (k - 4) = true) ∧ 5 ≤ s.mode ∧ s.overruled 3 = false := by
    rw [Bool.and_eq_true, Bool.and_eq_true, State.stops_iff, State.bit_of_rd h8, hov, h6, decide_eq_true_iff, Bool.not_eq_true', and_assoc]
  by_cases hstop : (k < 4 ∨ s.bit Reg.SAFETY_STOPEN_EN 0 (k - 4) = true) ∧ 5 ≤ s.mode ∧ s.overruled 3 = false
  · rw [if_pos (hiff.2 hstop), if_pos hstop]
    by_cases h9 : u.mode = 9
    · have he : u.enterSafeStop = u := if_pos h9
      rw [he]
      exact ⟨h1, h2, h3, h4, h5, h9, fun _ _ _ h => absurd h (by omega)⟩
    · obtain ⟨g1, g2, g3, g4, g5, g6, g7, -⟩ := State.enterSafeStop_stops (s := u) (by omega) h9
      generalize u.enterSafeStop = v at g1 g2 g3 g4 g5 g6 g7 ⊢
      refine ⟨fun j => (State.bit_of_rd (State.rd_of_reg (g7 _ (by decide) (by decide) (by decide))) j).trans (h1 j), g2, g3,
        fun h => ⟨g6.trans (h4 h).1, (State.pair_of_reg (g7 _ (by decide) (by decide) (by decide)) (g7 _ (by decide) (by decide) (by decide))).trans (h4 h).2⟩,
        fun h => g6.trans (h5 h), g1, fun _ _ _ _ => ⟨g4, g5⟩⟩
  · rw [if_neg (mt hiff.1 hstop), if_neg hstop]
    exact ⟨h1, h2, h3, h4, h5, h6, fun ha hb hc _ => absurd ⟨ha, hc, hb⟩ hstop⟩

/-- Settles O56. -/
theorem safetyMonitor : Obligations.SafetyMonitor := by
  unfold Obligations.SafetyMonitor
  refine ⟨?_, ?_, ?_, fun src w s hm => safetyFaultClear_clears src w hm, fun src s hm ho => safetyTestInj_raises src hm ho, safeHbToggle_toggles,
    fun bad s hm => configSweepPass_counts bad hm, fun lasts s hm => ⟨?_, ?_⟩⟩
  · intro s h
    rw [exec_safetyFault, execSafetyFault, h]
    rfl
  · intro s k x hd hk hm hb
    have hex : exec .safetyFault s = .next (({ s with safety := { s.safety with due := s.safety.due.erase (k, x) } } : State).react k x) := by
      rw [exec_safetyFault, execSafetyFault, hd]
      rfl
    have hr := State.react_reacts (s := { s with safety := { s.safety with due := s.safety.due.erase (k, x) } }) x hk hm hb
    dsimp only at hr
    obtain ⟨h1, h2, h3, h4, h5, h6, h7⟩ := hr
    exact ⟨_, hex, fun j _ => h1 j, h2, h3, h4, h5, h6, h7⟩
  · intro s k x hd hb
    refine ⟨{ s with safety := { s.safety with due := [] } }, ?_, rfl, rfl⟩
    rw [exec_safetyFault, execSafetyFault, hd]
    have he : nextFault [(k, x)] = some (k, x) := by
      unfold nextFault
      simp
    have hl : [(k, x)].erase (k, x) = [] := by simp
    rw [he]
    dsimp only
    rw [hl]
    exact congrArg Host.Outcome.next (if_pos (by rw [Bool.or_eq_true]; exact .inr hb))
  · refine ⟨_, congrArg Host.Outcome.next (if_neg (by omega)), rfl, rfl, rfl⟩
  · refine ⟨_, congrArg Host.Outcome.next (if_neg (by omega)), rfl, rfl, rfl⟩

end Sys2Proof.Machine
end
-- ==== Sys2Proof/Proofs/SampleTick.lean ====
section
/-! A sampling tick: what it counts, the converter's code and the corrected sample (R6, R8, R59, R65, R80). -/

namespace Sys2Proof.Machine

/-! ### The sequencer of the start calibration (R174, R175)

`Measures 0` says nothing of registers: only that time and the cores stand. -/

section
variable {s t : State}

theorem State.Measures.wr0 {f : Field} {i v : Nat} (h : s.Measures 0 t) : s.Measures 0 (t.wr f i v) := h.wr (Nat.zero_le _)
theorem State.Measures.put0 {f : Field} {i : Nat} {b : Bool} (h : s.Measures 0 t) : s.Measures 0 (t.put f i b) := h.put (Nat.zero_le _)
theorem State.Measures.raise0 {f : Field} {i : Nat} (h : s.Measures 0 t) : s.Measures 0 (t.raise f i) := h.raise (Nat.zero_le _)

/-- The safety source of a channel's strand, where the strand is in the safety function. -/
def State.sourceMasked (ch k : Nat) (s : State) : State :=
  match s.strandOf ch with
  | some i => if s.strandMasked i then s.source k else s
  | none => s

theorem State.Measures.sourceMasked {ch k : Nat} (h : s.Measures 0 t) : s.Measures 0 (t.sourceMasked ch k) := by
  unfold State.sourceMasked
  split
  · exact .ite h.source h
  · exact h

theorem State.calRejected_eq (s : State) (ch res code : Nat) : s.calRejected ch res code =
    (((s.raise Reg.GAPCAL_CHSTAT_CAL_REJECTED ch).raise Reg.GAPCAL_STAT_CAL_REJECTED 0).logNow 0x31 1 ch res code 0).sourceMasked ch 8 := rfl

theorem State.codeRejected_eq (s : State) (ch code : Nat) : s.codeRejected ch code =
    if s.on Reg.SAFETY_CREJ_VALID 0 then s
    else ((((s.raise Reg.SAFETY_CREJ_VALID 0).wr Reg.SAFETY_CREJ_CHAN 0 ch).wr Reg.SAFETY_CREJ_CODE 0 code).logNow 0x11 18 ch code 0 0).sourceMasked ch 9 := rfl

theorem State.Measures.calRejected {ch res code : Nat} (h : s.Measures 0 t) : s.Measures 0 (t.calRejected ch res code) := by
  rw [State.calRejected_eq]
  exact .sourceMasked (.logNow h.raise0.raise0)

theorem State.Measures.codeRejected {ch code : Nat} (h : s.Measures 0 t) : s.Measures 0 (t.codeRejected ch code) := by
  rw [State.codeRejected_eq]
  exact .ite h (.sourceMasked (.logNow h.raise0.wr0.wr0))

theorem State.Measures.skewOf {i ch : Nat} {r : GapRun} {ix : Option GapRun} {ok : Bool} (h : s.Measures 0 t) : s.Measures 0 (t.skewOf i ch r ix ok).2 := by
  unfold State.skewOf
  dsimp only
  split
  · exact h
  · split
    · exact h
    · exact h.fresh

theorem State.Measures.verdict {i ch : Nat} {r : GapRun} {ix : Option GapRun} {ok : Bool} (h : s.Measures 0 t) :
    s.Measures 0 (t.verdict i ch r ix ok).2 := h.skewOf

theorem State.Measures.runAccepted {ch : Nat} {r : GapRun} {v : Verdict} (h : s.Measures 0 t) : s.Measures 0 (t.runAccepted ch r v) :=
  .ite h.setChan.wr0.wr0 h.setChan.wr0.wr0.wr0.wr0

/-- What CHSTAT shows of a rejected run. -/
def State.showRejected (ch : Nat) (r : GapRun) (v : Verdict) (s : State) : State :=
  let c := s.chan ch
  let n := min 3 (nth c.rejCode r.ct 0 + 1)
  let s := s.setChan ch { c with rej := hold32 (c.rej + 1), run := none,
                                 rejCode := if r.atStart then c.rejCode else c.rejCode.set r.ct n }
  let s := (s.wr Reg.GAPCAL_CHSTAT_LASTRES ch v.code).wr Reg.GAPCAL_CHSTAT_TCODE ch r.ct
  if v.code = 8 then s.raise Reg.GAPCAL_CHSTAT_LIN_FAIL ch else s

/-- The counts of a channel's rejected runs, and what they raise. -/
def State.countRejected (ch n : Nat) (r : GapRun) (v : Verdict) (s : State) : State :=
  let was := s.rd Reg.GAPCAL_CHSTAT_REJ_RUN ch
  let s := (s.wr Reg.GAPCAL_CHSTAT_REJ_RUN ch (min 3 (was + 1))).wr Reg.GAPCAL_CHSTAT_NQ_RUN ch 0
  let s := if 2 ≤ was && (was = 2 || !s.on Reg.GAPCAL_CHSTAT_CAL_REJECTED ch) then
      s.calRejected ch v.code r.ct else s
  if n = 3 then s.codeRejected ch r.ct else s

theorem State.runRejected_eq (s : State) (ch : Nat) (r : GapRun) (v : Verdict) : s.runRejected ch r v =
    if r.atStart then s.showRejected ch r v
    else (s.showRejected ch r v).countRejected ch (min 3 (nth (s.chan ch).rejCode r.ct 0 + 1)) r v := rfl

theorem State.Measures.showRejected {ch : Nat} {r : GapRun} {v : Verdict} (h : s.Measures 0 t) : s.Measures 0 (t.showRejected ch r v) :=
  .ite h.setChan.wr0.wr0.raise0 h.setChan.wr0.wr0

theorem State.Measures.countRejected {ch n : Nat} {r : GapRun} {v : Verdict} (h : s.Measures 0 t) : s.Measures 0 (t.countRejected ch n r v) := by
  unfold State.countRejected
  dsimp only
  have hw : s.Measures 0 ((t.wr Reg.GAPCAL_CHSTAT_REJ_RUN ch (min 3 (t.rd Reg.GAPCAL_CHSTAT_REJ_RUN ch + 1))).wr Reg.GAPCAL_CHSTAT_NQ_RUN ch 0) := h.wr0.wr0
  generalize (t.wr Reg.GAPCAL_CHSTAT_REJ_RUN ch (min 3 (t.rd Reg.GAPCAL_CHSTAT_REJ_RUN ch + 1))).wr Reg.GAPCAL_CHSTAT_NQ_RUN ch 0 = u at hw ⊢
  have hc {c : Prop} [Decidable c] : s.Measures 0 (if c then u.calRejected ch v.code r.ct else u) := .ite hw.calRejected hw
  exact .ite hc.codeRejected hc

theorem State.Measures.runRejected {ch : Nat} {r : GapRun} {v : Verdict} (h : s.Measures 0 t) : s.Measures 0 (t.runRejected ch r v) := by
  rw [State.runRejected_eq]
  exact .ite h.showRejected h.showRejected.countRejected

/-- A start run that failed on its third attempt is shown. -/
def State.startGivenUp (ch code reject : Nat) (nq : Bool) (s : State) : State :=
  let s := s.raise Reg.GAPCAL_CHSTAT_START_FAIL ch
  let s := if nq then s.raise Reg.GAPCAL_STAT_START_NQ 0 else s
  if reject = 3 then s.calRejected ch (s.rd Reg.GAPCAL_CHSTAT_LASTRES ch) code else s

theorem State.Measures.startFailed {pass code ch : Nat} {nq : Bool} (h : s.Measures 0 t) : s.Measures 0 (t.startFailed pass code nq ch) := by
  have given {u : State} {n : Nat} (hu : s.Measures 0 u) : s.Measures 0 (u.startGivenUp ch code n nq) := by
    unfold State.startGivenUp
    dsimp only
    have hq : s.Measures 0 (if nq = true then (u.raise Reg.GAPCAL_CHSTAT_START_FAIL ch).raise Reg.GAPCAL_STAT_START_NQ 0
      else u.raise Reg.GAPCAL_CHSTAT_START_FAIL ch) := .ite hu.raise0.raise0 hu.raise0
    exact .ite hq.calRejected hq
  exact .ite h.setChan (given h.setChan)

theorem State.Measures.startJudge {pass ch : Nat} {ix : Option GapRun} {ok : Bool} (h : s.Measures 0 t) :
    s.Measures 0 (t.startJudge pass ch ix ok).2 := by
  unfold State.startJudge
  dsimp only
  split
  · exact h
  · next r hr =>
    split
    · exact .startFailed h.setChan.wr0.wr0
    · have hv := h.verdict (i := (t.strandOf ch).getD 64) (ch := ch) (r := r) (ix := ix) (ok := ok)
      generalize t.verdict ((t.strandOf ch).getD 64) ch r ix ok = x at hv ⊢
      obtain ⟨v, u⟩ := x
      dsimp only
      split
      · exact hv.runAccepted
      · exact hv.runRejected.startFailed

theorem State.Measures.startJudges {pass : Nat} {l : List Nat} {ix : Option GapRun} {ok : Bool} (h : s.Measures 0 t) :
    s.Measures 0 (t.startJudges pass l ix ok) := by
  induction l generalizing t ix ok with
  | nil => exact h
  | cons ch l ih =>
    have hj := h.startJudge (pass := pass) (ch := ch) (ix := ix) (ok := ok)
    unfold State.startJudges
    dsimp only
    generalize t.startJudge pass ch ix ok = x at hj ⊢
    obtain ⟨b, u⟩ := x
    dsimp only
    split
    · exact ih hj
    · exact ih hj

theorem State.Measures.startDecide {l : List Nat} (h : s.Measures 0 t) : s.Measures 0 (t.startDecide l) := by
  unfold State.startDecide
  refine h.each fun ch _ v => ?_
  dsimp only
  split
  · exact .ite (State.Measures.refl _ v).setChan (.refl _ v)
  · exact .refl _ v

theorem State.Measures.startSlot {sc : StartCal} {code : Nat} (h : s.Measures 0 t) : s.Measures 0 (t.startSlot sc code) := by
  unfold State.startSlot
  exact State.Measures.each (h.same rfl rfl rfl rfl rfl rfl) fun ch _ v => .ite (State.Measures.refl _ v).setChan (.refl _ v)

theorem State.Measures.nextPass {sc : StartCal} (h : s.Measures 0 t) : s.Measures 0 (t.nextPass sc) := by
  unfold State.nextPass
  exact (h.each (l := sc.chans) (f := fun ch s => s.setChan ch { s.chan ch with startTodo := (s.chan ch).startAgain, startAgain := [] })
    fun ch _ v => (State.Measures.refl _ v).setChan).same rfl rfl rfl rfl rfl rfl

theorem State.Measures.startNext {sc : StartCal} (h : s.Measures 0 t) : s.Measures 0 (t.startNext sc) := by
  unfold State.startNext
  split
  · exact h.startSlot
  · exact h

theorem State.Measures.startTick1 (h : s.Measures 0 t) : s.Measures 0 t.startTick1 := by
  unfold State.startTick1
  split
  · exact h
  · split
    · exact .ite h.startNext h
    · refine .ite h.startDecide (.ite h.startJudges (.ite ?_ h))
      refine .ite ?_ h.startNext
      dsimp only
      split
      · exact h.nextPass.startNext
      · exact h.nextPass

/-! ### The channels in one tick (R59 to R75, R130 to R144, R231 to R240) -/

theorem State.Measures.queue {w : List Commit} (h : s.Measures 0 t) : s.Measures 0 { t with pipe := w } := h.same rfl rfl rfl rfl rfl rfl

theorem State.Measures.takeGain {ch : Nat} (h : s.Measures 0 t) : s.Measures 0 (t.takeGain ch) := .ite h h.setChan

theorem State.Measures.takeInj {ch : Nat} (h : s.Measures 0 t) : s.Measures 0 (t.takeInj ch) := .ite h h.setChan.put0

theorem State.Measures.convert {ch : Nat} {bad : Bool} {x : ChanIn} (h : s.Measures 0 t) : s.Measures 0 (t.convert ch bad x).2 := h.setChan

theorem State.Measures.ovlSeen {ch : Nat} {y : Samp} (h : s.Measures 0 t) : s.Measures 0 (t.ovlSeen ch y) := .ite h.raise0 h

theorem State.Measures.foldSample {i ch w : Nat} {k : Stack} {sh : Shot} {y : Samp} (h : s.Measures 0 t) : s.Measures 0 (t.foldSample i ch k sh w y) := by
  unfold State.foldSample
  exact .ite h.queue h.queue.ovlSeen

theorem State.Measures.phaseNote {i ch w : Nat} {k : Stack} {sh : Shot} {y : Samp} (h : s.Measures 0 t) : s.Measures 0 (t.phaseNote i ch k sh w y) := by
  unfold State.phaseNote
  exact .ovlSeen (.ite h.queue h)

theorem State.Measures.useSample {ch : Nat} {y : Samp} (h : s.Measures 0 t) : s.Measures 0 (t.useSample ch y).2 := by
  unfold State.useSample
  split
  · exact h
  · dsimp only
    split
    · exact h
    · split
      · exact h
      · exact h.ovlSeen
      · split
        · exact h.ovlSeen
        · split
          · exact h.phaseNote
          · split
            · exact h.ovlSeen
            · exact h.foldSample

theorem State.Measures.presSample {ch : Nat} {y : Samp} (h : s.Measures 0 t) : s.Measures 0 (t.presSample ch y) := by
  unfold State.presSample
  split
  · exact h
  · dsimp only
    split
    · exact h
    · split
      · exact h
      · exact .ite h.setStrand h

/-- The sample joins the baseline of the launch that is near. -/
def State.monBaseline (v : Rat) (p : Nat) (s : State) : State :=
  let r := s.port p
  match r.next with
  | some n =>
    if n ≤ s.tick + 16 && s.tick < n then
      let fresh := n = s.tick + 16
      s.setPort p { r with monBase := if fresh then v else r.monBase + v, monBaseCount := if fresh then 1 else r.monBaseCount + 1 }
    else s
  | none => s

theorem State.Measures.monBaseline {v : Rat} {p : Nat} (h : s.Measures 0 t) : s.Measures 0 (t.monBaseline v p) := by
  unfold State.monBaseline
  dsimp only
  split
  · exact .ite h.setPort h
  · exact h

theorem State.monSample_eq (s : State) (ch p : Nat) (y : Samp) : s.monSample ch y p =
    if !(s.monOn p && s.rd Reg.PRB_MON_CHAN p = ch) then s
    else
      let v := scaled y.x (s.chan ch).gain
      let u := s.monBaseline v p
      if u.monTick p u.tick then u.setPort p { u.port p with monSum := (u.port p).monSum + v, monCount := (u.port p).monCount + 1 } else u := rfl

theorem State.Measures.monSample {ch p : Nat} {y : Samp} (h : s.Measures 0 t) : s.Measures 0 (t.monSample ch y p) := by
  rw [State.monSample_eq]
  exact .ite h (.ite h.monBaseline.setPort h.monBaseline)

theorem State.Measures.quadSample {i q w : Nat} {k : Stack} {sh : Shot} {a b c d : Samp} (h : s.Measures 0 t) :
    s.Measures 0 (t.quadSample i q k sh w a b c d) := by
  unfold State.quadSample
  exact .ite h.setQuad h.setQuad.queue

theorem State.Measures.phaseTick {ys : SMap (Samp × Bool)} {i : Nat} (h : s.Measures 0 t) : s.Measures 0 (t.phaseTick ys i) := by
  unfold State.phaseTick
  dsimp only
  split
  · refine .ite h ?_
    split
    · exact h.quadSample
    · exact h
  · exact h

theorem State.Measures.monSettle {ch : Nat} {e : Option Nat} {r : Word} (h : s.Measures 0 t) : s.Measures 0 (t.monSettle ch e r) := h.setChan

theorem State.Measures.monTickOf {ch : Nat} {x : ChanIn} (h : s.Measures 0 t) : s.Measures 0 (t.monTickOf ch x) := by
  unfold State.monTickOf
  exact .ite h (.ite h.setChan (.ite h (.ite h.setChan h.setChan.monSettle)))

theorem State.Measures.strayFrame {k : Nat} (h : s.Measures 0 t) : s.Measures 0 (t.strayFrame k) :=
  h.fresh.trans (State.Folds.refl.foldUe.measures.mono (Nat.zero_le _))

/-- What the gap run of a channel makes of a sample. -/
def State.runSample (ch : Nat) (y : Samp) (s : State) : State :=
  let c := s.chan ch
  match c.run with
  | some r => s.setChan ch { c with run := some (r.sample (s.tick - r.start) y.code y.ovl) }
  | none => s

/-- What the presence level and the monitors make of a sample. -/
def State.lightSample (ch : Nat) (y : Samp) (s : State) : State :=
  (s.presSample ch y).each (List.range 16) fun p s => s.monSample ch y p

/-- A sample of an ON channel, and whether a product takes it. -/
def State.sampled (x : ChanIn) (bad : Bool) (ch : Nat) (s : State) : (Samp × Bool) × State :=
  let (y, s) := s.convert ch bad x
  let (used, s) := (s.runSample ch y).useSample ch y
  ((y, used), s.lightSample ch y)

theorem State.Measures.runSample {ch : Nat} {y : Samp} (h : s.Measures 0 t) : s.Measures 0 (t.runSample ch y) := by
  unfold State.runSample
  dsimp only
  split
  · exact h.setChan
  · exact h

theorem State.Measures.lightSample {ch : Nat} {y : Samp} (h : s.Measures 0 t) : s.Measures 0 (t.lightSample ch y) :=
  State.Measures.each h.presSample fun p _ v => (State.Measures.refl _ v).monSample

theorem State.Measures.sampled {ch : Nat} {bad : Bool} {x : ChanIn} (h : s.Measures 0 t) : s.Measures 0 (t.sampled x bad ch).2 := by
  have hc := h.convert (ch := ch) (bad := bad) (x := x)
  unfold State.sampled
  generalize t.convert ch bad x = z at hc ⊢
  obtain ⟨y, u⟩ := z
  have hs := (State.Measures.runSample (ch := ch) (y := y) hc).useSample (ch := ch) (y := y)
  dsimp only at hs ⊢
  generalize (u.runSample ch y).useSample ch y = z at hs ⊢
  exact hs.lightSample

theorem State.chanTick_on {xs : List ChanIn} {ch : ChanId} {ys : SMap (Samp × Bool)} {s : State} (hp : s.pgaOn ch = true)
    (hs : ((s.takeGain ch).takeInj ch).rd Reg.FC_STAT_PSTATE ch = 3) : (State.chanTick xs ch (ys, s)).2 =
      (((((s.takeGain ch).takeInj ch).sampled (inputOf xs ch) (tileBad xs (ch / 16)) ch).2).monTickOf ch (inputOf xs ch)).keepPin ch (inputOf xs ch) := by
  unfold State.chanTick
  dsimp only
  rw [if_neg (by rw [hp]; decide), if_pos hs]
  rfl

theorem State.chanTick_unsampled {xs : List ChanIn} {ch : ChanId} {ys : SMap (Samp × Bool)} {s : State} (hp : s.pgaOn ch = true)
    (hs : ((s.takeGain ch).takeInj ch).rd Reg.FC_STAT_PSTATE ch ≠ 3) : (State.chanTick xs ch (ys, s)).2 =
      (((s.takeGain ch).takeInj ch).monTickOf ch (inputOf xs ch)).keepPin ch (inputOf xs ch) := by
  unfold State.chanTick
  dsimp only
  rw [if_neg (by rw [hp]; decide), if_neg hs]

theorem State.chanTick_off {xs : List ChanIn} {ch : ChanId} {a : SMap (Samp × Bool) × State} (hp : a.2.pgaOn ch = false) :
    State.chanTick xs ch a = a := if_pos (by rw [hp]; rfl)

theorem State.Measures.chanTick {xs : List ChanIn} {ch : ChanId} {a : SMap (Samp × Bool) × State} (h : s.Measures 0 a.2) :
    s.Measures 0 (State.chanTick xs ch a).2 := by
  cases hp : a.2.pgaOn ch
  case false =>
    rw [State.chanTick_off hp]
    exact h
  case true =>
    have hu : s.Measures 0 ((a.2.takeGain ch).takeInj ch) := h.takeGain.takeInj
    by_cases hs : ((a.2.takeGain ch).takeInj ch).rd Reg.FC_STAT_PSTATE ch = 3
    · rw [State.chanTick_on (ys := a.1) hp hs]
      exact State.Measures.setChan hu.sampled.monTickOf
    · rw [State.chanTick_unsampled (ys := a.1) hp hs]
      exact State.Measures.setChan hu.monTickOf

theorem State.Measures.channelsTick {xs : List ChanIn} (h : s.Measures 0 t) : s.Measures 0 (t.channelsTick xs) := by
  have hf (l : List ChanId) : ∀ a : SMap (Samp × Bool) × State, s.Measures 0 a.2 → s.Measures 0 (l.foldl (fun a ch => State.chanTick xs ch a) a).2 := by
    induction l with
    | nil => exact fun _ ha => ha
    | cons ch l ih => exact fun a ha => ih _ ha.chanTick
  have ha := hf (List.finRange 192) ([], t) h
  unfold State.channelsTick
  generalize (List.finRange 192).foldl (fun a ch => State.chanTick xs ch a) ([], t) = a at ha ⊢
  obtain ⟨ys, u⟩ := a
  dsimp only at ha ⊢
  have hp : s.Measures 0 (u.each (List.range 64) fun i s => s.phaseTick ys i) := ha.each fun i _ v => (State.Measures.refl _ v).phaseTick
  exact State.Measures.each (.ite hp.source hp) fun k _ v => .ite (.refl _ v) (State.Measures.refl _ v).strayFrame

end

/-- Of what a tick does, time and the cores see only its end. -/
theorem sampleTick_ticks (xs : List ChanIn) {s : State} (hm : 3 ≤ s.mode) : ∃ t, exec (.sampleTick xs) s = .next t ∧ t.tick = s.tick + 1
    ∧ (t.on Reg.LANYARD_STAT_RUNNING 0 = true → t.lany = s.lany + 256)
    ∧ (t.on Reg.LANYARD_STAT_RUNNING 0 = false → t.lany = s.lany) ∧ t.cores = s.cores := by
  have hc : s.Measures 0 (s.commitsDue s.tick) := ((State.Measures.refl _ s).commitsDue).mono (Nat.zero_le _)
  have hu : s.Measures 0 (((s.commitsDue s.tick).startTick1).channelsTick xs) := hc.startTick1.channelsTick
  rw [exec_sampleTick, execSampleTick, if_neg (by omega)]
  refine ⟨_, rfl, ?_⟩
  generalize ((s.commitsDue s.tick).startTick1).channelsTick xs = u at hu ⊢
  unfold State.endTick
  dsimp only
  have hon : ({ u with tick := u.tick + 1, before := u.regs, raised := [], wrote := [], sub := 0, cause := none, pcWas := [] } : State).on
    Reg.LANYARD_STAT_RUNNING 0 = u.on Reg.LANYARD_STAT_RUNNING 0 := rfl
  rw [hon]
  split
  case isTrue h =>
    exact ⟨congrArg (· + 1) hu.tick, fun _ => congrArg (· + 256) hu.lany, fun hn => absurd (h.symm.trans hn) (by decide), hu.cores⟩
  case isFalse h => exact ⟨congrArg (· + 1) hu.tick, fun hn => absurd hn h, fun _ => hu.lany, hu.cores⟩

/-! ### The converter and the correction (R59, R65) -/

theorem codeOf_near (v : Int) : let q := codeOf v
    q ≤ 32767 ∧ -32768 ≤ q ∧ (-32768 < q → q < 32767 → |q * 1000000000000 - 32768 * v| * 2 ≤ 1000000000000)
      ∧ (q = 32767 → 32767 * 1000000000000 - 500000000000 ≤ 32768 * v)
      ∧ (q = -32768 → 32768 * v ≤ -32768 * 1000000000000 + 500000000000) := by
  dsimp only
  have hn := roundDiv_near (32768 * v) 1000000000000 (by decide)
  unfold codeOf
  rw [sat16_eq]
  generalize roundDiv (32768 * v) 1000000000000 = y at hn ⊢
  push_cast at hn
  obtain ⟨h1, h2⟩ := abs_le.1 (show |y * 1000000000000 - 32768 * v| ≤ 500000000000 by omega)
  refine ⟨by omega, by omega, fun ha hb => ?_, fun hq => by omega, fun hq => by omega⟩
  rw [show max (-32768) (min 32767 y) = y by omega]
  exact hn

theorem roundDiv_neg (v : Int) (n : Nat) (hn : 0 < n) : roundDiv (-v) n = -roundDiv v n := by
  unfold roundDiv
  rw [Int.natAbs_neg]
  dsimp only
  rcases lt_trichotomy v 0 with h | rfl | h
  · rw [if_neg (by omega), if_pos h, neg_neg]
  · rw [if_neg (by omega)]
    have : (2 * (0 : Int).natAbs + n) / (2 * n) = 0 := Nat.div_eq_of_lt (by simp; omega)
    rw [this]
    rfl
  · rw [if_pos (by omega), if_neg (by omega)]

theorem corrected_near (code off gain : Int) : let y := corrected code off gain false
    |y * 2 ^ 28 - (16 * code - off) * (2 ^ 24 + gain)| * 2 ≤ 2 ^ 28 ∧ corrected code off gain true = -y :=
  ⟨roundDiv_near ((16 * code - off) * (2 ^ 24 + gain)) (2 ^ 28) (by decide), roundDiv_neg _ _ (by decide)⟩

/-! ### A channel is READY (R80) -/

theorem channelReady_settles (ch : ChanId) (x : Nat) (s : State) (hs : (s.chan ch).settleAt = some x) (hx : x ≤ s.tick) :
    ∃ t, exec (.channelReady ch) s = .next t ∧ (t.chan ch).settleAt = none
      ∧ t.on Reg.FC_STAT_READY ch = (s.on Reg.FC_STAT_READY ch || decide (s.rd Reg.FC_STAT_PSTATE ch = 3))
      ∧ ∀ a, a ≠ Reg.FC_STAT_READY.addr ch → t.reg a = s.reg a := by
  have hc : ((s.setChan ch { s.chan ch with settleAt := none }).chan ch).settleAt = none := by rw [State.setChan_same]
  have hr : (s.setChan ch { s.chan ch with settleAt := none }).regs = s.regs := rfl
  rw [exec_channelReady, execChannelReady]
  dsimp only
  rw [hs]
  refine ⟨_, rfl, ?_⟩
  dsimp only
  rw [if_neg (by omega)]
  generalize s.setChan ch { s.chan ch with settleAt := none } = u at hc hr ⊢
  rw [show u.rd Reg.FC_STAT_PSTATE ch = s.rd Reg.FC_STAT_PSTATE ch from State.rd_of_regs hr _ _]
  split
  case isTrue h =>
    rw [decide_eq_true h, Bool.or_true]
    exact ⟨hc, u.on_put_same Reg.FC_STAT_READY ch true (by decide),
      fun a ha => (u.reg_put_other _ _ _ ha).trans (State.reg_of_regs hr a)⟩
  case isFalse h =>
    rw [decide_eq_false h, Bool.or_false]
    exact ⟨hc, State.on_of_reg (State.reg_of_regs hr _), fun a _ => State.reg_of_regs hr a⟩

theorem channelReady_waits (ch : ChanId) (s : State) (h : ∀ x, (s.chan ch).settleAt = some x → s.tick < x) :
    exec (.channelReady ch) s = .next s := by
  rw [exec_channelReady, execChannelReady]
  dsimp only
  split
  case h_1 x hx => rw [if_pos (h x hx)]
  case h_2 => rfl

/-- Settles O37. -/
theorem sampleTick : Obligations.SampleTick := by
  unfold Obligations.SampleTick
  refine ⟨fun xs s hm => sampleTick_ticks xs hm, fun xs s hm => ?_, codeOf_near, corrected_near, channelReady_settles, channelReady_waits⟩
  rw [exec_sampleTick, execSampleTick, if_pos hm]

end Sys2Proof.Machine
end
-- ==== Sys2Proof/Proofs/GapRuns.lean ====
section
/-! Gap runs: their start, the quiet check, the commit and the abort (R160 to R170, R176). -/

namespace Sys2Proof.Machine

/-! ### A run starts (R160) -/

theorem State.chanRun_starts (s : State) (ch : Nat) : let t := s.chanRun false ch
    (∃ r, (t.chan ch).run = some r ∧ r.start = s.tick ∧ r.cq = (s.chan ch).gain) ∧ (t.chan ch).gain = (s.chan ch).gain
      ∧ t.tick = s.tick ∧ ∀ e, e ≠ ch → t.chan e = s.chan e := by
  refine ⟨?_, ?_, rfl, fun e he => State.setChan_other _ _ he⟩
  · unfold State.chanRun
    rw [State.setChan_same]
    exact ⟨_, rfl, rfl, rfl⟩
  · unfold State.chanRun
    rw [State.setChan_same]

/-- A run of `ch` that starts now, at the gain the channel had in `s`. -/
def State.runStarts (s : State) (ch : Nat) (t : State) : Prop :=
  (∃ r, (t.chan ch).run = some r ∧ r.start = s.tick ∧ r.cq = (s.chan ch).gain) ∧ (t.chan ch).gain = (s.chan ch).gain ∧ t.tick = s.tick

theorem State.each_chanRun (s : State) {l : List Nat} {ch : Nat} (hm : ch ∈ l) : s.runStarts ch (s.each l fun ch s => s.chanRun false ch) := by
  refine State.each_brings (P := s.runStarts ch) (Q := fun t => (t.chan ch).gain = (s.chan ch).gain ∧ t.tick = s.tick) hm ?_ ?_ ?_ ⟨rfl, rfl⟩
  · intro e _ t ⟨hg, ht⟩
    obtain ⟨-, h2, h3, h4⟩ := t.chanRun_starts e
    by_cases he : ch = e
    · subst he
      exact ⟨h2.trans hg, h3.trans ht⟩
    · exact ⟨(congrArg ChanRt.gain (h4 ch he)).trans hg, h3.trans ht⟩
  · intro e _ t ⟨hr, hg, ht⟩
    obtain ⟨⟨r, h1, h1s, h1q⟩, h2, h3, h4⟩ := t.chanRun_starts e
    by_cases he : ch = e
    · subst he
      exact ⟨⟨r, h1, h1s.trans ht, h1q.trans hg⟩, h2.trans hg, h3.trans ht⟩
    · unfold State.runStarts
      rw [h4 ch he]
      exact ⟨hr, hg, h3.trans ht⟩
  · intro t ⟨hg, ht⟩
    obtain ⟨⟨r, h1, h1s, h1q⟩, h2, h3, -⟩ := t.chanRun_starts ch
    exact ⟨⟨r, h1, h1s.trans ht, h1q.trans hg⟩, h2.trans hg, h3.trans ht⟩

theorem State.gapStart_goes {s : State} {i : Nat} {first : Bool} (he : s.old.on Reg.GAPCAL_CTRL_EN 0 = true) (hm : s.mode ≠ 9)
    (hn : (s.strand i).gapRun = none) : s.gapStart i first =
      let u := s.each (s.hitched i) fun ch s => s.chanRun first ch
      u.setStrand i { u.strand i with gapRun := some u.tick } :=
  if_pos (by rw [he, hn, State.inSafeStop, decide_eq_false hm]; rfl)

theorem repeatRunStart_starts (st : StrandId) (s : State) (sh : Shot) : let rt := s.strand st
    let sp := (if rt.gapRpt = 1 then 2 else rt.gapRpt) * 1000
    rt.shot = some sh → sh.gapSeen = true → 0 < sp → rt.gapIndex < (s.tick - rt.gapFirst) / sp →
    s.tick + 1344 ≤ sh.launch + rt.perP → s.old.on Reg.GAPCAL_CTRL_EN 0 = true → s.mode ≠ 9 → rt.gapRun = none →
    ∃ t, exec (.repeatRunStart st) s = .next t ∧ (t.strand st).gapRun = some s.tick
      ∧ (∀ ch ∈ s.hitched st, ∃ r, (t.chan ch).run = some r ∧ r.start = s.tick ∧ r.cq = (s.chan ch).gain) ∧ t.regs = s.regs := by
  dsimp only
  intro hsh hseen hsp hk hfit hen hmode hnone
  rw [exec_repeatRunStart, execRepeatRunStart]
  refine ⟨_, rfl, ?_⟩
  generalize hk' : (s.tick - (s.strand st).gapFirst) / ((if (s.strand st).gapRpt = 1 then 2 else (s.strand st).gapRpt) * 1000) = k at hk
  have hgo : s.gapRepeat st = (s.setStrand st { s.strand st with gapIndex := k }).gapStart st false := by
    unfold State.gapRepeat
    dsimp only
    rw [hsh]
    dsimp only
    rw [hk']
    refine if_neg ?_
    rw [hseen]
    simp only [Bool.not_true, Bool.false_or, Bool.or_eq_true, decide_eq_true_eq]
    omega
  rw [hgo]
  have hstrand : ((s.setStrand st { s.strand st with gapIndex := k }).strand st).gapRun = none := by
    rw [State.setStrand_same]
    exact hnone
  have hu0 : (s.setStrand st { s.strand st with gapIndex := k }).hitched st = s.hitched st ∧ (s.setStrand st { s.strand st with gapIndex := k }).tick = s.tick
      ∧ (s.setStrand st { s.strand st with gapIndex := k }).chans = s.chans ∧ (s.setStrand st { s.strand st with gapIndex := k }).regs = s.regs := ⟨rfl, rfl, rfl, rfl⟩
  rw [State.gapStart_goes (s := s.setStrand st { s.strand st with gapIndex := k }) hen hmode hstrand]
  have hr := State.onlyRuns_gapStart (s.setStrand st { s.strand st with gapIndex := k }) st false
  rw [State.gapStart_goes (s := s.setStrand st { s.strand st with gapIndex := k }) hen hmode hstrand] at hr
  generalize s.setStrand st { s.strand st with gapIndex := k } = u at hr hu0 ⊢
  obtain ⟨hh, ht, hc, hregs⟩ := hu0
  have hrun (ch : Nat) (hch : ch ∈ u.hitched st) := u.each_chanRun hch
  rw [hh] at hrun
  dsimp only at hr ⊢
  rw [hh] at hr ⊢
  have htick : (u.each (s.hitched st) fun ch s => s.chanRun false ch).tick = u.tick :=
    State.each_keeps (P := fun v => v.tick = u.tick) (fun ch _ v hv => (v.chanRun_starts ch).2.2.1.trans hv) rfl
  generalize (u.each (s.hitched st) fun ch s => s.chanRun false ch) = v at hrun htick hr ⊢
  refine ⟨?_, fun ch hch => ?_, ?_⟩
  · rw [State.setStrand_same]
    exact congrArg some (htick.trans ht)
  · obtain ⟨⟨r, h1, h2, h3⟩, -, -⟩ := hrun ch hch
    exact ⟨r, h1, h2.trans ht, h3.trans (by unfold State.chan; rw [hc])⟩
  · obtain ⟨_, _, hr⟩ := hr
    rw [hr]
    exact hregs

/-! ### The quiet check (R165) -/

/-- The quiet decision of one channel. -/
def State.quietChan (ch : Nat) (s : State) : State :=
  let c := s.chan ch
  match c.run with
  | some r =>
    if r.decided then s
    else s.setChan ch { c with run := some { r with decided := true, notQuiet := r.isNotQuiet (nth c.hOff r.cq 0) } }
  | none => s

theorem quietDecision_eq {st : StrandId} {s : State} {x : Nat} (h : (s.strand st).gapRun = some x) (hx : x + 288 ≤ s.tick) :
    exec (.quietDecision st) s = .next (s.each (s.hitched st) fun ch s => s.quietChan ch) := by
  rw [exec_quietDecision, execQuietDecision, h]
  dsimp only
  rw [if_neg (by omega)]
  rfl

theorem State.quietChan_other (s : State) {ch e : Nat} (h : e ≠ ch) : (s.quietChan ch).chan e = s.chan e := by
  unfold State.quietChan
  dsimp only
  split
  · split
    · rfl
    · exact State.setChan_other _ _ h
  · rfl

theorem State.quietChan_decides (s : State) {ch : Nat} {r : GapRun} (hr : (s.chan ch).run = some r) (hd : r.decided = false) :
    ((s.quietChan ch).chan ch).run = some { r with decided := true, notQuiet := r.isNotQuiet (nth (s.chan ch).hOff r.cq 0) } := by
  unfold State.quietChan
  dsimp only
  rw [hr]
  dsimp only
  rw [if_neg (by rw [hd]; decide), State.setChan_same]

theorem State.quietChan_done (s : State) {ch : Nat} {r : GapRun} (hr : (s.chan ch).run = some r) (hd : r.decided = true) :
    s.quietChan ch = s := by
  unfold State.quietChan
  dsimp only
  rw [hr]
  exact if_pos hd

theorem GapRun.isNotQuiet_iff (r : GapRun) (hq : Int) (hs : r.atStart = false) : r.isNotQuiet hq = true ↔
    16 * 16 * 256 < |16 * r.sumQ - 256 * hq| ∨ 64 * 65536 < 256 * (r.sqQ : Int) - r.sumQ * r.sumQ ∨ r.ovlQ = true := by
  unfold GapRun.isNotQuiet
  rw [hs, Bool.or_eq_true, Bool.or_eq_true, Bool.and_eq_true, decide_eq_true_iff, decide_eq_true_iff, or_assoc, Int.abs_eq_natAbs]
  have : (16 * 16 * 256 : Int) < ((16 * r.sumQ - 256 * hq).natAbs : Int) ↔ 65536 < (16 * r.sumQ - 256 * hq).natAbs := by omega
  rw [this]
  simp

/-- The run `r` of `ch` in `s` is judged quiet or not. -/
def State.quietOf (s : State) (ch : Nat) (r : GapRun) (t : State) : Prop :=
  (t.chan ch).run = some { r with decided := true, notQuiet := r.isNotQuiet (nth (s.chan ch).hOff r.cq 0) }

theorem quietDecision_judges (st : StrandId) (s : State) (x : Nat) (h : (s.strand st).gapRun = some x) (hx : x + 288 ≤ s.tick) :
    ∃ t, exec (.quietDecision st) s = .next t ∧ t.regs = s.regs
      ∧ ∀ ch ∈ s.hitched st, ∀ r, (s.chan ch).run = some r → r.decided = false → r.atStart = false →
          ∃ r', (t.chan ch).run = some r' ∧ r'.decided = true
            ∧ (r'.notQuiet = true ↔ 16 * 16 * 256 < |16 * r.sumQ - 256 * nth (s.chan ch).hOff r.cq 0|
                ∨ 64 * 65536 < 256 * (r.sqQ : Int) - r.sumQ * r.sumQ ∨ r.ovlQ = true) := by
  rw [quietDecision_eq h hx]
  refine ⟨_, rfl, ?_, fun ch hch r hr hd hs => ?_⟩
  · refine State.each_keeps (P := fun t => t.regs = s.regs) (fun ch _ t ht => ?_) rfl
    refine Eq.trans ?_ ht
    unfold State.quietChan
    dsimp only
    split
    · split <;> rfl
    · rfl
  · have other (e : Nat) (he : ch ≠ e) (t : State) : (t.quietChan e).chan ch = t.chan ch := t.quietChan_other he
    have kept (t : State) (ht : s.quietOf ch r t) : s.quietOf ch r (t.quietChan ch) := by
      unfold State.quietOf at ht ⊢
      rw [t.quietChan_done ht rfl]
      exact ht
    have made (t : State) (ht : t.chan ch = s.chan ch ∨ s.quietOf ch r t) : s.quietOf ch r (t.quietChan ch) := by
      refine ht.elim (fun h0 => ?_) (kept t)
      unfold State.quietOf
      rw [t.quietChan_decides (by rw [h0]; exact hr) hd, h0]
    have hq : s.quietOf ch r (s.each (s.hitched st) fun ch s => s.quietChan ch) := by
      refine State.each_brings (P := s.quietOf ch r) (Q := fun t => t.chan ch = s.chan ch ∨ s.quietOf ch r t) hch ?_ ?_ made (.inl rfl)
      · intro e _ t ht
        by_cases he : ch = e
        · rw [← he]
          exact .inr (made t ht)
        · unfold State.quietOf at ht ⊢
          rw [other e he]
          exact ht
      · intro e _ t ht
        by_cases he : ch = e
        · rw [← he]
          exact kept t ht
        · unfold State.quietOf at ht ⊢
          rw [other e he]
          exact ht
    exact ⟨_, hq, rfl, r.isNotQuiet_iff _ hs⟩

/-! ### What a commit leaves alone (R166, R168, R170) -/

/-- The registers in which the commit of a channel's run shows. -/
abbrev tellAddr (ch a : Nat) : Prop := a < 0x5014 ∨ a = 0x18010 ∨ a = 0x18024 ∨ a = 0x18028 ∨ a = 0x18400 + 4 * ch

/-- `t` tells of the run of `ch`: no channel, no strand and no result of the run differs. -/
structure State.Tells (ch : Nat) (s t : State) : Prop where
  chans : t.chans = s.chans
  strands : t.strands = s.strands
  last : t.rd Reg.GAPCAL_CHSTAT_LASTRES ch = s.rd Reg.GAPCAL_CHSTAT_LASTRES ch
  reg : ∀ a, ¬ tellAddr ch a → t.reg a = s.reg a

section
variable {ch : Nat} {s t u : State}

theorem State.Tells.refl (ch : Nat) (s : State) : s.Tells ch s := ⟨rfl, rfl, rfl, fun _ _ => rfl⟩

theorem State.Tells.trans (h : s.Tells ch t) (k : t.Tells ch u) : s.Tells ch u :=
  ⟨k.chans.trans h.chans, k.strands.trans h.strands, k.last.trans h.last, fun a ha => (k.reg a ha).trans (h.reg a ha)⟩

theorem State.Tells.same (h : s.Tells ch t) (hr : u.regs = t.regs) (hc : u.chans = t.chans) (hs : u.strands = t.strands) : s.Tells ch u :=
  h.trans ⟨hc, hs, State.rd_of_regs hr _ _, fun a _ => State.reg_of_regs hr a⟩

/-- A field of a register that tells, but LASTRES. -/
theorem State.Tells.wr {f : Field} {i v : Nat} (h : s.Tells ch t) (hf : f.fits = true) (ha : tellAddr ch (f.addr i))
    (hl : f.addr i < 0x18400 ∨ f.apart Reg.GAPCAL_CHSTAT_LASTRES = true) : s.Tells ch (t.wr f i v) := by
  refine h.trans ⟨rfl, rfl, ?_, fun a hn => t.reg_wr_other f i v fun he => hn (he ▸ ha)⟩
  rcases hl with hlow | hapart
  · exact t.rd_wr_addr f _ i ch v (by simp only [Field.addr, Reg.GAPCAL_CHSTAT_LASTRES] at hlow ⊢; omega)
  · exact t.rd_wr_apart f _ i ch v hf hapart

theorem State.Tells.raise {f : Field} {i : Nat} (h : s.Tells ch t) (hf : f.fits = true) (ha : tellAddr ch (f.addr i))
    (hl : f.addr i < 0x18400 ∨ f.apart Reg.GAPCAL_CHSTAT_LASTRES = true) : s.Tells ch (t.raise f i) :=
  (h.wr (v := 1) hf ha hl).same rfl rfl rfl

theorem State.Tells.raiseBit {f : Field} {i k : Nat} (h : s.Tells ch t) (hf : f.fits = true) (ha : tellAddr ch (f.addr i))
    (hl : f.addr i < 0x18400 ∨ f.apart Reg.GAPCAL_CHSTAT_LASTRES = true) : s.Tells ch (t.raiseBit f i k) := by
  unfold State.raiseBit State.putBit
  exact (h.wr (f := f) (i := i) (v := _) hf ha hl).same rfl rfl rfl

theorem State.Tells.logNow {code island a0 a1 a2 a3 : Nat} (h : s.Tells ch t) : s.Tells ch (t.logNow code island a0 a1 a2 a3) := by
  have hl := t.logged_logBy 0 code island a0 a1 a2 a3
  unfold State.logNow
  generalize t.logBy 0 code island a0 a1 a2 a3 = u at hl ⊢
  have hreg (a : Nat) (ha : 0x5014 ≤ a) : u.reg a = t.reg a := hl.reg (.inr ha)
  obtain ⟨_, _, _, _, _, hu, -⟩ := hl
  refine h.trans ⟨by rw [hu], by rw [hu], State.rd_of_reg (hreg _ (by simp only [Field.addr, Reg.GAPCAL_CHSTAT_LASTRES]; omega)), fun a ha => hreg a (by omega)⟩

theorem State.Tells.source {k : Nat} (h : s.Tells ch t) : s.Tells ch (t.source k) := h.same rfl rfl rfl

theorem State.Tells.ite {c : Prop} [Decidable c] (ht : s.Tells ch t) (hu : s.Tells ch u) : s.Tells ch (if c then t else u) := by
  split
  · exact ht
  · exact hu

theorem State.Tells.sourceMasked {k : Nat} (h : s.Tells ch t) : s.Tells ch (t.sourceMasked ch k) := by
  unfold State.sourceMasked
  split
  · exact .ite h.source h
  · exact h

theorem tellAddr_stat {f : Field} (hb : f.base = 0x18400) (hs : f.stride = 4) : tellAddr ch (f.addr ch) := by
  refine .inr (.inr (.inr (.inr ?_)))
  unfold Field.addr
  rw [hb, hs]

/-- A field of CHSTAT but LASTRES. -/
theorem State.Tells.stat {f : Field} {v : Nat} (h : s.Tells ch t) (hf : f.fits = true) (hb : f.base = 0x18400) (hs : f.stride = 4)
    (hl : f.apart Reg.GAPCAL_CHSTAT_LASTRES = true) : s.Tells ch (t.wr f ch v) :=
  h.wr hf (tellAddr_stat hb hs) (.inr hl)

theorem State.Tells.calRejected {res code : Nat} (h : s.Tells ch t) : s.Tells ch (t.calRejected ch res code) := by
  rw [State.calRejected_eq]
  exact .sourceMasked (.logNow ((h.raise (by decide) (tellAddr_stat rfl rfl) (.inr (by decide))).raise (by decide) (.inr (.inl rfl)) (.inl (by decide))))

theorem State.Tells.codeRejected {code : Nat} (h : s.Tells ch t) : s.Tells ch (t.codeRejected ch code) := by
  rw [State.codeRejected_eq]
  refine .ite h (.sourceMasked (.logNow ?_))
  exact ((h.raise (by decide) (.inl (by decide)) (.inl (by decide))).wr (by decide) (.inl (by decide)) (.inl (by decide))).wr (by decide)
    (.inl (by decide)) (.inl (by decide))

theorem State.Tells.countRejected {n : Nat} {r : GapRun} {v : Verdict} (h : s.Tells ch t) : s.Tells ch (t.countRejected ch n r v) := by
  have hw (m : Nat) : s.Tells ch ((t.wr Reg.GAPCAL_CHSTAT_REJ_RUN ch m).wr Reg.GAPCAL_CHSTAT_NQ_RUN ch 0) :=
    (h.stat (by decide) rfl rfl (by decide)).stat (by decide) rfl rfl (by decide)
  have hc {c : Prop} [Decidable c] {u : State} (hu : s.Tells ch u) : s.Tells ch (if c then u.calRejected ch v.code r.ct else u) := .ite hu.calRejected hu
  unfold State.countRejected
  exact .ite (hc (hw _)).codeRejected (hc (hw _))

/-- GAPCAL_GNQ and GAPCAL_STAT show a strand that is not quiet. -/
theorem State.Tells.gapNotQuiet {i : Nat} (h : s.Tells ch t) : s.Tells ch (t.gapNotQuiet i ch) := by
  have hr : s.Tells ch (t.raise Reg.GAPCAL_STAT_GAP_NOT_QUIET 0) := h.raise (by decide) (.inr (.inl rfl)) (.inl (by decide))
  unfold State.gapNotQuiet
  generalize t.raise Reg.GAPCAL_STAT_GAP_NOT_QUIET 0 = u at hr ⊢
  have hb : s.Tells ch (if i < 32 then u.raiseBit Reg.GAPCAL_GNQ_LO_S 0 i else u.raiseBit Reg.GAPCAL_GNQ_HI_S 0 (i - 32)) :=
    .ite (hr.raiseBit (by decide) (.inr (.inr (.inl rfl))) (.inl (by decide))) (hr.raiseBit (by decide) (.inr (.inr (.inr (.inl rfl)))) (.inl (by decide)))
  exact .ite hb.logNow.source hb.logNow

end

/-! ### The commit of one channel (R165 to R170) -/

/-- What the commit of the run of `ch` leaves: the other channels, the strands, what is injected. -/
structure State.Commits (ch : Nat) (s t : State) : Prop where
  others : ∀ e, e ≠ ch → t.chan e = s.chan e
  inj : (t.chan ch).inj = (s.chan ch).inj
  strands : t.strands = s.strands
  reg : ∀ a, ¬ tellAddr ch a → t.reg a = s.reg a

section
variable {ch : Nat} {s t u : State}

theorem State.Commits.refl (ch : Nat) (s : State) : s.Commits ch s := ⟨fun _ _ => rfl, rfl, rfl, fun _ _ => rfl⟩

theorem State.Commits.tells (h : s.Commits ch t) (k : t.Tells ch u) : s.Commits ch u := by
  have hc (e : Nat) : u.chan e = t.chan e := by unfold State.chan; rw [k.chans]
  exact ⟨fun e he => (hc e).trans (h.others e he), by rw [hc, h.inj], k.strands.trans h.strands, fun a ha => (k.reg a ha).trans (h.reg a ha)⟩

theorem State.Commits.setChan {x : ChanRt} (h : s.Commits ch t) (hx : x.inj = (t.chan ch).inj) : s.Commits ch (t.setChan ch x) :=
  ⟨fun e he => (State.setChan_other _ _ he).trans (h.others e he), by rw [State.setChan_same]; exact hx.trans h.inj, h.strands, h.reg⟩

theorem State.Commits.stat {f : Field} {v : Nat} (h : s.Commits ch t) (hb : f.base = 0x18400) (hs : f.stride = 4) : s.Commits ch (t.wr f ch v) :=
  ⟨h.others, h.inj, h.strands, fun a ha => (t.reg_wr_other f ch v fun he => ha (by rw [he]; exact tellAddr_stat hb hs)).trans (h.reg a ha)⟩

/-- What a commit shows of its channel, once its result is written. -/
structure State.Shows (ch code : Nat) (c : ChanRt) (t : State) : Prop where
  chan : t.chan ch = c
  last : t.rd Reg.GAPCAL_CHSTAT_LASTRES ch = code % 16

theorem State.Shows.tells {code : Nat} {c : ChanRt} (h : t.Shows ch code c) (k : t.Tells ch u) : u.Shows ch code c :=
  ⟨by unfold State.chan; rw [k.chans]; exact h.chan, k.last.trans h.last⟩

theorem State.chan_wr (s : State) (f : Field) (i v e : Nat) : (s.wr f i v).chan e = s.chan e := rfl

/-- The run's code is shown beside its result. -/
theorem State.shows_result (c : ChanRt) (code tc : Nat) (s : State) :
    (((s.setChan ch c).wr Reg.GAPCAL_CHSTAT_LASTRES ch code).wr Reg.GAPCAL_CHSTAT_TCODE ch tc).Shows ch code c := by
  have hl := (s.setChan ch c).rd_wr_same Reg.GAPCAL_CHSTAT_LASTRES ch code (by decide)
  have hc : (s.setChan ch c).chan ch = c := State.setChan_same ..
  have hw := (s.setChan ch c).chan_wr Reg.GAPCAL_CHSTAT_LASTRES ch code ch
  generalize s.setChan ch c = v at hl hc hw ⊢
  generalize v.wr Reg.GAPCAL_CHSTAT_LASTRES ch code = u at hl hw ⊢
  exact ⟨(u.chan_wr ..).trans (hw.trans hc), (u.rd_wr_apart Reg.GAPCAL_CHSTAT_TCODE Reg.GAPCAL_CHSTAT_LASTRES ch ch tc (by decide) (by decide)).trans hl⟩

theorem State.Commits.result {c : ChanRt} {code tc : Nat} (h : s.Commits ch t) (hx : c.inj = (t.chan ch).inj) :
    s.Commits ch (((t.setChan ch c).wr Reg.GAPCAL_CHSTAT_LASTRES ch code).wr Reg.GAPCAL_CHSTAT_TCODE ch tc) :=
  ((h.setChan hx).stat rfl rfl).stat rfl rfl

/-- An accepted run (R168). -/
theorem State.runAccepted_commits (s : State) (ch : Nat) (r : GapRun) (v : Verdict) : let t := s.runAccepted ch r v
    s.Commits ch t ∧ ∃ c : ChanRt, t.Shows ch 1 c ∧ c.run = none ∧ c.hOff = (s.chan ch).hOff.set r.ct v.off
      ∧ c.hGain = (s.chan ch).hGain.set r.ct v.gain := by
  dsimp only
  unfold State.runAccepted
  dsimp only
  generalize hc : (if r.atStart = true then _ else _ : ChanRt) = c
  have hinj : c.inj = (s.chan ch).inj := by rw [← hc]; split <;> rfl
  have hrun : c.run = none := by rw [← hc]; split <;> rfl
  have hoff : c.hOff = (s.chan ch).hOff.set r.ct v.off := by rw [← hc]; split <;> rfl
  have hgain : c.hGain = (s.chan ch).hGain.set r.ct v.gain := by rw [← hc]; split <;> rfl
  clear hc
  have hs := State.shows_result (ch := ch) c 1 r.ct s
  have hk := (State.Commits.refl ch s).result (code := 1) (tc := r.ct) hinj
  generalize ((s.setChan ch c).wr Reg.GAPCAL_CHSTAT_LASTRES ch 1).wr Reg.GAPCAL_CHSTAT_TCODE ch r.ct = u at hs hk ⊢
  have ht : u.Tells ch (if r.atStart = true then u else (u.wr Reg.GAPCAL_CHSTAT_REJ_RUN ch 0).wr Reg.GAPCAL_CHSTAT_NQ_RUN ch 0) :=
    .ite (.refl ch u) (((State.Tells.refl ch u).stat (by decide) rfl rfl (by decide)).stat (by decide) rfl rfl (by decide))
  exact ⟨hk.tells ht, c, hs.tells ht, hrun, hoff, hgain⟩

/-- A rejected run (R168, R170). -/
theorem State.runRejected_commits (s : State) (ch : Nat) (r : GapRun) (v : Verdict) : let t := s.runRejected ch r v
    s.Commits ch t ∧ ∃ c : ChanRt, t.Shows ch v.code c ∧ c.run = none ∧ c.hOff = (s.chan ch).hOff ∧ c.hGain = (s.chan ch).hGain := by
  dsimp only
  rw [State.runRejected_eq]
  have hshow : s.Commits ch (s.showRejected ch r v) ∧ ∃ c : ChanRt, (s.showRejected ch r v).Shows ch v.code c ∧ c.run = none
      ∧ c.hOff = (s.chan ch).hOff ∧ c.hGain = (s.chan ch).hGain := by
    unfold State.showRejected
    dsimp only
    generalize hc : ({ s.chan ch with rej := _, run := _, rejCode := _ } : ChanRt) = c
    have hk := (State.Commits.refl ch s).result (c := c) (code := v.code) (tc := r.ct) (by rw [← hc])
    have hs := State.shows_result (ch := ch) c v.code r.ct s
    generalize ((s.setChan ch c).wr Reg.GAPCAL_CHSTAT_LASTRES ch v.code).wr Reg.GAPCAL_CHSTAT_TCODE ch r.ct = u at hs hk ⊢
    have ht : u.Tells ch (if v.code = 8 then u.raise Reg.GAPCAL_CHSTAT_LIN_FAIL ch else u) :=
      .ite ((State.Tells.refl ch u).raise (by decide) (tellAddr_stat rfl rfl) (.inr (by decide))) (.refl ch u)
    exact ⟨hk.tells ht, c, hs.tells ht, by rw [← hc], by rw [← hc], by rw [← hc]⟩
  obtain ⟨hk, c, hs, hc⟩ := hshow
  generalize s.showRejected ch r v = u at hk hs ⊢
  have ht : u.Tells ch (if r.atStart = true then u else u.countRejected ch (min 3 (nth (s.chan ch).rejCode r.ct 0 + 1)) r v) :=
    .ite (.refl ch u) (State.Tells.refl ch u).countRejected
  exact ⟨hk.tells ht, c, hs.tells ht, hc⟩

theorem State.runNotQuiet_commits (s : State) (i ch : Nat) (r : GapRun) : let t := s.runNotQuiet i ch r
    s.Commits ch t ∧ (t.chan ch).run = none := by
  dsimp only
  unfold State.runNotQuiet
  dsimp only
  have hw : s.Commits ch (((s.wr Reg.GAPCAL_CHSTAT_LASTRES ch 2).wr Reg.GAPCAL_CHSTAT_TCODE ch r.ct).wr
      Reg.GAPCAL_CHSTAT_NQ_RUN ch (min 3 (s.rd Reg.GAPCAL_CHSTAT_NQ_RUN ch + 1))) :=
    (((State.Commits.refl ch s).stat rfl rfl).stat rfl rfl).stat rfl rfl
  generalize ((s.wr Reg.GAPCAL_CHSTAT_LASTRES ch 2).wr Reg.GAPCAL_CHSTAT_TCODE ch r.ct).wr
      Reg.GAPCAL_CHSTAT_NQ_RUN ch (min 3 (s.rd Reg.GAPCAL_CHSTAT_NQ_RUN ch + 1)) = u at hw ⊢
  have hk : s.Commits ch (u.setChan ch { u.chan ch with run := none, nq := hold32 ((u.chan ch).nq + 1) }) := hw.setChan rfl
  have hr : ((u.setChan ch { u.chan ch with run := none, nq := hold32 ((u.chan ch).nq + 1) }).chan ch).run = none := by rw [State.setChan_same]
  generalize u.setChan ch { u.chan ch with run := none, nq := hold32 ((u.chan ch).nq + 1) } = v at hk hr ⊢
  have ht {c : Prop} [Decidable c] : v.Tells ch (if c then v.gapNotQuiet i ch else v) := .ite (State.Tells.refl ch v).gapNotQuiet (.refl ch v)
  refine ⟨hk.tells ht, ?_⟩
  unfold State.chan at hr ⊢
  rw [ht.chans]
  exact hr

theorem State.setBows_commits (s : State) (ch : Nat) (r : GapRun) (v : Verdict) : let t := s.setBows ch r v
    s.Commits ch t ∧ (t.chan ch).hOff = (s.chan ch).hOff ∧ (t.chan ch).hGain = (s.chan ch).hGain := by
  dsimp only
  unfold State.setBows
  split
  · exact ⟨(State.Commits.refl ch s).setChan rfl, by rw [State.setChan_same], by rw [State.setChan_same]⟩
  · exact ⟨.refl ch s, rfl, rfl⟩

theorem State.Commits.trans (h : s.Commits ch t) (k : t.Commits ch u) : s.Commits ch u :=
  ⟨fun e he => (k.others e he).trans (h.others e he), k.inj.trans h.inj, k.strands.trans h.strands, fun a ha => (k.reg a ha).trans (h.reg a ha)⟩

/-- The skew of a run takes at most a free value. -/
theorem State.skewOf_free (s : State) (i ch : Nat) (r : GapRun) (ix : Option GapRun) (ok : Bool) :
    (s.skewOf i ch r ix ok).2 = s ∨ (s.skewOf i ch r ix ok).2 = s.fresh.2 := by
  unfold State.skewOf
  dsimp only
  split
  · exact .inl rfl
  · split
    · exact .inl rfl
    · exact .inr rfl

theorem State.skewOf_plain {s : State} {i : Nat} (h : s.isPhase i = false) (ch : Nat) (r : GapRun) (ix : Option GapRun) (ok : Bool) :
    s.skewOf i ch r ix ok = (none, s) := if_pos (by rw [h]; rfl)

/-- A verdict that is in: the result is committed. -/
def State.commitVerdict (ch : Nat) (r : GapRun) (v : Verdict) (s : State) : Bool × State :=
  let s := s.setBows ch r v
  if v.code = 1 then (true, s.runAccepted ch r v) else (false, s.runRejected ch r v)

theorem State.commitVerdict_commits (s : State) (ch : Nat) (r : GapRun) (v : Verdict) : let t := (s.commitVerdict ch r v).2
    s.Commits ch t ∧ (t.chan ch).run = none ∧ t.rd Reg.GAPCAL_CHSTAT_LASTRES ch = v.code % 16
      ∧ (v.code = 1 → (t.chan ch).hOff = (s.chan ch).hOff.set r.ct v.off ∧ (t.chan ch).hGain = (s.chan ch).hGain.set r.ct v.gain)
      ∧ (v.code ≠ 1 → (t.chan ch).hOff = (s.chan ch).hOff ∧ (t.chan ch).hGain = (s.chan ch).hGain) := by
  obtain ⟨hb, ho, hg⟩ := s.setBows_commits ch r v
  dsimp only
  unfold State.commitVerdict
  generalize s.setBows ch r v = u at hb ho hg ⊢
  dsimp only
  split
  case isTrue h1 =>
    obtain ⟨hk, c, hs, hr, hco, hcg⟩ := u.runAccepted_commits ch r v
    dsimp only
    rw [hs.chan]
    exact ⟨hb.trans hk, hr, by rw [hs.last, h1], fun _ => ⟨by rw [hco, ho], by rw [hcg, hg]⟩, fun h => absurd h1 h⟩
  case isFalse h1 =>
    obtain ⟨hk, c, hs, hr, hco, hcg⟩ := u.runRejected_commits ch r v
    dsimp only
    rw [hs.chan]
    exact ⟨hb.trans hk, hr, hs.last, fun h => absurd h h1, fun _ => ⟨by rw [hco, ho], by rw [hcg, hg]⟩⟩

theorem State.commitRun_judged {s : State} {i ch : Nat} {r : GapRun} (hr : (s.chan ch).run = some r) (hq : r.notQuiet = false)
    (ix : Option GapRun) (ok : Bool) : s.commitRun i ch ix ok =
      (s.verdict i ch r ix ok).2.commitVerdict ch r (s.verdict i ch r ix ok).1 := by
  unfold State.commitRun
  rw [hr]
  dsimp only
  rw [if_neg (by rw [hq]; decide)]
  rfl

theorem State.commitRun_commits (s : State) (i ch : Nat) (ix : Option GapRun) (ok : Bool) : let t := (s.commitRun i ch ix ok).2
    s.Commits ch t ∧ (t.chan ch).run = none := by
  dsimp only
  cases hr : (s.chan ch).run
  case none =>
    have he : s.commitRun i ch ix ok = (false, s) := by
      unfold State.commitRun
      rw [hr]
    rw [he]
    exact ⟨.refl ch s, hr⟩
  case some r =>
    cases hq : r.notQuiet
    case true =>
      have he : s.commitRun i ch ix ok = (false, s.runNotQuiet i ch r) := by
        unfold State.commitRun
        rw [hr]
        exact if_pos hq
      rw [he]
      exact s.runNotQuiet_commits i ch r
    case false =>
      rw [State.commitRun_judged hr hq]
      have hfree : s.Commits ch (s.verdict i ch r ix ok).2 := by
        have h : (s.verdict i ch r ix ok).2 = (s.skewOf i ch r ix ok).2 := rfl
        rw [h]
        rcases s.skewOf_free i ch r ix ok with h | h <;> rw [h]
        · exact .refl ch s
        · exact (State.Commits.refl ch s).tells ((State.Tells.refl ch s).same rfl rfl rfl)
      generalize s.verdict i ch r ix ok = x at hfree ⊢
      obtain ⟨hk, hn, -⟩ := x.2.commitVerdict_commits ch r x.1
      exact ⟨hfree.trans hk, hn⟩

/-- The result of a run that was quiet, of a channel whose strand is no phase strand. -/
def State.judgedAs (s : State) (ch : Nat) (r : GapRun) (t : State) : Prop :=
  let v := r.judge (nth (s.chan ch).hGain r.ct 0) (s.rd Reg.GAPCAL_LINLIM_LIM 0) none
  t.rd Reg.GAPCAL_CHSTAT_LASTRES ch = v.code % 16
    ∧ (v.code = 1 → (t.chan ch).hOff = (s.chan ch).hOff.set r.ct v.off ∧ (t.chan ch).hGain = (s.chan ch).hGain.set r.ct v.gain)
    ∧ (v.code ≠ 1 → (t.chan ch).hOff = (s.chan ch).hOff ∧ (t.chan ch).hGain = (s.chan ch).hGain)

theorem State.commitRun_result {s : State} {i ch : Nat} {r : GapRun} (hr : (s.chan ch).run = some r) (hq : r.notQuiet = false)
    (hp : s.isPhase i = false) (ix : Option GapRun) (ok : Bool) : s.judgedAs ch r (s.commitRun i ch ix ok).2 := by
  have hv : s.verdict i ch r ix ok = (r.judge (nth (s.chan ch).hGain r.ct 0) (s.rd Reg.GAPCAL_LINLIM_LIM 0) none, s) := by
    unfold State.verdict
    rw [State.skewOf_plain hp]
  rw [State.commitRun_judged hr hq, hv]
  exact (s.commitVerdict_commits ch r _).2.2

end

/-! ### The commit of a strand's run (R161) -/

/-- What the commits of the channels of `l` leave. -/
structure State.CommitsAll (l : List Nat) (s t : State) : Prop where
  others : ∀ e, e ∉ l → t.chan e = s.chan e
  last : ∀ e, e ∉ l → e < 192 → t.rd Reg.GAPCAL_CHSTAT_LASTRES e = s.rd Reg.GAPCAL_CHSTAT_LASTRES e
  inj : ∀ e, (t.chan e).inj = (s.chan e).inj
  strands : t.strands = s.strands

/-- The commit of one channel, and of those after it. -/
theorem State.Commits.all {ch : Nat} {l : List Nat} {s t u : State} (h : s.Commits ch t) (k : t.CommitsAll l u) :
    s.CommitsAll (ch :: l) u := by
  refine ⟨fun e he => ?_, fun e he h192 => ?_, fun e => ?_, k.strands.trans h.strands⟩
  · rw [List.mem_cons, not_or] at he
    exact (k.others e he.2).trans (h.others e he.1)
  · rw [List.mem_cons, not_or] at he
    refine (k.last e he.2 h192).trans (State.rd_of_reg (h.reg _ ?_))
    simp only [tellAddr, Field.addr, Reg.GAPCAL_CHSTAT_LASTRES]
    omega
  · rw [k.inj]
    by_cases he : e = ch
    · rw [he, h.inj]
    · rw [h.others e he]

theorem State.Commits.rd {ch : Nat} {s t : State} (h : s.Commits ch t) (f : Field) (i : Nat) (ha : 0x5014 ≤ f.addr i) (hb : f.addr i < 0x18010) :
    t.rd f i = s.rd f i := State.rd_of_reg (h.reg _ (by simp only [tellAddr]; omega))

theorem State.Commits.isPhase {ch : Nat} {s t : State} (h : s.Commits ch t) {i : Nat} (hi : i < 64) : t.isPhase i = s.isPhase i := by
  unfold State.isPhase
  rw [h.rd Reg.STRAND_CTRL_MODE i (by simp only [Field.addr, Reg.STRAND_CTRL_MODE]; omega) (by simp only [Field.addr, Reg.STRAND_CTRL_MODE]; omega)]

theorem State.commitRuns_commits {i : Nat} (hi : i < 64) (l : List Nat) (hl : ∀ e ∈ l, e < 192) (hnd : l.Nodup) (s : State)
    (ix : Option GapRun) (ok : Bool) : let t := s.commitRuns i l ix ok
    s.CommitsAll l t ∧ ∀ ch ∈ l, (t.chan ch).run = none
      ∧ ∀ r, (s.chan ch).run = some r → r.notQuiet = false → s.isPhase i = false → s.judgedAs ch r t := by
  induction l generalizing s ix ok with
  | nil => exact ⟨⟨fun _ _ => rfl, fun _ _ _ => rfl, fun _ => rfl, rfl⟩, fun _ h => absurd h List.not_mem_nil⟩
  | cons ch l ih =>
    obtain ⟨hnot, hnd⟩ := List.nodup_cons.1 hnd
    have h192 := hl ch List.mem_cons_self
    have hstep : ∃ ix' ok', s.commitRuns i (ch :: l) ix ok = (s.commitRun i ch ix ok).2.commitRuns i l ix' ok' := by
      have he : s.commitRuns i (ch :: l) ix ok = if (s.commitRun i ch ix ok).2.rd Reg.FC_HITCH_ROLE ch = 8
          then (s.commitRun i ch ix ok).2.commitRuns i l (s.chan ch).run (s.commitRun i ch ix ok).1
          else (s.commitRun i ch ix ok).2.commitRuns i l ix ok := rfl
      rw [he]
      split
      · exact ⟨_, _, rfl⟩
      · exact ⟨_, _, rfl⟩
    obtain ⟨ix', ok', he⟩ := hstep
    obtain ⟨hk, hn⟩ := s.commitRun_commits i ch ix ok
    have hres := fun r hr hq hp => State.commitRun_result (s := s) (i := i) (ch := ch) (r := r) hr hq hp ix ok
    dsimp only
    rw [he]
    generalize (s.commitRun i ch ix ok).2 = u at hk hn hres ⊢
    obtain ⟨ha, hi'⟩ := ih (fun e he => hl e (List.mem_cons_of_mem _ he)) hnd u ix' ok'
    generalize u.commitRuns i l ix' ok' = t at ha hi' ⊢
    refine ⟨hk.all ha, fun e hmem => ?_⟩
    rcases List.mem_cons.1 hmem with rfl | hmem
    · refine ⟨by rw [ha.others e hnot]; exact hn, fun r hr hq hp => ?_⟩
      have hr := hres r hr hq hp
      unfold State.judgedAs at hr ⊢
      rw [ha.last e hnot h192, ha.others e hnot]
      exact hr
    · obtain ⟨h1, h2⟩ := hi' e hmem
      have hne : e ≠ ch := fun he => hnot (he ▸ hmem)
      refine ⟨h1, fun r hr hq hp => ?_⟩
      have := h2 r (by rw [hk.others e hne]; exact hr) hq (by rw [hk.isPhase hi]; exact hp)
      unfold State.judgedAs at this ⊢
      rw [hk.others e hne, hk.rd Reg.GAPCAL_LINLIM_LIM 0 (by decide) (by decide)] at this
      exact this

/-- The injection of a channel is dropped: of the channels only what is injected changes, of the registers CHSTAT. -/
theorem State.dropInj_drops (s : State) (ch : Nat) : let t := s.dropInj ch
    (t.chan ch).inj = 0 ∧ (∀ e, (t.chan e).run = (s.chan e).run ∧ (t.chan e).hOff = (s.chan e).hOff ∧ (t.chan e).hGain = (s.chan e).hGain
      ∧ (t.chan e).acc = (s.chan e).acc ∧ (t.chan e).rej = (s.chan e).rej ∧ ((s.chan e).inj = 0 → (t.chan e).inj = 0))
      ∧ t.strands = s.strands ∧ t.tick = s.tick ∧ ∀ a, a < 0x18400 → t.reg a = s.reg a := by
  dsimp only
  by_cases h0 : (s.chan ch).inj = 0
  · rw [show s.dropInj ch = s from if_pos h0]
    exact ⟨h0, fun e => ⟨rfl, rfl, rfl, rfl, rfl, id⟩, rfl, rfl, fun _ _ => rfl⟩
  · rw [show s.dropInj ch = (s.setChan ch { s.chan ch with inj := 0, injOff := some s.tick }).put Reg.GAPCAL_CHSTAT_INJ ch false from if_neg h0]
    have hreg (a : Nat) (ha : a < 0x18400) := (s.setChan ch { s.chan ch with inj := 0, injOff := some s.tick }).reg_put_other
      Reg.GAPCAL_CHSTAT_INJ ch false (a := a) (by simp only [Field.addr, Reg.GAPCAL_CHSTAT_INJ]; omega)
    have hc (e : Nat) : ((s.setChan ch { s.chan ch with inj := 0, injOff := some s.tick }).put Reg.GAPCAL_CHSTAT_INJ ch false).chan e
      = (s.setChan ch { s.chan ch with inj := 0, injOff := some s.tick }).chan e := State.chan_wr ..
    refine ⟨by rw [hc, State.setChan_same], fun e => ?_, rfl, rfl, hreg⟩
    rw [hc]
    by_cases he : e = ch
    · rw [he, State.setChan_same]
      exact ⟨rfl, rfl, rfl, rfl, rfl, fun _ => rfl⟩
    · rw [State.setChan_other _ _ he]
      exact ⟨rfl, rfl, rfl, rfl, rfl, id⟩

/-- What dropped injections leave. -/
structure State.Drops (s t : State) : Prop where
  chans : ∀ e, (t.chan e).run = (s.chan e).run ∧ (t.chan e).hOff = (s.chan e).hOff ∧ (t.chan e).hGain = (s.chan e).hGain
  strands : t.strands = s.strands
  reg : ∀ a, a < 0x18400 → t.reg a = s.reg a

theorem State.each_dropInj (s : State) (l : List Nat) : let t := s.each l fun ch s => s.dropInj ch
    s.Drops t ∧ ∀ ch ∈ l, (t.chan ch).inj = 0 := by
  refine ⟨?_, fun ch hch => ?_⟩
  · refine State.each_keeps (P := s.Drops) (fun ch _ t ht => ?_) ⟨fun _ => ⟨rfl, rfl, rfl⟩, rfl, fun _ _ => rfl⟩
    obtain ⟨-, hc, hs, -, hr⟩ := t.dropInj_drops ch
    refine ⟨fun e => ?_, hs.trans ht.strands, fun a ha => (hr a ha).trans (ht.reg a ha)⟩
    obtain ⟨h1, h2, h3, -⟩ := hc e
    obtain ⟨g1, g2, g3⟩ := ht.chans e
    exact ⟨h1.trans g1, h2.trans g2, h3.trans g3⟩
  · refine State.each_brings (P := fun t => (t.chan ch).inj = 0) (Q := fun _ => True) hch (fun _ _ _ _ => trivial) (fun e _ t ht => ?_)
      (fun t _ => (t.dropInj_drops ch).1) trivial
    exact ((t.dropInj_drops e).2.1 ch).2.2.2.2.2 ht

theorem State.hitched_bound (s : State) (i : Nat) : (∀ e ∈ s.hitched i, e < 192) ∧ (s.hitched i).Nodup :=
  ⟨fun _ he => List.mem_range.1 (List.mem_filter.1 he).1, List.nodup_range.filter _⟩

theorem gapRunCommit_commits (st : StrandId) (s : State) (x : Nat) (hx : (s.strand st).gapRun = some x) (ht : s.gapCommitAt st x ≤ s.tick) :
    ∃ t, exec (.gapRunCommit st) s = .next t ∧ (t.strand st).gapRun = none
      ∧ (∀ ch ∈ s.hitched st, (t.chan ch).run = none ∧ (t.chan ch).inj = 0)
      ∧ ∀ ch ∈ s.hitched st, ∀ r, (s.chan ch).run = some r → r.notQuiet = false → r.atStart = false → s.isPhase st = false → s.judgedAs ch r t := by
  have hex : exec (.gapRunCommit st) s = .next (let v := (s.each (s.hitched st) fun ch s => s.dropInj ch).commitRuns st (s.hitched st) none false
      v.setStrand st { v.strand st with gapRun := none }) := by
    have hh : (s.each (s.hitched st) fun ch s => s.dropInj ch).hitched st = s.hitched st := by
      obtain ⟨-, -, hr⟩ := (s.each_dropInj (s.hitched st)).1
      generalize (s.each (s.hitched st) fun ch s => s.dropInj ch) = u at hr ⊢
      unfold State.hitched
      refine List.filter_congr fun ch hch => ?_
      have h192 := List.mem_range.1 hch
      have ha : u.reg (Reg.FC_HITCH_EN.addr ch) = s.reg (Reg.FC_HITCH_EN.addr ch) := hr _ (by simp only [Field.addr, Reg.FC_HITCH_EN]; omega)
      rw [State.on_of_reg ha, State.rd_of_reg (f := Reg.FC_HITCH_STRAND) ha]
    rw [exec_gapRunCommit, execGapRunCommit, State.gapCommit, hx]
    dsimp only
    rw [if_neg (by omega), hh]
  rw [hex]
  refine ⟨_, rfl, ?_⟩
  obtain ⟨hd, hinj⟩ := s.each_dropInj (s.hitched st)
  dsimp only at hd hinj ⊢
  generalize (s.each (s.hitched st) fun ch s => s.dropInj ch) = u at hd hinj ⊢
  obtain ⟨h192, hnd⟩ := s.hitched_bound st
  obtain ⟨ha, hc⟩ := State.commitRuns_commits st.isLt (s.hitched st) h192 hnd u none false
  generalize u.commitRuns st (s.hitched st) none false = v at ha hc ⊢
  refine ⟨by rw [State.setStrand_same], fun ch hch => ⟨(hc ch hch).1, (ha.inj ch).trans (hinj ch hch)⟩, fun ch hch r hr hq _ hp => ?_⟩
  obtain ⟨h1, h2, h3⟩ := hd.chans ch
  have hp' : u.isPhase st = false := by
    unfold State.isPhase at hp ⊢
    rw [State.rd_of_reg (hd.reg _ (by have := st.isLt; simp only [Field.addr, Reg.STRAND_CTRL_MODE]; omega))]
    exact hp
  have hj := (hc ch hch).2 r (h1.trans hr) hq hp'
  unfold State.judgedAs at hj ⊢
  rw [h2, h3, State.rd_of_reg (f := Reg.GAPCAL_LINLIM_LIM) (i := 0) (hd.reg _ (by decide))] at hj
  exact hj

theorem gapRunCommit_waits (st : StrandId) (s : State) (h : ∀ x, (s.strand st).gapRun = some x → s.tick < s.gapCommitAt st x) :
    exec (.gapRunCommit st) s = .next s := by
  rw [exec_gapRunCommit, execGapRunCommit, State.gapCommit]
  split
  case h_1 => rfl
  case h_2 x hx => rw [if_pos (h x hx)]

/-! ### The abort (R176) -/

/-- The run of a channel is discarded. -/
def State.discardRun (ch : Nat) (s : State) : State :=
  match (s.chan ch).run with
  | some r =>
    let s := (s.setChan ch { s.chan ch with run := none }).dropInj ch
    (s.wr Reg.GAPCAL_CHSTAT_LASTRES ch 9).wr Reg.GAPCAL_CHSTAT_TCODE ch r.ct
  | none => s

theorem State.gapAbort_eq (s : State) (i : Nat) : s.gapAbort i =
    let u := s.each (s.hitched i) fun ch s => s.discardRun ch
    u.setStrand i { u.strand i with gapRun := none } := rfl

/-- The held values and the counts of a channel. -/
def ChanRt.held (c : ChanRt) : List Int × List Int × Nat × Nat := (c.hOff, c.hGain, c.acc, c.rej)

theorem State.discardRun_discards (s : State) (ch : Nat) : let t := s.discardRun ch
    (t.chan ch).run = none ∧ ∀ e, (t.chan e).held = (s.chan e).held ∧ ((s.chan e).run = none → (t.chan e).run = none) := by
  dsimp only
  unfold State.discardRun
  split
  case h_2 hn => exact ⟨hn, fun _ => ⟨rfl, id⟩⟩
  case h_1 r hr =>
    obtain ⟨-, hc, -⟩ := (s.setChan ch { s.chan ch with run := none }).dropInj_drops ch
    have hsame : ((s.setChan ch { s.chan ch with run := none }).chan ch) = { s.chan ch with run := none } := State.setChan_same ..
    have hother (e : Nat) (he : e ≠ ch) : (s.setChan ch { s.chan ch with run := none }).chan e = s.chan e := State.setChan_other _ _ he
    generalize s.setChan ch { s.chan ch with run := none } = u at hc hsame hother ⊢
    dsimp only
    generalize u.dropInj ch = v at hc ⊢
    have hw (e : Nat) : ((v.wr Reg.GAPCAL_CHSTAT_LASTRES ch 9).wr Reg.GAPCAL_CHSTAT_TCODE ch r.ct).chan e = v.chan e :=
      (State.chan_wr ..).trans (State.chan_wr ..)
    have hheld (e : Nat) : (v.chan e).held = (u.chan e).held := by
      obtain ⟨-, h1, h2, h3, h4, -⟩ := hc e
      unfold ChanRt.held
      rw [h1, h2, h3, h4]
    refine ⟨by rw [hw, (hc ch).1, hsame], fun e => ?_⟩
    rw [hw, hheld, (hc e).1]
    by_cases he : e = ch
    · rw [he, hsame]
      exact ⟨rfl, fun _ => rfl⟩
    · rw [hother e he]
      exact ⟨rfl, id⟩

theorem State.gapAbort_discards (s : State) (i : Nat) : let t := s.gapAbort i
    (t.strand i).gapRun = none ∧ ∀ ch ∈ s.hitched i, (t.chan ch).run = none ∧ (t.chan ch).held = (s.chan ch).held := by
  dsimp only
  rw [State.gapAbort_eq]
  refine ⟨by rw [State.setStrand_same], fun ch hch => ⟨?_, ?_⟩⟩
  · exact State.each_brings (P := fun t => (t.chan ch).run = none) (Q := fun _ => True) hch (fun _ _ _ _ => trivial)
      (fun e _ t ht => ((t.discardRun_discards e).2 ch).2 ht) (fun t _ => (t.discardRun_discards ch).1) trivial
  · exact State.each_keeps (P := fun t => (t.chan ch).held = (s.chan ch).held) (fun e _ t ht => ((t.discardRun_discards e).2 ch).1.trans ht) rfl

/-- The word an abort of the run of strand `n` writes. -/
def gapAbortWord (n : Nat) : Word := BitVec.ofNat 32 (256 * n + 1)

theorem gapAbortWord_stores : ∀ n < 64, commitHit.fields.all (FieldSpec.storesNothing commitHit (gapAbortWord n)) = true := by decide +kernel

theorem gapAbortWord_reads : ∀ n < 64, (gapAbortWord n).getLsbD 2 = false ∧ (gapAbortWord n).getLsbD 0 = true ∧ (gapAbortWord n).toNat / 256 % 64 = n := by
  decide +kernel

theorem gapcalCmdAbort_eq (src : Source) (st : StrandId) {s : State} (hm : 3 ≤ s.mode) (hw : s.mode ≠ 7) :
    exec (.gapcalCmdAbort src st) s = .next (((s.asked 0x1800C).gapAbortCmd st).noteWrite src 0x1800C) := by
  obtain ⟨h2, h0, hn⟩ := gapAbortWord_reads st st.isLt
  have hwrite := State.writeReg_command src (gapAbortWord st) hm (a := 0x1800C) (h := commitHit) (by decide) (s.gated_of_mode hw _ _) (by decide)
    (by decide) (gapAbortWord_stores st st.isLt)
  have heff (free : Bool) (was : Word) (u : State) : u.writeEffect (srcNumber src) false free commitHit (gapAbortWord st) was = u.gapAbortCmd st := by
    have : u.writeEffect (srcNumber src) false free commitHit (gapAbortWord st) was =
        (let v := if (gapAbortWord st).getLsbD 2 && free then u.commitCmd else u
        if (gapAbortWord st).getLsbD 0 then v.gapAbortCmd ((gapAbortWord st).toNat / 256 % 64) else v) := rfl
    rw [this, h2, h0, hn]
    rfl
  rw [heff] at hwrite
  exact congrArg Host.Outcome.next hwrite

/-- The flag of an abort is shown; neither channels nor strands differ. -/
theorem State.abortShown (s : State) (f : Field) (hf : f.fits = true) (ha : outsideLog (f.addr 0)) (who : Nat) (acted : Bool) (acc : AccCode) :
    let t := ((s.raise f 0).logAbort 1 who 0 acted 1).answer acc
    t.acc = acc ∧ t.on f 0 = true ∧ t.chans = s.chans ∧ t.strands = s.strands := by
  have hl := (s.raise f 0).logged_logBy who 0x21 1 1 who 0 (if acted then 4 else 3)
  have ho : (s.raise f 0).on f 0 = true := s.on_raise_same f 0 hf
  have hu : (s.raise f 0).chans = s.chans ∧ (s.raise f 0).strands = s.strands := ⟨rfl, rfl⟩
  unfold State.logAbort
  generalize s.raise f 0 = u at hl ho hu ⊢
  have hon := hl.on f ha
  generalize u.logBy who 0x21 1 1 who 0 (if acted then 4 else 3) = v at hl hon ⊢
  obtain ⟨_, _, _, _, _, hv, -⟩ := hl
  refine ⟨rfl, hon.trans ho, ?_, ?_⟩
  · exact (show v.chans = u.chans by rw [hv]).trans hu.1
  · exact (show v.strands = u.strands by rw [hv]).trans hu.2

theorem State.gapCommitAt_asked (s : State) (a i x : Nat) : (s.asked a).gapCommitAt i x = s.gapCommitAt i x := by
  have hh : (s.asked a).hitched i = s.hitched i := by
    unfold State.hitched
    refine List.filter_congr fun ch _ => ?_
    rw [State.on_asked, State.rd_asked]
  unfold State.gapCommitAt
  rw [hh]
  rfl

theorem gapcalCmdAbort_aborts (src : Source) (st : StrandId) (s : State) (x : Nat) (hm : 3 ≤ s.mode) (hw : s.mode ≠ 7)
    (hx : (s.strand st).gapRun = some x) (ht : s.tick < s.gapCommitAt st x) :
    ∃ t, exec (.gapcalCmdAbort src st) s = .next t ∧ t.acc = .aborted ∧ t.on Reg.GAPCAL_STAT_ABORTED 0 = true
      ∧ (t.strand st).gapRun = none ∧ ∀ ch ∈ s.hitched st, (t.chan ch).run = none ∧ (t.chan ch).held = (s.chan ch).held := by
  have hh : (s.asked 0x1800C).hitched st = s.hitched st := by
    unfold State.hitched
    refine List.filter_congr fun ch _ => ?_
    rw [State.on_asked, State.rd_asked]
  have hgo : (s.asked 0x1800C).gapAbortCmd st =
      ((((s.asked 0x1800C).gapAbort st).raise Reg.GAPCAL_STAT_ABORTED 0).logAbort 1 st 0 true 1).answer .aborted := by
    have hruns : ((s.asked 0x1800C).strand st).gapRun = some x := hx
    have hlate : (s.asked 0x1800C).tick < (s.asked 0x1800C).gapCommitAt st x := by rw [State.gapCommitAt_asked]; exact ht
    unfold State.gapAbortCmd
    rw [hruns]
    exact if_pos (decide_eq_true hlate)
  rw [gapcalCmdAbort_eq src st hm hw, hgo]
  refine ⟨_, rfl, ?_⟩
  obtain ⟨hn, hd⟩ := (s.asked 0x1800C).gapAbort_discards st
  rw [hh] at hd
  have hd' : ∀ ch ∈ s.hitched st, (((s.asked 0x1800C).gapAbort st).chan ch).run = none ∧ (((s.asked 0x1800C).gapAbort st).chan ch).held = (s.chan ch).held := hd
  generalize (s.asked 0x1800C).gapAbort st = u at hn hd' ⊢
  obtain ⟨hacc, hon, hc, hs⟩ := u.abortShown Reg.GAPCAL_STAT_ABORTED (by decide) (by decide) st true .aborted
  generalize ((u.raise Reg.GAPCAL_STAT_ABORTED 0).logAbort 1 st 0 true 1).answer .aborted = v at hacc hon hc hs ⊢
  refine ⟨hacc, hon, ?_, ?_⟩
  · change (v.strand st).gapRun = none
    unfold State.strand at hn ⊢
    rw [hs]
    exact hn
  · change ∀ ch ∈ s.hitched st, (v.chan ch).run = none ∧ (v.chan ch).held = (s.chan ch).held
    have hv (e : Nat) : v.chan e = u.chan e := by unfold State.chan; rw [hc]
    simpa only [hv] using hd'

theorem gapcalCmdAbort_late (src : Source) (st : StrandId) (s : State) (hm : 3 ≤ s.mode) (hw : s.mode ≠ 7) (hx : (s.strand st).gapRun = none) :
    ∃ t, exec (.gapcalCmdAbort src st) s = .next t ∧ t.acc = .abortLate ∧ t.on Reg.GAPCAL_STAT_ABORT_LATE 0 = true
      ∧ t.chans = s.chans ∧ t.strands = s.strands := by
  have hgo : (s.asked 0x1800C).gapAbortCmd st =
      (((s.asked 0x1800C).raise Reg.GAPCAL_STAT_ABORT_LATE 0).logAbort 1 st 0 false 1).answer .abortLate := by
    have hruns : ((s.asked 0x1800C).strand st).gapRun = none := hx
    unfold State.gapAbortCmd
    rw [hruns]
    exact if_neg Bool.false_ne_true
  rw [gapcalCmdAbort_eq src st hm hw, hgo]
  refine ⟨_, rfl, ?_⟩
  have hu : (s.asked 0x1800C).chans = s.chans ∧ (s.asked 0x1800C).strands = s.strands := ⟨rfl, rfl⟩
  generalize s.asked 0x1800C = u at hu ⊢
  obtain ⟨hacc, hon, hc, hs⟩ := u.abortShown Reg.GAPCAL_STAT_ABORT_LATE (by decide) (by decide) st false .abortLate
  exact ⟨hacc, hon, hc.trans hu.1, hs.trans hu.2⟩

/-- Settles O35. -/
theorem gapRuns : Obligations.GapRuns := by
  unfold Obligations.GapRuns
  refine ⟨repeatRunStart_starts, quietDecision_judges, fun st s x hx ht => ?_, gapRunCommit_commits, gapRunCommit_waits, ?_, gapcalCmdAbort_late⟩
  · rw [exec_quietDecision, execQuietDecision, hx]
    exact congrArg Host.Outcome.next (if_pos ht)
  · intro src st s x hm hw hx ht
    obtain ⟨t, hex, hacc, hon, hn, hd⟩ := gapcalCmdAbort_aborts src st s x hm hw hx ht
    refine ⟨t, hex, hacc, hon, hn, fun ch hch => ?_⟩
    obtain ⟨hr, hh⟩ := hd ch hch
    simp only [ChanRt.held, Prod.mk.injEq] at hh
    exact ⟨hr, hh⟩

end Sys2Proof.Machine
end
-- ==== Sys2Proof/Proofs/StrandCommands.lean ====
section
/-! The commands of a strand: RUN and ABORT (R49 to R57). -/

namespace Sys2Proof.Machine

/-! ### What starting, stopping and aborting leave alone -/

/-- The registers of the strands, and the operating state. -/
def strandReg (a : Nat) : Prop := a = 0x3000 ∨ 0xA000 ≤ a ∧ a < 0xB000

/-- Those of them that hold no state and no count of strand `i`. -/
def settingReg (i a : Nat) : Prop := strandReg a ∧ a ≠ 0xA020 + 64 * i ∧ a ≠ 0xA024 + 64 * i ∧ a ≠ 0xA028 + 64 * i

/-- `t` keeps the registers of `keep`, the fold memory, time and the answer of `s`. -/
structure State.Steps (keep : Nat → Prop) (s t : State) : Prop where
  reg : ∀ a, keep a → t.reg a = s.reg a
  tick : t.tick = s.tick
  lany : t.lany = s.lany
  bins : t.bins = s.bins
  metas : t.metas = s.metas
  acc : t.acc = s.acc
  boot : t.boot = s.boot

section
variable {keep : Nat → Prop} {s t u : State}

theorem State.Steps.refl (keep : Nat → Prop) (s : State) : s.Steps keep s := ⟨fun _ _ => rfl, rfl, rfl, rfl, rfl, rfl, rfl⟩

theorem State.Steps.trans (h : s.Steps keep t) (k : t.Steps keep u) : s.Steps keep u :=
  ⟨fun a ha => (k.reg a ha).trans (h.reg a ha), k.tick.trans h.tick, k.lany.trans h.lany, k.bins.trans h.bins, k.metas.trans h.metas, k.acc.trans h.acc,
    k.boot.trans h.boot⟩

theorem State.Steps.mono {less : Nat → Prop} (h : s.Steps keep t) (hk : ∀ a, less a → keep a) : s.Steps less t :=
  ⟨fun a ha => h.reg a (hk a ha), h.tick, h.lany, h.bins, h.metas, h.acc, h.boot⟩

theorem State.Steps.same (h : s.Steps keep t) (hr : u.regs = t.regs) (h1 : u.tick = t.tick) (h2 : u.lany = t.lany) (h3 : u.bins = t.bins)
    (h4 : u.metas = t.metas) (h5 : u.acc = t.acc) (h6 : u.boot = t.boot) : s.Steps keep u :=
  h.trans ⟨fun a _ => State.reg_of_regs hr a, h1, h2, h3, h4, h5, h6⟩

theorem State.Steps.wr {f : Field} {i v : Nat} (h : s.Steps keep t) (hk : ¬ keep (f.addr i)) : s.Steps keep (t.wr f i v) :=
  h.trans ⟨fun a ha => t.reg_wr_other f i v fun he => hk (he ▸ ha), rfl, rfl, rfl, rfl, rfl, rfl⟩

theorem State.Steps.put {f : Field} {i : Nat} {b : Bool} (h : s.Steps keep t) (hk : ¬ keep (f.addr i)) : s.Steps keep (t.put f i b) := h.wr hk

theorem State.Steps.raise {f : Field} {i : Nat} (h : s.Steps keep t) (hk : ¬ keep (f.addr i)) : s.Steps keep (t.raise f i) :=
  (h.wr (v := 1) hk).same rfl rfl rfl rfl rfl rfl rfl

theorem State.Steps.logNow {code island a0 a1 a2 a3 : Nat} (hk : ∀ a, keep a → outsideLog a) (h : s.Steps keep t) :
    s.Steps keep (t.logNow code island a0 a1 a2 a3) := by
  have hl := t.logged_logBy 0 code island a0 a1 a2 a3
  unfold State.logNow
  generalize t.logBy 0 code island a0 a1 a2 a3 = u at hl ⊢
  refine h.trans ⟨fun a ha => hl.reg (hk a ha), ?_, ?_, ?_, ?_, ?_, ?_⟩
  all_goals obtain ⟨_, _, _, _, _, hu, -⟩ := hl; rw [hu]

theorem State.Steps.setStrand {i : Nat} {x : StrandRt} (h : s.Steps keep t) : s.Steps keep (t.setStrand i x) := h.same rfl rfl rfl rfl rfl rfl rfl
theorem State.Steps.setPort {p : Nat} {x : PortRt} (h : s.Steps keep t) : s.Steps keep (t.setPort p x) := h.same rfl rfl rfl rfl rfl rfl rfl
theorem State.Steps.setChan {c : Nat} {x : ChanRt} (h : s.Steps keep t) : s.Steps keep (t.setChan c x) := h.same rfl rfl rfl rfl rfl rfl rfl

theorem State.Steps.ite {c : Prop} [Decidable c] (ht : s.Steps keep t) (hu : s.Steps keep u) : s.Steps keep (if c then t else u) := by
  split
  · exact ht
  · exact hu

theorem State.Steps.each {α : Type} {f : α → State → State} {l : List α} (h : s.Steps keep t) (hf : ∀ x ∈ l, ∀ v : State, v.Steps keep (f x v)) :
    s.Steps keep (t.each l f) :=
  State.each_keeps (P := s.Steps keep) (fun x hx _ hv => hv.trans (hf x hx _)) h

end

theorem strandReg.outside {a : Nat} (h : strandReg a) : outsideLog a := by
  unfold strandReg at h
  unfold outsideLog
  omega

theorem strandReg_far {f : Field} {i : Nat} (hf : 0xB000 ≤ f.base) : ¬ strandReg (f.addr i) := by
  unfold strandReg Field.addr
  omega

section
variable {s t : State}

theorem State.Steps.phaseRate (h : s.Steps strandReg t) : s.Steps strandReg t.phaseRate := by
  have hw (v : Nat) : s.Steps strandReg (t.wr Reg.PHASE_RATE_RATE 0 v) := h.wr (strandReg_far (by decide))
  unfold State.phaseRate
  exact .ite ((hw _).raise (strandReg_far (by decide))) (hw _)

theorem State.Steps.portRelease {keep : Nat → Prop} {p : Nat} (h : s.Steps keep t) : s.Steps keep (t.portRelease p) :=
  .ite h.setPort (.ite h h.setPort)

/-- What follows a strand's rest. -/
theorem State.Steps.rested {p q : Nat} {c d : Prop} [Decidable c] [Decidable d] (h : s.Steps strandReg t) : s.Steps strandReg
    (let u := State.portRelease p (if c then ((t.put Reg.PHASE_QSTAT_ACTIVE q false).put Reg.PHASE_QSTAT_HFILL q false).phaseRate else t)
    if d then u.put Reg.BOOT_STAT_STOPPING 0 false else u) := by
  have hp : s.Steps strandReg (State.portRelease p (if c then ((t.put Reg.PHASE_QSTAT_ACTIVE q false).put Reg.PHASE_QSTAT_HFILL q false).phaseRate else t)) :=
    .portRelease (.ite ((h.put (strandReg_far (by decide))).put (strandReg_far (by decide))).phaseRate h)
  exact .ite (hp.put (by unfold strandReg; decide)) hp

end

/-! ### A strand's state -/

/-- A strand takes state `new`. -/
theorem State.setSstate_takes (s : State) (i : Nat) {new : Nat} (hn : new < 4) : let t := s.setSstate i new
    t.sstate i = new ∧ s.Steps (fun a => strandReg a ∧ a ≠ 0xA020 + 64 * i) t ∧ t.strands = s.strands
      ∧ t.rd Reg.STRAND_STAT_CFG_ERR i = s.rd Reg.STRAND_STAT_CFG_ERR i := by
  dsimp only
  unfold State.setSstate
  split
  case isTrue h => exact ⟨h, .refl _ s, rfl, rfl⟩
  case isFalse h =>
    have hr : (s.wr Reg.STRAND_STAT_STATE i new).rd Reg.STRAND_STAT_STATE i = new :=
      (s.rd_wr_same Reg.STRAND_STAT_STATE i new (by decide)).trans (Nat.mod_eq_of_lt (by show new < 2 ^ 2; omega))
    have hc := s.rd_wr_apart Reg.STRAND_STAT_STATE Reg.STRAND_STAT_CFG_ERR i i new (by decide) (by decide)
    have hs : s.Steps (fun a => strandReg a ∧ a ≠ 0xA020 + 64 * i) (s.wr Reg.STRAND_STAT_STATE i new) :=
      (State.Steps.refl _ s).wr fun hk => hk.2 (by simp only [Field.addr, Reg.STRAND_STAT_STATE])
    have hst : (s.wr Reg.STRAND_STAT_STATE i new).strands = s.strands := s.wr_strands ..
    generalize s.wr Reg.STRAND_STAT_STATE i new = u at hr hc hs hst ⊢
    have hl := u.logged_logBy 0 0x20 1 i new (s.rd Reg.STRAND_STACKNO_N i) (s.rd Reg.STRAND_STAT_CFG_ERR i)
    have hls : s.Steps (fun a => strandReg a ∧ a ≠ 0xA020 + 64 * i) (u.logNow 0x20 1 i new (s.rd Reg.STRAND_STACKNO_N i) (s.rd Reg.STRAND_STAT_CFG_ERR i)) :=
      hs.logNow fun _ ha => ha.1.outside
    unfold State.logNow at hls ⊢
    generalize u.logBy 0 0x20 1 i new (s.rd Reg.STRAND_STACKNO_N i) (s.rd Reg.STRAND_STAT_CFG_ERR i) = v at hl hls ⊢
    have hreg : ∀ a, 0x5014 ≤ a → v.reg a = u.reg a := fun a ha => hl.reg (.inr ha)
    refine ⟨(State.rd_of_reg (hreg _ ?_)).trans hr, hls, ?_, (State.rd_of_reg (hreg _ ?_)).trans hc⟩
    · simp only [Field.addr, Reg.STRAND_STAT_STATE]; omega
    · obtain ⟨_, _, _, _, _, hv, -⟩ := hl
      rw [hv]
      exact hst
    · simp only [Field.addr, Reg.STRAND_STAT_CFG_ERR]; omega

/-! ### A strand comes to rest (R43, R51 to R53) -/

/-- What the stop of strand `i` brings: STOPPED, with no stack and no start. -/
structure State.Stops (i : Nat) (s t : State) : Prop where
  state : t.sstate i = 0
  steps : s.Steps (fun a => strandReg a ∧ a ≠ 0xA020 + 64 * i) t
  strand : t.strand i = { s.strand i with start := none, stack := none, sysStop := none, restartRun := false }

theorem State.strands_each {α : Type} {f : α → State → State} (hf : ∀ x (t : State), (f x t).strands = t.strands) (l : List α) (s : State) :
    (s.each l f).strands = s.strands :=
  State.each_keeps (P := fun t => t.strands = s.strands) (fun x _ t ht => (hf x t).trans ht) rfl

theorem State.Stops.then {i : Nat} (hi : i < 64) {s t u : State} (h : s.Stops i t) (k : t.Steps strandReg u) (hs : u.strands = t.strands) : s.Stops i u :=
  ⟨(State.rd_of_reg (k.reg _ (.inr (by simp only [Field.addr, Reg.STRAND_STAT_STATE]; omega)))).trans h.state,
    h.steps.trans (k.mono fun _ ha => ha.1), (State.strand_of_strands hs i).trans h.strand⟩

theorem State.unstrung_stops (s : State) {i : Nat} (hi : i < 64) : s.Stops i (s.unstrung i) := by
  unfold State.unstrung
  dsimp only
  have h0 : ((s.setStrand i { s.strand i with start := none, stack := none, sysStop := none, restartRun := false }).put Reg.FOLD_SSTAT_HELD i false).strand i
      = { s.strand i with start := none, stack := none, sysStop := none, restartRun := false } := by
    refine Eq.trans ?_ (State.setStrand_same (s := s) i _)
    rfl
  have h1 : s.Steps (fun a => strandReg a ∧ a ≠ 0xA020 + 64 * i)
      ((s.setStrand i { s.strand i with start := none, stack := none, sysStop := none, restartRun := false }).put Reg.FOLD_SSTAT_HELD i false) :=
    (State.Steps.refl _ s).setStrand.put fun hk => strandReg_far (by decide) hk.1
  generalize (s.setStrand i { s.strand i with start := none, stack := none, sysStop := none, restartRun := false }).put Reg.FOLD_SSTAT_HELD i false = u at h0 h1 ⊢
  obtain ⟨hs, hk, hst, -⟩ := u.setSstate_takes i (new := 0) (by decide)
  generalize u.setSstate i 0 = v at hs hk hst ⊢
  have hv : s.Stops i v := ⟨hs, h1.trans hk, (State.strand_of_strands hst i).trans h0⟩
  exact State.Stops.then hi hv ((State.Steps.refl _ v).each fun ch _ w => (State.Steps.refl _ w).setChan)
    (State.strands_each (f := fun ch s => s.applyDeferred ch) (fun _ _ => rfl) _ _)

theorem State.strands_portRelease (s : State) (p : Nat) : (s.portRelease p).strands = s.strands := by
  unfold State.portRelease State.portIdle State.portRetime
  split
  · rfl
  · dsimp only
    split <;> rfl

theorem State.strands_phaseRate (s : State) : s.phaseRate.strands = s.strands := by
  unfold State.phaseRate
  dsimp only
  split <;> rfl

theorem State.atRest_stops (s : State) {i : Nat} (hi : i < 64) : s.Stops i (s.atRest i) := by
  have h := s.unstrung_stops hi
  unfold State.atRest
  dsimp only
  generalize s.unstrung i = u at h ⊢
  refine State.Stops.then hi h (State.Steps.refl _ u).rested ?_
  have hq (v : State) (p : Nat) (b : Prop) [Decidable b] (hv : v.strands = u.strands) :
      (if b then (v.portRelease p).put Reg.BOOT_STAT_STOPPING 0 false else v.portRelease p).strands = u.strands := by
    split
    · exact (State.put_strands ..).trans ((v.strands_portRelease p).trans hv)
    · exact (v.strands_portRelease p).trans hv
  refine hq _ _ _ ?_
  split
  · exact (State.strands_phaseRate _).trans ((State.put_strands ..).trans (State.put_strands ..))
  · rfl

/-! ### STRAND_CTRL is written -/

/-- What the address of STRAND_CTRL resolves to (Table 2.4). -/
def strandCtrlHit (i : Nat) : Hit :=
  ⟨.strand, i, 0, 0, .fold, [⟨15, 15, .rw, 0⟩, ⟨14, 12, .rw, 0⟩, ⟨11, 8, .rw, 0⟩, ⟨7, 4, .rw, 0⟩, ⟨3, 1, .rw, 0⟩, ⟨0, 0, .rw, 0⟩]⟩

theorem lookup_strandCtrl : ∀ i : StrandId, lookup (Reg.STRAND_CTRL_RUN.addr i) = some (strandCtrlHit i) := by decide +kernel

/-- A write of plain fields that is not late acts as it is. -/
theorem State.acting_rw {s : State} {h : Hit} {a : Nat} (src : Source) (v : Word) (hf : h.fields.all (fun f => f.acc == .rw) = true)
    (hl : s.notLate src a) : s.acting (srcRank src) h a v = v := by
  have hall (l : List FieldSpec) (hl : ∀ f ∈ l, f.acc = .rw) : l.foldl (fun v f => match f.acc with
      | .w1c => v &&& ~~~(s.raised.getD a 0 &&& f.mask)
      | .rw | .rwl | .img => if false && !h.keeps then (v &&& ~~~f.mask) ||| (s.reg a &&& f.mask) else v
      | .ro | .rc | .wo | .w1s => v) v = v := by
    induction l with
    | nil => rfl
    | cons f l ih =>
      rw [List.foldl_cons, hl f List.mem_cons_self]
      exact ih fun g hg => hl g (List.mem_cons_of_mem _ hg)
  have hrank : (h.oneEdge && decide (srcRank src < s.wrote.getD a 0)) = false := by
    rw [decide_eq_false (Nat.not_lt.2 hl), Bool.and_false]
  unfold State.acting
  rw [hrank]
  exact hall h.fields fun f hm => by simpa using List.all_eq_true.1 hf f hm

/-- Words that differ in RUN alone. -/
def sameButRun (w v : Word) : Prop := ∀ j, j ≠ 0 → w.getLsbD j = v.getLsbD j

theorem FieldSpec.write_sameButRun {f : FieldSpec} (hf : f.acc = .rw) (free mixed : Bool) {old v w : Word} (hv : sameButRun v old)
    (hw : sameButRun w old) : sameButRun (f.write free mixed old v w) old := by
  intro j hj
  unfold FieldSpec.write
  rw [hf]
  dsimp only
  rw [BitVec.getLsbD_or, BitVec.getLsbD_and, BitVec.getLsbD_and, BitVec.getLsbD_not, hv j hj, hw j hj]
  by_cases h32 : j < 32
  · cases old.getLsbD j <;> cases f.mask.getLsbD j <;> simp [h32]
  · rw [BitVec.getLsbD_of_ge old j (by omega)]
    rfl

theorem one_getLsbD {j : Nat} (h : j ≠ 0) : (1 : Word).getLsbD j = false := by
  show (1#32).getLsbD j = false
  rw [BitVec.getLsbD_one]
  simp [h]

/-- A write of STRAND_CTRL that leaves all but RUN leaves the word. -/
theorem strandCtrl_written (s : State) (i : Nat) (a : Nat) (free : Bool) {v : Word} (hv : sameButRun v (s.reg a)) :
    s.written free (strandCtrlHit i) a v = s.reg a := by
  have hfold (l : List FieldSpec) (hl : ∀ f ∈ l, f.acc = .rw) : ∀ w, sameButRun w (s.reg a) →
      sameButRun (l.foldl (fun w f => f.write free (strandCtrlHit i).mixed (s.reg a) v w) w) (s.reg a) := by
    induction l with
    | nil => exact fun _ hw => hw
    | cons f l ih =>
      exact fun w hw => ih (fun g hg => hl g (List.mem_cons_of_mem _ hg)) _
        (FieldSpec.write_sameButRun (hl f List.mem_cons_self) free _ hv hw)
  have hrw : ∀ f ∈ (strandCtrlHit i).fields, f.acc = .rw := (by decide : ∀ f ∈ (strandCtrlHit 0).fields, f.acc = .rw)
  have hw := hfold (strandCtrlHit i).fields hrw (s.reg a) fun _ _ => rfl
  unfold State.written
  dsimp only
  rw [if_neg (show ¬ ((strandCtrlHit i).keeps || s.gainHeld (strandCtrlHit i)) = true from Bool.false_ne_true), if_pos (by rfl)]
  generalize (strandCtrlHit i).fields.foldl (fun w f => f.write free (strandCtrlHit i).mixed (s.reg a) v w) (s.reg a) = w at hw ⊢
  refine BitVec.eq_of_getLsbD_eq fun j hj => ?_
  rw [BitVec.getLsbD_or, BitVec.getLsbD_and, BitVec.getLsbD_and, BitVec.getLsbD_not]
  by_cases h0 : j = 0
  · subst h0
    simp
  · have h1 : (1 : Word).getLsbD j = false := one_getLsbD h0
    rw [h1, hw j h0]
    simp [hj]

/-- A write of RUN: its effect, of a state in which the word stands. -/
theorem State.writeReg_run {s : State} (src : Source) (i : StrandId) {v : Word} (hm : 3 ≤ s.mode) (h7 : s.mode ≠ 7) (h9 : s.mode ≠ 9)
    (hl : s.notLate src (Reg.STRAND_CTRL_RUN.addr i)) (hv : sameButRun v (s.reg (Reg.STRAND_CTRL_RUN.addr i))) :
    s.writeReg src (Reg.STRAND_CTRL_RUN.addr i) v =
      (if v.getLsbD 0 then (s.asked (Reg.STRAND_CTRL_RUN.addr i)).runOn i
        else (s.asked (Reg.STRAND_CTRL_RUN.addr i)).runOff i).noteWrite src (Reg.STRAND_CTRL_RUN.addr i) := by
  have hrw : ∀ f ∈ (strandCtrlHit i).fields, f.acc ≠ .rwl ∧ f.acc ≠ .img :=
    (by decide : ∀ f ∈ (strandCtrlHit 0).fields, f.acc ≠ .rwl ∧ f.acc ≠ .img)
  have hw (free : Bool) : State.written { s with acc := .ok } free (strandCtrlHit i) (Reg.STRAND_CTRL_RUN.addr i) v = s.reg (Reg.STRAND_CTRL_RUN.addr i) :=
    strandCtrl_written { s with acc := .ok } i _ free hv
  rw [State.writeReg_hit src v hm (lookup_strandCtrl i) (s.gated_of_mode h7 _ _) (by decide : Grp.strand ≠ .gapcal), State.acting_rw src v rfl hl,
    State.writeHit_unlocked _ hrw]
  dsimp only
  rw [hw]
  refine congrArg (State.noteWrite src (Reg.STRAND_CTRL_RUN.addr i)) ?_
  have hsafe : (s.asked (Reg.STRAND_CTRL_RUN.addr i)).inSafeStop = false := by
    unfold State.inSafeStop State.mode
    rw [State.rd_asked]
    exact decide_eq_false h9
  have heff (u : State) (hu : u.inSafeStop = false) (free : Bool) (was : Word) : u.writeEffect (srcNumber src) false free (strandCtrlHit i) v was =
      if v.getLsbD 0 then u.runOn i else u.runOff i := by
    have : u.writeEffect (srcNumber src) false free (strandCtrlHit i) v was =
      if false || u.inSafeStop then u else if v.getLsbD 0 then u.runOn i else u.runOff i := rfl
    rw [this, hu]
    rfl
  exact heff _ hsafe _ _

/-- RUN put leaves the other bits of STRAND_CTRL. -/
theorem State.put_run_bits (s : State) (i : Nat) (b : Bool) : sameButRun ((s.put Reg.STRAND_CTRL_RUN i b).reg (Reg.STRAND_CTRL_RUN.addr i))
    (s.reg (Reg.STRAND_CTRL_RUN.addr i)) := by
  intro j hj
  unfold State.put State.wr
  rw [State.reg_setReg_same, BitVec.getLsbD, BitVec.getLsbD, Field.testBit_insert _ (by decide), if_neg]
  show ¬ (0 ≤ j ∧ j ≤ 0)
  omega

/-- The registers of a strand but STRAND_STAT. -/
def besideStat (i a : Nat) : Prop := strandReg a ∧ a ≠ 0xA020 + 64 * i

theorem besideStat_ctrl {i : Nat} (hi : i < 64) : besideStat i (0xA000 + 64 * i) := ⟨.inr (by omega), by omega⟩

theorem ctrl_addr (i : Nat) : Reg.STRAND_CTRL_RUN.addr i = 0xA000 + 64 * i := rfl

/-- RUN = 0 (R51 to R53). -/
theorem State.runOff_stops (s : State) {i : Nat} (hi : i < 64) (hr : (s.strand i).restartRun = false) : let t := s.runOff i
    (s.put Reg.STRAND_CTRL_RUN i false).Steps (besideStat i) t
      ∧ t.sstate i = (if s.sstate i = 1 then 0 else if s.sstate i = 2 ∧ (s.strand i).stack.isSome then 3 else s.sstate i)
      ∧ (t.strand i).restartRun = false := by
  have hst : (s.put Reg.STRAND_CTRL_RUN i false).sstate i = s.sstate i :=
    State.rd_of_reg (s.reg_put_other Reg.STRAND_CTRL_RUN i false (by simp only [Field.addr, Reg.STRAND_STAT_STATE, Reg.STRAND_CTRL_RUN]; omega))
  have hstrand : (s.put Reg.STRAND_CTRL_RUN i false).strand i = s.strand i := State.strand_of_strands (State.put_strands ..) i
  dsimp only
  unfold State.runOff
  dsimp only
  generalize s.put Reg.STRAND_CTRL_RUN i false = u at hst hstrand ⊢
  rw [hst, hstrand]
  by_cases h1 : s.sstate i = 1
  · rw [if_pos h1, if_pos h1, State.stopped_eq (by rw [hstrand]; exact hr)]
    have := u.atRest_stops hi
    exact ⟨this.steps, this.state, by rw [this.strand]⟩
  · rw [if_neg h1, if_neg h1]
    by_cases h2 : s.sstate i = 2 ∧ (s.strand i).stack.isSome = true
    · rw [if_pos h2, if_pos (by rw [Bool.and_eq_true]; exact ⟨decide_eq_true h2.1, h2.2⟩)]
      obtain ⟨ha, hb, hs, -⟩ := u.setSstate_takes i (new := 3) (by decide)
      exact ⟨hb, ha, by rw [State.strand_of_strands hs, hstrand, hr]⟩
    · rw [if_neg h2, if_neg (by rw [Bool.and_eq_true]; exact fun h => h2 ⟨of_decide_eq_true h.1, h.2⟩)]
      exact ⟨(State.Steps.refl _ u).setStrand, hst, by rw [State.setStrand_same]⟩

theorem strandStop_stops (src : Source) (i : StrandId) (s : State) (hm : 3 ≤ s.mode) (h7 : s.mode ≠ 7) (h9 : s.mode ≠ 9)
    (hr : (s.strand i).restartRun = false) (hl : s.notLate src (Reg.STRAND_CTRL_RUN.addr i)) :
    ∃ t, exec (.strandStop src i) s = .next t ∧ t.acc = .ok ∧ t.on Reg.STRAND_CTRL_RUN i = false
      ∧ (∀ j, j ≠ 0 → (t.reg (0xA000 + 64 * i.val)).getLsbD j = (s.reg (0xA000 + 64 * i.val)).getLsbD j)
      ∧ t.sstate i = (if s.sstate i = 1 then 0 else if s.sstate i = 2 ∧ (s.strand i).stack.isSome then 3 else s.sstate i)
      ∧ t.bins = s.bins ∧ t.metas = s.metas := by
  have hv : sameButRun (s.reg (Reg.STRAND_CTRL_RUN.addr i) &&& ~~~1) (s.reg (Reg.STRAND_CTRL_RUN.addr i)) := fun j hj => by
    rw [BitVec.getLsbD_and, BitVec.getLsbD_not, one_getLsbD hj]
    by_cases h : j < 32
    · simp [h]
    · rw [BitVec.getLsbD_of_ge _ j (by omega)]
      rfl
  have hv0 : (s.reg (Reg.STRAND_CTRL_RUN.addr i) &&& ~~~1).getLsbD 0 = false := by
    rw [BitVec.getLsbD_and, BitVec.getLsbD_not]
    simp
  have hex : exec (.strandStop src i) s = .next (((s.asked (Reg.STRAND_CTRL_RUN.addr i)).runOff i).noteWrite src (Reg.STRAND_CTRL_RUN.addr i)) := by
    refine congrArg Host.Outcome.next ((State.writeReg_run src i hm h7 h9 hl hv).trans ?_)
    rw [if_neg (by rw [hv0]; decide)]
  have hu : (s.asked (Reg.STRAND_CTRL_RUN.addr i)).acc = .ok ∧ (s.asked (Reg.STRAND_CTRL_RUN.addr i)).strands = s.strands
    ∧ (s.asked (Reg.STRAND_CTRL_RUN.addr i)).bins = s.bins ∧ (s.asked (Reg.STRAND_CTRL_RUN.addr i)).metas = s.metas := ⟨rfl, rfl, rfl, rfl⟩
  have hreg := s.reg_asked (Reg.STRAND_CTRL_RUN.addr i)
  generalize s.asked (Reg.STRAND_CTRL_RUN.addr i) = u at hex hu hreg
  obtain ⟨hacc, hs, hb, hme⟩ := hu
  have hstrand : u.strand i = s.strand i := State.strand_of_strands hs i
  have hstate : u.sstate i = s.sstate i := State.rd_of_reg (hreg _)
  obtain ⟨hk, hst, -⟩ := u.runOff_stops i.isLt (by rw [hstrand]; exact hr)
  rw [hstrand, hstate] at hst
  have hbits := u.put_run_bits i false
  have hon := u.on_put_same Reg.STRAND_CTRL_RUN i false (by decide)
  have hp : (u.put Reg.STRAND_CTRL_RUN i false).acc = u.acc ∧ (u.put Reg.STRAND_CTRL_RUN i false).bins = u.bins
    ∧ (u.put Reg.STRAND_CTRL_RUN i false).metas = u.metas := ⟨State.put_acc .., State.put_bins .., State.put_metas ..⟩
  generalize u.put Reg.STRAND_CTRL_RUN i false = p at hk hbits hon hp
  generalize u.runOff i = t at hex hk hst
  have hctrl := hk.reg _ (besideStat_ctrl i.isLt)
  refine ⟨_, hex, hk.acc.trans (hp.1.trans hacc), (State.on_of_reg hctrl).trans hon, fun j hj => ?_, hst, hk.bins.trans (hp.2.1.trans hb),
    hk.metas.trans (hp.2.2.trans hme)⟩
  rw [State.reg_noteWrite, hctrl]
  have := hbits j hj
  rw [hreg] at this
  exact this

/-! ### RUN = 1 (R49, R51) -/

/-- The check of a start reads the registers and the strands' run-time state. -/
theorem State.cfgCheck_congr {s t : State} (hr : ∀ a, t.reg a = s.reg a) (hs : t.strands = s.strands) : State.cfgCheck t = State.cfgCheck s := by
  have hrd : State.rd t = State.rd s := funext₂ fun f j => State.rd_of_reg (hr _)
  have hon : State.on t = State.on s := funext₂ fun f j => State.on_of_reg (hr _)
  have hst : State.strand t = State.strand s := funext fun j => State.strand_of_strands hs j
  have hh : State.hitched t = State.hitched s := by unfold State.hitched; rw [hrd, hon]
  have hruns : State.runs t = State.runs s := by unfold State.runs State.sstate; rw [hrd]
  have hphase : State.isPhase t = State.isPhase s := by unfold State.isPhase; rw [hrd]
  have hroles : State.rolesOk t = State.rolesOk s := by unfold State.rolesOk; rw [hrd, hh]
  have hquad : State.quadOk t = State.quadOk s := by unfold State.quadOk State.quadOf; rw [hrd, hh]
  have htiles : State.tilesOk t = State.tilesOk s := by unfold State.tilesOk; rw [hruns, hh]
  have hperiods : State.periodsOk t = State.periodsOk s := by unfold State.periodsOk State.portStrands State.strandP; rw [hrd, hst, hruns]
  have hsmode : State.smode t = State.smode s := by unfold State.smode State.isCoded State.isPhase State.pmode; rw [hrd]
  unfold State.cfgCheck State.strandN State.strandD State.strandP State.gapOff State.strandL State.strandN State.strandD
  rw [hrd, hroles, hquad, htiles, hperiods, hsmode, hphase]

theorem State.cfgCheck_lt (s : State) (i : Nat) : s.cfgCheck i < 16 := by
  have step {c : Prop} [Decidable c] {a b : Nat} (ha : a < 16) (hb : b < 16) : (if c then a else b) < 16 := by
    split
    · exact ha
    · exact hb
  unfold State.cfgCheck
  exact step (by decide) (step (by decide) (step (by decide) (step (by decide) (step (by decide) (step (by decide) (step (by decide)
    (step (by decide) (step (by decide) (step (by decide) (by decide))))))))))

/-- The counts a run starts from. -/
def State.clearCounts (i : Nat) (s : State) : State :=
  (((((s.wr Reg.STRAND_STACKNO_N i 0).wr Reg.STRAND_SHOTNO_N i 0).wr Reg.FOLD_SKIP_N i 0).put
    Reg.FOLD_SSTAT_PLANE i false).put Reg.FOLD_SSTAT_HELD i false)

theorem State.clearCounts_clears (s : State) {i : Nat} (hi : i < 64) : let t := s.clearCounts i
    s.Steps (fun a => strandReg a ∧ a ≠ 0xA024 + 64 * i ∧ a ≠ 0xA028 + 64 * i) t ∧ t.strands = s.strands
      ∧ t.rd Reg.STRAND_STACKNO_N i = 0 ∧ t.rd Reg.STRAND_SHOTNO_N i = 0 := by
  dsimp only
  unfold State.clearCounts
  have h1 := s.rd_wr_same Reg.STRAND_STACKNO_N i 0 (by decide)
  have k1 : s.Steps (fun a => strandReg a ∧ a ≠ 0xA024 + 64 * i ∧ a ≠ 0xA028 + 64 * i) (s.wr Reg.STRAND_STACKNO_N i 0) :=
    (State.Steps.refl _ s).wr fun h => h.2.1 (by simp only [Field.addr, Reg.STRAND_STACKNO_N])
  have s1 : (s.wr Reg.STRAND_STACKNO_N i 0).strands = s.strands := s.wr_strands ..
  generalize s.wr Reg.STRAND_STACKNO_N i 0 = u at h1 k1 s1 ⊢
  have h2 := u.rd_wr_same Reg.STRAND_SHOTNO_N i 0 (by decide)
  have k2 : s.Steps (fun a => strandReg a ∧ a ≠ 0xA024 + 64 * i ∧ a ≠ 0xA028 + 64 * i) (u.wr Reg.STRAND_SHOTNO_N i 0) :=
    k1.wr fun h => h.2.2 (by simp only [Field.addr, Reg.STRAND_SHOTNO_N])
  have s2 : (u.wr Reg.STRAND_SHOTNO_N i 0).strands = u.strands := u.wr_strands ..
  have h21 := u.rd_wr_addr Reg.STRAND_SHOTNO_N Reg.STRAND_STACKNO_N i i 0 (by simp only [Field.addr, Reg.STRAND_SHOTNO_N, Reg.STRAND_STACKNO_N]; omega)
  generalize u.wr Reg.STRAND_SHOTNO_N i 0 = v at h2 k2 s2 h21 ⊢
  have k3 : v.Steps strandReg (((v.wr Reg.FOLD_SKIP_N i 0).put Reg.FOLD_SSTAT_PLANE i false).put Reg.FOLD_SSTAT_HELD i false) :=
    (((State.Steps.refl _ v).wr (strandReg_far (by decide))).put (strandReg_far (by decide))).put (strandReg_far (by decide))
  have s3 : (((v.wr Reg.FOLD_SKIP_N i 0).put Reg.FOLD_SSTAT_PLANE i false).put Reg.FOLD_SSTAT_HELD i false).strands = v.strands :=
    (State.put_strands ..).trans ((State.put_strands ..).trans (State.wr_strands ..))
  generalize ((v.wr Reg.FOLD_SKIP_N i 0).put Reg.FOLD_SSTAT_PLANE i false).put Reg.FOLD_SSTAT_HELD i false = w at k3 s3 ⊢
  refine ⟨k2.trans (k3.mono fun _ ha => ha.1), s3.trans (s2.trans s1), ?_, ?_⟩
  · refine (State.rd_of_reg (k3.reg _ (.inr ?_))).trans (h21.trans h1)
    simp only [Field.addr, Reg.STRAND_STACKNO_N]; omega
  · refine (State.rd_of_reg (k3.reg _ (.inr ?_))).trans h2
    simp only [Field.addr, Reg.STRAND_SHOTNO_N]; omega

/-- The run-time state a run of strand `i` starts from. -/
def State.freshRun (s : State) (i : Nat) (rt : StrandRt) : StrandRt :=
  { rt with start := none, fixedAt := none, runPort := s.rd Reg.STRAND_CTRL_PORT i,
            runSw := s.rd Reg.STRAND_CTRL_SW i, runP := s.strandP i,
            stack := none, lastClose := none, sysStop := none, restartRun := false,
            nextPlane := 0, skipped := 0, fresh := true, skippedLaunch := false, accShots := 0, tAcc := 0,
            launched := false, miss := 0, learned := [none, none, none, none], lastLevel := [0, 0, 0, 0] }

theorem State.beginRun_eq {s : State} {i : Nat} : s.beginRun i =
    let u := s.monRelearn (s.rd Reg.STRAND_CTRL_PORT i)
    let v := (u.setStrand i (u.freshRun i (s.strand i))).clearCounts i
    let w := (v.each (v.hitched i) fun ch s => s.setChan ch { s.chan ch with urRun := zero8 }).setSstate i 1
    if w.isPhase i then
      (((w.wr Reg.PHASE_QSTAT_CFG_ERR (w.quadOf i) 0).put Reg.PHASE_QSTAT_ACTIVE (w.quadOf i) true).wr Reg.PHASE_QBREAKS_N (w.quadOf i) 0).phaseRate
    else w := rfl

/-- What a start of strand `i` that passed its checks brings: WAITING, with its counts clear. -/
structure State.Waits (i : Nat) (s t : State) : Prop where
  state : t.sstate i = 1
  steps : s.Steps (settingReg i) t
  stackno : t.rd Reg.STRAND_STACKNO_N i = 0
  shotno : t.rd Reg.STRAND_SHOTNO_N i = 0
  cfgErr : t.rd Reg.STRAND_STAT_CFG_ERR i = s.rd Reg.STRAND_STAT_CFG_ERR i
  strand : t.strand i = s.freshRun i (s.strand i)

theorem State.Waits.then {i : Nat} (hi : i < 64) {s t u : State} (h : s.Waits i t) (k : t.Steps strandReg u) (hs : u.strands = t.strands) : s.Waits i u := by
  have hr (f : Field) (hb : f.base + f.stride * i = 0xA020 + 64 * i ∨ f.base + f.stride * i = 0xA024 + 64 * i ∨ f.base + f.stride * i = 0xA028 + 64 * i) :
      u.rd f i = t.rd f i := State.rd_of_reg (k.reg _ (.inr (by unfold Field.addr; omega)))
  exact ⟨(hr Reg.STRAND_STAT_STATE (.inl rfl)).trans h.state, h.steps.trans (k.mono fun _ ha => ha.1),
    (hr Reg.STRAND_STACKNO_N (.inr (.inl rfl))).trans h.stackno, (hr Reg.STRAND_SHOTNO_N (.inr (.inr rfl))).trans h.shotno,
    (hr Reg.STRAND_STAT_CFG_ERR (.inl rfl)).trans h.cfgErr, (State.strand_of_strands hs i).trans h.strand⟩

theorem State.beginRun_waits (s : State) {i : Nat} (hi : i < 64) : s.Waits i (s.beginRun i) := by
  rw [State.beginRun_eq]
  dsimp only
  have hu : (s.monRelearn (s.rd Reg.STRAND_CTRL_PORT i)).regs = s.regs ∧ s.Steps strandReg (s.monRelearn (s.rd Reg.STRAND_CTRL_PORT i))
    ∧ (s.monRelearn (s.rd Reg.STRAND_CTRL_PORT i)).freshRun i (s.strand i) = s.freshRun i (s.strand i) := ⟨rfl, (State.Steps.refl _ s).setPort, rfl⟩
  generalize s.monRelearn (s.rd Reg.STRAND_CTRL_PORT i) = u at hu ⊢
  obtain ⟨-, hus, huf⟩ := hu
  rw [huf]
  have hv : (u.setStrand i (s.freshRun i (s.strand i))).strand i = s.freshRun i (s.strand i) := State.setStrand_same ..
  obtain ⟨hc, hcs, hn, hs⟩ := (u.setStrand i (s.freshRun i (s.strand i))).clearCounts_clears hi
  have hvs : s.Steps strandReg (u.setStrand i (s.freshRun i (s.strand i))) := hus.setStrand
  generalize u.setStrand i (s.freshRun i (s.strand i)) = v at hv hc hcs hn hs hvs ⊢
  generalize v.clearCounts i = w at hc hcs hn hs ⊢
  have he : w.Steps (fun _ => True) (w.each (w.hitched i) fun ch s => s.setChan ch { s.chan ch with urRun := zero8 }) :=
    (State.Steps.refl _ w).each fun _ _ x => (State.Steps.refl _ x).setChan
  have hes := State.strands_each (f := fun ch s => s.setChan ch { s.chan ch with urRun := zero8 }) (fun _ _ => rfl) (w.hitched i) w
  generalize w.each (w.hitched i) (fun ch s => s.setChan ch { s.chan ch with urRun := zero8 }) = x at he hes ⊢
  obtain ⟨h1, hk, hst, hce⟩ := x.setSstate_takes i (new := 1) (by decide)
  generalize x.setSstate i 1 = y at h1 hk hst hce ⊢
  have hsteps : s.Steps (settingReg i) y := (hvs.mono fun _ ha => ha.1).trans ((hc.mono fun _ ha => ⟨ha.1, ha.2.2⟩).trans
    ((he.mono fun _ _ => trivial).trans (hk.mono fun _ ha => ⟨ha.1, ha.2.1⟩)))
  have hcount (f : Field) (h0 : f.addr i = 0xA024 + 64 * i ∨ f.addr i = 0xA028 + 64 * i) : y.rd f i = w.rd f i :=
    (State.rd_of_reg (hk.reg _ ⟨.inr (by omega), by omega⟩)).trans (State.rd_of_reg (he.reg _ trivial))
  have hy : s.Waits i y := by
    refine ⟨h1, hsteps, (hcount _ (.inl (by simp only [Field.addr, Reg.STRAND_STACKNO_N]))).trans hn,
      (hcount _ (.inr (by simp only [Field.addr, Reg.STRAND_SHOTNO_N]))).trans hs, ?_, ?_⟩
    · have ha : strandReg (Reg.STRAND_STAT_CFG_ERR.addr i) := .inr (by simp only [Field.addr, Reg.STRAND_STAT_CFG_ERR]; omega)
      refine hce.trans ((State.rd_of_reg (he.reg _ trivial)).trans ((State.rd_of_reg (hc.reg _ ⟨ha, ?_⟩)).trans (State.rd_of_reg (hvs.reg _ ha))))
      simp only [Field.addr, Reg.STRAND_STAT_CFG_ERR]; omega
    · exact (State.strand_of_strands (hst.trans (hes.trans hcs)) i).trans hv
  split
  · exact hy.then hi ((((State.Steps.refl _ y).wr (strandReg_far (by decide))).put (strandReg_far (by decide))).wr (strandReg_far (by decide))).phaseRate
      ((State.strands_phaseRate _).trans ((State.wr_strands ..).trans ((State.put_strands ..).trans (State.wr_strands ..))))
  · exact hy

/-- The start tick reads lanyard time, the tick, STRAND_T0 and START_NOW. -/
theorem State.startTick_eq {i : Nat} {s t : State} (hr : ∀ a, 0xA014 + 64 * i ≤ a → a < 0xA020 + 64 * i → t.reg a = s.reg a)
    (hon : t.on Reg.STRAND_CTRL_START_NOW i = s.on Reg.STRAND_CTRL_START_NOW i) (hl : t.lany = s.lany) (ht : t.tick = s.tick) :
    t.startTick i = s.startTick i := by
  have hpair : t.pair Reg.STRAND_T0_LO_T i = s.pair Reg.STRAND_T0_LO_T i :=
    State.pair_of_reg (hr _ (by simp only [Field.addr, Reg.STRAND_T0_LO_T]; omega) (by simp only [Field.addr, Reg.STRAND_T0_LO_T]; omega))
      (hr _ (by simp only [Field.addr, Reg.STRAND_T0_LO_T]; omega) (by simp only [Field.addr, Reg.STRAND_T0_LO_T]; omega))
  unfold State.startTick
  rw [hpair, hon, hl, ht]

theorem State.Steps.startTick {i : Nat} {s t : State} (hi : i < 64) (h : s.Steps (settingReg i) t) : t.startTick i = s.startTick i :=
  State.startTick_eq (fun a h1 h2 => h.reg a ⟨.inr (by omega), by omega⟩)
    (State.on_of_reg (h.reg _ ⟨.inr (by simp only [Field.addr, Reg.STRAND_CTRL_START_NOW]; omega),
      by simp only [Field.addr, Reg.STRAND_CTRL_START_NOW]; omega⟩)) h.lany h.tick

/-- A WAITING strand's start tick is fixed (R51). -/
theorem State.fixStart_fixes (s : State) (i : Nat) (hp : (s.strand i).runPort < 16) : let t := s.fixStart i
    s.Steps strandReg t ∧ t.strand i = { s.strand i with start := some (s.startTick i), fixedAt := some s.tick } := by
  dsimp only
  unfold State.fixStart
  dsimp only
  have h0 := State.setStrand_same (s := s) i { s.strand i with start := some (s.startTick i), fixedAt := some s.tick }
  have h1 := (State.Steps.refl strandReg s).setStrand (i := i) (x := { s.strand i with start := some (s.startTick i), fixedAt := some s.tick })
  generalize s.setStrand i { s.strand i with start := some (s.startTick i), fixedAt := some s.tick } = u at h0 h1 ⊢
  have drive (p : Nat) (hp : p < 16) (v : Nat) : s.Steps strandReg (((u.setPort p { u.port p with fixTick := some s.tick }).driveSw p v).portRetime p)
      ∧ (((u.setPort p { u.port p with fixTick := some s.tick }).driveSw p v).portRetime p).strands = u.strands := by
    have hd : s.Steps strandReg ((u.setPort p { u.port p with fixTick := some s.tick }).driveSw p v) :=
      h1.setPort.setPort.wr (by unfold strandReg; simp only [Field.addr, Reg.PRB_STAT_SWNEXT]; omega)
    have hs : ((u.setPort p { u.port p with fixTick := some s.tick }).driveSw p v).strands = u.strands := rfl
    generalize (u.setPort p { u.port p with fixTick := some s.tick }).driveSw p v = w at hd hs ⊢
    unfold State.portRetime
    dsimp only
    split
    · exact ⟨hd, hs⟩
    · exact ⟨hd.setPort, hs⟩
  by_cases hl : (u.port (s.strand i).runPort).launching = true
  · rw [if_pos hl]
    exact ⟨h1, h0⟩
  · rw [if_neg hl]
    exact ⟨(h1.tick ▸ drive _ hp _).1, (State.strand_of_strands (h1.tick ▸ drive _ hp _).2 i).trans h0⟩

theorem State.strands_logNow (s : State) (code island a0 a1 a2 a3 : Nat) : (s.logNow code island a0 a1 a2 a3).strands = s.strands := by
  unfold State.logNow
  obtain ⟨_, _, _, _, _, h, -⟩ := s.logged_logBy 0 code island a0 a1 a2 a3
  rw [h]

/-- RUN returns to 0 after a check that failed. -/
theorem State.failStart_fails (s : State) {i : Nat} (hi : i < 64) (e : Nat) : let t := s.failStart i e
    t.sstate i = s.sstate i ∧ t.on Reg.STRAND_CTRL_RUN i = false ∧ t.rd Reg.STRAND_STAT_CFG_ERR i = s.rd Reg.STRAND_STAT_CFG_ERR i
      ∧ sameButRun (t.reg (Reg.STRAND_CTRL_RUN.addr i)) (s.reg (Reg.STRAND_CTRL_RUN.addr i))
      ∧ t.strands = s.strands ∧ t.bins = s.bins ∧ t.acc = s.acc := by
  dsimp only
  unfold State.failStart
  have hon := s.on_put_same Reg.STRAND_CTRL_RUN i false (by decide)
  have hbits := s.put_run_bits i false
  have hp : s.Steps (fun a => strandReg a ∧ a ≠ 0xA000 + 64 * i) (s.put Reg.STRAND_CTRL_RUN i false) :=
    (State.Steps.refl _ s).put fun h => h.2 (ctrl_addr i)
  have hps : (s.put Reg.STRAND_CTRL_RUN i false).strands = s.strands := State.put_strands ..
  generalize s.put Reg.STRAND_CTRL_RUN i false = v at hon hbits hp hps ⊢
  have hl := (State.Steps.refl strandReg v).logNow (code := 0x20) (island := 1) (a0 := i) (a1 := s.sstate i)
    (a2 := s.rd Reg.STRAND_STACKNO_N i) (a3 := e) fun _ ha => ha.outside
  have hls := v.strands_logNow 0x20 1 i (s.sstate i) (s.rd Reg.STRAND_STACKNO_N i) e
  generalize v.logNow 0x20 1 i (s.sstate i) (s.rd Reg.STRAND_STACKNO_N i) e = w at hl hls ⊢
  have hctrl : strandReg (0xA000 + 64 * i) := .inr (by omega)
  have hstat : strandReg (0xA020 + 64 * i) := .inr (by omega)
  have hw : w.reg (0xA020 + 64 * i) = s.reg (0xA020 + 64 * i) := (hl.reg _ hstat).trans (hp.reg _ ⟨hstat, by omega⟩)
  refine ⟨State.rd_of_reg hw, (State.on_of_reg (f := Reg.STRAND_CTRL_RUN) (hl.reg _ hctrl)).trans hon, State.rd_of_reg hw, ?_,
    hls.trans hps, hl.bins.trans hp.bins, hl.acc.trans hp.acc⟩
  rw [ctrl_addr, hl.reg _ hctrl, ← ctrl_addr]
  exact hbits

/-- A start that fails its check (R49). -/
theorem State.startRun_fails (s : State) {i : Nat} (hi : i < 64) (he : s.cfgCheck i ≠ 0) : let t := s.startRun i
    t.sstate i = s.sstate i ∧ t.on Reg.STRAND_CTRL_RUN i = false ∧ t.rd Reg.STRAND_STAT_CFG_ERR i = s.cfgCheck i
      ∧ sameButRun (t.reg (Reg.STRAND_CTRL_RUN.addr i)) (s.reg (Reg.STRAND_CTRL_RUN.addr i))
      ∧ t.strands = s.strands ∧ t.bins = s.bins ∧ t.acc = s.acc := by
  dsimp only
  unfold State.startRun
  dsimp only
  rw [if_pos (bne_iff_ne.2 he)]
  have hlt := s.cfgCheck_lt i
  generalize s.cfgCheck i = e at hlt ⊢
  have h1 := s.rd_wr_same Reg.STRAND_STAT_CFG_ERR i e (by decide)
  rw [Nat.mod_eq_of_lt (show e < Reg.STRAND_STAT_CFG_ERR.span from hlt)] at h1
  have h2 := s.rd_wr_apart Reg.STRAND_STAT_CFG_ERR Reg.STRAND_STAT_STATE i i e (by decide) (by decide)
  have h3 := s.reg_wr_other Reg.STRAND_STAT_CFG_ERR i e (a := Reg.STRAND_CTRL_RUN.addr i)
    (by simp only [Field.addr, Reg.STRAND_STAT_CFG_ERR, Reg.STRAND_CTRL_RUN]; omega)
  have h4 : (s.wr Reg.STRAND_STAT_CFG_ERR i e).strands = s.strands ∧ (s.wr Reg.STRAND_STAT_CFG_ERR i e).bins = s.bins
    ∧ (s.wr Reg.STRAND_STAT_CFG_ERR i e).acc = s.acc := ⟨rfl, rfl, rfl⟩
  generalize s.wr Reg.STRAND_STAT_CFG_ERR i e = u at h1 h2 h3 h4 ⊢
  obtain ⟨hs, hb, ha⟩ := h4
  obtain ⟨fst, foff, fcfg, fbits, fs, fb, fa⟩ := u.failStart_fails hi e
  rw [h3] at fbits
  exact ⟨fst.trans h2, foff, fcfg.trans h1, fbits, fs.trans hs, fb.trans hb, fa.trans ha⟩

/-- A phase strand whose pipeline fails its check does not start either (R153). -/
theorem State.startRun_unfit (s : State) {i : Nat} (hi : i < 64) (he : s.cfgCheck i = 0)
    (hq : (let u := s.wr Reg.STRAND_STAT_CFG_ERR i 0; if u.isPhase i then u.phaseCheck i else 0) ≠ 0) : let t := s.startRun i
    sameButRun (t.reg (Reg.STRAND_CTRL_RUN.addr i)) (s.reg (Reg.STRAND_CTRL_RUN.addr i)) ∧ t.acc = s.acc := by
  dsimp only at hq ⊢
  unfold State.startRun
  dsimp only
  rw [he, if_neg (by decide)]
  have hw : s.Steps (settingReg i) (s.wr Reg.STRAND_STAT_CFG_ERR i 0) := (State.Steps.refl _ s).wr fun h => h.2.1 rfl
  generalize s.wr Reg.STRAND_STAT_CFG_ERR i 0 = u at hq hw ⊢
  rw [if_pos (bne_iff_ne.2 hq)]
  generalize (if u.isPhase i = true then u.phaseCheck i else 0) = e
  have hv : s.Steps (settingReg i) (u.wr Reg.PHASE_QSTAT_CFG_ERR (u.quadOf i) e) := hw.wr fun h => strandReg_far (by decide) h.1
  generalize u.wr Reg.PHASE_QSTAT_CFG_ERR (u.quadOf i) e = v at hv ⊢
  obtain ⟨-, -, -, hbits, -, -, ha⟩ := v.failStart_fails hi (e + 16)
  rw [hv.reg _ (by rw [ctrl_addr]; exact ⟨.inr (by omega), by omega⟩)] at hbits
  exact ⟨hbits, ha.trans hv.acc⟩

/-- A start that passes its checks, in RUNNING with its start tick fixed at once (R51, R390). -/
theorem State.startRun_waits (s : State) {i : Nat} (hi : i < 64) (he : s.cfgCheck i = 0)
    (hq : (let u := s.wr Reg.STRAND_STAT_CFG_ERR i 0; if u.isPhase i then u.phaseCheck i else 0) = 0) : let t := s.startRun i
    t.sstate i = 1 ∧ t.rd Reg.STRAND_STAT_CFG_ERR i = 0 ∧ t.rd Reg.STRAND_STACKNO_N i = 0 ∧ t.rd Reg.STRAND_SHOTNO_N i = 0
      ∧ (t.strand i).stack = none ∧ (t.strand i).start = (if s.mode = 6 then some (s.startTick i) else none)
      ∧ t.reg (Reg.STRAND_CTRL_RUN.addr i) = s.reg (Reg.STRAND_CTRL_RUN.addr i) ∧ t.bins = s.bins ∧ t.acc = s.acc := by
  dsimp only at hq ⊢
  unfold State.startRun
  dsimp only
  rw [he, if_neg (by decide)]
  have h1 := s.rd_wr_same Reg.STRAND_STAT_CFG_ERR i 0 (by decide)
  have hw : s.Steps (settingReg i) (s.wr Reg.STRAND_STAT_CFG_ERR i 0) := (State.Steps.refl _ s).wr fun h => h.2.1 rfl
  generalize s.wr Reg.STRAND_STAT_CFG_ERR i 0 = u at h1 hq hw ⊢
  have hctrl : settingReg i (Reg.STRAND_CTRL_RUN.addr i) := by
    rw [ctrl_addr]
    exact ⟨.inr (by omega), by omega⟩
  rw [hq, if_neg (show ¬ (0 != 0) = true by decide)]
  obtain ⟨hst, hk, hn, hs, hc, hrt⟩ := u.beginRun_waits hi
  have hport : ((u.beginRun i).strand i).runPort < 16 := by
    rw [hrt]
    exact u.rd_lt Reg.STRAND_CTRL_PORT i
  have hstack : ((u.beginRun i).strand i).stack = none ∧ ((u.beginRun i).strand i).start = none := by
    rw [hrt]
    exact ⟨rfl, rfl⟩
  clear hrt
  generalize u.beginRun i = v at hst hk hn hs hc hport hstack ⊢
  replace hk := hw.trans hk
  have hmode : v.mode = s.mode := State.rd_of_reg (hk.reg _ ⟨.inl rfl, by simp only [Field.addr, Reg.BOOT_STATE_STATE]; omega⟩)
  have htick : v.startTick i = s.startTick i := hk.startTick hi
  rw [hmode]
  by_cases h6 : s.mode = 6
  · rw [if_pos h6, if_pos h6]
    obtain ⟨hf, hfs⟩ := v.fixStart_fixes i hport
    generalize v.fixStart i = w at hf hfs ⊢
    have hr {a : Nat} (h1 : 0xA000 + 64 * i ≤ a) (h2 : a < 0xA040 + 64 * i) : w.reg a = v.reg a := hf.reg _ (.inr (by omega))
    have hstat : w.reg (0xA020 + 64 * i) = v.reg (0xA020 + 64 * i) := hr (by omega) (by omega)
    refine ⟨(State.rd_of_reg hstat).trans hst, (State.rd_of_reg hstat).trans (hc.trans h1),
      (State.rd_of_reg (f := Reg.STRAND_STACKNO_N) (hr (a := 0xA024 + 64 * i) (by omega) (by omega))).trans hn,
      (State.rd_of_reg (f := Reg.STRAND_SHOTNO_N) (hr (a := 0xA028 + 64 * i) (by omega) (by omega))).trans hs, ?_, ?_,
      (hr (a := 0xA000 + 64 * i) (by omega) (by omega)).trans (hk.reg _ hctrl), hf.bins.trans hk.bins, hf.acc.trans hk.acc⟩
    · rw [hfs]
      exact hstack.1
    · rw [hfs, htick]
  · rw [if_neg h6, if_neg h6]
    exact ⟨hst, hc.trans h1, hn, hs, hstack.1, hstack.2, hk.reg _ hctrl, hk.bins, hk.acc⟩

/-- What is kept as a register is asked for. -/
theorem State.asked_steps (s : State) (a : Nat) : State.Steps (fun _ => True) { s with acc := .ok } (s.asked a) :=
  ⟨fun b _ => s.reg_asked a b, rfl, rfl, rfl, rfl, rfl, rfl⟩

theorem State.strands_asked (s : State) (a : Nat) : (s.asked a).strands = s.strands := rfl

theorem State.reg_put_congr {s t : State} (h : ∀ a, t.reg a = s.reg a) (f : Field) (i : Nat) (b : Bool) (a : Nat) :
    (t.put f i b).reg a = (s.put f i b).reg a := by
  unfold State.put State.wr
  rw [State.reg_setReg, State.reg_setReg, h, h]

theorem strandStart_starts (src : Source) (i : StrandId) (s : State) (hm : 3 ≤ s.mode) (h7 : s.mode ≠ 7) (h9 : s.mode ≠ 9) (h0 : s.sstate i = 0)
    (hl : s.notLate src (Reg.STRAND_CTRL_RUN.addr i)) : let s' := s.put Reg.STRAND_CTRL_RUN i true
    ∃ t, exec (.strandStart src i) s = .next t ∧ t.acc = .ok
      ∧ (∀ j, j ≠ 0 → (t.reg (0xA000 + 64 * i.val)).getLsbD j = (s.reg (0xA000 + 64 * i.val)).getLsbD j)
      ∧ (s'.cfgCheck i ≠ 0 → t.sstate i = 0 ∧ t.on Reg.STRAND_CTRL_RUN i = false
          ∧ t.rd Reg.STRAND_STAT_CFG_ERR i = s'.cfgCheck i ∧ t.strands = s.strands ∧ t.bins = s.bins)
      ∧ (s'.cfgCheck i = 0 → s.isPhase i = false → t.sstate i = 1 ∧ t.on Reg.STRAND_CTRL_RUN i = true
          ∧ t.rd Reg.STRAND_STAT_CFG_ERR i = 0 ∧ t.rd Reg.STRAND_STACKNO_N i = 0 ∧ t.rd Reg.STRAND_SHOTNO_N i = 0
          ∧ (t.strand i).stack = none ∧ (t.strand i).start = (if s.mode = 6 then some (s.startTick i) else none)
          ∧ t.bins = s.bins) := by
  dsimp only
  have hv : sameButRun (s.reg (Reg.STRAND_CTRL_RUN.addr i) ||| 1) (s.reg (Reg.STRAND_CTRL_RUN.addr i)) := fun j hj => by
    rw [BitVec.getLsbD_or, one_getLsbD hj, Bool.or_false]
  have hv0 : (s.reg (Reg.STRAND_CTRL_RUN.addr i) ||| 1).getLsbD 0 = true := by
    rw [BitVec.getLsbD_or]
    simp
  have hcheck : ((s.asked (Reg.STRAND_CTRL_RUN.addr i)).put Reg.STRAND_CTRL_RUN i true).cfgCheck i = (s.put Reg.STRAND_CTRL_RUN i true).cfgCheck i :=
    congrFun (State.cfgCheck_congr (State.reg_put_congr (s.reg_asked _) _ _ _)
      ((State.put_strands ..).trans (State.put_strands s Reg.STRAND_CTRL_RUN i true).symm)) i
  generalize (s.put Reg.STRAND_CTRL_RUN i true).cfgCheck i = e at hcheck ⊢
  have hex : exec (.strandStart src i) s = .next (((s.asked (Reg.STRAND_CTRL_RUN.addr i)).runOn i).noteWrite src (Reg.STRAND_CTRL_RUN.addr i)) := by
    refine congrArg Host.Outcome.next ((State.writeReg_run src i hm h7 h9 hl hv).trans ?_)
    rw [if_pos hv0]
  have hsteps := s.asked_steps (Reg.STRAND_CTRL_RUN.addr i)
  have hstrands := s.strands_asked (Reg.STRAND_CTRL_RUN.addr i)
  generalize s.asked (Reg.STRAND_CTRL_RUN.addr i) = u at hex hsteps hstrands hcheck
  unfold State.runOn at hex
  dsimp only at hex
  have hbits := u.put_run_bits i true
  have hon := u.on_put_same Reg.STRAND_CTRL_RUN i true (by decide)
  have hput : u.Steps (fun a => strandReg a ∧ a ≠ 0xA000 + 64 * i.val) (u.put Reg.STRAND_CTRL_RUN i true) :=
    (State.Steps.refl _ u).put fun h => h.2 (ctrl_addr i)
  have hmodeb : (u.put Reg.STRAND_CTRL_RUN i true).rd Reg.STRAND_CTRL_MODE i = u.rd Reg.STRAND_CTRL_MODE i :=
    u.rd_wr_apart Reg.STRAND_CTRL_RUN Reg.STRAND_CTRL_MODE i i _ (by decide) (by decide)
  have hnow : (u.put Reg.STRAND_CTRL_RUN i true).on Reg.STRAND_CTRL_START_NOW i = u.on Reg.STRAND_CTRL_START_NOW i :=
    u.on_put_apart Reg.STRAND_CTRL_RUN Reg.STRAND_CTRL_START_NOW i i true (by decide) (by decide)
  have hps : (u.put Reg.STRAND_CTRL_RUN i true).strands = s.strands := (State.put_strands ..).trans hstrands
  generalize u.put Reg.STRAND_CTRL_RUN i true = p at hex hbits hon hput hmodeb hnow hps hcheck
  have hr {a : Nat} (h : strandReg a) (h1 : a ≠ 0xA000 + 64 * i.val) : p.reg a = s.reg a := (hput.reg a ⟨h, h1⟩).trans (hsteps.reg a trivial)
  have hstate : p.sstate i = 0 := (State.rd_of_reg (hr (.inr (by simp only [Field.addr, Reg.STRAND_STAT_STATE]; omega))
    (by simp only [Field.addr, Reg.STRAND_STAT_STATE]; omega))).trans h0
  have hmode : p.mode = s.mode := State.rd_of_reg (hr (.inl rfl) (by simp only [Field.addr, Reg.BOOT_STATE_STATE]; omega))
  have hphase : p.isPhase i = s.isPhase i := by
    unfold State.isPhase
    rw [hmodeb, State.rd_of_reg (hsteps.reg _ trivial)]
    rfl
  have htick : p.startTick i = s.startTick i := State.startTick_eq (fun a h1 h2 => hr (.inr (by omega)) (by omega))
    (hnow.trans (State.on_of_reg (hsteps.reg _ trivial))) (hput.lany.trans hsteps.lany) (hput.tick.trans hsteps.tick)
  rw [if_pos hstate] at hex
  have hword : ∀ j, j ≠ 0 → (p.reg (Reg.STRAND_CTRL_RUN.addr i)).getLsbD j = (s.reg (Reg.STRAND_CTRL_RUN.addr i)).getLsbD j := fun j hj =>
    (hbits j hj).trans (congrArg (BitVec.getLsbD · j) (hsteps.reg _ trivial))
  have hacc : p.acc = .ok := hput.acc.trans hsteps.acc
  have hbins : p.bins = s.bins := hput.bins.trans hsteps.bins
  by_cases he : e = 0
  · have hplain (h : s.isPhase i = false) : (let u := p.wr Reg.STRAND_STAT_CFG_ERR i 0; if u.isPhase i then u.phaseCheck i else 0) = 0 := by
      have hm : (p.wr Reg.STRAND_STAT_CFG_ERR i 0).isPhase i = p.isPhase i := congrArg (fun n => decide (n = 2))
        (p.rd_wr_addr Reg.STRAND_STAT_CFG_ERR Reg.STRAND_CTRL_MODE i i 0 (by simp only [Field.addr, Reg.STRAND_STAT_CFG_ERR, Reg.STRAND_CTRL_MODE]; omega))
      dsimp only
      rw [hm, hphase, h, if_neg Bool.false_ne_true]
    by_cases hq : (let u := p.wr Reg.STRAND_STAT_CFG_ERR i 0; if u.isPhase i then u.phaseCheck i else 0) = 0
    · obtain ⟨h1, hc, hn, hs, hk, hst, hreg, hb, ha⟩ := p.startRun_waits i.isLt (hcheck.trans he) hq
      generalize p.startRun i = t at hex h1 hc hn hs hk hst hreg hb ha
      rw [hmode, htick] at hst
      refine ⟨_, hex, ha.trans hacc, fun j hj => ?_, fun h => absurd he h, fun _ _ =>
        ⟨h1, (State.on_of_reg hreg).trans hon, hc, hn, hs, hk, hst, hb.trans hbins⟩⟩
      rw [State.reg_noteWrite, ← ctrl_addr, hreg]
      exact hword j hj
    · obtain ⟨hw, ha⟩ := p.startRun_unfit i.isLt (hcheck.trans he) hq
      generalize p.startRun i = t at hex hw ha
      refine ⟨_, hex, ha.trans hacc, fun j hj => ?_, fun h => absurd he h, fun _ h => absurd (hplain h) hq⟩
      rw [State.reg_noteWrite, ← ctrl_addr]
      exact (hw j hj).trans (hword j hj)
  · obtain ⟨h1, hoff, hc, hw, hs, hb, ha⟩ := p.startRun_fails i.isLt (by rw [hcheck]; exact he)
    generalize p.startRun i = t at hex h1 hoff hc hw hs hb ha
    refine ⟨_, hex, ha.trans hacc, fun j hj => ?_, fun _ =>
      ⟨h1.trans hstate, hoff, hc.trans hcheck, hs.trans hps, hb.trans hbins⟩, fun h => absurd h he⟩
    rw [State.reg_noteWrite, ← ctrl_addr]
    exact (hw j hj).trans (hword j hj)

end Sys2Proof.Machine
end
-- ==== Sys2Proof/Proofs/StrandAborts.lean ====
section
/-! STRAND_CMD.ABORT (R54 to R57), and the commands of a strand together. -/

namespace Sys2Proof.Machine

/-- A commit leaves the strands. -/
theorem State.Folds.strands {s t : State} (h : s.Folds t) : t.strands = s.strands := by
  induction h with
  | refl => rfl
  | logNow _ ih => exact (State.strands_logNow ..).trans ih
  | wr _ _ ih | noteRaised _ ih | source _ ih | fresh _ ih | setChan _ ih | setQuad _ ih | setBin _ ih | setQbyte _ ih | queue _ ih => exact ih

/-- A stack that ends leaves none, and the instant of its close. -/
theorem State.endStack_ends (s : State) (i : Nat) (k : Stack) (w : Nat) :
    ((s.endStack i k w).strand i).stack = none ∧ ((s.endStack i k w).strand i).lastClose = some (k.num, s.tick) := by
  have h : (s.endStack i k w).strand i = { s.strand i with
      stack := none, accShots := (s.strand i).accShots + w, nextPlane := if k.coded then (s.strand i).nextPlane else 1 - k.plane,
      lastClose := some (k.num, s.tick),
      closed := some ⟨k.num, s.tick, if k.coded then [0, 1] else [k.plane], s.hitched i, s.rd Reg.STRAND_CTRL_MODE i⟩ } :=
    State.setStrand_same (s := s) i _
  rw [h]
  exact ⟨rfl, rfl⟩

theorem State.cutStack_ends (s : State) (i : Nat) (k : Stack) :
    ((s.cutStack i k).strand i).stack = none ∧ ((s.cutStack i k).strand i).lastClose = some (k.num, s.tick) := by
  have hend {t : State} {w pb : Nat} (ht : t.tick = s.tick) : (((t.writeHeaders i k w pb true).endStack i k w).strand i).stack = none
      ∧ (((t.writeHeaders i k w pb true).endStack i k w).strand i).lastClose = some (k.num, s.tick) := by
    have := (State.Measures.refl 0x8000 t).writeHeaders (i := i) (k := k) (w := w) (pb := pb) (a := true)
    have he := (t.writeHeaders i k w pb true).endStack_ends i k w
    rw [this.tick, ht] at he
    exact he
  unfold State.cutStack
  dsimp only
  split
  · exact hend rfl
  · refine hend ?_
    exact State.Folds.refl.cutMarks.measures.tick

/-- The strand stops, whatever restart waited. -/
theorem State.stopNow_stops (s : State) {i : Nat} (hi : i < 64) : let t := s.stopNow i
    t.sstate i = 0 ∧ t.on Reg.STRAND_CTRL_RUN i = false ∧ (t.strand i).stack = none ∧ (t.strand i).lastClose = (s.strand i).lastClose := by
  dsimp only
  unfold State.stopNow
  rw [State.stopped_eq (by rw [State.setStrand_same])]
  have hon := s.on_put_same Reg.STRAND_CTRL_RUN i false (by decide)
  generalize s.put Reg.STRAND_CTRL_RUN i false = u at hon ⊢
  have hst : (u.setStrand i { s.strand i with restartRun := false }).strand i = { s.strand i with restartRun := false } := State.setStrand_same ..
  have hreg : (u.setStrand i { s.strand i with restartRun := false }).on Reg.STRAND_CTRL_RUN i = u.on Reg.STRAND_CTRL_RUN i := rfl
  generalize u.setStrand i { s.strand i with restartRun := false } = v at hst hreg ⊢
  obtain ⟨h0, hk, hs⟩ := v.atRest_stops hi
  refine ⟨h0, (State.on_of_reg (f := Reg.STRAND_CTRL_RUN) (hk.reg _ (besideStat_ctrl hi))).trans (hreg.trans hon), ?_, ?_⟩
  · rw [hs]
  · rw [hs, hst]

/-- What reports an abort leaves. -/
theorem State.abortLogged (s : State) (f : Field) (i tag : Nat) (acted : Bool) (code : AccCode) (hf : f.addr i = 0xA020 + 64 * i) (hfits : f.fits = true)
    (hap : f.apart Reg.STRAND_STAT_STATE = true) : let t := ((s.raise f i).logAbort 0 i tag acted 1).answer code
    t.acc = code ∧ t.on f i = true ∧ t.sstate i = s.sstate i ∧ t.on Reg.STRAND_CTRL_RUN i = s.on Reg.STRAND_CTRL_RUN i
      ∧ t.strands = s.strands ∧ t.bins = s.bins ∧ t.pipe = s.pipe := by
  dsimp only
  have h1 := s.on_raise_same f i hfits
  have h2 : (s.raise f i).sstate i = s.sstate i := s.rd_wr_apart f Reg.STRAND_STAT_STATE i i 1 hfits hap
  have h3 : (s.raise f i).on Reg.STRAND_CTRL_RUN i = s.on Reg.STRAND_CTRL_RUN i :=
    State.on_of_reg (s.reg_raise_other f i (by rw [ctrl_addr, hf]; omega))
  have h4 : (s.raise f i).strands = s.strands ∧ (s.raise f i).bins = s.bins ∧ (s.raise f i).pipe = s.pipe := ⟨rfl, rfl, rfl⟩
  generalize s.raise f i = u at h1 h2 h3 h4 ⊢
  have hl := u.logged_logBy i 0x21 1 0 i tag (if acted then 4 else 3)
  unfold State.logAbort
  generalize u.logBy i 0x21 1 0 i tag (if acted then 4 else 3) = v at hl ⊢
  have hr {a : Nat} (h : 0x5014 ≤ a) : (v.answer code).reg a = u.reg a := hl.reg (.inr h)
  refine ⟨rfl, (State.on_of_reg (hr (by omega))).trans h1, (State.rd_of_reg (hr ?_)).trans h2, (State.on_of_reg (hr ?_)).trans h3, ?_⟩
  · simp only [Field.addr, Reg.STRAND_STAT_STATE]; omega
  · rw [ctrl_addr]; omega
  · obtain ⟨_, _, _, _, _, hv, -⟩ := hl
    rw [hv]
    exact h4

/-- An abort that acts (R57). -/
theorem State.strandAbortNow_acts (s : State) {i : Nat} (hi : i < 64) (tag : Nat) {k : Stack} (hk : (s.strand i).stack = some k) :
    let t := s.strandAbortNow i tag
    t.acc = .aborted ∧ t.on Reg.STRAND_STAT_ABORTED i = true ∧ t.sstate i = 0 ∧ t.on Reg.STRAND_CTRL_RUN i = false
      ∧ (t.strand i).stack = none ∧ (t.strand i).lastClose = some (k.num, s.tick) := by
  dsimp only
  rw [State.strandAbortNow_eq]
  have hf : s.Folds (s.flush i) := State.Folds.refl.flush
  have hfs : (s.flush i).strand i = s.strand i := State.strand_of_strands hf.strands i
  have hft := hf.measures.tick
  generalize s.flush i = u at hfs hft ⊢
  have hc : (u.cutNow i) = u.cutStack i k := by
    unfold State.cutNow
    rw [hfs, hk]
  obtain ⟨-, hcl⟩ := u.cutStack_ends i k
  rw [hft, ← hc] at hcl
  generalize u.cutNow i = v at hcl ⊢
  obtain ⟨h0, hon, hstk, hlc⟩ := v.stopNow_stops hi
  generalize v.stopNow i = w at h0 hon hstk hlc ⊢
  obtain ⟨la, lr, ls, lo, lst, -, -⟩ := w.abortLogged Reg.STRAND_STAT_ABORTED i tag true .aborted rfl (by decide) (by decide)
  generalize ((w.raise Reg.STRAND_STAT_ABORTED i).logAbort 0 i tag true 1).answer .aborted = x at la lr ls lo lst ⊢
  have hx := State.strand_of_strands lst i
  exact ⟨la, lr, ls.trans h0, lo.trans hon, by rw [hx]; exact hstk, by rw [hx]; exact hlc.trans hcl⟩

/-! ### STRAND_CMD is written -/

/-- What the address of STRAND_CMD resolves to (Table 2.4). -/
def strandCmdHit (i : Nat) : Hit := ⟨.strand, i, 0x1C, 0, .fold, [⟨15, 8, .wo, 0⟩, ⟨1, 1, .wo, 0⟩, ⟨0, 0, .wo, 0⟩]⟩

theorem lookup_strandCmd : ∀ i : StrandId, lookup (Reg.STRAND_CMD_ABORT.addr i) = some (strandCmdHit i) := by decide +kernel

/-- The word of an abort. -/
theorem abortWord_bits : ∀ any : Bool, ∀ tag < 256, let v := BitVec.ofNat 32 (256 * tag + (if any then 2 else 0) + 1)
    v.getLsbD 0 = true ∧ v.getLsbD 1 = any ∧ v.toNat / 256 % 256 = tag := by decide +kernel

theorem exec_strandCmdAbort_eq (src : Source) (i : StrandId) (any : Bool) (tag : Byte) (s : State) (hm : 3 ≤ s.mode) (h7 : s.mode ≠ 7) :
    exec (.strandCmdAbort src i any tag) s =
      .next (((s.asked (Reg.STRAND_CMD_ABORT.addr i)).strandAbort i any tag.toNat).noteWrite src (Reg.STRAND_CMD_ABORT.addr i)) := by
  refine congrArg Host.Outcome.next ((State.writeReg_command src _ hm (lookup_strandCmd i) (s.gated_of_mode h7 _ _) (fun h => nomatch h.1)
    (fun h => absurd h.2 (by decide : ¬ (strandCmdHit 0).off = 0)) rfl).trans ?_)
  obtain ⟨h0, h1, ht⟩ := abortWord_bits any tag.toNat tag.isLt
  generalize BitVec.ofNat 32 (256 * tag.toNat + (if any then 2 else 0) + 1) = v at h0 h1 ht ⊢
  have heff (u : State) (free : Bool) (was : Word) : u.writeEffect (srcNumber src) false free (strandCmdHit i) v was =
      if v.getLsbD 0 then u.strandAbort i (v.getLsbD 1) (v.toNat / 256 % 256) else u := rfl
  rw [heff, h0, h1, ht, if_pos rfl]

/-! ### When an abort acts (R55, R56) -/

theorem State.strandAbort_acts {s : State} {i tag : Nat} {any : Bool} {k : Stack} (h0 : s.sstate i ≠ 0) (hk : (s.strand i).stack = some k)
    (hn : any = true ∨ k.num % 256 = tag) (hc : s.stackComplete i = false) : s.strandAbort i any tag = s.strandAbortNow i tag := by
  unfold State.strandAbort
  dsimp only
  rw [if_neg h0, hk]
  refine if_pos ?_
  rw [hc, Bool.not_false, Bool.and_true, Bool.or_eq_true]
  exact hn.imp id fun h => decide_eq_true h

theorem State.strandAbort_late {s : State} {i tag : Nat} {any : Bool} (h : s.sstate i = 0
      ∨ (∃ k, (s.strand i).stack = some k ∧ (s.stackComplete i = true ∨ (any = false ∧ k.num % 256 ≠ tag))) ∨ ((s.strand i).stack = none ∧ any = false)) :
    s.strandAbort i any tag = s.strandLate i tag := by
  unfold State.strandAbort
  dsimp only
  by_cases h0 : s.sstate i = 0
  · rw [if_pos h0]
  · rw [if_neg h0]
    obtain h | ⟨k, hk, hn⟩ | ⟨hk, ha⟩ := h
    · exact absurd h h0
    · rw [hk]
      refine if_neg ?_
      rw [Bool.and_eq_true, Bool.or_eq_true, Bool.not_eq_true']
      obtain hc | ⟨ha, ht⟩ := hn
      · exact fun h => absurd (hc.symm.trans h.2) (by decide)
      · exact fun h => h.1.elim (fun hx => absurd (ha.symm.trans hx) (by decide)) fun hx => ht (of_decide_eq_true hx)
    · rw [hk, ha]
      rfl

/-- Asking for a register leaves what an abort reads. -/
theorem State.asked_abort (s : State) (a i : Nat) : (s.asked a).sstate i = s.sstate i ∧ (s.asked a).strands = s.strands
    ∧ (s.asked a).stackComplete i = s.stackComplete i ∧ (s.asked a).tick = s.tick ∧ (s.asked a).bins = s.bins ∧ (s.asked a).pipe = s.pipe := by
  have hrd : State.rd (s.asked a) = State.rd s := funext₂ fun f j => s.rd_asked a f j
  refine ⟨s.rd_asked a _ _, rfl, ?_, rfl, rfl, rfl⟩
  unfold State.stackComplete State.shotEnd State.gapOff State.strandL State.strandN State.strandD
  rw [hrd]
  rfl

/-- Settles O28. -/
theorem strandCommands : Obligations.StrandCommands := by
  unfold Obligations.StrandCommands
  refine ⟨⟨strandStart_starts, strandStop_stops⟩, fun src i any tag s hm h7 => ?_⟩
  rw [exec_strandCmdAbort_eq src i any tag s hm h7]
  obtain ⟨ha0, has, hac, hat, hab, hap⟩ := s.asked_abort (Reg.STRAND_CMD_ABORT.addr i) i
  generalize s.asked (Reg.STRAND_CMD_ABORT.addr i) = u at ha0 has hac hat hab hap ⊢
  have hst := State.strand_of_strands has i
  refine ⟨fun k h0 hk hn hc => ⟨_, rfl, ?_⟩, fun h => ⟨_, rfl, ?_⟩⟩
  · rw [← hst] at hk
    rw [State.strandAbort_acts (by rw [ha0]; exact h0) hk hn (hac.trans hc), ← hat]
    have hx := u.strandAbortNow_acts i.isLt tag.toNat hk
    generalize u.strandAbortNow i tag.toNat = x at hx ⊢
    exact hx
  · rw [State.strandAbort_late (by rw [ha0, hst, hac]; exact h)]
    obtain ⟨la, lr, ls, -, lst, lb, lp⟩ := u.abortLogged Reg.STRAND_STAT_ABORT_LATE i tag.toNat false .abortLate rfl (by decide) (by decide)
    unfold State.strandLate
    generalize ((u.raise Reg.STRAND_STAT_ABORT_LATE i).logAbort 0 i tag.toNat false 1).answer .abortLate = x at la lr ls lst lb lp ⊢
    exact ⟨la, lr, lst.trans has, lb.trans hab, lp.trans hap, ls.trans ha0⟩

end Sys2Proof.Machine
end
-- ==== Sys2Proof/Proofs/StrandRuns.lean ====
section
/-! What the starts and stops of a strand are made of, and what they leave alone (R43 to R53, R390 to R396). -/

namespace Sys2Proof.Machine

/-- A field of a strand's control, state or counts. -/
def ofStrand (f : Field) : Prop := 0xA000 ≤ f.base ∧ f.base < 0xA040 ∧ f.base % 64 ≠ 16 ∧ f.stride = 0x40

/-- `t` is what starts and stops of strand `i` make of `s`: a chain of the operations they are made of. The next SW value is driven
only when `ok` holds. -/
inductive State.Strung (ok : Prop) (i : Nat) (s : State) : State → Prop
  | refl : s.Strung ok i s
  | wr {t : State} {f : Field} {j v : Nat} (h : s.Strung ok i t) (hf : 0x20000 ≤ f.base) : s.Strung ok i (t.wr f j v)
  | own {t : State} {f : Field} {v : Nat} (h : s.Strung ok i t) (hf : ofStrand f) : s.Strung ok i (t.wr f i v)
  | drive {t : State} {p v : Nat} (h : s.Strung ok i t) (hok : ok) : s.Strung ok i (t.wr Reg.PRB_STAT_SWNEXT p v)
  | stopping {t : State} {b : Bool} (h : s.Strung ok i t) : s.Strung ok i (t.put Reg.BOOT_STAT_STOPPING 0 b)
  | noteRaised {t : State} {a : Nat} {m : Word} (h : s.Strung ok i t) : s.Strung ok i (t.noteRaised a m)
  | logNow {t : State} {code island a0 a1 a2 a3 : Nat} (h : s.Strung ok i t) : s.Strung ok i (t.logNow code island a0 a1 a2 a3)
  | setStrand {t : State} {x : StrandRt} (h : s.Strung ok i t) : s.Strung ok i (t.setStrand i x)
  | setPort {t : State} {p : Nat} {x : PortRt} (h : s.Strung ok i t) : s.Strung ok i (t.setPort p x)
  | setChan {t : State} {c : Nat} {x : ChanRt} (h : s.Strung ok i t) : s.Strung ok i (t.setChan c x)

section
variable {ok : Prop} {i : Nat} {s t u : State}

theorem State.Strung.trans (h : s.Strung ok i t) (k : t.Strung ok i u) : s.Strung ok i u := by
  induction k with
  | refl => exact h
  | wr _ hf ih => exact ih.wr hf
  | own _ hf ih => exact ih.own hf
  | drive _ hok ih => exact ih.drive hok
  | stopping _ ih => exact ih.stopping
  | noteRaised _ ih => exact ih.noteRaised
  | logNow _ ih => exact ih.logNow
  | setStrand _ ih => exact ih.setStrand
  | setPort _ ih => exact ih.setPort
  | setChan _ ih => exact ih.setChan

theorem State.Strung.put {f : Field} {j : Nat} {b : Bool} (h : s.Strung ok i t) (hf : 0x20000 ≤ f.base) : s.Strung ok i (t.put f j b) := h.wr hf
theorem State.Strung.raise {f : Field} {j : Nat} (h : s.Strung ok i t) (hf : 0x20000 ≤ f.base) : s.Strung ok i (t.raise f j) := (h.wr hf).noteRaised

theorem State.Strung.run {b : Bool} (h : s.Strung ok i t) : s.Strung ok i (t.put Reg.STRAND_CTRL_RUN i b) := h.own ⟨by decide, by decide, by decide, rfl⟩

theorem State.Strung.ite {c : Prop} [Decidable c] (ht : s.Strung ok i t) (hu : s.Strung ok i u) : s.Strung ok i (if c then t else u) := by
  split
  · exact ht
  · exact hu

theorem State.Strung.each {α : Type} {f : α → State → State} {l : List α} (h : s.Strung ok i t) (hf : ∀ x ∈ l, ∀ v : State, v.Strung ok i (f x v)) :
    s.Strung ok i (t.each l f) :=
  State.each_keeps (P := s.Strung ok i) (fun x hx _ hv => hv.trans (hf x hx _)) h

theorem State.Strung.setSstate {n : Nat} (h : s.Strung ok i t) : s.Strung ok i (t.setSstate i n) := .ite h (h.own ⟨by decide, by decide, by decide, rfl⟩).logNow

theorem State.Strung.phaseRate (h : s.Strung ok i t) : s.Strung ok i t.phaseRate := .ite ((h.wr (by decide)).raise (by decide)) (h.wr (by decide))

theorem State.Strung.portRetime {p : Nat} (h : s.Strung ok i t) : s.Strung ok i (t.portRetime p) := .ite h h.setPort

theorem State.Strung.portRelease {p : Nat} (h : s.Strung ok i t) : s.Strung ok i (t.portRelease p) := .ite h.setPort h.portRetime

theorem State.Strung.fixStart (hok : ok) (h : s.Strung ok i t) : s.Strung ok i (t.fixStart i) :=
  .ite h.setStrand (.portRetime (.drive (.setPort (.setPort h.setStrand)) hok))

theorem State.Strung.failStart {e : Nat} (h : s.Strung ok i t) : s.Strung ok i (t.failStart i e) := h.run.logNow

theorem State.Strung.beginRun (h : s.Strung ok i t) : s.Strung ok i (t.beginRun i) := by
  rw [State.beginRun_eq]
  dsimp only
  generalize t.strand i = rt
  have h1 : s.Strung ok i (t.monRelearn (t.rd Reg.STRAND_CTRL_PORT i)) := h.setPort
  generalize t.monRelearn (t.rd Reg.STRAND_CTRL_PORT i) = u at h1 ⊢
  have h2 : s.Strung ok i ((u.setStrand i (u.freshRun i rt)).clearCounts i) :=
    (((((h1.setStrand).own (f := Reg.STRAND_STACKNO_N) ⟨by decide, by decide, by decide, rfl⟩).own (f := Reg.STRAND_SHOTNO_N) ⟨by decide, by decide, by decide, rfl⟩).wr (by decide)).put (by decide)).put (by decide)
  generalize (u.setStrand i (u.freshRun i rt)).clearCounts i = v at h2 ⊢
  have h3 : s.Strung ok i ((v.each (v.hitched i) fun ch s => s.setChan ch { s.chan ch with urRun := zero8 }).setSstate i 1) :=
    .setSstate (h2.each fun _ _ w => State.Strung.refl.setChan)
  generalize (v.each (v.hitched i) fun ch s => s.setChan ch { s.chan ch with urRun := zero8 }).setSstate i 1 = w at h3 ⊢
  exact .ite (.phaseRate (((h3.wr (by decide)).put (by decide)).wr (by decide))) h3

/-- The registers a chain about strand `i` keeps. -/
structure Spared (ok : Prop) (i : Nat) (keep : Nat → Prop) : Prop where
  far : ∀ a, keep a → a < 0x20000
  own : ∀ a f, keep a → ofStrand f → a ≠ f.addr i
  drive : ok → ∀ a p, keep a → a ≠ Reg.PRB_STAT_SWNEXT.addr p
  stopping : ¬ keep 0x3008
  outside : ∀ a, keep a → outsideLog a

theorem State.Strung.steps {keep : Nat → Prop} (hk : Spared ok i keep) (h : s.Strung ok i t) : s.Steps keep t := by
  induction h with
  | refl => exact .refl _ s
  | wr _ hf ih => exact ih.wr fun ha => absurd (hk.far _ ha) (by unfold Field.addr; omega)
  | own _ hf ih => exact ih.wr fun ha => hk.own _ _ ha hf rfl
  | drive _ hok ih => exact ih.wr fun ha => hk.drive hok _ _ ha rfl
  | stopping _ ih => exact ih.put hk.stopping
  | noteRaised _ ih => exact ih.same rfl rfl rfl rfl rfl rfl rfl
  | logNow _ ih => exact ih.logNow hk.outside
  | setStrand _ ih => exact ih.setStrand
  | setPort _ ih => exact ih.setPort
  | setChan _ ih => exact ih.setChan

/-- Neither the operating state nor another register below the islands' changes, but for STOPPING. -/
def lowReg (a : Nat) : Prop := a < 0x8000 ∧ outsideLog a ∧ a ≠ 0x3008

theorem State.Strung.low (h : s.Strung ok i t) : s.Steps lowReg t :=
  h.steps ⟨fun _ ha => Nat.lt_trans ha.1 (by decide), fun _ f ha hf => by have := ha.1; have := hf.1; unfold Field.addr; omega,
    fun _ _ p ha => by have := ha.1; simp only [Field.addr, Reg.PRB_STAT_SWNEXT]; omega, fun ha => ha.2.2 rfl, fun _ ha => ha.2.1⟩

/-- GAPCAL_STAT stands. -/
theorem State.Strung.gapStat (h : s.Strung ok i t) : t.reg 0x18010 = s.reg 0x18010 :=
  (h.steps (keep := (· = 0x18010)) ⟨fun _ ha => by omega, fun _ f ha hf => by obtain ⟨-, -, h1, h2⟩ := hf; rw [Field.addr, h2]; omega,
    fun _ _ p ha => by simp only [Field.addr, Reg.PRB_STAT_SWNEXT]; omega, by decide, fun _ ha => by subst ha; decide⟩).reg _ rfl

/-- BOOT_STAT stands but for STOPPING. -/
theorem State.Strung.stat {g : Field} (hg : g.addr 0 = 0x3008) (ha : Reg.BOOT_STAT_STOPPING.apart g = true) (h : s.Strung ok i t) : t.rd g 0 = s.rd g 0 := by
  have hfar {u : State} {f : Field} {j v : Nat} (hf : 0x8000 ≤ f.base) : (u.wr f j v).rd g 0 = u.rd g 0 :=
    u.rd_wr_addr f g j 0 v (by rw [hg]; unfold Field.addr; omega)
  induction h with
  | refl => rfl
  | wr _ hf ih => exact (hfar (by omega)).trans ih
  | own _ hf ih => exact (hfar (Nat.le_trans (by decide) hf.1)).trans ih
  | drive _ _ ih => exact (hfar (by decide)).trans ih
  | stopping _ ih => exact (State.rd_wr_apart _ Reg.BOOT_STAT_STOPPING g 0 0 _ (by decide) ha).trans ih
  | logNow _ ih => exact (State.rd_of_reg (((State.Steps.refl (· = 0x3008) _).logNow fun _ h => by subst h; decide).reg _ hg)).trans ih
  | noteRaised _ ih | setStrand _ ih | setPort _ ih | setChan _ ih => exact ih

/-- Another strand stands where no SW value is driven. -/
theorem State.Strung.spares {j : Nat} (hj : j < 64) (hne : j ≠ i) (h : s.Strung False i t) :
    s.Steps (fun a => 0xA000 + 64 * j ≤ a ∧ a < 0xA040 + 64 * j) t ∧ t.strand j = s.strand j := by
  refine ⟨h.steps ⟨fun _ _ => by omega, fun _ f _ hf => ?_, fun h => h.elim, fun ha => by omega, fun _ ha => .inr (by omega)⟩, ?_⟩
  · obtain ⟨h1, h2, -, h3⟩ := hf
    rw [Field.addr, h3]
    omega
  induction h with
  | refl => rfl
  | setStrand _ ih => exact (State.setStrand_other _ _ hne).trans ih
  | logNow _ ih => exact (State.strand_of_strands (State.strands_logNow ..) j).trans ih
  | wr _ _ ih | own _ _ ih | drive _ _ ih | stopping _ ih | noteRaised _ ih | setPort _ ih | setChan _ ih => exact ih

theorem State.Strung.mode (h : s.Strung ok i t) : t.mode = s.mode := State.rd_of_reg (h.low.reg _ ⟨by decide, by decide, by decide⟩)

theorem State.Strung.startRun (hm : s.mode = 6 → ok) (h : s.Strung ok i t) : s.Strung ok i (t.startRun i) := by
  unfold State.startRun
  dsimp only
  have h1 : s.Strung ok i (t.wr Reg.STRAND_STAT_CFG_ERR i (t.cfgCheck i)) := h.own ⟨by decide, by decide, by decide, rfl⟩
  generalize t.wr Reg.STRAND_STAT_CFG_ERR i (t.cfgCheck i) = u at h1 ⊢
  refine .ite h1.failStart (.ite (State.Strung.failStart (h1.wr (by decide))) ?_)
  have h2 := h1.beginRun
  split
  case isTrue h6 => exact h2.fixStart (hm (h2.mode.symm.trans h6))
  case isFalse => exact h2

theorem State.Strung.atRest (h : s.Strung ok i t) : s.Strung ok i (t.atRest i) := by
  have h1 : s.Strung ok i (t.unstrung i) := (State.Strung.setSstate (h.setStrand.put (by decide))).each fun ch _ w => State.Strung.refl.setChan
  unfold State.atRest
  dsimp only
  generalize t.unstrung i = u at h1 ⊢
  have h2 {p q : Nat} {c : Prop} [Decidable c] : s.Strung ok i (State.portRelease p (if c then ((u.put Reg.PHASE_QSTAT_ACTIVE q false).put Reg.PHASE_QSTAT_HFILL q false).phaseRate else u)) :=
    .portRelease (.ite (.phaseRate ((h1.put (by decide)).put (by decide))) h1)
  exact .ite h2.stopping h2

theorem State.stopped_eq_atRest (s : State) (i : Nat) : s.stopped i =
    if (s.strand i).restartRun then ((s.atRest i).put Reg.STRAND_CTRL_RUN i true).startRun i else s.atRest i := rfl

theorem State.Strung.stopped (hm : s.mode = 6 → ok) (h : s.Strung ok i t) : s.Strung ok i (t.stopped i) := by
  rw [State.stopped_eq_atRest]
  exact .ite (.startRun hm h.atRest.run) h.atRest

theorem State.Strung.runOff (hm : s.mode = 6 → ok) (h : s.Strung ok i t) : s.Strung ok i (t.runOff i) :=
  .ite (.stopped hm h.run) (.ite h.run.setSstate h.run.setStrand)

theorem State.Strung.runOn (hm : s.mode = 6 → ok) (h : s.Strung ok i t) : s.Strung ok i (t.runOn i) :=
  .ite (.startRun hm h.run) (.ite h.run.setStrand (.ite h.run.setSstate h.run))

theorem State.Strung.resumeStrand (hm : s.mode = 6 → ok) (h : s.Strung ok i t) : s.Strung ok i (t.resumeStrand i) :=
  .ite (.startRun hm h.run) h.run.setStrand

end

end Sys2Proof.Machine
end
-- ==== Sys2Proof/Proofs/OperatingStates.lean ====
section
/-! The operating states from BOOT to WATCH (R376, R383, R389 to R401). -/

namespace Sys2Proof.Machine

/-! ### A state is entered (R376, R415) -/

/-- What entry to an operating state leaves alone. -/
structure State.Enters (new : Nat) (s t : State) : Prop where
  mode : t.mode = new
  reg : ∀ a, outsideLog a → a ≠ 0x3000 → a ≠ 0x4008 → a ≠ 0x40028 → t.reg a = s.reg a
  acc : t.acc = s.acc
  boot : t.boot = s.boot
  strands : t.strands = s.strands
  due : t.safety.due = s.safety.due

theorem State.driveSafe_rest (s : State) : let t := s.driveSafe
    t.boot = s.boot ∧ t.strands = s.strands := by
  unfold State.driveSafe
  dsimp only
  split
  · exact ⟨rfl, rfl⟩
  · split <;> exact ⟨rfl, rfl⟩

theorem State.enter_enters (s : State) {new : Nat} (h3 : 3 ≤ new) (h16 : new < 16) : s.Enters new (s.enter new) := by
  have hg : (s.goto new).mode = new ∧ (∀ a, outsideLog a → a ≠ 0x3000 → (s.goto new).reg a = s.reg a) ∧ (s.goto new).acc = s.acc
      ∧ (s.goto new).boot = s.boot ∧ (s.goto new).strands = s.strands ∧ (s.goto new).safety = s.safety := by
    have hw : (s.wr Reg.BOOT_STATE_STATE 0 new).mode = new :=
      (s.rd_wr_same Reg.BOOT_STATE_STATE 0 new (by decide)).trans (Nat.mod_eq_of_lt (by show new < 2 ^ 4; omega))
    have hwo (a : Nat) (ha : a ≠ 0x3000) : (s.wr Reg.BOOT_STATE_STATE 0 new).reg a = s.reg a := s.reg_wr_other Reg.BOOT_STATE_STATE 0 new ha
    have hr : (s.wr Reg.BOOT_STATE_STATE 0 new).acc = s.acc ∧ (s.wr Reg.BOOT_STATE_STATE 0 new).boot = s.boot
      ∧ (s.wr Reg.BOOT_STATE_STATE 0 new).strands = s.strands ∧ (s.wr Reg.BOOT_STATE_STATE 0 new).safety = s.safety := ⟨rfl, rfl, rfl, rfl⟩
    unfold State.goto
    dsimp only
    generalize s.wr Reg.BOOT_STATE_STATE 0 new = u at hw hwo hr ⊢
    split
    · exact ⟨hw, fun a _ ha => hwo a ha, hr⟩
    · have hl := u.logged_logBy 0 2 0 s.mode new (u.rd Reg.BOOT_STAT_WCAUSE 0) 0
      unfold State.logNow
      refine ⟨(hl.rd Reg.BOOT_STATE_STATE (by decide)).trans hw, fun a ho ha => (hl.reg ho).trans (hwo a ha), ?_⟩
      obtain ⟨_, _, _, _, _, hv, -⟩ := hl
      rw [hv]
      exact hr
  unfold State.enter
  obtain ⟨hmode, hreg, ha, hb, hs, hsf⟩ := hg
  generalize s.goto new = u at hmode hreg ha hb hs hsf ⊢
  obtain ⟨hd, -⟩ := u.driveSafe_drives (by omega)
  obtain ⟨db, ds⟩ := u.driveSafe_rest
  have da := u.driveSafe_acc
  have dd := u.driveSafe_due
  generalize u.driveSafe = v at hd da db ds dd ⊢
  refine ⟨(hd.rd Reg.BOOT_STATE_STATE (by decide) (by decide)).trans hmode, fun a ho h1 h2 h3 => ?_, da.trans ha, db.trans hb, ds.trans hs,
    dd.trans (congrArg _ hsf)⟩
  refine (hd.reg (fun f hf => ?_) ho).trans (hreg a ho h1)
  simp only [List.mem_cons, List.not_mem_nil, or_false] at hf
  rcases hf with rfl | rfl | rfl <;> simpa only [Field.addr, Reg.SAFETY_STAT_SAFE, Reg.SAFETY_STAT_HB, Reg.HOSTLINK_EVT_PEND]

theorem State.Enters.rd {new : Nat} {s t : State} (h : s.Enters new t) (f : Field) (i : Nat) (ho : outsideLog (f.addr i))
    (hn : f.addr i ≠ 0x3000 ∧ f.addr i ≠ 0x4008 ∧ f.addr i ≠ 0x40028) : t.rd f i = s.rd f i :=
  State.rd_of_reg (h.reg _ ho hn.1 hn.2.1 hn.2.2)

/-- RUNNING is entered (R390). -/
theorem State.enterRunning_enters (s : State) : let t := s.enterRunning
    t.mode = 6 ∧ (∀ a, lowReg a → a ≠ 0x3000 → a ≠ 0x4008 → t.reg a = s.reg a) ∧ t.acc = s.acc ∧ t.boot = s.boot
      ∧ ∀ g : Field, g.addr 0 = 0x3008 → Reg.BOOT_STAT_STOPPING.apart g = true → t.rd g 0 = s.rd g 0 := by
  dsimp only
  unfold State.enterRunning
  have he := s.enter_enters (new := 6) (by decide) (by decide)
  generalize s.enter 6 = u at he ⊢
  have hk (i : Nat) (t : State) : t.Strung True i (if (t.sstate i = 1 && (t.strand i).start.isNone) = true then t.fixStart i else t) :=
    .ite (.fixStart trivial .refl) .refl
  have hlow : u.Steps lowReg (u.each (List.range 64) fun i t => if (t.sstate i = 1 && (t.strand i).start.isNone) = true then t.fixStart i else t) :=
    (State.Steps.refl _ u).each fun i _ t => (hk i t).low
  have hstat (g : Field) (hg : g.addr 0 = 0x3008) (ha : Reg.BOOT_STAT_STOPPING.apart g = true) :
      (u.each (List.range 64) fun i t => if (t.sstate i = 1 && (t.strand i).start.isNone) = true then t.fixStart i else t).rd g 0 = u.rd g 0 :=
    State.each_keeps (P := fun t => t.rd g 0 = u.rd g 0) (fun i _ t ht => ((hk i t).stat hg ha).trans ht) rfl
  generalize u.each (List.range 64) (fun i t => if (t.sstate i = 1 && (t.strand i).start.isNone) = true then t.fixStart i else t) = v at hlow hstat ⊢
  refine ⟨(State.rd_of_reg (hlow.reg _ ⟨by decide, by decide, by decide⟩)).trans he.mode, fun a ha h1 h2 => ?_, hlow.acc.trans he.acc, hlow.boot.trans he.boot,
    fun g hg ha => (hstat g hg ha).trans (he.rd g 0 (by rw [hg]; decide) (by rw [hg]; decide))⟩
  obtain ⟨hl, ho, h8⟩ := ha
  exact (hlow.reg a ⟨hl, ho, h8⟩).trans (he.reg a ho h1 h2 (by omega))

theorem State.enterRunning_gapStat (s : State) : s.enterRunning.reg 0x18010 = s.reg 0x18010 := by
  have he := (s.enter_enters (new := 6) (by decide) (by decide)).reg 0x18010 (by decide) (by decide) (by decide) (by decide)
  unfold State.enterRunning
  generalize s.enter 6 = u at he ⊢
  have hk (i : Nat) (t : State) : t.Strung True i (if (t.sstate i = 1 && (t.strand i).start.isNone) = true then t.fixStart i else t) :=
    .ite (.fixStart trivial .refl) .refl
  exact (State.each_keeps (P := fun t => t.reg 0x18010 = u.reg 0x18010) (fun i _ t ht => (hk i t).gapStat.trans ht) rfl).trans he

/-- A register is 0 whose whole word reads 0. -/
theorem State.reg_zero {s : State} {a : Nat} (h : s.rd ⟨a, 0, 31, 0⟩ 0 = 0) : s.reg a = 0 := by
  have read (w : Word) : (⟨a, 0, 31, 0⟩ : Field).read w = w.toNat := by
    unfold Field.read Field.span
    rw [Nat.pow_zero, Nat.div_one]
    exact Nat.mod_eq_of_lt w.isLt
  exact BitVec.eq_of_toNat_eq ((read (s.reg a)).symm.trans h)

/-- The strands of BOOT_HMASK are restarted (R396). -/
theorem State.resumeAll_resumes (s : State) : let t := s.resumeAll
    (∀ a, lowReg a → a ≠ 0x3030 → a ≠ 0x3034 → t.reg a = s.reg a) ∧ t.reg 0x3030 = 0 ∧ t.reg 0x3034 = 0 ∧ t.acc = s.acc ∧ t.boot = s.boot
      ∧ ∀ g : Field, g.addr 0 = 0x3008 → Reg.BOOT_STAT_STOPPING.apart g = true → t.rd g 0 = s.rd g 0 := by
  dsimp only
  unfold State.resumeAll
  dsimp only
  generalize (List.range 64).filter s.inHmask = m
  have hk (i : Nat) (t : State) : t.Strung True i (t.resumeStrand i) := .resumeStrand (fun _ => trivial) .refl
  have hlow : s.Steps lowReg (s.each m fun i t => t.resumeStrand i) := (State.Steps.refl _ s).each fun i _ t => (hk i t).low
  have hstat (g : Field) (hg : g.addr 0 = 0x3008) (ha : Reg.BOOT_STAT_STOPPING.apart g = true) : (s.each m fun i t => t.resumeStrand i).rd g 0 = s.rd g 0 :=
    State.each_keeps (P := fun t => t.rd g 0 = s.rd g 0) (fun i _ t ht => ((hk i t).stat hg ha).trans ht) rfl
  generalize s.each m (fun i t => t.resumeStrand i) = u at hlow hstat ⊢
  have h1 : (u.wr Reg.BOOT_HMASK_LO_S 0 0).reg 0x3030 = 0 := State.reg_zero (u.rd_wr_same Reg.BOOT_HMASK_LO_S 0 0 (by decide))
  have h1o {a : Nat} (ha : a ≠ 0x3030) : (u.wr Reg.BOOT_HMASK_LO_S 0 0).reg a = u.reg a := u.reg_wr_other Reg.BOOT_HMASK_LO_S 0 0 ha
  have h1r : (u.wr Reg.BOOT_HMASK_LO_S 0 0).acc = u.acc ∧ (u.wr Reg.BOOT_HMASK_LO_S 0 0).boot = u.boot := ⟨rfl, rfl⟩
  generalize u.wr Reg.BOOT_HMASK_LO_S 0 0 = v at h1 h1o h1r ⊢
  have h2 : (v.wr Reg.BOOT_HMASK_HI_S 0 0).reg 0x3034 = 0 := State.reg_zero (v.rd_wr_same Reg.BOOT_HMASK_HI_S 0 0 (by decide))
  have h2o {a : Nat} (ha : a ≠ 0x3034) : (v.wr Reg.BOOT_HMASK_HI_S 0 0).reg a = v.reg a := v.reg_wr_other Reg.BOOT_HMASK_HI_S 0 0 ha
  refine ⟨fun a ha n1 n2 => (h2o n2).trans ((h1o n1).trans (hlow.reg a ha)), (h2o (by decide)).trans h1, h2, h1r.1.trans hlow.acc, h1r.2.trans hlow.boot,
    fun g hg ha => (State.rd_of_reg ((h2o (by rw [hg]; decide)).trans (h1o (by rw [hg]; decide)))).trans (hstat g hg ha)⟩

/-! ### BOOT_CMD (R391, R395 to R398) -/

/-- A command that the lock does not govern: what it starts begins where only the answer has changed. -/
theorem State.bootCmd_free {s : State} (src : Source) (k : Nat) (hk : k < 4) (hm : 3 ≤ s.mode) (h9 : s.mode ≠ 9) :
    s.writeReg src 0x3004 (BitVec.ofNat 32 (2 ^ k)) = (match k with
      | 0 => (s.asked 0x3004).cmdRun
      | 1 => (s.asked 0x3004).cmdHold
      | 2 => (s.asked 0x3004).cmdResume
      | _ => (s.asked 0x3004).cmdWatch).noteWrite src 0x3004 := by
  have hquiet (w : Word) : ∀ k < 4, (bootCmdHit.fields.any fun f => f.counts bootCmdHit.mixed w (BitVec.ofNat 32 (2 ^ k))) = false := by
    have hf : ∀ k < 4, ∀ f ∈ bootCmdHit.fields, f.acc = .wo ∨ f.acc = .rwl ∧ (!bootCmdHit.mixed || BitVec.ofNat 32 (2 ^ k) &&& f.mask != 0) = false := by
      decide
    intro k hk
    refine List.any_eq_false.2 fun f hm => ?_
    unfold FieldSpec.counts
    obtain ha | ⟨ha, hb⟩ := hf k hk f hm
    · rw [ha]
      exact Bool.false_ne_true
    · rw [ha]
      dsimp only
      rw [hb]
      exact Bool.false_ne_true
  have hw := s.writeReg_keeps (h := bootCmdHit) src (BitVec.ofNat 32 (2 ^ k)) hm lookup_bootCmd (by simp [State.gated, bootCmdHit]) (by decide) rfl rfl rfl
  dsimp only at hw
  rw [hquiet _ k hk, Bool.false_and, Bool.false_and, if_neg Bool.false_ne_true, if_neg Bool.false_ne_true] at hw
  refine hw.trans (congrArg (State.noteWrite src 0x3004) ?_)
  have heffect (t : State) (v : Word) : t.writeEffect (srcNumber src) false (s.classOpen bootCmdHit.lockClass) bootCmdHit v (s.reg 0x3004)
      = t.bootCmd (s.classOpen bootCmdHit.lockClass) v := rfl
  have hsafe : (s.asked 0x3004).inSafeStop = false := by
    unfold State.inSafeStop State.mode
    rw [State.rd_asked]
    exact decide_eq_false h9
  rw [heffect]
  generalize s.classOpen bootCmdHit.lockClass = free
  generalize s.asked 0x3004 = u at hsafe ⊢
  unfold State.bootCmd
  dsimp only
  rw [hsafe, Bool.false_and, if_neg Bool.false_ne_true]
  interval_cases k <;> rfl

/-! ### HOLD and WATCH stop the strands (R395) -/

/-- A strand is noted in BOOT_HMASK. -/
def State.marked (i : Nat) (s : State) : State :=
  if i < 32 then s.putBit Reg.BOOT_HMASK_LO_S 0 i true else s.putBit Reg.BOOT_HMASK_HI_S 0 (i - 32) true

/-- A strand noted is stopped. -/
def State.halting (i : Nat) (s : State) : State :=
  let s := s.runOff i
  if s.runs i then s.setStrand i { s.strand i with sysStop := some s.tick } else s

theorem State.holdStrand_eq (s : State) (i : Nat) : s.holdStrand i = if s.sstate i = 1 || s.sstate i = 2 then (s.marked i).halting i else s := rfl

/-- What is kept as the strands are held. -/
structure State.Held (s t : State) : Prop where
  reg : ∀ a, lowReg a → a ≠ 0x3030 → a ≠ 0x3034 → t.reg a = s.reg a
  stat : ∀ g : Field, g.addr 0 = 0x3008 → Reg.BOOT_STAT_STOPPING.apart g = true → t.rd g 0 = s.rd g 0
  acc : t.acc = s.acc
  boot : t.boot = s.boot

theorem State.Held.refl (s : State) : s.Held s := ⟨fun _ _ _ _ => rfl, fun _ _ _ => rfl, rfl, rfl⟩

theorem State.Held.trans {s t u : State} (h : s.Held t) (k : t.Held u) : s.Held u :=
  ⟨fun a ha n m => (k.reg a ha n m).trans (h.reg a ha n m), fun g hg ha => (k.stat g hg ha).trans (h.stat g hg ha), k.acc.trans h.acc, k.boot.trans h.boot⟩

theorem State.Held.mode {s t : State} (h : s.Held t) : t.mode = s.mode :=
  State.rd_of_reg (h.reg _ ⟨by decide, by decide, by decide⟩ (by decide) (by decide))

theorem State.Strung.held {ok : Prop} {i : Nat} {s t : State} (h : s.Strung ok i t) : s.Held t :=
  ⟨fun a ha _ _ => h.low.reg a ha, fun _ hg ha => h.stat hg ha, h.low.acc, h.low.boot⟩

theorem State.marked_marks (s : State) (i : Nat) : (∀ a, a ≠ 0x3030 → a ≠ 0x3034 → (s.marked i).reg a = s.reg a) ∧ (s.marked i).acc = s.acc
    ∧ (s.marked i).boot = s.boot ∧ (s.marked i).strands = s.strands := by
  unfold State.marked
  split
  · exact ⟨fun a h _ => s.reg_putBit_other Reg.BOOT_HMASK_LO_S 0 _ _ h, rfl, rfl, rfl⟩
  · exact ⟨fun a _ h => s.reg_putBit_other Reg.BOOT_HMASK_HI_S 0 _ _ h, rfl, rfl, rfl⟩

theorem State.halting_strung {ok : Prop} (s : State) (i : Nat) (hm : s.mode = 6 → ok) : s.Strung ok i (s.halting i) := by
  unfold State.halting
  dsimp only
  have h : s.Strung ok i (s.runOff i) := .runOff hm .refl
  generalize s.runOff i = u at h ⊢
  exact .ite h.setStrand h

theorem State.held_holdStrand (s : State) (i : Nat) : s.Held (s.holdStrand i) := by
  rw [State.holdStrand_eq]
  split
  · obtain ⟨hr, ha, hb, -⟩ := s.marked_marks i
    have h : s.Held (s.marked i) := ⟨fun a _ n m => hr a n m, fun g hg _ => State.rd_of_reg (hr _ (by rw [hg]; decide) (by rw [hg]; decide)), ha, hb⟩
    exact h.trans ((s.marked i).halting_strung i fun h => h).held
  · exact .refl s

theorem State.held_holdAll (s : State) : s.Held s.holdAll ∧ s.holdAll.on Reg.BOOT_STAT_STOPPING 0 = (List.range 64).any s.holdAll.runs := by
  unfold State.holdAll State.showStopping
  have h : s.Held (s.each (List.range 64) fun i t => t.holdStrand i) :=
    State.each_keeps (P := s.Held) (fun i _ t ht => ht.trans (t.held_holdStrand i)) (.refl s)
  generalize s.each (List.range 64) (fun i t => t.holdStrand i) = u at h ⊢
  generalize hb : (List.range 64).any u.runs = b
  have ho {a : Nat} (ha : a ≠ 0x3008) : (u.put Reg.BOOT_STAT_STOPPING 0 b).reg a = u.reg a := u.reg_put_other Reg.BOOT_STAT_STOPPING 0 b ha
  refine ⟨h.trans ⟨fun a ha _ _ => ho ha.2.2, fun g _ ha => u.rd_wr_apart Reg.BOOT_STAT_STOPPING g 0 0 _ (by decide) ha, rfl, rfl⟩, ?_⟩
  have hruns : State.runs (u.put Reg.BOOT_STAT_STOPPING 0 b) = State.runs u := by
    funext j
    exact congrArg (fun n => n != 0) (State.rd_of_reg (f := Reg.STRAND_STAT_STATE) (i := j) (ho (by simp only [Field.addr, Reg.STRAND_STAT_STATE]; omega)))
  rw [hruns, hb]
  exact u.on_put_same Reg.BOOT_STAT_STOPPING 0 b (by decide)

/-- Strand `i` is at rest with RUN = 0, or about to be held. -/
def State.holdable (i : Nat) (s : State) : Prop :=
  s.mode ≠ 6 ∧ (s.strand i).restartRun = false ∧ (s.sstate i = 1 ∨ s.sstate i = 2 ∨ s.on Reg.STRAND_CTRL_RUN i = false)

/-- Strand `i` has been held. -/
def State.isHeld (i : Nat) (s : State) : Prop := s.mode ≠ 6 ∧ (s.strand i).restartRun = false ∧ s.on Reg.STRAND_CTRL_RUN i = false

theorem State.holdStrand_other {s : State} {i j : Nat} (hi : i < 64) (hne : i ≠ j) (hm : s.mode ≠ 6) :
    (s.holdStrand j).mode ≠ 6 ∧ (s.holdStrand j).strand i = s.strand i ∧ (s.holdStrand j).sstate i = s.sstate i
      ∧ (s.holdStrand j).on Reg.STRAND_CTRL_RUN i = s.on Reg.STRAND_CTRL_RUN i := by
  have hmode := (s.held_holdStrand j).mode
  refine ⟨by rw [hmode]; exact hm, ?_⟩
  rw [State.holdStrand_eq]
  split
  · obtain ⟨hr, -, -, hs⟩ := s.marked_marks j
    have hm' : (s.marked j).mode ≠ 6 := by
      have : (s.marked j).mode = s.mode := State.rd_of_reg (hr _ (by decide) (by decide))
      rwa [this]
    obtain ⟨hk, hst⟩ := ((s.marked j).halting_strung (ok := False) j fun h => hm' h).spares hi hne
    have hreg {a : Nat} (h1 : 0xA000 + 64 * i ≤ a) (h2 : a < 0xA040 + 64 * i) : ((s.marked j).halting j).reg a = s.reg a :=
      (hk.reg a ⟨h1, h2⟩).trans (hr a (by omega) (by omega))
    refine ⟨hst.trans (State.strand_of_strands hs i), State.rd_of_reg (hreg ?_ ?_), State.on_of_reg (hreg ?_ ?_)⟩ <;>
      simp only [Field.addr, Reg.STRAND_STAT_STATE, Reg.STRAND_CTRL_RUN] <;> omega
  · exact ⟨rfl, rfl, rfl⟩

theorem State.halting_halts {s : State} {i : Nat} (hi : i < 64) (hr : (s.strand i).restartRun = false) :
    ((s.halting i).strand i).restartRun = false ∧ (s.halting i).on Reg.STRAND_CTRL_RUN i = false := by
  have hon := s.on_put_same Reg.STRAND_CTRL_RUN i false (by decide)
  obtain ⟨hk, -, hrr⟩ := s.runOff_stops hi hr
  unfold State.halting
  dsimp only
  generalize s.put Reg.STRAND_CTRL_RUN i false = p at hon hk
  generalize s.runOff i = u at hk hrr ⊢
  have hoff : u.on Reg.STRAND_CTRL_RUN i = false := (State.on_of_reg (f := Reg.STRAND_CTRL_RUN) (hk.reg _ (besideStat_ctrl hi))).trans hon
  split
  · rw [State.setStrand_same]
    exact ⟨hrr, hoff⟩
  · exact ⟨hrr, hoff⟩

theorem State.holdStrand_same {s : State} {i : Nat} (hi : i < 64) (h : s.holdable i) : (s.holdStrand i).isHeld i := by
  obtain ⟨hm, hr, hst⟩ := h
  refine ⟨by rw [(s.held_holdStrand i).mode]; exact hm, ?_⟩
  rw [State.holdStrand_eq]
  split
  case isTrue =>
    obtain ⟨-, -, -, hs⟩ := s.marked_marks i
    exact State.halting_halts hi (by rw [State.strand_of_strands hs]; exact hr)
  case isFalse hn =>
    rw [Bool.or_eq_true, decide_eq_true_iff, decide_eq_true_iff] at hn
    exact ⟨hr, by tauto⟩

/-- A strand that was WAITING or RUNNING has RUN = 0 once held. -/
theorem State.holdAll_off {s : State} (i : StrandId) (hm : s.mode ≠ 6) (hs : s.sstate i = 1 ∨ s.sstate i = 2) (hr : (s.strand i).restartRun = false) :
    s.holdAll.on Reg.STRAND_CTRL_RUN i = false := by
  have hmove (j : Nat) (t : State) (ht : t.holdable i) : (t.holdStrand j).holdable i := by
    by_cases hne : i.val = j
    · obtain ⟨h1, h2, h3⟩ := State.holdStrand_same i.isLt ht
      exact hne ▸ ⟨h1, h2, .inr (.inr h3)⟩
    · obtain ⟨h1, h2, h3, h4⟩ := State.holdStrand_other i.isLt hne ht.1
      exact ⟨h1, by rw [h2]; exact ht.2.1, by rw [h3, h4]; exact ht.2.2⟩
  have hstay (j : Nat) (t : State) (ht : t.isHeld i) : (t.holdStrand j).isHeld i := by
    by_cases hne : i.val = j
    · exact hne ▸ State.holdStrand_same i.isLt ⟨ht.1, ht.2.1, .inr (.inr ht.2.2)⟩
    · obtain ⟨h1, h2, h3, h4⟩ := State.holdStrand_other i.isLt hne ht.1
      exact ⟨h1, by rw [h2]; exact ht.2.1, by rw [h4]; exact ht.2.2⟩
  have h : (s.each (List.range 64) fun i t => t.holdStrand i).isHeld i :=
    State.each_brings (Q := State.holdable i) (List.mem_range.2 i.isLt) (fun j _ t => hmove j t) (fun j _ t => hstay j t)
      (fun t => State.holdStrand_same i.isLt) ⟨hm, hr, hs.imp id .inl⟩
  unfold State.holdAll State.showStopping
  generalize s.each (List.range 64) (fun i t => t.holdStrand i) = u at h ⊢
  refine (State.on_of_reg (u.reg_put_other Reg.BOOT_STAT_STOPPING 0 _ ?_)).trans h.2.2
  simp only [Field.addr, Reg.STRAND_CTRL_RUN, Reg.BOOT_STAT_STOPPING]; omega

end Sys2Proof.Machine
end
-- ==== Sys2Proof/Proofs/ModeCommands.lean ====
section
/-! RUN, HOLD, RESUME and WATCH (R391, R395 to R398), and WATCH and its end (R398 to R401). -/

namespace Sys2Proof.Machine

/-! ### A command is ignored, discarded or taken -/

/-- A command is ignored and sets CMD_REJ. -/
def Rejected (i : Instr) (s : State) : Prop := ∃ t, exec i s = .next t ∧ t.acc = .ok ∧ t.on Reg.BOOT_STAT_CMD_REJ 0 = true
  ∧ (∀ a, a ≠ 0x3008 → t.reg a = s.reg a) ∧ RegsOnly s t

/-- A command has no effect at all. -/
def Discarded (i : Instr) (s : State) : Prop := ∃ t, exec i s = .next t ∧ t.acc = .ok ∧ (∀ a, t.reg a = s.reg a) ∧ RegsOnly s t

/-- What a command finds. -/
structure State.Begins (s u : State) : Prop where
  reg : ∀ a, u.reg a = s.reg a
  only : RegsOnly s u
  acc : u.acc = .ok
  cause : u.cause = s.cause
  boot : u.boot = s.boot
  strands : u.strands = s.strands

theorem State.asked_begins (s : State) (a : Nat) : s.Begins (s.asked a) := ⟨s.reg_asked a, s.regsOnly_asked a, rfl, rfl, rfl, rfl⟩

section
variable {s u : State} (h : s.Begins u)
include h

theorem State.Begins.rd (f : Field) (i : Nat) : u.rd f i = s.rd f i := State.rd_of_reg (h.reg _)
theorem State.Begins.on (f : Field) (i : Nat) : u.on f i = s.on f i := State.on_of_reg (h.reg _)
theorem State.Begins.mode : u.mode = s.mode := h.rd _ _
theorem State.Begins.overruled (n : Nat) : u.overruled n = s.overruled n := State.overruled_of_cause h.cause n

/-- What comes of a BOOT_STAT field put. -/
theorem State.Begins.put {f : Field} (hf : f.addr 0 = 0x3008) (hfits : f.fits = true) (b : Bool) (src : Source) : let t := (u.put f 0 b).noteWrite src 0x3004
    t.on f 0 = b ∧ (∀ a, a ≠ 0x3008 → t.reg a = s.reg a) ∧ RegsOnly s t ∧ t.mode = s.mode ∧ t.acc = .ok := by
  have hon := u.on_put_same f 0 b hfits
  have hr {a : Nat} (ha : a ≠ 0x3008) : (u.put f 0 b).reg a = s.reg a := (u.reg_put_other f 0 b (by rw [hf]; exact ha)).trans (h.reg a)
  have hp : RegsOnly u (u.put f 0 b) := by simp only [RegsOnly, State.put, State.wr, State.setReg]
  have hacc : (u.put f 0 b).acc = u.acc := State.put_acc ..
  generalize u.put f 0 b = v at hon hr hp hacc ⊢
  exact ⟨hon, fun a ha => hr ha, (h.only.trans hp).noteWrite .., State.rd_of_reg (hr (by decide)), hacc.trans h.acc⟩

theorem State.Begins.rejected {i : Instr} {src : Source} (hex : exec i s = .next (u.reject.noteWrite src 0x3004)) : Rejected i s := by
  have hon := u.on_raise_same Reg.BOOT_STAT_CMD_REJ 0 (by decide)
  have hr {a : Nat} (ha : a ≠ 0x3008) : (u.raise Reg.BOOT_STAT_CMD_REJ 0).reg a = s.reg a := (u.reg_raise_other Reg.BOOT_STAT_CMD_REJ 0 ha).trans (h.reg a)
  have hp := u.regsOnly_raise Reg.BOOT_STAT_CMD_REJ 0
  have hacc : (u.raise Reg.BOOT_STAT_CMD_REJ 0).acc = u.acc := State.raise_acc ..
  unfold State.reject at hex
  generalize u.raise Reg.BOOT_STAT_CMD_REJ 0 = v at hex hon hr hp hacc
  exact ⟨_, hex, hacc.trans h.acc, hon, fun a ha => hr ha, (h.only.trans hp).noteWrite ..⟩

theorem State.Begins.discarded {i : Instr} {src : Source} (hex : exec i s = .next (u.noteWrite src 0x3004)) : Discarded i s :=
  ⟨_, hex, h.acc, h.reg, h.only.noteWrite ..⟩

end

/-- The first cause that ends WATCH is recorded (R400). -/
theorem State.wakeBy_wakes {s : State} {cause : Nat} (hc : cause < 4) (h7 : s.mode = 7) (hw : s.boot.waking = false) : let t := s.wakeBy cause
    t.mode = 7 ∧ t.boot.waking = true ∧ t.rd Reg.BOOT_STAT_WCAUSE 0 = cause := by
  dsimp only
  unfold State.wakeBy
  rw [h7, hw, if_neg (by decide), if_pos (show (!false) = true from rfl)]
  have hu : State.mode { s with boot := { s.boot with waking := true } } = 7 := h7
  generalize hb : ({ s with boot := { s.boot with waking := true } } : State) = u at hu ⊢
  have hwake : u.boot.waking = true := by rw [← hb]
  exact ⟨(u.rd_wr_addr Reg.BOOT_STAT_WCAUSE Reg.BOOT_STATE_STATE 0 0 _ (by decide)).trans hu, hwake,
    (u.rd_wr_same Reg.BOOT_STAT_WCAUSE 0 cause (by decide)).trans (Nat.mod_eq_of_lt hc)⟩

section
variable {s : State} (src : Source) (hm : 3 ≤ s.mode) (h9 : s.mode ≠ 9)
include hm h9

theorem exec_bootCmdRun_eq : exec (.bootCmdRun src) s = .next ((s.asked 0x3004).cmdRun.noteWrite src 0x3004) :=
  congrArg Host.Outcome.next (State.bootCmd_free src 0 (by decide) hm h9)
theorem exec_bootCmdHold_eq : exec (.bootCmdHold src) s = .next ((s.asked 0x3004).cmdHold.noteWrite src 0x3004) :=
  congrArg Host.Outcome.next (State.bootCmd_free src 1 (by decide) hm h9)
theorem exec_bootCmdResume_eq : exec (.bootCmdResume src) s = .next ((s.asked 0x3004).cmdResume.noteWrite src 0x3004) :=
  congrArg Host.Outcome.next (State.bootCmd_free src 2 (by decide) hm h9)
theorem exec_bootCmdWatch_eq : exec (.bootCmdWatch src) s = .next ((s.asked 0x3004).cmdWatch.noteWrite src 0x3004) :=
  congrArg Host.Outcome.next (State.bootCmd_free src 3 (by decide) hm h9)

/-! ### RUN (R391) -/

theorem bootCmdRun_taken (h5 : s.mode = 5) : ∃ t, exec (.bootCmdRun src) s = .next t ∧ t.acc = .ok ∧ t.on Reg.BOOT_STAT_RUN_PEND 0 = true ∧ t.mode = 5
    ∧ (∀ a, a ≠ 0x3008 → t.reg a = s.reg a) ∧ RegsOnly s t := by
  have hu := s.asked_begins 0x3004
  have hex := exec_bootCmdRun_eq src hm h9
  generalize s.asked 0x3004 = u at hu hex
  rw [State.cmdRun, if_pos (hu.mode.trans h5)] at hex
  obtain ⟨hon, hr, ho, hmode, ha⟩ := hu.put (f := Reg.BOOT_STAT_RUN_PEND) rfl (by decide) true src
  generalize (u.put Reg.BOOT_STAT_RUN_PEND 0 true).noteWrite src 0x3004 = t at hex hon hr ho hmode ha
  exact ⟨_, hex, ha, hon, hmode.trans h5, hr, ho⟩

theorem bootCmdRun_rejected (h5 : s.mode ≠ 5) : Rejected (.bootCmdRun src) s := by
  have hu := s.asked_begins 0x3004
  have hex := exec_bootCmdRun_eq src hm h9
  generalize s.asked 0x3004 = u at hu hex
  rw [State.cmdRun, if_neg (by rw [hu.mode]; exact h5)] at hex
  exact hu.rejected hex

/-! ### HOLD (R395, R398) -/

theorem bootCmdHold_overruled (ho : s.overruled 13 = true) : Discarded (.bootCmdHold src) s := by
  have hu := s.asked_begins 0x3004
  have hex := exec_bootCmdHold_eq src hm h9
  generalize s.asked 0x3004 = u at hu hex
  unfold State.cmdHold at hex
  dsimp only at hex
  rw [hu.overruled, if_pos ho] at hex
  exact hu.discarded hex

theorem bootCmdHold_holds (ho : s.overruled 13 = false) (h6 : s.mode = 6) : ∃ t, exec (.bootCmdHold src) s = .next t ∧ t.acc = .ok ∧ t.mode = 8
    ∧ t.on Reg.BOOT_STAT_WATCH_PEND 0 = false ∧ t.on Reg.BOOT_STAT_STOPPING 0 = (List.range 64).any t.runs
    ∧ ∀ i : StrandId, s.sstate i = 1 ∨ s.sstate i = 2 → (s.strand i).restartRun = false → t.on Reg.STRAND_CTRL_RUN i = false := by
  have hu := s.asked_begins 0x3004
  have hex := exec_bootCmdHold_eq src hm h9
  generalize s.asked 0x3004 = u at hu hex
  unfold State.cmdHold at hex
  dsimp only at hex
  rw [hu.overruled, ho, if_neg Bool.false_ne_true, if_pos (hu.mode.trans h6)] at hex
  have hp := u.on_put_same Reg.BOOT_STAT_WATCH_PEND 0 false (by decide)
  have hpr {a : Nat} (ha : a ≠ 0x3008) : (u.put Reg.BOOT_STAT_WATCH_PEND 0 false).reg a = s.reg a :=
    (u.reg_put_other Reg.BOOT_STAT_WATCH_PEND 0 false ha).trans (hu.reg a)
  have hps : (u.put Reg.BOOT_STAT_WATCH_PEND 0 false).strands = s.strands := (State.put_strands ..).trans hu.strands
  have hpa : (u.put Reg.BOOT_STAT_WATCH_PEND 0 false).acc = .ok := (State.put_acc ..).trans hu.acc
  generalize u.put Reg.BOOT_STAT_WATCH_PEND 0 false = p at hex hp hpr hps hpa
  have he := p.enter_enters (new := 8) (by decide) (by decide)
  generalize p.enter 8 = e at hex he
  obtain ⟨hh, hstop⟩ := e.held_holdAll
  have hoff (i : StrandId) (hs : s.sstate i = 1 ∨ s.sstate i = 2) (hr : (s.strand i).restartRun = false) : e.holdAll.on Reg.STRAND_CTRL_RUN i = false := by
    have hstate : e.sstate i = s.sstate i := by
      have hb : 0xA020 ≤ Reg.STRAND_STAT_STATE.addr i.val ∧ Reg.STRAND_STAT_STATE.addr i.val < 0xB020 := by
        have := i.isLt
        simp only [Field.addr, Reg.STRAND_STAT_STATE]
        omega
      exact (he.rd Reg.STRAND_STAT_STATE i (.inr (by omega)) ⟨by omega, by omega, by omega⟩).trans (State.rd_of_reg (hpr (by omega)))
    refine State.holdAll_off i (by rw [he.mode]; decide) (by rw [hstate]; exact hs) ?_
    rw [State.strand_of_strands (he.strands.trans hps) i]
    exact hr
  generalize e.holdAll = v at hex hh hstop hoff
  refine ⟨_, hex, hh.acc.trans (he.acc.trans hpa), hh.mode.trans he.mode, ?_, hstop, hoff⟩
  exact ((State.on_of_rd (hh.stat Reg.BOOT_STAT_WATCH_PEND rfl (by decide))).trans
    (State.on_of_rd (he.rd Reg.BOOT_STAT_WATCH_PEND 0 (by decide) (by decide)))).trans hp

theorem bootCmdHold_unwatches (ho : s.overruled 13 = false) (h8 : s.mode = 8) (hp : s.on Reg.BOOT_STAT_WATCH_PEND 0 = true) :
    ∃ t, exec (.bootCmdHold src) s = .next t ∧ t.mode = 8 ∧ t.on Reg.BOOT_STAT_WATCH_PEND 0 = false ∧ (∀ a, a ≠ 0x3008 → t.reg a = s.reg a) ∧ RegsOnly s t := by
  have hu := s.asked_begins 0x3004
  have hex := exec_bootCmdHold_eq src hm h9
  generalize s.asked 0x3004 = u at hu hex
  unfold State.cmdHold at hex
  dsimp only at hex
  rw [hu.overruled, ho, hu.mode, hu.on, hp, h8, if_neg Bool.false_ne_true, if_neg (by decide), if_pos (by decide)] at hex
  obtain ⟨hon, hr, hro, hmode, -⟩ := hu.put (f := Reg.BOOT_STAT_WATCH_PEND) rfl (by decide) false src
  generalize (u.put Reg.BOOT_STAT_WATCH_PEND 0 false).noteWrite src 0x3004 = t at hex hon hr hro hmode
  exact ⟨_, hex, hmode.trans h8, hon, hr, hro⟩

theorem bootCmdHold_rejected (ho : s.overruled 13 = false) (h6 : s.mode ≠ 6) (h8 : s.mode ≠ 8 ∨ s.on Reg.BOOT_STAT_WATCH_PEND 0 = false) :
    Rejected (.bootCmdHold src) s := by
  have hu := s.asked_begins 0x3004
  have hex := exec_bootCmdHold_eq src hm h9
  generalize s.asked 0x3004 = u at hu hex
  unfold State.cmdHold at hex
  dsimp only at hex
  rw [hu.overruled, ho, hu.mode, hu.on, if_neg Bool.false_ne_true, if_neg h6, if_neg (by
    rw [Bool.and_eq_true, decide_eq_true_iff]
    rintro ⟨h, hp⟩
    exact h8.elim (fun hn => hn h) fun hn => absurd (hn.symm.trans hp) (by decide))] at hex
  exact hu.rejected hex

/-! ### RESUME (R396, R398, R400) -/

theorem bootCmdResume_overruled (ho : s.overruled 14 = true) : Discarded (.bootCmdResume src) s := by
  have hu := s.asked_begins 0x3004
  have hex := exec_bootCmdResume_eq src hm h9
  generalize s.asked 0x3004 = u at hu hex
  rw [State.cmdResume, hu.overruled, if_pos ho] at hex
  exact hu.discarded hex

theorem bootCmdResume_resumes (ho : s.overruled 14 = false) (h : s.mode = 8 ∨ (s.mode = 6 ∧ s.on Reg.BOOT_STAT_WATCH_PEND 0 = true)) :
    ∃ t, exec (.bootCmdResume src) s = .next t ∧ t.acc = .ok ∧ t.mode = 6 ∧ t.on Reg.BOOT_STAT_WATCH_PEND 0 = false ∧ t.reg 0x3030 = 0 ∧ t.reg 0x3034 = 0 := by
  have hu := s.asked_begins 0x3004
  have hex := exec_bootCmdResume_eq src hm h9
  generalize s.asked 0x3004 = u at hu hex
  rw [State.cmdResume, hu.overruled, ho, hu.mode, hu.on, if_neg Bool.false_ne_true, if_pos (by
    rw [Bool.or_eq_true, Bool.and_eq_true, decide_eq_true_iff, decide_eq_true_iff]
    exact h), State.resume] at hex
  have hp := u.on_put_same Reg.BOOT_STAT_WATCH_PEND 0 false (by decide)
  have hpa : (u.put Reg.BOOT_STAT_WATCH_PEND 0 false).acc = .ok := (State.put_acc ..).trans hu.acc
  generalize u.put Reg.BOOT_STAT_WATCH_PEND 0 false = p at hex hp hpa
  obtain ⟨e1, -, e3, -, e5⟩ := p.enterRunning_enters
  generalize p.enterRunning = e at hex e1 e3 e5
  obtain ⟨r1, r2, r3, r4, -, r6⟩ := e.resumeAll_resumes
  generalize e.resumeAll = v at hex r1 r2 r3 r4 r6
  refine ⟨_, hex, r4.trans (e3.trans hpa), (State.rd_of_reg (r1 _ ⟨by decide, by decide, by decide⟩ (by decide) (by decide))).trans e1, ?_, r2, r3⟩
  exact ((State.on_of_rd (r6 Reg.BOOT_STAT_WATCH_PEND rfl (by decide))).trans (State.on_of_rd (e5 Reg.BOOT_STAT_WATCH_PEND rfl (by decide)))).trans hp

theorem bootCmdResume_wakes (ho : s.overruled 14 = false) (h7 : s.mode = 7) (hw : s.boot.waking = false) :
    ∃ t, exec (.bootCmdResume src) s = .next t ∧ t.mode = 7 ∧ t.boot.waking = true ∧ t.rd Reg.BOOT_STAT_WCAUSE 0 = 2 := by
  have hu := s.asked_begins 0x3004
  have hex := exec_bootCmdResume_eq src hm h9
  generalize s.asked 0x3004 = u at hu hex
  rw [State.cmdResume, hu.overruled, ho, hu.mode, h7, if_neg Bool.false_ne_true, if_neg (by simp), if_pos rfl] at hex
  obtain ⟨h1, h2, h3⟩ := State.wakeBy_wakes (s := u) (cause := 2) (by decide) (hu.mode.trans h7) (by rw [hu.boot]; exact hw)
  generalize u.wakeBy 2 = v at hex h1 h2 h3
  exact ⟨_, hex, h1, h2, h3⟩

theorem bootCmdResume_rejected (ho : s.overruled 14 = false) (h : s.mode < 6 ∨ (s.mode = 6 ∧ s.on Reg.BOOT_STAT_WATCH_PEND 0 = false)) :
    Rejected (.bootCmdResume src) s := by
  have hu := s.asked_begins 0x3004
  have hex := exec_bootCmdResume_eq src hm h9
  generalize s.asked 0x3004 = u at hu hex
  rw [State.cmdResume, hu.overruled, ho, hu.mode, hu.on, if_neg Bool.false_ne_true, if_neg (by
    rw [Bool.or_eq_true, Bool.and_eq_true, decide_eq_true_iff, decide_eq_true_iff]
    rintro (h8 | ⟨h6, hp⟩)
    · omega
    · obtain h | ⟨-, h⟩ := h
      · omega
      · exact absurd (h.symm.trans hp) (by decide)), if_neg (by omega)] at hex
  exact hu.rejected hex

/-! ### WATCH (R398) -/

theorem bootCmdWatch_overruled (ho : s.overruled 15 = true) : Discarded (.bootCmdWatch src) s := by
  have hu := s.asked_begins 0x3004
  have hex := exec_bootCmdWatch_eq src hm h9
  generalize s.asked 0x3004 = u at hu hex
  rw [State.cmdWatch, hu.overruled, if_pos ho] at hex
  exact hu.discarded hex

theorem bootCmdWatch_pends (ho : s.overruled 15 = false) (h : s.mode = 6 ∨ s.mode = 8) :
    ∃ t, exec (.bootCmdWatch src) s = .next t ∧ t.acc = .ok ∧ t.mode = s.mode ∧ t.on Reg.BOOT_STAT_WATCH_PEND 0 = true := by
  have hu := s.asked_begins 0x3004
  have hex := exec_bootCmdWatch_eq src hm h9
  generalize s.asked 0x3004 = u at hu hex
  rw [State.cmdWatch, hu.overruled, ho, hu.mode, if_neg Bool.false_ne_true, if_pos (by
    rw [Bool.or_eq_true, decide_eq_true_iff, decide_eq_true_iff]
    exact h)] at hex
  have hp := u.on_put_same Reg.BOOT_STAT_WATCH_PEND 0 true (by decide)
  have hpa : (u.put Reg.BOOT_STAT_WATCH_PEND 0 true).acc = .ok := (State.put_acc ..).trans hu.acc
  have hpm : (u.put Reg.BOOT_STAT_WATCH_PEND 0 true).mode = s.mode := (u.rd_wr_addr Reg.BOOT_STAT_WATCH_PEND Reg.BOOT_STATE_STATE 0 0 _ (by decide)).trans hu.mode
  generalize u.put Reg.BOOT_STAT_WATCH_PEND 0 true = p at hex hp hpa hpm
  obtain ⟨hh, -⟩ := p.held_holdAll
  generalize p.holdAll = v at hex hh
  exact ⟨_, hex, hh.acc.trans hpa, hh.mode.trans hpm, (State.on_of_rd (hh.stat Reg.BOOT_STAT_WATCH_PEND rfl (by decide))).trans hp⟩

theorem bootCmdWatch_rejected (ho : s.overruled 15 = false) (h6 : s.mode ≠ 6) (h8 : s.mode ≠ 8) : Rejected (.bootCmdWatch src) s := by
  have hu := s.asked_begins 0x3004
  have hex := exec_bootCmdWatch_eq src hm h9
  generalize s.asked 0x3004 = u at hu hex
  rw [State.cmdWatch, hu.overruled, ho, hu.mode, if_neg Bool.false_ne_true, if_neg (by
    rw [Bool.or_eq_true, decide_eq_true_iff, decide_eq_true_iff]
    exact fun h => h.elim h6 h8)] at hex
  exact hu.rejected hex

end

end Sys2Proof.Machine
end
-- ==== Sys2Proof/Proofs/WatchStates.lean ====
section
/-! Entry to WATCH and its end (R398 to R401). -/

namespace Sys2Proof.Machine

/-! ### Power states of the channels (R80, R82) -/

/-- The registers below the measuring islands' channels. -/
def belowChannels (a : Nat) : Prop := a < 0x10000 ∧ outsideLog a

section
variable {keep : Nat → Prop} {s t : State}

theorem State.Steps.setPc {c : Nat} {x : PcRt} (h : s.Steps keep t) : s.Steps keep (t.setPc c x) := h.same rfl rfl rfl rfl rfl rfl rfl
theorem State.Steps.setCore {c : Nat} {x : CoreRt} (h : s.Steps keep t) : s.Steps keep (t.setCore c x) := h.same rfl rfl rfl rfl rfl rfl rfl

theorem State.Steps.put_above {B : Nat} {f : Field} {i v : Nat} (hk : ∀ a, keep a → a < B) (hf : B ≤ f.base) (h : s.Steps keep t) : s.Steps keep (t.wr f i v) :=
  h.wr fun ha => absurd (hk _ ha) (by unfold Field.addr; omega)

theorem State.Steps.repower {ch : Nat} (hk : ∀ a, keep a → a < 0x10000) (h : s.Steps keep t) : s.Steps keep (t.repower ch) := by
  have hw {v : Nat} {b : Bool} : s.Steps keep ((t.wr Reg.FC_STAT_PSTATE ch v).put Reg.FC_STAT_READY ch b) :=
    (h.put_above hk (by decide)).put_above hk (by decide)
  exact .ite h (.ite (.put_above hk (by decide) hw.setChan.setChan) hw.setChan)

end

theorem State.pstate_monWait (s : State) {ch : Nat} (hc : ch < 192) : (s.monWait ch).rd Reg.FC_STAT_PSTATE ch = s.rd Reg.FC_STAT_PSTATE ch := by
  have hset (x : ChanRt) : (s.setChan ch x).rd Reg.FC_STAT_PSTATE ch = s.rd Reg.FC_STAT_PSTATE ch := rfl
  unfold State.monWait
  refine (State.rd_wr_addr _ Reg.WMON_STAT_INIT Reg.FC_STAT_PSTATE ch ch _ ?_).trans (hset _)
  simp only [Field.addr, Reg.WMON_STAT_INIT, Reg.FC_STAT_PSTATE]; omega

/-- Repowering a channel gives it the power state it is to have. -/
theorem State.repower_pstate (s : State) {ch : Nat} (hc : ch < 192) (hp : s.powerTarget ch < 4) : (s.repower ch).rd Reg.FC_STAT_PSTATE ch = s.powerTarget ch := by
  unfold State.repower
  dsimp only
  split
  case isTrue h => exact h
  case isFalse =>
    have h1 : (s.wr Reg.FC_STAT_PSTATE ch (s.powerTarget ch)).rd Reg.FC_STAT_PSTATE ch = s.powerTarget ch :=
      (s.rd_wr_same Reg.FC_STAT_PSTATE ch (s.powerTarget ch) (by decide)).trans (Nat.mod_eq_of_lt (show s.powerTarget ch < 2 ^ 2 by omega))
    generalize s.wr Reg.FC_STAT_PSTATE ch (s.powerTarget ch) = u at h1 ⊢
    have h2 : (u.put Reg.FC_STAT_READY ch false).rd Reg.FC_STAT_PSTATE ch = u.rd Reg.FC_STAT_PSTATE ch :=
      u.rd_wr_apart Reg.FC_STAT_READY Reg.FC_STAT_PSTATE ch ch _ (by decide) (by decide)
    generalize u.put Reg.FC_STAT_READY ch false = v at h2 ⊢
    have h3 (x : ChanRt) : (v.setChan ch x).rd Reg.FC_STAT_PSTATE ch = s.powerTarget ch := h2.trans h1
    have pick {c : Prop} [Decidable c] {a b : State} (ha : a.rd Reg.FC_STAT_PSTATE ch = s.powerTarget ch) (hb : b.rd Reg.FC_STAT_PSTATE ch = s.powerTarget ch) :
        (if c then a else b).rd Reg.FC_STAT_PSTATE ch = s.powerTarget ch := by
      split
      · exact ha
      · exact hb
    exact pick ((State.pstate_monWait _ hc).trans (h3 _)) (h3 _)

/-- Repowering another channel leaves it. -/
theorem State.repower_pstate_other (s : State) {ch c : Nat} (hc : c < 192) (hn : c ≠ ch) :
    (s.repower ch).rd Reg.FC_STAT_PSTATE c = s.rd Reg.FC_STAT_PSTATE c := by
  have hk : s.Steps (fun a => a = Reg.FC_STAT_PSTATE.addr c) (s.repower ch) := by
    have hne (f : Field) (h : f.base = 0x1000C ∧ f.stride = 0x40) : ¬ f.addr ch = Reg.FC_STAT_PSTATE.addr c := by
      rw [Field.addr, h.1, h.2]
      simp only [Field.addr, Reg.FC_STAT_PSTATE]
      omega
    have hw {v : Nat} {b : Bool} : s.Steps (fun a => a = Reg.FC_STAT_PSTATE.addr c) ((s.wr Reg.FC_STAT_PSTATE ch v).put Reg.FC_STAT_READY ch b) :=
      State.Steps.put (State.Steps.wr (.refl _ s) (hne Reg.FC_STAT_PSTATE ⟨rfl, rfl⟩)) (hne Reg.FC_STAT_READY ⟨rfl, rfl⟩)
    have hmon : ¬ Reg.WMON_STAT_INIT.addr ch = Reg.FC_STAT_PSTATE.addr c := by simp only [Field.addr, Reg.WMON_STAT_INIT, Reg.FC_STAT_PSTATE]; omega
    exact .ite (.refl _ s) (.ite (hw.setChan.setChan.put hmon) hw.setChan)
  exact State.rd_of_reg (hk.reg _ rfl)

theorem State.powerTarget_lt (s : State) (ch : Nat) : s.powerTarget ch < 4 := by
  unfold State.powerTarget
  dsimp only
  split_ifs <;> omega

theorem State.powerTarget_inWatch {s : State} (h : s.inWatch = true) (ch : Nat) : s.powerTarget ch = 0 := by
  unfold State.powerTarget
  dsimp only
  rw [if_pos h]

/-! ### Entry to WATCH (R398, R399) -/

theorem State.inWatch_of_reg {s t : State} (h : ∀ a, belowChannels a → t.reg a = s.reg a) : t.inWatch = s.inWatch := by
  have hm : t.mode = s.mode := State.rd_of_reg (h _ ⟨by decide, by decide⟩)
  have hw : t.on Reg.BOOT_STAT_WAKE_PEND 0 = s.on Reg.BOOT_STAT_WAKE_PEND 0 := State.on_of_reg (h _ ⟨by decide, by decide⟩)
  unfold State.inWatch
  rw [hm, hw]

/-- The channels in WATCH. -/
def State.watchChannels (s : State) : State := s.each (List.range 192) fun ch s => (s.repower ch).monWatch ch

theorem State.reg_monWatch (s : State) (ch a : Nat) : (s.monWatch ch).reg a = s.reg a := by
  unfold State.monWatch
  split <;> rfl

theorem State.Steps.monWatch {keep : Nat → Prop} {s t : State} {ch : Nat} (h : s.Steps keep t) : s.Steps keep (t.monWatch ch) := .ite h h.setChan

theorem State.watchChannels_off (s : State) : s.Steps belowChannels s.watchChannels
    ∧ (s.inWatch = true → ∀ ch : ChanId, s.watchChannels.rd Reg.FC_STAT_PSTATE ch = 0) := by
  have hstep (ch : Nat) (t : State) : t.Steps belowChannels ((t.repower ch).monWatch ch) := .monWatch (.repower (fun _ h => h.1) (.refl _ t))
  refine ⟨(State.Steps.refl _ s).each fun ch _ t => hstep ch t, fun hw ch => ?_⟩
  have hq (c : Nat) (t : State) (h : t.inWatch = true) : ((t.repower c).monWatch c).inWatch = true :=
    (State.inWatch_of_reg (hstep c t).reg).trans h
  have hoff (t : State) (h : t.inWatch = true) : ((t.repower ch).monWatch ch).rd Reg.FC_STAT_PSTATE ch = 0 := by
    rw [State.rd_of_reg ((t.repower ch).reg_monWatch ch _), t.repower_pstate ch.isLt (t.powerTarget_lt ch), State.powerTarget_inWatch h]
  refine (State.each_brings (P := fun t => t.rd Reg.FC_STAT_PSTATE ch = 0 ∧ t.inWatch = true) (Q := fun t => t.inWatch = true) (List.mem_range.2 ch.isLt)
    (fun c _ t => hq c t) (fun c _ t ht => ⟨?_, hq c t ht.2⟩) (fun t ht => ⟨hoff t ht, hq _ t ht⟩) hw).1
  by_cases hc : ch.val = c
  · rw [← hc]
    exact hoff t ht.2
  · rw [State.rd_of_reg ((t.repower c).reg_monWatch c _), t.repower_pstate_other ch.isLt hc]
    exact ht.1

/-- The ports in WATCH. -/
def State.watchPorts (s : State) : State := s.each (List.range 16) fun p s => (s.setPort p { s.port p with gate := [] }).wr Reg.PRB_SETNOW_SET p 0

theorem State.watchPorts_zero (s : State) : s.Steps (fun a => a < 0x8000 ∨ 0x10000 ≤ a) s.watchPorts ∧ ∀ p : PortId, s.watchPorts.rd Reg.PRB_SETNOW_SET p = 0 := by
  unfold State.watchPorts
  refine ⟨(State.Steps.refl _ s).each fun p hp t => ((State.Steps.refl _ t).setPort).wr ?_, fun p => ?_⟩
  · have := List.mem_range.1 hp
    simp only [Field.addr, Reg.PRB_SETNOW_SET]
    omega
  · have hz (t : State) (q : Nat) (x : PortRt) : ((t.setPort q x).wr Reg.PRB_SETNOW_SET q 0).rd Reg.PRB_SETNOW_SET q = 0 :=
      (t.setPort q x).rd_wr_same Reg.PRB_SETNOW_SET q 0 (by decide)
    have hset (t : State) (q : Nat) (x : PortRt) : (t.setPort q x).rd Reg.PRB_SETNOW_SET p = t.rd Reg.PRB_SETNOW_SET p := rfl
    refine State.each_brings (P := fun t => t.rd Reg.PRB_SETNOW_SET p = 0) (Q := fun _ => True) (List.mem_range.2 p.isLt) (fun _ _ _ _ => trivial)
      (fun q _ t ht => ?_) (fun t _ => ?_) trivial
    rotate_left
    · exact hz t p _
    by_cases hq : p.val = q
    · rw [← hq]
      exact hz t p _
    · refine (State.rd_wr_addr _ Reg.PRB_SETNOW_SET Reg.PRB_SETNOW_SET q p 0 ?_).trans ((hset t q _).trans ht)
      simp only [Field.addr, Reg.PRB_SETNOW_SET]; omega

theorem State.pcStopAll_stops (s : State) : s.Steps (fun a => a < 0x20000) s.pcStopAll ∧ ∀ c : PcId, s.pcStopAll.on Reg.PC_FSTAT_EXC_ON c = false := by
  unfold State.pcStopAll
  refine ⟨(State.Steps.refl _ s).each fun c _ t => (State.Steps.refl _ t).put_above (fun _ h => h) (by decide), fun c => ?_⟩
  refine State.each_brings (P := fun t => t.on Reg.PC_FSTAT_EXC_ON c = false) (Q := fun _ => True) (List.mem_range.2 c.isLt) (fun _ _ _ _ => trivial)
    (fun d _ t ht => ?_) (fun t _ => ?_) trivial
  rotate_left
  · exact t.on_put_same Reg.PC_FSTAT_EXC_ON c false (by decide)
  by_cases hd : c.val = d
  · rw [← hd]
    exact t.on_put_same Reg.PC_FSTAT_EXC_ON c false (by decide)
  · refine (State.on_of_reg (t.reg_put_other Reg.PC_FSTAT_EXC_ON d false ?_)).trans ht
    simp only [Field.addr, Reg.PC_FSTAT_EXC_ON]; omega

theorem State.watchEntry_eq {s : State} (h : ((s.mode = 6 || s.mode = 8) && s.on Reg.BOOT_STAT_WATCH_PEND 0 && s.drained && !s.overruled 15) = true) :
    execWatchEntry s = .next ((((((s.enter 7).put Reg.BOOT_STAT_WATCH_PEND 0 false).wr Reg.BOOT_STAT_WCAUSE 0 0).watchChannels.watchPorts).pcStopAll).governed 15) :=
  congrArg Host.Outcome.next (if_pos h)

theorem watchEntry_enters {s : State} (hm : s.mode = 6 ∨ s.mode = 8) (hp : s.on Reg.BOOT_STAT_WATCH_PEND 0 = true) (hd : s.drained = true)
    (ho : s.overruled 15 = false) : ∃ t, exec .watchEntry s = .next t ∧ t.mode = 7 ∧ t.on Reg.BOOT_STAT_WATCH_PEND 0 = false ∧ t.rd Reg.BOOT_STAT_WCAUSE 0 = 0
      ∧ (s.on Reg.BOOT_STAT_WAKE_PEND 0 = false → ∀ ch : ChanId, t.rd Reg.FC_STAT_PSTATE ch = 0) ∧ (∀ p : PortId, t.rd Reg.PRB_SETNOW_SET p = 0)
      ∧ ∀ c : PcId, t.on Reg.PC_FSTAT_EXC_ON c = false := by
  have hex : exec .watchEntry s = _ := State.watchEntry_eq (by
    rw [hp, hd, ho, Bool.and_true, Bool.and_true, Bool.not_false, Bool.and_true, Bool.or_eq_true, decide_eq_true_iff, decide_eq_true_iff]
    exact hm)
  have he := s.enter_enters (new := 7) (by decide) (by decide)
  have hewake := State.on_of_rd (he.rd Reg.BOOT_STAT_WAKE_PEND 0 (by decide) (by decide))
  have hem := he.mode
  generalize s.enter 7 = e at hex hewake hem
  have hu1 := e.on_put_same Reg.BOOT_STAT_WATCH_PEND 0 false (by decide)
  have hu2 : (e.put Reg.BOOT_STAT_WATCH_PEND 0 false).on Reg.BOOT_STAT_WAKE_PEND 0 = e.on Reg.BOOT_STAT_WAKE_PEND 0 :=
    e.on_put_apart Reg.BOOT_STAT_WATCH_PEND Reg.BOOT_STAT_WAKE_PEND 0 0 false (by decide) (by decide)
  have hu3 : (e.put Reg.BOOT_STAT_WATCH_PEND 0 false).mode = e.mode := e.rd_wr_addr Reg.BOOT_STAT_WATCH_PEND Reg.BOOT_STATE_STATE 0 0 _ (by decide)
  generalize e.put Reg.BOOT_STAT_WATCH_PEND 0 false = u at hex hu1 hu2 hu3
  have hv1 : (u.wr Reg.BOOT_STAT_WCAUSE 0 0).on Reg.BOOT_STAT_WATCH_PEND 0 = u.on Reg.BOOT_STAT_WATCH_PEND 0 :=
    State.on_of_rd (u.rd_wr_apart Reg.BOOT_STAT_WCAUSE Reg.BOOT_STAT_WATCH_PEND 0 0 0 (by decide) (by decide))
  have hv2 : (u.wr Reg.BOOT_STAT_WCAUSE 0 0).on Reg.BOOT_STAT_WAKE_PEND 0 = u.on Reg.BOOT_STAT_WAKE_PEND 0 :=
    State.on_of_rd (u.rd_wr_apart Reg.BOOT_STAT_WCAUSE Reg.BOOT_STAT_WAKE_PEND 0 0 0 (by decide) (by decide))
  have hv3 : (u.wr Reg.BOOT_STAT_WCAUSE 0 0).mode = u.mode := u.rd_wr_addr Reg.BOOT_STAT_WCAUSE Reg.BOOT_STATE_STATE 0 0 _ (by decide)
  have hv4 : (u.wr Reg.BOOT_STAT_WCAUSE 0 0).rd Reg.BOOT_STAT_WCAUSE 0 = 0 := u.rd_wr_same Reg.BOOT_STAT_WCAUSE 0 0 (by decide)
  generalize u.wr Reg.BOOT_STAT_WCAUSE 0 0 = v at hex hv1 hv2 hv3 hv4
  obtain ⟨hc1, hc2⟩ := v.watchChannels_off
  generalize v.watchChannels = w at hex hc1 hc2
  obtain ⟨hp1, hp2⟩ := w.watchPorts_zero
  generalize w.watchPorts = x at hex hp1 hp2
  obtain ⟨hs1, hs2⟩ := x.pcStopAll_stops
  generalize x.pcStopAll = y at hex hs1 hs2
  have hlow {a : Nat} (h1 : a < 0x8000) (h2 : outsideLog a) : y.reg a = v.reg a :=
    (hs1.reg a (by omega)).trans ((hp1.reg a (.inl h1)).trans (hc1.reg a ⟨by omega, h2⟩))
  have hmode : v.mode = 7 := hv3.trans (hu3.trans hem)
  refine ⟨_, hex, (State.rd_of_reg (hlow (by decide) (by decide))).trans hmode, (State.on_of_reg (hlow (by decide) (by decide))).trans (hv1.trans hu1),
    (State.rd_of_reg (hlow (by decide) (by decide))).trans hv4, fun hwake ch => ?_, fun p => ?_, hs2⟩
  · have hin : v.inWatch = true := by
      unfold State.inWatch
      rw [hmode, hv2, hu2, hewake, hwake]
      rfl
    have hb : 0x10000 ≤ Reg.FC_STAT_PSTATE.addr ch.val ∧ Reg.FC_STAT_PSTATE.addr ch.val < 0x20000 := by
      have := ch.isLt
      simp only [Field.addr, Reg.FC_STAT_PSTATE]
      omega
    exact ((State.rd_of_reg (hs1.reg _ hb.2)).trans (State.rd_of_reg (hp1.reg _ (.inr hb.1)))).trans (hc2 hin ch)
  · refine (State.rd_of_reg (hs1.reg _ ?_)).trans (hp2 p)
    have := p.isLt
    simp only [Field.addr, Reg.PRB_SETNOW_SET]; omega

theorem watchEntry_waits {s : State} (h : s.drained = false ∨ s.overruled 15 = true ∨ s.on Reg.BOOT_STAT_WATCH_PEND 0 = false ∨ (s.mode ≠ 6 ∧ s.mode ≠ 8)) :
    exec .watchEntry s = .next s := by
  refine congrArg Host.Outcome.next (if_neg ?_)
  rw [Bool.and_eq_true, Bool.and_eq_true, Bool.and_eq_true, Bool.or_eq_true, decide_eq_true_iff, decide_eq_true_iff, Bool.not_eq_true']
  rintro ⟨⟨⟨hm, hp⟩, hd⟩, ho⟩
  obtain h | h | h | ⟨h6, h8⟩ := h
  · exact absurd (h.symm.trans hd) (by decide)
  · exact absurd (ho.symm.trans h) (by decide)
  · exact absurd (h.symm.trans hp) (by decide)
  · exact hm.elim h6 h8

/-! ### The end of WATCH (R400, R401) -/

theorem watchTimerExpiry_wakes {s : State} (h7 : s.mode = 7) (hw : s.boot.waking = false) (ht : s.rd Reg.BOOT_WTIMER_SEC 0 ≠ 0) :
    ∃ t, exec .watchTimerExpiry s = .next t ∧ t.boot.waking = true ∧ t.rd Reg.BOOT_STAT_WCAUSE 0 = 3 ∧ t.mode = 7 := by
  obtain ⟨h1, h2, h3⟩ := State.wakeBy_wakes (s := s) (cause := 3) (by decide) h7 hw
  exact ⟨_, congrArg Host.Outcome.next (if_neg ht), h2, h3, h1⟩

theorem watchTimerExpiry_waits {s : State} (h : s.mode ≠ 7 ∨ (s.boot.waking = true ∧ s.rd Reg.BOOT_STAT_WCAUSE 0 ≤ 3) ∨ s.rd Reg.BOOT_WTIMER_SEC 0 = 0) :
    exec .watchTimerExpiry s = .next s := by
  refine congrArg Host.Outcome.next ?_
  split
  · rfl
  case isFalse hn =>
    unfold State.wakeBy
    obtain h | ⟨hw, hc⟩ | h := h
    · rw [if_pos (bne_iff_ne.2 h)]
    · rw [hw]
      split
      · rfl
      · rw [if_neg (by decide), if_neg]
        rw [Bool.and_eq_true, decide_eq_true_iff, decide_eq_true_iff]
        omega
    · exact absurd h hn

/-- The registers outside the channels' and the precision channels'. -/
def besideChannels (a : Nat) : Prop := a < 0x10000 ∨ 0x30000 ≤ a

theorem State.chanWake_steps (s : State) {ch : Nat} (hc : ch < 192) : s.Steps besideChannels (s.chanWake ch) := by
  have hout {f : Field} (h1 : 0x10000 ≤ f.base) (h2 : f.base < 0x20000) (h3 : f.stride ≤ 0x40) : ¬ besideChannels (f.addr ch) := by
    have := Nat.mul_le_mul h3 (Nat.le_of_lt hc)
    unfold besideChannels Field.addr
    omega
  have hw {v : Nat} {b : Bool} : s.Steps besideChannels ((s.wr Reg.FC_STAT_PSTATE ch v).put Reg.FC_STAT_READY ch b) :=
    State.Steps.put (State.Steps.wr (.refl _ s) (hout (f := Reg.FC_STAT_PSTATE) (by decide) (by decide) (by decide)))
      (hout (f := Reg.FC_STAT_READY) (by decide) (by decide) (by decide))
  exact .ite (.put hw.setChan.setChan (hout (f := Reg.WMON_STAT_INIT) (by decide) (by decide) (by decide))) hw.setChan

theorem State.pcResumeAll_steps (s : State) : s.Steps besideChannels s.pcResumeAll := by
  refine (State.Steps.refl _ s).each fun c hc t => ?_
  have hout {f : Field} (h1 : 0x10000 ≤ f.base) (h2 : f.base < 0x28000) (h3 : f.stride ≤ 0x80) : ¬ besideChannels (f.addr c) := by
    have := Nat.mul_le_mul h3 (Nat.le_of_lt (List.mem_range.1 hc))
    unfold besideChannels Field.addr
    omega
  exact State.Steps.put (State.Steps.put (State.Steps.refl _ t).setPc (hout (f := Reg.PC_BSTAT_DISCARD) (by decide) (by decide) (by decide)))
    (hout (f := Reg.PC_FSTAT_EXC_ON) (by decide) (by decide) (by decide))

/-- The islands are ungated (Table 16.9). -/
theorem State.ungate_ungates (s : State) : let t := s.ungate
    (∀ a, besideChannels a → a ≠ 0x3008 → t.reg a = s.reg a) ∧ t.boot = s.boot ∧ t.on Reg.BOOT_STAT_WAKE_PEND 0 = true := by
  dsimp only
  unfold State.ungate
  split
  case isTrue h => exact ⟨fun _ _ _ => rfl, rfl, h⟩
  case isFalse =>
    have hon := s.on_put_same Reg.BOOT_STAT_WAKE_PEND 0 true (by decide)
    have hr {a : Nat} (ha : a ≠ 0x3008) : (s.put Reg.BOOT_STAT_WAKE_PEND 0 true).reg a = s.reg a := s.reg_put_other Reg.BOOT_STAT_WAKE_PEND 0 true ha
    have hb : (s.put Reg.BOOT_STAT_WAKE_PEND 0 true).boot = s.boot := State.put_boot ..
    generalize s.put Reg.BOOT_STAT_WAKE_PEND 0 true = u at hon hr hb ⊢
    have hc : u.Steps besideChannels (u.each (List.range 192) fun ch s => s.chanWake ch) :=
      (State.Steps.refl _ u).each fun ch hch t => t.chanWake_steps (List.mem_range.1 hch)
    generalize u.each (List.range 192) (fun ch s => s.chanWake ch) = v at hc ⊢
    have hv := hc.trans v.pcResumeAll_steps
    generalize v.pcResumeAll = w at hv ⊢
    exact ⟨fun a h1 h2 => (hv.reg a h1).trans (hr h2), hv.boot.trans hb, (State.on_of_reg (f := Reg.BOOT_STAT_WAKE_PEND) (hv.reg _ (.inl (by decide)))).trans hon⟩

/-- The lanyard is not locked on a ring. -/
def State.unlocked (s : State) : Prop := s.on Reg.HAWSER_CTRL_EN 0 = true ∧ s.on Reg.LANYARD_STAT_LOCKED 0 = false

/-- What WAKE_COMPLETE does once the islands are ungated. -/
def State.wokenUp (s : State) : State :=
  ((({ s with boot := { s.boot with waking := false } } : State).put Reg.BOOT_STAT_WAKE_PEND 0 false).enterRunning.each (List.range 16) fun p s =>
    s.setPort p { s.port p with lastLaunch := none, idleFrom := s.tick }).resumeAll

theorem State.wakeComplete_eq {s : State} (h7 : s.mode = 7) (hw : s.boot.waking = true) :
    exec .wakeComplete s = .next (if s.ungate.on Reg.HAWSER_CTRL_EN 0 && !s.ungate.on Reg.LANYARD_STAT_LOCKED 0 then s.ungate else s.ungate.wokenUp) :=
  congrArg Host.Outcome.next (if_neg (by rw [h7, hw]; decide))

theorem State.unlocked_ungate {s u : State} (h : ∀ a, besideChannels a → a ≠ 0x3008 → u.reg a = s.reg a) :
    (u.on Reg.HAWSER_CTRL_EN 0 && !u.on Reg.LANYARD_STAT_LOCKED 0) = true ↔ s.unlocked := by
  rw [State.on_of_reg (f := Reg.HAWSER_CTRL_EN) (i := 0) (h _ (.inr (by decide)) (by decide)),
    State.on_of_reg (f := Reg.LANYARD_STAT_LOCKED) (i := 0) (h _ (.inl (by decide)) (by decide)), Bool.and_eq_true, Bool.not_eq_true']
  rfl

theorem wakeComplete_waits {s : State} (h7 : s.mode = 7) (hw : s.boot.waking = true) (hl : s.unlocked) :
    ∃ t, exec .wakeComplete s = .next t ∧ t.mode = 7 ∧ t.on Reg.BOOT_STAT_WAKE_PEND 0 = true := by
  have hex := State.wakeComplete_eq h7 hw
  obtain ⟨hr, -, hon⟩ := s.ungate_ungates
  generalize s.ungate = u at hex hr hon
  rw [if_pos ((State.unlocked_ungate hr).2 hl)] at hex
  exact ⟨_, hex, (State.rd_of_reg (hr _ (.inl (by decide)) (by decide))).trans h7, hon⟩

theorem State.wokenUp_runs (s : State) : let t := s.wokenUp
    t.mode = 6 ∧ t.boot.waking = false ∧ t.on Reg.BOOT_STAT_WAKE_PEND 0 = false := by
  dsimp only
  unfold State.wokenUp
  have hw : (({ s with boot := { s.boot with waking := false } } : State)).boot.waking = false := rfl
  generalize ({ s with boot := { s.boot with waking := false } } : State) = u at hw ⊢
  have hon := u.on_put_same Reg.BOOT_STAT_WAKE_PEND 0 false (by decide)
  have hb : (u.put Reg.BOOT_STAT_WAKE_PEND 0 false).boot = u.boot := State.put_boot ..
  generalize u.put Reg.BOOT_STAT_WAKE_PEND 0 false = v at hon hb ⊢
  obtain ⟨e1, -, -, e4, e5⟩ := v.enterRunning_enters
  generalize v.enterRunning = e at e1 e4 e5 ⊢
  have hp : e.Steps (fun _ => True) (e.each (List.range 16) fun p s => s.setPort p { s.port p with lastLaunch := none, idleFrom := s.tick }) :=
    (State.Steps.refl _ e).each fun p _ t => (State.Steps.refl _ t).setPort
  generalize e.each (List.range 16) (fun p s => s.setPort p { s.port p with lastLaunch := none, idleFrom := s.tick }) = w at hp ⊢
  obtain ⟨r1, -, -, -, r5, r6⟩ := w.resumeAll_resumes
  generalize w.resumeAll = x at r1 r5 r6 ⊢
  refine ⟨(State.rd_of_reg (r1 _ ⟨by decide, by decide, by decide⟩ (by decide) (by decide))).trans ((State.rd_of_reg (hp.reg _ trivial)).trans e1), ?_, ?_⟩
  · rw [r5, hp.boot, e4, hb]
    exact hw
  · exact (State.on_of_rd (r6 Reg.BOOT_STAT_WAKE_PEND rfl (by decide))).trans ((State.on_of_reg (hp.reg _ trivial)).trans
      ((State.on_of_rd (e5 Reg.BOOT_STAT_WAKE_PEND rfl (by decide))).trans hon))

theorem wakeComplete_runs {s : State} (h7 : s.mode = 7) (hw : s.boot.waking = true) (hl : ¬ s.unlocked) :
    ∃ t, exec .wakeComplete s = .next t ∧ t.mode = 6 ∧ t.boot.waking = false ∧ t.on Reg.BOOT_STAT_WAKE_PEND 0 = false := by
  have hex := State.wakeComplete_eq h7 hw
  obtain ⟨hr, -, -⟩ := s.ungate_ungates
  generalize s.ungate = u at hex hr
  rw [if_neg (mt (State.unlocked_ungate hr).1 hl)] at hex
  have h := u.wokenUp_runs
  generalize u.wokenUp = v at hex h
  exact ⟨_, hex, h⟩

theorem wakeComplete_idle {s : State} (h : s.mode ≠ 7 ∨ s.boot.waking = false) : exec .wakeComplete s = .next s := by
  refine congrArg Host.Outcome.next (if_pos ?_)
  rw [Bool.not_eq_true', Bool.and_eq_false_iff, decide_eq_false_iff_not]
  exact h

end Sys2Proof.Machine
end
-- ==== Sys2Proof/Proofs/BootStates.lean ====
section
/-! From BOOT to RUNNING (R174, R383 to R394), and the operating states together. -/

namespace Sys2Proof.Machine

/-! ### BOOT (R383) -/

section
variable {keep : Nat → Prop} {s t : State}

theorem State.Steps.dropInj {ch : Nat} (hk : ∀ a, keep a → a < 0x10000) (h : s.Steps keep t) : s.Steps keep (t.dropInj ch) :=
  .ite h (h.setChan.put_above hk (by decide))

theorem State.Steps.event {k : Nat} (hk : ∀ a, keep a → a < 0x10000) (h : s.Steps keep t) : s.Steps keep (t.event k) :=
  (h.put_above (f := Reg.HOSTLINK_EVT_PEND) hk (by decide)).same rfl rfl rfl rfl rfl rfl rfl

theorem State.Steps.status {r : StatusRec} (hk : ∀ a, keep a → a < 0x10000) (h : s.Steps keep t) : s.Steps keep (t.status r) :=
  .event hk (h.same rfl rfl rfl rfl rfl rfl rfl)

theorem State.Steps.loseJob {c : Nat} {j : Job} (hk : ∀ a, keep a → a < 0x10000) (h : s.Steps keep t) : s.Steps keep (t.loseJob c j) :=
  .status hk ((h.put_above (f := Reg.CORE_STAT_JOB_LOST) hk (by decide)).put_above hk (by decide))

theorem State.Steps.releaseAll {bs : List (Nat × Nat)} (hk : ∀ a, keep a → a < 0x10000) (h : s.Steps keep t) : s.Steps keep (t.releaseAll bs) := by
  refine h.each fun b _ v => .ite (.refl _ v) (.ite ?_ (.refl _ v))
  unfold State.setOwn
  exact .ite ((State.Steps.refl _ v).put_above hk (by decide)) ((State.Steps.refl _ v).put_above hk (by decide))

theorem State.Steps.dropJobs {c : Nat} (hk : ∀ a, keep a → a < 0x10000) (h : s.Steps keep t) : s.Steps keep (t.dropJobs c) :=
  .releaseAll hk (State.Steps.each (State.Steps.setCore h |>.put_above hk (by decide)) fun j _ v => .loseJob hk (.refl _ v))

theorem State.Steps.offCheck {c : Nat} (hk : ∀ a, keep a → a < 0x10000) (h : s.Steps keep t) : s.Steps keep (t.offCheck c) :=
  .ite (.dropJobs hk (h.put_above hk (by decide)).setCore) h

theorem State.Steps.coreEnable {c : Nat} (hk : ∀ a, keep a → a < 0x10000) (h : s.Steps keep t) : s.Steps keep (t.coreEnable c) :=
  .ite (.ite (.offCheck hk (h.setCore.put_above hk (by decide))) h) (.offCheck hk h)

end

/-- BOOT from its steps 4 to 6 on. -/
def State.booted (s : State) : State :=
  let s := s.each (List.range 16) fun p s => s.setPort p { s.port p with idleFrom := s.tick }
  let s := s.enter 4
  let s := s.each (List.range 192) fun ch s => s.repower ch
  let s := s.each (List.range 12) fun c s => s.coreEnable c
  let s := s.each (List.range 24) fun c s => s.icalStart c
  if s.needsRef && s.safety.refBad then s.source 1 else s

theorem State.icalStart_busy (s : State) : let t := s.each (List.range 24) fun c s => s.icalStart c
    s.Steps belowChannels t ∧ ∀ c : PcId, t.on Reg.PC_CSTAT_ICAL_BUSY c = true := by
  refine ⟨(State.Steps.refl _ s).each fun c _ t => (State.Steps.refl _ t).put_above (fun _ h => h.1) (by decide), fun c => ?_⟩
  refine State.each_brings (P := fun t => t.on Reg.PC_CSTAT_ICAL_BUSY c = true) (Q := fun _ => True) (List.mem_range.2 c.isLt) (fun _ _ _ _ => trivial)
    (fun d _ t ht => ?_) (fun t _ => ?_) trivial
  rotate_left
  · exact t.on_put_same Reg.PC_CSTAT_ICAL_BUSY c true (by decide)
  by_cases hd : c.val = d
  · rw [← hd]
    exact t.on_put_same Reg.PC_CSTAT_ICAL_BUSY c true (by decide)
  · refine (State.on_of_reg (t.reg_put_other Reg.PC_CSTAT_ICAL_BUSY d true ?_)).trans ht
    simp only [Field.addr, Reg.PC_CSTAT_ICAL_BUSY]; omega

theorem State.regs_ite_source (s : State) (k : Nat) (c : Prop) [Decidable c] : (if c then s.source k else s).regs = s.regs := by
  split <;> rfl

theorem State.booted_boots (s : State) : let t := s.booted
    t.mode = 4 ∧ t.rd Reg.BOOT_TIME_BOOT 0 = s.rd Reg.BOOT_TIME_BOOT 0 ∧ ∀ c : PcId, t.on Reg.PC_CSTAT_ICAL_BUSY c = true := by
  dsimp only
  unfold State.booted
  dsimp only
  have h1 : s.Steps belowChannels (s.each (List.range 16) fun p s => s.setPort p { s.port p with idleFrom := s.tick }) :=
    (State.Steps.refl _ s).each fun _ _ t => (State.Steps.refl _ t).setPort
  generalize s.each (List.range 16) (fun p s => s.setPort p { s.port p with idleFrom := s.tick }) = u at h1 ⊢
  have he := u.enter_enters (new := 4) (by decide) (by decide)
  generalize u.enter 4 = v at he ⊢
  have h2 : v.Steps belowChannels (v.each (List.range 192) fun ch s => s.repower ch) := (State.Steps.refl _ v).each fun _ _ t => .repower (fun _ h => h.1) (.refl _ t)
  generalize v.each (List.range 192) (fun ch s => s.repower ch) = w at h2 ⊢
  have h3 : w.Steps belowChannels (w.each (List.range 12) fun c s => s.coreEnable c) := (State.Steps.refl _ w).each fun _ _ t => .coreEnable (fun _ h => h.1) (.refl _ t)
  generalize w.each (List.range 12) (fun c s => s.coreEnable c) = x at h3 ⊢
  obtain ⟨h4, h5⟩ := x.icalStart_busy
  generalize x.each (List.range 24) (fun c s => s.icalStart c) = y at h4 h5 ⊢
  have h := h2.trans (h3.trans h4)
  have hz {z : State} (hz : z.regs = y.regs) : z.mode = 4 ∧ z.rd Reg.BOOT_TIME_BOOT 0 = s.rd Reg.BOOT_TIME_BOOT 0 ∧ ∀ c : PcId, z.on Reg.PC_CSTAT_ICAL_BUSY c = true := by
    have hr {a : Nat} (ha : belowChannels a) : z.reg a = v.reg a := (State.reg_of_regs hz a).trans (h.reg a ha)
    refine ⟨(State.rd_of_reg (hr ⟨by decide, by decide⟩)).trans he.mode, (State.rd_of_reg (hr ⟨by decide, by decide⟩)).trans ?_,
      fun c => (State.on_of_reg (State.reg_of_regs hz _)).trans (h5 c)⟩
    exact (he.rd Reg.BOOT_TIME_BOOT 0 (by decide) (by decide)).trans (State.rd_of_reg (h1.reg _ ⟨by decide, by decide⟩))
  exact hz (State.regs_ite_source y 1 _)

theorem bootComplete_tests {s : State} (x : Half) (hm : s.mode = 3) : ∃ t, exec (.bootComplete x) s = .next t ∧ t.mode = 4
    ∧ t.rd Reg.BOOT_TIME_BOOT 0 = x.toNat ∧ ∀ c : PcId, t.on Reg.PC_CSTAT_ICAL_BUSY c = true := by
  have hex : ∃ (u : State) (a b c : Nat), exec (.bootComplete x) s = .next (((u.wr Reg.BOOT_TIME_BOOT 0 x.toNat).logNow 1 0 a b c
      ((u.wr Reg.BOOT_TIME_BOOT 0 x.toNat).reg (Reg.BOOT_STAT_COPY.addr 0)).toNat).booted) :=
    ⟨((s.chooseCopy.2.applyImage s.chooseCopy.1).loadStores), _, _, _, congrArg Host.Outcome.next (if_neg (by rw [hm]; decide))⟩
  obtain ⟨u, a, b, c, hex⟩ := hex
  have ht : (u.wr Reg.BOOT_TIME_BOOT 0 x.toNat).rd Reg.BOOT_TIME_BOOT 0 = x.toNat :=
    (u.rd_wr_same Reg.BOOT_TIME_BOOT 0 x.toNat (by decide)).trans (Nat.mod_eq_of_lt x.isLt)
  generalize u.wr Reg.BOOT_TIME_BOOT 0 x.toNat = v at hex ht
  have hl := v.logged_logBy 0 1 0 a b c (v.reg (Reg.BOOT_STAT_COPY.addr 0)).toNat
  unfold State.logNow at hex
  generalize v.logBy 0 1 0 a b c (v.reg (Reg.BOOT_STAT_COPY.addr 0)).toNat = w at hex hl
  obtain ⟨h1, h2, h3⟩ := w.booted_boots
  generalize w.booted = y at hex h1 h2 h3
  exact ⟨_, hex, h1, h2.trans ((hl.rd Reg.BOOT_TIME_BOOT (by decide)).trans ht), h3⟩

/-! ### SELF_TEST (R389, R418) -/

/-- The results of the self-test are shown. -/
def State.tested (items : BitVec 5) (time : Half) (s : State) : State :=
  let s := (s.wr Reg.BOOT_STFAIL_ITEMS 0 items.toNat).wr Reg.BOOT_TIME_ST 0 time.toNat
  let s := s.logNow 4 0 items.toNat 0 0 0
  if items = 0 then s else s.source 0

/-- What leads from SELF_TEST to SAFE_STOP. -/
def State.faulted (items : BitVec 5) (s : State) : Bool := items != 0 || (List.range 16).any fun k => s.bit Reg.SAFETY_FAULT_F 0 k && s.stops k

/-- ARMED is entered. -/
def State.armed (s : State) : State :=
  let s := s.enter 5
  if s.bit Reg.BOOT_POLICY_P 0 1 then s.put Reg.BOOT_STAT_RUN_PEND 0 true else s

theorem State.selfTestEnd_eq {s : State} (b : BitVec 5) (x : Half) (hm : s.mode = 4) : exec (.selfTestEnd b x) s = .next (
    let t := s.tested b x
    if t.overruled 10 then t else if t.faulted b then t.enterSafeStop else t.armed) := congrArg Host.Outcome.next (if_neg (by rw [hm]; decide))

theorem State.faulted_iff (b : BitVec 5) (s : State) : s.faulted b = true ↔
    (b ≠ 0 ∨ ∃ k, k < 16 ∧ s.bit Reg.SAFETY_FAULT_F 0 k = true ∧ (k < 4 ∨ s.bit Reg.SAFETY_STOPEN_EN 0 (k - 4) = true)) := by
  unfold State.faulted
  rw [Bool.or_eq_true, bne_iff_ne, List.any_eq_true]
  refine or_congr_right ⟨fun ⟨k, hk, h⟩ => ?_, fun ⟨k, hk, hb, hs⟩ => ⟨k, List.mem_range.2 hk, ?_⟩⟩
  · rw [Bool.and_eq_true, State.stops_iff] at h
    exact ⟨k, List.mem_range.1 hk, h⟩
  · rw [Bool.and_eq_true, State.stops_iff]
    exact ⟨hb, hs⟩

theorem State.tested_shows (s : State) (b : BitVec 5) (x : Half) : let t := s.tested b x
    t.rd Reg.BOOT_STFAIL_ITEMS 0 = b.toNat ∧ t.rd Reg.BOOT_TIME_ST 0 = x.toNat ∧ (b ≠ 0 → (0, s.lany) ∈ t.safety.due) ∧ t.cause = s.cause
      ∧ ∀ a, outsideLog a → a ≠ 0x3028 → a ≠ 0x301C → t.reg a = s.reg a := by
  dsimp only
  unfold State.tested
  dsimp only
  have h1 : (s.wr Reg.BOOT_STFAIL_ITEMS 0 b.toNat).rd Reg.BOOT_STFAIL_ITEMS 0 = b.toNat :=
    (s.rd_wr_same Reg.BOOT_STFAIL_ITEMS 0 b.toNat (by decide)).trans (Nat.mod_eq_of_lt b.isLt)
  have h1o {a : Nat} (ha : a ≠ 0x3028) : (s.wr Reg.BOOT_STFAIL_ITEMS 0 b.toNat).reg a = s.reg a := s.reg_wr_other Reg.BOOT_STFAIL_ITEMS 0 _ ha
  have h1r : (s.wr Reg.BOOT_STFAIL_ITEMS 0 b.toNat).cause = s.cause ∧ (s.wr Reg.BOOT_STFAIL_ITEMS 0 b.toNat).lany = s.lany := ⟨State.wr_cause .., State.wr_lany ..⟩
  generalize s.wr Reg.BOOT_STFAIL_ITEMS 0 b.toNat = u at h1 h1o h1r ⊢
  have h2 : (u.wr Reg.BOOT_TIME_ST 0 x.toNat).rd Reg.BOOT_TIME_ST 0 = x.toNat :=
    (u.rd_wr_same Reg.BOOT_TIME_ST 0 x.toNat (by decide)).trans (Nat.mod_eq_of_lt x.isLt)
  have h2o {a : Nat} (ha : a ≠ 0x301C) : (u.wr Reg.BOOT_TIME_ST 0 x.toNat).reg a = u.reg a := u.reg_wr_other Reg.BOOT_TIME_ST 0 _ ha
  have h2r : (u.wr Reg.BOOT_TIME_ST 0 x.toNat).cause = u.cause ∧ (u.wr Reg.BOOT_TIME_ST 0 x.toNat).lany = u.lany := ⟨State.wr_cause .., State.wr_lany ..⟩
  generalize u.wr Reg.BOOT_TIME_ST 0 x.toNat = v at h2 h2o h2r ⊢
  have hl := v.logged_logBy 0 4 0 b.toNat 0 0 0
  unfold State.logNow
  have h3r : (v.logBy 0 4 0 b.toNat 0 0 0).cause = v.cause ∧ (v.logBy 0 4 0 b.toNat 0 0 0).lany = v.lany := by
    obtain ⟨_, _, _, _, _, hw, -⟩ := hl
    rw [hw]
    exact ⟨rfl, rfl⟩
  generalize v.logBy 0 4 0 b.toNat 0 0 0 = w at hl h3r ⊢
  have hitems : w.rd Reg.BOOT_STFAIL_ITEMS 0 = b.toNat := (hl.rd Reg.BOOT_STFAIL_ITEMS (by decide)).trans ((State.rd_of_reg (h2o (by decide))).trans h1)
  have htime := (hl.rd Reg.BOOT_TIME_ST (by decide)).trans h2
  have hcause := h3r.1.trans (h2r.1.trans h1r.1)
  have hreg (a : Nat) (h1 : outsideLog a) (h2 : a ≠ 0x3028) (h3 : a ≠ 0x301C) : w.reg a = s.reg a := (hl.reg h1).trans ((h2o h3).trans (h1o h2))
  split
  case isTrue hb => exact ⟨hitems, htime, fun h => absurd hb h, hcause, hreg⟩
  case isFalse hb =>
    refine ⟨hitems, htime, fun _ => ?_, hcause, hreg⟩
    rw [← h1r.2, ← h2r.2, ← h3r.2]
    exact List.mem_append_right _ (List.mem_singleton_self _)

theorem State.armed_arms (s : State) : let t := s.armed
    t.mode = 5 ∧ t.on Reg.BOOT_STAT_RUN_PEND 0 = (s.on Reg.BOOT_STAT_RUN_PEND 0 || s.bit Reg.BOOT_POLICY_P 0 1)
      ∧ t.rd Reg.BOOT_STFAIL_ITEMS 0 = s.rd Reg.BOOT_STFAIL_ITEMS 0 ∧ t.rd Reg.BOOT_TIME_ST 0 = s.rd Reg.BOOT_TIME_ST 0 ∧ t.safety.due = s.safety.due := by
  dsimp only
  unfold State.armed
  dsimp only
  have he := s.enter_enters (new := 5) (by decide) (by decide)
  have hpol : (s.enter 5).bit Reg.BOOT_POLICY_P 0 1 = s.bit Reg.BOOT_POLICY_P 0 1 := State.bit_of_rd (he.rd Reg.BOOT_POLICY_P 0 (by decide) (by decide)) 1
  have hpend : (s.enter 5).on Reg.BOOT_STAT_RUN_PEND 0 = s.on Reg.BOOT_STAT_RUN_PEND 0 := State.on_of_rd (he.rd Reg.BOOT_STAT_RUN_PEND 0 (by decide) (by decide))
  have hf := he.rd Reg.BOOT_STFAIL_ITEMS 0 (by decide) (by decide)
  have ht := he.rd Reg.BOOT_TIME_ST 0 (by decide) (by decide)
  have hm := he.mode
  have hd := he.due
  generalize s.enter 5 = u at hpol hpend hf ht hm hd ⊢
  rw [hpol, ← hf, ← ht, ← hd, ← hpend]
  by_cases hb : s.bit Reg.BOOT_POLICY_P 0 1 = true
  · rw [if_pos hb, hb, Bool.or_true]
    have ho {f : Field} (h : f.addr 0 ≠ 0x3008) : (u.put Reg.BOOT_STAT_RUN_PEND 0 true).rd f 0 = u.rd f 0 := State.rd_of_reg (u.reg_put_other Reg.BOOT_STAT_RUN_PEND 0 true h)
    exact ⟨(ho (by decide)).trans hm, u.on_put_same Reg.BOOT_STAT_RUN_PEND 0 true (by decide), ho (by decide), ho (by decide), congrArg _ (State.put_safety ..)⟩
  · rw [if_neg hb, Bool.eq_false_of_not_eq_true hb, Bool.or_false]
    exact ⟨hm, rfl, rfl, rfl, rfl⟩

theorem selfTestEnd_ends {s : State} (b : BitVec 5) (x : Half) (hm : s.mode = 4) :
    let stop : Prop := b ≠ 0 ∨ ∃ k, k < 16 ∧ s.bit Reg.SAFETY_FAULT_F 0 k = true ∧ (k < 4 ∨ s.bit Reg.SAFETY_STOPEN_EN 0 (k - 4) = true)
    ∃ t, exec (.selfTestEnd b x) s = .next t ∧ t.rd Reg.BOOT_STFAIL_ITEMS 0 = b.toNat ∧ t.rd Reg.BOOT_TIME_ST 0 = x.toNat
      ∧ (s.overruled 10 = false → stop → t.mode = 9)
      ∧ (s.overruled 10 = false → ¬ stop → t.mode = 5
          ∧ t.on Reg.BOOT_STAT_RUN_PEND 0 = (s.on Reg.BOOT_STAT_RUN_PEND 0 || s.bit Reg.BOOT_POLICY_P 0 1))
      ∧ (s.overruled 10 = true → t.mode = 4) ∧ (b ≠ 0 → (0, s.lany) ∈ t.safety.due) := by
  intro stop
  have hex := State.selfTestEnd_eq b x hm
  dsimp only at hex
  obtain ⟨h1, h2, h3, h4, h5⟩ := s.tested_shows b x
  generalize s.tested b x = u at hex h1 h2 h3 h4 h5
  have hr {f : Field} (ho : outsideLog (f.addr 0)) (ha : f.addr 0 ≠ 0x3028 ∧ f.addr 0 ≠ 0x301C) : u.rd f 0 = s.rd f 0 := State.rd_of_reg (h5 _ ho ha.1 ha.2)
  have hmode : u.mode = 4 := (hr (f := Reg.BOOT_STATE_STATE) (by decide) (by decide)).trans hm
  have hstop : u.faulted b = true ↔ stop := by
    rw [State.faulted_iff]
    have hf (k : Nat) : u.bit Reg.SAFETY_FAULT_F 0 k = s.bit Reg.SAFETY_FAULT_F 0 k := State.bit_of_rd (hr (f := Reg.SAFETY_FAULT_F) (by decide) (by decide)) k
    have he (k : Nat) : u.bit Reg.SAFETY_STOPEN_EN 0 k = s.bit Reg.SAFETY_STOPEN_EN 0 k := State.bit_of_rd (hr (f := Reg.SAFETY_STOPEN_EN) (by decide) (by decide)) k
    simp only [hf, he]
    exact Iff.rfl
  rw [State.overruled_of_cause h4] at hex
  by_cases ho : s.overruled 10 = true
  · rw [if_pos ho] at hex
    exact ⟨_, hex, h1, h2, fun h => absurd (h.symm.trans ho) (by decide), fun h => absurd (h.symm.trans ho) (by decide), fun _ => hmode, h3⟩
  · rw [if_neg ho] at hex
    by_cases hs : stop
    · rw [if_pos (hstop.2 hs)] at hex
      obtain ⟨g1, -, -, -, -, -, g7, g8⟩ := State.enterSafeStop_stops (s := u) (by omega) (by omega)
      generalize u.enterSafeStop = v at hex g1 g7 g8
      exact ⟨_, hex, (State.rd_of_reg (g7 _ (by decide) (by decide) (by decide))).trans h1, (State.rd_of_reg (g7 _ (by decide) (by decide) (by decide))).trans h2,
        fun _ _ => g1, fun _ h => absurd hs h, fun h => absurd h ho, fun h => g8 _ (h3 h)⟩
    · rw [if_neg (mt hstop.1 hs)] at hex
      obtain ⟨g1, g2, g3, g4, g5⟩ := u.armed_arms
      generalize u.armed = v at hex g1 g2 g3 g4 g5
      rw [State.on_of_rd (hr (f := Reg.BOOT_STAT_RUN_PEND) (by decide) (by decide)), State.bit_of_rd (hr (f := Reg.BOOT_POLICY_P) (by decide) (by decide))] at g2
      exact ⟨_, hex, g3.trans h1, g4.trans h2, fun _ h => absurd h hs, fun _ _ => ⟨g1, g2⟩, fun h => absurd h ho, fun h => by rw [g5]; exact h3 h⟩

/-! ### ARMED and the start calibration (R174, R390 to R394) -/

/-- ARMED may be left. -/
def State.leavesArmed (s : State) : Prop := s.mode = 5 ∧ s.boot.startCal = none ∧ s.on Reg.BOOT_STAT_RUN_PEND 0 = true ∧ s.on Reg.BOOT_STAT_NOIMAGE 0 = false
  ∧ (s.on Reg.BOOT_STAT_DIVERGED 0 = false ∨ s.on Reg.BOOT_STAT_DIV_ACK 0 = true ∨ s.bit Reg.BOOT_POLICY_P 0 0 = true)
  ∧ (∀ c, c < 24 → s.rd Reg.PC_CONN_TYPE c = 0 ∨ s.on Reg.PC_CSTAT_ICAL_BUSY c = false)
  ∧ s.on Reg.LANYARD_STAT_RUNNING 0 = true ∧ (s.on Reg.HAWSER_CTRL_EN 0 = false ∨ s.on Reg.LANYARD_STAT_LOCKED 0 = true)

theorem State.mayRun_iff (s : State) : s.mayRun = true ↔ s.leavesArmed := by
  unfold State.mayRun State.leavesArmed
  simp only [Bool.and_eq_true, Bool.or_eq_true, decide_eq_true_iff, Bool.not_eq_true', Option.isNone_iff_eq_none, List.all_eq_true, List.mem_range,
    and_assoc, or_assoc]

/-- A channel is brought ON for the start calibration. -/
def State.forced (ch : Nat) (s : State) : State :=
  (s.setChan ch { s.chan ch with forceOn := true, startTodo := List.range 13, startAgain := [],
                                 startRej := [0, 0, 0, 0, 0, 0, 0, 0, 0, 0, 0, 0, 0] }).repower ch

/-- The channels the start calibration takes. -/
def State.calChans (s : State) : List Nat := (List.range 192).filter fun ch => s.rd Reg.FC_CTRL_PWR ch != 2

theorem State.beginStartCal_eq (s : State) : s.beginStartCal =
    ({ s with boot := { s.boot with startCal := some ⟨s.tick, s.calChans, 1, List.range 13, none⟩ } } : State).each s.calChans fun ch s => s.forced ch := rfl

theorem State.forced_steps (s : State) {ch : Nat} (hc : ch < 192) :
    s.Steps (fun a => a < 0x10000 ∨ a < 0x13000 ∧ a % 64 = 0) (s.forced ch) := by
  unfold State.forced
  generalize ({ s.chan ch with forceOn := true, startTodo := List.range 13, startAgain := [], startRej := [0, 0, 0, 0, 0, 0, 0, 0, 0, 0, 0, 0, 0] } : ChanRt) = x
  have hx : s.Steps (fun a => a < 0x10000 ∨ a < 0x13000 ∧ a % 64 = 0) (s.setChan ch x) := (State.Steps.refl _ s).setChan
  generalize s.setChan ch x = u at hx ⊢
  have hw {v : Nat} {b : Bool} : s.Steps (fun a => a < 0x10000 ∨ a < 0x13000 ∧ a % 64 = 0) ((u.wr Reg.FC_STAT_PSTATE ch v).put Reg.FC_STAT_READY ch b) := by
    refine State.Steps.put (State.Steps.wr hx ?_) ?_
    · simp only [Field.addr, Reg.FC_STAT_PSTATE]; omega
    · simp only [Field.addr, Reg.FC_STAT_READY]; omega
  refine .ite hx (.ite (State.Steps.put hw.setChan.setChan ?_) hw.setChan)
  simp only [Field.addr, Reg.WMON_STAT_INIT]; omega

theorem State.forced_on {s : State} {ch : Nat} (hc : ch < 192) (hm : s.mode = 5) (hp : s.rd Reg.FC_CTRL_PWR ch ≠ 2) :
    (s.forced ch).rd Reg.FC_STAT_PSTATE ch = 3 := by
  unfold State.forced
  have hx (x : ChanRt) (h : x.forceOn = true) : (s.setChan ch x).powerTarget ch = 3 := by
    have hin : (s.setChan ch x).inWatch = false := by
      have : (s.setChan ch x).mode = 5 := hm
      unfold State.inWatch
      rw [this]
      rfl
    have hpwr : (s.setChan ch x).rd Reg.FC_CTRL_PWR ch ≠ 2 := hp
    unfold State.powerTarget
    dsimp only
    rw [hin, if_neg Bool.false_ne_true, if_neg hpwr, State.setChan_same, h, Bool.or_true, Bool.true_or, if_pos rfl]
  generalize hxe : ({ s.chan ch with forceOn := true, startTodo := List.range 13, startAgain := [], startRej := [0, 0, 0, 0, 0, 0, 0, 0, 0, 0, 0, 0, 0] } : ChanRt) = x
  have ht := hx x (by rw [← hxe])
  rw [State.repower_pstate _ hc (State.powerTarget_lt _ _), ht]

theorem State.forced_other {s : State} {ch c : Nat} (hc : c < 192) (hn : c ≠ ch) : (s.forced ch).rd Reg.FC_STAT_PSTATE c = s.rd Reg.FC_STAT_PSTATE c := by
  have hset (x : ChanRt) : (s.setChan ch x).rd Reg.FC_STAT_PSTATE c = s.rd Reg.FC_STAT_PSTATE c := rfl
  unfold State.forced
  exact (State.repower_pstate_other _ hc hn).trans (hset _)

theorem armedToRunning_begins {s : State} (h : s.leavesArmed) : ∃ t sc, exec .armedToRunning s = .next t ∧ t.mode = 5 ∧ t.boot.startCal = some sc ∧ sc.pass = 1
    ∧ sc.todo = List.range 13 ∧ ∀ ch, ch < 192 → s.rd Reg.FC_CTRL_PWR ch ≠ 2 → ch ∈ sc.chans ∧ t.rd Reg.FC_STAT_PSTATE ch = 3 := by
  have hex : exec .armedToRunning s = .next s.beginStartCal := congrArg Host.Outcome.next (if_pos (s.mayRun_iff.2 h))
  rw [State.beginStartCal_eq] at hex
  have hmem {ch : Nat} (hc : ch < 192) (hp : s.rd Reg.FC_CTRL_PWR ch ≠ 2) : ch ∈ s.calChans :=
    List.mem_filter.2 ⟨List.mem_range.2 hc, bne_iff_ne.2 hp⟩
  have hlt {ch : Nat} (hc : ch ∈ s.calChans) : ch < 192 := List.mem_range.1 (List.mem_filter.1 hc).1
  generalize s.calChans = l at hex hmem hlt
  generalize hu : ({ s with boot := { s.boot with startCal := some ⟨s.tick, l, 1, List.range 13, none⟩ } } : State) = u at hex
  have hcal : u.boot.startCal = some ⟨s.tick, l, 1, List.range 13, none⟩ := by rw [← hu]
  have hreg : u.regs = s.regs := by rw [← hu]
  have hm : u.mode = 5 := (State.rd_of_regs hreg _ _).trans h.1
  have hsteps (c : Nat) (hc : c ∈ l) (t : State) : t.Steps (fun a => a < 0x10000 ∨ a < 0x13000 ∧ a % 64 = 0) (t.forced c) := t.forced_steps (hlt hc)
  have hall : u.Steps (fun a => a < 0x10000 ∨ a < 0x13000 ∧ a % 64 = 0) (u.each l fun ch s => s.forced ch) := (State.Steps.refl _ u).each hsteps
  refine ⟨_, _, hex, (State.rd_of_reg (hall.reg _ (.inl (by decide)))).trans hm, (congrArg _ hall.boot).trans hcal, rfl, rfl, fun ch hc hp => ⟨hmem hc hp, ?_⟩⟩
  have hq (c : Nat) (hcl : c ∈ l) (t : State) (ht : t.mode = 5 ∧ t.rd Reg.FC_CTRL_PWR ch ≠ 2) :
      (t.forced c).mode = 5 ∧ (t.forced c).rd Reg.FC_CTRL_PWR ch ≠ 2 := by
    have hk := hsteps c hcl t
    have h1 : (t.forced c).mode = t.mode := State.rd_of_reg (hk.reg _ (.inl (by decide)))
    have h2 : (t.forced c).rd Reg.FC_CTRL_PWR ch = t.rd Reg.FC_CTRL_PWR ch :=
      State.rd_of_reg (hk.reg _ (.inr (by simp only [Field.addr, Reg.FC_CTRL_PWR]; omega)))
    rw [h1, h2]
    exact ht
  refine (State.each_brings (P := fun t => t.rd Reg.FC_STAT_PSTATE ch = 3 ∧ t.mode = 5 ∧ t.rd Reg.FC_CTRL_PWR ch ≠ 2)
    (Q := fun t => t.mode = 5 ∧ t.rd Reg.FC_CTRL_PWR ch ≠ 2) (hmem hc hp) hq (fun c hcl t ht => ⟨?_, hq c hcl t ht.2⟩)
    (fun t ht => ⟨State.forced_on hc ht.1 ht.2, hq ch (hmem hc hp) t ht⟩) ⟨hm, ?_⟩).1
  · by_cases hn : ch = c
    · rw [← hn]
      exact State.forced_on hc ht.2.1 ht.2.2
    · exact (State.forced_other hc hn).trans ht.1
  · rw [State.rd_of_regs hreg]
    exact hp

theorem armedToRunning_waits {s : State} (h : ¬ s.leavesArmed) : exec .armedToRunning s = .next s :=
  congrArg Host.Outcome.next (if_neg (mt s.mayRun_iff.1 h))

/-- The start calibration has ended. -/
def State.calibrated (s : State) : State := (s.dropStartCal).put Reg.GAPCAL_STAT_START_DONE 0 true

/-- RUNNING is entered for the first time. -/
def State.started (s : State) : State :=
  ((s.put Reg.BOOT_STAT_RUN_PEND 0 false).enterRunning).each (s.put Reg.BOOT_STAT_RUN_PEND 0 false).enterRunning.boot.start fun i s => s.runOn i

theorem State.startCalibrationEnd_eq {s : State} {sc : StartCal} (hs : s.boot.startCal = some sc) :
    exec .startCalibrationEnd s = .next (if sc.pass < 4 || s.mode != 5 || s.overruled 12 then s else s.calibrated.started) := by
  rw [exec_startCalibrationEnd, execStartCalibrationEnd, hs]
  rfl

theorem State.dropStartCal_drops {s : State} {sc : StartCal} (hs : s.boot.startCal = some sc) : s.dropStartCal.boot.startCal = none := by
  unfold State.dropStartCal
  rw [hs]
  dsimp only
  generalize hu : ({ s with boot := { s.boot with startCal := none } } : State) = u
  have hn : u.boot.startCal = none := by rw [← hu]
  have hk : u.Steps belowChannels (u.each sc.chans fun ch s => ((s.setChan ch { s.chan ch with run := none, forceOn := false }).dropInj ch).repower ch) :=
    (State.Steps.refl _ u).each fun ch _ t => .repower (fun _ h => h.1) (.dropInj (fun _ h => h.1) (State.Steps.refl _ t).setChan)
  exact (congrArg _ hk.boot).trans hn

theorem State.started_starts (s : State) : let t := s.started
    t.mode = 6 ∧ t.on Reg.BOOT_STAT_RUN_PEND 0 = false ∧ t.boot = s.boot ∧ t.reg 0x18010 = s.reg 0x18010 := by
  dsimp only
  unfold State.started
  have hon := s.on_put_same Reg.BOOT_STAT_RUN_PEND 0 false (by decide)
  have hr : (s.put Reg.BOOT_STAT_RUN_PEND 0 false).reg 0x18010 = s.reg 0x18010 := s.reg_put_other Reg.BOOT_STAT_RUN_PEND 0 false (by decide)
  have hb : (s.put Reg.BOOT_STAT_RUN_PEND 0 false).boot = s.boot := State.put_boot ..
  generalize s.put Reg.BOOT_STAT_RUN_PEND 0 false = u at hon hr hb ⊢
  obtain ⟨e1, -, -, e4, e5⟩ := u.enterRunning_enters
  have e6 := u.enterRunning_gapStat
  generalize u.enterRunning = v at e1 e4 e5 e6 ⊢
  generalize v.boot.start = l
  have hk (i : Nat) (t : State) : t.Strung True i (t.runOn i) := .runOn (fun _ => trivial) .refl
  have hlow : v.Steps lowReg (v.each l fun i t => t.runOn i) := (State.Steps.refl _ v).each fun i _ t => (hk i t).low
  have hstat : (v.each l fun i t => t.runOn i).rd Reg.BOOT_STAT_RUN_PEND 0 = v.rd Reg.BOOT_STAT_RUN_PEND 0 :=
    State.each_keeps (P := fun t => t.rd Reg.BOOT_STAT_RUN_PEND 0 = v.rd Reg.BOOT_STAT_RUN_PEND 0) (fun i _ t ht => ((hk i t).stat rfl (by decide)).trans ht) rfl
  have hgap : (v.each l fun i t => t.runOn i).reg 0x18010 = v.reg 0x18010 :=
    State.each_keeps (P := fun t => t.reg 0x18010 = v.reg 0x18010) (fun i _ t ht => (hk i t).gapStat.trans ht) rfl
  generalize v.each l (fun i t => t.runOn i) = w at hlow hstat hgap ⊢
  exact ⟨(State.rd_of_reg (hlow.reg _ ⟨by decide, by decide, by decide⟩)).trans e1,
    (State.on_of_rd hstat).trans ((State.on_of_rd (e5 Reg.BOOT_STAT_RUN_PEND rfl (by decide))).trans hon), hlow.boot.trans (e4.trans hb),
    hgap.trans (e6.trans hr)⟩

theorem startCalibrationEnd_starts {s : State} {sc : StartCal} (hs : s.boot.startCal = some sc) (hp : 4 ≤ sc.pass) (hm : s.mode = 5)
    (ho : s.overruled 12 = false) : ∃ t, exec .startCalibrationEnd s = .next t ∧ t.mode = 6 ∧ t.on Reg.GAPCAL_STAT_START_DONE 0 = true
      ∧ t.on Reg.BOOT_STAT_RUN_PEND 0 = false ∧ t.boot.startCal = none := by
  have hex := State.startCalibrationEnd_eq hs
  rw [if_neg (by rw [ho, hm]; simp; omega)] at hex
  have hn := State.dropStartCal_drops hs
  unfold State.calibrated at hex
  generalize s.dropStartCal = u at hex hn
  have hon := u.on_put_same Reg.GAPCAL_STAT_START_DONE 0 true (by decide)
  have hb : (u.put Reg.GAPCAL_STAT_START_DONE 0 true).boot = u.boot := State.put_boot ..
  generalize u.put Reg.GAPCAL_STAT_START_DONE 0 true = v at hex hon hb
  obtain ⟨h1, h2, h3, h4⟩ := v.started_starts
  generalize v.started = w at hex h1 h2 h3 h4
  exact ⟨_, hex, h1, (State.on_of_reg (f := Reg.GAPCAL_STAT_START_DONE) (i := 0) h4).trans hon, h2, by rw [h3, hb]; exact hn⟩

theorem startCalibrationEnd_waits {s : State} {sc : StartCal} (hs : s.boot.startCal = some sc) (h : sc.pass < 4 ∨ s.mode ≠ 5 ∨ s.overruled 12 = true) :
    exec .startCalibrationEnd s = .next s := by
  rw [State.startCalibrationEnd_eq hs, if_pos]
  rw [Bool.or_eq_true, Bool.or_eq_true, decide_eq_true_iff, bne_iff_ne, or_assoc]
  exact h

theorem startCalibrationEnd_none {s : State} (hs : s.boot.startCal = none) : exec .startCalibrationEnd s = .next s := by
  rw [exec_startCalibrationEnd, execStartCalibrationEnd, hs]

/-- Settles O53. -/
theorem operatingStates : Obligations.OperatingStates := by
  unfold Obligations.OperatingStates
  refine ⟨fun x s => ⟨bootComplete_tests x, fun h => ?_⟩, fun b x s => ⟨selfTestEnd_ends b x, fun h => ?_⟩,
    fun s => ⟨armedToRunning_begins, armedToRunning_waits⟩,
    fun s sc hs => ⟨startCalibrationEnd_starts hs, startCalibrationEnd_waits hs⟩, fun s => startCalibrationEnd_none, fun src s hm h9 => ?_,
    fun s => ⟨watchEntry_enters, watchEntry_waits⟩, fun s => ⟨watchTimerExpiry_wakes, watchTimerExpiry_waits⟩,
    fun s => ⟨wakeComplete_waits, wakeComplete_runs, wakeComplete_idle⟩⟩
  · exact congrArg Host.Outcome.next (if_pos (bne_iff_ne.2 h))
  · exact congrArg Host.Outcome.next (if_pos (bne_iff_ne.2 h))
  · exact ⟨bootCmdRun_taken src hm h9, bootCmdRun_rejected src hm h9, bootCmdHold_overruled src hm h9, bootCmdResume_overruled src hm h9,
      bootCmdWatch_overruled src hm h9, bootCmdHold_holds src hm h9, bootCmdHold_unwatches src hm h9, bootCmdHold_rejected src hm h9,
      bootCmdResume_resumes src hm h9, bootCmdResume_wakes src hm h9, bootCmdResume_rejected src hm h9, bootCmdWatch_pends src hm h9,
      bootCmdWatch_rejected src hm h9⟩

end Sys2Proof.Machine
end
-- ==== Sys2Proof/Proofs/SortedStores.lean ====
section
/-! The stores of a state stay in canonical form: the stores' own operations (R14, R87). -/

namespace Sys2Proof.Machine

/-- The stores of a state whose canonical form is kept. -/
def State.stores (s : State) := (s.regs, s.bins, s.qmap, s.metas, s.strands, s.ports, s.chans, s.quads, s.cores, s.pcs)

/-- Every store is in canonical form. -/
structure State.Sorted (s : State) : Prop where
  regs : s.regs.sorted = true
  bins : s.bins.sorted = true
  qmap : s.qmap.sorted = true
  metas : s.metas.sorted = true
  strands : s.strands.sorted = true
  ports : s.ports.sorted = true
  chans : s.chans.sorted = true
  quads : s.quads.sorted = true
  cores : s.cores.sorted = true
  pcs : s.pcs.sorted = true

theorem State.sorted_iff (s : State) : s.sortedStores = true ↔ s.Sorted := by
  unfold State.sortedStores
  simp only [Bool.and_eq_true, and_assoc]
  exact ⟨fun ⟨h1, h2, h3, h4, h5, h6, h7, h8, h9, h10⟩ => ⟨h1, h2, h3, h4, h5, h6, h7, h8, h9, h10⟩,
    fun ⟨h1, h2, h3, h4, h5, h6, h7, h8, h9, h10⟩ => ⟨h1, h2, h3, h4, h5, h6, h7, h8, h9, h10⟩⟩

/-- An outcome that goes on goes on with its stores in canonical form. -/
def OutcomeSorted : Host.Outcome State Fault Refusal → Prop
  | .next t => t.Sorted
  | .fault _ => True
  | .refused _ => True

section
variable {s t : State}

/-- Other fields of the state do not matter. -/
theorem State.Sorted.same (h : s.Sorted) (he : t.stores = s.stores) : t.Sorted := by
  unfold State.stores at he
  simp only [Prod.mk.injEq] at he
  obtain ⟨h1, h2, h3, h4, h5, h6, h7, h8, h9, h10⟩ := he
  obtain ⟨k1, k2, k3, k4, k5, k6, k7, k8, k9, k10⟩ := h
  exact ⟨by rw [h1]; exact k1, by rw [h2]; exact k2, by rw [h3]; exact k3, by rw [h4]; exact k4, by rw [h5]; exact k5, by rw [h6]; exact k6,
    by rw [h7]; exact k7, by rw [h8]; exact k8, by rw [h9]; exact k9, by rw [h10]; exact k10⟩

theorem State.Sorted.other
    {pending : List Instr} {free : Nat} {tick : Nat} {lany : Time} {before : SMap Word} {raised : SMap Word} {wrote : SMap Nat} {sub : Nat}
    {cause : Option Nat} {hold : List Hold} {acc : AccCode} {readVal : Word} {pipe : List Commit} {pcWas : SMap PcWas} {monq : List MonRec} {pcq
    : List PcRec} {log : LogSt} {mram : Mram} {otp : Otp} {lock : LockSt} {safety : SafetySt} {commit : Option Commit2} {lastCommit : Option
    Int} {boot : BootSt} {power : PowerSt} {link : LinkSt} {hawser : HawserSt}
    (h : s.Sorted) :
    State.Sorted
      { s with
      pending := pending, free := free, tick := tick, lany := lany, before := before, raised := raised, wrote := wrote, sub := sub, cause :=
      cause, hold := hold, acc := acc, readVal := readVal, pipe := pipe, pcWas := pcWas, monq := monq, pcq := pcq, log := log, mram := mram,
      otp := otp, lock := lock, safety := safety, commit := commit, lastCommit := lastCommit, boot := boot, power := power, link := link,
      hawser := hawser } := .same h rfl

theorem State.Sorted.setReg {a : Nat} {w : Word} (h : s.Sorted) : (s.setReg a w).Sorted := { h with regs := SMap.sorted_putD _ _ _ h.regs }
theorem State.Sorted.setStrand {i : Nat} {x : StrandRt} (h : s.Sorted) : (s.setStrand i x).Sorted := { h with strands := SMap.sorted_putD _ _ _ h.strands }
theorem State.Sorted.setPort {p : Nat} {x : PortRt} (h : s.Sorted) : (s.setPort p x).Sorted := { h with ports := SMap.sorted_putD _ _ _ h.ports }
theorem State.Sorted.setChan {ch : Nat} {x : ChanRt} (h : s.Sorted) : (s.setChan ch x).Sorted := { h with chans := SMap.sorted_putD _ _ _ h.chans }
theorem State.Sorted.setQuad {q : Nat} {x : QuadRt} (h : s.Sorted) : (s.setQuad q x).Sorted := { h with quads := SMap.sorted_putD _ _ _ h.quads }
theorem State.Sorted.setCore {c : Nat} {x : CoreRt} (h : s.Sorted) : (s.setCore c x).Sorted := { h with cores := SMap.sorted_putD _ _ _ h.cores }
theorem State.Sorted.setPc {c : Nat} {x : PcRt} (h : s.Sorted) : (s.setPc c x).Sorted := { h with pcs := SMap.sorted_putD _ _ _ h.pcs }
theorem State.Sorted.setBin {ch pl b : Nat} {v : Bin40} (h : s.Sorted) : (s.setBin ch pl b v).Sorted := { h with bins := SMap.sorted_put _ _ h.bins }
theorem State.Sorted.setQbyte {ch pl blk : Nat} {v : Byte} (h : s.Sorted) : (s.setQbyte ch pl blk v).Sorted := { h with qmap := SMap.sorted_put _ _ h.qmap }

theorem State.Sorted.putMeta {k : Nat} {m : Meta} (h : s.Sorted) : State.Sorted { s with metas := s.metas.put k m } :=
  { h with metas := SMap.sorted_put _ _ h.metas }

theorem State.Sorted.reset : State.reset.Sorted := ⟨rfl, rfl, rfl, rfl, rfl, rfl, rfl, rfl, rfl, rfl⟩

theorem State.Sorted.ite {c : Prop} [Decidable c] (hs : s.Sorted) (ht : t.Sorted) : (if c then s else t).Sorted := by
  split
  · exact hs
  · exact ht

/-- One branch of a test changes a state that is sorted already. -/
theorem State.Sorted.when {c : Prop} [Decidable c] (hs : s.Sorted) (ht : s.Sorted → t.Sorted) : (if c then t else s).Sorted := .ite (ht hs) hs
theorem State.Sorted.unless {c : Prop} [Decidable c] (hs : s.Sorted) (ht : s.Sorted → t.Sorted) : (if c then s else t).Sorted := .ite hs (ht hs)

theorem State.Sorted.foldl {α : Type} {f : State → α → State} {l : List α} (h : s.Sorted) (hf : ∀ x (v : State), v.Sorted → (f v x).Sorted) :
    (l.foldl f s).Sorted := by
  induction l generalizing s with
  | nil => exact h
  | cons x l ih => exact ih (hf x s h)

theorem State.Sorted.each {α : Type} {f : α → State → State} {l : List α} (h : s.Sorted) (hf : ∀ x (v : State), v.Sorted → (f x v).Sorted) :
    (s.each l f).Sorted := h.foldl fun x v hv => hf x v hv

/-- A test between two results whose state comes last. -/
theorem State.Sorted.ite_snd {α : Type} {c : Prop} [Decidable c] {a b : α × State} (ha : a.2.Sorted) (hb : b.2.Sorted) :
    (if c then a else b).2.Sorted := by
  split
  · exact ha
  · exact hb

theorem State.Sorted.ite_snd_snd {α β : Type} {c : Prop} [Decidable c] {a b : α × β × State} (ha : a.2.2.Sorted) (hb : b.2.2.Sorted) :
    (if c then a else b).2.2.Sorted := by
  split
  · exact ha
  · exact hb

/-- A fold that gathers something beside the state. -/
theorem State.Sorted.foldl_snd {α β : Type} {f : β × State → α → β × State} {l : List α} {b : β} (h : s.Sorted)
    (hf : ∀ x (v : β × State), v.2.Sorted → (f v x).2.Sorted) : (l.foldl f (b, s)).2.Sorted := by
  suffices ∀ v : β × State, v.2.Sorted → (l.foldl f v).2.Sorted from this (b, s) h
  induction l with
  | nil => exact fun v hv => hv
  | cons x l ih => exact fun v hv => ih _ (hf x v hv)

theorem State.Sorted.foldl_fst {α β : Type} {f : State × β → α → State × β} {l : List α} {b : β} (h : s.Sorted)
    (hf : ∀ x (v : State × β), v.1.Sorted → (f v x).1.Sorted) : (l.foldl f (s, b)).1.Sorted := by
  suffices ∀ v : State × β, v.1.Sorted → (l.foldl f v).1.Sorted from this (s, b) h
  induction l with
  | nil => exact fun v hv => hv
  | cons x l ih => exact fun v hv => ih _ (hf x v hv)

end

/-- An instruction that takes effect leaves its stores in canonical form. -/
def Did.Sorted : Did → Prop
  | .ok t _ => t.Sorted
  | .fault _ => True
  | .wait => True

section
variable {d e : Did}

theorem Did.Sorted.ok {t : State} {post : Option (Nat × Word)} (h : t.Sorted) : (Did.ok t post).Sorted := h
theorem Did.Sorted.fault {code : Nat} : (Did.fault code).Sorted := trivial
theorem Did.Sorted.wait : Did.wait.Sorted := trivial

theorem Did.Sorted.ite {c : Prop} [Decidable c] (hd : d.Sorted) (he : e.Sorted) : (if c then d else e).Sorted := by
  split
  · exact hd
  · exact he

end

section
variable {o p : Host.Outcome State Fault Refusal}

theorem OutcomeSorted.next {t : State} (h : t.Sorted) : OutcomeSorted (.next t) := h
theorem OutcomeSorted.refused {r : Refusal} : OutcomeSorted (.refused r) := trivial
theorem OutcomeSorted.fault {r : Fault} : OutcomeSorted (.fault r) := trivial

theorem OutcomeSorted.ite {c : Prop} [Decidable c] (ho : OutcomeSorted o) (hp : OutcomeSorted p) : OutcomeSorted (if c then o else p) := by
  split
  · exact ho
  · exact hp

end

end Sys2Proof.Machine
end
-- ==== Sys2Proof/Proofs/SortedA.lean ====
section
/-! What each operation of the model's files Ops to StartCal does keeps the stores in canonical form: one lemma per operation, composed
as its definition composes the operations below it. -/

namespace Sys2Proof.Machine

/-! ### Ops -/

theorem State.Sorted.wr {s : State} {f : Machine.Field} {i v : Nat} (h : s.Sorted) : (s.wr f i v).Sorted := .setReg h

theorem State.Sorted.put {s : State} {f : Machine.Field} {i : Nat} {b : Bool} (h : s.Sorted) : (s.put f i b).Sorted := .wr h

theorem State.Sorted.bump {s : State} {f : Machine.Field} {i n : Nat} (h : s.Sorted) : (s.bump f i n).Sorted := .wr h

theorem State.Sorted.count {s : State} {f : Machine.Field} {i n : Nat} (h : s.Sorted) : (s.count f i n).Sorted := .wr h

theorem State.Sorted.noteRaised {a : Nat} {m : Word} {s : State} (h : s.Sorted) : (s.noteRaised a m).Sorted := .other h

theorem State.Sorted.raise {s : State} {f : Machine.Field} {i : Nat} (h : s.Sorted) : (s.raise f i).Sorted := .noteRaised (.put h)

theorem State.Sorted.putBit {s : State} {f : Machine.Field} {i k : Nat} {b : Bool} (h : s.Sorted) : (s.putBit f i k b).Sorted := .wr h

theorem State.Sorted.raiseBit {s : State} {f : Machine.Field} {i k : Nat} (h : s.Sorted) : (s.raiseBit f i k).Sorted := .noteRaised (.putBit h)

theorem State.Sorted.setPair {s : State} {lo : Machine.Field} {i : Nat} {t : Time} (h : s.Sorted) : (s.setPair lo i t).Sorted := .setReg (.setReg h)

theorem State.Sorted.fresh {s : State} (h : s.Sorted) : s.fresh.2.Sorted := .other h

theorem State.Sorted.governed {rank : Nat} {s : State} (h : s.Sorted) : (s.governed rank).Sorted := .other h

/-! ### Report -/

theorem State.Sorted.driveEvt {s : State} (h : s.Sorted) : s.driveEvt.Sorted := .other h

theorem State.Sorted.event {k : Nat} {s : State} (h : s.Sorted) : (s.event k).Sorted := .driveEvt (.putBit h)

theorem State.Sorted.queueMsg {m : Msg} {s : State} (h : s.Sorted) : (s.queueMsg m).Sorted := .other h

theorem State.Sorted.emit {l : Line} {s : State} (h : s.Sorted) : (s.emit l).Sorted := .other h

theorem State.Sorted.status {r : StatusRec} {s : State} (h : s.Sorted) : (s.status r).Sorted := .event (.queueMsg h)

theorem State.Sorted.plainStatus {t : Time} {cause strand detail : Nat} {s : State} (h : s.Sorted) :
    (s.plainStatus t cause strand detail).Sorted :=
  .status h

theorem State.Sorted.log_ {code island : Nat} {set : Bool} {a0 a1 a2 a3 : Nat} {t : Time} {s : State} (h : s.Sorted) :
    (s.log_ code island set a0 a1 a2 a3 t).Sorted :=
  .ite (.wr (.other h)) (.raise (.bump (.other h)))

theorem State.Sorted.linkTime {s : State} (h : s.Sorted) : s.linkTime.2.Sorted := .ite_snd h (.other (.fresh h))

theorem State.Sorted.eventTime {island who : Nat} {s : State} (h : s.Sorted) : (s.eventTime island who).2.Sorted :=
  .ite_snd (.linkTime h) (.ite_snd h (.ite_snd h h))

theorem State.Sorted.logBy {who code island a0 a1 a2 a3 : Nat} {s : State} (h : s.Sorted) : (s.logBy who code island a0 a1 a2 a3).Sorted :=
  .log_ (.eventTime h)

theorem State.Sorted.logNow {code island a0 a1 a2 a3 : Nat} {s : State} (h : s.Sorted) : (s.logNow code island a0 a1 a2 a3).Sorted := .logBy h

theorem State.Sorted.freezeFlags {s : State} (h : s.Sorted) : s.freezeFlags.Sorted := .put (.put h)

theorem State.Sorted.askFreeze {cause : Nat} {s : State} (h : s.Sorted) : (s.askFreeze cause).Sorted := .freezeFlags (.other h)

theorem State.Sorted.goto {new : Nat} {s : State} (h : s.Sorted) : (s.goto new).Sorted := .unless (.wr h) .logNow

theorem State.Sorted.sourceAt {k : Nat} {t : Time} {s : State} (h : s.Sorted) : (s.sourceAt k t).Sorted := .other h

theorem State.Sorted.source {k : Nat} {s : State} (h : s.Sorted) : (s.source k).Sorted := .sourceAt h

/-! ### Fold -/

theorem State.Sorted.setSstate {i new : Nat} {s : State} (h : s.Sorted) : (s.setSstate i new).Sorted := .ite h (.logNow (.wr h))

theorem State.Sorted.takePlan {ch : Nat} {s : State} (h : s.Sorted) : (s.takePlan ch).Sorted := .when (.setChan h) .raise

theorem State.Sorted.mark {ch pl blk k : Nat} {s : State} (h : s.Sorted) : (s.mark ch pl blk k).Sorted := .setQbyte h

theorem State.Sorted.markBoth {ch pl blk k : Nat} {s : State} (h : s.Sorted) : (s.markBoth ch pl blk k).Sorted := .unless (.mark h) .mark

theorem State.Sorted.setOwn {ch pl v : Nat} {s : State} (h : s.Sorted) : (s.setOwn ch pl v).Sorted := .ite (.wr h) (.wr h)

theorem State.Sorted.release {ch pl : Nat} {s : State} (h : s.Sorted) : (s.release ch pl).Sorted := .ite (.setOwn h) h

theorem State.Sorted.foldCe {ch : Nat} {s : State} (h : s.Sorted) : (s.foldCe ch).Sorted := .bump (.bump h)

theorem State.Sorted.foldUe {ch pl blk : Nat} {isMeta : Bool} {kind : Nat} {s : State} (h : s.Sorted) :
    (s.foldUe ch pl blk isMeta kind).Sorted := by
  unfold State.foldUe
  dsimp only
  exact .unless
      (.logNow <| by
         split
         · exact .raise (.wr (.wr (.wr (.put (.raise (.bump (.bump h)))))))
         · exact .wr (.wr (.wr (.put (.raise (.bump (.bump h))))))) .source

theorem State.Sorted.eccMark {ch pl blk : Nat} {e : Ecc} {s : State} (h : s.Sorted) : (s.eccMark ch pl blk e).Sorted :=
  .ite (.markBoth h) (.ite (.markBoth h) h)

theorem State.Sorted.eccCount {ch pl blk : Nat} {isMeta : Bool} {e : Ecc} {s : State} (h : s.Sorted) :
    (s.eccCount ch pl blk isMeta e).Sorted :=
  .ite (.foldCe h) (.ite (.foldUe h) h)

theorem State.Sorted.readBin {ch pl b : Nat} {e : Ecc} {s : State} (h : s.Sorted) : (s.readBin ch pl b e).2.Sorted := .ite_snd h (.fresh h)

theorem State.Sorted.takeBin {ch pl from_ b : Nat} {e : Ecc} {s : State} (h : s.Sorted) : (s.takeBin ch pl from_ b e).2.Sorted :=
  .eccCount (.eccMark (.readBin h))

theorem State.Sorted.rangeCommit {ch : Nat} {fig : Option (Nat × Nat)} {ovl : Bool} {s : State} (h : s.Sorted) :
    (s.rangeCommit ch fig ovl).Sorted := by
  unfold State.rangeCommit
  dsimp only
  split
  · exact h
  · exact .setChan h

theorem State.Sorted.foldCommit {strand ch pl b : Nat} {x : Int} {old : OldKind} {leak : Option Nat} {ovl badFrame : Bool} {e : Ecc} {s : State}
    (h : s.Sorted) : (s.foldCommit strand ch pl b x old leak ovl badFrame e).Sorted := by
  unfold State.foldCommit
  dsimp only
  exact .setBin <| .when
      (.when
         (.ite
            (by
               split
               · exact h
               · exact .takeBin h
               · exact .takeBin h)
            (.raise <| .mark <| by
               split
               · exact h
               · exact .takeBin h
               · exact .takeBin h)) .mark)
      fun k => .foldUe (.mark k)

/-! ### Strand -/

theorem State.Sorted.driveSw {p v : Nat} {s : State} (h : s.Sorted) : (s.driveSw p v).Sorted := .wr (.setPort h)

theorem State.Sorted.portRetime {p : Nat} {s : State} (h : s.Sorted) : (s.portRetime p).Sorted := .ite h (.setPort h)

theorem State.Sorted.phaseRate {s : State} (h : s.Sorted) : s.phaseRate.Sorted := .when (.wr h) .raise

theorem State.Sorted.fixStart {i : Nat} {s : State} (h : s.Sorted) : (s.fixStart i).Sorted :=
  .unless (.setStrand h) fun k => .portRetime (.driveSw (.setPort k))

theorem State.Sorted.failStart {i code : Nat} {s : State} (h : s.Sorted) : (s.failStart i code).Sorted := .logNow (.put h)

theorem State.Sorted.monRelearn {p : Nat} {s : State} (h : s.Sorted) : (s.monRelearn p).Sorted := .setPort h

theorem State.Sorted.beginRun {i : Nat} {s : State} (h : s.Sorted) : (s.beginRun i).Sorted :=
  .when
    (.setSstate (.each (.put (.put (.wr (.wr (.wr (.setStrand (.monRelearn h))))))) fun _ _ => .setChan))
    fun k => .phaseRate (.wr (.put (.wr k)))

theorem State.Sorted.startRun {i : Nat} {s : State} (h : s.Sorted) : (s.startRun i).Sorted :=
  .ite (.failStart (.wr h)) (.ite (.failStart (.wr (.wr h))) (.when (.beginRun (.wr h)) .fixStart))

theorem State.Sorted.applyDeferred {ch : Nat} {s : State} (h : s.Sorted) : (s.applyDeferred ch).Sorted := .setChan h

theorem State.Sorted.portIdle {p : Nat} {s : State} (h : s.Sorted) : (s.portIdle p).Sorted := .setPort h

theorem State.Sorted.portRelease {p : Nat} {s : State} (h : s.Sorted) : (s.portRelease p).Sorted := .ite (.portIdle h) (.portRetime h)

theorem State.Sorted.stopped {i : Nat} {s : State} (h : s.Sorted) : (s.stopped i).Sorted :=
  .when
    (.when
       (.portRelease <| .when (.each (.setSstate (.put (.setStrand h))) fun _ _ => .applyDeferred) fun k => .phaseRate (.put (.put k))) .put)
    fun k => .startRun (.put k)

theorem State.Sorted.runOff {i : Nat} {s : State} (h : s.Sorted) : (s.runOff i).Sorted :=
  .ite (.stopped (.put h)) (.ite (.setSstate (.put h)) (.setStrand (.put h)))

theorem State.Sorted.runOn {i : Nat} {s : State} (h : s.Sorted) : (s.runOn i).Sorted :=
  .ite (.startRun (.put h)) (.ite (.setStrand (.put h)) (.when (.put h) .setSstate))

theorem State.Sorted.holdStrand {i : Nat} {s : State} (h : s.Sorted) : (s.holdStrand i).Sorted :=
  .ite (.when (.runOff (.ite (.putBit h) (.putBit h))) .setStrand) h

theorem State.Sorted.resumeStrand {i : Nat} {s : State} (h : s.Sorted) : (s.resumeStrand i).Sorted := .ite (.startRun (.put h)) (.setStrand (.put h))

theorem State.Sorted.resumeAll {s : State} (h : s.Sorted) : s.resumeAll.Sorted := .wr (.wr (.each h fun _ _ => .resumeStrand))

/-! ### Stack -/

theorem State.Sorted.runPipe {commit : Work → Nat → State → State} {pick : Commit → Bool} {s : State}
    (hc : ∀ w i (v : State), v.Sorted → (commit w i v).Sorted) (h : s.Sorted) : (s.runPipe commit pick).Sorted :=
  .foldl (.other h) fun c v => hc c.work c.strand v

theorem State.Sorted.chanStart {take : Bool} {ch : Nat} {s : State} (h : s.Sorted) : (s.chanStart take ch).Sorted := .setChan (.ite (.takePlan h) h)

theorem State.Sorted.mapCopy {i ch pl : Nat} {errs : List (Nat × Nat × Ecc)} {s : State} (h : s.Sorted) : (s.mapCopy i ch pl errs).Sorted :=
  .each h fun _ _ k => .each (.eccCount (.ite_snd k (.fresh k))) fun _ _ => .setQbyte

theorem State.Sorted.mapStart {i : Nat} {carry : Bool} {errs : List (Nat × Nat × Ecc)} {ch pl : Nat} {s : State} (h : s.Sorted) :
    (s.mapStart i carry errs ch pl).Sorted := by
  unfold State.mapStart
  dsimp only
  split
  · exact .each (.ite (.mapCopy h) (.each h fun _ _ => .setQbyte)) fun _ _ => .markBoth
  · exact .ite (.mapCopy h) (.each h fun _ _ => .setQbyte)

theorem State.Sorted.quadStart {i : Nat} {ref fresh : Bool} {s : State} (h : s.Sorted) : (s.quadStart i ref fresh).Sorted :=
  .setQuad (.when (.wr (.ite (.unless (.bump (.wr h)) .raise) h)) .raise)

theorem State.Sorted.startStack {i : Nat} {errs : List (Nat × Nat × Ecc)} {s : State} (h : s.Sorted) : (s.startStack i errs).Sorted :=
  .when
    (.setStrand <| .wr <| .wr <| .put (.put (.each (.each h fun _ _ => .chanStart) fun _ _ k => .each k fun _ _ k1 => .mapStart (.setOwn k1)))) .quadStart

theorem State.Sorted.writeHeaders {i : Nat} {k : Stack} {w pb : Nat} {aborted : Bool} {s : State} (h : s.Sorted) :
    (s.writeHeaders i k w pb aborted).Sorted :=
  .each h fun _ _ k => .each k fun _ _ => .putMeta

theorem State.Sorted.cutMarks {i : Nat} {k : Stack} {cut : Bool} {cutPlane pb got whole : Nat} {s : State} (h : s.Sorted) :
    (s.cutMarks i k cut cutPlane pb got whole).Sorted :=
  .each h
    fun _ _ k =>
      .each k fun _ _ k1 => .when (.ite (.markBoth k1) k1) fun k2 => .each k2 fun _ _ k3 => .ite k3 (.markBoth k3)

theorem State.Sorted.learn {i : Nat} {k : Stack} {s : State} (h : s.Sorted) : (s.learn i k).Sorted := .ite h (.setStrand h)

theorem State.Sorted.endStack {i : Nat} {k : Stack} {w : Nat} {s : State} (h : s.Sorted) : (s.endStack i k w).Sorted := .wr (.count (.setStrand h))

theorem State.Sorted.closeStack {i : Nat} {k : Stack} {s : State} (h : s.Sorted) : (s.closeStack i k).Sorted :=
  .endStack (.each (.learn (.writeHeaders h)) fun _ _ => .setChan)

theorem State.Sorted.cutStack {i : Nat} {k : Stack} {s : State} (h : s.Sorted) : (s.cutStack i k).Sorted := by
  unfold State.cutStack
  dsimp only
  split
  · exact .endStack (.writeHeaders (.other h))
  · exact .endStack (.writeHeaders (.cutMarks (.other h)))

/-! ### Phase -/

theorem State.Sorted.angle16 {re im : Int} {s : State} (h : s.Sorted) : (s.angle16 re im).2.Sorted := .ite_snd (.fresh h) (.fresh h)

theorem State.Sorted.writeRow {q pl pos nPos sBins : Nat} {eccX eccY : Ecc} {s : State} (h : s.Sorted) :
    (s.writeRow q pl pos nPos sBins eccX eccY).Sorted :=
  .when
    (.setQuad <| .setBin <| .ite
       (.raise <| .ite_snd h (.eccCount (.eccMark (.ite (.mark (.readBin h)) (.ite (.mark (.readBin h)) (.readBin h))))))
       (.ite_snd h (.eccCount (.eccMark (.ite (.mark (.readBin h)) (.ite (.mark (.readBin h)) (.readBin h)))))))
    fun k => .put (.count (.setQuad k))

theorem State.Sorted.phaseCommit {strand q pl b : Nat} {pp : Option (Int × Int)} {ref first : Bool} {ecc eccX eccY : Ecc} {s : State}
    (h : s.Sorted) : (s.phaseCommit strand q pl b pp ref first ecc eccX eccY).Sorted := by
  unfold State.phaseCommit
  dsimp only
  exact .when
      (.setBin <| .ite
         (.raise <| by
            split
            · exact .ite_snd_snd (.takeBin h) (.angle16 (.takeBin h))
            · exact .takeBin h)
         (by
            split
            · exact .ite_snd_snd (.takeBin h) (.angle16 (.takeBin h))
            · exact .takeBin h))
      fun k => .when (.setQuad k) .writeRow

theorem State.Sorted.powerCommit {strand q pl b add : Nat} {first : Bool} {ecc : Ecc} {s : State} (h : s.Sorted) :
    (s.powerCommit strand q pl b add first ecc).Sorted :=
  .setBin (.ite (.ite_snd h (.takeBin h)) (.raise (.mark (.ite_snd h (.takeBin h)))))

theorem State.Sorted.noteCommit {ch pl b : Nat} {ovl bad : Bool} {fig : Option (Nat × Nat)} {s : State} (h : s.Sorted) :
    (s.noteCommit ch pl b ovl bad fig).Sorted :=
  .when (.when (.rangeCommit h) .markBoth) fun k => .foldUe (.markBoth k)

theorem commitWork_sorted {w : Work} {strand : Nat} {s : State} (h : s.Sorted) : (commitWork w strand s).Sorted := by
  unfold commitWork
  split
  · exact .rangeCommit (.foldCommit h)
  · exact .phaseCommit h
  · exact .powerCommit h
  · exact .noteCommit h

theorem State.Sorted.commitsDue {t : Nat} {s : State} (h : s.Sorted) : (s.commitsDue t).Sorted := .runPipe (fun _ _ _ => commitWork_sorted) h

theorem State.Sorted.flush {i : Nat} {s : State} (h : s.Sorted) : (s.flush i).Sorted := .runPipe (fun _ _ _ => commitWork_sorted) h

/-! ### GapCal -/

theorem State.Sorted.splice {i : Nat} {starts : Bool} {ch : Nat} {s : State} (h : s.Sorted) : (s.splice i starts ch).Sorted := .ite h (.setChan h)

theorem State.Sorted.chanRun {first : Bool} {ch : Nat} {s : State} (h : s.Sorted) : (s.chanRun first ch).Sorted := .setChan h

theorem State.Sorted.gapStart {i : Nat} {first : Bool} {s : State} (h : s.Sorted) : (s.gapStart i first).Sorted :=
  .ite (.setStrand (.each h fun _ _ => .chanRun)) h

theorem State.Sorted.gapFirst {i : Nat} {s : State} (h : s.Sorted) : (s.gapFirst i).Sorted := by
  unfold State.gapFirst
  dsimp only
  split
  · exact h
  · exact .ite h (.gapStart (.setStrand h))

theorem State.Sorted.gapRepeat {i : Nat} {s : State} (h : s.Sorted) : (s.gapRepeat i).Sorted := by
  unfold State.gapRepeat
  dsimp only
  split
  · exact h
  · exact .ite h (.gapStart (.setStrand h))

theorem State.Sorted.skewOf {s : State} {i ch : Nat} {r : GapRun} {ix : Option GapRun} {ixOk : Bool} (h : s.Sorted) :
    (s.skewOf i ch r ix ixOk).2.Sorted := by
  unfold State.skewOf
  dsimp only
  exact .ite_snd h
      (by
         split
         · exact h
         · exact .fresh h)

theorem State.Sorted.calRejected {ch res code : Nat} {s : State} (h : s.Sorted) : (s.calRejected ch res code).Sorted := by
  unfold State.calRejected
  dsimp only
  split
  · exact .when (.logNow (.raise (.raise h))) .source
  · exact .logNow (.raise (.raise h))

theorem State.Sorted.gapNotQuiet {i ch : Nat} {s : State} (h : s.Sorted) : (s.gapNotQuiet i ch).Sorted :=
  .when (.logNow (.ite (.raiseBit (.raise h)) (.raiseBit (.raise h)))) .source

theorem State.Sorted.codeRejected {ch code : Nat} {s : State} (h : s.Sorted) : (s.codeRejected ch code).Sorted := by
  unfold State.codeRejected
  dsimp only
  exact .ite h
      (by
         split
         · exact .when (.logNow (.wr (.wr (.raise h)))) .source
         · exact .logNow (.wr (.wr (.raise h))))

theorem State.Sorted.runNotQuiet {i ch : Nat} {r : GapRun} {s : State} (h : s.Sorted) : (s.runNotQuiet i ch r).Sorted :=
  .when (.setChan (.wr (.wr (.wr h)))) .gapNotQuiet

theorem State.Sorted.runAccepted {ch : Nat} {r : GapRun} {v : Verdict} {s : State} (h : s.Sorted) : (s.runAccepted ch r v).Sorted :=
  .unless (.wr (.wr (.setChan h))) fun k => .wr (.wr k)

theorem State.Sorted.runRejected {ch : Nat} {r : GapRun} {v : Verdict} {s : State} (h : s.Sorted) : (s.runRejected ch r v).Sorted :=
  .unless (.when (.wr (.wr (.setChan h))) .raise) fun k => .when (.when (.wr (.wr k)) .calRejected) .codeRejected

theorem State.Sorted.setBows {ch : Nat} {r : GapRun} {v : Verdict} {s : State} (h : s.Sorted) : (s.setBows ch r v).Sorted := .ite (.setChan h) h

theorem State.Sorted.verdict {s : State} {i ch : Nat} {r : GapRun} {ix : Option GapRun} {ixOk : Bool} (h : s.Sorted) :
    (s.verdict i ch r ix ixOk).2.Sorted :=
  .skewOf h

theorem State.Sorted.commitRun {i ch : Nat} {ix : Option GapRun} {ixOk : Bool} {s : State} (h : s.Sorted) :
    (s.commitRun i ch ix ixOk).2.Sorted := by
  unfold State.commitRun
  dsimp only
  split
  · exact h
  · exact .ite_snd (.runNotQuiet h)
        (.ite_snd (.runAccepted (.setBows (.verdict h))) (.runRejected (.setBows (.verdict h))))

theorem State.Sorted.commitRuns {i : Nat} {l : List Nat} {ix : Option GapRun} {ixOk : Bool} {s : State} (h : s.Sorted) :
    (s.commitRuns i l ix ixOk).Sorted := by
  induction l generalizing ix ixOk s with
  | nil => exact h
  | cons ch l ih => exact .ite (ih (.commitRun h)) (ih (.commitRun h))

theorem State.Sorted.dropInj {ch : Nat} {s : State} (h : s.Sorted) : (s.dropInj ch).Sorted := .ite h (.put (.setChan h))

theorem State.Sorted.gapAbort {i : Nat} {s : State} (h : s.Sorted) : (s.gapAbort i).Sorted := by
  unfold State.gapAbort
  dsimp only
  exact .setStrand <| .each h
      fun _ _ k =>
        by
          split
          · exact .wr (.wr (.dropInj (.setChan k)))
          · exact k

theorem execQuietDecision_sorted {i : StrandId} {s : State} (h : s.Sorted) : OutcomeSorted (execQuietDecision i s) := by
  unfold execQuietDecision
  dsimp only
  exact .next <| by
      split
      · exact h
      · exact .ite h
            (.each h
               fun _ _ k =>
                 by
                   split
                   · exact .ite k (.setChan k)
                   · exact k)

theorem State.Sorted.gapCommit {i : Nat} {s : State} (h : s.Sorted) : (s.gapCommit i).Sorted := by
  unfold State.gapCommit
  dsimp only
  split
  · exact h
  · exact .ite h (.setStrand (.commitRuns (.each h fun _ _ => .dropInj)))

theorem execGapRunCommit_sorted {i : StrandId} {s : State} (h : s.Sorted) : OutcomeSorted (execGapRunCommit i s) := .next (.gapCommit h)

theorem execRepeatRunStart_sorted {i : StrandId} {s : State} (h : s.Sorted) : OutcomeSorted (execRepeatRunStart i s) := .next (.gapRepeat h)

theorem State.Sorted.badCrc {x : CopyHead} {s : State} (h : s.Sorted) : (s.badCrc x).2.Sorted := .fresh h

theorem State.Sorted.beginCommit {s : State} (h : s.Sorted) : s.beginCommit.Sorted := .put (.other h)

theorem State.Sorted.commitCmd {s : State} (h : s.Sorted) : s.commitCmd.Sorted := .ite (.beginCommit h) (.raise h)

theorem execAutoCommit_sorted {s : State} (h : s.Sorted) : OutcomeSorted (execAutoCommit s) := .next (.ite (.beginCommit h) h)

theorem State.Sorted.wroteCal {ok : Bool} {x : CalCopy} {s : State} (h : s.Sorted) : (s.wroteCal ok x).2.Sorted := .ite_snd h (.badCrc (x := x.head) h)

theorem State.Sorted.wrotePc {ok : Bool} {x : PcCopy} {s : State} (h : s.Sorted) : (s.wrotePc ok x).2.Sorted := .ite_snd h (.badCrc (x := x.head) h)

theorem execCommitAttemptEnd_sorted {ok0 ok1 pok0 pok1 : Bool} {s : State} (h : s.Sorted) :
    OutcomeSorted (execCommitAttemptEnd ok0 ok1 pok0 pok1 s) := by
  unfold execCommitAttemptEnd
  dsimp only
  exact .next <| by
      split
      · exact h
      · exact .ite
            (.other (.other (.wrotePc (.wrotePc (.wroteCal (.wroteCal h))))))
            (.logNow <| .unless (.setPair (.wr (.put (.other (.other (.wrotePc (.wrotePc (.wroteCal (.wroteCal h))))))))) .raise)

/-! ### Jobs -/

theorem State.Sorted.releaseAll {bs : List (Nat × Nat)} {s : State} (h : s.Sorted) : (s.releaseAll bs).Sorted :=
  .each h fun _ _ k => .ite k (.release k)

theorem State.Sorted.showJobs {c : Nat} {s : State} (h : s.Sorted) : (s.showJobs c).Sorted := .wr h

theorem State.Sorted.enqueue {c : Nat} {j : Job} {s : State} (h : s.Sorted) : (s.enqueue c j).Sorted := .showJobs (.setCore h)

theorem State.Sorted.loseJob {c : Nat} {j : Job} {s : State} (h : s.Sorted) : (s.loseJob c j).Sorted := .status (.bump (.put h))

theorem State.Sorted.dispatchJobs {i : Nat} {c : Closed} {s : State} (h : s.Sorted) : (s.dispatchJobs i c).Sorted :=
  .releaseAll <| .foldl_fst h fun cj v k => by
    dsimp only
    split
    · exact .enqueue k
    · exact .loseJob k

theorem execHandOver_sorted {i : StrandId} {s : State} (h : s.Sorted) : OutcomeSorted (execHandOver i s) := by
  unfold execHandOver
  dsimp only
  exact .next <| by
      split
      · exact h
      · exact .ite h (.dispatchJobs (.each (.setStrand h) fun _ _ k => .each k fun _ _ => .setOwn))

/-! ### Probe -/

theorem State.Sorted.firePattern {p ty period : Nat} {s : State} (h : s.Sorted) : (s.firePattern p ty period).2.Sorted :=
  .ite_snd h (.ite (.raise h) h)

theorem State.Sorted.latchClear {ch : Nat} {s : State} (h : s.Sorted) : (s.latchClear ch).Sorted := .ite (.wr (.wr h)) h

theorem State.Sorted.skipLaunch {i : Nat} {s : State} (h : s.Sorted) : (s.skipLaunch i).Sorted := .bump (.setStrand h)

theorem State.Sorted.tryStack {i ty : Nat} {errs : List (Nat × Nat × Ecc)} {s : State} (h : s.Sorted) : (s.tryStack i ty errs).Sorted :=
  .ite h (.ite (.skipLaunch h) (.ite (.startStack h) (.raise (.put (.skipLaunch h)))))

theorem State.Sorted.launchGain {took : Bool} {ch : Nat} {s : State} (h : s.Sorted) : (s.launchGain took ch).Sorted := .setChan h

theorem State.Sorted.launchSettle {i pl ch : Nat} {s : State} (h : s.Sorted) : (s.launchSettle i pl ch).Sorted := by
  unfold State.launchSettle
  dsimp only
  split
  · exact .ite (.markBoth h) h
  · exact h

theorem State.Sorted.takeSnap {i ty : Nat} {s : State} (h : s.Sorted) : (s.takeSnap i ty).2.Sorted :=
  .ite_snd h (.ite_snd (.put h) (.ite_snd h (.put h)))

theorem State.Sorted.foldShot {i p ty : Nat} {fresh : Bool} {k : Stack} {s : State} (h : s.Sorted) : (s.foldShot i p ty fresh k).Sorted :=
  .each (.when (.wr (.setStrand (.takeSnap h))) fun k => .put (.setQuad k)) fun _ _ => .launchSettle

theorem State.Sorted.takeLaunch {p ty : Nat} {errs : List (Nat × Nat × Ecc)} {i : Nat} {s : State} (h : s.Sorted) :
    (s.takeLaunch p ty errs i).Sorted := by
  unfold State.takeLaunch
  dsimp only
  exact .when
      (.setStrand <| .each
         (by
            split
            · exact .foldShot <| .each
                  (.when (.tryStack (.setPair (.ite (.setSstate h) h))) fun k => .each k fun _ _ => .takePlan)
                  fun _ _ => .launchGain
            · exact .setStrand <| .each
                  (.when (.tryStack (.setPair (.ite (.setSstate h) h))) fun k => .each k fun _ _ => .takePlan)
                  fun _ _ => .launchGain)
         fun _ _ k => .latchClear (.applyDeferred (.splice k))) .setSstate

theorem State.Sorted.fire {p v period gap : Nat} {vals took : List Nat} {errs : List (Nat × Nat × Ecc)} {s : State} (h : s.Sorted) :
    (s.fire p v period gap vals took errs).Sorted :=
  .each (.setPort (.count (.wr (.firePattern h)))) fun _ _ => .takeLaunch

theorem State.Sorted.omitLaunch {p v period : Nat} {s : State} (h : s.Sorted) : (s.omitLaunch p v period).Sorted :=
  .ite h (.unless (.setPort h) .driveSw)

theorem State.Sorted.launch {p : Nat} {errs : List (Nat × Nat × Ecc)} {s : State} (h : s.Sorted) : (s.launch p errs).Sorted :=
  .ite h
    (.ite (.ite (.omitLaunch h) h)
       (.ite (.fire (.each h fun _ _ => .stopped)) (.when (.each h fun _ _ => .stopped) .omitLaunch)))

theorem execLaunch_sorted {l : LaunchIn} {s : State} (h : s.Sorted) : OutcomeSorted (execLaunch l s) := .next (.launch h)

theorem State.Sorted.setStep {p : Nat} {s : State} (h : s.Sorted) : (s.setStep p).Sorted := .ite h (.wr h)

theorem State.Sorted.fixSw {p : Nat} {s : State} (h : s.Sorted) : (s.fixSw p).Sorted := by
  unfold State.fixSw
  dsimp only
  split
  · exact h
  · exact .ite h (.driveSw h)

theorem execFirstGapTick_sorted {p : PortId} {s : State} (h : s.Sorted) : OutcomeSorted (execFirstGapTick p s) := by
  unfold execFirstGapTick
  dsimp only
  exact .next <| by
      split
      · exact .each h fun _ _ => .gapFirst
      · exact .unless (.each h fun _ _ => .gapFirst) fun k => .setStep (.fixSw (.setPort k))

theorem execSetpointIdleStep_sorted {p : PortId} {s : State} (h : s.Sorted) : OutcomeSorted (execSetpointIdleStep p s) :=
  .next (.ite h (.setStep (.setPort h)))

theorem execDeratingUpdate_sorted {p : PortId} {s : State} (h : s.Sorted) : OutcomeSorted (execDeratingUpdate p s) :=
  .next (.when (.setPort (.wr h)) .raise)

theorem State.Sorted.probeLost {p i src n : Nat} {s : State} (h : s.Sorted) : (s.probeLost p i src n).Sorted :=
  .ite (.ite (.wr h) h) (.when (.logNow (.setPort (.wr (.wr (.raise h))))) .source)

theorem State.Sorted.presence {i : Nat} {s : State} (h : s.Sorted) : (s.presence i).Sorted := by
  unfold State.presence
  dsimp only
  split
  · exact h
  · exact .ite h (.when (.setStrand (.ite (.raise h) h)) .probeLost)

theorem execPresenceEval_sorted {i : StrandId} {s : State} (h : s.Sorted) : OutcomeSorted (execPresenceEval i s) := .next (.presence h)

theorem execMonitorEnergyEval_sorted {p : PortId} {s : State} (h : s.Sorted) : OutcomeSorted (execMonitorEnergyEval p s) := by
  unfold execMonitorEnergyEval
  dsimp only
  exact .next <| by
      split
      · exact h
      · exact .ite h (.when (.setPort h) .probeLost)

theorem execStackClose_sorted {i : StrandId} {s : State} (h : s.Sorted) : OutcomeSorted (execStackClose i s) := by
  unfold execStackClose
  dsimp only
  exact .next <| by
      split
      · exact .ite h
            (by
               split
               · exact .closeStack (.presence (.flush h))
               · exact .presence (.flush h))
      · exact h

theorem execRangeEvaluation_sorted {ch : ChanId} {s : State} (h : s.Sorted) : OutcomeSorted (execRangeEvaluation ch s) := by
  unfold execRangeEvaluation
  dsimp only
  refine .next ?_
  split
  · refine .unless (.setChan (.wr (.wr h))) fun h => ?_
    exact .when (.foldl_fst h fun _ _ k => .when (.unless (.setChan k) .wr) .raise) .count
  · exact h

/-! ### StartCal -/

theorem State.Sorted.monWait {ch : Nat} {s : State} (h : s.Sorted) : (s.monWait ch).Sorted := .put (.setChan h)

theorem State.Sorted.repower {ch : Nat} {s : State} (h : s.Sorted) : (s.repower ch).Sorted := .ite h (.when (.setChan (.put (.wr h))) .monWait)

theorem execChannelReady_sorted {ch : ChanId} {s : State} (h : s.Sorted) : OutcomeSorted (execChannelReady ch s) := by
  unfold execChannelReady
  dsimp only
  exact .next <| by
      split
      · exact .ite h (.when (.setChan h) .put)
      · exact h

theorem State.Sorted.beginStartCal {s : State} (h : s.Sorted) : s.beginStartCal.Sorted := .each (.other h) fun _ _ k => .repower (.setChan k)

theorem State.Sorted.startFailed {pass code : Nat} {nq : Bool} {ch : Nat} {s : State} (h : s.Sorted) :
    (s.startFailed pass code nq ch).Sorted :=
  .unless (.setChan h) fun k => .when (.when (.raise k) .raise) .calRejected

theorem State.Sorted.startJudge {pass ch : Nat} {ix : Option GapRun} {ixOk : Bool} {s : State} (h : s.Sorted) :
    (s.startJudge pass ch ix ixOk).2.Sorted := by
  unfold State.startJudge
  dsimp only
  split
  · exact h
  · exact .ite_snd (.startFailed (.wr (.wr (.setChan h))))
        (.ite_snd (.runAccepted (.verdict h)) (.startFailed (.runRejected (.verdict h))))

theorem State.Sorted.startJudges {pass : Nat} {l : List Nat} {ix : Option GapRun} {ixOk : Bool} {s : State} (h : s.Sorted) :
    (s.startJudges pass l ix ixOk).Sorted := by
  induction l generalizing ix ixOk s with
  | nil => exact h
  | cons ch l ih => exact .ite (ih (.startJudge h)) (ih (.startJudge h))

theorem State.Sorted.startDecide {chans : List Nat} {s : State} (h : s.Sorted) : (s.startDecide chans).Sorted := by
  unfold State.startDecide
  dsimp only
  exact .each h
      fun _ _ k =>
        by
          split
          · exact .ite (.setChan k) k
          · exact k

theorem State.Sorted.startSlot {sc : StartCal} {code : Nat} {s : State} (h : s.Sorted) : (s.startSlot sc code).Sorted :=
  .each (.other h) fun _ _ k => .ite (.setChan k) k

theorem State.Sorted.nextPass {sc : StartCal} {s : State} (h : s.Sorted) : (s.nextPass sc).Sorted := .other (.each h fun _ _ => .setChan)

theorem State.Sorted.startNext {sc : StartCal} {s : State} (h : s.Sorted) : (s.startNext sc).Sorted := by
  unfold State.startNext
  split
  · exact .startSlot h
  · exact h

theorem State.Sorted.startTick1 {s : State} (h : s.Sorted) : s.startTick1.Sorted := by
  unfold State.startTick1
  dsimp only
  split
  · exact h
  · split
    · exact .ite (.startNext h) h
    · exact .ite (.startDecide h)
          (.ite (.startJudges h)
             (.ite
                (.ite
                   (by
                      split
                      · exact .startNext (.nextPass h)
                      · exact .nextPass h) (.startNext h)) h))

end Sys2Proof.Machine
end
-- ==== Sys2Proof/Proofs/SortedB.lean ====
section
/-! What each operation of the model's files Sample to Flash does keeps the stores in canonical form: one lemma per operation, composed
as its definition composes the operations below it. -/

namespace Sys2Proof.Machine

/-! ### Sample -/

theorem State.Sorted.takeGain {ch : Nat} {s : State} (h : s.Sorted) : (s.takeGain ch).Sorted := .ite h (.setChan h)

theorem State.Sorted.takeInj {ch : Nat} {s : State} (h : s.Sorted) : (s.takeInj ch).Sorted := .ite h (.put (.setChan h))

theorem State.Sorted.keepPin {ch : Nat} {x : ChanIn} {s : State} (h : s.Sorted) : (s.keepPin ch x).Sorted := .setChan h

theorem State.Sorted.convert {s : State} {ch : Nat} {bad : Bool} {x : ChanIn} (h : s.Sorted) : (s.convert ch bad x).2.Sorted := .setChan h

theorem State.Sorted.ovlSeen {ch : Nat} {y : Samp} {s : State} (h : s.Sorted) : (s.ovlSeen ch y).Sorted := .ite (.raise h) h

theorem State.Sorted.foldSample {i ch : Nat} {k : Stack} {sh : Shot} {w : Nat} {y : Samp} {s : State} (h : s.Sorted) :
    (s.foldSample i ch k sh w y).Sorted :=
  .unless (.other h) .ovlSeen

theorem State.Sorted.strayFrame {t : Nat} {s : State} (h : s.Sorted) : (s.strayFrame t).Sorted := .foldUe (.fresh h)

theorem State.Sorted.phaseNote {i ch : Nat} {k : Stack} {sh : Shot} {w : Nat} {y : Samp} {s : State} (h : s.Sorted) :
    (s.phaseNote i ch k sh w y).Sorted :=
  .ovlSeen (.ite (.other h) h)

theorem State.Sorted.useSample {ch : Nat} {y : Samp} {s : State} (h : s.Sorted) : (s.useSample ch y).2.Sorted := by
  unfold State.useSample
  dsimp only
  split
  · exact h
  · split
    · exact h
    · split
      · exact h
      · exact .ovlSeen h
      · exact .ite_snd (.ovlSeen h) (.ite_snd (.phaseNote h) (.ite_snd (.ovlSeen h) (.foldSample h)))

theorem State.Sorted.presSample {ch : Nat} {y : Samp} {s : State} (h : s.Sorted) : (s.presSample ch y).Sorted := by
  unfold State.presSample
  dsimp only
  split
  · exact h
  · split
    · exact h
    · split
      · exact h
      · exact .ite (.setStrand h) h

theorem State.Sorted.monSample {ch : Nat} {y : Samp} {p : Nat} {s : State} (h : s.Sorted) : (s.monSample ch y p).Sorted := by
  unfold State.monSample
  dsimp only
  exact .ite h
      (.when
         (by
            split
            · exact .ite (.setPort h) h
            · exact h) .setPort)

theorem State.Sorted.quadSample {i q : Nat} {k : Stack} {sh : Shot} {w : Nat} {ix qx iy qy : Samp} {s : State} (h : s.Sorted) :
    (s.quadSample i q k sh w ix qx iy qy).Sorted :=
  .unless (.setQuad h) .other

theorem State.Sorted.phaseTick {ys : Machine.SMap (Samp × Bool)} {i : Nat} {s : State} (h : s.Sorted) : (s.phaseTick ys i).Sorted := by
  unfold State.phaseTick
  dsimp only
  split
  · exact .ite h
        (by
           split
           · exact .quadSample h
           · exact h)
  · exact h

theorem State.Sorted.monSettle {ch : Nat} {e : Option Nat} {route : Word} {s : State} (h : s.Sorted) : (s.monSettle ch e route).Sorted := .setChan h

theorem State.Sorted.monTickOf {ch : Nat} {x : ChanIn} {s : State} (h : s.Sorted) : (s.monTickOf ch x).Sorted :=
  .ite h (.ite (.setChan h) (.ite h (.unless (.setChan h) .monSettle)))

theorem State.Sorted.chanTick {xs : List ChanIn} {ch : ChanId} {a : SMap (Samp × Bool) × State} (h : a.2.Sorted) :
    (State.chanTick xs ch a).2.Sorted := by
  obtain ⟨ys, s⟩ := a
  unfold State.chanTick
  dsimp only
  have hg : ((s.takeGain ch).takeInj ch).Sorted := .takeInj (.takeGain h)
  refine .ite_snd h (.keepPin (.monTickOf (.ite_snd ?_ hg)))
  refine .each (.presSample (.useSample ?_)) fun _ _ => .monSample
  split
  · exact .setChan (.convert hg)
  · exact .convert hg

theorem State.Sorted.channelsTick {xs : List ChanIn} {s : State} (h : s.Sorted) : (s.channelsTick xs).Sorted := by
  unfold State.channelsTick
  dsimp only
  exact .each (.when (.each (.foldl_snd h fun _ _ k => .chanTick k) fun _ _ => .phaseTick) .source) fun _ _ k => .ite k (.strayFrame k)

theorem State.Sorted.endTick {s : State} (h : s.Sorted) : s.endTick.Sorted := .when (.other h) .other

theorem execSampleTick_sorted {xs : List ChanIn} {s : State} (h : s.Sorted) : OutcomeSorted (execSampleTick xs s) :=
  .next (.ite h (.endTick (.channelsTick (.startTick1 (.commitsDue h)))))

/-! ### Precision -/

theorem State.Sorted.sendPcval {s : State} (h : s.Sorted) : s.sendPcval.Sorted := .ite h (.queueMsg (.other h))

theorem State.Sorted.gather {r : PcRec} {s : State} (h : s.Sorted) : (s.gather r).Sorted := .ite (.event (.bump h)) (.when (.other h) .sendPcval)

theorem execPcvalTimeout_sorted {s : State} (h : s.Sorted) : OutcomeSorted (execPcvalTimeout s) := .next (.sendPcval h)

theorem State.Sorted.derNotify {c : Nat} {s : State} (h : s.Sorted) : (s.derNotify c).Sorted := .each h fun _ _ k => .ite (.setPort k) k

theorem State.Sorted.pcFaultLog {c : Nat} {s : State} (h : s.Sorted) : (s.pcFaultLog c).Sorted := .logNow h

theorem State.Sorted.sensorFault {c : Nat} {f : Machine.Field} {s : State} (h : s.Sorted) : (s.sensorFault c f).Sorted :=
  .ite h (.when (.derNotify (.setPc (.pcFaultLog (.raise h)))) .source)

theorem State.Sorted.snsRaise {c : Nat} {s : State} (h : s.Sorted) : (s.snsRaise c).Sorted :=
  .ite h (.when (.setPc (.pcFaultLog (.raise h))) .sensorFault)

theorem State.Sorted.monTake {c : Nat} {s : State} (h : s.Sorted) : (s.monTake c).Sorted := .setPc h

theorem State.Sorted.pcMonitor {c : Nat} {m : PcMon} {s : State} (h : s.Sorted) : (s.pcMonitor c m).Sorted :=
  .ite (.put (.put (.setPc (.monTake h))))
    (.when (.when (.when (.setPc (.put (.put (.monTake h)))) .snsRaise) .sensorFault) .sensorFault)

theorem execPcMonitorSample_sorted {x : List (PcId × PcMon)} {s : State} (h : s.Sorted) : OutcomeSorted (execPcMonitorSample x s) :=
  .next (.each h fun _ _ => .pcMonitor)

theorem execClamp_sorted {c : PcId} {x : PinVolt} {s : State} (h : s.Sorted) : OutcomeSorted (execClamp c x s) :=
  .next (.ite (.setPc (.raiseBit (.putBit h))) h)

theorem execClampEnd_sorted {c : PcId} {x : PinVolt} {s : State} (h : s.Sorted) : OutcomeSorted (execClampEnd c x s) := .next (.ite h (.putBit h))

theorem State.Sorted.fstatCleared {c : Nat} {w was : Word} {s : State} (h : s.Sorted) : (s.fstatCleared c w was).Sorted := .setPc h

theorem State.Sorted.autoGain {c xe : Nat} {ovr : Bool} {s : State} (h : s.Sorted) : (s.autoGain c xe ovr).Sorted := by
  unfold State.autoGain
  dsimp only
  exact .ite (.setPc h)
      (by
         split
         · exact .ite (.setPc (.ite (.raise h) h)) (.setPc (.ite (.raise h) h))
         · exact .setPc h)

theorem State.Sorted.pcalReject {c k : Nat} {s : State} (h : s.Sorted) : (s.pcalReject c k).Sorted :=
  .when (.raise (.setPc h)) fun k => .when (.logNow (.raiseBit k)) .source

theorem State.Sorted.pcalAccept {c k : Nat} {cal : PcCal} {s : State} (h : s.Sorted) : (s.pcalAccept c k cal).Sorted := .setPc h

theorem State.Sorted.judgeOff {c g : Nat} {v : Int} {s : State} (h : s.Sorted) : (s.judgeOff c g v).Sorted := .ite (.pcalAccept h) (.pcalReject h)

theorem State.Sorted.judgeGain {c g : Nat} {v : Int} {s : State} (h : s.Sorted) : (s.judgeGain c g v).Sorted := .ite (.pcalAccept h) (.pcalReject h)

theorem State.Sorted.judgeCur {c k : Nat} {v : Int} {s : State} (h : s.Sorted) : (s.judgeCur c k v).Sorted := .ite (.pcalAccept h) (.pcalReject h)

theorem State.Sorted.judgeAtt {c : Nat} {v : Int} {s : State} (h : s.Sorted) : (s.judgeAtt c v).Sorted := .ite (.pcalAccept h) (.pcalReject h)

theorem execIcalEnd_sorted {c : PcId} {x : IcalIn} {s : State} (h : s.Sorted) : OutcomeSorted (execIcalEnd c x s) := by
  unfold execIcalEnd
  dsimp only
  exact .next <| .ite h
      (.put <| .setPc <| .put <| by
         split
         · exact .when
               (.when (.each (.each h fun _ _ => .judgeOff) fun _ _ => .judgeGain) fun k => .each k fun _ _ => .judgeCur) .judgeAtt
         · exact .when (.each (.each h fun _ _ => .judgeOff) fun _ _ => .judgeGain) fun k => .each k fun _ _ => .judgeCur)

theorem State.Sorted.icalStart {c : Nat} {s : State} (h : s.Sorted) : (s.icalStart c).Sorted := .put h

theorem State.Sorted.sysStart {c : Nat} {span : Bool} {s : State} (h : s.Sorted) : (s.sysStart c span).Sorted := .put (.setPc h)

theorem State.Sorted.sysClear {c : Nat} {s : State} (h : s.Sorted) : (s.sysClear c).Sorted := .setPc h

theorem State.Sorted.sysCollect {c : Nat} {xe : Int} {s : State} (h : s.Sorted) : (s.sysCollect c xe).Sorted := by
  unfold State.sysCollect
  dsimp only
  split
  · exact h
  · exact .ite (.setPc h)
        (by
           split
           · exact .setPc (.put h)
           · exact .raise (.setPc (.put h)))

theorem State.Sorted.pcRecord {c : Nat} {x : PcResult} {s : State} (h : s.Sorted) : (s.pcRecord c x).Sorted := .ite h (.when (.setPc h) .gather)

theorem State.Sorted.pcHold {c : Nat} {x : PcIn} {s : State} (h : s.Sorted) : (s.pcHold c x).Sorted :=
  .ite (.wr (.wr (.setPc h))) (.wr (.wr (.setPc h)))

theorem State.Sorted.refCheck {c : Nat} {xe : Int} {s : State} (h : s.Sorted) : (s.refCheck c xe).Sorted :=
  .ite h (.ite (.source (.logNow (.raise h))) h)

theorem State.Sorted.rangeSeen {c : Nat} {s : State} (h : s.Sorted) : (s.rangeSeen c).Sorted := .ite h (.when (.raise h) .source)

theorem State.Sorted.deratingResult {c : Nat} {xe : Int} {s : State} (h : s.Sorted) : (s.deratingResult c xe).Sorted := .derNotify (.setPc h)

theorem State.Sorted.validResult {c : Nat} {raw : Int} {x : PcResult} {s : State} (h : s.Sorted) : (s.validResult c raw x).Sorted :=
  .when (.setPc (.wr (.wr h))) .sysCollect

theorem State.Sorted.deliver {c : Nat} {x : PcIn} {s : State} (h : s.Sorted) : (s.deliver c x).Sorted :=
  .unless
    (.when
       (.when
          (.ite
             (.validResult (.when (.when (.when (.deratingResult (.pcRecord h)) .raise) .pcHold) .rangeSeen))
             (.setPc (.when (.when (.when (.deratingResult (.pcRecord h)) .raise) .pcHold) .rangeSeen))) .refCheck) .judgeOff)
    fun k => .ite (.autoGain k) (.setPc k)

theorem State.Sorted.pcTake {c : Nat} {a : PcRt × Bool × Bool} {pend : Bool} {s : State} (h : s.Sorted) : (s.pcTake c a pend).Sorted := by
  unfold State.pcTake
  dsimp only
  exact .put <| .put <| .wr <| .wr <| .put <| .when
      (.when
         (.put <| .put <| by
            split
            · exact .wr (.wr (.setPc h))
            · exact .setPc h)
         fun k => .ite k (.pcFaultLog (.raise k))) fun k => .wr (.wr k)

theorem State.Sorted.conversionBoundary {c : Nat} {s : State} (h : s.Sorted) : (s.conversionBoundary c).Sorted := by
  unfold State.conversionBoundary
  dsimp only
  exact .pcTake (.other (.setPair (.count h)))

theorem execFilterBoundary_sorted {c : PcId} {x : PcIn} {s : State} (h : s.Sorted) : OutcomeSorted (execFilterBoundary c x s) :=
  .next <| .ite h
    (.ite (.conversionBoundary (.setPc h))
       (.unless (.setPc h) fun k => .ite (.put (.setPc k)) (.conversionBoundary (.deliver k))))

theorem State.Sorted.pcPend {c : Nat} {s : State} (h : s.Sorted) : (s.pcPend c).Sorted := .setPc (.put h)

theorem State.Sorted.immLate {c : Nat} {w : PcWas} {s : State} (h : s.Sorted) : (s.immLate c w).Sorted := by
  unfold State.immLate
  dsimp only
  exact .pcTake (.setPc (.wr (.wr h)))

theorem State.Sorted.excImm {c : Nat} {s : State} (h : s.Sorted) : (s.excImm c).Sorted := by
  unfold State.excImm
  dsimp only
  split
  · exact .ite (.pcPend h) (.immLate h)
  · exact .ite (.pcPend h) (.pcTake (.setPc (.ite (.raise (.pcRecord h)) h)))

theorem State.Sorted.pcStopAll {s : State} (h : s.Sorted) : s.pcStopAll.Sorted := .each h fun _ _ => .put

theorem State.Sorted.pcResumeAll {s : State} (h : s.Sorted) : s.pcResumeAll.Sorted := .each h fun _ _ k => .put (.put (.setPc k))

/-! ### StrandCmd -/

theorem State.Sorted.answer {a : AccCode} {s : State} (h : s.Sorted) : (s.answer a).Sorted := .other h

theorem State.Sorted.logAbort {kind who tag : Nat} {acted : Bool} {island : Nat} {s : State} (h : s.Sorted) :
    (s.logAbort kind who tag acted island).Sorted :=
  .logBy h

theorem State.Sorted.strandLate {i tag : Nat} {s : State} (h : s.Sorted) : (s.strandLate i tag).Sorted := .answer (.logAbort (.raise h))

theorem State.Sorted.strandAbortNow {i tag : Nat} {s : State} (h : s.Sorted) : (s.strandAbortNow i tag).Sorted := by
  unfold State.strandAbortNow
  dsimp only
  exact .answer <| .logAbort <| .raise <| .stopped <| .setStrand <| .put <| by
      split
      · exact .cutStack (.flush h)
      · exact .flush h

theorem State.Sorted.strandAbort {i : Nat} {any : Bool} {tag : Nat} {s : State} (h : s.Sorted) : (s.strandAbort i any tag).Sorted := by
  unfold State.strandAbort
  dsimp only
  exact .ite (.strandLate h)
      (by
         split
         · exact .ite (.strandAbortNow h) (.strandLate h)
         · exact .ite (.strandAbortNow h) (.strandLate h))

theorem State.Sorted.snap {i : Nat} {s : State} (h : s.Sorted) : (s.snap i).Sorted := .ite (.put (.setStrand h)) h

theorem State.Sorted.restart {i : Nat} {s : State} (h : s.Sorted) : (s.restart i).Sorted := .put (.setStrand h)

theorem State.Sorted.relPlanes {ch : Nat} {a b : Bool} {s : State} (h : s.Sorted) : (s.relPlanes ch a b).Sorted :=
  .when (.ite (.release h) h) .release

theorem State.Sorted.gapAbortCmd {i : Nat} {s : State} (h : s.Sorted) : (s.gapAbortCmd i).Sorted :=
  .ite (.answer (.logAbort (.raise (.gapAbort h)))) (.answer (.logAbort (.raise h)))

theorem State.Sorted.dueCommit {ch : Nat} {s : State} (h : s.Sorted) : (s.dueCommit ch).Sorted := by
  unfold State.dueCommit
  dsimp only
  split
  · exact .when
        (by
           split
           · exact .gapCommit h
           · exact h) .startJudges
  · split
    · exact .gapCommit h
    · exact h

theorem State.Sorted.ixSkew {ch : Nat} {s : State} (h : s.Sorted) : (s.ixSkew ch).Sorted := .ite (.setChan h) h

theorem State.Sorted.heldWrite {ch code : Nat} {gain : Bool} {v : Int} {s : State} (h : s.Sorted) : (s.heldWrite ch code gain v).Sorted :=
  .unless (.setChan (.dueCommit h)) .applyDeferred

theorem State.Sorted.windowWrite {which : Nat} {v : Word} {s : State} (h : s.Sorted) : (s.windowWrite which v).Sorted := by
  unfold State.windowWrite
  split
  · exact h
  · split
    · exact .heldWrite h
    · exact .heldWrite h
    · exact .ite h (.heldWrite h)
    · exact h

/-! ### SafetyMon -/

theorem State.Sorted.driveSafe {s : State} (h : s.Sorted) : s.driveSafe.Sorted := .ite (.other h) (.when (.put (.put (.other h))) .event)

theorem State.Sorted.enter {new : Nat} {s : State} (h : s.Sorted) : (s.enter new).Sorted := .driveSafe (.goto h)

theorem State.Sorted.portHalt {p : Nat} {s : State} (h : s.Sorted) : (s.portHalt p).Sorted := .wr (.portIdle (.setPort h))

theorem State.Sorted.dropStartCal {s : State} (h : s.Sorted) : s.dropStartCal.Sorted := by
  unfold State.dropStartCal
  dsimp only
  split
  · exact h
  · exact .each (.other h) fun _ _ k => .repower (.dropInj (.setChan k))

theorem State.Sorted.safeStopStrand {i : Nat} {s : State} (h : s.Sorted) : (s.safeStopStrand i).Sorted := by
  unfold State.safeStopStrand
  dsimp only
  exact .ite h
      (.ite
         (.stopped <| .setStrand <| .put <| by
            split
            · exact .closeStack (.presence (.flush h))
            · exact .presence (.flush h)) (.strandAbortNow h))

theorem State.Sorted.enterSafeStop {s : State} (h : s.Sorted) : s.enterSafeStop.Sorted :=
  .ite h
    (.when
       (.put <| .put <| .other <| .dropStartCal <| .each (.each (.put (.enter h)) fun _ _ k => .safeStopStrand (.ite (.gapAbort k) k)) fun _ _ => .portHalt)
       fun k => .pcResumeAll (.each k fun _ _ => .repower))

theorem State.Sorted.react {k : Nat} {t : Time} {s : State} (h : s.Sorted) : (s.react k t).Sorted :=
  .ite h
    (.when
       (.plainStatus (.driveSafe (.when (.log_ (.raiseBit h)) fun k => .askFreeze (.setPair (.wr k)))))
       fun k => .governed (.enterSafeStop k))

theorem execSafetyFault_sorted {s : State} (h : s.Sorted) : OutcomeSorted (execSafetyFault s) := by
  unfold execSafetyFault
  dsimp only
  exact .next <| by
      split
      · exact h
      · exact .react (.other h)

theorem State.Sorted.clearFault {k : Nat} {s : State} (h : s.Sorted) : (s.clearFault k).Sorted := .ite (.log_ (.putBit h)) h

theorem State.Sorted.clearFaults {w : Word} {s : State} (h : s.Sorted) : (s.clearFaults w).Sorted :=
  .when (.each h fun _ _ => .clearFault) fun k => .driveSafe (.wr k)

theorem execSafeHbToggle_sorted {s : State} (h : s.Sorted) : OutcomeSorted (execSafeHbToggle s) := .next (.ite (.other h) h)

theorem execConfigSweepPass_sorted {bad : Bool} {s : State} (h : s.Sorted) : OutcomeSorted (execConfigSweepPass bad s) :=
  .next (.ite h (.when (.count h) .source))

theorem execClockFault_sorted {lasts : Bool} {s : State} (h : s.Sorted) : OutcomeSorted (execClockFault lasts s) :=
  .next (.ite h (.source (.other h)))

theorem execRailFault_sorted {lasts : Bool} {s : State} (h : s.Sorted) : OutcomeSorted (execRailFault lasts s) := .next (.ite h (.source (.other h)))

/-! ### Modes -/

theorem State.Sorted.reject {s : State} (h : s.Sorted) : s.reject.Sorted := .raise h

theorem State.Sorted.showStopping {s : State} (h : s.Sorted) : s.showStopping.Sorted := .put h

theorem State.Sorted.holdAll {s : State} (h : s.Sorted) : s.holdAll.Sorted := .showStopping (.each h fun _ _ => .holdStrand)

theorem State.Sorted.enterRunning {s : State} (h : s.Sorted) : s.enterRunning.Sorted := .each (.enter h) fun _ _ k => .ite (.fixStart k) k

theorem State.Sorted.wakeBy {cause : Nat} {s : State} (h : s.Sorted) : (s.wakeBy cause).Sorted := .ite h (.ite (.wr (.other h)) (.ite (.wr h) h))

theorem State.Sorted.cmdRun {s : State} (h : s.Sorted) : s.cmdRun.Sorted := .ite (.put h) (.reject h)

theorem State.Sorted.cmdHold {s : State} (h : s.Sorted) : s.cmdHold.Sorted :=
  .ite h (.ite (.governed (.holdAll (.enter (.put h)))) (.ite (.put h) (.reject h)))

theorem State.Sorted.resume {s : State} (h : s.Sorted) : s.resume.Sorted := .governed (.resumeAll (.enterRunning (.put h)))

theorem State.Sorted.cmdResume {s : State} (h : s.Sorted) : s.cmdResume.Sorted := .ite h (.ite (.resume h) (.ite (.wakeBy h) (.reject h)))

theorem State.Sorted.cmdWake {s : State} (h : s.Sorted) : s.cmdWake.Sorted := .ite h (.ite (.wakeBy h) (.ite (.resume h) h))

theorem State.Sorted.cmdWatch {s : State} (h : s.Sorted) : s.cmdWatch.Sorted := .ite h (.ite (.holdAll (.put h)) (.reject h))

theorem State.Sorted.monWatch {ch : Nat} {s : State} (h : s.Sorted) : (s.monWatch ch).Sorted := .ite h (.setChan h)

theorem execWatchEntry_sorted {s : State} (h : s.Sorted) : OutcomeSorted (execWatchEntry s) :=
  .next <| .ite
    (.governed <| .pcStopAll <| .each (.each (.wr (.put (.enter h))) fun _ _ k => .monWatch (.repower k)) fun _ _ k => .wr (.setPort k)) h

theorem execWatchTimerExpiry_sorted {s : State} (h : s.Sorted) : OutcomeSorted (execWatchTimerExpiry s) := .next (.ite h (.wakeBy h))

theorem State.Sorted.chanWake {ch : Nat} {s : State} (h : s.Sorted) : (s.chanWake ch).Sorted := .when (.setChan (.put (.wr h))) .monWait

theorem State.Sorted.ungate {s : State} (h : s.Sorted) : s.ungate.Sorted := .ite h (.pcResumeAll (.each (.put h) fun _ _ => .chanWake))

theorem execWakeComplete_sorted {s : State} (h : s.Sorted) : OutcomeSorted (execWakeComplete s) :=
  .next <| .ite h (.unless (.ungate h) fun k => .resumeAll (.each (.enterRunning (.put (.other k))) fun _ _ => .setPort))

/-! ### Monitors -/

theorem State.Sorted.formEvent {s : State} (h : s.Sorted) : s.formEvent.Sorted := .ite h (.event (.queueMsg (.other h)))

theorem State.Sorted.formEvents {s : State} (h : s.Sorted) : s.formEvents.Sorted := .ite (.formEvent h) h

theorem State.Sorted.queueMon {r : MonRec} {s : State} (h : s.Sorted) : (s.queueMon r).Sorted := .ite (.event (.bump h)) (.formEvents (.other h))

theorem execEventMessageTimeout_sorted {s : State} (h : s.Sorted) : OutcomeSorted (execEventMessageTimeout s) := .next (.ite h (.formEvent h))

theorem execMonitorStart_sorted {ch : ChanId} {s : State} (h : s.Sorted) : OutcomeSorted (execMonitorStart ch s) :=
  .next (.ite (.put (.put (.wr (.setChan h)))) h)

theorem State.Sorted.monFirst {ch : Nat} {s : State} (h : s.Sorted) : (s.monFirst ch).Sorted := .put (.setChan h)

theorem execMonitorFirstDecision_sorted {ch : ChanId} {s : State} (h : s.Sorted) : OutcomeSorted (execMonitorFirstDecision ch s) :=
  .next (.ite (.monFirst h) h)

theorem execMonitorStrobeStart_sorted {ch : ChanId} {s : State} (h : s.Sorted) : OutcomeSorted (execMonitorStrobeStart ch s) :=
  .next (.ite (.setChan h) h)

theorem execMonitorStrobeEnd_sorted {ch : ChanId} {s : State} (h : s.Sorted) : OutcomeSorted (execMonitorStrobeEnd ch s) := by
  unfold execMonitorStrobeEnd
  dsimp only
  exact .next <| by
      split
      · exact .ite h (.ite (.monFirst h) (.ite (.monSettle (.setChan h)) (.setChan h)))
      · exact h

theorem State.Sorted.monCapture {ch : Nat} {e : MonEdge} {s : State} (h : s.Sorted) : (s.monCapture ch e).Sorted := .ite (.raise (.wr (.wr h))) h

theorem State.Sorted.monEvent {ch : Nat} {e : MonEdge} {s : State} (h : s.Sorted) : (s.monEvent ch e).Sorted :=
  .ite h (.ite (.setChan h) (.queueMon (.setChan h)))

theorem State.Sorted.monWake {ch : Nat} {e : MonEdge} {s : State} (h : s.Sorted) : (s.monWake ch e).Sorted :=
  .ite (.wakeBy (.ite h (.raise (.wr (.wr h))))) h

theorem State.Sorted.monRoute {ch : Nat} {e : MonEdge} {s : State} (h : s.Sorted) : (s.monRoute ch e).Sorted :=
  .ite h (.monWake (.monEvent (.monCapture (.raiseBit h))))

theorem execMonitorEdge_sorted {ch : ChanId} {s : State} (h : s.Sorted) : OutcomeSorted (execMonitorEdge ch s) := by
  unfold execMonitorEdge
  dsimp only
  exact .next <| by
      split
      · exact .ite (.monRoute (.setChan h)) h
      · exact h

/-! ### LogLine -/

theorem State.Sorted.showSlots {s : State} (h : s.Sorted) : s.showSlots.Sorted := .unless (.wr h) fun k => .wr (.wr k)

theorem State.Sorted.setSlot {k : Nat} {x : Option Slot} {s : State} (h : s.Sorted) : (s.setSlot k x).Sorted := .showSlots (.other h)

theorem State.Sorted.freezeRecord {f : Freeze} {abandoned : Bool} {s : State} (h : s.Sorted) : (s.freezeRecord f abandoned).Sorted := .logNow h

theorem execFreezeBegin_sorted {s : State} (h : s.Sorted) : OutcomeSorted (execFreezeBegin s) := by
  unfold execFreezeBegin
  dsimp only
  exact .next <| by
      split
      · exact .ite h (.setSlot (.other h))
      · exact h

theorem State.Sorted.endProtection {s : State} (h : s.Sorted) : s.endProtection.Sorted := .unless (.freezeFlags (.other h)) .logNow

theorem execFreezeEnd_sorted {s : State} (h : s.Sorted) : OutcomeSorted (execFreezeEnd s) := by
  unfold execFreezeEnd
  dsimp only
  exact .next <| by
      split
      · split
        · exact .freezeRecord (.endProtection (.setSlot h))
        · exact h
      · exact h

theorem State.Sorted.freezeCmd {s : State} (h : s.Sorted) : s.freezeCmd.Sorted := .askFreeze (.logNow h)

theorem State.Sorted.brownOut {s : State} (h : s.Sorted) : s.brownOut.Sorted := .each (.freezeFlags (.other (.logNow h))) fun _ _ => .freezeRecord

theorem State.Sorted.markLog {v src : Nat} {s : State} (h : s.Sorted) : (s.markLog v src).Sorted := .logNow h

theorem State.Sorted.lostHeader {s : State} (h : s.Sorted) : s.lostHeader.2.Sorted := .fresh h

theorem State.Sorted.logDump {p : List Byte} {s : State} (h : s.Sorted) : (s.logDump p).2.Sorted := by
  unfold State.logDump
  dsimp only
  exact .ite_snd h
      (.ite_snd h
         (by
            split
            · exact h
            · exact .lostHeader h))

theorem execTempMeasure_sorted {t : List Half} {s : State} (h : s.Sorted) : OutcomeSorted (execTempMeasure t s) :=
  .next (.ite h (.each (.put h) fun _ _ k => .when (.wr k) .raiseBit))

/-! ### Lock -/

theorem State.Sorted.lockFlags {s : State} (h : s.Sorted) : s.lockFlags.Sorted := .put (.wr h)

theorem State.Sorted.lockLog {what src means : Nat} {s : State} (h : s.Sorted) : (s.lockLog what src means).Sorted := .logNow h

theorem State.Sorted.lockClose {src : Nat} {s : State} (h : s.Sorted) : (s.lockClose src).Sorted := .ite h (.lockLog (.lockFlags (.wr h)))

theorem State.Sorted.lockSessionEnd {src : Source} {n : Nat} {s : State} (h : s.Sorted) : (s.lockSessionEnd src n).Sorted := .ite (.lockClose h) h

theorem State.Sorted.setFails {n : Nat} {s : State} (h : s.Sorted) : (s.setFails n).Sorted := .wr (.other h)

theorem State.Sorted.setLout {n : Nat} {s : State} (h : s.Sorted) : (s.setLout n).Sorted := .wr (.other h)

theorem State.Sorted.lockOpen {src : Source} {session means : Nat} {s : State} (h : s.Sorted) : (s.lockOpen src session means).Sorted :=
  .lockLog (.setFails (.lockFlags (.wr (.other h))))

theorem State.Sorted.lockFail {src : Source} {means : Nat} {s : State} (h : s.Sorted) : (s.lockFail src means).Sorted :=
  .unless (.lockLog (.setFails h)) fun k => .lockLog (.setLout (.put k))

theorem State.Sorted.challenge {src : Source} {s : State} (h : s.Sorted) : (s.challenge src).2.2.Sorted :=
  .ite_snd_snd h (.ite_snd_snd h (.put (.other (.fresh h))))

theorem State.Sorted.dropNonce {s : State} (h : s.Sorted) : s.dropNonce.Sorted := .put (.other h)

theorem State.Sorted.respond {src : Source} {session : Nat} {data : List Byte} {s : State} (h : s.Sorted) :
    (s.respond src session data).2.Sorted := by
  unfold State.respond
  dsimp only
  exact .ite_snd (.ite (.dropNonce h) h)
      (.ite_snd (.ite (.dropNonce h) h)
         (by
            split
            · exact .ite_snd (.lockOpen (.ite (.dropNonce h) h)) (.lockFail (.ite (.dropNonce h) h))
            · exact .ite (.dropNonce h) h))

theorem State.Sorted.password {src : Source} {session : Nat} {data : List Byte} {s : State} (h : s.Sorted) :
    (s.password src session data).2.Sorted :=
  .ite_snd h (.ite_snd h (.ite_snd h (.ite_snd (.lockOpen h) (.lockFail h))))

theorem State.Sorted.lockOp {src : Source} {session op : Nat} {data : List Byte} {s : State} (h : s.Sorted) :
    (s.lockOp src session op data).2.Sorted := by
  unfold State.lockOp
  dsimp only
  split
  · exact .ite_snd h h
  · exact .ite_snd h (.challenge h)
  · exact .ite_snd h (.respond h)
  · exact .ite_snd h (.password h)
  · exact .ite_snd h (.lockClose h)
  · exact h

theorem State.Sorted.lockPayload {src : Source} {session : Nat} {p : List Byte} {s : State} (h : s.Sorted) :
    (s.lockPayload src session p).2.Sorted :=
  .ite_snd h (.lockOp h)

theorem execLockOpenTimeout_sorted {s : State} (h : s.Sorted) : OutcomeSorted (execLockOpenTimeout s) := .next (.lockClose h)

theorem execLockoutSecond_sorted {s : State} (h : s.Sorted) : OutcomeSorted (execLockoutSecond s) := .next (.ite (.setLout h) h)

theorem execLockoutEnd_sorted {s : State} (h : s.Sorted) : OutcomeSorted (execLockoutEnd s) := .next (.ite (.lockLog (.setFails (.put h))) h)

theorem execNonceExpiry_sorted {s : State} (h : s.Sorted) : OutcomeSorted (execNonceExpiry s) := .next (.dropNonce h)

/-! ### Flash -/

theorem State.Sorted.flashWrite {a : Nat} {bs : List Byte} {s : State} (h : s.Sorted) : (s.flashWrite a bs).Sorted := .other h

theorem State.Sorted.flashCmd {op : Nat} {s : State} (h : s.Sorted) : (s.flashCmd op).Sorted := .ite (.raise h) (.put (.other h))

theorem State.Sorted.fdataWrite {v : Word} {s : State} (h : s.Sorted) : (s.fdataWrite v).Sorted := .wr (.other h)

theorem State.Sorted.lostBytes {n : Nat} {s : State} (h : s.Sorted) : (s.lostBytes n).2.Sorted := .fresh h

theorem State.Sorted.cutFlash {s : State} (h : s.Sorted) : s.cutFlash.Sorted := by
  unfold State.cutFlash
  dsimp only
  split
  · exact h
  · exact .ite h (.flashWrite (.lostBytes h))

theorem execFlashOperationEnd_sorted {ok : Bool} {s : State} (h : s.Sorted) : OutcomeSorted (execFlashOperationEnd ok s) := by
  unfold execFlashOperationEnd
  dsimp only
  exact .next <| by
      split
      · exact h
      · exact .ite
            (.wr (.ite_snd (.unless (.put (.other h)) .raise) (.lostBytes (.unless (.put (.other h)) .raise))))
            (.flashWrite (.ite_snd (.unless (.put (.other h)) .raise) (.lostBytes (.unless (.put (.other h)) .raise))))

end Sys2Proof.Machine
end
-- ==== Sys2Proof/Proofs/SortedC.lean ====
section
/-! What each operation of the model's files CoreRun to Image does keeps the stores in canonical form: one lemma per operation, composed
as its definition composes the operations below it. -/

namespace Sys2Proof.Machine

/-! ### CoreRun -/

theorem State.Sorted.dmWrite {c a : Nat} {bs : List Byte} {s : State} (h : s.Sorted) : (s.dmWrite c a bs).Sorted := .setCore h

theorem State.Sorted.imWrite {c a : Nat} {w : Word} {s : State} (h : s.Sorted) : (s.imWrite c a w).Sorted := .setCore h

theorem State.Sorted.coreEcc {c a kind : Nat} {e : Ecc} {s : State} (h : s.Sorted) : (s.coreEcc c a kind e).Sorted :=
  .ite (.bump h) (.ite (.logBy (.bump h)) h)

theorem State.Sorted.deliverBytes {stored : List Byte} {e : Ecc} {s : State} (h : s.Sorted) : (s.deliverBytes stored e).2.Sorted :=
  .ite_snd h (.fresh h)

theorem State.Sorted.pendIn {c k n : Nat} {s : State} (h : s.Sorted) : (s.pendIn c k n).Sorted := .setCore (.setReg h)

theorem State.Sorted.pend {c k : Nat} {s : State} (h : s.Sorted) : (s.pend c k).Sorted := .pendIn h

theorem State.Sorted.haulErr {h : Haul} {i : Nat} {e : Ecc} {s : State} (hs : s.Sorted) : (s.haulErr h i e).Sorted :=
  .eccCount (.ite hs (.ite (.markBoth hs) hs))

theorem State.Sorted.haulCopy {c : Nat} {h : Haul} {n : Nat} {errs : List (Nat × Ecc)} {taken : List (Nat × Nat)} {turns : List Nat} {s : State}
    (hs : s.Sorted) : (s.haulCopy c h n errs taken turns).2.Sorted :=
  .unless (.unless (.each (.ite_snd hs (.fresh hs)) fun _ _ => .haulErr) .dmWrite) .bump

theorem State.Sorted.haulStatus {c at_ bits : Nat} {s : State} (h : s.Sorted) : (s.haulStatus c at_ bits).Sorted := .dmWrite h

theorem State.Sorted.cancelHauls {c : Nat} {s : State} (h : s.Sorted) : (s.cancelHauls c).Sorted := by
  unfold State.cancelHauls
  dsimp only
  exact .each
      (by
         split
         · exact .setCore h
         · exact .unless (.haulCopy (.fresh (.setCore h))) .haulStatus)
      fun _ _ => .haulStatus

theorem State.Sorted.dropBinds {c : Nat} {s : State} (h : s.Sorted) : (s.dropBinds c).Sorted := .releaseAll (.setCore h)

theorem State.Sorted.dropJobs {c : Nat} {s : State} (h : s.Sorted) : (s.dropJobs c).Sorted :=
  .releaseAll (.each (.showJobs (.setCore h)) fun _ _ => .loseJob)

theorem State.Sorted.offCheck {c : Nat} {s : State} (h : s.Sorted) : (s.offCheck c).Sorted := .ite (.dropJobs (.setCore (.wr h))) h

theorem State.Sorted.toIdle {c : Nat} {s : State} (h : s.Sorted) : (s.toIdle c).Sorted := .offCheck (.wr (.setCore h))

theorem State.Sorted.lastRun {c res : Nat} {s : State} (h : s.Sorted) : (s.lastRun c res).Sorted := .wr (.wr h)

theorem State.Sorted.abortRun {c reason fcode : Nat} {s : State} (h : s.Sorted) : (s.abortRun c reason fcode).Sorted :=
  .toIdle (.unless (.status (.put (.lastRun (.dropBinds (.cancelHauls (.setCore h)))))) .logBy)

theorem State.Sorted.coreAbort {c : Nat} {any : Bool} {tag : Nat} {s : State} (h : s.Sorted) : (s.coreAbort c any tag).Sorted :=
  .ite (.answer (.logAbort (.abortRun h))) (.answer (.logAbort (.put h)))

theorem State.Sorted.coreFault {c code : Nat} {s : State} (h : s.Sorted) : (s.coreFault c code).Sorted :=
  .ite (.abortRun (.when (.put (.wr h)) .sourceAt)) (.when (.setCore (.when (.put (.wr h)) .sourceAt)) .toIdle)

theorem State.Sorted.coreEnable {c : Nat} {s : State} (h : s.Sorted) : (s.coreEnable c).Sorted := .ite (.ite (.toIdle h) h) (.offCheck h)

theorem State.Sorted.csinitWritten {c : Nat} {s : State} (h : s.Sorted) : (s.csinitWritten c).Sorted := .ite (.setCore h) h

theorem execDrainComplete_sorted {c : CoreId} {s : State} (h : s.Sorted) : OutcomeSorted (execDrainComplete c s) := .next (.ite (.toIdle h) h)

theorem execWatchdogExpiry_sorted {c : CoreId} {s : State} (h : s.Sorted) : OutcomeSorted (execWatchdogExpiry c s) :=
  .next (.ite (.sourceAt (.put (.abortRun h))) h)

theorem execInterruptEntry_sorted {c : CoreId} {s : State} (h : s.Sorted) : OutcomeSorted (execInterruptEntry c s) := by
  unfold execInterruptEntry
  dsimp only
  exact .next <| .ite h
      (by
         split
         · exact h
         · exact .setCore h)

theorem execTimerMatch_sorted {c : CoreId} {s : State} (h : s.Sorted) : OutcomeSorted (execTimerMatch c s) := .next (.ite (.pendIn h) h)

/-! ### Session -/

theorem State.Sorted.txDrop {s : State} (h : s.Sorted) : s.txDrop.Sorted := .event (.bump h)

theorem State.Sorted.rxDrop {s : State} (h : s.Sorted) : s.rxDrop.Sorted := .bump h

theorem State.Sorted.sendRead {m : TxItem} {s : State} (h : s.Sorted) : (s.sendRead m).Sorted := by
  unfold State.sendRead
  dsimp only
  split
  · exact .setCore h
  · exact .setCore h
  · exact h

theorem State.Sorted.rxPause {s : State} (h : s.Sorted) : s.rxPause.Sorted :=
  .ite (.emit (.other (.put h))) (.when (.put h) fun k => .emit (.other k))

theorem State.Sorted.endSession {cause : Nat} {s : State} (h : s.Sorted) : (s.endSession cause).Sorted :=
  .ite h (.lockSessionEnd (.rxPause (.other (.unless (.logNow (.ite (.put (.wr h)) (.when (.wr h) .put))) .event))))

theorem State.Sorted.hostDown {s : State} (h : s.Sorted) : s.hostDown.Sorted := .endSession (.put (.other (.put (.put (.put h)))))

theorem execLinkUp_sorted {s : State} (h : s.Sorted) : OutcomeSorted (execLinkUp s) := .next (.ite h (.put (.put (.put (.emit h)))))

theorem execLinkDown_sorted {s : State} (h : s.Sorted) : OutcomeSorted (execLinkDown s) := .next (.ite (.hostDown h) h)

theorem execSessionTimeout_sorted {s : State} (h : s.Sorted) : OutcomeSorted (execSessionTimeout s) := .next (.ite h (.endSession h))

theorem State.Sorted.releaseSlots {s : State} (h : s.Sorted) : s.releaseSlots.Sorted := .other h

theorem State.Sorted.formResp {seq : Nat} {p : List Byte} {s : State} (h : s.Sorted) : (s.formResp seq p).Sorted := .releaseSlots (.other h)

theorem execPauseRepeat_sorted {s : State} (h : s.Sorted) : OutcomeSorted (execPauseRepeat s) := .next (.ite (.emit h) h)

theorem execPauseFrame_sorted {quanta : Half} {s : State} (h : s.Sorted) : OutcomeSorted (execPauseFrame quanta s) :=
  .next (.ite h (.when (.bump h) .put))

theorem execPauseExpiry_sorted {s : State} (h : s.Sorted) : OutcomeSorted (execPauseExpiry s) := .next (.put h)

theorem execArpRequest_sorted {mac : BitVec 48} {ip target : Word} {s : State} (h : s.Sorted) :
    OutcomeSorted (execArpRequest mac ip target s) :=
  .next (.ite (.emit h) h)

theorem State.Sorted.fecCount {ce ue : Nat} {s : State} (h : s.Sorted) : (s.fecCount ce ue).Sorted := .bump (.bump h)

theorem execRxDiscard_sorted {x : RxBad} {s : State} (h : s.Sorted) : OutcomeSorted (execRxDiscard x s) :=
  .next (.ite h (.ite (.bump h) (.ite (.rxDrop (.fecCount h)) h)))

/-! ### Ring -/

theorem State.Sorted.setHw {p : HwPort} {x : HwPortSt} {s : State} (h : s.Sorted) : (s.setHw p x).Sorted := by
  unfold State.setHw
  dsimp only
  split
  · exact .other h
  · exact .other h

theorem State.Sorted.ringLog {src rseq : Nat} {set : Bool} {s : State} (h : s.Sorted) : (s.ringLog src rseq set).Sorted := .log_ (.linkTime h)

theorem State.Sorted.ringFlag {f : Machine.Field} {src rseq : Nat} {s : State} (h : s.Sorted) : (s.ringFlag f src rseq).Sorted :=
  .ite h (.ringLog (.put h))

theorem State.Sorted.hwServe {p : HwPort} {s : State} (h : s.Sorted) : (s.hwServe p).Sorted := by
  unfold State.hwServe
  dsimp only
  exact .ite h
      (by
         split
         · exact h
         · exact .emit (.setHw h))

theorem State.Sorted.hwPump {p : HwPort} {s : State} (h : s.Sorted) : (s.hwPump p).Sorted := .each h fun _ _ => .hwServe

theorem State.Sorted.hwSend {p : HwPort} {own : Bool} {f : HwFrame} {s : State} (h : s.Sorted) : (s.hwSend p own f).Sorted :=
  .ite h (.hwPump (.setHw h))

theorem State.Sorted.ownFrame {p : HwPort} {ty dst rseq : Nat} {body : HwBody} {s : State} (h : s.Sorted) :
    (s.ownFrame p ty dst rseq body).Sorted :=
  .hwSend h

theorem State.Sorted.topoAckOut {p : HwPort} {brk : Option Nat} {s : State} (h : s.Sorted) : (s.topoAckOut p brk).Sorted := .ownFrame h

theorem State.Sorted.enterHost {src : Nat} {d : Datagram} {s : State} (h : s.Sorted) : (s.enterHost src d).Sorted :=
  .ite (.ite (.formResp h) h) (.other h)

theorem State.Sorted.forwardUp {f : HwFrame} {s : State} (h : s.Sorted) : (s.forwardUp f).Sorted := by
  unfold State.forwardUp
  split
  · exact .enterHost h
  · exact h

theorem State.Sorted.diverged {src rseq : Nat} {s : State} (h : s.Sorted) : (s.diverged src rseq).Sorted := .bump (.wr (.wr (.ringFlag h)))

theorem State.Sorted.setCopy {src rseq : Nat} {c : Copy} {s : State} (h : s.Sorted) : (s.setCopy src rseq c).Sorted := .other h

theorem State.Sorted.forwardCopy {f : HwFrame} {s : State} (h : s.Sorted) : (s.forwardCopy f).Sorted := .forwardUp (.setCopy h)

theorem State.Sorted.judgeCopy {f : HwFrame} {s : State} (h : s.Sorted) : (s.judgeCopy f).Sorted := by
  unfold State.judgeCopy
  dsimp only
  split
  · exact .ite (.bump h) (.diverged h)
  · exact .ite (.bump (.ite h (.forwardCopy h))) (.diverged (.ite h (.forwardCopy h)))
  · exact .ite (.setCopy h) (.forwardCopy h)

theorem State.Sorted.judge {f : HwFrame} {s : State} (h : s.Sorted) : (s.judge f).Sorted := .ite (.bump h) (.ite (.bump h) (.judgeCopy h))

theorem State.Sorted.releaseHeld {src rseq : Nat} {s : State} (h : s.Sorted) : (s.releaseHeld src rseq).Sorted := by
  unfold State.releaseHeld
  dsimp only
  split
  · exact .forwardCopy h
  · exact h

theorem execPathBHoldExpiry_sorted {src : Fin 64} {rseq : Word} {s : State} (h : s.Sorted) : OutcomeSorted (execPathBHoldExpiry src rseq s) :=
  .next (.ite (.releaseHeld h) h)

theorem State.Sorted.addBreak {seg : Nat} {s : State} (h : s.Sorted) : (s.addBreak seg).Sorted :=
  .ite h
    (.each (.unless (.wr (.put (.put (.other h)))) .ringLog) fun _ _ k => .ite (.each k fun _ _ => .releaseHeld) k)

theorem State.Sorted.noteBreak {seg : Nat} {s : State} (h : s.Sorted) : (s.noteBreak seg).Sorted := .ite (.addBreak h) (.other h)

theorem State.Sorted.passed {p : HwPort} {s : State} (h : s.Sorted) : (s.passed p).Sorted := .other h

theorem State.Sorted.clearBreak {s : State} (h : s.Sorted) : s.clearBreak.Sorted := .ite h (.ringLog (.setReg (.put (.other h))))

theorem State.Sorted.lanyardLog {set : Bool} {s : State} (h : s.Sorted) : (s.lanyardLog set).Sorted := .log_ h

theorem State.Sorted.lanyardFlag {f : Machine.Field} {b : Bool} {s : State} (h : s.Sorted) : (s.lanyardFlag f b).Sorted :=
  .ite h (.lanyardLog (.put h))

theorem State.Sorted.retime {s : State} (h : s.Sorted) : s.retime.Sorted := .ite h (.lanyardFlag (.when (.wr (.wr h)) .other))

theorem State.Sorted.hwDown {p : HwPort} {s : State} (h : s.Sorted) : (s.hwDown p).Sorted :=
  .ite h (.retime (.unless (.noteBreak (.setHw (.put h))) .topoAckOut))

theorem execHawserPortUp_sorted {p : HwPort} {skew : Bool} {s : State} (h : s.Sorted) : OutcomeSorted (execHawserPortUp p skew s) :=
  .next (.ite h (.ite (.put h) (.setHw (.put h))))

theorem execHawserPortDown_sorted {p : HwPort} {s : State} (h : s.Sorted) : OutcomeSorted (execHawserPortDown p s) := .next (.hwDown h)

theorem State.Sorted.hwDisable {s : State} (h : s.Sorted) : s.hwDisable.Sorted := .hwDown (.hwDown h)

theorem State.Sorted.hwTake {p : HwPort} {ty : Nat} {ok : Bool} {f : HwFrame} {s : State} (h : s.Sorted) : (s.hwTake p ty ok f).2.Sorted :=
  .ite_snd h (.ite_snd (.emit h) (.ite_snd (.setHw h) (.ite_snd (.emit h) h)))

theorem State.Sorted.hwReplay {p : HwPort} {s : State} (h : s.Sorted) : (s.hwReplay p).Sorted :=
  .ite h (.when (.each (.bump (.setHw h)) fun _ _ => .emit) .hwDown)

theorem execHawserAck_sorted {p : HwPort} {next : Word} {credit : Half} {s : State} (h : s.Sorted) :
    OutcomeSorted (execHawserAck p next credit s) :=
  .next (.ite h (.hwPump (.setHw h)))

theorem execHawserRetry_sorted {p : HwPort} {next : Word} {credit : Half} {s : State} (h : s.Sorted) :
    OutcomeSorted (execHawserRetry p next credit s) :=
  .next (.ite h (.hwPump (.hwReplay (.setHw h))))

theorem execReplayTimeout_sorted {p : HwPort} {s : State} (h : s.Sorted) : OutcomeSorted (execReplayTimeout p s) := .next (.ite (.hwReplay h) h)

theorem execAckSend_sorted {p : HwPort} {s : State} (h : s.Sorted) : OutcomeSorted (execAckSend p s) := .next (.ite (.emit h) h)

theorem execTopoSend_sorted {s : State} (h : s.Sorted) : OutcomeSorted (execTopoSend s) := .next (.ite (.ownFrame (.ownFrame h)) h)

theorem State.Sorted.takePos {n : Int} {s : State} (h : s.Sorted) : (s.takePos n).Sorted := .ite (.ite h (.ringFlag h)) (.put (.wr h))

theorem State.Sorted.topoAtHead {p : HwPort} {own : Bool} {count : Int} {s : State} (h : s.Sorted) : (s.topoAtHead p own count).Sorted := by
  unfold State.topoAtHead
  dsimp only
  exact .ite (.ringFlag h)
      (.when
         (.other <| by
            split
            · exact .ite h (.put h)
            · exact h) .clearBreak)

theorem State.Sorted.topoAtDevice {p : HwPort} {f : HwFrame} {count : Int} {s : State} (h : s.Sorted) : (s.topoAtDevice p f count).Sorted :=
  .topoAckOut (.topoAckOut (.hwSend (.passed (.takePos h))))

theorem execTopo_sorted {p : HwPort} {ok own : Bool} {f : HwFrame} {s : State} (h : s.Sorted) : OutcomeSorted (execTopo p ok own f s) := by
  unfold execTopo
  dsimp only
  exact .next <| by
      split
      · exact .ite (.topoAtHead (.hwTake h)) (.topoAtDevice (.hwTake h))
      · exact .hwTake h

theorem State.Sorted.setPresent {k : Nat} {b : Bool} {s : State} (h : s.Sorted) : (s.setPresent k b).Sorted := .ite (.putBit h) (.putBit h)

theorem State.Sorted.absent {k : Nat} {s : State} (h : s.Sorted) : (s.absent k).Sorted :=
  .ite h (.each (.unless (.other (.setPresent h)) .put) fun _ _ => .formResp)

theorem State.Sorted.ackAtHead {k incarn : Nat} {brk : Option Nat} {s : State} (h : s.Sorted) : (s.ackAtHead k incarn brk).Sorted := by
  unfold State.ackAtHead
  dsimp only
  split
  · exact .addBreak (.unless (.setPresent h) fun k => .unless (.put (.other k)) .ringLog)
  · exact .unless (.setPresent h) fun k => .unless (.put (.other k)) .ringLog

theorem execTopoAck_sorted {p : HwPort} {ok : Bool} {f : HwFrame} {s : State} (h : s.Sorted) : OutcomeSorted (execTopoAck p ok f s) := by
  unfold execTopoAck
  dsimp only
  exact .next <| by
      split
      · exact .ite (.ite (.absent (.hwTake h)) (.ackAtHead (.hwTake h)))
            (.ite (.hwTake h)
               (.hwSend <| by
                  split
                  · exact .noteBreak (.hwTake h)
                  · exact .hwTake h))
      · exact .hwTake h

theorem execPositionAbsent_sorted {k : Fin 64} {s : State} (h : s.Sorted) : OutcomeSorted (execPositionAbsent k s) := .next (.ite (.absent h) h)

/-! ### Reset -/

theorem State.Sorted.cutCommit {s : State} (h : s.Sorted) : s.cutCommit.Sorted := by
  unfold State.cutCommit
  dsimp only
  split
  · exact h
  · exact .put (.other (.wrotePc (.wroteCal (.fresh h))))

theorem State.Sorted.keptRegs {s t : State} (h : s.Sorted) (ht : t.Sorted) : (s.keptRegs t).Sorted := .setReg (.setReg ht)

theorem State.Sorted.loadEntry {cause : Nat} {s : State} (h : s.Sorted) : (s.loadEntry cause).Sorted :=
  .showSlots (.put (.wr (.wr (.setPair (.wr (.wr (.put (.put (.wr h)))))))))

theorem State.Sorted.enterBoot {cause : Nat} {s : State} (h : s.Sorted) : (s.enterBoot cause).Sorted :=
  .other (.logNow (.loadEntry (.keptRegs (.cutFlash (.cutCommit h)) (.other .reset))))

theorem State.Sorted.powerOff {s : State} (h : s.Sorted) : s.powerOff.Sorted :=
  .driveSafe (.wr (.put (.wr (.keptRegs (.cutFlash (.cutCommit h)) (.other .reset)))))

/-! ### RegAccess -/

theorem State.Sorted.capture {s : State} {src : Source} {h : Hit} {a : Nat} {w : Word} (hs : s.Sorted) : (s.capture src h a w).2.Sorted :=
  .ite_snd (.other hs) (.other hs)

theorem State.Sorted.readEffect {h : Hit} {a : Nat} {s : State} (hs : s.Sorted) : (s.readEffect h a).Sorted := by
  unfold State.readEffect
  dsimp only
  split
  · exact .count (.ite hs (.other (.setReg hs)))
  · exact .count (.ite hs (.other (.setReg hs)))
  · exact .ite hs (.other (.setReg hs))

theorem State.Sorted.readReg {src : Source} {a : Nat} {s : State} (h : s.Sorted) : (s.readReg src a).Sorted := by
  unfold State.readReg
  dsimp only
  exact .ite h
      (by
         split
         · exact .other h
         · exact .ite (.other h) (.other (.readEffect (.capture h))))

theorem State.Sorted.wrStrand {image : Bool} {i off : Nat} {v : Word} {s : State} (h : s.Sorted) : (s.wrStrand image i off v).Sorted := by
  unfold State.wrStrand
  split
  · exact .ite h (.ite (.runOn h) (.runOff h))
  · exact .ite (.strandAbort h) h
  · exact h

theorem State.Sorted.wrFold {i : Nat} {v : Word} {s : State} (h : s.Sorted) : (s.wrFold i v).Sorted := .when (.ite (.snap h) h) .restart

theorem State.Sorted.wrGapcal {free : Bool} {off : Nat} {v : Word} {s : State} (h : s.Sorted) : (s.wrGapcal free off v).Sorted := by
  unfold State.wrGapcal
  dsimp only
  split
  · exact .when (.ite (.commitCmd h) h) .gapAbortCmd
  · exact .ite (.windowWrite h) h
  · exact .ite (.windowWrite h) h
  · exact .ite (.windowWrite h) h
  · exact h

theorem State.Sorted.monCtrl {ch : Nat} {old : Word} {s : State} (h : s.Sorted) : (s.monCtrl ch old).Sorted :=
  .ite (.setChan (.repower h)) (.unless (.repower h) .monWait)

theorem State.Sorted.watchPower {ch : Nat} {was : Word} {s : State} (h : s.Sorted) : (s.watchPower ch was).Sorted := .ite (.monWait (.setChan h)) h

theorem State.Sorted.wrFc {ch off : Nat} {was : Word} {s : State} (h : s.Sorted) : (s.wrFc ch off was).Sorted := by
  unfold State.wrFc
  split
  · exact .watchPower (.repower h)
  · exact .ixSkew (.repower h)
  · exact h

theorem State.Sorted.wrPc {free : Bool} {c off : Nat} {v was : Word} {s : State} (h : s.Sorted) : (s.wrPc free c off v was).Sorted := by
  unfold State.wrPc
  dsimp only
  split
  · exact .fstatCleared (.setPc h)
  · exact .when (.when (.when (.when (.setPc h) .icalStart) .sysClear) .sysStart) .sysStart
  · exact .ite (.excImm (.setPc h)) (.when (.setPc h) .pcPend)

theorem State.Sorted.wrCore {free : Bool} {c off : Nat} {v : Word} {s : State} (h : s.Sorted) : (s.wrCore free c off v).Sorted := by
  unfold State.wrCore
  split
  · exact .coreEnable h
  · exact .ite (.coreAbort h) h
  · exact .csinitWritten h
  · exact .pend h
  · exact .ite (.count (.imWrite h)) h
  · exact .ite (.count (.dmWrite h)) h
  · exact h

theorem State.Sorted.bootCmd {free : Bool} {v : Word} {s : State} (h : s.Sorted) : (s.bootCmd free v).Sorted :=
  .ite h
    (.ite (.reject h)
       (.ite (.ite (.governed (.enterBoot h)) h)
          (.ite (.cmdRun h) (.ite (.cmdHold h) (.ite (.cmdResume h) (.ite (.cmdWatch h) h))))))

theorem State.Sorted.wrBoot {free : Bool} {off : Nat} {v : Word} {s : State} (h : s.Sorted) : (s.wrBoot free off v).Sorted := by
  unfold State.wrBoot
  split
  · exact .bootCmd h
  · exact .ite (.fdataWrite h) h
  · exact .ite (.flashCmd h) h
  · exact h

theorem State.Sorted.wrLog {src : Nat} {free : Bool} {off : Nat} {v : Word} {s : State} (h : s.Sorted) : (s.wrLog src free off v).Sorted := by
  unfold State.wrLog
  split
  · exact .ite (.freezeCmd h) h
  · exact .ite (.markLog h) h
  · exact .ite (.lockFlags h) h
  · exact h

theorem State.Sorted.logCleared {h : Hit} {was : Word} {s : State} (hs : s.Sorted) : (s.logCleared h was).Sorted := by
  unfold State.logCleared
  split
  · exact .ite hs (.each hs fun _ _ => .ringLog)
  · exact .ite (.lanyardLog hs) hs
  · exact hs

theorem State.Sorted.writeEffect {src : Nat} {image free : Bool} {h : Hit} {v was : Word} {s : State} (hs : s.Sorted) :
    (s.writeEffect src image free h v was).Sorted := by
  unfold State.writeEffect
  split
  · exact .wrStrand hs
  · exact .ite (.wrFold hs) hs
  · exact .ite (.relPlanes hs) hs
  · exact .wrFc hs
  · exact .ite (.monCtrl hs) hs
  · exact .wrGapcal hs
  · exact .wrPc hs
  · exact .wrCore hs
  · exact .ite (.rxPause (.ite hs (.hostDown hs))) (.ite (.driveEvt hs) hs)
  · exact .ite (.retime (.ite hs (.hwDisable hs))) (.logCleared hs)
  · exact .logCleared hs
  · exact .wrBoot hs
  · exact .ite (.clearFaults hs) (.ite (.source hs) hs)
  · exact .wrLog hs
  · exact hs

theorem State.Sorted.writeHit {src : Nat} {image : Bool} {h : Hit} {a : Nat} {v act : Word} {s : State} (hs : s.Sorted) :
    (s.writeHit src image h a v act).Sorted :=
  .when (.unless (.other hs) fun k => .writeEffect (.when (.setReg k) .logBy)) .other

theorem State.Sorted.noteWrite {src : Source} {a : Nat} {s : State} (h : s.Sorted) : (s.noteWrite src a).Sorted := .other h

theorem State.Sorted.writeReg {src : Source} {a : Nat} {v : Word} {s : State} (h : s.Sorted) : (s.writeReg src a v).Sorted := by
  unfold State.writeReg
  exact .ite h
      (by
         split
         · exact .other h
         · exact .ite (.other h) (.ite (.other h) (.noteWrite (.writeHit h))))

theorem State.Sorted.imageWrite {a : Nat} {v : Word} {s : State} (h : s.Sorted) : (s.imageWrite a v).Sorted := by
  unfold State.imageWrite
  split
  · exact h
  · exact .writeHit h

theorem State.Sorted.writeField {src : Source} {f : Machine.Field} {i v : Nat} {s : State} (h : s.Sorted) : (s.writeField src f i v).Sorted :=
  .writeReg h

theorem execRegisterWrite_sorted {src : Source} {addr : Nat} {v : Word} {s : State} (h : s.Sorted) :
    OutcomeSorted (execRegisterWrite src addr v s) :=
  .next (.writeReg h)

theorem execStrandStart_sorted {src : Source} {i : StrandId} {s : State} (h : s.Sorted) : OutcomeSorted (execStrandStart src i s) :=
  .next (.writeReg h)

theorem execStrandStop_sorted {src : Source} {i : StrandId} {s : State} (h : s.Sorted) : OutcomeSorted (execStrandStop src i s) :=
  .next (.writeReg h)

theorem execStrandCmdAbort_sorted {src : Source} {i : StrandId} {any : Bool} {tag : Byte} {s : State} (h : s.Sorted) :
    OutcomeSorted (execStrandCmdAbort src i any tag s) :=
  .next (.writeField h)

theorem execFoldCmdSnap_sorted {src : Source} {i : StrandId} {s : State} (h : s.Sorted) : OutcomeSorted (execFoldCmdSnap src i s) :=
  .next (.writeField h)

theorem execFoldCmdRestart_sorted {src : Source} {i : StrandId} {s : State} (h : s.Sorted) : OutcomeSorted (execFoldCmdRestart src i s) :=
  .next (.writeField h)

theorem execFoldRel_sorted {src : Source} {ch : ChanId} {relA relB : Bool} {s : State} (h : s.Sorted) :
    OutcomeSorted (execFoldRel src ch relA relB s) :=
  .next (.writeField h)

theorem execGapcalCmdAbort_sorted {src : Source} {i : StrandId} {s : State} (h : s.Sorted) : OutcomeSorted (execGapcalCmdAbort src i s) :=
  .next (.writeField h)

theorem execGapcalCmdCommit_sorted {src : Source} {s : State} (h : s.Sorted) : OutcomeSorted (execGapcalCmdCommit src s) := .next (.writeField h)

theorem execCalHeldWrite_sorted {src : Source} {which : BitVec 2} {v : Word} {s : State} (h : s.Sorted) :
    OutcomeSorted (execCalHeldWrite src which v s) := by
  unfold execCalHeldWrite
  exact .next <| by
      split
      · exact .writeReg h
      · exact .writeReg h
      · exact .writeReg h
      · exact h

theorem execPcExcImm_sorted {src : Source} {c : PcId} {v : Word} {s : State} (h : s.Sorted) : OutcomeSorted (execPcExcImm src c v s) :=
  .next (.writeReg h)

theorem execPcCmdIcal_sorted {src : Source} {c : PcId} {s : State} (h : s.Sorted) : OutcomeSorted (execPcCmdIcal src c s) := .next (.writeField h)

theorem execPcCmdSysz_sorted {src : Source} {c : PcId} {s : State} (h : s.Sorted) : OutcomeSorted (execPcCmdSysz src c s) := .next (.writeField h)

theorem execPcCmdSyss_sorted {src : Source} {c : PcId} {s : State} (h : s.Sorted) : OutcomeSorted (execPcCmdSyss src c s) := .next (.writeField h)

theorem execPcCmdSysclr_sorted {src : Source} {c : PcId} {s : State} (h : s.Sorted) : OutcomeSorted (execPcCmdSysclr src c s) :=
  .next (.writeField h)

theorem execCoreCmdAbort_sorted {src : Source} {c : CoreId} {any : Bool} {tag : Byte} {s : State} (h : s.Sorted) :
    OutcomeSorted (execCoreCmdAbort src c any tag s) :=
  .next (.writeField h)

theorem execCoreDoor_sorted {src : Source} {c : CoreId} {v : Word} {s : State} (h : s.Sorted) : OutcomeSorted (execCoreDoor src c v s) :=
  .next (.writeReg h)

theorem execCoreImdAccess_sorted {src : Source} {c : CoreId} {w : Option Word} {s : State} (h : s.Sorted) :
    OutcomeSorted (execCoreImdAccess src c w s) := by
  unfold execCoreImdAccess
  exact .next <| by
      split
      · exact .writeReg h
      · exact .readReg h

theorem execCoreDmdatAccess_sorted {src : Source} {c : CoreId} {w : Option Word} {s : State} (h : s.Sorted) :
    OutcomeSorted (execCoreDmdatAccess src c w s) := by
  unfold execCoreDmdatAccess
  exact .next <| by
      split
      · exact .writeReg h
      · exact .readReg h

theorem execBootCmdRun_sorted {src : Source} {s : State} (h : s.Sorted) : OutcomeSorted (execBootCmdRun src s) := .next (.writeField h)

theorem execBootCmdHold_sorted {src : Source} {s : State} (h : s.Sorted) : OutcomeSorted (execBootCmdHold src s) := .next (.writeField h)

theorem execBootCmdResume_sorted {src : Source} {s : State} (h : s.Sorted) : OutcomeSorted (execBootCmdResume src s) := .next (.writeField h)

theorem execBootCmdWatch_sorted {src : Source} {s : State} (h : s.Sorted) : OutcomeSorted (execBootCmdWatch src s) := .next (.writeField h)

theorem execBootCmdSwrst_sorted {src : Source} {key : Byte} {s : State} (h : s.Sorted) : OutcomeSorted (execBootCmdSwrst src key s) :=
  .next (.writeField h)

theorem execBootFcmdErase_sorted {src : Source} {s : State} (h : s.Sorted) : OutcomeSorted (execBootFcmdErase src s) := .next (.writeField h)

theorem execBootFcmdProgram_sorted {src : Source} {s : State} (h : s.Sorted) : OutcomeSorted (execBootFcmdProgram src s) := .next (.writeField h)

theorem execBootFcmdRead_sorted {src : Source} {s : State} (h : s.Sorted) : OutcomeSorted (execBootFcmdRead src s) := .next (.writeField h)

theorem execBootFdataWrite_sorted {src : Source} {v : Word} {s : State} (h : s.Sorted) : OutcomeSorted (execBootFdataWrite src v s) :=
  .next (.writeReg h)

theorem execSafetyFaultClear_sorted {src : Source} {w : Word} {s : State} (h : s.Sorted) : OutcomeSorted (execSafetyFaultClear src w s) :=
  .next (.writeReg h)

theorem execSafetyTestInj_sorted {src : Source} {s : State} (h : s.Sorted) : OutcomeSorted (execSafetyTestInj src s) := .next (.writeField h)

theorem execLogCmdFreeze_sorted {src : Source} {s : State} (h : s.Sorted) : OutcomeSorted (execLogCmdFreeze src s) := .next (.writeField h)

theorem execLogMark_sorted {src : Source} {v : Word} {s : State} (h : s.Sorted) : OutcomeSorted (execLogMark src v s) := .next (.writeReg h)

/-! ### Image -/

theorem State.Sorted.chooseCopy {s : State} (h : s.Sorted) : s.chooseCopy.2.Sorted := by
  unfold State.chooseCopy
  dsimp only
  split
  · exact .put (.put (.put h))
  · exact .wr (.wr (.wr (.wr (.put (.put h)))))
  · exact .wr (.wr (.wr (.wr (.put (.put h)))))
  · refine .ite_snd (.wr (.wr (.wr (.wr (.put (.put h)))))) ?_
    split
    · dsimp only
      exact .logNow (.put (.wr (.wr (.wr (.wr (.put (.put h)))))))
    · exact .wr (.wr (.wr (.wr (.put (.put h)))))

theorem State.Sorted.applyLock {x : Section} {s : State} (h : s.Sorted) : (s.applyLock x).Sorted := .ite (.other (.wr (.wr h))) (.wr h)

theorem State.Sorted.applySafety {x : Section} {s : State} (h : s.Sorted) : (s.applySafety x).Sorted := .ite (.wr (.wr (.wr (.wr h)))) h

theorem State.Sorted.applySection {x : Section} {s : State} (h : s.Sorted) : (s.applySection x).Sorted := by
  unfold State.applySection
  dsimp only
  split
  · exact .each h fun _ _ => .imageWrite
  · exact .each h fun _ _ k => .each k fun _ _ => .imWrite
  · exact .each h fun _ _ => .dmWrite
  · exact .applyLock h
  · exact .applySafety h
  · exact .other h
  · exact h

theorem State.Sorted.applyImage {i : Option Image} {s : State} (h : s.Sorted) : (s.applyImage i).Sorted := by
  unfold State.applyImage
  dsimp only
  exact .lockFlags <| by
      split
      · exact h
      · exact .wr (.each h fun _ _ => .applySection)

theorem State.Sorted.loadCal {vals : List (List Int × List Int × Int)} {s : State} (h : s.Sorted) : (s.loadCal vals).Sorted :=
  .each h fun _ _ k => .ixSkew (.setChan k)

theorem State.Sorted.loadPc {cals : List PcCal} {rint kref : Nat} {s : State} (h : s.Sorted) : (s.loadPc cals rint kref).Sorted :=
  .each h fun _ _ k => .wr (.wr (.setPc k))

theorem State.Sorted.storeBad {k : Nat} {div lost : Bool} {s : State} (h : s.Sorted) : (s.storeBad k div lost).Sorted :=
  .when (.when (.ite (.raise h) h) .raise) .logNow

theorem State.Sorted.loadStores {s : State} (h : s.Sorted) : s.loadStores.Sorted := by
  unfold State.loadStores
  dsimp only
  exact .storeBad <| by
      split
      · exact .loadPc <| .storeBad <| by
            split
            · exact .setPair (.wr (.loadCal h))
            · exact .loadCal h
      · exact .loadPc <| .storeBad <| by
            split
            · exact .setPair (.wr (.loadCal h))
            · exact .loadCal h

end Sys2Proof.Machine
end
-- ==== Sys2Proof/Proofs/SortedD.lean ====
section
/-! What each operation of the model's files Boot to HostPort does keeps the stores in canonical form: one lemma per operation, composed
as its definition composes the operations below it. -/

namespace Sys2Proof.Machine

/-! ### Boot -/

theorem execBootComplete_sorted {time : Half} {s : State} (h : s.Sorted) : OutcomeSorted (execBootComplete time s) :=
  .next <| .ite h
    (.when
       (.each
          (.each
             (.each
                (.enter (.each (.logNow (.wr (.loadStores (.applyImage (.chooseCopy h))))) fun _ _ => .setPort)) fun _ _ => .repower)
             fun _ _ => .coreEnable)
          fun _ _ => .icalStart) .source)

theorem execSelfTestEnd_sorted {items : BitVec 5} {time : Half} {s : State} (h : s.Sorted) : OutcomeSorted (execSelfTestEnd items time s) :=
  .next <| .ite h (.unless (.unless (.logNow (.wr (.wr h))) .source) fun k => .ite (.enterSafeStop k) (.when (.enter k) .put))

theorem execArmedToRunning_sorted {s : State} (h : s.Sorted) : OutcomeSorted (execArmedToRunning s) := .next (.ite (.beginStartCal h) h)

theorem execStartCalibrationEnd_sorted {s : State} (h : s.Sorted) : OutcomeSorted (execStartCalibrationEnd s) := by
  unfold execStartCalibrationEnd
  dsimp only
  exact .next <| by
      split
      · exact h
      · exact .ite h (.each (.enterRunning (.put (.put (.dropStartCal h)))) fun _ _ => .runOn)

theorem execRstNReset_sorted {s : State} (h : s.Sorted) : OutcomeSorted (execRstNReset s) := .next (.ite h (.governed (.enterBoot h)))

theorem State.Sorted.takeStraps {s : State} (h : s.Sorted) : s.takeStraps.Sorted := .wr (.wr h)

theorem State.Sorted.frontState {n : Nat} {s : State} (h : s.Sorted) : (s.frontState n).Sorted := .wr h

theorem State.Sorted.beginPowering {s : State} (h : s.Sorted) : s.beginPowering.Sorted := .other (.frontState (.takeStraps h))

theorem execLineDetect_sorted {s : State} (h : s.Sorted) : OutcomeSorted (execLineDetect s) := .next (.ite (.frontState h) h)

theorem execLineRemoved_sorted {s : State} (h : s.Sorted) : OutcomeSorted (execLineRemoved s) := .next (.when (.wr (.other h)) .frontState)

theorem execClassQuery_sorted {s : State} (h : s.Sorted) : OutcomeSorted (execClassQuery s) := .next (.ite (.other h) h)

theorem execClassRequest_sorted {s : State} (h : s.Sorted) : OutcomeSorted (execClassRequest s) := .next (.ite (.emit (.other (.takeStraps h))) h)

theorem execGrant_sorted {g : GrantIn} {s : State} (h : s.Sorted) : OutcomeSorted (execGrant g s) := .next (.ite (.wr (.other h)) h)

theorem execStartThreshold_sorted {s : State} (h : s.Sorted) : OutcomeSorted (execStartThreshold s) :=
  .next (.ite h (.ite (.beginPowering h) (.ite (.ite (.beginPowering h) (.raise h)) h)))

theorem execPowerGood_sorted {s : State} (h : s.Sorted) : OutcomeSorted (execPowerGood s) := .next (.ite (.enterBoot (.wr h)) h)

theorem execPoweringTimeout_sorted {s : State} (h : s.Sorted) : OutcomeSorted (execPoweringTimeout s) := .next (.ite (.other (.powerOff h)) h)

theorem execPoweringRetry_sorted {s : State} (h : s.Sorted) : OutcomeSorted (execPoweringRetry s) := .next (.other h)

theorem execLossOfInput_sorted {s : State} (h : s.Sorted) : OutcomeSorted (execLossOfInput s) :=
  .next (.ite h (.unless (.wr (.fresh h)) fun k => .other (.governed (.brownOut (.put (.cutCommit k))))))

theorem execHoldupExpiry_sorted {s : State} (h : s.Sorted) : OutcomeSorted (execHoldupExpiry s) := .next (.ite (.powerOff h) h)

/-! ### Kernels -/

theorem State.Sorted.putArea {c a : Nat} {x : Area} {s : State} (h : s.Sorted) : (s.putArea c a x).Sorted := .dmWrite (.setCore (.fresh h))

theorem State.Sorted.setLib {c : Nat} {r : LibRun} {s : State} (h : s.Sorted) : (s.setLib c r).Sorted := .setCore h

theorem State.Sorted.unbind {c : Nat} {bs : List (Nat × Nat)} {s : State} (h : s.Sorted) : (s.unbind c bs).Sorted := .releaseAll (.setCore h)

theorem State.Sorted.libDone {c : Nat} {r : LibRun} {msgs : List (Nat × List Byte)} {s : State} (h : s.Sorted) : (s.libDone c r msgs).Sorted :=
  .setLib h

theorem State.Sorted.libFail {c : Nat} {r : LibRun} {cause detail : Nat} {s : State} (h : s.Sorted) : (s.libFail c r cause detail).Sorted :=
  .libDone (.dropBinds h)

theorem State.Sorted.libSpace {c : Nat} {r : LibRun} {s : State} (h : s.Sorted) : (s.libSpace c r).Sorted := .setCore (.fresh h)

theorem State.Sorted.libStart {c : Nat} {r : LibRun} {s : State} (h : s.Sorted) : (s.libStart c r).Sorted := by
  unfold State.libStart
  dsimp only
  split
  · exact .ite (.libDone (.dropBinds h)) (.setLib (.libSpace h))
  · exact .setLib (.libSpace (.unbind h))
  · exact .setLib (.libSpace h)

theorem State.Sorted.enterLib {c : Nat} {s : State} (h : s.Sorted) : (s.enterLib c).Sorted := by
  unfold State.enterLib
  dsimp only
  exact .ite
      (by
         split
         · exact .libFail (.setCore h)
         · exact .libStart (.setCore h)) h

theorem State.Sorted.tempProduct {c : Nat} {r : LibRun} {s : State} (h : s.Sorted) : (s.tempProduct c r).2.Sorted := by
  unfold State.tempProduct
  dsimp only
  split
  · exact h
  · exact .putArea (.fresh (.fresh h))

theorem State.Sorted.strainProduct {c : Nat} {r : LibRun} {s : State} (h : s.Sorted) : (s.strainProduct c r).2.Sorted := .putArea (.fresh h)

theorem State.Sorted.product {c : Nat} {r : LibRun} {s : State} (h : s.Sorted) : (s.product c r).2.Sorted := by
  unfold State.product
  split
  · exact h
  · exact h
  · exact .tempProduct h
  · exact .strainProduct h

theorem State.Sorted.libFree {c : Nat} {r : LibRun} {s : State} (h : s.Sorted) : (s.libFree c r).Sorted := .unbind h

theorem State.Sorted.libJudge {c : Nat} {r : LibRun} {s : State} (h : s.Sorted) : (s.libJudge c r).Sorted := by
  unfold State.libJudge
  dsimp only
  split
  · exact .libFail h
  · exact .setLib (.libFree (.ite (.setCore h) h))

theorem State.Sorted.libFinish {c : Nat} {s : State} (h : s.Sorted) : (s.libFinish c).Sorted := by
  unfold State.libFinish
  dsimp only
  split
  · exact .ite (.libDone (.libSpace (.product h))) h
  · exact h

theorem State.Sorted.libHauled {c : Nat} {r : LibRun} {h : Haul} {items : List (List Byte × Bool)} {ue : Bool} {s : State} (hs : s.Sorted) :
    (s.libHauled c r h items ue).Sorted :=
  .ite (.libFinish (.libFree (.setLib (.setCore hs))))
    (.when (.setLib (.setCore hs)) fun k => .libFinish (.libJudge k))

theorem State.Sorted.libBegin {c piece : Nat} {s : State} (h : s.Sorted) : (s.libBegin c piece).Sorted := by
  unfold State.libBegin
  dsimp only
  split
  · exact h
  · split
    · exact h
    · exact .ite (.libFail h) (.setCore h)

theorem execHaulDescriptorBegin_sorted {x : HaulStart} {s : State} (h : s.Sorted) : OutcomeSorted (execHaulDescriptorBegin x s) := by
  unfold execHaulDescriptorBegin
  dsimp only
  exact .next <| by
      split
      · exact .ite (.when (.haulStatus (.setCore h)) .pend) (.setCore (.setCore h))
      · exact .libBegin h
      · exact h

theorem execHaulDescriptorEnd_sorted {c : CoreId} {errs : List (Nat × Ecc)} {bank : BankUse} {s : State} (h : s.Sorted) :
    OutcomeSorted (execHaulDescriptorEnd c errs bank s) := by
  unfold execHaulDescriptorEnd
  dsimp only
  exact .next <| by
      split
      · exact h
      · split
        · exact .libHauled (.haulCopy (.setCore h))
        · exact .when (.haulStatus (.haulCopy (.setCore h))) .pend

theorem execJobStart_sorted {c : CoreId} {fetch : Ecc} {s : State} (h : s.Sorted) : OutcomeSorted (execJobStart c fetch s) := by
  unfold execJobStart
  dsimp only
  exact .next <| by
      split
      · exact h
      · exact .ite h
            (.ite
               (.coreFault (.coreEcc (.count (.wr (.showJobs (.setCore h))))))
               (.ite
                  (.coreFault (.coreEcc (.count (.wr (.showJobs (.setCore h)))))) (.enterLib (.coreEcc (.count (.wr (.showJobs (.setCore h))))))))

theorem execEndRetire_sorted {c : CoreId} {s : State} (h : s.Sorted) : OutcomeSorted (execEndRetire c s) := by
  unfold execEndRetire
  dsimp only
  exact .next <| by
      split
      · exact h
      · exact .ite (.when (.setCore h) .toIdle) (.other (.wr (.lastRun (.dropBinds (.cancelHauls (.setCore h))))))

/-! ### CoreIssue -/

theorem State.Sorted.issue {c : Nat} {eff : State → Did} {s : State} (he : ∀ v : State, v.Sorted → (eff v).Sorted) (h : s.Sorted) :
    (s.issue c eff).Sorted := by
  cases hc : s.canIssue c with
  | false => rwa [State.issue_blocked c eff s hc]
  | true =>
    have ha : (s.atIssue c).Sorted := .wr (.setCore h)
    have hd := he _ ha
    rw [State.issue_eq c eff s hc]
    generalize eff (s.atIssue c) = d at hd ⊢
    cases d with
    | wait => exact .setCore h
    | fault code => exact .coreFault ha
    | ok u post =>
      replace hd : u.Sorted := hd
      cases post with
      | none => exact .when hd.setCore .enterLib
      | some x =>
        dsimp only
        split
        · exact .writeReg (.when hd.setCore .enterLib)
        · exact .when hd.setCore .enterLib

theorem coreOp_sorted {c : CoreId} {f : CoreRt → CoreRt} {s : State} (h : s.Sorted) : OutcomeSorted (coreOp c f s) :=
  .next (.issue (fun _ k => .ok (.setCore k)) h)

theorem scalarOp_sorted {c : CoreId} {d : BitVec 5} {f : CoreRt → Word} {s : State} (h : s.Sorted) : OutcomeSorted (scalarOp c d f s) :=
  coreOp_sorted h

theorem State.Sorted.loadEcc {c a : Nat} {e : Ecc} {s : State} (h : s.Sorted) : (s.loadEcc c a e).Sorted :=
  .when (.coreEcc h) fun k => .setCore (.sourceAt (.put k))

theorem Did.Sorted.loadFrom {c : Nat} {p : BitVec 5} {m : Mem} {n al : Nat} {e : Ecc} {put : CoreRt → List Byte → CoreRt} {s : State}
    (h : s.Sorted) : (s.loadFrom c p m n al e put).Sorted :=
  .ite (.ok (.loadEcc (.setCore (.deliverBytes h)))) .fault

theorem scalarLoad_sorted {c : CoreId} {t p : BitVec 5} {m : Mem} {n : Nat} {e : Ecc} {ext : Nat → Word} {s : State} (h : s.Sorted) :
    OutcomeSorted (scalarLoad c t p m n e ext s) :=
  .next (.issue (fun _ => .loadFrom) h)

theorem Did.Sorted.storeTo {c : Nat} {p : BitVec 5} {m : Mem} {al : Nat} {bs : List Byte} {s : State} (h : s.Sorted) :
    (s.storeTo c p m al bs).Sorted :=
  .ite (.ok (.dmWrite (.setCore h))) .fault

theorem scalarStore_sorted {c : CoreId} {t p : BitVec 5} {m : Mem} {n : Nat} {s : State} (h : s.Sorted) :
    OutcomeSorted (scalarStore c t p m n s) :=
  .next (.issue (fun _ => .storeTo) h)

theorem Did.Sorted.loadWord {c : Nat} {t p : BitVec 5} {m : Mem} {e : Ecc} {s : State} (h : s.Sorted) : (s.loadWord c t p m e).Sorted :=
  .ite (.ok (.setCore h)) (.loadFrom h)

theorem Did.Sorted.storeWord {c : Nat} {t p : BitVec 5} {m : Mem} {s : State} (h : s.Sorted) : (s.storeWord c t p m).Sorted :=
  .ite (.ok (.setCore h)) (.storeTo h)

theorem branchOp_sorted {c : CoreId} {taken : CoreRt → Bool} {target : BitVec 15} {s : State} (h : s.Sorted) :
    OutcomeSorted (branchOp c taken target s) :=
  coreOp_sorted h

/-! ### CoreIsa -/

theorem execAdd_sorted {c : CoreId} {d a b : BitVec 5} {s : State} (h : s.Sorted) : OutcomeSorted (execAdd c d a b s) := scalarOp_sorted h

theorem execSub_sorted {c : CoreId} {d a b : BitVec 5} {s : State} (h : s.Sorted) : OutcomeSorted (execSub c d a b s) := scalarOp_sorted h

theorem execAnd_sorted {c : CoreId} {d a b : BitVec 5} {s : State} (h : s.Sorted) : OutcomeSorted (execAnd c d a b s) := scalarOp_sorted h

theorem execOr_sorted {c : CoreId} {d a b : BitVec 5} {s : State} (h : s.Sorted) : OutcomeSorted (execOr c d a b s) := scalarOp_sorted h

theorem execXor_sorted {c : CoreId} {d a b : BitVec 5} {s : State} (h : s.Sorted) : OutcomeSorted (execXor c d a b s) := scalarOp_sorted h

theorem execShl_sorted {c : CoreId} {d a b : BitVec 5} {s : State} (h : s.Sorted) : OutcomeSorted (execShl c d a b s) := scalarOp_sorted h

theorem execShr_sorted {c : CoreId} {d a b : BitVec 5} {s : State} (h : s.Sorted) : OutcomeSorted (execShr c d a b s) := scalarOp_sorted h

theorem execSra_sorted {c : CoreId} {d a b : BitVec 5} {s : State} (h : s.Sorted) : OutcomeSorted (execSra c d a b s) := scalarOp_sorted h

theorem execSlt_sorted {c : CoreId} {d a b : BitVec 5} {s : State} (h : s.Sorted) : OutcomeSorted (execSlt c d a b s) := scalarOp_sorted h

theorem execSltu_sorted {c : CoreId} {d a b : BitVec 5} {s : State} (h : s.Sorted) : OutcomeSorted (execSltu c d a b s) := scalarOp_sorted h

theorem execMin_sorted {c : CoreId} {d a b : BitVec 5} {s : State} (h : s.Sorted) : OutcomeSorted (execMin c d a b s) := scalarOp_sorted h

theorem execMax_sorted {c : CoreId} {d a b : BitVec 5} {s : State} (h : s.Sorted) : OutcomeSorted (execMax c d a b s) := scalarOp_sorted h

theorem execMul_sorted {c : CoreId} {d a b : BitVec 5} {s : State} (h : s.Sorted) : OutcomeSorted (execMul c d a b s) := coreOp_sorted h

theorem execShli_sorted {c : CoreId} {d a sh : BitVec 5} {s : State} (h : s.Sorted) : OutcomeSorted (execShli c d a sh s) := scalarOp_sorted h

theorem execShri_sorted {c : CoreId} {d a sh : BitVec 5} {s : State} (h : s.Sorted) : OutcomeSorted (execShri c d a sh s) := scalarOp_sorted h

theorem execSrai_sorted {c : CoreId} {d a sh : BitVec 5} {s : State} (h : s.Sorted) : OutcomeSorted (execSrai c d a sh s) := scalarOp_sorted h

theorem execAddi_sorted {c : CoreId} {d a : BitVec 5} {imm : BitVec 16} {s : State} (h : s.Sorted) : OutcomeSorted (execAddi c d a imm s) :=
  scalarOp_sorted h

theorem execAndi_sorted {c : CoreId} {d a : BitVec 5} {imm : BitVec 16} {s : State} (h : s.Sorted) : OutcomeSorted (execAndi c d a imm s) :=
  scalarOp_sorted h

theorem execOri_sorted {c : CoreId} {d a : BitVec 5} {imm : BitVec 16} {s : State} (h : s.Sorted) : OutcomeSorted (execOri c d a imm s) :=
  scalarOp_sorted h

theorem execXori_sorted {c : CoreId} {d a : BitVec 5} {imm : BitVec 16} {s : State} (h : s.Sorted) : OutcomeSorted (execXori c d a imm s) :=
  scalarOp_sorted h

theorem execSlti_sorted {c : CoreId} {d a : BitVec 5} {imm : BitVec 16} {s : State} (h : s.Sorted) : OutcomeSorted (execSlti c d a imm s) :=
  scalarOp_sorted h

theorem execLui_sorted {c : CoreId} {d : BitVec 5} {imm : BitVec 16} {s : State} (h : s.Sorted) : OutcomeSorted (execLui c d imm s) :=
  scalarOp_sorted h

theorem execLdb_sorted {c : CoreId} {t p : BitVec 5} {m : Mem} {e : Ecc} {s : State} (h : s.Sorted) : OutcomeSorted (execLdb c t p m e s) :=
  scalarLoad_sorted h

theorem execLdbu_sorted {c : CoreId} {t p : BitVec 5} {m : Mem} {e : Ecc} {s : State} (h : s.Sorted) : OutcomeSorted (execLdbu c t p m e s) :=
  scalarLoad_sorted h

theorem execLdh_sorted {c : CoreId} {t p : BitVec 5} {m : Mem} {e : Ecc} {s : State} (h : s.Sorted) : OutcomeSorted (execLdh c t p m e s) :=
  scalarLoad_sorted h

theorem execLdhu_sorted {c : CoreId} {t p : BitVec 5} {m : Mem} {e : Ecc} {s : State} (h : s.Sorted) : OutcomeSorted (execLdhu c t p m e s) :=
  scalarLoad_sorted h

theorem execLdw_sorted {c : CoreId} {t p : BitVec 5} {m : Mem} {e : Ecc} {s : State} (h : s.Sorted) : OutcomeSorted (execLdw c t p m e s) :=
  .next (.issue (fun _ => .loadWord) h)

theorem execStb_sorted {c : CoreId} {t p : BitVec 5} {m : Mem} {s : State} (h : s.Sorted) : OutcomeSorted (execStb c t p m s) := scalarStore_sorted h

theorem execSth_sorted {c : CoreId} {t p : BitVec 5} {m : Mem} {s : State} (h : s.Sorted) : OutcomeSorted (execSth c t p m s) := scalarStore_sorted h

theorem execStw_sorted {c : CoreId} {t p : BitVec 5} {m : Mem} {s : State} (h : s.Sorted) : OutcomeSorted (execStw c t p m s) :=
  .next (.issue (fun _ => .storeWord) h)

theorem execVld_sorted {c : CoreId} {t : BitVec 4} {p : BitVec 5} {m : Mem} {e : Ecc} {s : State} (h : s.Sorted) :
    OutcomeSorted (execVld c t p m e s) :=
  .next (.issue (fun _ => .loadFrom) h)

theorem execVst_sorted {c : CoreId} {t : BitVec 4} {p : BitVec 5} {m : Mem} {s : State} (h : s.Sorted) : OutcomeSorted (execVst c t p m s) :=
  .next (.issue (fun _ => .storeTo) h)

theorem execCadd_sorted {c : CoreId} {p : BitVec 5} {m : Mem} {s : State} (h : s.Sorted) : OutcomeSorted (execCadd c p m s) := by
  unfold execCadd
  exact .next <| .issue
      (fun _ k =>
         by
           split
           · exact .fault
           · exact .fault
           · exact .ok (.setCore k)
           · exact .ok (.setCore k)) h

theorem execVadd_sorted {c : CoreId} {d a b : BitVec 4} {s : State} (h : s.Sorted) : OutcomeSorted (execVadd c d a b s) := coreOp_sorted h

theorem execVsub_sorted {c : CoreId} {d a b : BitVec 4} {s : State} (h : s.Sorted) : OutcomeSorted (execVsub c d a b s) := coreOp_sorted h

theorem execVadds_sorted {c : CoreId} {d a : BitVec 4} {b : BitVec 5} {s : State} (h : s.Sorted) : OutcomeSorted (execVadds c d a b s) :=
  coreOp_sorted h

theorem execVmin_sorted {c : CoreId} {d a b : BitVec 4} {s : State} (h : s.Sorted) : OutcomeSorted (execVmin c d a b s) := coreOp_sorted h

theorem execVmax_sorted {c : CoreId} {d a b : BitVec 4} {s : State} (h : s.Sorted) : OutcomeSorted (execVmax c d a b s) := coreOp_sorted h

theorem execVabs_sorted {c : CoreId} {d a : BitVec 4} {s : State} (h : s.Sorted) : OutcomeSorted (execVabs c d a s) := coreOp_sorted h

theorem execVand_sorted {c : CoreId} {d a b : BitVec 4} {s : State} (h : s.Sorted) : OutcomeSorted (execVand c d a b s) := coreOp_sorted h

theorem execVor_sorted {c : CoreId} {d a b : BitVec 4} {s : State} (h : s.Sorted) : OutcomeSorted (execVor c d a b s) := coreOp_sorted h

theorem execVxor_sorted {c : CoreId} {d a b : BitVec 4} {s : State} (h : s.Sorted) : OutcomeSorted (execVxor c d a b s) := coreOp_sorted h

theorem execVshli_sorted {c : CoreId} {d a sh : BitVec 4} {s : State} (h : s.Sorted) : OutcomeSorted (execVshli c d a sh s) := coreOp_sorted h

theorem execVsrai_sorted {c : CoreId} {d a sh : BitVec 4} {s : State} (h : s.Sorted) : OutcomeSorted (execVsrai c d a sh s) := coreOp_sorted h

theorem execVbc_sorted {c : CoreId} {d : BitVec 4} {a : BitVec 5} {s : State} (h : s.Sorted) : OutcomeSorted (execVbc c d a s) := coreOp_sorted h

theorem execVget_sorted {c : CoreId} {d : BitVec 5} {a lane : BitVec 4} {s : State} (h : s.Sorted) : OutcomeSorted (execVget c d a lane s) :=
  scalarOp_sorted h

theorem execVput_sorted {c : CoreId} {d : BitVec 4} {a : BitVec 5} {lane : BitVec 4} {s : State} (h : s.Sorted) :
    OutcomeSorted (execVput c d a lane s) :=
  coreOp_sorted h

theorem execVcgt_sorted {c : CoreId} {d : BitVec 5} {a b : BitVec 4} {s : State} (h : s.Sorted) : OutcomeSorted (execVcgt c d a b s) :=
  scalarOp_sorted h

theorem execVcgts_sorted {c : CoreId} {d : BitVec 5} {a : BitVec 4} {b : BitVec 5} {s : State} (h : s.Sorted) :
    OutcomeSorted (execVcgts c d a b s) :=
  scalarOp_sorted h

theorem execVmov_sorted {c : CoreId} {d a : BitVec 4} {s : State} (h : s.Sorted) : OutcomeSorted (execVmov c d a s) := coreOp_sorted h

theorem macOp_sorted {c : CoreId} {d : BitVec 3} {f : CoreRt → AccOp} {s : State} (h : s.Sorted) : OutcomeSorted (macOp c d f s) := coreOp_sorted h

theorem narrow_sorted {c : CoreId} {d : BitVec 4} {a : BitVec 3} {f : Bin40 → Half} {s : State} (h : s.Sorted) :
    OutcomeSorted (narrow c d a f s) :=
  coreOp_sorted h

theorem execVmul_sorted {c : CoreId} {d : BitVec 3} {a b : BitVec 4} {s : State} (h : s.Sorted) : OutcomeSorted (execVmul c d a b s) :=
  macOp_sorted h

theorem execVmac_sorted {c : CoreId} {d : BitVec 3} {a b : BitVec 4} {s : State} (h : s.Sorted) : OutcomeSorted (execVmac c d a b s) :=
  macOp_sorted h

theorem execVmsc_sorted {c : CoreId} {d : BitVec 3} {a b : BitVec 4} {s : State} (h : s.Sorted) : OutcomeSorted (execVmsc c d a b s) :=
  macOp_sorted h

theorem execVmacs_sorted {c : CoreId} {d : BitVec 3} {a : BitVec 4} {b : BitVec 5} {s : State} (h : s.Sorted) :
    OutcomeSorted (execVmacs c d a b s) :=
  macOp_sorted h

theorem execVadda_sorted {c : CoreId} {d : BitVec 3} {a : BitVec 4} {s : State} (h : s.Sorted) : OutcomeSorted (execVadda c d a s) := macOp_sorted h

theorem execVsuba_sorted {c : CoreId} {d : BitVec 3} {a : BitVec 4} {s : State} (h : s.Sorted) : OutcomeSorted (execVsuba c d a s) := macOp_sorted h

theorem execAclr_sorted {c : CoreId} {d : BitVec 3} {s : State} (h : s.Sorted) : OutcomeSorted (execAclr c d s) := macOp_sorted h

theorem execVnrw_sorted {c : CoreId} {d : BitVec 4} {a : BitVec 3} {sh : BitVec 5} {s : State} (h : s.Sorted) :
    OutcomeSorted (execVnrw c d a sh s) :=
  coreOp_sorted h

theorem execAsum_sorted {c : CoreId} {d : BitVec 5} {a : BitVec 3} {sh : BitVec 5} {s : State} (h : s.Sorted) :
    OutcomeSorted (execAsum c d a sh s) :=
  coreOp_sorted h

theorem execAmovl_sorted {c : CoreId} {d : BitVec 4} {a : BitVec 3} {s : State} (h : s.Sorted) : OutcomeSorted (execAmovl c d a s) := narrow_sorted h

theorem execAmovh_sorted {c : CoreId} {d : BitVec 4} {a : BitVec 3} {s : State} (h : s.Sorted) : OutcomeSorted (execAmovh c d a s) := narrow_sorted h

theorem execAmovx_sorted {c : CoreId} {d : BitVec 4} {a : BitVec 3} {s : State} (h : s.Sorted) : OutcomeSorted (execAmovx c d a s) := narrow_sorted h

theorem execAset_sorted {c : CoreId} {d : BitVec 3} {a b x : BitVec 4} {s : State} (h : s.Sorted) : OutcomeSorted (execAset c d a b x s) :=
  macOp_sorted h

theorem execVdmac_sorted {c : CoreId} {d : BitVec 3} {p1 : BitVec 5} {k1 : BitVec 2} {p2 : BitVec 5} {k2 : BitVec 2} {q : BitVec 5} {neg : Bool} {e : Ecc × Ecc} {s : State}
    (h : s.Sorted) : OutcomeSorted (execVdmac c d p1 k1 p2 k2 q neg e s) :=
  .next (.issue (fun _ k => .ite (.ok (.loadEcc (.loadEcc (.setCore (.deliverBytes (.deliverBytes k)))))) .fault) h)

theorem execBeq_sorted {c : CoreId} {a b : BitVec 5} {target : BitVec 15} {s : State} (h : s.Sorted) :
    OutcomeSorted (execBeq c a b target s) :=
  branchOp_sorted h

theorem execBne_sorted {c : CoreId} {a b : BitVec 5} {target : BitVec 15} {s : State} (h : s.Sorted) :
    OutcomeSorted (execBne c a b target s) :=
  branchOp_sorted h

theorem execBlt_sorted {c : CoreId} {a b : BitVec 5} {target : BitVec 15} {s : State} (h : s.Sorted) :
    OutcomeSorted (execBlt c a b target s) :=
  branchOp_sorted h

theorem execBge_sorted {c : CoreId} {a b : BitVec 5} {target : BitVec 15} {s : State} (h : s.Sorted) :
    OutcomeSorted (execBge c a b target s) :=
  branchOp_sorted h

theorem execBltu_sorted {c : CoreId} {a b : BitVec 5} {target : BitVec 15} {s : State} (h : s.Sorted) :
    OutcomeSorted (execBltu c a b target s) :=
  branchOp_sorted h

theorem execBgeu_sorted {c : CoreId} {a b : BitVec 5} {target : BitVec 15} {s : State} (h : s.Sorted) :
    OutcomeSorted (execBgeu c a b target s) :=
  branchOp_sorted h

theorem execJmp_sorted {c : CoreId} {target : BitVec 15} {s : State} (h : s.Sorted) : OutcomeSorted (execJmp c target s) := coreOp_sorted h

theorem execCall_sorted {c : CoreId} {target : BitVec 15} {s : State} (h : s.Sorted) : OutcomeSorted (execCall c target s) := coreOp_sorted h

theorem execJr_sorted {c : CoreId} {a : BitVec 5} {s : State} (h : s.Sorted) : OutcomeSorted (execJr c a s) := coreOp_sorted h

theorem execRep_sorted {c : CoreId} {n : RepCount} {s : State} (h : s.Sorted) : OutcomeSorted (execRep c n s) := coreOp_sorted h

theorem execEndRun_sorted {c : CoreId} {s : State} (h : s.Sorted) : OutcomeSorted (execEndRun c s) :=
  .next (.issue (fun _ k => .ite .wait (.ok (.setCore k))) h)

theorem execRti_sorted {c : CoreId} {s : State} (h : s.Sorted) : OutcomeSorted (execRti c s) :=
  .next (.issue (fun _ k => .ite .fault (.ok (.setCore k))) h)

theorem execWdk_sorted {c : CoreId} {s : State} (h : s.Sorted) : OutcomeSorted (execWdk c s) :=
  .next (.issue (fun _ k => .ok (.ite k (.setCore k))) h)

theorem execMfs_sorted {c : CoreId} {d n : BitVec 5} {s : State} (h : s.Sorted) : OutcomeSorted (execMfs c d n s) :=
  .next (.issue (fun _ k => .ok (.setCore k)) h)

theorem State.Sorted.setSpecial {c n : Nat} {v : Word} {s : State} (h : s.Sorted) : (s.setSpecial c n v).Sorted := by
  unfold State.setSpecial
  dsimp only
  split
  · exact .setCore h
  · exact .setReg h
  · exact .setCore h
  · exact .setCore h
  · exact .setCore h
  · exact .setCore h
  · exact .setCore h
  · exact .ite (.setCore h) h

theorem execMts_sorted {c : CoreId} {n a : BitVec 5} {s : State} (h : s.Sorted) : OutcomeSorted (execMts c n a s) :=
  .next (.issue (fun _ k => .ok (.setSpecial k)) h)

theorem execHq_sorted {c : CoreId} {a : BitVec 5} {s : State} (h : s.Sorted) : OutcomeSorted (execHq c a s) :=
  .next (.issue (fun _ k => .ite .fault (.ite .wait (.ok (.setCore k)))) h)

theorem execHwait_sorted {c : CoreId} {s : State} (h : s.Sorted) : OutcomeSorted (execHwait c s) := .next (.issue (fun _ k => .ite (.ok k) .wait) h)

theorem execHrel_sorted {c : CoreId} {a : BitVec 5} {s : State} (h : s.Sorted) : OutcomeSorted (execHrel c a s) :=
  .next (.issue (fun _ k => .ite (.ok (.releaseAll (.setCore k))) (.ok k)) h)

theorem execSq_sorted {c : CoreId} {a b : BitVec 5} {s : State} (h : s.Sorted) : OutcomeSorted (execSq c a b s) :=
  .next (.issue (fun _ k => .ite .fault (.ite .wait (.ok (.setCore k)))) h)

theorem execRegisterWindowAnswer_sorted {c : CoreId} {s : State} (h : s.Sorted) : OutcomeSorted (execRegisterWindowAnswer c s) := by
  unfold execRegisterWindowAnswer
  dsimp only
  exact .next <| by
      split
      · exact h
      · exact .setCore (.readReg h)

/-! ### Commands -/

theorem State.Sorted.accesses {src : Source} {gen : Nat} {as : List (Nat × Option Word)} {vs : List Word} {cs : List Nat} {s : State}
    (h : s.Sorted) : (s.accesses src gen as vs cs).2.2.Sorted := by
  induction as generalizing vs cs s with
  | nil => exact h
  | cons x as ih =>
    obtain ⟨a, w⟩ := x
    unfold State.accesses
    split
    · exact h
    · cases w with
      | none => exact ih (.readReg h)
      | some v => exact ih (.writeReg h)

theorem State.Sorted.cmdRead {src : Source} {p : List Byte} {s : State} (h : s.Sorted) : (s.cmdRead src p).2.Sorted := .ite_snd h (.accesses h)

theorem State.Sorted.cmdWrite {src : Source} {p : List Byte} {s : State} (h : s.Sorted) : (s.cmdWrite src p).2.Sorted := .ite_snd h (.accesses h)

theorem State.Sorted.cmdNak {p : List Byte} {s : State} (h : s.Sorted) : (s.cmdNak p).2.Sorted := .ite_snd h (.ite_snd (.other h) (.bump (.other h)))

theorem State.Sorted.dropDump {s : State} (h : s.Sorted) : s.dropDump.Sorted := .each (.other h) fun _ _ => .txDrop

theorem State.Sorted.cmdLogreq {p : List Byte} {s : State} (h : s.Sorted) : (s.cmdLogreq p).2.Sorted := by
  unfold State.cmdLogreq
  dsimp only
  split
  · exact .logDump h
  · exact .queueMsg (.dropDump (.logDump h))

theorem State.Sorted.cmdAckDiverged {p : List Byte} {s : State} (h : s.Sorted) : (s.cmdAckDiverged p).2.Sorted := .ite_snd (.put h) h

theorem State.Sorted.cmdLock {src : Source} {session : Nat} {p : List Byte} {s : State} (h : s.Sorted) : (s.cmdLock src session p).2.Sorted := by
  unfold State.cmdLock
  dsimp only
  split
  · exact .lockPayload h
  · exact .lockPayload h

theorem State.Sorted.command {src : Source} {session ty : Nat} {p : List Byte} {s : State} (h : s.Sorted) :
    (s.command src session ty p).2.Sorted := by
  unfold State.command
  split
  · exact h
  · exact .cmdRead h
  · exact .cmdWrite h
  · exact .cmdNak h
  · exact .ite_snd (.cmdWake h) h
  · exact h
  · exact .cmdAckDiverged h
  · exact .cmdLock h
  · exact .cmdLogreq h
  · exact h

/-! ### HostPort -/

theorem State.Sorted.sendCmd {dst : Nat} {d : Datagram} {s : State} (h : s.Sorted) : (s.sendCmd dst d).Sorted := .ite h (.ownFrame (.ownFrame h))

theorem State.Sorted.forwardCmd {w : Waiting} {s : State} (h : s.Sorted) : (s.forwardCmd w).Sorted := .ite (.formResp (.put h)) (.sendCmd h)

theorem State.Sorted.runCmd {w : Waiting} {s : State} (h : s.Sorted) : (s.runCmd w).Sorted := .ite (.other h) (.formResp (.command h))

theorem State.Sorted.serveCmd {s : State} (h : s.Sorted) : s.serveCmd.Sorted := by
  unfold State.serveCmd
  dsimp only
  split
  · exact h
  · exact .ite h (.ite (.forwardCmd (.other h)) (.runCmd (.other h)))

theorem State.Sorted.serveCmds {s : State} (h : s.Sorted) : s.serveCmds.Sorted := .rxPause (.each h fun _ _ => .serveCmd)

theorem State.Sorted.takeCmd {dest : To} {origin seq ty : Nat} {p : List Byte} {s : State} (h : s.Sorted) :
    (s.takeCmd dest origin seq ty p).Sorted :=
  .serveCmds (.other (.wr h))

theorem State.Sorted.repeatCmd {seq : Nat} {s : State} (h : s.Sorted) : (s.repeatCmd seq).Sorted := by
  unfold State.repeatCmd
  dsimp only
  split
  · exact h
  · exact .other h

theorem State.Sorted.bySeq {dest : To} {origin seq ty : Nat} {p : List Byte} {s : State} (h : s.Sorted) :
    (s.bySeq dest origin seq ty p).Sorted :=
  .ite (.takeCmd h) (.ite (.repeatCmd h) (.rxDrop h))

theorem State.Sorted.hostCmd {dest : To} {session origin seq ty : Nat} {p : List Byte} {s : State} (h : s.Sorted) :
    (s.hostCmd dest session origin seq ty p).Sorted :=
  .ite (.rxDrop h) (.bySeq h)

theorem State.Sorted.dropBegun {s : State} (h : s.Sorted) : s.dropBegun.Sorted := .each (.each (.other h) fun _ _ => .sendRead) fun _ _ => .txDrop

theorem State.Sorted.openSession {mac : BitVec 48} {ip : Word} {port : Half} {tmo seq : Nat} {other : Bool} {s : State} (h : s.Sorted) :
    (s.openSession mac ip port tmo seq other).Sorted :=
  .event <| .other <| .log_ <| .linkTime <| .wr (.wr (.wr (.setReg (.wr (.wr (.wr (.rxPause (.other (.dropBegun (.endSession (.ite (.put h) h)))))))))))

theorem State.Sorted.answerStranger {dest : To} {seq code : Nat} {s : State} (h : s.Sorted) : (s.answerStranger dest seq code).Sorted :=
  .other (.fresh h)

theorem State.Sorted.hostConnect {mac : BitVec 48} {ip : Word} {port : Half} {seq : Nat} {p : List Byte} {s : State} (h : s.Sorted) :
    (s.hostConnect mac ip port seq p).Sorted :=
  .ite (.ite (.bySeq h) (.answerStranger h)) (.ite (.openSession h) (.answerStranger h))

theorem State.Sorted.uartAnswer {tag : Nat} {p : List Byte} {s : State} (h : s.Sorted) : (s.uartAnswer tag p).Sorted := .emit h

theorem State.Sorted.uartDump {tag : Nat} {bs : List Byte} {s : State} (h : s.Sorted) : (s.uartDump tag bs).Sorted := .each h fun _ _ => .emit

theorem State.Sorted.uartRun {x : Nat × Nat × List Byte} {s : State} (h : s.Sorted) : (s.uartRun x).Sorted := by
  unfold State.uartRun
  dsimp only
  exact .ite (.uartAnswer h)
      (by
         split
         · exact .ite (.other h) (.uartAnswer h)
         · split
           · exact .uartAnswer (.logDump h)
           · exact .uartDump (.uartAnswer (.logDump h))
         · exact .uartAnswer (.command h)
         · exact .uartAnswer (.command h)
         · exact .uartAnswer (.command h)
         · exact .uartAnswer (.command h)
         · exact .uartAnswer h)

theorem State.Sorted.uartServe {s : State} (h : s.Sorted) : s.uartServe.Sorted := by
  unfold State.uartServe
  dsimp only
  exact .each h
      fun _ _ k =>
        by
          split
          · exact .uartRun (.other k)
          · exact k

theorem State.Sorted.uartCmd {tag ty : Nat} {p : List Byte} {s : State} (h : s.Sorted) : (s.uartCmd tag ty p).Sorted :=
  .ite (.bump h) (.uartServe (.other h))

theorem State.Sorted.arrive {v : Via} {ty : Nat} {p : List Byte} {s : State} (h : s.Sorted) : (s.arrive v ty p).Sorted := by
  unfold State.arrive
  dsimp only
  exact .ite h
      (by
         split
         · exact .uartCmd h
         · exact .ite h (.ite (.rxDrop (.fecCount h)) (.ite (.hostConnect (.fecCount h)) (.hostCmd (.fecCount h)))))

theorem execConnect_sorted {v : Via} {p : List Byte} {s : State} (h : s.Sorted) : OutcomeSorted (execConnect v p s) := .next (.arrive h)

theorem execDisconnect_sorted {v : Via} {p : List Byte} {s : State} (h : s.Sorted) : OutcomeSorted (execDisconnect v p s) := .next (.arrive h)

theorem execRead_sorted {v : Via} {p : List Byte} {s : State} (h : s.Sorted) : OutcomeSorted (execRead v p s) := .next (.arrive h)

theorem execWrite_sorted {v : Via} {p : List Byte} {s : State} (h : s.Sorted) : OutcomeSorted (execWrite v p s) := .next (.arrive h)

theorem execFence_sorted {v : Via} {p : List Byte} {s : State} (h : s.Sorted) : OutcomeSorted (execFence v p s) := .next (.arrive h)

theorem execNak_sorted {v : Via} {p : List Byte} {s : State} (h : s.Sorted) : OutcomeSorted (execNak v p s) := .next (.arrive h)

theorem execWake_sorted {v : Via} {p : List Byte} {s : State} (h : s.Sorted) : OutcomeSorted (execWake v p s) := .next (.arrive h)

theorem execKeepalive_sorted {v : Via} {p : List Byte} {s : State} (h : s.Sorted) : OutcomeSorted (execKeepalive v p s) := .next (.arrive h)

theorem execAckDiverged_sorted {v : Via} {p : List Byte} {s : State} (h : s.Sorted) : OutcomeSorted (execAckDiverged v p s) := .next (.arrive h)

theorem execLockQuery_sorted {v : Via} {len : Half} {data : List Byte} {s : State} (h : s.Sorted) :
    OutcomeSorted (execLockQuery v len data s) :=
  .next (.arrive h)

theorem execLockChallenge_sorted {v : Via} {len : Half} {data : List Byte} {s : State} (h : s.Sorted) :
    OutcomeSorted (execLockChallenge v len data s) :=
  .next (.arrive h)

theorem execLockRespond_sorted {v : Via} {len : Half} {data : List Byte} {s : State} (h : s.Sorted) :
    OutcomeSorted (execLockRespond v len data s) :=
  .next (.arrive h)

theorem execLockPassword_sorted {v : Via} {len : Half} {data : List Byte} {s : State} (h : s.Sorted) :
    OutcomeSorted (execLockPassword v len data s) :=
  .next (.arrive h)

theorem execLockClose_sorted {v : Via} {len : Half} {data : List Byte} {s : State} (h : s.Sorted) :
    OutcomeSorted (execLockClose v len data s) :=
  .next (.arrive h)

theorem execLogreq_sorted {v : Via} {p : List Byte} {s : State} (h : s.Sorted) : OutcomeSorted (execLogreq v p s) := .next (.arrive h)

theorem execReservedTypeCommand_sorted {v : Via} {ty : Byte} {p : List Byte} {s : State} (h : s.Sorted) :
    OutcomeSorted (execReservedTypeCommand v ty p s) :=
  .next (.arrive h)

end Sys2Proof.Machine
end
-- ==== Sys2Proof/Proofs/SortedE.lean ====
section
/-! What each operation of the model's files Transmit to Step does keeps the stores in canonical form: one lemma per operation, composed
as its definition composes the operations below it. -/

namespace Sys2Proof.Machine

/-! ### Transmit -/

theorem State.Sorted.sendUp {dest : To} {d : Datagram} {s : State} (h : s.Sorted) : (s.sendUp dest d).Sorted := .emit (.other h)

theorem State.Sorted.nextMsgno {s : State} (h : s.Sorted) : s.nextMsgno.2.Sorted := .other h

theorem State.Sorted.sendReply {r : Reply} {s : State} (h : s.Sorted) : (s.sendReply r).Sorted := by
  unfold State.sendReply
  dsimp only
  exact .when
      (.when
         (.sendUp <| by
            split
            · exact h
            · exact .nextMsgno h) .other) .endSession

theorem State.Sorted.sendSegment {d : Datagram} {s : State} (h : s.Sorted) : (s.sendSegment d).Sorted := .ite (.sendUp (.wr (.other h))) (.sendUp h)

theorem State.Sorted.takeSend {m : TxItem} {s : State} (h : s.Sorted) : (s.takeSend m).2.Sorted := by
  unfold State.takeSend
  dsimp only
  split
  · exact .ite (.event h) (.ite (.event h) h)
  · exact .ite_snd (.status (.linkTime (.bump (.sendRead h)))) (.ite (.event h) (.ite (.event h) h))
  · exact h

theorem State.Sorted.setItem {k : Nat} {m : Option TxItem} {s : State} (h : s.Sorted) : (s.setItem k m).Sorted := .other h

theorem State.Sorted.discardItem {k : Nat} {m : TxItem} {count : State → State} {s : State}
    (hc : ∀ v : State, v.Sorted → (count v).Sorted) (h : s.Sorted) : (s.discardItem k m count).Sorted := by
  unfold State.discardItem
  dsimp only
  split
  · exact .when (.sendRead (.setItem h)) (hc _)
  · exact hc _ (.sendRead (.setItem h))

theorem State.Sorted.discardTurn {k : Nat} {m : TxItem} {count : State → State} {s : State}
    (hc : ∀ v : State, v.Sorted → (count v).Sorted) (h : s.Sorted) : (s.discardTurn k m count).Sorted := by
  have hm : (if m.off = 0 then s.takeSend m else (true, s)).2.Sorted := by
    split
    · exact .takeSend h
    · exact h
  exact .ite (.discardItem hc hm) (.setItem hm)

theorem State.Sorted.sendForeign {k : Nat} {m : TxItem} {d : Datagram} {s : State} (h : s.Sorted) : (s.sendForeign k m d).Sorted := by
  unfold State.sendForeign
  dsimp only
  exact .ite (.sendSegment (.other (.nextMsgno (.setItem h))))
      (by
         split
         · exact .sendSegment (.other (.setItem h))
         · exact .setItem h)

theorem State.Sorted.sendOwn {k : Nat} {m : TxItem} {s : State} (h : s.Sorted) : (s.sendOwn k m).Sorted := by
  unfold State.sendOwn
  dsimp only
  exact .ite (.setItem (.ite_snd (.takeSend h) h))
      (.when
         (.sendSegment <| .setItem <| by
            split
            · exact .ite_snd (.takeSend h) h
            · exact .nextMsgno (.ite_snd (.takeSend h) h)) .sendRead)

theorem State.Sorted.sendData {d : Datagram} {s : State} (h : s.Sorted) : (s.sendData d).Sorted := .ownFrame (.ownFrame (.other h))

theorem State.Sorted.sendRing {k : Nat} {m : TxItem} {s : State} (h : s.Sorted) : (s.sendRing k m).Sorted := by
  unfold State.sendRing
  dsimp only
  exact .ite (.discardTurn (fun _ => .bump) h)
      (.ite h
         (.ite (.setItem (.ite_snd (.takeSend h) h))
            (.when
               (.sendData <| .setItem <| by
                  split
                  · exact .ite_snd (.takeSend h) h
                  · exact .nextMsgno (.ite_snd (.takeSend h) h)) .sendRead)))

theorem State.Sorted.serveMessages {s : State} (h : s.Sorted) : s.serveMessages.Sorted := by
  unfold State.serveMessages
  split
  · exact h
  · exact .ite (.sendRing h)
        (.ite (.discardTurn (fun _ => .txDrop) h)
           (.ite h
              (by
                 split
                 · exact .sendForeign h
                 · exact .sendOwn h)))

theorem execDatagramSend_sorted {s : State} (h : s.Sorted) : OutcomeSorted (execDatagramSend s) := by
  unfold execDatagramSend
  dsimp only
  exact .next <| .ite h
      (by
         split
         · exact .sendReply (.other h)
         · exact .sendUp (.bump (.other h))
         · exact .formEvents (.serveMessages h))

theorem execStatusSummary_sorted {s : State} (h : s.Sorted) : OutcomeSorted (execStatusSummary s) := .next (.ite h (.queueMsg (.linkTime h)))

theorem State.Sorted.hostFence {s : State} (h : s.Sorted) : s.hostFence.Sorted := by
  unfold State.hostFence
  dsimp only
  exact .ite h
      (.serveCmds <| by
         split
         · exact .formResp (.other h)
         · exact .other h)

theorem State.Sorted.uartFenceDone {s : State} (h : s.Sorted) : s.uartFenceDone.Sorted := by
  unfold State.uartFenceDone
  dsimp only
  split
  · exact h
  · exact .uartServe (.uartAnswer (.other h))

/-! ### Hawser -/

theorem State.Sorted.ringAnswer {d : Datagram} {p : List Byte} {s : State} (h : s.Sorted) : (s.ringAnswer d p).Sorted :=
  .ite h (.ite (.bump h) (.sendData h))

theorem State.Sorted.ringRun {d : Datagram} {s : State} (h : s.Sorted) : (s.ringRun d).Sorted := .ite (.other h) (.ringAnswer (.command h))

theorem State.Sorted.ringServe {s : State} (h : s.Sorted) : s.ringServe.Sorted := by
  unfold State.ringServe
  dsimp only
  exact .each h
      fun _ _ k =>
        by
          split
          · exact .ringRun (.other k)
          · exact k

theorem State.Sorted.ringSession {session : Nat} {s : State} (h : s.Sorted) : (s.ringSession session).Sorted := .ite (.lockClose h) h

theorem State.Sorted.ringCmd {f : HwFrame} {d : Datagram} {s : State} (h : s.Sorted) : (s.ringCmd f d).Sorted := by
  unfold State.ringCmd
  dsimp only
  exact .ite (.bump h)
      (by
         split
         · exact .ite h (.diverged h)
         · exact .ringServe (.ringSession (.other h)))

theorem execHawserCmd_sorted {p : HwPort} {ok : Bool} {f : HwFrame} {s : State} (h : s.Sorted) : OutcomeSorted (execHawserCmd p ok f s) := by
  unfold execHawserCmd
  dsimp only
  exact .next <| by
      split
      · exact .ite (.hwTake h) (.ite (.ringCmd (.hwTake h)) (.hwSend (.hwTake h)))
      · exact .hwTake h

theorem execHawserData_sorted {p : HwPort} {ok : Bool} {f : HwFrame} {s : State} (h : s.Sorted) : OutcomeSorted (execHawserData p ok f s) := by
  unfold execHawserData
  dsimp only
  exact .next <| by
      split
      · exact .ite (.judge (.hwTake h)) (.ite (.hwTake h) (.hwSend (.hwTake h)))
      · exact .hwTake h

theorem State.Sorted.ringFence {s : State} (h : s.Sorted) : s.ringFence.Sorted := by
  unfold State.ringFence
  dsimp only
  split
  · exact h
  · exact .ringServe (.ringAnswer (.other h))

theorem execFenceAnswer_sorted {src : Source} {s : State} (h : s.Sorted) : OutcomeSorted (execFenceAnswer src s) := by
  unfold execFenceAnswer
  exact .next <| by
      split
      · exact .hostFence h
      · exact .ringFence h
      · exact .uartFenceDone h
      · exact h

/-! ### Lanyard -/

theorem State.Sorted.startLanyard {s : State} (h : s.Sorted) : s.startLanyard.Sorted := .lanyardFlag (.put (.other h))

theorem State.Sorted.refLocked {s : State} (h : s.Sorted) : s.refLocked.Sorted := .ite (.lanyardFlag (.put h)) (.unless (.put h) .startLanyard)

theorem execLanyardStart_sorted {s : State} (h : s.Sorted) : OutcomeSorted (execLanyardStart s) := .next (.ite h (.refLocked h))

theorem execPpsEdge_sorted {sub : Byte} {s : State} (h : s.Sorted) : OutcomeSorted (execPpsEdge sub s) :=
  .next (.ite h (.ite (.setPair h) (.ite (.setPair (.startLanyard h)) h)))

theorem execPpsMiss_sorted {s : State} (h : s.Sorted) : OutcomeSorted (execPpsMiss s) := .next (.ite (.raise h) h)

theorem execLyRefLoss_sorted {s : State} (h : s.Sorted) : OutcomeSorted (execLyRefLoss s) :=
  .next (.unless (.ite h (.other h)) fun k => .unless (.lanyardFlag (.put k)) .source)

theorem execLyRefReturn_sorted {s : State} (h : s.Sorted) : OutcomeSorted (execLyRefReturn s) := .next (.unless (.other h) .refLocked)

theorem State.Sorted.lanyardLost {s : State} (h : s.Sorted) : s.lanyardLost.Sorted :=
  .when (.other (.lanyardFlag (.unless (.raise h) .lanyardLog))) .source

theorem State.Sorted.steer {delay offset : Int} {old : Option Int} {apart : Int} {s : State} (h : s.Sorted) :
    (s.steer delay offset old apart).Sorted :=
  .ite (.when (.other (.wr (.wr h))) .lanyardLost) (.when (.other (.put (.other (.wr (.wr h))))) .lanyardFlag)

theorem State.Sorted.lnyDone {p : HwPort} {t1 t2 t3 t4 : Int} {hops : Nat} {asym apart : Int} {s : State} (h : s.Sorted) :
    (s.lnyDone p t1 t2 t3 t4 hops asym apart).Sorted :=
  .when (.retime (.setHw h)) .steer

theorem execLny_sorted {p : HwPort} {x : LnyIn} {s : State} (h : s.Sorted) : OutcomeSorted (execLny p x s) := by
  unfold execLny
  exact .next <| .ite h
      (by
         split
         · exact .ite h (.emit h)
         · exact .lnyDone h)

theorem execLnySend_sorted {s : State} (h : s.Sorted) : OutcomeSorted (execLnySend s) := .next (.each h fun _ _ k => .ite (.emit k) k)

theorem execHoldoverExpiry_sorted {s : State} (h : s.Sorted) : OutcomeSorted (execHoldoverExpiry s) := .next (.ite (.lanyardLost h) h)

/-! ### Dispatch -/

theorem exec_sorted {i : Instr} {s : State} (h : s.Sorted) : OutcomeSorted (exec i s) := by
  cases i with
  | add => exact execAdd_sorted h
  | sub => exact execSub_sorted h
  | and => exact execAnd_sorted h
  | or => exact execOr_sorted h
  | xor => exact execXor_sorted h
  | shl => exact execShl_sorted h
  | shr => exact execShr_sorted h
  | sra => exact execSra_sorted h
  | shli => exact execShli_sorted h
  | shri => exact execShri_sorted h
  | srai => exact execSrai_sorted h
  | slt => exact execSlt_sorted h
  | sltu => exact execSltu_sorted h
  | min => exact execMin_sorted h
  | max => exact execMax_sorted h
  | mul => exact execMul_sorted h
  | addi => exact execAddi_sorted h
  | andi => exact execAndi_sorted h
  | ori => exact execOri_sorted h
  | xori => exact execXori_sorted h
  | slti => exact execSlti_sorted h
  | lui => exact execLui_sorted h
  | ldb => exact execLdb_sorted h
  | ldbu => exact execLdbu_sorted h
  | ldh => exact execLdh_sorted h
  | ldhu => exact execLdhu_sorted h
  | ldw => exact execLdw_sorted h
  | stb => exact execStb_sorted h
  | sth => exact execSth_sorted h
  | stw => exact execStw_sorted h
  | vld => exact execVld_sorted h
  | vst => exact execVst_sorted h
  | cadd => exact execCadd_sorted h
  | vadd => exact execVadd_sorted h
  | vsub => exact execVsub_sorted h
  | vadds => exact execVadds_sorted h
  | vmin => exact execVmin_sorted h
  | vmax => exact execVmax_sorted h
  | vabs => exact execVabs_sorted h
  | vand => exact execVand_sorted h
  | vor => exact execVor_sorted h
  | vxor => exact execVxor_sorted h
  | vshli => exact execVshli_sorted h
  | vsrai => exact execVsrai_sorted h
  | vbc => exact execVbc_sorted h
  | vget => exact execVget_sorted h
  | vput => exact execVput_sorted h
  | vcgt => exact execVcgt_sorted h
  | vcgts => exact execVcgts_sorted h
  | vmov => exact execVmov_sorted h
  | vmul => exact execVmul_sorted h
  | vmac => exact execVmac_sorted h
  | vmsc => exact execVmsc_sorted h
  | vmacs => exact execVmacs_sorted h
  | vadda => exact execVadda_sorted h
  | vsuba => exact execVsuba_sorted h
  | aclr => exact execAclr_sorted h
  | vnrw => exact execVnrw_sorted h
  | asum => exact execAsum_sorted h
  | amovl => exact execAmovl_sorted h
  | amovh => exact execAmovh_sorted h
  | amovx => exact execAmovx_sorted h
  | aset => exact execAset_sorted h
  | vdmac => exact execVdmac_sorted h
  | beq => exact execBeq_sorted h
  | bne => exact execBne_sorted h
  | blt => exact execBlt_sorted h
  | bge => exact execBge_sorted h
  | bltu => exact execBltu_sorted h
  | bgeu => exact execBgeu_sorted h
  | jmp => exact execJmp_sorted h
  | call => exact execCall_sorted h
  | jr => exact execJr_sorted h
  | rep => exact execRep_sorted h
  | endRun => exact execEndRun_sorted h
  | rti => exact execRti_sorted h
  | wdk => exact execWdk_sorted h
  | mfs => exact execMfs_sorted h
  | mts => exact execMts_sorted h
  | hq => exact execHq_sorted h
  | hwait => exact execHwait_sorted h
  | hrel => exact execHrel_sorted h
  | sq => exact execSq_sorted h
  | registerWindowAnswer => exact execRegisterWindowAnswer_sorted h
  | interruptEntry => exact execInterruptEntry_sorted h
  | timerMatch => exact execTimerMatch_sorted h
  | endRetire => exact execEndRetire_sorted h
  | drainComplete => exact execDrainComplete_sorted h
  | jobStart => exact execJobStart_sorted h
  | watchdogExpiry => exact execWatchdogExpiry_sorted h
  | haulDescriptorBegin => exact execHaulDescriptorBegin_sorted h
  | haulDescriptorEnd => exact execHaulDescriptorEnd_sorted h
  | coreCmdAbort => exact execCoreCmdAbort_sorted h
  | coreDoor => exact execCoreDoor_sorted h
  | coreImdAccess => exact execCoreImdAccess_sorted h
  | coreDmdatAccess => exact execCoreDmdatAccess_sorted h
  | launch => exact execLaunch_sorted h
  | firstGapTick => exact execFirstGapTick_sorted h
  | setpointIdleStep => exact execSetpointIdleStep_sorted h
  | repeatRunStart => exact execRepeatRunStart_sorted h
  | quietDecision => exact execQuietDecision_sorted h
  | gapRunCommit => exact execGapRunCommit_sorted h
  | stackClose => exact execStackClose_sorted h
  | rangeEvaluation => exact execRangeEvaluation_sorted h
  | handOver => exact execHandOver_sorted h
  | presenceEval => exact execPresenceEval_sorted h
  | monitorEnergyEval => exact execMonitorEnergyEval_sorted h
  | deratingUpdate => exact execDeratingUpdate_sorted h
  | strandStart => exact execStrandStart_sorted h
  | strandStop => exact execStrandStop_sorted h
  | strandCmdAbort => exact execStrandCmdAbort_sorted h
  | foldCmdSnap => exact execFoldCmdSnap_sorted h
  | foldCmdRestart => exact execFoldCmdRestart_sorted h
  | foldRel => exact execFoldRel_sorted h
  | gapcalCmdAbort => exact execGapcalCmdAbort_sorted h
  | gapcalCmdCommit => exact execGapcalCmdCommit_sorted h
  | autoCommit => exact execAutoCommit_sorted h
  | commitAttemptEnd => exact execCommitAttemptEnd_sorted h
  | calHeldWrite => exact execCalHeldWrite_sorted h
  | startCalibrationEnd => exact execStartCalibrationEnd_sorted h
  | monitorStart => exact execMonitorStart_sorted h
  | monitorFirstDecision => exact execMonitorFirstDecision_sorted h
  | monitorStrobeEnd => exact execMonitorStrobeEnd_sorted h
  | monitorEdge => exact execMonitorEdge_sorted h
  | filterBoundary => exact execFilterBoundary_sorted h
  | pcMonitorSample => exact execPcMonitorSample_sorted h
  | clamp => exact execClamp_sorted h
  | pcExcImm => exact execPcExcImm_sorted h
  | pcCmdIcal => exact execPcCmdIcal_sorted h
  | icalEnd => exact execIcalEnd_sorted h
  | pcCmdSysz => exact execPcCmdSysz_sorted h
  | pcCmdSyss => exact execPcCmdSyss_sorted h
  | pcCmdSysclr => exact execPcCmdSysclr_sorted h
  | pcvalTimeout => exact execPcvalTimeout_sorted h
  | connect => exact execConnect_sorted h
  | disconnect => exact execDisconnect_sorted h
  | read => exact execRead_sorted h
  | write => exact execWrite_sorted h
  | fence => exact execFence_sorted h
  | fenceAnswer => exact execFenceAnswer_sorted h
  | nak => exact execNak_sorted h
  | wake => exact execWake_sorted h
  | keepalive => exact execKeepalive_sorted h
  | ackDiverged => exact execAckDiverged_sorted h
  | lockQuery => exact execLockQuery_sorted h
  | lockChallenge => exact execLockChallenge_sorted h
  | lockRespond => exact execLockRespond_sorted h
  | lockPassword => exact execLockPassword_sorted h
  | lockClose => exact execLockClose_sorted h
  | logreq => exact execLogreq_sorted h
  | rxDiscard => exact execRxDiscard_sorted h
  | arpRequest => exact execArpRequest_sorted h
  | pauseFrame => exact execPauseFrame_sorted h
  | pauseExpiry => exact execPauseExpiry_sorted h
  | pauseRepeat => exact execPauseRepeat_sorted h
  | datagramSend => exact execDatagramSend_sorted h
  | eventMessageTimeout => exact execEventMessageTimeout_sorted h
  | statusSummary => exact execStatusSummary_sorted h
  | sessionTimeout => exact execSessionTimeout_sorted h
  | linkUp => exact execLinkUp_sorted h
  | linkDown => exact execLinkDown_sorted h
  | hawserPortUp => exact execHawserPortUp_sorted h
  | hawserPortDown => exact execHawserPortDown_sorted h
  | topoSend => exact execTopoSend_sorted h
  | topo => exact execTopo_sorted h
  | topoAck => exact execTopoAck_sorted h
  | positionAbsent => exact execPositionAbsent_sorted h
  | hawserData => exact execHawserData_sorted h
  | hawserCmd => exact execHawserCmd_sorted h
  | hawserAck => exact execHawserAck_sorted h
  | hawserRetry => exact execHawserRetry_sorted h
  | replayTimeout => exact execReplayTimeout_sorted h
  | pathBHoldExpiry => exact execPathBHoldExpiry_sorted h
  | lnySend => exact execLnySend_sorted h
  | lny => exact execLny_sorted h
  | holdoverExpiry => exact execHoldoverExpiry_sorted h
  | lanyardStart => exact execLanyardStart_sorted h
  | ppsEdge => exact execPpsEdge_sorted h
  | ppsMiss => exact execPpsMiss_sorted h
  | lyRefLoss => exact execLyRefLoss_sorted h
  | lineDetect => exact execLineDetect_sorted h
  | lineRemoved => exact execLineRemoved_sorted h
  | classQuery => exact execClassQuery_sorted h
  | classRequest => exact execClassRequest_sorted h
  | grant => exact execGrant_sorted h
  | startThreshold => exact execStartThreshold_sorted h
  | powerGood => exact execPowerGood_sorted h
  | poweringTimeout => exact execPoweringTimeout_sorted h
  | lossOfInput => exact execLossOfInput_sorted h
  | holdupExpiry => exact execHoldupExpiry_sorted h
  | rstNReset => exact execRstNReset_sorted h
  | bootComplete => exact execBootComplete_sorted h
  | selfTestEnd => exact execSelfTestEnd_sorted h
  | armedToRunning => exact execArmedToRunning_sorted h
  | bootCmdRun => exact execBootCmdRun_sorted h
  | bootCmdHold => exact execBootCmdHold_sorted h
  | bootCmdResume => exact execBootCmdResume_sorted h
  | bootCmdWatch => exact execBootCmdWatch_sorted h
  | bootCmdSwrst => exact execBootCmdSwrst_sorted h
  | watchEntry => exact execWatchEntry_sorted h
  | watchTimerExpiry => exact execWatchTimerExpiry_sorted h
  | wakeComplete => exact execWakeComplete_sorted h
  | bootFcmdErase => exact execBootFcmdErase_sorted h
  | bootFcmdProgram => exact execBootFcmdProgram_sorted h
  | bootFcmdRead => exact execBootFcmdRead_sorted h
  | bootFdataWrite => exact execBootFdataWrite_sorted h
  | flashOperationEnd => exact execFlashOperationEnd_sorted h
  | safetyFault => exact execSafetyFault_sorted h
  | safetyFaultClear => exact execSafetyFaultClear_sorted h
  | safetyTestInj => exact execSafetyTestInj_sorted h
  | safeHbToggle => exact execSafeHbToggle_sorted h
  | configSweepPass => exact execConfigSweepPass_sorted h
  | clockFault => exact execClockFault_sorted h
  | railFault => exact execRailFault_sorted h
  | tempMeasure => exact execTempMeasure_sorted h
  | logCmdFreeze => exact execLogCmdFreeze_sorted h
  | logMark => exact execLogMark_sorted h
  | freezeBegin => exact execFreezeBegin_sorted h
  | freezeEnd => exact execFreezeEnd_sorted h
  | lockOpenTimeout => exact execLockOpenTimeout_sorted h
  | lockoutEnd => exact execLockoutEnd_sorted h
  | nonceExpiry => exact execNonceExpiry_sorted h
  | registerWrite => exact execRegisterWrite_sorted h
  | sampleTick => exact execSampleTick_sorted h
  | channelReady => exact execChannelReady_sorted h
  | monitorStrobeStart => exact execMonitorStrobeStart_sorted h
  | clampEnd => exact execClampEnd_sorted h
  | lyRefReturn => exact execLyRefReturn_sorted h
  | poweringRetry => exact execPoweringRetry_sorted h
  | reservedTypeCommand => exact execReservedTypeCommand_sorted h
  | lockoutSecond => exact execLockoutSecond_sorted h
  | ackSend => exact execAckSend_sorted h

/-! ### Step -/

theorem step_sorted {s : State} (h : s.Sorted) : OutcomeSorted (step s) := by
  unfold step
  split
  · exact .next h
  · exact exec_sorted (.other h)

/-- Settles O58: every command composes operations each of which keeps the stores in canonical form. -/
theorem storesSorted : Obligations.StoresSorted := by
  intro s t hs h
  have ht := step_sorted (s.sorted_iff.1 hs)
  rw [h] at ht
  exact t.sorted_iff.2 ht

end Sys2Proof.Machine
end
